-- ==== Sys2Proof/Word.lean ====
section
/-! DEFINITION. The word types of the PX9600-G and nothing else: registers and engine words are 32 bits,
memory cells are bytes (R6, R7). -/

namespace Sys2Proof

/-- A 32-bit register or engine word. -/
abbrev Word := BitVec 32

/-- A byte of memory. -/
abbrev Byte := BitVec 8

end Sys2Proof
end

