-- ==== Sys2Proof/Syntax.lean ====
section
/-! DEFINITION. The commands of the PX9600-G: one constructor of `Instr` for each row of spec/opcode_table.json, with the
operands that the sender of the command supplies: who asks, which instance, the value written, and what the pins, the
partners and the die's physical surroundings present in that step. -/

namespace Sys2Proof

/-- A requester on the on-die buses (R24). -/
inductive Req where
  | dp (d : Fin 12)
  | hst
  | dbg
  | refuge
  | eng (e : Fin 96)
  deriving DecidableEq, Repr

/-- An atomic operation that another engine issues in the same CCLK as a group (R231): its kind (0 atswap, 1 atadd, 2 atcas), operands,
and what its access meets. -/
structure GroupRival where
  op : Fin 3
  e : Fin 96
  rd : Fin 32
  rs : Fin 32
  rt : Fin 32
  parity : Bool
  ecc : Fin 4
  deriving DecidableEq, Repr

/-- What an access to memory meets on its way: a parity error on the bus (R296), the condition of the word: 0 as stored, 1 a
new single-bit error, 2 a new double-bit error, 3 a new tag failure in DRAM (R294, R301); and the ranges of device addresses
(first, bytes) that other requesters write in the same CCLK (R230, R302); for a group, the atomic operations of that CCLK (R231). -/
structure MemEnv where
  parity : Bool
  ecc : Fin 4
  rivals : List (Req × Nat × Nat)
  atomics : List GroupRival
  deriving DecidableEq, Repr

/-- An atomic operation that another engine issues in the same CCLK (R231): its kind (0 atswap, 1 atadd, 2 atcas) and operands. -/
structure Atomic where
  op : Fin 3
  e : Fin 96
  rd : Fin 32
  rs : Fin 32
  rt : Fin 32
  v : MemEnv
  deriving DecidableEq, Repr

/-- What a tamper monitor sees in a tick of main power (R368 to R372): light in a region (µW/mm², for ns), a supply's level (mV, for
ns), a supply's excursion (per mille of nominal, for ps), a CCLK period with its phases (ps), the reference's offset (ppm), a
gap of the RTC oscillator (µs), the two temperature sensors (°C + 100), mesh lines that stand at a level at a segment's far end,
the ENC inputs, the level at an XM input. `on`: the condition lasts. -/
inductive MonEvent where
  | light (r : Fin 16) (level ns : Nat) (on : Bool)
  | supply (k : Fin 8) (mv ns : Nat) (on : Bool)
  | dip (k : Fin 4) (permille ps : Nat)
  | period (ps high low : Nat)
  | reference (ppm : Nat) (on : Bool)
  | rtcGap (us : Nat) (on : Bool)
  | temps (a b : BitVec 8)
  | mesh (s : Fin 8) (mask val : BitVec 64)
  | enc (levels : BitVec 4)
  | xm (p : Fin 2) (level : Bool)
  deriving DecidableEq, Repr

/-- What the pins and the die present to the device at a tick. `pitErr` names the terms of the active trip logic bank
that SECDED finds uncorrectable in this tick's read (R79); `tfb` the TFB levels (R82); `padTop` and `padTon` the levels
at pads that an outside fault forces (mask, value) (R81); `ext10` the rate of the 10 MHz input against the nominal CCLK
in 2^-8 ppb (R35, R43); `tamperEnd` the tamper conditions that have ended since the tick before (R366); `temp` and `refPpm` what
the temperature sensors and the reference clock comparison read (R524, R535); `mon` what the tamper monitors see. -/
structure TickEnv where
  pitErr : List (Fin 256)
  tfb : BitVec 64
  padTopMask : BitVec 64
  padTopVal : BitVec 64
  padTonMask : BitVec 64
  padTonVal : BitVec 64
  ext10 : Int
  tamperEnd : BitVec 64
  temp : BitVec 8
  refPpm : BitVec 16
  mon : List MonEvent
  deriving DecidableEq, Repr

/-- An IRIG-B frame as the decoder receives it (R39): the input it came on, its coded expression, whether every marker
stands in its position, and the BCD fields. -/
structure IrigFrame where
  amplitude : Bool
  expr : Fin 8
  markersOk : Bool
  sec : Nat
  min : Nat
  hour : Nat
  day : Nat
  year : Nat
  deriving DecidableEq, Repr

/-- The security extension of a GOOSE or SV frame as IEC 62351-6 places it (R133): key identifier, initialisation vector,
the authenticated span and the tag as positions in the frame. -/
structure SecExt where
  keyId : Word
  iv : List Byte
  spanOff : Nat
  spanLen : Nat
  tagOff : Nat
  tagLen : Nat
  deriving DecidableEq, Repr

/-- What CNV captures of a lane in training (R181): the bits of the frames of the search for the alignment, and at each capture tap those
of the frames checked, bit 0 captured last. -/
structure CnvCapture where
  search : List (BitVec 64)
  taps : List (List (BitVec 64))
  deriving DecidableEq, Repr

/-- What the bytes of a GOOSE or SV frame say under the encodings of IEC 61850-8-1 and IEC 61869-9, which the spec cites
and does not repeat (R123, R127): the identifying string, the counters (none where an error in the frame left one without a
value), the simulation bit, the first 16 data bits, the
offset of the first length, tag or structure error in the key part and anywhere, the position of the APDU, the security
extension, and for SV the samples of each ASDU by channel with the verdict whether their quality is good. -/
structure FrameMeta where
  name : Option (List Byte)
  keyBad : Option Nat
  bad : Option Nat
  stNum : Option Nat
  sqNum : Option Nat
  smpCnt : Option Nat
  noASDU : Nat
  sim : Bool
  data : BitVec 16
  apduOff : Nat
  apduLen : Nat
  sec : Option SecExt
  samples : List (List (Int × Bool))
  deriving DecidableEq, Repr

/-- A frame on the wire: its bytes from the destination address through the FCS; how long before the command, in 1/8 ns,
its first bit crossed the pins; whether its first byte had arrived before a drain began (R111); what the PCS counted since
the frame before it (R97); its contents under the cited standards. -/
structure RxFrame where
  bytes : List Byte
  age : Nat
  begun : Bool
  fecCorr : Nat
  fecUncorr : Nat
  symErr : Nat
  info : FrameMeta
  deriving DecidableEq, Repr

/-- The condition of a sub-port's link as the PCS and the auto-negotiation see it (R93, R113): lanes locked, alignment,
auto-negotiation and training complete, faults, high symbol error rate, the technologies a partner in negotiation offers (bits
as in `Dev.techAbility`, 0 while none does), lanes that failed training. -/
structure LinkEnv where
  lock : BitVec 4
  align : Bool
  anDone : Bool
  trained : Bool
  localFault : Bool
  remoteFault : Bool
  hiSer : Bool
  partner : BitVec 5
  failed : BitVec 4
  deriving DecidableEq, Repr

/-- An image that a manifest lists (R349): load address as a device address, data, digest. -/
structure Image where
  load : Nat
  data : List Byte
  digest : List Byte
  deriving DecidableEq, Repr

/-- A manifest as flash or a recovery image holds it (R349): the 128 header bytes, what they say (the spec does not place
the fields in them), the SLH-DSA public key, parameter set and signature. `wide` gives CODEATTR by engine. -/
structure Manifest where
  header : List Byte
  version : Nat
  uid : List Byte
  role : Nat
  wide : List (Nat × Nat)
  images : List Image
  pk : List Byte
  set : Nat
  sig : List Byte
  deriving DecidableEq, Repr

/-- What stands around a signed command (R356, R358): the public key in flash, the vendor key hashes that provisioning
writes, the blocks of the owner and data flash regions, after how many progress marks of a transition the power fails, and
whether it fails while the next mark is being programmed. -/
structure CmdEnv where
  pk : List Byte
  hashes : List (List Byte)
  regions : List Nat
  cut : Option Nat
  torn : Bool := false
  deriving DecidableEq, Repr

/-- A write of a register by the Refuge: page, offset, value. -/
structure RegWrite where
  page : Nat
  off : Nat
  value : Word
  deriving DecidableEq, Repr

/-- What base camp finds at a start (R347 to R350): whether the Warden self-test, the ROM digest check and the TRN start-up
tests pass; what stands around a transition to resume; the blocks of the system regions of its manifest layout, with
whether they hold Refuge firmware, and those whose re-erase fails (R402); the firmware manifest; the registers that the
Refuge writes; the die regions with a light sensor that failed its start-up self-test (R368); after how many entries of the backup log's copy the power fails (R382), and
the flash lines whose program does not verify (R394). -/
structure BaseEnv where
  lockstep : Bool
  rom : Bool
  trn : Bool
  cmd : CmdEnv
  sysBlocks : List (Nat × Bool)
  eraseFails : List Nat
  fw : Manifest
  writes : List RegWrite
  light : BitVec 16
  copyCut : Option Nat
  failLines : List Nat
  deriving DecidableEq, Repr

/-- A record card as it answers (R433, R437): the echo of CMD8, whether ACMD41 reports ready, CCS and S18A, the voltage
switch, CID, CSD and SCR, capacity in blocks, speed modes that CMD6 reports and those whose readback differs (bit by code),
tuning, CMD13, the WP pin, its content by block. -/
structure Card where
  echo : Option Nat
  ready : Bool
  ccs : Bool
  s18a : Bool
  switchOk : Bool
  cid : Nat
  csd : Nat
  scr : Nat
  cap : Nat
  modes : Nat
  badModes : Nat
  tunes : Bool
  confirms : Bool
  wp : Bool
  content : List (Nat × List Byte)
  deriving DecidableEq, Repr

/-- A contactless tag in the field (R451, R452): type B or A, UID or PUPI, ATQA, SAK, whether its BCC fails or its SAK
contradicts its cascade level, application data and protocol info of an ATQB. -/
structure NfcTag where
  typeB : Bool
  uid : List Byte
  atqa : Nat
  sak : Nat
  bad : Bool
  app : Nat
  info : List Byte
  deriving DecidableEq, Repr

/-- A flit on an Isdin link (R482), with the verdict of its CRC. -/
structure Flit where
  kind : Nat
  vc : Nat
  first : Bool
  last : Bool
  dstPos : Nat
  srcPos : Nat
  resent : Bool
  lseq : Nat
  ack : Nat
  credits : Nat
  dst : Nat
  src : Nat
  queue : Nat
  hops : Nat
  payload : List Byte
  crcOk : Bool
  deriving DecidableEq, Repr

/-- A command the hardware's surroundings or a requester sends. -/
inductive Instr where
  /-- TICK (R48): TIM issues a tick when the counter's integer part reaches a multiple of 50 ns, and every block that samples, stamps or orders acts at it. -/
  | tick (env : TickEnv)
  /-- ORB_COAST_EXPIRY (R57): After coast_cycles cycles in COAST the tracker reverts to NOMINAL and raises its event. -/
  | orbCoastExpiry (n : Fin 4)
  /-- TOU_HOLD_EXPIRY (R80): An output's hold runs out and the output de-energises unless still demanded or latched. -/
  | touHoldExpiry (n : Fin 64)
  /-- BI_QUIET_EXPIRY (R76): A blocked input with no raw change for the quiet period is unblocked and raises EV1011. -/
  | biQuietExpiry (n : Fin 128)
  /-- BI_EDGE (R75): The input flop registers a raw transition on a binary input pin. -/
  | biEdge (n : Fin 128) (l : Bool) (off : Nat)
  /-- ALARM_RESET_ASSERT (R87): The alarm reset is asserted once no trip output remains energised by an earlier demand, or at the latest after 65,535 × 10 µs. -/
  | alarmResetAssert
  /-- DEADLINE_EXPIRY (R271): A running release passes its deadline, latches EV(106 + c), writes record 0x8012 and may make cause 0x11 pending. -/
  | deadlineExpiry (c : Fin 12) (entry : Fin 64)
  /-- LOCK_CLAIM (R26): A requester writes its own ID to LOCK and owns the block if it was free. -/
  | lockClaim (r : Req) (page : Fin 1024) (rivals : List Req)
  /-- LOCK_RELEASE (R26): The owner or the Refuge writes 0xFF to LOCK and frees the block. -/
  | lockRelease (r : Req) (page : Fin 1024)
  /-- LOCK_CLEAR_COMPLETE (R27): The clear of key registers and operand memories after a change of owner ends and the new owner's accesses are accepted. -/
  | lockClearComplete (page : Fin 1024)
  /-- CTRL_ENABLE (R28): A write of CTRL.enable = 1 enables the block, or holds the enable pending while a drain lasts. -/
  | ctrlEnable (r : Req) (page : Fin 1024)
  /-- CTRL_DISABLE (R29): A write of CTRL.enable = 0 disables the block or cancels a pending enable. -/
  | ctrlDisable (r : Req) (page : Fin 1024)
  /-- CTRL_DRAIN (R542): A write of CTRL.drain = 1 disables the block and starts its drain. -/
  | ctrlDrain (r : Req) (page : Fin 1024)
  /-- DRAIN_COMPLETE (R28): A drain ends, draining clears, and a pending enable takes effect in the same cycle. -/
  | drainComplete (page : Fin 1024) (queue : Option (Fin 16384))
  /-- SOFT_RESET (R288): A write of CTRL.soft_reset = 1 returns the page's registers to reset, changes the LOCK owner and ends the block's operations as R546 fixes. -/
  | softReset (r : Req) (page : Fin 1024)
  /-- SOFT_RESET_COMPLETE (R288): The soft reset completes and the page stops answering ST_BUSY. -/
  | softResetComplete (page : Fin 1024)
  /-- IRQ_SET_WRITE (R287): A write of 1 to an IRQ_SET bit sets the matching IRQ_STAT bit. -/
  | irqSetWrite (r : Req) (page : Fin 1024) (v : Word)
  /-- REGISTER_WRITE (R285): A write to a register that has no row of its own is checked against WORLD_ACC and the block's rules and taken, ignored or refused. -/
  | registerWrite (r : Req) (page : Fin 1024) (off : Fin 4096) (v : Word) (at_ : Fin 64) (rivals : List Req) (parity : Bool) (upset : Word)
  /-- LATCHED_PAIR_READ (R49): A read of the low word of a register pair returns it and latches the high word. -/
  | latchedPairRead (r : Req) (page : Fin 1024) (off : Fin 4096) (c : Nat)
  /-- READ_CLEAR_READ (R7): A read of an RC field returns its value and clears it. -/
  | readClearRead (r : Req) (page : Fin 1024) (off : Fin 4096)
  /-- SHADOW_CHECK (R289): The page's periodic check compares every shadowed register with its inverted copy and reports new mismatches. -/
  | shadowCheck (page : Fin 1024) (hits : List (Fin 4096 × Word))
  /-- RECORD_HELD_RELEASE (R545): A held violation record is written at the first tick at least one second after the previous record of its code and unit. -/
  | recordHeldRelease (code : BitVec 16) (unit : BitVec 32)
  /-- PPS_EDGE (R38): A 1PPS edge is captured into TIM_PPS_CAP and its interval qualifies or disqualifies 1PPS. -/
  | ppsEdge (rising : Bool) (off : Nat)
  /-- PPS_EDGE_TIMEOUT (R38): No 1PPS edge within 1.1 s disqualifies a qualified 1PPS and raises EV0646. -/
  | ppsEdgeTimeout
  /-- IRIG_FRAME (R39): A received IRIG-B frame is decoded to TAI, checked and used to qualify or disqualify IRIG-B. -/
  | irigFrame (f : IrigFrame) (off : Nat)
  /-- IRIG_FRAME_TIMEOUT (R39): No IRIG-B frame for 2.5 s disqualifies IRIG-B. -/
  | irigFrameTimeout
  /-- EXT10_LOSS (R62): The 10 MHz input is lost while TIM_CFG.ext10_en is 1, raising EV0650. -/
  | ext10Loss
  /-- TIM_SERVO_WRITE (R40): A write to TIM_SERVO sets lock and PTP qualification and refreshes the servo heartbeat. -/
  | timServoWrite (r : Req) (v : Word)
  /-- SERVO_HEARTBEAT_EXPIRY (R40): No TIM_SERVO write for 3 s clears ptp_qual and locked in the same tick. -/
  | servoHeartbeatExpiry
  /-- SOURCE_REVERT_EXPIRY (R37): A higher-priority source qualified for revert_s seconds displaces the active source. -/
  | sourceRevertExpiry
  /-- HOLD_LIMIT_EXPIRY (R42): HOLDOVER lasting hold_limit seconds enters HOLD_EXPIRED and raises EV0642. -/
  | holdLimitExpiry
  /-- TIM_PHASE_ADJ_WRITE (R44): A write to TIM_PHASE_ADJ replaces the phase remainder to be slewed. -/
  | timPhaseAdjWrite (r : Req) (v : Word)
  /-- TIM_STEP_WRITE (R45): A write to TIM_STEP schedules a forward step, refuses a negative one, or turns it into a slew before the first lock. -/
  | timStepWrite (r : Req) (v : Word)
  /-- TIM_SET_COMMIT (R46): A write to TIM_SET_HI commits an absolute set of the counter, accepted only before the first lock. -/
  | timSetCommit (r : Req) (v : Word)
  /-- TIM_SNAP_REQUEST (R62): A write of TIM_SNAP.req clears valid and requests a capture at the next tick. -/
  | timSnapRequest (r : Req)
  /-- ORB_START (R52): A write setting ORBn_CFG.run starts the tracker at 0:0 in ACQUIRE at the next tick. -/
  | orbStart (r : Req) (n : Fin 4) (v : Word)
  /-- ORB_STOP (R52): A write clearing ORBn_CFG.run sends the tracker to IDLE at the next tick holding its position. -/
  | orbStop (r : Req) (n : Fin 4) (v : Word)
  /-- ORB_OFFSET_WRITE (R543): A write to ORBn_OFFSET moves the position forward, or holds it until the new position catches up. -/
  | orbOffsetWrite (r : Req) (n : Fin 4) (v : BitVec 16)
  /-- ORB_CMP_WRITE (R61): A write of ORB_CMPk arms the comparator from the next tick. -/
  | orbCmpWrite (r : Req) (k : Fin 16) (v : Word)
  /-- EVM_RAISE (R68): A write to EVM_RAISE raises an owned source or is refused, and repeated raises before the tick return ST_DUPLICATE. -/
  | evmRaise (r : Req) (tag : BitVec 16) (src : Fin 1024)
  /-- EVM_SNAPSHOT_REQUEST (R65): A write of EVM_TICK_CTRL.snap_req captures the levels of the next tick into EVM_SNAPk. -/
  | evmSnapshotRequest (r : Req)
  /-- BIO_CFG_WRITE (R547): A write of BIO_CFGn that sets en or changes pol makes a raw change that is debounced like any other. -/
  | bioCfgWrite (r : Req) (n : Fin 128) (v : Word) (at_ : Fin 64)
  /-- BIO_UNBLOCK_WRITE (R76): A write of 1 to an input's BIO_BLOCKk bit unblocks it and sets its accepted level to the raw level. -/
  | bioUnblockWrite (r : Req) (k : Fin 4) (v : Word)
  /-- PIT_SWAP_REQUEST (R78): A write of PIT_CTRL.swap requests activation of the written bank at the next tick. -/
  | pitSwapRequest (r : Req)
  /-- PIT_TERM_WRITE (R79): A write of a term of the inactive bank through PIT_SEL stores it and ends any uncorrectable mark on it. -/
  | pitTermWrite (r : Req) (k : Fin 6) (v : Word)
  /-- TOU_UNLATCH (R80): A write of 1 to a TOU_UNLATCH bit releases that output's latch. -/
  | touUnlatch (r : Req) (hi : Bool) (v : Word)
  /-- TOU_MISM_CLEAR (R82): A W1C write clears readback mismatch bits, ending EV(96 + g) once agreement holds. -/
  | touMismClear (r : Req) (hi : Bool) (v : Word)
  /-- FRAME_RX (R94): The MAC receives a frame, discards runts, oversize and control frames, stamps it and hands it with metadata to the sequencer. -/
  | frameRx (p : Fin 12) (sub : Fin 4) (f : RxFrame) (off : Nat) (same : List (Fin 12 × Fin 4 × RxFrame))
  /-- HSR_FORWARD (R110): A frame to be forwarded is sent store-and-forward out of the other ring port. -/
  | hsrForward (k : Fin 6) (off eighths : Nat)
  /-- PRP_NODE_FORGET (R107): A node table entry with no frame for forget_ms is removed. -/
  | prpNodeForget (k : Fin 6) (mac : BitVec 48)
  /-- PRP_SUPERVISION_TIMER (R109): A pair sends a supervision frame every life_ms milliseconds. -/
  | prpSupervisionTimer (k : Fin 6)
  /-- FRAME_TX_SUBMIT (R96): The sequencer hands a frame to the MAC, which pads it or refuses an oversize one, and duplicates it for a redundancy pair. -/
  | frameTxSubmit (p : Fin 12) (sub : Fin 4) (pair : Bool) (bytes : List Byte)
  /-- FRAME_TX (R99): A frame leaves the egress FIFO, is stamped, rewritten for one-step PTP or transparent clock, and sent with its FCS. -/
  | frameTx (p : Fin 12) (off eighths : Nat)
  /-- PRT_TS_FIFO_POP (R103): A read of PRT_TS_W3 removes the head entry of the stamp FIFO. -/
  | prtTsFifoPop (r : Req) (p : Fin 12)
  /-- PRT_COUNTER_CLEAR (R97): A write to PRT_CNT_CLR clears every counter of the port at once. -/
  | prtCounterClear (r : Req) (p : Fin 12)
  /-- LINK_STATE_CHANGE (R113): A sub-port gains or loses block lock, alignment, negotiation or fault state, changing its port state source. -/
  | linkStateChange (p : Fin 12) (sub : Fin 4) (env : LinkEnv)
  /-- HST_INBOUND_REQUEST (R116): A host TLP is mapped through its BAR and executed, or answered with Completer Abort or Unsupported Request. -/
  | hstInboundRequest (tlp : Fin 4) (bar : Fin 8) (off : Nat) (w : Option (List Byte)) (n : Nat) (env : MemEnv)
  /-- HST_COMPLETION (R118): A completion for a device-originated request arrives and ends it, or is discarded. -/
  | hstCompletion (id : Nat) (data : List Byte) (poisoned : Bool)
  /-- HST_COMPLETION_TIMEOUT (R119): A device-originated read without completion within the timeout ends with ST_PROTOCOL. -/
  | hstCompletionTimeout (id : Nat)
  /-- HST_FUNCTION_RESET (R118): Function level reset or HST_PERST_N resets HST and ends its outstanding requests with ST_ABORTED. -/
  | hstFunctionReset (perst : Bool)
  /-- HST_LINK_DOWN (R118): Loss of the PCIe link ends outstanding requests with ST_ABORTED and raises EV0972. -/
  | hstLinkDown
  /-- MSIX_UNMASK (R117): Unmasking a vector with its PBA bit set sends one message. -/
  | msixUnmask (k : Fin 64)
  /-- TRV_INGRESS_PROGRAM (R121): A frame is looked up in the stream table and runs every step of its program, after which disposition applies the action byte. -/
  | trvIngressProgram (dp : Fin 12) (authOver : Bool) (same : List (Fin 12 × Bool)) (brk : Option (Fin 8))
  /-- TRV_EGRESS_PROGRAM (R143): A claimed item of an egress-bound queue runs its entry's program, which checks, stamps, authenticates, encodes and sends the frame. -/
  | trvEgressProgram (queue : Fin 16384) (info : FrameMeta) (brk : Option (Fin 8))
  /-- TRV_ENTRY_COMMIT (R126): A commit checks the staged entry, replaces it, resets the stream state and increments its generation. -/
  | trvEntryCommit (r : Req)
  /-- TRV_ENTRY_INVALIDATE (R126): An invalidate clears the entry's valid bit and increments its generation. -/
  | trvEntryInvalidate (r : Req)
  /-- TRV_ENTRY_READ (R146): A read command copies the selected entry into TRV_ENT_Wk. -/
  | trvEntryRead (r : Req)
  /-- TRV_STEP_WRITE (R128): A write of a step word is stored, or refused with ST_BUSY while the step is referenced. -/
  | trvStepWrite (r : Req) (v : Word)
  /-- TRV_MISS_WRITE (R124): A write of TRV_MISSd sets a datapath's miss program, checked under R126 when enabled. -/
  | trvMissWrite (r : Req) (dp : Fin 12) (v : Word)
  /-- TRV_CPL_MAP_WRITE (R134): A write of TRV_CPL_MAPp claims a pipeline for its datapath sets, or starts its release. -/
  | trvCplMapWrite (r : Req) (p : Fin 8) (v : Word)
  /-- TRV_CPL_RELEASE (R134): After the frames bound to it finish, the sequencer releases the pipeline. -/
  | trvCplRelease (p : Fin 8)
  /-- TRV_LOSS_SCAN (R141): The loss scanner visits each supervised entry and puts into loss those without a keep for loss_to ms. -/
  | trvLossScan (entry : Fin 16384)
  /-- QMG_QUEUE_COMMIT (R151): A commit checks the staged descriptor and installs it with its indices at zero. -/
  | qmgQueueCommit (r : Req)
  /-- QMG_QUEUE_INVALIDATE (R549): A commit with valid = 0 invalidates the queue, discards its items and completes reply items with ST_ABORTED. -/
  | qmgQueueInvalidate (r : Req)
  /-- QMG_QUEUE_READ (R175): A read command copies the selected descriptor into QMG_QD_Wk. -/
  | qmgQueueRead (r : Req)
  /-- QMG_QUEUE_ENABLE (R173): An enable command admits items, or holds the enable pending during a drain. -/
  | qmgQueueEnable (r : Req)
  /-- QMG_QUEUE_DISABLE (R173): A disable command refuses new items while keeping those held. -/
  | qmgQueueDisable (r : Req)
  /-- QMG_QUEUE_DRAIN (R173): A drain command refuses new items until the queue empties. -/
  | qmgQueueDrain (r : Req)
  /-- QMG_QUEUE_DRAIN_DISCARD (R173): A drain-discard command also discards every unclaimed and spilled item at once. -/
  | qmgQueueDrainDiscard (r : Req)
  /-- QMG_PRODUCER_DOORBELL (R155): A software producer's doorbell makes its items visible at once or is refused as a whole. -/
  | qmgProducerDoorbell (r : Req) (v : Word) (rivals : List (Req × Fin 16384))
  /-- QMG_CLAIM (R157): A consumer claims a count of unclaimed items. -/
  | qmgClaim (r : Req) (queue : Fin 16384) (count : BitVec 16)
  /-- QMG_FREE (R157): A consumer frees a count of claimed items, and freed slots are refilled from the spill ring. -/
  | qmgFree (r : Req) (queue : Fin 16384) (count : BitVec 16)
  /-- QMG_COMPLETE (R159): A write of QMG_CPL_ST completes a claimed reply item into its reserved reply slot and frees its tag. -/
  | qmgComplete (r : Req) (v : Word)
  /-- QMG_TAG_ALLOCATE (R168): A tag allocate command returns the lowest free index of the requester's range, or ST_FULL. -/
  | qmgTagAllocate (r : Req)
  /-- QMG_TAG_FREE (R168): A tag free command frees the tag and cancels any outstanding item with ST_ABORTED. -/
  | qmgTagFree (r : Req) (tag : BitVec 16)
  /-- QMG_TAG_TIMEOUT (R170): An item's upper timeout expires, cancelling the lower level and completing with ST_TIMEOUT. -/
  | qmgTagTimeout (tag : Fin 65536)
  /-- CNV_TRAIN_START (R181): A write of CNV_TRAIN.start begins training the lanes of a group. -/
  | cnvTrainStart (r : Req) (g : Fin 8) (pattern : BitVec 18)
  /-- CNV_TRAIN_COMPLETE (R181): Training ends, setting tap and slip of each lane or failing lanes with ST_PROTOCOL. -/
  | cnvTrainComplete (lanes : List CnvCapture)
  /-- CNV_SAMPLE (R180): A converter word is captured, converted and checked, and feeds lane blocks, comparators and decimation. -/
  | cnvSample (g : Fin 8) (k : Nat) (words : List Word)
  /-- CNV_SYN_UNLOCK (R193): The synthesiser loses lock and the clocks continue at the last frequency. -/
  | cnvSynUnlock
  /-- CNV_SYN_RELOCK (R193): On relock the synthesiser re-phases at the next TAI second boundary. -/
  | cnvSynRelock
  /-- CNV_GRP_WRITE (R201): A write of CNV_GRPg configures or disables a group, checked against the framing rule. -/
  | cnvGrpWrite (r : Req) (g : Fin 8) (v : Word)
  /-- CNV_LANE_CFG_WRITE (R182): A write of CNV_LANE_CFGn sets en, tap and slip. -/
  | cnvLaneCfgWrite (r : Req) (n : Fin 32) (v : Word)
  /-- CNV_PUB_ENABLE (R190): A write setting CNV_PUB_CFGp.en checks the template and lanes and starts the publisher. -/
  | cnvPubEnable (r : Req) (p : Fin 8) (v : Word)
  /-- CNV_TPL_DATA_ACCESS (R190): An access to CNV_TPL_DATA reads or writes template bytes and advances SEL.word. -/
  | cnvTplDataAccess (r : Req) (v : Option Word)
  /-- RSM_CONTEXT_COMMIT (R198): A commit checks resampler loads and the output queue and installs the context. -/
  | rsmContextCommit (r : Req) (u : Fin 12)
  /-- RSM_CONTEXT_INVALIDATE (R198): An invalidate removes a resampler context. -/
  | rsmContextInvalidate (r : Req) (u : Fin 12)
  /-- RSM_CONTEXT_READ (R198): A read command copies a resampler context into RSM_CTX_Wk. -/
  | rsmContextRead (r : Req) (u : Fin 12)
  /-- WFC_ASSEMBLE_FRAME (R213): A kind 1 context builds and enqueues a Pyrlon frame once its blocks are coded. -/
  | wfcAssembleFrame (k : Fin 64)
  /-- WFC_COMPRESS_ITEM (R215): The coding units finish a compress step's frame, and its item is enqueued or a decode error is recorded. -/
  | wfcCompressItem (k : Fin 64)
  /-- WFC_CONTEXT_COMMIT (R218): A commit checks the staged WFC context and installs it at the next frame boundary. -/
  | wfcContextCommit (r : Req)
  /-- WFC_CONTEXT_INVALIDATE (R218): An invalidate removes a WFC context. -/
  | wfcContextInvalidate (r : Req)
  /-- WFC_CONTEXT_READ (R218): A read command copies a WFC context into WFC_CTX_Wk. -/
  | wfcContextRead (r : Req)
  /-- WFC_HDR_DATA_ACCESS (R220): An access to WFC_HDR_DATA reads or writes header bytes and advances SEL.word. -/
  | wfcHdrDataAccess (r : Req) (v : Option Word)
  /-- ISSUE_GROUP (R235): A wide-page issue group executes its operations in order as one issue. -/
  | issueGroup (e : Fin 96) (v : MemEnv)
  /-- ADD (R241): rd := rs + rt with NZCV. -/
  | add (e : Fin 96) (short : Bool) (rd rs rt : Fin 32)
  /-- SUB (R241): rd := rs − rt with NZCV. -/
  | sub (e : Fin 96) (short : Bool) (rd rs rt : Fin 32)
  /-- ADDC (R241): rd := rs + rt + C. -/
  | addc (e : Fin 96) (rd rs rt : Fin 32)
  /-- SUBC (R241): rd := rs − rt − (1 − C). -/
  | subc (e : Fin 96) (rd rs rt : Fin 32)
  /-- ADDS (R241): Saturating 32-bit addition. -/
  | adds (e : Fin 96) (rd rs rt : Fin 32)
  /-- SUBS (R241): Saturating 32-bit subtraction. -/
  | subs (e : Fin 96) (rd rs rt : Fin 32)
  /-- AND (R241): Bitwise AND of two registers. -/
  | and (e : Fin 96) (short : Bool) (rd rs rt : Fin 32)
  /-- OR (R241): Bitwise OR of two registers. -/
  | or (e : Fin 96) (short : Bool) (rd rs rt : Fin 32)
  /-- XOR (R241): Bitwise XOR of two registers. -/
  | xor (e : Fin 96) (short : Bool) (rd rs rt : Fin 32)
  /-- ANDN (R241): rd := rs AND NOT rt. -/
  | andn (e : Fin 96) (rd rs rt : Fin 32)
  /-- SLL (R241): Logical shift left by a register amount. -/
  | sll (e : Fin 96) (short : Bool) (rd rs rt : Fin 32)
  /-- SRL (R241): Logical shift right by a register amount. -/
  | srl (e : Fin 96) (short : Bool) (rd rs rt : Fin 32)
  /-- SRA (R241): Arithmetic shift right by a register amount. -/
  | sra (e : Fin 96) (short : Bool) (rd rs rt : Fin 32)
  /-- SLLI (R241): Logical shift left by an immediate amount. -/
  | slli (e : Fin 96) (short : Bool) (rd rs sa : Fin 32)
  /-- SRLI (R241): Logical shift right by an immediate amount. -/
  | srli (e : Fin 96) (rd rs sa : Fin 32)
  /-- SRAI (R241): Arithmetic shift right by an immediate amount. -/
  | srai (e : Fin 96) (rd rs sa : Fin 32)
  /-- MUL (R241): Low 32 bits of a product. -/
  | mul (e : Fin 96) (rd rs rt : Fin 32)
  /-- MULH (R241): High 32 bits of a signed product. -/
  | mulh (e : Fin 96) (rd rs rt : Fin 32)
  /-- MULHU (R241): High 32 bits of an unsigned product. -/
  | mulhu (e : Fin 96) (rd rs rt : Fin 32)
  /-- MIN (R241): Signed minimum. -/
  | min (e : Fin 96) (rd rs rt : Fin 32)
  /-- MAX (R241): Signed maximum. -/
  | max (e : Fin 96) (rd rs rt : Fin 32)
  /-- ABS (R241): Saturated absolute value. -/
  | abs (e : Fin 96) (rd rs : Fin 32)
  /-- CLZ (R241): Count of leading zeros. -/
  | clz (e : Fin 96) (rd rs : Fin 32)
  /-- EXT (R241): Sign or zero extension of a byte or halfword. -/
  | ext (e : Fin 96) (rd rs : Fin 32) (sa : Fin 4)
  /-- CMP (R241): Sets the flags of rs − rt. -/
  | cmp (e : Fin 96) (short : Bool) (rs rt : Fin 32)
  /-- TST (R241): Sets the flags of rs AND rt. -/
  | tst (e : Fin 96) (short : Bool) (rs rt : Fin 32)
  /-- MOV (R241): Copies one register to another. -/
  | mov (e : Fin 96) (short : Bool) (rd rs : Fin 32)
  /-- SEL (R241): Selects rs or rt by a condition. -/
  | sel (e : Fin 96) (rd rs rt : Fin 32) (cond : Fin 16)
  /-- REV (R241): Reverses the low bits of a register. -/
  | rev (e : Fin 96) (rd rs sa : Fin 32)
  /-- ADDI (R242): Adds a sign-extended immediate. -/
  | addi (e : Fin 96) (short : Bool) (rd rs : Fin 32) (imm : BitVec 15)
  /-- ANDI (R242): ANDs a zero-extended immediate. -/
  | andi (e : Fin 96) (rd rs : Fin 32) (imm : BitVec 15)
  /-- ORI (R242): ORs a zero-extended immediate. -/
  | ori (e : Fin 96) (rd rs : Fin 32) (imm : BitVec 15)
  /-- XORI (R242): XORs a zero-extended immediate. -/
  | xori (e : Fin 96) (rd rs : Fin 32) (imm : BitVec 15)
  /-- CMPI (R242): Sets the flags of rs minus an immediate. -/
  | cmpi (e : Fin 96) (short : Bool) (rs : Fin 32) (imm : BitVec 15)
  /-- LDHI (R242): Loads imm20 shifted left by 12. -/
  | ldhi (e : Fin 96) (rd : Fin 32) (imm : BitVec 20)
  /-- LDI (R242): Loads a sign-extended 20-bit immediate. -/
  | ldi (e : Fin 96) (rd : Fin 32) (imm : BitVec 20)
  /-- ATSWAP (R231): Atomically swaps a word in data or cluster memory. -/
  | atswap (e : Fin 96) (rd rs rt : Fin 32) (v : MemEnv) (same : List Atomic)
  /-- ATADD (R231): Atomically adds to a word in data or cluster memory. -/
  | atadd (e : Fin 96) (rd rs rt : Fin 32) (v : MemEnv) (same : List Atomic)
  /-- ATCAS (R231): Atomically compares and swaps a word. -/
  | atcas (e : Fin 96) (rd rs rt : Fin 32) (v : MemEnv) (same : List Atomic)
  /-- LDW (R243): Loads a word at a register plus offset. -/
  | ldw (e : Fin 96) (short : Bool) (rd rs : Fin 32) (imm : BitVec 12) (v : MemEnv)
  /-- LDH (R243): Loads a sign-extended halfword. -/
  | ldh (e : Fin 96) (rd rs : Fin 32) (imm : BitVec 12) (v : MemEnv)
  /-- LDHU (R243): Loads a zero-extended halfword. -/
  | ldhu (e : Fin 96) (rd rs : Fin 32) (imm : BitVec 12) (v : MemEnv)
  /-- LDB (R243): Loads a sign-extended byte. -/
  | ldb (e : Fin 96) (rd rs : Fin 32) (imm : BitVec 12) (v : MemEnv)
  /-- LDBU (R243): Loads a zero-extended byte. -/
  | ldbu (e : Fin 96) (rd rs : Fin 32) (imm : BitVec 12) (v : MemEnv)
  /-- STW (R243): Stores a word. -/
  | stw (e : Fin 96) (short : Bool) (rd rs : Fin 32) (imm : BitVec 12) (v : MemEnv)
  /-- STH (R243): Stores a halfword. -/
  | sth (e : Fin 96) (rd rs : Fin 32) (imm : BitVec 12) (v : MemEnv)
  /-- STB (R243): Stores a byte. -/
  | stb (e : Fin 96) (rd rs : Fin 32) (imm : BitVec 12) (v : MemEnv)
  /-- AG_LOAD (R226): Loads through an address generator, with optional post-update. -/
  | agLoad (e : Fin 96) (short : Bool) (op : Fin 5) (rd : Fin 32) (m : Fin 8) (upd : Bool) (v : MemEnv)
  /-- AG_STORE (R226): Stores through an address generator, with optional post-update. -/
  | agStore (e : Fin 96) (short : Bool) (op : Fin 3) (rd : Fin 32) (m : Fin 8) (upd : Bool) (v : MemEnv)
  /-- VLD (R229): Loads 16 bytes into a vector register through a generator. -/
  | vld (e : Fin 96) (vd : Fin 16) (m : Fin 8) (sz upd : Bool) (v : MemEnv)
  /-- VST (R229): Stores a vector register through a generator. -/
  | vst (e : Fin 96) (vd : Fin 16) (m : Fin 8) (sz upd : Bool) (v : MemEnv)
  /-- VLDR (R243): Loads one element and places it in every element. -/
  | vldr (e : Fin 96) (vd : Fin 16) (m : Fin 8) (sz upd : Bool) (v : MemEnv)
  /-- AGSET (R243): Writes a field of an address generator. -/
  | agset (e : Fin 96) (m : Fin 8) (field : Fin 5) (rs : Fin 32)
  /-- AGGET (R243): Reads a field of an address generator. -/
  | agget (e : Fin 96) (rd : Fin 32) (m : Fin 8) (field : Fin 5)
  /-- AGADD (R226): Advances a generator's index by an immediate under its mode. -/
  | agadd (e : Fin 96) (m : Fin 8) (imm : BitVec 13)
  /-- B_COND (R244): Branches when the condition holds. -/
  | bCond (e : Fin 96) (short : Bool) (cond : Fin 16) (disp : BitVec 21)
  /-- CALL (R244): Links the next address and branches. -/
  | call (e : Fin 96) (rd : Fin 32) (disp : BitVec 20)
  /-- CALLR (R244): Links and jumps to a register plus offset. -/
  | callr (e : Fin 96) (short : Bool) (rd rs : Fin 32) (imm : BitVec 15)
  /-- DBNZ (R244): Decrements and branches while non-zero. -/
  | dbnz (e : Fin 96) (rd : Fin 32) (disp : BitVec 20)
  /-- NOP (R244): Does nothing. -/
  | nop (e : Fin 96)
  /-- TRAP (R256): trap #0–239 raises the trap exception and enters the handler at EVB. -/
  | trap (e : Fin 96) (n : Fin 240)
  /-- ERET (R259): Returns from an exception, restoring pc, level and aen. -/
  | eret (e : Fin 96)
  /-- MFS (R248): Reads a system register. -/
  | mfs (e : Fin 96) (rd : Fin 32) (sr : Fin 1024)
  /-- MTS (R248): Writes a system register. -/
  | mts (e : Fin 96) (sr : Fin 1024) (rs : Fin 32)
  /-- WFE (R262): Completes at once if an enabled cause is pending, otherwise enters WAITING. -/
  | wfe (e : Fin 96)
  /-- FENCE (R230): Holds later accesses until every earlier access has completed. -/
  | fence (e : Fin 96)
  /-- MAC (R245): Adds a signed product to an accumulator. -/
  | mac (e : Fin 96) (a : Fin 4) (rs rt : Fin 32)
  /-- MSU (R245): Subtracts a signed product from an accumulator. -/
  | msu (e : Fin 96) (a : Fin 4) (rs rt : Fin 32)
  /-- MULA (R245): Sets an accumulator to a signed product. -/
  | mula (e : Fin 96) (a : Fin 4) (rs rt : Fin 32)
  /-- MACU (R245): Adds an unsigned product to an accumulator. -/
  | macu (e : Fin 96) (a : Fin 4) (rs rt : Fin 32)
  /-- CLRA (R245): Clears an accumulator. -/
  | clra (e : Fin 96) (a : Fin 4)
  /-- MOVA (R245): Loads an accumulator from a register. -/
  | mova (e : Fin 96) (a : Fin 4) (rs : Fin 32)
  /-- RDA (R245): Reads an accumulator rounded, shifted and saturated to 32 bits. -/
  | rda (e : Fin 96) (rd : Fin 32) (a : Fin 4) (sh : Fin 64)
  /-- RDAH (R245): Reads an accumulator rounded, shifted and saturated to 16 bits. -/
  | rdah (e : Fin 96) (rd : Fin 32) (a : Fin 4) (sh : Fin 64)
  /-- ASUM (R245): Sums the four accumulators into one. -/
  | asum (e : Fin 96) (a : Fin 4)
  /-- VADD (R246): Element-wise modular sum. -/
  | vadd (e : Fin 96) (vd vs vt : Fin 16) (sz : Bool)
  /-- VSUB (R246): Element-wise modular difference. -/
  | vsub (e : Fin 96) (vd vs vt : Fin 16) (sz : Bool)
  /-- VADDS (R246): Element-wise saturated sum. -/
  | vadds (e : Fin 96) (vd vs vt : Fin 16) (sz : Bool)
  /-- VSUBS (R246): Element-wise saturated difference. -/
  | vsubs (e : Fin 96) (vd vs vt : Fin 16) (sz : Bool)
  /-- VHADD (R246): Element-wise halved sum. -/
  | vhadd (e : Fin 96) (vd vs vt : Fin 16) (sz : Bool)
  /-- VHSUB (R246): Element-wise halved difference. -/
  | vhsub (e : Fin 96) (vd vs vt : Fin 16) (sz : Bool)
  /-- VAND (R246): Vector bitwise AND. -/
  | vand (e : Fin 96) (vd vs vt : Fin 16)
  /-- VOR (R246): Vector bitwise OR. -/
  | vor (e : Fin 96) (vd vs vt : Fin 16)
  /-- VXOR (R246): Vector bitwise XOR. -/
  | vxor (e : Fin 96) (vd vs vt : Fin 16)
  /-- VMIN (R246): Element-wise signed minimum. -/
  | vmin (e : Fin 96) (vd vs vt : Fin 16) (sz : Bool)
  /-- VMAX (R246): Element-wise signed maximum. -/
  | vmax (e : Fin 96) (vd vs vt : Fin 16) (sz : Bool)
  /-- VABS (R246): Element-wise saturated absolute value. -/
  | vabs (e : Fin 96) (vd vs : Fin 16) (sz : Bool)
  /-- VSLL (R246): Element-wise logical shift left. -/
  | vsll (e : Fin 96) (vd vs : Fin 16) (sz : Bool) (sh : Fin 64)
  /-- VSRL (R246): Element-wise logical shift right. -/
  | vsrl (e : Fin 96) (vd vs : Fin 16) (sz : Bool) (sh : Fin 64)
  /-- VSRA (R246): Element-wise arithmetic shift right. -/
  | vsra (e : Fin 96) (vd vs : Fin 16) (sz : Bool) (sh : Fin 64)
  /-- VMOV (R246): Copies a vector register. -/
  | vmov (e : Fin 96) (vd vs : Fin 16)
  /-- VMUL (R246): Sets each lane accumulator to its product or sum of products. -/
  | vmul (e : Fin 96) (vs vt : Fin 16) (sz : Bool)
  /-- VMAC (R246): Adds each lane product to its accumulator. -/
  | vmac (e : Fin 96) (vs vt : Fin 16) (sz : Bool)
  /-- VMSU (R246): Subtracts each lane product from its accumulator. -/
  | vmsu (e : Fin 96) (vs vt : Fin 16) (sz : Bool)
  /-- VCLR (R246): Clears all four accumulators. -/
  | vclr (e : Fin 96)
  /-- VRND (R246): Rounds the four accumulators into a vector register. -/
  | vrnd (e : Fin 96) (vd : Fin 16) (sz : Bool) (sh : Fin 64)
  /-- VCMUL (R246): Complex multiplies 16-bit pairs per lane with rounding. -/
  | vcmul (e : Fin 96) (vd vs vt : Fin 16) (sh : Fin 64)
  /-- VBCAST (R246): Broadcasts a register into every element. -/
  | vbcast (e : Fin 96) (vd : Fin 16) (rs : Fin 32) (sz : Bool)
  /-- VINS (R246): Inserts a register into one element. -/
  | vins (e : Fin 96) (vd : Fin 16) (idx : Fin 8) (rs : Fin 32) (sz : Bool)
  /-- VEXT (R246): Extracts one element into a register. -/
  | vext (e : Fin 96) (rd : Fin 32) (vs : Fin 16) (idx : Fin 8) (sz : Bool)
  /-- NEG (R247): Compact negation, sub rd, g0, rs. -/
  | neg (e : Fin 96) (rd rs : Fin 32)
  /-- SEXTH (R247): Compact sign extension of a halfword. -/
  | sexth (e : Fin 96) (rd rs : Fin 32)
  /-- JR (R247): Compact jump to a register. -/
  | jr (e : Fin 96) (rs : Fin 32)
  /-- MOVI (R247): Compact load of a 7-bit immediate. -/
  | movi (e : Fin 96) (rd : Fin 32) (imm : BitVec 7)
  /-- RELTASK_READ (R269): A supervisor read of RELTASK removes the head of the release queue. -/
  | reltaskRead (e : Fin 96) (rd : Fin 32)
  /-- RELDONE_WRITE (R272): A write of RELDONE ends a running release in time, late, or is counted as bad. -/
  | reldoneWrite (e : Fin 96) (rs : Fin 32)
  /-- EVCLR_WRITE (R274): A write of EVCLR clears the named cluster pending bits. -/
  | evclrWrite (e : Fin 96) (rs : Fin 32)
  /-- QRDY_READ (R274): A supervisor read of QRDY removes the head of the queue-ready FIFO. -/
  | qrdyRead (e : Fin 96) (rd : Fin 32)
  /-- WDKICK_WRITE (R273): A write of WDKICK restarts the watchdog and clears cause 0x10. -/
  | wdkickWrite (e : Fin 96) (rs : Fin 32)
  /-- ASYNC_EXCEPTION_TAKE (R260): An enabled pending asynchronous cause is taken at an instruction or group boundary. -/
  | asyncExceptionTake (e : Fin 96)
  /-- ENGINE_WAKE (R262): A WAITING engine resumes when an enabled cause becomes pending. -/
  | engineWake (e : Fin 96)
  /-- WATCHDOG_EXPIRY (R273): The watchdog count reaches its period, making cause 0x10 pending or halting the engine on a second expiry. -/
  | watchdogExpiry (e : Fin 96)
  /-- GATE_INFO (R264): Gate 240 returns the life-cycle state and firmware security version. -/
  | gateInfo (e : Fin 96) (same : List (Fin 96))
  /-- GATE_RECORD (R264): Gate 241 writes a software record. -/
  | gateRecord (e : Fin 96) (same : List (Fin 96))
  /-- GATE_RANDOM (R264): Gate 242 returns 32 bits from the DRBG. -/
  | gateRandom (e : Fin 96) (same : List (Fin 96))
  /-- GATE_DUMP (R275): Gate 243 freezes the caller and starts a fatal dump, or is refused. -/
  | gateDump (e : Fin 96) (same : List (Fin 96))
  /-- GATE_RESTART (R264): Gate 244 stops and starts another engine of the caller's world. -/
  | gateRestart (e : Fin 96) (same : List (Fin 96))
  /-- GATE_ATTEST (R362): Gate 245 starts an asynchronous attestation statement. -/
  | gateAttest (e : Fin 96) (same : List (Fin 96))
  /-- GATE_KEY_INSTALL (R362): Gate 246 unwraps a key blob under slot 8 into a vault slot. -/
  | gateKeyInstall (e : Fin 96) (same : List (Fin 96))
  /-- GATE_KEY_ERASE (R362): Gate 247 erases a vault slot of the caller's world. -/
  | gateKeyErase (e : Fin 96) (same : List (Fin 96))
  /-- GATE_SIGN (R362): Gate 248 starts an asynchronous signature under a vault slot. -/
  | gateSign (e : Fin 96) (same : List (Fin 96))
  /-- GATE_SECVER_ADVANCE (R362): Gate 249 advances the OTP security version. -/
  | gateSecverAdvance (e : Fin 96) (same : List (Fin 96))
  /-- GATE_COMMAND (R362): Gate 250 starts asynchronous execution of a signed command. -/
  | gateCommand (e : Fin 96) (same : List (Fin 96))
  /-- GATE_DEBUG_STATUS (R362): Gate 251 returns the debug permissions in force. -/
  | gateDebugStatus (e : Fin 96) (same : List (Fin 96))
  /-- GATE_ANSWER (R263): The Refuge answers a gate call, writing g2 and g3 and resuming the engine. -/
  | gateAnswer (e : Fin 96) (same : List (Fin 96))
  /-- GATE_TIMEOUT (R263): A gate call unanswered for 10 ms resumes with ST_TIMEOUT and record 0x8020. -/
  | gateTimeout (e : Fin 96)
  /-- REFUGE_SERVICE_COMPLETE (R362): An asynchronous Refuge service completes with an item in the named command queue. -/
  | refugeServiceComplete (j : Nat) (env : CmdEnv)
  /-- ENG_RUN_START (R253): An ENG_RUN start runs a stopped engine or resumes a frozen one. -/
  | engRunStart (r : Req) (e : Fin 96)
  /-- ENG_RUN_STOP (R255): An ENG_RUN stop resets the engine, cancels its tags and releases its locks. -/
  | engRunStop (r : Req) (e : Fin 96)
  /-- ENG_RUN_FREEZE (R252): An ENG_RUN freeze stops the engine with its whole state kept. -/
  | engRunFreeze (r : Req) (e : Fin 96)
  /-- ENG_WORLD_WRITE (R249): A write of ENG_WORLD assigns a stopped engine's world and starts clearing its memories. -/
  | engWorldWrite (r : Req) (e : Fin 96) (v : BitVec 2)
  /-- ENG_MEMORY_CLEAR_COMPLETE (R249): The clear of instruction and data memory after a world assignment ends. -/
  | engMemoryClearComplete (e : Fin 96)
  /-- REL_ENTRY_COMMIT (R266): A commit checks the staged release entry and installs it at the next tick. -/
  | relEntryCommit (r : Req) (c : Fin 12)
  /-- REL_ENTRY_INVALIDATE (R266): An invalidate removes a release entry under the world check. -/
  | relEntryInvalidate (r : Req) (c : Fin 12)
  /-- REL_ENTRY_READ (R266): A read command copies a release entry into CLU_REL_Wk. -/
  | relEntryRead (r : Req) (c : Fin 12)
  /-- FATAL_DUMP (R424): The Refuge writes an encrypted dump of a frozen engine into the older slot and a severity 7 record. -/
  | fatalDump
  /-- DUMP_CP7_TIMEOUT (R424): If CP7 is still held 1 ms after the dump requests it, the Refuge releases it. -/
  | dumpCp7Timeout
  /-- SCRUB_ROW (R295): A bank's scrubber reads one row, corrects single-bit errors and reports uncorrectable words. -/
  | scrubRow (cls : Fin 6) (bank : Nat) (ecc : List (Fin 3)) (hit : Bool)
  /-- DRAM_INIT_COMPLETE (R297): DRAM initialisation and training end with success or ST_PROTOCOL. -/
  | dramInitComplete (k : Fin 2) (ok : Bool)
  /-- MCE_GUARD_WRITE (R300): A write of MCE_GUARD fixes the guarded region and starts building its counter tree. -/
  | mceGuardWrite (r : Req) (v : Word)
  /-- GUARD_INIT_COMPLETE (R300): Initialisation of the guarded region ends and guard_ready sets. -/
  | guardInitComplete
  /-- CPL_KEY_WRITE (R312): A write to CPL_KEYk or a key field clears key_ready and discards any open chain. -/
  | cplKeyWrite (r : Req) (p : Fin 8) (k : Fin 8) (v : Word)
  /-- CPL_LOAD_KEY (R312): A load_key command takes and expands a key from the registers or a vault slot. -/
  | cplLoadKey (r : Req) (p : Fin 8) (parity : Bool)
  /-- CPL_KEY_READY (R312): Key expansion ends and key_ready sets. -/
  | cplKeyReady (p : Fin 8)
  /-- CPL_GO (R316): A go command starts a cipher job or is refused. -/
  | cplGo (r : Req) (p : Fin 8) (first last : Bool)
  /-- CPL_ABORT (R320): An abort command ends the running job at the next block boundary with ST_ABORTED. -/
  | cplAbort (r : Req) (p : Fin 8)
  /-- CPL_JOB_COMPLETE (R320): A cipher job completes, with tag check and zeroing, status and IRQ_STAT bit 0. -/
  | cplJobComplete (p : Fin 8) (brk : Option (Fin 8))
  /-- CPL_RESEED (R307): TRN reseeds a pipeline's mask generator, or the reseed is missed and recorded. -/
  | cplReseed (p : Fin 8) (supplied : Bool)
  /-- PKE_CFG_WRITE (R324): A write of PKE_CFG sets the slot length or mode and clears the operand memory. -/
  | pkeCfgWrite (r : Req) (v : Word)
  /-- PKE_OP_DATA_ACCESS (R326): An access to PKE_OP_DATA reads or writes a half-word of operand memory and advances PKE_OP_SEL. -/
  | pkeOpDataAccess (r : Req) (v : Option Word)
  /-- PKE_GO (R327): A go copies the staged command into a free context and starts it if none runs. -/
  | pkeGo (r : Req)
  /-- PKE_ABORT (R335): An abort removes a pending or suspended job, or ends a running one. -/
  | pkeAbort (r : Req) (k : Fin 4)
  /-- PKE_PREEMPT (R334): At a yield point a running non-urgent job is suspended and the urgent job starts. -/
  | pkePreempt
  /-- PKE_JOB_COMPLETE (R330): A PKE job passes its release check and writes its outputs, or fails with ST_FAULT_DETECTED, and the next job resumes or starts. -/
  | pkeJobComplete (fault : Bool) (brk : Option (Fin 8))
  /-- PKE_RANDOM_TIMEOUT (R332): Random bits not supplied within 100 µs end the job with ST_NOT_READY. -/
  | pkeRandomTimeout
  /-- PKE_CTX_READ (R343): A read of PKE_CTXk in state done returns it to free. -/
  | pkeCtxRead (r : Req) (k : Fin 2)
  /-- KECCAK_HANDOVER (R336): Keccak core 0 passes between the PKE and HSH at a permutation boundary and its state is zeroed. -/
  | keccakHandover
  /-- HSH_GO (R341): A go starts a hash job or segment. -/
  | hshGo (r : Req) (first last : Bool)
  /-- HSH_SQUEEZE (R341): A squeeze produces the next SHAKE output from the kept state. -/
  | hshSqueeze (r : Req)
  /-- HSH_ABORT (R341): An abort ends the running hash job with ST_ABORTED. -/
  | hshAbort (r : Req)
  /-- HSH_JOB_COMPLETE (R341): A hash job completes and sets IRQ_STAT bit 0. -/
  | hshJobComplete (brk : Option (Fin 8))
  /-- POWER_ON_RESET (R518): A power-on reset from POR_N or brownout resets everything but BKD, flash and OTP and samples the straps. -/
  | powerOnReset (brownout : Bool) (straps : Fin 8) (cycles : Nat)
  /-- WARM_RESET (R518): A warm reset from WRST_N, an alarm, BOOT_OK expiry or SYS_RST_CMD keeps DRAM, retained memories and straps. -/
  | warmReset
  /-- POWER_LOSS (R517): Supplies collapse in any order and interrupted operations end as their chapters state. -/
  | powerLoss (cut : Fin 3)
  /-- BOOT_BASE_CAMP (R347): Base camp runs self-tests, scans, log recovery, failed-start counting and verification of the Refuge firmware. -/
  | bootBaseCamp (v : BaseEnv)
  /-- BOOT_REFUGE (R347): Stage 1 loads the vault, issues SRAM and MCE keys and initialises DRAM. -/
  | bootRefuge (writes : List RegWrite) (brk : Option (Fin 8))
  /-- BOOT_LOADING (R347): Stage 2 verifies the station manifest, loads engine images, assigns worlds and starts S-world engines. -/
  | bootLoading (m : Manifest) (writes : List RegWrite)
  /-- BOOT_PROTECTION_READY (R347): Stage 3 starts P-world engines and permits TOU enable. -/
  | bootProtectionReady (writes : List RegWrite)
  /-- RFG_BOOT_OK (R351): A write of RFG_BOOT_OK with key 0x5A in stage 3 sets stage 4 and clears the failed-start counter. -/
  | rfgBootOk (r : Req) (key : BitVec 8)
  /-- BOOT_OK_EXPIRY (R351): 30 s after reset without BOOT_OK the Refuge writes record 0xC002 and issues a warm reset. -/
  | bootOkExpiry
  /-- RECOVERY_FRAME (R354): A recovery frame on M0 adds data to the open image or command session and is answered. -/
  | recoveryFrame (src : BitVec 48) (payload : List Byte) (m : Manifest) (env : CmdEnv)
  /-- CMD_PROVISION (R358): Signed command 1 runs the MANUF to VENDOR transition. -/
  | cmdProvision (b : List Byte) (env : CmdEnv)
  /-- CMD_TAKE_OWNERSHIP (R356): Signed command 2 runs the VENDOR to OWNED transition. -/
  | cmdTakeOwnership (b : List Byte) (env : CmdEnv)
  /-- CMD_TRANSFER_OWNERSHIP (R356): Signed command 3 runs the owner transfer transition. -/
  | cmdTransferOwnership (b : List Byte) (env : CmdEnv)
  /-- CMD_RETIRE (R356): Signed command 4 runs the transition to RETIRED. -/
  | cmdRetire (b : List Byte) (env : CmdEnv)
  /-- CMD_REPROVISION (R358): Signed command 5 clears the tamper lock. -/
  | cmdReprovision (b : List Byte) (env : CmdEnv)
  /-- CMD_DISABLE_TAMPER_SOURCE (R357): Signed command 6 disables a tamper source for ever in OTP. -/
  | cmdDisableTamperSource (b : List Byte) (env : CmdEnv)
  /-- CMD_DEBUG_TOKEN (R360): Signed command 8 authorises debug with the token's permissions and lifetime. -/
  | cmdDebugToken (b : List Byte) (env : CmdEnv)
  /-- RFG_NONCE_REQUEST (R359): A write of RFG_NONCE_REQ draws a new nonce or is held off after refusals. -/
  | rfgNonceRequest (r : Req)
  /-- RFG_DBG_REVOKE (R360): A write of RFG_DBG.revoke ends debug authorisation. -/
  | rfgDbgRevoke (r : Req)
  /-- DEBUG_TOKEN_EXPIRY (R360): Debug authorisation ends when the token's lifetime runs out. -/
  | debugTokenExpiry
  /-- REFUGE_WATCHDOG_EXPIRY (R344): The Refuge firmware watchdog expires and EV0082 presents 1. -/
  | refugeWatchdogExpiry
  /-- TRN_RESEED (R363): The DRBG reseeds with conditioned entropy every second or after 65,536 requests. -/
  | trnReseed
  /-- TRN_HEALTH_FAIL (R363): A health test fails and the DRBG stops serving requests. -/
  | trnHealthFail (test : Fin 3)
  /-- TRN_RETEST (R363): Every 100 ms after a failure the start-up tests repeat and may resume service. -/
  | trnRetest (pass : Bool)
  /-- TAMPER_DETECT (R366): A tamper or environment monitor detects its condition and sets its alarm latch. -/
  | tamperDetect (src : Fin 64) (lasting : Bool)
  /-- CLOCK_MONITOR_CHANGE (R524): A clock monitor condition starts or ends and its level source follows. -/
  | clockMonitorChange (cond : Fin 4) (on : Bool)
  /-- TMP_LATCH_CLEAR (R366): A Refuge write of 1 to a TMP_LATCH bit clears the latch unless the condition persists. -/
  | tmpLatchClear (r : Req) (hi : Bool) (v : Word)
  /-- TMP_EN_WRITE (R367): The first write of TMP_EN after reset fixes which sources are active. -/
  | tmpEnWrite (r : Req) (hi : Bool) (v : Word)
  /-- GLITCH_WINDOW_EXPIRY (R371): The glitch count clears window_s seconds after its first increment. -/
  | glitchWindowExpiry
  /-- VBAT_SWITCHOVER (R379): VBKD changes its feed between VDD_IO33 and VBAT, and unsampled armed rises are written to the backup log. -/
  | vbatSwitchover (toVbat : Bool) (mv : BitVec 12)
  /-- BKD_STATE_LOSS (R376): VBKD falls below 1.8 V and the backup domain loses its vault, RTC and log. -/
  | bkdStateLoss
  /-- BACKUP_ALARM (R378): An armed source alarms on battery, clearing the battery-backed vault, writing a backup log entry and setting lock. -/
  | backupAlarm (srcs : List (Fin 64 × BitVec 32)) (cycles : Nat)
  /-- BKD_LOG_CLEAR (R381): A write of BKD_LOG_CLR empties the backup log and clears overflow, lock and bkd_por. -/
  | bkdLogClear (r : Req)
  /-- BKD_LOG_DATA_READ (R380): A read of BKD_LOG_DATA returns entry bytes and advances BKD_LOG_SEL. -/
  | bkdLogDataRead (r : Req)
  /-- BKD_VAULT_DATA_ACCESS (R384): An access to BKD_VAULT_DATA reads or writes a vault word and advances BKD_VAULT_SEL. -/
  | bkdVaultDataAccess (r : Req) (v : Option Word)
  /-- FLASH_PROGRAM (R394): A program command starts programming one line, or is refused by bank state or region. -/
  | flashProgram (r : Req) (rivals : List (Req × Fin 4))
  /-- FLASH_PROGRAM_COMPLETE (R394): Programming ends after verification with ST_OK or ST_FAULT_DETECTED. -/
  | flashProgramComplete (bank : Fin 4) (ok : Bool)
  /-- FLASH_ERASE (R395): An erase command sets the block's flag, increments its counter and starts erase pulses. -/
  | flashErase (r : Req) (rivals : List (Req × Fin 4))
  /-- FLASH_ERASE_COMPLETE (R395): An erase ends, clearing the flag, or fails and leaves the block indeterminate. -/
  | flashEraseComplete (bank : Fin 4) (ok : Bool)
  /-- FLASH_SUSPEND (R396): A suspend command stops the running erase after at least 500 µs of progress. -/
  | flashSuspend (r : Req) (rivals : List (Req × Fin 4))
  /-- FLASH_SUSPEND_COMPLETE (R396): Erase pulses have stopped and the suspend ends with ST_OK. -/
  | flashSuspendComplete (bank : Fin 4)
  /-- FLASH_RESUME (R396): A resume command restarts a suspended erase once any program in the bank ends. -/
  | flashResume (r : Req) (rivals : List (Req × Fin 4))
  /-- FLASH_MARGIN_READ (R398): A margin read reads a line at the chosen margin into FLC_RDATA. -/
  | flashMarginRead (r : Req) (margin : Fin 4) (ecc : Fin 3) (mask : List Byte) (rivals : List (Req × Fin 4))
  /-- FLASH_BLANK_CHECK (R392): A blank check reads every line of a block at erase-verify margin and reports the first that is not blank. -/
  | flashBlankCheck (r : Req) (weak : Option (Fin 1024)) (rivals : List (Req × Fin 4))
  /-- FLASH_BLOCK_INFO (R392): A block info command loads FLC_INFO for a block. -/
  | flashBlockInfo (r : Req) (rivals : List (Req × Fin 4))
  /-- FLASH_SUSPEND_LONG (R396): An erase suspended for more than 1 s raises EV1006 once. -/
  | flashSuspendLong (bank : Fin 4)
  /-- EVR_TAKE (R414): With a take credit held, EVR takes the oldest waiting record from the FIFO or a direct writer into staging. -/
  | evrTake
  /-- EVR_CREDIT_GAIN (R414): EVR gains one take credit every microsecond, up to 64. -/
  | evrCreditGain
  /-- EVR_TICK_CLOSE (R412): Four ticks after a tick EVR closes it, updates BKD_SEQ and numbers its records. -/
  | evrTickClose
  /-- EVR_FLASH_COMMIT (R416): A record of severity 3 or above is committed to the next flash log line, voiding or dropping under R418. -/
  | evrFlashCommit (fails : Nat)
  /-- EVR_RECLAIM (R417): The oldest log block's live records are copied forward, and the block is erased to become the spare. -/
  | evrReclaim
  /-- MIRROR_UPDATE (R426): EVR copies the last 512 committed records to the tag island store as a whole. -/
  | mirrorUpdate
  /-- MIRROR_TIMER_EXPIRY (R426): 60 s after the first unmirrored commit a mirror update is triggered. -/
  | mirrorTimerExpiry
  /-- CARD_INSERT (R430): CD low for ins_ms ms detects a card and starts power-up and identification. -/
  | cardInsert (c : Card)
  /-- CARD_REMOVE (R430): CD high removes the card, powers off the slot and ends the transfer in progress. -/
  | cardRemove (doubt : Nat)
  /-- CARD_IDENTIFY (R433): After power-up CRD identifies the card, raises the bus and mounts the container. -/
  | cardIdentify (m : Manifest) (env : CmdEnv)
  /-- CARD_PARK (R432): After park_ms ms idle CRD powers the card off. -/
  | cardPark
  /-- CRD_APPEND (R445): Command 0x01 appends data to an object as container blocks. -/
  | crdAppend (fails : List (Fin 5 × Nat))
  /-- CRD_READ_BLOCKS (R445): Command 0x02 reads card blocks into the stream buffer. -/
  | crdReadBlocks (fails : List (Fin 5 × Nat))
  /-- CRD_SYNC (R445): Command 0x03 writes a cairn over the uncovered blocks. -/
  | crdSync (fails : List (Fin 5 × Nat))
  /-- CRD_FORMAT (R445): Command 0x04 formats the card with a new container header. -/
  | crdFormat (fails : List (Fin 5 × Nat))
  /-- CRD_PARK_COMMAND (R445): Command 0x05 parks the card. -/
  | crdParkCommand (fails : List (Fin 5 × Nat))
  /-- CRD_RECORD_ITEM (R445): An item of a record queue is appended whole to its configured object. -/
  | crdRecordItem (k : Fin 2)
  /-- CRD_BLOCK_ACK (R438): A write block is acknowledged 1 ms after its busy ends with CD still low. -/
  | crdBlockAck
  /-- CRD_ATTEMPT_TIMEOUT (R436): A response, read or busy timeout fails a command attempt, which is retried within the budget. -/
  | crdAttemptTimeout (kind : Fin 5) (cmd : Fin 64) (status : Word)
  /-- CRD_CAIRN_TIMER (R442): cairn_ms after the first uncovered block a cairn is due. -/
  | crdCairnTimer
  /-- NFC_POLL (R451): Item 0x01 polls for Type A and Type B tags and fills the tag table. -/
  | nfcPoll (ext : Bool) (tags : List NfcTag) (left : Nat)
  /-- NFC_ACTIVATE (R454): Item 0x02 activates a tag, deselecting any other ACTIVE tag. -/
  | nfcActivate (ext : Bool) (fails : List (Fin 5 × Nat)) (late : Bool) (ans : Option (List Byte)) (crcBad : Bool)
  /-- NFC_EXCHANGE (R455): Item 0x03 exchanges an APDU with the ACTIVE tag under ISO-DEP. -/
  | nfcExchange (fails : List (Fin 5 × Nat)) (late : Bool) (ans : Option (List Byte))
  /-- NFC_DESELECT (R453): Item 0x04 deselects the ACTIVE tag. -/
  | nfcDeselect
  /-- NFC_FIELD_OFF (R449): Item 0x05 turns the reader field off and clears the tag table. -/
  | nfcFieldOff
  /-- NFC_FIELD_IDLE_TIMEOUT (R449): The reader turns its field off 2 s or 30 s after its last item. -/
  | nfcFieldIdleTimeout
  /-- NFC_EXT_FIELD_TIMEOUT (R448): An external field lasting 100 ms ends the waiting item with ST_BUSY and raises EV0983. -/
  | nfcExtFieldTimeout
  /-- NFC_SESSION_WAIT_TIMEOUT (R448): An island session not ended after 2 s ends the waiting item with ST_BUSY. -/
  | nfcSessionWaitTimeout
  /-- NFC_LPCD_PING (R457): A detection ping measures the antenna and may raise EV0980 and start a poll. -/
  | nfcLpcdPing (amp phase : Nat) (ovr : Bool) (tags : List NfcTag) (left : Nat)
  /-- ISLAND_FIELD_ON (R458): At field power-up the island mixes jitter into its generator and draws a new UID. -/
  | islandFieldOn
  /-- ISLAND_TYPE_A_FRAME (R458): The island answers ISO/IEC 14443-3 Type A frames as a single-size UID tag. -/
  | islandTypeAFrame (f : List Byte) (nbits : Nat)
  /-- ISLAND_PPS (R458): The island answers a PPS with DSI = DRI = 0 only. -/
  | islandPps (dsi dri : Fin 4)
  /-- ISLAND_SELECT (R461): SELECT of the island application opens a session on the committed bank. -/
  | islandSelect (b : List Byte) (mv : Nat)
  /-- ISLAND_READ (R462): READ returns bytes of an island file from the session's bank. -/
  | islandRead (b : List Byte) (decayed : Bool) (mv : Nat)
  /-- ISLAND_GET_STATUS (R463): GET STATUS returns the island's 16-byte status. -/
  | islandGetStatus (b : List Byte) (mv : Nat)
  /-- ISLAND_WRITE_NOTE (R465): WRITE NOTE commits a visit note through shadow page and commit mark. -/
  | islandWriteNote (b : List Byte) (mv : Nat) (cut : Option (Fin 6 × Bool))
  /-- ISLAND_SESSION_END (R460): A session ends at DESELECT, HLTA, field loss or a new SELECT, releasing held updates. -/
  | islandSessionEnd (how : Fin 3)
  /-- NFC_NOTE_DATA_READ (R464): A read of NFC_NOTE_DATA returns note page bytes and advances NFC_NOTE_SEL. -/
  | nfcNoteDataRead (r : Req)
  /-- ROPE_TICK_EDGE (R473): A member takes its tick from the leader's ROPE_TICK edge. -/
  | ropeTickEdge (elapsed : Nat) (mark : Bool) (env : TickEnv)
  /-- ROPE_TICK_LOSS (R476): No ROPE_TICK edge for 200 ns sends the member to HOLDOVER and raises EV0997. -/
  | ropeTickLoss
  /-- ROPE_REJOIN (R476): After 1 s of agreement and slewing within ±1 ns the member resumes following. -/
  | ropeRejoin
  /-- ROPE_EVENT_SLOT (R479): The leader receives forwarded member events and hands them to its recorder and selectors. -/
  | ropeEventSlot (lane : Fin 4) (bits : BitVec 40) (ok : Bool)
  /-- ROPE_DATA_SLOT (R480): A DATA slot carries 4 bytes of a flit between leader and member. -/
  | ropeDataSlot (lane : Fin 4) (bits : BitVec 40) (ok : Bool)
  /-- ROPE_CREDIT_SLOT (R480): A CREDIT slot returns buffer space for a VC. -/
  | ropeCreditSlot (lane : Fin 4) (bits : BitVec 40) (ok : Bool)
  /-- ROPE_TIME_SLOT (R474): TIME parts are compared with the member's counter, which adopts the leader's value on a difference. -/
  | ropeTimeSlot (lane : Fin 4) (bits : BitVec 40) (ok : Bool)
  /-- ROPE_STEP_SLOT (R475): STEP parts make the member apply the leader's step at its next tick. -/
  | ropeStepSlot (lane : Fin 4) (bits : BitVec 40) (ok : Bool)
  /-- ROPE_ORBIT_SLOT (R477): ORBIT parts deliver the leader's tracker updates and cycle positions to members. -/
  | ropeOrbitSlot (lane : Fin 4) (bits : BitVec 40) (ok : Bool)
  /-- ROPE_ORBIT_HI_SLOT (R477): ORBIT_HI delivers the high cycle count bits, adopted on a difference. -/
  | ropeOrbitHiSlot (lane : Fin 4) (bits : BitVec 40) (ok : Bool)
  /-- ROPE_MEMBER_LOSS (R480): No slot from a member for 16 ticks marks it lost and raises EV0996. -/
  | ropeMemberLoss (lane : Fin 4)
  /-- ISD_LINK_ALIGN (R481): A mode 6 port group's lanes align and deskew, and the link begins HELLO. -/
  | isdLinkAlign (p : Fin 8)
  /-- ISD_HELLO (R491): A HELLO flit is checked and brings the link UP or holds it. -/
  | isdHello (p : Fin 8) (f : Flit)
  /-- ISD_HELLO_TIMER (R491): An aligned link sends a HELLO every 100 µs. -/
  | isdHelloTimer (p : Fin 8)
  /-- ISD_DATA_FLIT (R484): A sequenced DATA flit is accepted in order and forwarded or delivered, or discarded. -/
  | isdDataFlit (p : Fin 8) (f : Flit)
  /-- ISD_IDLE_FLIT (R483): An IDLE flit delivers ack and credits. -/
  | isdIdleFlit (p : Fin 8) (f : Flit)
  /-- ISD_NAK (R485): A NAK makes the transmitter resend every held flit from the first unacknowledged. -/
  | isdNak (p : Fin 8) (f : Flit)
  /-- ISD_ACK_TIMEOUT (R485): A flit unacknowledged for 500 ns is resent, and exhausting the budget fails the link. -/
  | isdAckTimeout (p : Fin 8)
  /-- ISD_NAK_REPEAT (R484): A receiver repeats its NAK when nothing acceptable arrives within 500 ns. -/
  | isdNakRepeat (p : Fin 8)
  /-- ISD_TIME_FLIT (R489): A TIME flit yields offset and delay measurements for the link. -/
  | isdTimeFlit (p : Fin 8) (f : Flit) (off age : Nat)
  /-- ISD_TIME_TIMER (R489): Each UP link sends a TIME flit every 125 µs. -/
  | isdTimeTimer (p : Fin 8) (off eighths : Nat) (fabric : Bool)
  /-- ISD_TOPO (R493): A new TOPO flit updates the massif map and is flooded on. -/
  | isdTopo (p : Fin 8) (f : Flit)
  /-- ISD_TOPO_TIMER (R493): A node floods its TOPO every 100 ms. -/
  | isdTopoTimer
  /-- ISD_ELECTION_STANDS (R493): After 2 ms without TOPO change the summit election stands, and the summit assigns addresses and routes. -/
  | isdElectionStands (reqs : List (List Byte × Nat))
  /-- ISD_ROUTE (R495): A ROUTE flit naming this node installs its route table and address. -/
  | isdRoute (p : Fin 8) (f : Flit)
  /-- ISD_ADMIT_WRITE (R492): A Refuge write of ISD_ADMIT opens or closes the data VCs of a link. -/
  | isdAdmitWrite (r : Req) (v : BitVec 8)
  /-- ISD_ITEM_SEND (R498): ISD sends a claimed queue item as DATA flits to its mapped destination. -/
  | isdItemSend (queue : Fin 16384)
  /-- ISD_REASSEMBLY_TIMEOUT (R499): An item still incomplete 1 ms after its first flit is discarded. -/
  | isdReassemblyTimeout (j : Nat)
  /-- ISD_VC1_LATE_DROP (R486): A stream item without VC1 credit for vc1_late µs is dropped. -/
  | isdVc1LateDrop (p : Fin 8)
  /-- ISD_XMAP_COMMIT (R498): A commit installs an export map entry. -/
  | isdXmapCommit (r : Req)
  /-- ISD_XMAP_INVALIDATE (R498): An invalidate removes an export map entry. -/
  | isdXmapInvalidate (r : Req)
  /-- ISD_XMAP_READ (R498): A read command copies an export map entry into the staging registers. -/
  | isdXmapRead (r : Req)
  /-- SYS_RST_CMD (R518): A write of 0xA5C3 to SYS_RST_CMD starts a warm reset. -/
  | sysRstCmd (r : Req)
  /-- SYS_EXT_RST_WRITE (R520): A write of SYS_EXT_RST.assert holds or releases RESET_OUT_N. -/
  | sysExtRstWrite (r : Req) (assert : Bool)
  /-- JTAG_IDCODE (R537): IDCODE selects the identification register. -/
  | jtagIdcode
  /-- JTAG_SAMPLE_PRELOAD (R537): SAMPLE/PRELOAD samples or preloads the boundary register. -/
  | jtagSamplePreload (top ton : BitVec 64)
  /-- JTAG_EXTEST (R537): EXTEST drives pins from the boundary register when permitted, never energising a trip output. -/
  | jtagExtest (top ton : BitVec 64)
  /-- JTAG_INTEST (R537): INTEST tests the core through the boundary register when permitted. -/
  | jtagIntest (top ton : BitVec 64)
  /-- JTAG_CLAMP (R537): CLAMP holds outputs from the boundary register when permitted. -/
  | jtagClamp
  /-- JTAG_HIGHZ (R537): HIGHZ places outputs in high impedance when permitted. -/
  | jtagHighz
  /-- JTAG_BYPASS (R537): BYPASS, or any unknown or unpermitted code, selects the bypass register. -/
  | jtagBypass
  /-- DAP_ACCESS (R538): Update-DR of the DAP register issues a device access as requester 0x0D. -/
  | dapAccess (op : Fin 4) (addr : BitVec 40) (v : Word) (busy : Bool) (env : MemEnv)
  /-- DBG_MBOX_DATA_WRITE (R539): A write of DBG_MBOX_DATA appends four bytes to the mailbox. -/
  | dbgMboxDataWrite (r : Req) (v : Word)
  /-- DBG_MBOX_GO (R539): DBG_MBOX_CTRL.go submits the mailbox command to the Refuge as gate 250 does. -/
  | dbgMboxGo (r : Req) (len : Fin 131072) (env : CmdEnv)
  /-- EXT10_RETURN (R35): A 10 MHz signal becomes present on the OCXO input while TIM_CFG.ext10_en is 1, TIM starts measuring it and TIM_STATE.qualified bit 15 sets. -/
  | ext10Return
  /-- HST_LINK_UP (R118): The PCIe link trains and comes up, HST_LINK.up sets and EV0972 is raised with cause 1. -/
  | hstLinkUp (width speed : Fin 16)
  /-- ILLEGAL_INSTRUCTION (R232): An engine issues a reserved encoding, the word 0x0000_0000 or a 32-bit instruction straddling a wide page, and takes the illegal-instruction exception. -/
  | illegalInstruction (e : Fin 96) (word : Word) (half : Bool)
  /-- GATE_RESERVED (R264): trap #252 to #255 enters GATE and is answered with ST_BAD_PARAM. -/
  | gateReserved (e : Fin 96) (j : Fin 4) (same : List (Fin 96))
  /-- PKE_MEMORY_CLEAR_COMPLETE (R324): The 1,024-CCLK clear of the PKE operand memory after a slot_words write or a run-mode abort ends and STATUS.busy clears. -/
  | pkeMemoryClearComplete
  /-- DRAM_TEMPERATURE_REPORT (R297): The DRAM devices report a temperature above or back below 85 °C, refresh doubles or returns to normal, and DRC_STAT.hot follows. -/
  | dramTemperatureReport (k : Fin 2) (hot : Bool)
  /-- WARDEN_LOCKSTEP_MISMATCH (R344): The Warden cores' outputs differ in a CCLK and EV0080 presents 1. -/
  | wardenLockstepMismatch
  /-- ROPE_IDLE_SLOT (R470): An IDLE slot arrives on a rope lane, counting its member present and restarting the 16-tick loss count, or marking the member returned. -/
  | ropeIdleSlot (lane : Fin 4) (bits : BitVec 40) (ok : Bool)
  /-- ISD_LINK_DOWN (R504): A mode 6 link loses lane alignment, goes DOWN and raises EV0989. -/
  | isdLinkDown (p : Fin 8)
  deriving DecidableEq, Repr

end Sys2Proof
end

