-- ==== Sys2Proof/Config.lean ====
section
/-! DEFINITION. What the spec leaves open: the free values. Each is an opaque constant with no body; nothing in this
package knows a value of it. Each is named in the assumption log. -/

namespace Sys2Proof.Config

/-- The values the spec leaves open that are not a function of named operands, by name. A draw is `free kind n` with n
the draw counter of the state. -/
inductive Kind where
  | ext10LostRate | rateRound | flashLine | flashTorn | random | memory | downSample | rephased
  deriving DecidableEq, Repr

/-- A free value: the n-th draw of a kind (log entry 2). -/
opaque free : Kind → Nat → Nat

/-- Whether a quotient the spec gives without a rounding rule is rounded up (log entry 3). -/
opaque roundUp : Int → Int → Bool

/-- The phase error, in 2^-32 cycle, of an orbit tracker's window whose Z is zero: the argument of zero is not defined (log
entry 4). -/
opaque orbitPhase : List (Int × Nat) → BitVec 32

/-- The value of a resampled point where the bounds of R195 do not hold: a function of the input (times in 2^-16 ns and values,
newest first), an instant, a prefilter decimation and a point rate in 2^-24 Hz (log entry 24). -/
opaque resampled : List (Nat × Int) → Nat → Nat → Nat → BitVec 32

/-- The error of a resampled point against the reconstruction, which the model cuts to the bounds of R195 (log entry 24). -/
opaque resampleError : List (Nat × Int) → Nat → Nat → Nat → BitVec 32

/-- The local generator of a cipher pipeline (R306): its 1,024 output bits in a CCLK and its next state, from its 256 bits of state. The
spec does not give its algorithm (log entry 354). -/
opaque generatorOut : BitVec 256 → BitVec 1024
opaque generatorNext : BitVec 256 → BitVec 256

/-- The 128-byte header of a manifest, whose layout the spec does not give: of security version, device_uid field, role, WIDE
attribute words, load address and digest of each image (R349). -/
opaque manifestHeader : Nat → List (BitVec 8) → Nat → List (Nat × Nat) → List (Nat × List (BitVec 8)) → BitVec 1024

/-- The word that TMP drives on a shield mesh segment, of the seed TRN gave its generator, by segment and number; the bit that BKD's
generator drives on an external mesh pair, by pair and number (R369, R372): the spec gives neither generator. -/
opaque meshWord : Nat → Nat → Nat → BitVec 64
opaque xmBit : Nat → Nat → Bool

end Sys2Proof.Config
end

