-- ==== Sys2Proof/Machine/Bits.lean ====
section
/-! DEFINITION. Bit fields, sign extension, little-endian byte order (R6), saturation, CRC-32C (R409) and the sparse
tables every block keeps its repeated state in. -/

namespace Sys2Proof.Machine

/-- Bits [hi:lo] of a natural number (R6: bit 0 is the least significant). -/
def bitsOf (n hi lo : Nat) : Nat := (n >>> lo) % 2 ^ (hi + 1 - lo)

/-- Bit `i` of a natural number, as a Bool. -/
def bitOf (n i : Nat) : Bool := n.testBit i

/-- Replaces bits [hi:lo] of `n` by the low bits of `v`. -/
def setBits (n hi lo v : Nat) : Nat :=
  n - bitsOf n hi lo * 2 ^ lo + (v % 2 ^ (hi + 1 - lo)) * 2 ^ lo

/-- The signed value of the low `w` bits of `n`. -/
def signed (w n : Nat) : Int :=
  let m := n % 2 ^ w
  if 2 * m < 2 ^ w then (m : Int) else (m : Int) - (2 ^ w : Nat)

/-- The two's-complement image of `i` in `w` bits. -/
def unsigned (w : Nat) (i : Int) : Nat := (i % ((2 ^ w : Nat) : Int)).toNat

/-- `v` limited to the range `lo` to `hi`. -/
def clampInt (lo hi v : Int) : Int := if v < lo then lo else if hi < v then hi else v

/-- `a + b` saturating at `max`. -/
def satAdd (max a b : Nat) : Nat := if a + b ≤ max then a + b else max

/-- 1 for true, 0 for false. -/
def b2n (b : Bool) : Nat := if b then 1 else 0

/-- The numbers 0 to n - 1 whose bit is set in `v`, ascending. -/
def bitList (v : Nat) : Nat → List Nat
  | 0 => []
  | n + 1 => bitList v n ++ (if v.testBit n then [n] else [])

/-- The set bits of `v` among `w`, ascending; nothing is walked when `v` is zero. -/
def setBitsOf (v w : Nat) : List Nat := if v = 0 then [] else bitList v w

/-- The lowest set bit of `v` below `w`. -/
def lowestBit (v w : Nat) : Option Nat := (setBitsOf v w).head?

/-- The mask with the listed bits set. -/
def maskOf (l : List Nat) : Nat := l.foldl (fun m n => m ||| (1 <<< n)) 0

/-- `a` rounded up to a multiple of `m`. -/
def ceilDiv (a m : Nat) : Nat := if m = 0 then 0 else (a + m - 1) / m

/-- The `n` little-endian bytes of `v` (R6). -/
def leBytes (v : Nat) : Nat → List Byte
  | 0 => []
  | n + 1 => BitVec.ofNat 8 v :: leBytes (v / 256) n

/-- The value of a little-endian byte list (R6). -/
def leValue : List Byte → Nat
  | [] => 0
  | b :: bs => b.toNat + 256 * leValue bs

/-- The `n` big-endian bytes of `v`: the order of fields whose wire order a cited standard fixes (R6). -/
def beBytes (v n : Nat) : List Byte := (leBytes v n).reverse

/-- The value of a big-endian byte list. -/
def beValue (l : List Byte) : Nat := leValue l.reverse

/-- `l` from `off`, `n` bytes, short where `l` ends. -/
def slice (l : List Byte) (off n : Nat) : List Byte := (l.drop off).take n

/-- `l` cut or zero-padded to `n` bytes. -/
def padTo (n : Nat) (l : List Byte) : List Byte := (l ++ List.replicate (n - l.length) 0).take n

/-- `src` written over `l` from `off`; bytes past the end of `l` are dropped. -/
def overlay (l : List Byte) (off : Nat) (src : List Byte) : List Byte :=
  l.take off ++ (src.take (l.length - off)) ++ l.drop (off + src.length)

/-- One bit step of CRC-32C, reflected (R409). -/
def crcBit (c : BitVec 32) : BitVec 32 :=
  if c.getLsbD 0 then (c >>> 1) ^^^ 0x82F63B78#32 else c >>> 1

/-- One byte of CRC-32C (R409). -/
def crcByte (c : BitVec 32) (b : Byte) : BitVec 32 :=
  let c := c ^^^ b.setWidth 32
  crcBit (crcBit (crcBit (crcBit (crcBit (crcBit (crcBit (crcBit c)))))))

/-- CRC-32C, Castagnoli: reflected, initial value and final XOR all ones (R409). -/
def crc32c (l : List Byte) : BitVec 32 := (l.foldl crcByte 0xFFFFFFFF#32) ^^^ 0xFFFFFFFF#32

/-- One bit and one byte step of the frame check sequence of IEEE 802.3, reflected. -/
def ethBit (c : BitVec 32) : BitVec 32 :=
  if c.getLsbD 0 then (c >>> 1) ^^^ 0xEDB88320#32 else c >>> 1

def ethByte (c : BitVec 32) (b : Byte) : BitVec 32 :=
  let c := c ^^^ b.setWidth 32
  ethBit (ethBit (ethBit (ethBit (ethBit (ethBit (ethBit (ethBit c)))))))

/-- The frame check sequence of a frame without its FCS (log entry 21). -/
def crc32eth (l : List Byte) : Nat := ((l.foldl ethByte 0xFFFFFFFF#32) ^^^ 0xFFFFFFFF#32).toNat

/-- The big-endian value of `n` bytes at `off`. -/
def beAt (l : List Byte) (off n : Nat) : Nat := beValue (padTo n (slice l off n))

/-- The little-endian value of `n` bytes at `off`. -/
def leAt (l : List Byte) (off n : Nat) : Nat := leValue (slice l off n)

/-! ### Sparse tables -/

/-- A table of like things by number: strictly rising keys, and no entry equal to the default of the table. -/
abbrev Tbl (α : Type) := List (Nat × α)

/-- The entry `k`, or the table's default. -/
def Tbl.get {α : Type} : Tbl α → Nat → α → α
  | [], _, d => d
  | (k', v) :: t, k, d => if k = k' then v else Tbl.get t k d

/-- Puts `v` at `k`, keeping the keys rising. -/
def Tbl.put {α : Type} : Tbl α → Nat → α → Tbl α
  | [], k, v => [(k, v)]
  | (k', v') :: t, k, v =>
    if k < k' then (k, v) :: (k', v') :: t
    else if k = k' then (k, v) :: t
    else (k', v') :: Tbl.put t k v

/-- Removes the entry at `k`. -/
def Tbl.del {α : Type} (t : Tbl α) (k : Nat) : Tbl α := t.filter (fun e => e.1 != k)

/-- Stores `v` at `k` in canonical form: the default is not listed. -/
def Tbl.set {α : Type} [DecidableEq α] (t : Tbl α) (k : Nat) (v d : α) : Tbl α :=
  if v = d then Tbl.del t k else Tbl.put t k v

/-- Removes every entry whose key the test names. -/
def Tbl.drop {α : Type} (t : Tbl α) (p : Nat → Bool) : Tbl α := t.filter (fun e => !p e.1)

/-- Strictly rising keys. -/
def Tbl.rising {α : Type} : Tbl α → Bool
  | [] => true
  | [_] => true
  | (k, _) :: (k', v') :: t => decide (k < k') && Tbl.rising ((k', v') :: t)

end Sys2Proof.Machine
end

