-- ==== Sys2Proof/Machine/RegMap.lean ====
section
/-! DEFINITION. The register pages of R290 and the register layouts of the spec's register tables: for every register its
offset, stride and count, who may write it, whether it is shadowed (R289), and its fields with access type (R7) and
reset value. -/

namespace Sys2Proof.Machine

/-- The blocks that have a register page (R290). -/
inductive Blk where
  | sys
  | dbg
  | tim
  | orb
  | evm
  | pit
  | bio
  | tou
  | prt
  | mgp
  | hst
  | trv
  | qmg
  | sbf
  | cnv
  | wfc
  | rsm
  | clu
  | drc
  | mce
  | cpl
  | pke
  | hsh
  | trn
  | rfg
  | lcc
  | tmp
  | bkd
  | flc
  | evr
  | crd
  | nfc
  | isd
  | rop
  | eng
  deriving DecidableEq, Repr

/-- Field access types (R7). -/
inductive Acc where
  | ro | rw | w1c | wo | wl | rc
  deriving DecidableEq, Repr

/-- Who may write a register beyond the header rule of R285: `std` is that rule itself, `refuge` the Refuge alone,
`pSup` P-world supervisor level and the Refuge (R64, R88), `raise` the rule of EVM_RAISE (R88), `engSup` the
supervisor level of the engine's world and the Refuge (R278), `bootOk` R351, `pSupDbg` P-world supervisor level, the
Refuge and DBG (R365), `dbg` DBG and the Refuge (R540), `any` every requester (R407), `qmg` the rule of R175: the queue addressed decides. -/
inductive Priv where
  | std | refuge | pSup | raise | engSup | engRun | bootOk | pSupDbg | dbg | any | qmg
  deriving DecidableEq, Repr

/-- One field of a register table. -/
structure FieldDesc where
  hi : Nat
  lo : Nat
  acc : Acc
  reset : Nat
  deriving DecidableEq, Repr

/-- One register (or a row of `count` registers `stride` bytes apart). -/
structure RegDesc where
  off : Nat
  stride : Nat
  count : Nat
  priv : Priv
  shadow : Bool
  fields : List FieldDesc
  deriving DecidableEq, Repr

/-- A named field: block page of instance 0, offset, stride, bits. -/
structure Fld where
  page : Nat
  off : Nat
  stride : Nat
  hi : Nat
  lo : Nat
  deriving DecidableEq, Repr

/-- The register described by `r` lies at `off`. -/
def RegDesc.covers (r : RegDesc) (off : Nat) : Bool :=
  if r.stride = 0 then decide (off = r.off)
  else decide (r.off ≤ off) && decide ((off - r.off) % r.stride = 0) && decide ((off - r.off) / r.stride < r.count)

/-- The reset word of a register: its fields' reset values (R8: reserved bits are zero). -/
def RegDesc.resetWord (r : RegDesc) : Nat := r.fields.foldl (fun w f => w + (f.reset % 2 ^ (f.hi + 1 - f.lo)) * 2 ^ f.lo) 0

/-- The page index of instance 0 of a block (R290). -/
def Blk.page : Blk → Nat
  | .sys => 0x000
  | .dbg => 0x001
  | .tim => 0x002
  | .orb => 0x003
  | .evm => 0x004
  | .pit => 0x005
  | .bio => 0x006
  | .tou => 0x007
  | .prt => 0x010
  | .mgp => 0x018
  | .hst => 0x01C
  | .trv => 0x020
  | .qmg => 0x021
  | .sbf => 0x022
  | .cnv => 0x030
  | .wfc => 0x031
  | .rsm => 0x040
  | .clu => 0x050
  | .drc => 0x060
  | .mce => 0x062
  | .cpl => 0x070
  | .pke => 0x078
  | .hsh => 0x079
  | .trn => 0x07A
  | .rfg => 0x07B
  | .lcc => 0x07C
  | .tmp => 0x07D
  | .bkd => 0x07E
  | .flc => 0x080
  | .evr => 0x081
  | .crd => 0x082
  | .nfc => 0x083
  | .isd => 0x084
  | .rop => 0x085
  | .eng => 0x100

/-- How many instances a block has (R290). -/
def Blk.count : Blk → Nat
  | .sys => 1
  | .dbg => 1
  | .tim => 1
  | .orb => 1
  | .evm => 1
  | .pit => 1
  | .bio => 1
  | .tou => 1
  | .prt => 8
  | .mgp => 4
  | .hst => 1
  | .trv => 1
  | .qmg => 1
  | .sbf => 1
  | .cnv => 1
  | .wfc => 1
  | .rsm => 12
  | .clu => 12
  | .drc => 2
  | .mce => 1
  | .cpl => 8
  | .pke => 1
  | .hsh => 1
  | .trn => 1
  | .rfg => 1
  | .lcc => 1
  | .tmp => 1
  | .bkd => 1
  | .flc => 1
  | .evr => 1
  | .crd => 1
  | .nfc => 1
  | .isd => 1
  | .rop => 1
  | .eng => 96

/-- The block type of ID (R290). -/
def Blk.type : Blk → Nat
  | .sys => 0x0001
  | .dbg => 0x0002
  | .tim => 0x0003
  | .orb => 0x0004
  | .evm => 0x0005
  | .pit => 0x0006
  | .bio => 0x0007
  | .tou => 0x0008
  | .prt => 0x0010
  | .mgp => 0x0011
  | .hst => 0x0012
  | .trv => 0x0020
  | .qmg => 0x0021
  | .sbf => 0x0022
  | .cnv => 0x0030
  | .wfc => 0x0032
  | .rsm => 0x0031
  | .clu => 0x0041
  | .drc => 0x0050
  | .mce => 0x0051
  | .cpl => 0x0060
  | .pke => 0x0061
  | .hsh => 0x0062
  | .trn => 0x0063
  | .rfg => 0x0064
  | .lcc => 0x0065
  | .tmp => 0x0066
  | .bkd => 0x0067
  | .flc => 0x0070
  | .evr => 0x0071
  | .crd => 0x0072
  | .nfc => 0x0073
  | .isd => 0x0080
  | .rop => 0x0081
  | .eng => 0x0040

/-- The shadow group of a block: its source is EV(72 + g) (R303). -/
def Blk.shadowGroup : Blk → Nat
  | .sys => 0
  | .dbg => 0
  | .tim => 0
  | .orb => 0
  | .evm => 1
  | .pit => 1
  | .bio => 1
  | .tou => 1
  | .prt => 2
  | .mgp => 2
  | .hst => 2
  | .trv => 3
  | .qmg => 3
  | .sbf => 3
  | .cnv => 4
  | .wfc => 4
  | .rsm => 4
  | .clu => 5
  | .drc => 6
  | .mce => 6
  | .cpl => 6
  | .pke => 6
  | .hsh => 6
  | .trn => 7
  | .rfg => 7
  | .lcc => 7
  | .tmp => 7
  | .bkd => 7
  | .flc => 7
  | .evr => 7
  | .crd => 7
  | .nfc => 7
  | .isd => 7
  | .rop => 7
  | .eng => 5

/-- Every block. -/
def allBlks : List Blk :=
  [.sys, .dbg, .tim, .orb, .evm, .pit, .bio, .tou, .prt, .mgp, .hst, .trv, .qmg, .sbf, .cnv, .wfc, .rsm, .clu, .drc, .mce, .cpl, .pke, .hsh, .trn, .rfg, .lcc, .tmp, .bkd, .flc, .evr, .crd, .nfc, .isd, .rop, .eng]

/-- The block and instance of a page index; every index not listed in R290 is unassigned. -/
def pageBlock (page : Nat) : Option (Blk × Nat) :=
  (allBlks.find? (fun b => decide (b.page ≤ page) && decide (page < b.page + b.count))).map (fun b => (b, page - b.page))

/-- The header of every page (R286, R304). The owner's supervisor is refused a write of a read-only one, the Refuge's is ignored: DESIGN CHOICE, log
entry 492. -/
def headerRegs : List RegDesc :=
  [/- ID -/ ⟨0x000, 0, 1, .refuge, false, [⟨31, 16, .ro, 0⟩, ⟨15, 8, .ro, 0⟩, ⟨7, 0, .ro, 1⟩]⟩,
   /- CAPS -/ ⟨0x004, 0, 1, .refuge, false, [⟨31, 0, .ro, 0⟩]⟩,
   /- CTRL -/ ⟨0x008, 0, 1, .std, true, [⟨2, 2, .rw, 0⟩, ⟨1, 1, .rw, 0⟩, ⟨0, 0, .rw, 0⟩]⟩,
   /- STATUS -/ ⟨0x00C, 0, 1, .refuge, false, [⟨15, 8, .ro, 0⟩, ⟨4, 4, .ro, 0⟩, ⟨3, 3, .ro, 0⟩, ⟨2, 2, .ro, 0⟩, ⟨1, 1, .ro, 0⟩, ⟨0, 0, .ro, 0⟩]⟩,
   /- IRQ_RAW -/ ⟨0x010, 0, 1, .refuge, false, [⟨31, 0, .ro, 0⟩]⟩,
   /- IRQ_EN -/ ⟨0x014, 0, 1, .std, false, [⟨31, 0, .rw, 0⟩]⟩,
   /- IRQ_STAT -/ ⟨0x018, 0, 1, .std, false, [⟨31, 0, .w1c, 0⟩]⟩,
   /- IRQ_SET -/ ⟨0x01C, 0, 1, .std, false, [⟨31, 0, .wo, 0⟩]⟩,
   /- WORLD_ACC -/ ⟨0x020, 0, 1, .refuge, true, [⟨6, 6, .rw, 0⟩, ⟨5, 5, .rw, 0⟩, ⟨4, 4, .rw, 0⟩, ⟨3, 3, .rw, 0⟩, ⟨2, 2, .rw, 0⟩, ⟨1, 0, .rw, 0⟩]⟩,
   /- LOCK -/ ⟨0x024, 0, 1, .any, false, [⟨7, 0, .rw, 0xff⟩]⟩,
   /- FAULT_INFO -/ ⟨0x028, 0, 1, .refuge, false, [⟨31, 31, .ro, 0⟩, ⟨30, 28, .ro, 0⟩, ⟨27, 16, .ro, 0⟩, ⟨15, 8, .ro, 0⟩, ⟨7, 0, .ro, 0⟩]⟩,
   /- SHADOW_CHK -/ ⟨0x02C, 0, 1, .refuge, false, [⟨31, 31, .ro, 0⟩, ⟨23, 16, .ro, 0⟩, ⟨10, 0, .ro, 0⟩]⟩]

/-- Block registers of the SYS page (R540). -/
def regsSys : List RegDesc :=
  [/- SYS_RST_CAUSE -/ ⟨0x040, 0, 1, .refuge, false, [⟨5, 5, .w1c, 0⟩, ⟨4, 4, .w1c, 0⟩, ⟨3, 3, .w1c, 0⟩, ⟨2, 2, .w1c, 0⟩, ⟨1, 1, .w1c, 0⟩, ⟨0, 0, .w1c, 0⟩]⟩,
   /- SYS_STRAP -/ ⟨0x044, 0, 1, .refuge, false, [⟨2, 2, .ro, 0⟩, ⟨1, 0, .ro, 0⟩]⟩,
   /- SYS_CLKMON -/ ⟨0x048, 0, 1, .refuge, false, [⟨31, 16, .ro, 0⟩, ⟨3, 0, .ro, 0⟩]⟩,
   /- SYS_RST_CMD -/ ⟨0x04C, 0, 1, .refuge, false, [⟨31, 16, .wo, 0⟩]⟩,
   /- SYS_EXT_RST -/ ⟨0x050, 0, 1, .refuge, true, [⟨0, 0, .rw, 0⟩]⟩]

/-- Block registers of the DBG page (R540). -/
def regsDbg : List RegDesc :=
  [/- DBG_MBOX_DATA -/ ⟨0x040, 0, 1, .dbg, false, [⟨31, 0, .wo, 0⟩]⟩,
   /- DBG_MBOX_CTRL -/ ⟨0x044, 0, 1, .dbg, false, [⟨31, 31, .wo, 0⟩, ⟨16, 0, .wo, 0⟩]⟩,
   /- DBG_MBOX_STAT -/ ⟨0x048, 0, 1, .dbg, false, [⟨31, 31, .ro, 0⟩, ⟨30, 30, .ro, 0⟩, ⟨27, 20, .ro, 0⟩, ⟨16, 0, .ro, 0⟩]⟩]

/-- Block registers of the TIM page (R63). -/
def regsTim : List RegDesc :=
  [/- TIM_CFG -/ ⟨0x040, 0, 1, .refuge, true, [⟨31, 16, .rw, 0xe10⟩, ⟨15, 8, .rw, 0xa⟩, ⟨6, 6, .rw, 0⟩, ⟨5, 4, .rw, 0⟩, ⟨3, 3, .rw, 0⟩, ⟨2, 2, .rw, 0⟩, ⟨1, 1, .ro, 0⟩]⟩,
   /- TIM_STATE -/ ⟨0x044, 0, 1, .refuge, false, [⟨31, 16, .ro, 0⟩, ⟨15, 12, .ro, 0⟩, ⟨9, 8, .ro, 0⟩, ⟨7, 7, .ro, 0⟩, ⟨6, 6, .ro, 0⟩, ⟨2, 0, .ro, 0⟩]⟩,
   /- TIM_SRC_PRIO -/ ⟨0x048, 0, 1, .refuge, true, [⟨7, 6, .rw, 0⟩, ⟨5, 4, .rw, 3⟩, ⟨3, 2, .rw, 2⟩, ⟨1, 0, .rw, 1⟩]⟩,
   /- TIM_SERVO -/ ⟨0x04C, 0, 1, .refuge, false, [⟨31, 16, .rw, 0x64⟩, ⟨1, 1, .rw, 0⟩, ⟨0, 0, .rw, 0⟩]⟩,
   /- TIM_TAI_LO -/ ⟨0x050, 0, 1, .refuge, false, [⟨31, 0, .ro, 0⟩]⟩,
   /- TIM_TAI_HI -/ ⟨0x054, 0, 1, .refuge, false, [⟨31, 0, .ro, 0⟩]⟩,
   /- TIM_FREQ_ADJ -/ ⟨0x058, 0, 1, .refuge, true, [⟨31, 0, .rw, 0⟩]⟩,
   /- TIM_PHASE_ADJ -/ ⟨0x05C, 0, 1, .refuge, false, [⟨31, 0, .rw, 0⟩]⟩,
   /- TIM_STEP -/ ⟨0x060, 0, 1, .refuge, false, [⟨31, 0, .rw, 0⟩]⟩,
   /- TIM_SET_LO -/ ⟨0x064, 0, 1, .refuge, false, [⟨31, 0, .wo, 0⟩]⟩,
   /- TIM_SET_HI -/ ⟨0x068, 0, 1, .refuge, false, [⟨31, 0, .wo, 0⟩]⟩,
   /- TIM_UTC -/ ⟨0x06C, 0, 1, .refuge, false, [⟨15, 0, .rw, 0x25⟩]⟩,
   /- TIM_PPS_CAP_LO -/ ⟨0x070, 0, 1, .refuge, false, [⟨31, 0, .ro, 0⟩]⟩,
   /- TIM_PPS_CAP_HI -/ ⟨0x074, 0, 1, .refuge, false, [⟨31, 0, .ro, 0⟩]⟩,
   /- TIM_IRIG_CFG -/ ⟨0x078, 0, 1, .refuge, false, [⟨31, 16, .rw, 0⟩, ⟨15, 8, .rw, 0⟩, ⟨2, 2, .rw, 0⟩, ⟨1, 1, .rw, 0⟩, ⟨0, 0, .rw, 0⟩]⟩,
   /- TIM_IRIG_STAT -/ ⟨0x07C, 0, 1, .refuge, false, [⟨31, 16, .rc, 0⟩, ⟨0, 0, .ro, 0⟩]⟩,
   /- TIM_IRIG_TAI_LO -/ ⟨0x080, 0, 1, .refuge, false, [⟨31, 0, .ro, 0⟩]⟩,
   /- TIM_IRIG_TAI_HI -/ ⟨0x084, 0, 1, .refuge, false, [⟨31, 0, .ro, 0⟩]⟩,
   /- TIM_SNAP -/ ⟨0x088, 0, 1, .std, false, [⟨31, 31, .ro, 0⟩, ⟨0, 0, .wo, 0⟩]⟩,
   /- TIM_SNAP_TAI_LO -/ ⟨0x090, 0, 1, .refuge, false, [⟨31, 0, .ro, 0⟩]⟩,
   /- TIM_SNAP_TAI_HI -/ ⟨0x094, 0, 1, .refuge, false, [⟨31, 0, .ro, 0⟩]⟩,
   /- TIM_SNAP_ORBn_LO -/ ⟨0x098, 8, 4, .refuge, false, [⟨31, 0, .ro, 0⟩]⟩,
   /- TIM_SNAP_ORBn_HI -/ ⟨0x09C, 8, 4, .refuge, false, [⟨31, 0, .ro, 0⟩]⟩]

/-- Block registers of the ORB page (R63). -/
def regsOrb : List RegDesc :=
  [/- ORBn_SRC -/ ⟨0x040, 64, 4, .pSup, false, [⟨31, 30, .rw, 0⟩, ⟨29, 16, .rw, 0⟩, ⟨15, 8, .rw, 0⟩, ⟨4, 0, .rw, 0⟩]⟩,
   /- ORBn_CFG -/ ⟨0x044, 64, 4, .pSup, false, [⟨31, 16, .rw, 0xfa⟩, ⟨5, 4, .rw, 1⟩, ⟨1, 1, .rw, 0⟩, ⟨0, 0, .rw, 0⟩]⟩,
   /- ORBn_OFFSET -/ ⟨0x048, 64, 4, .pSup, false, [⟨15, 0, .rw, 0⟩]⟩,
   /- ORBn_LEVEL -/ ⟨0x04C, 64, 4, .pSup, false, [⟨31, 16, .rw, 0x1333⟩, ⟨15, 0, .rw, 0xccd⟩]⟩,
   /- ORBn_STATE -/ ⟨0x050, 64, 4, .pSup, false, [⟨31, 16, .ro, 0⟩, ⟨2, 0, .ro, 0⟩]⟩,
   /- ORBn_FREQ -/ ⟨0x054, 64, 4, .pSup, false, [⟨31, 0, .ro, 0⟩]⟩,
   /- ORBn_ROCOF -/ ⟨0x058, 64, 4, .pSup, false, [⟨31, 0, .ro, 0⟩]⟩,
   /- ORBn_PHERR -/ ⟨0x05C, 64, 4, .pSup, false, [⟨31, 0, .ro, 0⟩]⟩,
   /- ORBn_AMPL -/ ⟨0x068, 64, 4, .pSup, false, [⟨31, 0, .ro, 0⟩]⟩,
   /- ORBn_POS_LO -/ ⟨0x060, 64, 4, .pSup, false, [⟨31, 16, .ro, 0⟩, ⟨15, 0, .ro, 0⟩]⟩,
   /- ORBn_POS_HI -/ ⟨0x064, 64, 4, .pSup, false, [⟨31, 0, .ro, 0⟩]⟩,
   /- ORB_CMPk -/ ⟨0x200, 4, 16, .pSup, false, [⟨31, 31, .rw, 0⟩, ⟨25, 24, .rw, 0⟩, ⟨15, 0, .rw, 0⟩]⟩]

/-- Block registers of the EVM page (R88). -/
def regsEvm : List RegDesc :=
  [/- EVM_TICK_CTRL -/ ⟨0x040, 0, 1, .std, false, [⟨31, 31, .ro, 0⟩, ⟨0, 0, .wo, 0⟩]⟩,
   /- EVM_SRC_SEL -/ ⟨0x044, 0, 1, .std, false, [⟨9, 0, .rw, 0⟩]⟩,
   /- EVM_SRC_CFG -/ ⟨0x048, 0, 1, .pSup, false, [⟨23, 16, .rw, 0⟩, ⟨13, 12, .rw, 0⟩, ⟨11, 11, .ro, 0⟩, ⟨10, 8, .rw, 1⟩, ⟨7, 4, .rw, 0⟩, ⟨1, 1, .rw, 0⟩, ⟨0, 0, .rw, 1⟩]⟩,
   /- EVM_RAISE -/ ⟨0x04C, 0, 1, .raise, false, [⟨31, 16, .wo, 0⟩, ⟨9, 0, .wo, 0⟩]⟩,
   /- EVM_REC_DROP -/ ⟨0x050, 0, 1, .std, false, [⟨31, 16, .rc, 0⟩, ⟨15, 0, .rc, 0⟩]⟩,
   /- EVM_CSEL_SEL -/ ⟨0x054, 0, 1, .std, false, [⟨8, 0, .rw, 0⟩]⟩,
   /- EVM_CSEL -/ ⟨0x058, 0, 1, .std, false, [⟨31, 31, .rw, 0⟩, ⟨30, 29, .rw, 1⟩, ⟨28, 28, .rw, 0⟩, ⟨27, 26, .rw, 0⟩, ⟨9, 0, .rw, 0⟩]⟩,
   /- EVM_SNAPk -/ ⟨0x100, 4, 32, .std, false, [⟨31, 0, .ro, 0⟩]⟩]

/-- Block registers of the PIT page (R88). -/
def regsPit : List RegDesc :=
  [/- PIT_CTRL -/ ⟨0x040, 0, 1, .pSup, true, [⟨1, 1, .ro, 0⟩, ⟨0, 0, .wo, 0⟩]⟩,
   /- PIT_SEL -/ ⟨0x044, 0, 1, .pSup, false, [⟨7, 0, .rw, 0⟩]⟩,
   /- PIT_LITk -/ ⟨0x050, 4, 4, .pSup, false, [⟨31, 16, .rw, 0⟩, ⟨15, 0, .rw, 0⟩]⟩,
   /- PIT_OMASK_LO -/ ⟨0x060, 0, 1, .pSup, false, [⟨31, 0, .rw, 0⟩]⟩,
   /- PIT_OMASK_HI -/ ⟨0x064, 0, 1, .pSup, false, [⟨31, 0, .rw, 0⟩]⟩,
   /- PIT_TERM_STATk -/ ⟨0x080, 4, 8, .pSup, false, [⟨31, 0, .ro, 0⟩]⟩]

/-- Block registers of the BIO page (R88). -/
def regsBio : List RegDesc :=
  [/- BIO_CHAT -/ ⟨0x040, 0, 1, .pSup, false, [⟨31, 16, .rw, 0x3e8⟩, ⟨15, 0, .rw, 0x1388⟩]⟩,
   /- BIO_ETIME_SEL -/ ⟨0x044, 0, 1, .pSup, false, [⟨24, 24, .ro, 0⟩, ⟨21, 16, .ro, 0⟩, ⟨6, 0, .rw, 0⟩]⟩,
   /- BIO_ETIME_LO -/ ⟨0x048, 0, 1, .pSup, false, [⟨31, 0, .ro, 0⟩]⟩,
   /- BIO_ETIME_HI -/ ⟨0x04C, 0, 1, .pSup, false, [⟨31, 0, .ro, 0⟩]⟩,
   /- BIO_LEVELk -/ ⟨0x060, 4, 4, .pSup, false, [⟨31, 0, .ro, 0⟩]⟩,
   /- BIO_BLOCKk -/ ⟨0x070, 4, 4, .pSup, false, [⟨31, 0, .w1c, 0⟩]⟩,
   /- BIO_CFGn -/ ⟨0x200, 4, 128, .pSup, true, [⟨31, 20, .rw, 0⟩, ⟨19, 18, .rw, 0⟩, ⟨17, 14, .rw, 0⟩, ⟨2, 2, .rw, 0⟩, ⟨1, 1, .rw, 0⟩, ⟨0, 0, .rw, 0⟩]⟩]

/-- Block registers of the TOU page (R88). -/
def regsTou : List RegDesc :=
  [/- TOU_CMD_LO -/ ⟨0x040, 0, 1, .pSup, false, [⟨31, 0, .ro, 0⟩]⟩,
   /- TOU_CMD_HI -/ ⟨0x044, 0, 1, .pSup, false, [⟨31, 0, .ro, 0⟩]⟩,
   /- TOU_FB_LO -/ ⟨0x048, 0, 1, .pSup, false, [⟨31, 0, .ro, 0⟩]⟩,
   /- TOU_FB_HI -/ ⟨0x04C, 0, 1, .pSup, false, [⟨31, 0, .ro, 0⟩]⟩,
   /- TOU_MISM_LO -/ ⟨0x050, 0, 1, .pSup, false, [⟨31, 0, .w1c, 0⟩]⟩,
   /- TOU_MISM_HI -/ ⟨0x054, 0, 1, .pSup, false, [⟨31, 0, .w1c, 0⟩]⟩,
   /- TOU_UNLATCH_LO -/ ⟨0x058, 0, 1, .pSup, false, [⟨31, 0, .wo, 0⟩]⟩,
   /- TOU_UNLATCH_HI -/ ⟨0x05C, 0, 1, .pSup, false, [⟨31, 0, .wo, 0⟩]⟩,
   /- TOU_CFGn -/ ⟨0x100, 4, 64, .pSup, true, [⟨31, 16, .rw, 0⟩, ⟨15, 4, .rw, 0⟩, ⟨3, 3, .rw, 0⟩, ⟨2, 2, .rw, 0⟩, ⟨1, 1, .rw, 0⟩, ⟨0, 0, .rw, 0⟩]⟩]

/-- Block registers of the PRT page (R120). -/
def regsPrt : List RegDesc :=
  [/- PRT_MODE -/ ⟨0x040, 0, 1, .std, true, [⟨2, 0, .rw, 0⟩]⟩,
   /- PRT_FEC -/ ⟨0x044, 0, 1, .std, false, [⟨7, 0, .rw, 0xaa⟩]⟩,
   /- PRT_AN -/ ⟨0x048, 0, 1, .std, false, [⟨4, 4, .rw, 1⟩, ⟨3, 0, .rw, 0xf⟩]⟩,
   /- PRT_LANE -/ ⟨0x04C, 0, 1, .std, false, [⟨7, 4, .rw, 0⟩, ⟨3, 0, .rw, 0⟩]⟩,
   /- PRT_LINK -/ ⟨0x050, 0, 1, .std, false, [⟨31, 28, .ro, 0⟩, ⟨27, 24, .ro, 0⟩, ⟨23, 20, .ro, 0⟩, ⟨19, 16, .ro, 0⟩, ⟨3, 0, .ro, 0⟩]⟩,
   /- PRT_MAC -/ ⟨0x054, 0, 1, .std, false, [⟨13, 0, .rw, 0x5f2⟩]⟩,
   /- PRT_MAC_ADDR_LO -/ ⟨0x058, 0, 1, .std, false, [⟨31, 0, .rw, 0⟩]⟩,
   /- PRT_MAC_ADDR_HI -/ ⟨0x05C, 0, 1, .std, false, [⟨15, 0, .rw, 0⟩]⟩,
   /- PRT_PTP -/ ⟨0x060, 0, 1, .std, false, [⟨2, 2, .rw, 0⟩, ⟨1, 1, .rw, 0⟩, ⟨0, 0, .rw, 0⟩]⟩,
   /- PRT_TS_ADJ -/ ⟨0x064, 0, 1, .refuge, false, [⟨31, 16, .rw, 0⟩, ⟨15, 0, .rw, 0⟩]⟩,
   /- PRT_PEER_DELAY -/ ⟨0x068, 0, 1, .refuge, false, [⟨31, 0, .rw, 0⟩]⟩,
   /- PRT_TS_STAT -/ ⟨0x06C, 0, 1, .std, false, [⟨31, 16, .rc, 0⟩, ⟨6, 0, .ro, 0⟩]⟩,
   /- PRT_TS_Wk -/ ⟨0x070, 4, 4, .std, false, [⟨31, 0, .ro, 0⟩]⟩,
   /- PRT_PRP -/ ⟨0x080, 0, 1, .std, true, [⟨31, 20, .rw, 0x190⟩, ⟨19, 8, .rw, 0x7d0⟩, ⟨0, 0, .rw, 0⟩]⟩,
   /- PRT_PRP_SUP -/ ⟨0x084, 0, 1, .std, false, [⟨7, 0, .rw, 0⟩]⟩,
   /- PRT_CNT_SEL -/ ⟨0x090, 0, 1, .std, false, [⟨9, 8, .rw, 0⟩, ⟨5, 0, .rw, 0⟩]⟩,
   /- PRT_CNT_LO -/ ⟨0x094, 0, 1, .std, false, [⟨31, 0, .ro, 0⟩]⟩,
   /- PRT_CNT_HI -/ ⟨0x098, 0, 1, .std, false, [⟨31, 0, .ro, 0⟩]⟩,
   /- PRT_CNT_CLR -/ ⟨0x09C, 0, 1, .std, false, [⟨0, 0, .wo, 0⟩]⟩]

/-- Block registers of the MGP page (R120). -/
def regsMgp : List RegDesc :=
  [/- MGP_MODE -/ ⟨0x040, 0, 1, .std, false, [⟨1, 0, .rw, 0⟩]⟩,
   /- MGP_LINK -/ ⟨0x050, 0, 1, .std, false, [⟨3, 3, .ro, 0⟩, ⟨2, 2, .ro, 0⟩, ⟨1, 1, .ro, 0⟩, ⟨0, 0, .ro, 0⟩]⟩,
   /- MGP_MAC -/ ⟨0x054, 0, 1, .std, false, [⟨13, 0, .rw, 0x5f2⟩]⟩,
   /- MGP_MAC_ADDR_LO -/ ⟨0x058, 0, 1, .std, false, [⟨31, 0, .rw, 0⟩]⟩,
   /- MGP_MAC_ADDR_HI -/ ⟨0x05C, 0, 1, .std, false, [⟨15, 0, .rw, 0⟩]⟩,
   /- MGP_PTP -/ ⟨0x060, 0, 1, .std, false, [⟨2, 2, .rw, 0⟩, ⟨1, 1, .rw, 0⟩, ⟨0, 0, .rw, 0⟩]⟩,
   /- MGP_TS_ADJ -/ ⟨0x064, 0, 1, .refuge, false, [⟨31, 16, .rw, 0⟩, ⟨15, 0, .rw, 0⟩]⟩,
   /- MGP_PEER_DELAY -/ ⟨0x068, 0, 1, .refuge, false, [⟨31, 0, .rw, 0⟩]⟩,
   /- MGP_TS_STAT -/ ⟨0x06C, 0, 1, .std, false, [⟨31, 16, .rc, 0⟩, ⟨6, 0, .ro, 0⟩]⟩,
   /- MGP_TS_Wk -/ ⟨0x070, 4, 4, .std, false, [⟨31, 0, .ro, 0⟩]⟩,
   /- MGP_RED -/ ⟨0x080, 0, 1, .std, false, [⟨31, 20, .rw, 0x190⟩, ⟨19, 8, .rw, 0x7d0⟩, ⟨2, 1, .rw, 0⟩]⟩,
   /- MGP_RED_SUP -/ ⟨0x084, 0, 1, .std, false, [⟨7, 0, .rw, 0⟩]⟩,
   /- MGP_CNT_SEL -/ ⟨0x090, 0, 1, .std, false, [⟨5, 0, .rw, 0⟩]⟩,
   /- MGP_CNT_LO -/ ⟨0x094, 0, 1, .std, false, [⟨31, 0, .ro, 0⟩]⟩,
   /- MGP_CNT_HI -/ ⟨0x098, 0, 1, .std, false, [⟨31, 0, .ro, 0⟩]⟩,
   /- MGP_CNT_CLR -/ ⟨0x09C, 0, 1, .std, false, [⟨0, 0, .wo, 0⟩]⟩]

/-- Block registers of the HST page (R120). -/
def regsHst : List RegDesc :=
  [/- HST_LINK -/ ⟨0x040, 0, 1, .std, false, [⟨9, 9, .ro, 0⟩, ⟨8, 8, .ro, 0⟩, ⟨7, 4, .ro, 0⟩, ⟨3, 0, .ro, 0⟩]⟩,
   /- HST_ERR -/ ⟨0x044, 0, 1, .std, false, [⟨5, 5, .w1c, 0⟩, ⟨4, 4, .w1c, 0⟩, ⟨3, 3, .w1c, 0⟩, ⟨2, 2, .w1c, 0⟩, ⟨1, 1, .w1c, 0⟩, ⟨0, 0, .w1c, 0⟩]⟩,
   /- HST_ERR_ADDR_LO -/ ⟨0x048, 0, 1, .std, false, [⟨31, 0, .ro, 0⟩]⟩,
   /- HST_ERR_ADDR_HI -/ ⟨0x04C, 0, 1, .std, false, [⟨7, 0, .ro, 0⟩]⟩,
   /- HST_CPL_TO -/ ⟨0x050, 0, 1, .std, false, [⟨3, 0, .rw, 6⟩]⟩,
   /- HST_MSIX_SRCk -/ ⟨0x100, 4, 64, .refuge, true, [⟨31, 31, .rw, 0⟩, ⟨15, 0, .rw, 0⟩]⟩]

/-- Block registers of the TRV page (R146). -/
def regsTrv : List RegDesc :=
  [/- TRV_CFG -/ ⟨0x040, 0, 1, .std, true, [⟨31, 16, .rw, 0x88b5⟩]⟩,
   /- TRV_CNT_BASE -/ ⟨0x044, 0, 1, .std, false, [⟨5, 0, .rw, 0⟩]⟩,
   /- TRV_ENT_SEL -/ ⟨0x048, 0, 1, .std, false, [⟨13, 0, .rw, 0⟩]⟩,
   /- TRV_ENT_CMD -/ ⟨0x04C, 0, 1, .std, false, [⟨1, 0, .wo, 0⟩]⟩,
   /- TRV_ENT_Wk -/ ⟨0x050, 4, 8, .std, false, [⟨31, 0, .rw, 0⟩]⟩,
   /- TRV_ENT_STATE -/ ⟨0x070, 0, 1, .std, false, [⟨31, 31, .ro, 0⟩, ⟨30, 30, .ro, 0⟩, ⟨23, 16, .ro, 0⟩]⟩,
   /- TRV_STEP_SEL -/ ⟨0x074, 0, 1, .std, false, [⟨11, 0, .rw, 0⟩]⟩,
   /- TRV_STEP -/ ⟨0x078, 0, 1, .std, false, [⟨31, 0, .rw, 0⟩]⟩,
   /- TRV_STEP_REF -/ ⟨0x07C, 0, 1, .std, false, [⟨14, 0, .ro, 0⟩]⟩,
   /- TRV_DISP_SEL -/ ⟨0x080, 0, 1, .std, false, [⟨7, 0, .rw, 0⟩]⟩,
   /- TRV_DISPk -/ ⟨0x0A0, 4, 8, .std, false, [⟨31, 0, .rw, 0⟩]⟩,
   /- TRV_KEY_SEL -/ ⟨0x0C0, 0, 1, .refuge, false, [⟨7, 0, .rw, 0⟩]⟩,
   /- TRV_KEY_CUR_ID -/ ⟨0x0C4, 0, 1, .refuge, false, [⟨31, 0, .rw, 0⟩]⟩,
   /- TRV_KEY_CUR_SLOT -/ ⟨0x0C8, 0, 1, .refuge, false, [⟨31, 31, .rw, 0⟩, ⟨7, 0, .rw, 0⟩]⟩,
   /- TRV_KEY_NEXT_ID -/ ⟨0x0CC, 0, 1, .refuge, false, [⟨31, 0, .rw, 0⟩]⟩,
   /- TRV_KEY_NEXT_SLOT -/ ⟨0x0D0, 0, 1, .refuge, false, [⟨31, 31, .rw, 0⟩, ⟨7, 0, .rw, 0⟩]⟩,
   /- TRV_CPL_MAPp -/ ⟨0x0E0, 4, 8, .refuge, true, [⟨31, 31, .rw, 0⟩, ⟨30, 30, .ro, 0⟩, ⟨23, 12, .rw, 0⟩, ⟨11, 0, .rw, 0⟩]⟩,
   /- TRV_MISSd -/ ⟨0x100, 4, 12, .std, true, [⟨31, 31, .rw, 0⟩, ⟨24, 21, .rw, 0⟩, ⟨19, 12, .rw, 0⟩, ⟨11, 0, .rw, 0⟩]⟩,
   /- TRV_LOSS -/ ⟨0x140, 0, 1, .std, false, [⟨31, 0, .ro, 0⟩]⟩,
   /- TRV_STAT_SEL -/ ⟨0x144, 0, 1, .std, false, [⟨11, 8, .rw, 0⟩, ⟨2, 0, .rw, 0⟩]⟩,
   /- TRV_STAT_LO -/ ⟨0x148, 0, 1, .std, false, [⟨31, 0, .ro, 0⟩]⟩,
   /- TRV_STAT_HI -/ ⟨0x14C, 0, 1, .std, false, [⟨31, 0, .ro, 0⟩]⟩]

/-- Block registers of the QMG page (R175). -/
def regsQmg : List RegDesc :=
  [/- QMG_Q_SEL -/ ⟨0x040, 0, 1, .qmg, false, [⟨13, 0, .rw, 0⟩]⟩,
   /- QMG_QD_Wk -/ ⟨0x044, 4, 4, .qmg, false, [⟨31, 0, .rw, 0⟩]⟩,
   /- QMG_Q_CMD -/ ⟨0x054, 0, 1, .qmg, false, [⟨2, 0, .wo, 0⟩]⟩,
   /- QMG_Q_STAT -/ ⟨0x058, 0, 1, .qmg, false, [⟨31, 31, .ro, 0⟩, ⟨30, 30, .ro, 0⟩, ⟨29, 29, .ro, 0⟩, ⟨28, 28, .ro, 0⟩, ⟨15, 0, .ro, 0⟩]⟩,
   /- QMG_Q_IDX -/ ⟨0x05C, 0, 1, .qmg, false, [⟨31, 16, .ro, 0⟩, ⟨15, 0, .ro, 0⟩]⟩,
   /- QMG_Q_CLAIM -/ ⟨0x060, 0, 1, .qmg, false, [⟨15, 0, .ro, 0⟩]⟩,
   /- QMG_Q_SEQ -/ ⟨0x064, 0, 1, .qmg, false, [⟨15, 0, .ro, 0⟩]⟩,
   /- QMG_Q_WIN_LO -/ ⟨0x068, 0, 1, .qmg, false, [⟨31, 0, .ro, 0⟩]⟩,
   /- QMG_Q_WIN_HI -/ ⟨0x06C, 0, 1, .qmg, false, [⟨31, 0, .ro, 0⟩]⟩,
   /- QMG_Q_DROP -/ ⟨0x070, 0, 1, .qmg, false, [⟨31, 16, .rc, 0⟩, ⟨15, 0, .rc, 0⟩]⟩,
   /- QMG_Q_SPILL -/ ⟨0x074, 0, 1, .qmg, false, [⟨31, 0, .ro, 0⟩]⟩,
   /- QMG_DB_PROD -/ ⟨0x080, 0, 1, .qmg, false, [⟨29, 16, .wo, 0⟩, ⟨15, 0, .wo, 0⟩]⟩,
   /- QMG_DB_CONS -/ ⟨0x084, 0, 1, .qmg, false, [⟨31, 31, .wo, 0⟩, ⟨29, 16, .wo, 0⟩, ⟨15, 0, .wo, 0⟩]⟩,
   /- QMG_CPL_Q -/ ⟨0x088, 0, 1, .qmg, false, [⟨29, 16, .rw, 0⟩, ⟨15, 0, .rw, 0⟩]⟩,
   /- QMG_CPL_ARG -/ ⟨0x08C, 0, 1, .qmg, false, [⟨31, 0, .rw, 0⟩]⟩,
   /- QMG_CPL_ST -/ ⟨0x090, 0, 1, .qmg, false, [⟨7, 0, .wo, 0⟩]⟩,
   /- QMG_TAG_TMO -/ ⟨0x094, 0, 1, .qmg, false, [⟨15, 0, .rw, 0⟩]⟩,
   /- QMG_TAG_CMD -/ ⟨0x098, 0, 1, .qmg, false, [⟨31, 16, .wo, 0⟩, ⟨1, 0, .wo, 0⟩]⟩,
   /- QMG_TAG_RES -/ ⟨0x09C, 0, 1, .qmg, false, [⟨31, 24, .ro, 0⟩, ⟨15, 0, .ro, 0xffff⟩]⟩,
   /- QMG_TAG_USE -/ ⟨0x0A0, 0, 1, .qmg, false, [⟨26, 16, .ro, 0⟩, ⟨11, 0, .ro, 0⟩]⟩,
   /- QMG_STAT_SEL -/ ⟨0x0A4, 0, 1, .std, false, [⟨3, 0, .rw, 0⟩]⟩,
   /- QMG_STAT_LO -/ ⟨0x0A8, 0, 1, .qmg, false, [⟨31, 0, .ro, 0⟩]⟩,
   /- QMG_STAT_HI -/ ⟨0x0AC, 0, 1, .qmg, false, [⟨31, 0, .ro, 0⟩]⟩]

/-- Block registers of the SBF page (R175). -/
def regsSbf : List RegDesc :=
  [/- SBF_POOLv -/ ⟨0x040, 4, 4, .refuge, true, [⟨31, 16, .rw, 0⟩, ⟨15, 0, .rw, 0⟩]⟩,
   /- SBF_BORROWv -/ ⟨0x050, 4, 4, .refuge, false, [⟨15, 0, .rw, 0⟩]⟩,
   /- SBF_POOL_USEv -/ ⟨0x060, 4, 4, .refuge, false, [⟨31, 16, .rc, 0⟩, ⟨15, 0, .ro, 0⟩]⟩,
   /- SBF_BANK_WORLDk -/ ⟨0x080, 4, 4, .refuge, true, [⟨31, 0, .rw, 0⟩]⟩,
   /- SBF_HWIN_BASEk -/ ⟨0x0A0, 8, 8, .refuge, true, [⟨31, 31, .rw, 0⟩, ⟨30, 30, .rw, 0⟩, ⟨11, 0, .rw, 0⟩]⟩,
   /- SBF_HWIN_SIZEk -/ ⟨0x0A4, 8, 8, .refuge, true, [⟨12, 0, .rw, 0⟩]⟩]

/-- Block registers of the CNV page (R201). -/
def regsCnv : List RegDesc :=
  [/- CNV_SYN -/ ⟨0x040, 0, 1, .refuge, false, [⟨31, 31, .ro, 0⟩, ⟨0, 0, .rw, 0⟩]⟩,
   /- CNV_TRAIN -/ ⟨0x044, 0, 1, .std, false, [⟨31, 31, .ro, 0⟩, ⟨26, 24, .rw, 0⟩, ⟨18, 18, .wo, 0⟩, ⟨17, 0, .rw, 0x2aaaa⟩]⟩,
   /- CNV_TRAIN_RES -/ ⟨0x048, 0, 1, .std, false, [⟨3, 0, .ro, 0⟩]⟩,
   /- CNV_GRPg -/ ⟨0x080, 4, 8, .std, true, [⟨31, 31, .rw, 0⟩, ⟨15, 12, .rw, 0⟩, ⟨11, 8, .rw, 0⟩, ⟨5, 5, .rw, 0⟩, ⟨4, 3, .rw, 0⟩, ⟨2, 0, .rw, 0⟩]⟩,
   /- CNV_LANE_CFGn -/ ⟨0x100, 4, 32, .std, true, [⟨31, 31, .rw, 0⟩, ⟨13, 8, .rw, 0⟩, ⟨4, 0, .rw, 0⟩]⟩,
   /- CNV_LANE_Qn -/ ⟨0x180, 4, 32, .std, false, [⟨31, 31, .rw, 0⟩, ⟨13, 0, .rw, 0⟩]⟩,
   /- CNV_LANE_CMPn -/ ⟨0x200, 4, 32, .std, false, [⟨31, 31, .rw, 0⟩, ⟨30, 30, .rw, 0⟩, ⟨29, 26, .rw, 0⟩, ⟨9, 0, .rw, 0⟩]⟩,
   /- CNV_LANE_THRn -/ ⟨0x280, 4, 32, .std, false, [⟨17, 0, .rw, 0x1ffff⟩]⟩,
   /- CNV_LANE_SCALEn -/ ⟨0x300, 4, 32, .std, false, [⟨31, 0, .rw, 0x10000⟩]⟩,
   /- CNV_LANE_UP -/ ⟨0x380, 0, 1, .std, false, [⟨31, 0, .ro, 0⟩]⟩,
   /- CNV_PUB_CFGp -/ ⟨0x400, 32, 8, .std, true, [⟨31, 31, .rw, 0⟩, ⟨30, 30, .rw, 0⟩, ⟨29, 27, .rw, 0⟩, ⟨26, 26, .rw, 0⟩, ⟨9, 0, .rw, 0⟩]⟩,
   /- CNV_PUB_OFFp -/ ⟨0x404, 32, 8, .std, false, [⟨31, 22, .rw, 0⟩, ⟨21, 12, .rw, 0⟩, ⟨9, 0, .rw, 0⟩]⟩,
   /- CNV_PUB_LENp -/ ⟨0x408, 32, 8, .std, false, [⟨10, 0, .rw, 0⟩]⟩,
   /- CNV_PUB_LANESp -/ ⟨0x40C, 32, 8, .std, true, [⟨31, 0, .rw, 0⟩]⟩,
   /- CNV_PUB_Qp -/ ⟨0x410, 32, 8, .std, false, [⟨31, 31, .rw, 0⟩, ⟨29, 16, .rw, 0⟩, ⟨13, 0, .rw, 0⟩]⟩,
   /- CNV_TPL_SEL -/ ⟨0x500, 0, 1, .std, false, [⟨18, 16, .rw, 0⟩, ⟨7, 0, .rw, 0⟩]⟩,
   /- CNV_TPL_DATA -/ ⟨0x504, 0, 1, .std, false, [⟨31, 0, .rw, 0⟩]⟩,
   /- CNV_STAT_SEL -/ ⟨0x510, 0, 1, .std, false, [⟨12, 8, .rw, 0⟩, ⟨2, 0, .rw, 0⟩]⟩,
   /- CNV_STAT_LO -/ ⟨0x514, 0, 1, .std, false, [⟨31, 0, .ro, 0⟩]⟩,
   /- CNV_STAT_HI -/ ⟨0x518, 0, 1, .std, false, [⟨31, 0, .ro, 0⟩]⟩]

/-- Block registers of the WFC page (R220). -/
def regsWfc : List RegDesc :=
  [/- WFC_CTX_SEL -/ ⟨0x040, 0, 1, .std, false, [⟨5, 0, .rw, 0⟩]⟩,
   /- WFC_CTX_CMD -/ ⟨0x044, 0, 1, .std, false, [⟨1, 0, .wo, 0⟩]⟩,
   /- WFC_CTX_W0 -/ ⟨0x050, 0, 1, .std, true, [⟨31, 31, .rw, 0⟩, ⟨30, 29, .rw, 0⟩, ⟨28, 27, .rw, 0⟩, ⟨26, 25, .rw, 0⟩, ⟨24, 23, .rw, 0⟩, ⟨22, 22, .rw, 0⟩, ⟨21, 14, .rw, 0⟩, ⟨13, 0, .rw, 0⟩]⟩,
   /- WFC_CTX_W1 -/ ⟨0x054, 0, 1, .std, true, [⟨31, 26, .rw, 0⟩, ⟨25, 23, .rw, 0⟩, ⟨22, 20, .rw, 0⟩, ⟨19, 18, .rw, 0⟩, ⟨17, 16, .rw, 0⟩]⟩,
   /- WFC_CTX_W2 -/ ⟨0x058, 0, 1, .std, true, [⟨31, 0, .rw, 0⟩]⟩,
   /- WFC_CTX_W3 -/ ⟨0x05C, 0, 1, .std, true, [⟨31, 0, .rw, 0⟩]⟩,
   /- WFC_HDR_SEL -/ ⟨0x060, 0, 1, .std, false, [⟨2, 0, .rw, 0⟩]⟩,
   /- WFC_HDR_DATA -/ ⟨0x064, 0, 1, .std, false, [⟨31, 0, .rw, 0⟩]⟩,
   /- WFC_LOAD -/ ⟨0x070, 0, 1, .std, false, [⟨15, 0, .ro, 0⟩]⟩,
   /- WFC_STAT_SEL -/ ⟨0x074, 0, 1, .std, false, [⟨13, 8, .rw, 0⟩, ⟨2, 0, .rw, 0⟩]⟩,
   /- WFC_STAT_LO -/ ⟨0x078, 0, 1, .std, false, [⟨31, 0, .ro, 0⟩]⟩,
   /- WFC_STAT_HI -/ ⟨0x07C, 0, 1, .std, false, [⟨31, 0, .ro, 0⟩]⟩]

/-- Block registers of the RSM page (R201). -/
def regsRsm : List RegDesc :=
  [/- RSM_CTX_SEL -/ ⟨0x040, 0, 1, .std, false, [⟨4, 0, .rw, 0⟩]⟩,
   /- RSM_CTX_CMD -/ ⟨0x044, 0, 1, .std, false, [⟨1, 0, .wo, 0⟩]⟩,
   /- RSM_CTX_W0 -/ ⟨0x050, 0, 1, .std, false, [⟨31, 31, .rw, 0⟩, ⟨30, 30, .rw, 0⟩, ⟨29, 28, .rw, 0⟩, ⟨27, 25, .rw, 0⟩, ⟨24, 22, .rw, 0⟩, ⟨21, 18, .rw, 0⟩, ⟨13, 0, .rw, 0⟩]⟩,
   /- RSM_CTX_W1 -/ ⟨0x054, 0, 1, .std, false, [⟨24, 0, .rw, 0⟩]⟩,
   /- RSM_CTX_W2 -/ ⟨0x058, 0, 1, .std, false, [⟨7, 0, .rw, 0⟩]⟩,
   /- RSM_CTX_W3 -/ ⟨0x05C, 0, 1, .std, false, [⟨31, 0, .rw, 0⟩]⟩,
   /- RSM_LOAD -/ ⟨0x060, 0, 1, .std, false, [⟨31, 16, .ro, 0⟩, ⟨15, 0, .ro, 0⟩]⟩,
   /- RSM_STAT_SEL -/ ⟨0x064, 0, 1, .std, false, [⟨12, 8, .rw, 0⟩, ⟨1, 0, .rw, 0⟩]⟩,
   /- RSM_STAT_LO -/ ⟨0x068, 0, 1, .std, false, [⟨31, 0, .ro, 0⟩]⟩,
   /- RSM_STAT_HI -/ ⟨0x06C, 0, 1, .std, false, [⟨31, 0, .ro, 0⟩]⟩]

/-- Block registers of the CLU page (R278, R304). -/
def regsClu : List RegDesc :=
  [/- CLU_REL_SEL -/ ⟨0x040, 0, 1, .std, false, [⟨5, 0, .rw, 0⟩]⟩,
   /- CLU_REL_CMD -/ ⟨0x044, 0, 1, .std, false, [⟨1, 0, .wo, 0⟩]⟩,
   /- CLU_REL_Wk -/ ⟨0x050, 4, 5, .std, false, [⟨31, 0, .rw, 0⟩]⟩,
   /- CLU_REL_STAT -/ ⟨0x068, 0, 1, .std, false, [⟨31, 31, .ro, 0⟩, ⟨23, 16, .ro, 0⟩]⟩,
   /- CLU_REL_NEXT_LO -/ ⟨0x06C, 0, 1, .std, false, [⟨31, 0, .ro, 0⟩]⟩,
   /- CLU_REL_NEXT_HI -/ ⟨0x070, 0, 1, .std, false, [⟨31, 0, .ro, 0⟩]⟩,
   /- CLU_PEND -/ ⟨0x074, 0, 1, .std, false, [⟨31, 0, .ro, 0⟩]⟩,
   /- CLU_DL -/ ⟨0x078, 0, 1, .std, false, [⟨31, 16, .rc, 0⟩, ⟨15, 0, .rc, 0⟩]⟩,
   /- CLU_MEM_WORLD -/ ⟨0x080, 0, 1, .refuge, true, [⟨31, 0, .rw, 0⟩]⟩]

/-- Block registers of the DRC page (R304). -/
def regsDrc : List RegDesc :=
  [/- DRC_CFG -/ ⟨0x040, 0, 1, .refuge, true, [⟨31, 29, .rw, 0⟩, ⟨26, 24, .rw, 3⟩, ⟨23, 23, .rw, 0⟩, ⟨22, 22, .rw, 0⟩]⟩,
   /- DRC_STAT -/ ⟨0x044, 0, 1, .refuge, false, [⟨2, 2, .ro, 0⟩, ⟨1, 1, .ro, 0⟩, ⟨0, 0, .ro, 0⟩]⟩,
   /- DRC_ECC -/ ⟨0x048, 0, 1, .refuge, false, [⟨31, 16, .rc, 0⟩, ⟨15, 0, .rc, 0⟩]⟩,
   /- DRC_ERR_ADDR_LO -/ ⟨0x04C, 0, 1, .refuge, false, [⟨31, 0, .ro, 0⟩]⟩,
   /- DRC_ERR_ADDR_HI -/ ⟨0x050, 0, 1, .refuge, false, [⟨31, 0, .ro, 0⟩]⟩]

/-- Block registers of the MCE page (R304). -/
def regsMce : List RegDesc :=
  [/- MCE_GUARD -/ ⟨0x040, 0, 1, .refuge, true, [⟨31, 16, .wl, 0⟩, ⟨3, 0, .wl, 0⟩]⟩,
   /- MCE_STAT -/ ⟨0x044, 0, 1, .refuge, false, [⟨31, 31, .ro, 0⟩, ⟨30, 30, .ro, 0⟩]⟩,
   /- MCE_FAIL -/ ⟨0x048, 0, 1, .refuge, false, [⟨31, 16, .rc, 0⟩, ⟨15, 0, .rc, 0⟩]⟩,
   /- MCE_FAIL_ADDR_LO -/ ⟨0x04C, 0, 1, .refuge, false, [⟨31, 0, .ro, 0⟩]⟩,
   /- MCE_FAIL_ADDR_HI -/ ⟨0x050, 0, 1, .refuge, false, [⟨31, 0, .ro, 0⟩]⟩]

/-- Block registers of the CPL page (R323). -/
def regsCpl : List RegDesc :=
  [/- CPL_MODE -/ ⟨0x040, 0, 1, .std, true, [⟨31, 24, .rw, 0⟩, ⟨23, 23, .rw, 0⟩, ⟨22, 21, .rw, 0⟩, ⟨20, 16, .rw, 0x10⟩, ⟨15, 14, .rw, 0⟩, ⟨4, 4, .rw, 0⟩, ⟨3, 0, .rw, 0⟩]⟩,
   /- CPL_KEYk -/ ⟨0x044, 4, 8, .std, false, [⟨31, 0, .wo, 0⟩]⟩,
   /- CPL_IVk -/ ⟨0x064, 4, 4, .std, false, [⟨31, 0, .rw, 0⟩]⟩,
   /- CPL_TAGk -/ ⟨0x074, 4, 4, .std, false, [⟨31, 0, .rw, 0⟩]⟩,
   /- CPL_SRC_LO -/ ⟨0x084, 0, 1, .std, false, [⟨31, 0, .rw, 0⟩]⟩,
   /- CPL_SRC_HI -/ ⟨0x088, 0, 1, .std, false, [⟨7, 0, .rw, 0⟩]⟩,
   /- CPL_DST_LO -/ ⟨0x08C, 0, 1, .std, false, [⟨31, 0, .rw, 0⟩]⟩,
   /- CPL_DST_HI -/ ⟨0x090, 0, 1, .std, false, [⟨7, 0, .rw, 0⟩]⟩,
   /- CPL_IVT_LO -/ ⟨0x09C, 0, 1, .std, false, [⟨31, 0, .rw, 0⟩]⟩,
   /- CPL_IVT_HI -/ ⟨0x0A0, 0, 1, .std, false, [⟨7, 0, .rw, 0⟩]⟩,
   /- CPL_LEN -/ ⟨0x094, 0, 1, .std, false, [⟨28, 24, .rw, 0⟩, ⟨23, 0, .rw, 0⟩]⟩,
   /- CPL_AAD -/ ⟨0x098, 0, 1, .std, false, [⟨15, 0, .rw, 0⟩]⟩,
   /- CPL_CMD -/ ⟨0x0A4, 0, 1, .std, false, [⟨4, 4, .wo, 0⟩, ⟨3, 3, .wo, 0⟩, ⟨2, 2, .wo, 0⟩, ⟨1, 1, .wo, 0⟩, ⟨0, 0, .wo, 0⟩]⟩,
   /- CPL_STAT -/ ⟨0x0A8, 0, 1, .std, false, [⟨31, 31, .ro, 0⟩, ⟨30, 30, .ro, 0⟩, ⟨29, 29, .ro, 0⟩, ⟨28, 24, .ro, 0⟩, ⟨23, 0, .ro, 0⟩]⟩,
   /- CPL_RNG -/ ⟨0x0AC, 0, 1, .std, false, [⟨31, 16, .rc, 0⟩, ⟨15, 0, .ro, 0⟩]⟩]

/-- Block registers of the PKE page (R343). -/
def regsPke : List RegDesc :=
  [/- PKE_CFG -/ ⟨0x040, 0, 1, .std, true, [⟨23, 16, .rw, 4⟩, ⟨0, 0, .rw, 0⟩]⟩,
   /- PKE_CMD -/ ⟨0x044, 0, 1, .std, true, [⟨31, 24, .rw, 0⟩, ⟨23, 16, .rw, 0⟩, ⟨15, 15, .rw, 0⟩, ⟨14, 14, .rw, 0⟩, ⟨13, 13, .rw, 0⟩, ⟨12, 12, .rw, 0⟩, ⟨11, 8, .rw, 0⟩, ⟨7, 0, .rw, 0⟩]⟩,
   /- PKE_ARGk -/ ⟨0x048, 4, 6, .std, false, [⟨10, 0, .rw, 0⟩]⟩,
   /- PKE_SIZE -/ ⟨0x060, 0, 1, .std, false, [⟨31, 31, .rw, 0⟩, ⟨29, 28, .rw, 0⟩, ⟨22, 16, .rw, 0⟩, ⟨7, 0, .rw, 0⟩]⟩,
   /- PKE_MSG_LO -/ ⟨0x064, 0, 1, .std, false, [⟨31, 0, .rw, 0⟩]⟩,
   /- PKE_MSG_HI -/ ⟨0x068, 0, 1, .std, false, [⟨7, 0, .rw, 0⟩]⟩,
   /- PKE_SRC_LO -/ ⟨0x070, 0, 1, .std, false, [⟨31, 0, .rw, 0⟩]⟩,
   /- PKE_SRC_HI -/ ⟨0x074, 0, 1, .std, false, [⟨7, 0, .rw, 0⟩]⟩,
   /- PKE_DST_LO -/ ⟨0x078, 0, 1, .std, false, [⟨31, 0, .rw, 0⟩]⟩,
   /- PKE_DST_HI -/ ⟨0x07C, 0, 1, .std, false, [⟨7, 0, .rw, 0⟩]⟩,
   /- PKE_MSG_LEN -/ ⟨0x06C, 0, 1, .std, false, [⟨23, 0, .rw, 0⟩]⟩,
   /- PKE_GO -/ ⟨0x080, 0, 1, .std, false, [⟨5, 4, .wo, 0⟩, ⟨1, 1, .wo, 0⟩, ⟨0, 0, .wo, 0⟩]⟩,
   /- PKE_CTXk -/ ⟨0x084, 4, 2, .std, false, [⟨31, 28, .ro, 0⟩, ⟨23, 16, .ro, 0⟩, ⟨15, 8, .ro, 0⟩, ⟨0, 0, .ro, 0⟩]⟩,
   /- PKE_STAT -/ ⟨0x08C, 0, 1, .std, false, [⟨31, 16, .rc, 0⟩, ⟨1, 0, .ro, 0⟩]⟩,
   /- PKE_OP_SEL -/ ⟨0x090, 0, 1, .std, false, [⟨26, 16, .rw, 0⟩, ⟨7, 1, .rw, 0⟩, ⟨0, 0, .rw, 0⟩]⟩,
   /- PKE_OP_DATA -/ ⟨0x094, 0, 1, .std, false, [⟨31, 0, .rw, 0⟩]⟩]

/-- Block registers of the HSH page (R343). -/
def regsHsh : List RegDesc :=
  [/- HSH_FN -/ ⟨0x040, 0, 1, .std, true, [⟨31, 16, .rw, 0⟩, ⟨3, 0, .rw, 0⟩]⟩,
   /- HSH_SRC_LO -/ ⟨0x044, 0, 1, .std, false, [⟨31, 0, .rw, 0⟩]⟩,
   /- HSH_SRC_HI -/ ⟨0x048, 0, 1, .std, false, [⟨7, 0, .rw, 0⟩]⟩,
   /- HSH_DST_LO -/ ⟨0x050, 0, 1, .std, false, [⟨31, 0, .rw, 0⟩]⟩,
   /- HSH_DST_HI -/ ⟨0x054, 0, 1, .std, false, [⟨7, 0, .rw, 0⟩]⟩,
   /- HSH_LEN -/ ⟨0x04C, 0, 1, .std, false, [⟨23, 0, .rw, 0⟩]⟩,
   /- HSH_CMD -/ ⟨0x058, 0, 1, .std, false, [⟨4, 4, .wo, 0⟩, ⟨3, 3, .wo, 0⟩, ⟨2, 2, .wo, 0⟩, ⟨1, 1, .wo, 0⟩, ⟨0, 0, .wo, 0⟩]⟩,
   /- HSH_STAT -/ ⟨0x05C, 0, 1, .std, false, [⟨31, 31, .ro, 0⟩, ⟨30, 30, .ro, 0⟩, ⟨29, 29, .ro, 0⟩]⟩,
   /- HSH_DIGk -/ ⟨0x080, 4, 16, .std, false, [⟨31, 0, .ro, 0⟩]⟩]

/-- Block registers of the TRN page (R365). -/
def regsTrn : List RegDesc :=
  [/- TRN_STAT -/ ⟨0x040, 0, 1, .refuge, false, [⟨31, 31, .ro, 0⟩, ⟨30, 30, .ro, 0⟩, ⟨15, 0, .ro, 0⟩]⟩,
   /- TRN_CNT -/ ⟨0x044, 0, 1, .refuge, false, [⟨31, 0, .ro, 0⟩]⟩]

/-- Block registers of the RFG page (R365). -/
def regsRfg : List RegDesc :=
  [/- RFG_STAGE -/ ⟨0x040, 0, 1, .refuge, true, [⟨2, 0, .ro, 0⟩]⟩,
   /- RFG_BOOT_CAUSE -/ ⟨0x044, 0, 1, .refuge, false, [⟨31, 24, .ro, 0⟩, ⟨23, 8, .ro, 0⟩, ⟨7, 0, .ro, 0⟩]⟩,
   /- RFG_BOOT_OK -/ ⟨0x048, 0, 1, .bootOk, false, [⟨7, 0, .wo, 0⟩]⟩,
   /- RFG_NONCE_REQ -/ ⟨0x04C, 0, 1, .pSupDbg, false, [⟨0, 0, .wo, 0⟩]⟩,
   /- RFG_NONCEk -/ ⟨0x050, 4, 8, .refuge, false, [⟨31, 0, .ro, 0⟩]⟩,
   /- RFG_DBG -/ ⟨0x070, 0, 1, .pSupDbg, false, [⟨31, 31, .ro, 0⟩, ⟨30, 30, .wo, 0⟩, ⟨29, 23, .ro, 0⟩, ⟨7, 0, .ro, 0⟩]⟩]

/-- Block registers of the LCC page (R365). -/
def regsLcc : List RegDesc :=
  [/- LCC_STATE -/ ⟨0x040, 0, 1, .refuge, true, [⟨31, 31, .ro, 0⟩, ⟨15, 8, .ro, 0⟩, ⟨1, 0, .ro, 0⟩]⟩,
   /- LCC_COUNT -/ ⟨0x044, 0, 1, .refuge, false, [⟨19, 16, .ro, 0⟩, ⟨15, 8, .ro, 0⟩]⟩,
   /- LCC_FUSE_LO -/ ⟨0x048, 0, 1, .refuge, false, [⟨31, 0, .ro, 0⟩]⟩,
   /- LCC_FUSE_HI -/ ⟨0x04C, 0, 1, .refuge, false, [⟨31, 0, .ro, 0⟩]⟩]

/-- Block registers of the TMP page (R384). -/
def regsTmp : List RegDesc :=
  [/- TMP_EN_LO -/ ⟨0x040, 0, 1, .refuge, true, [⟨31, 0, .wl, 0xffffffff⟩]⟩,
   /- TMP_EN_HI -/ ⟨0x044, 0, 1, .refuge, true, [⟨31, 0, .wl, 0xffffffff⟩]⟩,
   /- TMP_LATCH_LO -/ ⟨0x048, 0, 1, .refuge, false, [⟨31, 0, .w1c, 0⟩]⟩,
   /- TMP_LATCH_HI -/ ⟨0x04C, 0, 1, .refuge, false, [⟨31, 0, .w1c, 0⟩]⟩,
   /- TMP_COND_LO -/ ⟨0x050, 0, 1, .refuge, false, [⟨31, 0, .ro, 0⟩]⟩,
   /- TMP_COND_HI -/ ⟨0x054, 0, 1, .refuge, false, [⟨31, 0, .ro, 0⟩]⟩,
   /- TMP_LIGHT_CFG -/ ⟨0x058, 0, 1, .refuge, false, [⟨31, 16, .ro, 0⟩, ⟨1, 0, .rw, 1⟩]⟩,
   /- TMP_TEMP -/ ⟨0x05C, 0, 1, .refuge, false, [⟨31, 24, .rw, 0xeb⟩, ⟨23, 16, .rw, 0x32⟩, ⟨15, 8, .ro, 0⟩]⟩,
   /- TMP_GLITCH -/ ⟨0x060, 0, 1, .refuge, false, [⟨31, 16, .rw, 0x3c⟩, ⟨15, 8, .rw, 8⟩, ⟨7, 0, .ro, 0⟩]⟩]

/-- Block registers of the BKD page (R384). -/
def regsBkd : List RegDesc :=
  [/- BKD_STAT -/ ⟨0x040, 0, 1, .refuge, false, [⟨31, 31, .ro, 0⟩, ⟨30, 30, .ro, 1⟩, ⟨29, 29, .ro, 0⟩, ⟨28, 28, .ro, 1⟩, ⟨11, 0, .ro, 0⟩]⟩,
   /- BKD_ARM_LO -/ ⟨0x044, 0, 1, .refuge, true, [⟨31, 0, .rw, 0⟩]⟩,
   /- BKD_ARM_HI -/ ⟨0x048, 0, 1, .refuge, true, [⟨31, 0, .rw, 0⟩]⟩,
   /- BKD_CFG -/ ⟨0x04C, 0, 1, .refuge, true, [⟨31, 31, .rw, 0⟩, ⟨11, 4, .rw, 0x20⟩, ⟨3, 0, .rw, 0xf⟩]⟩,
   /- BKD_RTC_SEC -/ ⟨0x050, 0, 1, .refuge, false, [⟨31, 0, .ro, 0⟩]⟩,
   /- BKD_RTC_SUB -/ ⟨0x054, 0, 1, .refuge, false, [⟨14, 0, .ro, 0⟩]⟩,
   /- BKD_LOG_SEL -/ ⟨0x058, 0, 1, .refuge, false, [⟨7, 2, .rw, 0⟩, ⟨1, 0, .rw, 0⟩]⟩,
   /- BKD_LOG_DATA -/ ⟨0x05C, 0, 1, .refuge, false, [⟨31, 0, .ro, 0⟩]⟩,
   /- BKD_LOG_STAT -/ ⟨0x060, 0, 1, .refuge, false, [⟨31, 16, .ro, 0⟩, ⟨15, 0, .ro, 0⟩]⟩,
   /- BKD_LOG_CLR -/ ⟨0x064, 0, 1, .refuge, false, [⟨0, 0, .wo, 0⟩]⟩,
   /- BKD_VAULT_SEL -/ ⟨0x068, 0, 1, .refuge, false, [⟨8, 0, .rw, 0⟩]⟩,
   /- BKD_VAULT_DATA -/ ⟨0x06C, 0, 1, .refuge, false, [⟨31, 0, .rw, 0⟩]⟩,
   /- BKD_SEQ -/ ⟨0x070, 0, 1, .refuge, false, [⟨31, 0, .ro, 0⟩]⟩]

/-- Block registers of the FLC page (R407). -/
def regsFlc : List RegDesc :=
  [/- FLC_STAT -/ ⟨0x040, 0, 1, .std, false, [⟨31, 31, .ro, 0⟩, ⟨25, 16, .ro, 0⟩, ⟨7, 4, .ro, 0⟩, ⟨3, 0, .ro, 0⟩]⟩,
   /- FLC_ADDR -/ ⟨0x044, 0, 1, .any, false, [⟨24, 5, .rw, 0⟩]⟩,
   /- FLC_WDATAk -/ ⟨0x048, 4, 8, .any, false, [⟨31, 0, .rw, 0⟩]⟩,
   /- FLC_RDATAk -/ ⟨0x070, 4, 8, .std, false, [⟨31, 0, .ro, 0⟩]⟩,
   /- FLC_CMD -/ ⟨0x068, 0, 1, .any, false, [⟨5, 4, .wo, 0⟩, ⟨3, 0, .wo, 0⟩]⟩,
   /- FLC_RES -/ ⟨0x090, 0, 1, .std, false, [⟨31, 31, .ro, 0⟩, ⟨30, 29, .ro, 0⟩, ⟨25, 16, .ro, 0⟩, ⟨15, 8, .ro, 0⟩]⟩,
   /- FLC_INFO -/ ⟨0x094, 0, 1, .std, false, [⟨31, 31, .ro, 0⟩, ⟨30, 30, .ro, 0⟩, ⟨29, 29, .ro, 0⟩, ⟨28, 28, .ro, 0⟩, ⟨23, 0, .ro, 0⟩]⟩,
   /- FLC_BANK_STATb -/ ⟨0x0A0, 4, 4, .std, false, [⟨31, 31, .ro, 0⟩, ⟨30, 30, .ro, 0⟩, ⟨29, 28, .ro, 0⟩, ⟨23, 16, .ro, 0xff⟩, ⟨9, 0, .ro, 0⟩]⟩,
   /- FLC_INDETk -/ ⟨0x0C0, 4, 32, .std, false, [⟨31, 0, .ro, 0⟩]⟩,
   /- FLC_ECC -/ ⟨0x140, 0, 1, .std, false, [⟨31, 16, .rc, 0⟩, ⟨15, 0, .rc, 0⟩]⟩,
   /- FLC_REGk -/ ⟨0x180, 4, 16, .refuge, true, [⟨31, 31, .rw, 0⟩, ⟨30, 30, .rw, 0⟩, ⟨29, 28, .rw, 0⟩, ⟨27, 26, .rw, 0⟩, ⟨19, 10, .rw, 0⟩, ⟨9, 0, .rw, 0⟩]⟩]

/-- Block registers of the EVR page (R428). -/
def regsEvr : List RegDesc :=
  [/- EVR_CFG -/ ⟨0x040, 0, 1, .refuge, true, [⟨31, 31, .rw, 0⟩, ⟨30, 30, .rw, 0⟩, ⟨29, 29, .rw, 1⟩, ⟨28, 28, .rw, 0⟩, ⟨25, 16, .rw, 0⟩, ⟨13, 0, .rw, 0⟩]⟩,
   /- EVR_STAT -/ ⟨0x044, 0, 1, .refuge, false, [⟨31, 31, .w1c, 0⟩, ⟨30, 30, .w1c, 0⟩, ⟨29, 29, .ro, 0⟩, ⟨16, 0, .ro, 0⟩]⟩,
   /- EVR_SEQ -/ ⟨0x048, 0, 1, .refuge, false, [⟨31, 0, .ro, 0⟩]⟩,
   /- EVR_STG_HEAD -/ ⟨0x04C, 0, 1, .refuge, false, [⟨20, 0, .ro, 0⟩]⟩,
   /- EVR_DROP -/ ⟨0x050, 0, 1, .refuge, false, [⟨31, 20, .rc, 0⟩, ⟨19, 8, .rc, 0⟩, ⟨7, 0, .rc, 0⟩]⟩,
   /- EVR_COPY -/ ⟨0x054, 0, 1, .refuge, false, [⟨31, 0, .ro, 0⟩]⟩,
   /- EVR_TLOG -/ ⟨0x058, 0, 1, .refuge, false, [⟨31, 31, .ro, 0⟩, ⟨9, 0, .ro, 0⟩]⟩,
   /- EVR_TLOG_HEADk -/ ⟨0x060, 4, 8, .refuge, false, [⟨31, 0, .ro, 0⟩]⟩,
   /- EVR_DUMP -/ ⟨0x080, 0, 1, .refuge, true, [⟨31, 31, .rw, 0⟩, ⟨15, 0, .rw, 0⟩]⟩,
   /- EVR_DUMP_STAT -/ ⟨0x084, 0, 1, .refuge, false, [⟨31, 31, .ro, 0⟩, ⟨30, 30, .ro, 0⟩, ⟨15, 8, .ro, 0⟩]⟩]

/-- Block registers of the CRD page (R447). -/
def regsCrd : List RegDesc :=
  [/- CRD_CFG -/ ⟨0x040, 0, 1, .std, true, [⟨31, 20, .rw, 0x7d0⟩, ⟨19, 12, .rw, 0x64⟩, ⟨11, 8, .rw, 0xa⟩, ⟨7, 5, .rw, 2⟩, ⟨4, 4, .rw, 1⟩, ⟨2, 0, .rw, 5⟩]⟩,
   /- CRD_STAT -/ ⟨0x044, 0, 1, .std, false, [⟨31, 31, .ro, 0⟩, ⟨30, 30, .ro, 0⟩, ⟨29, 29, .ro, 0⟩, ⟨28, 28, .ro, 0⟩, ⟨27, 27, .ro, 0⟩, ⟨26, 24, .ro, 0⟩, ⟨23, 23, .ro, 0⟩, ⟨22, 20, .ro, 0⟩]⟩,
   /- CRD_Q -/ ⟨0x048, 0, 1, .std, false, [⟨31, 31, .rw, 0⟩, ⟨13, 0, .rw, 0⟩]⟩,
   /- CRD_RQk -/ ⟨0x04C, 8, 2, .std, false, [⟨31, 31, .rw, 0⟩, ⟨13, 0, .rw, 0⟩]⟩,
   /- CRD_RQOBJk -/ ⟨0x050, 8, 2, .std, false, [⟨31, 0, .rw, 1⟩]⟩,
   /- CRD_GONE_LBA -/ ⟨0x05C, 0, 1, .std, false, [⟨31, 0, .ro, 0⟩]⟩,
   /- CRD_GONE_N -/ ⟨0x060, 0, 1, .std, false, [⟨7, 0, .ro, 0⟩]⟩,
   /- CRD_WSEQ -/ ⟨0x064, 0, 1, .std, false, [⟨31, 0, .ro, 0⟩]⟩,
   /- CRD_CAP -/ ⟨0x068, 0, 1, .std, false, [⟨31, 0, .ro, 0⟩]⟩,
   /- CRD_IDk -/ ⟨0x070, 4, 10, .std, false, [⟨31, 0, .ro, 0⟩]⟩]

/-- Block registers of the NFC page (R468). -/
def regsNfc : List RegDesc :=
  [/- NFC_CFG -/ ⟨0x040, 0, 1, .std, true, [⟨31, 31, .rw, 1⟩, ⟨29, 28, .rw, 3⟩, ⟨13, 0, .rw, 0⟩]⟩,
   /- NFC_LPCD -/ ⟨0x044, 0, 1, .std, true, [⟨31, 31, .rw, 0⟩, ⟨30, 30, .rw, 0⟩, ⟨19, 8, .rw, 0x1f4⟩, ⟨7, 0, .rw, 0x14⟩]⟩,
   /- NFC_STAT -/ ⟨0x048, 0, 1, .std, false, [⟨31, 31, .ro, 0⟩, ⟨30, 30, .ro, 0⟩, ⟨29, 29, .ro, 0⟩, ⟨28, 28, .ro, 0⟩, ⟨27, 24, .ro, 0⟩, ⟨23, 20, .ro, 0xf⟩, ⟨15, 0, .ro, 0⟩]⟩,
   /- NFC_TAG_SEL -/ ⟨0x04C, 0, 1, .std, false, [⟨2, 0, .rw, 0⟩]⟩,
   /- NFC_TAG_W0 -/ ⟨0x050, 0, 1, .std, false, [⟨31, 29, .ro, 0⟩, ⟨28, 27, .ro, 0⟩, ⟨26, 25, .ro, 0⟩, ⟨24, 21, .ro, 0⟩, ⟨15, 8, .ro, 0⟩]⟩,
   /- NFC_TAG_W1 -/ ⟨0x054, 0, 1, .std, false, [⟨31, 0, .ro, 0⟩]⟩,
   /- NFC_TAG_W2 -/ ⟨0x058, 0, 1, .std, false, [⟨31, 0, .ro, 0⟩]⟩,
   /- NFC_TAG_W3 -/ ⟨0x05C, 0, 1, .std, false, [⟨31, 16, .ro, 0⟩, ⟨15, 0, .ro, 0⟩]⟩,
   /- NFC_TAG_ATSk -/ ⟨0x060, 4, 4, .std, false, [⟨31, 0, .ro, 0⟩]⟩,
   /- NFC_ISL_STAT -/ ⟨0x070, 0, 1, .std, false, [⟨31, 31, .ro, 0⟩, ⟨30, 30, .ro, 0⟩, ⟨29, 29, .ro, 0⟩, ⟨28, 28, .ro, 0⟩, ⟨15, 0, .ro, 0⟩]⟩,
   /- NFC_ISL_GEN -/ ⟨0x074, 0, 1, .std, false, [⟨31, 0, .ro, 0⟩]⟩,
   /- NFC_NOTE_SEL -/ ⟨0x078, 0, 1, .std, false, [⟨5, 0, .rw, 0⟩]⟩,
   /- NFC_NOTE_DATA -/ ⟨0x07C, 0, 1, .std, false, [⟨31, 0, .ro, 0⟩]⟩]

/-- Block registers of the ISD page (R506). -/
def regsIsd : List RegDesc :=
  [/- ISD_CFG -/ ⟨0x040, 0, 1, .refuge, true, [⟨31, 28, .rw, 0⟩, ⟨27, 22, .rw, 0⟩, ⟨21, 14, .rw, 0x80⟩, ⟨13, 13, .rw, 1⟩, ⟨12, 8, .rw, 0xa⟩]⟩,
   /- ISD_CFG2 -/ ⟨0x044, 0, 1, .std, false, [⟨13, 0, .rw, 0⟩]⟩,
   /- ISD_ADDR -/ ⟨0x048, 0, 1, .std, false, [⟨31, 31, .ro, 0⟩, ⟨30, 30, .ro, 0⟩, ⟨29, 24, .ro, 0⟩, ⟨15, 0, .ro, 0xffff⟩]⟩,
   /- ISD_COL -/ ⟨0x04C, 0, 1, .refuge, true, [⟨31, 31, .rw, 0⟩, ⟨27, 24, .rw, 0⟩, ⟨23, 18, .rw, 0⟩, ⟨7, 0, .rw, 0⟩]⟩,
   /- ISD_ADMIT -/ ⟨0x050, 0, 1, .refuge, false, [⟨7, 0, .rw, 0⟩]⟩,
   /- ISD_LINKp -/ ⟨0x080, 4, 8, .std, false, [⟨31, 29, .ro, 0⟩, ⟨28, 28, .ro, 0⟩, ⟨21, 16, .ro, 0⟩, ⟨15, 8, .rc, 0⟩, ⟨7, 0, .ro, 0xff⟩]⟩,
   /- ISD_TT_OFSp -/ ⟨0x0C0, 8, 8, .std, false, [⟨31, 0, .ro, 0⟩]⟩,
   /- ISD_TT_DLYp -/ ⟨0x0C4, 8, 8, .std, false, [⟨31, 0, .ro, 0⟩]⟩,
   /- ISD_RT_SEL -/ ⟨0x100, 0, 1, .std, false, [⟨7, 0, .rw, 0⟩]⟩,
   /- ISD_RT -/ ⟨0x104, 0, 1, .std, false, [⟨31, 31, .ro, 0⟩, ⟨3, 0, .ro, 0xf⟩]⟩,
   /- ISD_XMAP_SEL -/ ⟨0x110, 0, 1, .std, false, [⟨7, 0, .rw, 0⟩]⟩,
   /- ISD_XMAP_W0 -/ ⟨0x114, 0, 1, .std, false, [⟨31, 31, .rw, 0⟩, ⟨13, 0, .rw, 0⟩]⟩,
   /- ISD_XMAP_W1 -/ ⟨0x118, 0, 1, .std, false, [⟨31, 16, .rw, 0⟩, ⟨15, 14, .rw, 0⟩, ⟨13, 0, .rw, 0⟩]⟩,
   /- ISD_XMAP_CMD -/ ⟨0x11C, 0, 1, .std, false, [⟨1, 0, .wo, 0⟩]⟩,
   /- ISD_REXP -/ ⟨0x120, 0, 1, .std, false, [⟨31, 31, .rw, 0⟩, ⟨30, 28, .rw, 3⟩, ⟨27, 14, .rw, 0⟩]⟩,
   /- ISD_REXP_DST -/ ⟨0x124, 0, 1, .std, false, [⟨15, 0, .rw, 0⟩]⟩,
   /- ISD_STAT_SEL -/ ⟨0x130, 0, 1, .std, false, [⟨10, 8, .rw, 0⟩, ⟨2, 0, .rw, 0⟩]⟩,
   /- ISD_STAT_LO -/ ⟨0x134, 0, 1, .std, false, [⟨31, 0, .ro, 0⟩]⟩,
   /- ISD_STAT_HI -/ ⟨0x138, 0, 1, .std, false, [⟨31, 0, .ro, 0⟩]⟩]

/-- Block registers of the ROP page (R506). -/
def regsRop : List RegDesc :=
  [/- ROP_CFG -/ ⟨0x040, 0, 1, .refuge, true, [⟨31, 31, .rw, 0⟩, ⟨7, 0, .rw, 0⟩]⟩,
   /- ROP_STAT -/ ⟨0x044, 0, 1, .std, false, [⟨31, 30, .ro, 0⟩, ⟨29, 29, .ro, 0⟩, ⟨23, 20, .ro, 0⟩, ⟨15, 0, .rc, 0⟩]⟩,
   /- ROP_LATE -/ ⟨0x048, 0, 1, .std, false, [⟨31, 16, .rc, 0⟩, ⟨15, 0, .rc, 0⟩]⟩,
   /- ROP_FWDk -/ ⟨0x100, 4, 32, .std, false, [⟨31, 0, .rw, 0⟩]⟩]

/-- Block registers of the ENG page (R278, R304). -/
def regsEng : List RegDesc :=
  [/- ENG_WORLD -/ ⟨0x040, 0, 1, .refuge, true, [⟨1, 0, .rw, 0⟩]⟩,
   /- ENG_RUN -/ ⟨0x044, 0, 1, .engRun, false, [⟨1, 0, .wo, 0⟩]⟩,
   /- ENG_STATE -/ ⟨0x048, 0, 1, .std, false, [⟨10, 8, .ro, 0⟩, ⟨2, 0, .ro, 0⟩]⟩,
   /- ENG_PC -/ ⟨0x04C, 0, 1, .std, false, [⟨15, 0, .ro, 0⟩]⟩,
   /- ENG_WDT -/ ⟨0x050, 0, 1, .engSup, true, [⟨31, 31, .rw, 0⟩, ⟨30, 30, .rw, 0⟩, ⟨15, 0, .rw, 0⟩]⟩,
   /- ENG_REL_DROP -/ ⟨0x054, 0, 1, .std, false, [⟨15, 0, .rc, 0⟩]⟩,
   /- ENG_DWINk -/ ⟨0x080, 4, 4, .refuge, true, [⟨31, 31, .rw, 0⟩, ⟨30, 30, .rw, 0⟩, ⟨11, 0, .rw, 0⟩]⟩]

/-- The block registers of a page. -/
def regsOf : Blk → List RegDesc
  | .sys => regsSys
  | .dbg => regsDbg
  | .tim => regsTim
  | .orb => regsOrb
  | .evm => regsEvm
  | .pit => regsPit
  | .bio => regsBio
  | .tou => regsTou
  | .prt => regsPrt
  | .mgp => regsMgp
  | .hst => regsHst
  | .trv => regsTrv
  | .qmg => regsQmg
  | .sbf => regsSbf
  | .cnv => regsCnv
  | .wfc => regsWfc
  | .rsm => regsRsm
  | .clu => regsClu
  | .drc => regsDrc
  | .mce => regsMce
  | .cpl => regsCpl
  | .pke => regsPke
  | .hsh => regsHsh
  | .trn => regsTrn
  | .rfg => regsRfg
  | .lcc => regsLcc
  | .tmp => regsTmp
  | .bkd => regsBkd
  | .flc => regsFlc
  | .evr => regsEvr
  | .crd => regsCrd
  | .nfc => regsNfc
  | .isd => regsIsd
  | .rop => regsRop
  | .eng => regsEng

/-- The layout of the register at an offset of a block's page; none where the offset is reserved (R8). -/
def findReg (b : Blk) (off : Nat) : Option RegDesc :=
  if off < 0x40 then headerRegs.find? (·.covers off) else (regsOf b).find? (·.covers off)

/-- The key of a register word: page index and word offset. Registers held per requester (R175, R278, R391) add
`bankKey`. -/
def regKey (page off : Nat) : Nat := page * 1024 + off / 4

/-- The key offset of requester `req`'s own copy of a per-requester register. -/
def bankKey (req : Nat) : Nat := (req + 1) * 2 ^ 26

/-- The register of a redundancy pair in its second port, which reads 0 (R105, R120). -/
def pairSecond (b : Blk) (inst off : Nat) : Bool :=
  (b == .prt && inst % 2 == 1 && off == 0x080) || (b == .mgp && inst % 2 == 1 && (off == 0x080 || off == 0x084))

/-- The reset word of the register with a key (R7, R8, R290, R291). -/
def resetOfKey (key : Nat) : Nat :=
  let page := key % 2 ^ 26 / 1024
  let off := key % 1024 * 4
  match pageBlock page with
  | none => 0
  | some (b, inst) =>
    if off = 0 then b.type * 65536 + inst * 256 + 1
    else if pairSecond b inst off then 0
    else match findReg b off with
      | none => 0
      | some r => r.resetWord

/-- The key of a field's register, instance `p` of the page, `k` of the row. -/
def Fld.key (f : Fld) (k p : Nat) : Nat := regKey (f.page + p) (f.off + f.stride * k)

/-! ### Named fields of the header: instance `p` is the page index itself. -/

abbrev ID_type : Fld := ⟨0, 0x000, 0, 31, 16⟩
abbrev ID_instance : Fld := ⟨0, 0x000, 0, 15, 8⟩
abbrev ID_version : Fld := ⟨0, 0x000, 0, 7, 0⟩
abbrev CAPS_caps : Fld := ⟨0, 0x004, 0, 31, 0⟩
abbrev CTRL_drain : Fld := ⟨0, 0x008, 0, 2, 2⟩
abbrev CTRL_soft_reset : Fld := ⟨0, 0x008, 0, 1, 1⟩
abbrev CTRL_enable : Fld := ⟨0, 0x008, 0, 0, 0⟩
abbrev STATUS_last_status : Fld := ⟨0, 0x00C, 0, 15, 8⟩
abbrev STATUS_fault : Fld := ⟨0, 0x00C, 0, 4, 4⟩
abbrev STATUS_enable_pending : Fld := ⟨0, 0x00C, 0, 3, 3⟩
abbrev STATUS_draining : Fld := ⟨0, 0x00C, 0, 2, 2⟩
abbrev STATUS_busy : Fld := ⟨0, 0x00C, 0, 1, 1⟩
abbrev STATUS_enabled : Fld := ⟨0, 0x00C, 0, 0, 0⟩
abbrev IRQ_RAW_bits : Fld := ⟨0, 0x010, 0, 31, 0⟩
abbrev IRQ_EN_bits : Fld := ⟨0, 0x014, 0, 31, 0⟩
abbrev IRQ_STAT_bits : Fld := ⟨0, 0x018, 0, 31, 0⟩
abbrev IRQ_SET_bits : Fld := ⟨0, 0x01C, 0, 31, 0⟩
abbrev WORLD_ACC_dbg : Fld := ⟨0, 0x020, 0, 6, 6⟩
abbrev WORLD_ACC_hst_wr : Fld := ⟨0, 0x020, 0, 5, 5⟩
abbrev WORLD_ACC_hst_rd : Fld := ⟨0, 0x020, 0, 4, 4⟩
abbrev WORLD_ACC_other_rd : Fld := ⟨0, 0x020, 0, 3, 3⟩
abbrev WORLD_ACC_user_rd : Fld := ⟨0, 0x020, 0, 2, 2⟩
abbrev WORLD_ACC_world : Fld := ⟨0, 0x020, 0, 1, 0⟩
abbrev LOCK_owner : Fld := ⟨0, 0x024, 0, 7, 0⟩
abbrev FAULT_INFO_valid : Fld := ⟨0, 0x028, 0, 31, 31⟩
abbrev FAULT_INFO_kind : Fld := ⟨0, 0x028, 0, 30, 28⟩
abbrev FAULT_INFO_where : Fld := ⟨0, 0x028, 0, 27, 16⟩
abbrev FAULT_INFO_status : Fld := ⟨0, 0x028, 0, 15, 8⟩
abbrev FAULT_INFO_requester : Fld := ⟨0, 0x028, 0, 7, 0⟩
abbrev SHADOW_CHK_mismatch : Fld := ⟨0, 0x02C, 0, 31, 31⟩
abbrev SHADOW_CHK_count : Fld := ⟨0, 0x02C, 0, 23, 16⟩
abbrev SHADOW_CHK_offset : Fld := ⟨0, 0x02C, 0, 10, 0⟩

/-! ### Named fields of the SYS page -/

abbrev SYS_RST_CAUSE_cmd : Fld := ⟨0x000, 0x040, 0, 5, 5⟩
abbrev SYS_RST_CAUSE_boot_timeout : Fld := ⟨0x000, 0x040, 0, 4, 4⟩
abbrev SYS_RST_CAUSE_alarm : Fld := ⟨0x000, 0x040, 0, 3, 3⟩
abbrev SYS_RST_CAUSE_wrst_pin : Fld := ⟨0x000, 0x040, 0, 2, 2⟩
abbrev SYS_RST_CAUSE_brownout : Fld := ⟨0x000, 0x040, 0, 1, 1⟩
abbrev SYS_RST_CAUSE_por_pin : Fld := ⟨0x000, 0x040, 0, 0, 0⟩
abbrev SYS_STRAP_m0_mode : Fld := ⟨0x000, 0x044, 0, 2, 2⟩
abbrev SYS_STRAP_rope_pos : Fld := ⟨0x000, 0x044, 0, 1, 0⟩
abbrev SYS_CLKMON_ref_ppm : Fld := ⟨0x000, 0x048, 0, 31, 16⟩
abbrev SYS_CLKMON_cond : Fld := ⟨0x000, 0x048, 0, 3, 0⟩
abbrev SYS_RST_CMD_key : Fld := ⟨0x000, 0x04C, 0, 31, 16⟩
abbrev SYS_EXT_RST_assert : Fld := ⟨0x000, 0x050, 0, 0, 0⟩

/-! ### Named fields of the DBG page -/

abbrev DBG_MBOX_DATA_data : Fld := ⟨0x001, 0x040, 0, 31, 0⟩
abbrev DBG_MBOX_CTRL_go : Fld := ⟨0x001, 0x044, 0, 31, 31⟩
abbrev DBG_MBOX_CTRL_len : Fld := ⟨0x001, 0x044, 0, 16, 0⟩
abbrev DBG_MBOX_STAT_busy : Fld := ⟨0x001, 0x048, 0, 31, 31⟩
abbrev DBG_MBOX_STAT_done : Fld := ⟨0x001, 0x048, 0, 30, 30⟩
abbrev DBG_MBOX_STAT_status : Fld := ⟨0x001, 0x048, 0, 27, 20⟩
abbrev DBG_MBOX_STAT_count : Fld := ⟨0x001, 0x048, 0, 16, 0⟩

/-! ### Named fields of the TIM page -/

abbrev TIM_CFG_hold_limit : Fld := ⟨0x002, 0x040, 0, 31, 16⟩
abbrev TIM_CFG_revert_s : Fld := ⟨0x002, 0x040, 0, 15, 8⟩
abbrev TIM_CFG_pps_out_en : Fld := ⟨0x002, 0x040, 0, 6, 6⟩
abbrev TIM_CFG_pps_out_width : Fld := ⟨0x002, 0x040, 0, 5, 4⟩
abbrev TIM_CFG_ext10_en : Fld := ⟨0x002, 0x040, 0, 3, 3⟩
abbrev TIM_CFG_pps_in_pol : Fld := ⟨0x002, 0x040, 0, 2, 2⟩
abbrev TIM_CFG_rope_follow : Fld := ⟨0x002, 0x040, 0, 1, 1⟩
abbrev TIM_STATE_hold_elapsed : Fld := ⟨0x002, 0x044, 0, 31, 16⟩
abbrev TIM_STATE_qualified : Fld := ⟨0x002, 0x044, 0, 15, 12⟩
abbrev TIM_STATE_active_src : Fld := ⟨0x002, 0x044, 0, 9, 8⟩
abbrev TIM_STATE_ever_locked : Fld := ⟨0x002, 0x044, 0, 7, 7⟩
abbrev TIM_STATE_ext10_active : Fld := ⟨0x002, 0x044, 0, 6, 6⟩
abbrev TIM_STATE_state : Fld := ⟨0x002, 0x044, 0, 2, 0⟩
abbrev TIM_SRC_PRIO_slot3 : Fld := ⟨0x002, 0x048, 0, 7, 6⟩
abbrev TIM_SRC_PRIO_slot2 : Fld := ⟨0x002, 0x048, 0, 5, 4⟩
abbrev TIM_SRC_PRIO_slot1 : Fld := ⟨0x002, 0x048, 0, 3, 2⟩
abbrev TIM_SRC_PRIO_slot0 : Fld := ⟨0x002, 0x048, 0, 1, 0⟩
abbrev TIM_SERVO_slew_ppm : Fld := ⟨0x002, 0x04C, 0, 31, 16⟩
abbrev TIM_SERVO_locked : Fld := ⟨0x002, 0x04C, 0, 1, 1⟩
abbrev TIM_SERVO_ptp_qual : Fld := ⟨0x002, 0x04C, 0, 0, 0⟩
abbrev TIM_TAI_LO_tai : Fld := ⟨0x002, 0x050, 0, 31, 0⟩
abbrev TIM_TAI_HI_tai : Fld := ⟨0x002, 0x054, 0, 31, 0⟩
abbrev TIM_FREQ_ADJ_adj : Fld := ⟨0x002, 0x058, 0, 31, 0⟩
abbrev TIM_PHASE_ADJ_ns : Fld := ⟨0x002, 0x05C, 0, 31, 0⟩
abbrev TIM_STEP_ns : Fld := ⟨0x002, 0x060, 0, 31, 0⟩
abbrev TIM_SET_LO_tai : Fld := ⟨0x002, 0x064, 0, 31, 0⟩
abbrev TIM_SET_HI_tai : Fld := ⟨0x002, 0x068, 0, 31, 0⟩
abbrev TIM_UTC_tai_utc : Fld := ⟨0x002, 0x06C, 0, 15, 0⟩
abbrev TIM_PPS_CAP_LO_tai : Fld := ⟨0x002, 0x070, 0, 31, 0⟩
abbrev TIM_PPS_CAP_HI_tai : Fld := ⟨0x002, 0x074, 0, 31, 0⟩
abbrev TIM_IRIG_CFG_year : Fld := ⟨0x002, 0x078, 0, 31, 16⟩
abbrev TIM_IRIG_CFG_local_offset : Fld := ⟨0x002, 0x078, 0, 15, 8⟩
abbrev TIM_IRIG_CFG_year_src : Fld := ⟨0x002, 0x078, 0, 2, 2⟩
abbrev TIM_IRIG_CFG_format : Fld := ⟨0x002, 0x078, 0, 1, 1⟩
abbrev TIM_IRIG_CFG_en : Fld := ⟨0x002, 0x078, 0, 0, 0⟩
abbrev TIM_IRIG_STAT_frame_err : Fld := ⟨0x002, 0x07C, 0, 31, 16⟩
abbrev TIM_IRIG_STAT_last_ok : Fld := ⟨0x002, 0x07C, 0, 0, 0⟩
abbrev TIM_IRIG_TAI_LO_tai : Fld := ⟨0x002, 0x080, 0, 31, 0⟩
abbrev TIM_IRIG_TAI_HI_tai : Fld := ⟨0x002, 0x084, 0, 31, 0⟩
abbrev TIM_SNAP_valid : Fld := ⟨0x002, 0x088, 0, 31, 31⟩
abbrev TIM_SNAP_req : Fld := ⟨0x002, 0x088, 0, 0, 0⟩
abbrev TIM_SNAP_TAI_LO_value : Fld := ⟨0x002, 0x090, 0, 31, 0⟩
abbrev TIM_SNAP_TAI_HI_value : Fld := ⟨0x002, 0x094, 0, 31, 0⟩
abbrev TIM_SNAP_ORBn_LO_value : Fld := ⟨0x002, 0x098, 8, 31, 0⟩
abbrev TIM_SNAP_ORBn_HI_value : Fld := ⟨0x002, 0x09C, 8, 31, 0⟩

/-! ### Named fields of the ORB page -/

abbrev ORBn_SRC_kind : Fld := ⟨0x003, 0x040, 64, 31, 30⟩
abbrev ORBn_SRC_queue : Fld := ⟨0x003, 0x040, 64, 29, 16⟩
abbrev ORBn_SRC_channel : Fld := ⟨0x003, 0x040, 64, 15, 8⟩
abbrev ORBn_SRC_lane : Fld := ⟨0x003, 0x040, 64, 4, 0⟩
abbrev ORBn_CFG_coast_cycles : Fld := ⟨0x003, 0x044, 64, 31, 16⟩
abbrev ORBn_CFG_bw : Fld := ⟨0x003, 0x044, 64, 5, 4⟩
abbrev ORBn_CFG_nominal : Fld := ⟨0x003, 0x044, 64, 1, 1⟩
abbrev ORBn_CFG_run : Fld := ⟨0x003, 0x044, 64, 0, 0⟩
abbrev ORBn_OFFSET_offset : Fld := ⟨0x003, 0x048, 64, 15, 0⟩
abbrev ORBn_LEVEL_restore : Fld := ⟨0x003, 0x04C, 64, 31, 16⟩
abbrev ORBn_LEVEL_loss : Fld := ⟨0x003, 0x04C, 64, 15, 0⟩
abbrev ORBn_STATE_coasted : Fld := ⟨0x003, 0x050, 64, 31, 16⟩
abbrev ORBn_STATE_state : Fld := ⟨0x003, 0x050, 64, 2, 0⟩
abbrev ORBn_FREQ_value : Fld := ⟨0x003, 0x054, 64, 31, 0⟩
abbrev ORBn_ROCOF_value : Fld := ⟨0x003, 0x058, 64, 31, 0⟩
abbrev ORBn_PHERR_value : Fld := ⟨0x003, 0x05C, 64, 31, 0⟩
abbrev ORBn_AMPL_value : Fld := ⟨0x003, 0x068, 64, 31, 0⟩
abbrev ORBn_POS_LO_cycle_lo : Fld := ⟨0x003, 0x060, 64, 31, 16⟩
abbrev ORBn_POS_LO_angle : Fld := ⟨0x003, 0x060, 64, 15, 0⟩
abbrev ORBn_POS_HI_cycle_hi : Fld := ⟨0x003, 0x064, 64, 31, 0⟩
abbrev ORB_CMPk_en : Fld := ⟨0x003, 0x200, 4, 31, 31⟩
abbrev ORB_CMPk_orbit : Fld := ⟨0x003, 0x200, 4, 25, 24⟩
abbrev ORB_CMPk_angle : Fld := ⟨0x003, 0x200, 4, 15, 0⟩

/-! ### Named fields of the EVM page -/

abbrev EVM_TICK_CTRL_snap_valid : Fld := ⟨0x004, 0x040, 0, 31, 31⟩
abbrev EVM_TICK_CTRL_snap_req : Fld := ⟨0x004, 0x040, 0, 0, 0⟩
abbrev EVM_SRC_SEL_src : Fld := ⟨0x004, 0x044, 0, 9, 0⟩
abbrev EVM_SRC_CFG_owner_id : Fld := ⟨0x004, 0x048, 0, 23, 16⟩
abbrev EVM_SRC_CFG_owner_kind : Fld := ⟨0x004, 0x048, 0, 13, 12⟩
abbrev EVM_SRC_CFG_fixed : Fld := ⟨0x004, 0x048, 0, 11, 11⟩
abbrev EVM_SRC_CFG_sev : Fld := ⟨0x004, 0x048, 0, 10, 8⟩
abbrev EVM_SRC_CFG_resp : Fld := ⟨0x004, 0x048, 0, 7, 4⟩
abbrev EVM_SRC_CFG_rec_fall : Fld := ⟨0x004, 0x048, 0, 1, 1⟩
abbrev EVM_SRC_CFG_rec_rise : Fld := ⟨0x004, 0x048, 0, 0, 0⟩
abbrev EVM_RAISE_tag : Fld := ⟨0x004, 0x04C, 0, 31, 16⟩
abbrev EVM_RAISE_src : Fld := ⟨0x004, 0x04C, 0, 9, 0⟩
abbrev EVM_REC_DROP_high : Fld := ⟨0x004, 0x050, 0, 31, 16⟩
abbrev EVM_REC_DROP_low : Fld := ⟨0x004, 0x050, 0, 15, 0⟩
abbrev EVM_CSEL_SEL_index : Fld := ⟨0x004, 0x054, 0, 8, 0⟩
abbrev EVM_CSEL_en : Fld := ⟨0x004, 0x058, 0, 31, 31⟩
abbrev EVM_CSEL_edge : Fld := ⟨0x004, 0x058, 0, 30, 29⟩
abbrev EVM_CSEL_pos_match : Fld := ⟨0x004, 0x058, 0, 28, 28⟩
abbrev EVM_CSEL_pos : Fld := ⟨0x004, 0x058, 0, 27, 26⟩
abbrev EVM_CSEL_src : Fld := ⟨0x004, 0x058, 0, 9, 0⟩
abbrev EVM_SNAPk_level : Fld := ⟨0x004, 0x100, 4, 31, 0⟩

/-! ### Named fields of the PIT page -/

abbrev PIT_CTRL_active : Fld := ⟨0x005, 0x040, 0, 1, 1⟩
abbrev PIT_CTRL_swap : Fld := ⟨0x005, 0x040, 0, 0, 0⟩
abbrev PIT_SEL_term : Fld := ⟨0x005, 0x044, 0, 7, 0⟩
abbrev PIT_LITk_lit_hi : Fld := ⟨0x005, 0x050, 4, 31, 16⟩
abbrev PIT_LITk_lit_lo : Fld := ⟨0x005, 0x050, 4, 15, 0⟩
abbrev PIT_OMASK_LO_mask : Fld := ⟨0x005, 0x060, 0, 31, 0⟩
abbrev PIT_OMASK_HI_mask : Fld := ⟨0x005, 0x064, 0, 31, 0⟩
abbrev PIT_TERM_STATk_true : Fld := ⟨0x005, 0x080, 4, 31, 0⟩

/-! ### Named fields of the BIO page -/

abbrev BIO_CHAT_window : Fld := ⟨0x006, 0x040, 0, 31, 16⟩
abbrev BIO_CHAT_quiet : Fld := ⟨0x006, 0x040, 0, 15, 0⟩
abbrev BIO_ETIME_SEL_level : Fld := ⟨0x006, 0x044, 0, 24, 24⟩
abbrev BIO_ETIME_SEL_offset : Fld := ⟨0x006, 0x044, 0, 21, 16⟩
abbrev BIO_ETIME_SEL_input : Fld := ⟨0x006, 0x044, 0, 6, 0⟩
abbrev BIO_ETIME_LO_tai : Fld := ⟨0x006, 0x048, 0, 31, 0⟩
abbrev BIO_ETIME_HI_tai : Fld := ⟨0x006, 0x04C, 0, 31, 0⟩
abbrev BIO_LEVELk_bits : Fld := ⟨0x006, 0x060, 4, 31, 0⟩
abbrev BIO_BLOCKk_bits : Fld := ⟨0x006, 0x070, 4, 31, 0⟩
abbrev BIO_CFGn_debounce : Fld := ⟨0x006, 0x200, 4, 31, 20⟩
abbrev BIO_CFGn_unit : Fld := ⟨0x006, 0x200, 4, 19, 18⟩
abbrev BIO_CFGn_chatter_max : Fld := ⟨0x006, 0x200, 4, 17, 14⟩
abbrev BIO_CFGn_block_hold : Fld := ⟨0x006, 0x200, 4, 2, 2⟩
abbrev BIO_CFGn_pol : Fld := ⟨0x006, 0x200, 4, 1, 1⟩
abbrev BIO_CFGn_en : Fld := ⟨0x006, 0x200, 4, 0, 0⟩

/-! ### Named fields of the TOU page -/

abbrev TOU_CMD_LO_bits : Fld := ⟨0x007, 0x040, 0, 31, 0⟩
abbrev TOU_CMD_HI_bits : Fld := ⟨0x007, 0x044, 0, 31, 0⟩
abbrev TOU_FB_LO_bits : Fld := ⟨0x007, 0x048, 0, 31, 0⟩
abbrev TOU_FB_HI_bits : Fld := ⟨0x007, 0x04C, 0, 31, 0⟩
abbrev TOU_MISM_LO_bits : Fld := ⟨0x007, 0x050, 0, 31, 0⟩
abbrev TOU_MISM_HI_bits : Fld := ⟨0x007, 0x054, 0, 31, 0⟩
abbrev TOU_UNLATCH_LO_bits : Fld := ⟨0x007, 0x058, 0, 31, 0⟩
abbrev TOU_UNLATCH_HI_bits : Fld := ⟨0x007, 0x05C, 0, 31, 0⟩
abbrev TOU_CFGn_hold : Fld := ⟨0x007, 0x100, 4, 31, 16⟩
abbrev TOU_CFGn_fb_settle : Fld := ⟨0x007, 0x100, 4, 15, 4⟩
abbrev TOU_CFGn_fb_pol : Fld := ⟨0x007, 0x100, 4, 3, 3⟩
abbrev TOU_CFGn_fb_en : Fld := ⟨0x007, 0x100, 4, 2, 2⟩
abbrev TOU_CFGn_latch : Fld := ⟨0x007, 0x100, 4, 1, 1⟩
abbrev TOU_CFGn_en : Fld := ⟨0x007, 0x100, 4, 0, 0⟩

/-! ### Named fields of the PRT page -/

abbrev PRT_MODE_mode : Fld := ⟨0x010, 0x040, 0, 2, 0⟩
abbrev PRT_FEC_fec : Fld := ⟨0x010, 0x044, 0, 7, 0⟩
abbrev PRT_AN_train_en : Fld := ⟨0x010, 0x048, 0, 4, 4⟩
abbrev PRT_AN_an_en : Fld := ⟨0x010, 0x048, 0, 3, 0⟩
abbrev PRT_LANE_tx_inv : Fld := ⟨0x010, 0x04C, 0, 7, 4⟩
abbrev PRT_LANE_rx_inv : Fld := ⟨0x010, 0x04C, 0, 3, 0⟩
abbrev PRT_LINK_remote_fault : Fld := ⟨0x010, 0x050, 0, 31, 28⟩
abbrev PRT_LINK_local_fault : Fld := ⟨0x010, 0x050, 0, 27, 24⟩
abbrev PRT_LINK_an_done : Fld := ⟨0x010, 0x050, 0, 23, 20⟩
abbrev PRT_LINK_lane_lock : Fld := ⟨0x010, 0x050, 0, 19, 16⟩
abbrev PRT_LINK_up : Fld := ⟨0x010, 0x050, 0, 3, 0⟩
abbrev PRT_MAC_max_len : Fld := ⟨0x010, 0x054, 0, 13, 0⟩
abbrev PRT_MAC_ADDR_LO_addr : Fld := ⟨0x010, 0x058, 0, 31, 0⟩
abbrev PRT_MAC_ADDR_HI_addr : Fld := ⟨0x010, 0x05C, 0, 15, 0⟩
abbrev PRT_PTP_tc_en : Fld := ⟨0x010, 0x060, 0, 2, 2⟩
abbrev PRT_PTP_one_step : Fld := ⟨0x010, 0x060, 0, 1, 1⟩
abbrev PRT_PTP_ptp_en : Fld := ⟨0x010, 0x060, 0, 0, 0⟩
abbrev PRT_TS_ADJ_tx : Fld := ⟨0x010, 0x064, 0, 31, 16⟩
abbrev PRT_TS_ADJ_rx : Fld := ⟨0x010, 0x064, 0, 15, 0⟩
abbrev PRT_PEER_DELAY_delay : Fld := ⟨0x010, 0x068, 0, 31, 0⟩
abbrev PRT_TS_STAT_dropped : Fld := ⟨0x010, 0x06C, 0, 31, 16⟩
abbrev PRT_TS_STAT_count : Fld := ⟨0x010, 0x06C, 0, 6, 0⟩
abbrev PRT_TS_Wk_entry : Fld := ⟨0x010, 0x070, 4, 31, 0⟩
abbrev PRT_PRP_forget_ms : Fld := ⟨0x010, 0x080, 0, 31, 20⟩
abbrev PRT_PRP_life_ms : Fld := ⟨0x010, 0x080, 0, 19, 8⟩
abbrev PRT_PRP_en : Fld := ⟨0x010, 0x080, 0, 0, 0⟩
abbrev PRT_PRP_SUP_sup_addr : Fld := ⟨0x010, 0x084, 0, 7, 0⟩
abbrev PRT_CNT_SEL_subport : Fld := ⟨0x010, 0x090, 0, 9, 8⟩
abbrev PRT_CNT_SEL_index : Fld := ⟨0x010, 0x090, 0, 5, 0⟩
abbrev PRT_CNT_LO_value : Fld := ⟨0x010, 0x094, 0, 31, 0⟩
abbrev PRT_CNT_HI_value : Fld := ⟨0x010, 0x098, 0, 31, 0⟩
abbrev PRT_CNT_CLR_clear : Fld := ⟨0x010, 0x09C, 0, 0, 0⟩

/-! ### Named fields of the MGP page -/

abbrev MGP_MODE_mode : Fld := ⟨0x018, 0x040, 0, 1, 0⟩
abbrev MGP_LINK_remote_fault : Fld := ⟨0x018, 0x050, 0, 3, 3⟩
abbrev MGP_LINK_an_done : Fld := ⟨0x018, 0x050, 0, 2, 2⟩
abbrev MGP_LINK_sync : Fld := ⟨0x018, 0x050, 0, 1, 1⟩
abbrev MGP_LINK_up : Fld := ⟨0x018, 0x050, 0, 0, 0⟩
abbrev MGP_MAC_max_len : Fld := ⟨0x018, 0x054, 0, 13, 0⟩
abbrev MGP_MAC_ADDR_LO_addr : Fld := ⟨0x018, 0x058, 0, 31, 0⟩
abbrev MGP_MAC_ADDR_HI_addr : Fld := ⟨0x018, 0x05C, 0, 15, 0⟩
abbrev MGP_PTP_tc_en : Fld := ⟨0x018, 0x060, 0, 2, 2⟩
abbrev MGP_PTP_one_step : Fld := ⟨0x018, 0x060, 0, 1, 1⟩
abbrev MGP_PTP_ptp_en : Fld := ⟨0x018, 0x060, 0, 0, 0⟩
abbrev MGP_TS_ADJ_tx : Fld := ⟨0x018, 0x064, 0, 31, 16⟩
abbrev MGP_TS_ADJ_rx : Fld := ⟨0x018, 0x064, 0, 15, 0⟩
abbrev MGP_PEER_DELAY_delay : Fld := ⟨0x018, 0x068, 0, 31, 0⟩
abbrev MGP_TS_STAT_dropped : Fld := ⟨0x018, 0x06C, 0, 31, 16⟩
abbrev MGP_TS_STAT_count : Fld := ⟨0x018, 0x06C, 0, 6, 0⟩
abbrev MGP_TS_Wk_entry : Fld := ⟨0x018, 0x070, 4, 31, 0⟩
abbrev MGP_RED_forget_ms : Fld := ⟨0x018, 0x080, 0, 31, 20⟩
abbrev MGP_RED_life_ms : Fld := ⟨0x018, 0x080, 0, 19, 8⟩
abbrev MGP_RED_red : Fld := ⟨0x018, 0x080, 0, 2, 1⟩
abbrev MGP_RED_SUP_sup_addr : Fld := ⟨0x018, 0x084, 0, 7, 0⟩
abbrev MGP_CNT_SEL_index : Fld := ⟨0x018, 0x090, 0, 5, 0⟩
abbrev MGP_CNT_LO_value : Fld := ⟨0x018, 0x094, 0, 31, 0⟩
abbrev MGP_CNT_HI_value : Fld := ⟨0x018, 0x098, 0, 31, 0⟩
abbrev MGP_CNT_CLR_clear : Fld := ⟨0x018, 0x09C, 0, 0, 0⟩

/-! ### Named fields of the HST page -/

abbrev HST_LINK_d3hot : Fld := ⟨0x01C, 0x040, 0, 9, 9⟩
abbrev HST_LINK_up : Fld := ⟨0x01C, 0x040, 0, 8, 8⟩
abbrev HST_LINK_width : Fld := ⟨0x01C, 0x040, 0, 7, 4⟩
abbrev HST_LINK_speed : Fld := ⟨0x01C, 0x040, 0, 3, 0⟩
abbrev HST_ERR_flr : Fld := ⟨0x01C, 0x044, 0, 5, 5⟩
abbrev HST_ERR_malformed : Fld := ⟨0x01C, 0x044, 0, 4, 4⟩
abbrev HST_ERR_poisoned : Fld := ⟨0x01C, 0x044, 0, 3, 3⟩
abbrev HST_ERR_cpl_timeout : Fld := ⟨0x01C, 0x044, 0, 2, 2⟩
abbrev HST_ERR_unsupported : Fld := ⟨0x01C, 0x044, 0, 1, 1⟩
abbrev HST_ERR_denied : Fld := ⟨0x01C, 0x044, 0, 0, 0⟩
abbrev HST_ERR_ADDR_LO_addr : Fld := ⟨0x01C, 0x048, 0, 31, 0⟩
abbrev HST_ERR_ADDR_HI_addr : Fld := ⟨0x01C, 0x04C, 0, 7, 0⟩
abbrev HST_CPL_TO_range : Fld := ⟨0x01C, 0x050, 0, 3, 0⟩
abbrev HST_MSIX_SRCk_en : Fld := ⟨0x01C, 0x100, 4, 31, 31⟩
abbrev HST_MSIX_SRCk_block : Fld := ⟨0x01C, 0x100, 4, 15, 0⟩

/-! ### Named fields of the TRV page -/

abbrev TRV_CFG_pyrlon_type : Fld := ⟨0x020, 0x040, 0, 31, 16⟩
abbrev TRV_CNT_BASE_base : Fld := ⟨0x020, 0x044, 0, 5, 0⟩
abbrev TRV_ENT_SEL_index : Fld := ⟨0x020, 0x048, 0, 13, 0⟩
abbrev TRV_ENT_CMD_cmd : Fld := ⟨0x020, 0x04C, 0, 1, 0⟩
abbrev TRV_ENT_Wk_word : Fld := ⟨0x020, 0x050, 4, 31, 0⟩
abbrev TRV_ENT_STATE_in_loss : Fld := ⟨0x020, 0x070, 0, 31, 31⟩
abbrev TRV_ENT_STATE_first : Fld := ⟨0x020, 0x070, 0, 30, 30⟩
abbrev TRV_ENT_STATE_gen : Fld := ⟨0x020, 0x070, 0, 23, 16⟩
abbrev TRV_STEP_SEL_index : Fld := ⟨0x020, 0x074, 0, 11, 0⟩
abbrev TRV_STEP_step : Fld := ⟨0x020, 0x078, 0, 31, 0⟩
abbrev TRV_STEP_REF_refs : Fld := ⟨0x020, 0x07C, 0, 14, 0⟩
abbrev TRV_DISP_SEL_matrix : Fld := ⟨0x020, 0x080, 0, 7, 0⟩
abbrev TRV_DISPk_actions : Fld := ⟨0x020, 0x0A0, 4, 31, 0⟩
abbrev TRV_KEY_SEL_index : Fld := ⟨0x020, 0x0C0, 0, 7, 0⟩
abbrev TRV_KEY_CUR_ID_id : Fld := ⟨0x020, 0x0C4, 0, 31, 0⟩
abbrev TRV_KEY_CUR_SLOT_valid : Fld := ⟨0x020, 0x0C8, 0, 31, 31⟩
abbrev TRV_KEY_CUR_SLOT_slot : Fld := ⟨0x020, 0x0C8, 0, 7, 0⟩
abbrev TRV_KEY_NEXT_ID_id : Fld := ⟨0x020, 0x0CC, 0, 31, 0⟩
abbrev TRV_KEY_NEXT_SLOT_valid : Fld := ⟨0x020, 0x0D0, 0, 31, 31⟩
abbrev TRV_KEY_NEXT_SLOT_slot : Fld := ⟨0x020, 0x0D0, 0, 7, 0⟩
abbrev TRV_CPL_MAPp_en : Fld := ⟨0x020, 0x0E0, 4, 31, 31⟩
abbrev TRV_CPL_MAPp_held : Fld := ⟨0x020, 0x0E0, 4, 30, 30⟩
abbrev TRV_CPL_MAPp_egress : Fld := ⟨0x020, 0x0E0, 4, 23, 12⟩
abbrev TRV_CPL_MAPp_ingress : Fld := ⟨0x020, 0x0E0, 4, 11, 0⟩
abbrev TRV_MISSd_en : Fld := ⟨0x020, 0x100, 4, 31, 31⟩
abbrev TRV_MISSd_len : Fld := ⟨0x020, 0x100, 4, 24, 21⟩
abbrev TRV_MISSd_dispo : Fld := ⟨0x020, 0x100, 4, 19, 12⟩
abbrev TRV_MISSd_prog : Fld := ⟨0x020, 0x100, 4, 11, 0⟩
abbrev TRV_LOSS_groups : Fld := ⟨0x020, 0x140, 0, 31, 0⟩
abbrev TRV_STAT_SEL_datapath : Fld := ⟨0x020, 0x144, 0, 11, 8⟩
abbrev TRV_STAT_SEL_index : Fld := ⟨0x020, 0x144, 0, 2, 0⟩
abbrev TRV_STAT_LO_value : Fld := ⟨0x020, 0x148, 0, 31, 0⟩
abbrev TRV_STAT_HI_value : Fld := ⟨0x020, 0x14C, 0, 31, 0⟩

/-! ### Named fields of the QMG page -/

abbrev QMG_Q_SEL_queue : Fld := ⟨0x021, 0x040, 0, 13, 0⟩
abbrev QMG_QD_Wk_word : Fld := ⟨0x021, 0x044, 4, 31, 0⟩
abbrev QMG_Q_CMD_cmd : Fld := ⟨0x021, 0x054, 0, 2, 0⟩
abbrev QMG_Q_STAT_enabled : Fld := ⟨0x021, 0x058, 0, 31, 31⟩
abbrev QMG_Q_STAT_draining : Fld := ⟨0x021, 0x058, 0, 30, 30⟩
abbrev QMG_Q_STAT_enable_pending : Fld := ⟨0x021, 0x058, 0, 29, 29⟩
abbrev QMG_Q_STAT_spilling : Fld := ⟨0x021, 0x058, 0, 28, 28⟩
abbrev QMG_Q_STAT_occupancy : Fld := ⟨0x021, 0x058, 0, 15, 0⟩
abbrev QMG_Q_IDX_cons : Fld := ⟨0x021, 0x05C, 0, 31, 16⟩
abbrev QMG_Q_IDX_prod : Fld := ⟨0x021, 0x05C, 0, 15, 0⟩
abbrev QMG_Q_CLAIM_claim : Fld := ⟨0x021, 0x060, 0, 15, 0⟩
abbrev QMG_Q_SEQ_h : Fld := ⟨0x021, 0x064, 0, 15, 0⟩
abbrev QMG_Q_WIN_LO_map : Fld := ⟨0x021, 0x068, 0, 31, 0⟩
abbrev QMG_Q_WIN_HI_map : Fld := ⟨0x021, 0x06C, 0, 31, 0⟩
abbrev QMG_Q_DROP_late : Fld := ⟨0x021, 0x070, 0, 31, 16⟩
abbrev QMG_Q_DROP_full : Fld := ⟨0x021, 0x070, 0, 15, 0⟩
abbrev QMG_Q_SPILL_items : Fld := ⟨0x021, 0x074, 0, 31, 0⟩
abbrev QMG_DB_PROD_queue : Fld := ⟨0x021, 0x080, 0, 29, 16⟩
abbrev QMG_DB_PROD_count : Fld := ⟨0x021, 0x080, 0, 15, 0⟩
abbrev QMG_DB_CONS_op : Fld := ⟨0x021, 0x084, 0, 31, 31⟩
abbrev QMG_DB_CONS_queue : Fld := ⟨0x021, 0x084, 0, 29, 16⟩
abbrev QMG_DB_CONS_count : Fld := ⟨0x021, 0x084, 0, 15, 0⟩
abbrev QMG_CPL_Q_queue : Fld := ⟨0x021, 0x088, 0, 29, 16⟩
abbrev QMG_CPL_Q_seq : Fld := ⟨0x021, 0x088, 0, 15, 0⟩
abbrev QMG_CPL_ARG_arg : Fld := ⟨0x021, 0x08C, 0, 31, 0⟩
abbrev QMG_CPL_ST_status : Fld := ⟨0x021, 0x090, 0, 7, 0⟩
abbrev QMG_TAG_TMO_tmo : Fld := ⟨0x021, 0x094, 0, 15, 0⟩
abbrev QMG_TAG_CMD_tag : Fld := ⟨0x021, 0x098, 0, 31, 16⟩
abbrev QMG_TAG_CMD_op : Fld := ⟨0x021, 0x098, 0, 1, 0⟩
abbrev QMG_TAG_RES_status : Fld := ⟨0x021, 0x09C, 0, 31, 24⟩
abbrev QMG_TAG_RES_tag : Fld := ⟨0x021, 0x09C, 0, 15, 0⟩
abbrev QMG_TAG_USE_mine : Fld := ⟨0x021, 0x0A0, 0, 26, 16⟩
abbrev QMG_TAG_USE_total : Fld := ⟨0x021, 0x0A0, 0, 11, 0⟩
abbrev QMG_STAT_SEL_index : Fld := ⟨0x021, 0x0A4, 0, 3, 0⟩
abbrev QMG_STAT_LO_value : Fld := ⟨0x021, 0x0A8, 0, 31, 0⟩
abbrev QMG_STAT_HI_value : Fld := ⟨0x021, 0x0AC, 0, 31, 0⟩

/-! ### Named fields of the SBF page -/

abbrev SBF_POOLv_base : Fld := ⟨0x022, 0x040, 4, 31, 16⟩
abbrev SBF_POOLv_size : Fld := ⟨0x022, 0x040, 4, 15, 0⟩
abbrev SBF_BORROWv_limit : Fld := ⟨0x022, 0x050, 4, 15, 0⟩
abbrev SBF_POOL_USEv_peak : Fld := ⟨0x022, 0x060, 4, 31, 16⟩
abbrev SBF_POOL_USEv_used : Fld := ⟨0x022, 0x060, 4, 15, 0⟩
abbrev SBF_BANK_WORLDk_banks : Fld := ⟨0x022, 0x080, 4, 31, 0⟩
abbrev SBF_HWIN_BASEk_en : Fld := ⟨0x022, 0x0A0, 8, 31, 31⟩
abbrev SBF_HWIN_BASEk_wr : Fld := ⟨0x022, 0x0A0, 8, 30, 30⟩
abbrev SBF_HWIN_BASEk_base : Fld := ⟨0x022, 0x0A0, 8, 11, 0⟩
abbrev SBF_HWIN_SIZEk_size : Fld := ⟨0x022, 0x0A4, 8, 12, 0⟩

/-! ### Named fields of the CNV page -/

abbrev CNV_SYN_locked : Fld := ⟨0x030, 0x040, 0, 31, 31⟩
abbrev CNV_SYN_en : Fld := ⟨0x030, 0x040, 0, 0, 0⟩
abbrev CNV_TRAIN_busy : Fld := ⟨0x030, 0x044, 0, 31, 31⟩
abbrev CNV_TRAIN_group : Fld := ⟨0x030, 0x044, 0, 26, 24⟩
abbrev CNV_TRAIN_start : Fld := ⟨0x030, 0x044, 0, 18, 18⟩
abbrev CNV_TRAIN_pattern : Fld := ⟨0x030, 0x044, 0, 17, 0⟩
abbrev CNV_TRAIN_RES_fail : Fld := ⟨0x030, 0x048, 0, 3, 0⟩
abbrev CNV_GRPg_en : Fld := ⟨0x030, 0x080, 4, 31, 31⟩
abbrev CNV_GRPg_fs_delay : Fld := ⟨0x030, 0x080, 4, 15, 12⟩
abbrev CNV_GRPg_pipe : Fld := ⟨0x030, 0x080, 4, 11, 8⟩
abbrev CNV_GRPg_code : Fld := ⟨0x030, 0x080, 4, 5, 5⟩
abbrev CNV_GRPg_fmt : Fld := ⟨0x030, 0x080, 4, 4, 3⟩
abbrev CNV_GRPg_rate : Fld := ⟨0x030, 0x080, 4, 2, 0⟩
abbrev CNV_LANE_CFGn_en : Fld := ⟨0x030, 0x100, 4, 31, 31⟩
abbrev CNV_LANE_CFGn_tap : Fld := ⟨0x030, 0x100, 4, 13, 8⟩
abbrev CNV_LANE_CFGn_slip : Fld := ⟨0x030, 0x100, 4, 4, 0⟩
abbrev CNV_LANE_Qn_en : Fld := ⟨0x030, 0x180, 4, 31, 31⟩
abbrev CNV_LANE_Qn_queue : Fld := ⟨0x030, 0x180, 4, 13, 0⟩
abbrev CNV_LANE_CMPn_en : Fld := ⟨0x030, 0x200, 4, 31, 31⟩
abbrev CNV_LANE_CMPn_mode : Fld := ⟨0x030, 0x200, 4, 30, 30⟩
abbrev CNV_LANE_CMPn_count : Fld := ⟨0x030, 0x200, 4, 29, 26⟩
abbrev CNV_LANE_CMPn_src : Fld := ⟨0x030, 0x200, 4, 9, 0⟩
abbrev CNV_LANE_THRn_thr : Fld := ⟨0x030, 0x280, 4, 17, 0⟩
abbrev CNV_LANE_SCALEn_scale : Fld := ⟨0x030, 0x300, 4, 31, 0⟩
abbrev CNV_LANE_UP_up : Fld := ⟨0x030, 0x380, 0, 31, 0⟩
abbrev CNV_PUB_CFGp_en : Fld := ⟨0x030, 0x400, 32, 31, 31⟩
abbrev CNV_PUB_CFGp_rate : Fld := ⟨0x030, 0x400, 32, 30, 30⟩
abbrev CNV_PUB_CFGp_asdu : Fld := ⟨0x030, 0x400, 32, 29, 27⟩
abbrev CNV_PUB_CFGp_test : Fld := ⟨0x030, 0x400, 32, 26, 26⟩
abbrev CNV_PUB_CFGp_stride : Fld := ⟨0x030, 0x400, 32, 9, 0⟩
abbrev CNV_PUB_OFFp_smp_off : Fld := ⟨0x030, 0x404, 32, 31, 22⟩
abbrev CNV_PUB_OFFp_sync_off : Fld := ⟨0x030, 0x404, 32, 21, 12⟩
abbrev CNV_PUB_OFFp_data_off : Fld := ⟨0x030, 0x404, 32, 9, 0⟩
abbrev CNV_PUB_LENp_tpl_len : Fld := ⟨0x030, 0x408, 32, 10, 0⟩
abbrev CNV_PUB_LANESp_lanes : Fld := ⟨0x030, 0x40C, 32, 31, 0⟩
abbrev CNV_PUB_Qp_local_en : Fld := ⟨0x030, 0x410, 32, 31, 31⟩
abbrev CNV_PUB_Qp_local_q : Fld := ⟨0x030, 0x410, 32, 29, 16⟩
abbrev CNV_PUB_Qp_queue : Fld := ⟨0x030, 0x410, 32, 13, 0⟩
abbrev CNV_TPL_SEL_pub : Fld := ⟨0x030, 0x500, 0, 18, 16⟩
abbrev CNV_TPL_SEL_word : Fld := ⟨0x030, 0x500, 0, 7, 0⟩
abbrev CNV_TPL_DATA_data : Fld := ⟨0x030, 0x504, 0, 31, 0⟩
abbrev CNV_STAT_SEL_lane : Fld := ⟨0x030, 0x510, 0, 12, 8⟩
abbrev CNV_STAT_SEL_index : Fld := ⟨0x030, 0x510, 0, 2, 0⟩
abbrev CNV_STAT_LO_value : Fld := ⟨0x030, 0x514, 0, 31, 0⟩
abbrev CNV_STAT_HI_value : Fld := ⟨0x030, 0x518, 0, 31, 0⟩

/-! ### Named fields of the WFC page -/

abbrev WFC_CTX_SEL_ctx : Fld := ⟨0x031, 0x040, 0, 5, 0⟩
abbrev WFC_CTX_CMD_cmd : Fld := ⟨0x031, 0x044, 0, 1, 0⟩
abbrev WFC_CTX_W0_valid : Fld := ⟨0x031, 0x050, 0, 31, 31⟩
abbrev WFC_CTX_W0_kind : Fld := ⟨0x031, 0x050, 0, 30, 29⟩
abbrev WFC_CTX_W0_mode : Fld := ⟨0x031, 0x050, 0, 28, 27⟩
abbrev WFC_CTX_W0_order : Fld := ⟨0x031, 0x050, 0, 26, 25⟩
abbrev WFC_CTX_W0_dec : Fld := ⟨0x031, 0x050, 0, 24, 23⟩
abbrev WFC_CTX_W0_width : Fld := ⟨0x031, 0x050, 0, 22, 22⟩
abbrev WFC_CTX_W0_k : Fld := ⟨0x031, 0x050, 0, 21, 14⟩
abbrev WFC_CTX_W0_queue : Fld := ⟨0x031, 0x050, 0, 13, 0⟩
abbrev WFC_CTX_W1_channels : Fld := ⟨0x031, 0x054, 0, 31, 26⟩
abbrev WFC_CTX_W1_blocks : Fld := ⟨0x031, 0x054, 0, 25, 23⟩
abbrev WFC_CTX_W1_rate : Fld := ⟨0x031, 0x054, 0, 22, 20⟩
abbrev WFC_CTX_W1_tag : Fld := ⟨0x031, 0x054, 0, 19, 18⟩
abbrev WFC_CTX_W1_hdr_len : Fld := ⟨0x031, 0x054, 0, 17, 16⟩
abbrev WFC_CTX_W2_lanes : Fld := ⟨0x031, 0x058, 0, 31, 0⟩
abbrev WFC_CTX_W3_stream_id : Fld := ⟨0x031, 0x05C, 0, 31, 0⟩
abbrev WFC_HDR_SEL_word : Fld := ⟨0x031, 0x060, 0, 2, 0⟩
abbrev WFC_HDR_DATA_data : Fld := ⟨0x031, 0x064, 0, 31, 0⟩
abbrev WFC_LOAD_kind1 : Fld := ⟨0x031, 0x070, 0, 15, 0⟩
abbrev WFC_STAT_SEL_ctx : Fld := ⟨0x031, 0x074, 0, 13, 8⟩
abbrev WFC_STAT_SEL_index : Fld := ⟨0x031, 0x074, 0, 2, 0⟩
abbrev WFC_STAT_LO_value : Fld := ⟨0x031, 0x078, 0, 31, 0⟩
abbrev WFC_STAT_HI_value : Fld := ⟨0x031, 0x07C, 0, 31, 0⟩

/-! ### Named fields of the RSM page -/

abbrev RSM_CTX_SEL_ctx : Fld := ⟨0x040, 0x040, 0, 4, 0⟩
abbrev RSM_CTX_CMD_cmd : Fld := ⟨0x040, 0x044, 0, 1, 0⟩
abbrev RSM_CTX_W0_valid : Fld := ⟨0x040, 0x050, 0, 31, 31⟩
abbrev RSM_CTX_W0_kind : Fld := ⟨0x040, 0x050, 0, 30, 30⟩
abbrev RSM_CTX_W0_orbit : Fld := ⟨0x040, 0x050, 0, 29, 28⟩
abbrev RSM_CTX_W0_grid : Fld := ⟨0x040, 0x050, 0, 27, 25⟩
abbrev RSM_CTX_W0_points : Fld := ⟨0x040, 0x050, 0, 24, 22⟩
abbrev RSM_CTX_W0_channels : Fld := ⟨0x040, 0x050, 0, 21, 18⟩
abbrev RSM_CTX_W0_queue : Fld := ⟨0x040, 0x050, 0, 13, 0⟩
abbrev RSM_CTX_W1_r_in : Fld := ⟨0x040, 0x054, 0, 24, 0⟩
abbrev RSM_CTX_W2_first : Fld := ⟨0x040, 0x058, 0, 7, 0⟩
abbrev RSM_CTX_W3_lanes : Fld := ⟨0x040, 0x05C, 0, 31, 0⟩
abbrev RSM_LOAD_out : Fld := ⟨0x040, 0x060, 0, 31, 16⟩
abbrev RSM_LOAD_in : Fld := ⟨0x040, 0x060, 0, 15, 0⟩
abbrev RSM_STAT_SEL_ctx : Fld := ⟨0x040, 0x064, 0, 12, 8⟩
abbrev RSM_STAT_SEL_index : Fld := ⟨0x040, 0x064, 0, 1, 0⟩
abbrev RSM_STAT_LO_value : Fld := ⟨0x040, 0x068, 0, 31, 0⟩
abbrev RSM_STAT_HI_value : Fld := ⟨0x040, 0x06C, 0, 31, 0⟩

/-! ### Named fields of the CLU page -/

abbrev CLU_REL_SEL_entry : Fld := ⟨0x050, 0x040, 0, 5, 0⟩
abbrev CLU_REL_CMD_cmd : Fld := ⟨0x050, 0x044, 0, 1, 0⟩
abbrev CLU_REL_Wk_word : Fld := ⟨0x050, 0x050, 4, 31, 0⟩
abbrev CLU_REL_STAT_running : Fld := ⟨0x050, 0x068, 0, 31, 31⟩
abbrev CLU_REL_STAT_overruns : Fld := ⟨0x050, 0x068, 0, 23, 16⟩
abbrev CLU_REL_NEXT_LO_target : Fld := ⟨0x050, 0x06C, 0, 31, 0⟩
abbrev CLU_REL_NEXT_HI_target : Fld := ⟨0x050, 0x070, 0, 31, 0⟩
abbrev CLU_PEND_bits : Fld := ⟨0x050, 0x074, 0, 31, 0⟩
abbrev CLU_DL_bad_done : Fld := ⟨0x050, 0x078, 0, 31, 16⟩
abbrev CLU_DL_misses : Fld := ⟨0x050, 0x078, 0, 15, 0⟩
abbrev CLU_MEM_WORLD_segs : Fld := ⟨0x050, 0x080, 0, 31, 0⟩

/-! ### Named fields of the DRC page -/

abbrev DRC_CFG_speed : Fld := ⟨0x060, 0x040, 0, 31, 29⟩
abbrev DRC_CFG_cap : Fld := ⟨0x060, 0x040, 0, 26, 24⟩
abbrev DRC_CFG_x4 : Fld := ⟨0x060, 0x040, 0, 23, 23⟩
abbrev DRC_CFG_ranks : Fld := ⟨0x060, 0x040, 0, 22, 22⟩
abbrev DRC_STAT_hot : Fld := ⟨0x060, 0x044, 0, 2, 2⟩
abbrev DRC_STAT_trained : Fld := ⟨0x060, 0x044, 0, 1, 1⟩
abbrev DRC_STAT_init_done : Fld := ⟨0x060, 0x044, 0, 0, 0⟩
abbrev DRC_ECC_corrected : Fld := ⟨0x060, 0x048, 0, 31, 16⟩
abbrev DRC_ECC_uncorrectable : Fld := ⟨0x060, 0x048, 0, 15, 0⟩
abbrev DRC_ERR_ADDR_LO_addr : Fld := ⟨0x060, 0x04C, 0, 31, 0⟩
abbrev DRC_ERR_ADDR_HI_addr : Fld := ⟨0x060, 0x050, 0, 31, 0⟩

/-! ### Named fields of the MCE page -/

abbrev MCE_GUARD_base : Fld := ⟨0x062, 0x040, 0, 31, 16⟩
abbrev MCE_GUARD_size : Fld := ⟨0x062, 0x040, 0, 3, 0⟩
abbrev MCE_STAT_guard_ready : Fld := ⟨0x062, 0x044, 0, 31, 31⟩
abbrev MCE_STAT_keys_loaded : Fld := ⟨0x062, 0x044, 0, 30, 30⟩
abbrev MCE_FAIL_tag_fail : Fld := ⟨0x062, 0x048, 0, 31, 16⟩
abbrev MCE_FAIL_ecc_fail : Fld := ⟨0x062, 0x048, 0, 15, 0⟩
abbrev MCE_FAIL_ADDR_LO_addr : Fld := ⟨0x062, 0x04C, 0, 31, 0⟩
abbrev MCE_FAIL_ADDR_HI_addr : Fld := ⟨0x062, 0x050, 0, 31, 0⟩

/-! ### Named fields of the CPL page -/

abbrev CPL_MODE_slot : Fld := ⟨0x070, 0x040, 0, 31, 24⟩
abbrev CPL_MODE_ksrc : Fld := ⟨0x070, 0x040, 0, 23, 23⟩
abbrev CPL_MODE_ksize : Fld := ⟨0x070, 0x040, 0, 22, 21⟩
abbrev CPL_MODE_tag_len : Fld := ⟨0x070, 0x040, 0, 20, 16⟩
abbrev CPL_MODE_ctr_w : Fld := ⟨0x070, 0x040, 0, 15, 14⟩
abbrev CPL_MODE_op : Fld := ⟨0x070, 0x040, 0, 4, 4⟩
abbrev CPL_MODE_mode : Fld := ⟨0x070, 0x040, 0, 3, 0⟩
abbrev CPL_KEYk_key : Fld := ⟨0x070, 0x044, 4, 31, 0⟩
abbrev CPL_IVk_bytes : Fld := ⟨0x070, 0x064, 4, 31, 0⟩
abbrev CPL_TAGk_bytes : Fld := ⟨0x070, 0x074, 4, 31, 0⟩
abbrev CPL_SRC_LO_addr : Fld := ⟨0x070, 0x084, 0, 31, 0⟩
abbrev CPL_SRC_HI_addr_hi : Fld := ⟨0x070, 0x088, 0, 7, 0⟩
abbrev CPL_DST_LO_addr : Fld := ⟨0x070, 0x08C, 0, 31, 0⟩
abbrev CPL_DST_HI_addr_hi : Fld := ⟨0x070, 0x090, 0, 7, 0⟩
abbrev CPL_IVT_LO_addr : Fld := ⟨0x070, 0x09C, 0, 31, 0⟩
abbrev CPL_IVT_HI_addr_hi : Fld := ⟨0x070, 0x0A0, 0, 7, 0⟩
abbrev CPL_LEN_msgs : Fld := ⟨0x070, 0x094, 0, 28, 24⟩
abbrev CPL_LEN_len : Fld := ⟨0x070, 0x094, 0, 23, 0⟩
abbrev CPL_AAD_aad_len : Fld := ⟨0x070, 0x098, 0, 15, 0⟩
abbrev CPL_CMD_abort : Fld := ⟨0x070, 0x0A4, 0, 4, 4⟩
abbrev CPL_CMD_load_key : Fld := ⟨0x070, 0x0A4, 0, 3, 3⟩
abbrev CPL_CMD_last : Fld := ⟨0x070, 0x0A4, 0, 2, 2⟩
abbrev CPL_CMD_first : Fld := ⟨0x070, 0x0A4, 0, 1, 1⟩
abbrev CPL_CMD_go : Fld := ⟨0x070, 0x0A4, 0, 0, 0⟩
abbrev CPL_STAT_key_ready : Fld := ⟨0x070, 0x0A8, 0, 31, 31⟩
abbrev CPL_STAT_seeded : Fld := ⟨0x070, 0x0A8, 0, 30, 30⟩
abbrev CPL_STAT_chain_open : Fld := ⟨0x070, 0x0A8, 0, 29, 29⟩
abbrev CPL_STAT_fails : Fld := ⟨0x070, 0x0A8, 0, 28, 24⟩
abbrev CPL_STAT_out_len : Fld := ⟨0x070, 0x0A8, 0, 23, 0⟩
abbrev CPL_RNG_missed : Fld := ⟨0x070, 0x0AC, 0, 31, 16⟩
abbrev CPL_RNG_consec : Fld := ⟨0x070, 0x0AC, 0, 15, 0⟩

/-! ### Named fields of the PKE page -/

abbrev PKE_CFG_slot_words : Fld := ⟨0x078, 0x040, 0, 23, 16⟩
abbrev PKE_CFG_yield : Fld := ⟨0x078, 0x040, 0, 0, 0⟩
abbrev PKE_CMD_vslot : Fld := ⟨0x078, 0x044, 0, 31, 24⟩
abbrev PKE_CMD_ctx_len : Fld := ⟨0x078, 0x044, 0, 23, 16⟩
abbrev PKE_CMD_kout : Fld := ⟨0x078, 0x044, 0, 15, 15⟩
abbrev PKE_CMD_ksrc : Fld := ⟨0x078, 0x044, 0, 14, 14⟩
abbrev PKE_CMD_det : Fld := ⟨0x078, 0x044, 0, 13, 13⟩
abbrev PKE_CMD_urgent : Fld := ⟨0x078, 0x044, 0, 12, 12⟩
abbrev PKE_CMD_set : Fld := ⟨0x078, 0x044, 0, 11, 8⟩
abbrev PKE_CMD_op : Fld := ⟨0x078, 0x044, 0, 7, 0⟩
abbrev PKE_ARGk_slot : Fld := ⟨0x078, 0x048, 4, 10, 0⟩
abbrev PKE_SIZE_hash : Fld := ⟨0x078, 0x060, 0, 31, 31⟩
abbrev PKE_SIZE_enc : Fld := ⟨0x078, 0x060, 0, 29, 28⟩
abbrev PKE_SIZE_e_words : Fld := ⟨0x078, 0x060, 0, 22, 16⟩
abbrev PKE_SIZE_m_words : Fld := ⟨0x078, 0x060, 0, 7, 0⟩
abbrev PKE_MSG_LO_addr : Fld := ⟨0x078, 0x064, 0, 31, 0⟩
abbrev PKE_MSG_HI_addr_hi : Fld := ⟨0x078, 0x068, 0, 7, 0⟩
abbrev PKE_SRC_LO_addr : Fld := ⟨0x078, 0x070, 0, 31, 0⟩
abbrev PKE_SRC_HI_addr_hi : Fld := ⟨0x078, 0x074, 0, 7, 0⟩
abbrev PKE_DST_LO_addr : Fld := ⟨0x078, 0x078, 0, 31, 0⟩
abbrev PKE_DST_HI_addr_hi : Fld := ⟨0x078, 0x07C, 0, 7, 0⟩
abbrev PKE_MSG_LEN_len : Fld := ⟨0x078, 0x06C, 0, 23, 0⟩
abbrev PKE_GO_actx : Fld := ⟨0x078, 0x080, 0, 5, 4⟩
abbrev PKE_GO_abort : Fld := ⟨0x078, 0x080, 0, 1, 1⟩
abbrev PKE_GO_go : Fld := ⟨0x078, 0x080, 0, 0, 0⟩
abbrev PKE_CTXk_state : Fld := ⟨0x078, 0x084, 4, 31, 28⟩
abbrev PKE_CTXk_op : Fld := ⟨0x078, 0x084, 4, 23, 16⟩
abbrev PKE_CTXk_status : Fld := ⟨0x078, 0x084, 4, 15, 8⟩
abbrev PKE_CTXk_urgent : Fld := ⟨0x078, 0x084, 4, 0, 0⟩
abbrev PKE_STAT_preempt : Fld := ⟨0x078, 0x08C, 0, 31, 16⟩
abbrev PKE_STAT_last_ctx : Fld := ⟨0x078, 0x08C, 0, 1, 0⟩
abbrev PKE_OP_SEL_slot : Fld := ⟨0x078, 0x090, 0, 26, 16⟩
abbrev PKE_OP_SEL_word : Fld := ⟨0x078, 0x090, 0, 7, 1⟩
abbrev PKE_OP_SEL_half : Fld := ⟨0x078, 0x090, 0, 0, 0⟩
abbrev PKE_OP_DATA_data : Fld := ⟨0x078, 0x094, 0, 31, 0⟩

/-! ### Named fields of the HSH page -/

abbrev HSH_FN_out_len : Fld := ⟨0x079, 0x040, 0, 31, 16⟩
abbrev HSH_FN_fn : Fld := ⟨0x079, 0x040, 0, 3, 0⟩
abbrev HSH_SRC_LO_addr : Fld := ⟨0x079, 0x044, 0, 31, 0⟩
abbrev HSH_SRC_HI_addr_hi : Fld := ⟨0x079, 0x048, 0, 7, 0⟩
abbrev HSH_DST_LO_addr : Fld := ⟨0x079, 0x050, 0, 31, 0⟩
abbrev HSH_DST_HI_addr_hi : Fld := ⟨0x079, 0x054, 0, 7, 0⟩
abbrev HSH_LEN_len : Fld := ⟨0x079, 0x04C, 0, 23, 0⟩
abbrev HSH_CMD_abort : Fld := ⟨0x079, 0x058, 0, 4, 4⟩
abbrev HSH_CMD_squeeze : Fld := ⟨0x079, 0x058, 0, 3, 3⟩
abbrev HSH_CMD_last : Fld := ⟨0x079, 0x058, 0, 2, 2⟩
abbrev HSH_CMD_first : Fld := ⟨0x079, 0x058, 0, 1, 1⟩
abbrev HSH_CMD_go : Fld := ⟨0x079, 0x058, 0, 0, 0⟩
abbrev HSH_STAT_done : Fld := ⟨0x079, 0x05C, 0, 31, 31⟩
abbrev HSH_STAT_chain_open : Fld := ⟨0x079, 0x05C, 0, 30, 30⟩
abbrev HSH_STAT_core_wait : Fld := ⟨0x079, 0x05C, 0, 29, 29⟩
abbrev HSH_DIGk_bytes : Fld := ⟨0x079, 0x080, 4, 31, 0⟩

/-! ### Named fields of the TRN page -/

abbrev TRN_STAT_drbg_ready : Fld := ⟨0x07A, 0x040, 0, 31, 31⟩
abbrev TRN_STAT_health_ok : Fld := ⟨0x07A, 0x040, 0, 30, 30⟩
abbrev TRN_STAT_fails : Fld := ⟨0x07A, 0x040, 0, 15, 0⟩
abbrev TRN_CNT_reseeds : Fld := ⟨0x07A, 0x044, 0, 31, 0⟩

/-! ### Named fields of the RFG page -/

abbrev RFG_STAGE_stage : Fld := ⟨0x07B, 0x040, 0, 2, 0⟩
abbrev RFG_BOOT_CAUSE_fails : Fld := ⟨0x07B, 0x044, 0, 31, 24⟩
abbrev RFG_BOOT_CAUSE_detail : Fld := ⟨0x07B, 0x044, 0, 23, 8⟩
abbrev RFG_BOOT_CAUSE_cause : Fld := ⟨0x07B, 0x044, 0, 7, 0⟩
abbrev RFG_BOOT_OK_key : Fld := ⟨0x07B, 0x048, 0, 7, 0⟩
abbrev RFG_NONCE_REQ_req : Fld := ⟨0x07B, 0x04C, 0, 0, 0⟩
abbrev RFG_NONCEk_bytes : Fld := ⟨0x07B, 0x050, 4, 31, 0⟩
abbrev RFG_DBG_active : Fld := ⟨0x07B, 0x070, 0, 31, 31⟩
abbrev RFG_DBG_revoke : Fld := ⟨0x07B, 0x070, 0, 30, 30⟩
abbrev RFG_DBG_holdoff : Fld := ⟨0x07B, 0x070, 0, 29, 23⟩
abbrev RFG_DBG_perms : Fld := ⟨0x07B, 0x070, 0, 7, 0⟩

/-! ### Named fields of the LCC page -/

abbrev LCC_STATE_tamper_lock : Fld := ⟨0x07C, 0x040, 0, 31, 31⟩
abbrev LCC_STATE_progress : Fld := ⟨0x07C, 0x040, 0, 15, 8⟩
abbrev LCC_STATE_state : Fld := ⟨0x07C, 0x040, 0, 1, 0⟩
abbrev LCC_COUNT_owner_idx : Fld := ⟨0x07C, 0x044, 0, 19, 16⟩
abbrev LCC_COUNT_secver : Fld := ⟨0x07C, 0x044, 0, 15, 8⟩
abbrev LCC_FUSE_LO_disabled : Fld := ⟨0x07C, 0x048, 0, 31, 0⟩
abbrev LCC_FUSE_HI_disabled : Fld := ⟨0x07C, 0x04C, 0, 31, 0⟩

/-! ### Named fields of the TMP page -/

abbrev TMP_EN_LO_bits : Fld := ⟨0x07D, 0x040, 0, 31, 0⟩
abbrev TMP_EN_HI_bits : Fld := ⟨0x07D, 0x044, 0, 31, 0⟩
abbrev TMP_LATCH_LO_bits : Fld := ⟨0x07D, 0x048, 0, 31, 0⟩
abbrev TMP_LATCH_HI_bits : Fld := ⟨0x07D, 0x04C, 0, 31, 0⟩
abbrev TMP_COND_LO_bits : Fld := ⟨0x07D, 0x050, 0, 31, 0⟩
abbrev TMP_COND_HI_bits : Fld := ⟨0x07D, 0x054, 0, 31, 0⟩
abbrev TMP_LIGHT_CFG_selftest_fail : Fld := ⟨0x07D, 0x058, 0, 31, 16⟩
abbrev TMP_LIGHT_CFG_level : Fld := ⟨0x07D, 0x058, 0, 1, 0⟩
abbrev TMP_TEMP_high : Fld := ⟨0x07D, 0x05C, 0, 31, 24⟩
abbrev TMP_TEMP_low : Fld := ⟨0x07D, 0x05C, 0, 23, 16⟩
abbrev TMP_TEMP_now : Fld := ⟨0x07D, 0x05C, 0, 15, 8⟩
abbrev TMP_GLITCH_window_s : Fld := ⟨0x07D, 0x060, 0, 31, 16⟩
abbrev TMP_GLITCH_limit : Fld := ⟨0x07D, 0x060, 0, 15, 8⟩
abbrev TMP_GLITCH_count : Fld := ⟨0x07D, 0x060, 0, 7, 0⟩

/-! ### Named fields of the BKD page -/

abbrev BKD_STAT_on_vbat : Fld := ⟨0x07E, 0x040, 0, 31, 31⟩
abbrev BKD_STAT_bkd_por : Fld := ⟨0x07E, 0x040, 0, 30, 30⟩
abbrev BKD_STAT_lock : Fld := ⟨0x07E, 0x040, 0, 29, 29⟩
abbrev BKD_STAT_rtc_free : Fld := ⟨0x07E, 0x040, 0, 28, 28⟩
abbrev BKD_STAT_vbat_mv : Fld := ⟨0x07E, 0x040, 0, 11, 0⟩
abbrev BKD_ARM_LO_armed : Fld := ⟨0x07E, 0x044, 0, 31, 0⟩
abbrev BKD_ARM_HI_armed : Fld := ⟨0x07E, 0x048, 0, 31, 0⟩
abbrev BKD_CFG_por_lock : Fld := ⟨0x07E, 0x04C, 0, 31, 31⟩
abbrev BKD_CFG_enc_deb : Fld := ⟨0x07E, 0x04C, 0, 11, 4⟩
abbrev BKD_CFG_enc_pol : Fld := ⟨0x07E, 0x04C, 0, 3, 0⟩
abbrev BKD_RTC_SEC_sec : Fld := ⟨0x07E, 0x050, 0, 31, 0⟩
abbrev BKD_RTC_SUB_sub : Fld := ⟨0x07E, 0x054, 0, 14, 0⟩
abbrev BKD_LOG_SEL_index : Fld := ⟨0x07E, 0x058, 0, 7, 2⟩
abbrev BKD_LOG_SEL_word : Fld := ⟨0x07E, 0x058, 0, 1, 0⟩
abbrev BKD_LOG_DATA_data : Fld := ⟨0x07E, 0x05C, 0, 31, 0⟩
abbrev BKD_LOG_STAT_overflow : Fld := ⟨0x07E, 0x060, 0, 31, 16⟩
abbrev BKD_LOG_STAT_count : Fld := ⟨0x07E, 0x060, 0, 15, 0⟩
abbrev BKD_LOG_CLR_clear : Fld := ⟨0x07E, 0x064, 0, 0, 0⟩
abbrev BKD_VAULT_SEL_word : Fld := ⟨0x07E, 0x068, 0, 8, 0⟩
abbrev BKD_VAULT_DATA_data : Fld := ⟨0x07E, 0x06C, 0, 31, 0⟩
abbrev BKD_SEQ_seq : Fld := ⟨0x07E, 0x070, 0, 31, 0⟩

/-! ### Named fields of the FLC page -/

abbrev FLC_STAT_scan_done : Fld := ⟨0x080, 0x040, 0, 31, 31⟩
abbrev FLC_STAT_indet : Fld := ⟨0x080, 0x040, 0, 25, 16⟩
abbrev FLC_STAT_suspended : Fld := ⟨0x080, 0x040, 0, 7, 4⟩
abbrev FLC_STAT_busy : Fld := ⟨0x080, 0x040, 0, 3, 0⟩
abbrev FLC_ADDR_line : Fld := ⟨0x080, 0x044, 0, 24, 5⟩
abbrev FLC_WDATAk_bytes : Fld := ⟨0x080, 0x048, 4, 31, 0⟩
abbrev FLC_RDATAk_bytes : Fld := ⟨0x080, 0x070, 4, 31, 0⟩
abbrev FLC_CMD_margin : Fld := ⟨0x080, 0x068, 0, 5, 4⟩
abbrev FLC_CMD_op : Fld := ⟨0x080, 0x068, 0, 3, 0⟩
abbrev FLC_RES_done : Fld := ⟨0x080, 0x090, 0, 31, 31⟩
abbrev FLC_RES_ecc : Fld := ⟨0x080, 0x090, 0, 30, 29⟩
abbrev FLC_RES_line : Fld := ⟨0x080, 0x090, 0, 25, 16⟩
abbrev FLC_RES_status : Fld := ⟨0x080, 0x090, 0, 15, 8⟩
abbrev FLC_INFO_in_progress : Fld := ⟨0x080, 0x094, 0, 31, 31⟩
abbrev FLC_INFO_indeterminate : Fld := ⟨0x080, 0x094, 0, 30, 30⟩
abbrev FLC_INFO_suspended : Fld := ⟨0x080, 0x094, 0, 29, 29⟩
abbrev FLC_INFO_no_erase : Fld := ⟨0x080, 0x094, 0, 28, 28⟩
abbrev FLC_INFO_erase_count : Fld := ⟨0x080, 0x094, 0, 23, 0⟩
abbrev FLC_BANK_STATb_busy : Fld := ⟨0x080, 0x0A0, 4, 31, 31⟩
abbrev FLC_BANK_STATb_suspended : Fld := ⟨0x080, 0x0A0, 4, 30, 30⟩
abbrev FLC_BANK_STATb_op : Fld := ⟨0x080, 0x0A0, 4, 29, 28⟩
abbrev FLC_BANK_STATb_owner : Fld := ⟨0x080, 0x0A0, 4, 23, 16⟩
abbrev FLC_BANK_STATb_block : Fld := ⟨0x080, 0x0A0, 4, 9, 0⟩
abbrev FLC_INDETk_bits : Fld := ⟨0x080, 0x0C0, 4, 31, 0⟩
abbrev FLC_ECC_corrected : Fld := ⟨0x080, 0x140, 0, 31, 16⟩
abbrev FLC_ECC_uncorrectable : Fld := ⟨0x080, 0x140, 0, 15, 0⟩
abbrev FLC_REGk_en : Fld := ⟨0x080, 0x180, 4, 31, 31⟩
abbrev FLC_REGk_sys : Fld := ⟨0x080, 0x180, 4, 30, 30⟩
abbrev FLC_REGk_rd : Fld := ⟨0x080, 0x180, 4, 29, 28⟩
abbrev FLC_REGk_wr : Fld := ⟨0x080, 0x180, 4, 27, 26⟩
abbrev FLC_REGk_first : Fld := ⟨0x080, 0x180, 4, 19, 10⟩
abbrev FLC_REGk_last : Fld := ⟨0x080, 0x180, 4, 9, 0⟩

/-! ### Named fields of the EVR page -/

abbrev EVR_CFG_stg_en : Fld := ⟨0x081, 0x040, 0, 31, 31⟩
abbrev EVR_CFG_flog_en : Fld := ⟨0x081, 0x040, 0, 30, 30⟩
abbrev EVR_CFG_tlog_en : Fld := ⟨0x081, 0x040, 0, 29, 29⟩
abbrev EVR_CFG_mirror_en : Fld := ⟨0x081, 0x040, 0, 28, 28⟩
abbrev EVR_CFG_flog_first : Fld := ⟨0x081, 0x040, 0, 25, 16⟩
abbrev EVR_CFG_stg_base : Fld := ⟨0x081, 0x040, 0, 13, 0⟩
abbrev EVR_STAT_full : Fld := ⟨0x081, 0x044, 0, 31, 31⟩
abbrev EVR_STAT_stg_full : Fld := ⟨0x081, 0x044, 0, 30, 30⟩
abbrev EVR_STAT_rebuilt : Fld := ⟨0x081, 0x044, 0, 29, 29⟩
abbrev EVR_STAT_live : Fld := ⟨0x081, 0x044, 0, 16, 0⟩
abbrev EVR_SEQ_seq : Fld := ⟨0x081, 0x048, 0, 31, 0⟩
abbrev EVR_STG_HEAD_head : Fld := ⟨0x081, 0x04C, 0, 20, 0⟩
abbrev EVR_DROP_flog : Fld := ⟨0x081, 0x050, 0, 31, 20⟩
abbrev EVR_DROP_stg : Fld := ⟨0x081, 0x050, 0, 19, 8⟩
abbrev EVR_DROP_ret : Fld := ⟨0x081, 0x050, 0, 7, 0⟩
abbrev EVR_COPY_copies : Fld := ⟨0x081, 0x054, 0, 31, 0⟩
abbrev EVR_TLOG_full : Fld := ⟨0x081, 0x058, 0, 31, 31⟩
abbrev EVR_TLOG_next : Fld := ⟨0x081, 0x058, 0, 9, 0⟩
abbrev EVR_TLOG_HEADk_bytes : Fld := ⟨0x081, 0x060, 4, 31, 0⟩
abbrev EVR_DUMP_en : Fld := ⟨0x081, 0x080, 0, 31, 31⟩
abbrev EVR_DUMP_base : Fld := ⟨0x081, 0x080, 0, 15, 0⟩
abbrev EVR_DUMP_STAT_busy : Fld := ⟨0x081, 0x084, 0, 31, 31⟩
abbrev EVR_DUMP_STAT_slot : Fld := ⟨0x081, 0x084, 0, 30, 30⟩
abbrev EVR_DUMP_STAT_status : Fld := ⟨0x081, 0x084, 0, 15, 8⟩

/-! ### Named fields of the CRD page -/

abbrev CRD_CFG_park_ms : Fld := ⟨0x082, 0x040, 0, 31, 20⟩
abbrev CRD_CFG_cairn_ms : Fld := ⟨0x082, 0x040, 0, 19, 12⟩
abbrev CRD_CFG_ins_ms : Fld := ⟨0x082, 0x040, 0, 11, 8⟩
abbrev CRD_CFG_ramp_ms : Fld := ⟨0x082, 0x040, 0, 7, 5⟩
abbrev CRD_CFG_uhs_en : Fld := ⟨0x082, 0x040, 0, 4, 4⟩
abbrev CRD_CFG_max_speed : Fld := ⟨0x082, 0x040, 0, 2, 0⟩
abbrev CRD_STAT_present : Fld := ⟨0x082, 0x044, 0, 31, 31⟩
abbrev CRD_STAT_mounted : Fld := ⟨0x082, 0x044, 0, 30, 30⟩
abbrev CRD_STAT_parked : Fld := ⟨0x082, 0x044, 0, 29, 29⟩
abbrev CRD_STAT_wp : Fld := ⟨0x082, 0x044, 0, 28, 28⟩
abbrev CRD_STAT_v18 : Fld := ⟨0x082, 0x044, 0, 27, 27⟩
abbrev CRD_STAT_speed : Fld := ⟨0x082, 0x044, 0, 26, 24⟩
abbrev CRD_STAT_width4 : Fld := ⟨0x082, 0x044, 0, 23, 23⟩
abbrev CRD_STAT_type : Fld := ⟨0x082, 0x044, 0, 22, 20⟩
abbrev CRD_Q_en : Fld := ⟨0x082, 0x048, 0, 31, 31⟩
abbrev CRD_Q_queue : Fld := ⟨0x082, 0x048, 0, 13, 0⟩
abbrev CRD_RQk_en : Fld := ⟨0x082, 0x04C, 8, 31, 31⟩
abbrev CRD_RQk_queue : Fld := ⟨0x082, 0x04C, 8, 13, 0⟩
abbrev CRD_RQOBJk_object : Fld := ⟨0x082, 0x050, 8, 31, 0⟩
abbrev CRD_GONE_LBA_lba : Fld := ⟨0x082, 0x05C, 0, 31, 0⟩
abbrev CRD_GONE_N_doubt : Fld := ⟨0x082, 0x060, 0, 7, 0⟩
abbrev CRD_WSEQ_wseq : Fld := ⟨0x082, 0x064, 0, 31, 0⟩
abbrev CRD_CAP_blocks : Fld := ⟨0x082, 0x068, 0, 31, 0⟩
abbrev CRD_IDk_bits : Fld := ⟨0x082, 0x070, 4, 31, 0⟩

/-! ### Named fields of the NFC page -/

abbrev NFC_CFG_isl_en : Fld := ⟨0x083, 0x040, 0, 31, 31⟩
abbrev NFC_CFG_types : Fld := ⟨0x083, 0x040, 0, 29, 28⟩
abbrev NFC_CFG_queue : Fld := ⟨0x083, 0x040, 0, 13, 0⟩
abbrev NFC_LPCD_en : Fld := ⟨0x083, 0x044, 0, 31, 31⟩
abbrev NFC_LPCD_auto_poll : Fld := ⟨0x083, 0x044, 0, 30, 30⟩
abbrev NFC_LPCD_period_ms : Fld := ⟨0x083, 0x044, 0, 19, 8⟩
abbrev NFC_LPCD_threshold : Fld := ⟨0x083, 0x044, 0, 7, 0⟩
abbrev NFC_STAT_field_on : Fld := ⟨0x083, 0x048, 0, 31, 31⟩
abbrev NFC_STAT_ext_field : Fld := ⟨0x083, 0x048, 0, 30, 30⟩
abbrev NFC_STAT_session : Fld := ⟨0x083, 0x048, 0, 29, 29⟩
abbrev NFC_STAT_isl_field : Fld := ⟨0x083, 0x048, 0, 28, 28⟩
abbrev NFC_STAT_tags : Fld := ⟨0x083, 0x048, 0, 27, 24⟩
abbrev NFC_STAT_active : Fld := ⟨0x083, 0x048, 0, 23, 20⟩
abbrev NFC_STAT_detune : Fld := ⟨0x083, 0x048, 0, 15, 0⟩
abbrev NFC_TAG_SEL_index : Fld := ⟨0x083, 0x04C, 0, 2, 0⟩
abbrev NFC_TAG_W0_state : Fld := ⟨0x083, 0x050, 0, 31, 29⟩
abbrev NFC_TAG_W0_type : Fld := ⟨0x083, 0x050, 0, 28, 27⟩
abbrev NFC_TAG_W0_rate : Fld := ⟨0x083, 0x050, 0, 26, 25⟩
abbrev NFC_TAG_W0_uid_len : Fld := ⟨0x083, 0x050, 0, 24, 21⟩
abbrev NFC_TAG_W0_sak : Fld := ⟨0x083, 0x050, 0, 15, 8⟩
abbrev NFC_TAG_W1_bytes : Fld := ⟨0x083, 0x054, 0, 31, 0⟩
abbrev NFC_TAG_W2_bytes : Fld := ⟨0x083, 0x058, 0, 31, 0⟩
abbrev NFC_TAG_W3_atqa : Fld := ⟨0x083, 0x05C, 0, 31, 16⟩
abbrev NFC_TAG_W3_tail : Fld := ⟨0x083, 0x05C, 0, 15, 0⟩
abbrev NFC_TAG_ATSk_bytes : Fld := ⟨0x083, 0x060, 4, 31, 0⟩
abbrev NFC_ISL_STAT_bank : Fld := ⟨0x083, 0x070, 0, 31, 31⟩
abbrev NFC_ISL_STAT_update_busy : Fld := ⟨0x083, 0x070, 0, 30, 30⟩
abbrev NFC_ISL_STAT_update_held : Fld := ⟨0x083, 0x070, 0, 29, 29⟩
abbrev NFC_ISL_STAT_check_fail : Fld := ⟨0x083, 0x070, 0, 28, 28⟩
abbrev NFC_ISL_STAT_sessions : Fld := ⟨0x083, 0x070, 0, 15, 0⟩
abbrev NFC_ISL_GEN_gen : Fld := ⟨0x083, 0x074, 0, 31, 0⟩
abbrev NFC_NOTE_SEL_word : Fld := ⟨0x083, 0x078, 0, 5, 0⟩
abbrev NFC_NOTE_DATA_data : Fld := ⟨0x083, 0x07C, 0, 31, 0⟩

/-! ### Named fields of the ISD page -/

abbrev ISD_CFG_massif : Fld := ⟨0x084, 0x040, 0, 31, 28⟩
abbrev ISD_CFG_node_req : Fld := ⟨0x084, 0x040, 0, 27, 22⟩
abbrev ISD_CFG_prio : Fld := ⟨0x084, 0x040, 0, 21, 14⟩
abbrev ISD_CFG_admit : Fld := ⟨0x084, 0x040, 0, 13, 13⟩
abbrev ISD_CFG_vc1_late : Fld := ⟨0x084, 0x040, 0, 12, 8⟩
abbrev ISD_CFG2_ret_q : Fld := ⟨0x084, 0x044, 0, 13, 0⟩
abbrev ISD_ADDR_assigned : Fld := ⟨0x084, 0x048, 0, 31, 31⟩
abbrev ISD_ADDR_summit : Fld := ⟨0x084, 0x048, 0, 30, 30⟩
abbrev ISD_ADDR_summit_node : Fld := ⟨0x084, 0x048, 0, 29, 24⟩
abbrev ISD_ADDR_addr : Fld := ⟨0x084, 0x048, 0, 15, 0⟩
abbrev ISD_COL_en : Fld := ⟨0x084, 0x04C, 0, 31, 31⟩
abbrev ISD_COL_massif2 : Fld := ⟨0x084, 0x04C, 0, 27, 24⟩
abbrev ISD_COL_node_req2 : Fld := ⟨0x084, 0x04C, 0, 23, 18⟩
abbrev ISD_COL_ports : Fld := ⟨0x084, 0x04C, 0, 7, 0⟩
abbrev ISD_ADMIT_ports : Fld := ⟨0x084, 0x050, 0, 7, 0⟩
abbrev ISD_LINKp_state : Fld := ⟨0x084, 0x080, 4, 31, 29⟩
abbrev ISD_LINKp_col_port : Fld := ⟨0x084, 0x080, 4, 28, 28⟩
abbrev ISD_LINKp_peer_node : Fld := ⟨0x084, 0x080, 4, 21, 16⟩
abbrev ISD_LINKp_resent : Fld := ⟨0x084, 0x080, 4, 15, 8⟩
abbrev ISD_LINKp_hops : Fld := ⟨0x084, 0x080, 4, 7, 0⟩
abbrev ISD_TT_OFSp_value : Fld := ⟨0x084, 0x0C0, 8, 31, 0⟩
abbrev ISD_TT_DLYp_value : Fld := ⟨0x084, 0x0C4, 8, 31, 0⟩
abbrev ISD_RT_SEL_index : Fld := ⟨0x084, 0x100, 0, 7, 0⟩
abbrev ISD_RT_valid : Fld := ⟨0x084, 0x104, 0, 31, 31⟩
abbrev ISD_RT_port : Fld := ⟨0x084, 0x104, 0, 3, 0⟩
abbrev ISD_XMAP_SEL_entry : Fld := ⟨0x084, 0x110, 0, 7, 0⟩
abbrev ISD_XMAP_W0_valid : Fld := ⟨0x084, 0x114, 0, 31, 31⟩
abbrev ISD_XMAP_W0_queue : Fld := ⟨0x084, 0x114, 0, 13, 0⟩
abbrev ISD_XMAP_W1_dst : Fld := ⟨0x084, 0x118, 0, 31, 16⟩
abbrev ISD_XMAP_W1_pos : Fld := ⟨0x084, 0x118, 0, 15, 14⟩
abbrev ISD_XMAP_W1_rqueue : Fld := ⟨0x084, 0x118, 0, 13, 0⟩
abbrev ISD_XMAP_CMD_cmd : Fld := ⟨0x084, 0x11C, 0, 1, 0⟩
abbrev ISD_REXP_en : Fld := ⟨0x084, 0x120, 0, 31, 31⟩
abbrev ISD_REXP_sev_min : Fld := ⟨0x084, 0x120, 0, 30, 28⟩
abbrev ISD_REXP_queue : Fld := ⟨0x084, 0x120, 0, 27, 14⟩
abbrev ISD_REXP_DST_dst : Fld := ⟨0x084, 0x124, 0, 15, 0⟩
abbrev ISD_STAT_SEL_port : Fld := ⟨0x084, 0x130, 0, 10, 8⟩
abbrev ISD_STAT_SEL_index : Fld := ⟨0x084, 0x130, 0, 2, 0⟩
abbrev ISD_STAT_LO_value : Fld := ⟨0x084, 0x134, 0, 31, 0⟩
abbrev ISD_STAT_HI_value : Fld := ⟨0x084, 0x138, 0, 31, 0⟩

/-! ### Named fields of the ROP page -/

abbrev ROP_CFG_en : Fld := ⟨0x085, 0x040, 0, 31, 31⟩
abbrev ROP_CFG_tick_adj : Fld := ⟨0x085, 0x040, 0, 7, 0⟩
abbrev ROP_STAT_position : Fld := ⟨0x085, 0x044, 0, 31, 30⟩
abbrev ROP_STAT_following : Fld := ⟨0x085, 0x044, 0, 29, 29⟩
abbrev ROP_STAT_members : Fld := ⟨0x085, 0x044, 0, 23, 20⟩
abbrev ROP_STAT_slot_err : Fld := ⟨0x085, 0x044, 0, 15, 0⟩
abbrev ROP_LATE_late : Fld := ⟨0x085, 0x048, 0, 31, 16⟩
abbrev ROP_LATE_dropped : Fld := ⟨0x085, 0x048, 0, 15, 0⟩
abbrev ROP_FWDk_bits : Fld := ⟨0x085, 0x100, 4, 31, 0⟩

/-! ### Named fields of the ENG page -/

abbrev ENG_WORLD_world : Fld := ⟨0x100, 0x040, 0, 1, 0⟩
abbrev ENG_RUN_cmd : Fld := ⟨0x100, 0x044, 0, 1, 0⟩
abbrev ENG_STATE_reason : Fld := ⟨0x100, 0x048, 0, 10, 8⟩
abbrev ENG_STATE_state : Fld := ⟨0x100, 0x048, 0, 2, 0⟩
abbrev ENG_PC_pc : Fld := ⟨0x100, 0x04C, 0, 15, 0⟩
abbrev ENG_WDT_en : Fld := ⟨0x100, 0x050, 0, 31, 31⟩
abbrev ENG_WDT_pause_wfe : Fld := ⟨0x100, 0x050, 0, 30, 30⟩
abbrev ENG_WDT_period : Fld := ⟨0x100, 0x050, 0, 15, 0⟩
abbrev ENG_REL_DROP_drops : Fld := ⟨0x100, 0x054, 0, 15, 0⟩
abbrev ENG_DWINk_en : Fld := ⟨0x100, 0x080, 4, 31, 31⟩
abbrev ENG_DWINk_wr : Fld := ⟨0x100, 0x080, 4, 30, 30⟩
abbrev ENG_DWINk_base : Fld := ⟨0x100, 0x080, 4, 11, 0⟩

end Sys2Proof.Machine
end

