-- ==== Sys2Proof/Machine/State.lean ====
section
/-! DEFINITION. The state of the device: everything the spec gives it, as plain data, and the state after reset. -/

namespace Sys2Proof.Machine

open Sys2Proof

/-- The shared status codes (R10). -/
inductive Status where
  | ok | busy | denied | badParam | timeout | authFail | duplicate | aborted | faultDetected | mediaGone
  | eraseSuspended | indeterminate | full | notReady | lifecycle | protocol | retryExhausted
  deriving DecidableEq, Repr

/-- What the last command answered its sender: the status code of an access or operation, and the data of a read.
The model's own field: the spec gives the answer, not a place that holds it. -/
structure Resp where
  status : Option Status
  data : Word
  deriving DecidableEq, Repr

/-- What a command makes the device put out: messages to the host, pin levels, frames and the like. The model's own
field `Dev.out` holds the outputs of the last command. `cnvClocks` says that a group's CVCLK, CVSCK and CVFS begin to run or are held
low (R178); `anPage` is what auto-negotiation offers (R93); `hostCpl` a completion to
the host: 0 successful, 1 Unsupported Request, 4 Completer Abort (R116); `aerMsg` an AER error message: 0 correctable, 1 non-fatal,
2 fatal (R119). -/
inductive Out where
  | msix (vector : Nat) (addr : Nat) (data : Nat)
  | ppsOut (level : Bool)
  | resetOut (level : Bool)
  | refugeIrq (queue : Nat)
  | refugeNote (page : Nat)
  | cnvClocks (group : Nat) (run : Bool)
  | frame (port : Nat) (sub : Nat) (bytes : List Byte)
  | anPage (port : Nat) (sub : Nat) (tech : Nat) (fec : Nat)
  | remoteFault (port : Nat) (sub : Nat)
  | idles (port : Nat) (sub : Nat)
  | hostCpl (status : Nat) (bytes : List Byte)
  | aerMsg (severity : Nat)
  | flit (port : Nat) (f : Flit)
  | ropeSlot (lane : Nat) (bits : Nat)
  | island (bytes : List Byte)
  | apdu (bytes : List Byte)
  | cardPower (on : Bool)
  | tdo (bits : Nat)
  deriving DecidableEq, Repr

/-! ### Time (02_time_and_orbit.md) -/

/-- A forward step, absolute set, or the like that waits for the next tick (R45 to R47). -/
structure Pend where
  set : Option Nat := none
  step : Option Int := none
  freq : Bool := false
  phase : Option Int := none
  deriving DecidableEq, Repr

/-- The state of TIM outside its registers. Counter values are in units of 2^-32 ns (R34); `ext10` is what the 10 MHz input gave at the
last tick, and `lockHist` is in CCLK. -/
structure Tim where
  tai : Nat := 0
  lastTick : Nat := 0
  nextTick : Nat := 50
  freqEff : Int := 0
  rem : Int := 0
  storedPhase : Option Int := none
  storedFreq : Bool := false
  pend : Pend := {}
  setLo : Nat := 0
  stepEvent : Option Nat := none
  snapReq : Bool := false
  servoAt : Nat := 0
  qualSince : Tbl Nat := []
  ppsLast : Option Nat := none
  ppsLastCclk : Nat := 0
  ppsGood : Nat := 0
  irigLast : Option Nat := none
  irigLastCclk : Nat := 0
  irigGood : Nat := 0
  irigBad : Nat := 0
  irigDiff : Int := 0
  holdSince : Nat := 0
  holdRate : Int := 0
  lockHist : List (Nat × Int) := []
  ext10Present : Bool := false
  ext10 : Int := 0
  ext10Ofs : Int := 0
  ext10Lost : Bool := false
  ppsOutTill : Option Nat := none
  stepped : Bool := false
  revert : Bool := false
  deriving DecidableEq, Repr

/-- An update of an orbit tracker that is fixed and takes effect at the tick whose TAI value is `at_` (R477): e_k, A_k, a_k, f_k and c_k; whether the loop set the frequency; whether it set the nominal one. -/
structure OrbFix where
  at_ : Nat
  e : Int
  ampl : Nat
  a : Int
  f : Int
  c : Int
  loop : Bool
  nominal : Bool
  deriving DecidableEq, Repr

/-- One orbit tracker (R52 to R59). Positions are cycle counts with a 32-bit fraction of a cycle: `pos` is the loop's, `vis` the one
that is seen, which never decreases (R53, R543); `a` is in 2^-16 Hz/s, `f` in 2^-24 Hz, `e` and the last correction `c` in 2^-32
cycle; sample times are in 2^-16 ns; `waiting` the updates (their tick, phase) whose sample is not yet between two samples of the source, newest
first, `late` how long after its own time a sample has come at most since the start, in 2^-16 ns; `fix` the update fixed for a coming
tick, `news` what was fixed at the last tick (its tick, frequency and correction); `cyc` the cycle count at the last tick, `trail` the
positions of the last 64 ticks of a tracker of kind 2, newest first. -/
structure Orb where
  startReq : Bool := false
  stopReq : Bool := false
  pos : Int := 0
  vis : Nat := 0
  offset : Nat := 0
  offsetNew : Option Nat := none
  f : Int := 0
  a : Int := 0
  e : Int := 0
  c : Int := 0
  ampl : Nat := 0
  window : List (Int × Nat) := []
  samples : List (Nat × Int) := []
  waiting : List (Nat × Nat) := []
  late : Nat := 0
  lastUpdate : Nat := 0
  missed : Nat := 0
  cycSamples : Nat := 0
  cycStart : Nat := 0
  few : Bool := false
  lowCount : Nat := 0
  highCount : Nat := 0
  lockCount : Nat := 0
  overRate : Bool := false
  outRange : Bool := false
  toNominal : Bool := false
  fix : Option OrbFix := none
  news : Option (Nat × Int × Int) := none
  cyc : Nat := 0
  trail : List Nat := []
  deriving DecidableEq, Repr

/-- An orbit comparator's run state (R61): written since the last tick; the position in steps it raises at next. -/
structure Cmp where
  fresh : Bool := false
  next : Nat := 0
  deriving DecidableEq, Repr

/-! ### Event matrix and piton path (03_event_matrix.md) -/

/-- The parameters p0, p1, p2 of a record. -/
structure P3 where
  p0 : Nat
  p1 : Nat
  p2 : Nat
  deriving DecidableEq, Repr

/-- A record before its bytes are formed (R408). -/
structure Rec where
  code : Nat
  sev : Nat
  kind : Nat
  pos : Nat
  late : Bool
  src : Nat
  time : Nat
  seq : Nat
  p : P3
  deriving DecidableEq, Repr

/-- The event matrix: the pulse latches, the level sources, the vector of the last tick and its changes, the
parameters waiting with each source, those sampled at the last tick, the source configuration behind EVM_SRC_SEL, the selectors
behind EVM_CSEL_SEL, the capture FIFO with each entry's class (true for a reserved entry), and the tick of an alarm whose reset
waits (R65 to R73, R87). -/
structure Evm where
  latch : BitVec 1024 := 0
  level : BitVec 1024 := 0
  vec : BitVec 1024 := 0
  rise : BitVec 1024 := 0
  fall : BitVec 1024 := 0
  params : Tbl P3 := []
  shown : Tbl P3 := []
  cfg : Tbl Word := []
  csel : Tbl Word := []
  snapReq : Bool := false
  fifo : List (Bool × Rec) := []
  alarm : Option Nat := none
  deriving DecidableEq, Repr

/-- One binary input behind its flop (R74 to R76, R547): raw flop level, accepted level, the presented level, count of
ticks the raw level has stayed, tick and offset of the last raw rise and of the last raw fall, and of the last accepted change,
accepted changes in the chatter window, last raw change. -/
structure Bi where
  pin : Bool := false
  accepted : Bool := false
  count : Nat := 0
  blocked : Bool := false
  heldLevel : Bool := false
  rise : Nat × Nat := (0, 0)
  fall : Nat × Nat := (0, 0)
  accTick : Nat := 0
  accOff : Nat := 0
  accLevel : Bool := false
  changes : List Nat := []
  lastRaw : Nat := 0
  deriving DecidableEq, Repr

/-- A product term of the trip logic array: eight literals and its output mask (R77). -/
structure Term where
  lits : List (BitVec 16)
  omask : BitVec 64
  deriving DecidableEq, Repr

/-- The trip logic array: both banks (key bank · 256 + term), the active bank, a requested swap, the terms marked
uncorrectable (R77 to R79). -/
structure Pit where
  terms : Tbl Term := []
  active : Bool := false
  swapReq : Bool := false
  bad : List Nat := []
  deriving DecidableEq, Repr

/-- The trip outputs (R80 to R83, R87). Times are tick numbers; `alarmDemand` is what `lastDemand` was at the tick of an
alarm, and `alarmHolds` marks the outputs whose hold has run on from that tick. -/
structure Tou where
  demand : BitVec 64 := 0
  energised : BitVec 64 := 0
  latched : BitVec 64 := 0
  holding : BitVec 64 := 0
  lastDemand : Tbl Nat := []
  latchAt : Tbl Nat := []
  changedAt : Tbl Nat := []
  equalOnce : BitVec 64 := 0
  heldOff : BitVec 64 := 0
  alarmDemand : Tbl Nat := []
  alarmHolds : BitVec 64 := 0
  deriving DecidableEq, Repr

/-! ### Recorder (17_event_recorder.md) -/

/-- The rate rule of R545 for one code and unit: the tick of the last record, the held record, and the page of the block that
writes it. -/
structure Rate where
  last : Option Nat := none
  held : Option Rec := none
  block : Nat := 0
  deriving DecidableEq, Repr

/-- A line of the flash log: its flash line number, and whether the void map names it (R416 to R418). -/
structure LogEnt where
  line : Nat
  r : Rec
  void : Bool
  deriving DecidableEq, Repr

/-- A record in the retained buffer; `numbered` once its tick has closed (R415); `logged` once it is in the tamper log. -/
structure Ret where
  r : Rec
  numbered : Bool
  logged : Bool := false
  deriving DecidableEq, Repr

/-- A staged record: committed to flash or waiting for it, or dropped there (R414, R416). -/
structure Staged where
  r : Rec
  committed : Bool
  deriving DecidableEq, Repr

/-- The event recorder outside its registers: records that direct writers hold (with their block index), the rate rule,
the take credits with the CCLK of the last gain, the records taken of ticks not yet closed in arrival order, the TAI values
of the last five ticks (newest first) and of the last tick closed, if one has, the staging ring by slot, records of severity 3 and above that wait
for the flash log outside it (log entry 323), the retained buffer, where base camp knows the flash log to lie (log entry 358), the
flash log with the next line of its ring, the last records committed (newest first), the CCLK of the first commit not yet
mirrored and whether a mirror update is due, the tamper log's chain head, sequenced records for ISD_REXP, those of severity 7 that
only the tamper log still waits for (R412 to R426,
R501). -/
structure Evr where
  direct : List (Nat × Rec) := []
  rate : Tbl Rate := []
  credits : Nat := 64
  creditAt : Nat := 0
  taken : List Rec := []
  ticks : List Nat := []
  closed : Option Nat := none
  staged : Tbl Staged := []
  unstaged : List Rec := []
  retained : List Ret := []
  log : List LogEnt := []
  writeLine : Nat := 0
  recent : List Rec := []
  mirrorFrom : Option Nat := none
  mirrorDue : Bool := false
  head : List Byte := []
  logFirst : Option Nat := none
  tlogWait : List Rec := []
  exports : List Rec := []
  deriving DecidableEq, Repr

/-! ### Host port (R114 to R118) -/

/-- A device-originated request of HST: its number, whether it is a read, the CCLK at which it went out, and the item of a
queue it serves (R118). The spec names no operation that makes one. -/
structure HstReq where
  id : Nat
  read : Bool
  since : Nat
  item : Option (Nat × Nat) := none
  deriving DecidableEq, Repr

/-- HST outside its registers: the MSI-X table (four words a vector), its pending bits, outstanding requests; of the configuration
space the IDs (device and vendor, subsystem and its vendor, loaded from OTP before the link trains), the words written, and AER's
uncorrectable and correctable error status (R114). -/
structure Hst where
  ids : Nat × Nat := (0, 0)
  cfg : Tbl Nat := []
  aerU : Nat := 0
  aerC : Nat := 0
  msix : Tbl Nat := []
  allMasked : Bool := false
  pba : BitVec 64 := 0
  reqs : List HstReq := []
  deriving DecidableEq, Repr

/-! ### Ports (04_ports_and_frames.md) -/

/-- A stamp in units of 2^-16 ns (R99). -/
abbrev Stamp := Nat

/-- An entry of a stamp FIFO (R103): W0 and the stamp. -/
structure TsEntry where
  w0 : Nat
  stamp : Stamp
  deriving DecidableEq, Repr

/-- A frame in an egress FIFO: sub-port, bytes without FCS, and, for a frame that a forward step carried from another
port, the ingress port and stamp (R96, R104). -/
structure TxFrame where
  sub : Nat
  bytes : List Byte
  carried : Option (Nat × Stamp)
  deriving DecidableEq, Repr

/-- A port P0 to P7 or M0 to M3: counters (key 64 · sub-port + index), stamp FIFO, egress FIFO, the links' last
condition by sub-port, and the ingress stamps of the Pdelay_Req messages received, by source port identity and
sequenceId (R97, R102, R103, R111). -/
structure Port where
  cnt : Tbl Nat := []
  ts : List TsEntry := []
  egress : List TxFrame := []
  align : List Nat := []
  remote : List Nat := []
  pdelay : List (List Byte × Stamp) := []
  deriving DecidableEq, Repr

/-- A node of a pair's node table (R107): source address, highest sequence number, the map of those below it, the CCLK
of its last frame. -/
structure Node where
  mac : Nat
  high : Nat
  map : Nat
  seen : Nat
  deriving DecidableEq, Repr

/-- A redundancy pair (0 to 3 the 100G pairs, 4 and 5 the management pairs): node table, egress and supervision sequence
numbers, when the last supervision frame went, frames waiting to be forwarded on an HSR ring with the port they came in
at (R105 to R110). -/
structure Pair where
  nodes : List Node := []
  seq : Nat := 0
  supSeq : Nat := 0
  supAt : Nat := 0
  fwd : List (Nat × List Byte) := []
  deriving DecidableEq, Repr

/-- A frame handed to the sequencer with its metadata (R95): ingress port, sub-port and stamp, the FCS verdict, the bytes
without FCS, VID and PCP of its VLAN tags (outer first), the sequence number and LanId or path of a valid redundancy trailer or tag,
its contents. -/
structure Handed where
  port : Nat
  sub : Nat
  stamp : Stamp
  fcsBad : Bool
  bytes : List Byte
  vlans : List (Nat × Nat)
  red : Option (Nat × Nat)
  info : FrameMeta
  deriving DecidableEq, Repr

/-! ### Queues (06_queues_and_flow.md) -/

/-- What QMG keeps of an item beside its bytes (R155, R159, R170): its seq and tag, the reply queue in which a slot is
reserved for its completion, whether it is completed, and whether its upper timeout ended it. -/
structure Ent where
  seq : Nat := 0
  tag : Nat := 0xFFFF
  reply : Option Nat := none
  done : Bool := false
  expired : Bool := false
  deriving DecidableEq, Repr

/-- A queue: its descriptor and world, enable state, indices, the items of its ring (oldest first, from cons) and of
its spill ring, reply slots reserved in it, the window of R172, drop counters, QMG's item count (R151 to R173). -/
structure Queue where
  known : Bool := false
  world : Nat := 0
  w0 : Nat := 0
  w1 : Nat := 0
  w2 : Nat := 0
  w3 : Nat := 0
  enabled : Bool := false
  draining : Bool := false
  pend : Bool := false
  prod : Nat := 0
  claim : Nat := 0
  cons : Nat := 0
  ents : List Ent := []
  spill : List Ent := []
  spillHead : Nat := 0
  reserved : Nat := 0
  first : Bool := true
  h : Nat := 0
  map : Nat := 0
  late : Nat := 0
  full : Nat := 0
  gap : Bool := false
  count : Nat := 0
  deriving DecidableEq, Repr

/-- An operation tag: its generation, whether it is allocated, its timeout T in 10 µs, the queue of the outstanding item
it names, the tick of that item's doorbell (R167 to R170). -/
structure Tag where
  gen : Nat := 0
  used : Bool := false
  tmo : Nat := 0
  item : Option Nat := none
  start : Nat := 0
  deriving DecidableEq, Repr

/-- QMG and SBF outside their registers: queues, tags, statistics, the staging units each virtual channel holds out of
each pool (key 4 · channel + pool) (R161), each engine's queue-ready FIFO with its overflow (R274). -/
structure Qmg where
  queues : Tbl Queue := []
  tags : Tbl Tag := []
  stat : Tbl Nat := []
  pool : Tbl Nat := []
  ready : Tbl (List Nat × Bool) := []
  deriving DecidableEq, Repr

/-! ### Traverse sequencer (05_traverse_sequencer.md) -/

/-- A stream table entry: its words, generation, whether the next frame is the first, whether it is in loss, the time of
its last keep, and the stream state of R137 to R139 (stNum and sqNum, or h and bitmap). -/
structure TrvEntry where
  w0 : Nat := 0
  w1 : Nat := 0
  w2 : Nat := 0
  w3 : Nat := 0
  w4 : Nat := 0
  w5 : Nat := 0
  w6 : Nat := 0
  w7 : Nat := 0
  gen : Nat := 0
  first : Bool := false
  inLoss : Bool := false
  kept : Nat := 0
  a : Nat := 0
  b : Nat := 0
  deriving DecidableEq, Repr

/-- A frame between lookup and its program (R122, R126, R128): datapath, frame, entry index (none for a miss), the entry
words, generation and whole program that the lookup captured, its matrix, staging units and channel (R161), the
pipeline it is bound to (R134), the classifier's fault position (R123). -/
structure Flight where
  dp : Nat
  h : Handed
  entry : Option Nat
  e : TrvEntry
  prog : List Nat
  plan : List (Nat × Nat)
  vc : Nat
  pipe : Option Nat
  mal : Option Nat
  deriving DecidableEq, Repr

/-- The traverse sequencer outside its registers: stream entries, steps, action bytes (key 32 · matrix + verdict), key
table (key 4 · entry + 0 current id, 1 current slot, 2 next id, 3 next slot), statistics (key 8 · datapath + index),
frames in flight. -/
structure Trv where
  entries : Tbl TrvEntry := []
  steps : Tbl Nat := []
  disp : Tbl Nat := []
  keys : Tbl Nat := []
  stat : Tbl Nat := []
  flights : List Flight := []
  deriving DecidableEq, Repr

/-! ### Resamplers and converter port (07_converter_port.md) -/

/-- An input sample of a resampler context: nominal time in 2^-16 ns, a value for each channel, whether any was replaced. -/
structure RsmIn where
  time : Nat
  vals : List Int
  replaced : Bool
  deriving DecidableEq, Repr

/-- A grid point whose instant the orbit has passed: position in orbit steps, instant in 2^-16 ns, the point rate there
in 2^-24 Hz, whether the orbit was not LOCKED. -/
structure RsmPoint where
  pos : Nat
  t : Nat
  rate : Nat
  unlocked : Bool
  deriving DecidableEq, Repr

/-- A resampler context (R194 to R198): its words, the input in its buffer (newest first) with the next expected sample
count, the orbit at the tick before (time, position, frequency), points waiting for input, points of the item being
filled with their flags, the queues that the program's enqueue steps name for them (none: W0.queue), the channel samples in
the input buffer with the CCLK of that count. -/
structure RsmCtx where
  w0 : Nat := 0
  w1 : Nat := 0
  w2 : Nat := 0
  w3 : Nat := 0
  hist : List RsmIn := []
  next : Option Nat := none
  last : Option (Nat × Nat × Int) := none
  wait : List RsmPoint := []
  item : List (RsmPoint × List Int × Bool) := []
  dests : List Nat := []
  fill : Nat := 0
  fillAt : Nat := 0
  deriving DecidableEq, Repr

/-- The resamplers: contexts (key 32 · unit + context) and statistics (key 4 · that + index). -/
structure Rsm where
  ctx : Tbl RsmCtx := []
  stat : Tbl Nat := []
  deriving DecidableEq, Repr

/-- A converter lane outside its registers (R181 to R184): tap and slip are set, failed, bit 0 of the frame before (fmt 2),
consecutive check errors and good frames, the last good sample, the comparator's previous sample, run and whether it has
raised, the block being filled (newest sample first; replaced, over-range, index of the first), gap to be set. -/
structure CnvLane where
  isSet : Bool := false
  failed : Bool := false
  bit0 : Option Bool := none
  bad : Nat := 0
  good : Nat := 0
  last : Int := 0
  prev : Option Int := none
  run : Nat := 0
  fired : Bool := false
  block : Option (List Int × Nat × Nat × Nat) := none
  gap : Bool := false
  wasUp : Bool := false
  deriving DecidableEq, Repr

/-- A converter group: the count S · r_c + k expected next, and the samples since the last re-phase (R193); whether its clocks
and frame sync run (R178). -/
structure Grp where
  clocks : Bool := false
  next : Option Nat := none
  since : Option Nat := none
  jumped : Bool := false
  deriving DecidableEq, Repr

/-- A publisher's channel (R186): CIC integrators and combs, the last 39 CIC outputs (newest first), and for each condition
of R192 (lane down, synthesiser, check error, over-range) the count of the last input sample at which it held. -/
structure PubCh where
  ints : List Int := [0, 0, 0, 0, 0]
  combs : List Int := [0, 0, 0, 0, 0]
  outs : List Int := []
  conds : List (Option Nat) := [none, none, none, none]
  deriving DecidableEq, Repr

/-- A publisher (R190 to R192): samples since it began and since the last jump of the grid, its channels by lane, the
ASDUs of the frame being built (second, smpCnt, smpSynch, values with quality). -/
structure Pub where
  total : Nat := 0
  n : Nat := 0
  chans : Tbl PubCh := []
  asdus : List (Nat × Nat × Nat × List (Int × Nat)) := []
  deriving DecidableEq, Repr

/-- The converter port outside its registers: lanes, groups, publishers, templates (key 256 · publisher + word),
statistics (key 8 · lane + index), whether a re-phase waits for the next TAI second, the TAI spans in ns that steps of the
last second skipped (R193). -/
structure Cnv where
  lanes : Tbl CnvLane := []
  grps : Tbl Grp := []
  pubs : Tbl Pub := []
  tpl : Tbl Word := []
  stat : Tbl Nat := []
  relock : Bool := false
  skip : List (Nat × Nat) := []
  deriving DecidableEq, Repr

/-! ### Waveform coding (08_waveform_coding.md) -/

/-- Consecutive samples of one channel from an absolute index on. -/
structure Stream where
  base : Nat := 0
  vals : List Int := []
  deriving DecidableEq, Repr

/-- A compress step's frame in the coding units: direction (true decode), Pyrlon PDU, destination queues (none: the context's own), entry,
datapath. -/
structure WfcJob where
  decode : Bool
  pdu : List Byte
  dests : List Nat
  entry : Nat
  dp : Nat
  deriving DecidableEq, Repr

/-- A WFC context (R213 to R218): its words and header template, the words that a commit made wait for the next frame
boundary with the number of steps in progress before it, its channels' samples in unbroken runs (oldest first) with the index up
to which each lane was seen, the next output index of a frame being built, whether input was lost or degraded since the last
output frame, steps in the coding units, items held for a full queue (queue, time, payload, gap), gap to be set. -/
structure WfcCtx where
  w0 : Nat := 0
  w1 : Nat := 0
  w2 : Nat := 0
  w3 : Nat := 0
  hdr : List Byte := []
  next : Option (Nat × Nat × Nat × Nat) := none
  left : Nat := 0
  chans : Tbl (List Stream) := []
  seen : Tbl Nat := []
  out : Option Nat := none
  lost : Bool := false
  degr : Bool := false
  jobs : List WfcJob := []
  held : List (Nat × Nat × List Byte × Bool) := []
  gap : Bool := false
  deriving DecidableEq, Repr

/-- The waveform codec: contexts, statistics (key 8 · context + index). -/
structure Wfc where
  ctx : Tbl WfcCtx := []
  stat : Tbl Nat := []
  deriving DecidableEq, Repr

/-! ### Engines and clusters (09_stovar_isa.md, 10_worlds_and_traps.md) -/

/-- An address generator (R226). -/
structure Gen where
  base : Word := 0
  len : Word := 0
  step : Word := 0
  idx : Word := 0
  mode : Nat := 0
  deriving DecidableEq, Repr

/-- An entry of a release queue, as RELTASK reads it (R269, R277). -/
structure RelItem where
  entry : Nat
  tag : Nat
  late : Bool
  ovr : Nat
  deriving DecidableEq, Repr

/-- A gate call that waits for its answer (R263): number, g4 to g7, the CCLK of the call, the EPC of the trap. -/
structure Gate where
  n : Nat
  g4 : Word
  g5 : Word
  g6 : Word
  g7 : Word
  at_ : Nat
  epc : Nat
  deriving DecidableEq, Repr

/-- An engine (R221, R248, R277): registers, flags, pc and level; the system registers; the latched upper halves of TICK
and CYCLE and the CCLK at which the engine left reset; CODEATTR; the release queue; missed deadlines that raise cause
0x11 (entry and tag); cause 0x10 and the watchdog's count in ns; the gate call; the state before a freeze. -/
structure Eng where
  g : Tbl Word := []
  v : Tbl (BitVec 128) := []
  a : Tbl Int := []
  m : Tbl Gen := []
  fl : BitVec 5 := 0
  pc : Nat := 0
  super : Bool := false
  evb : Nat := 0
  ecause : Nat := 0
  epc : Nat := 0
  aen : Bool := false
  hnd : Bool := false
  paen : Bool := false
  plev : Bool := false
  earg : Nat := 0
  ecause2 : Nat := 0
  escr : Word := 0
  imask : Nat := 0
  evmask : Nat := 0
  tickHi : Nat := 0
  cycHi : Nat := 0
  cycFrom : Nat := 0
  attr : Nat := 0
  relq : List RelItem := []
  missed : List (Nat × Nat) := []
  wdPend : Bool := false
  wdAcc : Nat := 0
  gate : Option Gate := none
  thaw : Nat := 0
  deriving DecidableEq, Repr

/-- A running release (R271): engine, tag, deadline in TAI ns, whether its miss is counted, whether a miss raises cause
0x11. -/
structure Running where
  engine : Nat
  tag : Nat
  deadline : Nat
  missed : Bool
  irq : Bool
  deriving DecidableEq, Repr

/-- A release entry (R265 to R267): its words, overruns, whether its first evaluation is still to come, words that a
commit installs at the next tick, its running release. -/
structure RelEntry where
  w0 : Nat := 0
  w1 : Nat := 0
  w2 : Nat := 0
  w3 : Nat := 0
  w4 : Nat := 0
  ovr : Nat := 0
  fresh : Bool := false
  next : Option (List Nat) := none
  run : Option Running := none
  deriving DecidableEq, Repr

/-! ### Cipher pipelines, key vault, PKE and HSH (12_cipher_pipelines.md, 13_pke_and_hash.md, 14_refuge_and_lifecycle.md) -/

/-- A vault slot (R345): its attribute word, its key bytes, and for EC and RSA keys its integers (d, Qx, Qy; p, q, dP,
dQ, qInv). -/
structure Slot where
  attr : Nat := 0
  inv : Nat := 2 ^ 32 - 1
  key : List Byte := []
  nums : List Nat := []
  deriving DecidableEq, Repr

/-- The chaining state of a pipeline between segments (R318): chaining value or counter block, GHASH or CMAC state, the
partial block CMAC keeps, bytes of AAD and data so far, the IV of the first segment. -/
structure Chain where
  chain : List Byte := []
  ghash : BitVec 128 := 0
  aad : Nat := 0
  len : Nat := 0
  iv : List Byte := []
  deriving DecidableEq, Repr

/-- A running cipher job: what go took from the registers (R316), whether a fault meets it (R317). -/
structure CplJob where
  mode : Nat
  dec : Bool
  tagLen : Nat
  ctrW : Nat
  iv : List Byte
  tag : List Byte
  src : Nat
  dst : Nat
  ivt : Nat
  len : Nat
  aad : Nat
  msgs : Nat
  first : Bool
  last : Bool
  owner : Nat
  deriving DecidableEq, Repr

/-- A pipeline outside its registers: CPL_KEYk, the key in use, a key whose load is in progress and the state of the open chain in two
Boolean shares each (`mask` is the second share of `chain`), the 256-bit state of its generator (R306), the running job. -/
structure Cpl where
  regA : List Byte := []
  regB : List Byte := []
  keyA : List Byte := []
  keyB : List Byte := []
  gen : Nat := 0
  loading : Option (List Byte × List Byte) := none
  chain : Option Chain := none
  mask : Chain := {}
  job : Option CplJob := none
  deriving DecidableEq, Repr

/-- A PKE context (R327): its state as PKE_CTXk shows it, the staged command a go copied (PKE_CMD, slots, PKE_SIZE,
addresses), its owner, the CCLK of its start, whether its random bits have come (R332), and the message as an SLH-DSA sign read it
first, with the status of that read (R331). -/
structure PkeCtx where
  state : Nat := 0
  status : Nat := 0
  cmd : Nat := 0
  args : List Nat := []
  size : Nat := 0
  msg : Nat := 0
  msgLen : Nat := 0
  src : Nat := 0
  dst : Nat := 0
  owner : Nat := 0xFF
  since : Nat := 0
  supplied : Bool := false
  early : List Byte := []
  earlySt : Status := .ok
  deriving DecidableEq, Repr

/-- The PKE outside its registers: operand memory (32-bit half-words), the contexts, whether its memory is being cleared, the release
buffer (R331), the scratch banks by context, whose content no rule gives (R337). -/
structure Pke where
  mem : Tbl Word := []
  ctx : Tbl PkeCtx := []
  clearing : Bool := false
  release : List Byte := []
  scratch : Tbl Nat := []
  deriving DecidableEq, Repr

/-- A hash state: function, SHA-2 words, Keccak lanes, bytes not yet taken into a block, bytes so far. -/
structure HashState where
  fn : Nat := 0
  h : List Nat := []
  s : List (BitVec 64) := []
  buf : List Byte := []
  total : Nat := 0
  deriving DecidableEq, Repr

/-- A running hash job (R341). -/
structure HshJob where
  src : Nat
  dst : Nat
  len : Nat
  fn : Nat
  outLen : Nat
  first : Bool
  last : Bool
  squeeze : Bool
  owner : Nat
  deriving DecidableEq, Repr

/-- The HSH outside its registers: the state kept between segments, the state kept for squeezes with the bytes already
given, the running job; whether the PKE uses Keccak core 0 and whether it is wanted there (R336). -/
structure Hsh where
  chain : Option HashState := none
  xof : Option (HashState × Nat) := none
  job : Option HshJob := none
  pkeCore0 : Bool := false
  deriving DecidableEq, Repr

/-! ### Flash (16_flash.md) -/

/-- A line being programmed: its number, data and requester. -/
structure FlProg where
  line : Nat
  data : List Byte
  owner : Nat
  deriving DecidableEq, Repr

/-- A running or suspended erase: block, requester, the CCLK of its start or last resume, whether it is suspended and
since when, the requesters of held suspends, those of resumes that wait for a program, whether EV1006 was
raised, whether the erase counter has been stepped (R395, R396). -/
structure FlErase where
  block : Nat
  owner : Nat
  since : Nat
  suspended : Bool := false
  suspAt : Nat := 0
  hold : List Nat := []
  resume : List Nat := []
  long : Bool := false
  deriving DecidableEq, Repr

/-- A bank of the flash. -/
structure Bank where
  prog : Option FlProg := none
  erase : Option FlErase := none
  deriving DecidableEq, Repr

/-- The flash outside its registers and its content, which lies in memory: programmed flags by line, erase-in-progress
flags by block, erase counters, banks, the lines whose program does not
verify in this start. -/
structure Flc where
  programmed : Tbl Unit := []
  flags : List Nat := []
  erases : Tbl Nat := []
  banks : Tbl Bank := []
  failing : List Nat := []
  deriving DecidableEq, Repr

/-! ### Record card (18_record_card.md) -/

/-- The item CRD serves: its queue and opcode, the object, the payloads still to be written with their first and last
flags, whether its data is a last block that waits for its cairn, format_id of a format (R445). -/
structure CrdJob where
  queue : Nat
  op : Nat
  obj : Nat := 0
  todo : List (List Byte × Bool × Bool) := []
  formatId : Nat := 0
  dump : Option Nat := none
  deriving DecidableEq, Repr

/-- A block being written: its LBA, its bytes, its sequence number, its kind (1 header, 2 data, 3 cairn). -/
structure CrdBlock where
  lba : Nat
  bytes : List Byte
  wseq : Nat
  kind : Nat
  deriving DecidableEq, Repr

/-- CRD outside its registers: the card in the slot with its content by LBA, whether identification waits, the container
(format_id, ring_start, ring_len), data blocks no cairn covers (wseq and CRC) with the CCLK of the first, whether a cairn is
due, the last cairn, the highest EVR number among them, the item served, blocks to be acknowledged, attempts of the command
and the CCLK of the first, the CCLK of the last access, the card status, the CCLK at which the slot may be powered again and at which a card
powered up is ready for its first command (R430 to R445). -/
structure Crd where
  card : Option Card := none
  blocks : Tbl (List Byte) := []
  identify : Bool := false
  formatId : Nat := 0
  ringStart : Nat := 0
  ringLen : Nat := 0
  uncovered : List (Nat × Nat) := []
  uncFrom : Nat := 0
  cairnDue : Bool := false
  lastCairn : Nat := 0
  evrSeq : Nat := 0
  job : Option CrdJob := none
  writing : List CrdBlock := []
  tries : Nat := 0
  since : Nat := 0
  lastAccess : Nat := 0
  status : Nat := 0
  offAt : Nat := 0
  readyAt : Nat := 0
  deriving DecidableEq, Repr

/-! ### Contactless (19_contactless.md) -/

/-- A tag in the tag table (R453): the tag, its state (0 IDLE, 1 READY, 2 ACTIVE, 3 HALTED), rate, answer. -/
structure TagEnt where
  tag : NfcTag
  state : Nat := 3
  rate : Nat := 0
  ats : List Byte := []
  deriving DecidableEq, Repr

/-- NFC outside its registers: the tag table, since when an item waits for the field, the CCLK of the last completion, the
last 16 pings that did not detect (amplitude and phase), consecutive pings far off, the last ping (R448 to R457). -/
structure Nfc where
  tags : List TagEnt := []
  waiting : Option Nat := none
  lastDone : Nat := 0
  pings : List (Nat × Nat) := []
  far : Nat := 0
  pingAt : Nat := 0
  deriving DecidableEq, Repr

/-- A bank of the island store: generation, files 1 to 3, files whose CRC fails (R459, R462). -/
structure IslBank where
  gen : Nat := 0
  files : List (List Byte) := [[], [], []]
  bad : List Nat := []
  deriving DecidableEq, Repr

/-- A commit mark of a note: seq, page, the page's CRC (R464). -/
structure IslMark where
  seq : Nat
  page : Nat
  crc : Nat
  deriving DecidableEq, Repr

/-- The tag island, with its own store (R458 to R466): banks and the committed one, field, UID and generator, protocol state
(0 IDLE, 1 READY, 2 ACTIVE, 3 HALT, 4 ISO-DEP; whether it came from HALT), application selected, the session's bank,
sessions and refused commands not reported, note pages, marks with the next place of their ring, whether a note was written in this
field power-up, the last note reported, a failed check to raise, an update held. -/
structure Isl where
  banks : Tbl IslBank := []
  bank : Nat := 0
  field : Bool := false
  uid : List Byte := []
  rng : List Byte := List.replicate 16 0
  proto : Nat := 0
  halted : Bool := false
  selected : Bool := false
  session : Option Nat := none
  sessions : Nat := 0
  refused : Nat := 0
  pages : Tbl (List Byte) := []
  marks : Tbl IslMark := []
  nextMark : Nat := 0
  noted : Bool := false
  reported : Nat := 0
  failed : List Nat := []
  held : Bool := false
  deriving DecidableEq, Repr

/-! ### Rope (20_isdin_fabric.md) -/

/-- The rope outside its registers (R469 to R480): events a member forwards (tick, source, level); slots waiting by lane;
flits received in slots by lane; credits held (key 4 · lane + VC) and credits to return; flits waiting for a member or the
leader; the tick number of the last slot by lane; TIME and STEP parts; ORBIT parts (key 8 · orbit + part); updates that wait for
their tick; when the last edge came, since when edges agree; the last second mark; the TAI values that members' ticks carry at the last 64 ticks, newest first; the spans the leader skipped that its
members have not, with the ticks for which they have not; edges of ROPE_TICK that a member set back passes over without a tick. -/
structure Rop where
  fwd : List (Nat × Nat × Bool) := []
  slots : Tbl (List Nat) := []
  parts : Tbl (List Byte) := []
  credit : Tbl Nat := []
  ret : Tbl Nat := []
  flits : Tbl (List Flit) := []
  seen : Tbl Nat := []
  time : Tbl Nat := []
  step : Tbl Nat := []
  orbit : Tbl Nat := []
  updates : List (Nat × Nat × Nat × Int) := []
  hiSeen : List Nat := []
  edgeAt : Nat := 0
  markAt : Nat := 0
  agreeFrom : Option Nat := none
  tais : List Nat := []
  lag : List (Nat × Nat) := []
  hold : Nat := 0
  deriving DecidableEq, Repr

/-! ### Isdin (20_isdin_fabric.md) -/

/-- A sequenced flit that is held until it is acknowledged: when it first and last went, how often, the local item it carries a
part of, as 65,536 · queue + seq (R485). -/
structure HeldFlit where
  f : Flit
  firstAt : Nat
  lastAt : Nat
  tries : Nat
  item : Option Nat
  deriving DecidableEq, Repr

/-- One Isdin link (R481 to R492): the peer as its HELLO names it, next lseq to send, last accepted, flits held and waiting (with
the local item), credits by VC held, owed to the peer, and left to the peer; whether a gap is open and when the NAK went; flits
since VC3 was served; since when VC1 lacks credit; the TIME exchange. -/
structure IsdLink where
  uid : List Byte := []
  addr : Nat := 0xFFFF
  got : Bool := false
  helloAt : Nat := 0
  tx : Nat := 0
  rx : Nat := 65535
  held : List HeldFlit := []
  waiting : List (Flit × Option Nat) := []
  credit : List Nat := [0, 0, 0, 0]
  owed : List Nat := [0, 0, 0, 0]
  peer : List Nat := [32, 128, 64, 32]
  gap : Bool := false
  nakAt : Nat := 0
  sinceVc3 : Nat := 0
  vc3At : Nat := 0
  vc1From : Option Nat := none
  tseq : Nat := 0
  sent : Nat × Nat := (0, 0)
  heard : Option (Nat × Nat) := none
  timeAt : Nat := 0
  deriving DecidableEq, Repr

/-- What a TOPO says of a node (R493), and on which side of a col it was heard. -/
structure Topo where
  side : Nat
  uid : List Byte
  version : Nat
  addr : Nat
  prio : Nat
  col : Bool
  nbr : List (List Byte)
  other : Nat
  cross : List Nat
  deriving DecidableEq, Repr

/-- An item being reassembled: source, position, VC, queue, bytes so far, the CCLK of its first flit, the port (R499). -/
structure IsdPart where
  src : Nat
  pos : Nat
  vc : Nat
  queue : Nat
  bytes : List Byte
  at_ : Nat
  port : Nat
  deriving DecidableEq, Repr

/-- The origin of a command item that waits for its completion, by local tag (R502). -/
structure IsdOrigin where
  tag : Nat
  src : Nat
  pos : Nat
  queue : Nat
  seq : Nat
  oldTag : Nat
  vc : Nat
  deriving DecidableEq, Repr

/-- A reply_en item of an export queue that has gone out (R498, R503): queue, seq, tag, reply queue. -/
structure IsdItem where
  queue : Nat
  seq : Nat
  tag : Nat
  reply : Nat
  deriving DecidableEq, Repr

/-- ISD outside its registers: links, TOPO map with the own version, the time of the last change, whether the election has stood since,
the time of the last own flood; summits by side, routes (0 to 63 nodes, 64 to 127 nodes of massif2, 128 to 143 massifs, 144 to 159
massifs as massif2's summit routes them) with the version, ROUTE flits seen (uid, version, side), second address of a col, export map
(W0, W1), statistics (key 8 · port + index), items in reassembly, deferred by a full record queue, highest stream time by (source,
position, queue), origins of commands, items sent that wait for a completion. -/
structure Isd where
  links : Tbl IsdLink := []
  topo : List Topo := []
  version : Nat := 0
  changedAt : Nat := 0
  stood : Bool := false
  floodAt : Nat := 0
  summits : Tbl (List Byte) := []
  routes : Tbl Nat := []
  routeVer : Nat := 0
  seen : List (List Byte × Nat × Nat) := []
  addr2 : Nat := 0xFFFF
  xmap : Tbl (Nat × Nat) := []
  stat : Tbl Nat := []
  parts : List IsdPart := []
  deferred : List IsdPart := []
  streams : List ((Nat × Nat × Nat) × Nat) := []
  origins : List IsdOrigin := []
  sent : List IsdItem := []
  deriving DecidableEq, Repr

/-! ### Refuge, tamper, backup domain, resets, debug (14, 15, 21) -/

/-- OTP beside what LCC's registers show (R355 to R358): device_uid, device secret, hashes of the vendor key and of the
owner keys by slot, tamper sources disabled (LCC_FUSE follows at the next reset), the M0 MAC address, HST's device and vendor ID and
subsystem IDs. -/
structure Otp where
  uid : List Byte := List.replicate 16 0
  secret : List Byte := []
  vendor : List (List Byte) := []
  owners : List (List Byte) := []
  fuse : Nat := 0
  mac : Nat := 0
  hstIds : Nat × Nat := (0, 0)
  marks : List (Nat × Bool) := []
  deriving DecidableEq, Repr

/-- An asynchronous Refuge service (R362): the gate, its caller, arguments, the reply queue and seq. -/
structure Service where
  gate : Nat
  engine : Nat
  g4 : Nat
  g5 : Nat
  g6 : Nat
  queue : Nat
  seq : Nat
  deriving DecidableEq, Repr

/-- A fatal dump that waits for the Refuge (R275, R424): engine, trigger, reason, card copy, the TAI of the freeze,
the CCLK at which CP7 was requested, the record once it is written and the dump's number once EVR has given it. -/
structure DumpReq where
  engine : Nat
  trigger : Nat
  reason : Nat
  card : Bool
  at_ : Nat
  since : Nat
  written : Option Rec := none
  num : Option Nat := none
  deriving DecidableEq, Repr

/-- The Refuge outside its registers: OTP, the failed-start counter in flash, the CCLK of the release of reset, whether base
camp is done, the current nonce, consecutive refusals and the end of the hold-off, the end of debug authorisation and
whether there was one since reset, the open recovery session (number, command, bytes), services and dumps outstanding,
the manifests in force (security version, digest, role), the copies of device and sealed keys in flash (with the sealing
seed of each), zeroise due at the next reset, TRN's reseed and retest times, the reset in progress (R344 to R365). -/
structure Rfg where
  otp : Otp := {}
  fails : Nat := 0
  releasedAt : Nat := 0
  baseDone : Bool := false
  nonce : Option (List Byte) := none
  refused : Nat := 0
  holdUntil : Nat := 0
  dbgUntil : Nat := 0
  dbgSeen : Bool := false
  session : Option (Nat × Bool × List Byte) := none
  services : List Service := []
  dumps : List DumpReq := []
  fwVersion : Nat := 0
  fwDigest : List Byte := []
  stationDigest : List Byte := []
  role : Nat := 0
  wide : List Nat := []
  copies : Tbl (List Byte × Slot) := []
  statement : List Byte := []
  due : Bool := false
  firmware : Option Manifest := none
  station : Option Manifest := none
  rekey : Bool := false
  dead : Bool := false
  trnReseedAt : Nat := 0
  trnReqs : Nat := 0
  trnFailAt : Nat := 0
  deriving DecidableEq, Repr

/-- TMP outside its registers: the CCLK of the first glitch of the window (R371), the seed of the mesh generator and the mismatches in
a row by segment (R369), what each source's last alarm said, the sources whose alarm went to the backup log instead (R379). -/
structure Tmp where
  glitchAt : Nat := 0
  seed : Nat := 0
  run : Tbl Nat := []
  detail : Tbl Nat := []
  logged : Nat := 0
  deriving DecidableEq, Repr

/-- The backup domain outside its registers (R376 to R382): the log by index, entries written since the last clear, the
vault, the sealing seed, the RTC in cycles with a fraction in CCLK, por_lock as it stood at a loss of state, when each source
was last seen in alarm on battery (one above the RTC cycle), those in alarm now, the RTC cycles each enclosure input has been in
alarm and the mismatches in a row of each external pair (R372), VBAT as last measured, the record number at the last clear of the log. -/
structure Bkd where
  log : Tbl (List Byte) := []
  n : Nat := 0
  vault : Tbl Word := []
  seed : List Byte := []
  rtc : Nat := 0
  frac : Nat := 0
  lost : Bool := false
  lossLock : Bool := false
  seen : Tbl Nat := []
  standing : List Nat := []
  encRun : Tbl Nat := []
  xmRun : Tbl Nat := []
  vbat : Nat := 0
  clearedAt : Nat := 0
  deriving DecidableEq, Repr

/-- JTAG and DBG (R537 to R539): the instruction, the boundary register's trip cells as preloaded, the outcome of the last
DAP access, the mailbox. -/
structure Jtag where
  ir : Nat := 0x01
  top : BitVec 64 := 0
  ton : BitVec 64 := 0
  status : Nat := 0
  data : Word := 0
  mbox : List Byte := []
  deriving DecidableEq, Repr

/-- Resets and clocks (R518 to R520, R524): supplies present, when RESET_OUT_N may rise. -/
structure Sys where
  powered : Bool := true
  cause : Nat := 1
  outTill : Nat := 80000
  outHigh : Bool := false
  deriving DecidableEq, Repr

/-- The scrambling keys of the SRAM, of the key vault with the counter cache, and of the retained buffer (R293); the bus masks of R296
follow from them. -/
structure Scramble where
  sram : Nat := 0
  vault : Nat := 0
  retained : Nat := 0
  deriving DecidableEq, Repr

/-! ### The device -/

/-- Everything the spec gives the device but the queue of waiting commands and the round-robin pointer. `off` is the model's own: how
many CCLK after the last tick the command at hand falls, for one that says so; so is `brk`: the bus segment in which the command's
transfers meet a parity error (R296). `bad` holds the uncorrectable words (R294), by device address or `rowKey`, 1 double-bit, 2 a tag that
does not verify; `initTill` the CCLK at which the SRAM is initialised (R293); `lineCtr` the counters of the guarded region and of its counter lines, `ctrCache` the counter line at each place of the counter cache
and whether it differs from DRAM, `ctrStored` the counters as DRAM holds them (R300); `vaultTill` the CCLK at which the key vault is
initialised (R293); `dramOld` that DRAM was written under keys that zeroise has replaced, `dramNew` the lines written since (R375);
`scrubAt` the next row of each bank's scrubber (R295). -/
structure Dev where
  cclk : Nat := 0
  ticks : Nat := 0
  off : Nat := 0
  brk : Option Nat := none
  draws : Nat := 0
  resp : Resp := ⟨none, 0⟩
  out : List Out := []
  regs : Tbl Word := []
  wlLocked : List Nat := []
  shadow : Tbl Word := []
  shadowSeen : List Nat := []
  pairHi : Tbl Word := []
  lockClear : Tbl Nat := []
  inReset : Tbl Nat := []
  mem : List Host.Cell := []
  bivouac : Bool := false
  tim : Tim := {}
  orb : Tbl Orb := []
  cmp : Tbl Cmp := []
  evm : Evm := {}
  bio : Tbl Bi := []
  pit : Pit := {}
  tou : Tou := {}
  evr : Evr := {}
  hst : Hst := {}
  ports : Tbl Port := []
  pairs : Tbl Pair := []
  qmg : Qmg := {}
  trv : Trv := {}
  rsm : Rsm := {}
  cnv : Cnv := {}
  wfc : Wfc := {}
  bad : Tbl Nat := []
  initTill : Nat := 8192
  scramble : Scramble := {}
  lineCtr : Tbl Nat := []
  ctrCache : Tbl (Nat × Bool) := []
  ctrStored : Tbl Nat := []
  vaultTill : Nat := 8192
  dramOld : Bool := false
  dramNew : Tbl Nat := []
  scrubAt : Tbl Nat := []
  eng : Tbl Eng := []
  rel : Tbl RelEntry := []
  vault : Tbl Slot := []
  cpl : Tbl Cpl := []
  pke : Pke := {}
  hsh : Hsh := {}
  flc : Flc := {}
  rfg : Rfg := {}
  crd : Crd := {}
  nfc : Nfc := {}
  isl : Isl := {}
  rop : Rop := {}
  isd : Isd := {}
  tmp : Tmp := {}
  bkd : Bkd := {}
  jtag : Jtag := {}
  sys : Sys := {}
  deriving DecidableEq, Repr

/-- The state: the commands that wait, first in first out; the round-robin pointer (R25, R541); the device. -/
structure State where
  pending : List Instr
  rr : Nat
  dev : Dev
  deriving DecidableEq, Repr

/-- The register words that a power-on reset by POR_N leaves off the tables' reset values: the cause that SYS_RST_CAUSE collects
(R518), and what LCC_COUNT shows of an OTP that names no owner (R355, R365; log entry 120). -/
def resetRegs : Tbl Word := [((SYS_RST_CAUSE_por_pin : Fld).key 0 0, 1), ((LCC_COUNT_owner_idx : Fld).key 0 0, 0x000F0000)]

/-- The state right after reset: the device after a power-on reset by POR_N, before its first tick, with a part that has left
its maker unprovisioned (life-cycle state MANUF; log entry 120); nothing waits. -/
def State.reset : State := { pending := [], rr := 0, dev := { regs := resetRegs } }

/-- Why the machine stops with a fault. -/
inductive Fault where
  /-- No meaning of this model stops with a fault: the device answers every command by a status, an exception, an event or
  nothing. The constructor keeps the type inhabited; nobody raises it. Safe. -/
  | none
  deriving DecidableEq, Repr

/-- Why a command has no meaning. -/
inductive Refusal where
  /-- The dispatch raises it for a command this model does not give a meaning yet. Safe: the run ends. -/
  | notModelled (mnemonic : String)
  deriving DecidableEq, Repr

/-- The outcome of a command that acts on the device: what it did and answered stands in the device; answers and outputs of the
command before are gone. A device without power does nothing. -/
def State.act (s : State) (f : Dev → Dev) : Host.Outcome State Fault Refusal :=
  let d := { s.dev with off := 0, brk := none, resp := { status := none, data := 0 }, out := [] }
  .next { s with dev := if s.dev.sys.powered then f d else d }

/-- The same for what happens with or without power: the backup domain and the tag island. -/
def State.always (s : State) (f : Dev → Dev) : Host.Outcome State Fault Refusal :=
  .next { s with dev := f { s.dev with off := 0, brk := none, resp := { status := none, data := 0 }, out := [] } }

end Sys2Proof.Machine
end

