-- ==== Sys2Proof/Machine/Ops.lean ====
section
/-! DEFINITION. The named operations every block shares: registers and fields, memory, answers and status, events and
records, interrupts, free draws. -/

namespace Sys2Proof.Machine

open Sys2Proof

/-! ### Requesters and status codes -/

/-- The requester ID (R24). -/
def reqId : Req → Nat
  | .dp d => d.val
  | .hst => 0x0C
  | .dbg => 0x0D
  | .refuge => 0x0E
  | .eng e => 0x10 + e.val

/-- The numeric code of a status (R10). -/
def Status.code : Status → Nat
  | .ok => 0x00 | .busy => 0x01 | .denied => 0x02 | .badParam => 0x03 | .timeout => 0x04 | .authFail => 0x05
  | .duplicate => 0x06 | .aborted => 0x07 | .faultDetected => 0x08 | .mediaGone => 0x09 | .eraseSuspended => 0x0A
  | .indeterminate => 0x0B | .full => 0x0C | .notReady => 0x0D | .lifecycle => 0x0E | .protocol => 0x0F
  | .retryExhausted => 0x10

/-- The lowest-numbered applicable code other than ST_OK, ST_TIMEOUT excepted (R11). -/
def pickStatus : List Status → Status
  | [] => .ok
  | c :: cs =>
    let r := pickStatus cs
    if c = .ok then r else if r = .ok then c else if c.code ≤ r.code then c else r

/-! ### Registers -/

/-- The word of a register key. -/
def Dev.word (d : Dev) (key : Nat) : Nat := (d.regs.get key (BitVec.ofNat 32 (resetOfKey key))).toNat

/-- Stores a register word; a word at its reset value is not listed. -/
def Dev.setWord (d : Dev) (key v : Nat) : Dev :=
  { d with regs := d.regs.set key (BitVec.ofNat 32 v) (BitVec.ofNat 32 (resetOfKey key)) }

/-- A field, register `k` of its row, instance `p` of its page. -/
def Dev.rd (d : Dev) (f : Fld) (k : Nat := 0) (p : Nat := 0) : Nat := bitsOf (d.word (f.key k p)) f.hi f.lo

/-- A field as a flag. -/
def Dev.flag (d : Dev) (f : Fld) (k : Nat := 0) (p : Nat := 0) : Bool := d.rd f k p != 0

/-- Hardware writes a field. -/
def Dev.wr (d : Dev) (f : Fld) (v : Nat) (k : Nat := 0) (p : Nat := 0) : Dev :=
  let key := f.key k p
  d.setWord key (setBits (d.word key) f.hi f.lo v)

/-- Hardware adds to a saturating counter field. -/
def Dev.bump (d : Dev) (f : Fld) (n : Nat := 1) (k : Nat := 0) (p : Nat := 0) : Dev :=
  d.wr f (satAdd (2 ^ (f.hi + 1 - f.lo) - 1) (d.rd f k p) n) k p

/-- The whole word of the register that holds a field. -/
def Dev.rdWord (d : Dev) (f : Fld) (k : Nat := 0) (p : Nat := 0) : Nat := d.word (f.key k p)

/-- Stores the whole word of the register that holds a field. -/
def Dev.wrWord (d : Dev) (f : Fld) (v : Nat) (k : Nat := 0) (p : Nat := 0) : Dev := d.setWord (f.key k p) v

/-- A field of requester `req`'s own copy (R175, R278, R391). -/
def Dev.rdOwn (d : Dev) (req : Nat) (f : Fld) (k : Nat := 0) (p : Nat := 0) : Nat :=
  bitsOf (d.word (f.key k p + bankKey req)) f.hi f.lo

/-- Writes a field of requester `req`'s own copy. -/
def Dev.wrOwn (d : Dev) (req : Nat) (f : Fld) (v : Nat) (k : Nat := 0) (p : Nat := 0) : Dev :=
  let key := f.key k p + bankKey req
  d.setWord key (setBits (d.word key) f.hi f.lo v)

/-- A 64-bit pair of registers. -/
def Dev.rd64 (d : Dev) (lo hi : Fld) (p : Nat := 0) : Nat := d.rd lo 0 p + d.rd hi 0 p * 2 ^ 32

/-- Hardware writes a 64-bit pair. -/
def Dev.wr64 (d : Dev) (lo hi : Fld) (v : Nat) (p : Nat := 0) : Dev :=
  (d.wr lo (v % 2 ^ 32) 0 p).wr hi (v / 2 ^ 32 % 2 ^ 32) 0 p

/-! ### Contention (R25) -/

/-- (ID - pointer) mod 112. -/
def rank (rr : Nat) (r : Req) : Nat := (reqId r + 112 - rr % 112) % 112

/-- Of the requesters that write in the same CCLK, those that come after this one in the order of R25: their bytes remain (R230,
R302). -/
def laterOf (v : MemEnv) (rr : Nat) (r : Req) : MemEnv := { v with rivals := v.rivals.filter (fun x => decide (rank rr r < rank rr x.1)) }

/-! ### Answers -/

/-- The answer of an access or operation. -/
def Dev.answer (d : Dev) (st : Status) (data : Nat := 0) : Dev :=
  { d with resp := { status := some st, data := BitVec.ofNat 32 data } }

/-- The outcome of an operation or write on a page: the answer, and STATUS last status code (R10, R286). -/
def Dev.report (d : Dev) (page : Nat) (st : Status) : Dev :=
  (d.wr STATUS_last_status st.code 0 page).answer st

/-- An output of the device made by this command. -/
def Dev.emit (d : Dev) (o : Out) : Dev := { d with out := d.out ++ [o] }

/-! ### Free values -/

/-- The next free value of a kind. -/
def Dev.draw (d : Dev) (k : Config.Kind) : Nat × Dev := (Config.free k d.draws, { d with draws := d.draws + 1 })

/-- The DRBG takes 384 bits of conditioned entropy (R363). -/
def Dev.reseed (d : Dev) : Dev := ({ d with rfg := { d.rfg with trnReseedAt := d.cclk, trnReqs := 0 } }).bump TRN_CNT_reseeds

/-- Random bits that TRN's generator serves, one request; after 65,536 it reseeds first (R363). -/
def Dev.drbg (d : Dev) : Nat × Dev :=
  let d := if 65536 ≤ d.rfg.trnReqs then d.reseed else d
  let (v, d) := d.draw .random
  (v, { d with rfg := { d.rfg with trnReqs := d.rfg.trnReqs + 1 } })

/-- A quotient whose rounding the spec does not give: the floor, or one above it. -/
def divFree (n m : Int) : Int :=
  if m = 0 then 0 else if n % m = 0 then n / m else n / m + (if Config.roundUp n m then 1 else 0)

/-! ### Memory -/

/-- The flash read window (R279). -/
def flashBase : Nat := 0x20000000

/-- What a byte that nothing has written reads as: erased flash reads all ones, every other store zero (R293; DRAM is
this model's choice, log entry 6). -/
def memDefault (a : Nat) : Byte := if flashBase ≤ a ∧ a < flashBase + 0x2000000 then 0xFF else 0

/-- The byte at a device address. -/
def memByte (m : List Host.Cell) (a : Nat) : Byte := Tbl.get m a (memDefault a)

/-- Writes one byte, keeping the canonical form. -/
def memPut (m : List Host.Cell) (a : Nat) (v : Byte) : List Host.Cell := Tbl.set m a v (memDefault a)

/-- The canonical form of memory: rising addresses, no byte listed that equals what an unlisted address reads as. -/
def memWf (m : List Host.Cell) : Bool := Tbl.rising m && m.all (fun c => c.2 != memDefault c.1)

/-- Writes a run of bytes from an address. -/
def memPutAll (m : List Host.Cell) (a : Nat) : List Byte → List Host.Cell
  | [] => m
  | b :: bs => memPutAll (memPut m a b) (a + 1) bs

/-- `n` bytes from an address. -/
def memGetAll (m : List Host.Cell) (a n : Nat) : List Byte := (List.range n).map (fun i => memByte m (a + i))

/-- Returns a range of addresses to what nothing has written. -/
def memForget (m : List Host.Cell) (lo hi : Nat) : List Host.Cell :=
  m.filter (fun c => !(decide (lo ≤ c.1) && decide (c.1 < hi)))

def Dev.load (d : Dev) (a n : Nat) : List Byte := memGetAll d.mem a n
def Dev.loadNat (d : Dev) (a n : Nat) : Nat := leValue (memGetAll d.mem a n)
def Dev.store (d : Dev) (a : Nat) (bs : List Byte) : Dev := { d with mem := memPutAll d.mem a bs }
/-- Stores the bytes that no rival range takes. -/
def Dev.storeBut (d : Dev) (a : Nat) (bs : List Byte) (rivals : List (Req × Nat × Nat)) : Dev :=
  if rivals.isEmpty then d.store a bs
  else
    { d with mem := (bs.zipIdx a).foldl (fun m b =>
        if rivals.any (fun x => decide (x.2.1 ≤ b.2) && decide (b.2 < x.2.1 + x.2.2)) then m else memPut m b.2 b.1) d.mem }
def Dev.storeNat (d : Dev) (a n v : Nat) : Dev := d.store a (leBytes v n)

/-! ### Time -/

/-- CCLK cycles in a microsecond, millisecond and second at 800 MHz (R4, R5). -/
def cclkPerUs : Nat := 800
def cclkPerMs : Nat := 800000
def cclkPerS : Nat := 800000000

/-- The counter's integer part at the last CCLK the model has reached (R34). -/
def Dev.taiNs (d : Dev) : Nat := d.tim.tai / 2 ^ 32

/-- The TAI value of the last tick (R48). -/
def Dev.tickTai (d : Dev) : Nat := d.tim.lastTick

/-! ### Events (R65 to R68) -/

def setBitV {w : Nat} (v : BitVec w) (i : Nat) (b : Bool) : BitVec w :=
  if b then v ||| (1#w <<< i) else v &&& ~~~(1#w <<< i)

/-- Raises a pulse source; the first raise before a tick gives the record's parameters (R65, R68). -/
def Dev.raise (d : Dev) (src : Nat) (p0 : Nat := 0) (p1 : Nat := 0) (p2 : Nat := 0) : Dev :=
  if d.evm.latch.getLsbD src then d
  else { d with evm := { d.evm with
      latch := setBitV d.evm.latch src true
      params := d.evm.params.set src ⟨p0, p1, p2⟩ ⟨0, 0, 0⟩ } }

/-- Sets the level a level source presents, with the parameters its next record carries (R65). -/
def Dev.level (d : Dev) (src : Nat) (b : Bool) (p : P3 := ⟨0, 0, 0⟩) : Dev :=
  { d with evm := { d.evm with
      level := setBitV d.evm.level src b
      params := d.evm.params.set src p ⟨0, 0, 0⟩ } }

/-! ### Records (R119, R408, R414, R545) -/

/-- A record stamped at the last tick; src 0x7F names any block but an engine or the Refuge (R408). The device's own records carry
its own rope position (R70). -/
def Dev.mkRec (d : Dev) (code sev kind src : Nat) (p : P3) (pos : Nat := d.rd SYS_STRAP_rope_pos) : Rec :=
  { code := code, sev := sev, kind := kind, pos := pos, late := false, src := src, time := d.tickTai, seq := 0, p := p }

/-- Further occurrences merged into a held record (R414, R545). -/
def Rec.more (r : Rec) (n : Nat) : Rec := { r with p := ⟨r.p.p0, satAdd 0xFFFFFFFF r.p.p1 n, r.p.p2⟩ }
def Rec.again (r : Rec) : Rec := r.more 1

/-- The record's p1 counts occurrences: of kind 1 and 3, but those written once each (0xE003, 0xF020; log entry 491). -/
def Rec.counts (r : Rec) : Bool := (r.kind == 1 || r.kind == 3) && r.code != 0xE003 && r.code != 0xF020

/-- A block hands EVR a record of its own; EVR takes it under R414. A block holds one record of a code at a time. -/
def Dev.direct (d : Dev) (block : Nat) (r : Rec) : Dev :=
  { d with evr := { d.evr with direct := mergeRec d.evr.direct } }
where
  /-- The record joins one of its code that still waits, if the code counts occurrences. -/
  mergeRec : List (Nat × Rec) → List (Nat × Rec)
    | [] => [(block, r)]
    | x :: xs => if x.1 = block ∧ x.2.code = r.code ∧ r.counts then (block, x.2.more r.p.p1) :: xs else x :: mergeRec xs

/-- Stores the rate rule's state of one code and unit. -/
def Dev.setRate (d : Dev) (key : Nat) (r : Rate) : Dev :=
  { d with evr := { d.evr with rate := d.evr.rate.set key r {} } }

/-- A record under the rate rule of R545: immediate, or held and counted. `unit` names the port, entry, queue, engine
or context of the code's chapter. -/
def Dev.rated (d : Dev) (block code unit sev p0 p2 : Nat) (src : Nat := 0x7F) : Dev :=
  let key := code * 2 ^ 32 + unit
  let r := d.evr.rate.get key {}
  match r.held with
  | some h =>
    d.setRate key { r with held := some h.again }
  | none =>
    let rec' := d.mkRec code sev 1 src ⟨p0, 1, p2⟩
    let due := match r.last with
      | none => true
      | some t => decide (t + 1000000000 ≤ d.tickTai)
    if due then
      (d.setRate key { last := some d.tickTai, block := block }).direct block rec'
    else d.setRate key { last := r.last, held := some rec', block := block }

/-- A held record is written at the first tick at least one second after the record before (R545). -/
def Dev.heldRelease (d : Dev) (key : Nat) : Dev :=
  let r := d.evr.rate.get key {}
  match r.held, r.last with
  | some h, some t =>
    if t + 1000000000 ≤ d.tickTai then (d.setRate key { last := some d.tickTai, block := r.block }).direct r.block h else d
  | _, _ => d

/-! ### Interrupts (R117, R287) -/

/-- The combined interrupt of a page: IRQ_STAT AND IRQ_EN (R287). -/
def Dev.irqLine (d : Dev) (page : Nat) : Nat := d.rd IRQ_STAT_bits 0 page &&& d.rd IRQ_EN_bits 0 page

/-- The vectors that HST_MSIX_SRC gives to a page (R117). -/
def Dev.vectorsOf (d : Dev) (page : Nat) : List Nat :=
  (List.range 64).filter (fun k => d.flag HST_MSIX_SRCk_en k && d.rd HST_MSIX_SRCk_block k == page)

/-- This command has sent a vector's message. -/
def Dev.msixSent (d : Dev) (v : Nat) : Bool := d.out.any (fun o => match o with | .msix w _ _ => w == v | _ => false)

/-- Sends the message of a vector, or sets its PBA bit while it is masked; one message when both its sources name it at once (R117;
log entry 341). Bit 0 of the vector's fourth table word is its mask (PCI Express Base; log entry 9). -/
def Dev.msix (d : Dev) (v : Nat) : Dev :=
  if d.hst.msix.get (4 * v + 3) 1 % 2 = 1 || d.hst.allMasked then
    { d with hst := { d.hst with pba := setBitV d.hst.pba v true } }
  else if d.msixSent v then d
  else d.emit (.msix v (d.hst.msix.get (4 * v) 0 + d.hst.msix.get (4 * v + 1) 0 * 2 ^ 32) (d.hst.msix.get (4 * v + 2) 0))

/-- Sends the messages that follow from a change of a page's combined interrupt from `before` (R117). -/
def Dev.irqNote (d : Dev) (page before : Nat) : Dev :=
  if before = 0 ∧ d.irqLine page ≠ 0 then (d.vectorsOf page).foldl Dev.msix d else d

/-- An IRQ_STAT bit sets (R287). -/
def Dev.irq (d : Dev) (page bit : Nat) : Dev :=
  let before := d.irqLine page
  (d.wr IRQ_STAT_bits (d.rd IRQ_STAT_bits 0 page ||| (1 <<< bit)) 0 page).irqNote page before

/-- STATUS.fault sets; its rise sets interrupt bit 31 (R287). -/
def Dev.setFault (d : Dev) (page : Nat) : Dev :=
  if d.flag STATUS_fault 0 page then d else (d.wr STATUS_fault 1 0 page).irq page 31

/-- Captures a fault in a page's FAULT_INFO; only the first since the last soft reset is kept (R303, R304). -/
def Dev.faultInfo (d : Dev) (page kind at_ : Nat) (st : Status) (requester : Nat) : Dev :=
  let d := d.setFault page
  if d.flag FAULT_INFO_valid 0 page then d
  else (((((d.wr FAULT_INFO_valid 1 0 page).wr FAULT_INFO_kind kind 0 page).wr FAULT_INFO_where at_ 0 page).wr
    FAULT_INFO_status st.code 0 page).wr FAULT_INFO_requester requester 0 page)

end Sys2Proof.Machine
end

