-- ==== Sys2Proof/Machine/Guard.lean ====
section
/-! DEFINITION. The checks every access to a register page passes before its effect: assignment and alignment (R283,
R290), soft reset and lock clear (R27, R288), the rights of R285 and of the blocks' chapters, shadow mismatch (R289). -/

namespace Sys2Proof.Machine

open Sys2Proof

/-- The engine runs at supervisor level (R249). -/
def Dev.engSuper (d : Dev) (e : Nat) : Bool := (d.eng.get e {}).super

/-- Debug is authorised by a token, or open in life-cycle state MANUF (R355, R360). -/
def Dev.dbgActive (d : Dev) : Bool := d.flag RFG_DBG_active || d.rd LCC_STATE_state == 0

/-- The permissions in force: those of the token, all of them in MANUF, without bits 2, 3 and 6 in RETIRED. -/
def Dev.dbgPerms (d : Dev) : Nat :=
  if d.rd LCC_STATE_state = 0 then 0x7F
  else if d.flag RFG_DBG_active then
    (if d.rd LCC_STATE_state = 3 then d.rd RFG_DBG_perms &&& 0xB3 else d.rd RFG_DBG_perms)
  else 0
def Dev.dbgPerm (d : Dev) (i : Nat) : Bool := (d.dbgPerms).testBit i

/-- A world attribute (1 P, 2 S, 3 both) names a permitted world: permission 0 for P, 1 for S. -/
def Dev.dbgWorld (d : Dev) (attr : Nat) : Bool :=
  ((attr == 1 || attr == 3) && d.dbgPerm 0) || ((attr == 2 || attr == 3) && d.dbgPerm 1)

/-- The world of an engine, from ENG_WORLD: 1 P-world, 2 S-world, 0 none (R249, R285). -/
def Dev.engWorld (d : Dev) (e : Nat) : Nat := d.rd ENG_WORLD_world 0 e

/-- The world that WORLD_ACC gives a page. -/
def Dev.pageWorld (d : Dev) (page : Nat) : Nat := d.rd WORLD_ACC_world 0 page

/-- The requester acts at supervisor level of the world that owns the page: an engine of that world at supervisor
level, HST under hst_wr, DBG under dbg while debug is authorised (R285, R304). -/
def Dev.ownerSuper (d : Dev) (r : Req) (page : Nat) : Bool :=
  let w := d.pageWorld page
  w != 0 && match r with
    | .eng e => d.engWorld e.val == w && d.engSuper e.val
    | .hst => d.flag WORLD_ACC_hst_wr 0 page
    | .dbg => d.flag WORLD_ACC_dbg 0 page && d.dbgPerm 4 && d.dbgWorld w
    | _ => false

/-- The requester acts at P-world supervisor level (R64, R88). -/
def Dev.pSuper (d : Dev) (r : Req) (page : Nat) : Bool :=
  match r with
  | .eng e => d.engWorld e.val == 1 && d.engSuper e.val
  | _ => d.pageWorld page == 1 && d.ownerSuper r page

/-- R285 and the chapters' narrowing of it: may this requester write this register? -/
def Dev.mayWrite (d : Dev) (r : Req) (page off : Nat) (p : Priv) : Bool :=
  match p with
  | .std => r == .refuge || d.ownerSuper r page
  | .refuge => r == .refuge
  | .pSup => r == .refuge || d.pSuper r page
  | .raise => r == .refuge || (match r with | .eng e => d.engWorld e.val == 1 || d.engWorld e.val == 2 | _ => false)
  | .engSup => r == .refuge || (match r with
      | .eng e => d.engWorld e.val == d.engWorld (page - 0x100) && d.engWorld e.val != 0 && d.engSuper e.val
      | _ => d.pageWorld page == d.engWorld (page - 0x100) && d.ownerSuper r page)
  | .engRun => r == .refuge || (r == .dbg && d.dbgWorld (d.engWorld (page - 0x100)))
  | .bootOk => r == .refuge || (match r with
      | .eng e => d.engWorld e.val == 1 && d.engSuper e.val
      | .hst => d.flag WORLD_ACC_hst_wr 0 page
      | _ => false)
  | .pSupDbg => r == .refuge || r == .dbg || d.pSuper r page
  | .dbg => r == .refuge || r == .dbg
  | .qmg => match r with
    | .refuge => true
    | .eng _ => true
    | .hst => d.flag WORLD_ACC_hst_wr 0 page
    | .dbg => d.ownerSuper .dbg page
    | .dp _ => false
  | .any =>
    if off = 0x24 then
      (match r with
       | .refuge => true
       | .dp _ => true
       | .hst => d.flag WORLD_ACC_hst_wr 0 page
       | .eng e => d.pageWorld page != 0 && d.engWorld e.val == d.pageWorld page
       | .dbg => d.ownerSuper r page)
    else true

/-- R285: may this requester read this register? -/
def Dev.mayRead (d : Dev) (r : Req) (page off : Nat) : Bool :=
  if off = 0x000 ∨ off = 0x004 then true
  else match r with
    | .refuge => true
    | .dp _ => off == 0x24
    | .hst => d.pageWorld page != 0 && d.flag WORLD_ACC_hst_rd 0 page
    | .dbg => d.ownerSuper .dbg page
    | .eng e =>
      let w := d.pageWorld page
      let we := d.engWorld e.val
      if w = 0 ∨ we = 0 then false
      else if we = w then d.engSuper e.val || d.flag WORLD_ACC_user_rd 0 page
      else d.engSuper e.val && d.flag WORLD_ACC_other_rd 0 page

/-- The blocks that serve one user at a time and have a LOCK register (R26, R308, R337). -/
def hasLock (b : Blk) : Bool :=
  match b with
  | .cpl | .pke | .hsh => true
  | _ => false

/-- An access during the clear that follows a change of owner: the new owner's (R27), at a pipeline anyone's (R309). -/
def Dev.lockBusy (d : Dev) (r : Req) (page off : Nat) (read : Bool) : Bool :=
  d.lockClear.get page 0 != 0 && (reqId r == d.rd LOCK_owner 0 page || (decide (0x070 ≤ page) && decide (page < 0x078))) &&
    !(off == 0x24 || (read && (off == 0x000 || off == 0x004 || off == 0x00C)))

/-- The offset whose two copies an access compares: the register itself or, through the mirror, its primary (R289). -/
def shadowOff (off : Nat) : Nat := if 0x800 ≤ off then off - 0x800 else off

/-- The register at an offset is shadowed (R289). -/
def isShadowed (b : Blk) (off : Nat) : Bool :=
  match findReg b off with
  | some r => r.shadow
  | none => false

/-- The two copies of a register differ. -/
def Dev.mismatched (d : Dev) (page off : Nat) : Bool := d.shadow.get (regKey page off) 0 != 0

/-- What a found mismatch does: SHADOW_CHK, STATUS.fault, FAULT_INFO and the group's source (R289, R303). -/
def Dev.shadowFinding (d : Dev) (page off requester : Nat) : Dev :=
  let count := satAdd 255 (d.rd SHADOW_CHK_count 0 page) 1
  let d := d.wr SHADOW_CHK_count count 0 page
  let d := if d.flag SHADOW_CHK_mismatch 0 page then d
    else (d.wr SHADOW_CHK_mismatch 1 0 page).wr SHADOW_CHK_offset off 0 page
  let d := d.faultInfo page 2 off .faultDetected requester
  let d := if regKey page off ∈ d.shadowSeen then d else { d with shadowSeen := regKey page off :: d.shadowSeen }
  match pageBlock page with
  | some (b, _) => d.raise (72 + b.shadowGroup) page off count
  | none => d

/-- A mismatch ends: both copies are rewritten (R288, R289). -/
def Dev.shadowEnd (d : Dev) (page off : Nat) : Dev :=
  { d with shadow := d.shadow.set (regKey page off) 0 0, shadowSeen := d.shadowSeen.filter (· != regKey page off) }

/-- Reads the chapters narrow or widen beyond WORLD_ACC: the stamp FIFOs and the vault word for the Refuge alone (R120,
R384), the nonce for DBG without a token (R365), an engine's state for DBG under permission 0 or 1 (R360). -/
def Dev.mayReadReg (d : Dev) (r : Req) (b : Blk) (page off : Nat) : Bool :=
  match b with
  | .prt | .mgp => if 0x06C ≤ off ∧ off < 0x080 then r == .refuge else d.mayRead r page off
  | .bkd => if off = 0x06C then r == .refuge else d.mayRead r page off
  | .rfg => (r == .dbg && decide (0x050 ≤ off) && decide (off < 0x070)) || d.mayRead r page off
  | .eng => (r == .dbg && decide (0x040 ≤ off) && d.dbgWorld (d.engWorld (page - 0x100))) || d.mayRead r page off
  | _ => d.mayRead r page off

/-- A refusal a chapter adds for a write of a block register: only the owner of a single-user block writes (R308, R337);
in bivouac mode only the Refuge writes CRD's (R447). -/
def Dev.chapterRefusal (d : Dev) (b : Blk) (r : Req) (page off : Nat) : Status :=
  if off < 0x040 ∨ 0x800 ≤ off then .ok
  else match b with
    | .cpl | .pke | .hsh => if d.rd LOCK_owner 0 page = reqId r then .ok else .busy
    | .crd => if d.bivouac && r != .refuge then .denied else .ok
    | _ => .ok

/-- Registers through which an access reaches a table of its block (class 4 of R292). -/
def tableReg (b : Blk) (off : Nat) : Bool :=
  match b with
  | .evm => off == 0x048 || off == 0x058
  | .trv => off == 0x04C || off == 0x078 || off == 0x084 || (decide (0x0C4 ≤ off) && decide (off < 0x0E0))
  | .qmg => off == 0x054 || off == 0x080 || off == 0x084 || off == 0x090 || off == 0x098
  | .cnv => off == 0x504
  | .rsm | .clu => off == 0x044
  | .wfc => off == 0x044 || off == 0x064
  | .isd => off == 0x104 || off == 0x11C
  | _ => false

/-- The refusal an access meets before any effect, or ST_OK (R11, R283, R285, R288, R293). -/
def Dev.accessCheck (d : Dev) (r : Req) (page off : Nat) (read : Bool) : Status :=
  match pageBlock page with
  | none => .denied
  | some (b, _) =>
    if off % 4 ≠ 0 ∨ 0x1000 ≤ off then .denied
    else
      let busy := d.inReset.get page 0 != 0 || d.lockBusy r page off read
      let may := if read then d.mayReadReg r b page off else
        match findReg b off with
        | some g => d.mayWrite r page off (if off = 0x24 ∧ !hasLock b then .std else g.priv)
        | none => r == .refuge || d.ownerSuper r page
      pickStatus [if busy then .busy else .ok, if may then .ok else .denied, if read then .ok else d.chapterRefusal b r page off,
        if d.cclk < d.initTill ∧ tableReg b off then .notReady else .ok]

/-- A write to a register: the checks, then its effect with the status the effect gives, then STATUS last status code
(R10, R285, R289). A write that meets a mismatch has no effect; its status is the lowest of ST_FAULT_DETECTED and what the register
itself would refuse (R11). A Refuge write to a mismatched register rewrites both copies. -/
def Dev.guardedWrite (d : Dev) (r : Req) (page off : Nat) (act : Dev → Status × Dev) : Dev :=
  match pageBlock page with
  | none => d.answer .denied
  | some (b, _) =>
    if off % 4 ≠ 0 ∨ 0x1000 ≤ off then d.answer .denied
    else
      let st := d.accessCheck r page off false
      if st ≠ .ok then d.report page st
      else
        let so := shadowOff off
        let bad := isShadowed b so && d.mismatched page so
        if bad && r != .refuge then (d.shadowFinding page so (reqId r)).report page (pickStatus [.faultDetected, (act d).1])
        else
          let d := if bad && !(d.shadowSeen.contains (regKey page so)) then d.shadowFinding page so (reqId r) else d
          let (st, d) := act d
          let d := if bad && off = so && st = .ok then d.shadowEnd page so else d
          d.report page st

/-- A read of a register: the checks, then the status and value `act` gives with its side effect. -/
def Dev.guardedRead (d : Dev) (r : Req) (page off : Nat) (act : Dev → Status × Nat × Dev) : Dev :=
  match pageBlock page with
  | none => d.answer .denied
  | some (b, _) =>
    if off % 4 ≠ 0 ∨ 0x1000 ≤ off then d.answer .denied
    else
      let st := d.accessCheck r page off true
      if st ≠ .ok then d.answer st
      else
        let so := shadowOff off
        let bad := isShadowed b so && d.mismatched page so
        if bad && r != .refuge then (d.shadowFinding page so (reqId r)).answer .faultDetected
        else
          let d := if bad && !(d.shadowSeen.contains (regKey page so)) then d.shadowFinding page so (reqId r) else d
          let (st, v, d) := act d
          d.answer st v

/-- The value a write leaves in one field (R7). -/
def fieldAfter (f : FieldDesc) (old v : Nat) (locked : Bool) : Nat :=
  let o := bitsOf old f.hi f.lo
  let n := bitsOf v f.hi f.lo
  match f.acc with
  | .rw => n
  | .w1c => o - (o &&& n)
  | .wl => if locked then o else n
  | .ro => o
  | .rc => o
  | .wo => 0

/-- The word a write of `v` leaves in a register (R7, R8: reserved bits stay zero). -/
def RegDesc.wordAfter (g : RegDesc) (old v : Nat) (locked : Bool) : Nat :=
  g.fields.foldl (fun w f => setBits w f.hi f.lo (fieldAfter f old v locked)) old

/-- The plain write of a register that has no further effect, by its field types; a write to a locked WL register is
ignored and answers ST_DENIED (R7). -/
def Dev.plainWrite (d : Dev) (page off v : Nat) : Status × Dev :=
  match pageBlock page with
  | none => (.denied, d)
  | some (b, _) =>
    match findReg b off with
    | none => (.ok, d)
    | some g =>
      let key := regKey page off
      let wl := g.fields.any (fun f => f.acc == .wl)
      let locked := d.wlLocked.contains key
      let d' := d.setWord key (g.wordAfter (d.word key) v locked)
      if wl && locked then (.denied, d')
      else (.ok, if wl then { d' with wlLocked := key :: d'.wlLocked } else d')

/-- The same for a register held per requester. -/
def Dev.ownWrite (d : Dev) (req page off v : Nat) : Status × Dev :=
  match pageBlock page with
  | none => (.denied, d)
  | some (b, _) =>
    match findReg b off with
    | none => (.ok, d)
    | some g =>
      let key := regKey page off + bankKey req
      (.ok, d.setWord key (g.wordAfter (d.word key) v false))

end Sys2Proof.Machine
end

