-- ==== Sys2Proof/Machine/Time.lean ====
section
/-! DEFINITION. TIM: the TAI counter, its sources, time states, corrections and snapshot (R34 to R51, R62, R63). -/

namespace Sys2Proof.Machine

open Sys2Proof

def pgTIM : Nat := 0x002

/-- The nominal rate word: 1.25 ns in units of 2^-32 ns (R34). -/
def nominalRate : Int := 5368709120

/-- ±1,000 ppm in units of 2^-8 ppb (TIM_FREQ_ADJ). -/
def adjLimit : Int := 256000000

/-- The rate word under a rate offset in 2^-8 ppb; its last bit is not stated (log entry 3). -/
def rateWord (adj : Int) : Int := nominalRate + divFree (nominalRate * clampInt (-adjLimit) adjLimit adj) (256 * 1000000000)

/-- TIM_FREQ_ADJ as it acts: clamped to ±1,000 ppm. -/
def Dev.freqAdj (d : Dev) : Int := clampInt (-adjLimit) adjLimit (signed 32 (d.rd TIM_FREQ_ADJ_adj))

/-- TIM_SERVO.slew_ppm as it acts: 0 acts as 1, above 1,000 as 1,000. -/
def slewPpm (v : Nat) : Nat := if v = 0 then 1 else if 1000 < v then 1000 else v

/-- What one CCLK slews away at most, in 2^-32 ns (R44). -/
def slewWord (v : Nat) : Int := divFree (nominalRate * slewPpm v) 1000000

/-- The slew rate in force: a rope member removes its offset at 1,000 ppm (R476). -/
def Dev.slewRate (d : Dev) : Int := slewWord (if d.flag TIM_CFG_rope_follow then 1000 else d.rd TIM_SERVO_slew_ppm)

/-- What the counter gains in `n` CCLK: the rate, and the slew of a remainder `rem` by at most `sl` a CCLK. -/
def advanceBy (n : Nat) (rate sl rem : Int) : Int :=
  if 0 ≤ rem then n * rate + min (n * sl) rem else n * rate - min (n * sl) (-rem)

/-- The least number of CCLK, at least one, in which the counter gains `need` (R48): the slew adds to the rate until it has used the
remainder up. -/
def cclkFor (need rate sl rem : Int) : Nat :=
  let up (a b : Int) : Int := if b ≤ 0 then 0 else (a + b - 1) / b
  let slewed := up (need - rem) rate
  let n := if 0 ≤ rem then max (up need (rate + sl)) slewed else min (up need (rate - sl)) slewed
  (max 1 n).toNat

/-- The device follows a rope leader's time (R51). -/
def Dev.follower (d : Dev) : Bool := d.flag TIM_CFG_rope_follow

/-- The rate offset in force: the holdover rate in HOLDOVER and HOLD_EXPIRED, the effective TIM_FREQ_ADJ else (R42,
R43). -/
def Dev.effAdj (d : Dev) : Int :=
  if d.rd TIM_STATE_state = 3 ∨ d.rd TIM_STATE_state = 4 then d.tim.holdRate else d.tim.freqEff

/-- The counter `off` CCLK after the last tick's CCLK, in 2^-32 ns. -/
def Dev.counterAt (d : Dev) (off : Nat) : Nat :=
  (d.tim.tai + advanceBy off (rateWord d.effAdj) d.slewRate d.tim.rem).toNat % 2 ^ 96

/-- Source `c` (1 PTP, 2 1PPS, 3 IRIG-B) is qualified. -/
def Dev.qualified (d : Dev) (c : Nat) : Bool := (d.rd TIM_STATE_qualified).testBit (c - 1)

/-- Sets the qualification of a source and notes since when it holds, `off` CCLK after the last tick (R37). A follower's own sources do
not qualify (R51). -/
def Dev.setQual (d : Dev) (c : Nat) (b : Bool) (off : Nat := 0) : Dev :=
  let b := b && !d.follower
  let q := d.rd TIM_STATE_qualified
  if b = q.testBit (c - 1) then d
  else
    let d := d.wr TIM_STATE_qualified (setBits q (c - 1) (c - 1) (b2n b))
    if b then { d with tim := { d.tim with qualSince := d.tim.qualSince.set c (d.cclk + off + 1) 0 } } else d

/-- The source codes in slot order (R36). -/
def Dev.srcOrder (d : Dev) : List Nat :=
  [d.rd TIM_SRC_PRIO_slot0, d.rd TIM_SRC_PRIO_slot1, d.rd TIM_SRC_PRIO_slot2, d.rd TIM_SRC_PRIO_slot3].filter (· != 0)

/-- The first qualified source in slot order, or 0 (R36). -/
def Dev.bestSource (d : Dev) : Nat := (d.srcOrder.find? d.qualified).getD 0

/-- The mean effective rate offset over the time spent in LOCKED that `hist` covers (R43). -/
def meanAdj (hist : List (Nat × Int)) : Int :=
  divFree (hist.foldl (fun s h => s + h.1 * h.2) 0) (hist.foldl (fun s h => s + h.1) (0 : Nat))

/-- Adds LOCKED time, in CCLK, to the history, keeping its newest 64 s (R43). -/
def pushLocked (m : Nat) (adj : Int) (hist : List (Nat × Int)) : List (Nat × Int) :=
  let merged := match hist with
    | (n, a) :: t => if a = adj then (n + m, a) :: t else (m, adj) :: hist
    | [] => [(m, adj)]
  (merged.foldl (fun (acc : Nat × List (Nat × Int)) h =>
    if 64 * cclkPerS ≤ acc.1 then acc
    else (acc.1 + h.1, (min h.1 (64 * cclkPerS - acc.1), h.2) :: acc.2)) (0, [])).2.reverse

/-- Entry into HOLDOVER: the 10 MHz input corrected by its offset, or the mean of LOCKED time (R43). -/
def Dev.enterHoldover (d : Dev) : Dev :=
  let d := (d.wr TIM_STATE_state 3).wr TIM_STATE_hold_elapsed 0
  ({ d with tim := { d.tim with
      holdSince := d.cclk
      holdRate := if d.flag TIM_STATE_ext10_active then d.tim.ext10 - d.tim.ext10Ofs else meanAdj d.tim.lockHist } }).raise 641

/-- Entry into ACQUIRING: writes stored in HOLDOVER take effect (R43). -/
def Dev.enterAcquiring (d : Dev) : Dev :=
  let d := (d.wr TIM_STATE_state 1).wr TIM_STATE_hold_elapsed 0
  ({ d with tim := { d.tim with
      rem := d.tim.storedPhase.getD d.tim.rem
      storedPhase := none
      freqEff := if d.tim.storedFreq then d.freqAdj else d.tim.freqEff
      storedFreq := false } }).raise 643

/-- A source of higher priority that has been qualified for revert_s seconds when the reversion is due (R37). -/
def Dev.revertSource (d : Dev) (act : Nat) : Option Nat :=
  if d.tim.revert && d.rd TIM_CFG_revert_s != 0 then
    (d.srcOrder.takeWhile (· != act)).find? (fun c =>
      d.qualified c && decide (d.tim.qualSince.get c 0 + d.rd TIM_CFG_revert_s * cclkPerS ≤ d.cclk + 1))
  else none

/-- The CCLK of the next tick. -/
def Dev.nextCclk (d : Dev) : Nat :=
  d.cclk + cclkFor (d.tim.nextTick * 2 ^ 32 - d.tim.tai) (rateWord d.effAdj) d.slewRate d.tim.rem

/-- Selection of the active source and the change of the time state that follows, once per tick (R36, R37, R42). A rope member's state
follows the rope (R473, R476). -/
def Dev.timSelect (d : Dev) : Dev :=
  if d.follower then d else
  let act := d.rd TIM_STATE_active_src
  let act' := if act != 0 && d.qualified act && d.srcOrder.contains act then (d.revertSource act).getD act else d.bestSource
  let d := ({ d with tim := { d.tim with revert := false } }).wr TIM_STATE_active_src act'
  let locked := d.flag TIM_SERVO_locked
  let changed := act' != act
  match d.rd TIM_STATE_state with
  | 0 => if act' != 0 then d.enterAcquiring else d
  | 1 =>
    if act' = 0 then
      if d.flag TIM_STATE_ever_locked then d.enterHoldover else (d.wr TIM_STATE_state 0).raise 643
    else if locked then ((d.wr TIM_STATE_state 2).wr TIM_STATE_ever_locked 1).raise 640
    else if changed then d.raise 643 else d
  | 2 =>
    if act' = 0 then d.enterHoldover
    else if !locked || changed then d.enterAcquiring
    else d
  | _ => if act' != 0 then d.enterAcquiring else d

/-- The first multiple of 50 ns at or after a counter value in 2^-32 ns. -/
def nextGrid (tai : Nat) : Nat := ceilDiv tai (50 * 2 ^ 32) * 50

/-- A forward move of the counter by `ns` at a tick: the skipped ticks are not generated, and EV0644 comes with the next
(R45). -/
def Dev.moveForward (d : Dev) (ns : Nat) : Dev :=
  let tai := (d.tim.tai + ns * 2 ^ 32) % 2 ^ 96
  { d with tim := { d.tim with
      tai := tai
      nextTick := max (nextGrid tai) (d.tim.lastTick + 50)
      stepEvent := some (d.tim.stepEvent.getD 0 + ns) } }

/-- The corrections written since the last tick take effect in the order of R47. The fraction of the counter after an absolute set is a DESIGN CHOICE, log entry 493. -/
def Dev.applyCorrections (d : Dev) : Dev :=
  let p := d.tim.pend
  let d := { d with tim := { d.tim with stepped := p.set.isSome || (p.step.map (fun v => decide (0 < v))).getD false } }
  let held := d.rd TIM_STATE_state = 3 ∨ d.rd TIM_STATE_state = 4
  let d := match p.set with
    | none => d
    | some v =>
      if d.taiNs < v then d.moveForward (v - d.taiNs)
      else if v < d.taiNs then { d with tim := { d.tim with tai := v * 2 ^ 32, nextTick := d.tim.lastTick + 50 } }
      else d
  let d := match p.step with
    | none => d
    | some v =>
      let d := d.wr TIM_STEP_ns 0
      if 0 < v then d.moveForward v.toNat
      else { d with tim := { d.tim with rem := d.tim.rem + v * 2 ^ 32 } }
  let d := if p.freq then
      if held then { d with tim := { d.tim with storedFreq := true } }
      else { d with tim := { d.tim with freqEff := d.freqAdj } }
    else d
  let d := match p.phase with
    | none => d
    | some v =>
      if held then { d with tim := { d.tim with storedPhase := some (v * 2 ^ 32) } }
      else { d with tim := { d.tim with rem := v * 2 ^ 32 } }
  { d with tim := { d.tim with pend := ⟨none, none, false, none⟩ } }

/-- PPS_OUT's width in CCLK (R50). -/
def ppsWidth (code : Nat) : Nat :=
  match code with
  | 0 => cclkPerUs
  | 1 => 100 * cclkPerUs
  | 2 => cclkPerMs
  | _ => 200 * cclkPerMs

/-- PPS_OUT at a tick: it rises at a whole second and falls when its width has passed (R50). -/
def Dev.ppsOutTick (d : Dev) : Dev :=
  if d.tim.lastTick % 1000000000 = 0 ∧ d.flag TIM_CFG_pps_out_en then
    ({ d with tim := { d.tim with ppsOutTill := some (d.cclk + ppsWidth (d.rd TIM_CFG_pps_out_width)) } }).emit (.ppsOut true)
  else match d.tim.ppsOutTill with
    | some t => if t ≤ d.cclk then ({ d with tim := { d.tim with ppsOutTill := none } }).emit (.ppsOut false) else d
    | none => d

/-- EV0649 once per second while two qualified time-of-day sources differ (R41). The PTP second is the counter's, which
PTP steers (log entry 12). -/
def Dev.todCheck (d : Dev) : Dev :=
  if d.tim.lastTick % 1000000000 = 0 ∧ d.qualified 1 ∧ d.qualified 3 ∧ d.tim.irigDiff ≠ 0 then d.raise 649 else d

/-- The counter runs on to the tick: `n` CCLK pass, the phase remainder is slewed, the tick's value is the grid value
(R34, R44, R48). -/
def Dev.runToTick (d : Dev) : Dev :=
  let rate := rateWord d.effAdj
  let sl := d.slewRate
  let n := cclkFor (d.tim.nextTick * 2 ^ 32 - d.tim.tai) rate sl d.tim.rem
  let gain := advanceBy n rate sl d.tim.rem
  let rem := if 0 ≤ d.tim.rem then d.tim.rem - min (n * sl) d.tim.rem else d.tim.rem + min (n * sl) (-d.tim.rem)
  { d with
    cclk := d.cclk + n
    ticks := d.ticks + 1
    tim := { d.tim with
      tai := (d.tim.tai + gain).toNat % 2 ^ 96
      rem := rem
      lastTick := d.tim.nextTick
      nextTick := d.tim.nextTick + 50 } }

/-- The 10 MHz input's measurement in LOCKED, and the steering from it in holdover (R35, R43). -/
def Dev.ext10Tick (d : Dev) (ext10 : Int) : Dev :=
  let d := { d with tim := { d.tim with ext10 := ext10 } }
  if d.flag TIM_STATE_ext10_active then
    if d.rd TIM_STATE_state = 2 then { d with tim := { d.tim with ext10Ofs := ext10 - d.tim.freqEff } }
    else if d.rd TIM_STATE_state = 3 ∨ d.rd TIM_STATE_state = 4 then
      { d with tim := { d.tim with holdRate := ext10 - d.tim.ext10Ofs } }
    else d
  else d

/-- EV0644 comes with the first tick after a forward move, its parameter the step (R45). -/
def Dev.stepEventTick (d : Dev) : Dev :=
  match d.tim.stepEvent with
  | some s => ({ d with tim := { d.tim with stepEvent := none } }).raise 644 (s % 2 ^ 32) (s / 2 ^ 32 % 2 ^ 32)
  | none => d

/-- LOCKED time, `n` CCLK of it, goes into the history the holdover rate is taken from (R43). -/
def Dev.lockedTick (d : Dev) (n : Nat) : Dev :=
  if d.rd TIM_STATE_state = 2 then
    { d with tim := { d.tim with lockHist := pushLocked n d.tim.freqEff d.tim.lockHist } }
  else d

/-- TIM_STATE.hold_elapsed: whole seconds in HOLDOVER or HOLD_EXPIRED. -/
def Dev.holdTick (d : Dev) : Dev :=
  if d.rd TIM_STATE_state = 3 ∨ d.rd TIM_STATE_state = 4 then
    d.wr TIM_STATE_hold_elapsed (min 0xFFFF ((d.cclk - d.tim.holdSince) / cclkPerS))
  else d

/-- TIM's part of a tick: the counter, the corrections, the sources and the time state. -/
def Dev.timTick (d : Dev) (ext10 : Int) : Dev :=
  ((((d.runToTick.lockedTick (d.runToTick.cclk - d.cclk)).stepEventTick.applyCorrections).ext10Tick
    ext10).timSelect.holdTick).todCheck.ppsOutTick

/-! ### 1PPS (R38) -/

/-- An edge of PPS_IN `off` CCLK after the last tick. -/
def Dev.ppsEdge (d : Dev) (rising : Bool) (off : Nat) : Dev :=
  if rising = d.flag TIM_CFG_pps_in_pol then d
  else
    let c := d.counterAt off / 2 ^ 32
    let d := d.wr64 TIM_PPS_CAP_LO_tai TIM_PPS_CAP_HI_tai c
    let good := match d.tim.ppsLast with
      | none => false
      | some l => decide (l + 999990000 ≤ c ∧ c ≤ l + 1000010000)
    let n := if good then d.tim.ppsGood + 1 else 1
    let was := d.qualified 2
    let d := { d with tim := { d.tim with ppsLast := some c, ppsLastCclk := d.cclk + off, ppsGood := min 4 n } }
    if good then d.setQual 2 (was || decide (4 ≤ n)) off
    else if was then ((d.setQual 2 false).raise 647) else d

/-- No edge for 1.1 s at the next tick: a qualified 1PPS is disqualified with EV0646, and the count restarts. -/
def Dev.ppsTimeout (d : Dev) : Dev :=
  if d.tim.ppsLast.isSome ∧ d.tim.ppsLastCclk + 880000000 ≤ d.nextCclk then
    let was := d.qualified 2
    let d := { d with tim := { d.tim with ppsLast := none, ppsGood := 0 } }
    if was then (d.setQual 2 false).raise 646 else d
  else d

/-! ### IRIG-B (R39) -/

/-- A two-digit BCD value, none where a digit is invalid. -/
def bcd2 (v : Nat) : Option Nat := if v % 16 ≤ 9 ∧ v / 16 ≤ 9 then some (v / 16 * 10 + v % 16) else none

/-- Days from 1970-01-01 to the first of January of a year; fewer than none before 1970. -/
def daysToYear (y : Nat) : Int :=
  ((y : Int) - 1970) * 365 + (((y : Int) - 1) / 4 - 1969 / 4) - (((y : Int) - 1) / 100 - 1969 / 100) + (((y : Int) - 1) / 400 - 1969 / 400)

/-- The TAI second a frame decodes to, none on an invalid digit (R39). The century of a coded two-digit year is 20xx
(log entry 13). -/
def Dev.irigSecond (d : Dev) (f : IrigFrame) : Option Int :=
  let day := if f.day % 16 ≤ 9 ∧ f.day / 16 % 16 ≤ 9 ∧ f.day / 256 ≤ 9 then
    some (f.day / 256 * 100 + f.day / 16 % 16 * 10 + f.day % 16) else none
  let year := if f.expr.val < 4 ∨ d.flag TIM_IRIG_CFG_year_src then some (d.rd TIM_IRIG_CFG_year)
    else (bcd2 f.year).map (· + 2000)
  match bcd2 f.sec, bcd2 f.min, bcd2 f.hour, day, year with
  | some s, some m, some h, some dd, some y =>
    some (((daysToYear y + dd - 1) * 86400 + h * 3600 + m * 60 + s)
      - signed 8 (d.rd TIM_IRIG_CFG_local_offset) * 1800 + signed 16 (d.rd TIM_UTC_tai_utc))
  | _, _, _, _, _ => none

/-- A frame received on the selected input, its on-time `off` CCLK after the last tick. -/
def Dev.irigFrame (d : Dev) (f : IrigFrame) (off : Nat) : Dev :=
  if !d.flag TIM_IRIG_CFG_en || f.amplitude != d.flag TIM_IRIG_CFG_format then d
  else
    let c := d.counterAt off / 2 ^ 32
    let d := { d with tim := { d.tim with irigLastCclk := d.cclk + off } }
    let sec := if f.markersOk then d.irigSecond f else none
    let good := match sec, d.tim.irigLast with
      | some s, some l => decide (s = (l : Int) + 1)
      | some s, none => decide (0 ≤ s)
      | none, _ => false
    if good then
      let s := (sec.getD 0).toNat
      let n := d.tim.irigGood + 1
      let d := (d.wr TIM_IRIG_STAT_last_ok 1).wr64 TIM_IRIG_TAI_LO_tai TIM_IRIG_TAI_HI_tai c
      let d := { d with tim := { d.tim with
        irigLast := some s
        irigGood := min 2 n
        irigBad := 0
        irigDiff := (s : Int) - ((c + 500000000) / 1000000000 : Nat) } }
      if 2 ≤ n then d.setQual 3 true off else d
    else
      let bad := d.tim.irigBad + 1
      let d := ((d.bump TIM_IRIG_STAT_frame_err).wr TIM_IRIG_STAT_last_ok 0).raise 648
      let d := { d with tim := { d.tim with irigGood := 0, irigBad := min 2 bad } }
      if 2 ≤ bad then ({ d with tim := { d.tim with irigLast := none } }).setQual 3 false else d

/-- No frame for 2.5 s at the next tick (R39). -/
def Dev.irigTimeout (d : Dev) : Dev :=
  if d.tim.irigLastCclk + 2000000000 ≤ d.nextCclk then
    ({ d with tim := { d.tim with irigLast := none, irigGood := 0 } }).setQual 3 false
  else d

/-! ### 10 MHz input (R35, R43, R62) -/

/-- Presence of the 10 MHz input shows in qualified bit 15; holdover is steered from it only while ext10_en is 1 (R35, R63). -/
def Dev.ext10Update (d : Dev) : Dev :=
  let on := d.tim.ext10Present && d.flag TIM_CFG_ext10_en
  (d.wr TIM_STATE_qualified (setBits (d.rd TIM_STATE_qualified) 3 3 (b2n d.tim.ext10Present))).wr TIM_STATE_ext10_active (b2n on)

/-- The signal is lost: EV0650 while ext10_en is 1; in holdover the rate that then holds is not stated (log entry 14). -/
def Dev.ext10Loss (d : Dev) : Dev :=
  let was := d.flag TIM_STATE_ext10_active
  let d := ({ d with tim := { d.tim with ext10Present := false } }).ext10Update
  if was then
    let d := d.raise 650
    if d.rd TIM_STATE_state = 3 ∨ d.rd TIM_STATE_state = 4 then
      let (v, d) := d.draw .ext10LostRate
      { d with tim := { d.tim with holdRate := clampInt (-adjLimit) adjLimit (signed 32 v) } }
    else d
  else d

def Dev.ext10Return (d : Dev) : Dev := ({ d with tim := { d.tim with ext10Present := true } }).ext10Update

/-! ### Register writes of TIM -/

/-- TIM_SERVO: lock, PTP qualification, slew rate and the heartbeat (R40). -/
def Dev.timServoWrite (d : Dev) (v : Nat) : Status × Dev :=
  let d := (d.plainWrite pgTIM 0x04C v).2
  let d := { d with tim := { d.tim with servoAt := d.cclk } }
  (.ok, d.setQual 1 (d.flag TIM_SERVO_ptp_qual))

/-- TIM_PHASE_ADJ (R44, R47). -/
def Dev.timPhaseWrite (d : Dev) (v : Nat) : Status × Dev :=
  (.ok, { d with tim := { d.tim with pend := { d.tim.pend with phase := some (signed 32 v) } } })

/-- TIM_STEP (R45, R51). -/
def Dev.timStepWrite (d : Dev) (v : Nat) : Status × Dev :=
  let n := signed 32 v
  if d.follower then (.denied, d)
  else if n = 0 then (.ok, d)
  else if n < 0 ∧ d.flag TIM_STATE_ever_locked then (.denied, d.raise 645)
  else (.ok, ({ d with tim := { d.tim with pend := { d.tim.pend with step := some n } } }).wr TIM_STEP_ns v)

/-- TIM_SET_HI commits an absolute set (R46, R51). -/
def Dev.timSetCommit (d : Dev) (v : Nat) : Status × Dev :=
  if d.follower then (.denied, d)
  else if d.flag TIM_STATE_ever_locked then (.denied, d.raise 645)
  else (.ok, { d with tim := { d.tim with pend := { d.tim.pend with set := some (v * 2 ^ 32 + d.tim.setLo) } } })

def Dev.timSetLoWrite (d : Dev) (v : Nat) : Status × Dev :=
  if d.follower then (.denied, d) else (.ok, { d with tim := { d.tim with setLo := v } })

/-- TIM_SNAP.req clears valid and asks for a capture at the next tick (R62). -/
def Dev.timSnapWrite (d : Dev) (v : Nat) : Status × Dev :=
  if bitOf v 0 then (.ok, ({ d with tim := { d.tim with snapReq := true } }).wr TIM_SNAP_valid 0) else (.ok, d)

def Dev.timFreqWrite (d : Dev) (v : Nat) : Status × Dev :=
  let d := (d.plainWrite pgTIM 0x058 v).2
  (.ok, { d with tim := { d.tim with pend := { d.tim.pend with freq := true } } })

def Dev.timCfgWrite (d : Dev) (v : Nat) : Status × Dev := (.ok, (d.plainWrite pgTIM 0x040 v).2.ext10Update)

def Dev.timPrioWrite (d : Dev) (v : Nat) : Status × Dev :=
  if d.follower then (.denied, d) else d.plainWrite pgTIM 0x048 v

/-- TIM_UTC: a change raises EV0651 (R62). -/
def Dev.timUtcWrite (d : Dev) (v : Nat) : Status × Dev :=
  let old := d.rd TIM_UTC_tai_utc
  let d := (d.plainWrite pgTIM 0x06C v).2
  (.ok, if d.rd TIM_UTC_tai_utc = old then d else d.raise 651)

/-- The writes of the TIM page. -/
def Dev.timWrite (d : Dev) (off v : Nat) : Status × Dev :=
  match off with
  | 0x040 => d.timCfgWrite v
  | 0x048 => d.timPrioWrite v
  | 0x04C => d.timServoWrite v
  | 0x058 => d.timFreqWrite v
  | 0x05C => d.timPhaseWrite v
  | 0x060 => d.timStepWrite v
  | 0x064 => d.timSetLoWrite v
  | 0x068 => d.timSetCommit v
  | 0x06C => d.timUtcWrite v
  | 0x088 => d.timSnapWrite v
  | _ => d.plainWrite pgTIM off v

/-! ### Timers of TIM -/

/-- No TIM_SERVO write for 3 s at the next tick clears ptp_qual and locked, which that tick's selection sees (R40). -/
def Dev.servoHeartbeat (d : Dev) : Dev :=
  if (d.flag TIM_SERVO_ptp_qual || d.flag TIM_SERVO_locked) && decide (d.tim.servoAt + 3 * cclkPerS ≤ d.nextCclk) then
    ((d.wr TIM_SERVO_ptp_qual 0).wr TIM_SERVO_locked 0).setQual 1 false
  else d

/-- A higher-priority source has been qualified for revert_s seconds: the next selection takes it (R37). -/
def Dev.sourceRevert (d : Dev) : Dev := { d with tim := { d.tim with revert := true } }

/-- HOLDOVER has lasted hold_limit seconds (R42). -/
def Dev.holdLimit (d : Dev) : Dev :=
  let lim := d.rd TIM_CFG_hold_limit
  if d.rd TIM_STATE_state = 3 ∧ lim ≠ 0 ∧ d.tim.holdSince + lim * cclkPerS ≤ d.cclk then
    (d.wr TIM_STATE_state 4).raise 642
  else d

end Sys2Proof.Machine
end

