-- ==== Sys2Proof/Machine/Trig.lean ====
section
/-! DEFINITION. Circular functions in fixed point, for what the spec defines by them: the orbit trackers' window (R55) and the
resamplers' reconstruction (R194). Angles count 2^-32 cycle, sines 2^-60. -/

namespace Sys2Proof.Machine

/-- 1 and half of π in 2^-60. -/
def one60 : Int := 1152921504606846976
def halfPi60 : Int := 1811004864519280711

/-- The sine of an angle of at most a quarter turn, in 2^-60 rad, by its series to the 25th power. -/
def sinSeries (x : Int) : Int :=
  ((List.range 12).foldl (fun (s : Int × Int) i =>
    let t := -(s.2 * x / one60 * x / one60 / ((2 * i + 2 : Nat) * (2 * i + 3 : Nat)))
    (s.1 + t, t)) (x, x)).1

/-- The sine of `r` of 2^30 parts of a quarter turn. -/
def sinQuarter (r : Nat) : Int := sinSeries (r * halfPi60 / 1073741824)

def sin60 (θ : Nat) : Int :=
  let r := θ % 1073741824
  match θ / 1073741824 % 4 with
  | 0 => sinQuarter r
  | 1 => sinQuarter (1073741824 - r)
  | 2 => -sinQuarter r
  | _ => -sinQuarter (1073741824 - r)

def cos60 (θ : Nat) : Int := sin60 (θ + 1073741824)

/-- arctan 2^-i, in 2^-48 cycle. -/
def atanTable : List Int :=
  [35184372088832, 20770547670515, 10974586953444, 5570871696862, 2796246208089, 1399486241028, 699913886760, 349978300884,
    174991820497, 87496244017, 43748163730, 21874087080, 10937044192, 5468522177, 2734261099, 1367130551, 683565276, 341782638,
    170891319, 85445659, 42722830, 21361415, 10680707, 5340354, 2670177, 1335088, 667544, 333772, 166886, 83443, 41722, 20861,
    10430, 5215, 2608, 1304, 652, 326, 163, 81]

/-- The angle of the vector (x, y) in 2^-48 cycle, from -2^47 to 2^47. -/
def angleOf (x y : Int) : Int :=
  let v : Int × Int × Int :=
    if 0 ≤ x then (x, y, 0) else if 0 ≤ y then (y, -x, 70368744177664) else (-y, x, -70368744177664)
  (atanTable.foldl (fun (s : (Int × Int × Int) × Int) a =>
    let (x, y, z) := s.1
    (if 0 ≤ y then (x + y / s.2, y - x / s.2, z + a) else (x - y / s.2, y + x / s.2, z - a), 2 * s.2)) (v, 1)).1.2.2

/-- The integer part of a square root below 2^64. -/
def isqrt (n : Nat) : Nat :=
  (List.range 64).foldl (fun r i => if (r + 2 ^ (63 - i)) * (r + 2 ^ (63 - i)) ≤ n then r + 2 ^ (63 - i) else r) 0

/-! ### The reconstruction kernel (R194) -/

/-- Σ q^k / (k!)^2 with q in 2^-40: the Bessel function I0 of 2·√q. -/
def bessel (q : Nat) : Nat :=
  ((List.range 40).foldl (fun (s : Nat × Nat) i =>
    let t := s.2 * q / 2 ^ 40 / ((i + 1) * (i + 1))
    (s.1 + t, t)) (2 ^ 40, 2 ^ 40)).1

/-- One over the gain of a CIC of order 5 that decimates `rIn` samples/s by `p`, at (2k + 1)/256 of the kernel rate `rk` (in 2^-24 Hz),
in 2^-60 (R194). -/
def cicInverse (p rIn rk k : Nat) : Int :=
  let x : Int := ((2 * k + 1) * rk * p * 2 : Nat) * halfPi60 / (rIn * 4294967296 : Nat)
  let g := p * sinSeries (x / p) * one60 / sinSeries x
  g * g / one60 * g / one60 * g / one60 * g / one60

/-- The prefilter's droop to invert, at 64 frequencies up to half the kernel rate; none without a prefilter. -/
def droopInverse (p rIn rk : Nat) : List Int := if p ≤ 1 then [] else (List.range 64).map (cicInverse p rIn rk)

/-- The impulse response, `u` taps (in 2^-32) from its centre, of a filter with these gains up to half the kernel rate; a sinc where
the gain is 1 throughout. -/
def bandTap (gains : List Int) (u : Nat) : Int :=
  if gains.isEmpty then
    if u = 0 then one60 else sin60 (u / 2) * 4294967296 * one60 / (2 * halfPi60 * (u : Int))
  else (gains.zipIdx.foldl (fun s g => s + g.1 * cos60 ((2 * g.2 + 1) * u / 256) / one60) 0) / 64

/-- The weight of an input sample `u` taps (in 2^-32) away: 32 taps under a Kaiser window of parameter 9, which pass 0 to 0.4 r_k with
the prefilter's droop inverted and attenuate components above 0.6 r_k by more than 80 dB (R194; log entry 24). -/
def kernelTap (gains : List Int) (u : Int) : Int :=
  let lim : Int := 16 * 4294967296
  if u.natAbs ≥ lim.natAbs then 0
  else
    let s := bandTap gains u.natAbs
    let q := (81 * 2 ^ 40 / 4 : Nat) * (lim * lim - u * u).toNat / (lim * lim).toNat
    s * (bessel q : Int) / 2 ^ 40

/-- The reconstruction at `t` of samples at their times in 2^-16 ns, for a kernel rate r_k in 2^-24 Hz: unit gain at 0 Hz. -/
def reconstruct (gains : List Int) (hist : List (Nat × Int)) (t rk : Nat) : Int :=
  let s := hist.foldl (fun (s : Int × Int) h =>
    let w := kernelTap gains (((h.1 : Int) - t) * rk / 256000000000)
    (s.1 + w * h.2, s.2 + w)) (0, 0)
  if s.2 = 0 then 0 else (2 * s.1 + s.2) / (2 * s.2)

end Sys2Proof.Machine
end

