-- ==== Sys2Proof/Machine/Orbit.lean ====
section
/-! DEFINITION. ORB: the four orbit trackers and the sixteen comparators (R52 to R64, R543, R544). -/

namespace Sys2Proof.Machine

open Sys2Proof

def pgORB : Nat := 0x003

/-- Position units, 2^-32 of a cycle, in a cycle and in an orbit step (R52). -/
def orbCycle : Nat := 4294967296
def orbStep : Nat := 65536

/-- A tracker that has never started (R52). -/
def orb0 : Orb := {}

def Dev.orbit (d : Dev) (n : Nat) : Orb := d.orb.get n orb0
def Dev.setOrbit (d : Dev) (n : Nat) (o : Orb) : Dev := { d with orb := d.orb.set n o orb0 }

/-- ORBn_STATE.state (R57). -/
def Dev.orbState (d : Dev) (n : Nat) : Nat := d.rd ORBn_STATE_state n

/-- The position as the pair (cycle, angle) in steps (R52, R60). -/
def Dev.orbSteps (d : Dev) (n : Nat) : Nat := (d.orbit n).vis / orbStep

/-- Nominal frequency in 2^-24 Hz (ORBn_CFG.nominal). -/
def Dev.orbNominal (d : Dev) (n : Nat) : Int := (if d.flag ORBn_CFG_nominal n then 60 else 50) * 16777216

/-- The loop's ω in rad/s (R544 and the table before it). -/
def orbOmega (bw : Nat) : Int := match bw with | 0 => 8 | 1 => 16 | _ => 32

/-- The line through two samples at a time. -/
def lineAt (a b : Nat × Int) (t : Int) : Int :=
  if a.1 = b.1 then b.2 else b.2 + divFree ((a.2 - b.2) * (t - b.1)) ((a.1 : Int) - b.1)

/-- The source's value at a time in 2^-16 ns, on the line between the samples around it (newest first). -/
def orbValueAt (ss : List (Nat × Int)) (t : Nat) : Option Int :=
  match (ss.filter (fun s => decide (t ≤ s.1))).getLast?, ss.find? (fun s => decide (s.1 ≤ t)) with
  | some a, some b => some (lineAt a b t)
  | _, _ => none

/-- Updates whose instant the source's samples have reached enter the window with their x (R55; log entry 4). -/
def Orb.settle (o : Orb) : Orb :=
  let newest := (o.samples.head?.map (·.1)).getD 0
  let due := o.waiting.filter (fun w => decide (w.1 * 65536 ≤ newest))
  { o with
    waiting := o.waiting.filter (fun w => decide (newest < w.1 * 65536))
    window := (due.filterMap (fun w => (orbValueAt o.samples (w.1 * 65536)).map (fun x => (x, w.2))) ++ o.window).take 64 }

/-- A nominal cycle in 2^-16 ns. -/
def Dev.orbPeriod (d : Dev) (n : Nat) : Nat := (if d.flag ORBn_CFG_nominal n then 16666667 else 20000000) * 65536

/-- A sample at `t` counts in the nominal cycle it falls in; a cycle that ends with fewer than 64 marks the source (R55). -/
def Orb.counted (o : Orb) (t per : Nat) : Orb :=
  if t < o.cycStart then o
  else if t < o.cycStart + per then { o with cycSamples := o.cycSamples + 1 }
  else
    { o with
      few := decide (o.cycSamples < 64 ∨ o.cycStart + 2 * per ≤ t)
      cycStart := o.cycStart + (t - o.cycStart) / per * per
      cycSamples := 1 }

/-- A sample of a tracker's source, stamped with its own sampling time in 2^-16 ns (R55), in 2^-23 of full scale. -/
def Dev.orbSample (d : Dev) (n t : Nat) (x : Int) : Dev :=
  if d.orbState n = 0 then d
  else
    let o := (d.orbit n).counted t (d.orbPeriod n)
    d.setOrbit n ({ o with samples := ((t, x) :: o.samples).take 256, late := max o.late (d.tickTai * 65536 - t) }).settle

/-- A sample fell within the update interval that ends at `t`, as far as samples come late (R57; log entry 4). -/
def Orb.sampledTo (o : Orb) (t : Nat) : Bool :=
  o.samples.any (fun s => decide (o.lastUpdate * 65536 < s.1 + o.late) && decide (s.1 + o.late ≤ t * 65536))

/-- Enters COAST: the frequency is frozen within 40 to 70 Hz, and a rate beyond 10 Hz/s has returned (R59); with coast_cycles 0 the
tracker passes on to NOMINAL (R57, R58). -/
def Dev.orbLose (d : Dev) (n : Nat) : Dev :=
  let o := d.orbit n
  let d := d.setOrbit n { o with
    f := clampInt (40 * 16777216) (70 * 16777216) o.f, a := 0, lockCount := 0, highCount := 0, overRate := false }
  let d := if o.overRate then d.raise (661 + 8 * n) else d
  let d := ((d.wr ORBn_STATE_state 3 n).wr ORBn_STATE_coasted 0 n).raise (657 + 8 * n)
  if d.rd ORBn_CFG_coast_cycles n = 0 then
    let o := d.orbit n
    ((d.setOrbit n { o with toNominal := true }).wr ORBn_STATE_state 4 n).raise (658 + 8 * n)
  else d

/-- Σ x·e^(-i·2π·θ) over a window, in 2^-83 of full scale (R55). -/
def orbSum (win : List (Int × Nat)) : Int × Int :=
  win.foldl (fun s w => (s.1 + w.1 * cos60 w.2, s.2 - w.1 * sin60 w.2)) (0, 0)

/-- e_k = arg(i·Z)/(2π) in 2^-32 cycle; the last bit is not stated (log entries 3 and 4). -/
def orbPhaseErr (win : List (Int × Nat)) : Int :=
  let z := orbSum win
  if z.1 = 0 ∧ z.2 = 0 then (Config.orbitPhase win).toInt else divFree (angleOf (-z.2) z.1) 65536

/-- A_k = |Z| in 1/65,536 of full scale, for Z = 2/n times the sum. -/
def orbAmpl (win : List (Int × Nat)) : Nat :=
  let z := orbSum win
  let re := z.1 / 2 ^ 40
  let im := z.2 / 2 ^ 40
  (divFree (2 * (isqrt (re * re + im * im).toNat : Int)) ((win.length * 2 ^ 27 : Nat) : Int)).toNat

/-- What an update at the tick `t` gives (R55, R58, R544). While no sample has met an update, the window is empty: no phase error, no
amplitude. -/
def Dev.orbCompute (d : Dev) (n t : Nat) : OrbFix :=
  let o := d.orbit n
  let e := if o.window.isEmpty then 0 else orbPhaseErr o.window
  let st := d.orbState n
  let T : Int := (t : Int) - o.lastUpdate
  let w := orbOmega (d.rd ORBn_CFG_bw n)
  let loop := decide (st = 1 ∨ st = 2)
  let a := if loop then o.a + divFree (w * w * w * T * e) (65536 * 1000000000) else 0
  let f0 := if o.toNominal then d.orbNominal n else o.f
  let f := if loop then f0 + divFree (3 * w * w * e * T) (256 * 1000000000) + divFree (a * T * 256) 1000000000 else f0
  let c := if loop then clampInt (-8388608) 8388607 (divFree (3 * w * T * e) 1000000000) else 0
  { at_ := t, e := e, ampl := if o.window.isEmpty then 0 else orbAmpl o.window, a := a, f := f, c := c, loop := loop, nominal := o.toNominal }

/-- An update takes effect at the tick `t`: the loop's values, the conditions of R57 to R59, the state. -/
def Dev.orbUpdate (d : Dev) (n t : Nat) (u : OrbFix) : Dev :=
  let o := d.orbit n
  let st := d.orbState n
  let loop := u.loop && decide (st = 1 ∨ st = 2)
  let f := if u.loop && !loop then o.f else u.f
  let a := if loop then u.a else 0
  let c := if loop then u.c else 0
  let seen := o.sampledTo t
  let missed := if seen then 0 else o.missed + 1
  let low := if !o.window.isEmpty ∧ u.ampl < d.rd ORBn_LEVEL_loss n then o.lowCount + 1 else 0
  let high := if d.rd ORBn_LEVEL_restore n ≤ u.ampl ∧ seen ∧ !o.few then min 64 (o.highCount + 1) else 0
  let locked := if !o.window.isEmpty ∧ -1048576 ≤ u.e ∧ u.e ≤ 1048576 then min 512 (o.lockCount + 1) else 0
  let out := loop && (decide (f < 40 * 16777216) || decide (70 * 16777216 < f))
  let ovr := loop && (decide (a < -655360) || decide (655360 < a))
  let theta := ((o.pos - o.offset * orbStep) % orbCycle).toNat
  let new := ({ o with
    pos := o.pos + c, f := f, a := a, e := u.e, c := c, ampl := u.ampl, waiting := ((t, theta) :: o.waiting).take 64, lastUpdate := t,
    missed := missed, lowCount := min 4 low, highCount := high, lockCount := locked,
    toNominal := o.toNominal && !u.nominal, overRate := ovr, outRange := out, fix := none }).settle
  let d := d.setOrbit n { new with vis := max new.vis new.pos.toNat }
  let d := if ovr != o.overRate then d.raise (661 + 8 * n) else d
  let d := if out && !o.outRange then d.raise (660 + 8 * n) else d
  let lost := decide (4 ≤ low) || decide (2 ≤ missed) || o.few || out
  if st = 1 ∨ st = 2 then
    if lost then d.orbLose n
    else if st = 1 ∧ locked = 512 then (d.wr ORBn_STATE_state 2 n).raise (656 + 8 * n)
    else d
  else if high = 64 then ((d.setOrbit n { d.orbit n with lockCount := 0 }).wr ORBn_STATE_state 1 n).raise (659 + 8 * n)
  else d

/-- The advance of a position by f·Δt (R53); its last bit is not stated (log entry 3). -/
def orbAdvance (f : Int) (dt : Nat) : Int := divFree (f * dt * 256) 1000000000

/-- The angle crosses a multiple of 1,024 steps between two positions (R55). -/
def orbCrosses (before after : Nat) : Bool := decide (before / (1024 * orbStep) < after / (1024 * orbStep))

/-- An update that the coming ticks will bring is fixed three ticks before it takes effect (R477). -/
def Dev.orbFixAhead (d : Dev) (n t : Nat) : Dev :=
  let o := d.orbit n
  let adv := orbAdvance o.f 50
  let at2 := max o.vis (o.pos + 2 * adv).toNat
  let at3 := max o.vis (o.pos + 3 * adv).toNat
  if o.fix.isSome || !orbCrosses at2 at3 then d
  else
    let u := d.orbCompute n (t + 150)
    d.setOrbit n { o with fix := some u, news := some (u.at_, u.f, u.c) }

/-- The loop's part of a tick: an update fixed for it takes effect; a crossing that no one could foresee, by a write of the offset or
a step of the counter, is an update of this tick; the update three ticks ahead is fixed. -/
def Dev.orbLoop (d : Dev) (n t before : Nat) : Dev :=
  let o := d.orbit n
  let d := match o.fix with
    | some u => if u.at_ ≤ t then d.orbUpdate n t u else d
    | none =>
      if orbCrosses before o.vis then
        let u := d.orbCompute n t
        (d.setOrbit n { o with news := some (t, u.f, u.c) }).orbUpdate n t u
      else d
  d.orbFixAhead n t

/-- The comparators of an orbit that starts again begin its first cycle (R61). -/
def Dev.cmpRestart (d : Dev) (n : Nat) : Dev :=
  (List.range 16).foldl (fun d k =>
    if d.flag ORB_CMPk_en k ∧ d.rd ORB_CMPk_orbit k = n then
      { d with cmp := d.cmp.set k { d.cmp.get k ⟨false, 0⟩ with next := d.rd ORB_CMPk_angle k } ⟨false, 0⟩ }
    else d) d

/-- A start that a write of run asked for: position 0:0, nominal frequency, ACQUIRE (R52). -/
def Dev.orbStartTick (d : Dev) (n t : Nat) : Dev :=
  let d := d.setOrbit n { orb0 with offset := d.rd ORBn_OFFSET_offset n, f := d.orbNominal n, lastUpdate := t, cycStart := t * 65536 }
  ((d.wr ORBn_STATE_state 1 n).wr ORBn_STATE_coasted 0 n).cmpRestart n

/-- A stop: IDLE, the position held (R52, R57). -/
def Dev.orbStopTick (d : Dev) (n : Nat) : Dev :=
  let o := d.orbit n
  (d.setOrbit n { o with
    stopReq := false, pos := (o.vis : Int), window := [], waiting := [], samples := [], offsetNew := none, fix := none, news := none }).wr
    ORBn_STATE_state 0 n

/-- Tracker `n` at the tick `t`, `dt` ns after the tick before (R52, R53, R543). A tracker of kind 2 runs no loop: ORBn_STATE goes on to
show ACQUIRE, and a write of its offset moves it as any other until the leader's next position (log entry 475). What a kind 2 tracker shows as its state, and what a write of its offset does, is a DESIGN CHOICE, log entry
475. -/
def Dev.orbTick (d : Dev) (t dt n : Nat) : Dev :=
  let o := d.orbit n
  if o.startReq then d.orbStartTick n t
  else if o.stopReq then d.orbStopTick n
  else if d.orbState n = 0 then d
  else
    let coasting := d.orbState n = 3
    let off := o.offsetNew.getD o.offset
    let shift : Int := signed 16 ((off + 65536 - o.offset % 65536) % 65536)
    let pos := o.pos + orbAdvance o.f dt + shift * orbStep
    let led := d.rd ORBn_SRC_kind n = 2
    let d := d.setOrbit n { o with
      pos := pos, vis := max o.vis pos.toNat, offset := off, offsetNew := none, news := none
      trail := if led then (pos.toNat :: o.trail).take 64 else [] }
    let d := if led then d else d.orbLoop n t o.vis
    let p := d.orbit n
    let cycles := p.vis / orbCycle - p.cyc
    if cycles = 0 then d
    else
      let d := d.setOrbit n { p with cyc := p.vis / orbCycle }
      let d := if coasting ∧ d.orbState n = 3 then d.bump ORBn_STATE_coasted cycles n else d
      d.raise (662 + 8 * n)

/-- Comparator `k` at a tick (R61). -/
def Dev.cmpTick (d : Dev) (k : Nat) : Dev :=
  let c := d.cmp.get k ⟨false, 0⟩
  let orb := d.rd ORB_CMPk_orbit k
  let target := d.rd ORB_CMPk_angle k
  let p := d.orbSteps orb
  let following := (if target ≤ p % 65536 then p / 65536 + 1 else p / 65536) * 65536 + target
  let put (d : Dev) (c : Cmp) : Dev := { d with cmp := d.cmp.set k c ⟨false, 0⟩ }
  if !d.flag ORB_CMPk_en k then put d ⟨false, 0⟩
  else if d.orbState orb = 0 then put d ⟨false, target⟩
  else if c.fresh then put d ⟨false, following⟩
  else if c.next ≤ p then (put d ⟨false, following⟩).raise (688 + k)
  else d

/-- ORB's part of a tick. -/
def Dev.orbitsTick (d : Dev) (dt : Nat) : Dev :=
  let t := d.tickTai
  let d := [0, 1, 2, 3].foldl (fun d n => d.orbTick t dt n) d
  (List.range 16).foldl Dev.cmpTick d

/-- The position of orbit `n` at time `t` between ticks (R54). -/
def Dev.orbPosAt (d : Dev) (n t : Nat) : Nat :=
  let o := d.orbit n
  if d.orbState n = 0 then o.vis else (max (o.vis : Int) (o.vis + orbAdvance o.f (t - d.tickTai))).toNat

/-! ### Register writes of ORB (R52, R55, R64, R543) -/

/-- ORBn_CFG: reserved bw, a start with source kind 3, and a change of nominal while running are refused whole. -/
def Dev.orbCfgWrite (d : Dev) (n v : Nat) : Status × Dev :=
  let run := d.flag ORBn_CFG_run n
  let run' := bitOf v 0
  let st := pickStatus [if run ∧ bitOf v 1 ≠ d.flag ORBn_CFG_nominal n then .busy else .ok,
    if bitsOf v 5 4 = 3 ∨ (run' ∧ !run ∧ d.rd ORBn_SRC_kind n = 3) then .badParam else .ok]
  if st ≠ .ok then (st, d)
  else
    let d := (d.plainWrite pgORB (0x044 + 0x40 * n) v).2
    let o := d.orbit n
    (.ok, if run' ∧ !run then d.setOrbit n { o with startReq := true, stopReq := false }
      else if !run' ∧ run then
        if o.startReq then d.setOrbit n { o with startReq := false, stopReq := decide (d.orbState n ≠ 0) }
        else d.setOrbit n { o with stopReq := true }
      else d)

/-- ORBn_OFFSET: while the tracker runs, at the next tick; while IDLE, from the next start (R543). -/
def Dev.orbOffsetWrite (d : Dev) (n v : Nat) : Status × Dev :=
  let d := (d.plainWrite pgORB (0x048 + 0x40 * n) v).2
  let o := d.orbit n
  (.ok, if d.orbState n = 0 then d else d.setOrbit n { o with offsetNew := some (bitsOf v 15 0) })

/-- ORBn_SRC: ignored while run is 1 (R64); kind 2 only on a rope member (R470). -/
def Dev.orbSrcWrite (d : Dev) (n v : Nat) : Status × Dev :=
  if d.flag ORBn_CFG_run n then (.busy, d)
  else if bitsOf v 31 30 = 2 ∧ d.rd SYS_STRAP_rope_pos = 0 then (.badParam, d)
  else d.plainWrite pgORB (0x040 + 0x40 * n) v

/-- ORB_CMPk: a write that sets en or changes orbit or angle arms the comparator from the next tick (R61). -/
def Dev.orbCmpWrite (d : Dev) (k v : Nat) : Status × Dev :=
  let armed := bitOf v 31 && (!d.flag ORB_CMPk_en k || bitsOf v 25 24 != d.rd ORB_CMPk_orbit k
    || bitsOf v 15 0 != d.rd ORB_CMPk_angle k)
  let d := (d.plainWrite pgORB (0x200 + 4 * k) v).2
  (.ok, if armed then { d with cmp := d.cmp.set k ⟨true, 0⟩ ⟨false, 0⟩ } else d)

/-- The writes of the ORB page. -/
def Dev.orbWrite (d : Dev) (off v : Nat) : Status × Dev :=
  if 0x040 ≤ off ∧ off < 0x140 then
    let n := (off - 0x040) / 0x40
    match (off - 0x040) % 0x40 with
    | 0x00 => d.orbSrcWrite n v
    | 0x04 => d.orbCfgWrite n v
    | 0x08 => d.orbOffsetWrite n v
    | _ => d.plainWrite pgORB off v
  else if 0x200 ≤ off ∧ off < 0x240 then d.orbCmpWrite ((off - 0x200) / 4) v
  else d.plainWrite pgORB off v

/-- After coast_cycles cycles in COAST the tracker reverts to NOMINAL (R57). -/
def Dev.orbCoastExpiry (d : Dev) (n : Nat) : Dev :=
  if d.orbState n = 3 ∧ d.rd ORBn_CFG_coast_cycles n ≤ d.rd ORBn_STATE_coasted n then
    ((d.setOrbit n { d.orbit n with toNominal := true }).wr ORBn_STATE_state 4 n).raise (658 + 8 * n)
  else d

end Sys2Proof.Machine
end

