-- ==== Sys2Proof/Machine/Events.lean ====
section
/-! DEFINITION. EVM: sampling, source configuration, software raises, selectors, the capture FIFO (R65 to R73, R88). -/

namespace Sys2Proof.Machine

open Sys2Proof

def pgEVM : Nat := 0x004

/-- The severity a source's chapter fixes: R67, R62, R144, R271, R303, R344, R368, R406, R446, R467, R504, R524. -/
def fixedSev (s : Nat) : Option Nat :=
  if s < 24 then some 7
  else if s < 38 then some 5
  else if s = 38 then some 4
  else if s < 42 then some 5
  else if s < 48 then some 7
  else if s = 48 then some 3
  else if s = 49 then some 7
  else if s < 64 then none
  else if s < 70 then some 5
  else if s = 70 then some 6
  else if s = 71 then some 5
  else if s < 80 then some 6
  else if s = 80 then some 6
  else if s = 81 then some 7
  else if s = 82 then some 5
  else if s = 83 then some 6
  else if s = 84 then some 5
  else if s = 85 then some 5
  else if s < 88 then some 4
  else if s < 96 then some 5
  else if s < 106 then some 6
  else if s < 118 then some 5
  else if s < 576 then none
  else if s < 608 then some 5
  else if s < 622 then some 4
  else if s = 622 then some 2
  else if s = 623 then some 3
  else if s < 640 then none
  else match s with
    | 640 => some 1 | 641 => some 4 | 642 => some 5 | 643 => some 2 | 644 => some 3 | 645 => some 3 | 646 => some 3
    | 647 => some 3 | 648 => some 3 | 649 => some 4 | 650 => some 4 | 651 => some 2
    | 973 => some 1 | 974 => some 2 | 975 => some 4 | 976 => some 4 | 977 => some 4 | 978 => some 3 | 979 => some 3
    | 980 => some 1 | 981 => some 1 | 982 => some 4 | 983 => some 2 | 984 => some 1 | 985 => some 3 | 986 => some 4
    | 987 => some 5 | 988 => some 2 | 989 => some 4 | 990 => some 4 | 991 => some 6 | 992 => some 3 | 993 => some 3
    | 994 => some 1 | 995 => some 4 | 996 => some 5 | 997 => some 5 | 998 => some 3 | 999 => some 3
    | 1000 => some 4 | 1001 => some 4 | 1002 => some 4 | 1003 => some 3 | 1004 => some 4 | 1005 => some 3 | 1006 => some 3
    | 1008 => some 4 | 1009 => some 6 | 1010 => some 4 | 1011 => some 2 | 1012 => some 3 | 1013 => some 5 | 1014 => some 3
    | _ =>
      if 656 ≤ s ∧ s < 688 then
        match (s - 656) % 8 with
        | 0 => some 1 | 1 => some 4 | 2 => some 5 | 3 => some 2 | 4 => some 4 | 5 => some 3 | 6 => some 0 | _ => none
      else if 688 ≤ s ∧ s < 704 then some 0
      else none

/-- The reset response set of a source, bits zeroise 3, reset 2, lock 1, log 0 (R373). -/
def respDefault (s : Nat) : Nat :=
  if s < 24 ∨ s = 46 ∨ s = 47 ∨ s = 49 then 0xF
  else if (24 ≤ s ∧ s ≤ 30) ∨ (32 ≤ s ∧ s ≤ 37) then 0x5
  else if s = 31 ∨ (38 ≤ s ∧ s ≤ 45) ∨ s = 48 then 0x1
  else if s = 69 ∨ s = 80 ∨ s = 82 ∨ s = 84 ∨ s = 85 ∨ s = 94 then 0x5
  else if s = 81 then 0x7
  else if s = 83 then 0xD
  else if 64 ≤ s ∧ s ≤ 127 then 0x1
  else 0

/-- The reset word of EVM_SRC_CFG for a source (R72, R88, R373). -/
def srcCfgReset (s : Nat) : Nat :=
  1 + respDefault s * 16 + (fixedSev s).getD 1 * 256 + (if (fixedSev s).isSome then 2048 else 0)

/-- EVM_SRC_CFG of a source. -/
def Dev.srcCfg (d : Dev) (s : Nat) : Nat := (d.evm.cfg.get s (BitVec.ofNat 32 (srcCfgReset s))).toNat

def Dev.srcSev (d : Dev) (s : Nat) : Nat := bitsOf (d.srcCfg s) 10 8
def Dev.srcResp (d : Dev) (s : Nat) : Nat := bitsOf (d.srcCfg s) 7 4

/-- The word a write leaves in EVM_SRC_CFG: resp only for EV0000 to EV0127 and
only from the Refuge, owner_id only for EV0256 to EV0511, rec_rise RO for EV0000 to EV0127, sev RO where fixed (R72, R88); the log
bit of a response set stays set (R373). -/
def srcCfgAfter (s old v : Nat) (refuge : Bool) : Nat :=
  let w := setBits old 1 1 (bitsOf v 1 1)
  let w := if s < 128 then w else setBits w 0 0 (bitsOf v 0 0)
  let w := if (fixedSev s).isSome then w else setBits w 10 8 (bitsOf v 10 8)
  let w := if s < 128 ∧ refuge then setBits w 7 4 (bitsOf v 7 4 ||| bitsOf old 4 4) else w
  let w := setBits w 13 12 (bitsOf v 13 12)
  if 256 ≤ s ∧ s < 512 then setBits w 23 16 (bitsOf v 23 16) else w

def Dev.srcCfgWrite (d : Dev) (refuge : Bool) (v : Nat) : Status × Dev :=
  let s := d.rd EVM_SRC_SEL_src
  (.ok, { d with evm := { d.evm with
    cfg := d.evm.cfg.set s (BitVec.ofNat 32 (srcCfgAfter s (d.srcCfg s) v refuge)) (BitVec.ofNat 32 (srcCfgReset s)) } })

/-- The requester may raise the source by EVM_RAISE (R68). -/
def Dev.ownsSource (d : Dev) (r : Req) (s : Nat) : Bool :=
  match r with
  | .refuge => decide (256 ≤ s ∧ s < 512) || decide (768 ≤ s ∧ s < 960)
  | .eng e => s == 768 + 2 * e.val || s == 769 + 2 * e.val ||
      (decide (256 ≤ s ∧ s < 512) && bitsOf (d.srcCfg s) 13 12 == 3 && bitsOf (d.srcCfg s) 23 16 == e.val)
  | _ => false

/-- EVM_RAISE (R68): the first raise before a tick answers ST_OK and gives the tag, each later one ST_DUPLICATE. So is one of a source that its hardware has raised already: DESIGN CHOICE, log entry 494. -/
def Dev.raiseWrite (d : Dev) (r : Req) (v : Nat) : Status × Dev :=
  let s := bitsOf v 9 0
  if !d.ownsSource r s then (.denied, d)
  else if d.evm.latch.getLsbD s then (.duplicate, d)
  else (.ok, d.raise s (bitsOf v 31 16))

/-- EVM_TICK_CTRL.snap_req (R65, R88). -/
def Dev.tickCtrlWrite (d : Dev) (v : Nat) : Status × Dev :=
  if bitOf v 0 then (.ok, ({ d with evm := { d.evm with snapReq := true } }).wr EVM_TICK_CTRL_snap_valid 0) else (.ok, d)

/-- The reset word of a selector: edge 1. -/
def cselReset : Word := 0x20000000

def Dev.csel (d : Dev) (i : Nat) : Nat := (d.evm.csel.get i cselReset).toNat

def Dev.cselWrite (d : Dev) (v : Nat) : Status × Dev :=
  if bitsOf v 30 29 = 0 then (.badParam, d)
  else
    let w := bitsOf v 9 0 + bitsOf v 31 26 * 2 ^ 26
    (.ok, { d with evm := { d.evm with csel := d.evm.csel.set (d.rd EVM_CSEL_SEL_index) (BitVec.ofNat 32 w) cselReset } })

def Dev.cselSelWrite (d : Dev) (v : Nat) : Status × Dev :=
  if 384 ≤ bitsOf v 8 0 then (.badParam, d) else d.plainWrite pgEVM 0x054 v

/-- The writes of the EVM page. -/
def Dev.evmWrite (d : Dev) (r : Req) (off v : Nat) : Status × Dev :=
  match off with
  | 0x040 => d.tickCtrlWrite v
  | 0x048 => d.srcCfgWrite (r == .refuge) v
  | 0x04C => d.raiseWrite r v
  | 0x054 => d.cselSelWrite v
  | 0x058 => d.cselWrite v
  | _ => d.plainWrite pgEVM off v

/-! ### The tick (R65, R71 to R73) -/

/-- The device's own rope position from its straps (R18, R70). -/
def Dev.ropePos (d : Dev) : Nat := d.rd SYS_STRAP_rope_pos

/-- Samples every latch: the vector of the tick, its rises and falls, the parameters that stand with the sources; pulse latches
empty, and a requested snapshot is taken (R65). -/
def Dev.sampleEvents (d : Dev) : Dev :=
  let v := d.evm.latch ||| d.evm.level
  let d := { d with evm := { d.evm with
    vec := v
    rise := v &&& ~~~d.evm.vec
    fall := d.evm.vec &&& ~~~v
    latch := 0
    shown := d.evm.params } }
  if d.evm.snapReq then
    let d := (List.range 32).foldl (fun d k => d.wr EVM_SNAPk_level (bitsOf v.toNat (32 * k + 31) (32 * k)) k) d
    ({ d with evm := { d.evm with snapReq := false } }).wr EVM_TICK_CTRL_snap_valid 1
  else d

/-- The record EVM hands over for a source (R72, R411). -/
def Dev.sourceRecord (d : Dev) (s : Nat) : Rec :=
  let src := if 768 ≤ s ∧ s < 960 then
      let e := (s - 768) / 2
      e + (if d.engWorld e = 2 then 128 else 0)
    else 0x7F
  d.mkRec s (d.srcSev s) 0 src (d.evm.shown.get s ⟨0, 0, 0⟩) d.ropePos

/-- Capture FIFO occupancy of the reserved and of the general class (R73). -/
def fifoUse (f : List (Bool × Rec)) (reserved : Bool) : Nat := (f.filter (fun e => e.1 == reserved)).length

/-- One record into the capture FIFO, or dropped and counted with EV1008 or EV1009 (R73). -/
def Dev.capture (d : Dev) (r : Rec) : Dev :=
  let put (res : Bool) : Dev := { d with evm := { d.evm with fifo := d.evm.fifo ++ [(res, r)] } }
  if 5 ≤ r.sev ∧ fifoUse d.evm.fifo true < 1024 then put true
  else if fifoUse d.evm.fifo false < 3072 then put false
  else if 5 ≤ r.sev then (d.bump EVM_REC_DROP_high).raise 1009
  else (d.bump EVM_REC_DROP_low).raise 1008

/-- The sources of a tick that leave a record, ascending (R69, R72). -/
def Dev.recordSources (d : Dev) : List Nat :=
  (setBitsOf (d.evm.rise ||| d.evm.fall).toNat 1024).filter (fun s =>
    (d.evm.rise.getLsbD s && (d.srcCfg s).testBit 0) || (d.evm.fall.getLsbD s && (d.srcCfg s).testBit 1))

/-- The selectors of this device's own events at a tick: the numbers of those that match (R70, R71). -/
def Dev.matchingSelectors (d : Dev) : List Nat :=
  (d.evm.csel.filter (fun e =>
    let w := e.2.toNat
    let s := bitsOf w 9 0
    w.testBit 31 && ((w.testBit 29 && d.evm.rise.getLsbD s) || (w.testBit 30 && d.evm.fall.getLsbD s)) &&
      (!w.testBit 28 || bitsOf w 27 26 == d.ropePos))).map (·.1)

/-- The sources with a response set that rise at the tick, ascending (R86). -/
def Dev.alarmSources (d : Dev) : List Nat :=
  (setBitsOf (d.evm.rise.toNat % 2 ^ 128) 128).filter (fun s => d.srcResp s != 0)

end Sys2Proof.Machine
end

