-- ==== Sys2Proof/Machine/Words.lean ====
section
/-! DEFINITION. The words of the memories: address map and classes, code words, what an uncorrectable word raises, the initialisation
after reset, bus parity, the accesses of hardware blocks, table rows, the guarded region's counters (R279, R292 to R296, R298,
R300, R301, R303). -/

namespace Sys2Proof.Machine

open Sys2Proof

def pgENG (e : Nat) : Nat := 0x100 + e
def pgCLU (c : Nat) : Nat := 0x050 + c
def pgMCE : Nat := 0x062
def pgDRC : Nat := 0x060
def pgFLC : Nat := 0x080

/-- The base of an engine's local memories, and of a cluster's memory (R279). -/
def engBase (e : Nat) : Nat := 0x01000000 + e * 0x40000
def engData (e : Nat) : Nat := engBase e + 0x20000
def cluBase (c : Nat) : Nat := 0x08000000 + c * 0x100000
def dramBase : Nat := 0x1000000000
def dramTop : Nat := 0x3000000000

/-- The cluster of an engine. -/
def engClu (e : Nat) : Nat := e / 8

/-- The class of memory at a device address (R292): 0 to 3 SRAM, 6 DRAM, 7 flash; none where no memory stands. -/
def memClass (a : Nat) : Option Nat :=
  if 0x01000000 ≤ a ∧ a < 0x02800000 then
    let o := (a - 0x01000000) % 0x40000
    if o < 0x10000 then some 0 else if 0x20000 ≤ o then some 1 else none
  else if 0x08000000 ≤ a ∧ a < 0x08C00000 then some 2
  else if sbLo ≤ a ∧ a < sbLo + 0x1000000 then some 3
  else if flashBase ≤ a ∧ a < flashBase + 0x2000000 then some 7
  else if dramBase ≤ a ∧ a < dramTop then some 6
  else none
where
  sbLo : Nat := 0x10000000

/-- Bytes of a code word or DRAM line of a class (R292, R299). -/
def codeBytes (c : Nat) : Nat := match c with | 0 => 4 | 1 => 2 | 6 => 64 | 7 => 32 | _ => 8

/-- The code words an access covers. -/
def codeWords (c a n : Nat) : List Nat :=
  let w := codeBytes c
  (List.range ((a + n - 1) / w + 1 - a / w)).map (fun i => (a / w + i) * w)

/-- The page whose FAULT_INFO takes a fault at an address, and the bank number there (log entry 30). -/
def faultPage (c a : Nat) : Nat :=
  match c with
  | 0 => pgENG ((a - 0x01000000) / 0x40000)
  | 1 => pgENG ((a - 0x01000000) / 0x40000)
  | 2 => pgCLU ((a - 0x08000000) / 0x100000)
  | 3 => 0x022
  | 6 => pgMCE
  | _ => pgFLC
def bankOf (c a : Nat) : Nat :=
  match c with
  | 0 => a % 0x10000 / 0x8000
  | 1 => a / 2 % 8
  | 2 => a % 0x100000 / 0x10000
  | 3 => a % 0x1000000 / 0x40000
  | _ => 0

/-! ### DRAM (R282, R298, R300, R301) -/

/-- The end of usable DRAM (R298). -/
def Dev.dramEnd (d : Dev) : Nat := dramBase + 7 * 2 * 2 ^ d.rd DRC_CFG_cap * 2 ^ 30 / 8

/-- The guarded region: base and size in bytes; 0 for none (R300). -/
def Dev.guardBase (d : Dev) : Nat := d.rd MCE_GUARD_base * 2 ^ 24
def Dev.guardSize (d : Dev) : Nat := if d.rd MCE_GUARD_size = 0 then 0 else 2 ^ (d.rd MCE_GUARD_size + 3) * 2 ^ 20

/-- The answer of DRAM to a range, but for faults (R282). -/
def Dev.dramStatus (d : Dev) (a n : Nat) : Status :=
  let inGuard := decide (a < d.guardBase + d.guardSize) && decide (d.guardBase < a + n)
  pickStatus [if dramBase ≤ a ∧ a + n ≤ d.dramEnd then .ok else .denied, if d.flag MCE_STAT_keys_loaded then .ok else .notReady,
    if inGuard && !d.flag MCE_STAT_guard_ready then .notReady else .ok]

/-! ### Uncorrectable words (R294, R301, R303) -/

/-- The source, record parameters and FAULT_INFO of an uncorrectable word; `kind` is 2 for a DRAM tag failure. -/
def Dev.memFault (d : Dev) (c a kind requester : Nat) : Dev :=
  if c = 6 then
    let d := if kind = 2 then d.bump MCE_FAIL_tag_fail else
      let p := a / 256 % 2
      ((d.bump MCE_FAIL_ecc_fail).bump DRC_ECC_uncorrectable 1 0 p).wr64 DRC_ERR_ADDR_LO_addr DRC_ERR_ADDR_HI_addr a p
    let d := d.wr64 MCE_FAIL_ADDR_LO_addr MCE_FAIL_ADDR_HI_addr a
    (d.faultInfo pgMCE 4 0 .faultDetected requester).raise 70 pgMCE (a % 2 ^ 32) (a / 2 ^ 32 + (if kind = 2 then 256 else 0))
  else
    let page := faultPage c a
    (d.faultInfo page 1 (bankOf c a) .faultDetected requester).raise (64 + c) page (a % 2 ^ 32) requester

/-- What stands at a code word: 0 good, 1 a double-bit error, 2 a tag that does not verify; so of every line of DRAM that was written
under keys that zeroise has replaced, outside the guarded region (R301, R375). -/
def Dev.wordState (d : Dev) (c w : Nat) : Nat :=
  let k := d.bad.get w 0
  if k = 0 ∧ c = 6 ∧ d.dramOld ∧ d.dramNew.get w 0 = 0 ∧ ¬(d.guardBase ≤ w ∧ w < d.guardBase + d.guardSize) then 2 else k

/-- The first bad code word of an access, with its kind. -/
def Dev.firstBad (d : Dev) (c a n : Nat) : Option (Nat × Nat) :=
  ((codeWords c a n).map (fun w => (w, d.wordState c w))).find? (fun p => p.2 == 1 || p.2 == 2)

/-- The words of an access that it covers whole. -/
def coversWord (c a n w : Nat) : Bool := decide (a ≤ w) && decide (w + codeBytes c ≤ a + n)

/-! ### Initialisation (R293) -/

/-- The SRAM with device addresses answers once every row has been written: 8,192 CCLK after the reset. -/
def Dev.initStatus (d : Dev) (c : Nat) : Status := if c < 4 ∧ d.cclk < d.initTill then .notReady else .ok

/-! ### The guarded region's counters (R300) -/

/-- Lines of a level: of the guarded region at level 0, of the counter lines that hold the counters of the level below it above. -/
def Dev.levelLines (d : Dev) : Nat → Nat
  | 0 => d.guardSize / 64
  | k + 1 => ceilDiv (d.levelLines k) 8

/-- Line `i` of a level. -/
def lineKey (level i : Nat) : Nat := level * 2 ^ 32 + i

/-- The counter of line `i` of a level. -/
def Dev.lineCounter (d : Dev) (level i : Nat) : Nat := d.lineCtr.get (lineKey level i) 0

/-- One more write of line `i` of a level. -/
def Dev.countLine (d : Dev) (level i : Nat) : Dev :=
  { d with lineCtr := d.lineCtr.set (lineKey level i) ((d.lineCounter level i + 1) % 2 ^ 64) 0 }

/-- The place of a counter line in the counter cache of 4,096 lines (log entry 350). -/
def cachePlace (level i : Nat) : Nat := (i + 512 * level) % 4096

/-- A counter line goes to DRAM with the eight counters it holds. -/
def Dev.lineStored (d : Dev) (level i : Nat) : Dev :=
  { d with ctrStored := (List.range 8).foldl (fun t s =>
      t.set (lineKey (level - 1) (8 * i + s)) (d.lineCounter (level - 1) (8 * i + s)) 0) d.ctrStored }

/-- Counter line `i` of a level is used: the single line of the top level is on-die; another takes its place in the counter cache, from
which a line that differs from DRAM is written back, a write that its own counter counts, and the line's counter is looked up to
check it. -/
def Dev.cacheUse : Nat → Dev → Nat → Nat → Bool → Dev
  | 0, d, _, _, _ => d
  | k + 1, d, level, i, write =>
    if d.levelLines level ≤ 1 then d
    else
      let place := cachePlace level i
      let old := d.ctrCache.get place (0, false)
      if old.1 = lineKey level i then { d with ctrCache := d.ctrCache.put place (old.1, old.2 || write) }
      else
        let l := old.1 / 2 ^ 32
        let j := old.1 % 2 ^ 32
        let d := if old.2 then Dev.cacheUse k ((d.lineStored l j).countLine l j) (l + 1) (j / 8) true else d
        let d := Dev.cacheUse k d (level + 1) (i / 8) false
        { d with
          ctrCache := d.ctrCache.put place (lineKey level i, write)
          bad := d.bad.drop (fun r => decide (cacheKey place ≤ r) && decide (r < cacheKey place + 16)) }
where
  /-- The first of the sixteen rows of a place of the counter cache, among the uncorrectable rows. -/
  cacheKey (place : Nat) : Nat := 2 ^ 44 + 0x07B * 2 ^ 20 + 0x4000 + 16 * place

/-- An uncorrectable row of the counter cache that holds the counter of one of the lines. -/
def Dev.counterBad (d : Dev) (ws : List Nat) : Option Nat :=
  if d.guardSize = 0 ∨ d.ctrCache.isEmpty then none
  else ws.findSome? (fun w =>
    let i := (w - d.guardBase) / 64
    let place := cachePlace 1 (i / 8)
    let row := 0x4000 + 16 * place + 2 * (i % 8)
    if w < d.guardBase ∨ d.guardBase + d.guardSize ≤ w ∨ (d.ctrCache.get place (0, false)).1 ≠ lineKey 1 (i / 8) then none
    else [row, row + 1].find? (fun r => d.bad.get (2 ^ 44 + 0x07B * 2 ^ 20 + r) 0 != 0))

/-- A line of DRAM is read or written: inside the guarded region its counter is used, and a write raises it (R300). -/
def Dev.lineUsed (d : Dev) (write : Bool) (a : Nat) : Dev :=
  if a < d.guardBase ∨ d.guardBase + d.guardSize ≤ a then d
  else
    let i := (a - d.guardBase) / 64
    Dev.cacheUse 24 (if write then d.countLine 0 i else d) 1 (i / 8) write

/-- The lines that a read takes. -/
def Dev.linesRead (d : Dev) (c : Nat) (ws : List Nat) : Dev :=
  if c = 6 ∧ d.guardSize ≠ 0 then ws.foldl (fun d w => d.lineUsed false w) d else d

/-- The code words of an access become good, and DRAM lines count (R294, R300, R301). -/
def Dev.wordsWritten (d : Dev) (c : Nat) (ws : List Nat) : Dev :=
  let d := { d with bad := (ws.filter (fun w => d.bad.get w 0 != 0)).foldl (fun t w => t.set w 0 0) d.bad }
  let d := if c = 6 ∧ d.dramOld then { d with dramNew := ws.foldl (fun t w => t.set w 1 0) d.dramNew } else d
  if c = 6 ∧ d.guardSize ≠ 0 then ws.foldl (fun d w => d.lineUsed true w) d else d

/-! ### Bus parity (R296) -/

/-- A bus parity error (R303): the source of its segment and the page's FAULT_INFO. -/
def Dev.parityError (d : Dev) (page seg addr requester : Nat) : Dev :=
  (d.faultInfo page 3 seg .faultDetected requester).raise (88 + seg) seg (addr % 2 ^ 32) requester

/-- The bus segment an access crosses, and the page that captures its parity error. A sequencer datapath reaches the stream buffer over
segment 3. -/
def segmentOf (who a : Nat) : Option (Nat × Nat) :=
  match memClass a with
  | some 2 => some (0, pgCLU ((a - cluBase 0) / 0x100000))
  | some 3 => some (if who < 12 then 3 else 1, 0x022)
  | some 6 => some (4, pgMCE)
  | some 7 => some (7, 0x080)
  | _ => none

/-- The command's transfers meet a parity error in a segment. -/
def Dev.withBreak (d : Dev) (brk : Option (Fin 8)) : Dev := { d with brk := brk.map (·.val) }

/-- The transfer at an address meets the parity error that the command brings. -/
def Dev.broken (d : Dev) (who a : Nat) : Option (Nat × Nat) := (segmentOf who a).filter (fun s => d.brk == some s.1)

/-! ### Rows without a device address (R292, R294) -/

/-- The place of a row of a block's tables (class 4) or of class 5 among the uncorrectable words: these have no device address. -/
def rowKey (page row : Nat) : Nat := 2 ^ 44 + page * 2 ^ 20 + row

/-- A row is uncorrectable. -/
def Dev.rowBad (d : Dev) (page row : Nat) : Bool := d.bad.get (rowKey page row) 0 != 0

/-- The rows of class 5: Refuge memory from 0, the key vault with 32 rows a slot, the counter cache with 16 rows a line (log entry
351). -/
def vaultRow : Nat := 0x2000
def cacheRow : Nat := 0x4000

/-- The bank of a row: 8,192 rows a bank (R292). -/
def rowBank (row : Nat) : Nat := row / 8192

/-- A read of an uncorrectable row (R303); one of the vault is a tamper condition too (R368, source 19). -/
def Dev.rowFault (d : Dev) (cls page row requester : Nat) : Dev :=
  let d := (d.faultInfo page 1 (rowBank row) .faultDetected requester).raise (64 + cls) page 0 requester
  if cls = 5 ∧ vaultRow ≤ row ∧ row < cacheRow then d.level 83 true else d

/-- A block meets an uncorrectable row of its own tables (class 4) where the key answers true. -/
def Dev.tableFault (d : Dev) (page row : Nat) : Dev := d.rowFault 4 page row 0xFE

/-- An uncorrectable row of a vault slot. -/
def Dev.slotBad (d : Dev) (slot : Nat) : Option Nat :=
  (List.range 32).find? (fun i => d.rowBad 0x07B (vaultRow + 32 * slot + i)) |>.map (vaultRow + 32 * slot + ·)

/-- The vault answers a block once it is initialised (R293); the Refuge's own work waits for it. -/
def Dev.vaultStatus (d : Dev) (who : Nat) : Status := if who ≠ 0x0E ∧ d.cclk < d.vaultTill then .notReady else .ok

/-- A read of a vault slot for a requester: an uncorrectable row ends it with ST_FAULT_DETECTED (R294), as
does an attribute that differs from its inverted copy, EV0083 (R344). -/
def Dev.vaultRead (d : Dev) (slot who : Nat) : Status × Dev :=
  match d.slotBad slot with
  | some row => (.faultDetected, d.rowFault 5 0x07B row who)
  | none =>
    let x := d.vault.get slot {}
    if x.attr + x.inv ≠ 2 ^ 32 - 1 then (.faultDetected, d.level 83 true) else (d.vaultStatus who, d)

/-- A slot is written whole. -/
def Dev.slotHeal (d : Dev) (slot : Nat) : Dev :=
  { d with bad := d.bad.drop (fun k => decide (rowKey 0x07B (vaultRow + 32 * slot) ≤ k) && decide (k < rowKey 0x07B (vaultRow + 32 * slot + 32))) }

/-- A row is written whole. -/
def Dev.rowWritten (d : Dev) (page row : Nat) : Dev := { d with bad := d.bad.set (rowKey page row) 0 0 }

/-! ### Accesses of hardware blocks (R294, R296, R301) -/

/-- The mask of a segment's address and data in this boot (R296; log entry 362). -/
def Dev.busMask (d : Dev) (seg : Nat) : Nat := d.scramble.sram / 2 ^ (64 * seg) % 2 ^ 64

/-- What stands on the lines of a segment for `n` bytes of address or data: the masked bytes, each with its bit of even parity (R296). -/
def Dev.onBus (d : Dev) (seg v n : Nat) : List (Byte × Bool) :=
  (leBytes (v ^^^ d.busMask seg) n).map (fun b => (b, (List.range 8).foldl (fun p i => p ^^ b.getLsbD i) false))

/-- What stops a block's access before the words are looked at. -/
def Dev.hwStatus (d : Dev) (c a n : Nat) : Status := pickStatus [if c = 6 then d.dramStatus a n else .ok, d.initStatus c]

/-- A block reads `n` bytes: a word that is bad, or a transfer with a parity error, costs it its unit of work. -/
def Dev.hwLoad (d : Dev) (who a n : Nat) : Status × List Byte × Dev :=
  match memClass a with
  | none => (.denied, [], d)
  | some c =>
    let st := d.hwStatus c a n
    if st ≠ .ok then (st, [], d)
    else match d.broken who a with
      | some s => (.faultDetected, [], d.parityError s.2 s.1 a who)
      | none => match d.counterBad (codeWords c a n) with
        | some row => (.faultDetected, [], d.rowFault 5 0x07B row who)
        | none => match d.firstBad c a n with
          | some w => (.faultDetected, [], d.memFault c w.1 w.2 who)
          | none => (.ok, d.load a n, d.linesRead c (codeWords c a n))

/-- The words that a block's write covers whole: the stream buffer is written by whole rows (R148). -/
def hwCovers (c a n w : Nat) : Bool := c == 3 || coversWord c a n w

/-- A block writes bytes. -/
def Dev.hwStore (d : Dev) (who a : Nat) (bs : List Byte) : Status × Dev :=
  match memClass a with
  | none => (.denied, d)
  | some c =>
    let st := d.hwStatus c a bs.length
    if st ≠ .ok then (st, d)
    else match d.broken who a with
      | some s => (.faultDetected, d.parityError s.2 s.1 a who)
      | none =>
        let ws := codeWords c a bs.length
        match d.counterBad ws with
        | some row => (.faultDetected, d.rowFault 5 0x07B row who)
        | none => match ws.find? (fun w => d.wordState c w != 0 && !hwCovers c a bs.length w) with
          | some w => (.faultDetected, d.memFault c w (d.wordState c w) who)
          | none => (.ok, (d.wordsWritten c ws).store a bs)

end Sys2Proof.Machine
end

