-- ==== Sys2Proof/Machine/Queues.lean ====
section
/-! DEFINITION. QMG and SBF: queues, items, tags and staging pools (R147 to R175, R548, R549). -/

namespace Sys2Proof.Machine

open Sys2Proof

def pgTRV : Nat := 0x020
def pgQMG : Nat := 0x021
def pgSBF : Nat := 0x022

/-- The start of the stream buffer (R148). -/
def sbBase : Nat := 0x10000000
def sbSize : Nat := 0x1000000

/-! ### Descriptor fields (R151) -/

def Queue.valid (q : Queue) : Bool := q.w0.testBit 31
def Queue.kind (q : Queue) : Nat := bitsOf q.w0 30 29
def Queue.mgmt (q : Queue) : Bool := q.w0.testBit 28
def Queue.slot (q : Queue) : Nat := 2 ^ bitsOf q.w0 27 24
def Queue.depth (q : Queue) : Nat := 2 ^ bitsOf q.w0 23 20
def Queue.dedup (q : Queue) : Bool := q.w0.testBit 17
def Queue.base (q : Queue) : Nat := bitsOf q.w0 15 0 * 256
def Queue.consKind (q : Queue) : Nat := bitsOf q.w1 31 30
def Queue.consId (q : Queue) : Nat := bitsOf q.w1 29 16
def Queue.irqEn (q : Queue) : Bool := q.w1.testBit 15
def Queue.vector (q : Queue) : Nat := bitsOf q.w1 13 8
def Queue.prodId (q : Queue) : Nat := bitsOf q.w1 7 0
def Queue.ageLimit (q : Queue) : Nat := bitsOf q.w2 31 16
def Queue.notify (q : Queue) : Nat := bitsOf q.w2 15 0
def Queue.spillMib (q : Queue) : Nat := bitsOf q.w3 11 0
def Queue.spillBase (q : Queue) : Nat := bitsOf q.w3 31 12 * 2 ^ 20

/-- Slots of the spill ring; only a record queue has one (R160). -/
def Queue.spillCap (q : Queue) : Nat := if q.kind = 2 then q.spillMib * 2 ^ 20 / q.slot else 0

/-- The virtual channel of the queue's kind (R147). -/
def Queue.vc (q : Queue) : Nat := match q.kind with | 0 => 1 | 1 => if q.mgmt then 3 else 0 | _ => 2

def idx (n : Nat) : Nat := n % 65536
def Queue.occupancy (q : Queue) : Nat := (q.prod + 65536 - q.cons) % 65536
def Queue.claimed (q : Queue) : Nat := (q.claim + 65536 - q.cons) % 65536
def Queue.unclaimed (q : Queue) : Nat := (q.prod + 65536 - q.claim) % 65536

/-- The credit (R160). -/
def Queue.credit (q : Queue) : Nat := q.depth - q.occupancy - q.reserved

/-- The device address of ring slot `i` and of spill slot `i` (R152, R163). -/
def Queue.slotAddr (q : Queue) (i : Nat) : Nat := sbBase + q.base + i % q.depth * q.slot
def Queue.spillAddr (q : Queue) (i : Nat) : Nat := q.spillBase + i % q.spillCap * q.slot

def Dev.q (d : Dev) (n : Nat) : Queue := d.qmg.queues.get n {}
def Dev.setQ (d : Dev) (n : Nat) (q : Queue) : Dev := { d with qmg := { d.qmg with queues := d.qmg.queues.set n q {} } }
def Dev.tag (d : Dev) (i : Nat) : Tag := d.qmg.tags.get i {}
def Dev.setTag (d : Dev) (i : Nat) (t : Tag) : Dev := { d with qmg := { d.qmg with tags := d.qmg.tags.set i t {} } }

/-- Adds to a QMG statistic (QMG_STAT_SEL). -/
def Dev.qStat (d : Dev) (i : Nat) (n : Nat := 1) : Dev :=
  { d with qmg := { d.qmg with stat := d.qmg.stat.set i (satAdd (2 ^ 64 - 1) (d.qmg.stat.get i 0) n) 0 } }

/-- A QMG violation record (R174). -/
def Dev.qRec (d : Dev) (code sev n p2 : Nat) : Dev := d.rated pgQMG code n sev n p2

/-- Counts a full_drop of a queue. -/
def Dev.fullDrop (d : Dev) (n : Nat) : Dev :=
  let q := d.q n
  (d.setQ n { q with full := satAdd 0xFFFF q.full 1 }).qStat 7

/-! ### Item headers (R153, R154) -/

/-- A slot's header and command prefix as read from its bytes. -/
structure Hdr where
  len : Nat
  seq : Nat
  tag : Nat
  flags : Nat
  src : Nat
  time : Nat
  reply : Nat
  opcode : Nat
  pad : Nat
  deriving DecidableEq, Repr

def parseHdr (b : List Byte) : Hdr :=
  { len := leValue (slice b 0 2), seq := leValue (slice b 2 2), tag := leValue (slice b 4 2), flags := leValue (slice b 6 1),
    src := leValue (slice b 7 1), time := leValue (slice b 8 8), reply := leValue (slice b 16 2),
    opcode := leValue (slice b 18 1), pad := leValue (slice b 19 1) }

def Hdr.replyEn (h : Hdr) : Bool := h.reply.testBit 15
def Hdr.replyQ (h : Hdr) : Nat := bitsOf h.reply 13 0

/-- The 16 header bytes. -/
def mkHdr (len seq tag flags src time : Nat) : List Byte :=
  leBytes len 2 ++ leBytes seq 2 ++ leBytes tag 2 ++ leBytes flags 1 ++ leBytes src 1 ++ leBytes time 8

/-! ### Notifications (R158) -/

/-- The queue-ready signal to an engine (R274). -/
def Dev.queueReady (d : Dev) (e n : Nat) : Dev :=
  let f := d.qmg.ready.get e ([], false)
  let f := if f.1.length < 16 then (f.1 ++ [n], f.2) else (f.1, true)
  { d with qmg := { d.qmg with ready := d.qmg.ready.set e f ([], false) } }

/-- The notification of a queue's consumer (R158). -/
def Dev.notifyQueue (d : Dev) (n : Nat) : Dev :=
  let q := d.q n
  if !q.irqEn then d
  else match q.consKind with
    | 0 => d.queueReady q.consId n
    | 2 => d.msix q.vector
    | 3 => if q.consId = 0 then d.emit (.refugeIrq n) else d
    | _ => d

/-! ### Rings (R152, R156, R160, R163) -/

/-- Puts an item at prod of the ring and makes it visible: the status of the store, which alone decides (R294). -/
def Dev.ringPut (d : Dev) (n : Nat) (bytes : List Byte) (e : Ent) : Status × Dev :=
  let q := d.q n
  let (st, d) := d.hwStore 0xFE (q.slotAddr q.prod) bytes
  if st ≠ .ok then (st, d)
  else
    let q := { q with prod := idx (q.prod + 1), ents := q.ents ++ [e] }
    let d := d.setQ n q
    (.ok, if q.notify ≠ 0 ∧ q.unclaimed = q.notify then d.notifyQueue n else d)

/-- Puts an item at the tail of the spill ring in DRAM, with spilled set (R163): the status of the store. -/
def Dev.spillPut (d : Dev) (n : Nat) (bytes : List Byte) (e : Ent) : Status × Dev :=
  let q := d.q n
  let b := overlay bytes 6 [BitVec.ofNat 8 (setBits (leValue (slice bytes 6 1)) 2 2 1)]
  let (st, d) := d.hwStore 0xFE (q.spillAddr (q.spillHead + q.spill.length)) b
  (st, if st = .ok then d.setQ n { q with spill := q.spill ++ [e] } else d)

/-- New items go to the spill ring: it holds items, or the ring has no credit (R163). -/
def Queue.spilling (q : Queue) : Bool := q.spillCap != 0 && (!q.spill.isEmpty || q.credit == 0)

/-- The spill ring is full. -/
def Queue.spillFull (q : Queue) : Bool := decide (q.spillCap ≤ q.spill.length)

/-! ### Completion (R154, R159, R170) -/

/-- Frees a tag whose item ended; a tag of another generation is not touched (R168). -/
def Dev.freeTag (d : Dev) (tag : Nat) : Dev :=
  let t := d.tag (tag % 2048)
  if tag ≠ 0xFFFF ∧ t.used ∧ t.gen = tag / 2048 then d.setTag (tag % 2048) { t with used := false, item := none, tmo := 0 } else d

/-- Writes a completion item into a reserved reply slot (R154). The tag in its header names the item that ended, not the completion, so
the entry carries none. -/
def Dev.putCompletion (d : Dev) (rq n seq tag src : Nat) (st arg : Nat) : Dev :=
  let r := d.q rq
  let d := d.setQ rq { r with reserved := r.reserved - 1 }
  if !r.valid then d
  else (d.ringPut rq (mkHdr 8 seq tag 0 src d.tickTai ++ leBytes st 1 ++ [0] ++ leBytes n 2 ++ leBytes arg 4)
    { seq := seq }).2

/-- Ends an item: its completion, if one is due, and its tag (R159). -/
def Dev.endItem (d : Dev) (n : Nat) (e : Ent) (src st arg : Nat) : Dev :=
  if e.done then d
  else
    let d := d.freeTag e.tag
    match e.reply with
    | some rq => d.putCompletion rq n e.seq e.tag src st arg
    | none => d

/-- The item at position `i` of the ring (from cons) is completed. -/
def Dev.completeAt (d : Dev) (n i : Nat) (src st arg : Nat) : Dev :=
  let q := d.q n
  match q.ents[i]? with
  | none => d
  | some e => (d.setQ n { q with ents := q.ents.set i { e with done := true } }).endItem n e src st arg

/-- Discards a list of items, each reply_en item completed with a status by QMG (R173, R549). -/
def Dev.abortItems (d : Dev) (n : Nat) (es : List Ent) (st : Status) : Dev :=
  es.foldl (fun d e => d.endItem n e 0xFE st.code 0) d

/-- Sets the void flag of the item at an address (R153). -/
def Dev.voidAt (d : Dev) (item : Nat) : Dev :=
  let (st, b, d) := d.hwLoad 0xFE (item + 6) 1
  if st = .ok then (d.hwStore 0xFE (item + 6) (leBytes (setBits (leValue b) 3 3 1) 1)).2 else d

/-- Sets the void flag of the item in ring slot `i`. -/
def Dev.voidSlot (d : Dev) (n i : Nat) : Dev := d.voidAt ((d.q n).slotAddr i)

/-- Puts an item at prod of the ring, or loses it with the status that its store met. -/
def Dev.ringOrLose (d : Dev) (n : Nat) (bytes : List Byte) (e : Ent) : Dev :=
  let (st, d) := d.ringPut n bytes e
  if st = .ok then d else d.endItem n e 0xFE st.code 0

/-- Moves the head of the spill ring into a free slot of the ring (R163); one that cannot be read is lost (R301). -/
def Dev.refillOne (d : Dev) (n : Nat) : Dev :=
  let q := d.q n
  match q.spill with
  | [] => d
  | e :: es =>
    if q.credit = 0 then d
    else
      let (st, bytes, d) := d.hwLoad 0xFE (q.spillAddr q.spillHead) q.slot
      let bytes := bytes.take (16 + (parseHdr bytes).len)
      let d := d.setQ n { q with spill := es, spillHead := (q.spillHead + 1) % q.spillCap }
      if st = .ok then d.ringOrLose n bytes e else d.endItem n e 0xFE st.code 0

/-- Each slot that a free releases is refilled (R163). -/
def Dev.refill (d : Dev) (n k : Nat) : Dev := (List.range k).foldl (fun d _ => d.refillOne n) d

/-! ### Duplicate suppression (R172) -/

/-- The judgement of an item's seq: its status (ST_OK new, ST_DUPLICATE, ST_PROTOCOL below the window) and the queue's
new window. -/
def Queue.judge (q : Queue) (seq : Nat) : Status × Queue :=
  if q.first then (.ok, { q with first := false, h := seq, map := 0 })
  else
    let dd := (seq + 65536 - q.h) % 65536
    if 1 ≤ dd ∧ dd ≤ 32767 then (.ok, { q with h := seq, map := (q.map * 2 ^ dd + 2 ^ (dd - 1)) % 2 ^ 64 })
    else if dd = 0 then (.duplicate, q)
    else
      let b := 65536 - dd
      if 64 < b then (.protocol, q)
      else if q.map.testBit (b - 1) then (.duplicate, q)
      else (.ok, { q with map := setBits q.map (b - 1) (b - 1) 1 })

/-! ### Enqueue (R153, R155, R156, R162 to R165) -/

/-- How many of `n` unclaimed items from position `i` at the head are overtaken by `time` (R162). A header that cannot be read is
reported (R294), and its item stays. -/
def Dev.overtaken (d : Dev) (q : Queue) (time i : Nat) : Nat → Nat × Dev
  | 0 => (0, d)
  | n + 1 =>
    let (st, b, d) := d.hwLoad 0xFE (q.slotAddr (q.cons + i) + 8) 8
    if st = .ok ∧ leValue b + q.ageLimit * 1000 < time then
      let r := d.overtaken q time (i + 1) n
      (r.1 + 1, r.2)
    else (0, d)

/-- The late drop at the head of a stream queue (R162). -/
def Dev.lateDrop (d : Dev) (n time : Nat) : Dev :=
  let q := d.q n
  if q.kind = 0 ∧ q.ageLimit ≠ 0 ∧ q.claim = q.cons then
    let (k, d) := d.overtaken q time 0 q.ents.length
    if k = 0 then d
    else
      let late := satAdd 0xFFFF q.late k
      let d := (d.abortItems n (q.ents.take k) .aborted).setQ n { q with
        cons := idx (q.cons + k), claim := idx (q.claim + k), ents := q.ents.drop k, late := late, gap := true }
      (List.range k).foldl (fun d _ => d.qRec 0x600A 3 n late) (d.qStat 6 k)
  else d

/-- Makes one accepted item visible in its ring, or puts it into the spill ring, and judges it for duplicates. `bytes`
is the whole item, header first. -/
def Dev.admitItem (d : Dev) (n : Nat) (bytes : List Byte) (e : Ent) : Dev :=
  let q := d.q n
  let (st, q) := if q.kind = 1 ∧ q.dedup then q.judge e.seq else (.ok, q)
  let flags := leValue (slice bytes 6 1)
  let flags := if q.gap then setBits flags 0 0 1 else flags
  let flags := if st = .ok then flags else setBits flags 3 3 1
  let bytes := overlay bytes 6 [BitVec.ofNat 8 flags]
  let spill := q.spilling
  let d := d.setQ n { q with gap := false, count := idx (q.count + 1) }
  let d := if e.tag = 0xFFFF then d else
    let t := d.tag (e.tag % 2048)
    d.setTag (e.tag % 2048) { t with item := some n, start := d.tickTai }
  if spill then
    let (st, d) := d.spillPut n bytes e
    if st = .ok then d else d.endItem n e 0xFE st.code 0
  else if st = .ok then d.ringOrLose n bytes e
  else
    let d := if st = .duplicate then (d.qStat 4).qRec 0x6006 1 n e.seq else (d.qStat 5).qRec 0x6007 3 n e.seq
    (d.ringPut n bytes { e with done := true }).2.endItem n e 0xFE st.code 0

/-- What becomes of a hardware producer's item: taken, discarded, or held back by its producer (R164). -/
inductive Enq where
  | taken | dropped | held
  deriving DecidableEq, Repr

/-- A hardware producer's item (R156, R162 to R165). `src` is the producer's ID, `cmd` the seq and tag that a fabric
item keeps (R499), `fl` the flags its producer sets. -/
def Dev.hwEnqueue (d : Dev) (n src time : Nat) (payload : List Byte) (cmd : Option (Nat × Nat) := none)
    (fl : Nat := 0) : Enq × Dev :=
  let q := d.q n
  if !q.valid ∨ q.prodId ≠ 0xFE ∨ !q.enabled then (.dropped, d.fullDrop n)
  else if d.rowBad pgQMG n then (.dropped, d.tableFault pgQMG n)
  else
    let d := d.lateDrop n time
    let q := d.q n
    let room := q.slot - 16
    let cut := decide (room < payload.length)
    let pl := payload.take room
    let (seq, tag) := cmd.getD (q.count, 0xFFFF)
    let flags := if cut then setBits fl 1 1 1 else fl
    let item := mkHdr pl.length seq tag flags src time ++ pl
    let e : Ent := { seq := seq }
    if q.spilling then
      if q.spillFull then (.held, d) else (.taken, d.admitItem n item e)
    else if q.credit = 0 then
      match q.kind with
      | 0 =>
        let q := d.q n
        (.dropped, ((d.setQ n { q with gap := true }).fullDrop n).qRec 0x600A 3 n q.late)
      | 1 => (.dropped, (d.fullDrop n).qRec 0x600C 5 n src)
      | _ => (.held, d)
    else (.taken, d.admitItem n item e)

/-- The item of an enqueue step or of another producer that does not hold items back: a held one is discarded, counted
and recorded (R164). -/
def Dev.hwEnqueueOrDrop (d : Dev) (n src time : Nat) (payload : List Byte) : Enq × Dev :=
  match d.hwEnqueue n src time payload with
  | (.held, d) => (.dropped, (d.fullDrop n).qRec 0x600B 4 n src)
  | x => x

/-! ### The software producer (R155, R548) -/

/-- The indices of a requester's tag range (R167): first and count. -/
def tagRange (r : Req) : Nat × Nat :=
  match r with
  | .eng e => (16 * e.val, 16)
  | .hst => (1536, 256)
  | .refuge => (1792, 128)
  | _ => (0, 0)

/-- The tag is allocated to the requester under its current generation. -/
def Dev.ownsTag (d : Dev) (r : Req) (tag : Nat) : Bool :=
  let i := tag % 2048
  let t := d.tag i
  decide ((tagRange r).1 ≤ i) && decide (i < (tagRange r).1 + (tagRange r).2) && t.used && t.gen == tag / 2048

/-- R154: the reply queue is an enabled command queue of the same world with slots of at least 32 bytes. -/
def Dev.replyOk (d : Dev) (q : Queue) (rq : Nat) : Bool :=
  let r := d.q rq
  r.valid && r.kind == 1 && r.enabled && r.world == q.world && decide (32 ≤ r.slot)

/-- A header is malformed (R548); `seen` holds the tags of the headers before it in the same doorbell. -/
def Dev.malformed (d : Dev) (r : Req) (q : Queue) (seen : List Nat) (h : Hdr) : Bool :=
  decide (q.slot - 16 < h.len) || bitsOf h.flags 7 4 != 0 ||
    (h.tag != 0xFFFF && (!d.ownsTag r h.tag || (d.tag (h.tag % 2048)).item.isSome || seen.contains h.tag)) ||
    (q.kind == 1 && (decide (h.len < 4) || h.pad != 0 || (h.replyEn && !d.replyOk q h.replyQ)))

/-- The slot indices a doorbell of `cnt` announces (R155). -/
def Queue.announced (q : Queue) (cnt : Nat) : List Nat := (List.range cnt).map (fun j => idx (q.prod + j))

/-- The first malformed slot of a doorbell. -/
def Dev.firstMalformed (d : Dev) (r : Req) (q : Queue) (cnt : Nat) : Option Nat :=
  let go := (q.announced cnt).foldl (fun (acc : Option Nat × List Nat) i =>
    match acc.1 with
    | some _ => acc
    | none =>
      let h := parseHdr (d.load (q.slotAddr i) 20)
      if d.malformed r q acc.2 h then (some i, acc.2) else (none, h.tag :: acc.2)) (none, [])
  go.1

/-- Whether the requester's world is not the queue's (R175). HST and DBG act for the page's owner (R285). -/
def Dev.reqWorld (d : Dev) (r : Req) : Nat :=
  match r with
  | .eng e => d.engWorld e.val
  | .hst => d.pageWorld pgQMG
  | .dbg => d.pageWorld pgQMG
  | _ => 0

def Dev.foreignQueue (d : Dev) (r : Req) (q : Queue) : Bool :=
  r != .refuge && (!q.known || q.world == 2 || d.reqWorld r != q.world + 1)

/-- The reply queues a doorbell's items name. -/
def Dev.replyNeeds (d : Dev) (q : Queue) (cnt : Nat) : List Nat :=
  if q.kind = 1 then
    (q.announced cnt).filterMap (fun i =>
      let h := parseHdr (d.load (q.slotAddr i) 20)
      if h.replyEn then some h.replyQ else none)
  else []

/-- Every reply queue has a slot to reserve for each of its items (R155). -/
def Dev.repliesFit (d : Dev) (n cnt : Nat) (needs : List Nat) : Bool :=
  needs.all (fun rq => decide ((needs.filter (· == rq)).length + (if rq = n then cnt else 0) ≤ (d.q rq).credit))

/-- The credit a doorbell counts, with the free slots of the spill ring (R160). -/
def Queue.doorCredit (q : Queue) : Nat := q.credit + (q.spillCap - q.spill.length)

/-- One item of an accepted doorbell: QMG overwrites src, for stream and record items seq, for record items time
(R153). -/
def Dev.announce (d : Dev) (r : Req) (n i : Nat) : Dev :=
  let q := d.q n
  let b := d.load (q.slotAddr i) q.slot
  let h := parseHdr b
  let d := if q.kind = 0 then d.lateDrop n h.time else d
  let q := d.q n
  let seq := if q.kind = 1 then h.seq else q.count
  let time := if q.kind = 2 then d.tickTai else h.time
  let reply := if q.kind = 1 ∧ h.replyEn then some h.replyQ else none
  let item := mkHdr h.len seq h.tag h.flags (reqId r) time ++ slice b 16 h.len
  d.admitItem n item { seq := seq, tag := h.tag, reply := reply }

/-- QMG_DB_PROD (R155): the refusal, with its record. -/
def Dev.doorbellStatus (d : Dev) (r : Req) (n cnt : Nat) : Status :=
  let q := d.q n
  let look := if q.valid then min cnt q.depth else 0
  let bad := (q.announced look).any (fun i => (d.firstBad 3 (q.slotAddr i) q.slot).isSome)
  pickStatus [if bad || d.rowBad pgQMG n then .faultDetected else .ok,
    if d.foreignQueue r q || q.prodId != reqId r then .denied else .ok,
    if cnt = 0 ∨ (d.firstMalformed r q look).isSome then .badParam else .ok,
    if q.doorCredit < cnt ∨ !d.repliesFit n cnt (d.replyNeeds q look) then .full else .ok,
    if q.enabled then .ok else .notReady]

/-- The first uncorrectable word of the slots a doorbell announces is reported (R303). -/
def Dev.doorbellFault (d : Dev) (r : Req) (n cnt : Nat) : Dev :=
  let q := d.q n
  match (q.announced (if q.valid then min cnt q.depth else 0)).findSome? (fun i => d.firstBad 3 (q.slotAddr i) q.slot) with
  | some w => d.memFault 3 w.1 w.2 (reqId r)
  | none => d

/-- The record of a refused doorbell (R174). -/
def Dev.doorbellRecord (d : Dev) (r : Req) (n cnt : Nat) (st : Status) : Dev :=
  let q := d.q n
  match st with
  | .denied => if q.prodId ≠ reqId r then d.qRec 0x6001 4 n (reqId r) else d
  | .badParam =>
    match d.firstMalformed r q (if q.valid then min cnt q.depth else 0) with
    | some i => d.qRec 0x6003 3 n i
    | none => d
  | .full => if q.doorCredit < cnt then d.qRec 0x6002 3 n cnt else d
  | _ => d

/-- QMG_DB_PROD (R155). -/
def Dev.doorbell (d : Dev) (r : Req) (v : Nat) : Status × Dev :=
  let n := bitsOf v 29 16
  let cnt := bitsOf v 15 0
  let st := d.doorbellStatus r n cnt
  let d := if d.rowBad pgQMG n then d.rowFault 4 pgQMG n (reqId r) else d.doorbellFault r n cnt
  if st ≠ .ok then (st, d.doorbellRecord r n cnt st)
  else
    let q := d.q n
    let d := (d.replyNeeds q cnt).foldl (fun d rq =>
      let t := d.q rq
      d.setQ rq { t with reserved := t.reserved + 1 }) d
    (.ok, (q.announced cnt).foldl (fun d i => d.announce r n i) d)

/-! ### The consumer (R157, R159) -/

/-- Frees the first `k` claimed items: each reply_en item not completed is completed with ST_ABORTED (R159); released
slots are refilled (R163). -/
def Dev.freeItems (d : Dev) (n k : Nat) : Dev :=
  let q := d.q n
  let d := d.setQ n { q with cons := idx (q.cons + k), ents := q.ents.drop k }
  (d.abortItems n (q.ents.take k) .aborted).refill n k

/-- Claims `k` unclaimed items. -/
def Dev.claimItems (d : Dev) (n k : Nat) : Dev :=
  let q := d.q n
  d.setQ n { q with claim := idx (q.claim + k) }

/-- QMG_DB_CONS (R157). -/
def Dev.consume (d : Dev) (r : Req) (v : Nat) : Status × Dev :=
  let n := bitsOf v 29 16
  let cnt := bitsOf v 15 0
  let q := d.q n
  let beyond := decide ((if v.testBit 31 then q.unclaimed else q.claimed) < cnt)
  let st := pickStatus [if d.foreignQueue r q then .denied else .ok, if cnt = 0 || beyond then .badParam else .ok,
    if d.rowBad pgQMG n then .faultDetected else .ok]
  let d := if d.rowBad pgQMG n then d.rowFault 4 pgQMG n (reqId r) else d
  if st ≠ .ok then (st, if st = .badParam ∧ beyond then d.qRec 0x6004 3 n cnt else d)
  else (.ok, if v.testBit 31 then d.claimItems n cnt else d.freeItems n cnt)

/-- QMG_CPL_ST (R159): an item that QMG has completed at its timeout is refused like any completed one, and the stale completion is
counted (R170). DESIGN CHOICE, log entry 479: the status byte goes into the completion as it is written, a code that R10 reserves
too. -/
def Dev.complete (d : Dev) (r : Req) (v : Nat) : Status × Dev :=
  let who := reqId r
  let n := d.rdOwn who QMG_CPL_Q_queue
  let seq := d.rdOwn who QMG_CPL_Q_seq
  let q := d.q n
  let held := q.ents.take q.claimed
  if d.foreignQueue r q then (.denied, d)
  else match held.findIdx? (fun e => e.seq == seq && e.reply.isSome && !e.done) with
    | some i => (.ok, d.completeAt n i who (bitsOf v 7 0) (d.rdOwn who QMG_CPL_ARG_arg))
    | none =>
      let d := if held.any (fun e => e.seq == seq && e.expired) then d.qStat 1 else d
      (.badParam, d.qRec 0x6005 3 n seq)

/-! ### Queue commands (R151, R173, R549) -/

/-- An egress entry of the stream table (R151). -/
def Dev.isEgressEntry (d : Dev) (i : Nat) : Bool :=
  let w := d.trv.entries.get i {}
  w.w0.testBit 31 && w.w0.testBit 30

/-- [lo, hi) and [lo', hi') overlap. -/
def overlaps (lo hi lo' hi' : Nat) : Bool := decide (lo < hi') && decide (lo' < hi)

/-- A descriptor breaks a condition of R151 that answers ST_BAD_PARAM. -/
def Dev.badDescriptor (d : Dev) (q : Queue) : Bool :=
  let lo := q.base
  let hi := q.base + q.slot * q.depth
  let sl := bitsOf q.w0 27 24
  let bank := d.rd TRV_CNT_BASE_base * 0x40000
  q.kind == 3 || (q.mgmt && q.kind != 1) || decide (sl < 5) || decide (14 < sl) || bitsOf q.w0 23 20 == 0 ||
  bitsOf q.w0 19 18 == 3 || q.w0.testBit 16 || q.w1.testBit 14 ||
  (match q.consKind with
    | 0 => decide (95 < q.consId)
    | 2 => q.consId != 0
    | 3 => decide (2 < q.consId)
    | _ => !d.isEgressEntry q.consId || q.prodId != 0xFE) ||
  (q.kind != 0 && q.ageLimit != 0) || (q.kind != 2 && q.spillMib != 0) ||
  decide (hi - lo < 256) || decide (sbSize < hi) || overlaps lo hi bank (bank + 0x40000) ||
  (List.range 4).any (fun v => d.rd SBF_POOLv_size v != 0 && overlaps lo hi (d.rd SBF_POOLv_base v * 256)
    ((d.rd SBF_POOLv_base v + d.rd SBF_POOLv_size v) * 256)) ||
  (q.kind == 2 && q.spillMib != 0 && ((q.spillMib &&& (q.spillMib - 1)) != 0 || decide (q.spillBase < 0x1000000000) ||
    decide (0x3000000000 < q.spillBase + q.spillMib * 2 ^ 20)))

/-- The queue a requester's QMG_Q_SEL addresses. -/
def Dev.selQueue (d : Dev) (r : Req) : Nat := d.rdOwn (reqId r) QMG_Q_SEL_queue

/-- The queue that a requester's staged words describe; only the Refuge sets the world. -/
def Dev.stagedQueue (d : Dev) (r : Req) : Queue :=
  let q := d.q (d.selQueue r)
  let st (k : Nat) : Nat := d.rdOwn (reqId r) QMG_QD_Wk_word k
  let world := if r = .refuge then bitsOf (st 0) 19 18 else q.world
  { known := true, world := world, w0 := setBits (st 0) 19 18 world, w1 := st 1, w2 := st 2, w3 := st 3, reserved := q.reserved
    late := q.late, full := q.full }

/-- What refuses a commit (R151, R549). -/
def Dev.commitRefusal (d : Dev) (r : Req) : Status :=
  let q := d.q (d.selQueue r)
  let s := d.stagedQueue r
  pickStatus [if q.enabled || q.draining || q.pend then .busy else .ok, if s.valid && d.badDescriptor s then .badParam else .ok]

/-- Commit of a valid descriptor (R151), or invalidation, which keeps the world (R549). -/
def Dev.queueCommit (d : Dev) (r : Req) : Status × Dev :=
  let n := d.selQueue r
  let q := d.q n
  let s := d.stagedQueue r
  let st := d.commitRefusal r
  if st ≠ .ok then (st, d)
  else if !s.valid then
    let d := d.setQ n { known := q.known, world := q.world, reserved := q.reserved, late := q.late, full := q.full }
    (.ok, (d.abortItems n (q.ents ++ q.spill) .aborted).rowWritten pgQMG n)
  else (.ok, (d.setQ n s).rowWritten pgQMG n)

/-- The read command (R175). -/
def Dev.queueRead (d : Dev) (r : Req) : Status × Dev :=
  let q := d.q (d.selQueue r)
  let who := reqId r
  let w0 := setBits q.w0 19 18 q.world
  (.ok, (((d.wrOwn who QMG_QD_Wk_word w0 0).wrOwn who QMG_QD_Wk_word q.w1 1).wrOwn who QMG_QD_Wk_word q.w2 2).wrOwn who
    QMG_QD_Wk_word q.w3 3)

/-- Enable (R173, R28). -/
def Dev.queueEnable (d : Dev) (n : Nat) : Status × Dev :=
  let q := d.q n
  (.ok, if q.draining then d.setQ n { q with pend := true }
    else if q.enabled then d else d.setQ n { q with enabled := true, first := true })

/-- Disable (R173, R29). -/
def Dev.queueDisable (d : Dev) (n : Nat) : Status × Dev :=
  let q := d.q n
  (.ok, if q.pend then d.setQ n { q with pend := false } else d.setQ n { q with enabled := false })

/-- Drain (R173, R542): a queue neither enabled nor draining completes at once. -/
def Dev.queueDrain (d : Dev) (n : Nat) : Status × Dev :=
  let q := d.q n
  (.ok, if q.enabled then d.setQ n { q with enabled := false, draining := true } else d)

/-- Drain-discard (R173): every unclaimed and spilled item is discarded at once. -/
def Dev.queueDiscard (d : Dev) (n : Nat) : Status × Dev :=
  let d := (d.queueDrain n).2
  let q := d.q n
  let gone := q.ents.drop q.claimed ++ q.spill
  let d := d.setQ n { q with prod := q.claim, ents := q.ents.take q.claimed, spill := [], spillHead := 0 }
  (.ok, (d.abortItems n gone .aborted).qStat 8 gone.length)

/-- The condition under which a queue's drain is complete (R173). -/
def Queue.drained (q : Queue) : Bool :=
  q.draining && q.occupancy == 0 && q.spill.isEmpty

/-- The end of a queue's drain (R173, R28). -/
def Dev.queueDrainComplete (d : Dev) (n : Nat) : Dev :=
  let q := d.q n
  if q.drained then d.setQ n { q with draining := false, pend := false, enabled := q.pend, first := q.first || q.pend } else d

/-- The refusal of a queue command before its effect (R11, R175, R173). Every command but the commit, which writes the row anew, reads
the queue's row of the descriptor table (R294). -/
def Dev.queueCmdStatus (d : Dev) (r : Req) (cmd : Nat) : Status :=
  let q := d.q (d.selQueue r)
  let sup := match r with | .eng e => d.engSuper e.val | .dp _ => false | _ => true
  pickStatus [if d.foreignQueue r q || !sup then .denied else .ok, if cmd = 7 then .badParam else .ok,
    if cmd = 1 then d.commitRefusal r else .ok, if 3 ≤ cmd ∧ cmd ≤ 6 ∧ !q.valid then .notReady else .ok,
    if 2 ≤ cmd ∧ d.rowBad pgQMG (d.selQueue r) then .faultDetected else .ok]

/-- QMG_Q_CMD (R175). -/
def Dev.queueCmd (d : Dev) (r : Req) (v : Nat) : Status × Dev :=
  let cmd := bitsOf v 2 0
  let n := d.selQueue r
  if cmd = 0 then (.ok, d)
  else
    let st := d.queueCmdStatus r cmd
    let d := if 2 ≤ cmd ∧ d.rowBad pgQMG n then d.rowFault 4 pgQMG n (reqId r) else d
    if st ≠ .ok then (st, d)
    else match cmd with
      | 1 => d.queueCommit r
      | 2 => d.queueRead r
      | 3 => d.queueEnable n
      | 4 => d.queueDisable n
      | 5 => d.queueDrain n
      | _ => d.queueDiscard n

/-! ### Operation tags (R167 to R171) -/

/-- Allocates the lowest free index of a range. -/
def Dev.lowestFreeTag (d : Dev) (lo cnt : Nat) : Option Nat :=
  (List.range cnt).map (lo + ·) |>.find? (fun i => !(d.tag i).used)

/-- QMG_TAG_CMD op 1 (R168). -/
def Dev.tagAllocate (d : Dev) (r : Req) : Status × Dev :=
  let who := reqId r
  match d.lowestFreeTag (tagRange r).1 (tagRange r).2 with
  | none =>
    (.full, ((d.wrOwn who QMG_TAG_RES_status Status.full.code).wrOwn who QMG_TAG_RES_tag 0xFFFF).rated pgQMG 0x6008
      (65536 + who) 3 0xFFFF who)
  | some i =>
    let t := d.tag i
    let d := d.setTag i { t with used := true, tmo := d.rdOwn who QMG_TAG_TMO_tmo, item := none }
    (.ok, (d.wrOwn who QMG_TAG_RES_status 0).wrOwn who QMG_TAG_RES_tag (t.gen * 2048 + i))

/-- Cancels the item a tag names: the tag's generation advances, the tag is freed, the item is completed with a status
and, while unclaimed, voided (R168, R170). -/
def Dev.cancelTag (d : Dev) (i : Nat) (st : Status) : Dev :=
  let t := d.tag i
  let tag := t.gen * 2048 + i
  let d := d.setTag i { t with gen := (t.gen + 1) % 31, used := false, item := none, tmo := 0 }
  match t.item with
  | none => d
  | some n =>
    let q := d.q n
    match q.ents.findIdx? (fun e => e.tag == tag && !e.done) with
    | some k =>
      let e := q.ents.getD k {}
      let d := d.setQ n { q with ents := q.ents.set k { e with done := true, expired := true } }
      let d := if q.claimed ≤ k then d.voidSlot n (idx (q.cons + k)) else d
      d.endItem n e 0xFE st.code 0
    | none =>
      match q.spill.findIdx? (fun e => e.tag == tag && !e.done) with
      | some k =>
        let e := q.spill.getD k {}
        let d := d.setQ n { q with spill := q.spill.set k { e with done := true, expired := true } }
        (d.voidAt (q.spillAddr (q.spillHead + k))).endItem n e 0xFE st.code 0
      | none => d

/-- QMG_TAG_CMD op 2 (R168): a tag that is not the requester's is refused. -/
def Dev.tagFree (d : Dev) (r : Req) (tag : Nat) : Status × Dev :=
  if !d.ownsTag r tag then (.badParam, d)
  else if (d.tag (tag % 2048)).item.isSome then (.ok, d.cancelTag (tag % 2048) .aborted)
  else (.ok, d.freeTag tag)

/-- QMG_TAG_CMD. -/
def Dev.tagCmd (d : Dev) (r : Req) (v : Nat) : Status × Dev :=
  match bitsOf v 1 0 with
  | 0 => (.ok, d)
  | 1 => d.tagAllocate r
  | 2 => d.tagFree r (bitsOf v 31 16)
  | _ => (.badParam, d)

/-- The timeout of tag `i` has passed (R170). -/
def Dev.tagExpired (d : Dev) (i : Nat) : Bool :=
  let t := d.tag i
  t.used && t.item.isSome && t.tmo != 0 && decide (t.start + t.tmo * 10000 ≤ d.tickTai)

/-- The timeout of tag `i` expires (R170). -/
def Dev.tagTimeout (d : Dev) (i : Nat) : Dev :=
  if d.tagExpired i then
    let t := d.tag i
    ((d.cancelTag i .timeout).qStat 2).qRec 0x6010 4 (t.item.getD 0xFFFF) ((d.tickTai - t.start) / 1000)
  else d

/-- A lower level used up its budget on the item at ring position `i`: it completes with ST_RETRY_EXHAUSTED (R171). -/
def Dev.exhausted (d : Dev) (n i src attempts : Nat) : Dev :=
  ((d.completeAt n i src Status.retryExhausted.code 0).qStat 3).qRec 0x6011 4 n attempts

/-- The retry budget of R169 in ns: the native budget, clamped to T/2 − 50 ns where the item's T is not 0. -/
def Dev.budget (d : Dev) (e : Ent) (native : Nat) : Nat :=
  let t := d.tag (e.tag % 2048)
  if e.tag = 0xFFFF ∨ t.tmo = 0 then native else min native (t.tmo * 5000 - 50)

/-- The item of a lower level still stands: its tag, if any, has not been cancelled (R170). -/
def Dev.tagLive (d : Dev) (tag : Nat) : Bool :=
  tag == 0xFFFF || ((d.tag (tag % 2048)).used && (d.tag (tag % 2048)).gen == tag / 2048)

/-! ### Staging pools (R161) -/

/-- Units channel `v` holds out of pool `w`. -/
def Dev.poolHeld (d : Dev) (v w : Nat) : Nat := d.qmg.pool.get (4 * v + w) 0

/-- Units of pool `w` in use by any channel, and units channel `v` holds (SBF_POOL_USEv.used). -/
def Dev.poolTaken (d : Dev) (w : Nat) : Nat := (List.range 4).foldl (fun s v => s + d.poolHeld v w) 0
def Dev.poolUsed (d : Dev) (v : Nat) : Nat := (List.range 4).foldl (fun s w => s + d.poolHeld v w) 0

def Dev.poolAdd (d : Dev) (v w : Nat) (n : Int) : Dev :=
  let k := 4 * v + w
  { d with qmg := { d.qmg with pool := d.qmg.pool.set k ((d.qmg.pool.get k 0 : Int) + n).toNat 0 } }

/-- How many of `units` for channel `v` are short, and how the others are made up: (pool, units) from its own pool, then, for channels 1
to 3, from the other pools of 1 to 3 lowest first within the borrow limit. -/
def Dev.poolPlan (d : Dev) (v units : Nat) : Nat × List (Nat × Nat) :=
  let free (w : Nat) : Nat := d.rd SBF_POOLv_size w - d.poolTaken w
  let own := min units (free v)
  let borrowed := (List.range 4).foldl (fun s w => if w = v then s else s + d.poolHeld v w) 0
  let others := if v = 0 then [] else [1, 2, 3].filter (· != v)
  let step (acc : Nat × Nat × List (Nat × Nat)) (w : Nat) : Nat × Nat × List (Nat × Nat) :=
    let k := min (min acc.1 (free w)) acc.2.1
    (acc.1 - k, acc.2.1 - k, if k = 0 then acc.2.2 else acc.2.2 ++ [(w, k)])
  let r := others.foldl step (units - own, d.rd SBF_BORROWv_limit v - borrowed, [(v, own)])
  (r.1, r.2.2)

/-- Notes the peak of a channel's use. -/
def Dev.poolPeak (d : Dev) (v : Nat) : Dev :=
  let u := min 0xFFFF (d.poolUsed v)
  (d.wr SBF_POOL_USEv_used u v).wr SBF_POOL_USEv_peak (max u (d.rd SBF_POOL_USEv_peak v)) v

/-- Claims units of the pools. -/
def Dev.poolTake (d : Dev) (v : Nat) (plan : List (Nat × Nat)) : Dev := (plan.foldl (fun d p => d.poolAdd v p.1 p.2) d).poolPeak v

/-- Releases staging units; a borrowed unit goes back to its own pool. -/
def Dev.unstage (d : Dev) (v : Nat) (plan : List (Nat × Nat)) : Dev :=
  (plan.foldl (fun d p => d.poolAdd v p.1 (-(p.2 : Int))) d).poolPeak v

/-- Claims staging units as a frame's bytes arrive; where the channel finds too few, the frame is discarded, the units it held until then
are released, and record 0x6009 counts it (R161, R174; log entry 356). -/
def Dev.stage (d : Dev) (v units : Nat) : Option (List (Nat × Nat)) × Dev :=
  let plan := d.poolPlan v units
  let taken := d.poolTake v plan.2
  if plan.1 = 0 then (some plan.2, taken)
  else (none, (taken.unstage v plan.2).rated pgQMG 0x6009 (2 * 65536 + v) (if v = 0 then 6 else 4) 0xFFFF v)

/-! ### Register writes of QMG and SBF -/

def Dev.qmgWrite (d : Dev) (r : Req) (off v : Nat) : Status × Dev :=
  match off with
  | 0x054 => d.queueCmd r v
  | 0x080 => d.doorbell r v
  | 0x084 => d.consume r v
  | 0x090 => d.complete r v
  | 0x098 => d.tagCmd r v
  | 0x0A4 => d.plainWrite pgQMG off v
  | _ => d.ownWrite (reqId r) pgQMG off v

/-- SBF_HWIN_BASEk and _SIZEk (R175). -/
def Dev.sbfWindowWrite (d : Dev) (off v : Nat) : Status × Dev :=
  let k := (off - 0x0A0) / 8
  let size := (off - 0x0A0) % 8 = 4
  let en := if size then d.flag SBF_HWIN_BASEk_en k else v.testBit 31
  let base := if size then d.rd SBF_HWIN_BASEk_base k else bitsOf v 11 0
  let sz := if size then bitsOf v 12 0 else d.rd SBF_HWIN_SIZEk_size k
  if (size ∧ 4096 < sz) ∨ (en ∧ 4096 < base + sz) then (.badParam, d) else d.plainWrite pgSBF off v

def Dev.sbfWrite (d : Dev) (off v : Nat) : Status × Dev :=
  if 0x0A0 ≤ off ∧ off < 0x0E0 then d.sbfWindowWrite off v
  else if off = 0x050 then (.ok, d)
  else d.plainWrite pgSBF off v

/-! ### Register reads -/

/-- The computed registers of QMG. -/
def Dev.qmgRead (d : Dev) (r : Req) (off : Nat) : Nat × Dev :=
  let n := d.selQueue r
  let q := d.q n
  match off with
  | 0x058 => (b2n q.enabled * 2 ^ 31 + b2n q.draining * 2 ^ 30 + b2n q.pend * 2 ^ 29 + b2n (!q.spill.isEmpty) * 2 ^ 28 +
      q.occupancy, d)
  | 0x05C => (q.cons * 65536 + q.prod, d)
  | 0x060 => (q.claim, d)
  | 0x064 => (q.h, d)
  | 0x068 => (q.map % 2 ^ 32, d)
  | 0x06C => (q.map / 2 ^ 32, d)
  | 0x070 => (q.late * 65536 + q.full, d.setQ n { q with late := 0, full := 0 })
  | 0x074 => (q.spill.length, d)
  | 0x0A0 =>
    let mine := (d.qmg.tags.filter (fun t => t.2.used && decide ((tagRange r).1 ≤ t.1) &&
      decide (t.1 < (tagRange r).1 + (tagRange r).2))).length
    (mine * 65536 + (d.qmg.tags.filter (·.2.used)).length, d)
  | _ => (0, d)

end Sys2Proof.Machine
end

