-- ==== Sys2Proof/Machine/Resample.lean ====
section
/-! DEFINITION. The resamplers RSM0 to RSM11 (R194 to R198, R200, R201), and what they and WFC see of a converter lane (R182). -/

namespace Sys2Proof.Machine

open Sys2Proof

def pgCNV : Nat := 0x030
def pgWFC : Nat := 0x031
def pgRSM : Nat := 0x040

/-- f_m cycles per sample and samples per second of a rate code (R177); 0 for a reserved code. -/
def rateDiv (code : Nat) : Nat := match code with | 0 => 36 | 1 => 50 | 2 => 72 | 3 => 100 | 4 => 250 | 5 => 500 | _ => 0
def rateHz (code : Nat) : Nat := if rateDiv code = 0 then 0 else 720000000 / rateDiv code

/-- The nominal time of sample `k` of TAI second `s` in 2^-16 ns (R178): s + k · div / 0.72 ns. -/
def nominal16 (s k div : Nat) : Nat := s * 1000000000 * 65536 + k * div * 25 * 65536 / 18

/-! ### Converter lanes (R182) -/

def Dev.lane (d : Dev) (n : Nat) : CnvLane := d.cnv.lanes.get n {}
def Dev.setLane (d : Dev) (n : Nat) (x : CnvLane) : Dev := { d with cnv := { d.cnv with lanes := d.cnv.lanes.set n x {} } }

/-- CNV and its synthesiser run, and group `g` is enabled. -/
def Dev.grpOn (d : Dev) (g : Nat) : Bool :=
  d.flag STATUS_enabled 0 pgCNV && d.flag CNV_SYN_en && d.flag CNV_GRPg_en g && !d.bivouac

/-- Lane `n` is up (R182). -/
def Dev.laneUp (d : Dev) (n : Nat) : Bool :=
  d.flag CNV_LANE_CFGn_en n && d.grpOn (n / 4) && d.flag CNV_SYN_locked && (d.lane n).isSet && !(d.lane n).failed

/-! ### A context's fields -/

def RsmCtx.valid (c : RsmCtx) : Bool := c.w0.testBit 31
def RsmCtx.lanesKind (c : RsmCtx) : Bool := c.w0.testBit 30
def RsmCtx.orbit (c : RsmCtx) : Nat := bitsOf c.w0 29 28
def RsmCtx.grid (c : RsmCtx) : Nat := 32 * 2 ^ bitsOf c.w0 27 25
def RsmCtx.points (c : RsmCtx) : Nat := 2 ^ bitsOf c.w0 24 22
def RsmCtx.queue (c : RsmCtx) : Nat := bitsOf c.w0 13 0
def RsmCtx.lanes (c : RsmCtx) : List Nat := setBitsOf c.w3 32
def RsmCtx.channels (c : RsmCtx) : Nat := if c.lanesKind then c.lanes.length else bitsOf c.w0 21 18 + 1

def rsmKey (u c : Nat) : Nat := 32 * u + c
def Dev.rsmCtx (d : Dev) (k : Nat) : RsmCtx := d.rsm.ctx.get k {}
def Dev.setRsm (d : Dev) (k : Nat) (c : RsmCtx) : Dev := { d with rsm := { d.rsm with ctx := d.rsm.ctx.set k c {} } }

/-- Adds to a statistic of a context: 0 points, 1 replaced inputs, 2 overruns, 3 discarded steps. -/
def Dev.rsmStat (d : Dev) (k i : Nat) (n : Nat := 1) : Dev :=
  { d with rsm := { d.rsm with stat := d.rsm.stat.set (4 * k + i) (satAdd (2 ^ 64 - 1) (d.rsm.stat.get (4 * k + i) 0) n) 0 } }

/-- A record of RSM (R200): p0 holds the resampler in [12:8] and the context in [4:0]. -/
def Dev.rsmRec (d : Dev) (k code sev p2 : Nat) : Dev :=
  d.rated (pgRSM + k / 32) code (65536 + k) sev (k / 32 * 256 + k % 32) p2

/-- The sample rate of the group of a lane set; 0 for no lanes. -/
def Dev.lanesRate (d : Dev) (lanes : Nat) : Nat :=
  match lowestBit lanes 32 with | some l => rateHz (d.rd CNV_GRPg_rate (l / 4)) | none => 0

/-- The input rate: W1, or the lanes' group (kind 1). -/
def Dev.rsmRate (d : Dev) (c : RsmCtx) : Nat := if c.lanesKind then d.lanesRate c.w3 else bitsOf c.w1 24 0

/-- The prefilter's decimation P (R194). -/
def prefilter (rIn : Nat) : Nat := if 61440 < rIn then rIn / 30720 else 1

/-- r_k in 2^-24 Hz: the lower of the prefiltered input rate and the point rate (R194). -/
def kernelRate (rIn rate : Nat) : Nat := min (rIn * 2 ^ 24 / prefilter rIn) rate

/-- Half the kernel's span, 16/r_k, in 2^-16 ns. -/
def kernelHalf (rIn rate : Nat) : Nat :=
  let p := prefilter rIn
  let s : Int := 65536 * 1000000000
  (if rIn * 2 ^ 24 ≤ rate * p then divFree (16 * p * s) rIn else divFree (16 * 2 ^ 24 * s) rate).toNat

/-- 16/r_k plus the prefilter's delay, in 2^-16 ns, for an input rate and a point rate in 2^-24 Hz (R194, R196). -/
def kernelWait (rIn rate : Nat) : Nat :=
  kernelHalf rIn rate + (divFree (5 * ((prefilter rIn : Int) - 1) * (65536 * 1000000000)) (2 * rIn)).toNat

/-! ### Grid points (R194) -/

/-- The points of a context's grid between two positions of its orbit (in position units). -/
def gridBetween (n before now : Nat) : List Nat :=
  let u := orbCycle / n
  let lo := before / u + 1
  (List.range (now / u + 1 - lo)).map (fun i => (lo + i) * u)

/-- A context at a tick: the points its orbit passed since the tick before. While the orbit is IDLE there are none (R196), and points
without input and a part of an item are dropped (log entry 344). -/
def Dev.rsmTickOne (d : Dev) (k : Nat) : Dev :=
  let c := d.rsmCtx k
  let st := d.orbState c.orbit
  let o := d.orbit c.orbit
  if !c.valid then d
  else if st = 0 then d.setRsm k { c with last := none, wait := [], item := [] }
  else
    let new := match c.last with
      | none => []
      | some (t0, p0, f0) => (gridBetween c.grid p0 o.vis).map (fun p =>
          { pos := p / orbStep
            t := ((t0 * 65536 : Nat) + divFree (((p : Int) - p0) * 256000000000) f0).toNat
            rate := c.grid * f0.toNat
            unlocked := st != 2 })
    d.setRsm k { c with last := some (d.tickTai, o.vis, o.f), wait := c.wait ++ new }

def Dev.rsmTick (d : Dev) : Dev := (d.rsm.ctx.map (·.1)).foldl Dev.rsmTickOne d

/-! ### Output (R197) -/

/-- The payload of an item. -/
def rsmPayload (k ch : Nat) (pts : List (RsmPoint × List Int × Bool)) : List Byte :=
  let first := (pts.head?.map (·.1.pos)).getD 0
  let flags := b2n (pts.any (·.1.unlocked)) + 2 * b2n (pts.any (·.2.2))
  leBytes first 8 ++ leBytes (k % 32) 1 ++ leBytes ch 1 ++ leBytes pts.length 1 ++ leBytes flags 1 ++ leBytes 0 4 ++
    (pts.map (fun p => (p.2.1.map (fun v => leBytes (unsigned 32 v) 4)).flatten)).flatten

/-- A computed point joins the item, which is enqueued when it holds P points: to the queues that the program's enqueue steps name,
or to W0.queue (R127, R197; log entry 51). -/
def Dev.rsmEmit (d : Dev) (k : Nat) (p : RsmPoint × List Int × Bool) : Dev :=
  let c := d.rsmCtx k
  let item := c.item ++ [p]
  let d := d.rsmStat k 0
  if item.length < c.points then d.setRsm k { c with item := item }
  else
    let time := ((item.head?.map (·.1.t)).getD 0) / 65536
    (if c.dests.isEmpty then [c.queue] else c.dests).foldl (fun d q =>
      (d.hwEnqueueOrDrop q 0xFE time (rsmPayload k c.channels item)).2) (d.setRsm k { c with item := [] })

/-- A quotient rounded to the nearest. -/
def roundDiv (n : Int) (m : Nat) : Int := (2 * n + m) / (2 * m)

/-- One integrator and comb of a CIC: the sums of `p` inputs in a row. -/
def movingSums (p : Nat) (l : List Int) : List Int :=
  (List.range (l.length + 1 - p)).map (fun i => ((l.drop i).take p).foldl (· + ·) 0)

/-- The index of an input sample since the epoch, by its time in 2^-16 ns. -/
def inputIndex (rIn t : Nat) : Nat := (2 * t * rIn + 65536000000000) / (2 * 65536000000000)

/-- The prefilter of R194 over an input, newest first: a CIC of order 5 and gain 1 that decimates by `p`, with each output at the middle
of the 5(p - 1) + 1 inputs it sums. DESIGN CHOICE, log entry 24: the outputs are those whose newest input has an index that `p`
divides. -/
def cicPrefilter (rIn p : Nat) (hist : List (Nat × Int)) : List (Nat × Int) :=
  if p ≤ 1 then hist
  else
    let ts := hist.map (·.1)
    let ys := (List.range 5).foldl (fun l _ => movingSums p l) (hist.map (·.2))
    ((ts.zip (ts.drop (5 * (p - 1)))).zip ys).filterMap (fun e =>
      if inputIndex rIn e.1.1 % p = 0 then some ((e.1.1 + e.1.2) / 2, roundDiv e.2 (p ^ 5)) else none)

/-- A point of one channel: the reconstruction of the input at the point's instant (R194), with an error within the bounds of R195.
0.02 % of amplitude and 0.01° of phase move a component by at most 0.000266 of its amplitude, here that of the largest input value,
rounded up to the next integer; the components these bounds cover, up to harmonic 12, 25 or 50 by N, are those that the kernel
passes. Before the context's input began the kernel has no samples to work on, and the value is free (log entry 24). -/
def rsmValue (rIn : Nat) (hist : List (Nat × Int)) (p : RsmPoint) : Int :=
  let wait := kernelWait rIn p.rate
  let pre := prefilter rIn
  if !hist.any (fun h => decide (h.1 + wait ≤ p.t)) then (Config.resampled hist p.t pre p.rate).toInt
  else
    let rk := kernelRate rIn p.rate
    let half := kernelHalf rIn p.rate
    let near := (cicPrefilter rIn pre hist).filter (fun h => decide (h.1 ≤ p.t + half) && decide (p.t ≤ h.1 + half))
    let lim : Int := near.foldl (fun m h => max m h.2.natAbs) 0 * 266 / 1000000 + 1
    let err := clampInt (-lim) lim (Config.resampleError hist p.t pre p.rate).toInt
    clampInt (-2147483648) 2147483647 (reconstruct (droopInverse pre rIn rk) near p.t rk + err)

/-- The points whose input has come: each is computed from the context's input (R194, R196). -/
def Dev.rsmDrain (d : Dev) (k : Nat) : Dev :=
  let c := d.rsmCtx k
  let rIn := d.rsmRate c
  let newest := (c.hist.head?.map (·.time)).getD 0
  let ready := if d.orbState c.orbit = 0 then [] else c.wait.takeWhile (fun p => decide (p.t + kernelWait rIn p.rate ≤ newest))
  let d := d.setRsm k { c with wait := c.wait.drop ready.length }
  ready.foldl (fun d p =>
    let w := kernelWait rIn p.rate
    let repl := c.hist.any (fun h => h.replaced && decide (h.time ≤ p.t + w) && decide (p.t ≤ h.time + w))
    let vals := (List.range c.channels).map (fun i =>
      rsmValue rIn (c.hist.map (fun h => (h.time, h.vals.getD i 0))) p)
    d.rsmEmit k (p, vals, repl)) d

/-- One input sample: bad values are replaced by the channel's last good one (R196). -/
def RsmCtx.push (c : RsmCtx) (time : Nat) (vals : List (Int × Bool)) (span : Nat) : RsmCtx :=
  let prev := (c.hist.head?.map (·.vals)).getD []
  let vs := (List.range c.channels).map (fun i =>
    let v := vals.getD i (0, false)
    if v.2 then v.1 else prev.getD i 0)
  let bad := (List.range c.channels).any (fun i => !(vals.getD i (0, false)).2)
  { c with hist := { time := time, vals := vs, replaced := bad } :: c.hist.filter (fun h => decide (time ≤ h.time + span)) }

/-- A sample for a count that was not received before, and was replaced: it takes the replacement's place where the buffer still holds
it (log entry 480). -/
def RsmCtx.pushLate (c : RsmCtx) (time period : Nat) (vals : List (Int × Bool)) : RsmCtx :=
  { c with hist := c.hist.map (fun h =>
      if h.replaced && decide (h.time < time + period / 2) && decide (time < h.time + period / 2) then
        { h with
          vals := (List.range c.channels).map (fun i => if (vals.getD i (0, false)).2 then (vals.getD i (0, false)).1 else h.vals.getD i 0)
          replaced := (List.range c.channels).any (fun i => !(vals.getD i (0, false)).2) }
      else h) }

/-- How many counts before the count `n` at `time` were not received, from `due` and the time of the newest sample on: counts are known
modulo `modulus`, and the times tell how often they have wrapped. Negative for a count behind the newest (log entry 480). -/
def missedCounts (modulus n due time newest period : Nat) : Int :=
  let c : Int := ((n + modulus - due % modulus) % modulus : Nat)
  let t := roundDiv ((time : Int) - newest) period - 1
  c + roundDiv (t - c) modulus * modulus

/-- A sample joins the input, and the points it lets go are computed. -/
def Dev.rsmPush (d : Dev) (k time : Nat) (vals : List (Int × Bool)) (span : Nat) : Dev :=
  (d.setRsm k ((d.rsmCtx k).push time vals span)).rsmDrain k

/-- A block of input for a context: samples with their counts (modulo `modulus`), nominal times in 2^-16 ns and values
with their quality. Counts not received are missing samples (R196). -/
def Dev.rsmInput (d : Dev) (k modulus : Nat) (samples : List (Nat × Nat × List (Int × Bool))) : Dev :=
  let page := pgRSM + k / 32
  if d.rowBad page (k % 32) then d.tableFault page (k % 32)
  else
  let c0 := d.rsmCtx k
  let rIn := d.rsmRate c0
  let period := (65536 * 1000000000) / max 1 rIn
  let span := 4 * kernelWait rIn (c0.grid * (40 * 2 ^ 24))
  let d := samples.foldl (fun d s =>
    let c := d.rsmCtx k
    let gap : Int := match c.next, c.hist with
      | some n, h :: _ => missedCounts modulus s.1 n s.2.1 h.time period
      | _, _ => 0
    if gap < 0 then d.setRsm k (c.pushLate s.2.1 period s.2.2)
    else
      let gap := gap.toNat
      let d := (List.range gap).foldl (fun d i => d.rsmPush k (s.2.1 - (gap - i) * period) [] span) d
      let d := d.rsmPush k s.2.1 s.2.2 span
      let c := d.rsmCtx k
      let repl := gap + b2n ((c.hist.head?.map (·.replaced)).getD false)
      let d := d.setRsm k { c with next := some ((s.1 + 1) % modulus) }
      if repl = 0 then d else (d.rsmStat k 1 repl).rsmRec k 0x7023 3 0) d
  d

/-- The channel samples in a context's input buffer: one leaves every four CCLK, the 200 M samples/s of R198 (log entry 345). -/
def Dev.rsmFill (d : Dev) (c : RsmCtx) : Nat := c.fill - (d.cclk + d.off - c.fillAt) / 4

/-- A resample step that names no valid context is discarded, counted and recorded (R198). -/
def Dev.rsmDiscard (d : Dev) (k : Nat) : Dev := (d.rsmStat k 3).rsmRec k 0x7020 3 0

/-- A block for a valid context, dropped where its 4 KiB input buffer, 4 bytes to a channel sample, is full (R198). -/
def Dev.rsmBlock (d : Dev) (k modulus : Nat) (samples : List (Nat × Nat × List (Int × Bool))) : Dev :=
  let c := d.rsmCtx k
  let fill := d.rsmFill c
  if 4096 ≤ 4 * fill then (d.rsmStat k 2).rsmRec k 0x7021 4 0
  else (d.setRsm k { c with fill := fill + samples.length * c.channels, fillAt := d.cclk + d.off }).rsmInput k modulus samples

/-! ### Context commands (R198, R201) -/

/-- Input and output loads of a context in samples/s. -/
def Dev.rsmLoadIn (d : Dev) (c : RsmCtx) : Nat := if c.valid then c.channels * d.rsmRate c else 0
def rsmLoadOut (c : RsmCtx) : Nat := if c.valid then c.channels * c.grid * 70 else 0

/-- The contexts of a resampler. -/
def Dev.rsmUnit (d : Dev) (u : Nat) : List (Nat × RsmCtx) := d.rsm.ctx.filter (fun e => e.1 / 32 == u)

/-- The staged context words of a resampler page. -/
def Dev.rsmStaged (d : Dev) (u : Nat) : RsmCtx :=
  { w0 := d.rdWord RSM_CTX_W0_valid 0 u, w1 := d.rd RSM_CTX_W1_r_in 0 u, w2 := d.rd RSM_CTX_W2_first 0 u,
    w3 := d.rd RSM_CTX_W3_lanes 0 u }

/-- A staged context breaks a rule that answers ST_BAD_PARAM. -/
def Dev.rsmBad (d : Dev) (c : RsmCtx) : Bool :=
  let q := d.q c.queue
  decide (5 ≤ bitsOf c.w0 27 25) || decide (5 ≤ bitsOf c.w0 24 22) ||
    (c.lanesKind && (c.lanes.isEmpty || decide (16 < c.lanes.length) || c.lanes.any (fun n => n / 4 != c.lanes.headD 0 / 4))) ||
    !q.valid || q.kind != 0 || decide (q.slot < 32 + 4 * c.channels * c.points)

/-- RSM_CTX_CMD commit (R198); a context with valid 0 installs as no context. -/
def Dev.rsmCommit (d : Dev) (u : Nat) : Status × Dev :=
  let k := rsmKey u (d.rd RSM_CTX_SEL_ctx 0 u)
  let c := d.rsmStaged u
  if !c.valid then (.ok, d.setRsm k {})
  else
    let others := (d.rsmUnit u).filter (fun e => e.1 != k)
    let li := others.foldl (fun s e => s + d.rsmLoadIn e.2) (d.rsmLoadIn c)
    let lo := others.foldl (fun s e => s + rsmLoadOut e.2) (rsmLoadOut c)
    let st := pickStatus [if d.rsmBad c then .badParam else .ok, if 200000000 < li ∨ 25000000 < lo then .full else .ok]
    if st ≠ .ok then (st, d) else (.ok, (d.setRsm k c).rowWritten (pgRSM + u) (d.rd RSM_CTX_SEL_ctx 0 u))

def Dev.rsmInvalidate (d : Dev) (u : Nat) : Status × Dev := (.ok, d.setRsm (rsmKey u (d.rd RSM_CTX_SEL_ctx 0 u)) {})

def Dev.rsmRead (d : Dev) (u : Nat) : Status × Dev :=
  let c := d.rsmCtx (rsmKey u (d.rd RSM_CTX_SEL_ctx 0 u))
  (.ok, (((d.wrWord RSM_CTX_W0_valid c.w0 0 u).wr RSM_CTX_W1_r_in c.w1 0 u).wr RSM_CTX_W2_first c.w2 0 u).wr RSM_CTX_W3_lanes c.w3 0 u)

def Dev.rsmCmd (d : Dev) (u v : Nat) : Status × Dev :=
  match bitsOf v 1 0 with
  | 0 => (.ok, d)
  | 1 => d.rsmCommit u
  | 2 => d.rsmInvalidate u
  | _ => d.rsmRead u

/-- RSM_CTX_W1 is RO while W0.kind is 1 (R201). -/
def Dev.rsmWrite (d : Dev) (u off v : Nat) : Status × Dev :=
  if off = 0x044 then d.rsmCmd u v
  else if off = 0x054 ∧ d.flag RSM_CTX_W0_kind 0 u then (.ok, d)
  else d.plainWrite (pgRSM + u) off v

/-- RSM_LOAD (R198), in units of a million per second, rounded up. -/
def Dev.rsmLoad (d : Dev) (u : Nat) : Nat :=
  let li := (d.rsmUnit u).foldl (fun s e => s + d.rsmLoadIn e.2) 0
  let lo := (d.rsmUnit u).foldl (fun s e => s + rsmLoadOut e.2) 0
  ceilDiv lo 1000000 * 65536 + ceilDiv li 1000000

/-- The registers that RSM computes: RSM_LOAD, and RSM_CTX_W1 from the group for kind 1 (R201). -/
def Dev.rsmView (d : Dev) (u off : Nat) : Option Nat :=
  if off = 0x060 then some (d.rsmLoad u)
  else if off = 0x054 ∧ d.flag RSM_CTX_W0_kind 0 u then some (d.lanesRate (d.rd RSM_CTX_W3_lanes 0 u))
  else none

end Sys2Proof.Machine
end

