-- ==== Sys2Proof/Machine/Waveform.lean ====
section
/-! DEFINITION. The Pyrlon waveform stream: frame, block bitstream, decimator, and the WFC contexts (R202 to R220). -/

namespace Sys2Proof.Machine

open Sys2Proof

/-! ### The frame (R202 to R205) -/

/-- The header of a Pyrlon PDU. -/
structure Pyrlon where
  version : Nat
  gap : Bool
  degraded : Bool
  tag : Nat
  codecRes : Nat
  width : Nat
  order : Nat
  mode : Nat
  k : Nat
  chans : Nat
  streamId : Nat
  count : Nat
  blocks : Nat
  rateRes : Nat
  dec : Nat
  rate : Nat
  time : Nat
  keyId : Nat
  len : Nat
  deriving DecidableEq, Repr

/-- The header fields of a PDU (R202). -/
def parsePyrlon (p : List Byte) : Pyrlon :=
  let v := leAt p 0 1
  let c := leAt p 1 1
  let r := leAt p 0xF 1
  { version := v / 16, gap := v.testBit 3, degraded := v.testBit 2, tag := v % 4, codecRes := c / 32, width := bitsOf c 4 4,
    order := bitsOf c 3 2, mode := c % 4, k := leAt p 2 1, chans := leAt p 3 1, streamId := leAt p 4 4, count := leAt p 8 6,
    blocks := leAt p 0xE 1, rateRes := r / 32, dec := bitsOf r 4 3, rate := r % 8, time := leAt p 0x10 8,
    keyId := leAt p 0x18 4, len := leAt p 0x1C 2 }

/-- The 30 header bytes. -/
def Pyrlon.bytes (h : Pyrlon) : List Byte :=
  leBytes (h.version * 16 + b2n h.gap * 8 + b2n h.degraded * 4 + h.tag) 1 ++
    leBytes (h.codecRes * 32 + h.width * 16 + h.order * 4 + h.mode) 1 ++ leBytes h.k 1 ++ leBytes h.chans 1 ++
    leBytes h.streamId 4 ++ leBytes h.count 6 ++ leBytes h.blocks 1 ++ leBytes (h.rateRes * 32 + h.dec * 8 + h.rate) 1 ++
    leBytes h.time 8 ++ leBytes h.keyId 4 ++ leBytes h.len 2

def Pyrlon.tagLen (h : Pyrlon) : Nat := match h.tag with | 1 => 8 | 2 => 16 | _ => 0
def Pyrlon.bits (h : Pyrlon) : Nat := if h.width = 0 then 16 else 18

/-- Bytes of a sample in mode 0, and of the largest coded block (R203, R210). -/
def sampleBytes (width : Nat) : Nat := if width = 0 then 2 else 4
def codedMax (width : Nat) : Nat := if width = 0 then 257 else 273

/-- Mode, error bound and decimation agree with the table of R202. -/
def modeOk (mode k dec : Nat) : Bool :=
  (if mode = 2 then decide (1 ≤ k) && decide (k ≤ 255) else k == 0) && (if mode = 3 then decide (1 ≤ dec) && decide (dec ≤ 3) else dec == 0)

/-- The PDU offset of the first field that makes extract set MAL (R204). -/
def pyrlonFault (p : List Byte) : Option Nat :=
  let h := parsePyrlon p
  let n := h.chans * h.blocks
  if p.length < 0x1E then some p.length
  else if h.version ≠ 1 ∨ h.tag = 3 then some 0
  else if h.codecRes ≠ 0 ∨ (h.mode = 0 ∧ h.order ≠ 0) then some 1
  else if !modeOk h.mode h.k h.dec then some 2
  else if h.chans = 0 ∨ 64 < h.chans then some 3
  else if h.blocks = 0 ∨ 8 < h.blocks then some 0xE
  else if h.rateRes ≠ 0 ∨ 6 ≤ h.rate then some 0xF
  else if p.length < 0x1E + h.len + h.tagLen then some 0x1C
  else if h.mode = 0 ∧ h.len ≠ n * 64 * sampleBytes h.width then some 0x1C
  else if h.mode ≠ 0 ∧ n * codedMax h.width < h.len then some 0x1C
  else none

/-- The sample span rounded down to a nanosecond, (64B - 1) · T (R205). -/
def Pyrlon.span (h : Pyrlon) : Nat := (64 * h.blocks - 1) * rateDiv h.rate * 2 ^ h.dec * 25 / 18

/-- Samples per second of the stream. -/
def Pyrlon.hz (h : Pyrlon) : Nat := rateHz h.rate / 2 ^ h.dec

/-! ### Block bitstream (R207 to R211) -/

/-- The prediction from the samples before, newest first (R207). -/
def predict (p : Nat) (ys : List Int) : Int :=
  match p with
  | 0 => 0
  | 1 => ys.getD 0 0
  | 2 => 2 * ys.getD 0 0 - ys.getD 1 0
  | _ => 3 * ys.getD 0 0 - 3 * ys.getD 1 0 + ys.getD 2 0

def zigzag (q : Int) : Nat := if 0 ≤ q then (2 * q).toNat else (-2 * q - 1).toNat
def unzigzag (u : Nat) : Int := if u % 2 = 0 then ((u / 2 : Nat) : Int) else -(((u + 1) / 2 : Nat) : Int)
def clampBits (w : Nat) (v : Int) : Int := clampInt (-(2 ^ (w - 1) : Int)) (2 ^ (w - 1) - 1) v

/-- The quantised residual of mode 2 and of the lossless modes (R210). -/
def quantise (mode k : Nat) (e : Int) : Int :=
  if mode = 2 then
    let m : Int := ((e.natAbs + k) / (2 * k + 1) : Nat)
    if e < 0 then -m else m
  else e

/-- The Rice parameter from the open-loop residuals (R209). -/
def riceParam (mode p k : Nat) (x : List Int) : Nat :=
  let r := x.foldl (fun (acc : List Int × Nat × Nat) v =>
    let (hist, s, i) := acc
    let u := zigzag (quantise mode k (v - predict p hist))
    (v :: hist, if p ≤ i ∧ u < 32768 then s + u else s, i + 1)) ([], 0, 0)
  let m := r.2.1 / (64 - p)
  if m < 2 then 0 else min 11 m.log2

/-- The `n` bits of `v`, most significant first. -/
def msbBits (v : Nat) : Nat → List Bool
  | 0 => []
  | n + 1 => v.testBit n :: msbBits v n

/-- The code of one sample, its reconstruction, and whether it was escaped (R210). -/
def codeSample (mode p k w kr : Nat) (hist : List Int) (x : Int) : List Bool × Int × Bool :=
  let pr := predict p hist
  let q := quantise mode k (x - pr)
  let u := zigzag q
  if 32768 ≤ u ∨ 16 ≤ u / 2 ^ kr then (List.replicate 16 true ++ msbBits (unsigned w x) w, x, true)
  else (List.replicate (u / 2 ^ kr) true ++ [false] ++ msbBits (u % 2 ^ kr) kr,
        if mode = 2 then clampBits w (pr + q * (2 * k + 1)) else x, false)

/-- Bits packed into bytes, most significant first, zero padded. -/
def packBits (b : List Bool) : List Byte :=
  (List.range (ceilDiv b.length 8)).map (fun i =>
    BitVec.ofNat 8 ((List.range 8).foldl (fun v j => 2 * v + b2n (b.getD (8 * i + j) false)) 0))

/-- One coded block: bytes and escaped samples (R208). -/
def encodeBlock (mode p k w : Nat) (x : List Int) : List Byte × Nat :=
  let kr := riceParam mode p k x
  let warm := x.take p
  let r := (x.drop p).foldl (fun (acc : List Int × List (List Bool) × Nat) v =>
    let (c, y, esc) := codeSample mode p k w kr acc.1 v
    (y :: acc.1, c :: acc.2.1, acc.2.2 + b2n esc)) (warm.reverse, [], 0)
  (packBits (msbBits kr 4 ++ (warm.map (fun v => msbBits (unsigned w v) w)).flatten ++ r.2.1.reverse.flatten), r.2.2)

/-- Bits of a byte string, most significant first. -/
def bitsOfBytes (l : List Byte) : List Bool := (l.map (fun b => msbBits b.toNat 8)).flatten

def bitsVal (b : List Bool) : Nat := b.foldl (fun v x => 2 * v + b2n x) 0

/-- Reads `n` bits. -/
def getBits (n : Nat) (b : List Bool) : Option (Nat × List Bool) :=
  if b.length < n then none else some (bitsVal (b.take n), b.drop n)

/-- The run of 1 bits, at most 16, and what follows; the 0 that ends a shorter run is consumed. -/
def getRun : Nat → List Bool → Option (Nat × List Bool)
  | 0, b => some (0, b)
  | _ + 1, [] => none
  | _ + 1, false :: b => some (0, b)
  | n + 1, true :: b => (getRun n b).map (fun r => (r.1 + 1, r.2))

/-- One decoded sample. -/
def decodeSample (mode p k w kr : Nat) (hist : List Int) (b : List Bool) : Option (Int × List Bool) :=
  match getRun 16 b with
  | none => none
  | some (16, b) => (getBits w b).map (fun r => (signed w r.1, r.2))
  | some (q, b) => (getBits kr b).map (fun r =>
      let e := unzigzag (q * 2 ^ kr + r.1)
      (clampBits w (predict p hist + (if mode = 2 then e * (2 * k + 1) else e)), r.2))

/-- One decoded block of 64 samples and the bits after it; none on a block error. The block's own bits end on a byte
boundary with zero padding. -/
def decodeBlock (mode p k w : Nat) (b : List Bool) : Option (List Int × List Bool) :=
  match getBits 4 b with
  | none => none
  | some (kr, b1) =>
    if 11 < kr then none
    else
      let step (acc : Option (List Int × List Bool)) (i : Nat) : Option (List Int × List Bool) :=
        acc.bind (fun a =>
          if i < p then (getBits w a.2).map (fun r => (signed w r.1 :: a.1, r.2))
          else (decodeSample mode p k w kr a.1 a.2).map (fun r => (r.1 :: a.1, r.2)))
      match (List.range 64).foldl step (some ([], b1)) with
      | none => none
      | some (ys, rest) =>
        let pad := rest.length % 8
        if (rest.take pad).any id then none else some (ys.reverse, rest.drop pad)

/-- The blocks of a coded payload, or the index of the first block in error. -/
def decodeBlocks (mode p k w n : Nat) (payload : List Byte) : Except Nat (List (List Int)) :=
  let r := (List.range n).foldl (fun (acc : Except Nat (List (List Int) × List Bool)) i =>
    match acc with
    | .error e => .error e
    | .ok (bs, bits) =>
      match decodeBlock mode p k w bits with
      | none => .error i
      | some (b, bits) => .ok (b :: bs, bits)) (.ok ([], bitsOfBytes payload))
  match r with
  | .error e => .error e
  | .ok (bs, rest) => if rest.isEmpty then .ok bs.reverse else .error (n - 1)

/-- The samples of a mode 0 payload, block by block. -/
def rawBlocks (width n : Nat) (payload : List Byte) : List (List Int) :=
  let sb := sampleBytes width
  (List.range n).map (fun j => (List.range 64).map (fun i => signed (8 * sb) (leAt payload ((64 * j + i) * sb) sb)))

/-- Samples laid out as in mode 0. -/
def rawBytes (width : Nat) (blocks : List (List Int)) : List Byte :=
  (blocks.map (fun b => (b.map (fun v => leBytes (unsigned (8 * sampleBytes width) v) (sampleBytes width))).flatten)).flatten

/-! ### Decimator (R212) -/

/-- The taps of H11 at offsets -5 to 5. -/
def h11 : List Int := [3, 0, -25, 0, 150, 256, 150, 0, -25, 0, 3]

/-- One stage over samples `v` from absolute index `base`: the outputs whose inputs are all there, from index
⌈base/2⌉; inputs before the first equal the first. -/
def decStage (w base : Nat) (v : List Int) : Nat × List Int :=
  let at_ (i : Int) : Int := if i < base then v.getD 0 0 else v.getD (i - base).toNat 0
  let b' := (base + 1) / 2
  let cnt := (base + v.length + 1 - 5) / 2 - b'
  (b', (List.range (if base + v.length < 6 then 0 else cnt)).map (fun i =>
    let c : Int := 2 * ((b' + i : Nat) : Int)
    let a := (List.zip h11 (List.range 11)).foldl (fun s hj => s + hj.1 * at_ (c + (hj.2 : Int) - 5)) 0
    clampBits w (if 0 ≤ a then (a + 256) / 512 else -((-a + 256) / 512))))

/-- `n` stages. -/
def decimate (w : Nat) : Nat → Nat × List Int → Nat × List Int
  | 0, s => s
  | n + 1, s => decimate w n (decStage w s.1 s.2)

/-! ### Context fields -/

def WfcCtx.valid (c : WfcCtx) : Bool := c.w0.testBit 31
def WfcCtx.kind (c : WfcCtx) : Nat := bitsOf c.w0 30 29
def WfcCtx.mode (c : WfcCtx) : Nat := bitsOf c.w0 28 27
def WfcCtx.order (c : WfcCtx) : Nat := bitsOf c.w0 26 25
def WfcCtx.dec (c : WfcCtx) : Nat := bitsOf c.w0 24 23
def WfcCtx.width (c : WfcCtx) : Nat := bitsOf c.w0 22 22
def WfcCtx.k (c : WfcCtx) : Nat := bitsOf c.w0 21 14
def WfcCtx.queue (c : WfcCtx) : Nat := bitsOf c.w0 13 0
def WfcCtx.lanes (c : WfcCtx) : List Nat := setBitsOf c.w2 32
def WfcCtx.chanCount (c : WfcCtx) : Nat := if c.kind = 1 then c.lanes.length else bitsOf c.w1 31 26 + 1
def WfcCtx.blocks (c : WfcCtx) : Nat := bitsOf c.w1 25 23 + 1
def WfcCtx.tag (c : WfcCtx) : Nat := bitsOf c.w1 19 18
def WfcCtx.hdrLen (c : WfcCtx) : Nat := 14 + 4 * bitsOf c.w1 17 16
def WfcCtx.bits (c : WfcCtx) : Nat := if c.width = 0 then 16 else 18

def Dev.wfcCtx (d : Dev) (k : Nat) : WfcCtx := d.wfc.ctx.get k {}
def Dev.setWfc (d : Dev) (k : Nat) (c : WfcCtx) : Dev := { d with wfc := { d.wfc with ctx := d.wfc.ctx.set k c {} } }
def Dev.wfcStat (d : Dev) (k i : Nat) (n : Nat := 1) : Dev :=
  { d with wfc := { d.wfc with stat := d.wfc.stat.set (8 * k + i) (satAdd (2 ^ 64 - 1) (d.wfc.stat.get (8 * k + i) 0) n) 0 } }

/-- A record of WFC (R219): p0 the context. -/
def Dev.wfcRec (d : Dev) (k code sev p2 : Nat) : Dev := d.rated pgWFC code k sev k p2

/-- The converter rate code of a context: its lanes' group for kind 1. -/
def Dev.wfcRate (d : Dev) (c : WfcCtx) : Nat :=
  if c.kind = 1 then d.rd CNV_GRPg_rate (c.lanes.headD 0 / 4) else bitsOf c.w1 22 20

/-! ### Output items (R217) -/

/-- An output item: enqueued, or held for a full queue; a third one is discarded, and the next one enqueued has gap set (R217). -/
def Dev.wfcOut (d : Dev) (k q time : Nat) (payload : List Byte) : Dev :=
  let c := d.wfcCtx k
  let hold (d : Dev) : Dev :=
    let c := d.wfcCtx k
    d.setWfc k { c with held := c.held ++ [(q, time, payload, c.gap)], gap := false }
  if c.held.isEmpty then
    match d.hwEnqueue q 0xFE time payload none (b2n c.gap) with
    | (.held, d) => hold (d.qRec 0x600B 4 q 0xFE)
    | (_, d) => d.setWfc k { d.wfcCtx k with gap := false }
  else if c.held.length < 2 then hold d
  else
    let held := match c.held with
      | (q, t, p, _) :: rest => (q, t, p, true) :: rest
      | [] => []
    ((d.setWfc k { c with held := held }).wfcStat k 4).wfcRec k 0x7033 4 q

/-- An output item for each of its queues (R127). -/
def Dev.wfcOuts (d : Dev) (k : Nat) (qs : List Nat) (time : Nat) (payload : List Byte) : Dev :=
  qs.foldl (fun d q => d.wfcOut k q time payload) d

/-- Each item a context holds is retried at a tick (R217). -/
def Dev.wfcRetry (d : Dev) (k : Nat) : Dev :=
  let c := d.wfcCtx k
  let d := d.setWfc k { c with held := [] }
  c.held.foldl (fun d h =>
    match d.hwEnqueue h.1 0xFE h.2.1 h.2.2.1 none (b2n h.2.2.2) with
    | (.held, d) => let c := d.wfcCtx k; d.setWfc k { c with held := c.held ++ [h] }
    | (_, d) => d) d

/-! ### Encoding and frames -/

/-- The payload of blocks in a mode, with the escaped samples (R203, R208). -/
def codePayload (mode p k width : Nat) (blocks : List (List Int)) : List Byte × Nat :=
  if mode = 0 then (rawBytes width blocks, 0)
  else
    let r := blocks.map (encodeBlock mode p k (if width = 0 then 16 else 18))
    ((r.map (·.1)).flatten, r.foldl (fun s b => s + b.2) 0)

/-- A PDU without tag field from blocks in frame order. -/
def buildPdu (h : Pyrlon) (blocks : List (List Int)) : List Byte × Nat :=
  let r := codePayload h.mode h.order h.k h.width blocks
  (({ h with len := r.1.length }).bytes ++ r.1, r.2)

/-- Counts a coded frame: frames, blocks, escaped samples. -/
def Dev.wfcCoded (d : Dev) (k blocks esc : Nat) : Dev := ((d.wfcStat k 0).wfcStat k 1 blocks).wfcStat k 2 esc

/-- The outputs `lo` to `lo` + `n` - 1 of a channel, where one run has them all. -/
def outsAt (runs : List (Nat × List Int)) (lo n : Nat) : Option (List Int) :=
  (runs.find? (fun r => decide (r.1 ≤ lo) && decide (lo + n ≤ r.1 + r.2.length))).map (fun r => (r.2.drop (lo - r.1)).take n)

/-- The blocks of the output indices n to n + 64B - 1 of every channel, in frame order; a block that is not there is filled with
zeros (R213). -/
def frameBlocks (n b : Nat) (chans : List (List (Nat × List Int))) : List (List Int) :=
  ((List.range b).map (fun j => chans.map (fun runs => (outsAt runs (n + 64 * j) 64).getD (List.replicate 64 0)))).flatten

/-- The samples of a context after a frame that ended at output index `n`: old ones are dropped, those the decimator still needs are
kept. -/
def trimStreams (n dec : Nat) (t : Tbl (List Stream)) : Tbl (List Stream) :=
  let keep := (n - 16) * 2 ^ dec
  t.map (fun e =>
    (e.1, (e.2.filter (fun s => decide (keep < s.base + s.vals.length))).map (fun s =>
      let cut := keep - s.base
      { base := s.base + cut, vals := s.vals.drop cut })))

/-- The next sample of a channel: it joins the run that ends before it, or begins a new one (R212). -/
def addSample (ss : List Stream) (i : Nat) (x : Int) : List Stream :=
  match ss.getLast? with
  | some s => if s.base + s.vals.length = i then ss.dropLast ++ [{ s with vals := s.vals ++ [x] }] else ss ++ [{ base := i, vals := [x] }]
  | none => [{ base := i, vals := [x] }]

/-- A sample of a lane for a kind 1 context; none where the lane is down (R213). -/
def Dev.wfcLane (d : Dev) (k lane i : Nat) (x : Option Int) : Dev :=
  if d.rowBad pgWFC k then d.tableFault pgWFC k
  else
  let c := d.wfcCtx k
  let ss := c.chans.get lane []
  let chans := match x with
    | some v => c.chans.put lane (addSample ss i v)
    | none => c.chans
  d.setWfc k { c with chans := chans, seen := c.seen.put lane (i + 1) }

/-- A time step for lanes of a context: their runs start anew and the next frame has gap set (R213). -/
def Dev.wfcGap (d : Dev) (k : Nat) (lanes : List Nat) : Dev :=
  let c := d.wfcCtx k
  d.setWfc k { c with chans := c.chans.drop (fun l => lanes.contains l), seen := c.seen.drop (fun l => lanes.contains l), out := none, gap := true }

/-- The words of a context once a commit that waits has taken effect. -/
def WfcCtx.coming (c : WfcCtx) : WfcCtx :=
  match c.next with
  | none => c
  | some (a, b, e, f) => { c with w0 := a, w1 := b, w2 := e, w3 := f }

/-- The commit that waits takes effect: the decimator history ends (R218). -/
def WfcCtx.swap (c : WfcCtx) : WfcCtx :=
  match c.next with
  | none => c
  | some (a, b, e, f) => { c with w0 := a, w1 := b, w2 := e, w3 := f, next := none, left := 0, chans := [], seen := [], out := none, lost := false, degr := false }

/-- A frame of a kind 1 context is in progress while it has samples and a lane that is up. -/
def Dev.wfcGathers (d : Dev) (c : WfcCtx) : Bool := c.valid && c.kind == 1 && !c.chans.isEmpty && c.lanes.any d.laneUp

/-- At a tick WFC retries what it holds (R217), and a commit takes effect where no frame is in progress any more. -/
def Dev.wfcTickOne (d : Dev) (k : Nat) : Dev :=
  let d := d.wfcRetry k
  let c := d.wfcCtx k
  if c.left = 0 ∧ !d.wfcGathers c then d.setWfc k c.swap else d

def Dev.wfcTick (d : Dev) : Dev :=
  ((d.wfc.ctx.filter (fun e => !e.2.held.isEmpty || e.2.next.isSome)).map (·.1)).foldl Dev.wfcTickOne d

/-- A channel's runs through the decimator. -/
def WfcCtx.outRuns (c : WfcCtx) (ch : Nat) : List (Nat × List Int) :=
  (c.chans.get ch []).map (fun s => decimate c.bits c.dec (s.base, s.vals))

/-- The output index at which the next frame of a context begins: a multiple of 64B (R213, R216). -/
def WfcCtx.frameStart (c : WfcCtx) (chans : List (List (Nat × List Int))) : Nat :=
  match c.out with
  | some n => n
  | none =>
    let first := chans.flatten.foldl (fun m o => min m o.1) (2 ^ 64)
    ceilDiv first (64 * c.blocks) * (64 * c.blocks)

/-- The frame at output index `n` lacks nothing that a lane could still give: every lane has its outputs, has been seen past them
(with what the filter still needs), or is down (R213). -/
def Dev.wfcReady (d : Dev) (c : WfcCtx) (n : Nat) : Bool :=
  let last := n + 64 * c.blocks
  let past (l : Nat) : Bool := decide ((last + 5) * 2 ^ c.dec ≤ c.seen.get l 0)
  let have_ (l : Nat) : Bool := (List.range c.blocks).all (fun j => (outsAt (c.outRuns l) (n + 64 * j) 64).isSome)
  c.lanes.any (fun l => have_ l || past l) && c.lanes.all (fun l => have_ l || past l || !d.laneUp l)

/-- A kind 1 context builds and enqueues its next frame when the samples of its last block are there (R213). -/
def Dev.wfcAssemble (d : Dev) (k : Nat) : Dev :=
  let c := d.wfcCtx k
  let code := d.wfcRate c
  let chans := c.lanes.map c.outRuns
  let n := c.frameStart chans
  let last := n + 64 * c.blocks
  if !c.valid ∨ c.kind ≠ 1 ∨ !d.wfcReady c n then d
  else
    let degraded := chans.any (fun runs => (List.range c.blocks).any (fun j => (outsAt runs (n + 64 * j) 64).isNone))
    let hz := rateHz code / 2 ^ c.dec
    let time := n / hz * 1000000000 + n % hz * 2 ^ c.dec * rateDiv code * 25 / 18
    let h : Pyrlon := {
      version := 1, gap := c.gap, degraded := degraded, tag := c.tag, codecRes := 0, width := c.width,
      order := c.order, mode := c.mode, k := c.k, chans := c.lanes.length, streamId := c.w3, count := n % 2 ^ 48,
      blocks := c.blocks, rateRes := 0, dec := c.dec, rate := code, time := time, keyId := 0, len := 0 }
    let (pdu, esc) := buildPdu h (frameBlocks n c.blocks chans)
    let image := padTo c.hdrLen c.hdr ++ pdu ++ List.replicate h.tagLen 0
    let d := (d.wfcCoded k (c.lanes.length * c.blocks) esc).wfcOut k c.queue time image
    let c := d.wfcCtx k
    d.setWfc k ({ c with out := some last, chans := trimStreams last c.dec c.chans }).swap

/-! ### Compress steps (R214 to R217) -/

/-- The encode of a mode 0 PDU in a context's mode 0 to 2: the PDU without tag (R214). -/
def encodePdu (c : WfcCtx) (p : List Byte) : List Byte × Nat :=
  let h := parsePyrlon p
  let blocks := rawBlocks h.width (h.chans * h.blocks) (p.drop 0x1E)
  buildPdu { h with mode := c.mode, order := if c.mode = 0 then 0 else c.order, k := c.k, dec := c.dec, tag := 0, keyId := 0 } blocks

/-- The signed span from input count `a` to `b` in whole ns, at T of a rate code. -/
def countSpan (a b rate : Nat) : Int := ((((b : Int) - a) * rateDiv rate * 25) / 18)

/-- A mode 0 frame into a decimating kind 0 context (R216): its samples join the channels' runs, which start anew after a gap
(R212), and the output frames that are then complete come out. Counts are unwrapped while frames follow each other. -/
def Dev.wfcDecimate (d : Dev) (k : Nat) (pdu : List Byte) : List (Nat × List Byte) × Dev :=
  let c := d.wfcCtx k
  let h := parsePyrlon pdu
  let blocks := rawBlocks h.width (h.chans * h.blocks) (pdu.drop 0x1E)
  let next := ((c.chans.get 0 []).getLast?).map (fun s => s.base + s.vals.length)
  let fits := match next with | some n => n % 2 ^ 48 == h.count && !h.gap | none => false
  let c := if fits then c else { c with chans := [], out := none, lost := h.gap || c.lost || next.isSome }
  let start := if fits then next.getD h.count else h.count
  let chans := (List.range h.chans).foldl (fun t ch =>
    let x := ((List.range h.blocks).map (fun b => blocks.getD (b * h.chans + ch) [])).flatten
    match Tbl.get t ch [] with
    | s :: _ => Tbl.put t ch [{ s with vals := s.vals ++ x }]
    | [] => Tbl.put t ch [{ base := start, vals := x }]) c.chans
  let c := { c with chans := chans, degr := c.degr || h.degraded }
  let outs := (List.range h.chans).map c.outRuns
  let n := c.frameStart outs
  let per := 64 * c.blocks
  let avail := outs.flatten.foldl (fun m o => min m (o.1 + o.2.length)) (2 ^ 64)
  let frames := (avail - n) / per
  let endN := n + frames * per
  let pdus := (List.range frames).map (fun i =>
    let m := n + i * per
    let time := ((h.time : Int) + countSpan start (m * 2 ^ c.dec) h.rate).toNat
    let r := buildPdu { h with
        mode := 3, order := c.order, k := 0, dec := c.dec, tag := 0, keyId := 0, count := m % 2 ^ (48 - c.dec), blocks := c.blocks
        time := time, gap := c.lost && i == 0, degraded := c.degr } (frameBlocks m c.blocks outs)
    (time, r.1, r.2))
  let d := d.setWfc k { c with
    chans := trimStreams endN c.dec chans, out := some endN, lost := c.lost && frames == 0, degr := if frames = 0 then c.degr else h.degraded }
  (pdus.map (fun p => (p.1, p.2.1)), pdus.foldl (fun d p => d.wfcCoded k (h.chans * c.blocks) p.2.2) d)

/-- The coding units finish a step's frame (R215 to R217). -/
def Dev.wfcFinish (d : Dev) (k : Nat) (j : WfcJob) : Dev :=
  let c := d.wfcCtx k
  let h := parsePyrlon j.pdu
  let n := h.chans * h.blocks
  if j.decode then
    if h.mode = 0 then (d.wfcCoded k n 0).wfcOuts k j.dests h.time (slice j.pdu 0x1E h.len)
    else match decodeBlocks h.mode h.order h.k h.bits n (slice j.pdu 0x1E h.len) with
      | .error b => ((d.setWfc k { c with gap := true }).wfcStat k 3).wfcRec k 0x7030 4 b
      | .ok bs => (d.wfcCoded k n 0).wfcOuts k j.dests h.time (rawBytes h.width bs)
  else if c.mode = 3 then
    let r := d.wfcDecimate k j.pdu
    r.1.foldl (fun d p => d.wfcOuts k j.dests p.1 p.2) r.2
  else
    let (pdu, esc) := encodePdu c j.pdu
    (d.wfcCoded k n esc).wfcOuts k j.dests h.time pdu

/-- WFC_COMPRESS_ITEM: the oldest step of a context leaves the coding units, its item for the queues that the program names or else for
the context's own as the words it was coded under give it; a commit takes effect after the last step that was in
progress when it was made (R218). -/
def Dev.wfcItem (d : Dev) (k : Nat) : Dev :=
  let c := d.wfcCtx k
  match c.jobs with
  | [] => d
  | j :: js =>
    let j := if j.dests.isEmpty then { j with dests := [c.queue] } else j
    let d := (d.setWfc k { c with jobs := js }).wfcFinish k j
    if c.next.isNone then d
    else let c := d.wfcCtx k
    if c.left ≤ 1 ∧ c.kind = 0 then d.setWfc k c.swap
    else d.setWfc k { c with left := c.left - 1 }

/-- A step names a context it may not use, a frame of cls 0 to 2, or a coded frame to encode (R214, R219). -/
def WfcCtx.refuses (c : WfcCtx) (decode cls3 : Bool) (pdu : List Byte) : Bool :=
  !c.valid || c.kind != 0 || !cls3 || (!decode && (parsePyrlon pdu).mode != 0)

/-- The bytes of step input that a datapath's buffer holds (R215). -/
def Dev.stepBuffer (d : Dev) (dp : Nat) : Nat :=
  d.wfc.ctx.foldl (fun s e => s + (e.2.jobs.filter (fun j => j.dp == dp)).foldl (fun s j => s + j.pdu.length) 0) 0

/-- A compress step on ingress hands its frame to the codec, or is refused with a record (R214, R215, R219). -/
def Dev.wfcStep (d : Dev) (k : Nat) (j : WfcJob) (cls3 : Bool) : Dev :=
  let c := d.wfcCtx k
  if d.rowBad pgWFC k then d.tableFault pgWFC k
  else if (if c.kind = 0 then c.coming else c).refuses j.decode cls3 j.pdu then (d.wfcStat k 5).wfcRec k 0x7034 3 j.entry
  else if 8192 ≤ d.stepBuffer j.dp then (d.setWfc k { c with gap := true }).wfcRec k 0x7032 4 j.dp
  else d.setWfc k { c with jobs := c.jobs ++ [j] }

/-- A compress step on egress: encodes a mode 0 image in place where the entry has no authentication (R214); in mode 3 the frames
that are then complete take its place (R216). What the step refuses is no item any more. -/
def Dev.wfcEgress (d : Dev) (k : Nat) (decode : Bool) (auth entry : Nat) (cls3 : Bool) (pdu : List Byte) : List (List Byte) × Dev :=
  let c := d.wfcCtx k
  if decode || c.refuses decode cls3 pdu then ([], (d.wfcStat k 5).wfcRec k 0x7034 3 entry)
  else if auth ≠ 0 then ([pdu], d.wfcRec k 0x7031 3 entry)
  else if c.mode = 3 then let r := d.wfcDecimate k pdu; (r.1.map (·.2), r.2)
  else
    let h := parsePyrlon pdu
    let (p, esc) := encodePdu c pdu
    ([p], d.wfcCoded k (h.chans * h.blocks) esc)

/-! ### Context commands (R218, R220) -/

/-- The coded kind 1 load of a context in samples/s. -/
def Dev.wfcLoadOf (d : Dev) (c : WfcCtx) : Nat :=
  if c.valid ∧ c.kind = 1 ∧ c.mode ≠ 0 then c.lanes.length * (rateHz (d.rd CNV_GRPg_rate (c.lanes.headD 0 / 4)) / 2 ^ c.dec) else 0

/-- The largest payload and item of a context. -/
def WfcCtx.maxPayload (c : WfcCtx) : Nat :=
  c.chanCount * c.blocks * (if c.mode = 0 then 64 * sampleBytes c.width else codedMax c.width)
def WfcCtx.tagBytes (c : WfcCtx) : Nat := match c.tag with | 1 => 8 | 2 => 16 | _ => 0
def WfcCtx.maxItem (c : WfcCtx) : Nat :=
  if c.kind = 1 then c.hdrLen + 30 + c.maxPayload + c.tagBytes
  else max (30 + c.maxPayload) (c.chanCount * c.blocks * 64 * sampleBytes c.width)

/-- A staged context breaks a rule that answers ST_BAD_PARAM (R218). -/
def Dev.wfcBad (d : Dev) (c : WfcCtx) : Bool :=
  let q := d.q c.queue
  let code := d.wfcRate c
  decide (2 ≤ c.kind) || c.tag == 3 || bitsOf c.w1 17 16 == 3 || (c.kind == 0 && c.w2 != 0) || decide (6 ≤ code) ||
    !modeOk c.mode c.k c.dec || (c.mode == 0 && c.order != 0) ||
    (c.kind == 1 && (c.lanes.isEmpty || c.lanes.any (fun l =>
      !d.flag CNV_GRPg_en (l / 4) || d.rd CNV_GRPg_rate (l / 4) != code ||
        c.width != (if d.rd CNV_GRPg_fmt (l / 4) = 1 then 1 else 0)))) ||
    (c.kind == 1 && (rateHz code % 2 ^ c.dec != 0 || rateHz code / 2 ^ c.dec % (64 * c.blocks) != 0)) ||
    decide (9216 < c.hdrLen + 30 + c.maxPayload + c.tagBytes + 4) ||
    !q.valid || q.kind != 0 || decide (q.slot < 16 + c.maxItem)

/-- The words staged in WFC_CTX_W0 to W3. -/
def Dev.wfcStaged (d : Dev) : WfcCtx :=
  { w0 := d.rdWord WFC_CTX_W0_valid, w1 := d.rdWord WFC_CTX_W1_channels, w2 := d.rd WFC_CTX_W2_lanes, w3 := d.rd WFC_CTX_W3_stream_id }

/-- New words for a context, at its next frame boundary: steps in the coding units and a frame being gathered finish under the old
ones (R218). -/
def Dev.wfcInstall (d : Dev) (k : Nat) (c : WfcCtx) : Dev :=
  let old := d.wfcCtx k
  let new := { old with next := some (c.w0, c.w1, c.w2, c.w3), left := old.jobs.length }
  d.setWfc k (if old.jobs.isEmpty && !d.wfcGathers old then new.swap else new)

/-- WFC_CTX_CMD commit (R218), whose conditions hold for a context with valid 0 too. -/
def Dev.wfcCommit (d : Dev) : Status × Dev :=
  let k := d.rd WFC_CTX_SEL_ctx
  let c := d.wfcStaged
  let load := (d.wfc.ctx.filter (fun e => e.1 != k)).foldl (fun s e => s + d.wfcLoadOf e.2.coming) (d.wfcLoadOf c)
  let st := pickStatus [if d.wfcBad c then .badParam else .ok, if 11370000000 < load then .full else .ok]
  (st, if st = .ok then (d.wfcInstall k c).rowWritten pgWFC k else d)

def Dev.wfcInvalidate (d : Dev) : Status × Dev := (.ok, d.wfcInstall (d.rd WFC_CTX_SEL_ctx) {})

def Dev.wfcRead (d : Dev) : Status × Dev :=
  let c := (d.wfcCtx (d.rd WFC_CTX_SEL_ctx)).coming
  (.ok, (((d.wrWord WFC_CTX_W0_valid c.w0).wrWord WFC_CTX_W1_channels c.w1).wr WFC_CTX_W2_lanes c.w2).wr WFC_CTX_W3_stream_id c.w3)

def Dev.wfcCmd (d : Dev) (v : Nat) : Status × Dev :=
  match bitsOf v 1 0 with
  | 0 => (.ok, d)
  | 1 => d.wfcCommit
  | 2 => d.wfcInvalidate
  | _ => d.wfcRead

/-- Advances WFC_HDR_SEL.word (R220). -/
def Dev.wfcHdrAdvance (d : Dev) : Dev := d.wr WFC_HDR_SEL_word ((d.rd WFC_HDR_SEL_word + 1) % 8)

/-- A write of WFC_HDR_DATA (R220). -/
def Dev.wfcHdrWrite (d : Dev) (v : Nat) : Status × Dev :=
  let k := d.rd WFC_CTX_SEL_ctx
  let c := d.wfcCtx k
  if c.valid ∧ c.kind = 1 ∨ c.coming.valid ∧ c.coming.kind = 1 then (.busy, d)
  else (.ok, (d.setWfc k { c with hdr := overlay (padTo 32 c.hdr) (4 * d.rd WFC_HDR_SEL_word) (leBytes v 4) }).wfcHdrAdvance)

/-- A read of WFC_HDR_DATA (R220). -/
def Dev.wfcHdrRead (d : Dev) : Nat × Dev :=
  (leAt (padTo 32 (d.wfcCtx (d.rd WFC_CTX_SEL_ctx)).hdr) (4 * d.rd WFC_HDR_SEL_word) 4, d.wfcHdrAdvance)

/-- The writes of the WFC page; WFC_CTX_W1.rate is RO while W0.kind is 1 (R220). -/
def Dev.wfcWrite (d : Dev) (off v : Nat) : Status × Dev :=
  match off with
  | 0x044 => d.wfcCmd v
  | 0x054 =>
    if d.rd WFC_CTX_W0_kind = 1 then d.plainWrite pgWFC off (setBits v 22 20 (d.rd WFC_CTX_W1_rate)) else d.plainWrite pgWFC off v
  | 0x064 => d.wfcHdrWrite v
  | _ => d.plainWrite pgWFC off v

/-- WFC_LOAD. -/
def Dev.wfcLoad (d : Dev) : Nat := ceilDiv (d.wfc.ctx.foldl (fun s e => s + d.wfcLoadOf e.2.coming) 0) 1000000

/-- The registers that WFC computes: WFC_LOAD, and WFC_CTX_W1 with the group's rate for kind 1 (R220). -/
def Dev.wfcView (d : Dev) (off : Nat) : Option Nat :=
  if off = 0x070 then some (min 0xFFFF d.wfcLoad)
  else if off = 0x054 ∧ d.rd WFC_CTX_W0_kind = 1 then
    some (setBits (d.rdWord WFC_CTX_W1_channels) 22 20 (d.rd CNV_GRPg_rate (d.wfcStaged.lanes.headD 0 / 4)))
  else none

end Sys2Proof.Machine
end

