-- ==== Sys2Proof/Machine/Converter.lean ====
section
/-! DEFINITION. The converter port CNV: lanes, comparators, lane items and publishers (R176 to R193, R200, R201). -/

namespace Sys2Proof.Machine

open Sys2Proof

def Dev.grp (d : Dev) (g : Nat) : Grp := d.cnv.grps.get g {}
def Dev.setGrp (d : Dev) (g : Nat) (x : Grp) : Dev := { d with cnv := { d.cnv with grps := d.cnv.grps.set g x {} } }
def Dev.pub (d : Dev) (p : Nat) : Pub := d.cnv.pubs.get p {}
def Dev.setPub (d : Dev) (p : Nat) (x : Pub) : Dev := { d with cnv := { d.cnv with pubs := d.cnv.pubs.set p x {} } }

/-- Adds to a lane statistic: 0 frames, 1 check errors, 2 over-range, 3 items, 4 refused raises. -/
def Dev.laneStat (d : Dev) (n i : Nat) : Dev :=
  { d with cnv := { d.cnv with stat := d.cnv.stat.set (8 * n + i) (satAdd (2 ^ 64 - 1) (d.cnv.stat.get (8 * n + i) 0) 1) 0 } }

/-- A record of CNV (R200): p0 the lane. -/
def Dev.cnvRec (d : Dev) (n code sev p2 : Nat) : Dev := d.rated pgCNV code n sev n p2

/-- Training of group `g` runs (R181). -/
def Dev.training (d : Dev) (g : Nat) : Bool := d.flag CNV_TRAIN_busy && d.rd CNV_TRAIN_group == g

/-- CNV_LANE_UP. -/
def Dev.laneUpMask (d : Dev) : Nat := maskOf ((List.range 32).filter d.laneUp)

/-- A lane that is down: its partial block is discarded and its next item has gap set (R183). -/
def CnvLane.down (l : CnvLane) : CnvLane := { l with block := none, gap := true, prev := none, run := 0, fired := false, wasUp := false }

/-- CVCLKg, CVSCKg and CVFSg run while the group is enabled and are held low otherwise (R178). -/
def Dev.cnvClocks (d : Dev) : Dev :=
  (List.range 8).foldl (fun d g =>
    if (d.grp g).clocks == d.grpOn g then d
    else (d.setGrp g { d.grp g with clocks := d.grpOn g }).emit (.cnvClocks g (d.grpOn g))) d

/-- Lanes that were up and are down now lose their partial blocks; the groups' clocks follow their enables. -/
def Dev.cnvSettle (d : Dev) : Dev :=
  ((List.range 32).foldl (fun d n => if (d.lane n).wasUp && !d.laneUp n then d.setLane n (d.lane n).down else d) d).cnvClocks

/-- The lanes of a group capture no frame now: the next frame has none before it (R182). -/
def Dev.cnvUncaptured (d : Dev) (g : Nat) : Dev :=
  (List.range 4).foldl (fun d i => d.setLane (4 * g + i) { d.lane (4 * g + i) with bit0 := none }) d

/-! ### One word (R180, R182) -/

/-- The data of a word as two's complement, by format and coding. -/
def convertWord (fmt : Nat) (offsetBinary : Bool) (w : Nat) : Int :=
  let bits := if fmt = 1 then 18 else 16
  let v := if fmt = 2 then bitsOf w 17 2 else w % 2 ^ bits
  if offsetBinary then (v : Int) - 2 ^ (bits - 1) else signed bits v

/-- Sample width of a format. -/
def fmtBits (fmt : Nat) : Nat := if fmt = 1 then 18 else 16

/-- The check of fmt 2 fails: odd parity of bits [17:1], or bit 0 equal to that of the frame before. -/
def wordBad (fmt : Nat) (prev : Option Bool) (w : Nat) : Bool :=
  fmt == 2 && ((setBitsOf (bitsOf w 17 1) 17).length % 2 == 1 || prev == some (bitOf w 0))

/-- The value is at the most positive or the most negative code. -/
def overRange (fmt : Nat) (v : Int) : Bool :=
  let m : Int := 2 ^ (fmtBits fmt - 1)
  v == m - 1 || v == -m

/-- A lane after a captured word: value, whether it was replaced, whether it is over-range. -/
def Dev.laneWord (d : Dev) (n w : Nat) : Int × Bool × Bool × Dev :=
  let g := n / 4
  let fmt := d.rd CNV_GRPg_fmt g
  let l := d.lane n
  let d := d.laneStat n 0
  if wordBad fmt l.bit0 w then
    let l := { l with bit0 := some (bitOf w 0), bad := l.bad + 1, good := 0 }
    let d := ((d.setLane n l).laneStat n 1).cnvRec n 0x7001 3 0
    let d := if l.bad = 16 ∧ !l.failed then (d.setLane n { l with failed := true }).cnvRec n 0x7002 5 0 else d
    (l.last, true, false, d)
  else
    let v := convertWord fmt (d.flag CNV_GRPg_code g) w
    let l := { l with bit0 := some (bitOf w 0), bad := 0, good := l.good + 1, last := v }
    let d := d.setLane n l
    let d := if l.failed ∧ 256 ≤ l.good then (d.setLane n { l with failed := false }).cnvRec n 0x7003 2 0 else d
    if overRange fmt v then
      let d := d.laneStat n 2
      (v, false, true, d.cnvRec n 0x7005 3 (d.cnv.stat.get (8 * n + 2) 0 % 2 ^ 32))
    else (v, false, false, d)

/-! ### Lane items and comparators (R183, R184) -/

/-- The payload of a lane item from offset 0x10. -/
def lanePayload (n rate fmt repl ovr first : Nat) (xs : List Int) : List Byte :=
  leBytes n 1 ++ leBytes (rate + 8 * fmt) 1 ++ leBytes repl 1 ++ leBytes ovr 1 ++ leBytes first 4 ++
    (xs.map (fun x => if fmt = 1 then leBytes (unsigned 32 x) 4 else leBytes (unsigned 16 x) 2)).flatten

/-- Enqueues with the gap flag; an item that finds no room is discarded. -/
def Dev.hwEnqueueGap (d : Dev) (q time : Nat) (pl : List Byte) (gap : Bool) : Dev :=
  match d.hwEnqueue q 0xFE time pl none (b2n gap) with
  | (.held, d) => (d.fullDrop q).qRec 0x600B 4 q 0xFE
  | (_, d) => d

/-- A sample of an up lane enters its block; a block of 64 is enqueued as an item while CNV_LANE_Qn.en is 1. -/
def Dev.laneBlock (d : Dev) (n sec k : Nat) (x : Int) (repl ovr : Bool) : Dev :=
  let l := d.lane n
  let g := n / 4
  let rate := d.rd CNV_GRPg_rate g
  let fmt := d.rd CNV_GRPg_fmt g
  let start := if k % 64 = 0 then some ([], 0, 0, k) else l.block
  match start with
  | none => d
  | some (xs, r, o, k0) =>
    let xs := x :: xs
    let r := r + b2n repl
    let o := o + b2n ovr
    if xs.length < 64 then d.setLane n { l with block := some (xs, r, o, k0) }
    else
      let d := d.setLane n { l with block := none }
      if !d.flag CNV_LANE_Qn_en n then d
      else
        let time := nominal16 sec k0 (rateDiv rate) / 65536
        let pl := lanePayload n rate fmt r o k0 xs.reverse
        let d := ((d.setLane n { d.lane n with gap := false }).laneStat n 3)
        (d.hwEnqueueGap (d.rd CNV_LANE_Qn_queue n) time pl l.gap)

/-- The comparator of an up lane (R184). -/
def Dev.laneCompare (d : Dev) (n : Nat) (x : Int) : Dev :=
  let l := d.lane n
  if !d.flag CNV_LANE_CMPn_en n then d.setLane n { l with prev := some x, run := 0, fired := false }
  else
    let thr : Int := d.rd CNV_LANE_THRn_thr n
    let holds := if d.flag CNV_LANE_CMPn_mode n then
        match l.prev with
        | some p => decide (thr ≤ (x - p).natAbs)
        | none => false
      else decide (thr ≤ (x.natAbs : Int))
    let run := if holds then l.run + 1 else 0
    let fire := holds && !l.fired && decide (d.rd CNV_LANE_CMPn_count n + 1 ≤ run)
    let d := d.setLane n { l with prev := some x, run := run, fired := holds && (l.fired || fire) }
    if !fire then d
    else
      let s := d.rd CNV_LANE_CMPn_src n
      let owns := decide (256 ≤ s ∧ s < 512) && bitsOf (d.srcCfg s) 13 12 == 1 && bitsOf (d.srcCfg s) 23 16 == n
      if owns then d.raise s else (d.laneStat n 4).cnvRec n 0x7008 3 s

/-! ### Publishers (R186 to R192) -/

/-- r_sv of a publisher and R of R186 (0 where the group's rate offers no sampled values). -/
def Dev.pubRate (d : Dev) (p : Nat) : Nat := if d.flag CNV_PUB_CFGp_rate p then 14400 else 4800
def pubR (rateCode rsv : Nat) : Nat :=
  match rateCode with
  | 1 | 3 | 4 | 5 => rateHz rateCode / (4 * rsv)
  | _ => 0

/-- The group of a publisher's lanes, and its lanes in channel order. -/
def Dev.pubLanes (d : Dev) (p : Nat) : List Nat := setBitsOf (d.rd CNV_PUB_LANESp_lanes p) 32

/-- D · r_c rounded up to whole samples (R189): 5(R - 1)/2 + 19R. -/
def pubDelay (r : Nat) : Nat := 19 * r + (5 * (r - 1) + 1) / 2

/-- The input samples that a value's filter span covers. -/
def pubSpan (r : Nat) : Nat := 43 * r - 4

/-- One input sample through the CIC's five integrators. -/
def cicIn (x : Int) : List Int → List Int
  | [] => []
  | i :: is => let y := i + x; y :: cicIn y is

/-- One decimated value through the five combs: the output and the new comb memories. -/
def cicOut (x : Int) : List Int → Int × List Int
  | [] => (x, [])
  | c :: cs => let (y, r) := cicOut (x - c) cs; (y, x :: r)

/-- A weighted sum of `l` taken every `step` entries. -/
def tapSum (cs : List Int) (step : Nat) (l : List Int) : Int :=
  (cs.zipIdx.foldl (fun s c => s + c.1 * l.getD (c.2 * step) 0) 0)

/-- The compensator's taps (R187), over 16,384. -/
def c3 : List Int := [-293, 16970, -293]

/-- Stages 2 to 4 over the last 39 CIC outputs, newest first; the divisor is 512 · 512 · 16,384 · R⁵. -/
def pubFilter (outs : List Int) : Int :=
  tapSum c3 1 ((List.range 3).map (fun c =>
    tapSum h11 1 ((List.range 11).map (fun b => tapSum h11 1 (outs.drop (4 * c + 2 * b))))))

/-- A quotient rounded to the nearest, ties away from zero (R187). -/
def roundAway (n : Int) (m : Nat) : Int :=
  let q : Int := ((2 * n.natAbs + m) / (2 * m) : Nat)
  if n < 0 then -q else q

/-- A channel's output in INT32, and whether it saturated (R187). -/
def pubValue (r : Nat) (scale : Int) (outs : List Int) : Int × Bool :=
  let v := roundAway (pubFilter outs * scale) (512 * 512 * 16384 * r ^ 5 * 65536)
  let c := clampInt (-2147483648) 2147483647 v
  (c, c != v)

/-- One input sample of a channel: sample count, value, the conditions that hold, whether the CIC gives an output. -/
def PubCh.push (c : PubCh) (n : Nat) (x : Int) (conds : List Bool) (out : Bool) : PubCh :=
  let ints := cicIn x c.ints
  let cs := (c.conds.zip conds).map (fun p => if p.2 then some n else p.1)
  if out then
    let (y, combs) := cicOut (ints.getLastD 0) c.combs
    { ints := ints, combs := combs, outs := (y :: c.outs).take 39, conds := cs }
  else { c with ints := ints, conds := cs }

/-- The quality word of a value (R192), its bits as IEC 61850-7-3 orders them (log entry 60): validity in [1:0], overflow
2, failure 6, inconsistent 8, inaccurate 9, test 11. -/
def pubQuality (down unsync repl ovr test : Bool) : Nat :=
  (if down then 1 else if unsync || repl || ovr then 3 else 0) + 4 * b2n ovr + 64 * b2n down + 256 * b2n repl +
    512 * b2n unsync + 2048 * b2n test

/-- smpSynch from the time state (R192). -/
def Dev.smpSynch (d : Dev) : Nat :=
  match d.rd TIM_STATE_state with
  | 2 | 3 => 2
  | 4 => 1
  | 1 => if d.flag TIM_STATE_ever_locked then 1 else 0
  | _ => 0

/-- A condition held for some input sample in the span that ends at count `n`. -/
def within (c : Option Nat) (n span : Nat) : Bool := match c with | some m => decide (n < m + span) | none => false

/-- The value and quality of one channel. While the span holds samples from both sides of a jump of the grid, the value is
free. -/
def Dev.pubChannel (d : Dev) (p r lane n : Nat) (free : Bool) (c : PubCh) : (Int × Nat) × Dev :=
  let (v, sat) := pubValue r (signed 32 (d.rd CNV_LANE_SCALEn_scale lane)) c.outs
  let w (i : Nat) : Bool := within (c.conds.getD i none) n (pubSpan r)
  let q := pubQuality (w 0) (w 1) (w 2) (w 3 || sat) (d.flag CNV_PUB_CFGp_test p)
  if free then let (f, d) := d.draw .rephased; ((signed 32 f, q), d) else ((v, q), d)

/-- Writes the fields of one ASDU into the frame image (R190). -/
def Dev.pubFill (d : Dev) (p a : Nat) (img : List Byte) (m sync : Nat) (vals : List (Int × Nat)) : List Byte :=
  let o := a * d.rd CNV_PUB_CFGp_stride p
  let img := overlay img (d.rd CNV_PUB_OFFp_smp_off p + o) (beBytes m 2)
  let img := overlay img (d.rd CNV_PUB_OFFp_sync_off p + o) (beBytes sync 1)
  overlay img (d.rd CNV_PUB_OFFp_data_off p + o)
    ((vals.map (fun v => beBytes (unsigned 32 v.1) 4 ++ beBytes v.2 4)).flatten)

/-- The template of a publisher. -/
def Dev.pubImage (d : Dev) (p : Nat) : List Byte :=
  padTo (d.rd CNV_PUB_LENp_tpl_len p)
    (((List.range 256).map (fun w => leBytes (d.cnv.tpl.get (256 * p + w) 0).toNat 4)).flatten)

/-- A frame whose ASDUs are all there is enqueued (R191). -/
def Dev.pubFrame (d : Dev) (p : Nat) : Dev :=
  let x := d.pub p
  if x.asdus.length ≤ d.rd CNV_PUB_CFGp_asdu p then d
  else
    let img := (x.asdus.zipIdx.foldl (fun img a => d.pubFill p a.2 img a.1.2.1 a.1.2.2.1 a.1.2.2.2) (d.pubImage p))
    let first := x.asdus.headD (0, 0, 0, [])
    let time := first.1 * 1000000000 + first.2.1 * 1000000000 / d.pubRate p
    let d := d.setPub p { x with asdus := [] }
    let d := (d.hwEnqueueOrDrop (d.rd CNV_PUB_Qp_queue p) 0xFE time img).2
    if d.flag CNV_PUB_Qp_local_en p then (d.hwEnqueueOrDrop (d.rd CNV_PUB_Qp_local_q p) 0xFE time img).2 else d

/-- A nominal time in 2^-16 ns falls in a span that a step skipped (R193). -/
def Dev.skipped (d : Dev) (t : Nat) : Bool := d.cnv.skip.any (fun s => decide (s.1 * 65536 < t) && decide (t < s.2 * 65536))

/-- The skipped spans after a step over `span`: none that a step back lets pass again, and none that ended more than a second before,
which no sample in the filters or pipelines reaches back to. -/
def skipSpans (l : List (Nat × Nat)) (span : Nat × Nat) : List (Nat × Nat) :=
  span :: l.filter (fun s => decide (s.2 ≤ span.1) && decide (s.2 ≤ span.2) && decide (span.2 ≤ s.2 + 1000000000))

/-- An output of the cascade, unless its smpCnt lies in a skipped span (R193): smpCnt `m` of second `sec` joins its frame, which begins at a multiple of noASDU. -/
def Dev.pubOutput (d : Dev) (p r sec m : Nat) : Dev :=
  let x := d.pub p
  let no := d.rd CNV_PUB_CFGp_asdu p + 1
  if d.skipped (65536 * (sec * 1000000000 + m * 1000000000 / d.pubRate p)) then d.setPub p { x with asdus := [] } else
  let (vals, d) := (d.pubLanes p).foldl (fun (acc : List (Int × Nat) × Dev) l =>
    let (v, d) := acc.2.pubChannel p r l x.total (decide (x.n < pubSpan r)) (x.chans.get l {})
    (acc.1 ++ [v], d)) ([], d)
  let ext := match x.asdus.getLast? with
    | some a => if a.2.1 + 1 = m ∧ a.1 = sec then x.asdus else []
    | none => []
  if ext = [] ∧ m % no ≠ 0 then d.setPub p { x with asdus := [] }
  else (d.setPub p { x with asdus := ext ++ [(sec, m, d.smpSynch, vals)] }).pubFrame p

/-- A sample of a publisher's group: `get` gives each lane's value and conditions. -/
def Dev.pubSample (d : Dev) (p g sec k : Nat) (get : Nat → Int × List Bool) : Dev :=
  let lanes := d.pubLanes p
  let rsv := d.pubRate p
  let rate := d.rd CNV_GRPg_rate g
  let r := pubR rate rsv
  if !d.flag CNV_PUB_CFGp_en p ∨ lanes.headD 32 / 4 ≠ g ∨ r = 0 then d
  else
    let x := d.pub p
    let n := x.total + 1
    let lag := pubDelay r
    let pos := k + rateHz rate - lag
    let out := pos % r = 0
    let chans := lanes.foldl (fun t l => t.put l ((t.get l {}).push n (get l).1 (get l).2 out)) x.chans
    let d := d.setPub p { x with total := n, n := x.n + 1, chans := chans }
    if pos % (4 * r) = 0 ∧ pubSpan r ≤ n then
      d.pubOutput p r (if k < lag then sec - 1 else sec) (pos / (4 * r) % rsv)
    else d

/-! ### A frame of a group (R178, R180) -/

/-- The grid jumped: blocks and streams restart, and filters hold samples from both sides (R193). -/
def Dev.grpJump (d : Dev) (g : Nat) : Dev :=
  let x := d.grp g
  let d := (List.range 4).foldl (fun d i => d.setLane (4 * g + i) { d.lane (4 * g + i) with block := none, gap := true }) d
  let d := (List.range 8).foldl (fun d p =>
    if (d.pubLanes p).headD 32 / 4 = g then
      let y := d.pub p
      if x.jumped then d.setPub p { y with n := 0, asdus := [] } else d.setPub p {}
    else d) d
  let lanes := (List.range 4).map (4 * g + ·)
  let ks := (d.wfc.ctx.filter (fun e => e.2.valid && e.2.kind == 1 && e.2.lanes.any lanes.contains)).map (·.1)
  ks.foldl (fun d k => d.wfcGap k lanes) d

/-- The word of one lane in a frame: its value, whether the lane is up, and the conditions of R192. -/
def Dev.laneFrame (d : Dev) (n w : Nat) (unsync : Bool) : (Int × Bool × List Bool) × Dev :=
  if d.flag CNV_LANE_CFGn_en n && (d.lane n).isSet then
    let (v, repl, ovr, d) := d.laneWord n w
    let up := d.laneUp n
    ((v, up, [!up, unsync, repl, ovr]), d)
  else
    let (f, d) := (d.setLane n { d.lane n with bit0 := none }).draw .downSample
    ((signed (fmtBits (d.rd CNV_GRPg_fmt (n / 4))) f, false, [true, unsync, false, false]), d)

/-- The products of one lane's sample but the publishers: block, comparator, orbits, resamplers, assemblers. -/
def Dev.laneProducts (d : Dev) (n sec k : Nat) (v : Int × Bool × List Bool) : Dev :=
  let g := n / 4
  let rate := d.rd CNV_GRPg_rate g
  let fmt := d.rd CNV_GRPg_fmt g
  let t := nominal16 sec k (rateDiv rate)
  let l := d.lane n
  let back := v.2.1 && !l.wasUp
  let d := d.setLane n { l with wasUp := v.2.1 }
  let d := if v.2.1 then (d.laneBlock n sec k v.1 (v.2.2.getD 2 false) (v.2.2.getD 3 false)).laneCompare n v.1
    else d.setLane n (d.lane n).down
  let d := if v.2.1 then
      (List.range 4).foldl (fun d o => if d.rd ORBn_SRC_kind o = 0 ∧ d.rd ORBn_SRC_lane o = n then
        d.orbSample o t (v.1 * (2 ^ (24 - fmtBits fmt) : Nat)) else d) d
    else d
  let ks := (d.wfc.ctx.filter (fun e => e.2.valid && e.2.kind == 1 && e.2.lanes.contains n)).map (·.1)
  ks.foldl (fun d c =>
    let d := if back then d.setWfc c { d.wfcCtx c with gap := true } else d
    d.wfcLane c n (sec * rateHz rate + k) (if v.2.1 then some v.1 else none)) d

/-- The products of sample `k` of second `sec` of a group, with its lanes' values. -/
def Dev.grpProducts (d : Dev) (g sec k : Nat) (unsync : Nat → Bool) (vs : List (Int × Bool × List Bool)) : Dev :=
  let rate := d.rd CNV_GRPg_rate g
  let d := (List.range 4).foldl (fun d i => d.laneProducts (4 * g + i) sec k (vs.getD i (0, false, []))) d
  let d := (List.range 8).foldl (fun d p => d.pubSample p g sec k (fun l =>
    let v := vs.getD (l % 4) (0, false, [])
    (v.1, [v.2.2.getD 0 true, unsync (pubR rate (d.pubRate p)), v.2.2.getD 2 false, v.2.2.getD 3 false]))) d
  let rs := (d.rsm.ctx.filter (fun e => e.2.valid && e.2.lanesKind && e.2.lanes.headD 32 / 4 == g)).map (·.1)
  rs.foldl (fun d c => d.rsmBlock c (2 ^ 48)
    [((sec * rateHz rate + k) % 2 ^ 48, nominal16 sec k (rateDiv rate), (d.rsmCtx c).lanes.map (fun l =>
      let v := vs.getD (l % 4) (0, false, [])
      (v.1, v.2.1)))]) d

/-- Frame `f` of a second of group g: its four words, each captured, converted and checked, and their products. The word of frame
k + pipe is that of sample k (R180). The frame belongs to the latest second whose frame `f` is not after the counter. No sample
in a skipped span is converted (R193). -/
def Dev.cnvSample (d : Dev) (g f : Nat) (words : List Nat) : Dev :=
  let rate := d.rd CNV_GRPg_rate g
  let hz := rateHz rate
  if !d.grpOn g ∨ d.training g ∨ hz ≤ f then d
  else
    let s := d.taiNs / 1000000000
    let fsec := if nominal16 s f (rateDiv rate) ≤ d.taiNs * 65536 then s else s - 1
    let count := fsec * hz + f - d.rd CNV_GRPg_pipe g
    let sec := count / hz
    let k := count % hz
    if d.skipped (nominal16 sec k (rateDiv rate)) then d.cnvUncaptured g
    else
      let x := d.grp g
      let jump := match x.next with | some n => n != count | none => true
      let d := if jump then d.grpJump g else d
      let since := if jump && x.jumped then some 0 else x.since.map (· + 1)
      let d := d.setGrp g { x with next := some (count + 1), since := since, jumped := false }
      let unsync (r : Nat) : Bool := !d.flag CNV_SYN_locked || (match since with | some n => decide (n < pubDelay r) | none => false)
      let (vs, d) := (List.range 4).foldl (fun (acc : List (Int × Bool × List Bool) × Dev) i =>
        let (v, d) := acc.2.laneFrame (4 * g + i) (words.getD i 0) false
        (acc.1 ++ [v], d)) ([], d)
      d.grpProducts g sec k unsync vs

/-! ### Re-phase and lock (R193) -/

/-- The synthesiser re-phases: every group's grid jumps. -/
def Dev.cnvRephase (d : Dev) : Dev :=
  if !d.flag CNV_SYN_en then d
  else
    let d := (List.range 8).foldl (fun d g => if (d.grp g).next.isSome then
      d.setGrp g { d.grp g with next := none, jumped := true } else d) d
    d.cnvRec 0 0x7007 2 0

/-- CNV at a tick: a step of the tick before, which skipped `span`, or the TAI second after a relock, re-phases the synthesiser. -/
def Dev.cnvTick (d : Dev) (stepped : Bool) (span : Nat × Nat) : Dev :=
  let due := d.cnv.relock && d.tickTai % 1000000000 == 0
  let d := if due then { d with cnv := { d.cnv with relock := false } } else d
  let d := if stepped then { d with cnv := { d.cnv with skip := skipSpans d.cnv.skip span } } else d
  (if stepped || due then d.cnvRephase else d).cnvClocks

/-- CNV_SYN.locked falls. -/
def Dev.cnvUnlock (d : Dev) : Dev :=
  if !d.flag CNV_SYN_locked then d else ((d.wr CNV_SYN_locked 0).cnvRec 0 0x7006 5 0).cnvSettle

/-- The synthesiser locks again. -/
def Dev.cnvRelock (d : Dev) : Dev :=
  if d.flag CNV_SYN_locked ∨ !d.flag CNV_SYN_en then d
  else { d.wr CNV_SYN_locked 1 with cnv := { d.cnv with relock := true } }

/-! ### Training (R181) -/

/-- CNV_TRAIN. -/
def Dev.cnvTrainWrite (d : Dev) (v : Nat) : Status × Dev :=
  if d.flag CNV_TRAIN_busy then (.busy, d)
  else
    let d := (d.plainWrite pgCNV 0x044 v).2
    if !bitOf v 18 then (.ok, d)
    else if !d.grpOn (bitsOf v 26 24) then (.notReady, d)
    else (.ok, ((d.wr CNV_TRAIN_busy 1).cnvUncaptured (bitsOf v 26 24)).cnvSettle)

/-- The word of `bits` bits at a slip in captured bits. -/
def slipWord (bits slip : Nat) (x : BitVec 64) : Nat := x.toNat / 2 ^ slip % 2 ^ bits

/-- The widest run of taps that pass: its first tap and its length, the lowest of equal runs. -/
def widestRun (ok : Nat → Bool) : Nat × Nat :=
  let r := (List.range 64).foldl (fun (s : (Nat × Nat) × Nat) t =>
    let n := if ok t then s.2 + 1 else 0
    (if s.1.2 < n then (t + 1 - n, n) else s.1, n)) ((0, 0), 0)
  r.1

/-- Training of one lane (R181): the lowest slip of 0 to 31 at which the pattern appears, and the centre of the widest run of taps
without an error (log entry 348); none where there is no such tap. -/
def trainLane (bits pattern : Nat) (c : CnvCapture) : Option (Nat × Nat) :=
  let hit (s : Nat) (l : List (BitVec 64)) : Bool := !l.isEmpty && l.all (fun x => slipWord bits s x == pattern % 2 ^ bits)
  match (List.range 32).find? (fun s => hit s c.search) with
  | none => none
  | some slip =>
    let run := widestRun (fun t => hit slip (c.taps.getD t []))
    if run.2 = 0 then none else some (run.1 + (run.2 - 1) / 2, slip)

/-- Training ends: each lane gets its tap and slip, or fails. -/
def Dev.cnvTrainComplete (d : Dev) (caps : List CnvCapture) : Dev :=
  if !d.flag CNV_TRAIN_busy then d
  else
    let g := d.rd CNV_TRAIN_group
    let bits := if d.rd CNV_GRPg_fmt g = 0 then 16 else 18
    let res (i : Nat) : Option (Nat × Nat) := trainLane bits (d.rd CNV_TRAIN_pattern) (caps.getD i ⟨[], []⟩)
    let fail := maskOf ((List.range 4).filter (fun i => (res i).isNone))
    let d := (List.range 4).foldl (fun d i =>
      let n := 4 * g + i
      match res i with
      | some (tap, slip) => ((d.wr CNV_LANE_CFGn_tap tap n).wr CNV_LANE_CFGn_slip slip n).setLane n { d.lane n with isSet := true }
      | none => d.setLane n { d.lane n with isSet := false }) d
    let d := (((d.wr CNV_TRAIN_busy 0).wr CNV_TRAIN_RES_fail fail).setGrp g { d.grp g with next := none }).cnvSettle
    if fail = 0 then d.wr STATUS_last_status Status.ok.code 0 pgCNV
    else (d.wr STATUS_last_status Status.protocol.code 0 pgCNV).cnvRec (4 * g + (lowestBit fail 4).getD 0) 0x7004 4 fail

/-! ### Register writes (R179, R190, R201) -/

/-- The framing rule of R179 for a CNV_GRPg word. -/
def framingOk (v : Nat) : Bool :=
  let div := rateDiv (bitsOf v 2 0)
  let w := fmtBits (bitsOf v 4 3) + (if bitsOf v 4 3 = 2 then 2 else 0)
  div != 0 && bitsOf v 4 3 != 3 && decide (4 * (bitsOf v 15 12 + w / 2) + (if div % 4 = 2 then 2 else 0) ≤ div)

def Dev.cnvGrpWrite (d : Dev) (g v : Nat) : Status × Dev :=
  let off := 0x080 + 4 * g
  let old := d.rdWord CNV_GRPg_en g
  if d.flag CNV_GRPg_en g then
    if !bitOf v 31 ∧ bitsOf v 15 8 = bitsOf old 15 8 ∧ bitsOf v 5 0 = bitsOf old 5 0 then
      (.ok, ((((d.plainWrite pgCNV off v).2).setGrp g { clocks := (d.grp g).clocks }).cnvUncaptured g).cnvSettle)
    else (.busy, d)
  else if !framingOk v then (.badParam, d)
  else
    let r := d.plainWrite pgCNV off v
    (r.1, r.2.cnvSettle)

def Dev.cnvLaneWrite (d : Dev) (n v : Nat) : Status × Dev :=
  if d.flag CNV_GRPg_en (n / 4) ∧ (bitsOf v 13 8 ≠ d.rd CNV_LANE_CFGn_tap n ∨ bitsOf v 4 0 ≠ d.rd CNV_LANE_CFGn_slip n) then (.busy, d)
  else (.ok, (((d.plainWrite pgCNV (0x100 + 4 * n) v).2).setLane n { d.lane n with isSet := true }).cnvSettle)

/-- A write that sets a publisher's en, with the word it carries, is refused in the cases of R190. -/
def Dev.pubBad (d : Dev) (p v : Nat) : Bool :=
  let lanes := d.pubLanes p
  let len := d.rd CNV_PUB_LENp_tpl_len p
  let last := bitsOf v 29 27 * bitsOf v 9 0
  let g := lanes.headD 0 / 4
  decide (1024 < len) || decide (len < d.rd CNV_PUB_OFFp_smp_off p + last + 2) ||
    decide (len < d.rd CNV_PUB_OFFp_sync_off p + last + 1) ||
    decide (len < d.rd CNV_PUB_OFFp_data_off p + last + 8 * lanes.length) || lanes.any (fun l => l / 4 != g) ||
    pubR (d.rd CNV_GRPg_rate g) 4800 == 0

def Dev.cnvPubWrite (d : Dev) (p v : Nat) : Status × Dev :=
  if d.flag CNV_PUB_CFGp_en p then
    if bitOf v 31 then (.busy, d) else (.ok, ((d.plainWrite pgCNV (0x400 + 0x20 * p) v).2).setPub p {})
  else if bitOf v 31 && d.pubBad p v then (.badParam, d)
  else (.ok, ((d.plainWrite pgCNV (0x400 + 0x20 * p) v).2).setPub p {})

def Dev.tplAdvance (d : Dev) : Dev := d.wr CNV_TPL_SEL_word ((d.rd CNV_TPL_SEL_word + 1) % 256)
def Dev.tplKey (d : Dev) : Nat := 256 * d.rd CNV_TPL_SEL_pub + d.rd CNV_TPL_SEL_word
def Dev.tplWrite (d : Dev) (v : Nat) : Status × Dev :=
  (.ok, ({ d with cnv := { d.cnv with tpl := d.cnv.tpl.set d.tplKey (BitVec.ofNat 32 v) 0 } }).tplAdvance)
def Dev.tplRead (d : Dev) : Nat × Dev := ((d.cnv.tpl.get d.tplKey 0).toNat, d.tplAdvance)

/-- The writes of the CNV page. -/
def Dev.cnvWrite (d : Dev) (off v : Nat) : Status × Dev :=
  if off = 0x040 then
    let was := d.flag CNV_SYN_en
    let d := (d.plainWrite pgCNV off v).2
    let d := { d with cnv := { d.cnv with relock := d.cnv.relock && was == d.flag CNV_SYN_en } }
    if was = d.flag CNV_SYN_en then (.ok, d)
    else (.ok, (if was then d.cnvUnlock else d.wr CNV_SYN_locked 1).cnvSettle)
  else if off = 0x044 then d.cnvTrainWrite v
  else if 0x080 ≤ off ∧ off < 0x0A0 then d.cnvGrpWrite ((off - 0x080) / 4) v
  else if 0x100 ≤ off ∧ off < 0x180 then d.cnvLaneWrite ((off - 0x100) / 4) v
  else if 0x400 ≤ off ∧ off < 0x500 then
    let p := (off - 0x400) / 0x20
    if off % 0x20 = 0 then d.cnvPubWrite p v
    else if d.flag CNV_PUB_CFGp_en p then (.busy, d)
    else d.plainWrite pgCNV off v
  else if off = 0x504 then d.tplWrite v
  else d.plainWrite pgCNV off v

/-- CNV_STAT of the selected lane and index; 5 to 7 read 0. -/
def Dev.cnvStatValue (d : Dev) : Nat :=
  if 5 ≤ d.rd CNV_STAT_SEL_index then 0 else d.cnv.stat.get (8 * d.rd CNV_STAT_SEL_lane + d.rd CNV_STAT_SEL_index) 0

/-- CNV's operations end: training, blocks, filters; tap and slip count as unset (R182, R546). -/
def Dev.cnvDrop (d : Dev) : Dev :=
  { d.cnvClocks with cnv := { d.cnvClocks.cnv with lanes := [], grps := d.cnvClocks.cnv.grps.map (fun e => (e.1, { clocks := e.2.clocks })), pubs := [], relock := false } }

end Sys2Proof.Machine
end

