-- ==== Sys2Proof/Machine/Ports.lean ====
section
/-! DEFINITION. The Ethernet ports: MAC, stamps, PTP, counters, PRP and HSR, link state (R89 to R113, R119, R120). Ports
0 to 7 are P0 to P7 on the PRT pages, 8 to 11 are M0 to M3 on the MGP pages; the two pages share their layout. -/

namespace Sys2Proof.Machine

open Sys2Proof

/-- The page of a port. -/
def pgPort (p : Nat) : Nat := 0x010 + p

def isMgmt (p : Nat) : Bool := decide (8 ≤ p)

def Dev.port (d : Dev) (p : Nat) : Port := d.ports.get p {}
def Dev.setPort (d : Dev) (p : Nat) (x : Port) : Dev := { d with ports := d.ports.set p x {} }
def Dev.pair (d : Dev) (k : Nat) : Pair := d.pairs.get k {}
def Dev.setPair (d : Dev) (k : Nat) (x : Pair) : Dev := { d with pairs := d.pairs.set k x {} }

/-- PRT_MODE.mode or MGP_MODE.mode. -/
def Dev.portMode (d : Dev) (p : Nat) : Nat := if isMgmt p then d.rd MGP_MODE_mode 0 (p - 8) else d.rd PRT_MODE_mode 0 p

/-- The group works as an Ethernet MAC in this mode (R89, R92). -/
def Dev.macOn (d : Dev) (p : Nat) : Bool :=
  let m := d.portMode p
  if isMgmt p then m == 1 || m == 2 else decide (1 ≤ m ∧ m ≤ 5)

/-- Four 25 Gbit/s sub-ports (R89). -/
def Dev.breakout (d : Dev) (p : Nat) : Bool := !isMgmt p && (d.portMode p == 4 || d.portMode p == 5)

def Dev.portEnabled (d : Dev) (p : Nat) : Bool := d.flag STATUS_enabled 0 (pgPort p)
def Dev.portDraining (d : Dev) (p : Nat) : Bool := d.flag STATUS_draining 0 (pgPort p)

/-- The sub-port's link is up (R113). -/
def Dev.subUp (d : Dev) (p sub : Nat) : Bool :=
  if isMgmt p then d.flag MGP_LINK_up 0 (p - 8) else (d.rd PRT_LINK_up 0 p).testBit sub

/-! ### Counters (R97) -/

/-- Adds to a counter of a sub-port; counters saturate at 2^64 - 1. -/
def Dev.portCount (d : Dev) (p sub i : Nat) (n : Nat := 1) : Dev :=
  let x := d.port p
  let k := 64 * sub + i
  d.setPort p { x with cnt := x.cnt.set k (satAdd (2 ^ 64 - 1) (x.cnt.get k 0) n) 0 }

/-- A violation record of a port (R119): rate per code and port. -/
def Dev.portRec (d : Dev) (p sub code sev p2 : Nat) : Dev := d.rated (pgPort p) code p sev (p + sub * 256) p2

/-- The same for `n` occurrences: the first as it comes, the second as it comes, each further one merged into the held record the
second opens (R545). -/
def Dev.portRecs (d : Dev) (p sub code sev : Nat) : Nat → Dev
  | 0 => d
  | n + 1 => (d.portRecs p sub code sev n).portRec p sub code sev 0

/-- The value behind PRT_CNT_SEL. -/
def Dev.portCounter (d : Dev) (p : Nat) : Nat :=
  (d.port p).cnt.get (64 * (if isMgmt p then 0 else d.rd PRT_CNT_SEL_subport 0 p) + d.rd PRT_CNT_SEL_index 0 p) 0

/-! ### Ethernet headers -/

/-- How many VLAN tags stand after the source address: outer TPID 0x88A8 or 0x8100, inner 0x8100 (R95). -/
def vlanTags (b : List Byte) : Nat :=
  let t := beAt b 12 2
  if t = 0x88A8 ∨ t = 0x8100 then (if beAt b 16 2 = 0x8100 then 2 else 1) else 0

/-- Where the EtherType after the tags stands, and its value. -/
def etherOff (b : List Byte) : Nat := 12 + 4 * vlanTags b
def etherType (b : List Byte) : Nat := beAt b (etherOff b) 2

/-- VID and PCP of the tags, outer first (R95). -/
def vlanFields (b : List Byte) : List (Nat × Nat) :=
  (List.range (vlanTags b)).map (fun i => (beAt b (14 + 4 * i) 2 % 4096, beAt b (14 + 4 * i) 2 / 8192))

/-- The VLAN ID of the outer tag, none without a tag. -/
def outerVid (b : List Byte) : Option Nat := if vlanTags b = 0 then none else some (beAt b 14 2 % 4096)

def dstMac (b : List Byte) : Nat := beAt b 0 6
def srcMac (b : List Byte) : Nat := beAt b 6 6

/-- PRT_MAC_ADDR: the 48-bit address of a port. -/
def Dev.macAddr (d : Dev) (p : Nat) : Nat := d.rd PRT_MAC_ADDR_HI_addr 0 p * 2 ^ 32 + d.rd PRT_MAC_ADDR_LO_addr 0 p

/-! ### Stamps and PTP (R99 to R104) -/

/-- A stamp of 2^-16 ns with fraction bits [12:0] zero (R99). -/
def stampOf (v : Int) : Stamp := (divFree v 8192 * 8192).toNat

/-- The ingress stamp of a frame whose first bit crossed the pins `age` eighths of a ns before the CCLK `off`. -/
def Dev.rxStamp (d : Dev) (p off age : Nat) : Stamp :=
  stampOf ((d.counterAt off / 65536 : Nat) - (age * 8192 : Nat) - signed 16 (d.rd PRT_TS_ADJ_rx 0 p) * 4096)

/-- The egress stamp `off` CCLK and `eighths` of a ns after the last tick. -/
def Dev.txStamp (d : Dev) (p off eighths : Nat) : Stamp :=
  stampOf ((d.counterAt off / 65536 : Nat) + (eighths * 8192 : Nat) + signed 16 (d.rd PRT_TS_ADJ_tx 0 p) * 4096)

/-- The offset of a recognised PTP message in a frame (R101). DESIGN CHOICE, log entry 22: a message behind an HSR tag is not
recognised, since R101 names the source address and VLAN tags alone. -/
def Dev.ptpOff (d : Dev) (p : Nat) (b : List Byte) : Option Nat :=
  if d.flag PRT_PTP_ptp_en 0 p && etherType b == 0x88F7 then some (etherOff b + 2) else none

def ptpType (b : List Byte) (o : Nat) : Nat := beAt b o 1 % 16

/-- The length IEEE 1588 gives an event message, by messageType (log entry 22). -/
def ptpLen (t : Nat) : Nat := if t ≤ 1 then 44 else 54

/-- An event message shorter than its messageType requires (R101). DESIGN CHOICE, log entry 22: the bytes of the frame are counted,
padding and trailer included, and not messageLength. -/
def ptpShort (b : List Byte) (o : Nat) : Bool := decide (ptpType b o ≤ 3) && decide (b.length < o + ptpLen (ptpType b o))

/-- Adds to the correctionField, a signed 64-bit number of 2^-16 ns. -/
def ptpCorrect (b : List Byte) (o : Nat) (v : Int) : List Byte :=
  overlay b (o + 8) (beBytes (unsigned 64 (signed 64 (beAt b (o + 8) 8) + v)) 8)

/-- Identity and sequenceId that a Pdelay_Req carries, and those a Pdelay_Resp answers. -/
def pdelayReqKey (b : List Byte) (o : Nat) : List Byte := slice b (o + 20) 10 ++ slice b (o + 30) 2
def pdelayRespKey (b : List Byte) (o : Nat) : List Byte := slice b (o + 44) 10 ++ slice b (o + 30) 2

/-- The one-step rewrite of R102. -/
def Dev.oneStep (d : Dev) (p : Nat) (b : List Byte) (o : Nat) (st : Stamp) : List Byte × Dev :=
  let t := ptpType b o
  let ns := st / 65536
  if t = 0 ∧ beAt b (o + 6) 1 / 2 % 2 = 0 then
    (ptpCorrect (overlay b (o + 34) (beBytes (ns / 1000000000) 6 ++ beBytes (ns % 1000000000) 4)) o (st % 65536 : Nat), d)
  else if t = 3 then
    let x := d.port p
    match x.pdelay.find? (fun e => e.1 == pdelayRespKey b o) with
    | some e =>
      (ptpCorrect b o ((st : Int) - e.2), d.setPort p { x with pdelay := x.pdelay.filter (fun e => e.1 != pdelayRespKey b o) })
    | none => (b, d)
  else (b, d)

/-- The transparent clock correction of a Sync or Delay_Req carried from port `q` (R104). -/
def Dev.tcCorrect (d : Dev) (b : List Byte) (o q : Nat) (rx st : Stamp) : List Byte :=
  let t := ptpType b o
  if t ≤ 1 then
    ptpCorrect b o ((st : Int) - rx + (if t = 0 then (d.rd PRT_PEER_DELAY_delay 0 q * 4096 : Nat) else 0 : Int))
  else b

/-- The egress stamp of an event message goes into the stamp FIFO (R103). -/
def Dev.pushStamp (d : Dev) (p sub : Nat) (b : List Byte) (o : Nat) (st : Stamp) : Dev :=
  let x := d.port p
  if 64 ≤ x.ts.length then
    ((d.portCount p sub 14).bump PRT_TS_STAT_dropped 1 0 p).portRec p sub 0x4021 4 0
  else
    let e : TsEntry := { w0 := ptpType b o * 2 ^ 28 + sub * 2 ^ 24 + beAt b (o + 4) 1 * 65536 + beAt b (o + 30) 2, stamp := st }
    (d.setPort p { x with ts := x.ts ++ [e] }).wr PRT_TS_STAT_count (x.ts.length + 1) 0 p

/-- Puts a frame on the wire with its FCS (R96). -/
def Dev.sendFrame (d : Dev) (p sub : Nat) (b : List Byte) : Dev :=
  let b := b ++ leBytes (crc32eth b) 4
  ((d.portCount p sub 10).portCount p sub 11 b.length).emit (.frame p sub b)

/-- The one-step rewrite, or without it the stamp of an event message (R102, R103); a truncated message is not rewritten (R101). -/
def Dev.stampOut (d : Dev) (p sub : Nat) (b : List Byte) (o : Nat) (st : Stamp) (short : Bool) : List Byte × Dev :=
  if d.flag PRT_PTP_one_step 0 p then (if short then (b, d) else d.oneStep p b o st)
  else (b, if ptpType b o ≤ 3 then d.pushStamp p sub b o st else d)

/-- Sends a frame: the PTP work of the egress port, the FCS, the counters (R96, R101 to R104; log entry 342). -/
def Dev.transmit (d : Dev) (p : Nat) (f : TxFrame) (off eighths : Nat) : Dev :=
  let st := d.txStamp p off eighths
  let tc := d.flag PRT_PTP_tc_en 0 p
  match d.ptpOff p f.bytes with
  | none => d.sendFrame p f.sub f.bytes
  | some o =>
    let short := ptpShort f.bytes o
    let d := if short then (d.portCount p f.sub 15).portRec p f.sub 0x4020 3 0 else d
    if short && tc then d
    else
      let (b, d) := d.stampOut p f.sub f.bytes o st short
      d.sendFrame p f.sub (match f.carried with
        | some (q, rx) => if tc then d.tcCorrect b o q rx st else b
        | none => b)

/-- A Pdelay message, which no forward step carries (R104). -/
def pdelayMsg (b : List Byte) : Bool :=
  etherType b == 0x88F7 && (let t := ptpType b (etherOff b + 2); t == 2 || t == 3 || t == 10)

/-- A frame leaves the egress FIFO of a port (R96, R99). -/
def Dev.frameTx (d : Dev) (p off eighths : Nat) : Dev :=
  let x := d.port p
  match x.egress with
  | [] => d
  | f :: fs =>
    if d.macOn p && d.subUp p f.sub then (d.setPort p { x with egress := fs }).transmit p f off eighths else d

/-! ### Redundancy (R105 to R110) -/

/-- The pair of a port, its first port and the other port. -/
def pairOf (p : Nat) : Nat := if isMgmt p then 4 + (p - 8) / 2 else p / 2
def firstPort (k : Nat) : Nat := if k < 4 then 2 * k else 8 + 2 * (k - 4)
def otherPort (p : Nat) : Nat := if p % 2 = 0 then p + 1 else p - 1

/-- The redundancy of a pair: 0 none, 1 PRP, 2 HSR. -/
def Dev.pairMode (d : Dev) (k : Nat) : Nat := if k < 4 then d.rd PRT_PRP_en 0 (2 * k) else d.rd MGP_RED_red 0 (2 * (k - 4))

def Dev.forgetMs (d : Dev) (k : Nat) : Nat := d.rd PRT_PRP_forget_ms 0 (firstPort k)
def Dev.lifeMs (d : Dev) (k : Nat) : Nat := d.rd PRT_PRP_life_ms 0 (firstPort k)

/-- The LSDU size of a frame without FCS: the bytes after its length or type field and tags, trailer or tag included (log
entry 23). -/
def lsduSize (b : List Byte) : Nat := b.length - 14 - 4 * vlanTags b

/-- A redundancy control trailer: suffix 0x88FB and, when its LSDU size agrees, sequence number and LanId (R106). -/
inductive Redundancy where
  | absent
  | wrongSize
  | present (seq : Nat) (lan : Nat)
  deriving DecidableEq, Repr

def prpTrailer (b : List Byte) : Redundancy :=
  let o := b.length - 6
  if b.length < 20 ∨ beAt b (o + 4) 2 ≠ 0x88FB then .absent
  else if beAt b (o + 2) 2 % 4096 ≠ lsduSize b % 4096 then .wrongSize
  else .present (beAt b o 2) (beAt b (o + 2) 2 / 4096)

/-- The HSR tag after the source address and VLAN tags (R110). -/
def hsrTag (b : List Byte) : Redundancy :=
  let o := etherOff b
  if beAt b o 2 ≠ 0x892F then .absent
  else if beAt b (o + 2) 2 % 4096 ≠ lsduSize b % 4096 then .wrongSize
  else .present (beAt b (o + 4) 2) (beAt b (o + 2) 2 / 4096)

/-- What the node table says of a sequence number (R107). -/
inductive NodeVerdict where
  | fresh | duplicate | outside | tableFull
  deriving DecidableEq, Repr

/-- One node's judgement of a sequence number, and the node after it. -/
def Node.judge (n : Node) (seq : Nat) : NodeVerdict × Node :=
  let dd := (seq + 65536 - n.high) % 65536
  if dd = 0 then (.duplicate, n)
  else if dd < 32768 then (.fresh, { n with high := seq, map := (n.map * 2 ^ dd + 2 ^ (dd - 1)) % 2 ^ 64 })
  else
    let b := 65536 - dd
    if 64 < b then (.outside, n)
    else if n.map.testBit (b - 1) then (.duplicate, n)
    else (.fresh, { n with map := setBits n.map (b - 1) (b - 1) 1 })

/-- The node table's judgement of a frame (R107). -/
def Dev.nodeJudge (d : Dev) (k mac seq : Nat) : NodeVerdict × Dev :=
  let x := d.pair k
  match x.nodes.find? (fun n => n.mac == mac) with
  | some n =>
    let (v, n') := n.judge seq
    (v, d.setPair k { x with nodes := x.nodes.map (fun m => if m.mac = mac then { n' with seen := d.cclk } else m) })
  | none =>
    if 1024 ≤ x.nodes.length then (.tableFull, d)
    else (.fresh, d.setPair k { x with nodes := x.nodes ++ [{ mac := mac, high := seq, map := 0, seen := d.cclk }] })

/-- A supervision frame: the position of its content, found behind an HSR tag too (R109). -/
def supervisionAt (b : List Byte) : Option Nat :=
  let o := etherOff b
  if beAt b 0 5 ≠ 0x01154E0001 then none
  else if beAt b o 2 = 0x88FB then some (o + 2)
  else if beAt b o 2 = 0x892F ∧ beAt b (o + 6) 2 = 0x88FB then some (o + 8)
  else none

/-- SupVersion 1 with a first TLV that names a node (log entry 23). -/
def supervisionOk (b : List Byte) (o : Nat) : Bool :=
  beAt b o 2 % 4096 == 1 && (beAt b (o + 4) 1 == 20 || beAt b (o + 4) 1 == 21 || beAt b (o + 4) 1 == 23) && beAt b (o + 5) 1 == 6

def supervisionRedBox (b : List Byte) (o : Nat) : Bool := beAt b (o + 12) 1 == 30

/-- A supervision frame refreshes the node it names (R109). -/
def Dev.nodeRefresh (d : Dev) (k mac : Nat) : Dev :=
  let x := d.pair k
  d.setPair k { x with nodes := x.nodes.map (fun m => if m.mac = mac then { m with seen := d.cclk } else m) }

/-- The work on a received supervision frame: true when the node table may be updated from it (R109, R119). -/
def Dev.supervise (d : Dev) (p sub : Nat) (b : List Byte) : Bool × Dev :=
  match supervisionAt b with
  | none => (true, d)
  | some o =>
    if !supervisionOk b o then (false, d.portRec p sub 0x4013 3 0)
    else
      if supervisionRedBox b o then (false, (d.portCount p sub 18).portRec p sub 0x4013 3 0)
      else (true, d.nodeRefresh (pairOf p) (beAt b (o + 6) 6))

/-- The count and record of a node table verdict: true when the frame is passed (R107, R119). -/
def Dev.nodeVerdict (d : Dev) (p sub : Nat) (v : NodeVerdict) : Bool × Dev :=
  match v with
  | .fresh => (true, d)
  | .duplicate => (false, d.portCount p sub 16)
  | .outside => (true, d.portCount p sub 19)
  | .tableFull => (true, d.portRec p sub 0x4012 4 0)

/-- A frame without a valid trailer or tag (R106); it still is one from its source (R107). -/
def Dev.noTrailer (d : Dev) (p sub : Nat) (b : List Byte) (r : Redundancy) : Dev :=
  let d := (d.portCount p sub 18).nodeRefresh (pairOf p) (srcMac b)
  if r = .wrongSize then d.portRec p sub 0x4011 3 0 else d

/-- A frame on a PRP pair: passed or discarded (R106 to R108). -/
def Dev.prpReceive (d : Dev) (p sub : Nat) (b : List Byte) : Bool × Dev :=
  let (update, d) := d.supervise p sub b
  match prpTrailer b with
  | .present seq lan =>
    let d := if lan = (if p % 2 = 0 then 0xA else 0xB) then d else (d.portCount p sub 17).portRec p sub 0x4010 3 0
    if update then
      let (v, d) := d.nodeJudge (pairOf p) (srcMac b) seq
      d.nodeVerdict p sub v
    else (true, d)
  | r => (true, d.noTrailer p sub b r)

/-- Puts a frame in line for the other ring port (R110). -/
def Dev.hsrQueue (d : Dev) (p : Nat) (b : List Byte) : Dev :=
  let x := d.pair (pairOf p)
  d.setPair (pairOf p) { x with fwd := x.fwd ++ [(p, b)] }

/-- A frame on an HSR pair: delivered or not; forwarding goes through the pair's line (R110). -/
def Dev.hsrReceive (d : Dev) (p sub : Nat) (b : List Byte) : Bool × Dev :=
  let own := d.macAddr (firstPort (pairOf p))
  match hsrTag b with
  | .present seq _ =>
    if srcMac b = own then (false, d.portCount p sub 21)
    else
      let (update, d) := d.supervise p sub b
      let (pass, d) := if update then
          let (v, d) := d.nodeJudge (pairOf p) (srcMac b) seq
          d.nodeVerdict p sub v
        else (true, d)
      if !pass then (false, d)
      else if dstMac b = own then (true, d)
      else if (dstMac b).testBit 40 then (true, d.hsrQueue p b)
      else (false, d.hsrQueue p b)
  | r => if srcMac b = own then (false, d.portCount p sub 21) else (true, d.noTrailer p sub b r)

/-- The forwarding of the oldest waiting frame of a ring (R110). -/
def Dev.hsrForward (d : Dev) (k off eighths : Nat) : Dev :=
  let x := d.pair k
  match x.fwd with
  | [] => d
  | (p, b) :: fs =>
    let d := d.setPair k { x with fwd := fs }
    let o := otherPort p
    if d.portEnabled o && d.subUp o 0 then (d.portCount o 0 20).transmit o { sub := 0, bytes := b, carried := none } off eighths
    else d

/-- A node entry with no frame for forget_ms is removed (R107). -/
def Dev.nodeForget (d : Dev) (k mac : Nat) : Dev :=
  let x := d.pair k
  d.setPair k { x with nodes := x.nodes.filter (fun n => n.mac != mac || decide (d.cclk < n.seen + d.forgetMs k * cclkPerMs)) }

/-! ### Egress (R96, R109 to R112) -/

/-- Bytes the egress FIFO of a port holds (R111). -/
def fifoSize (p : Nat) : Nat := if isMgmt p then 16384 else 65536
def Dev.egressBytes (d : Dev) (p : Nat) : Nat := (d.port p).egress.foldl (fun s f => s + f.bytes.length) 0

/-- A frame into one port's egress FIFO; a group in mode 6 or off has no MAC (R92). -/
def Dev.toEgress (d : Dev) (p : Nat) (f : TxFrame) : Status × Dev :=
  if d.portDraining p || !d.portEnabled p || !d.macOn p then (.notReady, d)
  else if fifoSize p < d.egressBytes p + f.bytes.length then (.full, d)
  else
    let x := d.port p
    (.ok, d.setPort p { x with egress := x.egress ++ [f] })

/-- The MAC's padding (R96). -/
def macPad (b : List Byte) : List Byte := if b.length < 60 then padTo 60 b else b

/-- The PRP trailer of one copy (R109). -/
def withPrpTrailer (b : List Byte) (seq lan : Nat) : List Byte :=
  b ++ beBytes seq 2 ++ beBytes (lan * 4096 + (lsduSize b + 6) % 4096) 2 ++ [0x88, 0xFB]

/-- The HSR tag of one copy (R110): path identifier of the ring port. -/
def withHsrTag (b : List Byte) (seq path : Nat) : List Byte :=
  let o := etherOff b
  b.take o ++ [0x89, 0x2F] ++ beBytes (path * 4096 + (lsduSize b + 6) % 4096) 2 ++ beBytes seq 2 ++ b.drop o

/-- A frame to both ports of a pair, under one sequence number (R109, R110). -/
def Dev.toPair (d : Dev) (k sub : Nat) (b : List Byte) (carried : Option (Nat × Stamp)) : Status × Dev :=
  let a := firstPort k
  let x := d.pair k
  let copy (lan : Nat) : List Byte := match d.pairMode k with
    | 1 => withPrpTrailer b x.seq (0xA + lan)
    | 2 => withHsrTag b x.seq lan
    | _ => b
  let d := d.setPair k { x with seq := (x.seq + 1) % 65536 }
  let (sa, d) := d.toEgress a { sub := sub, bytes := copy 0, carried := carried }
  let (sb, d) := d.toEgress (a + 1) { sub := sub, bytes := copy 1, carried := carried }
  (if sa = .ok ∨ sb = .ok then .ok else pickStatus [sa, sb], d)

/-- The sequencer hands the MAC a frame without FCS (R96): to one port, or to the port's pair. -/
def Dev.submit (d : Dev) (p sub : Nat) (pair : Bool) (b : List Byte) (carried : Option (Nat × Stamp)) : Status × Dev :=
  if !d.macOn p then (.notReady, d)
  else if d.rd PRT_MAC_max_len 0 p < b.length + 4 then (.badParam, d.portCount p sub 12)
  else
    let b := macPad b
    if pair || d.pairMode (pairOf p) = 2 then d.toPair (pairOf p) sub b carried
    else d.toEgress p { sub := sub, bytes := b, carried := carried }

/-- The supervision frame of a pair (R109): SupVersion 1 and the node's address (log entry 23). -/
def Dev.supervisionFrame (d : Dev) (k : Nat) : List Byte :=
  let mac := d.macAddr (firstPort k)
  beBytes 0x01154E0001 5 ++ beBytes (d.rd PRT_PRP_SUP_sup_addr 0 (firstPort k)) 1 ++ beBytes mac 6 ++ [0x88, 0xFB] ++
    beBytes 1 2 ++ beBytes (d.pair k).supSeq 2 ++ [if d.pairMode k = 2 then 23 else 20, 6] ++ beBytes mac 6 ++ [0, 0]

/-- A pair sends a supervision frame every life_ms (R109). -/
def Dev.supervisionTimer (d : Dev) (k : Nat) : Dev :=
  let x := d.pair k
  if d.pairMode k ≠ 0 ∧ d.lifeMs k ≠ 0 ∧ x.supAt + d.lifeMs k * cclkPerMs ≤ d.cclk then
    let b := macPad (d.supervisionFrame k)
    ((d.setPair k { x with supAt := d.cclk, supSeq := (x.supSeq + 1) % 65536 }).toPair k 0 b none).2
  else d

/-- Disabling a port without a drain discards its egress FIFO (R112). -/
def Dev.portDisable (d : Dev) (p : Nat) : Dev :=
  let x := d.port p
  x.egress.foldl (fun d f => d.portCount p f.sub 13) (d.setPort p { x with egress := [] })

/-! ### Reception (R94, R95, R111) -/

/-- The work of R101 and R102 on a received PTP message. DESIGN CHOICE, log entry 22: the last 64 Pdelay_Req stamps of a port are
kept, and each serves one Pdelay_Resp. -/
def Dev.ptpReceive (d : Dev) (p sub : Nat) (b : List Byte) (st : Stamp) : Dev :=
  match d.ptpOff p b with
  | none => d
  | some o =>
    if ptpShort b o then (d.portCount p sub 15).portRec p sub 0x4020 3 0
    else if ptpType b o = 2 then
      let x := d.port p
      d.setPort p { x with pdelay := ((pdelayReqKey b o, st) :: x.pdelay).take 64 }
    else d

/-- What the PCS counted (R97, R119). -/
def Dev.pcsCounts (d : Dev) (p sub : Nat) (f : RxFrame) : Dev :=
  let d := ((d.portCount p sub 6 f.fecCorr).portCount p sub 7 f.fecUncorr).portCount p sub 8 f.symErr
  d.portRecs p sub 0x4005 3 f.fecUncorr

/-- The redundancy fields of a frame's metadata (R95). -/
def redFields (mode : Nat) (b : List Byte) : Option (Nat × Nat) :=
  match (if mode = 1 then prpTrailer b else if mode = 2 then hsrTag b else .absent) with
  | .present seq lan => some (seq, lan)
  | _ => none

/-- A frame that the length and type rules of R94 let through: the redundancy pair, then the hand-over. -/
def Dev.acceptFrame (d : Dev) (p sub off : Nat) (f : RxFrame) : Option Handed × Dev :=
  let b := f.bytes.take (f.bytes.length - 4)
  let fcsBad := crc32eth b != leValue (f.bytes.drop (f.bytes.length - 4))
  let st := d.rxStamp p off f.age
  let d := if fcsBad then (d.portCount p sub 2).portRec p sub 0x4001 3 0 else d
  let d := d.ptpReceive p sub b st
  let mode := d.pairMode (pairOf p)
  let (pass, d) := match mode with
    | 1 => d.prpReceive p sub b
    | 2 => d.hsrReceive p sub b
    | _ => (true, d)
  (if pass then some { port := p, sub := sub, stamp := st, fcsBad := fcsBad, bytes := b, vlans := vlanFields b, red := redFields mode b, info := f.info } else none, d)

/-- The MAC receives a frame: nothing while the port is off or its link down; the discards of R94 and R111; else the
frame for the sequencer. DESIGN CHOICE, log entry 478: rx_frames and rx_bytes count every frame that no drain discards, and a MAC
control frame is known behind VLAN tags too. -/
def Dev.macReceive (d : Dev) (p sub off : Nat) (f : RxFrame) : Option Handed × Dev :=
  let sub := if d.breakout p then sub else 0
  let n := f.bytes.length
  if !d.macOn p || !d.subUp p sub || !(d.portEnabled p || d.portDraining p) then (none, d)
  else if d.portDraining p && !f.begun then (none, d.portCount p sub 9)
  else
    let d := ((d.pcsCounts p sub f).portCount p sub 0).portCount p sub 1 n
    if n < 64 then (none, (d.portCount p sub 3).portRec p sub 0x4002 3 0)
    else if d.rd PRT_MAC_max_len 0 p < n then (none, (d.portCount p sub 4).portRec p sub 0x4003 3 n)
    else if etherType f.bytes = 0x8808 then (none, (d.portCount p sub 5).portRec p sub 0x4004 1 0)
    else d.acceptFrame p sub off f

/-! ### Link state (R93, R113) -/

/-- The source of a port's state: EV0960 + n or EV0968 + m. -/
def portSource (p : Nat) : Nat := 960 + p

/-- The level the port state source presents (R113): a group in mode 6, whose link fields but the lanes' have no effect (R92), is up
with its four lanes locked and aligned. -/
def Dev.portLevel (d : Dev) (p : Nat) : Bool :=
  (d.portEnabled p || d.portDraining p) &&
    (if isMgmt p then d.flag MGP_LINK_up 0 (p - 8)
     else if d.portMode p == 6 then d.rd PRT_LINK_lane_lock 0 p == 15 && (d.port p).align.contains 0
     else if d.breakout p then d.rd PRT_LINK_up 0 p == 15 else (d.rd PRT_LINK_up 0 p).testBit 0)

/-- Presents the port's state. -/
def Dev.portNote (d : Dev) (p : Nat) : Dev :=
  let l := d.portLevel p
  if d.evm.level.getLsbD (portSource p) = l then d else d.level (portSource p) l

/-- Auto-negotiation and training apply to a sub-port (R89). -/
def Dev.anApplies (d : Dev) (p sub : Nat) : Bool :=
  let m := d.portMode p
  if isMgmt p then true else (m == 1 || m == 2 || m == 4 || m == 5) && (d.rd PRT_AN_an_en 0 p).testBit sub
def Dev.trainApplies (d : Dev) (p : Nat) : Bool :=
  let m := d.portMode p
  !isMgmt p && (m == 1 || m == 2 || m == 4 || m == 5) && d.flag PRT_AN_train_en 0 p

/-- The lanes of a sub-port are locked. -/
def Dev.lanesLocked (d : Dev) (p sub : Nat) (e : LinkEnv) : Bool :=
  if isMgmt p then e.lock.getLsbD 0 else if d.breakout p then e.lock.getLsbD sub else e.lock == 15

/-- The technology a sub-port offers: bit 0 100GBASE-KR4, 1 100GBASE-CR4, 2 25GBASE-KR, 3 25GBASE-CR, 4 1 Gbit/s (R93). -/
def Dev.techAbility (d : Dev) (p : Nat) : Nat :=
  if isMgmt p then 16
  else match d.portMode p with | 1 => 1 | 2 => 2 | 4 => 4 | 5 => 8 | _ => 0
/-- The FEC it offers, as PRT_FEC codes it: modes 1 and 2 use field 0. -/
def Dev.fecAbility (d : Dev) (p sub : Nat) : Nat :=
  if isMgmt p then 0 else bitsOf (d.rd PRT_FEC_fec 0 p) (2 * (if d.breakout p then sub else 0) + 1) (2 * (if d.breakout p then sub else 0))

/-- A negotiation with this partner finds no common ability. -/
def Dev.noCommon (d : Dev) (p sub : Nat) (e : LinkEnv) : Bool :=
  d.anApplies p sub && e.partner != 0 && (d.techAbility p &&& e.partner.toNat) == 0

/-- The port's transmitter sends (R112, R542). -/
def Dev.portSends (d : Dev) (p : Nat) : Bool := d.portEnabled p || d.portDraining p

/-- While it is not complete, auto-negotiation puts out the own abilities and nothing else (R93). -/
def Dev.anOffer (d : Dev) (p sub : Nat) (e : LinkEnv) : Dev :=
  if d.portSends p && d.macOn p && d.anApplies p sub && !e.anDone then d.emit (.anPage p sub (d.techAbility p) (d.fecAbility p sub)) else d

/-- What a sub-port whose link is down sends once its negotiation is over (R119): remote fault while a local fault lasts, idles to a
partner that sends remote fault. -/
def Dev.faultAnswer (d : Dev) (p sub : Nat) (e : LinkEnv) : Dev :=
  if !d.portSends p || !d.macOn p || (d.anApplies p sub && !e.anDone) then d
  else if e.localFault || e.hiSer || !e.align then d.emit (.remoteFault p sub)
  else if e.remoteFault then d.emit (.idles p sub)
  else d

/-- A port that starts to send puts out its abilities on each sub-port that has not negotiated. -/
def Dev.portOffers (d : Dev) (p : Nat) : Dev :=
  (List.range (if d.breakout p then 4 else 1)).foldl (fun d sub =>
    let done := if isMgmt p then d.flag MGP_LINK_an_done 0 (p - 8) else (d.rd PRT_LINK_an_done 0 p).testBit sub
    if d.portSends p && d.macOn p && d.anApplies p sub && !done then d.emit (.anPage p sub (d.techAbility p) (d.fecAbility p sub)) else d) d

/-- A sub-port is up (R113). -/
def Dev.linkUp (d : Dev) (p sub : Nat) (e : LinkEnv) : Bool :=
  d.macOn p && d.lanesLocked p sub e && e.align && (!d.anApplies p sub || e.anDone && !d.noCommon p sub e) && (!d.trainApplies p || e.trained) &&
    !e.localFault && !e.remoteFault && !e.hiSer

def setFlag (old i : Nat) (b : Bool) : Nat := setBits old i i (b2n b)

/-- PRT_LINK or MGP_LINK after a change. -/
def Dev.linkFields (d : Dev) (p sub : Nat) (e : LinkEnv) (up : Bool) : Dev :=
  if isMgmt p then
    let m := p - 8
    (((d.wr MGP_LINK_up (b2n up) 0 m).wr MGP_LINK_sync (b2n (e.lock.getLsbD 0)) 0 m).wr MGP_LINK_an_done (b2n e.anDone) 0
      m).wr MGP_LINK_remote_fault (b2n e.remoteFault) 0 m
  else
    let set (d : Dev) (f : Fld) (b : Bool) : Dev := d.wr f (setFlag (d.rd f 0 p) sub b) 0 p
    let lock := if d.breakout p then setFlag (d.rd PRT_LINK_lane_lock 0 p) sub (e.lock.getLsbD sub) else e.lock.toNat
    set (set (set (set (d.wr PRT_LINK_lane_lock lock 0 p) PRT_LINK_up up) PRT_LINK_an_done e.anDone) PRT_LINK_local_fault
      e.localFault) PRT_LINK_remote_fault e.remoteFault

/-- The records of a link change (R119). -/
def Dev.linkRecords (d : Dev) (p sub : Nat) (e : LinkEnv) : Dev :=
  let x := d.port p
  let d := if e.hiSer || (x.align.contains sub && !e.align) then d.portRec p sub 0x4006 4 0 else d
  let d := if e.remoteFault && !x.remote.contains sub then d.portRec p sub 0x4007 4 0 else d
  let d := if d.noCommon p sub e then d.portRec p sub 0x4008 3 0 else d
  let d := if e.failed = 0 then d else d.portRec p sub 0x4009 3 e.failed.toNat
  let x := d.port p
  let keep (l : List Nat) (b : Bool) : List Nat := if b then sub :: l.filter (· != sub) else l.filter (· != sub)
  d.setPort p { x with align := keep x.align e.align, remote := keep x.remote e.remoteFault }

/-- A sub-port's link changes (R113). In mode 6 only the lane fields follow (R92). -/
def Dev.linkChange (d : Dev) (p sub : Nat) (e : LinkEnv) : Dev :=
  let sub := if d.breakout p then sub else 0
  if !isMgmt p && d.portMode p == 6 then
    ((d.setPort p { d.port p with align := if e.align then [0] else [] }).wr PRT_LINK_lane_lock e.lock.toNat 0 p).portNote p
  else ((((d.linkFields p sub e (d.linkUp p sub e)).linkRecords p sub e).anOffer p sub e).faultAnswer p sub e).portNote p

/-! ### Register writes and reads (R90, R97, R103, R105, R120) -/

/-- The FEC settings a mode does not allow (R90). -/
def fecBad (mode fec : Nat) : Bool :=
  let c := fec % 4
  (decide (1 ≤ mode ∧ mode ≤ 3) && c == 1) || ((mode == 1 || mode == 2) && c == 0)

/-- A group whose mode changes takes its link up anew: nothing of PRT_LINK stands from the earlier mode. -/
def Dev.linkClear (d : Dev) (p : Nat) : Dev :=
  let clr (d : Dev) (f : Fld) : Dev := d.wr f 0 0 p
  let d := [PRT_LINK_up, PRT_LINK_lane_lock, PRT_LINK_an_done, PRT_LINK_local_fault, PRT_LINK_remote_fault].foldl clr d
  (d.setPort p { d.port p with align := [], remote := [] }).portNote p

/-- PRT_MODE, PRT_FEC, PRT_AN, PRT_LANE (R90). A port of an enabled pair does not go to mode 6 (R92). -/
def Dev.portSetupWrite (d : Dev) (p off v : Nat) : Status × Dev :=
  let page := pgPort p
  let bad := if off = 0x040 then bitsOf v 2 0 == 7 || fecBad (bitsOf v 2 0) (d.rd PRT_FEC_fec 0 p) ||
      (bitsOf v 2 0 == 6 && d.pairMode (pairOf p) != 0)
    else off == 0x044 && ((List.range 4).any (fun s => bitsOf v (2 * s + 1) (2 * s) == 3) || fecBad (d.portMode p) v)
  let st := pickStatus [if d.portEnabled p || d.portDraining p then .busy else .ok, if bad then .badParam else .ok]
  if st ≠ .ok then (st, d)
  else d.plainWrite page off v |>.map id (fun n => if n.portMode p = d.portMode p then n else n.linkClear p)

/-- PRT_PRP and MGP_RED (R105): the first port's register enables the pair; the second port's reads 0. -/
def Dev.pairWrite (d : Dev) (p v : Nat) : Status × Dev :=
  let red := if isMgmt p then bitsOf v 2 1 else v % 2
  if p % 2 = 1 then (.ok, d)
  else if red = 3 ∨ (red ≠ 0 ∧ (d.portMode p ≠ d.portMode (p + 1) ∨ (!isMgmt p ∧ d.portMode p = 6))) then (.badParam, d)
  else
    let x := d.pair (pairOf p)
    let d := if d.pairMode (pairOf p) = 0 ∧ red ≠ 0 then d.setPair (pairOf p) { x with supAt := d.cclk } else d
    d.plainWrite (pgPort p) 0x080 v

/-- PRT_CNT_CLR (R97). -/
def Dev.portCntClear (d : Dev) (p v : Nat) : Status × Dev :=
  (.ok, if bitOf v 0 then d.setPort p { d.port p with cnt := [] } else d)

def Dev.portWrite (d : Dev) (p off v : Nat) : Status × Dev :=
  match off with
  | 0x040 => if isMgmt p then (if bitsOf v 1 0 = 3 then (.badParam, d) else d.plainWrite (pgPort p) off v)
             else d.portSetupWrite p off v
  | 0x044 => d.portSetupWrite p off v
  | 0x048 => d.portSetupWrite p off v
  | 0x04C => d.portSetupWrite p off v
  | 0x054 => if bitsOf v 13 0 < 64 ∨ 9216 < bitsOf v 13 0 then (.badParam, d) else d.plainWrite (pgPort p) off v
  | 0x080 => d.pairWrite p v
  | 0x084 => if isMgmt p ∧ p % 2 = 1 then (.ok, d) else d.plainWrite (pgPort p) off v
  | 0x09C => d.portCntClear p v
  | _ => d.plainWrite (pgPort p) off v

/-- A word of the head entry of the stamp FIFO; a read of W3 removes it (R103). -/
def Dev.tsRead (d : Dev) (p k : Nat) : Nat × Dev :=
  let x := d.port p
  match x.ts with
  | [] => (0, d)
  | e :: es =>
    match k with
    | 0 => (e.w0, d)
    | 1 => (e.stamp / 65536 % 2 ^ 32, d)
    | 2 => (e.stamp / 2 ^ 48 % 2 ^ 32, d)
    | _ => (e.stamp % 65536, (d.setPort p { x with ts := es }).wr PRT_TS_STAT_count es.length 0 p)

end Sys2Proof.Machine
end

