-- ==== Sys2Proof/Machine/Crypto.lean ====
section
/-! DEFINITION. The primitives of the standards the spec cites: AES (FIPS 197), GHASH (SP 800-38D), CMAC (SP 800-38B),
SHA-2 (FIPS 180-4), HMAC (FIPS 198-1), Keccak, SHA-3 and SHAKE (FIPS 202). Byte strings are lists of bytes. The
definitions are this model's own reading of those standards (PRESUMED, log entry 20). -/

namespace Sys2Proof.Machine

open Sys2Proof

def xorBytes (a b : List Byte) : List Byte := List.zipWith (· ^^^ ·) a b

/-! ### AES -/

/-- Multiplication by x in GF(2^8), polynomial 0x11B. -/
def xtime (a : Byte) : Byte := (a <<< 1) ^^^ (if a.getLsbD 7 then 0x1B#8 else 0)

def gmulGo (a b : Byte) : Nat → Byte
  | 0 => 0
  | n + 1 => (if b.getLsbD 0 then a else 0) ^^^ gmulGo (xtime a) (b >>> 1) n

/-- Multiplication in GF(2^8). -/
def gmul (a b : Byte) : Byte := gmulGo a b 8

/-- The inverse in GF(2^8), 0 for 0: the 254th power. -/
def ginv (a : Byte) : Byte :=
  let a2 := gmul a a
  let a4 := gmul a2 a2
  let a8 := gmul a4 a4
  let a16 := gmul a8 a8
  let a32 := gmul a16 a16
  let a64 := gmul a32 a32
  let a128 := gmul a64 a64
  gmul a2 (gmul a4 (gmul a8 (gmul a16 (gmul a32 (gmul a64 a128)))))

/-- SubBytes on one byte, and its inverse. -/
def sbox (a : Byte) : Byte :=
  let b := ginv a
  b ^^^ b.rotateLeft 1 ^^^ b.rotateLeft 2 ^^^ b.rotateLeft 3 ^^^ b.rotateLeft 4 ^^^ 0x63#8
def sboxInv (s : Byte) : Byte := ginv (s.rotateLeft 1 ^^^ s.rotateLeft 3 ^^^ s.rotateLeft 6 ^^^ 0x05#8)

def byteAt (l : List Byte) (i : Nat) : Byte := l.getD i 0

/-- ShiftRows and its inverse on the 16 bytes in column order. -/
def shiftRows (s : List Byte) : List Byte := (List.range 16).map (fun i => byteAt s ((i + 4 * (i % 4)) % 16))
def shiftRowsInv (s : List Byte) : List Byte := (List.range 16).map (fun i => byteAt s ((i + 16 - 4 * (i % 4)) % 16))

/-- MixColumns with first row (a, b, c, d). -/
def mixWith (a b c d : Byte) (s : List Byte) : List Byte :=
  (List.range 16).map (fun i =>
    let k := 4 * (i / 4)
    let at_ (j : Nat) := byteAt s (k + (i + j) % 4)
    gmul a (at_ 0) ^^^ gmul b (at_ 1) ^^^ gmul c (at_ 2) ^^^ gmul d (at_ 3))

def mixColumns (s : List Byte) : List Byte := mixWith 2 3 1 1 s
def mixColumnsInv (s : List Byte) : List Byte := mixWith 14 11 13 9 s

/-- The powers of x used as round constants. -/
def rcon : Nat → Byte
  | 0 => 1
  | n + 1 => xtime (rcon n)

/-- One word of the key schedule from the words before it, newest first. -/
def nextKeyWord (nk i : Nat) (ws : List (List Byte)) : List Byte :=
  let prev := ws.headD []
  let t := if i % nk = 0 then
      xorBytes ((prev.drop 1 ++ prev.take 1).map sbox) [rcon (i / nk - 1), 0, 0, 0]
    else if 6 < nk ∧ i % nk = 4 then prev.map sbox else prev
  xorBytes (ws.getD (nk - 1) []) t

/-- The round keys of a key of 16, 24 or 32 bytes, in order. -/
def roundKeys (key : List Byte) : List (List Byte) :=
  let nk := key.length / 4
  let start := ((List.range nk).map (fun i => slice key (4 * i) 4)).reverse
  let total := 4 * (nk + 7)
  let ws := ((List.range (total - nk)).foldl (fun ws j => nextKeyWord nk (nk + j) ws :: ws) start).reverse
  (List.range (nk + 7)).map (fun r => (slice4 ws r))
where
  slice4 (ws : List (List Byte)) (r : Nat) : List Byte := ((ws.drop (4 * r)).take 4).flatten

/-- AES encryption of one block under a key (FIPS 197). -/
def aesEnc (key block : List Byte) : List Byte :=
  match roundKeys key with
  | [] => block
  | k0 :: ks =>
    let last := ks.getLastD []
    let s := (ks.dropLast).foldl (fun s k => xorBytes (mixColumns (shiftRows (s.map sbox))) k) (xorBytes block k0)
    xorBytes (shiftRows (s.map sbox)) last

/-- AES decryption of one block. -/
def aesDec (key block : List Byte) : List Byte :=
  match (roundKeys key).reverse with
  | [] => block
  | k0 :: ks =>
    let last := ks.getLastD []
    let s := (ks.dropLast).foldl (fun s k => mixColumnsInv (xorBytes ((shiftRowsInv s).map sboxInv) k)) (xorBytes block k0)
    xorBytes ((shiftRowsInv s).map sboxInv) last

def zeros (n : Nat) : List Byte := List.replicate n 0

/-- `l` in pieces of `n` bytes, the last one short. -/
def chunks (n : Nat) (l : List Byte) : List (List Byte) :=
  if n = 0 then [l] else (List.range (ceilDiv l.length n)).map (fun i => slice l (i * n) n)

/-! ### GHASH and GCM pieces (SP 800-38D) -/

/-- One step of the multiplication in GF(2^128). -/
def gfStep (acc : BitVec 128 × BitVec 128) (bit : Bool) : BitVec 128 × BitVec 128 :=
  (if bit then acc.1 ^^^ acc.2 else acc.1,
   (acc.2 >>> 1) ^^^ (if acc.2.getLsbD 0 then 0xE1000000000000000000000000000000#128 else 0))

def gfMul (x y : BitVec 128) : BitVec 128 :=
  ((List.range 128).foldl (fun acc i => gfStep acc (x.getLsbD (127 - i))) (0, y)).1

def toB128 (l : List Byte) : BitVec 128 := BitVec.ofNat 128 (beValue (padTo 16 l))

/-- GHASH continued from `y` over zero-padded 16-byte blocks. -/
def ghashOver (h y : BitVec 128) (data : List Byte) : BitVec 128 :=
  (chunks 16 data).foldl (fun y b => gfMul (y ^^^ toB128 b) h) y

/-- A counter block whose last `n` bytes, big-endian, are advanced by `k`. -/
def ctrAdd (n : Nat) (block : List Byte) (k : Nat) : List Byte :=
  block.take (16 - n) ++ beBytes ((beValue (block.drop (16 - n)) + k) % 2 ^ (8 * n)) n

/-- The keystream of counter mode over `len` bytes from a counter block, the last `n` bytes counting. -/
def ctrStream (key block : List Byte) (n len : Nat) : List Byte :=
  ((List.range (ceilDiv len 16)).map (fun i => aesEnc key (ctrAdd n block i))).flatten.take len

/-- The GCM tag over ciphertext `c` and additional data `a` under a 96-bit IV. -/
def gcmTag (key iv a c : List Byte) : List Byte :=
  let h := toB128 (aesEnc key (zeros 16))
  let y := ghashOver h (ghashOver h 0 a) c
  let y := gfMul (y ^^^ toB128 (beBytes (8 * a.length) 8 ++ beBytes (8 * c.length) 8)) h
  xorBytes (beBytes y.toNat 16) (aesEnc key (padTo 12 iv ++ [0, 0, 0, 1]))

/-- GMAC: the GCM tag of an empty plaintext. -/
def gmac (key iv a : List Byte) : List Byte := gcmTag key iv a []

/-! ### CMAC (SP 800-38B) -/

/-- Doubling in GF(2^128) of CMAC. -/
def cmacDbl (b : List Byte) : List Byte :=
  let n := beValue b * 2
  let n := if 2 ^ 128 ≤ n then (n - 2 ^ 128) ^^^ 0x87 else n
  beBytes n 16

/-- CMAC continued from chaining value `c` over the last part of a message. -/
def cmacFinish (key c msg : List Byte) : List Byte :=
  let k1 := cmacDbl (aesEnc key (zeros 16))
  let full := (msg.length - 1) / 16 * 16
  let c := (chunks 16 (msg.take full)).foldl (fun c b => aesEnc key (xorBytes c b)) c
  let rest := msg.drop full
  if rest.length = 16 then aesEnc key (xorBytes c (xorBytes rest k1))
  else aesEnc key (xorBytes c (xorBytes (padTo 16 (rest ++ [0x80])) (cmacDbl k1)))

def cmac (key msg : List Byte) : List Byte := cmacFinish key (zeros 16) msg

/-! ### SHA-2 -/

/-- The largest r with r^k ≤ n, searched bit by bit from bit `b`. -/
def rootGo (k n : Nat) : Nat → Nat → Nat
  | 0, r => r
  | b + 1, r => let t := r + 2 ^ b; rootGo k n b (if t ^ k ≤ n then t else r)

/-- The fractional bits of the k-th root of p, `w` of them. -/
def rootFrac (k p w : Nat) : Nat := rootGo k (p * 2 ^ (k * w)) (w + 6) 0 % 2 ^ w

/-- The first 80 primes. -/
def primes80 : List Nat := (List.range 410).filter (fun n => 2 ≤ n && (List.range 21).all (fun d => d < 2 || n ≤ d || n % d != 0))

/-- The round constants: the fractional bits of the cube roots of the first primes. -/
def shaK (w rounds : Nat) : List Nat := (primes80.take rounds).map (fun p => rootFrac 3 p w)

/-- The sizes and rotation amounts of a SHA-2 function. -/
structure ShaPar where
  w : Nat
  rounds : Nat
  s0 : Nat × Nat × Nat
  s1 : Nat × Nat × Nat
  e0 : Nat × Nat × Nat
  e1 : Nat × Nat × Nat
  iv : List Nat
  out : Nat

def par256 : ShaPar :=
  { w := 32, rounds := 64, s0 := (7, 18, 3), s1 := (17, 19, 10), e0 := (2, 13, 22), e1 := (6, 11, 25),
    iv := (primes80.take 8).map (fun p => rootFrac 2 p 32), out := 32 }
def par384 : ShaPar :=
  { w := 64, rounds := 80, s0 := (1, 8, 7), s1 := (19, 61, 6), e0 := (28, 34, 39), e1 := (14, 18, 41),
    iv := ((primes80.drop 8).take 8).map (fun p => rootFrac 2 p 64), out := 48 }
def par512 : ShaPar := { par384 with iv := (primes80.take 8).map (fun p => rootFrac 2 p 64), out := 64 }

def rotr (w x n : Nat) : Nat := (x >>> n) ||| (x <<< (w - n)) % 2 ^ w

def sig3 (w x : Nat) (t : Nat × Nat × Nat) (shift : Bool) : Nat :=
  (rotr w x t.1 ^^^ rotr w x t.2.1) ^^^ (if shift then x >>> t.2.2 else rotr w x t.2.2)

/-- One message schedule word, from the words before it, newest first. -/
def shaNext (p : ShaPar) (ws : List Nat) : Nat :=
  (sig3 p.w (ws.getD 1 0) p.s1 true + ws.getD 6 0 + sig3 p.w (ws.getD 14 0) p.s0 true + ws.getD 15 0) % 2 ^ p.w

/-- One round on the eight working variables. -/
def shaRound (p : ShaPar) (v : List Nat) (k w : Nat) : List Nat :=
  match v with
  | [a, b, c, d, e, f, g, h] =>
    let ch := (e &&& f) ^^^ ((2 ^ p.w - 1 - e) &&& g)
    let maj := (a &&& b) ^^^ (a &&& c) ^^^ (b &&& c)
    let t1 := h + sig3 p.w e p.e1 false + ch + k + w
    let t2 := sig3 p.w a p.e0 false + maj
    [(t1 + t2) % 2 ^ p.w, a, b, c, (d + t1) % 2 ^ p.w, e, f, g]
  | v => v

/-- The compression of one block. -/
def shaBlock (p : ShaPar) (ks h : List Nat) (block : List Byte) : List Nat :=
  let w0 := (chunks (p.w / 8) block).map beValue
  let ws := ((List.range (p.rounds - 16)).foldl (fun ws _ => shaNext p ws :: ws) w0.reverse).reverse
  let v := (List.zip ks ws).foldl (fun v kw => shaRound p v kw.1 kw.2) h
  List.zipWith (fun a b => (a + b) % 2 ^ p.w) h v

/-- The padding of a message of `len` bytes. -/
def shaPad (p : ShaPar) (len : Nat) : List Byte :=
  let blk := 2 * p.w
  let lf := p.w / 4
  [0x80] ++ zeros ((2 * blk - 1 - lf - len % blk) % blk) ++ beBytes (8 * len) lf

/-- The blocks of a byte string run through the compression. -/
def shaOver (p : ShaPar) (h : List Nat) (data : List Byte) : List Nat :=
  let ks := shaK p.w p.rounds
  (chunks (2 * p.w) data).foldl (fun h b => shaBlock p ks h b) h

def shaOut (p : ShaPar) (h : List Nat) : List Byte := ((h.map (fun x => beBytes x (p.w / 8))).flatten).take p.out

/-- The digest of a byte string. -/
def sha2 (p : ShaPar) (m : List Byte) : List Byte := shaOut p (shaOver p p.iv (m ++ shaPad p m.length))

def sha256 (m : List Byte) : List Byte := sha2 par256 m
def sha384 (m : List Byte) : List Byte := sha2 par384 m

/-- HMAC-SHA256. -/
def hmac256 (key m : List Byte) : List Byte :=
  let k := padTo 64 (if 64 < key.length then sha256 key else key)
  sha256 (k.map (· ^^^ 0x5C) ++ sha256 (k.map (· ^^^ 0x36) ++ m))

/-! ### Keccak -/

abbrev Lane := BitVec 64

def laneAt (s : List Lane) (x y : Nat) : Lane := s.getD (x % 5 + 5 * (y % 5)) 0

def onLanes (f : Nat → Nat → Lane) : List Lane := (List.range 25).map (fun i => f (i % 5) (i / 5))

def kTheta (s : List Lane) : List Lane :=
  let c := (List.range 5).map (fun x => laneAt s x 0 ^^^ laneAt s x 1 ^^^ laneAt s x 2 ^^^ laneAt s x 3 ^^^ laneAt s x 4)
  onLanes (fun x y => laneAt s x y ^^^ c.getD ((x + 4) % 5) 0 ^^^ (c.getD ((x + 1) % 5) 0).rotateLeft 1)

/-- The rotation amounts: (t + 1)(t + 2)/2 along the walk (x, y) ↦ (y, 2x + 3y). -/
def rhoTable : List (Nat × Nat) :=
  ((List.range 24).foldl (fun (acc : (Nat × Nat) × List (Nat × Nat)) t =>
    let (x, y) := acc.1
    ((y, (2 * x + 3 * y) % 5), (x + 5 * y, (t + 1) * (t + 2) / 2 % 64) :: acc.2)) ((1, 0), [(0, 0)])).2

def rhoOf (x y : Nat) : Nat := ((rhoTable.find? (fun e => e.1 == x + 5 * y)).map (·.2)).getD 0

def kRhoPi (s : List Lane) : List Lane :=
  onLanes (fun x y => let x' := (x + 3 * y) % 5; (laneAt s x' x).rotateLeft (rhoOf x' x))

def kChi (s : List Lane) : List Lane := onLanes (fun x y => laneAt s x y ^^^ (~~~ laneAt s (x + 1) y &&& laneAt s (x + 2) y))

/-- The round-constant LFSR, x^8 + x^6 + x^5 + x^4 + 1. -/
def rcStep (r : Nat) : Nat := let r' := r * 2; if r' % 512 / 256 = 1 then (r' ^^^ 0x171) % 256 else r' % 256

def rcBits : Nat → Nat → List Bool
  | 0, _ => []
  | n + 1, r => (r % 2 == 1) :: rcBits n (rcStep r)

/-- The constant of round `ir`. -/
def kRC (ir : Nat) : Lane :=
  let bits := rcBits 168 1
  (List.range 7).foldl (fun v j => if bits.getD (7 * ir + j) false then v ||| (1#64 <<< (2 ^ j - 1)) else v) 0

/-- Keccak-f[1600]. -/
def keccakF (s : List Lane) : List Lane :=
  (List.range 24).foldl (fun s ir =>
    match kChi (kRhoPi (kTheta s)) with
    | [] => []
    | l :: ls => (l ^^^ kRC ir) :: ls) s

def keccak0 : List Lane := List.replicate 25 0

/-- Absorbs one block of `rate` bytes. -/
def absorb (rate : Nat) (s : List Lane) (block : List Byte) : List Lane :=
  let ls := (chunks 8 (padTo rate block)).map (fun b => BitVec.ofNat 64 (leValue b))
  keccakF (List.zipWith (· ^^^ ·) s (ls ++ List.replicate (25 - ls.length) 0))

def laneBytes (s : List Lane) : List Byte := (s.map (fun l => leBytes l.toNat 8)).flatten

/-- The padding of a message of `len` bytes with domain bits `dom`. -/
def keccakPad (rate dom len : Nat) : List Byte :=
  let n := rate - len % rate
  if n = 1 then [BitVec.ofNat 8 (dom + 0x80)] else BitVec.ofNat 8 dom :: zeros (n - 2) ++ [0x80]

/-- The state after the blocks of a byte string. -/
def absorbAll (rate : Nat) (s : List Lane) (data : List Byte) : List Lane := (chunks rate data).foldl (absorb rate) s

/-- `n` output bytes from a state that has absorbed everything. -/
def squeeze (rate : Nat) (s : List Lane) (n : Nat) : List Byte :=
  let r := (List.range (ceilDiv n rate)).foldl (fun (acc : List Lane × List (List Byte)) _ =>
    (keccakF acc.1, (laneBytes acc.1).take rate :: acc.2)) (s, [])
  (r.2.reverse.flatten).take n

/-- A sponge over a byte string. -/
def sponge (rate dom : Nat) (m : List Byte) (n : Nat) : List Byte :=
  squeeze rate (absorbAll rate keccak0 (m ++ keccakPad rate dom m.length)) n

def shake256 (m : List Byte) (n : Nat) : List Byte := sponge 136 0x1F m n
def sha3_256 (m : List Byte) : List Byte := sponge 136 0x06 m 32

end Sys2Proof.Machine
end

