-- ==== Sys2Proof/Machine/Flash.lean ====
section
/-! DEFINITION. The embedded flash and its controller FLC (R385 to R407). -/

namespace Sys2Proof.Machine

open Sys2Proof


def Dev.bank (d : Dev) (b : Nat) : Bank := d.flc.banks.get b {}

/-- A bank changes; FLC_STAT and FLC_BANK_STATb follow (R407). -/
def Dev.setBank (d : Dev) (b : Nat) (x : Bank) : Dev :=
  let d := { d with flc := { d.flc with banks := d.flc.banks.set b x {} } }
  let erasing := match x.erase with
    | some e => !e.suspended
    | none => false
  let susp := match x.erase with
    | some e => e.suspended
    | none => false
  let busy := x.prog.isSome || erasing
  let op := if x.prog.isSome then 1 else if erasing then 2 else 0
  let d := d.wr FLC_STAT_busy (setBits (d.rd FLC_STAT_busy) b b (b2n busy))
  let d := d.wr FLC_STAT_suspended (setBits (d.rd FLC_STAT_suspended) b b (b2n susp))
  let d := ((d.wr FLC_BANK_STATb_busy (b2n busy) b).wr FLC_BANK_STATb_suspended (b2n susp) b).wr FLC_BANK_STATb_op op b
  match x.erase with
  | some e => (d.wr FLC_BANK_STATb_owner e.owner b).wr FLC_BANK_STATb_block e.block b
  | none => (d.wr FLC_BANK_STATb_owner 0xFF b).wr FLC_BANK_STATb_block 0 b

/-- The bank, block and line of a flash offset (R385). -/
def flBank (o : Nat) : Nat := o / 2 ^ 23 % 4
def flBlock (o : Nat) : Nat := o / 2 ^ 15 % 1024
def flLine (o : Nat) : Nat := o / 32 % 2 ^ 20

/-- Block `b` is indeterminate (R401). -/
def Dev.indet (d : Dev) (b : Nat) : Bool := (d.rd FLC_INDETk_bits (b / 32)).testBit (b % 32)

def Dev.setIndet (d : Dev) (b : Nat) (v : Bool) : Dev :=
  if d.indet b = v then d
  else
    let d := d.wr FLC_INDETk_bits (setBits (d.rd FLC_INDETk_bits (b / 32)) (b % 32) (b % 32) (b2n v)) (b / 32)
    d.wr FLC_STAT_indet (if v then d.rd FLC_STAT_indet + 1 else d.rd FLC_STAT_indet - 1)

def Dev.eraseCount (d : Dev) (b : Nat) : Nat := d.flc.erases.get b 0
def Dev.eraseFlag (d : Dev) (b : Nat) : Bool := d.flc.flags.contains b
def Dev.setEraseFlag (d : Dev) (b : Nat) (v : Bool) : Dev :=
  let l := d.flc.flags.filter (· != b)
  { d with flc := { d.flc with flags := if v then b :: l else l } }

/-- Blocks 1,022 and 1,023 hold the tamper log (R390). -/
def tamperBlock (b : Nat) : Bool := decide (1022 ≤ b)

/-! ### Regions (R389, R390) -/

/-- The region whose attributes a block takes: the lowest enabled one that holds it. -/
def Dev.flRegion (d : Dev) (b : Nat) : Option Nat :=
  (List.range 16).find? (fun k => d.flag FLC_REGk_en k && decide (d.rd FLC_REGk_first k ≤ b) && decide (b ≤ d.rd FLC_REGk_last k))

/-- World `w` (1 P, 2 S) is among the worlds an attribute opens to (0 Refuge only, 1 P, 2 S, 3 both). -/
def opensTo (attr w : Nat) : Bool := w != 0 && decide (w ≤ 2) && (attr == w || attr == 3)

/-- The world a requester acts in at FLC: an engine its own, HST and DBG, where they act as supervisor of the page's owning world
(R285), that world. -/
def Dev.flWorld (d : Dev) (r : Req) : Nat :=
  match r with
  | .eng e => d.engWorld e.val
  | .hst => if d.ownerSuper .hst pgFLC then d.pageWorld pgFLC else 0
  | .dbg => if d.ownerSuper .dbg pgFLC then d.pageWorld pgFLC else 0
  | _ => 0

/-- The requester may read block `b`, at either level. -/
def Dev.flMayRead (d : Dev) (r : Req) (b : Nat) : Bool :=
  r == .refuge || match d.flRegion b with
    | some k => opensTo (d.rd FLC_REGk_rd k) (d.flWorld r)
    | none => false

/-- The region of block `b` lets the requester program and erase. -/
def Dev.flRegionWrite (d : Dev) (r : Req) (b : Nat) : Bool :=
  r == .refuge || match d.flRegion b with
    | some k => opensTo (d.rd FLC_REGk_wr k) (d.flWorld r) && (match r with | .eng e => d.engSuper e.val | _ => true)
    | none => false

/-- The requester may program block `b`: those of the tamper log the Refuge alone (R390). -/
def Dev.flMayWrite (d : Dev) (r : Req) (b : Nat) : Bool := d.flRegionWrite r b && (r == .refuge || !tamperBlock b)

/-- Block `b` lies in a system region. -/
def Dev.flSystem (d : Dev) (b : Nat) : Bool :=
  match d.flRegion b with
  | some k => d.flag FLC_REGk_sys k
  | none => false

/-! ### Reads (R387, R388, R397, R401) -/

/-- What the state of its bank answers to a read of a block. -/
def Dev.flReadState (d : Dev) (b : Nat) : Status :=
  match (d.bank (b / 256)).erase with
  | some e => if !e.suspended then .notReady else if e.block = b then .eraseSuspended else .ok
  | none => .ok

/-- The answer to a read of flash offset `o`, but for its ECC. -/
def Dev.flReadStatus (d : Dev) (r : Req) (o : Nat) : Status :=
  let b := flBlock o
  pickStatus [if d.flag FLC_STAT_scan_done then .ok else .notReady, if d.flMayRead r b then .ok else .denied,
    if d.indet b then .indeterminate else .ok, d.flReadState b]

/-- The 32 bytes of a line. -/
def Dev.flLineData (d : Dev) (line : Nat) : List Byte := d.load (flashBase + 32 * line) 32

/-- The ECC outcome a line gives at normal margin: 0 clean, 1 corrected, 2 uncorrectable. -/
def Dev.flEcc (d : Dev) (line : Nat) : Nat :=
  match d.bad.get (flashBase + 32 * line) 0 with
  | 0 => 0
  | 3 => 1
  | _ => 2

/-- The counts and reports of an ECC outcome (R388). -/
def Dev.flEccNote (d : Dev) (line ecc requester margin : Nat) : Dev :=
  match ecc with
  | 0 => d
  | 1 => d.bump FLC_ECC_corrected
  | _ => ((d.bump FLC_ECC_uncorrectable).faultInfo pgFLC 5 (line / 2 ^ 18) .faultDetected requester).raise 71 pgFLC (32 * line)
      (requester + margin * 256)

/-! ### Commands (R391 to R396) -/

/-- A pulse source of FLC with its record (R406). -/
def Dev.flEvent (d : Dev) (src code sev block p2 : Nat) : Dev := (d.raise src block 1 p2).rated pgFLC code block sev block p2

/-- The flash offset in a requester's FLC_ADDR. -/
def Dev.flAddr (d : Dev) (q : Nat) : Nat := d.rdOwn q FLC_ADDR_line * 32

/-- A requester's command ends, carried out or refused: FLC_RES and the bank's interrupt (R391, R407). -/
def Dev.flDone (d : Dev) (q bank : Nat) (st : Status) : Dev :=
  ((d.wrOwn q FLC_RES_done 1).wrOwn q FLC_RES_status st.code).irq pgFLC bank

/-- A command of the requester still runs: it programs, erases without suspend, or waits for a suspend or resume. -/
def Dev.flRunning (d : Dev) (q : Nat) : Bool :=
  (List.range 4).any (fun b =>
    let x := d.bank b
    (match x.prog with | some p => p.owner == q | none => false) ||
      (match x.erase with
       | some e => (e.owner == q && !e.suspended) || e.hold.contains q || e.resume.contains q
       | none => false))

/-- The states of a bank that refuse a program of block `b` (R397). -/
def Dev.flProgState (d : Dev) (b : Nat) : Status :=
  let x := d.bank (b / 256)
  if x.prog.isSome then .busy
  else match x.erase with
    | some e => if !e.suspended then .busy else if e.block = b then .eraseSuspended else .ok
    | none => .ok

/-- The states of a bank that refuse an erase (R397). -/
def Dev.flEraseState (d : Dev) (b : Nat) : Status :=
  let x := d.bank (b / 256)
  if x.prog.isSome || x.erase.isSome then .busy else .ok

/-- What every command meets before its own checks: the requester's previous command, the scan (R391, R400). -/
def Dev.flCommon (d : Dev) (q : Nat) : Status :=
  pickStatus [if d.flRunning q then .busy else .ok, if d.flag FLC_STAT_scan_done then .ok else .notReady]

/-- A refused command: its status in FLC_RES, unless the requester's previous command still runs; a refusal by region
attributes raises EV1004 (R389, R391, R406). -/
def Dev.flRefuse (d : Dev) (r : Req) (op block : Nat) (may : Bool) (st : Status) : Status × Dev :=
  let q := reqId r
  let d := if may then d else d.flEvent 1004 0xE005 4 block (q + op * 256)
  (st, if d.flRunning q then d else d.flDone q (block / 256) st)

/-- Program (R394). -/
def Dev.flProgram (d : Dev) (r : Req) : Status × Dev :=
  let q := reqId r
  let o := d.flAddr q
  let b := flBlock o
  let may := d.flMayWrite r b
  let st := pickStatus [d.flCommon q, if may then .ok else .denied,
    if d.flc.programmed.any (fun e => e.1 == flLine o) then .badParam else .ok, if d.indet b then .indeterminate else .ok,
    d.flProgState b]
  if st ≠ .ok then d.flRefuse r 1 b (d.flRegionWrite r b) st
  else
    let data := ((List.range 8).map (fun k => leBytes (d.rdOwn q FLC_WDATAk_bytes k) 4)).flatten
    let x := d.bank (b / 256)
    (.ok, (d.wrOwn q FLC_RES_done 0).setBank (b / 256) { x with prog := some { line := flLine o, data := data, owner := q } })

/-- The rated endurance of a block (R405). -/
def flRating (b : Nat) : Nat := if b < 512 then 10000 else 100000

/-- The steps 1 and 2 of an erase (R395). -/
def Dev.flEraseStart (d : Dev) (b owner : Nat) : Dev :=
  let n := satAdd 0xFFFFFF (d.eraseCount b) 1
  let d := d.setEraseFlag b true
  let d := { d with flc := { d.flc with erases := d.flc.erases.set b n 0 } }
  let d := if flRating b ≤ n then d.flEvent 1003 0xE004 3 b n else d
  let x := d.bank (b / 256)
  d.setBank (b / 256) { x with erase := some { block := b, owner := owner, since := d.cclk } }

/-- Erase (R395, R390). -/
def Dev.flErase (d : Dev) (r : Req) : Status × Dev :=
  let q := reqId r
  let b := flBlock (d.flAddr q)
  let may := d.flMayWrite r b && !tamperBlock b
  let st := pickStatus [d.flCommon q, if may then .ok else .denied, d.flEraseState b]
  if st ≠ .ok then d.flRefuse r 2 b (d.flRegionWrite r b) st else (.ok, (d.wrOwn q FLC_RES_done 0).flEraseStart b q)

/-- The requester may suspend or resume the bank's erase (R392). -/
def Dev.flOwnsErase (d : Dev) (r : Req) (b : Nat) : Bool :=
  d.flMayWrite r b && match (d.bank (b / 256)).erase with
    | some e => r == .refuge || e.owner == reqId r
    | none => true

/-- What a suspend or resume meets before its own checks. A requester may suspend its own running erase. -/
def Dev.flSuspCommon (d : Dev) (q bank : Nat) : Status :=
  let own := (List.range 4).any (fun b => match (d.bank b).erase with
    | some e => e.hold.contains q || e.resume.contains q
    | none => false)
  let other := (List.range 4).any (fun b => b != bank && (match (d.bank b).erase with
    | some e => e.owner == q && !e.suspended
    | none => false)) || (List.range 4).any (fun b => match (d.bank b).prog with
    | some p => p.owner == q
    | none => false)
  pickStatus [if own || other then .busy else .ok, if d.flag FLC_STAT_scan_done then .ok else .notReady]

/-- Suspend (R396): held until 500 µs have passed. -/
def Dev.flSuspend (d : Dev) (r : Req) : Status × Dev :=
  let q := reqId r
  let b := flBlock (d.flAddr q)
  let x := d.bank (b / 256)
  let may := d.flOwnsErase r b
  let running := match x.erase with
    | some e => !e.suspended
    | none => false
  let st := pickStatus [d.flSuspCommon q (b / 256), if may then .ok else .denied, if running then .ok else .badParam]
  if st ≠ .ok then d.flRefuse r 3 b (d.flRegionWrite r b) st
  else match x.erase with
    | some e => (.ok, (d.wrOwn q FLC_RES_done 0).setBank (b / 256) { x with erase := some { e with hold := e.hold ++ [q] } })
    | none => (.ok, d)

/-- The erase of a bank runs again; the resumes `qs` end. -/
def Dev.flResumeNow (d : Dev) (bank : Nat) (qs : List Nat) : Dev :=
  let x := d.bank bank
  match x.erase with
  | some e =>
    qs.foldl (fun d q => d.flDone q bank .ok)
      (d.setBank bank { x with erase := some { e with suspended := false, since := d.cclk, resume := [], long := false } })
  | none => d

/-- Resume (R396): waits for a program in the bank. -/
def Dev.flResume (d : Dev) (r : Req) : Status × Dev :=
  let q := reqId r
  let b := flBlock (d.flAddr q)
  let x := d.bank (b / 256)
  let may := d.flOwnsErase r b
  let suspended := match x.erase with
    | some e => e.suspended
    | none => false
  let st := pickStatus [d.flSuspCommon q (b / 256), if may then .ok else .denied, if suspended then .ok else .badParam]
  if st ≠ .ok then d.flRefuse r 4 b (d.flRegionWrite r b) st
  else
    let d := d.wrOwn q FLC_RES_done 0
    match x.erase with
    | some e =>
      (.ok, if x.prog.isSome then d.setBank (b / 256) { x with erase := some { e with resume := e.resume ++ [q] } } else d.flResumeNow (b / 256) [q])
    | none => (.ok, d)

/-! ### Completions -/

/-- Writes a line and its programmed flag. -/
def Dev.flPut (d : Dev) (line : Nat) (data : List Byte) : Dev :=
  let d := d.store (flashBase + 32 * line) data
  { d with bad := d.bad.set (flashBase + 32 * line) 0 0, flc := { d.flc with programmed := Tbl.put d.flc.programmed line () } }

/-- A program ends: verified, or failed after 8 rounds with an undefined line (R394). -/
def Dev.flProgramDone (d : Dev) (bank : Nat) (ok : Bool) : Dev :=
  let x := d.bank bank
  match x.prog with
  | none => d
  | some p =>
    let d := d.setBank bank { x with prog := none }
    let d := if ok then (d.flPut p.line p.data).flDone p.owner bank .ok
      else
        let (v, d) := d.draw .flashLine
        ((d.flPut p.line (leBytes v 32)).flDone p.owner bank .faultDetected).flEvent 1000 0xE001 4 (p.line / 1024) (p.line * 32)
    match x.erase with
    | some e => if e.resume.isEmpty then d else d.flResumeNow bank e.resume
    | none => d

/-- Block `b` is blank. -/
def Dev.flWipe (d : Dev) (b : Nat) : Dev :=
  let lo := flashBase + 0x8000 * b
  let d := { d with mem := memForget d.mem lo (lo + 0x8000), bad := d.bad.drop (fun a => decide (lo ≤ a) && decide (a < lo + 0x8000)) }
  { d with flc := { d.flc with programmed := d.flc.programmed.drop (fun l => l / 1024 == b) } }

/-- An erase ends (R395). A suspend that was held finds no running erase (R396). -/
def Dev.flEraseDone (d : Dev) (bank : Nat) (ok : Bool) : Dev :=
  let x := d.bank bank
  match x.erase with
  | none => d
  | some e =>
    if e.suspended then d
    else
      let d := d.setBank bank { x with erase := none }
      let d := if ok then ((((d.flWipe e.block).setEraseFlag e.block false).setIndet e.block false).flDone e.owner bank .ok)
        else ((d.setIndet e.block true).flDone e.owner bank .faultDetected).flEvent 1001 0xE002 4 e.block (d.eraseCount e.block)
      e.hold.foldl (fun d q => d.flDone q bank .badParam) d

/-- The pulses of a suspended erase stop (R396): not before 500 µs of erasing. -/
def Dev.flSuspendDone (d : Dev) (bank : Nat) : Dev :=
  let x := d.bank bank
  match x.erase with
  | some e =>
    if !e.hold.isEmpty ∧ e.since + 500 * cclkPerUs ≤ d.cclk then
      e.hold.foldl (fun d q => d.flDone q bank .ok)
        (d.setBank bank { x with erase := some { e with suspended := true, suspAt := d.cclk, hold := [] } })
    else d
  | none => d

/-- An erase has been suspended for more than 1 s (R396). -/
def Dev.flSuspendLong (d : Dev) (bank : Nat) : Dev :=
  let x := d.bank bank
  match x.erase with
  | some e =>
    if e.suspended ∧ !e.long ∧ e.suspAt + cclkPerS < d.cclk then
      (d.setBank bank { x with erase := some { e with long := true } }).flEvent 1006 0xE007 3 e.block e.owner
    else d
  | none => d

/-! ### Reads that wait, and the commands answered as reads (R397) -/

/-- A read of a bank that programs waits for the program to end (R397): it fails where the line is known to be uncorrectable (log
entry 488). -/
def Dev.flWait (d : Dev) (bank : Nat) : Dev :=
  match (d.bank bank).prog with
  | some p => d.flProgramDone bank (d.flEcc p.line != 2)
  | none => d

/-- A load through the read window: status and data (R387, R388). -/
def Dev.flLoad (d : Dev) (r : Req) (o n : Nat) : Status × Nat × Dev :=
  let st := d.flReadStatus r o
  if st ≠ .ok then (st, 2 ^ (8 * n) - 1, d)
  else
    let d := d.flWait (flBank o)
    let line := flLine o
    let ecc := d.flEcc line
    let d := d.flEccNote line ecc (reqId r) 0
    if ecc = 2 then (.faultDetected, 2 ^ (8 * n) - 1, d)
    else (.ok, leValue (slice (d.flLineData line) (o % 32) n), d)

/-- The refusals of a command that is answered as a read (R397). -/
def Dev.flReadCmdStatus (d : Dev) (r : Req) (bad : Bool) : Status :=
  let q := reqId r
  pickStatus [d.flCommon q, d.flReadStatus r (d.flAddr q), if bad then .badParam else .ok]

/-- What a margin read finds: the ECC outcome, and the bits of the line that stand at the threshold (R398). -/
def marginData (margin : Nat) (mask data : List Byte) : List Byte :=
  let m := padTo 32 mask
  match margin with
  | 1 => List.zipWith (· ||| ·) data m
  | 2 => List.zipWith (fun a b => a &&& ~~~b) data m
  | _ => data

/-- Margin read (R392, R398): `ecc` and `mask` are what the array gives at that threshold, on top of what the line gives at any. -/
def Dev.flMargin (d : Dev) (r : Req) (margin ecc : Nat) (mask : List Byte) : Status × Dev :=
  let q := reqId r
  let o := d.flAddr q
  let may := d.flMayRead r (flBlock o)
  let st := d.flReadCmdStatus r (margin == 3)
  if st ≠ .ok then d.flRefuse r 5 (flBlock o) may st
  else
    let d := d.flWait (flBank o)
    let ecc := max ecc (d.flEcc (flLine o))
    let data := marginData margin mask (d.flLineData (flLine o))
    let data := if ecc = 2 then List.replicate 32 0xFF else data
    let d := d.flEccNote (flLine o) ecc q margin
    let d := if margin = 1 ∧ ecc ≠ 0 then d.flEvent 1005 0xE006 3 (flBlock o) (flLine o * 32) else d
    let d := (List.range 8).foldl (fun d k => d.wrOwn q FLC_RDATAk_bytes (leAt data (4 * k) 4) k) d
    let res := if ecc = 2 then Status.faultDetected else .ok
    (res, (d.wrOwn q FLC_RES_ecc ecc).flDone q (flBank o) res)

/-- Blank check (R392): `weak` is the first line of the block that reads not blank at erase-verify margin although its
stored content is blank. -/
def Dev.flBlank (d : Dev) (r : Req) (weak : Option Nat) : Status × Dev :=
  let q := reqId r
  let b := flBlock (d.flAddr q)
  let may := d.flMayRead r b
  let st := d.flReadCmdStatus r false
  if st ≠ .ok then d.flRefuse r 6 b may st
  else
    let d := d.flWait (b / 256)
    let dirty (i : Nat) : Bool := weak == some i || d.flEcc (1024 * b + i) == 2 || (d.flLineData (1024 * b + i)).any (· != 0xFF)
    match (List.range 1024).find? dirty with
    | some i => (.faultDetected, (d.wrOwn q FLC_RES_line i).flDone q (b / 256) .faultDetected)
    | none => (.ok, (d.wrOwn q FLC_RES_line 0).flDone q (b / 256) .ok)

/-- Block info (R392): the bank states answer it as a read (R397); it reports an indeterminate block and is not refused
for it (R401 speaks of reads of the block's content). -/
def Dev.flInfo (d : Dev) (r : Req) : Status × Dev :=
  let q := reqId r
  let b := flBlock (d.flAddr q)
  let may := d.flMayRead r b
  let st := pickStatus [d.flCommon q, if may then .ok else .denied, d.flReadState b]
  if st ≠ .ok then d.flRefuse r 7 b may st
  else
    let susp := match (d.bank (b / 256)).erase with
      | some e => e.suspended && e.block == b
      | none => false
    let d := ((((d.wrOwn q FLC_INFO_in_progress (b2n (d.eraseFlag b))).wrOwn q FLC_INFO_indeterminate (b2n (d.indet b))).wrOwn q
      FLC_INFO_suspended (b2n susp)).wrOwn q FLC_INFO_no_erase (b2n (tamperBlock b))).wrOwn q FLC_INFO_erase_count (d.eraseCount b)
    (.ok, d.flDone q (b / 256) .ok)

/-- An op code that is no command (R392). -/
def Dev.flNoOp (d : Dev) (r : Req) : Status × Dev :=
  let q := reqId r
  let st := pickStatus [d.flCommon q, .badParam]
  d.flRefuse r 0 (flBlock (d.flAddr q)) true st

/-! ### Interruption and scan (R400, R403, R404) -/

/-- Ends an erase that a reset interrupts: the block's flag stays set. -/
def Dev.flAbandon (d : Dev) (bank : Nat) (mark : Bool) : Dev :=
  let x := d.bank bank
  match x.erase with
  | some e => let d := d.setBank bank { x with erase := none }
              if mark then d.setIndet e.block true else d
  | none => d

/-- A soft reset of FLC: a line being programmed finishes, erases are abandoned (R404). -/
def Dev.flSoftReset (d : Dev) : Dev :=
  (List.range 4).foldl (fun d b =>
    let d := match (d.bank b).prog with
      | some p => (d.setBank b { (d.bank b) with prog := none }).flPut p.line p.data
      | none => d
    d.flAbandon b true) d

/-- A device reset or power loss during flash operations (R403): the line being programmed reads as erased, as the new
content or as uncorrectable, its flag may be set. -/
def Dev.flInterrupt (d : Dev) : Dev :=
  (List.range 4).foldl (fun d b =>
    let d := match (d.bank b).prog with
      | some p =>
        let (v, d) := d.draw .flashTorn
        let d := d.setBank b { (d.bank b) with prog := none }
        let d := if v % 2 = 0 then d else { d with flc := { d.flc with programmed := Tbl.put d.flc.programmed p.line () } }
        match v / 2 % 3 with
        | 0 => d
        | 1 => d.store (flashBase + 32 * p.line) p.data
        | _ => { d with bad := d.bad.set (flashBase + 32 * p.line) 1 0 }
      | none => d
    d.flAbandon b false) d

/-- The start-up scan (R400): every flagged block becomes indeterminate, with EV1002 and its records. `sys` are the flagged blocks of
system regions as the region registers stood before the reset (log entry 489). -/
def Dev.flScan (d : Dev) (sys : List Nat) : Dev :=
  let l := (List.range 1024).filter d.eraseFlag
  let d := l.foldl (fun d b => d.setIndet b true) d
  let d := match l with
    | [] => d
    | b :: _ => d.raise 1002 b 1 (b2n (sys.contains b))
  let d := l.foldl (fun d b => d.direct pgFLC (d.mkRec 0xE003 4 1 0x7F ⟨b, 1, b2n (sys.contains b)⟩)) d
  d.wr FLC_STAT_scan_done 1

/-! ### Registers -/

/-- FLC_REGk (R389). -/
def Dev.flRegWrite (d : Dev) (off v : Nat) : Status × Dev :=
  if bitsOf v 9 0 < bitsOf v 19 10 then (.badParam, d) else d.plainWrite pgFLC off v

/-- FLC_CMD: the commands whose row a register write stands for, with a margin read as the cells give it. -/
def Dev.flCommand (d : Dev) (r : Req) (v : Nat) : Status × Dev :=
  match bitsOf v 3 0 with
  | 1 => d.flProgram r
  | 2 => d.flErase r
  | 3 => d.flSuspend r
  | 4 => d.flResume r
  | 5 => d.flMargin r (bitsOf v 5 4) (d.flEcc (flLine (d.flAddr (reqId r)))) []
  | 6 => d.flBlank r none
  | 7 => d.flInfo r
  | _ => d.flNoOp r

def Dev.flcWrite (d : Dev) (r : Req) (off v : Nat) : Status × Dev :=
  if off = 0x068 then d.flCommand r v
  else if 0x180 ≤ off ∧ off < 0x1C0 then d.flRegWrite off v
  else if 0x044 ≤ off ∧ off ≤ 0x094 then d.ownWrite (reqId r) pgFLC off v
  else d.plainWrite pgFLC off v

end Sys2Proof.Machine
end

