-- ==== Sys2Proof/Machine/Memory.lean ====
section
/-! DEFINITION. The memories behind device addresses and who reaches them: the device address map, engine windows, worlds
of segments and banks, host windows, DRAM and its guarded region, uncorrectable words (R150, R279 to R282, R292, R294,
R298, R301, R303, R317). -/

namespace Sys2Proof.Machine

open Sys2Proof

/-! ### Loads and stores (R293, R294, R301) -/

/-- Reads `n` bytes at a device address that the requester reaches. -/
def Dev.memLoad (d : Dev) (r : Req) (a n : Nat) : Status × Nat × Dev :=
  match memClass a with
  | none => (.denied, 0, d)
  | some 7 => d.flLoad r (a - flashBase) n
  | some c =>
    let st := d.hwStatus c a n
    if st ≠ .ok then (st, 0, d)
    else match d.counterBad (codeWords c a n) with
      | some row => (.faultDetected, 0, d.rowFault 5 0x07B row (reqId r))
      | none => match d.firstBad c a n with
        | some (w, k) => (.faultDetected, 0, d.memFault c w k (reqId r))
        | none => (.ok, d.loadNat a n, d.linesRead c (codeWords c a n))

/-- Writes bytes at a device address that the requester reaches: a whole word becomes good, a part of a bad word is
refused (R294, R301). Bytes that a later requester of the same CCLK writes are not changed (R302). -/
def Dev.memStore (d : Dev) (r : Req) (a : Nat) (bs : List Byte) (rivals : List (Req × Nat × Nat) := []) : Status × Dev :=
  let n := bs.length
  match memClass a with
  | none => (.denied, d)
  | some 7 => (.denied, d)
  | some c =>
    let st := d.hwStatus c a n
    if st ≠ .ok then (st, d)
    else
      let ws := codeWords c a n
      match d.counterBad ws with
      | some row => (.faultDetected, d.rowFault 5 0x07B row (reqId r))
      | none => match ws.find? (fun w => d.wordState c w != 0 && !coversWord c a n w) with
        | some w => (.faultDetected, d.memFault c w (d.wordState c w) (reqId r))
        | none => (.ok, (d.wordsWritten c ws).storeBut a bs rivals)

/-! ### Who reaches what -/

/-- The world attribute of a cluster segment and of a stream buffer bank: 0 Refuge only, 1 P, 2 S, 3 both. -/
def Dev.segAttr (d : Dev) (a : Nat) : Nat :=
  d.rd CLU_MEM_WORLD_segs 0 ((a - 0x08000000) / 0x100000) / 2 ^ (2 * (a % 0x100000 / 0x10000)) % 4
def Dev.bankAttr (d : Dev) (a : Nat) : Nat :=
  let b := a % 0x1000000 / 0x40000
  d.rd SBF_BANK_WORLDk_banks (b / 16) / 2 ^ (2 * (b % 16)) % 4

/-- A byte range lies in an enabled host window, one that allows writes for a write (R150). -/
def Dev.hostWindow (d : Dev) (write : Bool) (a n : Nat) : Bool :=
  (List.range 8).any (fun k =>
    let lo := sbBase + d.rd SBF_HWIN_BASEk_base k * 4096
    d.flag SBF_HWIN_BASEk_en k && (!write || d.flag SBF_HWIN_BASEk_wr k) && decide (lo ≤ a) &&
      decide (a + n ≤ lo + d.rd SBF_HWIN_SIZEk_size k * 4096))
where
  sbBase : Nat := 0x10000000

def Dev.engState (d : Dev) (e : Nat) : Nat := d.rd ENG_STATE_state 0 e

/-- The upper half of an engine's data memory: R279 calls +0x3_0000 to +0x3_FFFF unassigned as a device address, although
the memory is 128 KiB; the engine reaches it by its own addresses (log entry 31). -/
def localHole (a n : Nat) : Bool :=
  decide (0x01000000 ≤ a) && decide (a < 0x02800000) && decide (0x30000 < (a - 0x01000000) % 0x40000 + n)

/-- An engine's local memory is open to DBG while the engine is FROZEN, under permission 2 or 3. -/
def Dev.dbgLocal (d : Dev) (write : Bool) (a : Nat) : Bool :=
  let e := (a - 0x01000000) / 0x40000
  d.engState e == 5 && d.dbgWorld (d.engWorld e) && d.dbgPerm (if write then 3 else 2)

/-- Whether a requester that uses device addresses reaches a memory range: the Refuge, HST, DBG (R150, R279, R317,
R360). Refuge and hardware accesses pass; an engine comes through its windows. -/
def Dev.devReach (d : Dev) (r : Req) (write : Bool) (a n : Nat) : Bool :=
  !localHole a n && match memClass a, r with
  | none, _ => false
  | some 7, _ => !write
  | some _, .refuge => true
  | some _, .dp _ => true
  | some 3, .hst => d.hostWindow write a n
  | some 0, .dbg => d.dbgLocal write a
  | some 1, .dbg => d.dbgLocal write a
  | some 2, .dbg => d.dbgPerm 6 && d.dbgWorld (d.segAttr a)
  | _, _ => false

/-- Where an engine address leads: a status, and a device address of memory (R280 to R282). Register pages are not
memory here. -/
def Dev.engMap (d : Dev) (e : Nat) (write : Bool) (a n : Nat) : Status × Nat :=
  let w := d.engWorld e
  if a + n ≤ 0x20000 then (.ok, engData e + a)
  else if 0x100000 ≤ a ∧ a + n ≤ 0x200000 then
    let t := cluBase (engClu e) + (a - 0x100000)
    (if opensTo (d.segAttr t) w && opensTo (d.segAttr (t + n - 1)) w then .ok else .denied, t)
  else if 0x10000000 ≤ a ∧ a + n ≤ 0x11000000 then
    (if opensTo (d.bankAttr a) w && opensTo (d.bankAttr (a + n - 1)) w then .ok else .denied, a)
  else if 0x20000000 ≤ a ∧ a + n ≤ 0x22000000 then (if write then .denied else .ok, a)
  else if 0x40000000 ≤ a ∧ a + n ≤ 0x80000000 then
    let k := (a - 0x40000000) / 0x10000000
    let t := d.rd ENG_DWINk_base k e * 2 ^ 28 + (a - 0x40000000 - k * 0x10000000)
    (if !d.flag ENG_DWINk_en k e || (write && !d.flag ENG_DWINk_wr k e) || (a + n - 1 - 0x40000000) / 0x10000000 != k then .denied else .ok, t)
  else (.denied, 0)

/-- The ranges of a long access that stay within one segment, bank or window: pieces of at most 64 KiB (R281, R150). -/
def pieces (a n : Nat) : List (Nat × Nat) :=
  (List.range ((a % 0x10000 + n + 0xFFFF) / 0x10000)).map (fun i =>
    let lo := if i = 0 then a else (a / 0x10000 + i) * 0x10000
    let hi := min (a + n) ((a / 0x10000 + i + 1) * 0x10000)
    (lo, hi - lo))

/-- An engine's requester ID. -/
def isEngId (who : Nat) : Bool := decide (0x10 ≤ who) && decide (who < 0x70)

/-- The requester of an ID. -/
def reqOf (who : Nat) : Req :=
  if who < 12 then .dp (Fin.ofNat 12 who) else if who = 0x0C then .hst else if who = 0x0D then .dbg
  else if isEngId who then .eng (Fin.ofNat 96 (who - 0x10)) else .refuge

/-- The device address behind an address of a job's owner. -/
def Dev.jobMap (d : Dev) (who : Nat) (write : Bool) (a n : Nat) : Nat :=
  if isEngId who then (d.engMap (who - 0x10) write a n).2 else a

/-- The reach of one piece of a range (R317). -/
def Dev.reachPiece (d : Dev) (who : Nat) (write : Bool) (p : Nat × Nat) : Status :=
  let t := d.jobMap who write p.1 p.2
  let own := if isEngId who then
      (if p.1 < 0x20000 then .denied else (d.engMap (who - 0x10) write p.1 p.2).1)
    else if who = 0x0C then (if d.hostWindow write p.1 p.2 then .ok else .denied)
    else if who = 0x0E then .ok else .denied
  pickStatus [own, match memClass t with
    | none => .denied
    | some 7 => if write || !d.flMayRead (reqOf who) (flBlock (t - flashBase)) then .denied else .ok
    | some 6 => d.dramStatus t p.2
    | some c => pickStatus [if localHole t p.2 && who == 0x0E then .denied else .ok, d.initStatus c]]

/-- The check of a job's range at go (R317): an engine's own data memory, the register pages, and the flash as a
destination are out of reach; HST needs its windows. -/
def Dev.reach (d : Dev) (who : Nat) (write : Bool) (a n : Nat) : Status :=
  pickStatus ((pieces a n).map (d.reachPiece who write))

/-- A job's read of one piece: its status and what it reports (R317). -/
def Dev.readPiece (d : Dev) (who : Nat) (p : Nat × Nat) : Status × List Byte × Dev :=
  let t := d.jobMap who false p.1 p.2
  match memClass t with
  | none => (.denied, [], d)
  | some 7 =>
    let ws := codeWords 7 t p.2
    let st := pickStatus (ws.map (fun w => d.flReadStatus (reqOf who) (w - flashBase)))
    if st ≠ .ok then (st, [], d)
    else if (d.broken who t).isSome then (.faultDetected, [], d.parityError pgFLC 7 t who)
    else
      let d := (ws.map (fun w => flBank (w - flashBase))).foldl Dev.flWait d
      match ws.find? (fun w => d.flEcc (flLine (w - flashBase)) == 2) with
      | some w => (.faultDetected, [], d.flEccNote (flLine (w - flashBase)) 2 who 0)
      | none => (.ok, d.load t p.2, ws.foldl (fun d w => d.flEccNote (flLine (w - flashBase)) (d.flEcc (flLine (w - flashBase))) who 0) d)
  | some _ => d.hwLoad who t p.2

/-- A job's read of `n` bytes: the status of the first fault it meets, or the bytes. -/
def Dev.jobRead (d : Dev) (who a n : Nat) : Status × List Byte × Dev :=
  (pieces a n).foldl (fun acc p =>
    if acc.1 ≠ .ok then acc
    else
      let (st, bs, d) := acc.2.2.readPiece who p
      (st, acc.2.1 ++ bs, d)) (.ok, [], d)

/-- A job's write of bytes. -/
def Dev.jobWrite (d : Dev) (who a : Nat) (bs : List Byte) : Status × Dev :=
  (pieces a bs.length).foldl (fun acc p =>
    if acc.1 ≠ .ok then acc
    else
      let t := acc.2.jobMap who true p.1 p.2
      match acc.2.broken who t with
      | some s => (.faultDetected, acc.2.parityError s.2 s.1 t who)
      | none => acc.2.memStore (reqOf who) t (slice bs (p.1 - a) p.2)) (.ok, d)

/-- A range whose content the spec leaves undefined: free bytes (log entry 2). -/
def Dev.jobSmear (d : Dev) (who a n : Nat) : Dev :=
  let (v, d) := d.draw .memory
  (d.jobWrite who a (leBytes v n)).2

end Sys2Proof.Machine
end

