-- ==== Sys2Proof/Machine/Cipher.lean ====
section
/-! DEFINITION. The AES pipelines CP0 to CP7 and the key vault's permissions (R305 to R323, R345). -/

namespace Sys2Proof.Machine

open Sys2Proof

def pgCPL (p : Nat) : Nat := 0x070 + p

/-! ### Vault (R345) -/

def Dev.slotOf (d : Dev) (s : Nat) : Slot := d.vault.get s {}
/-- The copies in flash once a slot is written: of a sealed key under the present seed, of a device key under the device secret
alone, none of a volatile one (R346). -/
def Dev.copySlot (d : Dev) (s : Nat) (x : Slot) : Tbl (List Byte × Slot) :=
  match bitsOf x.attr 11 10 with
  | 1 => d.rfg.copies.set s (d.bkd.seed, x) ([], {})
  | 2 => d.rfg.copies.set s ([], x) ([], {})
  | _ => d.rfg.copies.set s ([], {}) ([], {})

/-- A slot is written with its attribute's inverted copy (R344), and its key's copy in flash follows (R346). -/
def Dev.setSlot (d : Dev) (s : Nat) (x : Slot) : Dev :=
  let x := { x with inv := 2 ^ 32 - 1 - x.attr }
  { d with vault := d.vault.set s x {}, rfg := { d.rfg with copies := d.copySlot s x } }.slotHeal s
def Slot.type (x : Slot) : Nat := bitsOf x.attr 31 28

/-- The users bit of a requester ID. -/
def Dev.userBit (d : Dev) (who : Nat) : Nat :=
  if who < 12 then 12 else if who = 0x0C then 15
  else if isEngId who then (match d.engWorld (who - 0x10) with | 1 => 13 | 2 => 14 | _ => 19)
  else if who = 0x0E then 17 else 19

/-- The slot's attributes permit the requester and every listed use. -/
def Dev.slotPermits (d : Dev) (s who : Nat) (uses : List Nat) : Bool :=
  let x := d.slotOf s
  x.type != 0 && (who == 0x0E || x.attr.testBit (d.userBit who)) && uses.all (fun u => x.attr.testBit u)

/-- Key bits of a slot's type; 0 for one that is no AES key. -/
def Slot.aesBytes (x : Slot) : Nat := match x.type with | 1 => 16 | 2 => 24 | 3 => 32 | _ => 0

/-! ### Registers of a pipeline -/

def Dev.cplOf (d : Dev) (p : Nat) : Cpl := d.cpl.get p {}
def Dev.setCpl (d : Dev) (p : Nat) (c : Cpl) : Dev := { d with cpl := d.cpl.set p c {} }

/-- The key that two shares hold (R306): none where nothing was loaded. -/
def Cpl.key (c : Cpl) : List Byte := xorBytes c.keyA c.keyB

/-- Fresh randomness for shares, up to 128 bytes, from the pipeline's own generator (R306). -/
def Dev.freshMask (d : Dev) (p n : Nat) : List Byte × Dev :=
  let g := BitVec.ofNat 256 (d.cplOf p).gen
  (leBytes (Config.generatorOut g).toNat n, d.setCpl p { d.cplOf p with gen := (Config.generatorNext g).toNat })

/-- A key on its way into the pipeline is held in two shares. -/
def Dev.setLoading (d : Dev) (p : Nat) (key : List Byte) : Dev :=
  let (m, d) := d.freshMask p key.length
  d.setCpl p { d.cplOf p with loading := some (xorBytes key m, m) }

/-- The data values of two chain states, one the mask of the other. -/
def Chain.mix (c m : Chain) : Chain :=
  { c with chain := xorBytes c.chain m.chain, ghash := c.ghash ^^^ m.ghash, iv := xorBytes c.iv m.iv }

/-- The state of the open chain that two shares hold. -/
def Cpl.opened (c : Cpl) : Option Chain := c.chain.map (fun x => x.mix c.mask)

/-- The state of an open chain is kept in two shares. -/
def Dev.setChain (d : Dev) (p : Nat) (c : Chain) : Dev :=
  let (b, d) := d.freshMask p (c.chain.length + 16 + c.iv.length)
  let m : Chain := { chain := b.take c.chain.length, ghash := toB128 (slice b c.chain.length 16), iv := b.drop (c.chain.length + 16) }
  d.setCpl p { d.cplOf p with chain := some (c.mix m), mask := m }

/-- CPL_KEYk as written (R311). -/
def Dev.keyRegs (d : Dev) (p : Nat) : List Byte := padTo 32 (xorBytes (d.cplOf p).regA (d.cplOf p).regB)
def Dev.setKeyReg (d : Dev) (p k v : Nat) : Dev :=
  let (m, d) := d.freshMask p 32
  d.setCpl p { d.cplOf p with regA := xorBytes (overlay (d.keyRegs p) (4 * k) (leBytes v 4)) m, regB := m }

/-- Sixteen bytes held in four registers. -/
def Dev.quad (d : Dev) (f : Fld) (p : Nat) : List Byte := ((List.range 4).map (fun k => leBytes (d.rd f k p) 4)).flatten
def Dev.setQuad (d : Dev) (f : Fld) (p : Nat) (bs : List Byte) : Dev :=
  (List.range 4).foldl (fun d k => d.wr f (leAt (padTo 16 bs) (4 * k) 4) k p) d

def Dev.cplOwner (d : Dev) (p : Nat) : Nat := d.rd LOCK_owner 0 (pgCPL p)

def Dev.cplRec (d : Dev) (p code sev p2 : Nat) : Dev := d.rated (pgCPL p) code p sev p p2

/-- The uses a mode and direction need (R345). -/
def cplUses (mode : Nat) (dec : Bool) : List Nat :=
  match mode with
  | 0 => [26, if dec then 21 else 20]
  | 5 => [if dec then 23 else 22]
  | 6 => [if dec then 23 else 22]
  | _ => [if dec then 21 else 20]

/-- key_ready falls and an open chain is discarded (R312). -/
def Dev.cplDropKey (d : Dev) (p : Nat) : Dev :=
  ((d.setCpl p { d.cplOf p with keyA := [], keyB := [], loading := none, chain := none }).wr CPL_STAT_key_ready 0 0 p).wr CPL_STAT_chain_open 0 0 p

/-- A write of CPL_KEYk, or of CPL_MODE: one that changes ksize, ksrc or slot drops the key (R312). -/
def Dev.cplKeyWrite (d : Dev) (p off v : Nat) : Status × Dev :=
  let (st, d') := d.plainWrite (pgCPL p) off v
  if off = 0x040 then
    let same := d.rd CPL_MODE_slot 0 p = d'.rd CPL_MODE_slot 0 p ∧ d.rd CPL_MODE_ksrc 0 p = d'.rd CPL_MODE_ksrc 0 p ∧
      d.rd CPL_MODE_ksize 0 p = d'.rd CPL_MODE_ksize 0 p
    (st, if same then d' else d'.cplDropKey p)
  else (st, (d'.setKeyReg p ((off - 0x044) / 4) v).cplDropKey p)

/-! ### Keys (R311, R312) -/

def keyBytesOf (ksize : Nat) : Nat := match ksize with | 0 => 16 | 1 => 24 | 2 => 32 | _ => 0

/-- The key that load_key takes. -/
def Dev.cplKeyIn (d : Dev) (p : Nat) : List Byte :=
  if d.flag CPL_MODE_ksrc 0 p then (d.slotOf (d.rd CPL_MODE_slot 0 p)).key
  else (d.keyRegs p).take (keyBytesOf (d.rd CPL_MODE_ksize 0 p))

/-- load_key (R312). `parity`: the key bus finds a parity error. -/
def Dev.cplLoadKey (d : Dev) (p : Nat) (parity : Bool) : Status × Dev :=
  let owner := d.cplOwner p
  let mode := d.rd CPL_MODE_mode 0 p
  let dec := d.flag CPL_MODE_op 0 p
  let vault := d.flag CPL_MODE_ksrc 0 p
  let slot := d.rd CPL_MODE_slot 0 p
  let ks := d.rd CPL_MODE_ksize 0 p
  let may := !vault || d.slotPermits slot owner (cplUses mode dec)
  let st := pickStatus [if may then .ok else .denied,
    if ks = 3 ∨ (vault ∧ may ∧ (d.slotOf slot).aesBytes ≠ keyBytesOf ks) then .badParam else .ok,
    if d.flag CPL_STAT_seeded 0 p then .ok else .notReady, if vault then d.vaultStatus owner else .ok, if vault && (parity || (d.slotBad slot).isSome) then .faultDetected else .ok]
  let d := if may then d else d.cplRec p 0xB004 4 slot
  if st ≠ .ok then
    let d := if vault && may then (match d.slotBad slot with | some row => d.rowFault 5 0x07B row owner | none => d) else d
    (st, if parity && vault then (d.parityError (pgCPL p) 5 0 owner).cplDropKey p else if st = .faultDetected then d.cplDropKey p else d)
  else
    let d' := d.cplDropKey p
    (.ok, d'.setLoading p (d.cplKeyIn p))

/-- Key expansion ends (R312, R320). -/
def Dev.cplKeyReady (d : Dev) (p : Nat) : Dev :=
  let c := d.cplOf p
  match c.loading with
  | none => d
  | some k => ((d.setCpl p { c with loading := none, keyA := k.1, keyB := k.2 }).wr CPL_STAT_key_ready 1 0 p).irq (pgCPL p) 1

/-! ### Modes (R313, R314) -/

/-- The addresses and lengths of a job. -/
def Dev.cplAddr (d : Dev) (p : Nat) (lo hi : Fld) : Nat := d.rd lo 0 p + d.rd hi 0 p * 2 ^ 32

/-- Output bytes per message of a mode. -/
def cplOut (mode : Nat) (dec last : Bool) (len : Nat) : Nat :=
  if mode = 5 ∨ mode = 6 then 0 else if mode = 2 ∧ !dec ∧ last then len + (16 - len % 16) else len

/-- The staged job. -/
def Dev.cplStaged (d : Dev) (p : Nat) (first last : Bool) : CplJob :=
  { mode := d.rd CPL_MODE_mode 0 p, dec := d.flag CPL_MODE_op 0 p, tagLen := d.rd CPL_MODE_tag_len 0 p,
    ctrW := d.rd CPL_MODE_ctr_w 0 p, iv := d.quad CPL_IVk_bytes p, tag := d.quad CPL_TAGk_bytes p,
    src := d.cplAddr p CPL_SRC_LO_addr CPL_SRC_HI_addr_hi, dst := d.cplAddr p CPL_DST_LO_addr CPL_DST_HI_addr_hi,
    ivt := d.cplAddr p CPL_IVT_LO_addr CPL_IVT_HI_addr_hi, len := d.rd CPL_LEN_len 0 p, aad := d.rd CPL_AAD_aad_len 0 p,
    msgs := d.rd CPL_LEN_msgs 0 p, first := first, last := last, owner := d.cplOwner p }

/-- Counter bytes of a CTR job. -/
def ctrBytes (w : Nat) : Nat := match w with | 0 => 4 | 1 => 8 | _ => 16

/-- The blocks of `len` bytes run past the end of a counter field of `n` bytes (R314). -/
def ctrWraps (n : Nat) (iv : List Byte) (len : Nat) : Bool := decide (2 ^ (8 * n) < beValue (iv.drop (16 - n)) + ceilDiv len 16)

/-- A job breaks a length, tag, IV, alignment or segment rule (R313, R314, R316, R318, R319). -/
def CplJob.bad (j : CplJob) (opened : Option Chain) : Bool :=
  let batch := j.msgs != 0
  let zeroIv (l : List Byte) : Bool := l.all (· == 0)
  let iv := if j.first then j.iv else (opened.map (·.chain)).getD j.iv
  decide (6 < j.mode) || j.ctrW == 3 ||
    ((j.mode == 0 || j.mode == 1) && j.len % 16 != 0) ||
    (j.mode == 2 && j.dec && (j.len % 16 != 0 || decide (j.len < 16))) ||
    (j.mode != 4 && j.aad != 0) ||
    (!batch && (j.mode == 4 || j.mode == 5) && !zeroIv (j.iv.drop 12)) ||
    (!batch && (j.mode == 0 || j.mode == 6) && !zeroIv j.iv) ||
    ((j.mode == 4 || j.mode == 5) && !(j.tagLen == 4 || j.tagLen == 8 || (decide (12 ≤ j.tagLen) && decide (j.tagLen ≤ 16)))) ||
    (j.mode == 6 && !(decide (8 ≤ j.tagLen) && decide (j.tagLen ≤ 16))) ||
    (!batch && j.mode == 3 && ctrWraps (ctrBytes j.ctrW) iv j.len) || (j.mode == 4 && !j.first && ctrWraps 4 iv j.len) ||
    j.src % 16 != 0 || j.dst % 16 != 0 || (batch && j.ivt % 16 != 0) ||
    (!j.first && opened.isNone) || (!j.first && j.aad != 0) || (!j.last && (j.len % 16 != 0 || j.len == 0)) ||
    (batch && (!j.first || !j.last || j.mode == 2)) ||
    (isEngId j.owner && (decide (2 ^ 32 ≤ j.src) || decide (2 ^ 32 ≤ j.dst) || decide (2 ^ 32 ≤ j.ivt)))

/-- Modes with a tag. -/
def CplJob.tagged (j : CplJob) : Bool := j.mode == 4 || j.mode == 5 || j.mode == 6

/-- The ranges of a job: source, destination, table. -/
def CplJob.srcLen (j : CplJob) : Nat := (j.aad + j.len) * (j.msgs + 1)
def CplJob.dstLen (j : CplJob) : Nat := cplOut j.mode j.dec j.last j.len * (j.msgs + 1)

/-- A message of a CTR batch would wrap its counter, as the table has it at go (R314, R319). -/
def Dev.cplTableWraps (d : Dev) (j : CplJob) : Bool :=
  j.msgs != 0 && j.mode == 3 &&
    (let t := (d.jobRead j.owner j.ivt (32 * (j.msgs + 1))).2.1
     (List.range (j.msgs + 1)).any (fun i => ctrWraps (ctrBytes j.ctrW) (slice t (32 * i) 16) j.len))

/-- The reach of a batch's table: it is read, and written where the job leaves its tags there (R317, R319). -/
def Dev.tableReach (d : Dev) (j : CplJob) : Status :=
  let n := 32 * (j.msgs + 1)
  pickStatus [d.reach j.owner false j.ivt n, if j.tagged && !j.dec then d.reach j.owner true j.ivt n else .ok]

/-- go (R316). `res`: reserved bits of CPL_CMD were written with it; those of the other registers read 0 whatever is written
(log entry 481). -/
def Dev.cplGo (d : Dev) (p : Nat) (first last res : Bool) : Status × Dev :=
  let c := d.cplOf p
  let j := d.cplStaged p first last
  let srcBad := d.reach j.owner false j.src j.srcLen ≠ .ok
  let dstBad := d.reach j.owner true j.dst j.dstLen ≠ .ok ∨ (j.msgs ≠ 0 ∧ d.tableReach j ≠ .ok)
  let denied := (j.mode = 0 ∧ j.owner ≠ 0x0E) ∨ srcBad ∨ dstBad
  let st := pickStatus [if c.job.isSome then .busy else .ok, if denied then .denied else .ok,
    if res || j.bad c.opened || (!denied && d.cplTableWraps j) then .badParam else .ok,
    if d.flag CPL_STAT_key_ready 0 p && d.flag CPL_STAT_seeded 0 p then .ok else .notReady]
  let d := if denied then d.cplRec p 0xB003 4 ((if srcBad ∨ (j.mode = 0 ∧ j.owner ≠ 0x0E) then j.src else j.dst) % 2 ^ 32) else d
  if st ≠ .ok then (st, d)
  else
    let chain := if first then none else c.chain
    (.ok, ((d.setCpl p { c with job := some j, chain := chain }).wr STATUS_busy 1 0 (pgCPL p)).wr CPL_STAT_chain_open (b2n chain.isSome) 0 p)

/-- CBC over whole blocks: output and next chaining value (SP 800-38A). -/
def cbcEnc (key iv data : List Byte) : List Byte × List Byte :=
  (chunks 16 data).foldl (fun acc b => let c := aesEnc key (xorBytes acc.2 b); (acc.1 ++ c, c)) ([], iv)
def cbcDec (key iv data : List Byte) : List Byte × List Byte :=
  (chunks 16 data).foldl (fun acc b => (acc.1 ++ xorBytes acc.2 (aesDec key b), b)) ([], iv)

/-- PKCS #7 padding is valid: its length. -/
def pkcsLen (l : List Byte) : Option Nat :=
  let n := (l.getLastD 0).toNat
  if 1 ≤ n ∧ n ≤ 16 ∧ n ≤ l.length ∧ (l.drop (l.length - n)).all (fun b => b.toNat == n) then some (l.length - n) else none

/-- What one message or segment gives: output, tag, the kept state, whether padding or tag held. -/
structure SegOut where
  out : List Byte
  tag : List Byte
  chain : Chain
  good : Bool
  deriving DecidableEq, Repr

/-- A GCM or GMAC segment (SP 800-38D). -/
def gcmSeg (key : List Byte) (dec last : Bool) (gmac : Bool) (c : Chain) (aad data : List Byte) : SegOut :=
  let h := toB128 (aesEnc key (zeros 16))
  let out := if gmac then [] else xorBytes data (ctrStream key c.chain 4 data.length)
  let ct := if dec then data else out
  let g := if gmac then ghashOver h c.ghash data else ghashOver h (ghashOver h c.ghash aad) ct
  let al := c.aad + aad.length + (if gmac then data.length else 0)
  let cl := c.len + (if gmac then 0 else data.length)
  let fin := gfMul (g ^^^ toB128 (beBytes (8 * al) 8 ++ beBytes (8 * cl) 8)) h
  { out := out, tag := if last then xorBytes (beBytes fin.toNat 16) (aesEnc key (c.iv.take 12 ++ [0, 0, 0, 1])) else []
    chain := { c with chain := ctrAdd 4 c.chain (ceilDiv out.length 16), ghash := g, aad := al, len := cl }, good := true }

/-- A CMAC segment: the last complete block is kept back until the message ends (SP 800-38B). -/
def cmacSeg (key : List Byte) (last : Bool) (c : Chain) (data : List Byte) : SegOut :=
  let all := c.iv ++ data
  if last then { out := [], tag := cmacFinish key c.chain all, chain := c, good := true }
  else
    let full := (all.length - 1) / 16 * 16
    let v := (chunks 16 (all.take full)).foldl (fun v b => aesEnc key (xorBytes v b)) c.chain
    { out := [], tag := [], chain := { c with chain := v, iv := all.drop full }, good := true }

/-- The state a first segment starts from. -/
def startChain (mode : Nat) (iv : List Byte) : Chain :=
  match mode with
  | 4 => { chain := iv.take 12 ++ [0, 0, 0, 2], iv := iv }
  | 5 => { chain := iv.take 12 ++ [0, 0, 0, 2], iv := iv }
  | 6 => { chain := zeros 16 }
  | _ => { chain := iv, iv := iv }

/-- One message or segment under a mode (R313). -/
def runSeg (j : CplJob) (key : List Byte) (c : Chain) (aad data : List Byte) : SegOut :=
  match j.mode with
  | 0 => { out := ((chunks 16 data).map (if j.dec then aesDec key else aesEnc key)).flatten, tag := [], chain := c, good := true }
  | 1 => let r := if j.dec then cbcDec key c.chain data else cbcEnc key c.chain data
         { out := r.1, tag := [], chain := { c with chain := r.2 }, good := true }
  | 2 =>
    if j.dec then
      let r := cbcDec key c.chain data
      if !j.last then { out := r.1, tag := [], chain := { c with chain := r.2 }, good := true }
      else match pkcsLen r.1 with
        | some n => { out := r.1.take n, tag := [], chain := { c with chain := r.2 }, good := true }
        | none => { out := [], tag := [], chain := c, good := false }
    else
      let n := 16 - data.length % 16
      let r := cbcEnc key c.chain (if j.last then data ++ List.replicate n (BitVec.ofNat 8 n) else data)
      { out := r.1, tag := [], chain := { c with chain := r.2 }, good := true }
  | 3 => { out := xorBytes data (ctrStream key c.chain (ctrBytes j.ctrW) data.length), tag := []
           chain := { c with chain := ctrAdd (ctrBytes j.ctrW) c.chain (ceilDiv data.length 16) }, good := true }
  | 4 => gcmSeg key j.dec j.last false c aad data
  | 5 => gcmSeg key j.dec j.last true c [] data
  | _ => cmacSeg key j.last c data

/-- The verdict on a message: its tag, expected in `t`, and its padding (R315). -/
def CplJob.verdict (j : CplJob) (r : SegOut) (t : List Byte) : Status :=
  if !r.good then .authFail
  else if j.tagged ∧ j.dec ∧ j.last ∧ r.tag.take j.tagLen ≠ t.take j.tagLen then .authFail else .ok

/-! ### Completion (R315, R317, R319, R320) -/

/-- The end of a job: STATUS, IRQ_STAT bit 0. -/
def Dev.cplEnd (d : Dev) (p : Nat) (st : Status) : Dev :=
  let d := (d.setCpl p { d.cplOf p with job := none }).wr STATUS_busy 0 0 (pgCPL p)
  (d.wr STATUS_last_status st.code 0 (pgCPL p)).irq (pgCPL p) 0

/-- The destination of a job that failed: zeros in modes 2 and 4, else undefined (R315, R317, R320). -/
def Dev.cplSpoil (d : Dev) (j : CplJob) : Dev :=
  if j.mode = 2 ∨ j.mode = 4 then (d.jobWrite j.owner j.dst (zeros j.dstLen)).2 else d.jobSmear j.owner j.dst j.dstLen

/-- A fault during a job (R317). -/
def Dev.cplFault (d : Dev) (p : Nat) (j : CplJob) (st : Status) : Dev :=
  let d := (d.cplSpoil j).cplRec p 0xB006 4 st.code
  ((d.setCpl p { d.cplOf p with chain := none }).wr CPL_STAT_chain_open 0 0 p).cplEnd p st

/-- Source and destination overlap without being equal: the destination is undefined (R316). -/
def CplJob.overlaps (j : CplJob) : Bool :=
  j.src != j.dst && decide (j.src < j.dst + j.dstLen) && decide (j.dst < j.src + j.srcLen)

/-- A single message or segment, its source read. -/
def Dev.cplSingle (d : Dev) (p : Nat) (j : CplJob) (src : List Byte) : Dev :=
  let c := d.cplOf p
  let ch := if j.first then startChain j.mode j.iv else c.opened.getD (startChain j.mode j.iv)
  let r := runSeg j c.key ch (src.take j.aad) (src.drop j.aad)
  let v := j.verdict r j.tag
  let (wst, d) := if v ≠ .ok then (if j.mode = 2 ∨ j.mode = 4 then d.jobWrite j.owner j.dst (zeros j.dstLen) else (.ok, d))
    else if j.overlaps then (.ok, d.jobSmear j.owner j.dst j.dstLen) else d.jobWrite j.owner j.dst r.out
  if wst ≠ .ok then d.cplFault p j wst
  else
    let d := d.wr CPL_STAT_out_len (if v = .ok then r.out.length else 0) 0 p
    let d := if j.tagged ∧ j.last ∧ !j.dec then d.setQuad CPL_TAGk_bytes p (r.tag.take j.tagLen) else d
    let d := if j.mode = 1 ∨ j.mode = 2 ∨ j.mode = 3 then d.setQuad CPL_IVk_bytes p r.chain.chain else d
    let d := if j.last then d.setCpl p { d.cplOf p with chain := none } else d.setChain p r.chain
    (d.wr CPL_STAT_chain_open (b2n !j.last) 0 p).cplEnd p v

/-- One message of a batch: verdict, the status of the writes of its output and table entry (R319). -/
def Dev.cplMessage (d : Dev) (p : Nat) (j : CplJob) (i : Nat) (src tbl : List Byte) : Status × Status × Dev :=
  let c := d.cplOf p
  let per := j.aad + j.len
  let out := cplOut j.mode j.dec j.last j.len
  let m := slice src (i * per) per
  let r := runSeg j c.key (startChain j.mode (slice tbl (32 * i) 16)) (m.take j.aad) (m.drop j.aad)
  let v := j.verdict r (slice tbl (32 * i + 16) 16)
  let (s1, d) := d.jobWrite j.owner (j.dst + i * out) (if v = .ok then r.out else if j.mode = 4 then zeros out else [])
  let (s2, d) := if j.tagged ∧ !j.dec then d.jobWrite j.owner (j.ivt + 32 * i + 16) (padTo 16 (r.tag.take j.tagLen)) else (.ok, d)
  (v, pickStatus [s1, s2], d)

/-- A batch (R319). In mode 4 a message that fails takes the output of all of them with it (R315). -/
def Dev.cplBatch (d : Dev) (p : Nat) (j : CplJob) (src tbl : List Byte) : Dev :=
  let r := (List.range (j.msgs + 1)).foldl (fun (acc : List Status × Status × Dev) i =>
    let (v, w, d) := acc.2.2.cplMessage p j i src tbl
    (acc.1 ++ [v], pickStatus [acc.2.1, w], d)) ([], .ok, d)
  let d := if j.overlaps then r.2.2.jobSmear j.owner j.dst j.dstLen else r.2.2
  let st := pickStatus r.1
  let (zst, d) := if st = .authFail ∧ j.mode = 4 then d.jobWrite j.owner j.dst (zeros j.dstLen) else (.ok, d)
  if pickStatus [r.2.1, zst] ≠ .ok then d.cplFault p j (pickStatus [r.2.1, zst])
  else
    let d := if st = .authFail then d.wr CPL_STAT_out_len 0 0 p else d
    (d.wr CPL_STAT_fails (min 31 (r.1.filter (· != .ok)).length) 0 p).cplEnd p st

/-- The running job of a pipeline completes. -/
def Dev.cplComplete (d : Dev) (p : Nat) : Dev :=
  match (d.cplOf p).job with
  | none => d
  | some j =>
    let (st, src, d) := d.jobRead j.owner j.src j.srcLen
    if st ≠ .ok then d.cplFault p j st
    else if j.msgs = 0 then d.cplSingle p j src
    else
      let (st, tbl, d) := d.jobRead j.owner j.ivt (32 * (j.msgs + 1))
      if st ≠ .ok then d.cplFault p j st else d.cplBatch p j src tbl

/-- abort (R320). -/
def Dev.cplAbort (d : Dev) (p : Nat) : Status × Dev :=
  let d' := (d.setCpl p { d.cplOf p with chain := none }).wr CPL_STAT_chain_open 0 0 p
  match (d.cplOf p).job with
  | none => (.ok, d')
  | some j => (.ok, (d'.cplSpoil j).cplEnd p .aborted)

/-- CPL_CMD: the bits act in the order abort, load_key, go. -/
def Dev.cplCmd (d : Dev) (p v : Nat) : Status × Dev :=
  let (s1, d) := if v.testBit 4 then d.cplAbort p else (.ok, d)
  let (s2, d) := if v.testBit 3 then d.cplLoadKey p false else (.ok, d)
  let (s3, d) := if v.testBit 0 then d.cplGo p (v.testBit 1) (v.testBit 2) (bitsOf v 31 5 != 0) else (.ok, d)
  (pickStatus [s1, s2, s3], d)

/-! ### Generator and ownership (R307, R309, R310) -/

/-- TRN gives the generator 256 bits (R306, R307). -/
def Dev.cplSeed (d : Dev) (p : Nat) : Dev :=
  let x := d.drbg
  (x.2.setCpl p { x.2.cplOf p with gen := x.1 % 2 ^ 256 }).wr CPL_STAT_seeded 1 0 p

/-- A reseed, supplied or missed (R307). -/
def Dev.cplReseed (d : Dev) (p : Nat) (supplied : Bool) : Dev :=
  if supplied && d.flag TRN_STAT_drbg_ready then (d.cplSeed p).wr CPL_RNG_consec 0 0 p
  else
    let n := satAdd 0xFFFF (d.rd CPL_RNG_consec 0 p) 1
    let d := (d.wr CPL_RNG_consec n 0 p).bump CPL_RNG_missed 1 0 p
    if n = 1 then d.cplRec p 0xB001 4 n else if n = 16 then d.cplRec p 0xB002 6 n else d

/-- A release ends the running job (R310). -/
def Dev.cplRelease (d : Dev) (p : Nat) : Dev :=
  match (d.cplOf p).job with
  | none => d
  | some j => ((d.jobSmear j.owner j.dst j.dstLen).cplRec p 0xB005 3 j.owner).cplEnd p .aborted

/-- Register words of a page from `lo` up to `hi` return to reset. -/
def Dev.resetRegs (d : Dev) (page lo hi : Nat) : Dev :=
  { d with regs := d.regs.drop (fun k => decide (regKey page lo ≤ k) && decide (k < regKey page hi)) }

/-- The clear that follows a change of owner (R309): key, chaining state, job registers, key_ready, chain_open; the generator is reseeded
where TRN can supply it (log entry 354). -/
def Dev.cplClear (d : Dev) (p : Nat) : Dev :=
  let d := (d.resetRegs (pgCPL p) 0x040 0x0A4).setCpl p { gen := (d.cplOf p).gen }
  let d := if d.flag TRN_STAT_drbg_ready then d.cplSeed p else d
  ((d.wr CPL_STAT_key_ready 0 0 p).wr CPL_STAT_chain_open 0 0 p)

def Dev.cplWrite (d : Dev) (p off v : Nat) : Status × Dev :=
  if off = 0x0A4 then d.cplCmd p v
  else if 0x040 ≤ off ∧ off < 0x064 then d.cplKeyWrite p off v
  else d.plainWrite (pgCPL p) off v

end Sys2Proof.Machine
end

