-- ==== Sys2Proof/Machine/PubKey.lean ====
section
/-! DEFINITION. The public-key algorithms the spec cites and does not repeat: elliptic curves (FIPS 186-5, SP 800-56A),
RSA (RFC 8017) and SLH-DSA (FIPS 205). As in Crypto.lean they are this model's own reading of those standards
(PRESUMED, log entry 20). -/

namespace Sys2Proof.Machine

open Sys2Proof

/-! ### Modular arithmetic -/

/-- b^e mod m, walking `n` bits of the exponent. -/
def powModGo (m : Nat) : Nat → Nat → Nat → Nat → Nat
  | 0, _, _, acc => acc
  | n + 1, b, e, acc => powModGo m n (b * b % m) (e / 2) (if e % 2 = 1 then acc * b % m else acc)
def powMod (b e m : Nat) : Nat := powModGo m (Nat.log2 e + 1) (b % m) e (1 % m)

/-- a^(m-2) mod m, the inverse modulo a prime. -/
def invMod (a m : Nat) : Nat := powMod a (m - 2) m
def subMod (a b m : Nat) : Nat := (a % m + m - b % m) % m

/-- Extended Euclid with bounded steps: the coefficient of `a`. -/
def egcd : Nat → Int → Int → Int → Int → Int
  | 0, _, _, x, _ => x
  | n + 1, a, b, x, y => if b = 0 then x else egcd n b (a % b) y (x - a / b * y)

/-- The inverse of `a` modulo a modulus that need not be prime. -/
def invAny (a m : Nat) : Nat := (egcd (4 * (Nat.log2 m + 2)) a m 1 0 % m).toNat

/-! ### Elliptic curves -/

/-- A curve y² = x³ - 3x + b. -/
structure Curve where
  bits : Nat
  p : Nat
  n : Nat
  b : Nat
  gx : Nat
  gy : Nat

def p256 : Curve :=
  { bits := 256, p := 2 ^ 256 - 2 ^ 224 + 2 ^ 192 + 2 ^ 96 - 1,
    n := 0xFFFFFFFF00000000FFFFFFFFFFFFFFFFBCE6FAADA7179E84F3B9CAC2FC632551,
    b := 0x5AC635D8AA3A93E7B3EBBD55769886BC651D06B0CC53B0F63BCE3C3E27D2604B,
    gx := 0x6B17D1F2E12C4247F8BCE6E563A440F277037D812DEB33A0F4A13945D898C296,
    gy := 0x4FE342E2FE1A7F9B8EE7EB4A7C0F9E162BCE33576B315ECECBB6406837BF51F5 }
def p384 : Curve :=
  { bits := 384, p := 2 ^ 384 - 2 ^ 128 - 2 ^ 96 + 2 ^ 32 - 1,
    n := 0xFFFFFFFFFFFFFFFFFFFFFFFFFFFFFFFFFFFFFFFFFFFFFFFFC7634D81F4372DDF581A0DB248B0A77AECEC196ACCC52973,
    b := 0xB3312FA7E23EE7E4988E056BE3F82D19181D9C6EFE8141120314088F5013875AC656398D8A2ED19D2A85C8EDD3EC2AEF,
    gx := 0xAA87CA22BE8B05378EB1C71EF320AD746E1D3B628BA79B9859F741E082542A385502F25DBF55296C3A545E3872760AB7,
    gy := 0x3617DE4A96262C6F5D9E98BF9292DC29F8F41DBD289A147CE9DA3113B5F0B8C00A60B1CE1D7E819D7A431D7C90EA0E5F }

/-- The curve of a set number (R328). -/
def curveOf (set : Nat) : Curve := if set = 0 then p256 else p384

/-- An affine point; none at infinity. -/
abbrev Point := Option (Nat × Nat)

def Curve.on (c : Curve) (x y : Nat) : Bool :=
  decide (x < c.p) && decide (y < c.p) && y * y % c.p == (x * x * x + (c.p - 3) * x + c.b) % c.p

def Curve.lineTo (c : Curve) (l x1 y1 x2 : Nat) : Point :=
  let x := subMod (l * l) (x1 + x2) c.p
  some (x, subMod (l * subMod x1 x c.p) y1 c.p)

def Curve.add (c : Curve) (a b : Point) : Point :=
  match a, b with
  | none, q => q
  | q, none => q
  | some (x1, y1), some (x2, y2) =>
    if x1 = x2 then
      if (y1 + y2) % c.p = 0 then none
      else c.lineTo ((3 * x1 * x1 + (c.p - 3)) * invMod (2 * y1) c.p % c.p) x1 y1 x2
    else c.lineTo (subMod y2 y1 c.p * invMod (subMod x2 x1 c.p) c.p % c.p) x1 y1 x2

/-- k·a, walking `n` bits of k. -/
def Curve.mulGo (c : Curve) : Nat → Nat → Point → Point → Point
  | 0, _, _, acc => acc
  | n + 1, k, a, acc => c.mulGo n (k / 2) (c.add a a) (if k % 2 = 1 then c.add acc a else acc)
def Curve.mul (c : Curve) (k : Nat) (a : Point) : Point := c.mulGo (Nat.log2 k + 1) k a none
def Curve.g (c : Curve) : Point := some (c.gx, c.gy)

/-- The integer of a digest: its leftmost bits, as many as the group order has (FIPS 186-5). -/
def Curve.digest (c : Curve) (h : List Byte) : Nat := beValue h / 2 ^ (8 * h.length - c.bits)

/-- ECDSA with the nonce k: (r, s). -/
def Curve.sign (c : Curve) (d e k : Nat) : Nat × Nat :=
  match c.mul k c.g with
  | none => (0, 0)
  | some (x, _) => let r := x % c.n; (r, invMod k c.n * (e + r * d) % c.n)

/-- ECDSA verification. -/
def Curve.verify (c : Curve) (qx qy e r s : Nat) : Bool :=
  let w := invMod s c.n
  c.on qx qy && decide (0 < r) && decide (r < c.n) && decide (0 < s) && decide (s < c.n) &&
    match c.add (c.mul (e * w % c.n) c.g) (c.mul (r * w % c.n) (some (qx, qy))) with
    | none => false
    | some (x, _) => x % c.n == r

/-- A scalar from 1 to n - 1 of a random number with 64 extra bits (FIPS 186-5). -/
def Curve.scalar (c : Curve) (v : Nat) : Nat := v % 2 ^ (c.bits + 64) % (c.n - 1) + 1

/-! ### RSA (RFC 8017) -/

def xorList (a b : List Byte) : List Byte := List.zipWith (· ^^^ ·) a b

/-- The hash of h = 32 or 48 bytes. -/
def rsaHash (h : Nat) (m : List Byte) : List Byte := if h = 32 then sha256 m else sha384 m

/-- The DigestInfo prefix of SHA-256 and SHA-384. -/
def digestInfo (h : Nat) : List Byte :=
  [0x30, BitVec.ofNat 8 (h + 17), 0x30, 0x0D, 0x06, 0x09, 0x60, 0x86, 0x48, 0x01, 0x65, 0x03, 0x04, 0x02,
    if h = 32 then 1 else 2, 0x05, 0x00, 0x04, BitVec.ofNat 8 h]

/-- EMSA-PKCS1-v1_5 in `k` bytes. -/
def emsaV15 (k : Nat) (h : List Byte) : List Byte :=
  let t := digestInfo h.length ++ h
  [0x00, 0x01] ++ List.replicate (k - t.length - 3) 0xFF ++ [0x00] ++ t

/-- MGF1. -/
def mgf1 (h : Nat) (seed : List Byte) (n : Nat) : List Byte :=
  (((List.range (ceilDiv n h)).map (fun i => rsaHash h (seed ++ beBytes i 4))).flatten).take n

/-- EMSA-PSS encoding for a modulus of 8k bits, whose encoded message has 8k - 1 bits. -/
def emsaPss (k : Nat) (h salt : List Byte) : List Byte :=
  let n := h.length
  let hh := rsaHash n (zeros 8 ++ h ++ salt)
  let db := zeros (k - 2 * n - 2) ++ [0x01] ++ salt
  let m := xorList db (mgf1 n hh (k - n - 1))
  match m with
  | [] => []
  | b :: bs => (b &&& 0x7F#8) :: bs ++ hh ++ [0xBC]

/-- EMSA-PSS verification. -/
def emsaPssOk (k : Nat) (h em : List Byte) : Bool :=
  let n := h.length
  let hh := slice em (k - n - 1) n
  let db := xorList (em.take (k - n - 1)) (mgf1 n hh (k - n - 1))
  let db := match db with | [] => [] | b :: bs => (b &&& 0x7F#8) :: bs
  em.length == k && em.getLastD 0 == 0xBC && (byteAt em 0).toNat < 128 &&
    (db.take (k - 2 * n - 2)).all (· == 0) && byteAt db (k - 2 * n - 2) == 1 &&
    rsaHash n (zeros 8 ++ h ++ db.drop (k - 2 * n - 1)) == hh

/-- RSADP by the Chinese remainder theorem, from p, q, dP, dQ, qInv. -/
def rsaPrivate (key : List Nat) (m : Nat) : Nat :=
  match key with
  | [p, q, dp, dq, qi] =>
    let m1 := powMod m dp p
    let m2 := powMod m dq q
    m2 + q * (subMod m1 m2 p * qi % p)
  | _ => 0

/-! ### SLH-DSA-SHAKE-256s and -256f (FIPS 205) -/

/-- A parameter set: h, d, a, k, the digest bytes m; n is 32 and w is 16. -/
structure SlhPar where
  h : Nat
  d : Nat
  a : Nat
  k : Nat
  m : Nat

def slhS : SlhPar := { h := 64, d := 8, a := 14, k := 22, m := 47 }
def slhF : SlhPar := { h := 68, d := 17, a := 9, k := 35, m := 49 }
def slhOf (set : Nat) : SlhPar := if set = 0 then slhS else slhF
def SlhPar.hp (p : SlhPar) : Nat := p.h / p.d

/-- Signature bytes: 29,792 and 49,856. -/
def SlhPar.sigLen (p : SlhPar) : Nat := 32 * (1 + p.k * (p.a + 1) + p.h + p.d * 67)

/-- An address: layer, tree, type and three words. -/
structure Adrs where
  layer : Nat := 0
  tree : Nat := 0
  typ : Nat := 0
  w1 : Nat := 0
  w2 : Nat := 0
  w3 : Nat := 0

def Adrs.bytes (a : Adrs) : List Byte :=
  beBytes a.layer 4 ++ beBytes a.tree 12 ++ beBytes a.typ 4 ++ beBytes a.w1 4 ++ beBytes a.w2 4 ++ beBytes a.w3 4

/-- F, H, T_l and PRF are one hash of seed, address and message. -/
def slhH (seed : List Byte) (a : Adrs) (m : List Byte) : List Byte := shake256 (seed ++ a.bytes ++ m) 32

/-- The numbers of `b` bits in a byte string, `n` of them. -/
def base2b (x : List Byte) (b n : Nat) : List Nat :=
  let v := beValue x
  (List.range n).map (fun i => v / 2 ^ (8 * x.length - b * (i + 1)) % 2 ^ b)

/-- The chain of WOTS+ from position i, s steps. -/
def wotsChain (seed : List Byte) (a : Adrs) (x : List Byte) (i : Nat) : Nat → List Byte
  | 0 => x
  | s + 1 => wotsChain seed a (slhH seed { a with w3 := i } x) (i + 1) s

/-- The 67 digits of a message: 64 and a checksum of 3. -/
def wotsDigits (m : List Byte) : List Nat :=
  let l := base2b m 4 64
  let c := l.foldl (fun c x => c + (15 - x)) 0
  l ++ base2b (beBytes (c * 16) 2) 4 3

/-- The public key of a WOTS+ key pair from its 67 chain ends. -/
def wotsPk (seed : List Byte) (a : Adrs) (ends : List (List Byte)) : List Byte :=
  slhH seed { a with typ := 1, w2 := 0, w3 := 0 } ends.flatten

def wotsSecret (seed sk : List Byte) (a : Adrs) (i : Nat) : List Byte :=
  slhH seed { a with typ := 5, w2 := i, w3 := 0 } sk

def wotsGen (seed sk : List Byte) (a : Adrs) : List Byte :=
  wotsPk seed a ((List.range 67).map (fun i => wotsChain seed { a with typ := 0, w2 := i } (wotsSecret seed sk a i) 0 15))

def wotsSign (seed sk : List Byte) (a : Adrs) (m : List Byte) : List (List Byte) :=
  (wotsDigits m).mapIdx (fun i n => wotsChain seed { a with typ := 0, w2 := i } (wotsSecret seed sk a i) 0 n)

def wotsFromSig (seed : List Byte) (a : Adrs) (sig : List (List Byte)) (m : List Byte) : List Byte :=
  wotsPk seed a ((wotsDigits m).mapIdx (fun i n => wotsChain seed { a with typ := 0, w2 := i } (sig.getD i []) n (15 - n)))

/-- A node of an XMSS tree at height z. -/
def xmssNode (seed sk : List Byte) (a : Adrs) (i : Nat) : Nat → List Byte
  | 0 => wotsGen seed sk { a with typ := 0, w1 := i, w2 := 0, w3 := 0 }
  | z + 1 => slhH seed { a with typ := 2, w1 := 0, w2 := z + 1, w3 := i }
      (xmssNode seed sk a (2 * i) z ++ xmssNode seed sk a (2 * i + 1) z)

/-- The root over an authentication path from a node of index `i` at height `z`; `off` numbers the tree's leaves. -/
def pathUp (seed : List Byte) (a : Adrs) : List (List Byte) → Nat → Nat → Nat → List Byte → List Byte
  | [], _, _, _, x => x
  | s :: ss, i, z, pos, x =>
    let n := slhH seed { a with w2 := z + 1, w3 := i / 2 } (if pos % 2 = 0 then x ++ s else s ++ x)
    pathUp seed a ss (i / 2) (z + 1) (pos / 2) n

def xmssSign (seed sk : List Byte) (a : Adrs) (hp idx : Nat) (m : List Byte) : List (List Byte) :=
  wotsSign seed sk { a with typ := 0, w1 := idx, w2 := 0, w3 := 0 } m ++
    (List.range hp).map (fun j => xmssNode seed sk a ((idx / 2 ^ j) ^^^ 1) j)

def xmssFromSig (seed : List Byte) (a : Adrs) (idx : Nat) (sig : List (List Byte)) (m : List Byte) : List Byte :=
  pathUp seed { a with typ := 2, w1 := 0 } (sig.drop 67) idx 0 idx
    (wotsFromSig seed { a with typ := 0, w1 := idx, w2 := 0, w3 := 0 } (sig.take 67) m)

/-- The hypertree's layers: signatures and the root reached, from layer `j` on. -/
def htSign (seed sk : List Byte) (hp : Nat) : Nat → Nat → Nat → Nat → List Byte → List (List Byte)
  | 0, _, _, _, _ => []
  | n + 1, j, tree, leaf, m =>
    let a : Adrs := { layer := j, tree := tree }
    let sig := xmssSign seed sk a hp leaf m
    sig ++ htSign seed sk hp n (j + 1) (tree / 2 ^ hp) (tree % 2 ^ hp) (xmssFromSig seed a leaf sig m)

def htRoot (seed : List Byte) (hp : Nat) : Nat → Nat → Nat → Nat → List (List Byte) → List Byte → List Byte
  | 0, _, _, _, _, m => m
  | n + 1, j, tree, leaf, sig, m =>
    htRoot seed hp n (j + 1) (tree / 2 ^ hp) (tree % 2 ^ hp) (sig.drop (67 + hp))
      (xmssFromSig seed { layer := j, tree := tree } leaf (sig.take (67 + hp)) m)

def forsSecret (seed sk : List Byte) (a : Adrs) (i : Nat) : List Byte :=
  slhH seed { a with typ := 6, w2 := 0, w3 := i } sk

def forsNode (seed sk : List Byte) (a : Adrs) (i : Nat) : Nat → List Byte
  | 0 => slhH seed { a with w2 := 0, w3 := i } (forsSecret seed sk a i)
  | z + 1 => slhH seed { a with w2 := z + 1, w3 := i }
      (forsNode seed sk a (2 * i) z ++ forsNode seed sk a (2 * i + 1) z)

def forsSign (p : SlhPar) (seed sk : List Byte) (a : Adrs) (md : List Byte) : List (List Byte) :=
  ((base2b md p.a p.k).mapIdx (fun i x =>
    forsSecret seed sk a (i * 2 ^ p.a + x) ::
      (List.range p.a).map (fun j => forsNode seed sk a (i * 2 ^ (p.a - j) + ((x / 2 ^ j) ^^^ 1)) j))).flatten

def forsFromSig (p : SlhPar) (seed : List Byte) (a : Adrs) (sig : List (List Byte)) (md : List Byte) : List Byte :=
  slhH seed { a with typ := 4, w2 := 0, w3 := 0 } (((base2b md p.a p.k).mapIdx (fun i x =>
    let s := (sig.drop (i * (p.a + 1))).take (p.a + 1)
    let idx := i * 2 ^ p.a + x
    pathUp seed a (s.drop 1) idx 0 x (slhH seed { a with w2 := 0, w3 := idx } (s.headD [])))).flatten)

/-- The FORS digest, tree and leaf of a message. -/
def SlhPar.split (p : SlhPar) (r seed root m : List Byte) : List Byte × Nat × Nat :=
  let dg := shake256 (r ++ seed ++ root ++ m) p.m
  let a := (p.k * p.a + 7) / 8
  let b := (p.h - p.hp + 7) / 8
  (dg.take a, beValue (slice dg a b) % 2 ^ (p.h - p.hp), beValue (slice dg (a + b) ((p.hp + 7) / 8)) % 2 ^ p.hp)

/-- The message of pure signing, with its context string. -/
def slhMessage (ctx m : List Byte) : List Byte := [0x00, BitVec.ofNat 8 ctx.length] ++ ctx ++ m

/-- A signature by SK = SK.seed ‖ SK.prf ‖ PK.seed ‖ PK.root; none for `rnd` signs deterministically. -/
def slhSignTwo (p : SlhPar) (sk ctx m0 m : List Byte) (rnd : Option (List Byte)) : List Byte :=
  let seed := slice sk 64 32
  let mm := slhMessage ctx m
  let r := shake256 (slice sk 32 32 ++ rnd.getD seed ++ slhMessage ctx m0) 32
  let (md, tree, leaf) := p.split r seed (slice sk 96 32) mm
  let a : Adrs := { tree := tree, typ := 3, w1 := leaf }
  let fs := forsSign p seed (sk.take 32) a md
  let pk := forsFromSig p seed a fs md
  (r :: fs ++ htSign seed (sk.take 32) p.hp p.d 0 tree leaf pk).flatten

/-- A signature over a message that does not change. -/
def slhSign (p : SlhPar) (sk ctx m : List Byte) (rnd : Option (List Byte)) : List Byte := slhSignTwo p sk ctx m m rnd

/-- Verification under PK = PK.seed ‖ PK.root. -/
def slhVerify (p : SlhPar) (pk ctx m sig : List Byte) : Bool :=
  let seed := pk.take 32
  let root := slice pk 32 32
  let mm := slhMessage ctx m
  let parts := chunks 32 sig
  let (md, tree, leaf) := p.split (parts.headD []) seed root mm
  let fs := (parts.drop 1).take (p.k * (p.a + 1))
  let pk' := forsFromSig p seed { tree := tree, typ := 3, w1 := leaf } fs md
  sig.length == p.sigLen && htRoot seed p.hp p.d 0 tree leaf (parts.drop (1 + p.k * (p.a + 1))) pk' == root

/-- PK.root of SK.seed and PK.seed. -/
def slhRoot (p : SlhPar) (skSeed pkSeed : List Byte) : List Byte :=
  xmssNode pkSeed skSeed { layer := p.d - 1 } 0 p.hp

end Sys2Proof.Machine
end

