-- ==== Sys2Proof/Machine/Pke.lean ====
section
/-! DEFINITION. The asymmetric engine: operand memory and slots, commands and contexts, release check, randomness, run and
yield mode (R324 to R339, R342). -/

namespace Sys2Proof.Machine

open Sys2Proof

def pgPKE : Nat := 0x078
def pgHSH : Nat := 0x079

/-! ### Operand memory (R324 to R326) -/

/-- The slot length in words, and the number of slots. -/
def Dev.pkeW (d : Dev) : Nat := d.rd PKE_CFG_slot_words
def Dev.pkeSlots (d : Dev) : Nat := 8192 / d.pkeW

/-- The half-words of the memory: two to a word. -/
def Dev.pkeHalf (d : Dev) (i : Nat) : Nat := (d.pke.mem.get i 0).toNat
def Dev.setPkeHalf (d : Dev) (i v : Nat) : Dev :=
  { d with pke := { d.pke with mem := d.pke.mem.set i (BitVec.ofNat 32 v) 0 } }

/-- The first half-word of a slot. -/
def Dev.pkeBase (d : Dev) (slot : Nat) : Nat := slot * d.pkeW * 2

/-- A slot as bytes, byte 0 at the lowest address; an integer is their little-endian value (R325). -/
def Dev.pkeBytes (d : Dev) (slot : Nat) : List Byte :=
  ((List.range (2 * d.pkeW)).map (fun i => leBytes (d.pkeHalf (d.pkeBase slot + i)) 4)).flatten
def Dev.pkeInt (d : Dev) (slot : Nat) : Nat := leValue (d.pkeBytes slot)

/-- Writes a slot, zeros above the operand (R325). -/
def Dev.pkePut (d : Dev) (slot v : Nat) : Dev :=
  (List.range (2 * d.pkeW)).foldl (fun d i => d.setPkeHalf (d.pkeBase slot + i) (v / 2 ^ (32 * i) % 2 ^ 32)) d
def Dev.pkePutBytes (d : Dev) (slot : Nat) (bs : List Byte) : Dev := d.pkePut slot (leValue bs)

/-! ### Contexts (R327) -/

def Dev.pkeCtx (d : Dev) (k : Nat) : PkeCtx := d.pke.ctx.get k {}
def Dev.setPkeCtx (d : Dev) (k : Nat) (c : PkeCtx) : Dev := { d with pke := { d.pke with ctx := d.pke.ctx.set k c {} } }

def PkeCtx.op (c : PkeCtx) : Nat := bitsOf c.cmd 7 0
def PkeCtx.set (c : PkeCtx) : Nat := bitsOf c.cmd 11 8
def PkeCtx.urgent (c : PkeCtx) : Bool := c.cmd.testBit 12
def PkeCtx.det (c : PkeCtx) : Bool := c.cmd.testBit 13
def PkeCtx.ksrc (c : PkeCtx) : Bool := c.cmd.testBit 14
def PkeCtx.kout (c : PkeCtx) : Bool := c.cmd.testBit 15
def PkeCtx.ctxLen (c : PkeCtx) : Nat := bitsOf c.cmd 23 16
def PkeCtx.vslot (c : PkeCtx) : Nat := bitsOf c.cmd 31 24
def PkeCtx.h (c : PkeCtx) : Nat := if c.size.testBit 31 then 48 else 32
def PkeCtx.enc (c : PkeCtx) : Nat := bitsOf c.size 29 28
def PkeCtx.eWords (c : PkeCtx) : Nat := bitsOf c.size 22 16 + 1
def PkeCtx.mWords (c : PkeCtx) : Nat := bitsOf c.size 7 0
def PkeCtx.a (c : PkeCtx) (k : Nat) : Nat := c.args.getD k 0

/-- Pending, running or suspended. -/
def PkeCtx.active (c : PkeCtx) : Bool := c.state == 1 || c.state == 2 || c.state == 3

def Dev.pkeAnyActive (d : Dev) : Bool := (d.pkeCtx 0).active || (d.pkeCtx 1).active
def Dev.pkeRunning (d : Dev) : Option Nat :=
  if (d.pkeCtx 0).state = 2 then some 0 else if (d.pkeCtx 1).state = 2 then some 1 else none

/-- STATUS.busy: a job runs or the operand memory is being cleared. -/
def Dev.pkeBusyBit (d : Dev) : Dev := d.wr STATUS_busy (b2n (d.pkeRunning.isSome || d.pke.clearing)) 0 pgPKE

/-! ### Operations (R328) -/

/-- Words of a curve element and of an RSA modulus. -/
def PkeCtx.ecWords (c : PkeCtx) : Nat := if c.set = 0 then 4 else 6
def PkeCtx.rsaWords (c : PkeCtx) : Nat := match c.set with | 0 => 32 | 1 => 48 | _ => 64

/-- How a slot is used: its length in words, whether the job outputs it, whether it holds an integer. -/
structure PkeArg where
  slot : Nat
  words : Nat
  out : Bool
  int : Bool

def PkeCtx.inp (c : PkeCtx) (k w : Nat) : PkeArg := ⟨c.a k, w, false, true⟩
def PkeCtx.oct (c : PkeCtx) (k w : Nat) : PkeArg := ⟨c.a k, w, false, false⟩
def PkeCtx.outp (c : PkeCtx) (k w : Nat) : PkeArg := ⟨c.a k, w, true, true⟩

/-- The five slots of an RSA private key. -/
def PkeCtx.rsaKey (c : PkeCtx) (out : Bool) : List PkeArg :=
  (List.range 5).map (fun i => ⟨c.a 0 + i, c.rsaWords / 2, out, true⟩)

/-- The slots a job names. -/
def PkeCtx.slots (c : PkeCtx) : List PkeArg :=
  let ec := c.ecWords
  let rs := c.rsaWords
  let m := c.mWords
  match c.op with
  | 0x01 => (if c.ksrc then [c.outp 2 ec, c.outp 3 ec] else [c.inp 0 ec, c.inp 2 ec, c.inp 3 ec]) ++
      [c.oct 1 (c.h / 8), c.outp 4 ec, c.outp 5 ec]
  | 0x02 => [c.oct 1 (c.h / 8), c.inp 2 ec, c.inp 3 ec, c.inp 4 ec, c.inp 5 ec]
  | 0x03 => (if c.kout then [] else [c.outp 0 ec]) ++ [c.outp 2 ec, c.outp 3 ec]
  | 0x04 => (if c.ksrc then [] else [c.inp 0 ec]) ++ [c.inp 2 ec, c.inp 3 ec, c.outp 4 ec]
  | 0x05 => (if c.ksrc then [] else c.rsaKey false) ++
      [c.inp 1 rs, c.inp 2 rs, if c.enc = 0 then c.inp 3 rs else c.oct 3 (c.h / 8), c.outp 4 rs]
  | 0x06 => [c.inp 1 rs, c.inp 2 rs, if c.enc = 0 then c.inp 3 rs else c.oct 3 (c.h / 8), c.inp 4 rs]
  | 0x07 => (if c.kout then [] else c.rsaKey true) ++ [c.outp 1 rs, c.outp 2 rs]
  | 0x08 => (if c.ksrc then [] else [c.oct 0 16]) ++ [c.oct 1 (ceilDiv c.ctxLen 8)]
  | 0x09 => [c.oct 1 (ceilDiv c.ctxLen 8), c.oct 2 8]
  | 0x0A => (if c.kout then [] else [c.outp 0 16]) ++ [c.outp 2 8]
  | 0x10 => [c.inp 0 m, c.inp 1 m, c.inp 2 m, c.outp 3 m]
  | 0x11 => [c.inp 0 m, c.inp 1 m, c.inp 2 m, c.outp 3 m]
  | 0x12 => [c.inp 0 m, c.inp 1 m, c.inp 2 m, c.outp 3 m]
  | 0x13 => [c.inp 0 m, c.inp 1 c.eWords, c.inp 2 m, c.outp 3 m]
  | 0x14 => [c.inp 0 m, c.inp 2 m, c.outp 3 m]
  | 0x15 => [c.inp 0 m, c.inp 1 m, c.inp 2 m, c.outp 3 m]
  | _ => []

/-- The op and set are known. -/
def PkeCtx.known (c : PkeCtx) : Bool :=
  match c.op with
  | 0x01 | 0x02 | 0x03 | 0x04 | 0x08 | 0x09 | 0x0A => decide (c.set ≤ 1)
  | 0x05 | 0x06 | 0x07 => decide (c.set ≤ 2) && decide (c.enc ≤ 2)
  | 0x10 | 0x11 | 0x12 | 0x13 | 0x14 | 0x15 => c.set == 0 && decide (1 ≤ c.mWords) && decide (c.mWords ≤ 128)
  | _ => false

/-- The values that must be below a bound: a scalar, a coordinate, a value under a modulus (R325). -/
def Dev.pkeBounds (d : Dev) (c : PkeCtx) : List (Nat × Nat) :=
  let cv := curveOf c.set
  let v (k : Nat) : Nat := d.pkeInt (c.a k)
  match c.op with
  | 0x01 => if c.ksrc then [] else [(v 0, cv.n), (v 2, cv.p), (v 3, cv.p)]
  | 0x02 => [(v 2, cv.p), (v 3, cv.p), (v 4, cv.n), (v 5, cv.n)]
  | 0x04 => (if c.ksrc then [] else [(v 0, cv.n)]) ++ [(v 2, cv.p), (v 3, cv.p)]
  | 0x05 => if c.enc = 0 then [(v 3, v 1)] else []
  | 0x06 => (if c.enc = 0 then [(v 3, v 1)] else []) ++ [(v 4, v 1)]
  | 0x10 => [(v 0, v 2), (v 1, v 2)]
  | 0x11 => [(v 0, v 2), (v 1, v 2)]
  | 0x12 => [(v 0, v 2), (v 1, v 2)]
  | 0x13 => [(v 0, v 2)]
  | 0x14 => [(v 0, v 2)]
  | _ => []

/-- A slot out of range, an operand longer than a slot, words above an integer that are not zero, or a value that is not
reduced (R324, R325). -/
def Dev.pkeOperandBad (d : Dev) (c : PkeCtx) : Bool :=
  c.slots.any (fun a => decide (d.pkeSlots ≤ a.slot) || decide (d.pkeW < a.words) ||
    (a.int && !a.out && decide (2 ^ (64 * a.words) ≤ d.pkeInt a.slot))) ||
  (d.pkeBounds c).any (fun b => decide (b.2 ≤ b.1))

/-- The vault type, and the use, that a private key of this job needs (R329, R345). -/
def PkeCtx.vaultType (c : PkeCtx) : Nat :=
  match c.op with
  | 0x05 | 0x07 => 7
  | 0x08 | 0x0A => if c.set = 0 then 8 else 9
  | _ => if c.set = 0 then 5 else 6
def PkeCtx.keyGen (c : PkeCtx) : Bool := c.op == 0x03 || c.op == 0x07 || c.op == 0x0A
def PkeCtx.privateOp (c : PkeCtx) : Bool := c.op == 0x01 || c.op == 0x04 || c.op == 0x05 || c.op == 0x08
def PkeCtx.vaultUse (c : PkeCtx) : Option Nat :=
  if c.keyGen && c.kout then some 27
  else if c.privateOp && c.ksrc then some (if c.op = 0x04 then 25 else 24)
  else none

/-- The vault refuses the job. -/
def Dev.pkeVaultDenied (d : Dev) (c : PkeCtx) : Bool :=
  match c.vaultUse with
  | none => false
  | some u => !d.slotPermits c.vslot c.owner [u] || (d.slotOf c.vslot).type != c.vaultType

def PkeCtx.slh (c : PkeCtx) : Bool := c.op == 0x08 || c.op == 0x09 || c.op == 0x0A

/-- An address range of the job is out of reach (R327). -/
def Dev.pkeReachBad (d : Dev) (c : PkeCtx) : Bool :=
  let sig := (slhOf c.set).sigLen
  match c.op with
  | 0x08 => d.reach c.owner false c.msg c.msgLen != .ok || d.reach c.owner true c.dst sig != .ok
  | 0x09 => d.reach c.owner false c.msg c.msgLen != .ok || d.reach c.owner false c.src sig != .ok
  | _ => false

/-- An engine owner's addresses have no bits above 31. -/
def PkeCtx.addrHigh (c : PkeCtx) : Bool :=
  isEngId c.owner && (decide (2 ^ 32 ≤ c.msg) || decide (2 ^ 32 ≤ c.src) || decide (2 ^ 32 ≤ c.dst))

/-- The job draws random bits (R332). -/
def PkeCtx.random (c : PkeCtx) : Bool :=
  match c.op with
  | 0x01 | 0x03 | 0x04 | 0x05 | 0x07 | 0x0A => true
  | 0x08 => !c.det
  | _ => false

/-- The staged command. -/
def Dev.pkeStaged (d : Dev) : PkeCtx :=
  { cmd := d.rdWord PKE_CMD_op, args := (List.range 6).map (fun k => d.rd PKE_ARGk_slot k), size := d.rdWord PKE_SIZE_hash,
    msg := d.rd64 PKE_MSG_LO_addr PKE_MSG_HI_addr_hi, msgLen := d.rd PKE_MSG_LEN_len,
    src := d.rd64 PKE_SRC_LO_addr PKE_SRC_HI_addr_hi, dst := d.rd64 PKE_DST_LO_addr PKE_DST_HI_addr_hi,
    owner := d.rd LOCK_owner 0 pgPKE }

/-- The lowest-numbered free context; run mode uses only context 0. -/
def Dev.pkeFree (d : Dev) : Option Nat :=
  if (d.pkeCtx 0).state = 0 then some 0
  else if (d.pkeCtx 1).state = 0 && d.flag PKE_CFG_yield then some 1 else none

def Dev.pkeRec (d : Dev) (code sev k p2 : Nat) : Dev := d.rated pgPKE code k sev k p2

/-- A pending job starts; its random bits come at once when TRN supplies them (R332). Its scratch bank takes what it works with, a free
value, and an SLH-DSA sign reads its message for PRF_msg (R331). -/
def Dev.pkeStart (d : Dev) (k : Nat) : Dev :=
  let c := d.pkeCtx k
  let (bank, d) := d.draw .random
  let d := { d with pke := { d.pke with scratch := d.pke.scratch.set k bank 0 } }
  let (st, m, d) := if c.op = 0x08 then d.jobRead c.owner c.msg c.msgLen else (.ok, [], d)
  (d.setPkeCtx k { c with
    state := 2, since := d.cclk, supplied := !c.random || d.flag TRN_STAT_drbg_ready, early := m, earlySt := st }).pkeBusyBit

/-- An output slot that the other context names too. -/
def Dev.pkeShared (d : Dev) (k : Nat) (c : PkeCtx) : Bool :=
  let o := d.pkeCtx (1 - k)
  o.active && c.slots.any (fun a => a.out && o.slots.any (fun b => b.slot == a.slot))

/-- go (R327, R331, R334). `res`: reserved bits of PKE_GO were written with it (log entry 481). -/
def Dev.pkeGo (d : Dev) (res : Bool) : Status × Dev :=
  let c := d.pkeStaged
  let free := d.pkeFree
  let k := free.getD 0
  let vault := d.pkeVaultDenied c
  let denied := vault || d.pkeReachBad c
  let slhBusy := c.op == 0x08 && ((d.pkeCtx 0).active && (d.pkeCtx 0).op == 0x08 || (d.pkeCtx 1).active && (d.pkeCtx 1).op == 0x08)
  let busy := free.isNone || (!d.flag PKE_CFG_yield && d.pkeRunning.isSome) || slhBusy || d.pke.clearing
  let noUrgent := c.urgent && (c.op == 0x07 || c.op == 0x08 || c.op == 0x0A)
  let bad := res || !c.known || d.pkeOperandBad c || d.pkeShared k c || noUrgent || c.addrHigh
  let st := pickStatus [if busy then .busy else .ok, if denied then .denied else .ok, if bad then .badParam else .ok,
    if c.slh && !d.flag STATUS_enabled 0 pgHSH then .notReady else .ok]
  let d := if vault then d.pkeRec 0xB013 4 k c.vslot else d
  if st ≠ .ok then (st, d)
  else
    let idle := d.pkeRunning.isNone
    let d := (d.setPkeCtx k { c with state := 1 }).wr PKE_STAT_last_ctx k
    (.ok, if idle then d.pkeStart k else d)

/-- A running non-urgent job gives way to a pending urgent one at its yield point (R334). -/
def Dev.pkePreempt (d : Dev) : Dev :=
  match d.pkeRunning with
  | none => d
  | some k =>
    let c := d.pkeCtx k
    let o := d.pkeCtx (1 - k)
    if d.flag PKE_CFG_yield && !c.urgent && o.state == 1 && o.urgent then
      ((d.setPkeCtx k { c with state := 3 }).bump PKE_STAT_preempt).pkeStart (1 - k)
    else d

/-- After a context leaves: a suspended job resumes, else a pending one starts. -/
def Dev.pkeNext (d : Dev) (k : Nat) : Dev :=
  let o := d.pkeCtx (1 - k)
  if d.pkeRunning.isSome then d
  else if o.state = 3 then (d.setPkeCtx (1 - k) { o with state := 2 }).pkeBusyBit
  else if o.state = 1 then d.pkeStart (1 - k)
  else d.pkeBusyBit

/-- A job ends with a status: the context is done (R333, R334). -/
def Dev.pkeEnd (d : Dev) (k : Nat) (st : Status) : Dev :=
  let c := d.pkeCtx k
  let d := (d.setPkeCtx k { state := 4, status := st.code, cmd := c.cmd }).wr STATUS_last_status st.code 0 pgPKE
  (d.irq pgPKE k).pkeNext k

/-- Clearing of the operand memory begins (R324, R333). -/
def Dev.pkeWipe (d : Dev) : Dev :=
  ({ d with pke := { d.pke with mem := [], clearing := true, release := [], scratch := [] } }).pkeBusyBit

/-- The clear ends. -/
def Dev.pkeWiped (d : Dev) : Dev :=
  if d.pke.clearing then ({ d with pke := { d.pke with clearing := false } }).pkeBusyBit else d

/-- Zeros in every output slot. -/
def Dev.pkeZeroOut (d : Dev) (c : PkeCtx) : Dev :=
  (c.slots.filter (·.out)).foldl (fun d a => d.pkePut a.slot 0) d

/-- The destination range of an SLH-DSA signature becomes undefined. -/
def Dev.pkeSpoil (d : Dev) (c : PkeCtx) : Dev :=
  if c.op = 0x08 then d.jobSmear c.owner c.dst (slhOf c.set).sigLen else d

/-- abort (R333, R335). -/
def Dev.pkeAbort (d : Dev) (k : Nat) : Status × Dev :=
  let c := d.pkeCtx k
  if 1 < k ∨ !c.active then (.badParam, d)
  else if !d.flag PKE_CFG_yield then (.ok, (d.pkeEnd k .aborted).pkeWipe)
  else
    let d := { d with pke := { d.pke with
      scratch := d.pke.scratch.set k 0 0
      release := if c.op = 0x08 then [] else d.pke.release } }
    if c.state = 2 then (.ok, ((d.pkeZeroOut c).pkeSpoil c).pkeEnd k .aborted) else (.ok, d.pkeEnd k .aborted)

/-- PKE_GO. -/
def Dev.pkeGoWrite (d : Dev) (v : Nat) : Status × Dev :=
  let (s1, d) := if v.testBit 1 then d.pkeAbort (bitsOf v 5 4) else (.ok, d)
  let (s2, d) := if v.testBit 0 then d.pkeGo (bitsOf v 31 6 != 0 || bitsOf v 3 2 != 0) else (.ok, d)
  (pickStatus [s1, s2], d)

/-! ### Results -/

/-- The result of an operation before its check is judged: integers by slot, a vault output, bytes for DST; `good` is
the release check of R330, `st` the status without one, `more` a search that has not ended. -/
structure PkeOut where
  st : Status := .ok
  more : Bool := false
  good : Bool := true
  slots : List (Nat × Nat) := []
  vault : Option (List Byte × List Nat) := none
  dst : List Byte := []

/-- Repeated draws of a nonce until r and s are not zero (FIPS 186-5). -/
def pkeSignEc (cv : Curve) (key e : Nat) (d : Dev) : Nat → (Nat × Nat) × Dev
  | 0 => ((0, 0), d)
  | n + 1 =>
    let (v, d) := d.drbg
    let rs := cv.sign key e (cv.scalar v)
    if rs.1 = 0 ∨ rs.2 = 0 then pkeSignEc cv key e d n else (rs, d)

def Dev.pkeEcSign (d : Dev) (c : PkeCtx) : PkeOut × Dev :=
  let cv := curveOf c.set
  let nums := (d.slotOf c.vslot).nums
  let key := if c.ksrc then nums.getD 0 0 else d.pkeInt (c.a 0)
  let qx := if c.ksrc then nums.getD 1 0 else d.pkeInt (c.a 2)
  let qy := if c.ksrc then nums.getD 2 0 else d.pkeInt (c.a 3)
  let e := cv.digest ((d.pkeBytes (c.a 1)).take c.h)
  let (rs, d) := pkeSignEc cv key e d 64
  ({ good := cv.verify qx qy e rs.1 rs.2
     slots := (if c.ksrc then [(c.a 2, qx), (c.a 3, qy)] else []) ++ [(c.a 4, rs.1), (c.a 5, rs.2)] }, d)

def Dev.pkeEcVerify (d : Dev) (c : PkeCtx) : PkeOut :=
  let cv := curveOf c.set
  let v (k : Nat) : Nat := d.pkeInt (c.a k)
  { st := if cv.verify (v 2) (v 3) (cv.digest ((d.pkeBytes (c.a 1)).take c.h)) (v 4) (v 5) then .ok else .authFail }

def Dev.pkeEcGen (d : Dev) (c : PkeCtx) : PkeOut × Dev :=
  let cv := curveOf c.set
  let (v, d) := d.drbg
  let key := cv.scalar v
  match cv.mul key cv.g with
  | none => ({ good := false }, d)
  | some (x, y) =>
    ({ slots := (if c.kout then [] else [(c.a 0, key)]) ++ [(c.a 2, x), (c.a 3, y)]
       vault := if c.kout then some ([], [key, x, y]) else none }, d)

def Dev.pkeEcdh (d : Dev) (c : PkeCtx) : PkeOut :=
  let cv := curveOf c.set
  let key := if c.ksrc then (d.slotOf c.vslot).nums.getD 0 0 else d.pkeInt (c.a 0)
  let x := d.pkeInt (c.a 2)
  let y := d.pkeInt (c.a 3)
  if !cv.on x y then { st := .badParam }
  else match cv.mul key (some (x, y)) with
    | none => { good := false }
    | some (zx, zy) => { good := cv.on zx zy, slots := [(c.a 4, zx)] }

/-- The encoded message of an RSA operation, with its salt. -/
def Dev.pkeEncode (d : Dev) (c : PkeCtx) : Nat × Dev :=
  let k := c.rsaWords * 8
  let h := (d.pkeBytes (c.a 3)).take c.h
  match c.enc with
  | 0 => (d.pkeInt (c.a 3), d)
  | 1 => (beValue (emsaV15 k h), d)
  | _ => let (v, d) := d.drbg; (beValue (emsaPss k h (leBytes v c.h)), d)

def Dev.pkeRsaSign (d : Dev) (c : PkeCtx) : PkeOut × Dev :=
  let key := if c.ksrc then (d.slotOf c.vslot).nums else (List.range 5).map (fun i => d.pkeInt (c.a 0 + i))
  let (m, d) := d.pkeEncode c
  let s := rsaPrivate key m
  ({ good := powMod s (d.pkeInt (c.a 2)) (d.pkeInt (c.a 1)) == m, slots := [(c.a 4, s)] }, d)

def Dev.pkeRsaVerify (d : Dev) (c : PkeCtx) : PkeOut :=
  let k := c.rsaWords * 8
  let m := powMod (d.pkeInt (c.a 4)) (d.pkeInt (c.a 2)) (d.pkeInt (c.a 1))
  let h := (d.pkeBytes (c.a 3)).take c.h
  let ok := match c.enc with
    | 0 => m == d.pkeInt (c.a 3)
    | 1 => m == beValue (emsaV15 k h)
    | _ => emsaPssOk k h (beBytes m k)
  { st := if ok then .ok else .authFail }

/-- A prime, by trial division. -/
def isPrime (m : Nat) : Bool := decide (2 ≤ m) && (List.range m).all (fun k => decide (k < 2) || m % k != 0)

/-- A prime that FIPS 186-5 takes for half of an RSA modulus, beside the other half already found, if any. -/
def rsaPrimeOk (half p other : Nat) : Bool :=
  decide (2 ^ (2 * half - 1) ≤ p * p) && isPrime p && (p - 1) % 65537 != 0 &&
    (other == 0 || decide (2 ^ (half - 100) < (p - other) + (other - p)))

/-- Repeated draws of half the modulus bits until a prime is found (R332). -/
def rsaPrime (half other : Nat) (d : Dev) : Nat → Nat × Dev
  | 0 => (0, d)
  | n + 1 =>
    let (v, d) := d.drbg
    let p := v % 2 ^ half
    if rsaPrimeOk half p other then (p, d) else rsaPrime half other d n

/-- RSA key generation: both primes, then a raw private and public operation on a random value (R328, R330). While draws have not found
both the job goes on, without bound (R332, R338; log entry 435). -/
def Dev.pkeRsaGen (d : Dev) (c : PkeCtx) : PkeOut × Dev :=
  let half := c.rsaWords * 32
  let (p, d) := rsaPrime half 0 d (10 * half)
  let (q, d) := rsaPrime half p d (20 * half)
  let (r, d) := d.drbg
  let key := [p, q, invAny 65537 (p - 1), invAny 65537 (q - 1), invAny q p]
  let m := r % (p * q)
  if p = 0 ∨ q = 0 then ({ more := true }, d)
  else
  ({ good := powMod (rsaPrivate key m) 65537 (p * q) == m
     slots := (if c.kout then [] else key.mapIdx (fun i x => (c.a 0 + i, x))) ++ [(c.a 1, p * q), (c.a 2, 65537)]
     vault := if c.kout then some ([], key) else none }, d)

/-- An SLH-DSA signature. The message was read for PRF_msg at the start and is read for the check now, as `msg`; the read for H_msg
between the two shows one or the other (R331; log entry 482). -/
def Dev.pkeSlhSign (d : Dev) (c : PkeCtx) (msg : List Byte) : PkeOut × Dev :=
  let p := slhOf c.set
  let sk := if c.ksrc then (d.slotOf c.vslot).key else (d.pkeBytes (c.a 0)).take 128
  let ctx := (d.pkeBytes (c.a 1)).take c.ctxLen
  let (v, d) := if c.det then (0, d) else d.drbg
  let (late, d) := if c.early = msg then (true, d) else let (b, d) := d.draw .random; (b % 2 == 1, d)
  let sig := slhSignTwo p sk ctx c.early (if late then msg else c.early) (if c.det then none else some (leBytes v 32))
  let d := { d with pke := { d.pke with release := sig } }
  ({ good := slhVerify p (slice sk 64 64) ctx msg sig, dst := sig }, d)

def Dev.pkeSlhVerify (d : Dev) (c : PkeCtx) (msg sig : List Byte) : PkeOut :=
  { st := if slhVerify (slhOf c.set) ((d.pkeBytes (c.a 2)).take 64) ((d.pkeBytes (c.a 1)).take c.ctxLen) msg sig then .ok
      else .authFail }

def Dev.pkeSlhGen (d : Dev) (c : PkeCtx) : PkeOut × Dev :=
  let (v, d) := d.drbg
  let r := leBytes v 96
  let pk := slice r 64 32 ++ slhRoot (slhOf c.set) (r.take 32) (slice r 64 32)
  let sk := r.take 64 ++ pk
  ({ slots := (if c.kout then [] else [(c.a 0, leValue sk)]) ++ [(c.a 2, leValue pk)]
     vault := if c.kout then some (sk, []) else none }, d)

/-- A modular primitive: A3, or none where the spec states no value (an even modulus in 0x12 and 0x13, a composite one
in 0x14, a zero one in 0x15; log entry 41). -/
def Dev.pkeModular (d : Dev) (c : PkeCtx) : Option Nat :=
  let a := d.pkeInt (c.a 0)
  let b := d.pkeInt (c.a 1)
  let m := d.pkeInt (c.a 2)
  match c.op with
  | 0x10 => some ((a + b) % m)
  | 0x11 => some (subMod a b m)
  | 0x12 => if m % 2 = 1 then some (a * b % m) else none
  | 0x13 => if m % 2 = 1 then some (powMod a b m) else none
  | 0x14 => if isPrime m then some (powMod a (m - 2) m) else none
  | _ => if m = 0 then none else some ((a + b * 2 ^ (64 * c.mWords)) % m)

def Dev.pkeMod (d : Dev) (c : PkeCtx) : PkeOut × Dev :=
  if c.op = 0x14 ∧ d.pkeInt (c.a 0) = 0 then ({ st := .badParam }, d)
  else match d.pkeModular c with
    | some v => ({ slots := [(c.a 3, v)] }, d)
    | none => let (v, d) := d.draw .random; ({ slots := [(c.a 3, v % 2 ^ (64 * c.mWords))] }, d)

/-- The result of the job, its message and signature read. -/
def Dev.pkeResult (d : Dev) (c : PkeCtx) (msg sig : List Byte) : PkeOut × Dev :=
  match c.op with
  | 0x01 => d.pkeEcSign c
  | 0x02 => (d.pkeEcVerify c, d)
  | 0x03 => d.pkeEcGen c
  | 0x04 => (d.pkeEcdh c, d)
  | 0x05 => d.pkeRsaSign c
  | 0x06 => (d.pkeRsaVerify c, d)
  | 0x07 => d.pkeRsaGen c
  | 0x08 => d.pkeSlhSign c msg
  | 0x09 => (d.pkeSlhVerify c msg sig, d)
  | 0x0A => d.pkeSlhGen c
  | _ => d.pkeMod c

/-- Operations whose outputs are checked before release (R330). -/
def PkeCtx.checked (c : PkeCtx) : Bool := c.privateOp || c.keyGen

/-- A fault met in a job's memory access: record 0xB015 (R342). -/
def Dev.pkeFault (d : Dev) (k : Nat) (st : Status) : Dev := (d.pkeRec 0xB015 4 k st.code).pkeEnd k st

/-- Release of a result that passed, or zeroing of one that did not (R330). -/
def Dev.pkeRelease (d : Dev) (k : Nat) (c : PkeCtx) (r : PkeOut) (fault : Bool) : Dev :=
  if r.st ≠ .ok then d.pkeEnd k r.st
  else if c.checked && (fault || !r.good) then
    let d := d.pkeZeroOut c
    let d := if c.op = 0x08 then (d.jobWrite c.owner c.dst (zeros (slhOf c.set).sigLen)).2 else d
    (d.pkeRec 0xB011 6 k c.op).pkeEnd k .faultDetected
  else
    let d := r.slots.foldl (fun d s => d.pkePut s.1 s.2) d
    let d := match r.vault with
      | some (key, nums) => d.setSlot c.vslot { d.slotOf c.vslot with key := key, nums := nums }
      | none => d
    let (st, d) := if c.op = 0x08 then d.jobWrite c.owner c.dst r.dst else (.ok, d)
    if st ≠ .ok then d.pkeFault k st else d.pkeEnd k .ok

/-- The transfer of a vault key to the engine or back (R294, R296). -/
def Dev.pkeKeyBus (d : Dev) (c : PkeCtx) : Status × Dev :=
  if c.vaultUse.isNone then (.ok, d)
  else
    let (st, d) := if c.keyGen then (.ok, d) else d.vaultRead c.vslot c.owner
    if st ≠ .ok then (st, d)
    else if d.brk = some 5 then (.faultDetected, d.parityError pgPKE 5 0 c.owner)
    else (.ok, d)

/-- The running job completes. A fault before its check writes no output (R330). `fault`: the release check fails on a fault of the
hardware. -/
def Dev.pkeComplete (d : Dev) (fault : Bool) : Dev :=
  match d.pkeRunning with
  | none => d
  | some k =>
    let c := d.pkeCtx k
    if !c.supplied && !d.flag TRN_STAT_drbg_ready then d
    else
      let (s1, msg, d) := if c.op = 0x08 ∨ c.op = 0x09 then d.jobRead c.owner c.msg c.msgLen else (.ok, [], d)
      let (s2, sig, d) := if c.op = 0x09 ∧ s1 = .ok then d.jobRead c.owner c.src (slhOf c.set).sigLen else (.ok, [], d)
      let (s3, d) := d.pkeKeyBus c
      let st := pickStatus [c.earlySt, s1, s2, s3]
      if st ≠ .ok then d.pkeFault k st
      else
        let (r, d) := d.pkeResult c msg sig
        if r.more then d else d.pkeRelease k c r fault

/-- TRN did not supply the bits within 100 µs (R332). -/
def Dev.pkeNoRandom (d : Dev) : Dev :=
  match d.pkeRunning with
  | none => d
  | some k =>
    let c := d.pkeCtx k
    if c.supplied || d.flag TRN_STAT_drbg_ready || decide (d.cclk < c.since + 100 * cclkPerUs) then d
    else (d.pkeRec 0xB012 4 k c.op).pkeEnd k .notReady

/-- A read of PKE_CTXk: its view, and a done context becomes free. -/
def Dev.pkeCtxView (d : Dev) (k : Nat) : Nat :=
  let c := d.pkeCtx k
  if c.state = 0 then 0 else c.state * 2 ^ 28 + c.op * 2 ^ 16 + c.status * 2 ^ 8 + b2n c.urgent
def Dev.pkeCtxRead (d : Dev) (k : Nat) : Nat × Dev :=
  (d.pkeCtxView k, if (d.pkeCtx k).state = 4 then d.setPkeCtx k {} else d)

/-! ### Registers -/

/-- The half-word addressed by PKE_OP_SEL; none outside the slots. -/
def Dev.pkeSel (d : Dev) : Option Nat :=
  let s := d.rd PKE_OP_SEL_slot
  let w := d.rd PKE_OP_SEL_word
  if s < d.pkeSlots ∧ w < d.pkeW then some (d.pkeBase s + 2 * w + d.rd PKE_OP_SEL_half) else none

/-- PKE_OP_SEL advances to the next half-word. -/
def Dev.pkeAdvance (d : Dev) : Dev :=
  let s := d.rd PKE_OP_SEL_slot
  let n := 2 * d.rd PKE_OP_SEL_word + d.rd PKE_OP_SEL_half + 1
  let (s, n) := if 2 * d.pkeW ≤ n then ((s + 1) % 2 ^ 11, 0) else (s, n)
  ((d.wr PKE_OP_SEL_slot s).wr PKE_OP_SEL_word (n / 2)).wr PKE_OP_SEL_half (n % 2)

/-- The addressed slot is named by an active context, as an output when `out`. -/
def Dev.pkeSlotBusy (d : Dev) (out : Bool) : Bool :=
  let s := d.rd PKE_OP_SEL_slot
  [0, 1].any (fun k => (d.pkeCtx k).active && (d.pkeCtx k).slots.any (fun a => a.slot == s && (a.out || !out)))

def Dev.pkeDataWrite (d : Dev) (v : Nat) : Status × Dev :=
  match d.pkeSel with
  | none => (.badParam, d)
  | some i => if d.pkeSlotBusy false || d.pke.clearing then (.busy, d) else (.ok, (d.setPkeHalf i v).pkeAdvance)
def Dev.pkeDataRead (d : Dev) (who : Nat) : Status × Nat × Dev :=
  if who ≠ d.rd LOCK_owner 0 pgPKE then (.denied, 0, d)
  else match d.pkeSel with
    | none => (.badParam, 0, d)
    | some i => if d.pkeSlotBusy true || d.pke.clearing then (.busy, 0, d) else (.ok, d.pkeHalf i, d.pkeAdvance)

/-- PKE_CFG (R324, R333): every accepted write writes slot_words and yield, so it clears the operand memory and is
refused while a context is not free. -/
def Dev.pkeCfg (d : Dev) (v : Nat) : Status × Dev :=
  let w := bitsOf v 23 16
  let notFree := (d.pkeCtx 0).state != 0 || (d.pkeCtx 1).state != 0
  let st := pickStatus [if notFree || d.pke.clearing then .busy else .ok, if w < 4 ∨ 128 < w then .badParam else .ok]
  if st ≠ .ok then (st, d) else (.ok, ((d.plainWrite pgPKE 0x040 v).2).pkeWipe)

def Dev.pkeWrite (d : Dev) (off v : Nat) : Status × Dev :=
  if off = 0x040 then d.pkeCfg v
  else if off = 0x080 then d.pkeGoWrite v
  else if off = 0x094 then d.pkeDataWrite v
  else d.plainWrite pgPKE off v

/-- Every running or pending job ends; a release records each (R337, R375). -/
def Dev.pkeDrop (d : Dev) (release : Bool) : Dev :=
  Dev.pkeBusyBit <| [0, 1].foldl (fun d k =>
    let c := d.pkeCtx k
    let d := if c.active && release then d.pkeRec 0xB014 3 k c.owner else d
    if c.active then ((d.pkeSpoil c).setPkeCtx k
      { state := 4, status := Status.aborted.code, cmd := c.cmd }).wr STATUS_last_status Status.aborted.code 0 pgPKE
    else d) d

/-- The clear that follows a change of owner (R337): the staged registers are PKE_CMD to PKE_DST_HI, which a go takes over. -/
def Dev.pkeClear (d : Dev) : Dev := ({ (d.resetRegs pgPKE 0x044 0x080) with pke := {} }).wr STATUS_busy 0 0 pgPKE

end Sys2Proof.Machine
end

