-- ==== Sys2Proof/Machine/Hash.lean ====
section
/-! DEFINITION. The hash engine: SHA-2, SHA-3 and SHAKE jobs, segments and squeezes, the sharing of Keccak core 0
(R336, R340 to R342). -/

namespace Sys2Proof.Machine

open Sys2Proof

/-! ### Functions (R340) -/

/-- Block bytes of a function. -/
def hshRate (fn : Nat) : Nat :=
  match fn with | 0 => 64 | 1 => 128 | 2 => 136 | 3 => 104 | 4 => 72 | 5 => 168 | _ => 136
/-- Digest bytes of a function with a fixed output. -/
def hshOut (fn : Nat) : Nat := match fn with | 0 => 32 | 1 => 48 | 2 => 32 | 3 => 48 | 4 => 64 | _ => 0
def hshShake (fn : Nat) : Bool := fn == 5 || fn == 6
/-- A function of Keccak core 0. -/
def hshKeccak (fn : Nat) : Bool := decide (2 ≤ fn)
def hshPar (fn : Nat) : ShaPar := if fn = 0 then par256 else par384

/-- The state before any byte. -/
def hshStart (fn : Nat) : HashState :=
  if hshKeccak fn then { fn := fn, s := keccak0 } else { fn := fn, h := (hshPar fn).iv }

/-- Whole blocks run through the function. -/
def HashState.blocks (s : HashState) (data : List Byte) : HashState :=
  if hshKeccak s.fn then { s with s := absorbAll (hshRate s.fn) s.s data }
  else { s with h := shaOver (hshPar s.fn) s.h data }

/-- More bytes of the message. -/
def HashState.more (s : HashState) (data : List Byte) : HashState :=
  let all := s.buf ++ data
  let full := all.length / hshRate s.fn * hshRate s.fn
  let t := s.blocks (all.take full)
  { t with buf := all.drop full, total := s.total + data.length }

/-- The padding and the last blocks. -/
def HashState.finish (s : HashState) : HashState :=
  let dom := if hshShake s.fn then 0x1F else 0x06
  let pad := if hshKeccak s.fn then keccakPad (hshRate s.fn) dom s.buf.length else shaPad (hshPar s.fn) s.total
  let t := s.blocks (s.buf ++ pad)
  { t with buf := [] }

/-- Bytes `from` to `from` + n of the output. -/
def HashState.output (s : HashState) (start n : Nat) : List Byte :=
  if hshKeccak s.fn then (squeeze (hshRate s.fn) s.s (start + n)).drop start else (shaOut (hshPar s.fn) s.h).take n

/-! ### Jobs (R341) -/

def Dev.hshOwner (d : Dev) : Nat := d.rd LOCK_owner 0 pgHSH

/-- The staged job. -/
def Dev.hshStaged (d : Dev) (first last squeeze : Bool) : HshJob :=
  let fn := d.rd HSH_FN_fn
  { src := d.rd64 HSH_SRC_LO_addr HSH_SRC_HI_addr_hi, dst := d.rd64 HSH_DST_LO_addr HSH_DST_HI_addr_hi,
    len := if squeeze then 0 else d.rd HSH_LEN_len, fn := fn,
    outLen := if hshShake fn then d.rd HSH_FN_out_len else hshOut fn,
    first := first, last := last, squeeze := squeeze, owner := d.hshOwner }

/-- The job writes its output to DST. -/
def HshJob.toMem (j : HshJob) : Bool := (j.last || j.squeeze) && hshShake j.fn && decide (64 < j.outLen)

/-- A parameter that breaks the table of R340 or the segment rules of R318. -/
def Dev.hshBad (d : Dev) (j : HshJob) : Bool :=
  decide (7 ≤ j.fn) || (hshShake j.fn && (j.last || j.squeeze) && j.outLen == 0) ||
    (!j.squeeze && !j.first && (match d.hsh.chain with | some c => c.fn != j.fn | none => true)) ||
    (j.squeeze && (match d.hsh.xof with | some x => x.1.fn != j.fn | none => true)) ||
    (isEngId j.owner && (decide (2 ^ 32 ≤ j.src) || decide (2 ^ 32 ≤ j.dst)))

def Dev.hshChainBit (d : Dev) : Dev := d.wr HSH_STAT_chain_open (b2n d.hsh.chain.isSome)

/-- Starts a go or a squeeze. -/
def Dev.hshBegin (d : Dev) (j : HshJob) : Status × Dev :=
  let denied := (!j.squeeze && d.reach j.owner false j.src j.len != .ok) || (j.toMem && d.reach j.owner true j.dst j.outLen != .ok)
  let st := pickStatus [if d.hsh.job.isSome then .busy else .ok, if denied then .denied else .ok,
    if d.hshBad j then .badParam else .ok]
  if st ≠ .ok then (st, d)
  else
    let h := if j.first then { d.hsh with chain := none, xof := none } else d.hsh
    let d := ({ d with hsh := { h with job := some j } }).hshChainBit
    let d := (d.wr STATUS_busy 1 0 pgHSH).wr HSH_STAT_done 0
    (.ok, if hshKeccak j.fn && d.hsh.pkeCore0 then d.wr HSH_STAT_core_wait 1 else d)

/-- The digest registers. -/
def Dev.hshDigest (d : Dev) (bs : List Byte) : Dev :=
  (List.range 16).foldl (fun d k => d.wr HSH_DIGk_bytes (leAt (padTo 64 bs) (4 * k) 4) k) d

/-- The end of a job. -/
def Dev.hshEnd (d : Dev) (st : Status) : Dev :=
  let d := ({ d with hsh := { d.hsh with job := none } }).hshChainBit
  let d := ((d.wr STATUS_busy 0 0 pgHSH).wr HSH_STAT_core_wait 0).wr HSH_STAT_done 1
  (d.wr STATUS_last_status st.code 0 pgHSH).irq pgHSH 0

def Dev.hshRec (d : Dev) (code sev p2 : Nat) : Dev := d.rated pgHSH code 256 sev 0 p2

/-- A fault during a job: the kept state goes with it, and the destination is undefined (R341). -/
def Dev.hshFault (d : Dev) (j : HshJob) (st : Status) : Dev :=
  let d := if j.toMem then d.jobSmear j.owner j.dst j.outLen else d
  ({ d with hsh := { d.hsh with chain := none, xof := none } } : Dev).hshRec 0xB021 4 st.code |>.hshEnd st

/-- Output bytes to the digest registers or to DST (R340). -/
def Dev.hshDeliver (d : Dev) (j : HshJob) (bs : List Byte) : Dev :=
  if j.toMem then
    let (st, d) := d.jobWrite j.owner j.dst bs
    if st ≠ .ok then d.hshFault j st else (d.hshDigest []).hshEnd .ok
  else (d.hshDigest bs).hshEnd .ok

/-- The running job completes; it needs core 0 for a Keccak function (R336). -/
def Dev.hshComplete (d : Dev) : Dev :=
  match d.hsh.job with
  | none => d
  | some j =>
    if hshKeccak j.fn && d.hsh.pkeCore0 then d
    else if j.squeeze then
      match d.hsh.xof with
      | none => d.hshEnd .badParam
      | some x =>
        ({ d with hsh := { d.hsh with xof := some (x.1, x.2 + j.outLen) } } : Dev).hshDeliver j (x.1.output x.2 j.outLen)
    else
      let (st, src, d) := d.jobRead j.owner j.src j.len
      if st ≠ .ok then d.hshFault j st
      else
        let s := ((if j.first then hshStart j.fn else d.hsh.chain.getD (hshStart j.fn))).more src
        if !j.last then ({ d with hsh := { d.hsh with chain := some s } } : Dev).hshEnd .ok
        else
          let s := s.finish
          ({ d with hsh := { d.hsh with chain := none, xof := if hshShake j.fn then some (s, j.outLen) else none } } : Dev).hshDeliver j
            (s.output 0 j.outLen)

/-- abort: the job ends at the next block boundary, the state is discarded (R341). -/
def Dev.hshAbort (d : Dev) : Status × Dev :=
  let e := ({ d with hsh := { d.hsh with chain := none, xof := none } } : Dev).hshChainBit
  match d.hsh.job with
  | none => (.ok, e)
  | some j => (.ok, (if j.toMem then e.jobSmear j.owner j.dst j.outLen else e).hshEnd .aborted)

/-- HSH_CMD: abort, then go or squeeze. -/
def Dev.hshCmd (d : Dev) (v : Nat) : Status × Dev :=
  let (s1, d) := if v.testBit 4 then d.hshAbort else (.ok, d)
  let (s2, d) := if v.testBit 0 then d.hshBegin (d.hshStaged (v.testBit 1) (v.testBit 2) false) else (.ok, d)
  let (s3, d) := if v.testBit 3 then d.hshBegin (d.hshStaged false false true) else (.ok, d)
  (pickStatus [s1, s2, s3], d)

def Dev.hshWrite (d : Dev) (off v : Nat) : Status × Dev :=
  if off = 0x058 then d.hshCmd v else d.plainWrite pgHSH off v

/-- Core 0 changes hands at a permutation boundary: to the PKE while an SLH-DSA job runs and no Keccak job of HSH does,
back to HSH when a job waits for it or the PKE no longer needs it (R336). The handover zeroes the core's state; a job's
own state stands with the job. -/
def Dev.keccakHandover (d : Dev) : Dev :=
  let hsh := match d.hsh.job with | some j => hshKeccak j.fn | none => false
  let slh := match d.pkeRunning with | some k => (d.pkeCtx k).slh | none => false
  let d := { d with hsh := { d.hsh with pkeCore0 := slh && !hsh } }
  d.wr HSH_STAT_core_wait 0

/-- The running job ends; a release records it (R337, R375). -/
def Dev.hshDrop (d : Dev) (release : Bool) : Dev :=
  match d.hsh.job with
  | none => d
  | some j =>
    let d := if j.toMem then d.jobSmear j.owner j.dst j.outLen else d
    (if release then d.hshRec 0xB014 3 j.owner else d).hshEnd .aborted

/-- The clear that follows a change of owner (R337). -/
def Dev.hshClear (d : Dev) : Dev :=
  ({ (d.resetRegs pgHSH 0x040 0x400) with hsh := { pkeCore0 := d.hsh.pkeCore0 } }).wr STATUS_busy 0 0 pgHSH

end Sys2Proof.Machine
end

