-- ==== Sys2Proof/Machine/Locks.lean ====
section
/-! DEFINITION. LOCK registers: claim, release, and what a change of owner ends and clears (R26, R27, R309, R310, R337). -/

namespace Sys2Proof.Machine

open Sys2Proof

/-- The pages with a LOCK register: CPL0 to CPL7, PKE, HSH. -/
def lockPages : List Nat := [0x070, 0x071, 0x072, 0x073, 0x074, 0x075, 0x076, 0x077, 0x078, 0x079]

/-- A running job ends at a release. -/
def Dev.lockEndJobs (d : Dev) (page : Nat) : Dev :=
  if page = pgPKE then d.pkeDrop true else if page = pgHSH then d.hshDrop true else d.cplRelease (page - 0x070)

/-- A job runs at a page. -/
def Dev.lockJob (d : Dev) (page : Nat) : Bool :=
  if page = pgPKE then d.pkeRunning.isSome else if page = pgHSH then d.hsh.job.isSome
  else decide (0x070 ≤ page) && decide (page < 0x078) && (d.cplOf (page - 0x070)).job.isSome

/-- Keys, operands and job registers are cleared on a change of owner. -/
def Dev.lockWipe (d : Dev) (page : Nat) : Dev :=
  if page = pgPKE then d.pkeClear else if page = pgHSH then d.hshClear else d.cplClear (page - 0x070)

/-- The change of owner (R27): the clear runs until LOCK_CLEAR_COMPLETE. -/
def Dev.lockChange (d : Dev) (page new : Nat) : Dev :=
  let d := ((d.lockEndJobs page).lockWipe page).wr LOCK_owner new 0 page
  { d with lockClear := d.lockClear.set page 1 0 }

/-- A pipeline taken from the sequencer leaves its map (R310). -/
def Dev.lockUnmap (d : Dev) (page owner : Nat) : Dev :=
  if owner < 12 ∧ page < 0x078 then
    (d.wr TRV_CPL_MAPp_en 0 (page - 0x070)).wr TRV_CPL_MAPp_held 0 (page - 0x070)
  else d

/-- A write to LOCK (R26). -/
def Dev.lockWrite (d : Dev) (r : Req) (page v : Nat) : Status × Dev :=
  let owner := d.rd LOCK_owner 0 page
  let id := reqId r
  let v := v % 256
  if !lockPages.contains page then (.ok, d)
  else if v = id then
    (if owner = 0xFF then (.ok, d.lockChange page id) else if owner = id then (.ok, d) else (.busy, d))
  else if v = 0xFF then
    (if owner = 0xFF then (.ok, d)
     else if owner = id ∨ r = .refuge then
       (.ok, (if r = .refuge ∧ owner ≠ id then d.lockUnmap page owner else d).lockChange page 0xFF)
     else (.denied, d))
  else (.denied, d)

/-- The hardware releases every block an owner holds (R310, R337). -/
def Dev.lockFreeAll (d : Dev) (owner : Nat) : Dev :=
  lockPages.foldl (fun d page => if d.rd LOCK_owner 0 page = owner then d.lockChange page 0xFF else d) d

/-- The clear ends (R27). -/
def Dev.lockCleared (d : Dev) (page : Nat) : Dev := { d with lockClear := d.lockClear.set page 0 0 }

end Sys2Proof.Machine
end

