-- ==== Sys2Proof/Machine/Flags.lean ====
section
/-! DEFINITION. The flags of an engine, the conditions, and every flag computation of the scalar instructions: each gives
the result and the new FL (R224, R225, R241). -/

namespace Sys2Proof.Machine

open Sys2Proof

/-- FL: Q in [4], N in [3], Z in [2], C in [1], V in [0] (R224). -/
abbrev Fl := BitVec 5

def Fl.v (f : Fl) : Bool := f.getLsbD 0
def Fl.c (f : Fl) : Bool := f.getLsbD 1
def Fl.z (f : Fl) : Bool := f.getLsbD 2
def Fl.n (f : Fl) : Bool := f.getLsbD 3
def Fl.q (f : Fl) : Bool := f.getLsbD 4

/-- The flags Q, N, Z, C, V in their places. -/
def mkFl (q n z c v : Bool) : Fl := BitVec.ofNat 5 (16 * b2n q + 8 * b2n n + 4 * b2n z + 2 * b2n c + b2n v)

/-- N and Z from a result, C and V given, Q unchanged. -/
def Fl.nzcv (f : Fl) (r : Word) (c v : Bool) : Fl := mkFl f.q r.msb (r == 0) c v

/-- N and Z from a result; C, V and Q unchanged. -/
def Fl.nz (f : Fl) (r : Word) : Fl := f.nzcv r f.c f.v

/-- Q set when `s`. -/
def Fl.sat (f : Fl) (s : Bool) : Fl := mkFl (f.q || s) f.n f.z f.c f.v

/-- The conditions (R225). -/
def Fl.holds (f : Fl) (cond : Nat) : Bool :=
  match cond with
  | 0 => f.z
  | 1 => !f.z
  | 2 => f.c
  | 3 => !f.c
  | 4 => f.n
  | 5 => !f.n
  | 6 => f.v
  | 7 => !f.v
  | 8 => f.c && !f.z
  | 9 => !f.c || f.z
  | 10 => f.n == f.v
  | 11 => f.n != f.v
  | 12 => !f.z && f.n == f.v
  | 13 => f.z || f.n != f.v
  | 14 => f.q
  | _ => true

/-- A value limited to a signed range of `w` bits, and whether it was outside. -/
def satInt (w : Nat) (v : Int) : Int × Bool :=
  let lo : Int := -(2 ^ (w - 1) : Nat)
  let hi : Int := (2 ^ (w - 1) : Nat) - 1
  if v < lo then (lo, true) else if hi < v then (hi, true) else (v, false)

/-- A signed value fits in 32 bits. -/
def fits32 (v : Int) : Bool := !(satInt 32 v).2

/-- x + y + c: modular sum, carry out of bit 31, signed overflow. -/
def addC (f : Fl) (x y : Word) (c : Nat) : Word × Fl :=
  let r : Word := x + y + BitVec.ofNat 32 c
  (r, f.nzcv r (decide (2 ^ 32 ≤ x.toNat + y.toNat + c)) (!fits32 (x.toInt + y.toInt + c)))

/-- x - y - b: C is 1 when no borrow occurs. -/
def subB (f : Fl) (x y : Word) (b : Nat) : Word × Fl :=
  let r : Word := x - y - BitVec.ofNat 32 b
  (r, f.nzcv r (decide (y.toNat + b ≤ x.toNat)) (!fits32 (x.toInt - y.toInt - b)))

/-- adds: saturated sum; C as of the addition, V and Q when it saturated. -/
def addSat (f : Fl) (x y : Word) : Word × Fl :=
  let s := satInt 32 (x.toInt + y.toInt)
  let r := BitVec.ofInt 32 s.1
  (r, (f.nzcv r (decide (2 ^ 32 ≤ x.toNat + y.toNat)) s.2).sat s.2)

/-- subs: saturated difference. -/
def subSat (f : Fl) (x y : Word) : Word × Fl :=
  let s := satInt 32 (x.toInt - y.toInt)
  let r := BitVec.ofInt 32 s.1
  (r, (f.nzcv r (decide (y.toNat ≤ x.toNat)) s.2).sat s.2)

/-- abs: saturated absolute value; V and Q when it saturated; C unchanged. -/
def absSat (f : Fl) (x : Word) : Word × Fl :=
  let s := satInt 32 (if x.toInt < 0 then -x.toInt else x.toInt)
  let r := BitVec.ofInt 32 s.1
  (r, (f.nzcv r f.c s.2).sat s.2)

/-- A result that sets N and Z only. -/
def logic (f : Fl) (r : Word) : Word × Fl := (r, f.nz r)

/-- N and Z from a shift's result, C the last bit shifted out, unchanged for an amount of 0. -/
def shifted (f : Fl) (r : Word) (n : Nat) (out : Bool) : Word × Fl := (r, f.nzcv r (if n = 0 then f.c else out) f.v)

/-- The shifts by 0 to 63 (R241). -/
def shl (f : Fl) (x : Word) (n : Nat) : Word × Fl := shifted f (x <<< n) n (decide (n ≤ 32) && x.getLsbD (32 - n))
def shrL (f : Fl) (x : Word) (n : Nat) : Word × Fl := shifted f (x >>> n) n (x.getLsbD (n - 1))
def shrA (f : Fl) (x : Word) (n : Nat) : Word × Fl :=
  shifted f (x.sshiftRight n) n (if n ≤ 32 then x.getLsbD (n - 1) else x.msb)

/-- Leading zeros, 0 to 32. -/
def clz32 (x : Word) : Nat := if x.toNat = 0 then 32 else 31 - Nat.log2 x.toNat

/-- ext (R241): sign or zero extension of a byte or half. -/
def extend (sa : Nat) (x : Word) : Word :=
  match sa with
  | 0 => (x.setWidth 8).signExtend 32
  | 1 => (x.setWidth 16).signExtend 32
  | 2 => (x.setWidth 8).setWidth 32
  | _ => (x.setWidth 16).setWidth 32

/-- rev: bits [sa:0] in reverse order. -/
def revBits (sa : Nat) (x : Word) : Word :=
  BitVec.ofNat 32 ((List.range (sa + 1)).foldl (fun s i => s + b2n (x.getLsbD i) * 2 ^ (sa - i)) 0)

end Sys2Proof.Machine
end

