-- ==== Sys2Proof/Machine/Operands.lean ====
section
/-! DEFINITION. The operand forms of an engine: its registers, vector elements, accumulators, address generators, and the
fields of an instruction word (R221 to R223, R226, R227, R233). -/

namespace Sys2Proof.Machine

open Sys2Proof

def Dev.engOf (d : Dev) (e : Nat) : Eng := d.eng.get e {}
def Dev.setEng (d : Dev) (e : Nat) (x : Eng) : Dev := { d with eng := d.eng.set e x {} }

/-- A general register; g0 reads as zero (R221). -/
def Dev.gr (d : Dev) (e r : Nat) : Word := if r = 0 then 0 else (d.engOf e).g.get r 0
/-- A write of a general register; one to g0 is discarded. -/
def Dev.setGr (d : Dev) (e r : Nat) (v : Word) : Dev :=
  if r = 0 then d else d.setEng e { d.engOf e with g := (d.engOf e).g.set r v 0 }

def Dev.flags (d : Dev) (e : Nat) : Fl := (d.engOf e).fl
def Dev.setFlags (d : Dev) (e : Nat) (f : Fl) : Dev := d.setEng e { d.engOf e with fl := f }

/-- A result with its flags into rd. -/
def Dev.put (d : Dev) (e rd : Nat) (r : Word × Fl) : Dev := (d.setGr e rd r.1).setFlags e r.2

def Dev.vr (d : Dev) (e v : Nat) : BitVec 128 := (d.engOf e).v.get v 0
def Dev.setVr (d : Dev) (e v : Nat) (x : BitVec 128) : Dev :=
  d.setEng e { d.engOf e with v := (d.engOf e).v.set v x 0 }

/-- Accumulator an, signed, 72 bits (R223). -/
def Dev.acc (d : Dev) (e n : Nat) : Int := (d.engOf e).a.get n 0
/-- Stores an accumulation, saturated to 72 bits; a saturation sets Q. -/
def Dev.setAcc (d : Dev) (e n : Nat) (v : Int) : Dev :=
  let s := satInt 72 v
  let x := d.engOf e
  d.setEng e { x with a := x.a.set n s.1 0, fl := Fl.sat x.fl s.2 }

/-! ### Vector elements (R222) -/

/-- Element width and count: 32 bits and 4, or 16 bits and 8. -/
def elW (sz : Bool) : Nat := if sz then 16 else 32
def elN (sz : Bool) : Nat := if sz then 8 else 4

/-- Element i as an unsigned number, and signed. -/
def el (sz : Bool) (x : BitVec 128) (i : Nat) : Nat := x.toNat / 2 ^ (elW sz * i) % 2 ^ elW sz
def elS (sz : Bool) (x : BitVec 128) (i : Nat) : Int := signed (elW sz) (el sz x i)

/-- The vector of a list of elements, element 0 first, each cut to its width. -/
def vecOf (sz : Bool) (l : List Int) : BitVec 128 :=
  BitVec.ofNat 128 (l.foldr (fun v s => unsigned (elW sz) v + 2 ^ elW sz * s) 0)

/-- One operation on every pair of elements. -/
def mapEls (sz : Bool) (f : Int → Int → Int) (x y : BitVec 128) : BitVec 128 :=
  vecOf sz ((List.range (elN sz)).map (fun i => f (elS sz x i) (elS sz y i)))

/-- Replaces one element. -/
def setEl (sz : Bool) (x : BitVec 128) (i : Nat) (v : Int) : BitVec 128 :=
  vecOf sz ((List.range (elN sz)).map (fun j => if j = i then v else elS sz x j))

/-! ### Address generators (R226, R227) -/

def Dev.gen (d : Dev) (e m : Nat) : Gen := (d.engOf e).m.get m {}
def Dev.setGen (d : Dev) (e m : Nat) (x : Gen) : Dev :=
  d.setEng e { d.engOf e with m := (d.engOf e).m.set m x {} }

def isPow2 (n : Nat) : Bool := n != 0 && (n &&& (n - 1)) == 0

/-- The fields of a generator are valid for its mode. -/
def Gen.valid (x : Gen) : Bool :=
  let len := x.len.toNat
  let idx := x.idx.toNat
  let step := x.step.toNat
  match x.mode with
  | 0 => true
  | 1 => decide (1 ≤ len) && decide (x.step.toInt.natAbs ≤ len) && decide (idx < len)
  | 2 => isPow2 len && isPow2 step && decide (step < len) && idx % step == 0 && decide (idx < len)
  | _ => false

/-- The low k bits of j in reverse. -/
def revLow (k j : Nat) : Nat := (List.range k).foldl (fun s i => s + b2n (j.testBit i) * 2 ^ (k - 1 - i)) 0

/-- The index advanced by `by_` under the linear or modulo rule. -/
def Gen.advance (x : Gen) (by_ : Int) : Gen :=
  match x.mode with
  | 1 =>
    let i := (x.idx.toNat : Int) + by_
    let len := (x.len.toNat : Int)
    { x with idx := BitVec.ofInt 32 (if len ≤ i then i - len else if i < 0 then i + len else i) }
  | _ => { x with idx := BitVec.ofInt 32 ((x.idx.toNat : Int) + by_) }

/-- The post-update of a mode. -/
def Gen.next (x : Gen) : Gen :=
  match x.mode with
  | 2 =>
    let step := x.step.toNat
    let k := Nat.log2 (x.len.toNat / step)
    let j := x.idx.toNat / step
    { x with idx := BitVec.ofNat 32 (step * revLow k ((revLow k j + 1) % 2 ^ k)) }
  | _ => x.advance x.step.toInt

/-- The address of an access through a generator. -/
def Gen.addr (x : Gen) : Nat := (x.base + x.idx).toNat

/-! ### Fields of an instruction word (R233) -/

def fRd (w : Nat) : Nat := bitsOf w 26 22
def fRs (w : Nat) : Nat := bitsOf w 21 17
def fRt (w : Nat) : Nat := bitsOf w 16 12
def fSa (w : Nat) : Nat := bitsOf w 11 7
def fFn (w : Nat) : Nat := bitsOf w 6 2
def fImm15 (w : Nat) : Nat := bitsOf w 16 2
def fImm20 (w : Nat) : Nat := bitsOf w 21 2

end Sys2Proof.Machine
end

