-- ==== Sys2Proof/Machine/Engine.lean ====
section
/-! DEFINITION. Engines: states, exceptions, system registers, release queue and causes, gate calls, ENG_RUN, watchdog
(R221, R235, R248 to R264, R269, R271 to R274, R277, R278). -/

namespace Sys2Proof.Machine

open Sys2Proof

/-! ### States and causes (R251, R260) -/

def Dev.engRunning (d : Dev) (e : Nat) : Bool := d.engState e == 1
def Dev.setEngState (d : Dev) (e st reason : Nat) : Dev := (d.wr ENG_STATE_state st 0 e).wr ENG_STATE_reason reason 0 e

/-- The src byte of an engine's records (R408). -/
def Dev.engSrc (d : Dev) (e : Nat) : Nat := e + (if d.engWorld e = 2 then 128 else 0)

/-- A record of an engine (R276): the engine is its source. -/
def Dev.engRec (d : Dev) (e code sev p0 p2 : Nat) : Dev := d.rated (pgENG e) code e sev p0 p2 (d.engSrc e)

/-- The queue-ready FIFO of an engine with its overflow (R274). -/
def Dev.qrdy (d : Dev) (e : Nat) : List Nat × Bool := d.qmg.ready.get e ([], false)
def Dev.setQrdy (d : Dev) (e : Nat) (f : List Nat × Bool) : Dev :=
  { d with qmg := { d.qmg with ready := d.qmg.ready.set e f ([], false) } }

/-- Cluster pending bits that the engine sees (EVPEND). -/
def Dev.evPend (d : Dev) (e : Nat) : Nat := d.rd CLU_PEND_bits 0 (engClu e) &&& (d.engOf e).evmask

/-- IPEND: bit c - 0x10 reads 1 while cause c is pending. -/
def Dev.ipend (d : Dev) (e : Nat) : Nat :=
  let x := d.engOf e
  b2n x.wdPend + 2 * b2n (!x.missed.isEmpty) + 4 * b2n (!x.relq.isEmpty) + 8 * b2n (d.evPend e != 0) +
    16 * b2n (!(d.qrdy e).1.isEmpty || (d.qrdy e).2)

/-- The lowest pending and enabled cause. -/
def Dev.pendingCause (d : Dev) (e : Nat) : Option Nat := (lowestBit (d.ipend e &&& (d.engOf e).imask) 5).map (0x10 + ·)

/-- The asynchronous cause that is taken at the next boundary (R260). -/
def Dev.takeable (d : Dev) (e : Nat) : Option Nat :=
  let x := d.engOf e
  if x.aen && !x.hnd then d.pendingCause e else none

/-! ### Exceptions (R256 to R261) -/

/-- Taking an exception, in one step (R256): level and aen are saved, asynchronous causes held off, the handler marked,
ECAUSE, EARG and EPC written, supervisor level entered at EVB. -/
def Dev.takeException (d : Dev) (e cause arg status epc : Nat) : Dev :=
  let x := d.engOf e
  d.setEng e { x with
    plev := x.super
    paen := x.aen
    aen := false
    hnd := true
    ecause := cause + 256 * status
    earg := arg
    epc := epc
    super := true
    pc := x.evb }

/-- A double fault or second watchdog expiry halts the engine and calls for a dump with that trigger (R252, R261, R273,
R275). -/
def Dev.halt (d : Dev) (e reason pc : Nat) : Dev :=
  let d := ((d.setEng e { d.engOf e with pc := pc }).setEngState e 4 reason).wr ENG_PC_pc pc 0 e
  let req : DumpReq := { engine := e, trigger := reason, reason := 0, card := false, at_ := d.taiNs, since := 0 }
  { d with rfg := { d.rfg with dumps := d.rfg.dumps ++ [req] } }.wr EVR_DUMP_STAT_busy 1

/-- A synchronous exception (R239, R258, R261): `addr` is the address of the faulting instruction, `epc` its EPC. -/
def Dev.syncException (d : Dev) (e cause arg status addr epc : Nat) : Dev :=
  let x := d.engOf e
  if x.hnd then
    let c2 := cause + 65536 * (addr % 65536)
    let d := (d.setEng e { x with ecause2 := c2 }).halt e 1 epc
    (d.engRec e 0x8002 5 e c2).emit (.refugeNote (pgENG e))
  else d.takeException e cause arg status epc

/-- An asynchronous cause is taken: EPC is the first instruction that has not issued (R258, R260). -/
def Dev.takeAsync (d : Dev) (e cause : Nat) : Dev :=
  let x := d.engOf e
  let arg := if cause = 0x11 then (match x.missed with | [] => 0 | m :: _ => m.1 * 256 + m.2) else 0
  d.takeException e cause arg 0 x.pc

/-- The return from an exception, in one step (R259). -/
def Dev.eretState (d : Dev) (e : Nat) : Dev :=
  let x := d.engOf e
  d.setEng e { x with pc := x.epc, super := x.plev, aen := x.paen, hnd := false }

/-! ### Effects of one instruction -/

/-- What an instruction does to control: goes on at the next one, transfers to a target, raises an exception with cause,
argument and status, or stops issuing (R235, R239). -/
inductive Fx where
  | next (d : Dev)
  | jump (d : Dev) (target : Int)
  | exc (d : Dev) (cause arg status : Nat)
  | park (d : Dev)

/-- Bit p of CODEATTR: page p is wide (R236). -/
def Dev.widePage (d : Dev) (e pc : Nat) : Bool := (d.engOf e).attr.testBit (pc / 4096 % 16)

/-- A target that raises the fetch fault (R236). -/
def Dev.targetBad (d : Dev) (e : Nat) (t : Int) : Bool :=
  decide (t < 0) || decide (0x10000 ≤ t) || t % 2 != 0 || (d.widePage e t.toNat && t % 4 != 0)

/-! ### Releases as an engine sees them (R269, R271, R272) -/

def relKey (c i : Nat) : Nat := 64 * c + i
def Dev.relOf (d : Dev) (k : Nat) : RelEntry := d.rel.get k {}
def Dev.setRel (d : Dev) (k : Nat) (r : RelEntry) : Dev := { d with rel := d.rel.set k r {} }

/-- p0 of the release unit's records (R276). -/
def relP0 (e i : Nat) : Nat := e + i * 256

/-- The running release of an entry misses its deadline. -/
def Dev.relMiss (d : Dev) (k : Nat) (run : Running) : Dev :=
  let c := k / 64
  let i := k % 64
  let r := d.relOf k
  let d := d.setRel k { r with run := some { run with missed := true } }
  let d := (d.bump CLU_DL_misses 1 0 c).raise (106 + c) (relP0 run.engine i)
  let d := d.engRec run.engine 0x8012 5 (relP0 run.engine i) ((d.tickTai - run.deadline) / 50)
  if run.irq then
    let x := d.engOf run.engine
    d.setEng run.engine { x with missed := x.missed ++ [(i, run.tag)] }
  else d

/-- RELDONE (R272): ends the running release of an entry on this engine, and its cause 0x11; from the CCLK of the deadline tick on
the miss is counted. Any other write is ignored and counted. -/
def Dev.relDone (d : Dev) (e i : Nat) : Dev :=
  let k := relKey (engClu e) i
  match (d.relOf k).run with
  | some run =>
    if run.engine = e then
      let d := if run.missed || decide (d.tickTai < run.deadline) then d else d.relMiss k run
      let x := d.engOf e
      (d.setRel k { d.relOf k with run := none }).setEng e { x with missed := x.missed.filter (fun m => m.1 != i) }
    else d.bump CLU_DL_bad_done 1 0 (engClu e)
  | none => d.bump CLU_DL_bad_done 1 0 (engClu e)

/-- A read of RELTASK removes the head of the release queue. -/
def Dev.relTask (d : Dev) (e : Nat) : Word × Dev :=
  let x := d.engOf e
  match x.relq with
  | [] => (0, d)
  | h :: t =>
    (BitVec.ofNat 32 (2 ^ 31 + b2n h.late * 2 ^ 30 + min 255 h.ovr * 2 ^ 16 + h.entry * 256 + h.tag), d.setEng e { x with relq := t })

/-- A read of QRDY removes the head of the FIFO and clears its overflow. -/
def Dev.qrdyRead (d : Dev) (e : Nat) : Word × Dev :=
  let f := d.qrdy e
  (BitVec.ofNat 32 (b2n (!f.1.isEmpty) * 2 ^ 31 + b2n f.2 * 2 ^ 30 + f.1.headD 0), d.setQrdy e (f.1.drop 1, false))

/-- EVCLR (R274). -/
def Dev.evClr (d : Dev) (e v : Nat) : Dev :=
  let p := d.rd CLU_PEND_bits 0 (engClu e)
  d.wr CLU_PEND_bits (p - (p &&& v)) 0 (engClu e)

/-- WDKICK (R273). -/
def Dev.wdKick (d : Dev) (e : Nat) : Dev := d.setEng e { d.engOf e with wdPend := false, wdAcc := 0 }

/-! ### System registers (R248, R277) -/

def knownSr (sr : Nat) : Bool := decide (sr ≤ 6) || (decide (0x10 ≤ sr) && decide (sr ≤ 0x1E)) || sr == 0x20
def readOnlySr (sr : Nat) : Bool := [1, 2, 3, 4, 5, 6, 0x11, 0x14, 0x15, 0x18, 0x19, 0x1B, 0x1E].contains sr

/-- The value of a system register and the effect of its read. -/
def Dev.readSr (d : Dev) (e sr : Nat) : Word × Dev :=
  let x := d.engOf e
  let w (n : Nat) : Word × Dev := (BitVec.ofNat 32 n, d)
  match sr with
  | 0x000 => w x.fl.toNat
  | 0x001 => w (e + engClu e * 256 + b2n (d.engWorld e == 2) * 2 ^ 16 + b2n x.super * 2 ^ 17)
  | 0x002 => w x.attr
  | 0x003 => (BitVec.ofNat 32 d.tickTai, d.setEng e { x with tickHi := d.tickTai / 2 ^ 32 })
  | 0x004 => w x.tickHi
  | 0x005 => (BitVec.ofNat 32 (d.cclk - x.cycFrom), d.setEng e { x with cycHi := (d.cclk - x.cycFrom) / 2 ^ 32 })
  | 0x006 => w x.cycHi
  | 0x010 => w x.evb
  | 0x011 => w x.ecause
  | 0x012 => w x.epc
  | 0x013 => w (b2n x.aen + 2 * b2n x.hnd + 4 * b2n x.paen + 8 * b2n x.plev)
  | 0x014 => w x.earg
  | 0x015 => w x.ecause2
  | 0x016 => (x.escr, d)
  | 0x017 => w x.imask
  | 0x018 => w (d.ipend e)
  | 0x019 => d.relTask e
  | 0x01B => w (d.evPend e)
  | 0x01C => w x.evmask
  | 0x01E => d.qrdyRead e
  | _ => w 0

/-- The effect of a write to a system register. -/
def Dev.writeSr (d : Dev) (e sr : Nat) (v : Word) : Dev :=
  let x := d.engOf e
  let n := v.toNat
  match sr with
  | 0x000 => d.setFlags e (BitVec.ofNat 5 n)
  | 0x010 => d.setEng e { x with evb := bitsOf n 15 2 * 4 }
  | 0x012 => d.setEng e { x with epc := bitsOf n 15 1 * 2 }
  | 0x013 => d.setEng e { x with aen := v.getLsbD 0, hnd := v.getLsbD 1, paen := v.getLsbD 2, plev := v.getLsbD 3 }
  | 0x016 => d.setEng e { x with escr := v }
  | 0x017 => d.setEng e { x with imask := n % 32 }
  | 0x01A => d.relDone e (n % 64)
  | 0x01C => d.setEng e { x with evmask := n }
  | 0x01D => d.evClr e n
  | 0x020 => d.wdKick e
  | _ => d

/-- mfs: the checks of R248, then the read. A write-only register reads 0 (log entry 62). -/
def Dev.opMfs (d : Dev) (e rd sr word : Nat) : Fx :=
  if !knownSr sr then .exc d 2 word 0
  else if 0x10 ≤ sr ∧ !(d.engOf e).super then .exc d 3 sr 0
  else let r := d.readSr e sr; .next (r.2.setGr e rd r.1)

/-- mts. -/
def Dev.opMts (d : Dev) (e sr rs word : Nat) : Fx :=
  if !knownSr sr then .exc d 2 word 0
  else if (0x10 ≤ sr ∧ !(d.engOf e).super) ∨ readOnlySr sr then .exc d 3 sr 0
  else .next (d.writeSr e sr (d.gr e rs))

/-! ### Control (R244, R262, R263) -/

/-- Registers written and the target reached, unless the target faults: then nothing is written (R236, R239). -/
def Dev.transfer (d : Dev) (e : Nat) (t : Int) (link : Dev → Dev) : Fx :=
  if d.targetBad e t then .exc d 1 (unsigned 32 t) 0 else .jump (link d) t

def Dev.opBranch (d : Dev) (e cond : Nat) (disp : Int) (pc : Nat) : Fx :=
  if (Fl.holds (d.flags e) cond) then d.transfer e (pc + 2 * disp) id else .next d

def Dev.opCall (d : Dev) (e rd : Nat) (disp : Int) (pc nx : Nat) : Fx :=
  d.transfer e (pc + 2 * disp) (fun d => d.setGr e rd (BitVec.ofNat 32 nx))

def Dev.opCallr (d : Dev) (e rd rs : Nat) (imm : Int) (nx : Nat) : Fx :=
  d.transfer e ((d.gr e rs + BitVec.ofInt 32 imm).toNat : Int) (fun d => d.setGr e rd (BitVec.ofNat 32 nx))

/-- dbnz: g0 discards the count and reads 0 (R221), so that it never transfers. -/
def Dev.opDbnz (d : Dev) (e rd : Nat) (disp : Int) (pc : Nat) : Fx :=
  let v := if rd = 0 then 0 else d.gr e rd - 1
  if v ≠ 0 then d.transfer e (pc + 2 * disp) (fun d => d.setGr e rd v) else .next (d.setGr e rd v)

/-- A gate call: the engine sends its arguments and enters GATE (R263). -/
def Dev.gateCall (d : Dev) (e n epc : Nat) : Dev :=
  let x := d.engOf e
  (d.setEng e { x with gate := some { n := n, g4 := d.gr e 4, g5 := d.gr e 5, g6 := d.gr e 6, g7 := d.gr e 7, at_ := d.cclk, epc := epc } }).setEngState
    e 3 0

/-- trap. -/
def Dev.opTrap (d : Dev) (e n nx : Nat) : Fx := if n < 240 then .exc d 7 n 0 else .park (d.gateCall e n nx)

/-- eret: a privilege exception at user level; its target is checked as any other (R236). -/
def Dev.opEret (d : Dev) (e : Nat) : Fx :=
  let x := d.engOf e
  if !x.super then .exc d 3 0xFFFFFFFF 0
  else if d.targetBad e (x.epc : Int) then .exc d 1 x.epc 0
  else .jump (d.eretState e) (x.epc : Int)

/-- wfe: completes at once with an enabled cause pending, else the engine waits. -/
def Dev.opWfe (d : Dev) (e : Nat) : Fx :=
  if (d.pendingCause e).isSome then .next d else .park (d.setEngState e 2 0)

/-- A waiting engine with an enabled cause pending runs again; the cause is taken if it can be. -/
def Dev.engWake (d : Dev) (e : Nat) : Dev :=
  if d.engState e = 2 && (d.pendingCause e).isSome then
    let d := d.setEngState e 1 0
    match d.takeable e with
    | some c => d.takeAsync e c
    | none => d
  else d

/-- ASYNC_EXCEPTION_TAKE: at a boundary of a running engine. -/
def Dev.asyncTake (d : Dev) (e : Nat) : Dev :=
  if d.engRunning e then (match d.takeable e with | some c => d.takeAsync e c | none => d) else d

/-! ### Gates (R263, R264) -/

/-- The answer to a gate call: status and result; the engine resumes at the instruction after its trap. -/
def Dev.gateAnswer (d : Dev) (e : Nat) (st : Status) (result : Option Word) : Dev :=
  let d := d.setGr e 2 (BitVec.ofNat 32 st.code)
  let d := match result with | some v => d.setGr e 3 v | none => d
  (d.setEng e { d.engOf e with gate := none }).setEngState e 1 0

/-- The gate a waiting engine has called. -/
def Dev.gateOf (d : Dev) (e : Nat) : Option Gate := if d.engState e = 3 then (d.engOf e).gate else none

/-- No answer within 10 ms (R263). -/
def Dev.gateTimeout (d : Dev) (e : Nat) : Dev :=
  match d.gateOf e with
  | none => d
  | some g =>
    if d.cclk < g.at_ + 10 * cclkPerMs then d
    else (d.engRec e 0x8020 4 e g.n).gateAnswer e .timeout none

/-! ### ENG_RUN and ENG_WORLD (R249, R252 to R255) -/

/-- Leaving STOPPED (R221, R254): the pc and all registers zero, supervisor level, hnd set; the code attributes stay. -/
def Dev.engFresh (d : Dev) (e : Nat) : Dev :=
  (d.setEng e { super := true, hnd := true, attr := (d.engOf e).attr, cycFrom := d.cclk }).setQrdy e ([], false)

/-- start (R253). -/
def Dev.engStart (d : Dev) (e : Nat) : Status × Dev :=
  let x := d.engOf e
  match d.engState e with
  | 0 =>
    if d.engWorld e = 0 ∨ d.flag STATUS_busy 0 (pgENG e) then (.notReady, d)
    else (.ok, (d.engFresh e).setEngState e 1 0)
  | 5 =>
    if d.rd ENG_STATE_reason 0 e ≠ 3 then (.busy, d)
    else
      let d := d.setEng e { x with wdAcc := 0, thaw := 0, gate := none }
      if x.thaw = 3 then (.ok, (d.setGr e 2 (BitVec.ofNat 32 Status.aborted.code)).setEngState e 1 0)
      else (.ok, d.setEngState e x.thaw 0)
  | _ => (.busy, d)

/-- The tags of a stopped engine end as its own free would end them (R255, R168). -/
def Dev.endTags (d : Dev) (first n : Nat) : Dev :=
  (List.range n).foldl (fun d i =>
    let t := d.tag (first + i)
    if !t.used then d
    else if t.item.isSome then d.cancelTag (first + i) .aborted
    else d.setTag (first + i) { t with used := false, tmo := 0 }) d

/-- stop (R252, R255, R310): the engine is held in reset; its tags end, its locks are released. -/
def Dev.engStop (d : Dev) (e : Nat) : Dev :=
  let d := (d.setEng e { d.engOf e with gate := none }).setEngState e 0 0
  (d.endTags (16 * e) 16).lockFreeAll (0x10 + e)

/-- freeze: the whole state is kept (R252). -/
def Dev.engFreeze (d : Dev) (e reason : Nat) : Dev :=
  let st := d.engState e
  if st = 0 ∨ st = 5 then d
  else ((d.setEng e { d.engOf e with thaw := st, gate := none }).setEngState e 5 reason).wr ENG_PC_pc (d.engOf e).pc 0 e

/-- ENG_RUN; a command 3 on a stopped engine has no effect. -/
def Dev.engRun (d : Dev) (e v : Nat) : Status × Dev :=
  match v % 4 with
  | 0 => (.ok, d)
  | 1 => d.engStart e
  | 2 => (.ok, d.engStop e)
  | _ => (.ok, d.engFreeze e 3)

/-- ENG_WORLD (R249): the memories are cleared. -/
def Dev.engWorldWrite (d : Dev) (e v : Nat) : Status × Dev :=
  let st := pickStatus [if d.engState e = 0 then .ok else .busy, if v % 4 = 3 then .badParam else .ok]
  if st ≠ .ok then (st, d)
  else
    let d := (d.plainWrite (pgENG e) 0x040 v).2
    let d := { d with mem := memForget d.mem (engBase e) (engBase e + 0x40000)
                      bad := d.bad.drop (fun a => decide (engBase e ≤ a) && decide (a < engBase e + 0x40000)) }
    (.ok, d.wr STATUS_busy 1 0 (pgENG e))

/-- The clear ends. -/
def Dev.engCleared (d : Dev) (e : Nat) : Dev := d.wr STATUS_busy 0 0 (pgENG e)

/-- ENG_DWINk (R282). -/
def Dev.dwinWrite (d : Dev) (e k v : Nat) : Status × Dev :=
  let lo := bitsOf v 11 0 * 2 ^ 28
  let st := pickStatus [if d.engState e = 0 ∨ d.engState e = 5 then .ok else .busy,
    if dramBase ≤ lo ∧ lo + 2 ^ 28 ≤ dramTop then .ok else .badParam]
  if st ≠ .ok then (st, d) else d.plainWrite (pgENG e) (0x080 + 4 * k) v

def Dev.engPageWrite (d : Dev) (e off v : Nat) : Status × Dev :=
  match off with
  | 0x040 => d.engWorldWrite e v
  | 0x044 => d.engRun e v
  | _ => if 0x080 ≤ off ∧ off < 0x090 then d.dwinWrite e ((off - 0x080) / 4) v else d.plainWrite (pgENG e) off v

/-! ### Watchdog (R273) -/

/-- The watchdog counts TAI time while the engine runs, waits or is in a gate; with pause_wfe not while it waits. -/
def Dev.wdCounts (d : Dev) (e : Nat) : Bool :=
  let st := d.engState e
  d.flag ENG_WDT_en 0 e && (st == 1 || st == 3 || (st == 2 && !d.flag ENG_WDT_pause_wfe 0 e))

/-- The time that passed with a tick, in ns, is counted. -/
def Dev.wdTickOne (d : Dev) (dt e : Nat) : Dev :=
  if d.wdCounts e then d.setEng e { d.engOf e with wdAcc := (d.engOf e).wdAcc + dt } else d
def Dev.wdTick (d : Dev) (dt : Nat) : Dev := (List.range 96).foldl (fun d e => d.wdTickOne dt e) d

def Dev.wdPeriod (d : Dev) (e : Nat) : Nat := max 1 (d.rd ENG_WDT_period 0 e) * 100000

/-- The count reaches its period: cause 0x10, or, while it is still pending in RUNNING or WAITING, HALTED and record 0x8003 (R252,
R273; log entry 331). -/
def Dev.wdExpire (d : Dev) (e : Nat) : Dev :=
  let x := d.engOf e
  if !(d.flag ENG_WDT_en 0 e && decide (d.wdPeriod e ≤ x.wdAcc)) || !(d.engState e == 1 || d.engState e == 2 || d.engState e == 3) then d
  else
    let d := d.setEng e { x with wdAcc := x.wdAcc - d.wdPeriod e, wdPend := true }
    if x.wdPend ∧ d.engState e ≠ 3 then ((d.halt e 2 x.pc).engRec e 0x8003 5 e x.pc).emit (.refugeNote (pgENG e)) else d

end Sys2Proof.Machine
end

