-- ==== Sys2Proof/Machine/Recorder.lean ====
section
/-! DEFINITION. The event recorder EVR: sequencing, staging, retained buffer, flash log, tamper log, mirror triggers
(R408 to R422, R426 to R428). -/

namespace Sys2Proof.Machine

open Sys2Proof

def pgEVR : Nat := 0x081

/-! ### The record's bytes (R408, R409) -/

/-- Bytes 0x00 to 0x1B of a record. -/
def Rec.body (r : Rec) : List Byte :=
  leBytes r.code 2 ++ leBytes (r.sev % 8 + r.kind % 4 * 8 + r.pos % 4 * 32 + b2n r.late * 128) 1 ++ leBytes r.src 1 ++
    leBytes r.time 8 ++ leBytes r.seq 4 ++ leBytes r.p.p0 4 ++ leBytes r.p.p1 4 ++ leBytes r.p.p2 4

/-- The 32 bytes of a record. -/
def Rec.bytes (r : Rec) : List Byte := r.body ++ leBytes (crc32c r.body).toNat 4

/-- The record in 32 bytes whose check passes. -/
def parseRec (b : List Byte) : Option Rec :=
  let w := leAt b 2 1
  let r : Rec := {
    code := leAt b 0 2, sev := w % 8, kind := w / 8 % 4, pos := w / 32 % 4, late := w.testBit 7, src := leAt b 3 1,
    time := leAt b 4 8, seq := leAt b 12 4, p := ⟨leAt b 16 4, leAt b 20 4, leAt b 24 4⟩ }
  if b.length = 32 ∧ leAt b 28 4 = (crc32c r.body).toNat then some r else none

/-- `a` is newer than `b` modulo 2^32 (R412). -/
def newer (a b : Nat) : Bool :=
  let x := (a + 2 ^ 32 - b % 2 ^ 32) % 2 ^ 32
  decide (1 ≤ x) && decide (x < 2 ^ 31)

/-- A record EVR writes itself (R427), under the rate rule, at severity `sev`. -/
def Dev.evrRec (d : Dev) (code sev p0 p2 : Nat) : Dev := d.rated pgEVR code 0 sev p0 p2

/-! ### Order (R31, R412) -/

/-- The source number of the key of R412: 1,024 for a record of kind 1, 2 or 3. -/
def Rec.source (r : Rec) : Nat := if r.kind = 0 then r.code else 1024

/-- The key of R412 without arrival. -/
def Rec.before (a b : Rec) : Bool :=
  decide (a.time < b.time) || (a.time == b.time && (decide (a.source < b.source) ||
    (a.source == b.source && decide (a.pos < b.pos))))

/-- Inserts after every element that does not come later: equal keys keep their order of arrival. -/
def insertRec (r : Rec) : List Rec → List Rec
  | [] => [r]
  | x :: xs => if r.before x then r :: x :: xs else x :: insertRec r xs

/-- Records in the order of R412. -/
def sortRecs (l : List Rec) : List Rec := l.foldl (fun s r => insertRec r s) []

/-! ### Retained buffer (R415) -/

/-- A copy of a record enters the retained buffer, unless it lies there already; a full buffer counts it. -/
def Dev.retain (d : Dev) (r : Rec) : Dev :=
  if d.evr.retained.any (fun x => !x.numbered && decide (x.r = r)) then d
  else if 256 ≤ d.evr.retained.length then d.bump EVR_DROP_ret
  else { d with evr := { d.evr with retained := d.evr.retained ++ [{ r := r, numbered := false }] } }

def Dev.setRetained (d : Dev) (l : List Ret) : Dev := { d with evr := { d.evr with retained := l } }

/-- The copy of a record takes its number. -/
def numberRet (old new : Rec) (l : List Ret) : List Ret :=
  l.map (fun x => if !x.numbered ∧ x.r = old then { x with r := new, numbered := true } else x)

/-! ### Staging (R414) -/

/-- Writes a numbered record to the staging ring; the slot at the head may be overwritten when its record is of severity
0 to 2 or committed. While the ring is disabled, a record of severity 3 and above waits for the flash log without it (R13; log entry
323). -/
def Dev.evrStage (d : Dev) (r : Rec) : Dev :=
  if !d.flag EVR_CFG_stg_en then
    (if 3 ≤ r.sev then { d with evr := { d.evr with unstaged := d.evr.unstaged ++ [r] } } else d)
  else
    let i := d.rd EVR_STG_HEAD_head
    let free := match d.evr.staged.get i { r := r, committed := true } with
      | x => x.committed || decide (x.r.sev ≤ 2)
    if free then
      let d := { d with evr := { d.evr with staged := d.evr.staged.put i { r := r, committed := false } } }
      ((d.hwStore 0xFE (d.rd EVR_CFG_stg_base * 2 ^ 26 + 32 * i) r.bytes).2).wr EVR_STG_HEAD_head (i + 1)
    else
      let d := (d.bump EVR_DROP_stg).wr EVR_STAT_stg_full 1
      d.evrRec 0xF001 4 (d.rd EVR_DROP_stg) 0

/-- The next sequence number goes to a record, which leaves EVR for the ring and for export (R412, R413, R501); that of a dump's
record is the dump's number (R424). One of severity 7 that the retained buffer does not hold waits for the tamper log. -/
def Dev.sequence (d : Dev) (r : Rec) : Dev :=
  let n := d.rd EVR_SEQ_seq
  let new := { r with seq := n }
  let d := (d.wr EVR_SEQ_seq (n + 1)).wr BKD_SEQ_seq (n + 1)
  let l := numberRet r new d.evr.retained
  let wait := r.sev = 7 ∧ !l.any (fun x => x.numbered && x.r == new)
  let d := { d with
    evr := { d.evr with
      retained := l
      exports := d.evr.exports ++ [new]
      tlogWait := if wait then d.evr.tlogWait ++ [new] else d.evr.tlogWait }
    rfg := { d.rfg with dumps := d.rfg.dumps.map (fun q : DumpReq => if q.num.isNone ∧ q.written = some { r with late := false } then { q with num := some n } else q) } }
  d.evrStage new

/-! ### Takes (R414) -/

/-- The direct record that R414 takes first: the oldest time, then block index, then code. -/
def oldestDirect (l : List (Nat × Rec)) : Option (Nat × Rec) :=
  l.foldl (fun best x => match best with
    | none => some x
    | some b =>
      if x.2.time < b.2.time ∨ (x.2.time = b.2.time ∧ (x.1 < b.1 ∨ (x.1 = b.1 ∧ x.2.code < b.2.code))) then some x else best) none

/-- Removes the first copy. -/
def dropFirst (x : Nat × Rec) : List (Nat × Rec) → List (Nat × Rec)
  | [] => []
  | y :: ys => if y = x then ys else y :: dropFirst x ys

/-- The record EVR would take now, and the device without it where it waits. -/
def Dev.nextTake (d : Dev) : Option (Rec × Dev) :=
  let fromFifo := match d.evm.fifo with
    | [] => none
    | e :: t => some (e.2, { d with evm := { d.evm with fifo := t } })
  match oldestDirect d.evr.direct with
  | none => fromFifo
  | some x =>
    let taken := some (x.2, { d with evr := { d.evr with direct := dropFirst x d.evr.direct } })
    match fromFifo with
    | none => taken
    | some f => if f.1.time ≤ x.2.time then some f else taken

/-- EVR takes one record with a credit: records of severity 6 and 7 are retained before any staging; one whose tick has
closed is sequenced late at once (R412, R414, R415). -/
def Dev.evrTake (d : Dev) : Dev :=
  if d.evr.credits = 0 then d
  else match d.nextTake with
    | none => d
    | some (r, d) =>
      let d := { d with evr := { d.evr with credits := d.evr.credits - 1 } }
      let d := if 6 ≤ r.sev then d.retain r else d
      if d.evr.closed.any (fun t => decide (r.time ≤ t)) then
        let late := { r with late := true }
        (d.setRetained (d.evr.retained.map (fun x : Ret => if !x.numbered ∧ x.r = r then { x with r := late } else x))).sequence late
      else { d with evr := { d.evr with taken := d.evr.taken ++ [r] } }

/-- A take credit every 800 CCLK, up to 64 (R414). -/
def Dev.evrCredit (d : Dev) : Dev :=
  if d.evr.creditAt + 800 ≤ d.cclk then
    { d with evr := { d.evr with creditAt := d.evr.creditAt + 800, credits := min 64 (d.evr.credits + 1) } }
  else d

/-- EVR notes a tick (R412). -/
def Dev.evrNoteTick (d : Dev) : Dev := { d with evr := { d.evr with ticks := (d.tickTai :: d.evr.ticks).take 5 } }

/-- The tick four ticks back closes: its records take consecutive numbers in the order of R412. -/
def Dev.evrClose (d : Dev) : Dev :=
  match d.evr.ticks[4]? with
  | none => d
  | some t =>
    let now := sortRecs (d.evr.taken.filter (fun r => decide (r.time ≤ t)))
    let d := { d with evr := { d.evr with closed := some (max (d.evr.closed.getD 0) t), taken := d.evr.taken.filter (fun r => !decide (r.time ≤ t)) } }
    now.foldl Dev.sequence d

/-! ### Flash log (R416 to R419) -/

/-- Lines of the log's ring, live records it holds at most. -/
def logLines : Nat := 131072
def logMax : Nat := 129024

/-- Where the flash log lies: EVR_CFG while it is enabled, else where it was last enabled, which base camp knows at the start (log
entry 358). -/
def Dev.logFirst (d : Dev) : Option Nat := if d.flag EVR_CFG_flog_en then some (d.rd EVR_CFG_flog_first) else d.evr.logFirst

/-- The flash line of a line of the ring. -/
def Dev.logLine (d : Dev) (i : Nat) : Nat := d.logFirst.getD 0 * 1024 + i % logLines

/-- Live records. -/
def liveOf (l : List LogEnt) : List LogEnt := l.filter (fun e => !e.void)

/-- The oldest live record of lower severity. -/
def oldestLower (l : List LogEnt) (sev : Nat) : Option LogEnt :=
  (liveOf l).foldl (fun best e =>
    if sev ≤ e.r.sev then best
    else match best with
      | none => some e
      | some b => if newer b.r.seq e.r.seq then some e else some b) none

/-- Voids the line of an entry. -/
def voidLine (line : Nat) (l : List LogEnt) : List LogEnt := l.map (fun e => if e.line = line then { e with void := true } else e)

/-- EVR_STAT.live. -/
def Dev.setLog (d : Dev) (l : List LogEnt) : Dev :=
  { d with evr := { d.evr with log := l } }.wr EVR_STAT_live (liveOf l).length

/-- A line of a block lies programmed. -/
def Dev.blockUsed (d : Dev) (b : Nat) : Bool := d.flc.programmed.any (fun e => e.1 / 1024 == b)

/-- The block after the one being written: the spare (R417). -/
def Dev.spareBlock (d : Dev) : Nat := (d.logLine (d.evr.writeLine + 1024)) / 1024

/-- Writes a record at the write point, after `fails` lines whose program failed (R394, R416). -/
def Dev.logWrite (d : Dev) (r : Rec) : Nat → Dev
  | 0 =>
    let i := d.evr.writeLine
    let d := d.flPut (d.logLine i) r.bytes
    ({ d with evr := { d.evr with writeLine := (i + 1) % logLines } }).setLog (d.evr.log ++ [(⟨i, r, false⟩ : LogEnt)])
  | n + 1 =>
    let i := d.evr.writeLine
    let (v, d) := d.draw .flashLine
    let d := ((d.flPut (d.logLine i) (leBytes v 32)).flEvent 1000 0xE001 4 (d.logLine i / 1024) (d.logLine i * 32)).evrRec 0xF003 5
      (d.logLine i * 32) 0
    ({ d with evr := { d.evr with writeLine := (i + 1) % logLines } }).logWrite r n

/-- The mirror's trigger at a commit (R426). -/
def Dev.mirrorNote (d : Dev) (r : Rec) : Dev :=
  { d with evr := { d.evr with
    recent := (r :: d.evr.recent).take 512
    mirrorFrom := some (d.evr.mirrorFrom.getD d.cclk)
    mirrorDue := d.evr.mirrorDue || decide (6 ≤ r.sev) } }

/-- Commits a record under R418; one that finds no room is dropped. -/
def Dev.logCommit (d : Dev) (r : Rec) (fails : Nat) : Dev :=
  if (liveOf d.evr.log).length < logMax then (d.logWrite r fails).mirrorNote r
  else match oldestLower d.evr.log r.sev with
    | some e => ((d.setLog (voidLine e.line d.evr.log)).logWrite r fails).mirrorNote r
    | none =>
      let d := (d.bump EVR_DROP_flog).wr EVR_STAT_full 1
      d.evrRec 0xF002 5 (d.rd EVR_DROP_flog) r.sev

/-! ### Tamper log (R421, R422) -/

/-- Flash line of the record of entry `i`; its chain value is in the next. -/
def tlogLine (i : Nat) : Nat := 0x1FF0000 / 32 + 2 * i

/-- c_(-1): the chain value before the first entry. -/
def tlogSeed (uid : List Byte) : List Byte := shake256 ([0x54#8, 0x4C#8, 0x4F#8, 0x47#8] ++ uid) 32

/-- The chain head in EVR_TLOG_HEADk. -/
def Dev.setHead (d : Dev) (c : List Byte) : Dev :=
  (List.range 8).foldl (fun d k => d.wr EVR_TLOG_HEADk_bytes (leAt c (4 * k) 4) k) { d with evr := { d.evr with head := c } }

/-- Entry `i` is complete: the next entry, and after entry 1,022 the closing record. -/
def Dev.tlogNext (d : Dev) (i : Nat) : Dev :=
  if i = 1023 then d.wr EVR_TLOG_full 1
  else
    let d := d.wr EVR_TLOG_next (i + 1)
    if i = 1022 then d.direct pgEVR (d.mkRec 0xF005 7 1 0x7F ⟨0, 1, 0⟩) else d

/-- Appends a record of severity 7: the record line, then the chain line. Entry 1,023 takes the closing record only. -/
def Dev.tlogAppend (d : Dev) (r : Rec) : Dev :=
  let i := d.rd EVR_TLOG_next
  if !d.flag EVR_CFG_tlog_en ∨ d.flag EVR_TLOG_full ∨ r.sev ≠ 7 ∨ (i = 1023 ∧ r.code ≠ 0xF005) then d
  else
    let c := shake256 (d.evr.head ++ r.bytes) 32
    (((d.flPut (tlogLine i) r.bytes).flPut (tlogLine i + 1) c).setHead c).tlogNext i

/-! ### The commit step -/

/-- The first record waiting for the flash log: numbered copies of the retained buffer, then staged records of severity 3
and above, each in sequence order (R416). -/
def oldestSeq (l : List Rec) : Option Rec :=
  l.foldl (fun best r => match best with
    | none => some r
    | some b => if newer b.seq r.seq then some r else some b) none

def Dev.nextCommit (d : Dev) : Option Rec :=
  match oldestSeq ((d.evr.retained.filter (fun x => x.numbered)).map (·.r)) with
  | some r => some r
  | none => oldestSeq ((d.evr.staged.filter (fun e => !e.2.committed && decide (3 ≤ e.2.r.sev))).map (·.2.r) ++ d.evr.unstaged)

/-- The record is done with: its slot may be overwritten and its copy leaves the buffer. -/
def Dev.committed (d : Dev) (r : Rec) : Dev :=
  { d with evr := { d.evr with
    staged := d.evr.staged.map (fun e => if e.2.r.seq = r.seq then (e.1, { e.2 with committed := true }) else e)
    unstaged := d.evr.unstaged.filter (fun x => x.seq != r.seq)
    tlogWait := d.evr.tlogWait.filter (fun x => x.seq != r.seq)
    retained := d.evr.retained.filter (fun x => !(x.numbered && x.r.seq == r.seq)) } }

/-- The flash log takes a line now: enabled, spare erased, bank free. -/
def Dev.logReady (d : Dev) : Bool :=
  let b := d.logLine d.evr.writeLine / 1024
  d.flag EVR_CFG_flog_en && !d.blockUsed d.spareBlock && d.flProgState b == .ok && !d.indet b

/-- Lines that a commit may find failing: the last of them lies in the spare (R417). -/
def Dev.logRoom (d : Dev) : Nat := 2047 - d.evr.writeLine % 1024

/-- EVR commits one record; one of severity 7 goes to the tamper log too. With the flash log disabled, a record of severity
7 goes to the tamper log alone. -/
def Dev.evrCommit (d : Dev) (fails : Nat) : Dev :=
  if d.flag EVR_CFG_flog_en then
    if !d.logReady then d
    else match d.nextCommit with
      | none => d
      | some r =>
        let logged := d.evr.retained.any (fun x => x.logged && x.r.seq == r.seq)
        let d := (d.logCommit r (min fails d.logRoom)).committed r
        if r.sev = 7 ∧ !logged then d.tlogAppend r else d
  else match d.evr.retained.find? (fun x => x.numbered && !x.logged && x.r.sev == 7) with
    | none => match d.evr.tlogWait with
      | [] => d
      | r :: t => ({ d with evr := { d.evr with tlogWait := t } }).tlogAppend r
    | some x =>
      ({ d with evr := { d.evr with
        retained := d.evr.retained.map (fun y => if y = x then { y with logged := true } else y) } }).tlogAppend x.r

/-- An erase by the Refuge that base camp or a transition waits for (R395). -/
def Dev.eraseNow (d : Dev) (b : Nat) : Dev := (d.flEraseStart b 0x0E).flEraseDone (b / 256) true

/-- Copies live records forward. -/
def Dev.copyForward (d : Dev) : List LogEnt → Dev
  | [] => d
  | e :: t =>
    let i := d.evr.writeLine
    let d := (d.flPut (d.logLine i) e.r.bytes).bump EVR_COPY_copies
    let d := { d with evr := { d.evr with
      writeLine := (i + 1) % logLines
      log := d.evr.log.map (fun x => if x = e then { x with line := i } else x) } }
    d.copyForward t

/-- The block after the write block is the oldest: its live records are copied to the write point (R417). -/
def Dev.reclaimCopies (d : Dev) : Dev :=
  let first := (d.evr.writeLine / 1024 * 1024 + 1024) % logLines
  let inOld (e : LogEnt) : Bool := decide (first ≤ e.line) && decide (e.line < first + 1024)
  let d := d.copyForward ((liveOf d.evr.log).filter inOld)
  d.setLog (d.evr.log.filter (fun e => !inOld e))

/-- Then its erase starts, with the Refuge's requester ID (R416), and when that ends it is the spare. -/
def Dev.evrReclaim (d : Dev) : Dev :=
  let b := d.spareBlock
  if !d.flag EVR_CFG_flog_en ∨ !d.blockUsed b ∨ d.flEraseState b ≠ .ok then d
  else d.reclaimCopies.flEraseStart b 0x0E

/-- Base camp's commit: it erases the spare first where an interrupted reclaim left it used, and meets the lines that fail in this
start (R416, R417). -/
def Dev.startCommit (d : Dev) (r : Rec) : Dev :=
  let b := d.spareBlock
  let d := if d.blockUsed b ∧ d.flEraseState b = .ok then d.reclaimCopies.eraseNow b else d
  let fails := ((List.range d.logRoom).takeWhile (fun k => d.flc.failing.contains (d.logLine (d.evr.writeLine + k)))).length
  d.logCommit r fails

/-! ### Base camp's work on the logs (R415, R419, R422) -/

/-- The records that lie in the flash log, in lines that can be read (R388, R401, R409), identical copies merged, oldest number first. -/
def Dev.logPresent (d : Dev) : List LogEnt :=
  let lo := d.logFirst.getD 0 * 1024
  let found := d.flc.programmed.filterMap (fun e =>
    if lo ≤ e.1 ∧ e.1 < lo + logLines ∧ d.flEcc e.1 ≠ 2 ∧ !d.indet (e.1 / 1024) then
      match parseRec (d.load (flashBase + 32 * e.1) 32) with
      | some r => some { line := e.1 - lo, r := r, void := false : LogEnt }
      | none => none
    else none)
  found.foldl (fun l e => if l.any (fun x => decide (x.r = e.r)) then l else ins e l) []
where
  /-- Inserts in sequence order. -/
  ins (e : LogEnt) : List LogEnt → List LogEnt
    | [] => [e]
    | x :: xs => if newer x.r.seq e.r.seq then e :: x :: xs else x :: ins e xs

/-- R418 applied to the records present, in sequence order, from an empty map. -/
def rebuildVoid (l : List LogEnt) : List LogEnt :=
  l.foldl (fun acc e =>
    if (liveOf acc).length < logMax then acc ++ [e]
    else match oldestLower acc e.r.sev with
      | some x => voidLine x.line acc ++ [e]
      | none => acc ++ [{ e with void := true }]) []

/-- The first line at or after line `i` of the ring that is not programmed. -/
def Dev.logFree (d : Dev) (i : Nat) : Nat :=
  ((List.range logLines).find? (fun k => !d.flc.programmed.any (fun e => e.1 == d.logLine (i + k)))).map (fun k => (i + k) % logLines)
    |>.getD (i % logLines)

/-- The void map, the write point and the last 512 records committed (R426) are rebuilt (R419); writing goes on after the newest record and the copies of an interrupted
reclaim that follow it. -/
def Dev.logRebuild (d : Dev) : Dev :=
  if d.logFirst.isNone then d.wr EVR_STAT_rebuilt 1
  else
    let l := rebuildVoid d.logPresent
    let w := match l.getLast? with
      | some e => d.logFree (e.line + 1)
      | none => d.logFree 0
    (({ d with evr := { d.evr with writeLine := w, recent := (l.reverse.take 512).map LogEnt.r } }).setLog l).wr EVR_STAT_rebuilt 1

/-- The number after the highest found in flash and buffer, or BKD_SEQ, whichever is greater (R413). -/
def Dev.seqResume (d : Dev) : Dev :=
  let seqs := (d.evr.log.map (·.r.seq)) ++ ((d.evr.retained.filter (·.numbered)).map (·.r.seq))
  let n := seqs.foldl (fun n s => if newer (s + 1) n then (s + 1) % 2 ^ 32 else n) (d.rd BKD_SEQ_seq)
  (d.wr EVR_SEQ_seq n).wr BKD_SEQ_seq n

/-- Base camp examines the last programmed entry of the tamper log (R422). -/
def Dev.tlogRecover (d : Dev) : Dev :=
  let i := d.rd EVR_TLOG_next
  if !d.flc.programmed.any (fun e => e.1 == tlogLine i) then d
  else match parseRec (d.load (flashBase + 32 * tlogLine i) 32) with
    | some r =>
      let c := shake256 (d.evr.head ++ r.bytes) 32
      ((d.flPut (tlogLine i + 1) c).setHead c).tlogNext i
    | none => (d.tlogNext i).direct pgEVR (d.mkRec 0xF006 6 1 0x7F ⟨i, 1, 0⟩)

/-- Copies whose tick had not closed take their numbers in the order of R412. -/
def Dev.retNumber (d : Dev) : Dev :=
  let l := sortRecs ((d.evr.retained.filter (fun x => !x.numbered)).map (·.r))
  l.foldl (fun d r =>
    let n := d.rd EVR_SEQ_seq
    let d := (d.wr EVR_SEQ_seq (n + 1)).wr BKD_SEQ_seq (n + 1)
    { d with evr := { d.evr with retained := numberRet r { r with seq := n } d.evr.retained } }) d

/-- One commit of the retained buffer at the start. -/
def Dev.retCommitOne (d : Dev) : Dev :=
  match oldestSeq ((d.evr.retained.filter (fun x => x.numbered)).map (·.r)) with
  | none => d
  | some r =>
    let logged := d.evr.retained.any (fun x => x.logged && x.r.seq == r.seq)
    let d := (if d.logFirst.isSome then d.startCommit r else d).committed r
    if r.sev = 7 ∧ !logged then d.tlogAppend r else d

/-- Base camp commits the retained buffer and writes record 0xF004 with their number, less those R418 dropped (R415). -/
def Dev.retCommit (d : Dev) : Dev :=
  let was := d.rd EVR_DROP_flog
  let n := if d.logFirst.isNone then 0 else d.evr.retained.length
  let d := (List.range d.evr.retained.length).foldl (fun d _ => d.retCommitOne) d.retNumber
  let n := n - (d.rd EVR_DROP_flog - was)
  ({ d with evr := { d.evr with retained := [] } }).direct pgEVR (d.mkRec 0xF004 3 1 0x7F ⟨n, 1, 0⟩)

/-- A power loss while an entry of the tamper log was being appended: 1 its record line torn, 2 its record line programmed
and its chain line erased (R422). -/
def Dev.tlogCut (d : Dev) (cut : Nat) : Dev :=
  match d.evr.retained.find? (fun x => x.r.sev == 7 && !x.logged) with
  | none => d
  | some x =>
    let i := d.rd EVR_TLOG_next
    if d.flag EVR_TLOG_full then d
    else if cut = 1 then
      let (v, d) := d.draw .flashTorn
      d.flPut (tlogLine i) (leBytes v 32)
    else if cut = 2 then d.flPut (tlogLine i) x.r.bytes
    else d

/-! ### Registers (R428) -/

/-- flog_first breaks R417: not 128 blocks in banks 2 and 3 below block 1,022. -/
def flogBad (first : Nat) : Bool := decide (first < 512) || decide (1022 < first + 128)

/-- The writes of the EVR page. -/
def Dev.evrWrite (d : Dev) (off v : Nat) : Status × Dev :=
  match off with
  | 0x040 =>
    let busy := (d.flag EVR_CFG_flog_en && bitsOf v 25 16 != d.rd EVR_CFG_flog_first) ||
      (d.flag EVR_CFG_stg_en && bitsOf v 13 0 != d.rd EVR_CFG_stg_base)
    let st := pickStatus [if busy then .busy else .ok, if bitOf v 30 && flogBad (bitsOf v 25 16) then .badParam else .ok]
    if st ≠ .ok then (st, d)
    else
      let d := if bitOf v 30 then { d with evr := { d.evr with logFirst := some (bitsOf v 25 16) } } else d
      d.plainWrite pgEVR off (setBits v 29 29 1)
  | _ => d.plainWrite pgEVR off v

end Sys2Proof.Machine
end

