-- ==== Sys2Proof/Machine/Tamper.lean ====
section
/-! DEFINITION. The tamper monitors TMP, zeroise and the backup domain BKD (R366 to R384). -/

namespace Sys2Proof.Machine

open Sys2Proof

def pgTMP : Nat := 0x07D
def pgBKD : Nat := 0x07E
def pgLCC : Nat := 0x07C

/-! ### Alarm latches (R366, R367) -/

/-- A pair of 32-bit registers as 64 source bits. -/
def Dev.tmpEn (d : Dev) : Nat := d.rd64 TMP_EN_LO_bits TMP_EN_HI_bits
def Dev.tmpLatch (d : Dev) : Nat := d.rd64 TMP_LATCH_LO_bits TMP_LATCH_HI_bits
def Dev.tmpCond (d : Dev) : Nat := d.rd64 TMP_COND_LO_bits TMP_COND_HI_bits
def Dev.lccFuse (d : Dev) : Nat := d.rd64 LCC_FUSE_LO_disabled LCC_FUSE_HI_disabled

/-- Source `s` is active: enabled and not fused off. -/
def Dev.tmpActive (d : Dev) (s : Nat) : Bool := d.tmpEn.testBit s && !d.lccFuse.testBit s

/-- What source `s` presents: its latch, or for EV0048 the backup log's state; 0 while inactive, and for an alarm that the backup
log took (R379). -/
def Dev.tmpPresents (d : Dev) (s : Nat) : Bool :=
  d.tmpActive s && !d.tmp.logged.testBit s && (if s = 48 then d.flag BKD_LOG_STAT_count else d.tmpLatch.testBit s)

/-- Every source of EV0000 to EV0049 presents its state; the parameters of one that stays are kept. -/
def Dev.tmpSettle (d : Dev) : Dev :=
  (List.range 50).foldl (fun d s =>
    if d.evm.level.getLsbD s = d.tmpPresents s then d else d.level s (d.tmpPresents s)) d

def setBit64 (v i : Nat) (b : Bool) : Nat := setBits v i i (b2n b)

/-- A latch; cleared, its next alarm is a new one. -/
def Dev.setLatch (d : Dev) (s : Nat) (b : Bool) : Dev :=
  { d.wr64 TMP_LATCH_LO_bits TMP_LATCH_HI_bits (setBit64 d.tmpLatch s b) with
    tmp := { d.tmp with logged := if b then d.tmp.logged else setBit64 d.tmp.logged s false } }
def Dev.setCond (d : Dev) (s : Nat) (b : Bool) : Dev := d.wr64 TMP_COND_LO_bits TMP_COND_HI_bits (setBit64 d.tmpCond s b)

/-- TMP_GLITCH.window_s as it acts, in CCLK. -/
def Dev.glitchWindow (d : Dev) : Nat := max 1 (d.rd TMP_GLITCH_window_s) * cclkPerS

/-- A rise of EV0032 to EV0036 counts; at the limit EV0049's latch sets (R371). -/
def Dev.glitch (d : Dev) : Dev :=
  let n := d.rd TMP_GLITCH_count
  let d := if n = 0 then { d with tmp := { d.tmp with glitchAt := d.cclk } } else d
  let d := d.wr TMP_GLITCH_count (satAdd 255 n 1)
  if d.rd TMP_GLITCH_limit ≠ 0 ∧ d.rd TMP_GLITCH_limit ≤ n + 1 ∧ d.tmpActive 49 then d.setLatch 49 true else d

/-- The monitor of source `s` detects its condition, which lasts or is over again; the latch sets (R366). -/
def Dev.tamperDetect (d : Dev) (s : Nat) (lasting : Bool) : Dev :=
  if 48 ≤ s ∨ !d.tmpActive s then d
  else
    let was := d.tmpLatch.testBit s
    let d := (d.setLatch s true).setCond s lasting
    let d := if !was ∧ 32 ≤ s ∧ s ≤ 36 then d.glitch else d
    d.tmpSettle

/-- Conditions that persist across a reset set their latches again (R366). -/
def Dev.tamperPersist (d : Dev) (cond : Nat) : Dev :=
  if cond = 0 then d
  else (List.range 48).foldl (fun d s => if cond.testBit s then d.tamperDetect s true else d) d

/-- Regions whose light sensors failed their start-up self-test alarm (R368). -/
def Dev.lightSelftest (d : Dev) (regions : Nat) : Dev :=
  if regions = 0 then d
  else (List.range 16).foldl (fun d s => if regions.testBit s && d.tmpActive s then d.tamperDetect s false else d)
    (d.wr TMP_LIGHT_CFG_selftest_fail regions)

/-- Conditions that are over (R366). -/
def Dev.tamperOver (d : Dev) (ovr : Nat) : Dev :=
  if d.tmpCond = 0 then d
  else (List.range 64).foldl (fun d s => if ovr.testBit s then d.setCond s false else d) d

/-- The glitch count clears window_s seconds after its first increment (R371). -/
def Dev.glitchExpiry (d : Dev) : Dev :=
  if d.rd TMP_GLITCH_count ≠ 0 ∧ d.tmp.glitchAt + d.glitchWindow ≤ d.cclk then d.wr TMP_GLITCH_count 0 else d

/-- A write of TMP_LATCH_LO or TMP_LATCH_HI (R366): each latch clears unless its condition persists; a refusal is
recorded (R383). -/
def Dev.tmpLatchWrite (d : Dev) (hi : Bool) (v : Nat) : Status × Dev :=
  let base := if hi then 32 else 0
  let (busy, d) := (setBitsOf v 32).foldl (fun (acc : Bool × Dev) i =>
    let s := base + i
    let d := acc.2
    if !d.tmpLatch.testBit s then acc
    else if d.tmpCond.testBit s then (true, d.rated pgTMP 0xD001 s 3 s 0)
    else (acc.1, d.setLatch s false)) (false, d)
  (if busy then .busy else .ok, d.tmpSettle)

/-- A write of TMP_EN_LO or TMP_EN_HI: the first after reset fixes them; fused bits read 0 (R367). -/
def Dev.tmpEnWrite (d : Dev) (off v : Nat) : Status × Dev :=
  let (st, d) := d.plainWrite pgTMP off v
  let fused := d.lccFuse
  let d := d.wr64 TMP_EN_LO_bits TMP_EN_HI_bits (d.tmpEn - (d.tmpEn &&& fused))
  (st, d.tmpSettle)

def Dev.tmpWrite (d : Dev) (off v : Nat) : Status × Dev :=
  match off with
  | 0x040 => d.tmpEnWrite off v
  | 0x044 => d.tmpEnWrite off v
  | 0x048 => d.tmpLatchWrite false v
  | 0x04C => d.tmpLatchWrite true v
  | _ => d.plainWrite pgTMP off v

/-! ### Zeroise (R375) -/

/-- Clears the vault slots that zeroise clears: all but the device slots (R346). -/
def Dev.vaultZeroise (d : Dev) : Dev :=
  { d with vault := d.vault.filter (fun e => e.1 == 0 || bitsOf e.2.attr 11 10 == 2) }

/-- The battery-backed vault is cleared, the sealing seed with it. -/
def Dev.bkdVaultClear (d : Dev) : Dev := { d with bkd := { d.bkd with vault := [], seed := [] } }

/-- Zeroise. Running cipher and hash jobs end with ST_ABORTED as those of the PKE do. -/
def Dev.zeroise (d : Dev) : Dev :=
  let d := d.vaultZeroise.bkdVaultClear
  let d := (List.range 8).foldl (fun d p => ((d.cplAbort p).2).cplDropKey p) d
  let d := (List.range 8).foldl (fun d p => d.resetRegs (pgCPL p) 0x044 0x064) d
  let d := d.hshDrop false
  let d := { d with hsh := { pkeCore0 := d.hsh.pkeCore0 } }.hshChainBit
  let d := { d with trv := { d.trv with keys := [] } }
  let d := d.pkeDrop false
  let d := { d with pke := { d.pke with mem := [] }, evr := { d.evr with staged := [], unstaged := [] } }
  { d with rfg := { d.rfg with rekey := true } }

/-! ### Backup domain (R376 to R382) -/

/-- The sources marked B in R368. -/
def bSources : Nat := maskOf [16, 17, 18, 19, 20, 21, 22, 23, 31, 39, 40, 42, 43, 44, 45, 46, 47]

def Dev.bkdArm (d : Dev) : Nat := d.rd64 BKD_ARM_LO_armed BKD_ARM_HI_armed

/-- The RTC in seconds and subseconds as its registers show it. -/
def Dev.setRtc (d : Dev) (rtc frac : Nat) : Dev :=
  let d := { d with bkd := { d.bkd with rtc := rtc % 2 ^ 47, frac := frac } }
  (d.wr BKD_RTC_SEC_sec (rtc / 32768)).wr BKD_RTC_SUB_sub (rtc % 32768)

/-- The RTC runs on its crystal for `n` CCLK, the crystal at its nominal rate (log entry 70). -/
def Dev.rtcRun (d : Dev) (n : Nat) : Dev :=
  let t := d.bkd.frac + n * 32768
  d.setRtc (d.bkd.rtc + t / cclkPerS) (t % cclkPerS)

/-- BKD at a tick: at a TAI second boundary in LOCKED the RTC is loaded and aligned; out of LOCKED it runs free (R377). -/
def Dev.rtcTick (d : Dev) (n : Nat) : Dev :=
  let d := d.rtcRun n
  if d.rd TIM_STATE_state ≠ 2 then d.wr BKD_STAT_rtc_free 1
  else if d.tickTai % 1000000000 = 0 then (d.setRtc (d.tickTai / 1000000000 * 32768) 0).wr BKD_STAT_rtc_free 0
  else d

/-- CRC-16/CCITT-FALSE. -/
def crc16Bit (c : Nat) : Nat := if c.testBit 15 then ((c * 2) % 65536) ^^^ 0x1021 else (c * 2) % 65536
def crc16 (l : List Byte) : Nat :=
  l.foldl (fun c b => (List.range 8).foldl (fun c _ => crc16Bit c) (c ^^^ (b.toNat * 256))) 0xFFFF

/-- The 16 bytes of a backup log entry (R380). -/
def bkdEntry (rtc src flags detail n : Nat) : List Byte :=
  let b := leBytes (rtc / 32768) 4 ++ leBytes (rtc % 32768) 2 ++ leBytes src 1 ++ leBytes flags 1 ++ leBytes detail 4 ++
    leBytes n 2
  b ++ leBytes (crc16 b) 2

/-- The index that entry `n` goes to. -/
def bkdIndex (n : Nat) : Nat := if n < 48 then n else 48 + (n - 48) % 16

/-- Writes one entry, stamped with the RTC, after the vault was cleared (R378, R380). -/
def Dev.bkdAppend (d : Dev) (src detail : Nat) : Dev :=
  let n := d.bkd.n
  let flags := d.rd BKD_STAT_rtc_free + 2 + 4 * d.rd BKD_STAT_on_vbat
  let e := bkdEntry d.bkd.rtc src flags detail n
  let d := { d with bkd := { d.bkd with log := d.bkd.log.put (bkdIndex n) e, n := n + 1 } }
  let d := d.wr BKD_LOG_STAT_count (min 0xFFFF (n + 1))
  if 64 ≤ n then d.bump BKD_LOG_STAT_overflow else d

/-- Alarms of one RTC cycle: the vault is cleared, the entries written in ascending source number, lock sets (R378). -/
def Dev.bkdAlarm (d : Dev) (srcs : List (Nat × Nat)) : Dev :=
  if srcs.isEmpty then d
  else
    let sorted := (List.range 64).filterMap (fun s => srcs.find? (fun x => x.1 == s))
    ((sorted.foldl (fun d x => d.bkdAppend x.1 x.2) d.bkdVaultClear).wr BKD_STAT_lock 1).tmpSettle

/-- The source has logged its alarm and its condition stands, or has not been absent for one second since its end (R378). -/
def Dev.bkdSilent (d : Dev) (s : Nat) : Bool :=
  d.bkd.standing.contains s || (d.bkd.seen.get s 0 != 0 && decide (d.bkd.rtc < d.bkd.seen.get s 0 + 32767))

/-- The conditions that stand from now on; those that stood before have ended now. -/
def Dev.bkdStand (d : Dev) (srcs : List Nat) : Dev :=
  let ended := d.bkd.standing.filter (fun s => !srcs.contains s)
  { d with bkd := { d.bkd with standing := srcs, seen := ended.foldl (fun t s => t.set s (d.bkd.rtc + 1) 0) d.bkd.seen } }

/-- The alarms that the backup log takes are not EVM's (R379). -/
def Dev.tmpLogged (d : Dev) (srcs : List Nat) : Dev :=
  { d with tmp := { d.tmp with logged := srcs.foldl (fun v s => setBit64 v s true) d.tmp.logged } }.tmpSettle

/-- EVM, at main power, has sampled the source's alarm. -/
def Dev.evmHas (d : Dev) (s : Nat) : Bool := d.sys.powered && d.evm.vec.getLsbD s

/-- The detail of a backup log entry: of the shield mesh and the external mesh alone (R380). -/
def bkdDetail (s v : Nat) : Nat := if (16 ≤ s ∧ s < 24) ∨ s = 46 ∨ s = 47 then v else 0

/-- The sources in alarm on battery from now on, `cycles` RTC cycles after the command before (log entry 445): each that is armed
logs one entry until its condition has been absent for one second. -/
def Dev.backupAlarm (d : Dev) (srcs : List (Nat × Nat)) (cycles : Nat) : Dev :=
  let d := d.setRtc (d.bkd.rtc + cycles) d.bkd.frac
  if !d.flag BKD_STAT_on_vbat then d
  else
    let armed := srcs.filter (fun x => (d.bkdArm &&& bSources).testBit x.1 && !d.evmHas x.1)
    let new := (armed.filter (fun x => !d.bkdSilent x.1)).map (fun x => (x.1, bkdDetail x.1 x.2))
    ((d.bkdStand (armed.map (·.1))).bkdAlarm new).tmpLogged (new.map (·.1))

/-- VBKD changes its feed (R376, R379), with VBAT as measured then. VDD_IO33 is then below 2.90 V (EV0030), VBAT perhaps outside
its window (EV0031). On the change to VBAT, rises of armed sources that EVM has not sampled are logged; those it has
sampled and that last are not. -/
def Dev.vbatSwitch (d : Dev) (toVbat : Bool) (mv : Nat) : Dev :=
  let was := d.flag BKD_STAT_on_vbat
  let d := (d.wr BKD_STAT_on_vbat (b2n toVbat)).wr BKD_STAT_vbat_mv mv
  let d := { d with bkd := { d.bkd with vbat := mv } }
  let d := if d.sys.powered ∧ (mv < 2200 ∨ 3800 < mv) then d.tamperDetect 31 true else d
  if toVbat ∧ !was then
    let d := if d.sys.powered then d.tamperDetect 30 true else d
    let d := d.wr BKD_STAT_rtc_free 1
    let armed := (List.range 64).filter (fun s => d.bkdArm.testBit s && d.tmpPresents s)
    let late := armed.filter (fun s => !d.evm.vec.getLsbD s)
    let d := (d.bkdStand armed).bkdStand (armed.filter (fun s => d.tmpCond.testBit s))
    (d.bkdAlarm (late.map (fun s => (s, bkdDetail s (d.tmp.detail.get s 0))))).tmpLogged late
  else if toVbat then d
  else d.bkdStand []

/-- VBKD falls below 1.8 V: vault, RTC and log are lost (R376). -/
def Dev.bkdLoss (d : Dev) : Dev :=
  if !d.flag BKD_STAT_on_vbat then d
  else
    let lock := d.flag BKD_CFG_por_lock
    let d := d.resetRegs pgBKD 0x040 0x074
    let d := { d with bkd := { lost := true, lossLock := lock } }
    (d.wr BKD_STAT_on_vbat 1).tmpSettle

/-- BKD_LOG_CLR (R381). -/
def Dev.bkdClear (d : Dev) : Dev :=
  let d := { d with bkd := { d.bkd with log := [], n := 0, lost := false, clearedAt := d.rd EVR_SEQ_seq } }
  ((((d.wr BKD_LOG_STAT_count 0).wr BKD_LOG_STAT_overflow 0).wr BKD_STAT_lock 0).wr BKD_STAT_bkd_por 0).tmpSettle

/-- The order in which the copy reads the log: indices 0 to 47, then the ring, oldest first (R381). -/
def bkdOrder (n : Nat) : List Nat :=
  (List.range (min n 48)) ++
    (if n ≤ 48 then [] else (List.range (min (n - 48) 16)).map (fun i => bkdIndex (n - min (n - 48) 16 + i)))

/-- A record the Refuge writes in base camp: numbered, committed to the flash log and, at severity 7, appended to the tamper
log at once (R381, R416, R421). -/
def Dev.recNow (d : Dev) (code sev : Nat) (p : P3) : Dev :=
  let n := d.rd EVR_SEQ_seq
  let d := (d.wr EVR_SEQ_seq (n + 1)).wr BKD_SEQ_seq (n + 1)
  let r := { d.mkRec code sev 3 0x7E p with seq := n }
  let d := if d.logFirst.isSome then d.startCommit r else d
  if sev = 7 then d.tlogAppend r else d

/-- The records of the tamper log. -/
def Dev.tlogRecs (d : Dev) : List Rec :=
  (List.range (d.rd EVR_TLOG_next)).filterMap (fun i => parseRec (d.load (flashBase + 32 * tlogLine i) 32))

/-- Copies the entry at an index, unless a record of the flash log or the tamper log shows that it was copied before (R381, R382). -/
def Dev.bkdCopyOne (d : Dev) (i : Nat) : Dev :=
  let e := d.bkd.log.get i []
  let seq := leAt e 12 2
  let done := (d.evr.log.map (·.r) ++ d.tlogRecs).any (fun r => r.code == 0xD020 && bitsOf r.p.p0 31 16 == seq &&
    decide ((r.seq + 2 ^ 32 - d.bkd.clearedAt) % 2 ^ 32 < 2 ^ 31))
  if done then d
  else
    let bad := decide (leAt e 14 2 ≠ crc16 (e.take 14))
    d.recNow 0xD020 7 ⟨leAt e 6 1 + leAt e 7 1 % 128 * 256 + b2n bad * 2 ^ 15 + seq * 2 ^ 16, leAt e 0 4, leAt e 4 2⟩

/-- Base camp's copy of the backup log (R381): records, tamper lock, clear; and the report of a lost state (R376). With `cut` the power
fails after so many entries (R382). -/
def Dev.bkdCopy (d : Dev) (cut : Option Nat) : Dev :=
  let d := if d.bkd.lost then
      let d := d.recNow 0xD002 7 ⟨0, 0, 0⟩
      let d := if d.bkd.lossLock then d.wr LCC_STATE_tamper_lock 1 else d
      { d with bkd := { d.bkd with lost := false, clearedAt := d.rd EVR_SEQ_seq } }
    else d
  if d.bkd.n = 0 then d
  else
    let order := bkdOrder d.bkd.n
    let d := ((match cut with | some n => order.take n | none => order)).foldl Dev.bkdCopyOne d
    if cut.isSome then { d with sys := { d.sys with powered := false, outHigh := false } }
    else
    let d := d.recNow 0xD021 7 ⟨d.rd BKD_LOG_STAT_overflow, 0, 0⟩
    let d := if d.flag BKD_STAT_lock then d.wr LCC_STATE_tamper_lock 1 else d
    d.bkdClear

/-! ### Registers of BKD (R384) -/

/-- BKD_LOG_DATA: entry bytes; each read advances SEL. -/
def Dev.bkdLogRead (d : Dev) : Nat × Dev :=
  let i := d.rd BKD_LOG_SEL_index
  let w := d.rd BKD_LOG_SEL_word
  let e := d.bkd.log.get i []
  let next := (4 * i + w + 1) % 256
  (leAt e (4 * w) 4, (d.wr BKD_LOG_SEL_index (next / 4)).wr BKD_LOG_SEL_word (next % 4))

def Dev.bkdVaultNext (d : Dev) : Dev := d.wr BKD_VAULT_SEL_word ((d.rd BKD_VAULT_SEL_word + 1) % 512)
def Dev.bkdVaultRead (d : Dev) : Nat × Dev := ((d.bkd.vault.get (d.rd BKD_VAULT_SEL_word) 0).toNat, d.bkdVaultNext)
def Dev.bkdVaultWrite (d : Dev) (v : Nat) : Status × Dev :=
  (.ok, ({ d with bkd := { d.bkd with vault := d.bkd.vault.set (d.rd BKD_VAULT_SEL_word) (BitVec.ofNat 32 v) 0 } }).bkdVaultNext)

/-- The writes of the BKD page: only sources marked B and not fused off can be armed (R367). -/
def Dev.bkdWrite (d : Dev) (off v : Nat) : Status × Dev :=
  match off with
  | 0x044 => d.plainWrite pgBKD off (v &&& (bSources % 2 ^ 32) &&& (2 ^ 32 - 1 - d.lccFuse % 2 ^ 32))
  | 0x048 => d.plainWrite pgBKD off (v &&& (bSources / 2 ^ 32) &&& (2 ^ 32 - 1 - d.lccFuse / 2 ^ 32))
  | 0x064 => (.ok, if bitOf v 0 then d.bkdClear else d)
  | 0x06C => d.bkdVaultWrite v
  | _ => d.plainWrite pgBKD off v

end Sys2Proof.Machine
end

