-- ==== Sys2Proof/Machine/Reset.lean ====
section
/-! DEFINITION. Power-on and warm resets, the loss of power, RESET_OUT_N (R375, R400, R403, R517 to R520). -/

namespace Sys2Proof.Machine

open Sys2Proof

def pgSYS : Nat := 0x000
def pgRFG : Nat := 0x07B
def pgTRN : Nat := 0x07A

/-- A record of the Refuge (R364): kind 3, source 0x7E, one occurrence. -/
def Dev.refugeRec (d : Dev) (code sev p0 p2 : Nat) : Dev := d.direct pgRFG (d.mkRec code sev 3 0x7E ⟨p0, 1, p2⟩)

/-- The end of debug authorisation, why: 0 expiry, 1 reset, 2 tamper, 3 revoke (R360, R364). -/
def Dev.dbgEnd (d : Dev) (why : Nat) : Dev :=
  if d.flag RFG_DBG_active then
    ((d.wr RFG_DBG_active 0).wr RFG_DBG_perms 0).refugeRec 0xC032 3 why 0
  else d

/-- The registers a reset keeps: the backup domain, what LCC shows of OTP, the place and chain head of the tamper log in
flash, the causes collected so far; the straps through a warm reset (R365, R376, R421, R518). -/
def keptReg (warm : Bool) (key : Nat) : Bool :=
  (decide (16 ≤ key % 1024) && (key / 1024 == pgBKD || key / 1024 == pgLCC)) ||
    (decide (regKey pgEVR 0x058 ≤ key) && decide (key < regKey pgEVR 0x080)) ||
    (warm && (key == regKey pgSYS 0x040 || key == regKey pgSYS 0x044))

/-- An address whose content a reset keeps: flash always, DRAM through a warm reset. -/
def keptAddr (warm : Bool) (a : Nat) : Bool :=
  (decide (flashBase ≤ a) && decide (a < flashBase + 0x2000000)) || (warm && decide (0x1000000000 ≤ a))

/-- A row of the key vault or of the counter cache, which a warm reset keeps (R293). -/
def keptRow (k : Nat) : Bool := decide (rowKey pgRFG vaultRow ≤ k) && decide (k < rowKey pgRFG (cacheRow + 65536))

/-- What of the Refuge lies in OTP and flash. -/
def Dev.rfgKept (d : Dev) (warm : Bool) : Rfg :=
  { otp := d.rfg.otp
    fails := d.rfg.fails
    releasedAt := d.cclk
    trnReseedAt := d.cclk
    copies := d.rfg.copies
    firmware := d.rfg.firmware
    station := d.rfg.station
    refused := if warm then d.rfg.refused else 0 }

/-- The device after a reset, before the start-up scan: every block at its reset state, with what R518 keeps. After zeroise
the keys of DRAM are new and its content is gone (R299, R375). SRAM takes new scrambling keys and is written to zero (R293). -/
def Dev.restart (d : Dev) (warm : Bool) : Dev :=
  let dram := warm && !d.rfg.rekey
  let (sram, d) := d.draw .random
  let (vk, d) := if dram then (d.scramble.vault, d) else d.draw .random
  let (ret, d) := if warm then (d.scramble.retained, d) else d.draw .random
  let (mesh, d) := d.draw .random
  { cclk := d.cclk
    initTill := d.cclk + 8192
    scramble := ⟨sram, vk, ret⟩
    vaultTill := if dram then d.vaultTill else d.cclk + 8192
    lineCtr := if dram then d.lineCtr else []
    ctrCache := if dram then d.ctrCache else []
    ctrStored := if dram then d.ctrStored else []
    dramOld := warm && (d.dramOld || d.rfg.rekey)
    dramNew := if dram then d.dramNew else []
    ticks := d.ticks
    draws := d.draws
    resp := d.resp
    out := d.out
    regs := d.regs.filter (fun e => keptReg warm e.1)
    mem := d.mem.filter (fun c => keptAddr dram c.1)
    bad := d.bad.filter (fun e => (keptAddr dram e.1 && decide (e.1 < 2 ^ 44)) || (dram && keptRow e.1))
    evr := { retained := if warm then d.evr.retained else [], creditAt := d.cclk, head := d.evr.head, log := d.evr.log, writeLine := d.evr.writeLine, logFirst := d.evr.logFirst }
    vault := if warm then d.vault else []
    flc := { programmed := d.flc.programmed, flags := d.flc.flags, erases := d.flc.erases }
    rfg := d.rfgKept warm
    tmp := { seed := mesh }
    bkd := d.bkd
    isl := d.isl
    sys := { outTill := d.cclk + 80000 } }

/-- What the straps give: the rope position, and a rope follower's time (R51, R469). -/
def Dev.strapEffect (d : Dev) : Dev :=
  let p := d.rd SYS_STRAP_rope_pos
  (d.wr ROP_STAT_position p).wr TIM_CFG_rope_follow (b2n (p != 0))

/-- The reset itself, a warm one with its 10 µs (R518): a program or erase in progress is interrupted, debug authorisation ends with its record, the cause is
collected, disabled tamper sources take effect, conditions that persist latch again, FLC scans its
flags. -/
def Dev.resetNow (d : Dev) (warm : Bool) (cause : Nat) : Dev :=
  let debug := d.flag RFG_DBG_active
  let cond := d.tmpCond
  let sys := d.flc.flags.filter d.flSystem
  let d := if d.sys.outHigh then d.emit (.resetOut false) else d
  let d := if warm then ({ d with cclk := d.cclk + 10 * cclkPerUs }).rtcRun (10 * cclkPerUs) else d
  let d := ((d.flInterrupt).restart warm).seqResume
  let d := d.wrWord SYS_RST_CAUSE_cmd (d.rdWord SYS_RST_CAUSE_cmd ||| cause)
  let d := { d with sys := { d.sys with cause := d.rdWord SYS_RST_CAUSE_cmd } }
  let d := d.wr64 LCC_FUSE_LO_disabled LCC_FUSE_HI_disabled d.rfg.otp.fuse
  let d := d.wr64 TMP_EN_LO_bits TMP_EN_HI_bits (d.tmpEn - (d.tmpEn &&& d.rfg.otp.fuse))
  let d := d.wr64 BKD_ARM_LO_armed BKD_ARM_HI_armed (d.bkdArm - (d.bkdArm &&& d.rfg.otp.fuse))
  let d := if debug then d.refugeRec 0xC032 3 1 0 else d
  (((d.tmpSettle).tamperPersist cond).flScan sys).strapEffect

/-- Bits of SYS_RST_CAUSE. -/
def causePor : Nat := 1
def causeBrownout : Nat := 2
def causeWrst : Nat := 4
def causeAlarm : Nat := 8
def causeBootTimeout : Nat := 16
def causeCmd : Nat := 32

/-- A warm reset (R518). In bivouac mode with causes 1 to 6 it is exit 1 of R353: the counter becomes 2, and the record is
written at the restart. -/
def Dev.warmReset (d : Dev) (cause : Nat) : Dev :=
  let leaves := d.bivouac && d.rd RFG_BOOT_CAUSE_cause != 0 && d.rd RFG_BOOT_CAUSE_cause != 7
  let d := if leaves then { d with rfg := { d.rfg with fails := 2 } } else d
  let d := d.resetNow true cause
  if leaves then d.refugeRec 0xC004 7 1 0 else d

/-- A power-on reset with the straps sampled at the rise of POR_N and the RTC cycles that passed without power. -/
def Dev.powerOn (d : Dev) (brownout : Bool) (straps cycles : Nat) : Dev :=
  let leaves := d.bivouac && d.rd RFG_BOOT_CAUSE_cause != 0 && d.rd RFG_BOOT_CAUSE_cause != 7
  let d := if leaves then { d with rfg := { d.rfg with fails := 2 } } else d
  let d := d.setRtc (d.bkd.rtc + cycles) d.bkd.frac
  let d := d.resetNow false (if brownout then causeBrownout else causePor)
  let d := d.wrWord SYS_STRAP_rope_pos (straps % 8)
  let d := (d.strapEffect).wr BKD_STAT_on_vbat 0
  if leaves then d.refugeRec 0xC004 7 1 0 else d

/-- The supplies collapse (R517): flash operations and a tamper log entry are cut, and nothing runs until a power-on reset. -/
def Dev.powerLoss (d : Dev) (tlogCut : Nat) : Dev :=
  let d := (d.flInterrupt).tlogCut tlogCut
  { d with sys := { d.sys with powered := false, outHigh := false } }

/-- RESET_OUT_N rises 100 µs after the release of reset, and falls while SYS_EXT_RST.assert is 1 (R520). -/
def Dev.resetOutSettle (d : Dev) : Dev :=
  let high := decide (d.sys.outTill ≤ d.cclk) && !d.flag SYS_EXT_RST_assert
  if d.sys.outHigh = high then d
  else ({ d with sys := { d.sys with outHigh := high } }).emit (.resetOut high)

end Sys2Proof.Machine
end

