-- ==== Sys2Proof/Machine/Refuge.lean ====
section
/-! DEFINITION. The Refuge's services: TRN, attestation, signed commands and the life cycle, debug authorisation, gates,
fatal dumps (R263, R264, R275, R344 to R346, R355 to R365, R423 to R425). -/

namespace Sys2Proof.Machine

open Sys2Proof

/-! ### TRN (R363) -/

/-- The DRBG reseeds, one second after the last time or after 65,536 requests. -/
def Dev.trnReseed (d : Dev) : Dev :=
  if d.flag TRN_STAT_drbg_ready && (decide (d.rfg.trnReseedAt + cclkPerS ≤ d.cclk) || decide (65536 ≤ d.rfg.trnReqs)) then
    d.reseed
  else d

/-- A health test fails: 0 repetition, 1 proportion, 2 start-up. -/
def Dev.trnFail (d : Dev) (test : Nat) : Dev :=
  let d := ((d.wr TRN_STAT_drbg_ready 0).wr TRN_STAT_health_ok 0).bump TRN_STAT_fails
  ({ d with rfg := { d.rfg with trnFailAt := d.cclk } }).refugeRec 0xC020 6 test 0

/-- Random bits from the DRBG, one request; none while it does not serve. -/
def Dev.random (d : Dev) : Option (Nat × Dev) :=
  if d.flag TRN_STAT_drbg_ready then some d.drbg else none

/-- `n` random bytes, one request; the callers see to it that the DRBG serves. -/
def Dev.randomBytes (d : Dev) (n : Nat) : List Byte × Dev :=
  let (v, d) := d.drbg
  (leBytes v n, d)

/-! ### Life cycle (R355) -/

def Dev.lcc (d : Dev) : Nat := d.rd LCC_STATE_state
def Dev.ownerIdx (d : Dev) : Nat := d.rd LCC_COUNT_owner_idx
def Dev.secver (d : Dev) : Nat := d.rd LCC_COUNT_secver

/-- The hash of the current owner's key; empty with no owner. -/
def Dev.ownerHash (d : Dev) : List Byte := if d.ownerIdx = 0xF then [] else d.rfg.otp.owners.getD d.ownerIdx []

/-- A public key carried in flash is the one OTP names: signer 0 the vendor, 1 the current owner. While OTP holds no vendor
hash, in MANUF, any key passes for the vendor's (log entry 81). -/
def Dev.keyNamed (d : Dev) (signer : Nat) (pk : List Byte) : Bool :=
  if signer = 0 then d.rfg.otp.vendor.isEmpty || d.rfg.otp.vendor.contains (sha3_256 pk)
  else d.ownerIdx != 0xF && d.ownerHash == sha3_256 pk

/-! ### Attestation (R361) -/

/-- Bytes 0x00 to 0xDF of a statement. -/
def Dev.attestBody (d : Dev) (set : Nat) (nonce : List Byte) : List Byte :=
  let flags := b2n d.bivouac + 2 * b2n (d.flag LCC_STATE_tamper_lock) + 4 * b2n d.rfg.dbgSeen + 8 * b2n (d.lcc == 3)
  leBytes 0xA701 2 ++ leBytes set 1 ++ leBytes d.lcc 1 ++ padTo 16 d.rfg.otp.uid ++ padTo 32 nonce ++ leBytes d.taiNs 8 ++
    leBytes (d.rd TIM_STATE_state) 1 ++ leBytes d.secver 1 ++ leBytes d.rfg.role 1 ++ leBytes flags 1 ++
    leBytes (if d.ownerIdx = 0xF then 0xFF else d.ownerIdx) 1 ++ leBytes (d.rd RFG_BOOT_CAUSE_cause) 1 ++ leBytes 0 2 ++
    leBytes ((d.evr.recent.head?.map (·.seq)).getD 0) 4 ++ padTo 32 d.evr.head ++ padTo 32 d.rfg.fwDigest ++
    padTo 32 d.rfg.stationDigest ++ padTo 32 d.ownerHash ++ leBytes d.lccFuse 8 ++ leBytes 0 16

/-- The identity key for a parameter set: seeds and PRF key from slot 0, with the root of that set. -/
def Dev.identityKey (d : Dev) (set : Nat) : List Byte :=
  let k := (d.slotOf 0).key.take 96
  k ++ slhRoot (slhOf set) (k.take 32) (slice k 64 32)

/-- A signed statement. -/
def Dev.attest (d : Dev) (set : Nat) (nonce : List Byte) : List Byte × Dev :=
  let b := d.attestBody set nonce
  let (rnd, d) := d.randomBytes 32
  (b ++ slhSign (slhOf set) (d.identityKey set) [] b (some rnd), d)

/-- The statement with a zero nonce that BOOT_OK and bivouac entry sign and place in the island store; none in MANUF or
without an identity key (R352, R355, R361). Its set is 0 (log entry 82). While the DRBG does not serve it is due. -/
def Dev.placeStatement (d : Dev) : Dev :=
  if d.lcc = 0 ∨ (d.slotOf 0).type = 0 then d
  else if !d.flag TRN_STAT_drbg_ready then { d with rfg := { d.rfg with due := true } }
  else
    let (st, d) := d.attest 0 []
    { d with rfg := { d.rfg with statement := st, due := false } }

/-- The start-up tests run, 100 ms after the failure before; a pass resumes service, and a statement that is due is signed. -/
def Dev.trnRetest (d : Dev) (pass : Bool) : Dev :=
  if d.flag TRN_STAT_health_ok || decide (d.cclk < d.rfg.trnFailAt + 100 * cclkPerMs) then d
  else if pass then
    let d := (d.wr TRN_STAT_drbg_ready 1).wr TRN_STAT_health_ok 1
    let d := ({ d with rfg := { d.rfg with trnReseedAt := d.cclk, trnReqs := 0 } }).refugeRec 0xC021 2 0 0
    if d.rfg.due then d.placeStatement else d
  else d.trnFail 2

/-! ### Nonce and debug authorisation (R359, R360) -/

/-- RFG_NONCE_REQ. -/
def Dev.nonceRequest (d : Dev) : Status × Dev :=
  let st := pickStatus [if d.cclk < d.rfg.holdUntil then .busy else .ok, if d.flag TRN_STAT_drbg_ready then .ok else .notReady]
  if st ≠ .ok then (st, d)
  else
    let (v, d) := d.drbg
    let n := leBytes v 32
    let d := { d with rfg := { d.rfg with nonce := some n } }
    (.ok, (List.range 8).foldl (fun d k => d.wr RFG_NONCEk_bytes (leAt n (4 * k) 4) k) d)

/-- The nonce is consumed. -/
def Dev.nonceDrop (d : Dev) : Dev :=
  (List.range 8).foldl (fun d k => d.wr RFG_NONCEk_bytes 0 k) { d with rfg := { d.rfg with nonce := none } }

/-- The hold-off after consecutive refusals: 1 s, doubled up to 64 s. -/
def Dev.holdOff (d : Dev) : Dev :=
  let n := d.rfg.refused + 1
  { d with rfg := { d.rfg with refused := n, holdUntil := d.cclk + min 64 (2 ^ (min 6 (n - 1))) * cclkPerS } }

/-- RFG_DBG.holdoff: seconds left before the next nonce. -/
def Dev.holdOffLeft (d : Dev) : Nat := ceilDiv (d.rfg.holdUntil - d.cclk) cclkPerS

/-- A debug token is accepted. -/
def Dev.dbgGrant (d : Dev) (signer perms life : Nat) : Dev :=
  let d := { d with rfg := { d.rfg with dbgUntil := d.cclk + life * cclkPerS, dbgSeen := true } }
  ((d.wr RFG_DBG_active 1).wr RFG_DBG_perms perms).refugeRec 0xC031 6 signer perms

/-- The token's lifetime ends. -/
def Dev.dbgExpiry (d : Dev) : Dev := if d.rfg.dbgUntil ≤ d.cclk then d.dbgEnd 0 else d

/-! ### Transitions (R356) -/

/-- Erases the blocks of the owner and data regions but those of the tamper log. -/
def Dev.eraseRegions (d : Dev) (blocks : List Nat) : Dev :=
  (blocks.filter (fun b => decide (b < 1022))).foldl (fun d b => d.eraseNow b) d

/-- A random key of AES-256 in slot 8, the transport key: a slot of the Refuge that is sealed (log entry 83). -/
def Dev.transportKey (d : Dev) : Dev :=
  let (k, d) := d.randomBytes 32
  d.setSlot 8 { attr := 0x30320400, key := k }

/-- A new sealing seed. -/
def Dev.newSeed (d : Dev) : Dev :=
  let (s, d) := d.randomBytes 32
  { d with bkd := { d.bkd with seed := s } }

/-- Clears the sealed slots. -/
def Dev.clearSealed (d : Dev) : Dev :=
  { d with vault := d.vault.filter (fun e => bitsOf e.2.attr 11 10 != 1)
           rfg := { d.rfg with copies := d.rfg.copies.filter (fun e => bitsOf e.2.2.attr 11 10 != 1) } }

/-- The identity key: an SLH-DSA key in device slot 0 for signing by the Refuge (log entry 82). -/
def Dev.newIdentity (d : Dev) : Dev :=
  let (k, d) := d.randomBytes 96
  d.setSlot 0 { attr := 0x81020800, key := k ++ slhRoot slhS (k.take 32) (slice k 64 32) }

def Dev.setOtp (d : Dev) (o : Otp) : Dev := { d with rfg := { d.rfg with otp := o } }

/-- One step of a transition; a step that is repeated from its beginning gives the same result. -/
def Dev.transStep (d : Dev) (code step : Nat) (arg : List Byte) (env : CmdEnv) : Dev :=
  match code, step with
  | 1, 1 =>
    let (s, d) := d.randomBytes 32
    let (u, d) := d.randomBytes 16
    d.setOtp { d.rfg.otp with secret := s, uid := u }
  | 1, 2 => d.newIdentity
  | 1, 3 => d.setOtp { d.rfg.otp with vendor := env.hashes }
  | 1, 4 => d.wr LCC_STATE_state 1
  | 2, 1 => d.setOtp { d.rfg.otp with owners := [arg] }
  | 2, 2 => d.newSeed.transportKey
  | 2, 3 => d.eraseRegions env.regions
  | 2, 4 => (d.wr LCC_COUNT_owner_idx 0).wr LCC_STATE_state 2
  | 3, 1 => d.setOtp { d.rfg.otp with owners := d.rfg.otp.owners.take (d.ownerIdx + 1) ++ [arg] }
  | 3, 2 => d.clearSealed.newSeed
  | 3, 3 => d.eraseRegions env.regions
  | 3, 4 => d.transportKey
  | 3, 5 => d.wr LCC_COUNT_owner_idx (d.rfg.otp.owners.length - 1)
  | 4, 1 => { d with vault := d.vault.filter (fun e => e.1 == 0), rfg := { d.rfg with copies := d.rfg.copies.filter (fun e => e.1 == 0) } }
  | 4, 2 => { d with bkd := { d.bkd with seed := [] } }
  | 4, 3 => d.eraseRegions env.regions
  | 4, 4 => d.wr LCC_STATE_state 3
  | _, _ => d

/-- The last step of a transition. -/
def lastStep (code : Nat) : Nat := if code = 3 then 5 else 4

/-- The steps that draw from the DRBG. -/
def stepDraws (code step : Nat) : Bool := [(1, 1), (1, 2), (2, 2), (3, 2), (3, 4)].contains (code, step)

/-- LCC programs a progress mark into OTP. -/
def Dev.mark (d : Dev) (code step : Nat) : Dev :=
  (d.setOtp { d.rfg.otp with marks := d.rfg.otp.marks ++ [(code * 16 + step, true)] }).wr LCC_STATE_progress (code * 16 + step)

/-- The power fails while a mark is being programmed: a mark whose check fails, which counts as absent. -/
def Dev.markTorn (d : Dev) (code step : Nat) : Dev :=
  (d.setOtp { d.rfg.otp with marks := d.rfg.otp.marks ++ [(code * 16 + step, false)] }).powerLoss 0

/-- The steps from `step` on, `n` of them, with a progress mark after each; the transition's record ends it. With power lost
after `cut` marks, or within the next one, the rest is left for the next start, as is a step that the DRBG does not serve:
false. -/
def Dev.transRun (d : Dev) (code step : Nat) (arg : List Byte) (env : CmdEnv) (cut : Option Nat) : Nat → Bool × Dev
  | 0 => (false, d)
  | n + 1 =>
    if cut = some 0 ∧ !env.torn then (false, d.powerLoss 0)
    else if stepDraws code step && !d.flag TRN_STAT_drbg_ready then (false, d)
    else if cut = some 0 then (false, (d.transStep code step arg env).markTorn code step)
    else
      let d := (d.transStep code step arg env).mark code step
      if lastStep code ≤ step then
        let d := (d.wr LCC_STATE_progress 0).refugeRec 0xC010 7 code 0
        (true, if code = 3 then d.refugeRec 0xC012 7 d.ownerIdx 0 else d)
      else d.transRun code (step + 1) arg env (cut.map (· - 1)) n

/-- Base camp resumes an interrupted transition at the step after its last valid mark. -/
def Dev.transResume (d : Dev) (env : CmdEnv) : Dev :=
  let p := d.rd LCC_STATE_progress
  if p = 0 then d else (d.transRun (p / 16) (p % 16 + 1) [] env env.cut 5).2

/-! ### Signed commands (R358) -/

/-- A signed command's fields. -/
structure SignedCmd where
  fmt : Nat
  signer : Nat
  set : Nat
  uid : List Byte
  nonce : List Byte
  code : Nat
  state : Nat
  zero : Nat
  arg : List Byte
  sig : List Byte

def parseCmd (b : List Byte) : SignedCmd :=
  { fmt := leAt b 0 2, signer := leAt b 2 1, set := leAt b 3 1, uid := slice b 4 16, nonce := slice b 0x14 32,
    code := leAt b 0x34 1, state := leAt b 0x35 1, zero := leAt b 0x36 2, arg := slice b 0x38 32, sig := b.drop 0x58 }

/-- The command's format, reserved bits and argument are as R358 and R360 lay them out. -/
def SignedCmd.bad (c : SignedCmd) : Bool :=
  c.fmt != 0xC701 || decide (1 < c.signer) || decide (1 < c.set) || c.zero != 0 || c.arg.length != 32 ||
    !([1, 2, 3, 4, 5, 6, 8].contains c.code) ||
    ((c.code == 1 || c.code == 4 || c.code == 5) && c.arg.any (· != 0)) ||
    (c.code == 6 && decide (64 ≤ leAt c.arg 0 1)) ||
    (c.code == 8 && (decide (128 ≤ leAt c.arg 0 4) || leAt c.arg 4 4 == 0 || decide (86400 < leAt c.arg 4 4)))

/-- The signer is permitted for the command (R355, R358). -/
def SignedCmd.permitted (c : SignedCmd) (lcc : Nat) : Bool :=
  match c.code with
  | 1 => c.signer == 0
  | 2 => c.signer == 0
  | 3 => c.signer == 1
  | 4 => c.signer == 1 || lcc == 1
  | 5 => c.signer == 1 || lcc == 0 || lcc == 1
  | 6 => c.signer == 1
  | 8 => if lcc = 2 then c.signer == 1 else c.signer == 0
  | _ => false

/-- The command authenticates: key, signature, uid, nonce, state, signer. -/
def Dev.cmdAuth (d : Dev) (c : SignedCmd) (b : List Byte) (env : CmdEnv) : Bool :=
  d.keyNamed c.signer env.pk && c.permitted d.lcc && c.uid == d.rfg.otp.uid && d.rfg.nonce == some c.nonce && c.state == d.lcc &&
    slhVerify (slhOf c.set) env.pk [] (b.take 0x58) c.sig

/-- The limits of R355 to R357 and the token's least security version. -/
def Dev.cmdLimit (d : Dev) (c : SignedCmd) : Bool :=
  match c.code with
  | 1 => d.lcc == 0
  | 2 => d.lcc == 1
  | 3 => d.lcc == 2 && decide (d.ownerIdx < 8)
  | 4 => d.lcc == 1 || d.lcc == 2
  | 6 => !d.rfg.otp.fuse.testBit (leAt c.arg 0 1)
  | 8 => decide (leAt c.arg 8 1 ≤ d.secver)
  | _ => true

/-- The tamper lock is cleared; bivouac mode with cause 7 is left by a warm reset (R353, log entry 84),
which the record outlives (log entry 483). -/
def Dev.reprovision (d : Dev) (signer : Nat) : Dev :=
  let d := (d.wr LCC_STATE_tamper_lock 0).newSeed
  let r := d.mkRec 0xC014 7 3 0x7E ⟨signer, 1, 0⟩
  if d.bivouac && d.rd RFG_BOOT_CAUSE_cause == 7 then ((d.resetNow true 0).direct pgRFG r).refugeRec 0xC004 7 2 0
  else d.direct pgRFG r

/-- What an accepted command does. -/
def Dev.cmdEffect (d : Dev) (c : SignedCmd) (env : CmdEnv) : Dev :=
  match c.code with
  | 5 => d.reprovision c.signer
  | 6 => (d.setOtp { d.rfg.otp with fuse := d.rfg.otp.fuse ||| 2 ^ leAt c.arg 0 1 }).refugeRec 0xC013 7 (leAt c.arg 0 1) 0
  | 8 =>
    let p := leAt c.arg 0 4
    d.dbgGrant c.signer (if d.lcc = 3 then p &&& 0x33 else p) (leAt c.arg 4 4)
  | _ => (d.transRun c.code 1 c.arg env env.cut 5).2

/-- Executes a signed command (R358): every command consumes the nonce; a refusal is recorded and starts the hold-off. -/
def Dev.execSigned (d : Dev) (b : List Byte) (env : CmdEnv) : Status × Dev :=
  let c := parseCmd b
  let st := pickStatus [if c.bad then .badParam else .ok, if d.cmdAuth c b env then .ok else .authFail,
    if d.cmdLimit c then .ok else .lifecycle,
    if [1, 2, 3, 5].contains c.code && !d.flag TRN_STAT_drbg_ready then .notReady else .ok]
  let d := d.nonceDrop
  if st ≠ .ok then (st, (d.holdOff).refugeRec 0xC030 6 c.code 0)
  else (.ok, ({ d with rfg := { d.rfg with refused := 0 } }).cmdEffect c env)

/-- A row of one command: a block of bytes that carries another code does not reach it. -/
def Dev.cmdRow (d : Dev) (code : Nat) (b : List Byte) (env : CmdEnv) : Dev :=
  if leAt b 0x34 1 ≠ code then d
  else
    let (st, d) := d.execSigned b env
    if d.sys.powered then d.answer st else d

/-! ### Gates (R263, R264, R362) -/

/-- The level and world of a caller. -/
def Dev.pSuperEng (d : Dev) (e : Nat) : Bool := d.engWorld e == 1 && (d.engOf e).super

/-- Gate 241. -/
def Dev.gateRecord (d : Dev) (e : Nat) (g : Gate) : Status × Option Word × Dev :=
  let code := g.g4.toNat % 65536
  let sev := g.g5.toNat % 8
  let cap := if (d.engOf e).super then 6 else 4
  if code < 0x9000 ∨ 0x9FFF < code ∨ cap < sev then (.badParam, none, d)
  else (.ok, some 0, d.direct pgRFG (d.mkRec code sev 2 (d.engSrc e) ⟨g.g6.toNat, g.g7.toNat, g.epc⟩))

/-- The refusal of a caller whose level or world a gate does not serve. -/
def levelStatus (may : Bool) : Status := if may then .ok else .denied

/-- Gate 244: another engine of the caller's world is stopped and started. -/
def Dev.gateRestart (d : Dev) (e : Nat) (g : Gate) : Status × Option Word × Dev :=
  let t := g.g4.toNat
  let bad := decide (96 ≤ t) || t == e
  let st := pickStatus [levelStatus ((d.engOf e).super && (bad || d.engWorld t == d.engWorld e)), if bad then .badParam else .ok]
  if st ≠ .ok then (st, none, d)
  else
    let r := (d.engStop t).engStart t
    (r.1, if r.1 = .ok then some 0 else none, r.2)

/-- An asynchronous service is queued (R362), unless the gate refuses it; `pre` is the gate's own refusal (R11). -/
def Dev.service (d : Dev) (e : Nat) (g : Gate) (pre : Status) : Status × Option Word × Dev :=
  let st := pickStatus [pre, if 16 ≤ d.rfg.services.length then .busy else .ok]
  if st ≠ .ok then (st, none, d)
  else
    let s : Service := { gate := g.n, engine := e, g4 := g.g4.toNat, g5 := g.g5.toNat, g6 := g.g6.toNat,
                         queue := g.g7.toNat % 2 ^ 14, seq := g.g7.toNat / 2 ^ 16 }
    (.ok, none, { d with rfg := { d.rfg with services := d.rfg.services ++ [s] } })

/-- The caller's class in the users field (R345). -/
def Dev.worldUsers (d : Dev) (e : Nat) : Nat := (if d.engWorld e = 1 then 2 ^ 13 else if d.engWorld e = 2 then 2 ^ 14 else 0) + 2 ^ 17

/-- Key bytes a type holds as a blob carries them. -/
def keyLen (type : Nat) : Nat :=
  match type with
  | 1 => 16 | 2 => 24 | 3 => 32 | 4 => 32 | 5 => 96 | 6 => 144 | 8 => 128 | 9 => 128 | _ => 0

/-- The slot a decrypted blob makes: AES, HMAC and SLH-DSA keys as bytes; EC keys as d, Qx, Qy, RSA keys as five equal parts,
little-endian (log entry 85). -/
def slotOfBlob (attr : Nat) (key : List Byte) : Slot :=
  let t := bitsOf attr 31 28
  let part (n i : Nat) : Nat := leAt key (n * i) n
  if t = 5 then { attr := attr, nums := [part 32 0, part 32 1, part 32 2] }
  else if t = 6 then { attr := attr, nums := [part 48 0, part 48 1, part 48 2] }
  else if t = 7 then { attr := attr, nums := (List.range 5).map (part (key.length / 5)) }
  else { attr := attr, key := key }

/-- Gate 246: the blob is type and uses, key_id, IV, ciphertext and tag under slot 8, with no AAD (log entry 85). -/
def Dev.gateKeyInstall (d : Dev) (e : Nat) (g : Gate) : Status × Option Word × Dev :=
  let slot := g.g6.toNat
  let len := g.g5.toNat
  let st := pickStatus [levelStatus (d.engOf e).super, if slot < 16 ∨ 256 ≤ slot ∨ len < 36 ∨ 4096 < len then .badParam else .ok,
    if d.reach (0x10 + e) false g.g4.toNat (min len 4096) = .ok then .ok else .denied,
    if (d.slotOf 8).type = 3 then .ok else .notReady]
  if st ≠ .ok then (st, none, d)
  else
    let (rs, b, d) := d.jobRead (0x10 + e) g.g4.toNat len
    let (ks, d) := d.vaultRead 8 0x0E
    let rs := pickStatus [rs, ks]
    if rs ≠ .ok then (rs, none, d)
    else
      let iv := slice b 8 12
      let ct := slice b 20 (len - 36)
      let k := (d.slotOf 8).key
      let w := leAt b 0 4
      let type := bitsOf w 31 28
      let size := decide (type = 0 ∨ 10 ≤ type) || (type != 7 && keyLen type != ct.length) || (type == 7 && ct.length % 5 != 0) || bitsOf w 11 10 == 3
      let st := pickStatus [if gcmTag k iv [] ct = slice b (len - 16) 16 then .ok else .authFail, if size then .badParam else .ok]
      if st ≠ .ok then (st, none, d)
      else
        let attr := type * 2 ^ 28 + bitsOf w 27 20 * 2 ^ 20 + d.worldUsers e + bitsOf w 11 10 * 2 ^ 10
        (.ok, some 0, d.setSlot slot (slotOfBlob attr (xorBytes ct (ctrStream k (ctrAdd 4 (iv ++ [0, 0, 0, 1]) 1) 4 ct.length))))

/-- Gate 247. -/
def Dev.gateKeyErase (d : Dev) (e : Nat) (g : Gate) : Status × Option Word × Dev :=
  let slot := g.g4.toNat
  let bit := if d.engWorld e = 1 then 13 else 14
  let bad := decide (slot < 16) || decide (256 ≤ slot)
  let st := pickStatus [levelStatus ((d.engOf e).super && (bad || (d.slotOf slot).attr.testBit bit)), if bad then .badParam else .ok]
  if st ≠ .ok then (st, none, d)
  else (.ok, some 0, { d.setSlot slot {} with rfg := { d.rfg with copies := d.rfg.copies.filter (fun e => e.1 != slot) } })

/-- Gate 249: the security version advances to that of the running manifest at most, one OTP bit at a time (R357): each service
of the call programs one, and the last is answered (log entry 486). -/
def Dev.gateSecver (d : Dev) (e : Nat) (g : Gate) : Status × Option Word × Dev :=
  let v := g.g4.toNat
  let st := pickStatus [if d.pSuperEng e && d.rd RFG_STAGE_stage == 4 then .ok else .denied,
    if d.rfg.fwVersion < v then .badParam else .ok, if v ≤ d.secver ∨ 255 < v then .lifecycle else .ok]
  if st ≠ .ok then (st, none, d)
  else
    let d := d.wr LCC_COUNT_secver (d.secver + 1)
    (.ok, some (BitVec.ofNat 32 v), if d.secver = v then d.refugeRec 0xC011 7 v 0 else d)

/-- Gate 243 (R275): refused without a dump region, a transport key or a DRBG that serves, or while a dump is in progress. -/
def Dev.dumpRefusal (d : Dev) : Status :=
  pickStatus [if d.flag EVR_DUMP_en && (d.slotOf 8).type != 0 && d.flag TRN_STAT_drbg_ready then .ok else .notReady, if d.rfg.dumps.isEmpty then .ok else .busy]

/-- The Refuge's answer to a gate call: status, result and what it does. -/
def Dev.gateServe (d : Dev) (e : Nat) (g : Gate) : Status × Option Word × Dev :=
  let sup := (d.engOf e).super
  match g.n with
  | 240 => (.ok, some (BitVec.ofNat 32 (d.lcc + d.rfg.fwVersion % 256 * 256)), d)
  | 241 => d.gateRecord e g
  | 242 => match d.random with
    | some (v, d) => (.ok, some (BitVec.ofNat 32 v), d)
    | none => (.notReady, none, d)
  | 243 => (pickStatus [levelStatus sup, d.dumpRefusal], none, d)
  | 244 => d.gateRestart e g
  | 245 => d.service e g (if d.lcc = 0 then .lifecycle else .ok)
  | 246 => d.gateKeyInstall e g
  | 247 => d.gateKeyErase e g
  | 248 => d.service e g (levelStatus sup)
  | 249 => d.gateSecver e g
  | 250 => d.service e g (levelStatus (d.pSuperEng e))
  | 251 => (.ok, some (BitVec.ofNat 32 d.dbgPerms), d)
  | _ => (.badParam, none, d)

/-- The Refuge answers the gate call of an engine in state GATE; an accepted dump freezes it instead. -/
def Dev.gateReply (d : Dev) (e : Nat) : Dev :=
  match d.gateOf e with
  | none => d
  | some g =>
    let (st, res, d) := d.gateServe e g
    if g.n = 243 ∧ st = .ok then
      let req : DumpReq := { engine := e, trigger := 0, reason := g.g4.toNat, card := g.g5.toNat.testBit 0, at_ := d.taiNs, since := 0 }
      { d.engFreeze e 4 with rfg := { d.rfg with dumps := d.rfg.dumps ++ [req] } }.wr EVR_DUMP_STAT_busy 1
    else if g.n = 249 ∧ st = .ok ∧ d.secver < g.g4.toNat then d
    else d.gateAnswer e st res

/-! ### Asynchronous services (R362) -/

/-- The completion item of a service, unless the power failed within it. -/
def Dev.serviceItem (d : Dev) (s : Service) (st : Status) (arg : Nat) : Dev :=
  if !d.sys.powered then d
  else (d.hwEnqueue s.queue 0x0E d.tickTai (leBytes st.code 1 ++ [0] ++ leBytes s.queue 2 ++ leBytes arg 4) (some (s.seq, 0xFFFF))).2

/-- Gate 245's work. -/
def Dev.serveAttest (d : Dev) (s : Service) : Status × Nat × Dev :=
  let who := 0x10 + s.engine
  let set := s.g6 % 2
  let len := 0xE0 + (slhOf set).sigLen
  let st := pickStatus [if d.reach who false s.g4 32 = .ok ∧ d.reach who true s.g5 len = .ok then .ok else .denied,
    if d.flag TRN_STAT_drbg_ready then .ok else .notReady]
  if st ≠ .ok then (st, 0, d)
  else
    let (rs, nonce, d) := d.jobRead who s.g4 32
    let (ks, d) := d.vaultRead 0 0x0E
    let rs := pickStatus [rs, ks]
    if rs ≠ .ok then (rs, 0, d)
    else
      let (stmt, d) := d.attest set nonce
      let (ws, d) := d.jobWrite who s.g5 stmt
      if ws ≠ .ok then (ws, 0, d) else (.ok, stmt.length, d)

/-- Signature bytes by slot type: ECDSA r and s (little-endian), RSA by key length with PKCS #1 v1.5, SLH-DSA over the digest
(log entry 86). -/
def Dev.gateSignature (d : Dev) (x : Slot) (digest : List Byte) : List Byte × Dev :=
  match x.type with
  | 5 =>
    let r := pkeSignEc p256 (x.nums.getD 0 0) (p256.digest digest) d 8
    (leBytes r.1.1 32 ++ leBytes r.1.2 32, r.2)
  | 6 =>
    let r := pkeSignEc p384 (x.nums.getD 0 0) (p384.digest digest) d 8
    (leBytes r.1.1 48 ++ leBytes r.1.2 48, r.2)
  | 7 =>
    let n := x.nums.getD 0 0 * x.nums.getD 1 0
    let k := (Nat.log2 n) / 8 + 1
    (leBytes (rsaPrivate x.nums (beValue (emsaV15 k digest))) k, d)
  | t =>
    let (rnd, d) := d.randomBytes 32
    (slhSign (slhOf (t - 8)) x.key [] digest (some rnd), d)

/-- Digest bytes by slot type. -/
def digestLen (x : Slot) : Nat := if x.type = 6 then 48 else 32

/-- Bytes of the signature. -/
def signatureLen (x : Slot) : Nat :=
  match x.type with
  | 5 => 64
  | 6 => 96
  | 7 => Nat.log2 (x.nums.getD 0 0 * x.nums.getD 1 0) / 8 + 1
  | t => (slhOf (t - 8)).sigLen

/-- Gate 248's work. -/
def Dev.serveSign (d : Dev) (s : Service) : Status × Nat × Dev :=
  let who := 0x10 + s.engine
  let x := d.slotOf s.g4
  let st := pickStatus [if 256 ≤ s.g4 ∨ x.type < 5 then .badParam else .ok,
    levelStatus (d.slotPermits s.g4 who [24] && d.reach who false s.g5 (digestLen x) == .ok &&
      (x.type < 5 || d.reach who true s.g6 (signatureLen x) == .ok)),
    if d.flag TRN_STAT_drbg_ready then .ok else .notReady]
  if st ≠ .ok then (st, 0, d)
  else
    let (rs, dig, d) := d.jobRead who s.g5 (digestLen x)
    let (ks, d) := d.vaultRead s.g4 0x0E
    let rs := pickStatus [rs, ks]
    if rs ≠ .ok then (rs, 0, d)
    else
      let (sig, d) := d.gateSignature x dig
      let (ws, d) := d.jobWrite who s.g6 sig
      if ws ≠ .ok then (ws, 0, d) else (.ok, sig.length, d)

/-- Gate 250's work. -/
def Dev.serveCommand (d : Dev) (s : Service) (env : CmdEnv) : Status × Nat × Dev :=
  let who := 0x10 + s.engine
  let bad := decide (65536 < s.g5) || decide (s.g5 < 0x58)
  let st := pickStatus [if bad then .badParam else .ok, levelStatus (d.reach who false s.g4 (min 65536 s.g5) == .ok)]
  if st ≠ .ok then (st, 0, d)
  else
    let (rs, b, d) := d.jobRead who s.g4 s.g5
    if rs ≠ .ok then (rs, 0, d)
    else
      let (st, d) := d.execSigned b env
      (st, leAt b 0x34 1, d)

/-- The service at a place of the list completes. -/
def Dev.serviceComplete (d : Dev) (i : Nat) (env : CmdEnv) : Dev :=
  match d.rfg.services[i]? with
  | none => d
  | some s =>
    let d := { d with rfg := { d.rfg with services := d.rfg.services.eraseIdx i } }
    let (st, arg, d) := match s.gate with
      | 245 => d.serveAttest s
      | 248 => d.serveSign s
      | _ => d.serveCommand s env
    d.serviceItem s st arg

/-! ### Limited changes and watchdog (R344) -/

/-- The Refuge firmware's watchdog expires: EV0082. -/
def Dev.refugeWatchdog (d : Dev) : Dev := d.level 82 true
/-- The Warden cores differ: EV0080. -/
def Dev.wardenMismatch (d : Dev) : Dev := d.level 80 true

end Sys2Proof.Machine
end

