-- ==== Sys2Proof/Machine/Dram.lean ====
section
/-! DEFINITION. DRC, MCE, scrubbing, what an access finds in a word, and the fatal dump (R292 to R303, R424, R425). -/

namespace Sys2Proof.Machine

open Sys2Proof

def pgDRC1 (k : Nat) : Nat := pgDRC + k

/-! ### DRC and MCE (R297, R300) -/

/-- CTRL.enable of a controller: initialisation and training start; two controllers that differ are refused. -/
def Dev.drcEnable (d : Dev) (k : Nat) : Status × Dev :=
  let o := 1 - k % 2
  if d.flag STATUS_enabled 0 (pgDRC + o) && d.rdWord DRC_CFG_cap 0 o != d.rdWord DRC_CFG_cap 0 k then (.badParam, d)
  else (.ok, (((d.wr CTRL_enable 1 0 (pgDRC + k)).wr STATUS_enabled 1 0 (pgDRC + k)).wr STATUS_busy 1 0 (pgDRC + k)))

/-- Initialisation and training end. -/
def Dev.drcDone (d : Dev) (k : Nat) (ok : Bool) : Dev :=
  if !d.flag STATUS_busy 0 (pgDRC + k) then d
  else
    let d := d.wr STATUS_busy 0 0 (pgDRC + k)
    if ok then ((d.wr DRC_STAT_init_done 1 0 k).wr DRC_STAT_trained 1 0 k).wr STATUS_last_status 0 0 (pgDRC + k)
    else d.wr STATUS_last_status Status.protocol.code 0 (pgDRC + k)

/-- The devices report a temperature above 85 °C or back below it. -/
def Dev.dramTemperature (d : Dev) (k : Nat) (hot : Bool) : Dev := d.wr DRC_STAT_hot (b2n hot) 0 k

/-- DRC_CFG: reserved codes are refused. -/
def Dev.drcWrite (d : Dev) (k off v : Nat) : Status × Dev :=
  if off = 0x040 ∧ (4 < bitsOf v 31 29 ∨ bitsOf v 26 24 < 3 ∨ 6 < bitsOf v 26 24) then (.badParam, d) else d.plainWrite (pgDRC + k) off v

/-- MCE_GUARD: once after reset; the region is aligned, within usable DRAM, and is zeroed. -/
def Dev.guardWrite (d : Dev) (v : Nat) : Status × Dev :=
  let size := bitsOf v 3 0
  let lo := bitsOf v 31 16 * 2 ^ 24
  let len := 2 ^ (size + 3) * 2 ^ 20
  if d.wlLocked.contains (regKey pgMCE 0x040) then d.plainWrite pgMCE 0x040 v
  else if 8 ≤ size ∨ (size ≠ 0 ∧ (lo % len ≠ 0 ∨ lo < dramBase ∨ d.dramEnd < lo + len)) then (.badParam, d)
  else
    let (st, d) := d.plainWrite pgMCE 0x040 v
    if size = 0 then (st, d)
    else (st, { d with mem := memForget d.mem lo (lo + len), bad := d.bad.drop (fun a => decide (lo ≤ a) && decide (a < lo + len)), lineCtr := [], ctrCache := [], ctrStored := [] })

/-- The guarded region is initialised. -/
def Dev.guardDone (d : Dev) : Dev := if d.guardSize = 0 then d else d.wr MCE_STAT_guard_ready 1

def Dev.mceWrite (d : Dev) (off v : Nat) : Status × Dev :=
  if off = 0x040 then d.guardWrite v else d.plainWrite pgMCE off v

/-! ### What the check bits of a word show (R294, R295, R301, R303) -/

/-- A corrected error of a page's memory: counted for DRAM, and record 0xA001. -/
def Dev.correctedAt (d : Dev) (page c a : Nat) : Dev :=
  let d := if c = 6 then d.bump DRC_ECC_corrected 1 0 (a / 256 % 2) else d
  let key := 0xA001 * 2 ^ 32 + page * 16 + c
  let r := d.evr.rate.get key {}
  let n := match r.held with | some h => satAdd 0xFFFFFFFF h.p.p2 1 | none => 1
  match r.held with
  | some h => d.setRate key { r with held := some { h with p := ⟨h.p.p0, h.p.p1, n⟩ } }
  | none =>
    let x := d.mkRec 0xA001 1 1 0x7F ⟨c, a % 2 ^ 32, 1⟩
    let due := match r.last with
      | none => true
      | some t => decide (t + 1000000000 ≤ d.tickTai)
    if due then (d.setRate key { last := some d.tickTai, block := page }).direct page x
    else d.setRate key { last := r.last, held := some x, block := page }

def Dev.corrected (d : Dev) (c a : Nat) : Dev := d.correctedAt (faultPage c a) c a

/-- What an access finds in the word at an address: 0 good, 1 a single-bit error (which flash keeps, R388), 2 a double-bit error, 3 a tag that does
not verify. -/
def Dev.upset (d : Dev) (a ecc : Nat) : Dev :=
  match memClass a with
  | none => d
  | some c =>
    let w := a / codeBytes c * codeBytes c
    match ecc with
    | 1 => if c = 7 then { d with bad := d.bad.set w 3 0 } else d.corrected c w
    | 2 => { d with bad := d.bad.set w 1 0 }
    | 3 => if c = 6 then { d with bad := d.bad.set w 2 0 } else d
    | _ => d

/-- What stops an access to memory before the memory sees it, and what it finds there (R294, R296). -/
def Dev.memGuard (d : Dev) (who a : Nat) (v : MemEnv) : Status × Dev :=
  match segmentOf who a with
  | some (s, page) => if v.parity then (.faultDetected, d.parityError page s a who) else (.ok, d.upset a v.ecc.val)
  | none => (.ok, d.upset a v.ecc.val)

/-- Banks of a class; those of class 4 are named by page and bank, page + 4096 x bank; of class 5: Refuge memory, the vault, eight of
the counter cache. -/
def scrubBanks (cls : Nat) : Nat := match cls with | 0 => 192 | 1 => 768 | 2 => 192 | 3 => 64 | 4 => 0x8000 | _ => 10

/-- The code words of a row of a bank with device addresses (R292, R148). -/
def rowWords (cls bank row : Nat) : List Nat :=
  match cls with
  | 0 => [engBase (bank / 2) + bank % 2 * 0x8000 + 4 * row]
  | 1 => [engData (bank / 8) + 16 * row + 2 * (bank % 8)]
  | 2 => [cluBase (bank / 16) + bank % 16 * 0x10000 + 8 * row]
  | _ => (List.range 4).map (fun i => sbBase + bank * 0x40000 + 32 * row + 8 * i)

/-- The scrubber finds what one word with a device address holds. -/
def Dev.scrubWord (d : Dev) (cls a ecc : Nat) : Dev :=
  let d := d.upset a ecc
  if d.bad.get a 0 != 0 then d.memFault cls a 1 0xFF else d

/-- The scrubber finds what one row of a table, or of class 5, holds. -/
def Dev.scrubTable (d : Dev) (cls page row ecc : Nat) : Dev :=
  let d := if ecc = 1 then d.correctedAt page cls 0 else if ecc = 2 then { d with bad := d.bad.set (rowKey page row) 1 0 } else d
  if d.rowBad page row then d.rowFault cls page row 0xFF else d

/-- The attribute of a vault slot and its inverted copy come to differ: EV0083 (R344). -/
def Dev.attrUpset (d : Dev) (slot : Nat) : Dev :=
  let x := d.vault.get slot {}
  { d with vault := d.vault.set slot { x with inv := x.inv ^^^ 1 } {} }.level 83 true

/-- The scrubber of a bank reads its next row, in address order; `ecc` says what each code word holds (for
the first row of a vault slot its second entry, not 0, that the attribute's two copies differ). `hit`: a word of the row is written
before the write-back, which is dropped: the same row comes again (R295). -/
def Dev.scrub (d : Dev) (cls bank : Nat) (ecc : List Nat) (hit : Bool) : Dev :=
  if scrubBanks cls ≤ bank ∨ hit then d
  else
    let key := cls * 2 ^ 16 + bank
    let row := d.scrubAt.get key 0
    let d := { d with scrubAt := d.scrubAt.set key ((row + 1) % 8192) 0 }
    if cls < 4 then ((rowWords cls bank row).zipIdx).foldl (fun d w => d.scrubWord cls w.1 (ecc.getD w.2 0)) d
    else if cls = 4 then d.scrubTable 4 (bank % 4096) (bank / 4096 * 8192 + row) (ecc.getD 0 0)
    else
      let r := bank * 0x2000 + row
      let d := if vaultRow ≤ r ∧ r < cacheRow ∧ (r - vaultRow) % 32 = 0 ∧ ecc.getD 1 0 ≠ 0 then d.attrUpset ((r - vaultRow) / 32) else d
      d.scrubTable 5 pgRFG r (ecc.getD 0 0)

/-! ### What stands in the DRAM devices (R299, R300) -/

/-- Multiplication by alpha in the field of XTS (SP 800-38E), on 16 bytes in little-endian order. -/
def xtsAlpha (t : List Byte) : List Byte :=
  let v := leValue t * 2
  leBytes (if 2 ^ 128 ≤ v then (v - 2 ^ 128) ^^^ 0x87 else v) 16

/-- XTS-AES-256 of whole blocks under a data key, a tweak value and what the tweak key makes of it. -/
def xtsBlocks (key : List Byte) : List Byte → List (List Byte) → List Byte
  | _, [] => []
  | t, b :: bs => xorBytes (aesEnc key (xorBytes b t)) t ++ xtsBlocks key (xtsAlpha t) bs
def xtsEncrypt (key1 key2 : List Byte) (tweak : Nat) (m : List Byte) : List Byte :=
  xtsBlocks key1 (aesEnc key2 (leBytes tweak 16)) (chunks 16 m)

/-- A line as it stands in the devices, with its tag: XTS under keys 2 and 3 and CMAC under key 4; in the guarded region counter mode
under key 5 with the IV (address, counter), and CMAC under key 6 over address, counter and ciphertext (log entry 353). -/
def Dev.dramImage (d : Dev) (line : Nat) : List Byte × List Byte :=
  let m := d.load line 64
  let key (s : Nat) := (d.slotOf s).key
  if d.guardBase ≤ line ∧ line < d.guardBase + d.guardSize then
    let n := leBytes (d.lineCounter 0 ((line - d.guardBase) / 64)) 8
    let ct := xorBytes m (ctrStream (key 5) (leBytes (line / 64) 4 ++ n ++ [0, 0, 0, 0]) 4 64)
    (ct, (cmac (key 6) (leBytes line 8 ++ n ++ ct)).take 8)
  else
    let ct := xtsEncrypt (key 2) (key 3) (line / 64) m
    (ct, (cmac (key 4) (leBytes line 8 ++ ct)).take 8)

/-- Counter line `i` of a level as it stands in the devices, with its tag: the eight counters last written back, under the line's own
counter, which the next level holds (R300; log entry 353). -/
def Dev.counterImage (d : Dev) (level i : Nat) : List Byte × List Byte :=
  let key (s : Nat) := (d.slotOf s).key
  let at_ := d.dramEnd + level * 2 ^ 28 + 64 * i
  let m := ((List.range 8).map (fun s => leBytes (d.ctrStored.get (lineKey (level - 1) (8 * i + s)) 0) 8)).flatten
  let n := leBytes (d.lineCounter level i) 8
  let ct := xorBytes m (ctrStream (key 5) (leBytes (at_ / 64) 4 ++ n ++ [0, 0, 0, 0]) 4 64)
  (ct, (cmac (key 6) (leBytes at_ 8 ++ n ++ ct)).take 8)

/-! ### The fatal dump (R424, R425) -/

/-- Words in little-endian order. -/
def wordsLe (l : List Nat) : List Byte := (l.map (fun w => leBytes w 4)).flatten

/-- The state section of a frozen engine. -/
def Dev.dumpEngine (d : Dev) (e : Nat) : List Byte :=
  let x := d.engOf e
  let regs := wordsLe ((List.range 32).map (fun r => (d.gr e r).toNat))
  let vecs := ((List.range 16).map (fun v => leBytes (d.vr e v).toNat 16)).flatten
  let accs := ((List.range 4).map (fun n => leBytes (unsigned 128 (d.acc e n)) 16)).flatten
  let gens := ((List.range 8).map (fun m =>
    let g := d.gen e m
    wordsLe [g.base.toNat, g.len.toNat, g.step.toNat, g.idx.toNat, g.mode, 0, 0, 0])).flatten
  let top := wordsLe [x.fl.toNat, x.pc, (d.readSr e 0x001).1.toNat, x.attr]
  let sys := wordsLe [x.evb, x.ecause, x.epc, (d.readSr e 0x013).1.toNat, x.earg, x.ecause2, x.escr.toNat, x.imask, d.ipend e]
  let rels := wordsLe (x.relq.map (fun h => 2 ^ 31 + b2n h.late * 2 ^ 30 + min 255 h.ovr * 2 ^ 16 + h.entry * 256 + h.tag))
  let q := d.qrdy e
  let rdy := wordsLe ((q.1.zip (List.range 16)).map (fun p => 2 ^ 31 + b2n (q.2 && p.2 == 0) * 2 ^ 30 + p.1))
  let tail := wordsLe [d.word (regKey (pgENG e) 0x048), d.rd ENG_PC_pc 0 e, d.rdWord ENG_WDT_en 0 e, d.engWorld e]
  padTo 0x1000 (regs ++ vecs ++ padTo 0x40 accs ++ gens ++ top ++ padTo 0x30 sys ++ padTo 0x20 rels ++ padTo 0x40 rdy ++ tail)

/-- The fault registers of every page. -/
def Dev.dumpFaults (d : Dev) : List Byte :=
  padTo 0x2000 (((List.range 0x160).map (fun i =>
    match pageBlock i with
    | none => zeros 16
    | some (b, k) => wordsLe [b.type * 2 ^ 16 + k * 256 + 1, d.rdWord STATUS_enabled 0 i, d.rdWord FAULT_INFO_valid 0 i,
        d.rdWord SHADOW_CHK_count 0 i])).flatten)

/-- Queue heads. -/
def Dev.dumpQueues (d : Dev) : List Byte :=
  ((List.range 0x4000).map (fun n =>
    let q := d.q n
    wordsLe [q.w0, q.cons * 65536 + q.prod, q.claim, b2n q.enabled * 2 ^ 31 + b2n q.draining * 2 ^ 30 + b2n q.pend * 2 ^ 29 +
      b2n (!q.spill.isEmpty) * 2 ^ 28 + q.occupancy])).flatten

/-- The last 4,096 staged records, oldest first. -/
def Dev.dumpRecords (d : Dev) : List Byte :=
  let l := sortBySeq ((d.evr.staged.map (·.2.r)))
  padTo 0x20000 ((l.drop (l.length - 4096)).map Rec.bytes).flatten
where
  /-- Inserts a record in order of its number. -/
  insertSeq (r : Rec) : List Rec → List Rec
    | [] => [r]
    | x :: xs => if newer x.seq r.seq then r :: x :: xs else x :: insertSeq r xs
  /-- Records in order of their numbers. -/
  sortBySeq (l : List Rec) : List Rec := l.foldl (fun s r => insertSeq r s) []

/-- The Refuge reads a memory for a dump: a word that cannot be read is reported (R303) and stands as zeros (log entry 490). -/
def Dev.dumpRead (d : Dev) (a n : Nat) : List Byte × Dev :=
  let r := d.hwLoad 0x0E a n
  if r.1 = .ok then r.2
  else
    let c := (memClass a).getD 3
    (codeWords c a n).foldl (fun acc w =>
      let r := acc.2.hwLoad 0x0E w (codeBytes c)
      (acc.1 ++ padTo (codeBytes c) r.2.1, r.2.2)) ([], d)

/-- The plaintext from 0x1000 to 0x30_0000. -/
def Dev.dumpPlain (d : Dev) (e : Nat) : List Byte × Dev :=
  let b := d.dumpEngine e ++ d.dumpFaults ++ d.dumpQueues ++ d.dumpRecords ++ zeros (0x100000 - 0x64000)
  let (im, d) := d.dumpRead (engBase e) 0x10000
  let (dm, d) := d.dumpRead (engData e) 0x20000
  let (cm, d) := d.dumpRead (cluBase (engClu e)) 0x100000
  (b ++ im ++ zeros 0x10000 ++ dm ++ zeros (0x200000 - 0x140000) ++ cm, d)

/-- Header bytes 0x00 to 0x2F: the AAD. -/
def Dev.dumpHead (d : Dev) (r : DumpReq) (slot n : Nat) : List Byte :=
  leBytes 0xD701 2 ++ leBytes slot 1 ++ leBytes r.trigger 1 ++ leBytes n 4 ++ leBytes r.at_ 8 ++ leBytes r.reason 4 ++
    leBytes r.engine 1 ++ leBytes (d.engWorld r.engine) 1 ++ leBytes d.lcc 1 ++ leBytes d.secver 1 ++ padTo 16 d.rfg.otp.uid ++
    leBytes 0x2FF000 4 ++ leBytes (b2n r.card) 4

/-- AES-256-GCM: ciphertext and tag. -/
def gcmSeal (key iv aad m : List Byte) : List Byte × List Byte :=
  let ct := xorBytes m (ctrStream key (ctrAdd 4 (padTo 12 iv ++ [0, 0, 0, 1]) 1) 4 m.length)
  (ct, gcmTag key iv aad ct)

def Dev.dumpBase (d : Dev) (slot : Nat) : Nat := d.rd EVR_DUMP_base * 2 ^ 24 + slot * 0x800000

/-- A slot is valid: its format, and both tags verify (R424). -/
def Dev.dumpValid (d : Dev) (k : Nat) : Bool × Nat × Dev :=
  let r := d.hwLoad 0x0E (d.dumpBase k) 0x8C
  let h := r.2.1
  if r.1 ≠ .ok ∨ leAt h 0 2 ≠ 0xD701 then (false, 0, r.2.2)
  else
    let aad := h.take 0x30
    let key := (d.slotOf 8).key
    let wk := slice h 0x5C 32
    let kd := xorBytes wk (ctrStream key (ctrAdd 4 (slice h 0x50 12 ++ [0, 0, 0, 1]) 1) 4 32)
    let x := r.2.2.hwLoad 0x0E (d.dumpBase k + 0x1000) 0x2FF000
    (x.1 == .ok && gcmTag key (slice h 0x50 12) aad wk == slice h 0x7C 16 && gcmTag kd (slice h 0x30 12) aad x.2.1 == slice h 0x40 16,
      leAt h 4 4, x.2.2)

/-- The slot that holds the older dump, or none (R423). -/
def Dev.dumpSlot (d : Dev) : Nat × Dev :=
  let a := d.dumpValid 0
  let b := a.2.2.dumpValid 1
  (if !a.1 then 0 else if !b.1 then 1 else if newer b.2.1 a.2.1 then 0 else 1, b.2.2)

/-- The dump itself, with number `n`: K_d is drawn, sections and header are written. -/
def Dev.dumpWrite (d : Dev) (r : DumpReq) (n : Nat) : Dev :=
  let (kd, d) := d.randomBytes 32
  let (slot, d) := d.dumpSlot
  let aad := d.dumpHead r slot n
  let iv := leBytes n 4 ++ leBytes r.at_ 8
  let (plain, d) := d.dumpPlain r.engine
  let (ct, tag) := gcmSeal kd iv aad plain
  let (w, d) := d.randomBytes 12
  let (wk, wt) := gcmSeal (d.slotOf 8).key w aad kd
  let d := (d.hwStore 0xFE (d.dumpBase slot + 0x1000) ct).2
  let d := (d.hwStore 0xFE (d.dumpBase slot) (padTo 0x1000 (aad ++ iv ++ zeros 4 ++ tag ++ w ++ wk ++ wt))).2
  ((d.wr EVR_DUMP_STAT_slot slot).wr EVR_DUMP_STAT_status 0).wr EVR_DUMP_STAT_busy 0

end Sys2Proof.Machine
end

