-- ==== Sys2Proof/Machine/Card.lean ====
section
/-! DEFINITION. The record card slot CRD and its cairn container (R429 to R447), and the fatal dump's way to card and DRAM
(R424, R425). -/

namespace Sys2Proof.Machine

open Sys2Proof

def pgCRD : Nat := 0x082

/-! ### Items of a queue that a block consumes (R157, R159) -/

/-- Claims the next item of a queue, void ones freed on the way, one with an uncorrectable word ended (R294): its bytes. -/
def Dev.blockClaim (d : Dev) (n : Nat) : Nat → Option (List Byte) × Dev
  | 0 => (none, d)
  | k + 1 =>
    let q := d.q n
    if !q.valid ∨ q.unclaimed = 0 ∨ q.claimed ≠ 0 then (none, d)
    else
      let (st, b, d) := d.hwLoad 0xFE (q.slotAddr q.claim) q.slot
      let d := d.claimItems n 1
      if st ≠ .ok then ((d.completeAt n 0 0xFE st.code 0).freeItems n 1).blockClaim n k
      else if (parseHdr b).flags.testBit 3 then (d.freeItems n 1).blockClaim n k
      else (some (b.take (16 + (parseHdr b).len)), d)

/-- The most items a ring holds. -/
def ringMost : Nat := 65536

/-- The next item of a queue without claiming it: void ones stand in the way of nothing. -/
def Dev.blockPeek (d : Dev) (n : Nat) : Option (List Byte) := (d.blockClaim n ringMost).1

/-- The claimed item ends with a status and argument, and its slot is freed. The completion of an item that QMG has completed at its
timeout is stale: discarded and counted (R170). -/
def Dev.blockDone (d : Dev) (n : Nat) (st : Status) (arg : Nat) : Dev :=
  let d := match (d.q n).ents with
    | e :: _ => if e.expired then d.qStat 1 else d
    | [] => d
  (d.completeAt n 0 0xFE st.code arg).freeItems n 1

/-- The claimed item is no longer outstanding: its upper timeout ended it (R170). -/
def Dev.blockEnded (d : Dev) (n : Nat) : Bool := match (d.q n).ents with | [] => true | e :: _ => e.done

/-! ### Blocks (R439 to R441) -/

/-- CRC field of a container block. -/
def cairnCrc (formatId : Nat) (b : List Byte) : Nat := (crc32c (leBytes formatId 4 ++ b.take 0x1FC)).toNat

/-- A container block: kind, first and last flags, wseq, object, payload. -/
def crdBlock (formatId kind : Nat) (first last : Bool) (wseq obj : Nat) (payload : List Byte) : List Byte :=
  let b := padTo 496 payload ++ [0xCA] ++ leBytes (kind + 16 * b2n first + 32 * b2n last) 1 ++ leBytes payload.length 2 ++
    leBytes wseq 4 ++ leBytes obj 4
  b ++ leBytes (cairnCrc formatId b) 4

/-- The block passes its check. -/
def blockOk (formatId : Nat) (b : List Byte) : Bool :=
  b.length == 512 && leAt b 0x1F0 1 == 0xCA && leAt b 0x1FC 4 == cairnCrc formatId b
def blockKind (b : List Byte) : Nat := leAt b 0x1F1 1 % 16
def blockSeq (b : List Byte) : Nat := leAt b 0x1F4 4

/-- The header payload of a format (R440). -/
def headerPayload (formatId : Nat) (uid : List Byte) (cap tai : Nat) : List Byte :=
  leBytes 0xCA01 2 ++ leBytes 0 2 ++ leBytes formatId 4 ++ padTo 16 uid ++ leBytes 2048 4 ++ leBytes (cap - 2048) 4 ++
    leBytes tai 8 ++ leBytes 0 4

/-- The header a block holds: its format_id. -/
def headerOf (b : List Byte) : Option Nat :=
  if blockOk (leAt b 4 4) b && blockKind b == 1 && leAt b 0 2 == 0xCA01 then some (leAt b 4 4) else none

/-! ### The slot -/

def Dev.setCrd (d : Dev) (c : Crd) : Dev := { d with crd := c }

/-- A record of CRD; p0 is the card status (R446). -/
def Dev.crdRec (d : Dev) (code sev p2 : Nat) : Dev := d.rated pgCRD code 0 sev d.crd.status p2
def Dev.crdRaise (d : Dev) (src p2 : Nat) : Dev := d.raise src d.crd.status 1 p2

def Dev.crdEnabled (d : Dev) : Bool := d.flag STATUS_enabled 0 pgCRD

/-- The item in service ends; the copy of a dump, which no queue holds, records its failure (R425). -/
def Dev.crdFinish (d : Dev) (j : CrdJob) (st : Status) (arg : Nat) : Dev :=
  match j.dump with
  | some n => if st = .ok then d else d.direct 0x07B (d.mkRec 0xF021 4 3 0x7E ⟨st.code, 1, n⟩)
  | none => d.blockDone j.queue st arg

/-- A card that is not there, or one that is not ready for what an item wants (R10, log entry 453). -/
def Dev.crdAbsent (d : Dev) : Status := if d.flag CRD_STAT_present then .notReady else .mediaGone

/-- A field of CRD_CFG in CCLK; 0 acts as 1. -/
def Dev.crdMs (d : Dev) (f : Fld) : Nat := max 1 (d.rd f) * cclkPerMs

/-- The block at an LBA of the card. -/
def Dev.crdAt (d : Dev) (lba : Nat) : List Byte := d.crd.blocks.get lba (zeros 512)
def Dev.crdPut (d : Dev) (lba : Nat) (b : List Byte) : Dev := d.setCrd { d.crd with blocks := d.crd.blocks.set lba b (zeros 512) }

/-- The LBA of a sequence number. -/
def Dev.crdLba (d : Dev) (w : Nat) : Nat := d.crd.ringStart + w % max 1 d.crd.ringLen

/-- Write-protected: the WP pin, TMP_WRITE_PROTECT and PERM_WRITE_PROTECT of the CSD (R437). -/
def cardProtected (c : Card) : Bool := c.wp || c.csd.testBit 12 || c.csd.testBit 13

/-- Power-up (R431): not before 5 ms of power off; the first command follows ramp_ms later. -/
def Dev.cardOn (d : Dev) : Dev :=
  (d.setCrd { d.crd with readyAt := max d.cclk d.crd.offAt + d.crdMs CRD_CFG_ramp_ms }).emit (.cardPower true)

/-- Power-off (R431): every card pin is low for 5 ms at least. -/
def Dev.cardOff (d : Dev) : Dev := (d.setCrd { d.crd with offAt := d.cclk + 5 * cclkPerMs }).emit (.cardPower false)

/-- A card is detected (R430): CD has been low for ins_ms; power-up, identification waits. -/
def Dev.cardInsert (d : Dev) (c : Card) : Dev :=
  if !d.crdEnabled ∨ d.flag CRD_STAT_present then d
  else
    let blocks := c.content.foldl (fun t e => Tbl.set t e.1 (padTo 512 e.2) (zeros 512)) []
    ((d.setCrd { card := some c, blocks := blocks, identify := true, lastAccess := d.cclk, offAt := d.crd.offAt }).wr CRD_STAT_present 1).cardOn

/-- Everything CRD_STAT shows of a powered card goes. -/
def Dev.cardDown (d : Dev) : Dev :=
  let present := d.rd CRD_STAT_present
  ((d.wrWord CRD_STAT_present 0).wr CRD_STAT_present present).cardOff

/-- The step of R433 at which identification fails with its status, or the type it reaches; a card of more than 2 TB is no SDXC (R429). -/
def cardIdentifyAs (c : Card) : Except (Nat × Status) Nat :=
  match c.echo with
  | some e =>
    if e ≠ 0xAA then .error (1, .protocol)
    else if !c.ready then .error (2, .timeout)
    else if 1 < c.csd / 2 ^ 126 ∨ 2 ^ 32 < c.cap then .error (4, .protocol)
    else if !c.confirms then .error (8, .protocol)
    else .ok (if !c.ccs then 2 else if c.cap ≤ 65536 * 1024 then 3 else 4)
  | none =>
    if !c.ready then .error (2, .timeout)
    else if 1 < c.csd / 2 ^ 126 ∨ 2 ^ 32 < c.cap then .error (4, .protocol)
    else if !c.confirms then .error (8, .protocol)
    else .ok 1

/-- 1.8 V signalling is reached. -/
def Dev.cardV18 (d : Dev) (c : Card) : Bool := d.flag CRD_CFG_uhs_en && c.echo.isSome && c.s18a && c.switchOk

/-- The mode ranks, lowest first: DS, HS, SDR12, SDR25, DDR50, SDR50; 2 to 5 need 1.8 V, HS 3.3 V. -/
def Dev.cardModes (d : Dev) (c : Card) : List Nat :=
  (List.range (min 5 (d.rd CRD_CFG_max_speed) + 1)).filter (fun m =>
    m == 0 || (c.modes.testBit m && (if m = 1 then !d.cardV18 c else d.cardV18 c)))

/-- The highest mode whose switch reads back; SDR50 that does not tune falls back to SDR25. A readback that differs is
recorded. -/
def Dev.cardSpeed (d : Dev) (c : Card) : List Nat → Nat × Dev
  | [] => (0, d)
  | m :: ms =>
    if m = 0 then (0, d)
    else if c.badModes.testBit m then (d.crdRec 0x2005 3 m).cardSpeed c ms
    else if m = 5 ∧ !c.tunes then (3, d)
    else (m, d)

/-- CID, CSD and SCR into CRD_IDk. -/
def Dev.cardIds (d : Dev) (c : Card) : Dev :=
  (List.range 10).foldl (fun d k =>
    let v := if k < 4 then c.cid / 2 ^ (32 * k) else if k < 8 then c.csd / 2 ^ (32 * (k - 4)) else c.scr / 2 ^ (32 * (k - 8))
    d.wr CRD_IDk_bits (v % 2 ^ 32) k) d

/-- Identification or mount fails: not mounted, power off, EV0975. -/
def Dev.cardFail (d : Dev) (step : Nat) (st : Status) : Dev :=
  ((d.crdRaise 975 step).cardDown).wr STATUS_last_status st.code 0 pgCRD

/-- The valid cairns of the ring: wseq, first covered, CRCs. -/
def Dev.crdCairns (d : Dev) (formatId : Nat) : List (Nat × Nat × List Nat) :=
  d.crd.blocks.filterMap (fun e =>
    let b := e.2
    if 2048 ≤ e.1 ∧ blockOk formatId b ∧ blockKind b = 3 then
      some (blockSeq b, leAt b 0 4, (List.range (leAt b 4 1)).map (fun i => leAt b (0x18 + 4 * i) 4))
    else none)

/-- Blocks that the mount reads and that fail their check: a header copy, or one of the 64 after the last cairn (log entry
90). -/
def Dev.crdBadRead (d : Dev) (formatId last : Nat) : Option Nat :=
  let heads := [0, 1].filter (fun l => (headerOf (d.crdAt l)).isNone)
  let ring := ((List.range 64).map (fun i => d.crdLba (last + 1 + i))).filter (fun l =>
    (d.crd.blocks.any (fun e => e.1 == l)) && !blockOk formatId (d.crdAt l))
  (heads ++ ring).head?

/-- A valid header was found: writing resumes after the valid cairn with the highest wseq. -/
def Dev.cardMounted (d : Dev) (id : Nat) (h : List Byte) : Dev :=
  let d := d.setCrd { d.crd with formatId := id, ringStart := leAt h 0x18 4, ringLen := leAt h 0x1C 4 }
  let last := (d.crdCairns id).foldl (fun m c => max m c.1) 0
  let d := (d.setCrd { d.crd with lastCairn := last, uncovered := [], cairnDue := false, evrSeq := 0 }).wr CRD_WSEQ_wseq (last + 1)
  let d := match d.crdBadRead id last with
    | some l => d.crdRaise 979 l
    | none => d
  (d.wr CRD_STAT_mounted 1).crdRaise 973 (d.rd CRD_STAT_type)

/-- The mount (R443). -/
def Dev.cardMount (d : Dev) : Dev :=
  let h0 := headerOf (d.crdAt 0)
  let h1 := headerOf (d.crdAt 1)
  match h0, h1 with
  | none, none => (d.crdRaise 979 0).cardFail 9 .protocol
  | some a, some b => if a ≠ b then d.cardFail 9 .protocol else d.cardMounted a (d.crdAt 0)
  | some a, none => d.cardMounted a (d.crdAt 0)
  | none, some b => d.cardMounted b (d.crdAt 1)

/-- The card's first answers: one that does not know CMD8 is recorded, a voltage switch that fails costs a power cycle. -/
def Dev.cardGreeted (d : Dev) (c : Card) : Dev :=
  let d := if c.echo.isNone then d.crdRec 0x2001 2 0 else d
  if d.flag CRD_CFG_uhs_en && c.echo.isSome && c.s18a && !c.switchOk then d.cardOff.cardOn else d

/-- Identification and bus raising of the card in the slot (R433); false where it fails. -/
def Dev.cardBus (d : Dev) (c : Card) : Bool × Dev :=
  let d := d.cardGreeted c
  match cardIdentifyAs c with
  | .error (step, st) => (false, d.cardFail step st)
  | .ok type =>
    let d := (d.cardIds c).wr CRD_CAP_blocks c.cap
    let r := d.cardSpeed c (d.cardModes c).reverse
    (true, ((((r.2.wr CRD_STAT_type type).wr CRD_STAT_speed r.1).wr CRD_STAT_v18 (b2n (d.cardV18 c))).wr CRD_STAT_width4
      (b2n (c.scr.testBit 50))).wr CRD_STAT_wp (b2n (cardProtected c)))

/-- Identification, then the mount. -/
def Dev.cardRaise (d : Dev) (c : Card) : Dev :=
  let r := d.cardBus c
  if r.1 then r.2.cardMount else r.2

/-- A power cycle, and the card is identified again (R436). -/
def Dev.cardCycle (d : Dev) : Dev :=
  let d := d.cardOff.cardOn
  match d.crd.card with
  | some c => (d.cardBus c).2
  | none => d

/-- CARD_IDENTIFY: after power-up and its ramp. -/
def Dev.cardIdentify (d : Dev) : Dev :=
  match d.crd.card with
  | some c => if d.crd.identify ∧ d.crd.readyAt ≤ d.cclk then (d.setCrd { d.crd with identify := false }).cardRaise c else d
  | none => d

/-- An access to a parked card powers it up and identifies it again (R432). -/
def Dev.cardWake (d : Dev) : Dev :=
  if d.flag CRD_STAT_parked then
    match d.crd.card with
    | some c => ((d.wr CRD_STAT_parked 0).cardOn).cardRaise c
    | none => d
  else d

/-- The card is removed (R430, R438): the item ends, `doubt` blocks had been sent and were not acknowledged. -/
def Dev.cardRemove (d : Dev) (doubt : Nat) : Dev :=
  if !d.flag CRD_STAT_present then d
  else
    let writes := match d.crd.writing with
      | [] => none
      | b :: _ => some b.lba
    let d := match writes with
      | some lba => ((d.wr CRD_GONE_LBA_lba lba).wr CRD_GONE_N_doubt (min 255 doubt)).crdRaise 976 lba
      | none => d
    let d := match d.crd.job with
      | some j => d.crdFinish j .mediaGone 0
      | none => d
    (((d.setCrd { status := d.crd.status }).wrWord CRD_STAT_present 0).cardOff).crdRaise 974 0

/-! ### Writing (R436, R438, R442) -/

/-- A new command's attempts begin. -/
def Dev.crdCommand (d : Dev) (bs : List CrdBlock) : Dev :=
  d.setCrd { d.crd with writing := bs, tries := 0, since := d.cclk, lastAccess := d.cclk }

/-- The cairn over the uncovered blocks. -/
def Dev.crdCairn (d : Dev) : CrdBlock :=
  let w := d.rd CRD_WSEQ_wseq
  let u := d.crd.uncovered
  let pl := leBytes ((u.head?.map (·.1)).getD 0) 4 ++ leBytes u.length 1 ++ leBytes 0 3 ++ leBytes d.taiNs 8 ++
    leBytes d.crd.lastCairn 4 ++ leBytes d.crd.evrSeq 4 ++ (u.map (fun e => leBytes e.2 4)).flatten
  { lba := d.crdLba w, bytes := crdBlock d.crd.formatId 3 false false w 0 pl, wseq := w, kind := 3 }

/-- The next block of an object. -/
def Dev.crdData (d : Dev) (obj : Nat) (c : List Byte × Bool × Bool) : CrdBlock :=
  let w := d.rd CRD_WSEQ_wseq
  { lba := d.crdLba w, bytes := crdBlock d.crd.formatId 2 c.2.1 c.2.2 w obj c.1, wseq := w, kind := 2 }

/-- The item in service is dropped without a completion of its own: it was completed before. -/
def Dev.crdAbandon (d : Dev) : Dev :=
  match d.crd.job with
  | some j => (d.setCrd { d.crd with job := none, writing := [] }).freeItems j.queue 1
  | none => d.setCrd { d.crd with writing := [] }

/-- The item in service has been cancelled (R170). -/
def Dev.crdEnded (d : Dev) : Bool := match d.crd.job with | some j => j.dump.isNone && d.blockEnded j.queue | none => false

/-- Goes on writing: a cairn that is due, the item's next block, or the cairn that ends it. -/
def Dev.crdPush (d : Dev) : Dev :=
  if !d.crd.writing.isEmpty then d
  else
    let u := d.crd.uncovered
    if 63 ≤ u.length ∨ (d.crd.cairnDue ∧ !u.isEmpty) then d.crdCommand [d.crdCairn]
    else match d.crd.job with
      | none => d
      | some j =>
        match j.todo with
        | c :: rest =>
          let b := d.crdData j.obj c
          (d.setCrd { d.crd with job := some { j with todo := rest }, writing := [b], lastAccess := d.cclk })
        | [] => if u.isEmpty then d else d.crdCommand [d.crdCairn]

/-- A data block is acknowledged: it waits for its cairn. -/
def Dev.crdAckData (d : Dev) (b : CrdBlock) : Dev :=
  let d := d.setCrd { d.crd with
    uncFrom := if d.crd.uncovered.isEmpty then d.cclk else d.crd.uncFrom
    uncovered := d.crd.uncovered ++ [(b.wseq, leAt b.bytes 0x1FC 4)] }
  d.wr CRD_WSEQ_wseq (b.wseq + 1)

/-- A cairn is acknowledged: the blocks it covers are committed; an item whose last block it covers completes. -/
def Dev.crdAckCairn (d : Dev) (b : CrdBlock) : Dev :=
  let d := (d.setCrd { d.crd with uncovered := [], lastCairn := b.wseq, cairnDue := false, evrSeq := 0 }).wr CRD_WSEQ_wseq (b.wseq + 1)
  match d.crd.job with
  | some j =>
    if j.op ≠ 4 ∧ j.todo.isEmpty then (d.setCrd { d.crd with job := none }).crdFinish j .ok b.wseq else d
  | none => d

/-- A header copy is acknowledged; after the second the card is formatted (R440). -/
def Dev.crdAckHeader (d : Dev) : Dev :=
  match d.crd.job with
  | some j =>
    if d.crd.writing.isEmpty then
      let d := d.setCrd { d.crd with
        formatId := j.formatId, ringStart := 2048, ringLen := d.rd CRD_CAP_blocks - 2048, uncovered := [], lastCairn := 0,
        evrSeq := 0, job := none }
      ((d.wr CRD_WSEQ_wseq 1).wr CRD_STAT_mounted 1).blockDone j.queue .ok j.formatId
    else d
  | none => d

/-- CRD_BLOCK_ACK: the block in transfer lies in the card (R438). A cancelled item goes no further (R170); what it has written stays. -/
def Dev.crdAck (d : Dev) : Dev :=
  match d.crd.writing with
  | [] => d
  | b :: rest =>
    let d := (d.crdPut b.lba b.bytes)
    let d := d.setCrd { d.crd with writing := rest, lastAccess := d.cclk }
    let ended := d.crdEnded
    let d := match b.kind with
      | 2 => d.crdAckData b
      | 3 => d.crdAckCairn b
      | _ => d.crdAckHeader
    (if ended && d.crd.job.isSome then d.crdAbandon else d).crdPush

/-- CRD_CAIRN_TIMER: cairn_ms after the first uncovered block. -/
def Dev.crdTimer (d : Dev) : Dev :=
  if d.crd.uncovered.isEmpty || decide (d.cclk < d.crd.uncFrom + d.crdMs CRD_CFG_cairn_ms) then d
  else (d.setCrd { d.crd with cairnDue := true }).crdPush

/-- The budget of the item in service in ns (R169, R436). -/
def Dev.crdBudget (d : Dev) : Nat :=
  match d.crd.job with
  | some j => if j.dump.isSome then 750000000 else (match (d.q j.queue).ents with | e :: _ => d.budget e 750000000 | [] => 750000000)
  | none => 750000000

/-- An attempt of a command fails: 0 response timeout, 1 CRC error, 2 negative CRC status, 3 busy timeout, 4 ILLEGAL_COMMAND or
ERROR in the card status; `cmd` is the command index. True while the command may be tried again. -/
def Dev.crdAttempt (d : Dev) (kind cmd status : Nat) : Bool × Dev :=
  let d := d.setCrd { d.crd with status := status }
  let lba := match d.crd.writing with | b :: _ => b.lba | [] => 0
  let finish (d : Dev) (st : Status) : Dev := match d.crd.job with
    | some j => (d.setCrd { d.crd with job := none, writing := [] }).crdFinish j st 0
    | none => d.setCrd { d.crd with writing := [] }
  if kind = 4 then (false, finish (d.crdRec 0x2004 4 cmd) .protocol)
  else
    let d := if kind = 3 then (d.crdRec 0x2003 4 lba).cardCycle else d.crdRec 0x2002 3 cmd
    let tries := d.crd.tries + 1
    let d := d.setCrd { d.crd with tries := tries }
    if d.crdEnded then (false, d.crdAbandon)
    else if 3 ≤ tries ∨ d.crd.since * 5 + d.crdBudget * 4 < d.cclk * 5 then
      let d := d.crdRaise 977 cmd
      match d.crd.job with
      | some j => if j.dump.isSome then (false, (d.setCrd { d.crd with job := none, writing := [] }).crdFinish j .retryExhausted 0)
        else (false, ((d.setCrd { d.crd with job := none, writing := [] }).exhausted j.queue 0 0xFE tries).freeItems j.queue 1)
      | none => (false, d.setCrd { d.crd with writing := [] })
    else (true, d.qStat 0)

/-- CRD_ATTEMPT_TIMEOUT: for a write in progress, which is tried again from the first block not acknowledged. -/
def Dev.crdTimeout (d : Dev) (kind cmd status : Nat) : Dev :=
  if d.crd.writing.isEmpty then d else (d.crdAttempt kind cmd status).2

/-! ### Items (R437, R445) -/

/-- The payloads of an item of data: 496 bytes a block, the first and last marked. -/
def crdChunks (data : List Byte) : List (List Byte × Bool × Bool) :=
  let l := if data.isEmpty then [[]] else chunks 496 data
  (l.zip (List.range l.length)).map (fun p => (p.1, p.2 == 0, p.2 + 1 == l.length))

/-- The claimed item is refused or done at once. -/
def Dev.crdEnd (d : Dev) (n : Nat) (st : Status) (arg : Nat) : Dev := d.blockDone n st arg

/-- A write is refused while the card is protected. -/
def Dev.crdProtected (d : Dev) (n : Nat) : Dev := (d.crdRaise 978 0).crdEnd n .denied 0

/-- The highest EVR number that an item's bytes contain: its payload as a record, alone or after the four bytes of R501. -/
def evrSeqOf (data : List Byte) : Nat :=
  match parseRec data with
  | some r => r.seq
  | none => match parseRec (data.drop 4) with
    | some r => r.seq
    | none => 0

/-- Writing of an object begins. -/
def Dev.crdBegin (d : Dev) (n op obj : Nat) (data : List Byte) : Dev :=
  let j : CrdJob := { queue := n, op := op, obj := obj, todo := crdChunks data }
  let d := d.setCrd { d.crd with job := some j, tries := 0, since := d.cclk, evrSeq := max d.crd.evrSeq (evrSeqOf (data.drop 16)) }
  d.crdPush

/-- The append command. -/
def Dev.crdAppend (d : Dev) (n : Nat) (p : List Byte) : Dev :=
  let obj := leAt p 4 4
  if d.flag CRD_STAT_wp then d.crdProtected n
  else if p.length < 8 ∨ obj = 0 ∨ 0xFFFFFFEF < obj then d.crdEnd n .badParam 0
  else if !d.flag CRD_STAT_mounted then d.crdEnd n d.crdAbsent 0
  else d.crdBegin n 1 obj (p.drop 8)

/-- Failed attempts of a read before the one that succeeds, or before the budget is used up. -/
def Dev.crdReadTries (d : Dev) (cmd : Nat) : List (Nat × Nat) → Bool × Dev
  | [] => (true, d)
  | f :: fs =>
    let r := d.crdAttempt f.1 cmd f.2
    if r.1 then r.2.crdReadTries cmd fs else (false, r.2)

/-- The read command: the blocks go to the stream buffer. -/
def Dev.crdRead (d : Dev) (n : Nat) (p : List Byte) (fails : List (Nat × Nat)) : Dev :=
  let lba := leAt p 4 4
  let count := leAt p 8 2
  let ofs := leAt p 12 4
  if p.length < 16 ∨ count = 0 ∨ 128 < count ∨ leAt p 10 2 ≠ 0 ∨ d.rd CRD_CAP_blocks < lba + count ∨ sbSize < ofs + 512 * count then
    d.crdEnd n .badParam 0
  else if d.rd CRD_STAT_type = 0 then d.crdEnd n d.crdAbsent 0
  else
    let d := d.setCrd { d.crd with job := some { queue := n, op := 2 }, tries := 0, since := d.cclk }
    let r := d.crdReadTries (if count = 1 then 17 else 18) fails
    if !r.1 then r.2
    else
      let d := r.2
      let (st, d) := (List.range count).foldl (fun (x : Status × Dev) i =>
        let y := x.2.hwStore 0xFE (sbBase + ofs + 512 * i) (d.crdAt (lba + i))
        (pickStatus [x.1, y.1], y.2)) (.ok, d)
      (d.setCrd { d.crd with job := none, lastAccess := d.cclk }).crdEnd n st (if st = .ok then count else 0)

/-- The sync command. -/
def Dev.crdSync (d : Dev) (n : Nat) : Dev :=
  if !d.flag CRD_STAT_mounted then d.crdEnd n d.crdAbsent 0
  else if d.crd.uncovered.isEmpty then d.crdEnd n .ok 0
  else if d.flag CRD_STAT_wp then d.crdProtected n
  else (d.setCrd { d.crd with job := some { queue := n, op := 3 } }).crdPush

/-- The format command: two copies of a header with a random format_id. -/
def Dev.crdFormat (d : Dev) (n : Nat) (p : List Byte) : Dev :=
  if d.flag CRD_STAT_wp then d.crdProtected n
  else if p.length < 8 ∨ leAt p 4 4 ≠ 0 then d.crdEnd n .badParam 0
  else if d.crd.card.isNone ∨ d.rd CRD_CAP_blocks ≤ 2048 then d.crdEnd n d.crdAbsent 0
  else
    let (v, d) := d.drbg
    let id := v % 2 ^ 32
    let b := crdBlock id 1 false false 0 0 (headerPayload id d.rfg.otp.uid (d.rd CRD_CAP_blocks) d.taiNs)
    let copies : List CrdBlock := [{ lba := 0, bytes := b, wseq := 0, kind := 1 }, { lba := 1, bytes := b, wseq := 0, kind := 1 }]
    (d.setCrd { d.crd with job := some { queue := n, op := 4, formatId := id } }).crdCommand copies

/-- Parking (R432). -/
def Dev.cardPark (d : Dev) : Dev :=
  if !d.flag CRD_STAT_present ∨ d.flag CRD_STAT_parked then d
  else
    let d := d.cardDown
    d.wr CRD_STAT_parked 1

/-- The queue of a kind is served. -/
def Dev.crdQueue (d : Dev) (i : Nat) : Option Nat :=
  match i with
  | 0 => if d.flag CRD_Q_en then some (d.rd CRD_Q_queue) else none
  | i => if d.flag CRD_RQk_en (i - 1) then some (d.rd CRD_RQk_queue (i - 1)) else none

/-- A queue with an item to serve. -/
def Dev.crdWaits (d : Dev) (i : Nat) : Bool :=
  match d.crdQueue i with
  | some n => (d.blockPeek n).isSome
  | none => false

/-- Serves the command queue's next item, if its opcode is the row's or none that exists. -/
def Dev.crdItem (d : Dev) (op : Nat) (fails : List (Nat × Nat)) : Dev :=
  if !d.crdEnabled ∨ d.crd.job.isSome ∨ !d.crd.writing.isEmpty then d
  else match d.crdQueue 0 with
    | none => d
    | some n =>
      match d.blockClaim n ringMost with
      | (none, d) => d
      | (some b, d') =>
        let p := b.drop 16
        let code := leAt p 2 1
        if 1 ≤ code ∧ code ≤ 5 ∧ code ≠ op then d
        else
          let d := if code = 5 then d' else d'.cardWake
          match code with
          | 1 => d.crdAppend n p
          | 2 => d.crdRead n p fails
          | 3 => d.crdSync n
          | 4 => d.crdFormat n p
          | 5 => (d.cardPark).crdEnd n .ok 0
          | _ => d.crdEnd n .badParam 0

/-- Serves an item of record queue k, after the command queue and the record queues before it (R445). -/
def Dev.crdRecord (d : Dev) (k : Nat) : Dev :=
  if !d.crdEnabled ∨ d.crd.job.isSome ∨ !d.crd.writing.isEmpty ∨ (List.range (k + 1)).any d.crdWaits then d
  else match d.crdQueue (k + 1) with
    | none => d
    | some n =>
      match d.blockClaim n ringMost with
      | (none, d) => d
      | (some b, d) =>
        let d := d.cardWake
        if d.flag CRD_STAT_wp then d.crdProtected n
        else if !d.flag CRD_STAT_mounted then d.crdEnd n d.crdAbsent 0
        else d.crdBegin n 1 (d.rd CRD_RQOBJk_object k) b

/-- CARD_PARK: park_ms after the last access, with nothing to serve. -/
def Dev.cardParkTimer (d : Dev) : Dev :=
  if d.rd CRD_CFG_park_ms = 0 || d.crd.job.isSome || !d.crd.writing.isEmpty || d.crdWaits 0 || d.crdWaits 1 || d.crdWaits 2 ||
      decide (d.cclk < d.crd.lastAccess + d.rd CRD_CFG_park_ms * cclkPerMs) then d
  else d.cardPark

/-! ### Objects (R441, R444) -/

/-- The committed data blocks of an object, newest first. -/
def Dev.crdCommitted (d : Dev) (obj : Nat) : List (Nat × List Byte) :=
  let cs := d.crdCairns d.crd.formatId
  let ok (b : List Byte) : Bool :=
    blockOk d.crd.formatId b && blockKind b == 2 && leAt b 0x1F8 4 == obj &&
      cs.any (fun c => decide (c.2.1 ≤ blockSeq b) && c.2.2[blockSeq b - c.2.1]? == some (leAt b 0x1FC 4))
  let l := (d.crd.blocks.filter (fun e => decide (2048 ≤ e.1) && ok e.2)).map (fun e => (blockSeq e.2, e.2))
  l.foldl (fun s e => ins e s) []
where
  /-- Inserts by falling sequence number. -/
  ins (e : Nat × List Byte) : List (Nat × List Byte) → List (Nat × List Byte)
    | [] => [e]
    | x :: xs => if x.1 < e.1 then e :: x :: xs else x :: ins e xs

/-- The data of the newest whole item, from its blocks newest first. -/
def itemOf (acc : List Byte) : Nat → List (Nat × List Byte) → Option (List Byte)
  | _, [] => none
  | w, (w', b) :: rest =>
    if w' ≠ w then none
    else
      let acc := b.take (leAt b 0x1F2 2) ++ acc
      if (leAt b 0x1F1 1).testBit 4 then some acc else itemOf acc (w - 1) rest

/-- The committed item of an object with the highest wseq. -/
def Dev.crdObject (d : Dev) (obj : Nat) : Option (List Byte) :=
  match (d.crdCommitted obj).dropWhile (fun e => !(leAt e.2 0x1F1 1).testBit 5) with
  | [] => none
  | e :: rest => itemOf [] e.1 (e :: rest)

/-- The recovery object (R354, R444). -/
def Dev.crdRecovery (d : Dev) : Option (List Byte) := if d.flag CRD_STAT_mounted then d.crdObject 0xFFFFFFF1 else none

/-! ### The dump's copy (R425) -/

/-- The slot of a dump goes to the card as one item of the dump object, block by block as other items do; a card that cannot take it, or
fails on the way, is recorded. -/
def Dev.dumpCopy (d : Dev) (slot n : Nat) : Dev :=
  if !d.flag CRD_STAT_present then d
  else
    let d := d.cardWake
    let st := pickStatus [if d.crd.job.isSome || !d.crd.writing.isEmpty then .busy else .ok,
      if d.flag CRD_STAT_wp then .denied else .ok, if d.flag CRD_STAT_mounted then .ok else .notReady]
    if st ≠ .ok then d.refugeRec 0xF021 4 st.code n
    else
      let j : CrdJob := { queue := 0, op := 1, obj := 0xFFFFFFF0, todo := crdChunks (d.load (d.dumpBase slot) 0x300000), dump := some n }
      (d.setCrd { d.crd with job := some j, tries := 0, since := d.cclk }).crdPush

/-- The dump's record is written, and a HALTED engine frozen (R252, R424). -/
def Dev.dumpOpen (d : Dev) (r : DumpReq) (rest : List DumpReq) : Dev :=
  let halted := d.engState r.engine == 4
  let r := if halted then { r with at_ := d.taiNs } else r
  let d := if halted then d.engFreeze r.engine (d.rd ENG_STATE_reason 0 r.engine) else d
  let x := d.mkRec 0xF020 7 3 0x7E ⟨r.engine + r.trigger * 256, 1, r.reason⟩
  (({ d with rfg := { d.rfg with dumps := { r with written := some x } :: rest } }).wr EVR_DUMP_STAT_busy 1).direct pgRFG x

/-- FATAL_DUMP: the next thing the Refuge does for the first dump that waits (R275, R424). Without a region or a key it ends with
ST_NOT_READY. It writes the dump's record and waits for its number and for CP7; then the dump is written, and CP7 given
back. -/
def Dev.fatalDump (d : Dev) : Dev :=
  match d.rfg.dumps with
  | [] => d
  | r :: rest =>
    let owner := d.rd LOCK_owner 0 (pgCPL 7)
    if !d.flag EVR_DUMP_en || (d.slotOf 8).type == 0 then
      (({ d with rfg := { d.rfg with dumps := rest } }).wr EVR_DUMP_STAT_status Status.notReady.code).wr EVR_DUMP_STAT_busy 0
    else if r.written.isNone then d.dumpOpen r rest
    else match r.num with
      | none => d
      | some n =>
        if owner ≠ 0xFF ∧ owner ≠ 0x0E then
          { d with rfg := { d.rfg with dumps := { r with since := if r.since = 0 then d.cclk else r.since } :: rest } }
        else if !d.flag TRN_STAT_drbg_ready then d
        else
          let d := ({ (d.lockChange (pgCPL 7) 0x0E) with rfg := { d.rfg with dumps := rest } }).dumpWrite r n
          let d := if r.card then d.dumpCopy (d.rd EVR_DUMP_STAT_slot) n else d
          d.lockChange (pgCPL 7) 0xFF

/-- CP7 is still held 1 ms after the request: the Refuge releases it (R310, R424). -/
def Dev.dumpTakeCp7 (d : Dev) : Dev :=
  match d.rfg.dumps with
  | r :: _ =>
    let owner := d.rd LOCK_owner 0 (pgCPL 7)
    if r.since = 0 || decide (d.cclk < r.since + cclkPerMs) || owner == 0xFF then d
    else (d.lockUnmap (pgCPL 7) owner).lockChange (pgCPL 7) 0xFF
  | [] => d

/-! ### Registers (R447) -/

/-- The writes of the CRD page: queue registers only while the block is disabled. -/
def Dev.crdWrite (d : Dev) (off v : Nat) : Status × Dev :=
  if (off = 0x048 ∨ off = 0x04C ∨ off = 0x054) ∧ d.flag CTRL_enable 0 pgCRD then (.busy, d)
  else if off = 0x040 ∧ 5 < bitsOf v 2 0 then (.badParam, d)
  else d.plainWrite pgCRD off v

end Sys2Proof.Machine
end

