-- ==== Sys2Proof/Machine/Contactless.lean ====
section
/-! DEFINITION. The contactless reader (R448 to R457) and the tag island (R458 to R466). -/

namespace Sys2Proof.Machine

open Sys2Proof

def pgNFC : Nat := 0x083

/-! ### Reader: field and tag table (R448, R449, R453) -/

def Dev.setNfc (d : Dev) (x : Nfc) : Dev := { d with nfc := x }
def Dev.nfcEnabled (d : Dev) : Bool := d.flag STATUS_enabled 0 pgNFC && d.inReset.get pgNFC 0 == 0 && !d.bivouac

/-- A record of NFC: p0 the tag index. -/
def Dev.nfcRec (d : Dev) (code sev tag p2 : Nat) : Dev := d.rated pgNFC code 0 sev tag p2

/-- The index of the ACTIVE tag. -/
def Dev.nfcActive (d : Dev) : Option Nat := d.nfc.tags.findIdx? (fun t => t.state == 2)

/-- NFC_STAT.active. -/
def Dev.nfcActiveCode (d : Dev) : Nat := d.nfcActive.getD 0xF

/-- Changes the entry of a tag. -/
def Dev.setTagEnt (d : Dev) (i : Nat) (t : TagEnt) : Dev := d.setNfc { d.nfc with tags := d.nfc.tags.set i t }

/-- The ACTIVE tag, if any, is deselected. -/
def Dev.nfcDeselect (d : Dev) : Dev :=
  match d.nfcActive with
  | some i => match d.nfc.tags[i]? with
    | some t => d.setTagEnt i { t with state := 3 }
    | none => d
  | none => d

/-- The field goes off: no tag stays in the table. -/
def Dev.nfcFieldOff (d : Dev) : Dev := (d.setNfc { d.nfc with tags := [] }).wr NFC_STAT_field_on 0

/-- NFC_FIELD_IDLE_TIMEOUT: 2 s after the last item, or 30 s while a tag is ACTIVE. -/
def Dev.nfcFieldIdle (d : Dev) : Dev :=
  let wait := if d.nfcActive.isSome then 30 else 2
  if !d.flag NFC_STAT_field_on || d.nfc.waiting.isSome || decide (d.cclk < d.nfc.lastDone + wait * cclkPerS) then d
  else d.nfcDeselect.nfcFieldOff

/-! ### Items (R450) -/

def Dev.nfcQueue (d : Dev) : Nat := d.rd NFC_CFG_queue

/-- The item ends. -/
def Dev.nfcEnd (d : Dev) (st : Status) (arg : Nat) : Dev :=
  (d.blockDone d.nfcQueue st arg).setNfc { (d.blockDone d.nfcQueue st arg).nfc with waiting := none, lastDone := d.cclk }

/-- The budget of R456 is used up: R171, and the tag becomes IDLE. -/
def Dev.nfcExhaust (d : Dev) (tag attempts : Nat) : Dev :=
  let d := match d.nfc.tags[tag]? with
    | some t => d.setTagEnt tag { t with state := 0 }
    | none => d
  let d := d.raise 982 tag 1
  let d := (d.exhausted d.nfcQueue 0 0xFE attempts).freeItems d.nfcQueue 1
  d.setNfc { d.nfc with waiting := none, lastDone := d.cclk }

/-- What happens to the frames of an item before its last answer: kind 0 no answer, 1 a parity or CRC error (value: the
command byte), 2 an invalid ISO-DEP block (its PCB), 3 a WTX request beyond FWI 14 (its multiplier). Kinds 0 to 2 take one
transmission each (R456, R467). -/
def Dev.nfcTrouble (d : Dev) (tag : Nat) (fs : List (Nat × Nat)) : Dev :=
  fs.foldl (fun d f => match f.1 with
    | 0 => d.qStat 0
    | 1 => (d.nfcRec 0x3001 3 tag f.2).qStat 0
    | 2 => (d.nfcRec 0x3006 3 tag f.2).qStat 0
    | _ => d.nfcRec 0x3007 3 tag f.2) d
def transmissions (fs : List (Nat × Nat)) : Nat := (fs.filter (fun f => decide (f.1 < 3))).length

/-- The payload of the item to serve: the one that waits for the field, else the next of the queue. -/
def Dev.nfcTake (d : Dev) : Option (List Byte) × Dev :=
  let n := d.nfcQueue
  if d.nfc.waiting.isSome then
    let d' := if d.blockEnded n then (d.freeItems n 1).setNfc { (d.freeItems n 1).nfc with waiting := none } else d
    if d'.nfc.waiting.isSome then
      let (st, b, d) := d.hwLoad 0xFE ((d.q n).slotAddr (d.q n).cons) (d.q n).slot
      if st = .ok then (some (b.take (16 + (parseHdr b).len)), d)
      else ((d.blockDone n st 0).setNfc { (d.blockDone n st 0).nfc with waiting := none }).blockClaim n ringMost
    else d'.blockClaim n ringMost
  else d.blockClaim n ringMost

/-- A claimed item that needs the field: it waits while an external field is present or an island session is open, else the
field is on. -/
def Dev.nfcField (d : Dev) (ext : Bool) (f : Dev → Dev) : Dev :=
  if d.flag NFC_STAT_field_on then f d
  else
    let d := d.wr NFC_STAT_ext_field (b2n ext)
    if ext || d.isl.session.isSome then d.setNfc { d.nfc with waiting := some (d.nfc.waiting.getD d.cclk) }
    else f ((d.wr NFC_STAT_field_on 1).setNfc { d.nfc with waiting := none })

/-- NFC_EXT_FIELD_TIMEOUT: the external field has lasted 100 ms. -/
def Dev.nfcExtTimeout (d : Dev) : Dev :=
  match d.nfc.waiting with
  | some t => if d.flag NFC_STAT_ext_field && decide (t + 100 * cclkPerMs ≤ d.cclk) then (d.raise 983 0 1).nfcEnd .busy 0 else d
  | none => d

/-- NFC_SESSION_WAIT_TIMEOUT: the island session has not ended after 2 s. -/
def Dev.nfcSessionTimeout (d : Dev) : Dev :=
  match d.nfc.waiting with
  | some t => if d.isl.session.isSome && decide (t + 2 * cclkPerS ≤ d.cclk) then d.nfcEnd .busy 0 else d
  | none => d

/-! ### Poll (R451, R452) -/

/-- The bits a tag sends at its cascade levels, in order: the cascade tag 0x88 before all levels but the last, and BCC. -/
def cascadeLevels (uid : List Byte) : List (List Byte) :=
  let level (b : List Byte) : List Byte := b ++ [b.foldl (· ^^^ ·) 0]
  if uid.length ≤ 4 then [level (padTo 4 uid)]
  else if uid.length ≤ 7 then [level (0x88 :: slice uid 0 3), level (padTo 4 (uid.drop 3))]
  else [level (0x88 :: slice uid 0 3), level (0x88 :: slice uid 3 3), level (padTo 4 (uid.drop 6))]
def cascadeBits (uid : List Byte) : List Bool :=
  ((cascadeLevels uid).flatten.map (fun b => (List.range 8).map (fun i => b.getLsbD i))).flatten

/-- `a` is identified before `b`: at the first bit that differs it has the 1. -/
def bitsBefore : List Bool → List Bool → Bool
  | a :: as, b :: bs => if a = b then bitsBefore as bs else a
  | _, _ => false

/-- Inserts a Type A tag in the order of identification; of tags that send the same bits one is seen. -/
def insertTagA (t : NfcTag) : List NfcTag → List NfcTag
  | [] => [t]
  | u :: us =>
    if t.uid = u.uid then u :: us
    else if bitsBefore (cascadeBits t.uid) (cascadeBits u.uid) then t :: u :: us
    else u :: insertTagA t us

/-- The Type A tags in the field, in the order of identification. -/
def orderA (l : List NfcTag) : List NfcTag := (l.filter (fun t => !t.typeB)).foldl (fun s t => insertTagA t s) []

/-- The tags of the polled types in order, skipping tags that break the anticollision. -/
def Dev.pollTags (d : Dev) (types : Nat) (tags : List NfcTag) : List NfcTag × Dev :=
  let a := if types.testBit 0 then orderA tags else []
  let d := (a.filter (·.bad)).foldl (fun d t => d.nfcRec 0x3002 3 0 t.sak) d
  (a.filter (fun t => !t.bad) ++ (if types.testBit 1 then tags.filter (·.typeB) else []), d)

/-- A poll fills the table; `left` counts Type B slots that stay collided after round 8. -/
def Dev.poll (d : Dev) (types : Nat) (tags : List NfcTag) (left : Nat) : Nat × Dev :=
  let r := d.pollTags types tags
  let found := r.1.take 8
  let d := r.2.setNfc { r.2.nfc with tags := found.map (fun t => { tag := t }) }
  let d := if 8 < r.1.length then d.nfcRec 0x3005 2 0 0 else d
  let d := if types.testBit 1 ∧ left ≠ 0 then d.nfcRec 0x3003 3 0 left else d
  (found.length, d)

def Dev.nfcPoll (d : Dev) (ext : Bool) (p : List Byte) (tags : List NfcTag) (left : Nat) : Dev :=
  let types := leAt p 4 1
  if p.length < 8 ∨ 3 < types ∨ leAt p 5 3 ≠ 0 then d.nfcEnd .badParam 0
  else d.nfcField ext (fun d =>
    let r := d.poll types tags left
    r.2.nfcEnd .ok r.1)

/-! ### Activation (R454) -/

/-- The highest rate up to `top` that the rate byte of a tag allows both ways: ISO/IEC 14443-4 TA(1) and -3 protocol info
order their bits alike (PRESUMED, log entry 91). -/
def tagRate (ta top : Nat) : Nat :=
  if 3 ≤ top ∧ ta.testBit 2 ∧ ta.testBit 6 then 3
  else if 2 ≤ top ∧ ta.testBit 1 ∧ ta.testBit 5 then 2
  else if 1 ≤ top ∧ ta.testBit 0 ∧ ta.testBit 4 then 1
  else 0

/-- The rate byte: TA(1) of an ATS that carries one, or protocol info byte 0. -/
def rateByte (t : NfcTag) (ans : List Byte) : Nat :=
  if t.typeB then leAt t.info 0 1
  else if (leAt ans 1 1).testBit 4 then leAt ans 2 1 else 0

/-- The answer is malformed: an ATS whose TL disagrees, an ATTRIB answer with a bad CRC. -/
def answerBad (t : NfcTag) (ans : List Byte) (crcBad : Bool) : Bool :=
  if t.typeB then crcBad else leAt ans 0 1 != ans.length

/-- An activation of tag `i` with the answer it gives. -/
def Dev.nfcActivateTag (d : Dev) (i : Nat) (t : TagEnt) (top : Nat) (ans : List Byte) (crcBad : Bool) : Dev :=
  if answerBad t.tag ans crcBad then
    ((d.setTagEnt i { t with state := 0 }).nfcRec 0x3004 3 i (leAt ans 0 1)).nfcEnd .protocol 0
  else
    let d := d.setTagEnt i { t with state := 2, rate := tagRate (rateByte t.tag ans) top, ats := padTo 16 ans }
    (d.raise 981 i (leAt t.tag.uid 0 4)).nfcEnd .ok ans.length

def Dev.nfcActivate (d : Dev) (ext : Bool) (p : List Byte) (fails : List (Nat × Nat)) (late : Bool) (ans : Option (List Byte))
    (crcBad : Bool) : Dev :=
  let i := leAt p 4 1
  let top := leAt p 5 1
  match d.nfc.tags[i]? with
  | none => d.nfcEnd .badParam 0
  | some t =>
    if p.length < 8 ∨ 3 < top ∨ leAt p 6 2 ≠ 0 then d.nfcEnd .badParam 0
    else d.nfcField ext (fun d =>
      let d := (d.nfcDeselect).nfcTrouble i fails
      match ans with
      | some a => if late || decide (3 ≤ transmissions fails) then d.nfcExhaust i (transmissions fails)
        else d.nfcActivateTag i t top a crcBad
      | none => d.nfcExhaust i (transmissions fails))

/-! ### Exchange (R455) -/

/-- What an exchange meets before its first block. -/
def Dev.exchangeStatus (d : Dev) (b p : List Byte) : Status :=
  let max := leAt p 8 2
  pickStatus [if p.length < 13 ∨ 4096 < p.length - 12 ∨ max < 2 ∨ 4096 < max ∨ leAt p 10 2 ≠ 0 then .badParam else .ok,
    d.reach (parseHdr b).src true (sbBase + leAt p 4 4) (if max = 0 then 1 else max),
    if d.nfcActive.isNone then .notReady else .ok]

/-- The response goes to the stream buffer, cut at the item's maximum. -/
def Dev.exchangeResponse (d : Dev) (i : Nat) (p resp : List Byte) : Dev :=
  let max := leAt p 8 2
  let (st, d) := d.hwStore 0xFE (sbBase + leAt p 4 4) (resp.take max)
  if st ≠ .ok then d.nfcEnd st 0
  else if max < resp.length then (d.nfcRec 0x3008 3 i resp.length).nfcEnd .full max else d.nfcEnd .ok resp.length

def Dev.nfcExchange (d : Dev) (b p : List Byte) (fails : List (Nat × Nat)) (late : Bool) (resp : Option (List Byte)) : Dev :=
  let st := d.exchangeStatus b p
  if st ≠ .ok then d.nfcEnd st 0
  else
    let i := d.nfcActive.getD 0
    let d := d.nfcTrouble i fails
    match resp with
    | some r => if late || decide (3 ≤ transmissions fails) then d.nfcExhaust i (transmissions fails) else d.exchangeResponse i p r
    | none => d.nfcExhaust i (transmissions fails)

/-- What the antenna shows while an item is served. -/
structure NfcEnv where
  ext : Bool := false
  tags : List NfcTag := []
  left : Nat := 0
  fails : List (Nat × Nat) := []
  late : Bool := false
  ans : Option (List Byte) := none
  crcBad : Bool := false

/-- Serves the next item, if its opcode is the row's or none that exists. -/
def Dev.nfcItem (d : Dev) (op : Nat) (v : NfcEnv) : Dev :=
  if !d.nfcEnabled then d
  else match d.nfcTake with
    | (none, d) => d
    | (some b, d') =>
      let p := b.drop 16
      let code := leAt p 2 1
      if 1 ≤ code ∧ code ≤ 5 ∧ code ≠ op then d
      else match code with
        | 1 => d'.nfcPoll v.ext p v.tags v.left
        | 2 => d'.nfcActivate v.ext p v.fails v.late v.ans v.crcBad
        | 3 => d'.nfcExchange b p v.fails v.late v.ans
        | 4 => (d'.nfcDeselect).nfcEnd .ok 0
        | 5 => (d'.nfcFieldOff).nfcEnd .ok 0
        | _ => d'.nfcEnd .badParam 0

/-! ### Low-power card detection (R457) -/

/-- |v - mean of the list| as an exact fraction of the mean, compared with `permille` thousandths. -/
def deviates (v : Nat) (l : List Nat) (permille : Nat) : Bool :=
  let s : Nat := l.foldl (· + ·) 0
  let n := l.length
  decide (n ≠ 0) && decide (permille * s < 1000 * ((v * n : Nat) - (s : Int)).natAbs)

/-- NFC_STAT.detune: the signed deviation of the amplitude in 0.1 % of the reference; its last bit is not stated. -/
def detuneOf (v : Nat) (l : List Nat) : Int :=
  let s : Nat := l.foldl (· + ·) 0
  clampInt (-32768) 32767 (divFree (1000 * ((v * l.length : Nat) - (s : Int))) s)

/-- NFC_LPCD_PING: amplitude and phase at the antenna; an overcurrent; an item claimed in the same CCLK; the tags a detection
poll meets. Amplitude and phase are each compared with their own mean (log entry 92). -/
def Dev.nfcPing (d : Dev) (amp phase : Nat) (ovr : Bool) (tags : List NfcTag) (left : Nat) : Dev :=
  let period := max 1 (d.rd NFC_LPCD_period_ms) * cclkPerMs
  if !d.nfcEnabled || !d.flag NFC_LPCD_en || d.flag NFC_STAT_field_on || d.nfc.waiting.isSome || d.isl.session.isSome ||
      decide (d.cclk < d.nfc.pingAt + period) then d
  else
    let l := d.nfc.pings
    let over_ (p : Nat) : Bool := deviates amp (l.map (·.1)) p || deviates phase (l.map (·.2)) p
    let hit := over_ (max 1 (d.rd NFC_LPCD_threshold))
    let far := if over_ 500 then d.nfc.far + 1 else 0
    let fault := ovr || decide (16 ≤ far)
    let claimed := (d.blockPeek d.nfcQueue).isSome
    let d := d.setNfc { d.nfc with
      pingAt := d.cclk
      far := if 16 ≤ far then 0 else far
      pings := if hit then l else ((amp, phase) :: l).take 16 }
    let d := d.wr NFC_STAT_detune (unsigned 16 (detuneOf amp (l.map (·.1))))
    let d := if fault then d.raise 986 0 1 else d
    if !hit then d
    else if d.flag NFC_LPCD_auto_poll && !claimed && !d.isl.field then
      let r := (d.wr NFC_STAT_field_on 1).poll (d.rd NFC_CFG_types) tags left
      (r.2.setNfc { r.2.nfc with lastDone := d.cclk }).raise 980 r.1 1
    else d.raise 980 0 1

/-- The writes of the NFC page: the queue only while the block is disabled. -/
def Dev.nfcWrite (d : Dev) (off v : Nat) : Status × Dev :=
  match off with
  | 0x040 =>
    if d.flag CTRL_enable 0 pgNFC ∧ bitsOf v 13 0 ≠ d.nfcQueue then (.busy, d) else d.plainWrite pgNFC off v
  | _ => d.plainWrite pgNFC off v

/-! ### Island store (R459, R462, R464) -/

def Dev.setIsl (d : Dev) (x : Isl) : Dev := { d with isl := x }
def Isl.bankOf (x : Isl) (b : Nat) : IslBank := x.banks.get b {}

/-- A note page: seq, length, text, CRC. -/
def notePage (seq : Nat) (text : List Byte) : List Byte :=
  let b := leBytes seq 4 ++ leBytes text.length 2 ++ leBytes 0 2 ++ padTo 128 text
  b ++ leBytes (crc32c b).toNat 4
def pageOk (b : List Byte) : Bool := b.length == 140 && leAt b 136 4 == (crc32c (b.take 136)).toNat

/-- The committed note's mark: the newest whose page CRC matches. -/
def Isl.mark (x : Isl) : Option IslMark :=
  x.marks.foldl (fun best m =>
    let p := x.pages.get m.2.page []
    if pageOk p && leAt p 136 4 == m.2.crc then
      match best with
      | some b => if b.seq < m.2.seq then some m.2 else some b
      | none => some m.2
    else best) none

/-- The committed note page. -/
def Isl.note (x : Isl) : Option (List Byte) := x.mark.map (fun m => x.pages.get m.page [])
def Isl.noteSeq (x : Isl) : Nat := match x.mark with | some m => m.seq | none => 0

/-- The identity file. -/
def Dev.islIdentity (d : Dev) (gen : Nat) : List Byte :=
  let n := d.evr.recent.length
  let newest := match d.evr.recent with | r :: _ => r.seq | [] => 0
  let b := leBytes 0x1D01 2 ++ leBytes d.lcc 1 ++ leBytes (b2n d.bivouac + 2 * b2n (d.flag LCC_STATE_tamper_lock)) 1 ++
    padTo 16 d.rfg.otp.uid ++ leBytes (if d.ownerIdx = 0xF then 0xFF else d.ownerIdx) 1 ++
    leBytes (d.rd RFG_BOOT_CAUSE_cause) 1 ++ leBytes n 2 ++ leBytes gen 4 ++ leBytes d.taiNs 8 ++ leBytes newest 4 ++
    padTo 12 ([0x50, 0x58, 0x39, 0x36, 0x30, 0x30, 0x2D, 0x47] : List Byte) ++ leBytes 0 8
  b ++ leBytes (crc32c b).toNat 4

/-- The update itself: the bank that is not committed gets the new content and becomes the committed one; failed checks are
raised. -/
def Dev.mirrorWrite (d : Dev) : Dev :=
  let x := d.isl
  let b := 1 - x.bank
  let gen := ((x.bankOf x.bank).gen + 1) % 2 ^ 32
  let files := [d.islIdentity gen, d.rfg.statement, (d.evr.recent.reverse.map Rec.bytes).flatten]
  let d' := x.failed.foldl (fun d f => d.raise 987 0 1 f) d
  d'.setIsl { x with banks := x.banks.set b { gen := gen, files := files } {}, bank := b, failed := [], held := false }

/-- MIRROR_UPDATE: a due update runs, or waits for the session that reads the bank it would write (R426, R460). -/
def Dev.mirrorUpdate (d : Dev) : Dev :=
  if !d.evr.mirrorDue then d
  else
    let d := { d with evr := { d.evr with mirrorDue := false, mirrorFrom := none } }
    if !d.flag EVR_CFG_mirror_en then d
    else if d.isl.session == some (1 - d.isl.bank) then d.setIsl { d.isl with held := true }
    else d.mirrorWrite

/-- MIRROR_TIMER_EXPIRY: 60 s after the first commit not yet mirrored. -/
def Dev.mirrorTimer (d : Dev) : Dev :=
  match d.evr.mirrorFrom with
  | some t => if t + 60 * cclkPerS ≤ d.cclk then { d with evr := { d.evr with mirrorDue := true } } else d
  | none => d

/-! ### Field, sessions and reports (R448, R458, R460, R466) -/

/-- The island hears the antenna. -/
def Dev.islListens (d : Dev) : Bool :=
  !d.sys.powered || (!d.flag NFC_STAT_field_on && d.flag NFC_CFG_isl_en)

/-- Jitter enters the generator: its new state, and every byte drawn from it, are free. -/
def Dev.islMix (d : Dev) : Dev :=
  let r := d.draw .random
  r.2.setIsl { r.2.isl with rng := leBytes r.1 16 }

/-- ISLAND_FIELD_ON. -/
def Dev.islFieldOn (d : Dev) : Dev :=
  if !d.islListens || d.isl.field then d
  else
    let r := (d.islMix).draw .random
    r.2.setIsl { r.2.isl with
      field := true
      uid := 0x08 :: leBytes r.1 3
      proto := 0
      halted := false
      selected := false
      noted := false }

/-- The Refuge reads the island's state and reports it. -/
def Dev.islReport (d : Dev) : Dev :=
  let x := d.isl
  let d := match x.mark with
    | some m => if x.reported < m.seq then
        d.direct pgRFG (d.mkRec 0x3012 3 3 0x7E ⟨m.seq, leAt (x.pages.get m.page []) 4 2, m.crc⟩) else d
    | none => d
  let d := if x.sessions ≠ 0 then d.refugeRec 0x3011 2 x.sessions 0 else d
  let d := if x.refused ≠ 0 then d.refugeRec 0x3013 3 x.refused 0 else d
  d.setIsl { x with reported := max x.reported x.noteSeq, sessions := 0, refused := 0 }

/-- The session ends: a held update runs; while the panel is powered NFC raises EV0984 and the Refuge reports. -/
def Dev.islSessionEnd (d : Dev) : Dev :=
  match d.isl.session with
  | none => d
  | some _ =>
    let d := d.setIsl { d.isl with session := none }
    if d.sys.powered then
      let d := (d.raise 984 0 1).islReport
      if d.isl.held then d.mirrorWrite else d
    else d

/-- The external field is lost. -/
def Dev.islFieldLost (d : Dev) : Dev :=
  let d := d.islSessionEnd
  d.setIsl { d.isl with field := false, selected := false, proto := 0, halted := false, noted := false }

/-! ### Type A and ISO-DEP frames (R458) -/

/-- CRC_A of ISO/IEC 14443-3 (log entry 91). -/
def crcABit (c : Nat) : Nat := if c.testBit 0 then (c / 2) ^^^ 0x8408 else c / 2
def crcA (l : List Byte) : List Byte :=
  leBytes (l.foldl (fun c b =>
    crcABit (crcABit (crcABit (crcABit (crcABit (crcABit (crcABit (crcABit (c ^^^ b.toNat))))))))) 0x6363) 2
def withCrcA (l : List Byte) : List Byte := l ++ crcA l
def crcAOk (l : List Byte) : Bool := decide (2 < l.length) && l.drop (l.length - 2) == crcA (l.take (l.length - 2))

/-- Bits of bytes, least significant first, and back. -/
def lsbBits (l : List Byte) : List Bool := (l.map (fun b => (List.range 8).map (fun i => b.getLsbD i))).flatten
def packLsb (l : List Bool) : List Byte :=
  (List.range ((l.length + 7) / 8)).map (fun i =>
    BitVec.ofNat 8 (((l.drop (8 * i)).take 8).zipIdx.foldl (fun s p => s + b2n p.1 * 2 ^ p.2) 0))

/-- The state a card falls back to: HALT if it came from there. -/
def Isl.idle (x : Isl) : Isl := { x with proto := if x.halted then 3 else 0 }

/-- The island's answer to a Type A frame of `n` bits, and the state after it. -/
def Isl.typeA (x : Isl) (f : List Byte) (n : Nat) : Isl × List Byte :=
  let own := match cascadeLevels x.uid with | l :: _ => l | [] => []
  let cmd := leAt f 0 1
  if n = 7 then
    if (cmd = 0x26 ∧ x.proto = 0) ∨ (cmd = 0x52 ∧ (x.proto = 0 ∨ x.proto = 3)) then
      ({ x with proto := 1, halted := x.proto == 3 }, leBytes 0x0004 2)
    else if x.proto = 1 ∨ x.proto = 2 then (x.idle, [])
    else (x, [])
  else match x.proto with
    | 1 =>
      let sent := (lsbBits (f.drop 2)).take (n - 16)
      if cmd ≠ 0x93 ∨ n < 16 then (x.idle, [])
      else if leAt f 1 1 = 0x70 then
        if slice f 2 5 = own ∧ crcAOk f ∧ f.length = 9 then ({ x with proto := 2 }, withCrcA [0x20]) else (x.idle, [])
      else if sent = (lsbBits own).take sent.length ∧ sent.length < 40 then (x, packLsb ((lsbBits own).drop sent.length))
      else (x.idle, [])
    | 2 =>
      if !crcAOk f then (x.idle, [])
      else if cmd = 0x50 ∧ leAt f 1 1 = 0 then ({ x with proto := 3, halted := true }, [])
      else if cmd = 0xE0 then ({ x with proto := 4 }, withCrcA [0x05, 0x78, 0x00, 0x80, 0x00])
      else (x.idle, [])
    | 4 =>
      if crcAOk f ∧ cmd = 0xC2 then ({ x with proto := 3, halted := true, selected := false }, withCrcA [0xC2]) else (x, [])
    | _ => (x, [])

/-- ISLAND_TYPE_A_FRAME. A halt or deselect ends the session. -/
def Dev.islTypeA (d : Dev) (f : List Byte) (n : Nat) : Dev :=
  if !d.islListens || !d.isl.field then d
  else
    let r := d.isl.typeA f n
    let d := d.setIsl r.1
    let d := if r.2.isEmpty then d else d.emit (.island r.2)
    if r.1.proto = 3 then d.islSessionEnd else d

/-- ISLAND_PPS: answered with DSI = DRI = 0 only. -/
def Dev.islPps (d : Dev) (dsi dri : Nat) : Dev :=
  if d.islListens && d.isl.field && d.isl.proto == 4 && dsi == 0 && dri == 0 then d.emit (.island (withCrcA [0xD0])) else d

/-- ISLAND_SESSION_END: 0 S(DESELECT), 1 HLTA, else the loss of the field. A SELECT ends a session too, in its own row. -/
def Dev.islEnd (d : Dev) (how : Nat) : Dev :=
  if how ≤ 1 then
    if d.isl.proto = 4 then (d.setIsl { d.isl with proto := 3, halted := true, selected := false }).islSessionEnd else d
  else d.islFieldLost

/-! ### Commands (R461 to R463) -/

/-- A short APDU: CLA, INS, P1, P2, data, Le (0 none). -/
structure Apdu where
  cla : Nat
  ins : Nat
  p1 : Nat
  p2 : Nat
  data : List Byte
  le : Nat
  bad : Bool

/-- Cases 1 to 4 of ISO/IEC 7816-4; anything else, extended length too, is malformed. -/
def parseApdu (b : List Byte) : Apdu :=
  let n := b.length
  let lc := leAt b 4 1
  let leOf (i : Nat) : Nat := if leAt b i 1 = 0 then 256 else leAt b i 1
  let a : Apdu := { cla := leAt b 0 1, ins := leAt b 1 1, p1 := leAt b 2 1, p2 := leAt b 3 1, data := [], le := 0, bad := false }
  if n = 4 then a
  else if n = 5 then { a with le := leOf 4 }
  else if lc ≠ 0 ∧ n = 5 + lc then { a with data := slice b 5 lc }
  else if lc ≠ 0 ∧ n = 6 + lc then { a with data := slice b 5 lc, le := leOf (5 + lc) }
  else { a with bad := true }

/-- The application identifier F0 41 42 46 4E 96 00. -/
def islAid : List Byte := [0xF0, 0x41, 0x42, 0x46, 0x4E, 0x96, 0x00]

/-- The status words of R463 after 0x9000, in the order that decides. -/
def firstWord : List (Nat × Bool) → Nat
  | [] => 0x9000
  | (w, c) :: t => if c then w else firstWord t

/-- Which command an APDU is: 1 SELECT, 2 READ, 3 GET STATUS, 4 WRITE NOTE. -/
def Apdu.kind (a : Apdu) : Nat := match a.ins with | 0xA4 => 1 | 0xB0 => 2 | 0xCA => 3 | 0xD6 => 4 | _ => 0

/-- The bytes of file `f` that a session reads. -/
def Isl.file (x : Isl) (f : Nat) : List Byte :=
  match f with
  | 4 => x.note.getD []
  | _ => (x.bankOf (x.session.getD x.bank)).files.getD (f - 1) []

/-- A file whose CRC fails. -/
def Isl.fileBad (x : Isl) (f : Nat) : Bool := f != 4 && (x.bankOf (x.session.getD x.bank)).bad.contains f

/-- The status word of an APDU before its effect; `mv` is the storage node's voltage in mV. -/
def Isl.word (x : Isl) (a : Apdu) (mv : Nat) : Nat :=
  let k := a.kind
  let wrong := a.bad || (match k with
    | 1 => a.data.isEmpty
    | 2 => a.data.length != 3 || a.le == 0
    | 3 => !a.data.isEmpty || decide (a.le < 16)
    | 4 => a.data.isEmpty || decide (128 < a.data.length) || a.le != 0
    | _ => false)
  let known := k == 2 && decide (1 ≤ a.p1) && decide (a.p1 ≤ 4)
  firstWord [(0x6581, known && x.fileBad a.p1), (0x6700, wrong), (0x6985, k != 1 && (!x.selected || (k == 4 && x.noted))),
    (0x6986, k == 4 && decide (mv < 2400)), (0x6A82, (k == 1 && a.data != islAid) || (k == 2 && !known)),
    (0x6A86, match k with
      | 1 => a.p1 != 4 || a.p2 != 0
      | 2 => a.p2 != 0
      | 3 => a.p1 != 0 || a.p2 != 0
      | 4 => a.p1 != 4 || a.p2 != 0
      | _ => false),
    (0x6B00, known && decide ((x.file a.p1).length ≤ leValue a.data)), (0x6D00, k == 0),
    (0x6E00, if k = 1 then a.cla != 0 else a.cla != 0x80)]

/-- The response: data and status word, most significant byte first. -/
def Dev.islAnswer (d : Dev) (data : List Byte) (sw : Nat) : Dev := d.emit (.apdu (data ++ beBytes sw 2))

/-- A refused APDU. -/
def Dev.islRefuse (d : Dev) (sw : Nat) : Dev := (d.setIsl { d.isl with refused := satAdd 255 d.isl.refused 1 }).islAnswer [] sw

/-- A SELECT that succeeds: the session before it ends, a new one opens on the committed bank. -/
def Dev.islSelect (d : Dev) : Dev :=
  let d := d.islSessionEnd
  (d.setIsl { d.isl with selected := true, session := some d.isl.bank, sessions := satAdd 65535 d.isl.sessions 1 }).islAnswer [] 0x9000

/-- READ. -/
def Dev.islRead (d : Dev) (a : Apdu) : Dev :=
  let l := (d.isl.file a.p1).drop (leValue a.data)
  if l.length < a.le then d.islAnswer l 0x6282 else d.islAnswer (l.take a.le) 0x9000

/-- GET STATUS. -/
def Dev.islStatus (d : Dev) : Dev :=
  let x := d.isl
  d.islAnswer (leBytes x.sessions 4 ++ leBytes x.noteSeq 4 ++ leBytes (x.bankOf (x.session.getD x.bank)).gen 4 ++
    leBytes (b2n d.sys.powered + 2 * b2n x.held + 4 * b2n (!x.failed.isEmpty)) 1 ++ leBytes x.refused 1 ++ leBytes 0 2) 0x9000

/-- The outcome of a field collapse after step `k` of WRITE NOTE (R465): at step 4 the mark is valid or absent. -/
def Dev.islNote (d : Dev) (text : List Byte) (cut : Option (Nat × Bool)) : Dev :=
  let x := d.isl
  let page := match x.mark with | some m => 1 - m.page % 2 | none => 0
  let seq := (x.noteSeq + 1) % 2 ^ 32
  let b := notePage seq text
  let programmed : Isl := { x with pages := x.pages.set page b [], noted := true }
  let marked : Isl := { programmed with
    marks := x.marks.set x.nextMark { seq := seq, page := page, crc := leAt b 136 4 } { seq := 0, page := 2, crc := 0 }
    nextMark := (x.nextMark + 1) % 64 }
  let done (d : Dev) : Dev := if d.sys.powered then (d.setIsl marked).raise 985 0 1 else d.setIsl marked
  match cut with
  | none => (done d).islAnswer [] 0x9000
  | some (k, valid) =>
    if k ≤ 2 then d.islFieldLost
    else if k = 3 then
      let r := d.draw .memory
      (r.2.setIsl { x with pages := x.pages.set page (leBytes r.1 140) [] }).islFieldLost
    else if k = 4 then (if valid then done d else d.setIsl programmed).islFieldLost
    else (done d).islFieldLost

/-- An APDU at the island: acted on by the row of its command; one of no command is refused in any row. `decayed`: the CRC of the
file that a READ names fails. -/
def Dev.islApdu (d : Dev) (row : Nat) (b : List Byte) (decayed : Bool) (mv : Nat) (cut : Option (Nat × Bool)) : Dev :=
  let a := parseApdu b
  if !d.islListens || !d.isl.field || d.isl.proto != 4 || (a.kind != 0 && a.kind != row) then d
  else
    let bk := d.isl.session.getD d.isl.bank
    let x := d.isl.bankOf bk
    let d := if decayed && a.kind == 2 && decide (1 ≤ a.p1) && decide (a.p1 ≤ 3) && !x.bad.contains a.p1 then
        d.setIsl { d.isl with banks := d.isl.banks.set bk { x with bad := a.p1 :: x.bad } {} }
      else d
    let sw := d.isl.word a mv
    if sw = 0x6581 then
      (d.setIsl { d.isl with failed := if d.isl.failed.contains a.p1 then d.isl.failed else a.p1 :: d.isl.failed }).islAnswer [] sw
    else if sw ≠ 0x9000 then d.islRefuse sw
    else match a.kind with
      | 1 => d.islSelect
      | 2 => d.islRead a
      | 3 => d.islStatus
      | _ => d.islNote a.data cut

/-! ### Views -/

/-- The registers of NFC that show the reader's and the island's state. -/
def Dev.nfcView (d : Dev) (off : Nat) : Option Nat :=
  let t := d.nfc.tags[d.rd NFC_TAG_SEL_index]?
  let f (g : TagEnt → Nat) : Option Nat := some (match t with | some t => g t | none => 0)
  match off with
  | 0x048 => some (setBits (setBits (setBits (setBits (d.rdWord NFC_STAT_field_on) 29 29 (b2n d.isl.session.isSome)) 28 28
      (b2n d.isl.field)) 27 24 d.nfc.tags.length) 23 20 d.nfcActiveCode)
  | 0x050 => f (fun t => t.state * 2 ^ 29 + (if t.tag.typeB then 2 else 1) * 2 ^ 27 + t.rate * 2 ^ 25 +
      (t.tag.uid.length % 16) * 2 ^ 21 + (if t.tag.typeB then leAt t.tag.info 2 1 else t.tag.sak % 256) * 2 ^ 8)
  | 0x054 => f (fun t => leAt t.tag.uid 0 4)
  | 0x058 => f (fun t => if t.tag.typeB then t.tag.app % 2 ^ 32 else leAt t.tag.uid 4 4)
  | 0x05C => f (fun t => if t.tag.typeB then leAt t.tag.info 0 2 else t.tag.atqa % 65536 * 65536 + leAt t.tag.uid 8 2)
  | 0x060 => f (fun t => leAt t.ats 0 4)
  | 0x064 => f (fun t => leAt t.ats 4 4)
  | 0x068 => f (fun t => leAt t.ats 8 4)
  | 0x06C => f (fun t => leAt t.ats 12 4)
  | 0x070 => some (d.isl.bank % 2 * 2 ^ 31 + b2n d.isl.held * 2 ^ 29 + b2n (!d.isl.failed.isEmpty) * 2 ^ 28 + d.isl.sessions % 65536)
  | 0x074 => some (d.isl.bankOf d.isl.bank).gen
  | 0x07C => some (leAt (d.isl.note.getD []) (4 * d.rd NFC_NOTE_SEL_word) 4)
  | _ => none

/-- A read of NFC_NOTE_DATA advances NFC_NOTE_SEL: a field of six bits, over words 0 to 34. -/
def Dev.nfcNoteNext (d : Dev) : Dev := d.wr NFC_NOTE_SEL_word ((d.rd NFC_NOTE_SEL_word + 1) % 35)

end Sys2Proof.Machine
end

