-- ==== Sys2Proof/Machine/Release.lean ====
section
/-! DEFINITION. The clusters' release units: entries, evaluation at a tick, event releases, the deadline monitor
(R265 to R272, R274, R276, R278). -/

namespace Sys2Proof.Machine

open Sys2Proof

/-! ### Entries (R265) -/

def RelEntry.valid (r : RelEntry) : Bool := r.w0.testBit 31
def RelEntry.kind (r : RelEntry) : Nat := bitsOf r.w0 30 29
def RelEntry.periodic (r : RelEntry) : Bool := r.w0.testBit 28
def RelEntry.lateSkip (r : RelEntry) : Bool := r.w0.testBit 27
def RelEntry.dlIrq (r : RelEntry) : Bool := r.w0.testBit 26
def RelEntry.orbit (r : RelEntry) : Nat := bitsOf r.w0 25 24
def RelEntry.evBit (r : RelEntry) : Nat := bitsOf r.w0 20 16
def RelEntry.tag (r : RelEntry) : Nat := bitsOf r.w0 15 8
def RelEntry.target (r : RelEntry) : Nat := r.w1 + r.w2 * 2 ^ 32
def RelEntry.dl (r : RelEntry) : Nat := bitsOf r.w4 19 0
/-- The engine of an entry of cluster c. -/
def RelEntry.engine (r : RelEntry) (c : Nat) : Nat := 8 * c + bitsOf r.w0 23 21

def RelEntry.setTarget (r : RelEntry) (t : Nat) : RelEntry := { r with w1 := t % 2 ^ 32, w2 := t / 2 ^ 32 % 2 ^ 32 }
def RelEntry.clear (r : RelEntry) : RelEntry := { r with w0 := setBits r.w0 31 31 0 }

/-! ### Deadlines (R271) -/

/-- DEADLINE_EXPIRY: a running release passes its deadline at this tick. -/
def Dev.deadlineExpiry (d : Dev) (k : Nat) : Dev :=
  match (d.relOf k).run with
  | none => d
  | some run => if run.missed || decide (d.tickTai < run.deadline) then d else d.relMiss k run

/-! ### A release (R267 to R269) -/

/-- A new release replaces the one of its entry that still runs, which is missed, if it was not before; its own deadline starts,
if it has one. -/
def Dev.relRun (d : Dev) (k : Nat) : Dev :=
  let d := match (d.relOf k).run with
    | some run => if run.missed then d else d.relMiss k run
    | none => d
  let r := d.relOf k
  let run : Running :=
    { engine := r.engine (k / 64), tag := r.tag, deadline := d.tickTai + r.dl * 50, missed := false, irq := r.dlIrq }
  d.setRel k { r with run := if r.dl = 0 then none else some run }

/-- A release reaches its engine's queue of eight places, or is dropped, counted and recorded. -/
def Dev.relPlace (d : Dev) (k : Nat) (late : Bool) (ovr : Nat) : Dev :=
  let r := d.relOf k
  let e := r.engine (k / 64)
  let i := k % 64
  let x := d.engOf e
  if 8 ≤ x.relq.length then (d.bump ENG_REL_DROP_drops 1 0 e).engRec e 0x8011 5 (relP0 e i) r.tag
  else (d.setEng e { x with relq := x.relq ++ [{ entry := i, tag := r.tag, late := late, ovr := min 255 ovr }] }).relRun k

/-- The position of an entry's orbit, or the TAI time, at the tick. -/
def Dev.relPos (d : Dev) (r : RelEntry) : Nat := if r.kind = 0 then d.orbSteps r.orbit else d.tickTai

/-- A release that a tick brings: its entry's key, the late flag, the periods skipped. -/
abbrev TickRelease := Nat × Bool × Nat

/-- One evaluation of a kind 0 or kind 1 entry (R267): the entry after it, and its release if there is one. -/
def Dev.relEval (d : Dev) (k : Nat) : Dev × List TickRelease :=
  let r := d.relOf k
  if !r.valid || r.kind == 2 then (d, [])
  else
    let pos := d.relPos r
    let first := r.fresh
    let d := d.setRel k { r with fresh := false }
    if pos < r.target then (d, [])
    else
      let n := if r.periodic then (pos - r.target) / max 1 r.w3 + 1 else 0
      let r' : RelEntry := if r.periodic then ({ r with fresh := false }).setTarget (r.target + n * r.w3) else ({ r with fresh := false }).clear
      if first && r.lateSkip then
        (if r.periodic then d.setRel k { r' with ovr := min 255 (r.ovr + n) }
         else (d.setRel k r').engRec (r.engine (k / 64)) 0x8014 3 (relP0 (r.engine (k / 64)) (k % 64)) r.tag, [])
      else
        let skip := n - 1
        (d.setRel k { r' with ovr := min 255 (r.ovr + skip) }, [(k, first || decide (1 < n), skip)])

/-! ### Event releases (R268, R274) -/

/-- The valid kind 2 entry of cluster c that watches a pending bit. -/
def Dev.relWatch (d : Dev) (c bit : Nat) : Option Nat :=
  (d.rel.find? (fun p => p.1 / 64 == c && p.2.valid && p.2.kind == 2 && p.2.evBit == bit)).map (·.1)

/-- A pending bit of a cluster sets: the kind 2 entry that watches it consumes it and is to release, or the bit stays (R70, R268). -/
def Dev.pendBit (d : Dev) (c bit : Nat) : Dev × List TickRelease :=
  match d.relWatch c bit with
  | some k => (d, [(k, false, 0)])
  | none => (d.wr CLU_PEND_bits (d.rd CLU_PEND_bits 0 c ||| (1 <<< bit)) 0 c, [])

/-- A pending bit that sets between ticks. -/
def Dev.setPending (d : Dev) (c bit : Nat) : Dev :=
  let x := d.pendBit c bit
  x.2.foldl (fun d r => d.relPlace r.1 r.2.1 r.2.2) x.1

/-- A kind 2 entry that comes into force consumes a bit that already reads 1. -/
def Dev.relConsume (d : Dev) (k : Nat) : Dev × List TickRelease :=
  let r := d.relOf k
  let c := k / 64
  if r.valid && r.kind == 2 && (d.rd CLU_PEND_bits 0 c).testBit r.evBit then
    (d.wr CLU_PEND_bits (setBits (d.rd CLU_PEND_bits 0 c) r.evBit r.evBit 0) 0 c, [(k, false, 0)])
  else (d, [])

/-- A commit takes effect at the next tick (R266). -/
def Dev.relInstall (d : Dev) (k : Nat) : Dev × List TickRelease :=
  let r := d.relOf k
  match r.next with
  | some [w0, w1, w2, w3, w4] =>
    (d.setRel k { w0 := w0, w1 := w1, w2 := w2, w3 := w3, w4 := w4, ovr := 0, fresh := true, next := none, run := r.run }).relConsume k
  | _ => (d, [])

/-- Steps one after another, each with the releases it brings. -/
def releaseFold {α : Type} (f : Dev → α → Dev × List TickRelease) (l : List α) (s : Dev × List TickRelease) : Dev × List TickRelease :=
  l.foldl (fun s a => let x := f s.1 a; (x.1, s.2 ++ x.2)) s

/-- The releases of a tick, in ascending entry number (R269). -/
def releaseOrder (l : List TickRelease) : List TickRelease :=
  l.foldl (fun acc r => acc.takeWhile (fun x => decide (x.1 ≤ r.1)) ++ r :: acc.dropWhile (fun x => decide (x.1 ≤ r.1))) []

/-- The release units at a tick, after the vector is sampled: commits, the entries of kinds 0 and 1, the pending bits that selectors
set (R71), then the releases of the tick. -/
def Dev.relTick (d : Dev) : Dev :=
  let ks := d.rel.map (·.1)
  let s := releaseFold Dev.relInstall ks (d, [])
  let s := releaseFold Dev.relEval ks s
  let s := releaseFold (fun d i => d.pendBit (i / 32) (i % 32)) d.matchingSelectors s
  (releaseOrder s.2).foldl (fun d r => d.relPlace r.1 r.2.1 r.2.2) s.1

/-! ### Commands (R266) -/

/-- The requester's staged entry, and the entry its CLU_REL_SEL addresses. -/
def Dev.relSel (d : Dev) (r : Req) (c : Nat) : Nat := relKey c (d.rdOwn (reqId r) CLU_REL_SEL_entry 0 c)
def Dev.relStaged (d : Dev) (r : Req) (c : Nat) : List Nat := (List.range 5).map (fun k => d.rdOwn (reqId r) CLU_REL_Wk_word k c)

def relOfWords (l : List Nat) : RelEntry :=
  { w0 := l.getD 0 0, w1 := l.getD 1 0, w2 := l.getD 2 0, w3 := l.getD 3 0, w4 := l.getD 4 0 }

/-- The world a requester acts for on a cluster's page: HST and DBG for the page's owner (R304). -/
def Dev.relWorld (d : Dev) (r : Req) (c : Nat) : Nat :=
  match r with
  | .eng e => d.engWorld e.val
  | _ => d.pageWorld (pgCLU c)

/-- An engine of another world than the requester's. -/
def Dev.relForeign (d : Dev) (r : Req) (c e : Nat) : Bool := r != .refuge && d.engWorld e != d.relWorld r c

/-- A reserved field or code, or a period that cannot be. -/
def RelEntry.bad (r : RelEntry) : Bool :=
  bitsOf r.w0 7 0 != 0 || r.kind == 3 || r.w4 / 2 ^ 20 != 0 || (r.kind == 2 && (r.w1 != 0 || r.w2 != 0 || r.w3 != 0)) ||
    (r.periodic && (r.kind == 2 || r.w3 == 0))

/-- The entry as it will stand at the next tick. -/
def RelEntry.coming (r : RelEntry) : RelEntry := match r.next with | some l => relOfWords l | none => r

def Dev.relCommit (d : Dev) (r : Req) (c : Nat) : Status × Dev :=
  let k := d.relSel r c
  let old := d.relOf k
  let l := d.relStaged r c
  let new := relOfWords l
  let dup := new.valid && new.kind == 2 && d.rel.any (fun p => p.1 != k && p.1 / 64 == c && p.2.coming.valid && p.2.coming.kind == 2 &&
    p.2.coming.evBit == new.evBit)
  let st := pickStatus [if d.relForeign r c (new.engine c) || (old.valid && d.relForeign r c (old.engine c)) then .denied else .ok,
    if new.bad then .badParam else .ok, if dup then .duplicate else .ok]
  if st ≠ .ok then (st, d) else (.ok, d.setRel k { old with next := some l })

def Dev.relInvalidate (d : Dev) (r : Req) (c : Nat) : Status × Dev :=
  let k := d.relSel r c
  let old := d.relOf k
  if old.valid && d.relForeign r c (old.engine c) then (.denied, d)
  else (.ok, d.setRel k { old.clear with next := none })

def Dev.relRead (d : Dev) (r : Req) (c : Nat) : Status × Dev :=
  let x := d.relOf (d.relSel r c)
  (.ok, ([x.w0, x.w1, x.w2, x.w3, x.w4].mapIdx (fun i w => (i, w))).foldl (fun d p => d.wrOwn (reqId r) CLU_REL_Wk_word p.2 p.1 c) d)

def Dev.cluWrite (d : Dev) (r : Req) (c off v : Nat) : Status × Dev :=
  match off with
  | 0x044 =>
    (match v % 4 with
     | 0 => (.ok, d)
     | 1 => d.relCommit r c
     | 2 => d.relInvalidate r c
     | _ => d.relRead r c)
  | 0x080 => d.plainWrite (pgCLU c) off v
  | _ => d.ownWrite (reqId r) (pgCLU c) off v

/-- The computed registers of a cluster page; the second value is what a read of CLU_REL_NEXT_LO latches. -/
def Dev.cluView (d : Dev) (r : Req) (c off : Nat) : Option (Nat × Option Nat) :=
  let x := d.relOf (d.relSel r c)
  match off with
  | 0x068 => some (b2n x.run.isSome * 2 ^ 31 + x.ovr * 2 ^ 16, none)
  | 0x06C => some (x.target % 2 ^ 32, some (x.target / 2 ^ 32))
  | _ => none

end Sys2Proof.Machine
end

