-- ==== Sys2Proof/Machine/Rope.lean ====
section
/-! DEFINITION. The rope: slots, forwarded events, the time and orbits of members, flits between leader and member (R469 to
R480). -/

namespace Sys2Proof.Machine

open Sys2Proof

def pgROP : Nat := 0x085
def pgISD : Nat := 0x084

/-- The rope lines are active; the device leads, or is a member. -/
def Dev.ropeOn (d : Dev) : Bool := d.flag ROP_CFG_en && d.inReset.get pgROP 0 == 0 && !d.bivouac
def Dev.ropeLeader (d : Dev) : Bool := d.ropeOn && d.ropePos == 0
def Dev.ropeMember (d : Dev) : Bool := d.ropeOn && d.ropePos != 0
def Dev.following (d : Dev) : Bool := d.flag ROP_STAT_following

def Dev.setRop (d : Dev) (x : Rop) : Dev := { d with rop := x }

/-- A record of ROP: p0 names the lane (R505). -/
def Dev.ropeRec (d : Dev) (lane code sev p2 : Nat) : Dev := d.rated pgROP code lane sev (0x10 + lane) p2

/-- The lane this device sends on. -/
def Dev.ropeLane (d : Dev) : Nat := d.ropePos

/-! ### Flits as bytes (R482) -/

def flitBody (f : Flit) : List Byte :=
  leBytes (f.kind % 16 + f.vc % 4 * 16 + b2n f.first * 64 + b2n f.last * 128) 1 ++
    leBytes (f.dstPos % 4 + f.srcPos % 4 * 4 + b2n f.resent * 16) 1 ++ leBytes f.lseq 2 ++ leBytes f.ack 2 ++ leBytes f.credits 2 ++
    leBytes f.dst 2 ++ leBytes f.src 2 ++ leBytes (f.queue % 16384) 2 ++ leBytes f.hops 1 ++ leBytes 0 1 ++
    leBytes f.payload.length 2 ++ leBytes 0 2 ++ padTo 232 f.payload
def flitBytes (f : Flit) : List Byte := flitBody f ++ leBytes (crc32c (flitBody f)).toNat 4
def parseFlit (b : List Byte) : Flit :=
  let k := leAt b 0 1
  let p := leAt b 1 1
  { kind := k % 16, vc := bitsOf k 5 4, first := k.testBit 6, last := k.testBit 7, dstPos := bitsOf p 1 0, srcPos := bitsOf p 3 2
    resent := p.testBit 4, lseq := leAt b 2 2, ack := leAt b 4 2, credits := leAt b 6 2, dst := leAt b 8 2, src := leAt b 10 2
    queue := bitsOf (leAt b 12 2) 13 0, hops := leAt b 14 1, payload := slice b 0x14 (min 232 (leAt b 16 2))
    crcOk := leAt b 0xFC 4 == (crc32c (b.take 0xFC)).toNat }

/-! ### Sending slots (R471, R472) -/

/-- The place of a slot type in the order of R472. -/
def slotRank (t : Nat) : Nat := match t with | 1 => 0 | 5 => 1 | 4 => 2 | 6 => 3 | 7 => 3 | 3 => 4 | 2 => 5 | _ => 6
def slotType (s : Nat) : Nat := bitsOf s 39 36
def mkSlot (t v : Nat) : Nat := t * 2 ^ 36 + v % 2 ^ 36

/-- Puts a slot behind those that go before it. -/
def insertSlot (s : Nat) : List Nat → List Nat
  | [] => [s]
  | x :: xs => if slotRank (slotType s) < slotRank (slotType x) then s :: x :: xs else x :: insertSlot s xs

def Dev.ropeWait (d : Dev) (t v : Nat) : Dev :=
  d.setRop { d.rop with slots := d.rop.slots.set d.ropeLane (insertSlot (mkSlot t v) (d.rop.slots.get d.ropeLane [])) [] }

/-- Credits for flits of channel `vc` to the partner: member `p`, or the leader (`p` = 0). Each end starts with eight. -/
def Dev.ropeCredit (d : Dev) (p vc : Nat) : Nat := d.rop.credit.get (4 * p + vc) 8
def Dev.addRopeCredit (d : Dev) (p vc : Nat) (n : Int) : Dev :=
  d.setRop { d.rop with credit := d.rop.credit.set (4 * p + vc) (max 0 ((d.ropeCredit p vc : Int) + n)).toNat 8 }

/-- A flit waits for member `p` or the leader (0). -/
def Dev.ropeFlit (d : Dev) (p : Nat) (f : Flit) : Dev :=
  d.setRop { d.rop with flits := d.rop.flits.set p (d.rop.flits.get p [] ++ [f]) [] }

/-- The first waiting flit of a partner whose channel has credit, with the flits that stay. -/
def Dev.ropeNext (d : Dev) (p : Nat) : Option (Flit × List Flit) :=
  let l := d.rop.flits.get p []
  match l.findIdx? (fun f => decide (0 < d.ropeCredit p f.vc)) with
  | some i => l[i]?.map (fun f => (f, l.eraseIdx i))
  | none => none

/-- Begins the next flit as 64 DATA slots when none is under way: partners in ascending position. -/
def Dev.ropeBegin (d : Dev) : Dev :=
  if (d.rop.slots.get d.ropeLane []).any (fun s => slotType s == 2) then d
  else
    match [0, 1, 2, 3].findSome? (fun p => (d.ropeNext p).map (fun r => (p, r))) with
    | none => d
    | some (p, f, rest) =>
      let d := (d.setRop { d.rop with flits := d.rop.flits.set p rest [] }).addRopeCredit p f.vc (-1)
      let b := flitBytes f
      (List.range 64).foldl (fun d i =>
        d.ropeWait 2 (f.vc % 4 * 2 ^ 34 + (if i = 0 then 2 ^ 33 else 0) + leAt b (4 * i) 4)) d

/-- Buffer space given back by CREDIT slots of at most 15. -/
def Dev.ropeReturn (d : Dev) : Dev :=
  d.rop.ret.foldl (fun d e =>
    let n := min 15 e.2
    (d.ropeWait 3 (e.1 % 4 * 2 ^ 34 + n * 2 ^ 30)).setRop
      { (d.ropeWait 3 (e.1 % 4 * 2 ^ 34 + n * 2 ^ 30)).rop with ret := d.rop.ret.set e.1 (e.2 - n) 0 }) d

/-! ### A member's forwarded events (R478) -/

def Dev.fwdDrop (d : Dev) (src : Nat) : Dev := (d.bump ROP_LATE_dropped).ropeRec d.ropePos 0x1023 4 src

/-- The changes of this tick whose source is forwarded, in source order. -/
def Dev.forwardEvents (d : Dev) : Dev :=
  let v := (d.evm.rise ||| d.evm.fall).toNat
  (setBitsOf v 1024).foldl (fun d s =>
    if !(d.rd ROP_FWDk_bits (s / 32)).testBit (s % 32) then d
    else if 256 ≤ d.rop.fwd.length then d.fwdDrop s
    else d.setRop { d.rop with fwd := d.rop.fwd ++ [(d.ticks, s, d.evm.rise.getLsbD s)] }) d

/-- Events whose age would exceed 63 ticks are dropped. -/
def Dev.fwdAge (d : Dev) : Dev :=
  let old := d.rop.fwd.filter (fun e => decide (63 < d.ticks - e.1))
  old.foldl (fun d e => d.fwdDrop e.2.1) (d.setRop { d.rop with fwd := d.rop.fwd.filter (fun e => decide (d.ticks - e.1 ≤ 63)) })

/-- One entry of an EVENT slot. -/
def eventEntry (now : Nat) (e : Option (Nat × Nat × Bool)) : Nat :=
  match e with
  | some (t, s, l) => 2 ^ 17 + b2n l * 2 ^ 16 + (now - t) * 2 ^ 10 + s
  | none => 0

/-- The EVENT slot of this tick: the two oldest events. -/
def Dev.eventSlot (d : Dev) : Dev :=
  let d := d.fwdAge
  if d.rop.fwd.isEmpty then d
  else
    let v := eventEntry d.ticks d.rop.fwd[0]? * 2 ^ 18 + eventEntry d.ticks d.rop.fwd[1]?
    (d.setRop { d.rop with fwd := d.rop.fwd.drop 2 }).ropeWait 1 v

/-! ### What a leader tells (R474, R475, R477) -/

/-- Parts 0 and 1 of a 64-bit value under a slot type. -/
def Dev.twoParts (d : Dev) (t v : Nat) : Dev := (d.ropeWait t (v % 2 ^ 32)).ropeWait t (2 ^ 32 + v / 2 ^ 32 % 2 ^ 32)

/-- The slots of one orbit: an update fixed at this tick, a cycle start, and the high cycle bits. `was`: the tracker before this
tick. -/
def Dev.orbitSlots (d : Dev) (n : Nat) (was : Orb) : Dev :=
  let o := d.orbit n
  let part (d : Dev) (k v : Nat) : Dev := d.ropeWait 6 (n * 2 ^ 34 + k * 2 ^ 32 + v % 2 ^ 32)
  let d := match o.news with
    | some (t, f, c) => part (part d 0 (unsigned 32 f)) 1 (t / 50 % 256 * 2 ^ 24 + unsigned 24 c)
    | none => d
  let start := decide (was.cyc < o.cyc)
  let d := if start then part (part d 2 o.cyc) 3 (o.vis % orbCycle) else d
  if d.tickTai % 1000000000 = 0 ∨ (start ∧ o.cyc % 2 ^ 32 = 0) then d.ropeWait 7 (n * 2 ^ 34 + o.cyc / 2 ^ 32 % 65536) else d

/-- The leader's news of a tick: `stepped` says that its counter was stepped or set at the tick before. -/
def Dev.leaderSlots (d : Dev) (was : Tbl Orb) (stepped : Bool) : Dev :=
  let d := if stepped then d.twoParts 5 d.tickTai else d
  let d := if d.tickTai % 1000000000 = 0 then d.twoParts 4 (d.tickTai + 1000000000) else d
  [0, 1, 2, 3].foldl (fun d n => if d.orbState n = 0 then d else d.orbitSlots n (was.get n orb0)) d

/-- The TAI values of members' ticks: until a member has both STEP parts, at the second tick after a forward step by `skip` ns, its ticks
lack the span (R475). -/
def Dev.memberTais (d : Dev) (skip : Nat) : Dev :=
  let lag := (if skip = 0 then [] else [(skip, 2)]) ++ (d.rop.lag.map (fun l => (l.1, l.2 - 1))).filter (fun l => l.2 != 0)
  d.setRop { d.rop with lag := lag, tais := ((d.tickTai - lag.foldl (fun n l => n + l.1) 0) :: d.rop.tais).take 64 }

/-- The rope's part of a tick: each sender emits one slot on its lane. `skip` is the span that the tick before skipped. -/
def Dev.ropeTick (d : Dev) (was : Tbl Orb) (stepped : Bool) (skip : Nat := 0) : Dev :=
  if !d.ropeOn then d
  else
    let d := d.memberTais skip
    let d := if d.ropePos = 0 then d.leaderSlots was stepped else (d.forwardEvents).eventSlot
    let d := (d.ropeReturn).ropeBegin
    match d.rop.slots.get d.ropeLane [] with
    | [] => d.emit (.ropeSlot d.ropeLane 0)
    | s :: rest => (d.setRop { d.rop with slots := d.rop.slots.set d.ropeLane rest [] }).emit (.ropeSlot d.ropeLane s)

/-! ### Receiving slots (R471, R472, R480) -/

/-- A slot with a code error or of a reserved type (R472). -/
def Dev.slotError (d : Dev) (lane t : Nat) : Dev := (d.bump ROP_STAT_slot_err).ropeRec lane 0x1020 3 t

/-- A valid slot on a lane: on the leader it shows that the member is present. -/
def Dev.laneSeen (d : Dev) (lane : Nat) : Dev :=
  if !d.ropeLeader ∨ lane = 0 then d
  else
    let m := d.rd ROP_STAT_members
    let back := !m.testBit lane && d.rop.seen.get lane 0 != 0
    let d := (d.setRop { d.rop with seen := d.rop.seen.set lane (d.ticks + 1) 0 }).wr ROP_STAT_members (setBits m lane lane 1)
    if back then d.raise 996 (0x80 + lane) 1 else d

/-- The device receives this lane. -/
def Dev.hearsLane (d : Dev) (lane : Nat) : Bool := (d.ropeLeader && lane != 0) || (d.ropeMember && lane == 0)

/-- A slot on a lane: the row of type `t` acts on it if it is of that type; a slot that is in error is discarded in any row. -/
def Dev.ropeSlot (d : Dev) (t lane : Nat) (bits : Nat) (codeOk : Bool) (f : Dev → Nat → Dev) : Dev :=
  let ty := slotType bits
  if !d.hearsLane lane then d
  else if !codeOk || decide (8 ≤ ty) then d.slotError lane ty
  else if ty ≠ t then d
  else f (d.laneSeen lane) (bits % 2 ^ 36)

/-- ROPE_MEMBER_LOSS: no slot for 16 ticks. -/
def Dev.ropeMemberLoss (d : Dev) (lane : Nat) : Dev :=
  if d.ropeLeader && (d.rd ROP_STAT_members).testBit lane && decide (d.rop.seen.get lane 0 + 15 ≤ d.ticks) then
    (d.wr ROP_STAT_members (setBits (d.rd ROP_STAT_members) lane lane 0)).raise 996 lane 1
  else d

/-! ### EVENT slots at the leader (R479) -/

/-- Selectors of a forwarded event: pos_match compares with the member's position (R70, R71). -/
def Dev.fwdSelectors (d : Dev) (p s : Nat) (l : Bool) : Dev :=
  (d.evm.csel.filter (fun e =>
    let w := e.2.toNat
    w.testBit 31 && bitsOf w 9 0 == s && ((w.testBit 29 && l) || (w.testBit 30 && !l)) &&
      (!w.testBit 28 || bitsOf w 27 26 == p))).foldl (fun d e => d.setPending (e.1 / 32) (e.1 % 32)) d

/-- One entry: recorded with the TAI value of its sampling tick, `age` ticks before the leader's last tick (log entry 305), and handed to
the selectors. EVR marks it late if its tick has closed (R412). -/
def Dev.fwdEntry (d : Dev) (p v : Nat) : Dev :=
  if !v.testBit 17 then d
  else
    let s := bitsOf v 9 0
    let age := bitsOf v 15 10
    let l := v.testBit 16
    let r := { (d.mkRec s (d.srcSev s) 0 0x7F ⟨0, 1, 0⟩ p) with
      time := d.rop.tais.getD age (d.tickTai - 50 * age) }
    let d := (d.capture r).fwdSelectors p s l
    if 2 < age then (d.bump ROP_LATE_late).raise 998 p 1 else d

def Dev.ropeEvent (d : Dev) (lane : Nat) (bits : Nat) (ok : Bool) : Dev :=
  d.ropeSlot 1 lane bits ok (fun d v => if lane = 0 then d else (d.fwdEntry lane (v / 2 ^ 18)).fwdEntry lane (v % 2 ^ 18))

/-- A CREDIT slot: buffer space at the partner. A member hears the leader's slots for every member and takes each as its own, for
the slot names none (log entry 93); more than eight is never held. -/
def Dev.ropeCreditSlot (d : Dev) (lane : Nat) (bits : Nat) (ok : Bool) : Dev :=
  d.ropeSlot 3 lane bits ok (fun d v =>
    let vc := bitsOf v 35 34
    d.addRopeCredit lane vc (min (bitsOf v 33 30) (8 - d.ropeCredit lane vc) : Nat))

/-- An IDLE slot. -/
def Dev.ropeIdle (d : Dev) (lane : Nat) (bits : Nat) (ok : Bool) : Dev := d.ropeSlot 0 lane bits ok (fun d _ => d)

/-- A DATA slot: `first` begins a flit; the 64th completes it. -/
def Dev.ropeData (d : Dev) (lane v : Nat) : Option Flit × Dev :=
  let have_ := if v.testBit 33 then [] else d.rop.parts.get lane []
  if !v.testBit 33 ∧ have_.isEmpty then (none, d)
  else
    let b := have_ ++ leBytes (v % 2 ^ 32) 4
    if b.length < 256 then (none, d.setRop { d.rop with parts := d.rop.parts.set lane b [] })
    else
      let d := d.setRop { d.rop with parts := d.rop.parts.set lane [] [] }
      (some (parseFlit b), d)

/-- A flit taken from the buffer of a lane: its space goes back to the sender. -/
def Dev.ropeFreed (d : Dev) (lane vc : Nat) : Dev :=
  d.setRop { d.rop with ret := d.rop.ret.set (4 * lane + vc) (d.rop.ret.get (4 * lane + vc) 0 + 1) 0 }

/-! ### A member's time (R473 to R476) -/

/-- The counter's value at the coming edge becomes `v`: a step forward with EV0644, or back under the grid rule of R46: a member that
follows then passes over the edges up to its last tick's value. -/
def Dev.adoptNext (d : Dev) (v : Nat) : Dev :=
  let own := d.tim.nextTick - 50 * d.rop.hold
  if own = v then d
  else
    let next := max v (d.tim.lastTick + 50)
    let d := d.setRop { d.rop with hold := if d.following then (next - v) / 50 else 0 }
    { d with tim := { d.tim with
        nextTick := next
        stepped := true
        tai := d.tim.tai + v * 2 ^ 32 - own * 2 ^ 32
        stepEvent := if own < v then some (d.tim.stepEvent.getD 0 + (v - own)) else d.tim.stepEvent } }

/-- An edge that a member set back passes over: its counter runs on without a tick (R46, R474). -/
def Dev.heldEdge (d : Dev) (elapsed : Nat) : Dev :=
  ({ d with
    cclk := d.cclk + max 1 elapsed
    tim := { d.tim with tai := d.tim.tai + 50 * 2 ^ 32 } }).setRop { d.rop with hold := d.rop.hold - 1, edgeAt := d.cclk + max 1 elapsed }

/-- TIME parts of the coming second. -/
def Dev.ropeTimeSlot (d : Dev) (lane : Nat) (bits : Nat) (ok : Bool) : Dev :=
  d.ropeSlot 4 lane bits ok (fun d v =>
    if 2 ≤ bitsOf v 33 32 then d else d.setRop { d.rop with time := d.rop.time.put (bitsOf v 33 32) (v % 2 ^ 32) })

/-- STEP parts: the tick of the first part carries the value, so the member's next tick carries 50 ns more for each tick since. -/
def Dev.ropeStepSlot (d : Dev) (lane : Nat) (bits : Nat) (ok : Bool) : Dev :=
  d.ropeSlot 5 lane bits ok (fun d v =>
    let k := bitsOf v 33 32
    if 2 ≤ k then d
    else
      let s := if d.rop.step.isEmpty then d.rop.step.put 2 d.ticks else d.rop.step
      let s := s.put k (v % 2 ^ 32)
      if s.length < 3 then d.setRop { d.rop with step := s }
      else
        let d := d.setRop { d.rop with step := [] }
        let at_ := s.get 0 0 + s.get 1 0 * 2 ^ 32
        d.adoptNext (at_ + 50 * (d.ticks + 1 - s.get 2 0)))

/-- The leader's TIME value for this second mark. -/
def Dev.ropeTimeValue (d : Dev) : Option Nat :=
  if d.rop.time.length = 2 then some (d.rop.time.get 0 0 + d.rop.time.get 1 0 * 2 ^ 32) else none

/-- The second mark: the member's own value against the leader's. -/
def Dev.ropeMark (d : Dev) (own : Nat) : Dev :=
  match d.ropeTimeValue with
  | none => d.setRop { d.rop with markAt := d.cclk, time := [], agreeFrom := none }
  | some v =>
    let d := d.setRop { d.rop with markAt := d.cclk, time := [] }
    if own = v then d
    else if d.following ∨ own + 50 ≤ v ∨ v + 50 ≤ own then
      let diff := (own : Int) - v
      let d := d.ropeRec 0 0x1021 4 diff.natAbs
      (d.setRop { d.rop with agreeFrom := none }).adoptNext (v + 50)
    else { d with tim := { d.tim with rem := ((v : Int) - own) * 2 ^ 32 } }

/-- Following ends (R476). -/
def Dev.ropeUnfollow (d : Dev) : Dev :=
  if !d.following then d
  else
    let d := d.setRop { d.rop with agreeFrom := none, time := [], step := [], hold := 0 }
    ((d.wr ROP_STAT_following 0).enterHoldover).raise 997 1 1

/-- ROPE_TICK_LOSS: no edge for 200 ns. -/
def Dev.ropeTickLoss (d : Dev) : Dev := if d.ropeMember && d.following then d.ropeUnfollow else d

/-- ROPE_REJOIN: edges and TIME parts have agreed for 1 s and the offset is within 1 ns. -/
def Dev.ropeRejoin (d : Dev) : Dev :=
  let due := match d.rop.agreeFrom with | some t => decide (t + cclkPerS ≤ d.cclk) | none => false
  if d.ropeMember && !d.following && due && decide (d.tim.rem.natAbs ≤ 2 ^ 32) then
    let d := if d.rd TIM_STATE_state = 2 then d else d.raise 640
    let behind := (d.tim.nextTick * 2 ^ 32 - d.tim.tai - 1) / (50 * 2 ^ 32)
    ((((d.setRop { d.rop with hold := behind }).wr ROP_STAT_following 1).wr TIM_STATE_state 2).wr TIM_STATE_ever_locked 1).wr
      TIM_STATE_hold_elapsed 0 |>.raise 997 0 1
  else d

/-- An edge while the member does not follow: it counts towards agreement. `mark`: it is a second mark. -/
def Dev.ropeEdgeApart (d : Dev) (off : Nat) (mark : Bool) : Dev :=
  let d := if mark then d.ropeMark (d.counterAt off / 2 ^ 32) else d
  d.setRop { d.rop with edgeAt := d.cclk + off, agreeFrom := some (d.rop.agreeFrom.getD d.cclk) }

/-! ### A member's orbits (R477) -/

/-- The orbit follows the leader's. -/
def Dev.orbFollows (d : Dev) (n : Nat) : Bool := d.ropeMember && d.rd ORBn_SRC_kind n == 2 && d.orbState n != 0

/-- The update named for tick number `tag` (TAI / 50 modulo 256) takes effect now or is overdue. -/
def updateDue (now tag : Nat) : Bool := decide ((now + 256 - tag) % 256 < 128)

/-- Corrections of updates that take effect at the coming tick `t`, before the orbits advance. -/
def Dev.ropeOrbBefore (d : Dev) (t : Nat) : Dev :=
  d.rop.updates.foldl (fun d u =>
    if updateDue (t / 50 % 256) u.2.1 then
      let o := d.orbit u.1
      d.setOrbit u.1 { o with pos := o.pos + u.2.2.2, c := u.2.2.2 }
    else d) d

/-- Their frequencies, after the orbits have advanced. -/
def Dev.ropeOrbAfter (d : Dev) (t : Nat) : Dev :=
  let d := d.rop.updates.foldl (fun d u =>
    if updateDue (t / 50 % 256) u.2.1 then d.setOrbit u.1 { d.orbit u.1 with f := (u.2.2.1 : Int) } else d) d
  d.setRop { d.rop with updates := d.rop.updates.filter (fun u => !updateDue (t / 50 % 256) u.2.1) }

/-- The member takes the leader's position, which differs by `by_` from its own. What the member shows never goes back (R53). -/
def Dev.adoptOrbit (d : Dev) (n : Nat) (by_ : Int) : Dev :=
  let o := d.orbit n
  let pos := o.pos + by_
  (d.setOrbit n { o with pos := pos, vis := max o.vis pos.toNat, trail := o.trail.map (fun v : Nat => ((v : Int) + by_).toNat) }).ropeRec 0 0x1022 4 n

/-- Bits [47:32] of the cycle count in use: zero until the first ORBIT_HI. -/
def Dev.orbHigh (d : Dev) (n : Nat) : Nat :=
  if d.rop.hiSeen.contains n then ((d.orbit n).trail.headD 0) / orbCycle / 2 ^ 32 % 65536 else 0

def Dev.orbPart (d : Dev) (n k v : Nat) : Dev := d.setRop { d.rop with orbit := d.rop.orbit.put (8 * n + k) v }

/-- ORBIT parts 0 to 3. Parts 2 and 3 tell the leader's position at a cycle start. They name no tick: the member that had this position
at one of its last 64 ticks agrees; else the leader had it at the tick whose slot brought part 2 (log entry 476). -/
def Dev.ropeOrbitSlot (d : Dev) (lane : Nat) (bits : Nat) (ok : Bool) : Dev :=
  d.ropeSlot 6 lane bits ok (fun d v =>
    let n := bitsOf v 35 34
    let w := v % 2 ^ 32
    if !d.orbFollows n then d
    else match bitsOf v 33 32 with
      | 0 => d.orbPart n 0 w
      | 1 => d.setRop { d.rop with updates := d.rop.updates ++ [(n, w / 2 ^ 24, d.rop.orbit.get (8 * n) 0, signed 24 w)] }
      | 2 => (d.orbPart n 2 w).orbPart n 4 d.ticks
      | _ =>
        let lead := (d.orbHigh n * 2 ^ 32 + d.rop.orbit.get (8 * n + 2) 0) * orbCycle + w
        let trail := (d.orbit n).trail
        if trail.contains lead then d
        else d.adoptOrbit n ((lead : Int) - trail.getD (d.ticks - d.rop.orbit.get (8 * n + 4) 0) 0))

/-- ORBIT_HI: on a difference the leader's full cycle count. -/
def Dev.ropeOrbitHi (d : Dev) (lane : Nat) (bits : Nat) (ok : Bool) : Dev :=
  d.ropeSlot 7 lane bits ok (fun d v =>
    let n := bitsOf v 35 34
    let hi := v % 65536
    if !d.orbFollows n then d
    else
      let cyc := ((d.orbit n).trail.headD 0) / orbCycle
      let d' := d.setRop { d.rop with hiSeen := if d.rop.hiSeen.contains n then d.rop.hiSeen else n :: d.rop.hiSeen }
      if cyc / 2 ^ 32 % 65536 = hi then d'
      else d'.adoptOrbit n (((hi : Int) - (cyc / 2 ^ 32 % 65536 : Nat)) * 2 ^ 32 * orbCycle))

/-- A soft reset or disable of ROP drops what the lines carry. -/
def Dev.ropeDrop (d : Dev) : Dev := ((d.ropeUnfollow).setRop {}).wr ROP_STAT_members 0

end Sys2Proof.Machine
end

