-- ==== Sys2Proof/Machine/Isdin.lean ====
section
/-! DEFINITION. The Isdin fabric: links, discovery, routes, forwarding, queue items (R481 to R506), and the flits of rope members
(R480). -/

namespace Sys2Proof.Machine

open Sys2Proof

/-! ### State access -/

def Dev.setIsd (d : Dev) (x : Isd) : Dev := { d with isd := x }
def Dev.link (d : Dev) (p : Nat) : IsdLink := d.isd.links.get p {}
def Dev.setLink (d : Dev) (p : Nat) (l : IsdLink) : Dev := d.setIsd { d.isd with links := d.isd.links.set p l {} }
def Dev.linkState (d : Dev) (p : Nat) : Nat := d.rd ISD_LINKp_state p
def Dev.linkUpNow (d : Dev) (p : Nat) : Bool := decide (3 ≤ d.linkState p)

/-- A record of ISD: p0 the port group. -/
def Dev.isdRec (d : Dev) (p code sev p2 : Nat) : Dev := d.rated pgISD code p sev p p2

/-- Statistics by port: 0 flits sent, 1 received, 2 CRC errors, 3 link failures, 4 stale stream items, 5 incomplete items, 6 VC1
drops, 7 items delivered. -/
def Dev.isdStat (d : Dev) (p i : Nat) : Dev :=
  d.setIsd { d.isd with stat := d.isd.stat.set (8 * p + i) (satAdd (2 ^ 64 - 1) (d.isd.stat.get (8 * p + i) 0) 1) 0 }

/-- The massif side of a port group: 1 for a col's port in massif2 (R497). -/
def Dev.isdSide (d : Dev) (p : Nat) : Nat := b2n (d.flag ISD_COL_en && (d.rd ISD_COL_ports).testBit p)
def Dev.isdMassif (d : Dev) (s : Nat) : Nat := if s = 1 then d.rd ISD_COL_massif2 else d.rd ISD_CFG_massif
def Dev.isdAddr (d : Dev) (s : Nat) : Nat := if s = 1 then d.isd.addr2 else d.rd ISD_ADDR_addr

/-- Port groups with an UP link on a side. -/
def Dev.upPorts (d : Dev) (s : Nat) : List Nat := (List.range 8).filter (fun p => d.linkUpNow p && d.isdSide p == s)

def nodeOf (addr : Nat) : Nat := bitsOf addr 11 6
def massifOf (addr : Nat) : Nat := bitsOf addr 15 12

def getN (l : List Nat) (i : Nat) : Nat := l.getD i 0

/-! ### Sending (R482 to R487) -/

/-- The credits that the next flit returns: at most 15 a channel; none on VC2 while a record item waits for its queue (R486). -/
def Dev.creditsDue (d : Dev) (p : Nat) : List Nat :=
  let hold := d.isd.deferred.any (fun x => x.port == p)
  (List.range 4).map (fun v => if v = 2 ∧ hold then 0 else min 15 (getN (d.link p).owed v))

/-- Sends a flit with ack and credits. -/
def Dev.isdEmit (d : Dev) (p : Nat) (f : Flit) : Dev :=
  let l := d.link p
  let c := d.creditsDue p
  let l := { l with
    owed := (List.range 4).map (fun v => getN l.owed v - getN c v)
    peer := (List.range 4).map (fun v => getN l.peer v + getN c v) }
  let f := { f with ack := l.rx, credits := (List.range 4).foldl (fun s v => s + getN c v * 16 ^ v) 0, crcOk := true }
  ((d.setLink p l).isdStat p 0).emit (.flit p f)

/-- A flit with nothing in it. -/
def flit0 : Flit :=
  { kind := 0, vc := 0, first := false, last := false, dstPos := 0, srcPos := 0, resent := false, lseq := 0, ack := 0, credits := 0
    dst := 0, src := 0, queue := 0, hops := 0, payload := [], crcOk := true }

/-- The link may send on a channel. -/
def Dev.vcOpen (d : Dev) (p v : Nat) : Bool := d.linkState p == 4 || (d.linkState p == 3 && v == 3)

/-- The place of the first waiting flit of a channel that has credit. -/
def Dev.readyOn (d : Dev) (p v : Nat) : Option Nat :=
  let l := d.link p
  if d.vcOpen p v && decide (0 < getN l.credit v) then l.waiting.findIdx? (fun w => w.1.vc == v) else none

/-- The flit to send next (R487): 15 flit times are 15 flits sent, or 307.2 ns (246 CCLK) of a transmitter that had less to send. -/
def Dev.nextFlit (d : Dev) (p : Nat) : Option Nat :=
  let order := if 15 ≤ (d.link p).sinceVc3 ∨ (d.link p).vc3At + 246 ≤ d.cclk then [0, 3, 1, 3, 2] else [0, 1, 3, 2]
  if 64 ≤ (d.link p).held.length then none else order.findSome? (d.readyOn p)

/-- A local item still stands (R170): a cancelled one is sent no further. -/
def Dev.itemLive (d : Dev) (item : Nat) : Bool := (d.q (item / 65536)).ents.any (fun e => e.seq == item % 65536 && !e.done)

/-- Flits of cancelled items that have not been sent are given up. -/
def Dev.isdPrune (d : Dev) (p : Nat) : Dev :=
  let l := d.link p
  let live := l.waiting.filter (fun w => w.2.all (fun i => d.itemLive i))
  if live.length = l.waiting.length then d else d.setLink p { l with waiting := live }

/-- Sends what may go. -/
def Dev.isdPump (d : Dev) (p : Nat) : Nat → Dev
  | 0 => d
  | k + 1 =>
    match d.nextFlit p with
    | none => d
    | some i =>
      let l := d.link p
      match l.waiting[i]? with
      | none => d
      | some (f, item) =>
        let f := { f with lseq := l.tx, resent := false }
        let v := f.vc
        let l := { l with
          tx := (l.tx + 1) % 65536
          waiting := l.waiting.eraseIdx i
          held := l.held ++ [{ f := f, firstAt := d.cclk, lastAt := d.cclk, tries := 1, item := item }]
          credit := l.credit.set v (getN l.credit v - 1)
          sinceVc3 := if v = 3 then 0 else l.sinceVc3 + 1
          vc3At := if v = 3 then d.cclk else l.vc3At }
        ((d.setLink p l).isdEmit p f).isdPump p k

/-- Since when the first stream flit finds no credit. -/
def Dev.vc1Note (d : Dev) (p : Nat) : Dev :=
  let l := d.link p
  let stuck := d.linkUpNow p && l.waiting.any (fun w => w.1.vc == 1) && getN l.credit 1 == 0
  let from_ := if stuck then some (l.vc1From.getD d.cclk) else none
  if from_ = l.vc1From then d else d.setLink p { l with vc1From := from_ }

def Dev.isdSend (d : Dev) (p : Nat) : Dev := ((d.isdPrune p).isdPump p ((d.link p).waiting.length)).vc1Note p

/-- A flit joins those that wait. -/
def Dev.isdQueue (d : Dev) (p : Nat) (f : Flit) (item : Option Nat) : Dev :=
  let l := d.link p
  (d.setLink p { l with waiting := l.waiting ++ [(f, item)] }).isdSend p

/-- An IDLE flit when acknowledgement or credits are due and nothing else carried them. -/
def Dev.isdIdle (d : Dev) (p : Nat) : Dev :=
  if d.linkUpNow p && (d.creditsDue p).any (· != 0) then d.isdEmit p flit0 else d

/-! ### Items of export queues (R498, R503) -/

/-- Frees the items at the head of a queue that are done. -/
def Dev.isdFree (d : Dev) (n : Nat) : Nat → Dev
  | 0 => d
  | k + 1 =>
    let q := d.q n
    match q.ents with
    | e :: _ => if e.done && q.claimed != 0 then (d.freeItems n 1).isdFree n k else d
    | [] => d

/-- The place of an outstanding item in its ring. -/
def Dev.isdFind (d : Dev) (n seq : Nat) : Option Nat := (d.q n).ents.findIdx? (fun e => e.seq == seq && !e.done)

/-- An item ends with a status; its entry goes. -/
def Dev.isdEnd (d : Dev) (n seq st arg : Nat) : Dev :=
  let d := match d.isdFind n seq with
    | some i => d.completeAt n i 0xFE st arg
    | none => d.qStat 1
  (d.setIsd { d.isd with sent := d.isd.sent.filter (fun x => !(x.queue == n && x.seq == seq)) }).isdFree n 65536

/-- Flits of a local item wait or are unacknowledged on some link. -/
def Dev.itemMoving (d : Dev) (item : Nat) : Bool :=
  (List.range 8).any (fun p => (d.link p).held.any (fun h => h.item == some item) || (d.link p).waiting.any (fun w => w.2 == some item))

/-- An item without a reply is done once every flit of it has been acknowledged (log entry 357). -/
def Dev.itemSettled (d : Dev) (item : Nat) : Dev :=
  let n := item / 65536
  match d.isdFind n (item % 65536) with
  | some i => match (d.q n).ents[i]? with
    | some e => if e.reply.isSome || d.itemMoving item then d else (d.completeAt n i 0xFE 0 0).isdFree n 65536
    | none => d
  | none => d

/-- A fragment of a local item was discarded with its link after `attempts` transmissions: with T = 0 it ends now, else at its timeout
(R171, R485, R503). -/
def Dev.itemLost (d : Dev) (attempts item : Nat) : Dev :=
  let n := item / 65536
  let seq := item % 65536
  match d.isdFind n seq with
  | some i => match (d.q n).ents[i]? with
    | some e =>
      if e.tag = 0xFFFF ∨ (d.tag (e.tag % 2048)).tmo = 0 then
        let d := d.exhausted n i 0xFE attempts
        (d.setIsd { d.isd with sent := d.isd.sent.filter (fun x => !(x.queue == n && x.seq == seq)) }).isdFree n 65536
      else d
    | none => d
  | none => d

/-- Held flits are discarded, with the rest of their items. -/
def Dev.isdDiscard (d : Dev) (p : Nat) : Dev :=
  let l := d.link p
  let items := l.held.filterMap (·.item)
  let d := d.setLink p { l with held := [], waiting := l.waiting.filter (fun w => match w.2 with | some i => !items.contains i | none => true) }
  let most := l.held.foldl (fun m h => max m h.tries) 1
  items.eraseDups.foldl (fun d i => d.itemLost most i) d

/-! ### Floods: TOPO and ROUTE (R493, R495) -/

/-- A VC3 flit to every UP link of a side but one. -/
def Dev.flood (d : Dev) (s : Nat) (f : Flit) (but : Option Nat) : Dev :=
  ((d.upPorts s).filter (fun p => some p != but)).foldl (fun d p => d.isdQueue p f none) d

/-- The massif crossings to massif `m` through this col, for the massif of side `s`. -/
def Dev.crossings (d : Dev) (s m : Nat) : Nat :=
  if m = d.isdMassif (1 - s) then 1
  else if m = d.isdMassif s then 0xFF
  else
    let far := d.isd.topo.filter (fun t => t.side == 1 - s && t.col && t.other != d.isdMassif s && t.uid != d.rfg.otp.uid)
    let best := far.foldl (fun b t => min b (getN t.cross m)) 0xFF
    if best = 0xFF then 0xFF else min 0xFF (best + 1)

/-- This node as its TOPO on a side tells it. -/
def Dev.ownTopo (d : Dev) (s : Nat) : Topo :=
  let col := d.flag ISD_COL_en
  { side := s, uid := padTo 16 d.rfg.otp.uid, version := d.isd.version, addr := d.isdAddr s, prio := d.rd ISD_CFG_prio, col := col
    nbr := (List.range 8).map (fun p => if d.linkUpNow p && d.isdSide p == s then padTo 8 (d.link p).uid else zeros 8)
    other := if col then d.isdMassif (1 - s) else 0xFF
    cross := (List.range 16).map (fun m => if col then d.crossings s m else 0xFF) }

def topoBytes (t : Topo) : List Byte :=
  padTo 16 t.uid ++ leBytes t.version 4 ++ leBytes t.addr 2 ++ leBytes t.prio 1 ++ leBytes (b2n t.col) 1 ++
    (t.nbr.map (padTo 8)).flatten ++ leBytes t.other 1 ++ (t.cross.map (fun c => leBytes c 1)).flatten
def parseTopo (s : Nat) (b : List Byte) : Topo :=
  { side := s, uid := slice b 0 16, version := leAt b 0x10 4, addr := leAt b 0x14 2, prio := leAt b 0x16 1
    col := (leAt b 0x17 1).testBit 0, nbr := (List.range 8).map (fun p => slice b (0x18 + 8 * p) 8), other := leAt b 0x58 1
    cross := (List.range 16).map (fun m => leAt b (0x59 + m) 1) }

def Dev.floodOwn (d : Dev) : Dev :=
  let send (d : Dev) (s : Nat) : Dev := d.flood s { flit0 with kind := 4, vc := 3, first := true, last := true, payload := topoBytes (d.ownTopo s) } none
  let d := d.setIsd { d.isd with floodAt := d.cclk }
  let d := send d 0
  if d.flag ISD_COL_en then send d 1 else d

/-- The node's own view changed. -/
def Dev.viewChanged (d : Dev) : Dev :=
  (d.setIsd { d.isd with version := (d.isd.version + 1) % 2 ^ 32, changedAt := d.cclk, stood := false }).floodOwn

/-- Another node's TOPO changed the map. -/
def Dev.mapChanged (d : Dev) (t : Topo) : Dev :=
  d.setIsd { d.isd with
    topo := t :: d.isd.topo.filter (fun x => !(x.uid == t.uid && x.side == t.side))
    changedAt := d.cclk
    stood := false }

/-! ### Links (R485, R491, R492) -/

/-- A link leaves UP: its flits go, and the neighbours learn of it. -/
def Dev.linkLeave (d : Dev) (p st : Nat) : Dev :=
  let up := d.linkUpNow p
  let d := d.isdDiscard p
  let d := d.setLink p { waiting := (d.link p).waiting, tseq := (d.link p).tseq, timeAt := d.cclk, helloAt := d.cclk }
  let d := (d.wr ISD_LINKp_state st p).wr ISD_LINKp_hops 0xFF p
  if up then d.viewChanged else d

/-- The link fails (R485). -/
def Dev.linkFail (d : Dev) (p : Nat) : Dev := ((d.isdStat p 3).raise 990 p 1).linkLeave p 2

/-- ISD_LINK_DOWN. -/
def Dev.isdLinkDown (d : Dev) (p : Nat) : Dev := if d.linkState p = 0 then d else (d.raise 989 p 1).linkLeave p 0

/-- ISD_LINK_ALIGN: a mode 6 port group of an enabled ISD. -/
def Dev.isdAlign (d : Dev) (p : Nat) : Dev :=
  if d.flag STATUS_enabled 0 pgISD && d.portEnabled p && d.portMode p == 6 && decide (d.linkState p ≤ 1) && d.ropePos == 0 then
    let d := (d.setLink p { helloAt := d.cclk, timeAt := d.cclk }).wr ISD_LINKp_state 2 p
    d.wr ISD_LINKp_col_port (d.isdSide p) p
  else d

/-- The attestation digest. -/
def Dev.attestDigest (d : Dev) : List Byte := sha3_256 d.rfg.statement

/-- This end's HELLO. -/
def Dev.helloPayload (d : Dev) (p : Nat) : List Byte :=
  let s := d.isdSide p
  leBytes 0x1501 2 ++ leBytes p 1 ++ leBytes (d.rd ISD_LINKp_col_port p + 2 * b2n (d.isd.summits.get s [] == padTo 16 d.rfg.otp.uid)) 1 ++
    padTo 16 d.rfg.otp.uid ++ d.attestDigest ++ leBytes (d.isdAddr s) 2 ++ leBytes (d.isdMassif s) 1 ++ leBytes (d.rd ISD_CFG_prio) 1 ++
    ([32, 128, 64, 32] : List Byte) ++ leBytes (d.rd ROP_STAT_members) 1 ++ leBytes (b2n (d.link p).got) 1 ++ leBytes 0 2

/-- ISD_HELLO_TIMER: every 100 µs. -/
def Dev.isdHelloTimer (d : Dev) (p : Nat) : Dev :=
  if 2 ≤ d.linkState p ∧ (d.link p).helloAt + 100 * cclkPerUs ≤ d.cclk then
    (d.setLink p { d.link p with helloAt := d.cclk }).isdEmit p
      { flit0 with kind := 2, vc := 3, first := true, last := true, payload := d.helloPayload p }
  else d

/-- A HELLO that cannot be accepted. -/
def Dev.helloBad (d : Dev) (p : Nat) (uid : List Byte) (massif : Bool) : Dev :=
  let d := if massif then d.raise 991 p 1 else d
  let d := d.isdRec p 0x1007 4 (leAt uid 0 4)
  if d.linkUpNow p then d.linkLeave p 2 else d

/-- A HELLO's check and effect (R491, R492). -/
def Dev.helloIn (d : Dev) (p : Nat) (b : List Byte) : Dev :=
  let uid := slice b 4 16
  let l := d.link p
  if b.length ≠ 0x40 ∨ leAt b 0 2 ≠ 0x1501 then (d.raise 991 p 1).isdRec p 0x1007 4 (leAt uid 0 4)
  else if leAt b 0x36 1 ≠ d.isdMassif (d.isdSide p) then d.helloBad p uid true
  else if d.linkUpNow p ∧ l.uid ≠ uid then d.helloBad p uid false
  else
    let addr := leAt b 0x34 2
    let d := d.wr ISD_LINKp_peer_node (nodeOf addr) p
    if d.linkUpNow p then d.setLink p { l with addr := addr }
    else
      let fresh := if l.got ∧ l.uid = uid then l.credit else (List.range 4).map (fun v => leAt b (0x38 + v) 1)
      let d := d.setLink p { l with uid := uid, addr := addr, got := true, credit := fresh }
      if leAt b 0x3D 1 = 1 then
        let st := if d.flag ISD_CFG_admit && !(d.rd ISD_ADMIT_ports).testBit p then 3 else 4
        (((d.wr ISD_LINKp_state st p).raise 988 p 1).viewChanged).isdSend p
      else d

/-- ISD_ADMIT_WRITE: a port whose bit is set opens its data channels; one whose bit is cleared is refused. -/
def Dev.isdAdmit (d : Dev) (v : Nat) : Status × Dev :=
  let was := d.rd ISD_ADMIT_ports
  let d := (d.plainWrite pgISD 0x050 v).2
  (.ok, (List.range 8).foldl (fun d p =>
    if d.flag ISD_CFG_admit && v.testBit p && d.linkState p == 3 then (d.wr ISD_LINKp_state 4 p).isdSend p
    else if d.flag ISD_CFG_admit && was.testBit p && !v.testBit p then
      let d := (d.raise 991 p 1).isdRec p 0x1008 6 (leAt (d.link p).uid 0 4)
      if d.linkState p = 4 then d.wr ISD_LINKp_state 3 p else d
    else d) d)

/-! ### Routing (R496, R497) -/

def Dev.routeCode (d : Dev) (k : Nat) : Nat := d.isd.routes.get k 0xF

/-- Where a flit goes: 0 to 7 a port group, 0xE here, 0xF nowhere. -/
def Dev.isdRoute (d : Dev) (dst : Nat) : Nat :=
  let m := massifOf dst
  let n := nodeOf dst
  let addr := d.isdAddr 0
  if d.flag ISD_COL_en then
    if addr ≠ 0xFFFF ∧ dst = addr ∨ d.isdAddr 1 ≠ 0xFFFF ∧ dst = d.isdAddr 1 then 0xE
    else if m = d.isdMassif 0 then d.routeCode n
    else if m = d.isdMassif 1 then d.routeCode (64 + n)
    else
      let a := d.routeCode (128 + m)
      let b := d.routeCode (144 + m)
      if a ≤ 7 then a else if b ≤ 7 then b else 0xF
  else if m ≠ d.isdMassif 0 then d.routeCode (128 + m)
  else if addr ≠ 0xFFFF ∧ dst = addr then 0xE
  else d.routeCode n

/-! ### Delivery (R499 to R502) -/

/-- An item as DATA flits of at most 232 bytes each. -/
def itemFlits (vc dst dstPos src srcPos queue : Nat) (bytes : List Byte) : List Flit :=
  let cs := chunks 232 bytes
  (cs.zip (List.range cs.length)).map (fun c =>
    { flit0 with kind := 1, vc := vc, first := c.2 == 0, last := c.2 + 1 == cs.length, dstPos := dstPos, srcPos := srcPos, dst := dst
                 src := src, queue := queue, payload := c.1 })

/-- A DATA flit on its way: to a link, to a rope member, or (returned) for delivery here. -/
def Dev.isdForward (d : Dev) (p : Nat) (f : Flit) (item : Option Nat) : Option Flit × Dev :=
  let code := d.isdRoute f.dst
  if code = 0xE then
    if f.dstPos = 0 then (some f, d)
    else if (d.rd ROP_STAT_members).testBit f.dstPos then (none, d.ropeFlit f.dstPos f)
    else (none, d.isdRec (0x10 + f.dstPos) 0x1005 3 f.dst)
  else if code ≤ 7 then (none, d.isdQueue code f item)
  else (none, d.isdRec p 0x1005 3 f.dst)

/-- A node without an address: it uses VC3 only, for HELLO and TOPO (R494; log entry 340). -/
def Dev.unaddressed (d : Dev) : Bool := d.ropePos == 0 && d.isdAddr 0 == 0xFFFF

/-- Sends a whole item from this device; a member's flits go to its leader (R480). Flits for this node itself come back. A node
without an address sends none. -/
def Dev.isdSendItem (d : Dev) (fs : List Flit) (item : Option Nat) : List Flit × Dev :=
  fs.foldl (fun acc f =>
    if acc.2.ropePos ≠ 0 then (acc.1, acc.2.ropeFlit 0 f)
    else if acc.2.unaddressed then (acc.1, acc.2.isdRec 0 0x1005 3 f.dst)
    else
      let r := acc.2.isdForward 0 f item
      match r.1 with
      | some f => (acc.1 ++ [f], r.2)
      | none => (acc.1, r.2)) ([], d)

/-- A completion for the origin of a fabric item. -/
def completionItem (seq tag time st arg : Nat) : List Byte :=
  mkHdr 8 seq tag 0 0xFE time ++ leBytes st 1 ++ leBytes 0 3 ++ leBytes arg 4

/-- The address and position this device sends from; a member's leader puts the rope's address in (R480; log entry 340). -/
def Dev.isdFrom (d : Dev) : Nat × Nat := (if d.ropePos = 0 then d.isdAddr 0 else 0, d.ropePos)

/-- Returns a completion to an origin (R502). A completion for this node is not looped back: the spec has no item whose origin and
destination are one device. -/
def Dev.isdReturn (d : Dev) (o : IsdOrigin) (st arg : Nat) : Dev :=
  (d.isdSendItem (itemFlits o.vc o.src o.pos d.isdFrom.1 d.isdFrom.2 o.queue (completionItem o.seq o.oldTag d.tickTai st arg)) none).2

/-- The item is unusable here: counted in full_drop (R156), ST_DENIED to a reply_en origin. -/
def Dev.isdUnusable (d : Dev) (x : IsdPart) (h : Hdr) (cmd : Bool) : Dev :=
  let d := (d.isdRec x.port 0x100A 3 x.queue).fullDrop x.queue
  if cmd && h.replyEn then
    d.isdReturn { tag := 0, src := x.src, pos := x.pos, queue := h.replyQ, seq := h.seq, oldTag := h.tag, vc := x.vc } Status.denied.code 0
  else d

/-- A reply_en command item: it takes a tag of ISD's range, its reply goes to ISD_CFG2.ret_q (R502). -/
def Dev.isdCommand (d : Dev) (x : IsdPart) (h : Hdr) : Dev :=
  let o : IsdOrigin := { tag := 0, src := x.src, pos := x.pos, queue := h.replyQ, seq := h.seq, oldTag := h.tag, vc := x.vc }
  let rq := d.rd ISD_CFG2_ret_q
  match d.lowestFreeTag 1920 128 with
  | none => d.isdReturn o Status.full.code 0
  | some i =>
    if (d.q x.queue).credit = 0 then (d.hwEnqueue x.queue 0xFE h.time [] (some (h.seq, 0xFFFF))).2
    else if !(d.q rq).valid ∨ (d.q rq).credit = 0 then d.isdReturn o Status.full.code 0
    else
      let t := d.tag i
      let tag := t.gen * 2048 + i
      let d := d.setTag i { t with used := true, tmo := 0 }
      let d := d.setQ rq { d.q rq with reserved := (d.q rq).reserved + 1 }
      let room := (d.q x.queue).slot - 16
      let pl := (overlay (x.bytes.drop 16) 0 (leBytes (0x8000 + rq) 2)).take room
      let flags := if room < x.bytes.length - 16 then setBits h.flags 1 1 1 else h.flags
      let d := d.setIsd { d.isd with origins := { o with tag := tag } :: d.isd.origins }
      d.admitItem x.queue (mkHdr pl.length h.seq tag flags 0xFE h.time ++ pl) { seq := h.seq, tag := tag, reply := some rq }

/-- A stream item whose time is not newer than the last of its source (R500). -/
def Dev.streamStale (d : Dev) (x : IsdPart) (time : Nat) : Bool :=
  match d.isd.streams.find? (fun e => e.1 == (x.src, x.pos, x.queue)) with
  | some e => decide (time ≤ e.2)
  | none => false

/-- A whole item reaches its queue; one that a full record queue holds back waits, with record 0x600B when it begins to (R164, R174). -/
def Dev.isdAccept (again : Bool) (d : Dev) (x : IsdPart) : Dev :=
  let h := parseHdr x.bytes
  let q := d.q x.queue
  let pl := (x.bytes.drop 16).take h.len
  match d.isd.sent.find? (fun s => s.reply == x.queue && s.seq == h.seq && s.tag == h.tag) with
  | some s => (d.isdEnd s.queue s.seq (leAt pl 0 1) (leAt pl 4 4)).isdStat x.port 7
  | none =>
    if !q.valid ∨ !q.enabled ∨ q.prodId ≠ 0xFE then d.isdUnusable x h (q.kind == 1)
    else if q.kind = 0 ∧ d.streamStale x h.time then d.isdStat x.port 4
    else
      let d := if q.kind = 0 then
          d.setIsd { d.isd with streams := ((x.src, x.pos, x.queue), h.time) :: d.isd.streams.filter (fun e => e.1 != (x.src, x.pos, x.queue)) }
        else d
      if q.kind = 1 ∧ h.replyEn then (d.isdCommand x h).isdStat x.port 7
      else match d.hwEnqueue x.queue 0xFE h.time pl (some (h.seq, h.tag)) h.flags with
        | (.held, d) =>
          let d := if again then d else d.qRec 0x600B 4 x.queue 0xFE
          d.setIsd { d.isd with deferred := d.isd.deferred ++ [x] }
        | (_, d) => d.isdStat x.port 7

/-- Deferred record items try again. -/
def Dev.isdRetry (d : Dev) : Dev :=
  let l := d.isd.deferred
  l.foldl (Dev.isdAccept true) (d.setIsd { d.isd with deferred := [] })

/-- A DATA flit at its destination: reassembly per source, position and VC (R499). -/
def Dev.isdDeliver (d : Dev) (p : Nat) (f : Flit) : Dev :=
  let same (x : IsdPart) : Bool := x.src == f.src && x.pos == f.srcPos && x.vc == f.vc
  let old := d.isd.parts.find? same
  let rest := d.isd.parts.filter (fun x => !same x)
  let d := if f.first && old.isSome then d.isdStat p 5 else d
  let begun : Option IsdPart :=
    if f.first then some { src := f.src, pos := f.srcPos, vc := f.vc, queue := f.queue, bytes := [], at_ := d.cclk, port := p } else old
  match begun with
  | none => d
  | some x =>
    let x := { x with bytes := x.bytes ++ f.payload }
    if f.last then Dev.isdAccept false (d.setIsd { d.isd with parts := rest }) x
    else d.setIsd { d.isd with parts := rest ++ [x] }

/-- ISD_REASSEMBLY_TIMEOUT: the item at a place of the list, 1 ms after its first flit. -/
def Dev.isdReassembly (d : Dev) (i : Nat) : Dev :=
  match d.isd.parts[i]? with
  | some x =>
    if x.at_ + cclkPerMs ≤ d.cclk then (d.setIsd { d.isd with parts := d.isd.parts.eraseIdx i }).isdStat x.port 5 else d
  | none => d

/-! ### Receiving (R484, R485) -/

def sequencedKind (k : Nat) : Bool := k == 1 || k == 4 || k == 5

/-- Acknowledgement and credits of a good flit. -/
def Dev.isdAck (d : Dev) (p : Nat) (f : Flit) : Dev :=
  let l := d.link p
  let k := match l.held.findIdx? (fun h => h.f.lseq == f.ack) with
    | some i => i + 1
    | none => 0
  let d := d.setLink p { l with held := l.held.drop k, credit := (List.range 4).map (fun v => getN l.credit v + f.credits / 16 ^ v % 16) }
  ((l.held.take k).filterMap (·.item)).eraseDups.foldl Dev.itemSettled d

/-- A NAK that names the last lseq accepted. -/
def Dev.isdNakOut (d : Dev) (p : Nat) : Dev :=
  (d.setLink p { d.link p with gap := true, nakAt := d.cclk }).isdEmit p { flit0 with kind := 6 }

/-- A sequenced flit that is not accepted. -/
def Dev.isdGap (d : Dev) (p : Nat) (f : Flit) : Dev :=
  let d := d.isdRec p 0x1001 3 f.lseq
  if (d.link p).gap then d else d.isdNakOut p

/-- A received flit: CRC, acknowledgement, order, credit; `k` is what the row does with a flit of its own kind. -/
def Dev.isdReceive (d : Dev) (p kind : Nat) (f : Flit) (k : Dev → Flit → Dev) : Dev :=
  if d.linkState p < 2 then d
  else if f.kind ≠ kind ∧ f.kind < 7 then d
  else
    let d := d.isdStat p 1
    if !f.crcOk then
      let d := d.isdStat p 2
      if sequencedKind f.kind && d.linkUpNow p then d.isdGap p f else d.isdRec p 0x1001 3 f.lseq
    else
      let d := if d.linkUpNow p then (d.isdAck p f).isdSend p else d
      if 7 ≤ f.kind then (d.raise 999 0x100E 1).isdRec p 0x100E 3 f.kind
      else if !sequencedKind f.kind then (k d f).isdIdle p
      else if !d.linkUpNow p then d
      else
        let l := d.link p
        if f.lseq ≠ (l.rx + 1) % 65536 then d.isdGap p f
        else if getN l.peer f.vc = 0 then (d.isdRec p 0x1006 5 f.vc).linkFail p
        else
          let d := d.setLink p { l with
            rx := f.lseq
            gap := false
            nakAt := d.cclk
            peer := l.peer.set f.vc (getN l.peer f.vc - 1)
            owed := l.owed.set f.vc (getN l.owed f.vc + 1) }
          let open_ := d.linkState p == 4 || f.vc == 3
          ((if open_ then k d f else d).isdRetry).isdIdle p

/-- A flit whose address has non-zero bits [5:0]: discarded, EV0999 and record 0x1004 with the address (R22). -/
def Dev.addressViolation (d : Dev) (p : Nat) (f : Flit) : Dev :=
  (d.raise 999 0x1004 1).isdRec p 0x1004 4 (if f.dst % 64 ≠ 0 then f.dst else f.src)

/-- What a DATA flit does once accepted (R484, R496). -/
def Dev.dataIn (d : Dev) (p : Nat) (f : Flit) : Dev :=
  if f.dst % 64 ≠ 0 ∨ f.src % 64 ≠ 0 then
    d.addressViolation p f
  else
    let f := { f with hops := f.hops + 1 }
    if d.isdRoute f.dst ≠ 0xE ∧ 33 ≤ f.hops then d.isdRec p 0x1009 3 f.src
    else match d.isdForward p f none with
      | (some f, d) => d.isdDeliver p f
      | (none, d) => d

def Dev.isdData (d : Dev) (p : Nat) (f : Flit) : Dev := d.isdReceive p 1 f (fun d f => d.dataIn p f)
def Dev.isdIdleIn (d : Dev) (p : Nat) (f : Flit) : Dev := d.isdReceive p 0 f (fun d _ => d)
def Dev.isdHello (d : Dev) (p : Nat) (f : Flit) : Dev := d.isdReceive p 2 f (fun d f => d.helloIn p f.payload)

/-- Resends every held flit from the first unacknowledged one, or fails the link when the budget is used up: three transmissions
within 2 µs of the first. -/
def Dev.isdResend (d : Dev) (p : Nat) : Dev :=
  let l := d.link p
  if l.held.isEmpty then d
  else if l.held.any (fun h => decide (3 ≤ h.tries) || decide (h.firstAt + 2 * cclkPerUs < d.cclk)) then d.linkFail p
  else
    let d := d.setLink p { l with held := l.held.map (fun h => { h with tries := h.tries + 1, lastAt := d.cclk }) }
    l.held.foldl (fun d h =>
      ((d.isdEmit p { h.f with resent := true }).bump ISD_LINKp_resent 1 p).qStat 0) d

/-- NAK: its ack frees what arrived. -/
def Dev.isdNak (d : Dev) (p : Nat) (f : Flit) : Dev := d.isdReceive p 6 f (fun d _ => if d.linkUpNow p then d.isdResend p else d)

/-- ISD_ACK_TIMEOUT: 500 ns without an acknowledgement. -/
def Dev.isdAckTimeout (d : Dev) (p : Nat) : Dev :=
  match (d.link p).held with
  | h :: _ => if d.linkUpNow p && decide (h.lastAt + 400 ≤ d.cclk) then d.isdResend p else d
  | [] => d

/-- ISD_NAK_REPEAT: nothing acceptable for 500 ns. -/
def Dev.isdNakRepeat (d : Dev) (p : Nat) : Dev :=
  if d.linkUpNow p && (d.link p).gap && decide ((d.link p).nakAt + 400 ≤ d.cclk) then d.isdNakOut p else d

/-- Without the flits of the first stream item that waits. -/
def withoutVc1 : List (Flit × Option Nat) → List (Flit × Option Nat)
  | [] => []
  | w :: ws => if w.1.vc = 1 then (if w.1.last then ws else withoutVc1 ws) else w :: withoutVc1 ws

/-- ISD_VC1_LATE_DROP: the first stream item that waits for credit is dropped. -/
def Dev.isdVc1Late (d : Dev) (p : Nat) : Dev :=
  let l := d.link p
  match l.vc1From with
  | none => d
  | some t =>
    if d.cclk < t + max 1 (d.rd ISD_CFG_vc1_late) * cclkPerUs then d
    else ((d.setLink p { l with waiting := withoutVc1 l.waiting, vc1From := none }).isdStat p 6).vc1Note p

/-! ### Time transfer (R489, R490) -/

/-- A stamp in ns and 2^-16 ns. -/
def stampBytes (v : Nat) : List Byte := leBytes (v / 65536) 8 ++ leBytes (v % 65536) 2
def stampAt (b : List Byte) (o : Nat) : Nat := leAt b o 8 * 65536 + leAt b (o + 8) 2

/-- Hops to a LOCKED node whose source is not the fabric; `fabric`: the servo disciplines TIM from a link. -/
def Dev.ownHops (d : Dev) (fabric : Bool) : Nat :=
  if d.rd TIM_STATE_state ≠ 2 then 0xFF
  else if fabric then
    let best := (List.range 8).foldl (fun b p => if d.linkUpNow p then min b (d.rd ISD_LINKp_hops p) else b) 0xFF
    if best = 0xFF then 0xFF else min 0xFF (best + 1)
  else 0

/-- ISD_TIME_TIMER: every 125 µs, departing `off` CCLK and `eighths` of a ns after the last tick. -/
def Dev.isdTimeTimer (d : Dev) (p off eighths : Nat) (fabric : Bool) : Dev :=
  let l := d.link p
  if d.linkUpNow p && decide (l.timeAt + 125 * cclkPerUs ≤ d.cclk) then
    let n := (l.tseq + 1) % 65536
    let h := l.heard.getD (0, 0)
    let b := leBytes n 2 ++ leBytes l.sent.1 2 ++ stampBytes l.sent.2 ++ leBytes h.1 2 ++ stampBytes h.2 ++
      leBytes (d.rd TIM_STATE_state) 1 ++ leBytes (d.ownHops fabric) 1
    (d.setLink p { l with tseq := n, sent := (n, d.txStamp p off eighths), timeAt := d.cclk }).isdEmit p
      { flit0 with kind := 3, vc := 3, first := true, last := true, payload := b }
  else d

/-- The measurement of one exchange: θ and d in 2^-16 ns doubled. -/
def Dev.timePair (d : Dev) (p : Nat) (t1 t2 t3 t4 : Int) : Dev :=
  let theta2 := (t2 - t1) - (t4 - t3)
  let delay2 := (t2 - t1) + (t4 - t3)
  if delay2 < 0 ∨ 2 * 10000 * 65536 < delay2 then d.isdRec p 0x100C 3 (unsigned 32 (divFree delay2 131072))
  else (d.wr ISD_TT_OFSp_value (unsigned 32 (divFree theta2 8192)) p).wr ISD_TT_DLYp_value (unsigned 32 (divFree delay2 8192)) p

/-- ISD_TIME_FLIT: it tells when its predecessor left, and when this end's last one arrived. -/
def Dev.timeIn (d : Dev) (p : Nat) (b : List Byte) (rx : Nat) : Dev :=
  let l := d.link p
  let d := d.wr ISD_LINKp_hops (leAt b 0x1B 1) p
  let d := match l.heard with
    | some h =>
      if h.1 = leAt b 2 2 ∧ l.sent.2 ≠ 0 ∧ l.sent.1 = leAt b 0x0E 2 then
        d.timePair p l.sent.2 (stampAt b 0x10) (stampAt b 4) h.2
      else d
    | none => d
  d.setLink p { d.link p with heard := some (leAt b 0 2, rx) }

def Dev.isdTime (d : Dev) (p : Nat) (f : Flit) (off age : Nat) : Dev :=
  d.isdReceive p 3 f (fun d f => if d.linkUpNow p then d.timeIn p f.payload (d.rxStamp p off age) else d)

/-! ### Discovery (R493 to R495, R497) -/

/-- A TOPO not seen before enters the map and is flooded on. -/
def Dev.topoIn (d : Dev) (p : Nat) (f : Flit) : Dev :=
  let s := d.isdSide p
  let t := parseTopo s f.payload
  let newer := match d.isd.topo.find? (fun x => x.uid == t.uid && x.side == s) with
    | some x => decide ((t.version + 2 ^ 32 - x.version) % 2 ^ 32 - 1 < 2 ^ 31 - 1) && x.version != t.version
    | none => true
  if !newer || t.uid == padTo 16 d.rfg.otp.uid then d
  else (d.mapChanged t).flood s { f with resent := false } (some p)

def Dev.isdTopo (d : Dev) (p : Nat) (f : Flit) : Dev := d.isdReceive p 4 f (fun d f => d.topoIn p f)

/-- ISD_TOPO_TIMER: every 100 ms. -/
def Dev.isdTopoTimer (d : Dev) : Dev :=
  if d.flag STATUS_enabled 0 pgISD && decide (d.isd.floodAt + 100 * cclkPerMs ≤ d.cclk) then d.floodOwn else d

/-- uids compared from byte 0. -/
def uidLess (a b : List Byte) : Bool := decide (beValue a < beValue b)

/-- Nodes in ascending order of uid. -/
def insertTopo (t : Topo) : List Topo → List Topo
  | [] => [t]
  | x :: xs => if uidLess t.uid x.uid then t :: x :: xs else x :: insertTopo t xs

/-- The node with the lowest (prio, uid). -/
def summitOf (ns : List Topo) : Option Topo :=
  ns.foldl (fun b t => match b with
    | some x => if t.prio < x.prio then some t else some x
    | none => some t) none

/-- Node numbers: kept where no lower uid claims the same one; then the wanted number, else the lowest free one; none for a 65th
node. The result pairs uid and number (none: unaddressed) with the numbers claimed twice. -/
def keepNumbers (massif : Nat) (ns : List Topo) : List (List Byte × Option Nat) × List Nat :=
  ns.foldl (fun acc t =>
    if t.addr = 0xFFFF ∨ massifOf t.addr ≠ massif then (acc.1 ++ [(t.uid, none)], acc.2)
    else if acc.1.any (fun e => e.2 == some (nodeOf t.addr)) then (acc.1 ++ [(t.uid, none)], acc.2 ++ [nodeOf t.addr])
    else (acc.1 ++ [(t.uid, some (nodeOf t.addr))], acc.2)) ([], [])
def giveNumbers (want : List Byte → Nat) (l : List (List Byte × Option Nat)) : List (List Byte × Option Nat) :=
  l.foldl (fun l e => match e.2 with
    | some _ => l
    | none =>
      let taken (n : Nat) : Bool := l.any (fun x => x.2 == some n)
      let n := if want e.1 < 64 ∧ !taken (want e.1) then some (want e.1) else (List.range 64).find? (fun n => !taken n)
      l.map (fun x => if x.1 = e.1 then (x.1, n) else x)) l

/-- Two nodes are linked when the TOPO of each names the other (log entry 360). -/
def linked (a b : Topo) : Bool := a.nbr.contains (padTo 8 b.uid) && b.nbr.contains (padTo 8 a.uid)

/-- Hops from every node to one: breadth first over the links of the map. -/
def hopsTo (ns : List Topo) (dst : List Byte) : Nat → List (List Byte × Nat)
  | 0 => [(dst, 0)]
  | k + 1 =>
    let got := hopsTo ns dst k
    let near := ns.filter (fun x => got.any (fun e => e.1 == padTo 8 x.uid))
    ns.foldl (fun got' t =>
      let u := padTo 8 t.uid
      if got.any (fun e => e.1 == u) then got'
      else if near.any (linked t) then got' ++ [(u, k + 1)] else got') got
def hopsOf (h : List (List Byte × Nat)) (u : List Byte) : Option Nat := (h.find? (fun e => e.1 == u)).map (·.2)

/-- The nodes of a side that this one reaches, itself included, by ascending uid: what no link leads to any more is not in the map
(log entry 360). -/
def Dev.nodes (d : Dev) (s : Nat) : List Topo :=
  let ns := (d.ownTopo s :: d.isd.topo.filter (fun t => t.side == s)).foldl (fun l t => insertTopo t l) []
  let h := hopsTo ns (padTo 8 d.rfg.otp.uid) ns.length
  ns.filter (fun t => (hopsOf h (padTo 8 t.uid)).isSome)

/-- The next hop of a node on a table of hops: fewest hops, lowest node number, lowest port group. -/
def nextHop (ns : List Topo) (num : List Byte → Nat) (h : List (List Byte × Nat)) (t : Topo) : Nat :=
  match hopsOf h (padTo 8 t.uid) with
  | none => 0xF
  | some 0 => 0xE
  | some (k + 1) =>
    let cand := (t.nbr.zip (List.range 8)).filter (fun x => hopsOf h x.1 == some k && ns.any (fun y => padTo 8 y.uid == x.1 && linked t y))
    match cand.foldl (fun (b : Option (Nat × Nat)) x =>
        let c := (num x.1, x.2)
        match b with
        | some y => if c.1 < y.1 then some c else some y
        | none => some c) none with
    | some c => c.2
    | none => 0xF

/-- The route table of a node: 64 node codes and 16 massif codes. -/
def routeTable (massif : Nat) (ns : List Topo) (nums : List (List Byte × Option Nat)) (t : Topo) : List Nat :=
  let num8 (u : List Byte) : Nat := ((nums.find? (fun e => padTo 8 e.1 == u)).bind (·.2)).getD 64
  let hopTo (x : Topo) : Nat := nextHop ns num8 (hopsTo ns (padTo 8 x.uid) ns.length) t
  let dist (x : Topo) : Nat := (hopsOf (hopsTo ns (padTo 8 x.uid) ns.length) (padTo 8 t.uid)).getD 1000
  let nodeCode (n : Nat) : Nat :=
    match ns.find? (fun x => (nums.find? (fun e => e.1 == x.uid)).bind (·.2) == some n) with
    | some x => hopTo x
    | none => 0xF
  let massifCode (m : Nat) : Nat :=
    if m = massif then 0xE
    else
      match ((ns.filter (fun x => x.col && getN x.cross m != 0xFF && dist x != 1000)).foldl (fun (b : Option (Topo × Nat)) x =>
          let c := (getN x.cross m * 1000 + dist x) * 100 + num8 (padTo 8 x.uid)
          match b with
          | some y => if c < y.2 then some (x, c) else some y
          | none => some (x, c)) none) with
      | some x => hopTo x.1
      | none => 0xF
  (List.range 64).map nodeCode ++ (List.range 16).map massifCode

def routePayload (uid : List Byte) (version addr : Nat) (codes : List Nat) : List Byte :=
  padTo 16 uid ++ leBytes version 4 ++ leBytes addr 2 ++ leBytes 0 2 ++ (codes.map (fun c => leBytes c 1)).flatten

/-- An address with its reserved bits at zero; 0xFFFF stays no address (R22, R493). -/
def cleanAddr (a : Nat) : Nat := if a = 0xFFFF then a else a / 64 * 64

/-- A node's own address on a side. -/
def Dev.setAddr (d : Dev) (s addr : Nat) : Dev :=
  let addr := cleanAddr addr
  let was := d.isdAddr s
  let d := if s = 1 then d.setIsd { d.isd with addr2 := addr }
    else (d.wr ISD_ADDR_addr addr).wr ISD_ADDR_assigned (b2n (addr != 0xFFFF))
  let d := if addr = 0xFFFF then d.raise 995 0 1 else d
  if was = addr then d
  else
    let d := if addr ≠ 0xFFFF then d.raise 993 addr 1 else d
    d.viewChanged

/-- A table installed as a whole (R495). -/
def Dev.installRoutes (d : Dev) (s version addr : Nat) (codes : List Nat) : Dev :=
  let nb := if s = 1 then 64 else 0
  let mb := if s = 1 then 144 else 128
  let t := (List.range 64).foldl (fun t n => Tbl.set t (nb + n) (getN codes n) 0xF) d.isd.routes
  let t := (List.range 16).foldl (fun t m => Tbl.set t (mb + m) (getN codes (64 + m)) 0xF) t
  let d := d.setIsd { d.isd with routes := t, routeVer := version }
  (d.raise 994 0 1).setAddr s addr

/-- The summit's work: numbers and a ROUTE for every node. `want` is each node's ISD_CFG.node_req. -/
def Dev.assignAll (d : Dev) (s : Nat) (reqs : List (List Byte × Nat)) : Dev :=
  let ns := d.nodes s
  let m := d.isdMassif s
  let own := padTo 16 d.rfg.otp.uid
  let want (u : List Byte) : Nat :=
    if u = own then (if s = 1 then d.rd ISD_COL_node_req2 else d.rd ISD_CFG_node_req)
    else ((reqs.find? (fun e => padTo 16 e.1 == u)).map (·.2)).getD 64
  let kept := keepNumbers m ns
  let nums := giveNumbers want kept.1
  let d := kept.2.foldl (fun d n => d.isdRec 0 0x100B 4 n) d
  let v := (d.isd.routeVer + 1) % 2 ^ 32
  let d := d.setIsd { d.isd with routeVer := v }
  ns.foldl (fun d t =>
    let addr := match (nums.find? (fun e => e.1 == t.uid)).bind (·.2) with
      | some n => m * 4096 + n * 64
      | none => 0xFFFF
    let codes := routeTable m ns nums t
    if t.uid = own then d.installRoutes s v addr codes
    else d.flood s { flit0 with kind := 5, vc := 3, first := true, last := true, payload := routePayload t.uid v addr codes } none) d

/-- The election of a side. -/
def Dev.elect (d : Dev) (s : Nat) (reqs : List (List Byte × Nat)) : Dev :=
  match summitOf (d.nodes s) with
  | none => d
  | some t =>
    let own := decide (t.uid = padTo 16 d.rfg.otp.uid)
    let d' := d.setIsd { d.isd with summits := d.isd.summits.set s t.uid [] }
    let d' := if d.isd.summits.get s [] = t.uid then d' else d'.raise 992 (nodeOf t.addr) 1
    let d' := if s = 0 then (d'.wr ISD_ADDR_summit (b2n own)).wr ISD_ADDR_summit_node (nodeOf t.addr) else d'
    if own then d'.assignAll s reqs else d'

/-- ISD_ELECTION_STANDS: 2 ms without a change. -/
def Dev.isdElection (d : Dev) (reqs : List (List Byte × Nat)) : Dev :=
  if !d.flag STATUS_enabled 0 pgISD || d.isd.stood || decide (d.cclk < d.isd.changedAt + 2 * cclkPerMs) then d
  else
    let d := (d.setIsd { d.isd with stood := true }).elect 0 reqs
    if d.flag ISD_COL_en then d.elect 1 reqs else d

/-- ISD_ROUTE: one not seen before is flooded on; the one that names this node is installed. -/
def Dev.routeIn (d : Dev) (p : Nat) (f : Flit) : Dev :=
  let s := d.isdSide p
  let b := f.payload
  let id := (slice b 0 16, leAt b 0x10 4, s)
  if d.isd.seen.contains id then d
  else
    let d := d.setIsd { d.isd with seen := id :: d.isd.seen.filter (fun e => !(e.1 == id.1 && e.2.2 == s)) }
    let d := d.flood s { f with resent := false } (some p)
    if id.1 = padTo 16 d.rfg.otp.uid then
      d.installRoutes s id.2.1 (leAt b 0x14 2) ((List.range 80).map (fun i => leAt b (0x18 + i) 1))
    else d

def Dev.isdRouteFlit (d : Dev) (p : Nat) (f : Flit) : Dev := d.isdReceive p 5 f (fun d f => d.routeIn p f)

/-! ### Items sent (R498, R501, R502) -/

/-- The export entry of a queue. -/
def Dev.xmapOf (d : Dev) (n : Nat) : Option (Nat × Nat) :=
  (d.isd.xmap.find? (fun e => e.2.1.testBit 31 && bitsOf e.2.1 13 0 == n)).map (·.2)

/-- Claims the next item of an export queue; void ones are passed over and freed, a reply_en one that nobody has completed with
ST_ABORTED (R153, R159). -/
def Dev.isdClaim (d : Dev) (n : Nat) : Nat → Option (List Byte × Nat) × Dev
  | 0 => (none, d)
  | k + 1 =>
    let q := d.q n
    if !q.valid ∨ q.unclaimed = 0 then (none, d)
    else
      let (st, b, d) := d.hwLoad 0xFE (q.slotAddr q.claim) q.slot
      let i := q.claimed
      let d := d.claimItems n 1
      if st ≠ .ok then ((d.completeAt n i 0xFE st.code 0).isdFree n 65536).isdClaim n k
      else if (parseHdr b).flags.testBit 3 then ((d.completeAt n i 0xFE Status.aborted.code 0).isdFree n 65536).isdClaim n k
      else (some (b.take (16 + (parseHdr b).len), i), d)

/-- A completion in the return queue goes to its origin. -/
def Dev.isdReturned (d : Dev) (n : Nat) (b : List Byte) (i : Nat) : Dev :=
  let h := parseHdr b
  let d := match d.isd.origins.find? (fun o => o.tag == h.tag) with
    | some o =>
      (d.setIsd { d.isd with origins := d.isd.origins.filter (fun o => o.tag != h.tag) }).isdReturn o (leAt b 16 1) (leAt b 20 4)
    | none => d.qStat 1
  (d.completeAt n i 0xFE 0 0).isdFree n 65536

/-- Flits that name this node itself are delivered. -/
def Dev.isdLocal (d : Dev) (fs : List Flit) : Dev := fs.foldl (fun d f => d.isdDeliver 0 f) d

/-- An item goes out to its mapped destination. -/
def Dev.isdExport (d : Dev) (n i : Nat) (b : List Byte) (w1 : Nat) : Dev :=
  let h := parseHdr b
  let q := d.q n
  let reply := match q.ents[i]? with | some e => e.reply | none => none
  let fs := itemFlits q.vc (bitsOf w1 31 16) (bitsOf w1 15 14) d.isdFrom.1 d.isdFrom.2 (bitsOf w1 13 0) b
  let d := match reply with
    | some rq => d.setIsd { d.isd with sent := { queue := n, seq := h.seq, tag := h.tag, reply := rq } :: d.isd.sent }
    | none => d
  let r := d.isdSendItem fs (some (n * 65536 + h.seq))
  (r.2.itemSettled (n * 65536 + h.seq)).isdLocal r.1

/-- ISD sends items: enabled with an address, or a member of a rope. -/
def Dev.isdSends (d : Dev) : Bool := d.ropeMember || d.flag STATUS_enabled 0 pgISD && !d.unaddressed

/-- ISD_ITEM_SEND for queue `n`. -/
def Dev.isdItem (d : Dev) (n : Nat) : Dev :=
  let q := d.q n
  if q.consKind ≠ 3 ∨ q.consId ≠ 1 ∨ !d.isdSends then d
  else match d.isdClaim n 65536 with
    | (none, d) => d
    | (some (b, i), d') =>
      match d'.xmapOf n with
      | some e => d'.isdExport n i b e.2
      | none =>
        if n = d.rd ISD_CFG2_ret_q then d'.isdReturned n b i
        else
          let d := (d'.voidSlot n ((d'.q n).cons + i)).isdRec 0 0x100D 3 n
          (d.completeAt n i 0xFE Status.aborted.code 0).isdFree n 65536

/-- The address of the rope that a record item names. A member does not know it: it writes 0xFFFF, and its leader puts the address in
place of it, as it does in the flit's header (DESIGN CHOICE, log entry 477). -/
def Dev.recordAddr (d : Dev) : Nat := if d.ropePos = 0 then d.isdFrom.1 else 0xFFFF

/-- A flit with a member's record item: VC2, whole in one flit, from an on-die block, of R501's length, with the address left open. -/
def memberRecord (f : Flit) : Bool :=
  f.vc == 2 && f.first && f.last && leAt f.payload 0 2 == 36 && leAt f.payload 4 2 == 0xFFFF && leAt f.payload 7 1 == 0xFE &&
    leAt f.payload 16 4 == 0xFFFF

/-- Records that EVR sequenced go out as VC2 items (R501); they wait while the node has no address. -/
def Dev.isdRecords (d : Dev) : Dev :=
  let l := d.evr.exports
  let gone := { d with evr := { d.evr with exports := [] } }
  if !d.flag ISD_REXP_en then gone
  else if !d.isdSends then (if d.flag STATUS_enabled 0 pgISD then d else gone)
  else
    let d := gone
    (l.filter (fun r => decide (d.rd ISD_REXP_sev_min ≤ r.sev))).foldl (fun d r =>
      let pl := leBytes d.recordAddr 2 ++ leBytes 0 2 ++ r.bytes
      let b := mkHdr pl.length (r.seq % 65536) 0xFFFF 0 0xFE r.time ++ pl
      let s := d.isdSendItem (itemFlits 2 (d.rd ISD_REXP_DST_dst / 64 * 64) 0 d.isdFrom.1 d.isdFrom.2 (d.rd ISD_REXP_queue) b) none
      s.2.isdLocal s.1) d

/-! ### Rope DATA slots (R480) -/

/-- A flit that came over a rope lane: the leader forwards a member's with the rope's address and the member's position; a member
keeps those for its own position. Address bits [5:0] that are not zero are a violation on a rope lane too (R22). -/
def Dev.ropeFlitIn (d : Dev) (lane : Nat) (f : Flit) : Dev :=
  let d := d.ropeFreed lane f.vc
  if f.dst % 64 ≠ 0 ∨ f.src % 64 ≠ 0 then d.addressViolation (0x10 + lane) f
  else if d.ropePos = 0 then
    let f := { f with
      src := d.isdAddr 0
      srcPos := lane
      payload := if memberRecord f then overlay f.payload 16 (leBytes (d.isdAddr 0) 2) else f.payload }
    if d.unaddressed then d.isdRec (0x10 + lane) 0x1005 3 f.dst
    else match d.isdForward (0x10 + lane) f none with
    | (some f, d) => d.isdDeliver 0 f
    | (none, d) => d
  else if f.dstPos = d.ropePos then d.isdDeliver 0 f
  else d

/-- ROPE_DATA_SLOT. -/
def Dev.ropeDataSlot (d : Dev) (lane bits : Nat) (ok : Bool) : Dev :=
  d.ropeSlot 2 lane bits ok (fun d v =>
    match d.ropeData lane v with
    | (some f, d) => if f.crcOk then d.ropeFlitIn lane f else d.ropeFreed lane f.vc
    | (none, d) => d)

/-! ### Registers -/

def Dev.xmapSel (d : Dev) : Nat := d.rd ISD_XMAP_SEL_entry

/-- ISD_XMAP_CMD: 1 commit, 2 invalidate, 3 read. -/
def Dev.xmapCommit (d : Dev) : Status × Dev :=
  let w0 := d.rdWord ISD_XMAP_W0_valid
  let w1 := d.rdWord ISD_XMAP_W1_dst
  let dup := w0.testBit 31 && d.isd.xmap.any (fun e => e.1 != d.xmapSel && e.2.1.testBit 31 && bitsOf e.2.1 13 0 == bitsOf w0 13 0)
  let st := pickStatus [if bitsOf w1 21 16 ≠ 0 then .badParam else .ok, if dup then .duplicate else .ok]
  if st ≠ .ok then (st, d) else (.ok, d.setIsd { d.isd with xmap := d.isd.xmap.set d.xmapSel (w0, w1) (0, 0) })
def Dev.xmapInvalidate (d : Dev) : Status × Dev := (.ok, d.setIsd { d.isd with xmap := d.isd.xmap.set d.xmapSel (0, 0) (0, 0) })
def Dev.xmapRead (d : Dev) : Status × Dev :=
  let e := d.isd.xmap.get d.xmapSel (0, 0)
  (.ok, (d.wrWord ISD_XMAP_W0_valid e.1).wrWord ISD_XMAP_W1_dst e.2)
def Dev.xmapCmd (d : Dev) (v : Nat) : Status × Dev :=
  match bitsOf v 1 0 with
  | 1 => d.xmapCommit
  | 2 => d.xmapInvalidate
  | 3 => d.xmapRead
  | _ => (.badParam, d)

/-- A link's side and its channels under the settings as they stand (R491, R492, R497). -/
def Dev.relink (d : Dev) (p : Nat) : Dev :=
  let st := d.linkState p
  if st < 2 then d
  else
    let d := d.wr ISD_LINKp_col_port (d.isdSide p) p
    let now := if st = 2 then 2 else if d.flag ISD_CFG_admit && !(d.rd ISD_ADMIT_ports).testBit p then 3 else 4
    if now = st then d else (d.wr ISD_LINKp_state now p).isdSend p

/-- ISD_CFG and ISD_COL take effect on the links at once, and a node whose own view changed floods it (R493). -/
def Dev.isdCfgWrite (d : Dev) (off v : Nat) : Status × Dev :=
  let view (d : Dev) : List Nat := [d.rd ISD_CFG_massif, d.rd ISD_CFG_prio, d.rd ISD_COL_en, d.rd ISD_COL_massif2, d.rd ISD_COL_ports]
  let r := d.plainWrite pgISD off v
  let e := (List.range 8).foldl Dev.relink r.2
  (r.1, if e.flag STATUS_enabled 0 pgISD && view e != view d then e.viewChanged else e)

/-- The writes of the ISD page. -/
def Dev.isdWrite (d : Dev) (off v : Nat) : Status × Dev :=
  match off with
  | 0x040 => d.isdCfgWrite off v
  | 0x04C => d.isdCfgWrite off v
  | 0x050 => d.isdAdmit v
  | 0x11C => d.xmapCmd v
  | _ => d.plainWrite pgISD off v

/-- ISD's views: the route table and the statistics. -/
def Dev.isdStatValue (d : Dev) : Nat := d.isd.stat.get (8 * (d.rd ISD_STAT_SEL_port % 8) + d.rd ISD_STAT_SEL_index) 0
def Dev.isdView (d : Dev) (off : Nat) : Option Nat :=
  match off with
  | 0x104 =>
    let i := d.rd ISD_RT_SEL_index
    let c := if i < 144 then d.routeCode i else 0xF
    some (if d.isd.routes.any (fun e => e.1 == i) then 2 ^ 31 + c else c)
  | _ => none

/-- A disable, drain, soft reset or change of mode takes the links down; the items whose flits still waited end too. -/
def Dev.isdDrop (d : Dev) : Dev :=
  let d := (List.range 8).foldl (fun d p => d.isdLinkDown p) d
  let lost := ((List.range 8).map (fun p => (d.link p).waiting.filterMap (·.2))).flatten
  let d := lost.eraseDups.foldl (fun d i => d.itemLost 1 i) d
  (d.setIsd { xmap := d.isd.xmap, stat := d.isd.stat, version := d.isd.version, routeVer := d.isd.routeVer }).wrWord ISD_ADDR_addr 0xFFFF

end Sys2Proof.Machine
end

