-- ==== Sys2Proof/Machine/Piton.lean ====
section
/-! DEFINITION. BIO, PIT and TOU: binary inputs, trip logic array, trip outputs (R74 to R84, R88, R547). -/

namespace Sys2Proof.Machine

open Sys2Proof

def pgPIT : Nat := 0x005
def pgBIO : Nat := 0x006
def pgTOU : Nat := 0x007

/-- Ticks in 10 µs and in a millisecond. -/
def ticksPer10us : Nat := 200
def ticksPerMs : Nat := 20000

/-! ### Binary inputs -/

/-- An input at rest (R547). -/
def bi0 : Bi := {}

def Dev.bi (d : Dev) (n : Nat) : Bi := d.bio.get n bi0
def Dev.setBi (d : Dev) (n : Nat) (b : Bi) : Dev := { d with bio := d.bio.set n b bi0 }

/-- The level after polarity (R74). -/
def Dev.biRaw (d : Dev) (n : Nat) : Bool := (d.bi n).pin != d.flag BIO_CFGn_pol n

/-- D in ticks: debounce × unit (R74). -/
def Dev.biDebounce (d : Dev) (n : Nat) : Nat :=
  d.rd BIO_CFGn_debounce n * (match d.rd BIO_CFGn_unit n with | 0 => 1 | 1 => 20 | 2 => 2000 | _ => 20000)

/-- The level EV(128 + n) presents (R76, R547). -/
def Dev.biPresented (d : Dev) (n : Nat) : Bool :=
  let b := d.bi n
  d.flag BIO_CFGn_en n && (if b.blocked then d.flag BIO_CFGn_block_hold n && b.heldLevel else b.accepted)

/-- The parameters of the record of EV(128 + n) (R75). -/
def biParams (n : Nat) (level : Bool) (b : Bi) : P3 :=
  ⟨n + b2n level * 256 + b.accOff * 512, b.accTick % 2 ^ 32, b.accTick / 2 ^ 32 % 2 ^ 32⟩

/-- Presents an input's level to the event matrix and BIO_LEVEL. -/
def Dev.biPresent (d : Dev) (n : Nat) : Dev :=
  let l := d.biPresented n
  if d.evm.level.getLsbD (128 + n) = l then d else d.level (128 + n) l (biParams n l (d.bi n))

/-- A raw transition `off` CCLK after the last tick (R75): the time of the last one towards each level is kept. -/
def Dev.biRawChange (d : Dev) (n off : Nat) : Dev :=
  let b := d.bi n
  if d.biRaw n then d.setBi n { b with rise := (d.tickTai, off), lastRaw := d.ticks }
  else d.setBi n { b with fall := (d.tickTai, off), lastRaw := d.ticks }

/-- The last raw transition towards a level. -/
def Bi.edge (b : Bi) (level : Bool) : Nat × Nat := if level then b.rise else b.fall

/-- The input flop registers a pin level (R75). -/
def Dev.biEdge (d : Dev) (n : Nat) (l : Bool) (off : Nat) : Dev :=
  if (d.bi n).pin = l then d
  else
    let d := d.setBi n { d.bi n with pin := l }
    if d.flag BIO_CFGn_en n then d.biRawChange n off else d

/-- Blocks a chattering input (R76). -/
def Dev.biBlock (d : Dev) (n : Nat) (presented : Bool) : Dev :=
  ((d.setBi n { d.bi n with blocked := true, heldLevel := presented }).wr BIO_BLOCKk_bits
    (d.rd BIO_BLOCKk_bits (n / 32) ||| (1 <<< (n % 32))) (n / 32)).raise 1010 n

/-- Unblocks an input: its accepted level becomes the raw level, without debounce (R76). -/
def Dev.biUnblock (d : Dev) (n : Nat) : Dev :=
  let b := d.bi n
  let raw := d.biRaw n
  let d := d.setBi n { b with
    blocked := false, accepted := raw, count := 0, changes := [], accTick := (b.edge raw).1, accOff := (b.edge raw).2,
    accLevel := raw }
  ((d.wr BIO_BLOCKk_bits (setBits (d.rd BIO_BLOCKk_bits (n / 32)) (n % 32) (n % 32) 0) (n / 32)).raise 1011).biPresent n

/-- An accepted change: the level, its edge time, and the chatter window (R74 to R76). -/
def Dev.biAccept (d : Dev) (n : Nat) (raw presented : Bool) : Dev :=
  let b := d.bi n
  let win := max 1 (d.rd BIO_CHAT_window) * ticksPerMs
  let changes := d.ticks :: b.changes.filter (fun t => decide (d.ticks < t + win))
  let d := d.setBi n { b with
    accepted := raw, count := 0, accTick := (b.edge raw).1, accOff := (b.edge raw).2, accLevel := raw, changes := changes }
  let m := d.rd BIO_CFGn_chatter_max n
  if m ≠ 0 ∧ m < changes.length then d.biBlock n presented else d

/-- Input `n` at a tick (R74). -/
def Dev.biTick (d : Dev) (n : Nat) : Dev :=
  let b := d.bi n
  let raw := d.biRaw n
  let presented := d.evm.level.getLsbD (128 + n)
  let d :=
    if b.blocked then d
    else if raw = b.accepted then (if b.count = 0 then d else d.setBi n { b with count := 0 })
    else if d.biDebounce n ≤ b.count then d.biAccept n raw presented
    else d.setBi n { b with count := b.count + 1 }
  d.biPresent n

/-- BIO's part of a tick: the enabled inputs. -/
def Dev.biosTick (d : Dev) : Dev :=
  ((List.range 128).filter (fun n => d.flag BIO_CFGn_en n)).foldl Dev.biTick d

/-- BIO_CFGn (R547). A change that a write makes bears the CCLK of the write. -/
def Dev.bioCfgWrite (d : Dev) (n v : Nat) : Status × Dev :=
  let en := d.flag BIO_CFGn_en n
  let pol := d.flag BIO_CFGn_pol n
  let d := (d.plainWrite pgBIO (0x200 + 4 * n) v).2
  let en' := bitOf v 0
  if !en' then
    let d := d.setBi n { bi0 with pin := (d.bi n).pin }
    let d := d.wr BIO_BLOCKk_bits (setBits (d.rd BIO_BLOCKk_bits (n / 32)) (n % 32) (n % 32) 0) (n / 32)
    (.ok, if en then d.biPresent n else d)
  else if !en || pol != bitOf v 1 then (.ok, d.biRawChange n d.off)
  else (.ok, d)

/-- BIO_BLOCKk: a 1 unblocks (R76). -/
def Dev.bioBlockWrite (d : Dev) (k v : Nat) : Status × Dev :=
  (.ok, ((List.range 32).filter (fun i => v.testBit i && (d.bi (32 * k + i)).blocked)).foldl
    (fun d i => d.biUnblock (32 * k + i)) d)

def Dev.bioWrite (d : Dev) (off v : Nat) : Status × Dev :=
  if 0x070 ≤ off ∧ off < 0x080 then d.bioBlockWrite ((off - 0x070) / 4) v
  else if 0x200 ≤ off ∧ off < 0x400 then d.bioCfgWrite ((off - 0x200) / 4) v
  else d.plainWrite pgBIO off v

/-- No raw change for the quiet period unblocks an input with EV1011 (R76). -/
def Dev.biQuietExpiry (d : Dev) (n : Nat) : Dev :=
  let b := d.bi n
  if b.blocked ∧ b.lastRaw + max 1 (d.rd BIO_CHAT_quiet) * ticksPerMs ≤ d.ticks then d.biUnblock n else d

/-! ### Trip logic array (R77 to R79) -/

def term0 : Term := { lits := [0, 0, 0, 0, 0, 0, 0, 0], omask := 0 }

/-- A literal at this tick (R77). -/
def litTrue (vec rise fall : BitVec 1024) (l : BitVec 16) : Bool :=
  let s := bitsOf l.toNat 9 0
  match bitsOf l.toNat 14 13 with
  | 0 => vec.getLsbD s
  | 1 => !vec.getLsbD s
  | 2 => rise.getLsbD s
  | _ => fall.getLsbD s

/-- A term is true when it has an enabled literal and all its enabled literals are true (R77). -/
def termTrue (vec rise fall : BitVec 1024) (t : Term) : Bool :=
  let on := t.lits.filter (fun l => l.getLsbD 15)
  !on.isEmpty && on.all (litTrue vec rise fall)

/-- The array at a tick: swap, the read under SECDED, the true terms and the demand they form (R77 to R79). Of several terms the first one's p0 stands: DESIGN CHOICE, log entry 384. -/
def Dev.pitTick (d : Dev) (errs : List Nat) : Dev :=
  let d := if d.pit.swapReq then
      (({ d with pit := { d.pit with active := !d.pit.active, swapReq := false } }).wr PIT_CTRL_active
        (b2n !d.pit.active)).raise 1012
    else d
  let bank := b2n d.pit.active * 256
  let d := errs.foldl (fun d t =>
    let d := if (bank + t) ∈ d.pit.bad then d else { d with pit := { d.pit with bad := (bank + t) :: d.pit.bad } }
    d.raise 105 t) d
  let good := d.pit.terms.filter (fun e =>
    decide (bank ≤ e.1) && decide (e.1 < bank + 256) && !d.pit.bad.contains e.1 &&
      termTrue d.evm.vec d.evm.rise d.evm.fall e.2)
  let stat := maskOf (good.map (fun e => e.1 - bank))
  let d := (List.range 8).foldl (fun d k => d.wr PIT_TERM_STATk_true (bitsOf stat (32 * k + 31) (32 * k)) k) d
  { d with tou := { d.tou with demand := good.foldl (fun m e => m ||| e.2.omask) 0 } }

def Dev.pitTerm (d : Dev) (bank : Bool) (t : Nat) : Term := d.pit.terms.get (b2n bank * 256 + t) term0

/-- A write of a term of the inactive bank stores it and ends an uncorrectable mark on it (R79). -/
def Dev.pitTermPut (d : Dev) (t : Term) : Dev :=
  let key := b2n (!d.pit.active) * 256 + d.rd PIT_SEL_term
  { d with pit := { d.pit with terms := d.pit.terms.set key t term0, bad := d.pit.bad.filter (· != key) } }

/-- Reserved literal bits [12:10] are discarded (R8, R77). -/
def litMask : BitVec 16 := 0xE3FF

def Dev.pitLitWrite (d : Dev) (k v : Nat) : Status × Dev :=
  let t := d.pitTerm (!d.pit.active) (d.rd PIT_SEL_term)
  (.ok, d.pitTermPut { t with
    lits := (t.lits.set (2 * k) (BitVec.ofNat 16 v &&& litMask)).set (2 * k + 1) (BitVec.ofNat 16 (v / 65536) &&& litMask) })

def Dev.pitOmaskWrite (d : Dev) (hi : Bool) (v : Nat) : Status × Dev :=
  let t := d.pitTerm (!d.pit.active) (d.rd PIT_SEL_term)
  let m := t.omask.toNat
  (.ok, d.pitTermPut { t with omask := BitVec.ofNat 64 (if hi then setBits m 63 32 v else setBits m 31 0 v) })

/-- PIT_CTRL.swap (R78). -/
def Dev.pitCtrlWrite (d : Dev) (v : Nat) : Status × Dev :=
  (.ok, if bitOf v 0 then { d with pit := { d.pit with swapReq := true } } else d)

def Dev.pitWrite (d : Dev) (off v : Nat) : Status × Dev :=
  match off with
  | 0x040 => d.pitCtrlWrite v
  | 0x050 => d.pitLitWrite 0 v
  | 0x054 => d.pitLitWrite 1 v
  | 0x058 => d.pitLitWrite 2 v
  | 0x05C => d.pitLitWrite 3 v
  | 0x060 => d.pitOmaskWrite false v
  | 0x064 => d.pitOmaskWrite true v
  | _ => d.plainWrite pgPIT off v

/-! ### Trip outputs (R80 to R83) -/

/-- The hold of output `n` is still running (R80). -/
def Dev.holdRunning (d : Dev) (n : Nat) : Bool :=
  d.tou.holding.getLsbD n && decide (d.ticks < d.tou.lastDemand.get n 0 + d.rd TOU_CFGn_hold n * ticksPer10us)

/-- A demand that counts starts or restarts the hold and sets the latch (R80). -/
def Dev.touDemand (d : Dev) (n : Nat) : Dev :=
  if d.tou.demand.getLsbD n && d.flag STATUS_enabled 0 pgTOU && d.flag TOU_CFGn_en n then
    let latch := d.flag TOU_CFGn_latch n
    { d with tou := { d.tou with
      lastDemand := d.tou.lastDemand.set n d.ticks 0
      holding := setBitV d.tou.holding n (d.rd TOU_CFGn_hold n != 0)
      latched := if latch then setBitV d.tou.latched n true else d.tou.latched
      latchAt := if latch && !d.tou.latched.getLsbD n then d.tou.latchAt.set n d.ticks 0 else d.tou.latchAt } }
  else d

/-- Output `n` is energised at this tick (R80, R81). -/
def Dev.touWanted (d : Dev) (n : Nat) : Bool :=
  let enabled := d.flag STATUS_enabled 0 pgTOU
  d.flag TOU_CFGn_en n && (enabled || (d.flag STATUS_draining 0 pgTOU && d.tou.energised.getLsbD n)) &&
    ((enabled && d.tou.demand.getLsbD n) || d.tou.latched.getLsbD n || d.holdRunning n) &&
    !d.tou.heldOff.getLsbD n && !d.bivouac

/-- The outputs as a mask over a test. -/
def maskWhere (p : Nat → Bool) : BitVec 64 := BitVec.ofNat 64 (maskOf ((List.range 64).filter p))

/-- The outputs take new states: EV1013 and EV1014 at the next tick, with the lowest output and the masks (R80). -/
def Dev.touSet (d : Dev) (e : BitVec 64) : Dev :=
  let on := e &&& ~~~d.tou.energised
  let off := d.tou.energised &&& ~~~e
  let changed := (on ||| off).toNat
  let d := { d with tou := { d.tou with
    energised := e
    changedAt := (setBitsOf changed 64).foldl (fun t n => t.set n d.ticks 0) d.tou.changedAt } }
  let say (d : Dev) (src : Nat) (m : BitVec 64) : Dev :=
    match lowestBit m.toNat 64 with
    | some n => d.raise src n (m.toNat % 2 ^ 32) (m.toNat / 2 ^ 32)
    | none => d
  say (say d 1013 on) 1014 off

/-- The trip outputs at a tick, after the trip logic (R80, R83). -/
def Dev.touTick (d : Dev) : Dev :=
  let d := (setBitsOf d.tou.demand.toNat 64).foldl Dev.touDemand d
  let e := maskWhere d.touWanted
  let holds := maskWhere d.holdRunning
  let d := { d with tou := { d.tou with holding := holds, alarmHolds := d.tou.alarmHolds &&& holds } }
  d.touSet e

/-- The readback of the pads and the feedback inputs at a tick, before the vector is sampled (R81, R82). An output that shows equal
levels twice is de-energised with the other outputs of the tick. -/
def Dev.touReadback (d : Dev) (env : TickEnv) : Dev :=
  let top := (d.tou.energised &&& ~~~env.padTopMask) ||| (env.padTopVal &&& env.padTopMask)
  let ton := (~~~d.tou.energised &&& ~~~env.padTonMask) ||| (env.padTonVal &&& env.padTonMask)
  let equal := ~~~(top ^^^ ton)
  let fault := equal &&& d.tou.equalOnce &&& ~~~d.tou.heldOff
  let d := { d with tou := { d.tou with equalOnce := equal } }
  let d := match lowestBit fault.toNat 64 with
    | some n =>
      ({ d with tou := { d.tou with heldOff := d.tou.heldOff ||| fault } }).level 104 true ⟨n, 0, 0⟩
    | none => d
  let d := d.wr64 TOU_FB_LO_bits TOU_FB_HI_bits env.tfb.toNat
  let bad := maskWhere (fun n =>
    d.flag TOU_CFGn_fb_en n &&
      decide (d.tou.changedAt.get n 0 + d.rd TOU_CFGn_fb_settle n * ticksPer10us ≤ d.ticks) &&
      ((env.tfb.getLsbD n != d.flag TOU_CFGn_fb_pol n) != d.tou.energised.getLsbD n))
  let mism := d.rd64 TOU_MISM_LO_bits TOU_MISM_HI_bits ||| bad.toNat
  let d := d.wr64 TOU_MISM_LO_bits TOU_MISM_HI_bits mism
  (List.range 8).foldl (fun d g =>
    let l := bitsOf mism (8 * g + 7) (8 * g) != 0
    if d.evm.level.getLsbD (96 + g) = l then d else d.level (96 + g) l) d

/-- TOU_UNLATCH: the latch is released (R80). -/
def Dev.touUnlatch (d : Dev) (hi : Bool) (v : Nat) : Status × Dev :=
  (.ok, { d with tou := { d.tou with
    latched := d.tou.latched &&& ~~~(BitVec.ofNat 64 (if hi then v % 2 ^ 32 * 2 ^ 32 else v % 2 ^ 32)) } })

/-- TOU_MISM: cleared bit by bit; EV(96 + g) ends at the next tick where agreement holds (R82). -/
def Dev.touMismWrite (d : Dev) (off v : Nat) : Status × Dev := d.plainWrite pgTOU off v

/-- TOU_CFGn: ignored while the output is energised (R88). -/
def Dev.touCfgWrite (d : Dev) (n v : Nat) : Status × Dev :=
  if d.tou.energised.getLsbD n then (.busy, d) else d.plainWrite pgTOU (0x100 + 4 * n) v

def Dev.touWrite (d : Dev) (off v : Nat) : Status × Dev :=
  if off = 0x050 ∨ off = 0x054 then d.touMismWrite off v
  else if off = 0x058 then d.touUnlatch false v
  else if off = 0x05C then d.touUnlatch true v
  else if 0x100 ≤ off ∧ off < 0x200 then d.touCfgWrite ((off - 0x100) / 4) v
  else d.plainWrite pgTOU off v

/-- Disabling TOU ends every hold and releases every latch (R83). -/
def Dev.touDisable (d : Dev) : Dev := { d with tou := { d.tou with holding := 0, latched := 0 } }

/-- A drain of TOU releases the latches at its start (R83). -/
def Dev.touDrain (d : Dev) : Dev := { d with tou := { d.tou with latched := 0 } }

/-- Enabling TOU after a disable ends the complement fault and its hold (R81). -/
def Dev.touEnable (d : Dev) : Dev :=
  let d := { d with tou := { d.tou with heldOff := 0, equalOnce := 0 } }
  if d.evm.level.getLsbD 104 then d.level 104 false else d

/-- The hold of output `n` has run out: the output de-energises unless demanded or latched (R80). -/
def Dev.touHoldExpiry (d : Dev) (n : Nat) : Dev :=
  if d.tou.holding.getLsbD n && !d.holdRunning n then
    let d := { d with tou := { d.tou with holding := setBitV d.tou.holding n false } }
    if d.touWanted n then d else d.touSet (setBitV d.tou.energised n false)
  else d

/-- Output `n` is kept energised by a demand made at or before the alarm tick: by its latch, or by the hold of the last such
demand, where that hold has run on without a break since the alarm. -/
def Dev.alarmKeeps (d : Dev) (alarm n : Nat) : Bool :=
  d.tou.energised.getLsbD n &&
    ((d.tou.latched.getLsbD n && decide (d.tou.latchAt.get n 0 ≤ alarm)) ||
      (d.tou.alarmHolds.getLsbD n &&
        decide (d.ticks < d.tou.alarmDemand.get n 0 + d.rd TOU_CFGn_hold n * ticksPer10us)) || decide (d.ticks ≤ alarm))

/-- No output stays energised by a demand made at or before the alarm tick (R87). -/
def Dev.alarmClear (d : Dev) (alarm : Nat) : Bool := (List.range 64).all (fun n => !d.alarmKeeps alarm n)

end Sys2Proof.Machine
end

