-- ==== Sys2Proof/Machine/PageReset.lean ====
section
/-! DEFINITION. Enabling, disabling and draining a block, its soft reset, and what these do to each block (R28, R29, R83, R111,
R112, R288, R404, R542, R546). -/

namespace Sys2Proof.Machine

open Sys2Proof

def pgHST : Nat := 0x01C
def pgDBG : Nat := 0x001

/-! ### Enable, disable, drain -/

/-- What a chapter refuses or does when a block is enabled: TOU before stage 3 (R348), ISD on a rope member (R470), a DRAM
controller (R297). -/
def Dev.blockEnable (d : Dev) (b : Blk) (inst : Nat) : Status × Dev :=
  match b with
  | .tou => if d.rd RFG_STAGE_stage < 3 then (.notReady, d) else (.ok, d.touEnable)
  | .isd => if d.ropePos ≠ 0 then (.denied, d) else (.ok, d)
  | .drc => d.drcEnable inst
  | _ => (.ok, d)

/-- The port whose page this is. -/
def portOfPage (page : Nat) : Nat := page - 0x010

/-- A port's state and the converter's clocks change with the enable. -/
def Dev.portSettle (d : Dev) (b : Blk) (page : Nat) : Dev :=
  match b with
  | .prt | .mgp => (d.portNote (portOfPage page)).portOffers (portOfPage page)
  | .cnv => d.cnvClocks
  | _ => d

/-- A mode 6 link of a port that stops goes down (R504). -/
def Dev.portStop (d : Dev) (p : Nat) : Dev :=
  let d := d.portDisable p
  if p < 8 ∧ d.portMode p = 6 then d.isdLinkDown p else d

/-- What a block does when it is disabled without a drain (R83, R112, R449, R481). -/
def Dev.blockDisable (d : Dev) (b : Blk) (page : Nat) : Dev :=
  match b with
  | .tou => d.touDisable
  | .prt | .mgp => d.portStop (portOfPage page)
  | .nfc => d.nfcFieldOff
  | .isd => d.isdDrop
  | .cnv => d.cnvSettle
  | _ => d

/-- Sets the enable of a block. -/
def Dev.setEnabled (d : Dev) (page : Nat) (on : Bool) : Dev :=
  (d.wr CTRL_enable (b2n on) 0 page).wr STATUS_enabled (b2n on) 0 page

/-- A write of CTRL.enable = 1 (R28). -/
def Dev.ctrlEnable (d : Dev) (b : Blk) (inst page : Nat) : Status × Dev :=
  if d.flag STATUS_draining 0 page then (.ok, (d.wr STATUS_enable_pending 1 0 page).wr CTRL_enable 1 0 page)
  else if d.flag STATUS_enabled 0 page then (.ok, d)
  else
    let (st, d) := d.blockEnable b inst
    if st ≠ .ok then (st, d) else (.ok, (d.setEnabled page true).portSettle b page)

/-- A write of CTRL.enable = 0 (R29). On the TOU page it ends every hold and latch, during a drain too (R83). -/
def Dev.ctrlDisable (d : Dev) (b : Blk) (page : Nat) : Dev :=
  if d.flag STATUS_draining 0 page then
    let d := (d.wr STATUS_enable_pending 0 0 page).wr CTRL_enable 0 0 page
    if b = .tou then d.touDisable else d
  else if d.flag STATUS_enabled 0 page then ((d.setEnabled page false).blockDisable b page).portSettle b page
  else d

/-- Nothing is left for the drain of a block (R83, R111). -/
def Dev.drained (d : Dev) (b : Blk) (page : Nat) : Bool :=
  match b with
  | .tou => d.tou.energised == 0
  | .prt | .mgp => (d.port (portOfPage page)).egress.isEmpty
  | _ => true

/-- What a block does in a drain: TOU keeps what is energised (R83), a port its frames and its link (R111), and every block whose chapter states
nothing for a drain stops as on a disable (R542). -/
def Dev.blockDrain (d : Dev) (b : Blk) (page : Nat) : Dev :=
  match b with
  | .tou => d.touDrain
  | .prt | .mgp => d
  | _ => d.blockDisable b page

/-- A write of CTRL.drain = 1 (R542). -/
def Dev.ctrlDrain (d : Dev) (b : Blk) (page : Nat) : Dev :=
  if d.flag STATUS_draining 0 page then d
  else if d.flag STATUS_enabled 0 page then
    (((d.setEnabled page false).wr STATUS_draining 1 0 page).wr CTRL_drain 1 0 page).blockDrain b page
  else d.irq page 30

/-- A mode 6 group that stays disabled after its drain sends nothing any more: its link goes down (R112, R542). -/
def Dev.drainOver (d : Dev) (b : Blk) (page : Nat) : Dev :=
  match b with
  | .prt => if d.portMode (portOfPage page) = 6 then d.isdLinkDown (portOfPage page) else d
  | _ => d

/-- The drain of a block completes; a pending enable takes effect in the same cycle (R28, R287). -/
def Dev.drainComplete (d : Dev) (page : Nat) : Dev :=
  match pageBlock page with
  | none => d
  | some (b, inst) =>
    if !d.flag STATUS_draining 0 page || !d.drained b page then d
    else
      let pend := d.flag STATUS_enable_pending 0 page
      let d := ((d.wr STATUS_draining 0 0 page).wr CTRL_drain 0 0 page).wr STATUS_enable_pending 0 0 page
      let d := d.irq page 30
      let d := if pend then (d.blockEnable b inst).2.setEnabled page true else d.drainOver b page
      d.portSettle b page

/-! ### Soft reset -/

/-- The page of a register key, whatever its bank. -/
def keyPage (key : Nat) : Nat := key % 2 ^ 26 / 1024

/-- The offset of a register key. -/
def keyOff (key : Nat) : Nat := key % 1024 * 4

/-- Registers that show state which R546 or a chapter keeps, or a condition as it stands now. -/
def softKeeps (b : Blk) (off : Nat) : Bool :=
  match b with
  | .tim => off == 0x044
  | .orb => decide (off < 0x140) && off % 0x40 == 0x10
  | .clu => off == 0x074
  | .evr => off == 0x048 || off == 0x04C || off == 0x054 || (decide (0x058 ≤ off) && decide (off < 0x080))
  | .flc => off == 0x040 || (decide (0x0A0 ≤ off) && decide (off < 0x140))
  | .sys => off == 0x044 || off == 0x048
  | .lcc => true
  | .bkd => [0x040, 0x050, 0x054, 0x060, 0x070].contains off
  | .tmp => off == 0x050 || off == 0x054
  | .hst => off == 0x040
  | _ => false

/-- Returns the registers of a page and their inverted copies to reset (R288); its WL fields may be written again (log entry 300). -/
def Dev.pageRegsReset (d : Dev) (b : Blk) (page : Nat) : Dev :=
  let mine (k : Nat) : Bool := keyPage k == page
  let keeps (k : Nat) : Bool :=
    keyOff k == 0x020 || keyOff k == 0x024 || (softKeeps b (keyOff k) && decide (0x040 ≤ keyOff k))
  { d with
    regs := d.regs.drop (fun k => mine k && !keeps k)
    wlLocked := d.wlLocked.filter (fun k => !mine k)
    shadow := d.shadow.drop (fun k => mine k && keyOff k != 0x020)
    shadowSeen := d.shadowSeen.filter (fun k => !(mine k && keyOff k != 0x020))
    pairHi := d.pairHi.drop mine }

/-- An item that a block serves from a queue ends with ST_ABORTED. -/
def Dev.crdSoftReset (d : Dev) : Dev :=
  let d := match d.crd.job with
    | some j => d.crdFinish j .aborted 0
    | none => d
  (d.setCrd { card := d.crd.card, blocks := d.crd.blocks, formatId := d.crd.formatId, ringStart := d.crd.ringStart
              ringLen := d.crd.ringLen, uncovered := d.crd.uncovered, lastCairn := d.crd.lastCairn, evrSeq := d.crd.evrSeq, status := d.crd.status }).cardOff

/-- The same for the reader's item. -/
def Dev.nfcSoftReset (d : Dev) : Dev :=
  let d := if d.nfc.waiting.isSome then d.blockDone d.nfcQueue .aborted 0 else d
  (d.setNfc { pings := d.nfc.pings, far := d.nfc.far }).nfcFieldOff

/-- TIM: steps and sets not applied, the phase remainder and the rate offset go; ptp_qual and locked clear (R546). -/
def Dev.timSoftReset (d : Dev) : Dev :=
  let d := { d with tim := { d.tim with
    pend := {}, setLo := 0, rem := 0, freqEff := 0, storedPhase := none, storedFreq := false, snapReq := false } }
  ((d.wr TIM_CFG_rope_follow (b2n (d.ropePos != 0))).ext10Update).setQual 1 false

/-- ORB: each tracker stops at the next tick and holds its position; every comparator is disabled. -/
def Dev.orbSoftReset (d : Dev) : Dev :=
  (List.range 4).foldl (fun d n =>
    d.setOrbit n { d.orbit n with startReq := false, stopReq := d.orbState n != 0, offsetNew := none }) { d with cmp := [] }

/-- BIO: every input is disabled. -/
def Dev.bioSoftReset (d : Dev) : Dev :=
  (d.bio.map (·.1)).foldl (fun d n => (d.setBi n { bi0 with pin := (d.bi n).pin }).biPresent n) d

/-- TRV: a held pipeline is released under R134 once its bound frames finish. -/
def Dev.trvHold (was d : Dev) : Dev :=
  (List.range 8).foldl (fun d p => d.wr TRV_CPL_MAPp_held (was.rd TRV_CPL_MAPp_held p) p) d

/-- RSM and WFC: what is being filled, coded or held ends; contexts stay. -/
def Dev.rsmSoftReset (d : Dev) (u : Nat) : Dev :=
  (d.rsmUnit u).foldl (fun d e => d.setRsm e.1 { e.2 with hist := [], next := none, last := none, wait := [], item := [], fill := 0 }) d

def Dev.wfcSoftReset (d : Dev) : Dev :=
  (d.wfc.ctx).foldl (fun d e => d.setWfc e.1 { e.2 with
    next := none, left := 0, chans := [], seen := [], out := none, lost := false, degr := false, jobs := [], held := [], gap := e.2.gap || !e.2.held.isEmpty }) d

/-- CLU: a commit that waits for its tick ends. -/
def Dev.cluSoftReset (d : Dev) (c : Nat) : Dev :=
  (d.rel.filter (fun e => e.1 / 64 == c)).foldl (fun d e => d.setRel e.1 { e.2 with next := none }) d

/-- The Refuge's services that are outstanding end with ST_ABORTED. -/
def Dev.rfgSoftReset (d : Dev) : Dev :=
  d.rfg.services.foldl (fun d s => d.serviceItem s .aborted 0) { d with rfg := { d.rfg with services := [] } }

/-- What a soft reset ends before the registers return to reset. -/
def Dev.softEnd (d : Dev) (b : Blk) (inst page : Nat) : Dev :=
  match b with
  | .prt | .mgp => d.portStop (portOfPage page)
  | .crd => d.crdSoftReset
  | .nfc => d.nfcSoftReset
  | .isd => d.isdDrop
  | .rop => d.ropeDrop
  | .eng => d.engStop inst
  | .cnv => d.cnvDrop
  | .rsm => d.rsmSoftReset inst
  | .wfc => d.wfcSoftReset
  | .clu => d.cluSoftReset inst
  | .cpl => d.cplRelease inst
  | .pke => d.pkeDrop true
  | .hsh => d.hshDrop true
  | .hst => { d with hst := { d.hst with reqs := [] } }
  | .dbg => { d with jtag := { d.jtag with mbox := [] } }
  | .tou => d.touDisable
  | .rfg => d.rfgSoftReset
  | _ => d

/-- What follows the return of the registers. -/
def Dev.softSettle (was d : Dev) (b : Blk) (page : Nat) : Dev :=
  match b with
  | .tim => d.timSoftReset
  | .orb => d.orbSoftReset
  | .evm => { d with evm := { d.evm with snapReq := false } }
  | .pit => ({ d with pit := { d.pit with swapReq := false } }).wr PIT_CTRL_active (b2n d.pit.active)
  | .bio => d.bioSoftReset
  | .cnv => d.cnvSettle
  | .trv => was.trvHold d
  | .sbf => (List.range 4).foldl Dev.poolPeak d
  | .tmp => (d.wr64 TMP_EN_LO_bits TMP_EN_HI_bits (d.tmpEn - (d.tmpEn &&& d.lccFuse))).tmpSettle.tamperPersist was.tmpCond
  | .flc => d.flSoftReset
  | .evr => d.setLog d.evr.log
  | .rop => d.wr ROP_STAT_position d.ropePos
  | .sys => (d.wrWord SYS_RST_CAUSE_cmd d.sys.cause).resetOutSettle
  | .prt | .mgp =>
    (d.wr PRT_TS_STAT_count (d.port (portOfPage page)).ts.length 0 (portOfPage page)).portNote (portOfPage page)
  | _ => d

/-- CTRL.soft_reset = 1 (R288, R546). -/
def Dev.softReset (d : Dev) (page : Nat) : Dev :=
  match pageBlock page with
  | none => d
  | some (b, inst) =>
    let was := d
    let d := (d.softEnd b inst page).pageRegsReset b page
    let owner := was.rd LOCK_owner 0 page
    let d := if hasLock b && owner != 0xFF then (d.lockUnmap page owner).lockChange page 0xFF else d
    let d := was.softSettle d b page
    { d with inReset := d.inReset.set page (max 1 (d.inReset.get page 0)) 0 }

/-- The soft reset completes. A page that bivouac mode holds in reset stays there (R352). -/
def Dev.softResetComplete (d : Dev) (page : Nat) : Dev :=
  if d.inReset.get page 0 = 1 then { d with inReset := d.inReset.set page 0 0 } else d

/-- A write of CTRL: with more than one field set, soft_reset acts alone, then drain on a block that is not draining (log entry 302). -/
def Dev.ctrlWrite (d : Dev) (page v : Nat) : Status × Dev :=
  match pageBlock page with
  | none => (.denied, d)
  | some (b, inst) =>
    if bitOf v 1 then (.ok, d.softReset page)
    else if bitOf v 2 && !d.flag STATUS_draining 0 page then (.ok, d.ctrlDrain b page)
    else if bitOf v 0 then d.ctrlEnable b inst page
    else (.ok, d.ctrlDisable b page)

end Sys2Proof.Machine
end

