-- ==== Sys2Proof/Machine/Traverse.lean ====
section
/-! DEFINITION. The traverse sequencer: stream table, lookup, steps, verdicts, dispositions, egress programs, loss
supervision (R121 to R146). -/

namespace Sys2Proof.Machine

open Sys2Proof

/-! ### Entries (R125) -/

def TrvEntry.valid (e : TrvEntry) : Bool := e.w0.testBit 31
def TrvEntry.egress (e : TrvEntry) : Bool := e.w0.testBit 30
def TrvEntry.keyKind (e : TrvEntry) : Nat := bitsOf e.w0 28 27
def TrvEntry.cls (e : TrvEntry) : Nat := bitsOf e.w0 26 25
def TrvEntry.len (e : TrvEntry) : Nat := bitsOf e.w0 24 21
def TrvEntry.dispo (e : TrvEntry) : Nat := bitsOf e.w0 19 12
def TrvEntry.prog (e : TrvEntry) : Nat := bitsOf e.w0 11 0
def TrvEntry.dst (e : TrvEntry) : Nat := bitsOf e.w2 15 0 * 2 ^ 32 + e.w1 % 2 ^ 32
def TrvEntry.etherType (e : TrvEntry) : Nat := bitsOf e.w2 31 16
def TrvEntry.appid (e : TrvEntry) : Nat := bitsOf e.w3 31 16
def TrvEntry.vidEn (e : TrvEntry) : Bool := e.w3.testBit 15
def TrvEntry.rate (e : TrvEntry) : Nat := bitsOf e.w3 14 12
def TrvEntry.vid (e : TrvEntry) : Nat := bitsOf e.w3 11 0
def TrvEntry.ports (e : TrvEntry) : Nat := bitsOf e.w5 31 20
def TrvEntry.queue (e : TrvEntry) : Nat := bitsOf e.w5 13 0
def TrvEntry.auth (e : TrvEntry) : Nat := bitsOf e.w6 31 29
def TrvEntry.keyslot (e : TrvEntry) : Nat := bitsOf e.w6 28 21
def TrvEntry.lossGrp (e : TrvEntry) : Nat := bitsOf e.w6 20 16
def TrvEntry.evsrc (e : TrvEntry) : Nat := bitsOf e.w6 9 0
def TrvEntry.lossTo (e : TrvEntry) : Nat := bitsOf e.w7 31 20
def TrvEntry.late (e : TrvEntry) : Nat := bitsOf e.w7 19 12
def TrvEntry.unit (e : TrvEntry) : Nat := bitsOf e.w7 11 8
def TrvEntry.ctx (e : TrvEntry) : Nat := bitsOf e.w7 7 0
/-- Samples a second of an SV entry. -/
def TrvEntry.smpRate (e : TrvEntry) : Nat := match e.rate with | 1 => 4800 | 2 => 12800 | 3 => 14400 | 4 => 15360 | _ => 4000

def Dev.entry (d : Dev) (i : Nat) : TrvEntry := d.trv.entries.get i {}
def Dev.setEntry (d : Dev) (i : Nat) (e : TrvEntry) : Dev :=
  { d with trv := { d.trv with entries := d.trv.entries.set i e {} } }
def Dev.trvStep (d : Dev) (i : Nat) : Nat := d.trv.steps.get i 0

/-- Statistics of a datapath. -/
def Dev.trvStat (d : Dev) (dp i : Nat) : Dev :=
  { d with trv := { d.trv with stat := d.trv.stat.set (8 * dp + i) (satAdd (2 ^ 64 - 1) (d.trv.stat.get (8 * dp + i) 0) 1) 0 } }

/-- A violation record; 0xFFFF names a miss (R145). -/
def Dev.trvRec (d : Dev) (i code sev p2 : Nat) : Dev := d.rated pgTRV code i sev i p2

/-! ### Keys and lookup (R123, R124) -/

/-- The fields of a key: destination, EtherType, APPID, stream identifier. -/
structure StreamKey where
  dst : Nat
  et : Nat
  appid : Nat
  sid : Nat
  deriving DecidableEq, Repr

/-- The key with the fields that a key_kind excludes set to zero. -/
def StreamKey.under (k : StreamKey) (kind : Nat) : StreamKey :=
  { k with appid := if kind = 0 then 0 else k.appid, sid := if kind = 2 then k.sid else 0 }

/-- The 14 bytes of a key, in network order. -/
def StreamKey.bytes (k : StreamKey) : List Byte := beBytes k.dst 6 ++ beBytes k.et 2 ++ beBytes k.appid 2 ++ beBytes k.sid 4

def TrvEntry.key (e : TrvEntry) : StreamKey :=
  StreamKey.under { dst := e.dst, et := e.etherType, appid := e.appid, sid := e.w4 % 2 ^ 32 } e.keyKind

/-- The two buckets of a key: the first index of each (R124). -/
def buckets (k : StreamKey) : Nat × Nat :=
  let c := (crc32c k.bytes).toNat
  (4 * bitsOf c 10 0, 8192 + 4 * bitsOf c 21 11)

/-- The Pyrlon PDU of a frame: the bytes after the EtherType (R202). -/
def pduOf (b : List Byte) : List Byte := b.drop (etherOff b + 2)

/-- The key of a frame; none, with the offset of the fault, where the classifier cannot form it (R123). -/
def Dev.classify (d : Dev) (h : Handed) : Except Nat StreamKey :=
  let et := etherType h.bytes
  let o := etherOff h.bytes + 2
  if et = 0x88B8 ∨ et = 0x88BA then
    match h.info.keyBad, h.info.name with
    | none, some s => .ok { dst := dstMac h.bytes, et := et, appid := beAt h.bytes o 2, sid := (crc32c s).toNat }
    | some b, _ => .error b
    | none, none => .error o
  else if et = d.rd TRV_CFG_pyrlon_type then
    let p := pduOf h.bytes
    if p.length < 8 then .error p.length else .ok { dst := dstMac h.bytes, et := et, appid := 0, sid := leAt p 4 4 }
  else .ok { dst := dstMac h.bytes, et := et, appid := 0, sid := 0 }

/-- An entry matches a frame of datapath `dp` under a key_kind. -/
def TrvEntry.hits (e : TrvEntry) (k : StreamKey) (kind dp : Nat) (vid : Option Nat) : Bool :=
  e.valid && !e.egress && e.keyKind == kind && e.key == k.under kind && e.ports.testBit dp && (!e.vidEn || vid == some e.vid)

/-- The 24 candidate indices, with the key_kind of each. -/
def candidates (k : StreamKey) : List (Nat × Nat) :=
  ([0, 1, 2].map (fun kind =>
    let b := buckets (k.under kind)
    ((List.range 4).map (fun i => (b.1 + i, kind))) ++ ((List.range 4).map (fun i => (b.2 + i, kind))))).flatten

/-- The entry a frame belongs to: the lowest matching index. -/
def Dev.trvLookup (d : Dev) (k : StreamKey) (dp : Nat) (vid : Option Nat) : Option Nat :=
  ((candidates k).filter (fun c => (d.entry c.1).hits k c.2 dp vid)).foldl (fun best c => match best with
    | none => some c.1
    | some b => some (min b c.1)) none

/-- The virtual channel of an entry's frames (R161). -/
def Dev.trvVc (d : Dev) (e : TrvEntry) : Nat := let q := d.q e.queue; if q.valid then q.vc else 3

/-- The steps from `prog` on, `n` of them. -/
def Dev.program (d : Dev) (prog n : Nat) : List Nat := (List.range n).map (fun i => d.trvStep (prog + i))

/-- The held pipeline that serves a datapath in a direction (R134). -/
def Dev.pipeFor (d : Dev) (dp : Nat) (egress : Bool) : Option Nat :=
  (List.range 8).find? (fun p => d.flag TRV_CPL_MAPp_en p && d.flag TRV_CPL_MAPp_held p &&
    (if egress then d.rd TRV_CPL_MAPp_egress p else d.rd TRV_CPL_MAPp_ingress p).testBit dp)

/-- A pipeline that the sequencer can use now: still held, its clear ended, its generator seeded (R27, R307). -/
def Dev.pipeReady (d : Dev) (p : Nat) : Bool :=
  d.flag TRV_CPL_MAPp_held p && d.lockClear.get (pgCPL p) 0 == 0 && d.flag CPL_STAT_seeded 0 p

/-- The row of an entry, and of a step, in the sequencer's tables (log entry 351); the first uncorrectable one that an entry's lookup and
program read. -/
def stepRow (i : Nat) : Nat := 8192 + i
def Dev.trvBadRow (d : Dev) (entry : Option Nat) (e : TrvEntry) : Option Nat :=
  (entry.toList ++ (List.range (e.len + 1)).map (fun j => stepRow (e.prog + j))).find? (fun r => d.rowBad pgTRV r)

/-- A frame handed over by a MAC is looked up: it captures its entry and its whole program, or is discarded (R122, R124,
R128, R161). -/
def Dev.trvArrive (d : Dev) (h : Handed) : Dev :=
  let dp := h.port
  if 64 ≤ (d.trv.flights.filter (·.dp == dp)).length then d.trvStat dp 1
  else
    let (key, mal) := match d.classify h with
      | .ok k => (k, none)
      | .error o => (⟨0, 0, 0, 0⟩, some o)
    let hit := d.trvLookup key dp (outerVid h.bytes)
    let miss := d.rdWord TRV_MISSd_en dp
    let e : TrvEntry := match hit with
      | some i => d.entry i
      | none => { w0 := miss % 2 ^ 25 }
    let d := d.trvStat dp 0
    let d := if hit.isNone then d.trvRec 0xFFFF 0x5012 1 (etherType h.bytes) else d
    if hit.isNone ∧ !miss.testBit 31 then d.trvStat dp 2
    else if let some row := d.trvBadRow hit e then d.tableFault pgTRV row
    else
      let vc := if hit.isSome then d.trvVc e else 3
      match d.stage vc (ceilDiv (h.bytes.length + 4) 256) with
      | (none, d) => d
      | (some plan, d) =>
        let f : Flight := { dp := dp, h := h, entry := hit, e := e, prog := d.program e.prog (e.len + 1), plan := plan, vc := vc
                            pipe := d.pipeFor dp false, mal := mal }
        { d with trv := { d.trv with flights := d.trv.flights ++ [f] } }

/-! ### Verdicts (R127, R129, R133 to R139) -/

/-- What the steps of one frame work on: its datapath, entry, direction, bytes, contents, ingress stamp; item time on
egress; and what they find: verdict bits, records (code, severity, p2), the fields that MAL left missing (what authenticate takes,
the counts that deduplicate compares, the first-sample time), new state. -/
structure Pass where
  dp : Nat
  entry : Option Nat
  e : TrvEntry
  egress : Bool
  bytes : List Byte
  info : FrameMeta
  stamp : Stamp
  itemTime : Nat
  steps : List Nat
  v : Nat := 0
  recs : List (Nat × Nat × Nat) := []
  noSec : Bool := false
  noCount : Bool := false
  noTime : Bool := false
  state : Option (Nat × Nat) := none

def stepOp (s : Nat) : Nat := bitsOf s 31 28
def Pass.has (x : Pass) (op : Nat) : Bool := x.steps.any (fun s => stepOp s == op)
def Pass.idx (x : Pass) : Nat := x.entry.getD 0xFFFF

/-- Sets a verdict bit, with its record. -/
def Pass.set (x : Pass) (bit : Nat) (r : Option (Nat × Nat × Nat)) : Pass :=
  { x with v := x.v ||| (1 <<< bit), recs := x.recs ++ r.toList }

/-- Nothing of the frame's header was captured. -/
def Pass.blank (x : Pass) : Pass := { x with noSec := true, noCount := true, noTime := true }

/-- Counts of a GOOSE or SV frame, 0 where the frame has none. -/
def Pass.stNum (x : Pass) : Nat := x.info.stNum.getD 0
def Pass.sqNum (x : Pass) : Nat := x.info.sqNum.getD 0
def Pass.smpCnt (x : Pass) : Nat := x.info.smpCnt.getD 0

/-- extract (R127, R204): on MAL the fields captured before the error stay good (R129). -/
def Pass.extract (x : Pass) : Pass :=
  if !x.has 1 then x
  else match x.e.cls with
    | 0 => x
    | 3 =>
      let p := pduOf x.bytes
      match pyrlonFault p with
      | some o =>
        let h := parsePyrlon p
        { (x.set 1 (some (0x5001, 3, o))) with
          noSec := decide (p.length < 0x1E + h.len + h.tagLen) || decide (p.length < 0x1E)
          noCount := decide (p.length < 0x0E)
          noTime := decide (p.length < 0x18) }
      | none => x
    | c =>
      match x.info.bad with
      | some o => { (x.set 1 (some (0x5001, 3, o))) with
          noSec := x.info.sec.isNone
          noCount := if c = 2 then x.info.smpCnt.isNone else x.info.stNum.isNone || x.info.sqNum.isNone
          noTime := c = 2 && x.info.smpCnt.isNone }
      | none =>
        let simMal := x.steps.any (fun s => stepOp s == 1 && s.testBit 0)
        let x := if simMal && x.info.sim then x.set 1 (some (0x5002, 3, 0)) else x
        if c = 2 ∧ !x.egress ∧ x.e.smpRate ≤ x.smpCnt then x.set 1 (some (0x5003, 3, x.smpCnt)) else x

/-- The lateness of an SV frame on ingress in units of 1/(65,536 · rate) ns: the stamp less the nominal time of the first
sample, S being the latest second that puts it at or before the stamp (R138). -/
def Pass.svLate (x : Pass) : Nat :=
  (((x.stamp * x.e.smpRate : Nat) : Int) - (x.smpCnt * 10 ^ 9 * 65536 : Nat)) % ((10 ^ 9 * 65536 * x.e.smpRate : Nat) : Int) |>.toNat

/-- Lateness in units of 2^-16 ns, rounded down; none where the frame has no first-sample time (R138, R139, R143). -/
def Pass.lateness (x : Pass) : Option Int :=
  if x.noTime then none
  else if x.egress then none
  else match x.e.cls with
    | 2 => some ((x.svLate / x.e.smpRate : Nat) : Int)
    | 3 =>
      let h := parsePyrlon (pduOf x.bytes)
      some ((x.stamp : Int) - ((h.time + h.span) * 65536 : Nat))
    | _ => none

/-- LATE of the stamp step, and its p2 in µs. -/
def Pass.isLate (x : Pass) (tick : Nat) : Option Nat :=
  if x.e.late = 0 then none
  else if x.egress then
    (if x.itemTime + x.e.late * 4000 < tick then some ((tick - x.itemTime) / 1000) else none)
  else match x.lateness with
    | none => none
    | some l =>
      let ovr := if x.e.cls = 2 then decide (x.e.late * 4000 * 65536 * x.e.smpRate < x.svLate)
        else decide (((x.e.late * 4000 * 65536 : Nat) : Int) < l)
      if ovr then some ((l / (65536 * 1000)).toNat % 2 ^ 32) else none

def Pass.stampStep (x : Pass) (tick : Nat) : Pass :=
  if !x.has 2 then x
  else match x.isLate tick with
    | some us => x.set 4 (some (0x5009, 3, us))
    | none => x

/-- Tag bytes of an algorithm. -/
def authLen (auth : Nat) : Nat := match auth with | 1 => 8 | 2 => 16 | 3 => 10 | 4 => 16 | _ => 32

/-- A key of the stream key table: `next` false the current one. -/
def Dev.streamKey (d : Dev) (slot : Nat) (next : Bool) : Nat × Nat :=
  let k := 4 * slot + (if next then 2 else 0)
  (d.trv.keys.get k 0, d.trv.keys.get (k + 1) 0)

/-- The key bytes of a vault slot for an algorithm: none where the slot holds no key the sequencer may use so. -/
def Dev.authKey (d : Dev) (dp auth use slotWord : Nat) : Option (List Byte) :=
  let s := slotWord % 256
  let x := d.slotOf s
  let fits := if auth ≤ 2 then x.aesBytes != 0 else x.type == 4
  if slotWord.testBit 31 && fits && d.slotPermits s dp [use] && (d.slotBad s).isNone && d.vaultStatus dp == .ok && d.brk != some 5 then some x.key else none

/-- The key bus fails the transfer of a stream's key: an uncorrectable word of the vault, or a parity error (R294, R296). -/
def Dev.keyTransfer (d : Dev) (dp keyslot : Nat) : Dev :=
  let s := (d.streamKey keyslot false).2 % 256
  match d.slotBad s with
  | some row => d.rowFault 5 0x07B row dp
  | none => if d.brk = some 5 then d.parityError pgTRV 5 0 dp else d

/-- The key that a frame's identifier selects (R133). -/
def Dev.keyFor (d : Dev) (dp auth slot id : Nat) : Option (List Byte) :=
  let cur := d.streamKey slot false
  let nxt := d.streamKey slot true
  if cur.2.testBit 31 ∧ cur.1 = id then d.authKey dp auth 23 cur.2
  else if nxt.2.testBit 31 ∧ nxt.1 = id then d.authKey dp auth 23 nxt.2
  else none

/-- The tag of an algorithm over a span. -/
def authTag (auth : Nat) (key iv span : List Byte) : List Byte :=
  (if auth ≤ 2 then gmac key iv span else hmac256 key span).take (authLen auth)

/-- The IV and authenticated bytes of a Pyrlon PDU (R206). -/
def pyrlonIv (p : List Byte) : List Byte := slice p 4 4 ++ slice p 0x10 8
def pyrlonAad (p : List Byte) : List Byte := p.take (0x1E + leAt p 0x1C 2)

/-- The security fields of a frame: key identifier, whether the expected tag stands in it under a key. -/
def Pass.secId (x : Pass) : Option Nat :=
  if x.e.cls = 3 then some (parsePyrlon (pduOf x.bytes)).keyId else x.info.sec.map (fun s => s.keyId.toNat)
def Pass.tagOk (x : Pass) (key : List Byte) : Bool :=
  let n := authLen x.e.auth
  if x.e.cls = 3 then
    let p := pduOf x.bytes
    let h := parsePyrlon p
    h.tagLen == n && slice p (0x1E + h.len) n == authTag x.e.auth key (pyrlonIv p) (pyrlonAad p)
  else match x.info.sec with
    | none => false
    | some s => s.tagLen == n && slice x.bytes s.tagOff n == authTag x.e.auth key s.iv (slice x.bytes s.spanOff s.spanLen)

/-- AUTH without a record of its own event. -/
def Dev.authFail (d : Dev) (x : Pass) (code src p2 : Nat) : Pass × Dev := (x.set 2 (some (code, 4, p2)), d.raise src x.idx)

/-- authenticate on ingress (R133 to R136, R206): with W6.auth 0 no tag is expected, and a Pyrlon frame whose tag field has a length
fails. `ovr`: the datapath's buffer is full. -/
def Dev.authIngress (d : Dev) (x : Pass) (pipe : Option Nat) (ovr : Bool) : Pass × Dev :=
  let gm := decide (x.e.auth ≤ 2)
  let piped := match pipe with | some p => d.pipeReady p | none => false
  if x.e.auth = 0 then
    if x.e.cls = 3 ∧ x.noSec then (x.set 2 none, d)
    else if x.e.cls = 3 ∧ (parsePyrlon (pduOf x.bytes)).tagLen ≠ 0 then d.authFail x 0x5004 (608 + x.dp) 0
    else (x, d)
  else if gm && !piped then (x.set 2 (some (0x5013, 4, x.dp)), d)
  else if ovr then (x.set 2 (some (0x5013, 4, x.dp)), d.trvStat x.dp 4)
  else if x.noSec then (x.set 2 none, d)
  else if x.e.cls = 3 ∧ !gm then d.authFail x 0x5004 (608 + x.dp) 0
  else
    let id := x.secId.getD 0
    match (if x.secId.isSome then d.keyFor x.dp x.e.auth x.e.keyslot id else none) with
    | none => d.authFail x 0x5005 621 id
    | some key => if x.tagOk key then (x, d) else d.authFail x 0x5004 (608 + x.dp) 0

/-- Writes the tag, and for Pyrlon the key identifier, into a frame (R143, R206). -/
def Pass.writeTag (x : Pass) (key : List Byte) (id : Nat) : List Byte :=
  if x.e.cls = 3 then
    let o := etherOff x.bytes + 2
    let b := overlay x.bytes (o + 0x18) (leBytes id 4)
    let p := pduOf b
    overlay b (o + 0x1E + leAt p 0x1C 2) (authTag x.e.auth key (pyrlonIv p) (pyrlonAad p))
  else match x.info.sec with
    | none => x.bytes
    | some s => overlay x.bytes s.tagOff (authTag x.e.auth key s.iv (slice x.bytes s.spanOff s.spanLen))

/-- authenticate on egress: the tag under the current key. -/
def Dev.authEgress (d : Dev) (x : Pass) (pipe : Option Nat) : Pass × Dev :=
  let gm := decide (x.e.auth ≤ 2)
  let piped := match pipe with | some p => d.pipeReady p | none => false
  if x.e.auth = 0 then (x, d)
  else if gm && !piped then (x.set 2 (some (0x5013, 4, x.dp)), d)
  else if x.noSec then (x.set 2 none, d)
  else if x.e.cls = 3 ∧ !gm then (x.set 1 none, d)
  else
    let cur := d.streamKey x.e.keyslot false
    match d.authKey x.dp x.e.auth 22 cur.2 with
    | none => (x.set 2 (some (0x5005, 4, cur.1)), d)
    | some key => ({ x with bytes := x.writeTag key cur.1 }, d)

def Dev.authStep (d : Dev) (x : Pass) (pipe : Option Nat) (ovr : Bool) : Pass × Dev :=
  if !x.has 3 then (x, d)
  else
    let d := if x.e.auth = 0 then d else d.keyTransfer x.dp x.e.keyslot
    if x.egress then d.authEgress x pipe else d.authIngress x pipe ovr

/-- a is newer than b modulo 2^32 (R137, R139). -/
def newer32 (a b : Nat) : Bool :=
  let k := (a + 2 ^ 32 - b % 2 ^ 32) % 2 ^ 32
  decide (1 ≤ k) && decide (k ≤ 2 ^ 31 - 1)

/-- GOOSE (R137): state a = stNum, b = sqNum. -/
def Dev.dedupGoose (d : Dev) (x : Pass) (s : TrvEntry) : Pass × Dev :=
  let st := x.stNum % 2 ^ 32
  let sq := x.sqNum % 2 ^ 32
  if s.first || s.inLoss || newer32 st s.a then ({ x with state := some (st, sq) }, d)
  else if st ≠ s.a then (x.set 3 (some (0x5006, 4, st)), d.raise 620 x.idx)
  else if newer32 sq s.b then
    let x := { x.set 3 none with state := some (st, sq) }
    if 1 < (sq + 2 ^ 32 - s.b) % 2 ^ 32 then ({ x with recs := x.recs ++ [(0x5007, 2, 0)] }, d.raise 622 x.idx) else (x, d)
  else (x.set 3 none, d)

/-- SV (R138): state a = h, b = the bitmap of the 64 counts below h. -/
def Dev.dedupSv (d : Dev) (x : Pass) (s : TrvEntry) : Pass × Dev :=
  let rate := x.e.smpRate
  let c := x.smpCnt % rate
  let k := (c + rate - s.a % rate) % rate
  let b := (s.a + rate - c) % rate
  if s.first || s.inLoss then ({ x with state := some (c, 0) }, d)
  else if 1 ≤ k ∧ k ≤ rate / 2 - 1 then
    let x := { x with state := some (c, (s.b * 2 ^ k + 2 ^ (k - 1)) % 2 ^ 64) }
    if x.info.noASDU < k then
      ({ x with recs := x.recs ++ [(0x5008, 3, k - x.info.noASDU)] }, d.raise 623 x.idx)
    else (x, d)
  else if k = 0 then (x.set 3 none, d)
  else if b ≤ 64 then
    (if s.b.testBit (b - 1) then (x.set 3 none, d) else ({ x with state := some (s.a, setBits s.b (b - 1) (b - 1) 1) }, d))
  else
    let us := match x.lateness with | some l => (l / (65536 * 1000)).toNat % 2 ^ 32 | none => 0
    (x.set 4 (if x.v.testBit 4 then none else some (0x5009, 3, us)), d)

/-- Pyrlon (R139): state a = the highest count. -/
def Pass.dedupPyrlon (x : Pass) (s : TrvEntry) : Pass :=
  let c := leAt (pduOf x.bytes) 8 4
  if s.first || s.inLoss || newer32 c s.a then { x with state := some (c, 0) } else x.set 3 none

/-- deduplicate, against the stream state as it stands (R137 to R140). -/
def Dev.dedupStep (d : Dev) (x : Pass) : Pass × Dev :=
  match x.entry with
  | none => (x, d)
  | some i =>
    if !x.has 4 || x.egress || x.noCount then (x, d)
    else
      let live := d.entry i
      let s := if live.gen = x.e.gen then live else x.e
      match x.e.cls with
      | 1 => d.dedupGoose x s
      | 2 => d.dedupSv x s
      | 3 => (x.dedupPyrlon s, d)
      | _ => (x, d)

/-! ### Disposition (R130, R131) -/

/-- The action byte of a matrix for a verdict index. -/
def Dev.action (d : Dev) (matrix v : Nat) : Nat :=
  if matrix = 0 then (if v = 0 then 0x0F else if v = 0x08 then 0x08 else 0x10)
  else d.trv.disp.get (32 * matrix + v) 0

/-- Some entry of a loss group is in loss (R141). -/
def Dev.groupLost (d : Dev) (g : Nat) : Bool :=
  d.trv.entries.any (fun p => p.2.valid && !p.2.egress && p.2.inLoss && p.2.lossGrp == g)

/-- TRV_LOSS and the level of EV(576 + g). -/
def Dev.lossNote (d : Dev) (g : Nat) : Dev :=
  let b := d.groupLost g
  (d.wr TRV_LOSS_groups (setBits (d.rd TRV_LOSS_groups) g g (b2n b))).level (576 + g) b

/-- keep: the new state is stored and loss supervision refreshed; a frame of an older generation keeps nothing. -/
def Dev.keepState (d : Dev) (x : Pass) : Dev :=
  match x.entry with
  | none => d
  | some i =>
    let s := d.entry i
    if x.egress || s.gen != x.e.gen || !s.valid then d
    else
      let ab := x.state.getD (s.a, s.b)
      let d' := d.setEntry i { s with first := false, inLoss := false, kept := d.cclk, a := ab.1, b := ab.2 }
      if s.inLoss then (d'.trvRec i 0x5011 2 0).lossNote s.lossGrp else d'

/-! ### Output steps (R127, R142) -/

/-- The nominal time of the first sample in ns (R138, R153). -/
def Pass.nominal (x : Pass) (tick : Nat) : Nat :=
  if x.egress then x.itemTime
  else if x.noTime then tick
  else match x.e.cls with
    | 2 => (x.stamp * x.e.smpRate - x.svLate) / (65536 * x.e.smpRate)
    | 3 => (parsePyrlon (pduOf x.bytes)).time
    | _ => tick

/-- The samples of an SV frame: count, time in 2^-16 ns, the channels. -/
def Pass.svSamples (x : Pass) : List (Nat × Nat × List (Int × Bool)) :=
  let r := x.e.smpRate
  let t0 := x.stamp * r - x.svLate
  x.info.samples.mapIdx (fun j s => ((x.smpCnt + j) % r, (t0 + j * 10 ^ 9 * 65536) / r, s))

/-- The samples of a Pyrlon frame, decoded where it is coded (R203, R205); none on a decoding error (log entry 346). -/
def Pass.pyrlonSamples (x : Pass) : List (Nat × Nat × List (Int × Bool)) :=
  let p := pduOf x.bytes
  let h := parsePyrlon p
  let pay := slice p 0x1E h.len
  let blocks := if h.mode = 0 then .ok (rawBlocks h.width (h.chans * h.blocks) pay)
    else decodeBlocks h.mode h.order h.k h.bits (h.chans * h.blocks) pay
  match blocks with
  | .error _ => []
  | .ok bs => (List.range (64 * h.blocks)).map (fun n =>
    ((h.count + n) % 2 ^ 48, h.time * 65536 + n * rateDiv h.rate * 2 ^ h.dec * 25 * 65536 / 18,
      (List.range h.chans).map (fun c => (((bs.getD (n / 64 * h.chans + c) []).getD (n % 64) 0), true))))

/-- The samples of a frame by class. -/
def Pass.samples (x : Pass) : List (Nat × Nat × List (Int × Bool)) :=
  match x.e.cls with | 2 => x.svSamples | 3 => x.pyrlonSamples | _ => []

/-- The queue an enqueue step names. -/
def Pass.queueOf (x : Pass) (s : Nat) : Nat := (x.e.queue + bitsOf s 13 0) % 16384

/-- The queues that the enqueue steps after a resample or compress step name for its samples, up to the next such step (R127; log
entry 51). -/
def Pass.samplesTo (x : Pass) (later : List Nat) : List Nat :=
  ((later.takeWhile (fun t => stepOp t != 5 && stepOp t != 6)).filter (fun t => stepOp t == 7 && bitsOf t 15 14 == 3)).map x.queueOf

/-- resample. A frame of another class than 2 and 3 has no samples. A context number above 31 names no context: the step is discarded, counted and recorded under its low bits (R198; log
entry 346). -/
def Dev.resampleStep (d : Dev) (x : Pass) (later : List Nat) : Dev :=
  let k := rsmKey x.e.unit (x.e.ctx % 32)
  let modulus := if x.e.cls = 2 then x.e.smpRate else 2 ^ 48
  if 32 ≤ x.e.ctx ∨ !(d.rsmCtx k).valid then d.rsmDiscard k
  else if x.e.cls ≠ 2 ∧ x.e.cls ≠ 3 then d
  else
    let c := d.rsmCtx k
    (d.setRsm k { c with dests := x.samplesTo later }).rsmBlock k modulus (x.samples.map (fun s => (s.1, s.2.1, s.2.2.drop c.w2)))

/-- compress: on ingress to the coding units; on egress in place, which leaves one frame, none or several (R214). -/
def Dev.compressStep (d : Dev) (x : Pass) (s : Nat) (later : List Nat) : List Pass × Dev :=
  let o := etherOff x.bytes + 2
  if x.egress then
    let (ps, d) := d.wfcEgress x.e.ctx (s.testBit 0) x.e.auth x.idx (x.e.cls == 3) (pduOf x.bytes)
    (ps.map (fun p => { x with bytes := x.bytes.take o ++ p }), d)
  else
    ([x], d.wfcStep x.e.ctx { decode := s.testBit 0, pdu := pduOf x.bytes, dests := x.samplesTo later, entry := x.idx, dp := x.dp } (x.e.cls == 3))

/-- The samples of a frame that goes to queue `n` feed the orbits whose source that queue and channel are (R55): SV values have 2^31,
Pyrlon samples 2^15 or 2^17 at full scale (log entry 347). -/
def Dev.orbitFeed (d : Dev) (x : Pass) (n : Nat) : Dev :=
  let os := (List.range 4).filter (fun o => d.rd ORBn_SRC_kind o == 1 && d.rd ORBn_SRC_queue o == n && d.orbState o != 0)
  if x.egress || os.isEmpty then d
  else
    let full (v : Int) : Int :=
      if x.e.cls = 2 then v / 256 else v * (2 ^ (24 - (parsePyrlon (pduOf x.bytes)).bits) : Nat)
    os.foldl (fun d o => x.samples.foldl (fun d s =>
      match s.2.2[d.rd ORBn_SRC_channel o]? with
      | some (v, true) => d.orbSample o s.2.1 (full v)
      | _ => d) d) d

/-- enqueue. -/
def Dev.enqueueStep (d : Dev) (x : Pass) (s : Nat) : Dev :=
  let n := x.queueOf s
  let time := if (d.q n).kind = 0 then x.nominal d.tickTai else d.tickTai
  let pay := match bitsOf s 15 14 with
    | 0 => x.bytes
    | 1 => if x.e.cls = 3 then slice (pduOf x.bytes) 0x1E (leAt (pduOf x.bytes) 0x1C 2) else slice x.bytes x.info.apduOff x.info.apduLen
    | _ => []
  let d := d.orbitFeed x n
  if bitsOf s 15 14 = 3 then d else (d.hwEnqueueOrDrop n x.dp time pay).2

/-- forward; it carries no Pdelay message from another port (R104). -/
def Dev.forwardStep (d : Dev) (x : Pass) (s : Nat) : Dev :=
  let port := bitsOf s 3 0
  if 12 ≤ port ∨ !x.egress ∧ pdelayMsg x.bytes then d
  else (d.submit port 0 (s.testBit 4) x.bytes (if x.egress then none else some (x.dp, x.stamp))).2

/-- The device address of a stream counter (R127, TRV_CNT_BASE). -/
def Dev.counterAddr (d : Dev) (i c : Nat) : Nat := sbBase + d.rd TRV_CNT_BASE_base * 0x40000 + 16 * i + 4 * c

/-- count. -/
def Dev.countStep (d : Dev) (x : Pass) (s : Nat) : Dev :=
  match x.entry with
  | none => d
  | some i =>
    let m := bitsOf s 8 4
    if (if m = 0 then x.v == 0 else x.v &&& m != 0) then
      let a := d.counterAddr i (bitsOf s 1 0)
      let (st, b, d) := d.hwLoad x.dp a 4
      if st = .ok then (d.hwStore x.dp a (leBytes ((leValue b + 1) % 2 ^ 32) 4)).2 else d
    else d

/-- The source a raise-event step names. -/
def raiseSource (s evsrc : Nat) : Nat := (bitsOf s 9 0 + (if s.testBit 10 then evsrc else 0)) % 1024

/-- raise-event. -/
def Dev.raiseStep (d : Dev) (x : Pass) (s : Nat) : Dev :=
  if s.testBit 11 && (x.info.data.getLsbD (bitsOf s 15 12) != s.testBit 16) then d
  else d.raise (raiseSource s x.e.evsrc)

/-- One output step under an action byte; what it leaves of the frame. -/
def Dev.outputStep (d : Dev) (x : Pass) (act s : Nat) (later : List Nat) : List Pass × Dev :=
  match stepOp s with
  | 5 => ([x], if act.testBit 0 then d.resampleStep x later else d)
  | 6 => if act.testBit 0 then d.compressStep x s later else ([x], d)
  | 7 => ([x], if act.testBit 0 then d.enqueueStep x s else d)
  | 8 => ([x], if act.testBit 1 then d.forwardStep x s else d)
  | 9 => ([x], d.countStep x s)
  | 10 => ([x], if act.testBit 2 then d.raiseStep x s else d)
  | _ => ([x], d)

def Dev.outputSteps (act : Nat) : List Nat → Pass → Dev → Dev
  | [], _, d => d
  | s :: ss, x, d => let r := d.outputStep x act s ss; r.1.foldl (fun d x => Dev.outputSteps act ss x d) r.2

/-- Statistics and records of the verdict. -/
def Dev.verdictNotes (d : Dev) (x : Pass) (act : Nat) : Dev :=
  let d := [(2, 3), (3, 5), (4, 6), (1, 7)].foldl (fun d p => if x.v.testBit p.1 then d.trvStat x.dp p.2 else d) d
  if act.testBit 4 then x.recs.foldl (fun d r => d.trvRec x.idx r.1 r.2.1 r.2.2) d else d

/-- The disposition and the output steps of a frame. -/
def Dev.dispose (d : Dev) (x : Pass) : Dev :=
  let act := d.action x.e.dispo (x.v % 32)
  let d := d.verdictNotes x act
  let d := if act.testBit 3 then d.keepState x else d
  Dev.outputSteps act x.steps x d

/-- Frames of several datapaths in one CCLK run in the order of R25 (R140). -/
def dpOrder (rr : Nat) (l : List (Nat × Bool)) : List (Nat × Bool) :=
  (List.range 112).flatMap (fun k => l.filter (fun x => decide ((x.1 + 112 - rr % 112) % 112 = k)))

/-- The oldest frame in flight of a datapath runs its program. -/
def Dev.trvIngress (d : Dev) (dp : Nat) (authOver : Bool) : Dev :=
  match d.trv.flights.find? (·.dp == dp) with
  | none => d
  | some f =>
    let d := { d with trv := { d.trv with flights := d.trv.flights.erase f } }
    if d.brk = some 3 then (d.parityError pgSBF 3 0 dp).unstage f.vc f.plan
    else
    let x : Pass := { dp := dp, entry := f.entry, e := f.e, egress := false, bytes := f.h.bytes, info := f.h.info, stamp := f.h.stamp
                      itemTime := 0, steps := f.prog, v := b2n f.h.fcsBad }
    let x := match f.mal with
      | some o => (x.set 1 (some (0x5001, 3, o))).blank
      | none => x
    let x := (if f.mal.isSome then x else x.extract).stampStep d.tickTai
    let (x, d) := d.authStep x f.pipe authOver
    let (x, d) := d.dedupStep x
    (d.dispose x).unstage f.vc f.plan

/-! ### Egress (R143, R157) -/

/-- The lowest datapath of an egress entry. -/
def TrvEntry.datapath (e : TrvEntry) : Nat := (lowestBit e.ports 12).getD 0

/-- The program of an egress item, its frame structure as the cited standards read it. -/
def Dev.egressProgram (d : Dev) (e : TrvEntry) (i : Nat) (bytes : List Byte) (time : Nat) (info : FrameMeta) : Dev :=
  let dp := e.datapath
  let vc := d.trvVc e
  match d.stage vc (ceilDiv (max 1 bytes.length) 256) with
  | (none, d) => d
  | (some plan, d) =>
    let x : Pass := { dp := dp, entry := some i, e := e, egress := true, bytes := bytes, info := info, stamp := 0, itemTime := time
                      steps := d.program e.prog (e.len + 1) }
    let x := x.extract.stampStep d.tickTai
    let (x, d) := d.authStep x (d.pipeFor dp true) false
    (d.dispose x).unstage vc plan

/-- A queue bound to an egress entry starts the entry's program for its next item; a void item is skipped, and each item
is freed in turn. -/
def Dev.trvEgress (d : Dev) (n : Nat) (info : FrameMeta) : Dev :=
  let q := d.q n
  let e := d.entry q.consId
  if !q.valid || q.consKind != 1 || q.unclaimed == 0 || q.claimed != 0 || !(e.valid && e.egress) then d
  else
    let (st, b, d) := d.hwLoad e.datapath (q.slotAddr q.cons) q.slot
    let h := parseHdr b
    let d := d.claimItems n 1
    let d := if st ≠ .ok then d.completeAt n 0 0xFE st.code 0 else if h.flags.testBit 3 then d else d.egressProgram e q.consId (slice b 16 h.len) h.time info
    d.freeItems n 1

/-! ### Commits (R126, R128) -/

/-- Steps `prog` to `prog` + `len` hold a reserved op, or an output step before an authenticate or deduplicate step, or a
raise-event step for a source outside the two ranges. -/
def Dev.programBad (d : Dev) (prog len evsrc : Nat) : Bool :=
  let ss := d.program prog (len + 1)
  let isOut (s : Nat) : Bool := [5, 6, 7, 8, 10].contains (stepOp s)
  let isJudge (s : Nat) : Bool := stepOp s == 3 || stepOp s == 4
  decide (4095 < prog + len) || ss.any (fun s => stepOp s == 0 || decide (11 ≤ stepOp s)) ||
    (List.range (len + 1)).any (fun i => isOut (ss.getD i 0) && (ss.drop (i + 1)).any isJudge) ||
    ss.any (fun s => stepOp s == 10 &&
      (let v := bitsOf s 9 0 + (if s.testBit 10 then evsrc else 0)
       !((decide (512 ≤ v) && decide (v ≤ 575)) || (decide (624 ≤ v) && decide (v ≤ 639)))))

/-- A reserved field or code. -/
def TrvEntry.reservedBad (e : TrvEntry) : Bool :=
  e.w0.testBit 20 || e.keyKind == 3 || bitsOf e.w5 19 14 != 0 || bitsOf e.w6 15 10 != 0 || decide (6 ≤ e.auth) ||
    decide (12 ≤ e.unit) || (if e.egress then e.w1 != 0 || e.w2 != 0 || e.w3 != 0 || e.w4 != 0 else decide (5 ≤ e.rate))

/-- The entry's key sits at index `i` (R124). -/
def TrvEntry.sits (e : TrvEntry) (i : Nat) : Bool :=
  let b := buckets e.key
  (decide (b.1 ≤ i) && decide (i < b.1 + 4)) || (decide (b.2 ≤ i) && decide (i < b.2 + 4))

/-- A valid ingress entry elsewhere has the same key and kind and a common port. -/
def Dev.trvDuplicate (d : Dev) (i : Nat) (e : TrvEntry) : Bool :=
  !e.egress && d.trv.entries.any (fun p => p.1 != i && p.2.valid && !p.2.egress && p.2.keyKind == e.keyKind && p.2.key == e.key &&
    (p.2.ports &&& e.ports) != 0)

def Dev.trvStaged (d : Dev) : TrvEntry :=
  let w (k : Nat) : Nat := d.rd TRV_ENT_Wk_word k
  { w0 := w 0, w1 := w 1, w2 := w 2, w3 := w 3, w4 := w 4, w5 := w 5, w6 := w 6, w7 := w 7 }

/-- The refusal of a commit of a valid entry. -/
def Dev.commitStatus (d : Dev) (i : Nat) (e : TrvEntry) : Status :=
  let bad := e.reservedBad || (!e.egress && !e.sits i) || d.programBad e.prog e.len e.evsrc ||
    (e.egress && (setBitsOf e.ports 12).length != 1)
  pickStatus [if bad then .badParam else .ok, if d.trvDuplicate i e then .duplicate else .ok]

/-- Replaces an entry: the generation steps, the state is reset; EV(576 + g) follows. -/
def Dev.replaceEntry (d : Dev) (i : Nat) (e : TrvEntry) : Dev :=
  let old := d.entry i
  let d := d.setEntry i { e with gen := (old.gen + 1) % 256, kept := d.cclk, first := true }
  if old.inLoss then d.lossNote old.lossGrp else d

def Dev.trvCommit (d : Dev) : Status × Dev :=
  let i := d.rd TRV_ENT_SEL_index
  let e := d.trvStaged
  let st := if e.valid then d.commitStatus i e else .ok
  if st ≠ .ok then (st, d) else (.ok, (d.replaceEntry i e).rowWritten pgTRV i)

def Dev.trvInvalidate (d : Dev) : Status × Dev :=
  let i := d.rd TRV_ENT_SEL_index
  let e := d.entry i
  (.ok, (d.replaceEntry i { e with w0 := setBits e.w0 31 31 0, inLoss := false, a := 0, b := 0 }).rowWritten pgTRV i)

def Dev.trvEntryRead (d : Dev) : Status × Dev :=
  let e := d.entry (d.rd TRV_ENT_SEL_index)
  (.ok, ([e.w0, e.w1, e.w2, e.w3, e.w4, e.w5, e.w6, e.w7].mapIdx (fun k w => (k, w))).foldl (fun d p => d.wr TRV_ENT_Wk_word p.2 p.1) d)

def Dev.trvEntryCmd (d : Dev) (v : Nat) : Status × Dev :=
  match bitsOf v 1 0 with
  | 0 => (.ok, d)
  | 1 => d.trvCommit
  | 2 => d.trvInvalidate
  | _ => d.trvEntryRead

/-- The reference count of a step (R128). -/
def Dev.stepRefs (d : Dev) (i : Nat) : Nat :=
  let covers (prog len : Nat) : Bool := decide (prog ≤ i) && decide (i ≤ prog + len)
  (d.trv.entries.filter (fun p => p.2.valid && covers p.2.prog p.2.len)).length +
    ((List.range 12).filter (fun k => d.flag TRV_MISSd_en k && covers (d.rd TRV_MISSd_prog k) (d.rd TRV_MISSd_len k))).length

def Dev.trvStepWrite (d : Dev) (v : Nat) : Status × Dev :=
  let i := d.rd TRV_STEP_SEL_index
  if d.stepRefs i ≠ 0 then (.busy, d) else (.ok, { d with trv := { d.trv with steps := d.trv.steps.set i v 0 } }.rowWritten pgTRV (stepRow i))

def Dev.trvMissWrite (d : Dev) (k v : Nat) : Status × Dev :=
  if v.testBit 31 ∧ d.programBad (bitsOf v 11 0) (bitsOf v 24 21) 0 then (.badParam, d) else d.plainWrite pgTRV (0x100 + 4 * k) v

def Dev.trvDispWrite (d : Dev) (k v : Nat) : Status × Dev :=
  let m := d.rd TRV_DISP_SEL_matrix
  if m = 0 then (.ok, d)
  else (.ok, (List.range 4).foldl (fun d j =>
    { d with trv := { d.trv with disp := d.trv.disp.set (32 * m + 4 * k + j) (v / 256 ^ j % 32) 0 } }) d)

/-- TRV_KEY_CUR_ID to TRV_KEY_NEXT_SLOT. -/
def Dev.trvKeyWrite (d : Dev) (f v : Nat) : Status × Dev :=
  let v := if f % 2 = 1 then setBits (v % 256) 31 31 (v / 2 ^ 31) else v
  (.ok, { d with trv := { d.trv with keys := d.trv.keys.set (4 * d.rd TRV_KEY_SEL_index + f) v 0 } })

/-! ### Pipelines of the sequencer (R134) -/

/-- The claim of a pipeline for an enabled map. -/
def Dev.cplClaim (d : Dev) (p : Nat) : Status × Dev :=
  let set := d.rd TRV_CPL_MAPp_ingress p ||| d.rd TRV_CPL_MAPp_egress p
  match lowestBit set 12 with
  | none => (.busy, d.wr TRV_CPL_MAPp_held 0 p)
  | some id =>
    if d.rd LOCK_owner 0 (pgCPL p) = 0xFF then (.ok, (d.lockChange (pgCPL p) id).wr TRV_CPL_MAPp_held 1 p)
    else (.busy, d.wr TRV_CPL_MAPp_held 0 p)

/-- TRV_CPL_MAPp. -/
def Dev.cplMapWrite (d : Dev) (p v : Nat) : Status × Dev :=
  let clash := v.testBit 31 && (List.range 8).any (fun k => k != p && d.flag TRV_CPL_MAPp_en k &&
    ((bitsOf v 11 0 &&& d.rd TRV_CPL_MAPp_ingress k) != 0 || (bitsOf v 23 12 &&& d.rd TRV_CPL_MAPp_egress k) != 0))
  if clash then (.badParam, d)
  else
    let d := (d.plainWrite pgTRV (0x0E0 + 4 * p) v).2
    if v.testBit 31 ∧ !d.flag TRV_CPL_MAPp_held p then d.cplClaim p else (.ok, d)

/-- The sequencer releases a pipeline of a disabled map once no frame is bound to it. -/
def Dev.cplMapRelease (d : Dev) (p : Nat) : Dev :=
  if d.flag TRV_CPL_MAPp_held p && !d.flag TRV_CPL_MAPp_en p && !d.trv.flights.any (fun f => f.pipe == some p) then
    (d.wr TRV_CPL_MAPp_held 0 p).lockChange (pgCPL p) 0xFF
  else d

/-! ### Loss supervision (R141) -/

/-- The scanner visits one entry. -/
def Dev.lossScan (d : Dev) (i : Nat) : Dev :=
  let e := d.entry i
  if e.valid && !e.egress && e.lossTo != 0 && !e.inLoss && decide (e.kept + e.lossTo * cclkPerMs ≤ d.cclk) then
    ((d.setEntry i { e with inLoss := true }).trvRec i 0x5010 5 0).lossNote e.lossGrp
  else d

/-! ### Registers -/

def Dev.trvWrite (d : Dev) (off v : Nat) : Status × Dev :=
  match off with
  | 0x04C => d.trvEntryCmd v
  | 0x078 => d.trvStepWrite v
  | 0x0C4 => d.trvKeyWrite 0 v
  | 0x0C8 => d.trvKeyWrite 1 v
  | 0x0CC => d.trvKeyWrite 2 v
  | 0x0D0 => d.trvKeyWrite 3 v
  | _ =>
    if 0x0A0 ≤ off ∧ off < 0x0C0 then d.trvDispWrite ((off - 0x0A0) / 4) v
    else if 0x0E0 ≤ off ∧ off < 0x100 then d.cplMapWrite ((off - 0x0E0) / 4) v
    else if 0x100 ≤ off ∧ off < 0x130 then d.trvMissWrite ((off - 0x100) / 4) v
    else d.plainWrite pgTRV off v

/-- The value of the selected statistic. -/
def Dev.trvStatValue (d : Dev) : Nat := d.trv.stat.get (8 * d.rd TRV_STAT_SEL_datapath + d.rd TRV_STAT_SEL_index) 0

/-- The registers that TRV computes; none for a stored one. -/
def Dev.trvView (d : Dev) (off : Nat) : Option Nat :=
  let e := d.entry (d.rd TRV_ENT_SEL_index)
  let m := d.rd TRV_DISP_SEL_matrix
  match off with
  | 0x070 => some (b2n e.inLoss * 2 ^ 31 + b2n e.first * 2 ^ 30 + e.gen * 2 ^ 16)
  | 0x078 => some (d.trvStep (d.rd TRV_STEP_SEL_index))
  | 0x07C => some (d.stepRefs (d.rd TRV_STEP_SEL_index))
  | 0x0C4 => some (d.trv.keys.get (4 * d.rd TRV_KEY_SEL_index) 0)
  | 0x0C8 => some (d.trv.keys.get (4 * d.rd TRV_KEY_SEL_index + 1) 0)
  | 0x0CC => some (d.trv.keys.get (4 * d.rd TRV_KEY_SEL_index + 2) 0)
  | 0x0D0 => some (d.trv.keys.get (4 * d.rd TRV_KEY_SEL_index + 3) 0)
  | _ =>
    if 0x0A0 ≤ off ∧ off < 0x0C0 then
      some ((List.range 4).foldl (fun s j => s + d.action m (off - 0x0A0 + j) * 256 ^ j) 0)
    else none

end Sys2Proof.Machine
end

