-- ==== Sys2Proof/Machine/Start.lean ====
section
/-! DEFINITION. Manifests, bivouac mode and BOOT_OK (R349 to R355). -/

namespace Sys2Proof.Machine

open Sys2Proof

/-- The header is the 128 bytes that hold these fields (R349; their places are not given, log entry 484). -/
def manifestHeaderOk (m : Manifest) : Bool :=
  m.header == leBytes (Config.manifestHeader m.version m.uid m.role m.wide (m.images.map (fun i => (i.load, i.digest)))).toNat 128

/-- The key that the life-cycle state names signed the manifest's header: firmware the vendor's, a station manifest the
current owner's in OWNED and the vendor's before; none in RETIRED (R349, R355). -/
def Dev.manifestSigned (d : Dev) (m : Manifest) (firmware : Bool) : Bool :=
  let signer := if firmware || d.lcc != 2 then 0 else 1
  d.lcc != 3 && manifestHeaderOk m && d.keyNamed signer m.pk && slhVerify (slhOf m.set) m.pk [] m.header m.sig

/-- The device_uid field is zero or this device's (R349). -/
def Dev.manifestHere (d : Dev) (m : Manifest) : Bool :=
  m.uid.all (fun b => b == 0) || m.uid == d.rfg.otp.uid

/-- Every image listed has its digest (R349). -/
def Manifest.imagesOk (images : List Image) : Bool := images.all (fun i => sha3_256 i.data == i.digest)

/-- The bivouac cause a manifest leads to, 0 when it is accepted: 2 for signature, digest or device, 3 for the security
version (R349). -/
def Dev.manifestCause (d : Dev) (m : Manifest) (firmware : Bool) : Nat :=
  if !d.manifestSigned m firmware || !d.manifestHere m || !Manifest.imagesOk m.images then 2
  else if m.version < d.secver then 3
  else 0

/-- What an attestation statement says of an accepted manifest: SHA3-256 over its header and signature (R361). -/
def manifestDigest (m : Manifest) : List Byte := sha3_256 (m.header ++ m.sig)

/-- The pages that bivouac mode holds in reset: every port but M0, HST, TRV; and the units that do not run in it: CNV, WFC, RSM,
CPL, PKE, HSH (R352). -/
def bivouacPages : List Nat :=
  [0x010, 0x011, 0x012, 0x013, 0x014, 0x015, 0x016, 0x017, 0x019, 0x01A, 0x01B, 0x01C, 0x020, 0x030, 0x031, 0x040, 0x041, 0x042, 0x043,
   0x044, 0x045, 0x046, 0x047, 0x048, 0x049, 0x04A, 0x04B, 0x070, 0x071, 0x072, 0x073, 0x074, 0x075, 0x076, 0x077, 0x078, 0x079]

/-- A page is held in reset. -/
def Dev.holdReset (d : Dev) (page : Nat) : Dev :=
  let d := d.softReset page
  { d with inReset := d.inReset.set page 2 0 }

/-- Every engine is STOPPED. -/
def Dev.stopEngines (d : Dev) : Dev :=
  (List.range 96).foldl (fun d e => if d.engState e = 0 then d else d.engStop e) d

/-- A mirror update is due (R426). -/
def Dev.mirrorTrigger (d : Dev) : Dev := { d with evr := { d.evr with mirrorDue := true } }

/-- The Refuge reloads the slots whose copies `p` picks (R346): device keys, and sealed ones wrapped under the present seed. -/
def Dev.reload (d : Dev) (sealed : Bool) : Dev :=
  d.rfg.copies.foldl (fun d e =>
    let p := bitsOf e.2.2.attr 11 10
    if p = 2 ∨ (sealed ∧ p = 1 ∧ !d.bkd.seed.isEmpty ∧ e.2.1 = d.bkd.seed) then d.setSlot e.1 e.2.2 else d) d

/-- Bivouac mode begins, with the record code behind its cause (R352). From stage 0 the Refuge reloads the device slots first. A RETIRED device, which runs the same way, has
cause 0 and writes no record (R355). -/
def Dev.enterBivouac (d : Dev) (cause detail : Nat) : Dev :=
  let d := if d.rd RFG_STAGE_stage = 0 then d.reload false else d
  let d := (d.stopEngines).nfcFieldOff
  let d := bivouacPages.foldl Dev.holdReset d
  let d := ((d.wr HST_LINK_up 0).wr HST_LINK_width 0).wr HST_LINK_speed 0
  let d := { d with bivouac := true, rfg := { d.rfg with baseDone := true } }
  let d := ((d.wr RFG_STAGE_stage 5).wr RFG_BOOT_CAUSE_cause cause).wr RFG_BOOT_CAUSE_detail detail
  let d := if cause = 0 then d else d.refugeRec 0xC003 7 cause 0
  (d.placeStatement).mirrorTrigger

/-- A device that has become RETIRED goes over to its bivouac-like mode (R355). -/
def Dev.retiredNow (d : Dev) : Dev := if d.lcc = 3 ∧ !d.bivouac ∧ d.sys.powered then d.enterBivouac 0 0 else d

/-- The failed-start counter in flash, as RFG_BOOT_CAUSE shows it (R350). -/
def Dev.setFails (d : Dev) (n : Nat) : Dev :=
  ({ d with rfg := { d.rfg with fails := n } }).wr RFG_BOOT_CAUSE_fails n

/-- CCLK cycles since the release of reset. -/
def Dev.sinceReset (d : Dev) : Nat := d.cclk - d.rfg.releasedAt

/-- RFG_BOOT_OK (R351). -/
def Dev.bootOk (d : Dev) (v : Nat) : Status × Dev :=
  let stage := d.rd RFG_STAGE_stage
  let st := pickStatus [
    if stage < 3 then .notReady else .ok,
    if bitsOf v 7 0 = 0x5A then .ok else .badParam,
    if 4 ≤ stage then .lifecycle else .ok,
    if 30 * cclkPerS ≤ d.sinceReset then .timeout else .ok]
  if st ≠ .ok then (st, d)
  else
    let d := ((d.wr RFG_STAGE_stage 4).setFails 0).refugeRec 0xC001 1 (d.sinceReset / cclkPerMs) 0
    (.ok, ((d.placeStatement).mirrorTrigger).islMix)

/-- At the first tick 30 s after the release of reset without BOOT_OK the device warm-resets (R351); the record outlives
the reset (log entry 483). -/
def Dev.bootOkExpiry (d : Dev) : Dev :=
  if d.rd RFG_STAGE_stage < 4 ∧ 30 * cclkPerS ≤ d.sinceReset then
    (d.warmReset causeBootTimeout).direct pgRFG (d.mkRec 0xC002 5 3 0x7E ⟨d.rd RFG_STAGE_stage, 1, 0⟩)
  else d

end Sys2Proof.Machine
end

