-- ==== Sys2Proof/Machine/Access.lean ====
section
/-! DEFINITION. What a write to each register of each page does and what a read of it gives (R7, R49, R116, R285 to R289 and the
register sections of the chapters). -/

namespace Sys2Proof.Machine

open Sys2Proof

/-! ### Writes -/

/-- The interrupt bits of a page: 31 and 30 everywhere, and those its chapter defines (R287, R320, R333, R341, R407). -/
def irqMask (b : Blk) : Nat :=
  0xC0000000 + match b with
    | .hsh => 1
    | .cpl | .pke => 3
    | .flc => 15
    | _ => 0

/-- IRQ_EN. -/
def Dev.irqEnWrite (d : Dev) (b : Blk) (page v : Nat) : Dev :=
  let before := d.irqLine page
  (d.wr IRQ_EN_bits (v &&& irqMask b) 0 page).irqNote page before

/-- IRQ_SET. -/
def Dev.irqSetWrite (d : Dev) (b : Blk) (page v : Nat) : Dev :=
  let before := d.irqLine page
  (d.wr IRQ_STAT_bits (d.rd IRQ_STAT_bits 0 page ||| (v &&& irqMask b)) 0 page).irqNote page before

/-- IRQ_STAT: ones clear; a message follows while other enabled bits remain and the host has cleared some (R117). -/
def Dev.irqClearWrite (d : Dev) (r : Req) (page v : Nat) : Dev :=
  let old := d.rd IRQ_STAT_bits 0 page
  let d := d.wr IRQ_STAT_bits (old - (old &&& v)) 0 page
  if r = .hst ∧ old &&& v ≠ 0 ∧ d.irqLine page ≠ 0 then (d.vectorsOf page).foldl Dev.msix d else d

/-- A write to a page's header or to a mirror offset. Registers the table gives no write, and mirror offsets, ignore it. -/
def Dev.headerWrite (d : Dev) (r : Req) (b : Blk) (page off v : Nat) : Status × Dev :=
  match off with
  | 0x008 => d.ctrlWrite page v
  | 0x014 => (.ok, d.irqEnWrite b page v)
  | 0x018 => (.ok, d.irqClearWrite r page v)
  | 0x01C => (.ok, d.irqSetWrite b page v)
  | 0x020 => if v % 4 = 3 then (.badParam, d) else d.plainWrite page off v
  | 0x024 => d.lockWrite r page v
  | _ => (.ok, d)

/-- SYS (R518, R520): key 0xA5C3 in SYS_RST_CMD resets, SYS_EXT_RST drives RESET_OUT_N. -/
def Dev.sysWrite (d : Dev) (off v : Nat) : Status × Dev :=
  match off with
  | 0x04C => (.ok, if bitsOf v 31 16 = 0xA5C3 then d.warmReset causeCmd else d)
  | 0x050 =>
    let r := d.plainWrite pgSYS off v
    (r.1, r.2.resetOutSettle)
  | _ => d.plainWrite pgSYS off v

/-- RFG (R351, R359, R360). -/
def Dev.rfgWrite (d : Dev) (off v : Nat) : Status × Dev :=
  match off with
  | 0x048 => d.bootOk v
  | 0x04C => if bitOf v 0 then d.nonceRequest else (.ok, d)
  | 0x070 => (.ok, if bitOf v 30 then d.dbgEnd 3 else d)
  | _ => d.plainWrite pgRFG off v

/-- DBG_MBOX_DATA: four bytes more, up to 65,536 (R539). -/
def Dev.mboxData (d : Dev) (v : Nat) : Status × Dev :=
  let m := d.jtag.mbox
  if 65536 ≤ m.length then (.full, d)
  else (.ok, (({ d with jtag := { d.jtag with mbox := m ++ leBytes v 4 } }).wr DBG_MBOX_STAT_count (m.length + 4)).wr
    DBG_MBOX_STAT_done 0)

/-- DBG_MBOX_CTRL.go: the Refuge executes the first `len` bytes, and the mailbox is then empty (R539). -/
def Dev.mboxGo (d : Dev) (v : Nat) (env : CmdEnv) : Status × Dev :=
  if !bitOf v 31 then (.ok, d)
  else
    let m := d.jtag.mbox
    let n := bitsOf v 16 0
    if m.length < n then (.badParam, d)
    else
      let (st, d) := ({ d with jtag := { d.jtag with mbox := [] } }).execSigned (m.take n) env
      if !d.sys.powered then (.ok, d)
      else (.ok, (((d.wr DBG_MBOX_STAT_count 0).wr DBG_MBOX_STAT_done 1).wr DBG_MBOX_STAT_status st.code).retiredNow)

/-- DBG. -/
def Dev.dbgWrite (d : Dev) (off v : Nat) (env : CmdEnv) : Status × Dev :=
  match off with
  | 0x040 => d.mboxData v
  | 0x044 => d.mboxGo v env
  | _ => d.plainWrite pgDBG off v

/-- A write to a block register. -/
def Dev.blockWrite (d : Dev) (r : Req) (b : Blk) (inst page off v : Nat) (env : CmdEnv) : Status × Dev :=
  match b with
  | .sys => d.sysWrite off v
  | .dbg => d.dbgWrite off v env
  | .tim => d.timWrite off v
  | .orb => d.orbWrite off v
  | .evm => d.evmWrite r off v
  | .pit => d.pitWrite off v
  | .bio => d.bioWrite off v
  | .tou => d.touWrite off v
  | .prt | .mgp => d.portWrite (portOfPage page) off v
  | .trv => d.trvWrite off v
  | .qmg => d.qmgWrite r off v
  | .sbf => d.sbfWrite off v
  | .cnv => d.cnvWrite off v
  | .wfc => d.wfcWrite off v
  | .rsm => d.rsmWrite inst off v
  | .clu => d.cluWrite r inst off v
  | .drc => d.drcWrite inst off v
  | .mce => d.mceWrite off v
  | .cpl => d.cplWrite inst off v
  | .pke => d.pkeWrite off v
  | .hsh => d.hshWrite off v
  | .rfg => d.rfgWrite off v
  | .tmp => d.tmpWrite off v
  | .bkd => d.bkdWrite off v
  | .flc => d.flcWrite r off v
  | .evr => d.evrWrite off v
  | .crd => d.crdWrite off v
  | .nfc => d.nfcWrite off v
  | .isd => d.isdWrite off v
  | .eng => d.engPageWrite inst off v
  | .hst | .trn | .lcc | .rop => d.plainWrite page off v

/-- The effect of a write that has passed the checks. -/
def Dev.writeEffect (d : Dev) (r : Req) (page off v : Nat) (env : CmdEnv) : Status × Dev :=
  match pageBlock page with
  | none => (.denied, d)
  | some (b, inst) =>
    if off < 0x040 ∨ 0x800 ≤ off then d.headerWrite r b page off v
    else d.blockWrite r b inst page off v env

def noEnv : CmdEnv := ⟨[], [], [], none, false⟩

/-- A job that a write ended, by a release or an abort, leaves ST_ABORTED in STATUS (R310, R320, R333, R335, R337, R341; log
entry 355). -/
def Dev.jobNote (d was : Dev) (page off : Nat) : Dev :=
  if 0x24 ≤ off ∧ was.lockJob page ∧ !d.lockJob page then d.wr STATUS_last_status Status.aborted.code 0 page else d

/-- A register write: the checks of R285 to R289, the effect, the status. -/
def Dev.pageWrite (d : Dev) (r : Req) (page off v : Nat) (env : CmdEnv := noEnv) : Dev :=
  (d.guardedWrite r page off (fun d => d.writeEffect r page off v env)).jobNote d page off

/-! ### Reads -/

/-- The bits of a register that read: a WO field reads 0 (R7). -/
def RegDesc.readMask (g : RegDesc) (v : Nat) : Nat :=
  g.fields.foldl (fun w f => if f.acc = .wo then setBits w f.hi f.lo 0 else w) v

/-- The word with its RC fields cleared. -/
def RegDesc.rcCleared (g : RegDesc) (v : Nat) : Nat :=
  g.fields.foldl (fun w f => if f.acc = .rc then setBits w f.hi f.lo 0 else w) v

/-- Registers each requester has its own copy of (R175, R278, R391). -/
def ownReg (b : Blk) (off : Nat) : Bool :=
  match b with
  | .qmg => off == 0x040 || (decide (0x044 ≤ off) && decide (off < 0x054)) || off == 0x088 || off == 0x08C || off == 0x094 || off == 0x09C
  | .clu => off == 0x040 || (decide (0x050 ≤ off) && decide (off < 0x064))
  | .flc => decide (0x044 ≤ off) && decide (off < 0x098)
  | _ => false

/-- The key of the register that requester `r` sees at an offset. -/
def ownKey (b : Blk) (r : Req) (page off : Nat) : Nat := regKey page off + (if ownReg b off then bankKey (reqId r) else 0)

/-- An orbit tracker's registers that show its state (R59 to R61). -/
def Dev.orbView (d : Dev) (n k : Nat) : Option Nat :=
  let o := d.orbit n
  match k with
  | 0x14 => some (o.f.toNat % 2 ^ 32)
  | 0x18 => some (unsigned 32 o.a)
  | 0x1C => some (unsigned 16 (divFree o.e 65536))
  | 0x28 => some (min 0xFFFF o.ampl)
  | _ => none

/-- PIT's windows on the selected term of the inactive bank (R78). -/
def Dev.pitView (d : Dev) (off : Nat) : Option Nat :=
  let t := d.pitTerm (!d.pit.active) (d.rd PIT_SEL_term)
  if 0x050 ≤ off ∧ off < 0x060 then
    let k := (off - 0x050) / 4
    some ((t.lits.getD (2 * k) 0).toNat + (t.lits.getD (2 * k + 1) 0).toNat * 65536)
  else if off = 0x060 then some (t.omask.toNat % 2 ^ 32)
  else if off = 0x064 then some (t.omask.toNat / 2 ^ 32)
  else none

/-- BIO's levels and the edge time of the selected input (R75). -/
def Dev.bioView (d : Dev) (off : Nat) : Option Nat :=
  let i := d.rd BIO_ETIME_SEL_input
  let b := d.bi i
  if off = 0x044 then some (b2n b.accLevel * 2 ^ 24 + b.accOff % 64 * 2 ^ 16 + i)
  else if 0x060 ≤ off ∧ off < 0x070 then some (d.evm.level.toNat / 2 ^ (128 + 8 * (off - 0x060)) % 2 ^ 32)
  else none

/-- The value of a register that a block computes from its state; none for the stored word. -/
def Dev.view (d : Dev) (r : Req) (b : Blk) (inst off : Nat) : Option Nat :=
  match b with
  | .tim => if off = 0x05C then some (unsigned 32 (divFree d.tim.rem (2 ^ 32))) else none
  | .orb => if 0x040 ≤ off ∧ off < 0x140 then d.orbView ((off - 0x040) / 0x40) ((off - 0x040) % 0x40) else none
  | .evm =>
    if off = 0x048 then some (d.srcCfg (d.rd EVM_SRC_SEL_src))
    else if off = 0x058 then some (d.csel (d.rd EVM_CSEL_SEL_index)) else none
  | .pit => d.pitView off
  | .bio => d.bioView off
  | .tou =>
    if off = 0x040 then some (d.tou.energised.toNat % 2 ^ 32)
    else if off = 0x044 then some (d.tou.energised.toNat / 2 ^ 32) else none
  | .trv => d.trvView off
  | .cnv => if off = 0x380 then some d.laneUpMask else none
  | .rsm => d.rsmView inst off
  | .wfc => d.wfcView off
  | .clu => (d.cluView r inst off).map (·.1)
  | .rfg => if off = 0x070 then some (setBits (d.word (regKey pgRFG off)) 29 23 d.holdOffLeft) else none
  | .nfc => d.nfcView off
  | .isd => d.isdView off
  | _ => none

/-- A register pair that latches (R49 and the chapters): the offset that latches the other, and the pair's two values at a CCLK
`c` after the last the model has reached. -/
def Dev.latchedPair (d : Dev) (r : Req) (b : Blk) (inst page off c : Nat) : Option (Nat × Nat × Nat) :=
  let wide (hi v : Nat) : Option (Nat × Nat × Nat) := some (hi, v % 2 ^ 32, v / 2 ^ 32 % 2 ^ 32)
  let words (hi : Nat) : Option (Nat × Nat × Nat) := some (hi, d.word (regKey page off), d.word (regKey page hi))
  match b, off with
  | .tim, 0x050 => wide 0x054 (d.counterAt c / 2 ^ 32)
  | .tim, 0x070 => words 0x074
  | .tim, 0x080 => words 0x084
  | .bio, 0x048 => wide 0x04C (d.bi (d.rd BIO_ETIME_SEL_input)).accTick
  | .prt, 0x094 => wide 0x098 ((d.port (portOfPage page)).cnt.get
      (64 * d.rd PRT_CNT_SEL_subport 0 (portOfPage page) + d.rd PRT_CNT_SEL_index 0 (portOfPage page)) 0)
  | .mgp, 0x094 => wide 0x098 ((d.port (portOfPage page)).cnt.get (d.rd PRT_CNT_SEL_index 0 (portOfPage page)) 0)
  | .hst, 0x048 => words 0x04C
  | .trv, 0x148 => wide 0x14C d.trvStatValue
  | .qmg, 0x0A8 => wide 0x0AC (d.qmg.stat.get (d.rd QMG_STAT_SEL_index) 0)
  | .cnv, 0x514 => wide 0x518 d.cnvStatValue
  | .rsm, 0x068 => wide 0x06C (d.rsm.stat.get
      (4 * (32 * inst + d.rd RSM_STAT_SEL_ctx 0 inst) + d.rd RSM_STAT_SEL_index 0 inst) 0)
  | .wfc, 0x078 => wide 0x07C (d.wfc.stat.get (8 * d.rd WFC_STAT_SEL_ctx + d.rd WFC_STAT_SEL_index) 0)
  | .clu, 0x06C => wide 0x070 (d.relOf (d.relSel r inst)).target
  | .drc, 0x04C => words 0x050
  | .mce, 0x04C => words 0x050
  | .isd, 0x134 => wide 0x138 d.isdStatValue
  | .bkd, 0x054 => words 0x050
  | .orb, _ =>
    if 0x040 ≤ off ∧ off < 0x140 ∧ (off - 0x040) % 0x40 = 0x20 then
      wide (off + 4) (d.orbSteps ((off - 0x040) / 0x40))
    else none
  | _, _ => none

/-- The offsets that return what a pair has latched. -/
def latchedHigh (b : Blk) (off : Nat) : Bool :=
  match b with
  | .tim => off == 0x054 || off == 0x074 || off == 0x084
  | .orb => decide (0x040 ≤ off) && decide (off < 0x140) && (off - 0x040) % 0x40 == 0x24
  | .bio | .hst => off == 0x04C
  | .prt | .mgp => off == 0x098
  | .trv => off == 0x14C
  | .qmg => off == 0x0AC
  | .cnv => off == 0x518
  | .rsm => off == 0x06C
  | .wfc => off == 0x07C
  | .clu => off == 0x070
  | .drc | .mce | .bkd => off == 0x050
  | .isd => off == 0x138
  | _ => false

/-- Where a pair's latched half is kept: for CLU each requester has its own. -/
def latchKey (b : Blk) (r : Req) (page hi : Nat) : Nat := regKey page hi + (if b = .clu then bankKey (reqId r) else 0)

/-- A read of the half that latches. -/
def Dev.pairRead (d : Dev) (b : Blk) (r : Req) (page : Nat) (p : Nat × Nat × Nat) : Status × Nat × Dev :=
  (.ok, p.2.1, { d with pairHi := d.pairHi.set (latchKey b r page p.1) (BitVec.ofNat 32 p.2.2) 0 })

/-- The RC fields of a stored word clear on its read (R7); the peak use of a pool becomes its use now (R166). -/
def Dev.storedRead (d : Dev) (r : Req) (b : Blk) (page off : Nat) : Status × Nat × Dev :=
  match findReg b off with
  | none => (.ok, 0, d)
  | some g =>
    let key := ownKey b r page off
    let v := d.word key
    let d := if g.fields.any (fun f => f.acc == .rc) then d.setWord key (g.rcCleared v) else d
    let d := if b = .sbf ∧ 0x060 ≤ off ∧ off < 0x070 then d.poolPeak ((off - 0x060) / 4) else d
    (.ok, g.readMask v, d)

/-- Registers whose read does something of its own; none for the others. -/
def Dev.readAct (d : Dev) (r : Req) (b : Blk) (page off : Nat) : Option (Status × Nat × Dev) :=
  let ok (x : Nat × Dev) : Option (Status × Nat × Dev) := some (.ok, x.1, x.2)
  match b with
  | .prt | .mgp => if 0x070 ≤ off ∧ off < 0x080 then ok (d.tsRead (portOfPage page) ((off - 0x070) / 4)) else none
  | .qmg => if (0x058 ≤ off ∧ off < 0x078) ∨ off = 0x0A0 then ok (d.qmgRead r off) else none
  | .cnv => if off = 0x504 then ok d.tplRead else none
  | .wfc => if off = 0x064 then ok d.wfcHdrRead else none
  | .pke =>
    if off = 0x094 then some (d.pkeDataRead (reqId r))
    else if off = 0x084 ∨ off = 0x088 then ok (d.pkeCtxRead ((off - 0x084) / 4)) else none
  | .cpl =>
    if 0x064 ≤ off ∧ off < 0x084 ∧ d.rd LOCK_owner 0 page ≠ reqId r then some (.ok, 0, d) else none
  | .nfc => if off = 0x07C then ok ((d.nfcView off).getD 0, d.nfcNoteNext) else none
  | .bkd =>
    if off = 0x05C then ok d.bkdLogRead
    else if off = 0x06C then ok d.bkdVaultRead else none
  | _ => none

/-- A read of a mirror offset: the inverted copy of a shadowed register, 0 elsewhere (R289). -/
def Dev.mirrorRead (d : Dev) (b : Blk) (page off : Nat) : Nat :=
  let x := off - 0x800
  if isShadowed b x then (2 ^ 32 - 1 - d.word (regKey page x)) ^^^ (d.shadow.get (regKey page x) 0).toNat else 0

/-- IRQ_RAW: bit 31 STATUS.fault, bit 1 of a pipeline key_ready; the other bits mark a moment and read 0 (R287, R320; log entry 349). -/
def Dev.irqRaw (d : Dev) (b : Blk) (inst page : Nat) : Nat :=
  b2n (d.flag STATUS_fault 0 page) * 2 ^ 31 + (if b = .cpl then 2 * b2n (d.flag CPL_STAT_key_ready 0 inst) else 0)

/-- The effect and value of a read that has passed the checks. -/
def Dev.readEffect (d : Dev) (r : Req) (page off c : Nat) : Status × Nat × Dev :=
  match pageBlock page with
  | none => (.denied, 0, d)
  | some (b, inst) =>
    if 0x800 ≤ off then (.ok, d.mirrorRead b page off, d)
    else if off = 0x010 then (.ok, d.irqRaw b inst page, d)
    else match d.readAct r b page off with
      | some x => x
      | none =>
        match d.latchedPair r b inst page off c with
        | some p => d.pairRead b r page p
        | none =>
          if latchedHigh b off then (.ok, (d.pairHi.get (latchKey b r page off) 0).toNat, d)
          else match d.view r b inst off with
            | some v => (.ok, v, d)
            | none => d.storedRead r b page off

/-- A register read: the checks of R285 to R289, the value, the side effect. -/
def Dev.pageRead (d : Dev) (r : Req) (page off : Nat) (c : Nat := 0) : Dev :=
  d.guardedRead r page off (fun d => d.readEffect r page off c)

end Sys2Proof.Machine
end

