-- ==== Sys2Proof/Machine/EngAlu.lean ====
section
/-! DEFINITION. The scalar, MAC and vector instructions of an engine: one definition each (R241, R242, R245 to R247). -/

namespace Sys2Proof.Machine

open Sys2Proof

/-! ### Scalar ALU (R241) -/

def Dev.opAdd (d : Dev) (e rd rs rt : Nat) : Dev := d.put e rd (addC (d.flags e) (d.gr e rs) (d.gr e rt) 0)
def Dev.opSub (d : Dev) (e rd rs rt : Nat) : Dev := d.put e rd (subB (d.flags e) (d.gr e rs) (d.gr e rt) 0)
def Dev.opAddc (d : Dev) (e rd rs rt : Nat) : Dev :=
  d.put e rd (addC (d.flags e) (d.gr e rs) (d.gr e rt) (b2n (Fl.c (d.flags e))))
def Dev.opSubc (d : Dev) (e rd rs rt : Nat) : Dev :=
  d.put e rd (subB (d.flags e) (d.gr e rs) (d.gr e rt) (1 - b2n (Fl.c (d.flags e))))
def Dev.opAdds (d : Dev) (e rd rs rt : Nat) : Dev := d.put e rd (addSat (d.flags e) (d.gr e rs) (d.gr e rt))
def Dev.opSubs (d : Dev) (e rd rs rt : Nat) : Dev := d.put e rd (subSat (d.flags e) (d.gr e rs) (d.gr e rt))
def Dev.opAnd (d : Dev) (e rd rs rt : Nat) : Dev := d.put e rd (logic (d.flags e) (d.gr e rs &&& d.gr e rt))
def Dev.opOr (d : Dev) (e rd rs rt : Nat) : Dev := d.put e rd (logic (d.flags e) (d.gr e rs ||| d.gr e rt))
def Dev.opXor (d : Dev) (e rd rs rt : Nat) : Dev := d.put e rd (logic (d.flags e) (d.gr e rs ^^^ d.gr e rt))
def Dev.opAndn (d : Dev) (e rd rs rt : Nat) : Dev := d.put e rd (logic (d.flags e) (d.gr e rs &&& ~~~ d.gr e rt))
def Dev.opSll (d : Dev) (e rd rs rt : Nat) : Dev := d.put e rd (shl (d.flags e) (d.gr e rs) ((d.gr e rt).toNat % 64))
def Dev.opSrl (d : Dev) (e rd rs rt : Nat) : Dev := d.put e rd (shrL (d.flags e) (d.gr e rs) ((d.gr e rt).toNat % 64))
def Dev.opSra (d : Dev) (e rd rs rt : Nat) : Dev := d.put e rd (shrA (d.flags e) (d.gr e rs) ((d.gr e rt).toNat % 64))
def Dev.opSlli (d : Dev) (e rd rs sa : Nat) : Dev := d.put e rd (shl (d.flags e) (d.gr e rs) sa)
def Dev.opSrli (d : Dev) (e rd rs sa : Nat) : Dev := d.put e rd (shrL (d.flags e) (d.gr e rs) sa)
def Dev.opSrai (d : Dev) (e rd rs sa : Nat) : Dev := d.put e rd (shrA (d.flags e) (d.gr e rs) sa)
def Dev.opMul (d : Dev) (e rd rs rt : Nat) : Dev := d.put e rd (logic (d.flags e) (d.gr e rs * d.gr e rt))
def Dev.opMulh (d : Dev) (e rd rs rt : Nat) : Dev :=
  d.put e rd (logic (d.flags e) (BitVec.ofInt 32 ((d.gr e rs).toInt * (d.gr e rt).toInt / 2 ^ 32)))
def Dev.opMulhu (d : Dev) (e rd rs rt : Nat) : Dev :=
  d.put e rd (logic (d.flags e) (BitVec.ofNat 32 ((d.gr e rs).toNat * (d.gr e rt).toNat / 2 ^ 32)))
def Dev.opMin (d : Dev) (e rd rs rt : Nat) : Dev :=
  let x := d.gr e rs
  let y := d.gr e rt
  d.put e rd (logic (d.flags e) (if x.toInt ≤ y.toInt then x else y))
def Dev.opMax (d : Dev) (e rd rs rt : Nat) : Dev :=
  let x := d.gr e rs
  let y := d.gr e rt
  d.put e rd (logic (d.flags e) (if x.toInt ≤ y.toInt then y else x))
def Dev.opAbs (d : Dev) (e rd rs : Nat) : Dev := d.put e rd (absSat (d.flags e) (d.gr e rs))
def Dev.opClz (d : Dev) (e rd rs : Nat) : Dev := d.put e rd (logic (d.flags e) (BitVec.ofNat 32 (clz32 (d.gr e rs))))
def Dev.opExt (d : Dev) (e rd rs sa : Nat) : Dev := d.put e rd (logic (d.flags e) (extend sa (d.gr e rs)))
def Dev.opCmp (d : Dev) (e rs rt : Nat) : Dev := d.setFlags e (subB (d.flags e) (d.gr e rs) (d.gr e rt) 0).2
def Dev.opTst (d : Dev) (e rs rt : Nat) : Dev := d.setFlags e (logic (d.flags e) (d.gr e rs &&& d.gr e rt)).2
def Dev.opMov (d : Dev) (e rd rs : Nat) : Dev := d.setGr e rd (d.gr e rs)
def Dev.opSel (d : Dev) (e rd rs rt cond : Nat) : Dev :=
  d.setGr e rd (if Fl.holds (d.flags e) cond then d.gr e rs else d.gr e rt)
def Dev.opRev (d : Dev) (e rd rs sa : Nat) : Dev := d.put e rd (logic (d.flags e) (revBits sa (d.gr e rs)))

/-! ### Immediates and constants (R242) -/

/-- A signed immediate of `w` bits, in 32 bits. -/
def sxt (w n : Nat) : Word := BitVec.ofInt 32 (signed w n)

def Dev.opAddi (d : Dev) (e rd rs imm : Nat) : Dev := d.put e rd (addC (d.flags e) (d.gr e rs) (sxt 15 imm) 0)
def Dev.opAndi (d : Dev) (e rd rs imm : Nat) : Dev := d.put e rd (logic (d.flags e) (d.gr e rs &&& BitVec.ofNat 32 imm))
def Dev.opOri (d : Dev) (e rd rs imm : Nat) : Dev := d.put e rd (logic (d.flags e) (d.gr e rs ||| BitVec.ofNat 32 imm))
def Dev.opXori (d : Dev) (e rd rs imm : Nat) : Dev := d.put e rd (logic (d.flags e) (d.gr e rs ^^^ BitVec.ofNat 32 imm))
def Dev.opCmpi (d : Dev) (e rs imm : Nat) : Dev := d.setFlags e (subB (d.flags e) (d.gr e rs) (sxt 15 imm) 0).2
def Dev.opLdhi (d : Dev) (e rd imm : Nat) : Dev := d.setGr e rd (BitVec.ofNat 32 (imm * 4096))
def Dev.opLdi (d : Dev) (e rd imm : Nat) : Dev := d.setGr e rd (sxt 20 imm)

/-! ### Scalar MAC (R245) -/

def Dev.opMac (d : Dev) (e a rs rt : Nat) : Dev := d.setAcc e a (d.acc e a + (d.gr e rs).toInt * (d.gr e rt).toInt)
def Dev.opMsu (d : Dev) (e a rs rt : Nat) : Dev := d.setAcc e a (d.acc e a - (d.gr e rs).toInt * (d.gr e rt).toInt)
def Dev.opMula (d : Dev) (e a rs rt : Nat) : Dev := d.setAcc e a ((d.gr e rs).toInt * (d.gr e rt).toInt)
def Dev.opMacu (d : Dev) (e a rs rt : Nat) : Dev := d.setAcc e a (d.acc e a + ((d.gr e rs).toNat * (d.gr e rt).toNat : Nat))
def Dev.opClra (d : Dev) (e a : Nat) : Dev := d.setAcc e a 0
def Dev.opMova (d : Dev) (e a rs : Nat) : Dev := d.setAcc e a (d.gr e rs).toInt
def Dev.opAsum (d : Dev) (e a : Nat) : Dev := d.setAcc e a (d.acc e 0 + d.acc e 1 + d.acc e 2 + d.acc e 3)

/-- (v + r) >> sh with r = 2^(sh - 1), or 0 for sh = 0. -/
def roundShift (v : Int) (sh : Nat) : Int := (v + (if sh = 0 then 0 else (2 ^ (sh - 1) : Nat))) / (2 ^ sh : Nat)

def Dev.setQ32 (d : Dev) (e : Nat) (s : Bool) : Dev := d.setFlags e (Fl.sat (d.flags e) s)

def Dev.opRda (d : Dev) (e rd a sh : Nat) : Dev :=
  let s := satInt 32 (roundShift (d.acc e a) sh)
  (d.setGr e rd (BitVec.ofInt 32 s.1)).setQ32 e s.2
def Dev.opRdah (d : Dev) (e rd a sh : Nat) : Dev :=
  let s := satInt 16 (roundShift (d.acc e a) sh)
  (d.setGr e rd (BitVec.ofInt 32 s.1)).setQ32 e s.2

/-! ### Vector ALU (R246) -/

def Dev.opVadd (d : Dev) (e vd vs vt : Nat) (sz : Bool) : Dev := d.setVr e vd (mapEls sz (· + ·) (d.vr e vs) (d.vr e vt))
def Dev.opVsub (d : Dev) (e vd vs vt : Nat) (sz : Bool) : Dev := d.setVr e vd (mapEls sz (· - ·) (d.vr e vs) (d.vr e vt))

/-- An operation that saturates every element; Q is set when one did. -/
def Dev.vecSat (d : Dev) (e vd vs vt : Nat) (sz : Bool) (f : Int → Int → Int) : Dev :=
  let l := (List.range (elN sz)).map (fun i => satInt (elW sz) (f (elS sz (d.vr e vs) i) (elS sz (d.vr e vt) i)))
  (d.setVr e vd (vecOf sz (l.map (·.1)))).setQ32 e (l.any (·.2))

def Dev.opVadds (d : Dev) (e vd vs vt : Nat) (sz : Bool) : Dev := d.vecSat e vd vs vt sz (· + ·)
def Dev.opVsubs (d : Dev) (e vd vs vt : Nat) (sz : Bool) : Dev := d.vecSat e vd vs vt sz (· - ·)
def Dev.opVhadd (d : Dev) (e vd vs vt : Nat) (sz : Bool) : Dev :=
  d.setVr e vd (mapEls sz (fun x y => (x + y + 1) / 2) (d.vr e vs) (d.vr e vt))
def Dev.opVhsub (d : Dev) (e vd vs vt : Nat) (sz : Bool) : Dev :=
  d.setVr e vd (mapEls sz (fun x y => (x - y + 1) / 2) (d.vr e vs) (d.vr e vt))
def Dev.opVand (d : Dev) (e vd vs vt : Nat) : Dev := d.setVr e vd (d.vr e vs &&& d.vr e vt)
def Dev.opVor (d : Dev) (e vd vs vt : Nat) : Dev := d.setVr e vd (d.vr e vs ||| d.vr e vt)
def Dev.opVxor (d : Dev) (e vd vs vt : Nat) : Dev := d.setVr e vd (d.vr e vs ^^^ d.vr e vt)
def Dev.opVmin (d : Dev) (e vd vs vt : Nat) (sz : Bool) : Dev := d.setVr e vd (mapEls sz min (d.vr e vs) (d.vr e vt))
def Dev.opVmax (d : Dev) (e vd vs vt : Nat) (sz : Bool) : Dev := d.setVr e vd (mapEls sz max (d.vr e vs) (d.vr e vt))
def Dev.opVabs (d : Dev) (e vd vs : Nat) (sz : Bool) : Dev :=
  d.vecSat e vd vs vs sz (fun x _ => if x < 0 then -x else x)
def Dev.opVsll (d : Dev) (e vd vs : Nat) (sz : Bool) (sh : Nat) : Dev :=
  d.setVr e vd (mapEls sz (fun x _ => x * (2 ^ sh : Nat)) (d.vr e vs) 0)
def Dev.opVsrl (d : Dev) (e vd vs : Nat) (sz : Bool) (sh : Nat) : Dev :=
  d.setVr e vd (mapEls sz (fun x _ => (unsigned (elW sz) x / 2 ^ sh : Nat)) (d.vr e vs) 0)
def Dev.opVsra (d : Dev) (e vd vs : Nat) (sz : Bool) (sh : Nat) : Dev :=
  d.setVr e vd (mapEls sz (fun x _ => x / (2 ^ sh : Nat)) (d.vr e vs) 0)
def Dev.opVmov (d : Dev) (e vd vs : Nat) : Dev := d.setVr e vd (d.vr e vs)

/-! ### Vector MAC -/

/-- The product of lane i, or the sum of its two products. -/
def laneProduct (sz : Bool) (x y : BitVec 128) (i : Nat) : Int :=
  if sz then elS true x (2 * i) * elS true y (2 * i) + elS true x (2 * i + 1) * elS true y (2 * i + 1)
  else elS false x i * elS false y i

def Dev.vecAcc (d : Dev) (e : Nat) (f : Nat → Int) : Dev := (List.range 4).foldl (fun s i => s.setAcc e i (f i)) d

def Dev.opVmul (d : Dev) (e vs vt : Nat) (sz : Bool) : Dev := d.vecAcc e (laneProduct sz (d.vr e vs) (d.vr e vt))
def Dev.opVmac (d : Dev) (e vs vt : Nat) (sz : Bool) : Dev :=
  d.vecAcc e (fun i => d.acc e i + laneProduct sz (d.vr e vs) (d.vr e vt) i)
def Dev.opVmsu (d : Dev) (e vs vt : Nat) (sz : Bool) : Dev :=
  d.vecAcc e (fun i => d.acc e i - laneProduct sz (d.vr e vs) (d.vr e vt) i)
def Dev.opVclr (d : Dev) (e : Nat) : Dev := d.vecAcc e (fun _ => 0)
def Dev.opVrnd (d : Dev) (e vd : Nat) (sz : Bool) (sh : Nat) : Dev :=
  let l := (List.range 4).map (fun i => satInt (elW sz) (roundShift (d.acc e i) sh))
  let v := if sz then vecOf true ((l.map (fun p => [p.1, 0])).flatten) else vecOf false (l.map (·.1))
  (d.setVr e vd v).setQ32 e (l.any (·.2))
def Dev.opVcmul (d : Dev) (e vd vs vt sh : Nat) : Dev :=
  let x := d.vr e vs
  let y := d.vr e vt
  let l := ((List.range 4).map (fun i =>
    let a := elS true x (2 * i)
    let b := elS true x (2 * i + 1)
    let c := elS true y (2 * i)
    let g := elS true y (2 * i + 1)
    [satInt 16 (roundShift (a * c - b * g) sh), satInt 16 (roundShift (a * g + b * c) sh)])).flatten
  (d.setVr e vd (vecOf true (l.map (·.1)))).setQ32 e (l.any (·.2))

/-! ### Vector moves -/

def Dev.opVbcast (d : Dev) (e vd rs : Nat) (sz : Bool) : Dev :=
  d.setVr e vd (vecOf sz (List.replicate (elN sz) (d.gr e rs).toInt))
def Dev.opVins (d : Dev) (e vd idx rs : Nat) (sz : Bool) : Dev := d.setVr e vd (setEl sz (d.vr e vd) idx (d.gr e rs).toInt)
def Dev.opVext (d : Dev) (e rd vs idx : Nat) (sz : Bool) : Dev := d.setGr e rd (BitVec.ofInt 32 (elS sz (d.vr e vs) idx))

/-! ### Address generators (R243) -/

def Dev.opAgset (d : Dev) (e m field rs : Nat) : Fx :=
  let x := d.gen e m
  let v := d.gr e rs
  match field with
  | 0 => .next (d.setGen e m { x with base := v })
  | 1 => .next (d.setGen e m { x with len := v })
  | 2 => .next (d.setGen e m { x with step := v })
  | 3 => .next (d.setGen e m { x with idx := v })
  | _ => if v.toNat % 4 = 3 then .exc d 4 m 0 else .next (d.setGen e m { x with mode := v.toNat % 4 })
def Dev.opAgget (d : Dev) (e rd m field : Nat) : Dev :=
  let x := d.gen e m
  d.setGr e rd (match field with
    | 0 => x.base
    | 1 => x.len
    | 2 => x.step
    | 3 => x.idx
    | _ => BitVec.ofNat 32 x.mode)

/-- agadd: bit-reversed mode raises the address-generator fault (R227). -/
def Dev.opAgadd (d : Dev) (e m imm : Nat) : Fx :=
  let x := d.gen e m
  if x.mode = 2 then .exc d 4 m 0 else .next (d.setGen e m (x.advance (signed 13 imm)))

end Sys2Proof.Machine
end

