-- ==== Sys2Proof/Machine/EngMem.lean ====
section
/-! DEFINITION. The memory instructions of an engine: loads, stores, generators, vectors, atomics (R226 to R231, R242, R243, R279 to
R283, R294, R296, R301). -/

namespace Sys2Proof.Machine

open Sys2Proof

/-! ### One access -/

/-- The statuses that an engine receives as a bus error (R257). -/
def busError (st : Status) : Bool :=
  [Status.denied, .faultDetected, .eraseSuspended, .indeterminate, .notReady].contains st

/-- A load or store of the register page window: its page and offset. -/
def pageOfAddr (a : Nat) : Nat × Nat := ((a - 0xF0000000) / 4096, a % 4096)

/-- What stops an access to a register page before the page sees it (R279, R283, R296). -/
def Dev.pageGuard (d : Dev) (e a n : Nat) (v : MemEnv) : Status × Dev :=
  let page := (pageOfAddr a).1
  if n ≠ 4 ∨ (pageBlock page).isNone then (.denied, d)
  else if v.parity then (.faultDetected, d.parityError page 2 a (0x10 + e))
  else (.ok, d)

/-- The status and data that the last access answered. -/
def Dev.answered (d : Dev) : Status × Nat := (d.resp.status.getD .ok, d.resp.data.toNat)

/-- A load from a register page. A status that no bus error carries leaves the value open: a free value (log entry 100). -/
def Dev.pageLoad (d : Dev) (e : Fin 96) (a n : Nat) (v : MemEnv) : Status × Nat × Dev :=
  let g := d.pageGuard e a n v
  if g.1 ≠ .ok then (g.1, 0, g.2)
  else
    let d := g.2.pageRead (.eng e) (pageOfAddr a).1 (pageOfAddr a).2
    let r := d.answered
    if r.1 = .ok then (.ok, r.2, d)
    else if busError r.1 then (r.1, 0, d)
    else
      let x := d.draw .memory
      (.ok, x.1 % 2 ^ 32, x.2)

/-- A store to a register page. A refused write is discarded, with its status in STATUS; only an unassigned page, a parity error
and a shadow mismatch are bus errors (R285, R289). -/
def Dev.pageStore (d : Dev) (e : Fin 96) (a : Nat) (bs : List Byte) (v : MemEnv) : Status × Dev :=
  let g := d.pageGuard e a bs.length v
  if g.1 ≠ .ok then g
  else
    let d := g.2.pageWrite (.eng e) (pageOfAddr a).1 (pageOfAddr a).2 (leValue bs)
    (if d.answered.1 = .faultDetected then .faultDetected else .ok, d)

/-- An engine loads `n` bytes at its address `a` (R280 to R283). -/
def Dev.engLoad (d : Dev) (e : Fin 96) (a n : Nat) (v : MemEnv) : Status × Nat × Dev :=
  if 0xF0000000 ≤ a then d.pageLoad e a n v
  else
    let m := d.engMap e false a n
    if m.1 ≠ .ok then (m.1, 0, d)
    else
      let g := d.memGuard (0x10 + e) m.2 v
      if g.1 ≠ .ok then (g.1, 0, g.2) else g.2.memLoad (.eng e) m.2 n

/-- An engine stores bytes at its address `a`. -/
def Dev.engStore (d : Dev) (e : Fin 96) (a : Nat) (bs : List Byte) (v : MemEnv) : Status × Dev :=
  if 0xF0000000 ≤ a then d.pageStore e a bs v
  else
    let m := d.engMap e true a bs.length
    if m.1 ≠ .ok then (m.1, d)
    else
      let g := d.memGuard (0x10 + e) m.2 v
      if g.1 ≠ .ok then g else g.2.memStore (.eng e) m.2 bs v.rivals

/-- The exception of an access that misses its alignment, or whose answer is a bus error; else what follows (R239). -/
def loadThen (x : Status × Nat × Dev) (a : Nat) (k : Nat → Dev → Fx) : Fx :=
  if x.1 = .ok then k x.2.1 x.2.2 else .exc x.2.2 6 a x.1.code
def storeThen (x : Status × Dev) (a : Nat) (k : Dev → Fx) : Fx :=
  if x.1 = .ok then k x.2 else .exc x.2 6 a x.1.code

/-! ### Scalar loads and stores (R243) -/

/-- The width in bytes of op 0 to 7 of majors 7 and 8. -/
def opWidth (op : Nat) : Nat := match op with | 0 | 5 => 4 | 1 | 2 | 6 => 2 | _ => 1

/-- The register value of a loaded one: ldw, ldh, ldhu, ldb, ldbu. -/
def loaded (op v : Nat) : Word :=
  match op with
  | 1 => BitVec.ofInt 32 (signed 16 v)
  | 3 => BitVec.ofInt 32 (signed 8 v)
  | _ => BitVec.ofNat 32 v

/-- A scalar load or store of op 0 to 7 at an address, then `k`. -/
def Dev.scalarAt (d : Dev) (e : Fin 96) (op rd a : Nat) (v : MemEnv) (k : Dev → Dev) : Fx :=
  if a % opWidth op ≠ 0 then .exc d 5 a 0
  else if op < 5 then loadThen (d.engLoad e a (opWidth op) v) a (fun x d => .next (k (d.setGr e rd (loaded op x))))
  else storeThen (d.engStore e a (leBytes (d.gr e rd).toNat (opWidth op)) v) a (fun d => .next (k d))

/-- Major 7: rs + sext(imm12). -/
def Dev.opMem (d : Dev) (e : Fin 96) (op rd rs imm : Nat) (v : MemEnv) : Fx :=
  d.scalarAt e op rd ((d.gr e rs + BitVec.ofInt 32 (signed 12 imm)).toNat) v id

/-- The post-update of a generator. -/
def Dev.bumpGen (d : Dev) (e m : Nat) (upd : Bool) : Dev := if upd then d.setGen e m (d.gen e m).next else d

/-- Major 8: base + index, then the update. -/
def Dev.opAg (d : Dev) (e : Fin 96) (op rd m : Nat) (upd : Bool) (v : MemEnv) : Fx :=
  let x := d.gen e m
  if !x.valid then .exc d 4 m 0 else d.scalarAt e op rd x.addr v (fun d => d.bumpGen e m upd)

/-! ### Vectors (R228, R229) -/

/-- The addresses of the elements of a vector access in modulo mode in data memory. -/
def Gen.elements (x : Gen) (es : Nat) : List Nat :=
  (List.range (16 / es)).map (fun j => (x.base.toNat + (x.idx.toNat + j * es) % x.len.toNat) % 2 ^ 32)

/-- The access wraps within a circular buffer in data memory. -/
def Gen.circular (x : Gen) : Bool := x.mode == 1 && decide (x.addr < 0x20000)

/-- The misaligned address of a vector access, if it is one. -/
def Gen.misaligned (x : Gen) (es : Nat) : Option Nat :=
  if x.circular then (x.elements es).find? (fun a => a % es != 0)
  else if x.addr < 0x20000 then (if x.addr % es = 0 then none else some x.addr)
  else if x.addr % 16 ≠ 0 ∨ (x.mode = 1 ∧ x.len.toNat < x.idx.toNat + 16) then some x.addr
  else none

/-- Loads element by element, the first at the lowest place. -/
def Dev.loadElements (d : Dev) (e : Fin 96) (es : Nat) (v : MemEnv) : List Nat → Status × Nat × Dev
  | [] => (.ok, 0, d)
  | a :: as =>
    let x := d.engLoad e a es v
    if x.1 ≠ .ok then x
    else
      let y := x.2.2.loadElements e es ⟨false, 0, [], []⟩ as
      (y.1, x.2.1 + 2 ^ (8 * es) * y.2.1, y.2.2)

/-- Stores element by element; every element lies in data memory or none is stored. -/
def Dev.storeElements (d : Dev) (e : Fin 96) (es w : Nat) (v : MemEnv) (as : List Nat) : Status × Dev :=
  if as.any (fun a => decide (0x20000 < a + es)) then (.denied, d)
  else (.ok, ((List.range as.length).zip as).foldl (fun d p =>
    (d.engStore e p.2 (leBytes (w / 2 ^ (8 * es * p.1)) es) { v with parity := false, ecc := 0 }).2) d)

/-- vld, vst. -/
def Dev.opVec (d : Dev) (e : Fin 96) (store : Bool) (vd m : Nat) (sz upd : Bool) (v : MemEnv) : Fx :=
  let x := d.gen e m
  let es := elW sz / 8
  if !x.valid then .exc d 4 m 0
  else match x.misaligned es with
    | some a => .exc d 5 a 0
    | none =>
      if store then
        let w := (d.vr e vd).toNat
        storeThen (if x.circular then d.storeElements e es w v (x.elements es) else d.engStore e x.addr (leBytes w 16) v) x.addr
          (fun d => .next (d.bumpGen e m upd))
      else
        loadThen (if x.circular then d.loadElements e es v (x.elements es) else d.engLoad e x.addr 16 v) x.addr
          (fun w d => .next ((d.setVr e vd (BitVec.ofNat 128 w)).bumpGen e m upd))

/-- vldr: one element, placed in every element. -/
def Dev.opVldr (d : Dev) (e : Fin 96) (vd m : Nat) (sz upd : Bool) (v : MemEnv) : Fx :=
  let x := d.gen e m
  let es := elW sz / 8
  if !x.valid then .exc d 4 m 0
  else if x.addr % es ≠ 0 then .exc d 5 x.addr 0
  else loadThen (d.engLoad e x.addr es v) x.addr
    (fun w d => .next ((d.setVr e vd (vecOf sz (List.replicate (elN sz) (w : Int)))).bumpGen e m upd))

/-! ### Atomics (R231) -/

/-- atswap, atadd, atcas (op 0, 1, 2) on the word at rs. -/
def Dev.opAtomic (d : Dev) (e : Fin 96) (op rd rs rt : Nat) (v : MemEnv) : Fx :=
  let a := (d.gr e rs).toNat
  if a % 4 ≠ 0 then .exc d 5 a 0
  else if !(decide (a < 0x20000) || (decide (0x100000 ≤ a) && decide (a < 0x200000))) then .exc d 6 a Status.denied.code
  else loadThen (d.engLoad e a 4 v) a (fun old d =>
    let o := BitVec.ofNat 32 old
    let new := match op with
      | 0 => d.gr e rt
      | 1 => o + d.gr e rt
      | _ => if o = d.gr e rd then d.gr e rt else o
    let s := if op = 2 ∧ o ≠ d.gr e rd then (Status.ok, d) else d.engStore e a (leBytes new.toNat 4) { v with parity := false, ecc := 0 }
    storeThen s a (fun d => .next (d.setGr e rd o)))

end Sys2Proof.Machine
end

