-- ==== Sys2Proof/Machine/EngDecode.lean ====
section
/-! DEFINITION. The encodings of Stovar code: which words and halfwords are instructions, what each does, which unit it takes (R232 to
R234, R241 to R247). A reserved code, and a reserved or unused field that is not zero, is no instruction (log entry 101). -/

namespace Sys2Proof.Machine

open Sys2Proof

/-- An instruction that only computes. -/
def alu (ok : Bool) (d : Dev) : Option Fx := if ok then some (.next d) else none

/-- One that may do more. -/
def does (ok : Bool) (x : Fx) : Option Fx := if ok then some x else none

/-- Major 0 (R241). -/
def Dev.execR (d : Dev) (e w : Nat) : Option Fx :=
  let rd := fRd w
  let rs := fRs w
  let rt := fRt w
  let sa := fSa w
  let s := sa == 0
  let t := rt == 0
  match fFn w with
  | 0 => alu s (d.opAdd e rd rs rt)
  | 1 => alu s (d.opSub e rd rs rt)
  | 2 => alu s (d.opAddc e rd rs rt)
  | 3 => alu s (d.opSubc e rd rs rt)
  | 4 => alu s (d.opAdds e rd rs rt)
  | 5 => alu s (d.opSubs e rd rs rt)
  | 6 => alu s (d.opAnd e rd rs rt)
  | 7 => alu s (d.opOr e rd rs rt)
  | 8 => alu s (d.opXor e rd rs rt)
  | 9 => alu s (d.opAndn e rd rs rt)
  | 10 => alu s (d.opSll e rd rs rt)
  | 11 => alu s (d.opSrl e rd rs rt)
  | 12 => alu s (d.opSra e rd rs rt)
  | 13 => alu t (d.opSlli e rd rs sa)
  | 14 => alu t (d.opSrli e rd rs sa)
  | 15 => alu t (d.opSrai e rd rs sa)
  | 16 => alu s (d.opMul e rd rs rt)
  | 17 => alu s (d.opMulh e rd rs rt)
  | 18 => alu s (d.opMulhu e rd rs rt)
  | 19 => alu s (d.opMin e rd rs rt)
  | 20 => alu s (d.opMax e rd rs rt)
  | 21 => alu (s && t) (d.opAbs e rd rs)
  | 22 => alu (s && t) (d.opClz e rd rs)
  | 23 => alu (t && decide (sa < 4)) (d.opExt e rd rs sa)
  | 24 => alu (s && rd == 0) (d.opCmp e rs rt)
  | 25 => alu (s && rd == 0) (d.opTst e rs rt)
  | 26 => alu (s && t) (d.opMov e rd rs)
  | 27 => alu (decide (sa < 16)) (d.opSel e rd rs rt sa)
  | 28 => alu t (d.opRev e rd rs sa)
  | _ => none

/-- Major 10 (R243). -/
def Dev.execAg (d : Dev) (e w : Nat) : Option Fx :=
  let r := fRd w
  let m := bitsOf w 21 19
  let f := bitsOf w 18 16
  let imm := bitsOf w 14 2
  if bitOf w 15 then alu (decide (f < 5) && imm == 0) (d.opAgget e r m f)
  else if f < 5 then does (imm == 0) (d.opAgset e m f r)
  else if f = 7 then does (r == 0) (d.opAgadd e m imm)
  else none

/-- Major 15 (R244). -/
def Dev.execSys (d : Dev) (e w nx : Nat) : Option Fx :=
  let rd := fRd w
  let rs := fRs w
  let n := bitsOf w 14 7
  let z := bitsOf w 26 7 == 0
  match fFn w with
  | 0 => does z (.next d)
  | 1 => does (rd == 0 && rs == 0 && bitsOf w 16 15 == 0) (d.opTrap e n nx)
  | 2 => does z (d.opEret e)
  | 3 => does (rs == 0) (d.opMfs e rd (bitsOf w 16 7) w)
  | 4 => does (rd == 0) (d.opMts e (bitsOf w 16 7) rs w)
  | 5 => does z (d.opWfe e)
  | 6 => does z (.next d)
  | _ => none

/-- Major 16 (R245). -/
def Dev.execMac (d : Dev) (e w : Nat) : Option Fx :=
  let rd := fRd w
  let rs := fRs w
  let rt := fRt w
  let a := bitsOf w 8 7
  let sh := bitsOf w 16 11
  let z := bitsOf w 10 9 == 0
  let three := z && rd == 0 && !bitOf w 11
  let none' := z && rd == 0 && rs == 0 && sh == 0
  match fFn w with
  | 0 => alu three (d.opMac e a rs rt)
  | 1 => alu three (d.opMsu e a rs rt)
  | 2 => alu three (d.opMula e a rs rt)
  | 3 => alu three (d.opMacu e a rs rt)
  | 4 => alu none' (d.opClra e a)
  | 5 => alu (three && rt == 0) (d.opMova e a rs)
  | 6 => alu (z && rs == 0) (d.opRda e rd a sh)
  | 7 => alu (z && rs == 0) (d.opRdah e rd a sh)
  | 8 => alu none' (d.opAsum e a)
  | _ => none

/-- Major 17 (R246). -/
def Dev.execVec (d : Dev) (e w : Nat) : Option Fx :=
  let vd := bitsOf w 26 23
  let vs := bitsOf w 22 19
  let vt := bitsOf w 18 15
  let sz := bitOf w 14
  let sh := bitsOf w 13 8
  let z := !bitOf w 7
  let s := z && sh == 0
  let t := z && vt == 0 && decide (sh < elW sz)
  match fFn w with
  | 0 => alu s (d.opVadd e vd vs vt sz)
  | 1 => alu s (d.opVsub e vd vs vt sz)
  | 2 => alu s (d.opVadds e vd vs vt sz)
  | 3 => alu s (d.opVsubs e vd vs vt sz)
  | 4 => alu s (d.opVhadd e vd vs vt sz)
  | 5 => alu s (d.opVhsub e vd vs vt sz)
  | 6 => alu s (d.opVand e vd vs vt)
  | 7 => alu s (d.opVor e vd vs vt)
  | 8 => alu s (d.opVxor e vd vs vt)
  | 9 => alu s (d.opVmin e vd vs vt sz)
  | 10 => alu s (d.opVmax e vd vs vt sz)
  | 11 => alu (s && vt == 0) (d.opVabs e vd vs sz)
  | 12 => alu t (d.opVsll e vd vs sz sh)
  | 13 => alu t (d.opVsrl e vd vs sz sh)
  | 14 => alu t (d.opVsra e vd vs sz sh)
  | 15 => alu (s && vt == 0) (d.opVmov e vd vs)
  | _ => none

/-- Major 18 (R246). -/
def Dev.execVmac (d : Dev) (e w : Nat) : Option Fx :=
  let vd := bitsOf w 26 23
  let vs := bitsOf w 22 19
  let vt := bitsOf w 18 15
  let sz := bitOf w 14
  let sh := bitsOf w 13 8
  let z := !bitOf w 7
  let two := z && vd == 0 && sh == 0
  match fFn w with
  | 0 => alu two (d.opVmul e vs vt sz)
  | 1 => alu two (d.opVmac e vs vt sz)
  | 2 => alu two (d.opVmsu e vs vt sz)
  | 3 => alu (two && vs == 0 && vt == 0) (d.opVclr e)
  | 4 => alu (z && vs == 0 && vt == 0) (d.opVrnd e vd sz sh)
  | 5 => alu (z && sz && decide (sh ≤ 16)) (d.opVcmul e vd vs vt sh)
  | _ => none

/-- Major 19 (R246). -/
def Dev.execVg (d : Dev) (e w : Nat) : Option Fx :=
  let r := fRd w
  let v := bitsOf w 21 18
  let idx := bitsOf w 17 15
  let sz := bitOf w 14
  let z := bitsOf w 13 7 == 0
  let i := z && decide (idx < elN sz)
  match fFn w with
  | 0 => alu (z && idx == 0) (d.opVbcast e v r sz)
  | 1 => alu i (d.opVins e v idx r sz)
  | 2 => alu i (d.opVext e r v idx sz)
  | _ => none

/-- Major 9 (R243). -/
def Dev.execVa (d : Dev) (e : Fin 96) (w : Nat) (v : MemEnv) : Option Fx :=
  let vd := bitsOf w 26 23
  let m := bitsOf w 21 19
  let sz := bitOf w 16
  let upd := bitOf w 15
  let z := !bitOf w 22 && bitsOf w 14 2 == 0
  match bitsOf w 18 17 with
  | 0 => does z (d.opVec e false vd m sz upd v)
  | 1 => does z (d.opVec e true vd m sz upd v)
  | 2 => does z (d.opVldr e vd m sz upd v)
  | _ => none

/-- A 32-bit instruction at `pc`, or an operation of a group: its effect, or none for a word that is none (bits [1:0] aside). -/
def Dev.execWord (d : Dev) (e : Fin 96) (w pc nx : Nat) (v : MemEnv) : Option Fx :=
  let rd := fRd w
  let rs := fRs w
  let imm := fImm15 w
  if w / 4 = 0 then none
  else match bitsOf w 31 27 with
  | 0 => d.execR e w
  | 1 => alu true (d.opAddi e rd rs imm)
  | 2 => alu true (d.opAndi e rd rs imm)
  | 3 => alu true (d.opOri e rd rs imm)
  | 4 => alu true (d.opXori e rd rs imm)
  | 5 => alu (rd == 0) (d.opCmpi e rs imm)
  | 6 => alu true (d.opLdhi e rd (fImm20 w))
  | 7 => does true (d.opMem e (bitsOf w 16 14) rd rs (bitsOf w 13 2) v)
  | 8 => does (bitsOf w 14 2 == 0) (d.opAg e (bitsOf w 18 16) rd (bitsOf w 21 19) (bitOf w 15) v)
  | 9 => d.execVa e w v
  | 10 => d.execAg e w
  | 11 => does true (d.opBranch e (bitsOf w 26 23) (signed 21 (bitsOf w 22 2)) pc)
  | 12 => does true (d.opCall e rd (signed 20 (fImm20 w)) pc nx)
  | 13 => does true (d.opCallr e rd rs (signed 15 imm) nx)
  | 14 => does true (d.opDbnz e rd (signed 20 (fImm20 w)) pc)
  | 15 => d.execSys e w nx
  | 16 => d.execMac e w
  | 17 => d.execVec e w
  | 18 => d.execVmac e w
  | 19 => d.execVg e w
  | 20 => does (fSa w == 0 && decide (fFn w < 3)) (d.opAtomic e (fFn w) rd rs (fRt w) v)
  | 21 => alu true (d.opLdi e rd (fImm20 w))
  | _ => none

/-- Class 0b01 of R247. -/
def Dev.execHalf1 (d : Dev) (e w nx : Nat) : Option Fx :=
  let rd := bitsOf w 15 11
  let rs := bitsOf w 10 6
  match bitsOf w 5 2 with
  | 0 => alu true (d.opMov e rd rs)
  | 1 => alu true (d.opAdd e rd rd rs)
  | 2 => alu true (d.opSub e rd rd rs)
  | 3 => alu true (d.opAnd e rd rd rs)
  | 4 => alu true (d.opOr e rd rd rs)
  | 5 => alu true (d.opXor e rd rd rs)
  | 6 => alu true (d.opSll e rd rd rs)
  | 7 => alu true (d.opSrl e rd rd rs)
  | 8 => alu true (d.opSra e rd rd rs)
  | 9 => alu true (d.opCmp e rd rs)
  | 10 => alu true (d.opTst e rd rs)
  | 11 => alu true (d.opSub e rd 0 rs)
  | 12 => alu true (d.opExt e rd rs 1)
  | 13 => does (rd == 0) (d.opCallr e 0 rs 0 nx)
  | 14 => does (rd == 0) (d.opCallr e 30 rs 0 nx)
  | _ => none

/-- The 15-bit immediate with the value of a 7-bit one. -/
def imm7to15 (v : Nat) : Nat := unsigned 15 (signed 7 v)

/-- Class 0b10. -/
def Dev.execHalf2 (d : Dev) (e w : Nat) : Option Fx :=
  let rd := bitsOf w 15 11
  let imm := bitsOf w 10 4
  match bitsOf w 3 2 with
  | 0 => alu true (d.opLdi e rd (unsigned 20 (signed 7 imm)))
  | 1 => alu true (d.opAddi e rd rd (imm7to15 imm))
  | 2 => alu (decide (imm < 32)) (d.opSlli e rd rd imm)
  | _ => alu true (d.opCmpi e rd (imm7to15 imm))

/-- Class 0b11. -/
def Dev.execHalf3 (d : Dev) (e : Fin 96) (w pc : Nat) (v : MemEnv) : Option Fx :=
  let r := bitsOf w 13 9
  match bitsOf w 15 14 with
  | 0 => does true (d.opMem e 0 r 31 (4 * bitsOf w 8 2) v)
  | 1 => does true (d.opMem e 5 r 31 (4 * bitsOf w 8 2) v)
  | 2 => does true (d.opBranch e (bitsOf w 13 10) (signed 8 (bitsOf w 9 2)) pc)
  | _ => does (bitsOf w 3 2 == 0) (d.opAg e (if bitOf w 4 then 5 else 0) r (bitsOf w 8 6) (bitOf w 5) v)

/-- A 16-bit instruction (bits [1:0] not 0b00). -/
def Dev.execHalf (d : Dev) (e : Fin 96) (w pc nx : Nat) (v : MemEnv) : Option Fx :=
  match w % 4 with
  | 1 => d.execHalf1 e w nx
  | 2 => d.execHalf2 e w
  | 3 => d.execHalf3 e w pc v
  | _ => none

/-- The unit of an operation by its major opcode (R241 to R246): 0 ALU, 1 MAC, 2 memory, 3 control; a reserved major opcode has
none. -/
def unitOf (w : Nat) : Option Nat :=
  match bitsOf w 31 27 with
  | 7 | 8 | 9 | 10 | 20 => some 2
  | 11 | 12 | 13 | 14 | 15 => some 3
  | 16 | 18 => some 1
  | m => if m < 22 then some 0 else none

end Sys2Proof.Machine
end

