-- ==== Sys2Proof/Machine/EngRun.lean ====
section
/-! DEFINITION. The issue of instructions: one instruction, or a group of a wide page, at the boundary of a running engine (R232, R234
to R236, R239, R256 to R261). -/

namespace Sys2Proof.Machine

open Sys2Proof

def Dev.setPc (d : Dev) (e pc : Nat) : Dev := d.setEng e { d.engOf e with pc := pc % 65536 }

/-- What an instruction at `pc`, followed by `nx`, leaves. -/
def Dev.finish (e pc nx : Nat) : Fx → Dev
  | .next d => d.setPc e nx
  | .jump d t => d.setPc e t.toNat
  | .exc d cause arg st => d.syncException e cause arg st pc (if cause = 7 then nx else pc)
  | .park d => d.setPc e nx

/-- The address of the instruction or group after this one. -/
def Dev.after (d : Dev) (e len : Nat) : Nat := ((d.engOf e).pc + len) % 65536

/-- An instruction boundary of a running engine: an enabled pending cause is taken, else the instruction issues (R260). -/
def Dev.boundary (d : Dev) (e : Nat) (f : Dev → Dev) : Dev :=
  if !d.engRunning e then d
  else match d.takeable e with
    | some c => d.takeAsync e c
    | none => f d

/-- An engine issues one instruction of `len` bytes; `f` gives its effect from its address and the next. -/
def Dev.issue (d : Dev) (e len : Nat) (f : Dev → Nat → Nat → Fx) : Dev :=
  d.boundary e (fun d => Dev.finish e (d.engOf e).pc (d.after e len) (f d (d.engOf e).pc (d.after e len)))

/-- One that only computes. -/
def Dev.compute (d : Dev) (e len : Nat) (f : Dev → Dev) : Dev := d.issue e len (fun d _ _ => .next (f d))

/-- The bytes of the 16-bit form, and of the 32-bit form. -/
def formLen (short : Bool) : Nat := if short then 2 else 4

/-! ### Fetch -/

/-- A halfword and a word of instruction memory. -/
def Dev.codeHalf (d : Dev) (e pc : Nat) : Nat := d.loadNat (engBase e + pc % 65536) 2
def Dev.codeWord (d : Dev) (e pc : Nat) : Nat := d.codeHalf e pc + 65536 * d.codeHalf e (pc + 2)

/-- A word of instruction memory that is uncorrectable (R294). -/
def Dev.codeBad (d : Dev) (e pc n : Nat) : Option Nat :=
  (codeWords 0 (engBase e + pc % 65536) n).find? (fun w => d.bad.get w 0 == 1)

/-- An illegal instruction at pc (R232). -/
def illegal (d : Dev) (w : Nat) : Fx := .exc d 2 w 0

/-- One instruction of a compact page: its effect and its length. -/
def Dev.fetchCompact (d : Dev) (e : Fin 96) (pc : Nat) (v : MemEnv) : Fx × Nat :=
  let h := d.codeHalf e pc
  let nx := (pc + 2) % 65536
  let nx4 := (pc + 4) % 65536
  if h % 4 ≠ 0 then ((d.execHalf e h pc nx v).getD (illegal d h), 2)
  else
    let w := d.codeWord e pc
    if d.widePage e (pc + 2) then (illegal d w, 4)
    else ((d.execWord e w pc nx4 v).getD (illegal d w), 4)

/-- The addresses of the operations of the group at pc: through the first stop bit, at most five, within the page. -/
def Dev.groupAddrs (d : Dev) (e pc : Nat) : List Nat :=
  let l := ((List.range 5).map (fun i => pc + 4 * i)).filter (fun a => a / 4096 == pc / 4096)
  let n := (l.takeWhile (fun a => d.codeWord e a % 2 == 0)).length
  l.take (n + 1)

/-- A group that executes nothing (R234). -/
def groupBad (ws : List Nat) : Bool :=
  ws.getLast?.all (fun w => w % 2 == 0) || decide (4 < ws.length) || ws.any (fun w => bitOf w 1 || w / 2 == 0) ||
    !(decide (ws.filterMap unitOf).Nodup)

/-- The operations of a group one after another, until one transfers control, raises an exception or waits (R235). An illegal
operation is named by its word with its stop bit (R257). -/
def Dev.runGroup (e : Fin 96) (v : MemEnv) : List Nat → Dev → Dev
  | [], d => d
  | a :: as, d =>
    let w := d.codeWord e a
    let nx := (a + 4) % 65536
    match (d.execWord e (w / 4 * 4) a nx v).getD (illegal d w) with
    | .next d => Dev.runGroup e v as (d.setPc e nx)
    | .exc d 2 _ st => Dev.finish e a nx (.exc d 2 w st)
    | x => Dev.finish e a nx x

/-- The group at pc. -/
def Dev.issueWide (d : Dev) (e : Fin 96) (pc : Nat) (v : MemEnv) : Dev :=
  let as := d.groupAddrs e pc
  if groupBad (as.map (d.codeWord e)) then Dev.finish e pc pc (illegal d (d.codeWord e pc)) else Dev.runGroup e v as d

/-- How many bytes the next issue fetches. -/
def Dev.fetchLen (d : Dev) (e pc : Nat) : Nat :=
  if d.widePage e pc then 4 * (d.groupAddrs e pc).length else if d.codeHalf e pc % 4 ≠ 0 then 2 else 4

/-- The engine issues what stands at its pc: the group of a wide page, an instruction of a compact page. A word of instruction
memory that is uncorrectable is a bus error (log entry 102). -/
def Dev.issueNext (d : Dev) (e : Fin 96) (v : MemEnv) : Dev :=
  d.boundary e (fun d =>
    let pc := (d.engOf e).pc
    if d.initStatus 0 ≠ .ok then Dev.finish e pc pc (.exc d 6 pc Status.notReady.code)
    else match d.codeBad e pc (d.fetchLen e pc) with
    | some w => Dev.finish e pc pc (.exc (d.memFault 0 w 1 (0x10 + e)) 6 pc Status.faultDetected.code)
    | none =>
      if d.widePage e pc then d.issueWide e pc v
      else
        let x := d.fetchCompact e pc v
        Dev.finish e pc (pc + x.2) x.1)

end Sys2Proof.Machine
end

