-- ==== Sys2Proof/Machine/Cmd.lean ====
section
/-! DEFINITION. What commands share: register accesses, contention for one resource in one CCLK (R25), upsets of a register's copies
(R289), the encodings of mfs and mts. -/

namespace Sys2Proof.Machine

open Sys2Proof

/-- A register write, a register read, an access that is either. -/
def State.write (s : State) (r : Req) (page off v : Nat) : Host.Outcome State Fault Refusal := s.act (fun d => d.pageWrite r page off v)
def State.read (s : State) (r : Req) (page off : Nat) : Host.Outcome State Fault Refusal := s.act (fun d => d.pageRead r page off)
def State.access (s : State) (r : Req) (page off : Nat) (v : Option Word) : Host.Outcome State Fault Refusal :=
  match v with
  | some w => s.write r page off w.toNat
  | none => s.read r page off

/-! ### Contention (R25, R541) -/

/-- Another requester for the resource in the same CCLK is served first. -/
def loses (rr : Nat) (r : Req) (rivals : List Req) : Bool := rivals.any (fun x => decide (rank rr x < rank rr r))

/-- A doorbell loses to an earlier one of its queue, or to four of other queues (R155). -/
def losesDoorbell (rr : Nat) (r : Req) (queue : Nat) (rivals : List (Req × Nat)) : Bool :=
  let first := (rivals.filter (fun x => decide (rank rr x.1 < rank rr r))).map (·.2)
  first.contains queue || decide (4 ≤ first.eraseDups.length)

/-- Loses a flash bank (R393). -/
def losesBank (rr : Nat) (r : Req) (bank : Nat) (rivals : List (Req × Nat)) : Bool :=
  loses rr r ((rivals.filter (fun x => x.2 == bank)).map (·.1))

/-- A command that loses its bank (R393). -/
def Dev.flLose (d : Dev) (r : Req) : Dev := (d.flRefuse r 0 (flBlock (d.flAddr (reqId r))) true .busy).2.report pgFLC .busy

/-- A flash command: a write of FLC_CMD, unless another requester has the bank. -/
def State.flash (s : State) (r : Req) (rivals : List (Req × Fin 4)) (f : Dev → Status × Dev) : Host.Outcome State Fault Refusal :=
  s.act (fun d =>
    if losesBank s.rr r (flBank (d.flAddr (reqId r))) (rivals.map (fun x => (x.1, x.2.val))) then d.flLose r
    else d.guardedWrite r pgFLC 0x068 f)

/-! ### Upsets and parity errors at a register page (R289, R296) -/

/-- Bits of one copy of a shadowed register flip. -/
def Dev.flip (d : Dev) (page off x : Nat) : Dev :=
  match pageBlock page with
  | none => d
  | some (b, _) =>
    if !isShadowed b off then d
    else
      let key := regKey page off
      let diff := (d.shadow.get key 0).toNat ^^^ x
      { d with
        shadow := d.shadow.set key (BitVec.ofNat 32 diff) 0
        shadowSeen := if diff % 2 ^ 32 = 0 then d.shadowSeen.filter (· != key) else d.shadowSeen }

/-- SHADOW_CHECK: every mismatch of the page that is not known yet is found. -/
def Dev.shadowCheck (d : Dev) (page : Nat) (hits : List (Nat × Nat)) : Dev :=
  let d := hits.foldl (fun d h => d.flip page h.1 h.2) d
  let new := (d.shadow.map (·.1)).filter (fun k => k / 1024 == page && !d.shadowSeen.contains k)
  new.foldl (fun d k => d.shadowFinding page (keyOff k) 0xFF) d

/-- REGISTER_WRITE, `at_` CCLK after the last tick. A write that loses a flash bank gets ST_BUSY; at a page the losers are retried without a status (R284). -/
def Dev.registerWrite (d : Dev) (rr : Nat) (r : Req) (page off v at_ : Nat) (rivals : List Req) (parity : Bool) (upset : Nat) : Dev :=
  let d := { d with off := at_ }
  if parity then (d.parityError page 2 (0xF0000000 + 4096 * page + off) (reqId r)).answer .faultDetected
  else if page = pgFLC ∧ off = 0x068 ∧ loses rr r rivals then d.flLose r
  else (d.flip page off upset).pageWrite r page off v

/-- The queue that a requester has selected is staged with valid = 0 (R549). -/
def Dev.stagedInvalid (d : Dev) (r : Req) : Bool := !(d.rdOwn (reqId r) QMG_QD_Wk_word 0).testBit 31

/-- FRAME_RX: the MAC hands the frame to the sequencer; in bivouac mode the sequencer is held in reset (R352). -/
def Dev.frameRx (d : Dev) (p sub : Nat) (f : RxFrame) (off : Nat) : Dev :=
  let x := d.macReceive p sub off f
  match x.1 with
  | some h => if x.2.bivouac then x.2 else x.2.trvArrive h
  | none => x.2

/-- Frames of one CCLK by ascending port and sub-port: LAN A is the lower port of a pair (R91, R108). -/
def rxOrder (l : List (Nat × Nat × RxFrame)) : List (Nat × Nat × RxFrame) :=
  (List.range 48).flatMap (fun k => l.filter (fun x => 4 * x.1 + x.2.1 == k))

/-! ### Engines -/

/-- The words of mfs and mts (R244). -/
def mfsWord (rd sr : Nat) : Nat := 15 * 2 ^ 27 + rd * 2 ^ 22 + sr * 2 ^ 7 + 3 * 4
def mtsWord (sr rs : Nat) : Nat := 15 * 2 ^ 27 + rs * 2 ^ 17 + sr * 2 ^ 7 + 4 * 4

/-- ILLEGAL_INSTRUCTION: what stands at the pc is no instruction, or straddles into a wide page (R232, R236). One that is an
instruction is none of this row's. -/
def Dev.illegalIssue (d : Dev) (e : Fin 96) (w : Nat) (half : Bool) : Dev :=
  d.boundary e (fun d =>
    let pc := (d.engOf e).pc
    let w := if half then w % 65536 else w
    let straddles := !half && !d.widePage e pc && d.widePage e (pc + 2)
    let known := if half then (d.execHalf e w pc (pc + 2) ⟨false, 0, [], []⟩).isSome else (d.execWord e (w / 4 * 4) pc (pc + 4) ⟨false, 0, [], []⟩).isSome
    if straddles || !known then Dev.finish e pc pc (illegal d w) else d)

/-- Engines in the order of R25. -/
def engOrder (rr : Nat) (l : List (Fin 96)) : List (Fin 96) :=
  (List.range 112).flatMap (fun k => l.filter (fun e => rank rr (.eng e) == k))

/-- The Refuge answers the gate calls of one CCLK in the order of R25 (R263). -/
def Dev.gateReplies (d : Dev) (rr : Nat) (es : List (Fin 96)) : Dev := (engOrder rr es.eraseDups).foldl (fun (d : Dev) (e : Fin 96) => d.gateReply e) d

/-- A gate row: the engine traps into gate `n`, unless it waits in it already, and the Refuge answers, with the other engines `same`
whose calls wait in the same CCLK (R263). -/
def Dev.gateIssue (d : Dev) (rr : Nat) (e : Fin 96) (n : Nat) (same : List (Fin 96)) : Dev :=
  let inGate (d : Dev) : Bool := (d.gateOf e).any (fun g => g.n == n)
  let d := if (d.gateOf e).isSome then d else d.issue e 4 (fun d _ nx => d.opTrap e n nx)
  d.gateReplies rr (if inGate d then e :: same else same)

/-- The atomic operations of one CCLK, in the order of R25 (R231). -/
def Dev.atomics (d : Dev) (rr : Nat) (l : List Atomic) : Dev :=
  ((List.range 112).flatMap (fun k => l.filter (fun x => rank rr (.eng x.e) == k))).foldl (fun d x =>
    d.issue x.e 4 (fun d _ _ => d.opAtomic x.e x.op.val x.rd x.rs x.rt (laterOf x.v rr (.eng x.e)))) d

/-- An atomic operation beside a group. -/
def GroupRival.atomic (x : GroupRival) : Atomic := ⟨x.op, x.e, x.rd, x.rs, x.rt, ⟨x.parity, x.ecc, [], []⟩⟩

/-- ISSUE_GROUP with the atomic operations that other engines issue in the same CCLK: those that come before the engine in the order of
R25 are served before what it issues, the others after it (R231). -/
def Dev.groupIssue (d : Dev) (rr : Nat) (e : Fin 96) (v : MemEnv) : Dev :=
  let others := (v.atomics.filter (fun x => x.e != e)).map GroupRival.atomic
  let first (x : Atomic) : Bool := decide (rank rr (.eng x.e) < rank rr (.eng e))
  ((d.atomics rr (others.filter first)).issueNext e (laterOf v rr (.eng e))).atomics rr (others.filter (fun x => !first x))

end Sys2Proof.Machine
end

