-- ==== Sys2Proof/Machine/AluCmds.lean ====
section
/-! DEFINITION. The scalar and MAC instructions of an engine (R241, R242, R245, R247). `short` is the 16-bit form. -/

namespace Sys2Proof.Machine

open Sys2Proof

/-- ADD (R241). -/
def execAdd (e : Fin 96) (short : Bool) (rd rs rt : Fin 32) (s : State) : Host.Outcome State Fault Refusal :=
  s.act (fun d => d.compute e (formLen short) (fun d => d.opAdd e rd rs rt))

/-- SUB (R241). -/
def execSub (e : Fin 96) (short : Bool) (rd rs rt : Fin 32) (s : State) : Host.Outcome State Fault Refusal :=
  s.act (fun d => d.compute e (formLen short) (fun d => d.opSub e rd rs rt))

/-- ADDC (R241). -/
def execAddc (e : Fin 96) (rd rs rt : Fin 32) (s : State) : Host.Outcome State Fault Refusal :=
  s.act (fun d => d.compute e 4 (fun d => d.opAddc e rd rs rt))

/-- SUBC (R241). -/
def execSubc (e : Fin 96) (rd rs rt : Fin 32) (s : State) : Host.Outcome State Fault Refusal :=
  s.act (fun d => d.compute e 4 (fun d => d.opSubc e rd rs rt))

/-- ADDS (R241). -/
def execAdds (e : Fin 96) (rd rs rt : Fin 32) (s : State) : Host.Outcome State Fault Refusal :=
  s.act (fun d => d.compute e 4 (fun d => d.opAdds e rd rs rt))

/-- SUBS (R241). -/
def execSubs (e : Fin 96) (rd rs rt : Fin 32) (s : State) : Host.Outcome State Fault Refusal :=
  s.act (fun d => d.compute e 4 (fun d => d.opSubs e rd rs rt))

/-- AND (R241). -/
def execAnd (e : Fin 96) (short : Bool) (rd rs rt : Fin 32) (s : State) : Host.Outcome State Fault Refusal :=
  s.act (fun d => d.compute e (formLen short) (fun d => d.opAnd e rd rs rt))

/-- OR (R241). -/
def execOr (e : Fin 96) (short : Bool) (rd rs rt : Fin 32) (s : State) : Host.Outcome State Fault Refusal :=
  s.act (fun d => d.compute e (formLen short) (fun d => d.opOr e rd rs rt))

/-- XOR (R241). -/
def execXor (e : Fin 96) (short : Bool) (rd rs rt : Fin 32) (s : State) : Host.Outcome State Fault Refusal :=
  s.act (fun d => d.compute e (formLen short) (fun d => d.opXor e rd rs rt))

/-- ANDN (R241). -/
def execAndn (e : Fin 96) (rd rs rt : Fin 32) (s : State) : Host.Outcome State Fault Refusal :=
  s.act (fun d => d.compute e 4 (fun d => d.opAndn e rd rs rt))

/-- SLL (R241). -/
def execSll (e : Fin 96) (short : Bool) (rd rs rt : Fin 32) (s : State) : Host.Outcome State Fault Refusal :=
  s.act (fun d => d.compute e (formLen short) (fun d => d.opSll e rd rs rt))

/-- SRL (R241). -/
def execSrl (e : Fin 96) (short : Bool) (rd rs rt : Fin 32) (s : State) : Host.Outcome State Fault Refusal :=
  s.act (fun d => d.compute e (formLen short) (fun d => d.opSrl e rd rs rt))

/-- SRA (R241). -/
def execSra (e : Fin 96) (short : Bool) (rd rs rt : Fin 32) (s : State) : Host.Outcome State Fault Refusal :=
  s.act (fun d => d.compute e (formLen short) (fun d => d.opSra e rd rs rt))

/-- MUL (R241). -/
def execMul (e : Fin 96) (rd rs rt : Fin 32) (s : State) : Host.Outcome State Fault Refusal :=
  s.act (fun d => d.compute e 4 (fun d => d.opMul e rd rs rt))

/-- MULH (R241). -/
def execMulh (e : Fin 96) (rd rs rt : Fin 32) (s : State) : Host.Outcome State Fault Refusal :=
  s.act (fun d => d.compute e 4 (fun d => d.opMulh e rd rs rt))

/-- MULHU (R241). -/
def execMulhu (e : Fin 96) (rd rs rt : Fin 32) (s : State) : Host.Outcome State Fault Refusal :=
  s.act (fun d => d.compute e 4 (fun d => d.opMulhu e rd rs rt))

/-- MIN (R241). -/
def execMin (e : Fin 96) (rd rs rt : Fin 32) (s : State) : Host.Outcome State Fault Refusal :=
  s.act (fun d => d.compute e 4 (fun d => d.opMin e rd rs rt))

/-- MAX (R241). -/
def execMax (e : Fin 96) (rd rs rt : Fin 32) (s : State) : Host.Outcome State Fault Refusal :=
  s.act (fun d => d.compute e 4 (fun d => d.opMax e rd rs rt))

/-- SLLI (R241). -/
def execSlli (e : Fin 96) (short : Bool) (rd rs sa : Fin 32) (s : State) : Host.Outcome State Fault Refusal :=
  s.act (fun d => d.compute e (formLen short) (fun d => d.opSlli e rd rs sa))

/-- SRLI (R241). -/
def execSrli (e : Fin 96) (rd rs sa : Fin 32) (s : State) : Host.Outcome State Fault Refusal :=
  s.act (fun d => d.compute e 4 (fun d => d.opSrli e rd rs sa))

/-- SRAI (R241). -/
def execSrai (e : Fin 96) (rd rs sa : Fin 32) (s : State) : Host.Outcome State Fault Refusal :=
  s.act (fun d => d.compute e 4 (fun d => d.opSrai e rd rs sa))

/-- ABS (R241). -/
def execAbs (e : Fin 96) (rd rs : Fin 32) (s : State) : Host.Outcome State Fault Refusal :=
  s.act (fun d => d.compute e 4 (fun d => d.opAbs e rd rs))

/-- CLZ (R241). -/
def execClz (e : Fin 96) (rd rs : Fin 32) (s : State) : Host.Outcome State Fault Refusal :=
  s.act (fun d => d.compute e 4 (fun d => d.opClz e rd rs))

/-- EXT (R241). -/
def execExt (e : Fin 96) (rd rs : Fin 32) (sa : Fin 4) (s : State) : Host.Outcome State Fault Refusal :=
  s.act (fun d => d.compute e 4 (fun d => d.opExt e rd rs sa))

/-- CMP (R241). -/
def execCmp (e : Fin 96) (short : Bool) (rs rt : Fin 32) (s : State) : Host.Outcome State Fault Refusal :=
  s.act (fun d => d.compute e (formLen short) (fun d => d.opCmp e rs rt))

/-- TST (R241). -/
def execTst (e : Fin 96) (short : Bool) (rs rt : Fin 32) (s : State) : Host.Outcome State Fault Refusal :=
  s.act (fun d => d.compute e (formLen short) (fun d => d.opTst e rs rt))

/-- MOV (R241). -/
def execMov (e : Fin 96) (short : Bool) (rd rs : Fin 32) (s : State) : Host.Outcome State Fault Refusal :=
  s.act (fun d => d.compute e (formLen short) (fun d => d.opMov e rd rs))

/-- SEL (R241). -/
def execSel (e : Fin 96) (rd rs rt : Fin 32) (cond : Fin 16) (s : State) : Host.Outcome State Fault Refusal :=
  s.act (fun d => d.compute e 4 (fun d => d.opSel e rd rs rt cond))

/-- REV (R241). -/
def execRev (e : Fin 96) (rd rs sa : Fin 32) (s : State) : Host.Outcome State Fault Refusal :=
  s.act (fun d => d.compute e 4 (fun d => d.opRev e rd rs sa))

/-- ADDI (R242). -/
def execAddi (e : Fin 96) (short : Bool) (rd rs : Fin 32) (imm : BitVec 15) (s : State) : Host.Outcome State Fault Refusal :=
  s.act (fun d => d.compute e (formLen short) (fun d => d.opAddi e rd rs imm.toNat))

/-- ANDI (R242). -/
def execAndi (e : Fin 96) (rd rs : Fin 32) (imm : BitVec 15) (s : State) : Host.Outcome State Fault Refusal :=
  s.act (fun d => d.compute e 4 (fun d => d.opAndi e rd rs imm.toNat))

/-- ORI (R242). -/
def execOri (e : Fin 96) (rd rs : Fin 32) (imm : BitVec 15) (s : State) : Host.Outcome State Fault Refusal :=
  s.act (fun d => d.compute e 4 (fun d => d.opOri e rd rs imm.toNat))

/-- XORI (R242). -/
def execXori (e : Fin 96) (rd rs : Fin 32) (imm : BitVec 15) (s : State) : Host.Outcome State Fault Refusal :=
  s.act (fun d => d.compute e 4 (fun d => d.opXori e rd rs imm.toNat))

/-- CMPI (R242). -/
def execCmpi (e : Fin 96) (short : Bool) (rs : Fin 32) (imm : BitVec 15) (s : State) : Host.Outcome State Fault Refusal :=
  s.act (fun d => d.compute e (formLen short) (fun d => d.opCmpi e rs imm.toNat))

/-- LDHI (R242). -/
def execLdhi (e : Fin 96) (rd : Fin 32) (imm : BitVec 20) (s : State) : Host.Outcome State Fault Refusal :=
  s.act (fun d => d.compute e 4 (fun d => d.opLdhi e rd imm.toNat))

/-- LDI (R242). -/
def execLdi (e : Fin 96) (rd : Fin 32) (imm : BitVec 20) (s : State) : Host.Outcome State Fault Refusal :=
  s.act (fun d => d.compute e 4 (fun d => d.opLdi e rd imm.toNat))

/-- NEG (R247). -/
def execNeg (e : Fin 96) (rd rs : Fin 32) (s : State) : Host.Outcome State Fault Refusal :=
  s.act (fun d => d.compute e 2 (fun d => d.opSub e rd 0 rs))

/-- SEXTH (R247). -/
def execSexth (e : Fin 96) (rd rs : Fin 32) (s : State) : Host.Outcome State Fault Refusal :=
  s.act (fun d => d.compute e 2 (fun d => d.opExt e rd rs 1))

/-- MOVI (R247). -/
def execMovi (e : Fin 96) (rd : Fin 32) (imm : BitVec 7) (s : State) : Host.Outcome State Fault Refusal :=
  s.act (fun d => d.compute e 2 (fun d => d.opLdi e rd (unsigned 20 (signed 7 imm.toNat))))

/-- MAC (R245). -/
def execMac (e : Fin 96) (a : Fin 4) (rs rt : Fin 32) (s : State) : Host.Outcome State Fault Refusal :=
  s.act (fun d => d.compute e 4 (fun d => d.opMac e a rs rt))

/-- MSU (R245). -/
def execMsu (e : Fin 96) (a : Fin 4) (rs rt : Fin 32) (s : State) : Host.Outcome State Fault Refusal :=
  s.act (fun d => d.compute e 4 (fun d => d.opMsu e a rs rt))

/-- MULA (R245). -/
def execMula (e : Fin 96) (a : Fin 4) (rs rt : Fin 32) (s : State) : Host.Outcome State Fault Refusal :=
  s.act (fun d => d.compute e 4 (fun d => d.opMula e a rs rt))

/-- MACU (R245). -/
def execMacu (e : Fin 96) (a : Fin 4) (rs rt : Fin 32) (s : State) : Host.Outcome State Fault Refusal :=
  s.act (fun d => d.compute e 4 (fun d => d.opMacu e a rs rt))

/-- CLRA (R245). -/
def execClra (e : Fin 96) (a : Fin 4) (s : State) : Host.Outcome State Fault Refusal :=
  s.act (fun d => d.compute e 4 (fun d => d.opClra e a))

/-- MOVA (R245). -/
def execMova (e : Fin 96) (a : Fin 4) (rs : Fin 32) (s : State) : Host.Outcome State Fault Refusal :=
  s.act (fun d => d.compute e 4 (fun d => d.opMova e a rs))

/-- RDA (R245). -/
def execRda (e : Fin 96) (rd : Fin 32) (a : Fin 4) (sh : Fin 64) (s : State) : Host.Outcome State Fault Refusal :=
  s.act (fun d => d.compute e 4 (fun d => d.opRda e rd a sh))

/-- RDAH (R245). -/
def execRdah (e : Fin 96) (rd : Fin 32) (a : Fin 4) (sh : Fin 64) (s : State) : Host.Outcome State Fault Refusal :=
  s.act (fun d => d.compute e 4 (fun d => d.opRdah e rd a sh))

/-- ASUM (R245). -/
def execAsum (e : Fin 96) (a : Fin 4) (s : State) : Host.Outcome State Fault Refusal :=
  s.act (fun d => d.compute e 4 (fun d => d.opAsum e a))

end Sys2Proof.Machine
end

