-- ==== Sys2Proof/Machine/Boot.lean ====
section
/-! DEFINITION. The stages of a start, and recovery in bivouac mode (R347 to R356, R402). -/

namespace Sys2Proof.Machine

open Sys2Proof

/-- The register writes of the Refuge in a stage. -/
def Dev.refugeWrites (d : Dev) (ws : List RegWrite) : Dev :=
  { ws.foldl (fun d w => d.pageWrite .refuge w.page w.off w.value.toNat) d with resp := d.resp }

/-- Base camp erases the indeterminate blocks of system regions; the answer is the bivouac cause of a failed one, else 0
(R402). -/
def Dev.reErase (d : Dev) (fails : List Nat) : List (Nat × Bool) → Nat × Dev
  | [] => (0, d)
  | (b, fw) :: bs =>
    if !d.indet b then d.reErase fails bs
    else
      let bad := fails.contains b
      let d := (d.flEraseStart b (reqId .refuge)).flEraseDone (b / 256) (!bad)
      if bad then (if fw then 5 else 2, d) else d.reErase fails bs

/-- M0 runs in base camp and in bivouac mode as its strap says (R519). -/
def Dev.startM0 (d : Dev) : Dev :=
  (d.wr MGP_MODE_mode (1 + d.rd SYS_STRAP_m0_mode) 0 0).setEnabled 0x018 true

/-- TRN's start-up tests (R363). -/
def Dev.trnStart (d : Dev) (pass : Bool) : Dev :=
  if pass then
    { (d.wr TRN_STAT_drbg_ready 1).wr TRN_STAT_health_ok 1 with rfg := { d.rfg with trnReseedAt := d.cclk, trnReqs := 0 } }
  else d.trnFail 2

/-- The tamper log's chain starts from the device's uid when the log is empty (R421, R422). -/
def Dev.tlogStart (d : Dev) : Dev :=
  let d := if d.rd EVR_TLOG_next = 0 ∧ !d.flag EVR_TLOG_full then d.setHead (tlogSeed d.rfg.otp.uid) else d
  d.tlogRecover

/-- The recovery of the logs: void map, sequence number, tamper log, backup log, retained buffer (R381, R413, R415, R419,
R422). -/
def Dev.logsStart (d : Dev) (cut : Option Nat) (fails : List Nat) : Dev :=
  let d := (((({ d with flc := { d.flc with failing := fails } }).logRebuild).seqResume).tlogStart).bkdCopy cut
  if d.sys.powered then { d.retCommit with flc := { d.retCommit.flc with failing := [] } } else d

/-- The failed-start count and the firmware manifest, on a device that may start (R349, R350). -/
def Dev.countStart (d : Dev) (fw : Manifest) : Dev :=
  let c := d.rfg.fails
  if 3 ≤ c then (d.setFails c).enterBivouac 1 0
  else
    let d := d.setFails (c + 1)
    let bad := d.manifestCause fw true
    if bad ≠ 0 then d.enterBivouac 5 0
    else { d with rfg := { d.rfg with baseDone := true, fwVersion := fw.version, fwDigest := manifestDigest fw } }

/-- BOOT_BASE_CAMP: stage 0, once after each reset. An accepted recovery image is the firmware in flash; TRN's tests come before
the transition they serve (log entry 485). -/
def Dev.baseCamp (d : Dev) (v : BaseEnv) : Dev :=
  let fw := d.rfg.firmware.getD v.fw
  if d.rfg.baseDone ∨ d.bivouac then d
  else
    let d := if d.flag FLC_STAT_scan_done then d else d.flScan []
    let d := (d.startM0).lightSelftest v.light.toNat
    if !v.lockstep then (d.level 80 true).enterBivouac 6 80
    else if !v.rom then (d.level 81 true).enterBivouac 6 81
    else
      let e := d.reErase v.eraseFails v.sysBlocks
      let d := (e.2.trnStart v.trn).transResume v.cmd
      if !d.sys.powered then d
      else
      let d := d.logsStart v.copyCut v.failLines
      if !d.sys.powered then d
      else if e.1 ≠ 0 then d.enterBivouac e.1 0
      else if d.flag LCC_STATE_tamper_lock then d.enterBivouac 7 0
      else if d.lcc = 3 then d.enterBivouac 0 0
      else (d.countStart fw).refugeWrites v.writes

/-- MCE's keys (R299, R345): slots 2 to 7, AES-256, for MCE alone; a warm reset without zeroise leaves them there (log entry 353). -/
def Dev.dramKeys (d : Dev) : Dev :=
  if (d.slotOf 2).type != 0 then d
  else [2, 3, 4, 5, 6, 7].foldl (fun d s =>
    let (k, d) := d.randomBytes 32
    d.setSlot s { attr := 3 * 2 ^ 28 + maskOf [16, 17, 20, 21, 22, 23], key := k }) d

/-- The keys go to MCE over the key bus (R296): a parity error leaves it without a key. -/
def Dev.loadDramKeys (d : Dev) : Dev :=
  if d.brk = some 5 then d.parityError pgMCE 5 0 0x0E else d.wr MCE_STAT_keys_loaded 1

/-- BOOT_REFUGE: stage 1, which waits for the DRBG to serve. A parity error on the Refuge's internal bus discards its transfers. -/
def Dev.bootRefuge (d : Dev) (writes : List RegWrite) : Dev :=
  if !d.rfg.baseDone ∨ d.bivouac ∨ d.rd RFG_STAGE_stage ≠ 0 ∨ !d.flag TRN_STAT_drbg_ready then d
  else
    let d := ((d.wr RFG_STAGE_stage 1).reload true).dramKeys.loadDramKeys.islReport
    if d.brk = some 6 then d.parityError pgRFG 6 0 0x0E else d.refugeWrites writes

/-- DRAM_INIT_COMPLETE: a fault in stage 1 ends the start (R297, R347). -/
def Dev.dramInit (d : Dev) (k : Nat) (ok : Bool) : Dev :=
  let busy := d.flag STATUS_busy 0 (pgDRC + k)
  let d := d.drcDone k ok
  if busy ∧ !ok ∧ d.rd RFG_STAGE_stage = 1 ∧ !d.bivouac then d.enterBivouac 4 0 else d

/-- Starts the STOPPED engines of a world. -/
def Dev.startWorld (d : Dev) (w : Nat) : Dev :=
  (List.range 96).foldl (fun d e => if d.engWorld e = w ∧ d.engState e = 0 then (d.engStart e).2 else d) d

/-- The images of the station manifest go to their load addresses, CODEATTR to the engines (R236, R347). The stage is
reached long after the SRAM is initialised (log entry 352). -/
def Dev.loadImages (d : Dev) (m : Manifest) : Dev :=
  let d := (List.range 96).foldl Dev.engCleared d
  let d := m.images.foldl (fun d i => ({ d with initTill := min d.initTill d.cclk }.memStore .refuge i.load i.data).2) d
  m.wide.foldl (fun d w => if w.1 < 96 then d.setEng w.1 { d.engOf w.1 with attr := w.2 % 65536 } else d) d

/-- BOOT_LOADING: stage 2. An accepted recovery image is the station manifest in flash. -/
def Dev.bootLoading (d : Dev) (m : Manifest) (writes : List RegWrite) : Dev :=
  let m := d.rfg.station.getD m
  if d.bivouac ∨ d.rd RFG_STAGE_stage ≠ 1 then d
  else
    let d := d.wr RFG_STAGE_stage 2
    let bad := d.manifestCause m false
    if bad ≠ 0 then d.enterBivouac bad 0
    else
      let d := (d.refugeWrites writes).loadImages m
      let d := { d with rfg := { d.rfg with role := m.role, stationDigest := manifestDigest m } }
      d.startWorld 2

/-- BOOT_PROTECTION_READY: stage 3. -/
def Dev.bootReady (d : Dev) (writes : List RegWrite) : Dev :=
  if d.bivouac ∨ d.rd RFG_STAGE_stage ≠ 2 then d
  else ((d.wr RFG_STAGE_stage 3).refugeWrites writes).startWorld 1

/-! ### Recovery (R353, R354) -/

/-- An accepted recovery image ends bivouac mode: the counter is set to 0 and a warm reset follows; for cause 7 only the
re-provision command ends it (R353). -/
def Dev.recovered (d : Dev) : Dev :=
  let seven := d.rd RFG_BOOT_CAUSE_cause = 7
  let d := ({ d.setFails 0 with bivouac := false }).resetNow true 0
  if seven then d else d.refugeRec 0xC004 7 0 0

/-- The bytes of a recovery image: header, signature and images (log entry 484). -/
def manifestBytes (m : Manifest) : List Byte := m.header ++ m.sig ++ m.images.flatMap (·.data)

/-- A recovery image, the bytes that came, passes R349 as Refuge firmware or as the station's; it is what flash holds then. -/
def Dev.recoveryImage (d : Dev) (b : List Byte) (m : Manifest) : Status × Dev :=
  if b ≠ manifestBytes m then (.authFail, d)
  else if d.manifestCause m true = 0 then (.ok, ({ d with rfg := { d.rfg with firmware := some m } }).recovered)
  else if d.manifestCause m false = 0 then (.ok, ({ d with rfg := { d.rfg with station := some m } }).recovered)
  else (if d.manifestCause m true = 2 then .authFail else .lifecycle, d)

/-- A complete image or command. -/
def Dev.recoveryObject (d : Dev) (command : Bool) (b : List Byte) (m : Manifest) (env : CmdEnv) : Status × Dev :=
  if command then d.execSigned b env else d.recoveryImage b m

/-- The answer to a recovery frame: its first 12 bytes and the status (R354). -/
def Dev.recoveryAnswer (d : Dev) (src mac : Nat) (payload : List Byte) (st : Status) : Dev :=
  let be (n v : Nat) : List Byte := (leBytes v n).reverse
  if !d.sys.powered then d
  else (d.emit (.frame 8 0 (be 6 src ++ be 6 mac ++ be 2 0x88B6 ++ payload.take 12 ++ leBytes st.code 1))).answer st

/-- RECOVERY_FRAME: from `src`; `m` is what the image says when it is complete. -/
def Dev.recoveryFrame (d : Dev) (src : Nat) (payload : List Byte) (m : Manifest) (env : CmdEnv) : Dev :=
  if !d.bivouac then d
  else
    let mac := d.rfg.otp.mac
    let ses := leAt payload 0 4
    let len := leAt payload 8 2
    let fl := leAt payload 10 2
    let data := slice payload 12 len
    let got := d.rfg.session.getD (ses, fl.testBit 1, [])
    if len = 0 ∨ 8192 < len ∨ payload.length < 12 + len ∨ 4 ≤ fl then d.recoveryAnswer src mac payload .badParam
    else if got.1 ≠ ses ∨ leAt payload 4 4 ≠ got.2.2.length then d.recoveryAnswer src mac payload .protocol
    else
      let all := got.2.2 ++ data
      if fl.testBit 0 then
        let x := ({ d with rfg := { d.rfg with session := none } }).recoveryObject got.2.1 all m env
        x.2.recoveryAnswer src mac payload x.1
      else
        ({ d with rfg := { d.rfg with session := some (ses, got.2.1, all) } }).recoveryAnswer src mac payload .ok

/-- CARD_IDENTIFY: in bivouac mode the Refuge takes the card's recovery object, a signed command by its format code (R354,
R358). -/
def Dev.cardIdentifyRow (d : Dev) (m : Manifest) (env : CmdEnv) : Dev :=
  let d := d.cardIdentify
  if !d.bivouac then d
  else match d.crdRecovery with
    | some b =>
      let x := d.recoveryObject (leAt b 0 2 == 0xC701) b m env
      if x.2.sys.powered then x.2.answer x.1 else x.2
    | none => d

end Sys2Proof.Machine
end

