-- ==== Sys2Proof/Machine/Jtag.lean ====
section
/-! DEFINITION. The JTAG port, boundary scan of the trip outputs and the debug access port (R537, R538). -/

namespace Sys2Proof.Machine

open Sys2Proof

def Dev.setJtag (d : Dev) (x : Jtag) : Dev := { d with jtag := x }

/-- Loads an instruction. Boundary-scan instructions need token bit 5; without it they act as BYPASS (R537). -/
def Dev.jtagIr (d : Dev) (code : Nat) : Dev :=
  let guarded := code == 3 || code == 4 || code == 5 || code == 6
  let known := code == 1 || code == 2 || code == 0x20
  d.setJtag { d.jtag with ir := if known || (guarded && d.dbgPerm 5) then code else 0xFF }

/-- The instruction has its effect: it was loaded with its permission. -/
def Dev.jtagActs (d : Dev) (code : Nat) : Bool := d.jtag.ir == code

/-- IDCODE shifts out 0x19600C93. -/
def Dev.jtagIdcode (d : Dev) : Dev := (d.jtagIr 1).emit (.tdo 0x19600C93)

/-- An update of the trip cells: TOPn 1 with TONn 0 is applied as TOPn 0 and TONn 1. -/
def Dev.jtagUpdate (d : Dev) (top ton : BitVec 64) : Dev :=
  let bad := top &&& ~~~ton
  d.setJtag { d.jtag with top := top &&& ~~~bad, ton := ton ||| bad }

/-- SAMPLE/PRELOAD. -/
def Dev.jtagPreload (d : Dev) (top ton : BitVec 64) : Dev := (d.jtagIr 2).jtagUpdate top ton

/-- EXTEST and INTEST with an update of the boundary register. -/
def Dev.jtagTest (d : Dev) (code : Nat) (top ton : BitVec 64) : Dev :=
  let d := d.jtagIr code
  if d.jtagActs code then d.jtagUpdate top ton else d

/-- The status and data of a 32-bit access by DBG at a device address (R279, R285, R360). -/
def Dev.dapAt (d : Dev) (write : Bool) (a v : Nat) (env : MemEnv) : Status × Nat × Dev :=
  if 0xF0000000 ≤ a ∧ a < 0x100000000 then
    let page := (pageOfAddr a).1
    if (pageBlock page).isNone ∨ a % 4 ≠ 0 then (.denied, 0, d)
    else if env.parity then (.faultDetected, 0, d.parityError page 2 a (reqId .dbg))
    else
      let d := if write then d.pageWrite .dbg page (a % 4096) v else d.pageRead .dbg page (a % 4096)
      (d.answered.1, d.answered.2, d)
  else if a % 4 ≠ 0 ∨ !d.devReach .dbg write a 4 then (.denied, 0, d)
  else
    let g := d.memGuard (reqId .dbg) a env
    if g.1 ≠ .ok then (g.1, 0, g.2)
    else if write then
      let x := g.2.memStore .dbg a (leBytes v 4) env.rivals
      (x.1, 0, x.2)
    else g.2.memLoad .dbg a 4

/-- DAP_ACCESS: Update-DR with op 1 a read, 2 a write, else none. `busy`: the access before is still under way. -/
def Dev.dapAccess (d : Dev) (op a : Nat) (v : Word) (busy : Bool) (env : MemEnv) : Dev :=
  let d := d.jtagIr 0x20
  if busy then d.setJtag { d.jtag with status := Status.busy.code }
  else if op ≠ 1 ∧ op ≠ 2 then d
  else
    let x := d.dapAt (op == 2) a v.toNat env
    let d := x.2.2
    (d.setJtag { d.jtag with status := x.1.code, data := BitVec.ofNat 32 x.2.1 }).answer x.1 x.2.1

/-- CLOCK_MONITOR_CHANGE: the condition of EV(84 + i) (R524). EV0087 needs ext10_en and a present input. -/
def Dev.clockMonitor (d : Dev) (i : Nat) (on : Bool) : Dev :=
  let on := on && (i != 3 || (d.flag TIM_CFG_ext10_en && d.tim.ext10Present))
  (d.wr SYS_CLKMON_cond (setBits (d.rd SYS_CLKMON_cond) i i (b2n on))).level (84 + i) on

end Sys2Proof.Machine
end

