-- ==== Sys2Proof/Machine/Monitors.lean ====
section
/-! DEFINITION. What the monitors of TMP and BKD see at a tick of main power: trip points, shield mesh, supplies, enclosure
switches and external mesh (R368 to R370, R372, R376). -/

namespace Sys2Proof.Machine

open Sys2Proof

/-- Lower and upper window edge of supply monitor `k`, in mV (R370). -/
def supplyWindow (k : Nat) : Nat × Nat :=
  match k with
  | 0 => (700, 920)
  | 1 => (750, 970)
  | 2 => (750, 970)
  | 3 => (1080, 1320)
  | 4 => (990, 1210)
  | 5 => (1620, 1980)
  | 6 => (2900, 3630)
  | _ => (2200, 3800)

def outsideWindow (k mv : Nat) : Bool := decide (mv < (supplyWindow k).1) || decide ((supplyWindow k).2 < mv)

/-- The light threshold in µW/mm² by TMP_LIGHT_CFG.level (R384). -/
def lightThreshold (level : Nat) : Nat := match level with | 0 => 2 | 1 => 5 | 2 => 20 | _ => 100

/-- The 64 lines of a segment in the 4 bytes of a log entry's detail: a bit for two lines (log entry 487). -/
def lineDetail (x : Nat) : Nat := (x % 2 ^ 32) ||| (x / 2 ^ 32 % 2 ^ 32)

/-- What a source's alarm says in the backup log. -/
def Dev.setDetail (d : Dev) (s v : Nat) : Dev := { d with tmp := { d.tmp with detail := d.tmp.detail.set s v 0 } }

/-- One word of a segment at its far end: two mismatches in a row alarm (R368, R369). -/
def Dev.meshWord (d : Dev) (s : Nat) (mask val : BitVec 64) (i : Nat) : Dev :=
  let w := Config.meshWord d.tmp.seed s i
  let diff := (w ^^^ ((w &&& ~~~mask) ||| (val &&& mask))).toNat
  let run := if diff = 0 then 0 else d.tmp.run.get s 0 + 1
  let d := { d with tmp := { d.tmp with run := d.tmp.run.set s run 0 } }
  if 2 ≤ run then (d.setDetail (16 + s) (lineDetail diff)).tamperDetect (16 + s) true else d

/-- One input of the enclosure over the RTC cycles of this tick (R372). -/
def Dev.encSample (d : Dev) (k cycles : Nat) (level : Bool) : Dev :=
  let alarm := level == (d.rd BKD_CFG_enc_pol).testBit k
  let run := if alarm then d.bkd.encRun.get k 0 + cycles else 0
  let d := { d with bkd := { d.bkd with encRun := d.bkd.encRun.set k run 0 } }
  if max 1 (d.rd BKD_CFG_enc_deb) ≤ run then d.tamperDetect (42 + k) true
  else if alarm then d else d.setCond (42 + k) false

/-- One returned bit of an external mesh pair against the bit driven: two mismatches in a row alarm (R368, R372). -/
def Dev.xmBit (d : Dev) (p i : Nat) (level : Bool) : Dev :=
  let run := if level = Config.xmBit p i then 0 else d.bkd.xmRun.get p 0 + 1
  let d := { d with bkd := { d.bkd with xmRun := d.bkd.xmRun.set p run 0 } }
  if 2 ≤ run then (d.setDetail (46 + p) run).tamperDetect (46 + p) true else d

/-- The two temperature sensors are read: the hotter against the high limit, the cooler against the low one (log entry 487). -/
def Dev.temperatures (d : Dev) (a b : Nat) : Dev :=
  let d := d.wr TMP_TEMP_now (max a b)
  let d := if d.rd TMP_TEMP_high < max a b then d.tamperDetect 39 true else d.setCond 39 false
  let d := if min a b < d.rd TMP_TEMP_low then d.tamperDetect 40 true else d.setCond 40 false
  if min a b + 10 < max a b then d.tamperDetect 41 true else d.setCond 41 false

/-- A monitor sees its input in this tick; `was` is the device at the tick before. -/
def Dev.monitor (d was : Dev) (e : MonEvent) : Dev :=
  match e with
  | .light r level ns on => if 100 ≤ ns ∧ lightThreshold (d.rd TMP_LIGHT_CFG_level) < level then d.tamperDetect r on else d
  | .supply k mv ns on =>
    let d := if k.val = 7 then { d with bkd := { d.bkd with vbat := mv } } else d
    if 500 ≤ ns ∧ outsideWindow k mv then d.tamperDetect (24 + k) on else d
  | .dip k permille ps => if 1000 ≤ ps ∧ 100 < permille then d.tamperDetect (32 + k) false else d
  | .period ps high low => if ps < 1000 ∨ high < 400 ∨ low < 400 then d.tamperDetect 36 false else d
  | .reference ppm on => if 1000 < ppm then d.tamperDetect 37 on else d
  | .rtcGap us on => if 1000 ≤ us then d.tamperDetect 38 on else d
  | .temps a b => d.temperatures a.toNat b.toNat
  | .mesh s mask val =>
    let i := was.cclk / 16
    (List.range (min 64 (d.cclk / 16 - i))).foldl (fun d j => d.meshWord s mask val (i + 1 + j)) d
  | .enc levels =>
    let n := d.bkd.rtc - was.bkd.rtc
    if n = 0 then d else (List.range 4).foldl (fun d k => d.encSample k n (levels.getLsbD k)) d
  | .xm p level => if was.bkd.rtc / 32 < d.bkd.rtc / 32 then d.xmBit p (d.bkd.rtc / 32) level else d

/-- BKD_STAT.vbat_mv follows once per second of the RTC. -/
def Dev.vbatNote (d was : Dev) : Dev :=
  if was.bkd.rtc / 32768 = d.bkd.rtc / 32768 ∨ d.bkd.vbat = 0 then d else d.wr BKD_STAT_vbat_mv d.bkd.vbat

/-- What the monitors see at a tick. -/
def Dev.monitors (d was : Dev) (l : List MonEvent) : Dev := (l.foldl (fun d e => d.monitor was e) d).vbatNote was

end Sys2Proof.Machine
end

