-- ==== Sys2Proof/Machine/Tick.lean ====
section
/-! DEFINITION. The tick: every block that samples, stamps or orders acts at it (R48). -/

namespace Sys2Proof.Machine

open Sys2Proof

/-- The requested snapshot of TIM: the tick's TAI value and the four orbit positions (R62). -/
def Dev.timSnap (d : Dev) : Dev :=
  if d.tim.snapReq then
    let d := d.wr64 TIM_SNAP_TAI_LO_value TIM_SNAP_TAI_HI_value d.tickTai
    let d := [0, 1, 2, 3].foldl (fun d n =>
      let v := d.orbSteps n
      (d.wr TIM_SNAP_ORBn_LO_value (v % 2 ^ 32) n).wr TIM_SNAP_ORBn_HI_value (v / 2 ^ 32 % 2 ^ 32) n) d
    ({ d with tim := { d.tim with snapReq := false } }).wr TIM_SNAP_valid 1
  else d

/-- The response sets of the sources that rise at the tick, in rank order: zeroise, reset, lock, log (R86). A reset waits
for the trip outputs (R87); in bivouac for a tamper lock no alarm resets the device again. An alarm ends a debug
authorisation (R360). -/
def Dev.alarms (d : Dev) : Dev :=
  let ss := d.alarmSources
  let resp := ss.foldl (fun m s => m ||| d.srcResp s) 0
  if ss.isEmpty then d
  else
    let d := ss.foldl (fun d s => d.retain (d.sourceRecord s)) d
    let d := if resp.testBit 3 then d.zeroise else d
    let quiet := d.bivouac && d.rd RFG_BOOT_CAUSE_cause == 7
    let d := if resp.testBit 2 ∧ d.evm.alarm.isNone ∧ !quiet then
        { d with
          evm := { d.evm with alarm := some d.ticks }
          tou := { d.tou with alarmDemand := d.tou.lastDemand, alarmHolds := d.tou.holding } } else d
    let d := if resp.testBit 1 then d.wr LCC_STATE_tamper_lock 1 else d
    d.dbgEnd 2

/-- Records of the tick's rises and falls, in ascending source order (R72, R73). -/
def Dev.captureTick (d : Dev) : Dev :=
  d.recordSources.foldl (fun d s => d.capture (d.sourceRecord s)) d

/-- The orbits' part of a tick: a member applies the leader's updates around the advance (R54, R477). -/
def Dev.orbitPart (d : Dev) (dt : Nat) : Dev :=
  if d.ropeMember then ((d.ropeOrbBefore d.tickTai).orbitsTick dt).ropeOrbAfter d.tickTai else d.orbitsTick dt

/-- What the sensors show from this tick on. -/
def Dev.sensors (d : Dev) (env : TickEnv) : Dev :=
  ((d.tamperOver env.tamperEnd.toNat).wr TMP_TEMP_now env.temp.toNat).wr SYS_CLKMON_ref_ppm env.refPpm.toNat

/-- The blocks between the counter and the event matrix. `dt` ns and `n` CCLK have passed since the tick before; `stepped`
says that the counter was stepped at that tick, over the TAI span `span`. -/
def Dev.samplers (d : Dev) (env : TickEnv) (dt n : Nat) (stepped : Bool) (span : Nat × Nat) : Dev :=
  let d := ((d.orbitPart dt).touReadback env).biosTick
  let d := (d.wdTick dt).rtcTick n
  ((d.rsmTick).wfcTick).cnvTick stepped span

/-- The event matrix and the piton path at a tick, in the order of R65, R71 to R80, and the releases of the tick. -/
def Dev.matrix (d : Dev) (env : TickEnv) : Dev :=
  let d := ((d.sampleEvents).pitTick (env.pitErr.map (fun t => t.val))).touTick
  ((d.relTick).alarms).captureTick

/-- The device after its counter has reached the tick: `was` is the device before. -/
def Dev.tickRest (d was : Dev) (env : TickEnv) : Dev :=
  let stepped := was.tim.stepped
  let d := (d.sensors env).samplers env (d.tim.lastTick - was.tim.lastTick) (d.cclk - was.cclk) stepped
    (was.tim.lastTick, was.tim.tai / 2 ^ 32)
  let d := if env.mon.isEmpty then d else d.monitors was env.mon
  let d := (((d.matrix env).timSnap).resetOutSettle).evrNoteTick
  d.ropeTick was.orb stepped (d.tim.lastTick - was.tim.lastTick - 50)

/-- TICK: a device that follows a rope takes its ticks from the rope (R51). -/
def Dev.tick (d : Dev) (env : TickEnv) : Dev :=
  if d.ropeMember && d.following then d else (d.timTick env.ext10).tickRest d env

/-- A follower's counter at its tick: the integer value is the tick's TAI value (R473). -/
def Dev.followTick (d : Dev) (elapsed : Nat) : Dev :=
  { d with
    cclk := d.cclk + max 1 elapsed
    ticks := d.ticks + 1
    tim := { d.tim with
      tai := d.tim.nextTick * 2 ^ 32
      lastTick := d.tim.nextTick
      nextTick := d.tim.nextTick + 50 } }

/-- ROPE_TICK_EDGE: an edge of ROPE_TICK at a member, `elapsed` CCLK after its last tick; `mark` for the long pulse of a
second mark (R473 to R476). -/
def Dev.ropeTickEdge (d : Dev) (elapsed : Nat) (mark : Bool) (env : TickEnv) : Dev :=
  if !d.ropeMember then d
  else if !d.following then d.ropeEdgeApart elapsed mark
  else if d.rop.hold ≠ 0 then
    let n := d.heldEdge elapsed
    if mark then n.ropeMark (n.tim.tai / 2 ^ 32) else n
  else
    let n := d.followTick elapsed
    let n := (((n.lockedTick (n.cclk - d.cclk)).stepEventTick).applyCorrections).ext10Tick env.ext10
    let n := (n.setRop { n.rop with edgeAt := n.cclk }).ppsOutTick
    let n := if mark then n.ropeMark n.tim.lastTick
      else if n.tim.lastTick % 1000000000 = 0 then n.ropeUnfollow else n
    n.tickRest d env

/-- ALARM_RESET_ASSERT: at the first tick at which no output is energised by a demand made at or before the alarm tick,
and at most 65,535 × 10 µs after it (R87). None in bivouac mode with
cause 7, nor on the way to it (R374). -/
def Dev.alarmReset (d : Dev) : Dev :=
  if d.flag LCC_STATE_tamper_lock && (!d.rfg.baseDone || d.bivouac) then d
  else match d.evm.alarm with
  | none => d
  | some t => if d.alarmClear t || decide (t + 65535 * ticksPer10us ≤ d.ticks) then d.warmReset causeAlarm else d

end Sys2Proof.Machine
end

