-- ==== Sys2Proof/Machine/CommonCmds.lean ====
section
/-! DEFINITION. The commands every register page shares (00_scope.md, 01_architecture.md, 11_memory_and_registers.md). -/

namespace Sys2Proof.Machine

open Sys2Proof

/-- LOCK_CLAIM (R26). `rivals` ask for the block in the same CCLK (R25). -/
def execLockClaim (r : Req) (page : Fin 1024) (rivals : List Req) (s : State) : Host.Outcome State Fault Refusal :=
  if loses s.rr r rivals then s.act (fun d => d.report page .busy)
  else s.write r page 0x024 (reqId r)

/-- LOCK_RELEASE (R26). -/
def execLockRelease (r : Req) (page : Fin 1024) (s : State) : Host.Outcome State Fault Refusal := s.write r (page) 0x024 (0xFF)

/-- LOCK_CLEAR_COMPLETE (R27). -/
def execLockClearComplete (page : Fin 1024) (s : State) : Host.Outcome State Fault Refusal := s.act (fun d => d.lockCleared page)

/-- CTRL_ENABLE (R28). -/
def execCtrlEnable (r : Req) (page : Fin 1024) (s : State) : Host.Outcome State Fault Refusal := s.write r (page) 0x008 (1)

/-- CTRL_DISABLE (R29). -/
def execCtrlDisable (r : Req) (page : Fin 1024) (s : State) : Host.Outcome State Fault Refusal := s.write r (page) 0x008 (0)

/-- CTRL_DRAIN (R542). -/
def execCtrlDrain (r : Req) (page : Fin 1024) (s : State) : Host.Outcome State Fault Refusal := s.write r (page) 0x008 (4)

/-- DRAIN_COMPLETE (R28). Of a queue, or of a page's block. -/
def execDrainComplete (page : Fin 1024) (queue : Option (Fin 16384)) (s : State) : Host.Outcome State Fault Refusal :=
  s.act (fun d => match queue with
    | some n => d.queueDrainComplete n
    | none => d.drainComplete page)

/-- SOFT_RESET (R288). -/
def execSoftReset (r : Req) (page : Fin 1024) (s : State) : Host.Outcome State Fault Refusal := s.write r (page) 0x008 (2)

/-- SOFT_RESET_COMPLETE (R288). -/
def execSoftResetComplete (page : Fin 1024) (s : State) : Host.Outcome State Fault Refusal := s.act (fun d => d.softResetComplete page)

/-- IRQ_SET_WRITE (R287). -/
def execIrqSetWrite (r : Req) (page : Fin 1024) (v : Word) (s : State) : Host.Outcome State Fault Refusal :=
  s.write r (page) 0x01C (v.toNat)

/-- REGISTER_WRITE (R285). With rivals for a flash bank (R25, R393), a parity error on the bus (R296), or bits of the register's
copy that an upset has flipped (R289). -/
def execRegisterWrite (r : Req) (page : Fin 1024) (off : Fin 4096) (v : Word) (at_ : Fin 64) (rivals : List Req) (parity : Bool) (upset : Word)
    (s : State) : Host.Outcome State Fault Refusal :=
  s.act (fun d => d.registerWrite s.rr r page off v.toNat at_ rivals parity upset.toNat)

/-- READ_CLEAR_READ (R7). -/
def execReadClearRead (r : Req) (page : Fin 1024) (off : Fin 4096) (s : State) : Host.Outcome State Fault Refusal :=
  s.act (fun d => d.pageRead r page off)

/-- SHADOW_CHECK (R289). `hits` are the bits flipped since the check before. -/
def execShadowCheck (page : Fin 1024) (hits : List (Fin 4096 × Word)) (s : State) : Host.Outcome State Fault Refusal :=
  s.act (fun d => d.shadowCheck page (hits.map (fun h => (h.1.val, h.2.toNat))))

/-- RECORD_HELD_RELEASE (R545). -/
def execRecordHeldRelease (code : BitVec 16) (unit : BitVec 32) (s : State) : Host.Outcome State Fault Refusal :=
  s.act (fun d => d.heldRelease (code.toNat * 2 ^ 32 + unit.toNat))

end Sys2Proof.Machine
end

