-- ==== Sys2Proof/Machine/ControlCmds.lean ====
section
/-! DEFINITION. The control, system and exception commands of an engine, its register page and the release table (R232, R235,
R244, R248 to R278). -/

namespace Sys2Proof.Machine

open Sys2Proof

/-- ISSUE_GROUP (R235). What stands at the engine's pc issues: a group, or on a compact page one instruction. -/
def execIssueGroup (e : Fin 96) (v : MemEnv) (s : State) : Host.Outcome State Fault Refusal := s.act (fun d => d.groupIssue s.rr e v)

/-- B_COND (R244). `disp` counts halfwords. -/
def execBCond (e : Fin 96) (short : Bool) (cond : Fin 16) (disp : BitVec 21) (s : State) : Host.Outcome State Fault Refusal :=
  s.act (fun d => d.issue e (formLen short) (fun d pc _ => d.opBranch e cond disp.toInt pc))

/-- CALL (R244). -/
def execCall (e : Fin 96) (rd : Fin 32) (disp : BitVec 20) (s : State) : Host.Outcome State Fault Refusal :=
  s.act (fun d => d.issue e 4 (fun d pc nx => d.opCall e rd disp.toInt pc nx))

/-- CALLR (R244). -/
def execCallr (e : Fin 96) (short : Bool) (rd rs : Fin 32) (imm : BitVec 15) (s : State) : Host.Outcome State Fault Refusal :=
  s.act (fun d => d.issue e (formLen short) (fun d _ nx => d.opCallr e rd rs imm.toInt nx))

/-- DBNZ (R244). -/
def execDbnz (e : Fin 96) (rd : Fin 32) (disp : BitVec 20) (s : State) : Host.Outcome State Fault Refusal :=
  s.act (fun d => d.issue e 4 (fun d pc _ => d.opDbnz e rd disp.toInt pc))

/-- JR (R247). -/
def execJr (e : Fin 96) (rs : Fin 32) (s : State) : Host.Outcome State Fault Refusal :=
  s.act (fun d => d.issue e 2 (fun d _ nx => d.opCallr e 0 rs 0 nx))

/-- NOP (R244). -/
def execNop (e : Fin 96) (s : State) : Host.Outcome State Fault Refusal := s.act (fun d => d.compute e 4 (fun d => d))

/-- TRAP (R256). -/
def execTrap (e : Fin 96) (n : Fin 240) (s : State) : Host.Outcome State Fault Refusal :=
  s.act (fun d => d.issue e 4 (fun d _ nx => d.opTrap e n nx))

/-- ERET (R259). -/
def execEret (e : Fin 96) (s : State) : Host.Outcome State Fault Refusal := s.act (fun d => d.issue e 4 (fun d _ _ => d.opEret e))

/-- MFS (R248). -/
def execMfs (e : Fin 96) (rd : Fin 32) (sr : Fin 1024) (s : State) : Host.Outcome State Fault Refusal :=
  s.act (fun d => d.issue e 4 (fun d _ _ => d.opMfs e rd sr (mfsWord rd sr)))

/-- MTS (R248). -/
def execMts (e : Fin 96) (sr : Fin 1024) (rs : Fin 32) (s : State) : Host.Outcome State Fault Refusal :=
  s.act (fun d => d.issue e 4 (fun d _ _ => d.opMts e sr rs (mtsWord sr rs)))

/-- WFE (R262). -/
def execWfe (e : Fin 96) (s : State) : Host.Outcome State Fault Refusal := s.act (fun d => d.issue e 4 (fun d _ _ => d.opWfe e))

/-- FENCE (R230). Every access of this model completes within its command, so that no later access has to be held. -/
def execFence (e : Fin 96) (s : State) : Host.Outcome State Fault Refusal := s.act (fun d => d.compute e 4 (fun d => d))

/-- ILLEGAL_INSTRUCTION (R232). A word, or with `half` its low halfword, at the engine's pc. -/
def execIllegalInstruction (e : Fin 96) (word : Word) (half : Bool) (s : State) : Host.Outcome State Fault Refusal :=
  s.act (fun d => d.illegalIssue e word.toNat half)

/-- RELTASK_READ (R269). -/
def execReltaskRead (e : Fin 96) (rd : Fin 32) (s : State) : Host.Outcome State Fault Refusal :=
  s.act (fun d => d.issue e 4 (fun d _ _ => d.opMfs e rd 0x019 (mfsWord rd 0x019)))

/-- RELDONE_WRITE (R272). -/
def execReldoneWrite (e : Fin 96) (rs : Fin 32) (s : State) : Host.Outcome State Fault Refusal :=
  s.act (fun d => d.issue e 4 (fun d _ _ => d.opMts e 0x01A rs (mtsWord 0x01A rs)))

/-- EVCLR_WRITE (R274). -/
def execEvclrWrite (e : Fin 96) (rs : Fin 32) (s : State) : Host.Outcome State Fault Refusal :=
  s.act (fun d => d.issue e 4 (fun d _ _ => d.opMts e 0x01D rs (mtsWord 0x01D rs)))

/-- QRDY_READ (R274). -/
def execQrdyRead (e : Fin 96) (rd : Fin 32) (s : State) : Host.Outcome State Fault Refusal :=
  s.act (fun d => d.issue e 4 (fun d _ _ => d.opMfs e rd 0x01E (mfsWord rd 0x01E)))

/-- WDKICK_WRITE (R273). -/
def execWdkickWrite (e : Fin 96) (rs : Fin 32) (s : State) : Host.Outcome State Fault Refusal :=
  s.act (fun d => d.issue e 4 (fun d _ _ => d.opMts e 0x020 rs (mtsWord 0x020 rs)))

/-- ASYNC_EXCEPTION_TAKE (R260). -/
def execAsyncExceptionTake (e : Fin 96) (s : State) : Host.Outcome State Fault Refusal := s.act (fun d => d.asyncTake e)

/-- ENGINE_WAKE (R262). -/
def execEngineWake (e : Fin 96) (s : State) : Host.Outcome State Fault Refusal := s.act (fun d => d.engWake e)

/-- WATCHDOG_EXPIRY (R273). -/
def execWatchdogExpiry (e : Fin 96) (s : State) : Host.Outcome State Fault Refusal := s.act (fun d => d.wdExpire e)

/-- DEADLINE_EXPIRY (R271). -/
def execDeadlineExpiry (c : Fin 12) (entry : Fin 64) (s : State) : Host.Outcome State Fault Refusal :=
  s.act (fun d => d.deadlineExpiry (relKey c entry))

/-- ENG_RUN_START (R253). -/
def execEngRunStart (r : Req) (e : Fin 96) (s : State) : Host.Outcome State Fault Refusal := s.write r (pgENG e) 0x044 (1)

/-- ENG_RUN_STOP (R255). -/
def execEngRunStop (r : Req) (e : Fin 96) (s : State) : Host.Outcome State Fault Refusal := s.write r (pgENG e) 0x044 (2)

/-- ENG_RUN_FREEZE (R252). -/
def execEngRunFreeze (r : Req) (e : Fin 96) (s : State) : Host.Outcome State Fault Refusal := s.write r (pgENG e) 0x044 (3)

/-- ENG_WORLD_WRITE (R249). -/
def execEngWorldWrite (r : Req) (e : Fin 96) (v : BitVec 2) (s : State) : Host.Outcome State Fault Refusal :=
  s.write r (pgENG e) 0x040 (v.toNat)

/-- ENG_MEMORY_CLEAR_COMPLETE (R249). -/
def execEngMemoryClearComplete (e : Fin 96) (s : State) : Host.Outcome State Fault Refusal := s.act (fun d => d.engCleared e)

/-- REL_ENTRY_COMMIT (R266). -/
def execRelEntryCommit (r : Req) (c : Fin 12) (s : State) : Host.Outcome State Fault Refusal := s.write r (pgCLU c) 0x044 (1)

/-- REL_ENTRY_INVALIDATE (R266). -/
def execRelEntryInvalidate (r : Req) (c : Fin 12) (s : State) : Host.Outcome State Fault Refusal := s.write r (pgCLU c) 0x044 (2)

/-- REL_ENTRY_READ (R266). -/
def execRelEntryRead (r : Req) (c : Fin 12) (s : State) : Host.Outcome State Fault Refusal := s.write r (pgCLU c) 0x044 (3)

end Sys2Proof.Machine
end

