-- ==== Sys2Proof/Machine/CryptoCmds.lean ====
section
/-! DEFINITION. The commands of the cipher pipelines, the PKE, the hash unit and the random source (12_cipher_pipelines.md,
13_pke_and_hash.md, R363). -/

namespace Sys2Proof.Machine

open Sys2Proof

/-- CPL_KEY_WRITE (R312). -/
def execCplKeyWrite (r : Req) (p : Fin 8) (k : Fin 8) (v : Word) (s : State) : Host.Outcome State Fault Refusal :=
  s.write r (pgCPL p) (0x044 + 4 * k) (v.toNat)

/-- CPL_LOAD_KEY (R312). `parity`: the key bus shows a parity error (R296). -/
def execCplLoadKey (r : Req) (p : Fin 8) (parity : Bool) (s : State) : Host.Outcome State Fault Refusal :=
  s.act (fun d => d.guardedWrite r (pgCPL p) 0x0A4 (fun d => d.cplLoadKey p parity))

/-- CPL_KEY_READY (R312). -/
def execCplKeyReady (p : Fin 8) (s : State) : Host.Outcome State Fault Refusal := s.act (fun d => d.cplKeyReady p)

/-- CPL_GO (R316). -/
def execCplGo (r : Req) (p : Fin 8) (first last : Bool) (s : State) : Host.Outcome State Fault Refusal :=
  s.write r (pgCPL p) 0x0A4 (1 + 2 * b2n first + 4 * b2n last)

/-- CPL_ABORT (R320). -/
def execCplAbort (r : Req) (p : Fin 8) (s : State) : Host.Outcome State Fault Refusal := s.write r (pgCPL p) 0x0A4 (16)

/-- CPL_JOB_COMPLETE (R320). `brk`: the bus segment in which the job's transfers meet a parity error (R296). -/
def execCplJobComplete (p : Fin 8) (brk : Option (Fin 8)) (s : State) : Host.Outcome State Fault Refusal :=
  s.act (fun d => (d.withBreak brk).cplComplete p)

/-- CPL_RESEED (R307). -/
def execCplReseed (p : Fin 8) (supplied : Bool) (s : State) : Host.Outcome State Fault Refusal := s.act (fun d => d.cplReseed p supplied)

/-- PKE_CFG_WRITE (R324). -/
def execPkeCfgWrite (r : Req) (v : Word) (s : State) : Host.Outcome State Fault Refusal := s.write r (pgPKE) 0x040 (v.toNat)

/-- PKE_OP_DATA_ACCESS (R326). A write of a value, or a read. -/
def execPkeOpDataAccess (r : Req) (v : Option Word) (s : State) : Host.Outcome State Fault Refusal := s.access r pgPKE 0x094 v

/-- PKE_GO (R327). -/
def execPkeGo (r : Req) (s : State) : Host.Outcome State Fault Refusal := s.write r (pgPKE) 0x080 (1)

/-- PKE_ABORT (R335). -/
def execPkeAbort (r : Req) (k : Fin 4) (s : State) : Host.Outcome State Fault Refusal := s.write r (pgPKE) 0x080 (2 + 16 * k)

/-- PKE_PREEMPT (R334). -/
def execPkePreempt (s : State) : Host.Outcome State Fault Refusal := s.act (fun d => d.pkePreempt)

/-- PKE_JOB_COMPLETE (R330). `fault`: the release check finds a fault; `brk` as in CPL_JOB_COMPLETE. -/
def execPkeJobComplete (fault : Bool) (brk : Option (Fin 8)) (s : State) : Host.Outcome State Fault Refusal :=
  s.act (fun d => (d.withBreak brk).pkeComplete fault)

/-- PKE_RANDOM_TIMEOUT (R332). -/
def execPkeRandomTimeout (s : State) : Host.Outcome State Fault Refusal := s.act (fun d => d.pkeNoRandom)

/-- PKE_CTX_READ (R343). -/
def execPkeCtxRead (r : Req) (k : Fin 2) (s : State) : Host.Outcome State Fault Refusal :=
  s.act (fun d => d.pageRead r pgPKE (0x084 + 4 * k))

/-- PKE_MEMORY_CLEAR_COMPLETE (R324). -/
def execPkeMemoryClearComplete (s : State) : Host.Outcome State Fault Refusal := s.act (fun d => d.pkeWiped)

/-- KECCAK_HANDOVER (R336). -/
def execKeccakHandover (s : State) : Host.Outcome State Fault Refusal := s.act (fun d => d.keccakHandover)

/-- HSH_GO (R341). -/
def execHshGo (r : Req) (first last : Bool) (s : State) : Host.Outcome State Fault Refusal :=
  s.write r (pgHSH) 0x058 (1 + 2 * b2n first + 4 * b2n last)

/-- HSH_SQUEEZE (R341). -/
def execHshSqueeze (r : Req) (s : State) : Host.Outcome State Fault Refusal := s.write r (pgHSH) 0x058 (8)

/-- HSH_ABORT (R341). -/
def execHshAbort (r : Req) (s : State) : Host.Outcome State Fault Refusal := s.write r (pgHSH) 0x058 (16)

/-- HSH_JOB_COMPLETE (R341). `brk` as in CPL_JOB_COMPLETE. -/
def execHshJobComplete (brk : Option (Fin 8)) (s : State) : Host.Outcome State Fault Refusal :=
  s.act (fun d => (d.withBreak brk).hshComplete)

/-- TRN_RESEED (R363). -/
def execTrnReseed (s : State) : Host.Outcome State Fault Refusal := s.act (fun d => d.trnReseed)

/-- TRN_HEALTH_FAIL (R363). -/
def execTrnHealthFail (test : Fin 3) (s : State) : Host.Outcome State Fault Refusal := s.act (fun d => d.trnFail test)

/-- TRN_RETEST (R363). -/
def execTrnRetest (pass : Bool) (s : State) : Host.Outcome State Fault Refusal := s.act (fun d => d.trnRetest pass)

end Sys2Proof.Machine
end

