-- ==== Sys2Proof/Machine/DebugCmds.lean ====
section
/-! DEFINITION. The commands of the JTAG port, the debug access port and the mailbox (R537 to R539). -/

namespace Sys2Proof.Machine

open Sys2Proof

/-- JTAG_IDCODE (R537). -/
def execJtagIdcode (s : State) : Host.Outcome State Fault Refusal := s.act (fun d => d.jtagIdcode)

/-- JTAG_SAMPLE_PRELOAD (R537). The trip cells as preloaded. -/
def execJtagSamplePreload (top ton : BitVec 64) (s : State) : Host.Outcome State Fault Refusal := s.act (fun d => d.jtagPreload top ton)

/-- JTAG_EXTEST (R537). -/
def execJtagExtest (top ton : BitVec 64) (s : State) : Host.Outcome State Fault Refusal := s.act (fun d => d.jtagTest 3 top ton)

/-- JTAG_INTEST (R537). -/
def execJtagIntest (top ton : BitVec 64) (s : State) : Host.Outcome State Fault Refusal := s.act (fun d => d.jtagTest 4 top ton)

/-- JTAG_CLAMP (R537). -/
def execJtagClamp (s : State) : Host.Outcome State Fault Refusal := s.act (fun d => d.jtagIr 5)

/-- JTAG_HIGHZ (R537). -/
def execJtagHighz (s : State) : Host.Outcome State Fault Refusal := s.act (fun d => d.jtagIr 6)

/-- JTAG_BYPASS (R537). -/
def execJtagBypass (s : State) : Host.Outcome State Fault Refusal := s.act (fun d => d.jtagIr 0xFF)

/-- DAP_ACCESS (R538). Op 1 reads, 2 writes; `busy`: the access before is under way. -/
def execDapAccess (op : Fin 4) (addr : BitVec 40) (v : Word) (busy : Bool) (env : MemEnv) (s : State) : Host.Outcome State Fault Refusal :=
  s.act (fun d => d.dapAccess op addr.toNat v busy (laterOf env s.rr .dbg))

/-- DBG_MBOX_DATA_WRITE (R539). -/
def execDbgMboxDataWrite (r : Req) (v : Word) (s : State) : Host.Outcome State Fault Refusal := s.write r (pgDBG) 0x040 (v.toNat)

/-- DBG_MBOX_GO (R539). -/
def execDbgMboxGo (r : Req) (len : Fin 131072) (env : CmdEnv) (s : State) : Host.Outcome State Fault Refusal :=
  s.act (fun d => d.pageWrite r pgDBG 0x044 (2 ^ 31 + len) env)

end Sys2Proof.Machine
end

