-- ==== Sys2Proof/Machine/EventCmds.lean ====
section
/-! DEFINITION. The commands of the event matrix and the piton path (03_event_matrix.md). -/

namespace Sys2Proof.Machine

open Sys2Proof

/-- TOU_HOLD_EXPIRY (R80). -/
def execTouHoldExpiry (n : Fin 64) (s : State) : Host.Outcome State Fault Refusal := s.act (fun d => d.touHoldExpiry n)

/-- BI_QUIET_EXPIRY (R76). -/
def execBiQuietExpiry (n : Fin 128) (s : State) : Host.Outcome State Fault Refusal := s.act (fun d => d.biQuietExpiry n)

/-- BI_EDGE (R75). The pin takes level `l`, `off` CCLK after the last tick. -/
def execBiEdge (n : Fin 128) (l : Bool) (off : Nat) (s : State) : Host.Outcome State Fault Refusal := s.act (fun d => d.biEdge n l off)

/-- ALARM_RESET_ASSERT (R87). -/
def execAlarmResetAssert (s : State) : Host.Outcome State Fault Refusal := s.act (fun d => d.alarmReset)

/-- EVM_RAISE (R68). -/
def execEvmRaise (r : Req) (tag : BitVec 16) (src : Fin 1024) (s : State) : Host.Outcome State Fault Refusal :=
  s.write r (pgEVM) 0x04C (tag.toNat * 65536 + src)

/-- EVM_SNAPSHOT_REQUEST (R65). -/
def execEvmSnapshotRequest (r : Req) (s : State) : Host.Outcome State Fault Refusal := s.write r (pgEVM) 0x040 (1)

/-- BIO_CFG_WRITE (R547), `at_` CCLK after the last tick. -/
def execBioCfgWrite (r : Req) (n : Fin 128) (v : Word) (at_ : Fin 64) (s : State) : Host.Outcome State Fault Refusal :=
  s.act (fun d => { d with off := at_ }.pageWrite r pgBIO (0x200 + 4 * n) v.toNat)

/-- BIO_UNBLOCK_WRITE (R76). -/
def execBioUnblockWrite (r : Req) (k : Fin 4) (v : Word) (s : State) : Host.Outcome State Fault Refusal :=
  s.write r (pgBIO) (0x070 + 4 * k) (v.toNat)

/-- PIT_SWAP_REQUEST (R78). -/
def execPitSwapRequest (r : Req) (s : State) : Host.Outcome State Fault Refusal := s.write r (pgPIT) 0x040 (1)

/-- PIT_TERM_WRITE (R79). Words 0 to 3 are PIT_LITk, 4 and 5 the output mask. -/
def execPitTermWrite (r : Req) (k : Fin 6) (v : Word) (s : State) : Host.Outcome State Fault Refusal :=
  s.write r (pgPIT) (0x050 + 4 * k) (v.toNat)

/-- TOU_UNLATCH (R80). -/
def execTouUnlatch (r : Req) (hi : Bool) (v : Word) (s : State) : Host.Outcome State Fault Refusal :=
  s.write r (pgTOU) (if hi then 0x05C else 0x058) (v.toNat)

/-- TOU_MISM_CLEAR (R82). -/
def execTouMismClear (r : Req) (hi : Bool) (v : Word) (s : State) : Host.Outcome State Fault Refusal :=
  s.write r (pgTOU) (if hi then 0x054 else 0x050) (v.toNat)

end Sys2Proof.Machine
end

