-- ==== Sys2Proof/Machine/FabricCmds.lean ====
section
/-! DEFINITION. The commands of the rope and the Isdin fabric (20_isdin_fabric.md). A slot: its lane, the 32 bits of its body,
whether its code and CRC are good. -/

namespace Sys2Proof.Machine

open Sys2Proof

/-- ROPE_TICK_EDGE (R473). `elapsed` CCLK after the last tick; `mark` for the pulse of a second. -/
def execRopeTickEdge (elapsed : Nat) (mark : Bool) (env : TickEnv) (s : State) : Host.Outcome State Fault Refusal :=
  let own := s.dev.sys.powered && s.dev.ropeMember && s.dev.following && s.dev.rop.hold == 0
  { s with rr := if own then (s.rr + 1) % 112 else s.rr }.act (fun d => d.ropeTickEdge elapsed mark env)

/-- ROPE_TICK_LOSS (R476). -/
def execRopeTickLoss (s : State) : Host.Outcome State Fault Refusal := s.act (fun d => d.ropeTickLoss)

/-- ROPE_REJOIN (R476). -/
def execRopeRejoin (s : State) : Host.Outcome State Fault Refusal := s.act (fun d => d.ropeRejoin)

/-- ROPE_EVENT_SLOT (R479). -/
def execRopeEventSlot (lane : Fin 4) (bits : BitVec 40) (ok : Bool) (s : State) : Host.Outcome State Fault Refusal :=
  s.act (fun d => d.ropeEvent lane bits.toNat ok)

/-- ROPE_DATA_SLOT (R480). -/
def execRopeDataSlot (lane : Fin 4) (bits : BitVec 40) (ok : Bool) (s : State) : Host.Outcome State Fault Refusal :=
  s.act (fun d => d.ropeDataSlot lane bits.toNat ok)

/-- ROPE_CREDIT_SLOT (R480). -/
def execRopeCreditSlot (lane : Fin 4) (bits : BitVec 40) (ok : Bool) (s : State) : Host.Outcome State Fault Refusal :=
  s.act (fun d => d.ropeCreditSlot lane bits.toNat ok)

/-- ROPE_TIME_SLOT (R474). -/
def execRopeTimeSlot (lane : Fin 4) (bits : BitVec 40) (ok : Bool) (s : State) : Host.Outcome State Fault Refusal :=
  s.act (fun d => d.ropeTimeSlot lane bits.toNat ok)

/-- ROPE_STEP_SLOT (R475). -/
def execRopeStepSlot (lane : Fin 4) (bits : BitVec 40) (ok : Bool) (s : State) : Host.Outcome State Fault Refusal :=
  s.act (fun d => d.ropeStepSlot lane bits.toNat ok)

/-- ROPE_ORBIT_SLOT (R477). -/
def execRopeOrbitSlot (lane : Fin 4) (bits : BitVec 40) (ok : Bool) (s : State) : Host.Outcome State Fault Refusal :=
  s.act (fun d => d.ropeOrbitSlot lane bits.toNat ok)

/-- ROPE_ORBIT_HI_SLOT (R477). -/
def execRopeOrbitHiSlot (lane : Fin 4) (bits : BitVec 40) (ok : Bool) (s : State) : Host.Outcome State Fault Refusal :=
  s.act (fun d => d.ropeOrbitHi lane bits.toNat ok)

/-- ROPE_IDLE_SLOT (R470). -/
def execRopeIdleSlot (lane : Fin 4) (bits : BitVec 40) (ok : Bool) (s : State) : Host.Outcome State Fault Refusal :=
  s.act (fun d => d.ropeIdle lane bits.toNat ok)

/-- ROPE_MEMBER_LOSS (R480). -/
def execRopeMemberLoss (lane : Fin 4) (s : State) : Host.Outcome State Fault Refusal := s.act (fun d => d.ropeMemberLoss lane)

/-- ISD_LINK_ALIGN (R481). -/
def execIsdLinkAlign (p : Fin 8) (s : State) : Host.Outcome State Fault Refusal := s.act (fun d => d.isdAlign p)

/-- ISD_LINK_DOWN (R504). -/
def execIsdLinkDown (p : Fin 8) (s : State) : Host.Outcome State Fault Refusal := s.act (fun d => d.isdLinkDown p)

/-- ISD_HELLO (R491). -/
def execIsdHello (p : Fin 8) (f : Flit) (s : State) : Host.Outcome State Fault Refusal := s.act (fun d => d.isdHello p f)

/-- ISD_HELLO_TIMER (R491). -/
def execIsdHelloTimer (p : Fin 8) (s : State) : Host.Outcome State Fault Refusal := s.act (fun d => d.isdHelloTimer p)

/-- ISD_DATA_FLIT (R484). -/
def execIsdDataFlit (p : Fin 8) (f : Flit) (s : State) : Host.Outcome State Fault Refusal := s.act (fun d => d.isdData p f)

/-- ISD_IDLE_FLIT (R483). -/
def execIsdIdleFlit (p : Fin 8) (f : Flit) (s : State) : Host.Outcome State Fault Refusal := s.act (fun d => d.isdIdleIn p f)

/-- ISD_NAK (R485). -/
def execIsdNak (p : Fin 8) (f : Flit) (s : State) : Host.Outcome State Fault Refusal := s.act (fun d => d.isdNak p f)

/-- ISD_ACK_TIMEOUT (R485). -/
def execIsdAckTimeout (p : Fin 8) (s : State) : Host.Outcome State Fault Refusal := s.act (fun d => d.isdAckTimeout p)

/-- ISD_NAK_REPEAT (R484). -/
def execIsdNakRepeat (p : Fin 8) (s : State) : Host.Outcome State Fault Refusal := s.act (fun d => d.isdNakRepeat p)

/-- ISD_TIME_FLIT (R489). The command stands `off` CCLK after the last tick, the flit's first bit `age` eighths of a ns before
it. -/
def execIsdTimeFlit (p : Fin 8) (f : Flit) (off age : Nat) (s : State) : Host.Outcome State Fault Refusal :=
  s.act (fun d => d.isdTime p f off age)

/-- ISD_TIME_TIMER (R489). `fabric`: the node's servo takes its time from the fabric. -/
def execIsdTimeTimer (p : Fin 8) (off eighths : Nat) (fabric : Bool) (s : State) : Host.Outcome State Fault Refusal :=
  s.act (fun d => d.isdTimeTimer p off eighths fabric)

/-- ISD_TOPO (R493). -/
def execIsdTopo (p : Fin 8) (f : Flit) (s : State) : Host.Outcome State Fault Refusal := s.act (fun d => d.isdTopo p f)

/-- ISD_TOPO_TIMER (R493). -/
def execIsdTopoTimer (s : State) : Host.Outcome State Fault Refusal := s.act (fun d => d.isdTopoTimer)

/-- ISD_ELECTION_STANDS (R493). The numbers other nodes ask for, by uid. -/
def execIsdElectionStands (reqs : List (List Byte × Nat)) (s : State) : Host.Outcome State Fault Refusal :=
  s.act (fun d => d.isdElection reqs)

/-- ISD_ROUTE (R495). -/
def execIsdRoute (p : Fin 8) (f : Flit) (s : State) : Host.Outcome State Fault Refusal := s.act (fun d => d.isdRouteFlit p f)

/-- ISD_ADMIT_WRITE (R492). -/
def execIsdAdmitWrite (r : Req) (v : BitVec 8) (s : State) : Host.Outcome State Fault Refusal := s.write r (pgISD) 0x050 (v.toNat)

/-- ISD_ITEM_SEND (R498). -/
def execIsdItemSend (queue : Fin 16384) (s : State) : Host.Outcome State Fault Refusal := s.act (fun d => d.isdItem queue)

/-- ISD_REASSEMBLY_TIMEOUT (R499). The item at place `j` of those in reassembly. -/
def execIsdReassemblyTimeout (j : Nat) (s : State) : Host.Outcome State Fault Refusal := s.act (fun d => d.isdReassembly j)

/-- ISD_VC1_LATE_DROP (R486). -/
def execIsdVc1LateDrop (p : Fin 8) (s : State) : Host.Outcome State Fault Refusal := s.act (fun d => d.isdVc1Late p)

/-- ISD_XMAP_COMMIT (R498). -/
def execIsdXmapCommit (r : Req) (s : State) : Host.Outcome State Fault Refusal := s.write r (pgISD) 0x11C (1)

/-- ISD_XMAP_INVALIDATE (R498). -/
def execIsdXmapInvalidate (r : Req) (s : State) : Host.Outcome State Fault Refusal := s.write r (pgISD) 0x11C (2)

/-- ISD_XMAP_READ (R498). -/
def execIsdXmapRead (r : Req) (s : State) : Host.Outcome State Fault Refusal := s.write r (pgISD) 0x11C (3)

end Sys2Proof.Machine
end

