-- ==== Sys2Proof/Machine/FlashCmds.lean ====
section
/-! DEFINITION. The commands of the flash controller (16_flash.md). -/

namespace Sys2Proof.Machine

open Sys2Proof

/-- FLASH_PROGRAM (R394). `rivals` command a bank in the same CCLK (R393). -/
def execFlashProgram (r : Req) (rivals : List (Req × Fin 4)) (s : State) : Host.Outcome State Fault Refusal :=
  s.flash r rivals (fun d => d.flProgram r)

/-- FLASH_PROGRAM_COMPLETE (R394). -/
def execFlashProgramComplete (bank : Fin 4) (ok : Bool) (s : State) : Host.Outcome State Fault Refusal :=
  s.act (fun d => d.flProgramDone bank ok)

/-- FLASH_ERASE (R395). -/
def execFlashErase (r : Req) (rivals : List (Req × Fin 4)) (s : State) : Host.Outcome State Fault Refusal :=
  s.flash r rivals (fun d => d.flErase r)

/-- FLASH_ERASE_COMPLETE (R395). -/
def execFlashEraseComplete (bank : Fin 4) (ok : Bool) (s : State) : Host.Outcome State Fault Refusal :=
  s.act (fun d => d.flEraseDone bank ok)

/-- FLASH_SUSPEND (R396). -/
def execFlashSuspend (r : Req) (rivals : List (Req × Fin 4)) (s : State) : Host.Outcome State Fault Refusal :=
  s.flash r rivals (fun d => d.flSuspend r)

/-- FLASH_SUSPEND_COMPLETE (R396). -/
def execFlashSuspendComplete (bank : Fin 4) (s : State) : Host.Outcome State Fault Refusal := s.act (fun d => d.flSuspendDone bank)

/-- FLASH_RESUME (R396). -/
def execFlashResume (r : Req) (rivals : List (Req × Fin 4)) (s : State) : Host.Outcome State Fault Refusal :=
  s.flash r rivals (fun d => d.flResume r)

/-- FLASH_MARGIN_READ (R398). `ecc` and `mask`: what the cells give at that threshold. -/
def execFlashMarginRead (r : Req) (margin : Fin 4) (ecc : Fin 3) (mask : List Byte) (rivals : List (Req × Fin 4)) (s : State) : Host.Outcome State Fault Refusal :=
  s.flash r rivals (fun d => d.flMargin r margin ecc mask)

/-- FLASH_BLANK_CHECK (R392). `weak`: the first line that reads as not blank at erase-verify margin only. -/
def execFlashBlankCheck (r : Req) (weak : Option (Fin 1024)) (rivals : List (Req × Fin 4)) (s : State) : Host.Outcome State Fault Refusal :=
  s.flash r rivals (fun d => d.flBlank r (weak.map (fun x => x.val)))

/-- FLASH_BLOCK_INFO (R392). -/
def execFlashBlockInfo (r : Req) (rivals : List (Req × Fin 4)) (s : State) : Host.Outcome State Fault Refusal :=
  s.flash r rivals (fun d => d.flInfo r)

/-- FLASH_SUSPEND_LONG (R396). -/
def execFlashSuspendLong (bank : Fin 4) (s : State) : Host.Outcome State Fault Refusal := s.act (fun d => d.flSuspendLong bank)

end Sys2Proof.Machine
end

