-- ==== Sys2Proof/Machine/FlowCmds.lean ====
section
/-! DEFINITION. The commands of the traverse sequencer and of queues (05_traverse_sequencer.md, 06_queues_and_flow.md). -/

namespace Sys2Proof.Machine

open Sys2Proof

/-- TRV_INGRESS_PROGRAM (R121). The flag says that the pipelines have no room for the frame's blocks (R135, R136); `same` names the
datapaths whose frames arrived in the same CCLK, each with its flag (R140); `brk` the bus segment that fails the transfers (R296). -/
def execTrvIngressProgram (dp : Fin 12) (authOver : Bool) (same : List (Fin 12 × Bool)) (brk : Option (Fin 8)) (s : State) :
    Host.Outcome State Fault Refusal :=
  s.act (fun d => (dpOrder s.rr ((dp.val, authOver) :: same.map (fun x => (x.1.val, x.2)))).foldl (fun d x => d.trvIngress x.1 x.2)
    (d.withBreak brk))

/-- TRV_EGRESS_PROGRAM (R143). -/
def execTrvEgressProgram (queue : Fin 16384) (info : FrameMeta) (brk : Option (Fin 8)) (s : State) : Host.Outcome State Fault Refusal :=
  s.act (fun d => (d.withBreak brk).trvEgress queue info)

/-- TRV_ENTRY_COMMIT (R126). -/
def execTrvEntryCommit (r : Req) (s : State) : Host.Outcome State Fault Refusal := s.write r (pgTRV) 0x04C (1)

/-- TRV_ENTRY_INVALIDATE (R126). -/
def execTrvEntryInvalidate (r : Req) (s : State) : Host.Outcome State Fault Refusal := s.write r (pgTRV) 0x04C (2)

/-- TRV_ENTRY_READ (R146). -/
def execTrvEntryRead (r : Req) (s : State) : Host.Outcome State Fault Refusal := s.write r (pgTRV) 0x04C (3)

/-- TRV_STEP_WRITE (R128). -/
def execTrvStepWrite (r : Req) (v : Word) (s : State) : Host.Outcome State Fault Refusal := s.write r (pgTRV) 0x078 (v.toNat)

/-- TRV_MISS_WRITE (R124). -/
def execTrvMissWrite (r : Req) (dp : Fin 12) (v : Word) (s : State) : Host.Outcome State Fault Refusal :=
  s.write r (pgTRV) (0x100 + 4 * dp) (v.toNat)

/-- TRV_CPL_MAP_WRITE (R134). -/
def execTrvCplMapWrite (r : Req) (p : Fin 8) (v : Word) (s : State) : Host.Outcome State Fault Refusal :=
  s.write r (pgTRV) (0x0E0 + 4 * p) (v.toNat)

/-- TRV_CPL_RELEASE (R134). -/
def execTrvCplRelease (p : Fin 8) (s : State) : Host.Outcome State Fault Refusal := s.act (fun d => d.cplMapRelease p)

/-- TRV_LOSS_SCAN (R141). -/
def execTrvLossScan (entry : Fin 16384) (s : State) : Host.Outcome State Fault Refusal := s.act (fun d => d.lossScan entry)

/-- QMG_QUEUE_COMMIT (R151). The staged descriptor has valid = 1. -/
def execQmgQueueCommit (r : Req) (s : State) : Host.Outcome State Fault Refusal := s.write r (pgQMG) 0x054 (1)

/-- QMG_QUEUE_INVALIDATE (R549). A commit whose staged word 0 has valid = 0; with valid = 1 it is QMG_QUEUE_COMMIT. -/
def execQmgQueueInvalidate (r : Req) (s : State) : Host.Outcome State Fault Refusal :=
  s.act (fun d => if d.stagedInvalid r then d.pageWrite r pgQMG 0x054 1 else d)

/-- QMG_QUEUE_READ (R175). -/
def execQmgQueueRead (r : Req) (s : State) : Host.Outcome State Fault Refusal := s.write r (pgQMG) 0x054 (2)

/-- QMG_QUEUE_ENABLE (R173). -/
def execQmgQueueEnable (r : Req) (s : State) : Host.Outcome State Fault Refusal := s.write r (pgQMG) 0x054 (3)

/-- QMG_QUEUE_DISABLE (R173). -/
def execQmgQueueDisable (r : Req) (s : State) : Host.Outcome State Fault Refusal := s.write r (pgQMG) 0x054 (4)

/-- QMG_QUEUE_DRAIN (R173). -/
def execQmgQueueDrain (r : Req) (s : State) : Host.Outcome State Fault Refusal := s.write r (pgQMG) 0x054 (5)

/-- QMG_QUEUE_DRAIN_DISCARD (R173). -/
def execQmgQueueDrainDiscard (r : Req) (s : State) : Host.Outcome State Fault Refusal := s.write r (pgQMG) 0x054 (6)

/-- QMG_PRODUCER_DOORBELL (R155). `rivals` ring for their queues in the same CCLK (R155). -/
def execQmgProducerDoorbell (r : Req) (v : Word) (rivals : List (Req × Fin 16384)) (s : State) : Host.Outcome State Fault Refusal :=
  if losesDoorbell s.rr r (bitsOf v.toNat 29 16) (rivals.map (fun x => (x.1, x.2.val))) then s.act (fun d => d.report pgQMG .busy)
  else s.write r pgQMG 0x080 v.toNat

/-- QMG_CLAIM (R157). -/
def execQmgClaim (r : Req) (queue : Fin 16384) (count : BitVec 16) (s : State) : Host.Outcome State Fault Refusal :=
  s.write r (pgQMG) 0x084 (2 ^ 31 + queue.val * 65536 + count.toNat)

/-- QMG_FREE (R157). -/
def execQmgFree (r : Req) (queue : Fin 16384) (count : BitVec 16) (s : State) : Host.Outcome State Fault Refusal :=
  s.write r (pgQMG) 0x084 (queue.val * 65536 + count.toNat)

/-- QMG_COMPLETE (R159). -/
def execQmgComplete (r : Req) (v : Word) (s : State) : Host.Outcome State Fault Refusal := s.write r (pgQMG) 0x090 (v.toNat)

/-- QMG_TAG_ALLOCATE (R168). -/
def execQmgTagAllocate (r : Req) (s : State) : Host.Outcome State Fault Refusal := s.write r (pgQMG) 0x098 (1)

/-- QMG_TAG_FREE (R168). -/
def execQmgTagFree (r : Req) (tag : BitVec 16) (s : State) : Host.Outcome State Fault Refusal :=
  s.write r (pgQMG) 0x098 (tag.toNat * 65536 + 2)

/-- QMG_TAG_TIMEOUT (R170). A tag of another generation names no item. -/
def execQmgTagTimeout (tag : Fin 65536) (s : State) : Host.Outcome State Fault Refusal :=
  s.act (fun d => if d.tagLive tag then d.tagTimeout (tag % 2048) else d)

end Sys2Proof.Machine
end

