-- ==== Sys2Proof/Machine/GateCmds.lean ====
section
/-! DEFINITION. The gates of the Refuge (R263, R264, R275, R362): the engine traps into its gate, unless it waits there already,
and the Refuge answers. -/

namespace Sys2Proof.Machine

open Sys2Proof

/-- GATE_INFO (R264). -/
def execGateInfo (e : Fin 96) (same : List (Fin 96)) (s : State) : Host.Outcome State Fault Refusal :=
  s.act (fun d => d.gateIssue s.rr e 240 same)

/-- GATE_RECORD (R264). -/
def execGateRecord (e : Fin 96) (same : List (Fin 96)) (s : State) : Host.Outcome State Fault Refusal :=
  s.act (fun d => d.gateIssue s.rr e 241 same)

/-- GATE_RANDOM (R264). -/
def execGateRandom (e : Fin 96) (same : List (Fin 96)) (s : State) : Host.Outcome State Fault Refusal :=
  s.act (fun d => d.gateIssue s.rr e 242 same)

/-- GATE_DUMP (R275). -/
def execGateDump (e : Fin 96) (same : List (Fin 96)) (s : State) : Host.Outcome State Fault Refusal :=
  s.act (fun d => d.gateIssue s.rr e 243 same)

/-- GATE_RESTART (R264). -/
def execGateRestart (e : Fin 96) (same : List (Fin 96)) (s : State) : Host.Outcome State Fault Refusal :=
  s.act (fun d => d.gateIssue s.rr e 244 same)

/-- GATE_ATTEST (R362). -/
def execGateAttest (e : Fin 96) (same : List (Fin 96)) (s : State) : Host.Outcome State Fault Refusal :=
  s.act (fun d => d.gateIssue s.rr e 245 same)

/-- GATE_KEY_INSTALL (R362). -/
def execGateKeyInstall (e : Fin 96) (same : List (Fin 96)) (s : State) : Host.Outcome State Fault Refusal :=
  s.act (fun d => d.gateIssue s.rr e 246 same)

/-- GATE_KEY_ERASE (R362). -/
def execGateKeyErase (e : Fin 96) (same : List (Fin 96)) (s : State) : Host.Outcome State Fault Refusal :=
  s.act (fun d => d.gateIssue s.rr e 247 same)

/-- GATE_SIGN (R362). -/
def execGateSign (e : Fin 96) (same : List (Fin 96)) (s : State) : Host.Outcome State Fault Refusal :=
  s.act (fun d => d.gateIssue s.rr e 248 same)

/-- GATE_SECVER_ADVANCE (R362). -/
def execGateSecverAdvance (e : Fin 96) (same : List (Fin 96)) (s : State) : Host.Outcome State Fault Refusal :=
  s.act (fun d => d.gateIssue s.rr e 249 same)

/-- GATE_COMMAND (R362). -/
def execGateCommand (e : Fin 96) (same : List (Fin 96)) (s : State) : Host.Outcome State Fault Refusal :=
  s.act (fun d => d.gateIssue s.rr e 250 same)

/-- GATE_DEBUG_STATUS (R362). -/
def execGateDebugStatus (e : Fin 96) (same : List (Fin 96)) (s : State) : Host.Outcome State Fault Refusal :=
  s.act (fun d => d.gateIssue s.rr e 251 same)

/-- GATE_RESERVED (R264). -/
def execGateReserved (e : Fin 96) (j : Fin 4) (same : List (Fin 96)) (s : State) : Host.Outcome State Fault Refusal :=
  s.act (fun d => d.gateIssue s.rr e (252 + j) same)

/-- GATE_ANSWER (R263). -/
def execGateAnswer (e : Fin 96) (same : List (Fin 96)) (s : State) : Host.Outcome State Fault Refusal := s.act (fun d => d.gateReplies s.rr (e :: same))

/-- GATE_TIMEOUT (R263). -/
def execGateTimeout (e : Fin 96) (s : State) : Host.Outcome State Fault Refusal := s.act (fun d => d.gateTimeout e)

/-- REFUGE_SERVICE_COMPLETE (R362). The service at place `j` of those outstanding. -/
def execRefugeServiceComplete (j : Nat) (env : CmdEnv) (s : State) : Host.Outcome State Fault Refusal :=
  s.act (fun d => (d.serviceComplete j env).retiredNow)

end Sys2Proof.Machine
end

