-- ==== Sys2Proof/Machine/MemCmds.lean ====
section
/-! DEFINITION. The memory and address-generator instructions of an engine (R226 to R231, R243). -/

namespace Sys2Proof.Machine

open Sys2Proof

/-- ATSWAP (R231); `same` are the atomics that other engines issue in the same CCLK. -/
def execAtswap (e : Fin 96) (rd rs rt : Fin 32) (v : MemEnv) (same : List Atomic) (s : State) : Host.Outcome State Fault Refusal :=
  s.act (fun d => d.atomics s.rr (⟨0, e, rd, rs, rt, v⟩ :: same))

/-- ATADD (R231); `same` are the atomics that other engines issue in the same CCLK. -/
def execAtadd (e : Fin 96) (rd rs rt : Fin 32) (v : MemEnv) (same : List Atomic) (s : State) : Host.Outcome State Fault Refusal :=
  s.act (fun d => d.atomics s.rr (⟨1, e, rd, rs, rt, v⟩ :: same))

/-- ATCAS (R231); `same` are the atomics that other engines issue in the same CCLK. -/
def execAtcas (e : Fin 96) (rd rs rt : Fin 32) (v : MemEnv) (same : List Atomic) (s : State) : Host.Outcome State Fault Refusal :=
  s.act (fun d => d.atomics s.rr (⟨2, e, rd, rs, rt, v⟩ :: same))

/-- LDW (R243). -/
def execLdw (e : Fin 96) (short : Bool) (rd rs : Fin 32) (imm : BitVec 12) (v : MemEnv) (s : State) : Host.Outcome State Fault Refusal :=
  s.act (fun d => d.issue e (formLen short) (fun d _ _ => d.opMem e 0 rd rs imm.toNat (laterOf v s.rr (.eng e))))

/-- LDH (R243). -/
def execLdh (e : Fin 96) (rd rs : Fin 32) (imm : BitVec 12) (v : MemEnv) (s : State) : Host.Outcome State Fault Refusal :=
  s.act (fun d => d.issue e 4 (fun d _ _ => d.opMem e 1 rd rs imm.toNat (laterOf v s.rr (.eng e))))

/-- LDHU (R243). -/
def execLdhu (e : Fin 96) (rd rs : Fin 32) (imm : BitVec 12) (v : MemEnv) (s : State) : Host.Outcome State Fault Refusal :=
  s.act (fun d => d.issue e 4 (fun d _ _ => d.opMem e 2 rd rs imm.toNat (laterOf v s.rr (.eng e))))

/-- LDB (R243). -/
def execLdb (e : Fin 96) (rd rs : Fin 32) (imm : BitVec 12) (v : MemEnv) (s : State) : Host.Outcome State Fault Refusal :=
  s.act (fun d => d.issue e 4 (fun d _ _ => d.opMem e 3 rd rs imm.toNat (laterOf v s.rr (.eng e))))

/-- LDBU (R243). -/
def execLdbu (e : Fin 96) (rd rs : Fin 32) (imm : BitVec 12) (v : MemEnv) (s : State) : Host.Outcome State Fault Refusal :=
  s.act (fun d => d.issue e 4 (fun d _ _ => d.opMem e 4 rd rs imm.toNat (laterOf v s.rr (.eng e))))

/-- STW (R243). -/
def execStw (e : Fin 96) (short : Bool) (rd rs : Fin 32) (imm : BitVec 12) (v : MemEnv) (s : State) : Host.Outcome State Fault Refusal :=
  s.act (fun d => d.issue e (formLen short) (fun d _ _ => d.opMem e 5 rd rs imm.toNat (laterOf v s.rr (.eng e))))

/-- STH (R243). -/
def execSth (e : Fin 96) (rd rs : Fin 32) (imm : BitVec 12) (v : MemEnv) (s : State) : Host.Outcome State Fault Refusal :=
  s.act (fun d => d.issue e 4 (fun d _ _ => d.opMem e 6 rd rs imm.toNat (laterOf v s.rr (.eng e))))

/-- STB (R243). -/
def execStb (e : Fin 96) (rd rs : Fin 32) (imm : BitVec 12) (v : MemEnv) (s : State) : Host.Outcome State Fault Refusal :=
  s.act (fun d => d.issue e 4 (fun d _ _ => d.opMem e 7 rd rs imm.toNat (laterOf v s.rr (.eng e))))

/-- AG_LOAD (R226). Op 0 to 4: ldw, ldh, ldhu, ldb, ldbu. -/
def execAgLoad (e : Fin 96) (short : Bool) (op : Fin 5) (rd : Fin 32) (m : Fin 8) (upd : Bool) (v : MemEnv) (s : State) : Host.Outcome State Fault Refusal :=
  s.act (fun d => d.issue e (formLen short) (fun d _ _ => d.opAg e op rd m upd (laterOf v s.rr (.eng e))))

/-- AG_STORE (R226). Op 0 to 2: stw, sth, stb. -/
def execAgStore (e : Fin 96) (short : Bool) (op : Fin 3) (rd : Fin 32) (m : Fin 8) (upd : Bool) (v : MemEnv) (s : State) : Host.Outcome State Fault Refusal :=
  s.act (fun d => d.issue e (formLen short) (fun d _ _ => d.opAg e (5 + op) rd m upd (laterOf v s.rr (.eng e))))

/-- VLD (R229). -/
def execVld (e : Fin 96) (vd : Fin 16) (m : Fin 8) (sz upd : Bool) (v : MemEnv) (s : State) : Host.Outcome State Fault Refusal :=
  s.act (fun d => d.issue e 4 (fun d _ _ => d.opVec e false vd m sz upd (laterOf v s.rr (.eng e))))

/-- VST (R229). -/
def execVst (e : Fin 96) (vd : Fin 16) (m : Fin 8) (sz upd : Bool) (v : MemEnv) (s : State) : Host.Outcome State Fault Refusal :=
  s.act (fun d => d.issue e 4 (fun d _ _ => d.opVec e true vd m sz upd (laterOf v s.rr (.eng e))))

/-- VLDR (R243). -/
def execVldr (e : Fin 96) (vd : Fin 16) (m : Fin 8) (sz upd : Bool) (v : MemEnv) (s : State) : Host.Outcome State Fault Refusal :=
  s.act (fun d => d.issue e 4 (fun d _ _ => d.opVldr e vd m sz upd (laterOf v s.rr (.eng e))))

/-- AGSET (R243). -/
def execAgset (e : Fin 96) (m : Fin 8) (field : Fin 5) (rs : Fin 32) (s : State) : Host.Outcome State Fault Refusal :=
  s.act (fun d => d.issue e 4 (fun d _ _ => d.opAgset e m field rs))

/-- AGGET (R243). -/
def execAgget (e : Fin 96) (rd : Fin 32) (m : Fin 8) (field : Fin 5) (s : State) : Host.Outcome State Fault Refusal :=
  s.act (fun d => d.compute e 4 (fun d => d.opAgget e rd m field))

/-- AGADD (R226). -/
def execAgadd (e : Fin 96) (m : Fin 8) (imm : BitVec 13) (s : State) : Host.Outcome State Fault Refusal :=
  s.act (fun d => d.issue e 4 (fun d _ _ => d.opAgadd e m imm.toNat))

end Sys2Proof.Machine
end

