-- ==== Sys2Proof/Machine/MemoryCmds.lean ====
section
/-! DEFINITION. The commands of the memories (11_memory_and_registers.md) and the fatal dump (R424). -/

namespace Sys2Proof.Machine

open Sys2Proof

/-- SCRUB_ROW (R295). Memory class, bank, what each code word of the bank's next row holds: 0 good, 1 a single-bit, 2 a double-bit error;
whether a word of the row is written before the write-back. -/
def execScrubRow (cls : Fin 6) (bank : Nat) (ecc : List (Fin 3)) (hit : Bool) (s : State) : Host.Outcome State Fault Refusal :=
  s.act (fun d => d.scrub cls bank (ecc.map (·.val)) hit)

/-- DRAM_INIT_COMPLETE (R297). -/
def execDramInitComplete (k : Fin 2) (ok : Bool) (s : State) : Host.Outcome State Fault Refusal := s.act (fun d => d.dramInit k ok)

/-- DRAM_TEMPERATURE_REPORT (R297). -/
def execDramTemperatureReport (k : Fin 2) (hot : Bool) (s : State) : Host.Outcome State Fault Refusal :=
  s.act (fun d => d.dramTemperature k hot)

/-- MCE_GUARD_WRITE (R300). -/
def execMceGuardWrite (r : Req) (v : Word) (s : State) : Host.Outcome State Fault Refusal := s.write r (pgMCE) 0x040 (v.toNat)

/-- GUARD_INIT_COMPLETE (R300). -/
def execGuardInitComplete (s : State) : Host.Outcome State Fault Refusal := s.act (fun d => d.guardDone)

/-- FATAL_DUMP (R424). -/
def execFatalDump (s : State) : Host.Outcome State Fault Refusal := s.act (fun d => d.fatalDump)

/-- DUMP_CP7_TIMEOUT (R424). -/
def execDumpCp7Timeout (s : State) : Host.Outcome State Fault Refusal := s.act (fun d => d.dumpTakeCp7)

end Sys2Proof.Machine
end

