-- ==== Sys2Proof/Machine/NfcCmds.lean ====
section
/-! DEFINITION. The commands of the contactless reader and the tag island (19_contactless.md). -/

namespace Sys2Proof.Machine

open Sys2Proof

/-- NFC_POLL (R451). The field of another reader, the tags in the field, and those the 12 places leave over. -/
def execNfcPoll (ext : Bool) (tags : List NfcTag) (left : Nat) (s : State) : Host.Outcome State Fault Refusal :=
  s.act (fun d => d.nfcItem 1 { ext := ext, tags := tags, left := left })

/-- NFC_ACTIVATE (R454). Failed attempts, whether time runs out, and the answer. -/
def execNfcActivate (ext : Bool) (fails : List (Fin 5 × Nat)) (late : Bool) (ans : Option (List Byte)) (crcBad : Bool) (s : State) : Host.Outcome State Fault Refusal :=
  s.act (fun d => d.nfcItem 2 { ext := ext, fails := fails.map (fun x => (x.1.val, x.2)), late := late, ans := ans, crcBad := crcBad })

/-- NFC_EXCHANGE (R455). -/
def execNfcExchange (fails : List (Fin 5 × Nat)) (late : Bool) (ans : Option (List Byte)) (s : State) : Host.Outcome State Fault Refusal :=
  s.act (fun d => d.nfcItem 3 { fails := fails.map (fun x => (x.1.val, x.2)), late := late, ans := ans })

/-- NFC_DESELECT (R453). -/
def execNfcDeselect (s : State) : Host.Outcome State Fault Refusal := s.act (fun d => d.nfcItem 4 {})

/-- NFC_FIELD_OFF (R449). -/
def execNfcFieldOff (s : State) : Host.Outcome State Fault Refusal := s.act (fun d => d.nfcItem 5 {})

/-- NFC_FIELD_IDLE_TIMEOUT (R449). -/
def execNfcFieldIdleTimeout (s : State) : Host.Outcome State Fault Refusal := s.act (fun d => d.nfcFieldIdle)

/-- NFC_EXT_FIELD_TIMEOUT (R448). -/
def execNfcExtFieldTimeout (s : State) : Host.Outcome State Fault Refusal := s.act (fun d => d.nfcExtTimeout)

/-- NFC_SESSION_WAIT_TIMEOUT (R448). -/
def execNfcSessionWaitTimeout (s : State) : Host.Outcome State Fault Refusal := s.act (fun d => d.nfcSessionTimeout)

/-- NFC_LPCD_PING (R457). What the antenna measures, and the tags a detection poll meets. -/
def execNfcLpcdPing (amp phase : Nat) (ovr : Bool) (tags : List NfcTag) (left : Nat) (s : State) : Host.Outcome State Fault Refusal :=
  s.act (fun d => d.nfcPing amp phase ovr tags left)

/-- ISLAND_FIELD_ON (R458). -/
def execIslandFieldOn (s : State) : Host.Outcome State Fault Refusal := s.always Dev.islFieldOn

/-- ISLAND_TYPE_A_FRAME (R458). -/
def execIslandTypeAFrame (f : List Byte) (nbits : Nat) (s : State) : Host.Outcome State Fault Refusal :=
  s.always (fun d => d.islTypeA f nbits)

/-- ISLAND_PPS (R458). -/
def execIslandPps (dsi dri : Fin 4) (s : State) : Host.Outcome State Fault Refusal := s.always (fun d => d.islPps dsi dri)

/-- ISLAND_SELECT (R461). The bytes of an APDU; the backup supply in mV. -/
def execIslandSelect (b : List Byte) (mv : Nat) (s : State) : Host.Outcome State Fault Refusal :=
  s.always (fun d => d.islApdu 1 b false mv none)

/-- ISLAND_READ (R462). `decayed`: the checksum of the file fails. -/
def execIslandRead (b : List Byte) (decayed : Bool) (mv : Nat) (s : State) : Host.Outcome State Fault Refusal :=
  s.always (fun d => d.islApdu 2 b decayed mv none)

/-- ISLAND_GET_STATUS (R463). -/
def execIslandGetStatus (b : List Byte) (mv : Nat) (s : State) : Host.Outcome State Fault Refusal :=
  s.always (fun d => d.islApdu 3 b false mv none)

/-- ISLAND_WRITE_NOTE (R465). `cut`: the field collapses after that step, the mark of step 4 then valid or not. -/
def execIslandWriteNote (b : List Byte) (mv : Nat) (cut : Option (Fin 6 × Bool)) (s : State) : Host.Outcome State Fault Refusal :=
  s.always (fun d => d.islApdu 4 b false mv (cut.map (fun x => (x.1.val, x.2))))

/-- ISLAND_SESSION_END (R460). 0 S(DESELECT), 1 HLTA, 2 the loss of the field. -/
def execIslandSessionEnd (how : Fin 3) (s : State) : Host.Outcome State Fault Refusal := s.always (fun d => d.islEnd how)

/-- NFC_NOTE_DATA_READ (R464). -/
def execNfcNoteDataRead (r : Req) (s : State) : Host.Outcome State Fault Refusal := s.act (fun d => d.pageRead r pgNFC 0x07C)

end Sys2Proof.Machine
end

