-- ==== Sys2Proof/Machine/HstPort.lean ====
section
/-! DEFINITION. HST, the host port: inbound requests, MSI-X table, device-originated requests, link and resets (R114 to R119). -/

namespace Sys2Proof.Machine

open Sys2Proof

/-- A record of HST (R119: unit 12). -/
def Dev.hstRec (d : Dev) (code sev p2 : Nat) : Dev := d.rated pgHST code 12 sev 12 p2

/-- HST serves requests: its link is up and it is not held in reset. -/
def Dev.hstLive (d : Dev) : Bool := d.flag HST_LINK_up && d.inReset.get pgHST 0 == 0 && !d.bivouac

/-- AER: an error's status bit, its message and EV0972 (R118, R119). The bits are those of PCI Express Base (log entry 9). -/
def Dev.aer (d : Dev) (severity bit : Nat) : Dev :=
  let h := d.hst
  let d := { d with hst := if severity = 0 then { h with aerC := setBits h.aerC bit bit 1 } else { h with aerU := setBits h.aerU bit bit 1 } }
  (d.emit (.aerMsg severity)).raise 972 (4 + severity)

/-- A read is completed with Completer Abort; a write is discarded (R116). -/
def Dev.hstAbortCpl (d : Dev) (read : Bool) : Dev :=
  let d := { d with hst := { d.hst with aerU := setBits d.hst.aerU 15 15 1 } }
  (if read then d.emit (.hostCpl 4 []) else d).answer .denied

/-- A refused access: HST_ERR.denied, the address of the first, record 0x4033 (R116, R119). -/
def Dev.hstDenied (d : Dev) (addr : Nat) (read : Bool) : Dev :=
  let d := if d.flag HST_ERR_denied then d
    else (d.wr HST_ERR_ADDR_LO_addr (addr % 2 ^ 32)).wr HST_ERR_ADDR_HI_addr (addr / 2 ^ 32 % 256)
  ((d.wr HST_ERR_denied 1).hstRec 0x4033 6 (addr % 2 ^ 32)).hstAbortCpl read

/-- A request outside every BAR is answered with Unsupported Request (R116); it has no status code. -/
def Dev.hstUnsupported (d : Dev) (read : Bool) : Dev :=
  let d := (d.wr HST_ERR_unsupported 1).hstRec 0x4032 3 0
  let d := { d with hst := { d.hst with aerU := setBits d.hst.aerU 20 20 1 } }
  if read then d.emit (.hostCpl 1 []) else d

/-- A read is completed with its data. -/
def Dev.hstData (d : Dev) (st : Status) (bytes : List Byte) : Dev := (d.emit (.hostCpl 0 bytes)).answer st (leValue (bytes.take 4))

/-! ### BAR0: register pages -/

/-- A read that ends with a status PCI Express has no answer for returns a free value (log entry 100). -/
def Dev.hstReadValue (d : Dev) : Dev :=
  let r := d.resp.status.getD .ok
  if r = .ok ∨ r = .denied then d.hstData r (leBytes d.resp.data.toNat 4)
  else
    let x := d.draw .memory
    x.2.hstData r (leBytes x.1 4)

/-- A dword of a register page, read (`w` none) or written. -/
def Dev.hstPage (d : Dev) (off : Nat) (w : Option (List Byte)) (n : Nat) (env : MemEnv) : Dev :=
  if n ≠ 4 ∨ off % 4 ≠ 0 then d.hstAbortCpl w.isNone
  else if env.parity then
    let d := d.parityError (off / 4096) 2 (0xF0000000 + off) (reqId .hst)
    if w.isSome then d.answer .faultDetected
    else
      let x := d.draw .memory
      x.2.hstData .faultDetected (leBytes x.1 4)
  else
    let page := off / 4096
    let x := match w with
      | some b => d.pageWrite .hst page (off % 4096) (leValue b)
      | none => d.pageRead .hst page (off % 4096)
    if x.resp.status = some .denied ∧ (d.accessCheck .hst page (off % 4096) w.isNone = .denied) then
      x.hstDenied (0xF0000000 + off) w.isNone
    else if w.isNone then x.hstReadValue else x

/-! ### BAR2: the stream buffer -/

/-- The stream buffer under the regions opened to HST (R150). -/
def Dev.hstBuffer (d : Dev) (off : Nat) (w : Option (List Byte)) (n : Nat) (env : MemEnv) : Dev :=
  let a := sbBase + off
  if !d.devReach .hst w.isSome a n then d.hstDenied a w.isNone
  else
    let g := d.memGuard (reqId .hst) a env
    match w with
    | some b =>
      let x := if g.1 = .ok then g.2.memStore .hst a b env.rivals else g
      x.2.answer x.1
    | none =>
      let x := if g.1 = .ok then g.2.memLoad .hst a n else (g.1, 0, g.2)
      if x.1 = .ok then x.2.2.hstData .ok (leBytes x.2.1 n)
      else
        let y := x.2.2.draw .memory
        y.2.hstData x.1 (leBytes y.1 n)

/-! ### BAR4: the MSI-X table and the PBA (R115, R117) -/

/-- Byte `i` of BAR4. Vectors are masked at reset (PCI Express Base; log entry 9). -/
def Dev.msixByte (d : Dev) (i : Nat) : Byte :=
  if i < 0x400 then BitVec.ofNat 8 (d.hst.msix.get (i / 4) (if i / 4 % 4 = 3 then 1 else 0) / 2 ^ (8 * (i % 4)))
  else if 0x800 ≤ i ∧ i < 0x808 then BitVec.ofNat 8 (d.hst.pba.toNat / 2 ^ (8 * (i - 0x800)))
  else 0

/-- Writes word `k` of the table; unmasking a vector sends the message it holds (R117). -/
def Dev.msixWord (d : Dev) (k v : Nat) : Dev :=
  let was := d.hst.msix.get (4 * (k / 4) + 3) 1 % 2
  let d := { d with hst := { d.hst with msix := d.hst.msix.set k v (if k % 4 = 3 then 1 else 0) } }
  let now := d.hst.msix.get (4 * (k / 4) + 3) 1 % 2
  if was = 1 ∧ now = 0 ∧ d.hst.pba.getLsbD (k / 4) ∧ !d.hst.allMasked then
    ({ d with hst := { d.hst with pba := setBitV d.hst.pba (k / 4) false } }).msix (k / 4)
  else d

/-- An access to BAR4; the PBA is not written. -/
def Dev.hstMsix (d : Dev) (off : Nat) (w : Option (List Byte)) (n : Nat) : Dev :=
  match w with
  | none => d.hstData .ok ((List.range n).map (fun i => d.msixByte (off + i)))
  | some b =>
    let ks := (List.range 256).filter (fun k => decide (off < 4 * k + 4) && decide (4 * k < off + b.length))
    (ks.foldl (fun d k =>
      let old := (List.range 4).map (fun i => d.msixByte (4 * k + i))
      let new := (List.range 4).map (fun i =>
        if off ≤ 4 * k + i ∧ 4 * k + i < off + b.length then byteAt b (4 * k + i - off) else byteAt old i)
      d.msixWord k (leValue new)) d).answer .ok

/-- MSIX_UNMASK: the host clears the mask bit of a vector. -/
def Dev.msixUnmask (d : Dev) (k : Nat) : Dev :=
  if d.hstLive then (d.msixWord (4 * k + 3) (d.hst.msix.get (4 * k + 3) 1 / 2 * 2)).answer .ok else d

/-! ### Configuration space (R114; the layout of PCI Express Base, log entry 9) -/

/-- The message of every vector that is pending and no longer masked. -/
def Dev.msixFlush (d : Dev) : Dev :=
  (List.range 64).foldl (fun d k =>
    if d.hst.pba.getLsbD k && d.hst.msix.get (4 * k + 3) 1 % 2 == 0 && !d.hst.allMasked then
      ({ d with hst := { d.hst with pba := setBitV d.hst.pba k false } }).msix k
    else d) d

/-- The bits of a configuration dword that a write changes, and those that read as one whatever was written. -/
def cfgMask (off : Nat) : Nat × Nat :=
  match off with
  | 0x04 => (0x406, 0x00100000)
  | 0x10 => (0xF0000000, 0x4)
  | 0x18 => (0xFF000000, 0xC)
  | 0x20 => (0xFFFF0000, 0x4)
  | 0x14 | 0x1C | 0x24 => (0xFFFFFFFF, 0)
  | 0x34 => (0, 0x40)
  | 0x3C => (0xFF, 0)
  | 0x40 => (0, 0x00035001)
  | 0x44 => (0x3, 0)
  | 0x50 => (0, 0x00029010)
  | 0x54 => (0, 0x10000002)
  | 0x58 => (0x70E0, 0)
  | 0x5C => (0, 0x00000844)
  | 0x60 => (0x2, 0)
  | 0x90 => (0xC0000000, 0x003F0011)
  | 0x94 => (0, 0x4)
  | 0x98 => (0, 0x804)
  | 0x100 => (0, 0x00010001)
  | _ => (0, 0)

/-- A configuration dword as it reads. -/
def Dev.cfgWord (d : Dev) (off : Nat) : Nat :=
  match off with
  | 0x00 => d.hst.ids.1
  | 0x08 => 0x11800000
  | 0x2C => d.hst.ids.2
  | 0x78 => d.rd HST_CPL_TO_range
  | 0x104 => d.hst.aerU
  | 0x110 => d.hst.aerC
  | _ => (d.hst.cfg.get off 0 &&& (cfgMask off).1) ||| (cfgMask off).2

/-- A write of a configuration dword: the power state (D0 or D3hot), the function mask of MSI-X, the completion timeout, AER status
(a one clears); the others are stored. -/
def Dev.cfgWrite (d : Dev) (off v : Nat) : Dev :=
  let d' := { d with hst := { d.hst with cfg := d.hst.cfg.set off (v % 2 ^ 32) 0 } }
  match off with
  | 0x44 => if v % 4 = 0 ∨ v % 4 = 3 then d'.wr HST_LINK_d3hot (b2n (v % 4 == 3)) else d
  | 0x78 => d.wr HST_CPL_TO_range (v % 16)
  | 0x90 => { d' with hst := { d'.hst with allMasked := v.testBit 30 } }.msixFlush
  | 0x104 => { d with hst := { d.hst with aerU := d.hst.aerU - (d.hst.aerU &&& v) } }
  | 0x110 => { d with hst := { d.hst with aerC := d.hst.aerC - (d.hst.aerC &&& v) } }
  | _ => d'

/-- A configuration request: dwords of the function's space. -/
def Dev.hstConfig (d : Dev) (off : Nat) (w : Option (List Byte)) (n : Nat) : Dev :=
  let off := off % 4096 / 4 * 4
  match w with
  | some b => (d.cfgWrite off (leValue (b.take 4))).emit (.hostCpl 0 [])
  | none => d.hstData .ok (leBytes (d.cfgWord off) (min 4 n))

/-! ### Inbound requests -/

/-- A malformed TLP, which a write of more than 512 bytes or a request for more than 4,096 is too (R114, R119). -/
def Dev.hstMalformed (d : Dev) : Dev := ((d.wr HST_ERR_malformed 1).hstRec 0x4030 4 0).aer 2 18

/-- A poisoned TLP (R119). -/
def Dev.hstPoisoned (d : Dev) : Dev := ((d.wr HST_ERR_poisoned 1).hstRec 0x4031 4 0).aer 1 12

/-- HST_INBOUND_REQUEST. `tlp`: 0 sound, 1 malformed, 2 poisoned, 3 received after a correctable link error; `bar`: 0, 2 or 4 for
the BARs of R115, 6 for a configuration request, another outside; `w`: the bytes of a write. An access that does not end within its
BAR is outside it; in D3hot every memory request is. -/
def Dev.hstRequest (d : Dev) (tlp bar off : Nat) (w : Option (List Byte)) (n : Nat) (env : MemEnv) : Dev :=
  if !d.hstLive then d
  else
    let n := match w with | some b => b.length | none => n
    let big := match w with | some _ => decide (512 < n) | none => decide (4096 < n)
    if tlp == 1 || big then d.hstMalformed
    else if tlp = 2 then d.hstPoisoned
    else
      let d := if tlp = 3 then d.aer 0 0 else d
      if bar = 6 then d.hstConfig off w n
      else if d.flag HST_LINK_d3hot then d.hstUnsupported w.isNone
      else if bar = 0 ∧ off + n ≤ 0x10000000 then d.hstPage off w n env
      else if bar = 2 ∧ off + n ≤ 0x1000000 then d.hstBuffer off w n env
      else if bar = 4 ∧ off + n ≤ 0x10000 then d.hstMsix off w n
      else d.hstUnsupported w.isNone

/-! ### Device-originated requests (R118) -/

/-- A request of the device ends: the item it serves completes with the status. -/
def Dev.hstEndOne (d : Dev) (st : Status) (r : HstReq) : Dev :=
  match r.item with
  | none => d
  | some (q, seq) =>
    match d.isdFind q seq with
    | some i => d.completeAt q i 0x0C st.code 0
    | none => d

def Dev.hstReq (d : Dev) (id : Nat) : Option HstReq := d.hst.reqs.find? (fun r => r.id == id)

/-- The request `id` leaves the list and ends. -/
def Dev.hstFinish (d : Dev) (r : HstReq) (st : Status) : Dev :=
  ({ d with hst := { d.hst with reqs := d.hst.reqs.filter (fun x => x.id != r.id) } }).hstEndOne st r

/-- HST_COMPLETION: one for no outstanding request is discarded; poisoned data is discarded (R118, R119). -/
def Dev.hstCompletion (d : Dev) (id : Nat) (data : List Byte) (poisoned : Bool) : Dev :=
  match d.hstReq id with
  | none => d
  | some r =>
    if poisoned then
      d.hstPoisoned.hstFinish r .faultDetected
    else (d.hstFinish r .ok).answer .ok (leValue (data.take 4))

/-- HST_COMPLETION_TIMEOUT (R119). -/
def Dev.hstTimeout (d : Dev) (id : Nat) : Dev :=
  match d.hstReq id with
  | none => d
  | some r =>
    if r.read then (((d.wr HST_ERR_cpl_timeout 1).hstRec 0x4034 4 0).aer 1 14).hstFinish r .protocol else d

/-- Every outstanding request ends with ST_ABORTED. -/
def Dev.hstAbort (d : Dev) : Dev := d.hst.reqs.foldl (fun d r => d.hstFinish r .aborted) d

/-! ### Link and function reset (R118) -/

/-- HST_LINK_UP: `width` lanes at speed code `speed`; the Refuge has loaded the IDs from OTP before (R114). -/
def Dev.hstLinkUp (d : Dev) (width speed : Nat) : Dev :=
  if d.inReset.get pgHST 0 ≠ 0 ∨ d.bivouac ∨ d.flag HST_LINK_up then d
  else (((({ d with hst := { d.hst with ids := d.rfg.otp.hstIds } }).wr HST_LINK_up 1).wr HST_LINK_width width).wr HST_LINK_speed speed).raise 972 1

/-- HST_LINK_DOWN. -/
def Dev.hstLinkDown (d : Dev) : Dev :=
  if !d.flag HST_LINK_up then d
  else
    let d := if d.hst.reqs.isEmpty then d else (d.hstRec 0x4035 4 0).hstAbort
    (((d.wr HST_LINK_up 0).wr HST_LINK_width 0).wr HST_LINK_speed 0).raise 972 2

/-- HST's registers and its page header return to reset; ID, CAPS, WORLD_ACC and LOCK stay, as under a soft reset (R118, R288; log
entry 343), and HST_LINK keeps the link. -/
def hstOwnReg (k : Nat) : Bool :=
  k / 1024 == pgHST && (let off := k % 1024 * 4
    decide (off < 0x200) && !(off == 0 || off == 4 || off == 0x020 || off == 0x024 || off == 0x040))

/-- HST_FUNCTION_RESET, by a function level reset or HST_PERST_N (`perst`, which takes the link down too: cause 2): outstanding
requests end, the function's table and HST's registers return to reset, locks that HST owns are released (R118, R310, R337). -/
def Dev.hstFunctionReset (d : Dev) (perst : Bool) : Dev :=
  if d.inReset.get pgHST 0 ≠ 0 ∨ d.bivouac then d
  else
    let up := d.flag HST_LINK_up
    let d := if perst && up && !d.hst.reqs.isEmpty then d.hstRec 0x4035 4 0 else d
    let d := { d.hstAbort with hst := { ids := d.hst.ids } }
    let d := { d with
      regs := d.regs.drop hstOwnReg
      shadow := d.shadow.drop hstOwnReg
      shadowSeen := d.shadowSeen.filter (fun k => !hstOwnReg k) }
    let d := (d.lockFreeAll 0x0C).wr HST_LINK_d3hot 0
    if perst then
      let d := ((d.wr HST_LINK_up 0).wr HST_LINK_width 0).wr HST_LINK_speed 0
      if up then d.raise 972 2 else d
    else (d.wr HST_ERR_flr 1).raise 972 3

end Sys2Proof.Machine
end

