-- ==== Sys2Proof/Machine/PortCmds.lean ====
section
/-! DEFINITION. The commands of the ports and the host port (04_ports_and_frames.md). -/

namespace Sys2Proof.Machine

open Sys2Proof

/-- FRAME_RX (R94). The command stands `off` CCLK after the last tick; `same` are the frames that complete in the same CCLK, which
come by ascending port, LAN A before LAN B, and sub-port (R91, R108). -/
def execFrameRx (p : Fin 12) (sub : Fin 4) (f : RxFrame) (off : Nat) (same : List (Fin 12 × Fin 4 × RxFrame)) (s : State) :
    Host.Outcome State Fault Refusal :=
  s.act (fun d => (rxOrder ((p.val, sub.val, f) :: same.map (fun x => (x.1.val, x.2.1.val, x.2.2)))).foldl
    (fun d x => d.frameRx x.1 x.2.1 x.2.2 off) d)

/-- HSR_FORWARD (R110). The first bit leaves `off` CCLK and `eighths` of a ns after the last tick. -/
def execHsrForward (k : Fin 6) (off eighths : Nat) (s : State) : Host.Outcome State Fault Refusal :=
  s.act (fun d => d.hsrForward k off eighths)

/-- PRP_NODE_FORGET (R107). -/
def execPrpNodeForget (k : Fin 6) (mac : BitVec 48) (s : State) : Host.Outcome State Fault Refusal :=
  s.act (fun d => d.nodeForget k mac.toNat)

/-- PRP_SUPERVISION_TIMER (R109). -/
def execPrpSupervisionTimer (k : Fin 6) (s : State) : Host.Outcome State Fault Refusal := s.act (fun d => d.supervisionTimer k)

/-- FRAME_TX_SUBMIT (R96). A frame without its FCS. -/
def execFrameTxSubmit (p : Fin 12) (sub : Fin 4) (pair : Bool) (bytes : List Byte) (s : State) : Host.Outcome State Fault Refusal :=
  s.act (fun d =>
    let x := d.submit p sub pair bytes none
    x.2.answer x.1)

/-- FRAME_TX (R99). -/
def execFrameTx (p : Fin 12) (off eighths : Nat) (s : State) : Host.Outcome State Fault Refusal := s.act (fun d => d.frameTx p off eighths)

/-- PRT_TS_FIFO_POP (R103). -/
def execPrtTsFifoPop (r : Req) (p : Fin 12) (s : State) : Host.Outcome State Fault Refusal := s.act (fun d => d.pageRead r (pgPort p) 0x07C)

/-- PRT_COUNTER_CLEAR (R97). -/
def execPrtCounterClear (r : Req) (p : Fin 12) (s : State) : Host.Outcome State Fault Refusal := s.write r (pgPort p) 0x09C (1)

/-- LINK_STATE_CHANGE (R113). -/
def execLinkStateChange (p : Fin 12) (sub : Fin 4) (env : LinkEnv) (s : State) : Host.Outcome State Fault Refusal :=
  s.act (fun d => d.linkChange p sub env)

/-- HST_INBOUND_REQUEST (R116). -/
def execHstInboundRequest (tlp : Fin 4) (bar : Fin 8) (off : Nat) (w : Option (List Byte)) (n : Nat) (env : MemEnv) (s : State) :
    Host.Outcome State Fault Refusal :=
  s.act (fun d => d.hstRequest tlp bar off w n (laterOf env s.rr .hst))

/-- HST_COMPLETION (R118). -/
def execHstCompletion (id : Nat) (data : List Byte) (poisoned : Bool) (s : State) : Host.Outcome State Fault Refusal :=
  s.act (fun d => d.hstCompletion id data poisoned)

/-- HST_COMPLETION_TIMEOUT (R119). -/
def execHstCompletionTimeout (id : Nat) (s : State) : Host.Outcome State Fault Refusal := s.act (fun d => d.hstTimeout id)

/-- HST_FUNCTION_RESET (R118). -/
def execHstFunctionReset (perst : Bool) (s : State) : Host.Outcome State Fault Refusal := s.act (fun d => d.hstFunctionReset perst)

/-- HST_LINK_DOWN (R118). -/
def execHstLinkDown (s : State) : Host.Outcome State Fault Refusal := s.act (fun d => d.hstLinkDown)

/-- HST_LINK_UP (R118). -/
def execHstLinkUp (width speed : Fin 16) (s : State) : Host.Outcome State Fault Refusal := s.act (fun d => d.hstLinkUp width speed)

/-- MSIX_UNMASK (R117). -/
def execMsixUnmask (k : Fin 64) (s : State) : Host.Outcome State Fault Refusal := s.act (fun d => d.msixUnmask k)

end Sys2Proof.Machine
end

