-- ==== Sys2Proof/Machine/RecordCmds.lean ====
section
/-! DEFINITION. The commands of the event recorder and the record card (17_event_recorder.md, 18_record_card.md). -/

namespace Sys2Proof.Machine

open Sys2Proof

/-- EVR_TAKE (R414). Records numbered late go out under R501. -/
def execEvrTake (s : State) : Host.Outcome State Fault Refusal := s.act (fun d => (d.evrTake).isdRecords)

/-- EVR_CREDIT_GAIN (R414). -/
def execEvrCreditGain (s : State) : Host.Outcome State Fault Refusal := s.act (fun d => d.evrCredit)

/-- EVR_TICK_CLOSE (R412). Records numbered go out under R501, and items the records held back try again. -/
def execEvrTickClose (s : State) : Host.Outcome State Fault Refusal := s.act (fun d => ((d.evrClose).isdRecords).isdRetry)

/-- EVR_FLASH_COMMIT (R416). `fails` lines that do not verify before one does (R418). -/
def execEvrFlashCommit (fails : Nat) (s : State) : Host.Outcome State Fault Refusal := s.act (fun d => d.evrCommit fails)

/-- EVR_RECLAIM (R417). -/
def execEvrReclaim (s : State) : Host.Outcome State Fault Refusal := s.act (fun d => d.evrReclaim)

/-- MIRROR_UPDATE (R426). -/
def execMirrorUpdate (s : State) : Host.Outcome State Fault Refusal := s.act (fun d => d.mirrorUpdate)

/-- MIRROR_TIMER_EXPIRY (R426). -/
def execMirrorTimerExpiry (s : State) : Host.Outcome State Fault Refusal := s.act (fun d => d.mirrorTimer)

/-- CARD_INSERT (R430). -/
def execCardInsert (c : Card) (s : State) : Host.Outcome State Fault Refusal := s.act (fun d => d.cardInsert c)

/-- CARD_REMOVE (R430). `doubt` blocks were sent and not acknowledged. -/
def execCardRemove (doubt : Nat) (s : State) : Host.Outcome State Fault Refusal := s.act (fun d => d.cardRemove doubt)

/-- CARD_IDENTIFY (R433). In bivouac mode `m` is what a recovery image says. -/
def execCardIdentify (m : Manifest) (env : CmdEnv) (s : State) : Host.Outcome State Fault Refusal :=
  s.act (fun d => d.cardIdentifyRow m env)

/-- CARD_PARK (R432). -/
def execCardPark (s : State) : Host.Outcome State Fault Refusal := s.act (fun d => d.cardParkTimer)

/-- CRD_APPEND (R445). `fails`: the failed attempts of its commands, as kind and card status. -/
def execCrdAppend (fails : List (Fin 5 × Nat)) (s : State) : Host.Outcome State Fault Refusal :=
  s.act (fun d => d.crdItem 1 (fails.map (fun x => (x.1.val, x.2))))

/-- CRD_READ_BLOCKS (R445). -/
def execCrdReadBlocks (fails : List (Fin 5 × Nat)) (s : State) : Host.Outcome State Fault Refusal :=
  s.act (fun d => d.crdItem 2 (fails.map (fun x => (x.1.val, x.2))))

/-- CRD_SYNC (R445). -/
def execCrdSync (fails : List (Fin 5 × Nat)) (s : State) : Host.Outcome State Fault Refusal :=
  s.act (fun d => d.crdItem 3 (fails.map (fun x => (x.1.val, x.2))))

/-- CRD_FORMAT (R445). -/
def execCrdFormat (fails : List (Fin 5 × Nat)) (s : State) : Host.Outcome State Fault Refusal :=
  s.act (fun d => d.crdItem 4 (fails.map (fun x => (x.1.val, x.2))))

/-- CRD_PARK_COMMAND (R445). -/
def execCrdParkCommand (fails : List (Fin 5 × Nat)) (s : State) : Host.Outcome State Fault Refusal :=
  s.act (fun d => d.crdItem 5 (fails.map (fun x => (x.1.val, x.2))))

/-- CRD_RECORD_ITEM (R445). -/
def execCrdRecordItem (k : Fin 2) (s : State) : Host.Outcome State Fault Refusal := s.act (fun d => d.crdRecord k)

/-- CRD_BLOCK_ACK (R438). -/
def execCrdBlockAck (s : State) : Host.Outcome State Fault Refusal := s.act (fun d => d.crdAck)

/-- CRD_ATTEMPT_TIMEOUT (R436). Kind: 0 response timeout, 1 CRC error, 2 negative CRC status, 3 busy timeout, 4 an error in the
card status. -/
def execCrdAttemptTimeout (kind : Fin 5) (cmd : Fin 64) (status : Word) (s : State) : Host.Outcome State Fault Refusal :=
  s.act (fun d => d.crdTimeout kind cmd status.toNat)

/-- CRD_CAIRN_TIMER (R442). -/
def execCrdCairnTimer (s : State) : Host.Outcome State Fault Refusal := s.act (fun d => d.crdTimer)

end Sys2Proof.Machine
end

