-- ==== Sys2Proof/Machine/RefugeCmds.lean ====
section
/-! DEFINITION. The commands of the Refuge, resets and the start (14_refuge_and_lifecycle.md, R517 to R520). -/

namespace Sys2Proof.Machine

open Sys2Proof

/-- POWER_ON_RESET (R518). `cycles` of the RTC passed without power. -/
def execPowerOnReset (brownout : Bool) (straps : Fin 8) (cycles : Nat) (s : State) : Host.Outcome State Fault Refusal :=
  { s with rr := 0 }.always (fun d => d.powerOn brownout straps cycles)

/-- WARM_RESET (R518). WRST_N; the other causes have rows of their own. -/
def execWarmReset (s : State) : Host.Outcome State Fault Refusal := s.act (fun d => d.warmReset causeWrst)

/-- POWER_LOSS (R517). `cut`: at which step the supplies end a write of the tamper log (R422). -/
def execPowerLoss (cut : Fin 3) (s : State) : Host.Outcome State Fault Refusal := s.act (fun d => d.powerLoss cut)

/-- BOOT_BASE_CAMP (R347). -/
def execBootBaseCamp (v : BaseEnv) (s : State) : Host.Outcome State Fault Refusal := s.act (fun d => d.baseCamp v)

/-- BOOT_REFUGE (R347). -/
def execBootRefuge (writes : List RegWrite) (brk : Option (Fin 8)) (s : State) : Host.Outcome State Fault Refusal :=
  s.act (fun d => (d.withBreak brk).bootRefuge writes)

/-- BOOT_LOADING (R347). -/
def execBootLoading (m : Manifest) (writes : List RegWrite) (s : State) : Host.Outcome State Fault Refusal :=
  s.act (fun d => d.bootLoading m writes)

/-- BOOT_PROTECTION_READY (R347). -/
def execBootProtectionReady (writes : List RegWrite) (s : State) : Host.Outcome State Fault Refusal := s.act (fun d => d.bootReady writes)

/-- RFG_BOOT_OK (R351). -/
def execRfgBootOk (r : Req) (key : BitVec 8) (s : State) : Host.Outcome State Fault Refusal := s.write r (pgRFG) 0x048 (key.toNat)

/-- BOOT_OK_EXPIRY (R351). -/
def execBootOkExpiry (s : State) : Host.Outcome State Fault Refusal := s.act (fun d => d.bootOkExpiry)

/-- RECOVERY_FRAME (R354). `m` is what a complete image says. -/
def execRecoveryFrame (src : BitVec 48) (payload : List Byte) (m : Manifest) (env : CmdEnv) (s : State) : Host.Outcome State Fault Refusal :=
  s.act (fun d => d.recoveryFrame src.toNat payload m env)

/-- CMD_PROVISION (R358). The bytes of a signed command. -/
def execCmdProvision (b : List Byte) (env : CmdEnv) (s : State) : Host.Outcome State Fault Refusal := s.act (fun d => d.cmdRow 1 b env)

/-- CMD_TAKE_OWNERSHIP (R356). The bytes of a signed command. -/
def execCmdTakeOwnership (b : List Byte) (env : CmdEnv) (s : State) : Host.Outcome State Fault Refusal := s.act (fun d => d.cmdRow 2 b env)

/-- CMD_TRANSFER_OWNERSHIP (R356). The bytes of a signed command. -/
def execCmdTransferOwnership (b : List Byte) (env : CmdEnv) (s : State) : Host.Outcome State Fault Refusal :=
  s.act (fun d => d.cmdRow 3 b env)

/-- CMD_RETIRE (R356). The bytes of a signed command. -/
def execCmdRetire (b : List Byte) (env : CmdEnv) (s : State) : Host.Outcome State Fault Refusal := s.act (fun d => (d.cmdRow 4 b env).retiredNow)

/-- CMD_REPROVISION (R358). The bytes of a signed command. -/
def execCmdReprovision (b : List Byte) (env : CmdEnv) (s : State) : Host.Outcome State Fault Refusal := s.act (fun d => d.cmdRow 5 b env)

/-- CMD_DISABLE_TAMPER_SOURCE (R357). The bytes of a signed command. -/
def execCmdDisableTamperSource (b : List Byte) (env : CmdEnv) (s : State) : Host.Outcome State Fault Refusal :=
  s.act (fun d => d.cmdRow 6 b env)

/-- CMD_DEBUG_TOKEN (R360). The bytes of a signed command. -/
def execCmdDebugToken (b : List Byte) (env : CmdEnv) (s : State) : Host.Outcome State Fault Refusal := s.act (fun d => d.cmdRow 8 b env)

/-- RFG_NONCE_REQUEST (R359). -/
def execRfgNonceRequest (r : Req) (s : State) : Host.Outcome State Fault Refusal := s.write r (pgRFG) 0x04C (1)

/-- RFG_DBG_REVOKE (R360). -/
def execRfgDbgRevoke (r : Req) (s : State) : Host.Outcome State Fault Refusal := s.write r (pgRFG) 0x070 (2 ^ 30)

/-- DEBUG_TOKEN_EXPIRY (R360). -/
def execDebugTokenExpiry (s : State) : Host.Outcome State Fault Refusal := s.act (fun d => d.dbgExpiry)

/-- REFUGE_WATCHDOG_EXPIRY (R344). -/
def execRefugeWatchdogExpiry (s : State) : Host.Outcome State Fault Refusal := s.act (fun d => d.refugeWatchdog)

/-- WARDEN_LOCKSTEP_MISMATCH (R344). -/
def execWardenLockstepMismatch (s : State) : Host.Outcome State Fault Refusal := s.act (fun d => d.wardenMismatch)

/-- SYS_RST_CMD (R518). -/
def execSysRstCmd (r : Req) (s : State) : Host.Outcome State Fault Refusal := s.write r (pgSYS) 0x04C (0xA5C30000)

/-- SYS_EXT_RST_WRITE (R520). -/
def execSysExtRstWrite (r : Req) (assert : Bool) (s : State) : Host.Outcome State Fault Refusal := s.write r (pgSYS) 0x050 (b2n assert)

end Sys2Proof.Machine
end

