-- ==== Sys2Proof/Machine/TamperCmds.lean ====
section
/-! DEFINITION. The commands of the tamper monitors and the backup domain (15_tamper.md, R524). -/

namespace Sys2Proof.Machine

open Sys2Proof

/-- TAMPER_DETECT (R366). -/
def execTamperDetect (src : Fin 64) (lasting : Bool) (s : State) : Host.Outcome State Fault Refusal :=
  s.act (fun d => d.tamperDetect src lasting)

/-- CLOCK_MONITOR_CHANGE (R524). -/
def execClockMonitorChange (cond : Fin 4) (on : Bool) (s : State) : Host.Outcome State Fault Refusal :=
  s.act (fun d => d.clockMonitor cond on)

/-- TMP_LATCH_CLEAR (R366). -/
def execTmpLatchClear (r : Req) (hi : Bool) (v : Word) (s : State) : Host.Outcome State Fault Refusal :=
  s.write r (pgTMP) (if hi then 0x04C else 0x048) (v.toNat)

/-- TMP_EN_WRITE (R367). -/
def execTmpEnWrite (r : Req) (hi : Bool) (v : Word) (s : State) : Host.Outcome State Fault Refusal :=
  s.write r (pgTMP) (if hi then 0x044 else 0x040) (v.toNat)

/-- GLITCH_WINDOW_EXPIRY (R371). -/
def execGlitchWindowExpiry (s : State) : Host.Outcome State Fault Refusal := s.act (fun d => d.glitchExpiry)

/-- VBAT_SWITCHOVER (R379). -/
def execVbatSwitchover (toVbat : Bool) (mv : BitVec 12) (s : State) : Host.Outcome State Fault Refusal :=
  s.always (fun d => d.vbatSwitch toVbat mv.toNat)

/-- BKD_STATE_LOSS (R376). -/
def execBkdStateLoss (s : State) : Host.Outcome State Fault Refusal := s.always Dev.bkdLoss

/-- BACKUP_ALARM (R378). Sources with their details, `cycles` RTC cycles after the command before. -/
def execBackupAlarm (srcs : List (Fin 64 × BitVec 32)) (cycles : Nat) (s : State) : Host.Outcome State Fault Refusal :=
  s.always (fun d => d.backupAlarm (srcs.map (fun x => (x.1.val, x.2.toNat))) cycles)

/-- BKD_LOG_CLEAR (R381). -/
def execBkdLogClear (r : Req) (s : State) : Host.Outcome State Fault Refusal := s.write r (pgBKD) 0x064 (1)

/-- BKD_LOG_DATA_READ (R380). -/
def execBkdLogDataRead (r : Req) (s : State) : Host.Outcome State Fault Refusal := s.act (fun d => d.pageRead r pgBKD 0x05C)

/-- BKD_VAULT_DATA_ACCESS (R384). A write of a value, or a read. -/
def execBkdVaultDataAccess (r : Req) (v : Option Word) (s : State) : Host.Outcome State Fault Refusal := s.access r pgBKD 0x06C v

end Sys2Proof.Machine
end

