-- ==== Sys2Proof/Machine/TimeCmds.lean ====
section
/-! DEFINITION. The commands of time and orbits (02_time_and_orbit.md). -/

namespace Sys2Proof.Machine

open Sys2Proof

/-- TICK (R48). The round-robin pointer advances in the CCLK of the tick (R541); a follower takes its tick from the rope. -/
def execTick (env : TickEnv) (s : State) : Host.Outcome State Fault Refusal :=
  let own := s.dev.sys.powered && !(s.dev.ropeMember && s.dev.following)
  { s with rr := if own then (s.rr + 1) % 112 else s.rr }.act (fun d => d.tick env)

/-- ORB_COAST_EXPIRY (R57). -/
def execOrbCoastExpiry (n : Fin 4) (s : State) : Host.Outcome State Fault Refusal := s.act (fun d => d.orbCoastExpiry n)

/-- LATCHED_PAIR_READ (R49). `c` CCLK after the last tick. -/
def execLatchedPairRead (r : Req) (page : Fin 1024) (off : Fin 4096) (c : Nat) (s : State) : Host.Outcome State Fault Refusal :=
  s.act (fun d => d.pageRead r page off c)

/-- PPS_EDGE (R38). `off` CCLK after the last tick. -/
def execPpsEdge (rising : Bool) (off : Nat) (s : State) : Host.Outcome State Fault Refusal := s.act (fun d => d.ppsEdge rising off)

/-- PPS_EDGE_TIMEOUT (R38). -/
def execPpsEdgeTimeout (s : State) : Host.Outcome State Fault Refusal := s.act (fun d => d.ppsTimeout)

/-- IRIG_FRAME (R39). Its on-time lies `off` CCLK after the last tick. -/
def execIrigFrame (f : IrigFrame) (off : Nat) (s : State) : Host.Outcome State Fault Refusal := s.act (fun d => d.irigFrame f off)

/-- IRIG_FRAME_TIMEOUT (R39). -/
def execIrigFrameTimeout (s : State) : Host.Outcome State Fault Refusal := s.act (fun d => d.irigTimeout)

/-- EXT10_LOSS (R62). -/
def execExt10Loss (s : State) : Host.Outcome State Fault Refusal := s.act (fun d => d.ext10Loss)

/-- EXT10_RETURN (R35). -/
def execExt10Return (s : State) : Host.Outcome State Fault Refusal := s.act (fun d => d.ext10Return)

/-- TIM_SERVO_WRITE (R40). -/
def execTimServoWrite (r : Req) (v : Word) (s : State) : Host.Outcome State Fault Refusal := s.write r (pgTIM) 0x04C (v.toNat)

/-- SERVO_HEARTBEAT_EXPIRY (R40). -/
def execServoHeartbeatExpiry (s : State) : Host.Outcome State Fault Refusal := s.act (fun d => d.servoHeartbeat)

/-- SOURCE_REVERT_EXPIRY (R37). -/
def execSourceRevertExpiry (s : State) : Host.Outcome State Fault Refusal := s.act (fun d => d.sourceRevert)

/-- HOLD_LIMIT_EXPIRY (R42). -/
def execHoldLimitExpiry (s : State) : Host.Outcome State Fault Refusal := s.act (fun d => d.holdLimit)

/-- TIM_PHASE_ADJ_WRITE (R44). -/
def execTimPhaseAdjWrite (r : Req) (v : Word) (s : State) : Host.Outcome State Fault Refusal := s.write r (pgTIM) 0x05C (v.toNat)

/-- TIM_STEP_WRITE (R45). -/
def execTimStepWrite (r : Req) (v : Word) (s : State) : Host.Outcome State Fault Refusal := s.write r (pgTIM) 0x060 (v.toNat)

/-- TIM_SET_COMMIT (R46). -/
def execTimSetCommit (r : Req) (v : Word) (s : State) : Host.Outcome State Fault Refusal := s.write r (pgTIM) 0x068 (v.toNat)

/-- TIM_SNAP_REQUEST (R62). -/
def execTimSnapRequest (r : Req) (s : State) : Host.Outcome State Fault Refusal := s.write r (pgTIM) 0x088 (1)

/-- ORB_START (R52). `v` gives the other fields of ORBn_CFG. -/
def execOrbStart (r : Req) (n : Fin 4) (v : Word) (s : State) : Host.Outcome State Fault Refusal :=
  s.write r (pgORB) (0x044 + 0x40 * n) (v.toNat ||| 1)

/-- ORB_STOP (R52). `v` gives the other fields of ORBn_CFG. -/
def execOrbStop (r : Req) (n : Fin 4) (v : Word) (s : State) : Host.Outcome State Fault Refusal :=
  s.write r (pgORB) (0x044 + 0x40 * n) (v.toNat / 2 * 2)

/-- ORB_OFFSET_WRITE (R543). -/
def execOrbOffsetWrite (r : Req) (n : Fin 4) (v : BitVec 16) (s : State) : Host.Outcome State Fault Refusal :=
  s.write r (pgORB) (0x048 + 0x40 * n) (v.toNat)

/-- ORB_CMP_WRITE (R61). -/
def execOrbCmpWrite (r : Req) (k : Fin 16) (v : Word) (s : State) : Host.Outcome State Fault Refusal :=
  s.write r (pgORB) (0x200 + 4 * k) (v.toNat)

end Sys2Proof.Machine
end

