-- ==== Sys2Proof/Machine/VectorCmds.lean ====
section
/-! DEFINITION. The vector instructions of an engine (R246). `sz` is true for 16-bit elements. -/

namespace Sys2Proof.Machine

open Sys2Proof

/-- VADD (R246). -/
def execVadd (e : Fin 96) (vd vs vt : Fin 16) (sz : Bool) (s : State) : Host.Outcome State Fault Refusal :=
  s.act (fun d => d.compute e 4 (fun d => d.opVadd e vd vs vt sz))

/-- VSUB (R246). -/
def execVsub (e : Fin 96) (vd vs vt : Fin 16) (sz : Bool) (s : State) : Host.Outcome State Fault Refusal :=
  s.act (fun d => d.compute e 4 (fun d => d.opVsub e vd vs vt sz))

/-- VADDS (R246). -/
def execVadds (e : Fin 96) (vd vs vt : Fin 16) (sz : Bool) (s : State) : Host.Outcome State Fault Refusal :=
  s.act (fun d => d.compute e 4 (fun d => d.opVadds e vd vs vt sz))

/-- VSUBS (R246). -/
def execVsubs (e : Fin 96) (vd vs vt : Fin 16) (sz : Bool) (s : State) : Host.Outcome State Fault Refusal :=
  s.act (fun d => d.compute e 4 (fun d => d.opVsubs e vd vs vt sz))

/-- VHADD (R246). -/
def execVhadd (e : Fin 96) (vd vs vt : Fin 16) (sz : Bool) (s : State) : Host.Outcome State Fault Refusal :=
  s.act (fun d => d.compute e 4 (fun d => d.opVhadd e vd vs vt sz))

/-- VHSUB (R246). -/
def execVhsub (e : Fin 96) (vd vs vt : Fin 16) (sz : Bool) (s : State) : Host.Outcome State Fault Refusal :=
  s.act (fun d => d.compute e 4 (fun d => d.opVhsub e vd vs vt sz))

/-- VMIN (R246). -/
def execVmin (e : Fin 96) (vd vs vt : Fin 16) (sz : Bool) (s : State) : Host.Outcome State Fault Refusal :=
  s.act (fun d => d.compute e 4 (fun d => d.opVmin e vd vs vt sz))

/-- VMAX (R246). -/
def execVmax (e : Fin 96) (vd vs vt : Fin 16) (sz : Bool) (s : State) : Host.Outcome State Fault Refusal :=
  s.act (fun d => d.compute e 4 (fun d => d.opVmax e vd vs vt sz))

/-- VAND (R246). -/
def execVand (e : Fin 96) (vd vs vt : Fin 16) (s : State) : Host.Outcome State Fault Refusal :=
  s.act (fun d => d.compute e 4 (fun d => d.opVand e vd vs vt))

/-- VOR (R246). -/
def execVor (e : Fin 96) (vd vs vt : Fin 16) (s : State) : Host.Outcome State Fault Refusal :=
  s.act (fun d => d.compute e 4 (fun d => d.opVor e vd vs vt))

/-- VXOR (R246). -/
def execVxor (e : Fin 96) (vd vs vt : Fin 16) (s : State) : Host.Outcome State Fault Refusal :=
  s.act (fun d => d.compute e 4 (fun d => d.opVxor e vd vs vt))

/-- VABS (R246). -/
def execVabs (e : Fin 96) (vd vs : Fin 16) (sz : Bool) (s : State) : Host.Outcome State Fault Refusal :=
  s.act (fun d => d.compute e 4 (fun d => d.opVabs e vd vs sz))

/-- VSLL (R246). -/
def execVsll (e : Fin 96) (vd vs : Fin 16) (sz : Bool) (sh : Fin 64) (s : State) : Host.Outcome State Fault Refusal :=
  s.act (fun d => d.compute e 4 (fun d => d.opVsll e vd vs sz sh))

/-- VSRL (R246). -/
def execVsrl (e : Fin 96) (vd vs : Fin 16) (sz : Bool) (sh : Fin 64) (s : State) : Host.Outcome State Fault Refusal :=
  s.act (fun d => d.compute e 4 (fun d => d.opVsrl e vd vs sz sh))

/-- VSRA (R246). -/
def execVsra (e : Fin 96) (vd vs : Fin 16) (sz : Bool) (sh : Fin 64) (s : State) : Host.Outcome State Fault Refusal :=
  s.act (fun d => d.compute e 4 (fun d => d.opVsra e vd vs sz sh))

/-- VMOV (R246). -/
def execVmov (e : Fin 96) (vd vs : Fin 16) (s : State) : Host.Outcome State Fault Refusal :=
  s.act (fun d => d.compute e 4 (fun d => d.opVmov e vd vs))

/-- VMUL (R246). -/
def execVmul (e : Fin 96) (vs vt : Fin 16) (sz : Bool) (s : State) : Host.Outcome State Fault Refusal :=
  s.act (fun d => d.compute e 4 (fun d => d.opVmul e vs vt sz))

/-- VMAC (R246). -/
def execVmac (e : Fin 96) (vs vt : Fin 16) (sz : Bool) (s : State) : Host.Outcome State Fault Refusal :=
  s.act (fun d => d.compute e 4 (fun d => d.opVmac e vs vt sz))

/-- VMSU (R246). -/
def execVmsu (e : Fin 96) (vs vt : Fin 16) (sz : Bool) (s : State) : Host.Outcome State Fault Refusal :=
  s.act (fun d => d.compute e 4 (fun d => d.opVmsu e vs vt sz))

/-- VCLR (R246). -/
def execVclr (e : Fin 96) (s : State) : Host.Outcome State Fault Refusal := s.act (fun d => d.compute e 4 (fun d => d.opVclr e))

/-- VRND (R246). -/
def execVrnd (e : Fin 96) (vd : Fin 16) (sz : Bool) (sh : Fin 64) (s : State) : Host.Outcome State Fault Refusal :=
  s.act (fun d => d.compute e 4 (fun d => d.opVrnd e vd sz sh))

/-- VCMUL (R246). -/
def execVcmul (e : Fin 96) (vd vs vt : Fin 16) (sh : Fin 64) (s : State) : Host.Outcome State Fault Refusal :=
  s.act (fun d => d.compute e 4 (fun d => d.opVcmul e vd vs vt sh))

/-- VBCAST (R246). -/
def execVbcast (e : Fin 96) (vd : Fin 16) (rs : Fin 32) (sz : Bool) (s : State) : Host.Outcome State Fault Refusal :=
  s.act (fun d => d.compute e 4 (fun d => d.opVbcast e vd rs sz))

/-- VINS (R246). -/
def execVins (e : Fin 96) (vd : Fin 16) (idx : Fin 8) (rs : Fin 32) (sz : Bool) (s : State) : Host.Outcome State Fault Refusal :=
  s.act (fun d => d.compute e 4 (fun d => d.opVins e vd idx rs sz))

/-- VEXT (R246). -/
def execVext (e : Fin 96) (rd : Fin 32) (vs : Fin 16) (idx : Fin 8) (sz : Bool) (s : State) : Host.Outcome State Fault Refusal :=
  s.act (fun d => d.compute e 4 (fun d => d.opVext e rd vs idx sz))

end Sys2Proof.Machine
end

