-- ==== Sys2Proof/Machine/WaveCmds.lean ====
section
/-! DEFINITION. The commands of the converter port, the resamplers and the waveform coder (07_converter_port.md,
08_waveform_coding.md). -/

namespace Sys2Proof.Machine

open Sys2Proof

/-- CNV_TRAIN_START (R181). -/
def execCnvTrainStart (r : Req) (g : Fin 8) (pattern : BitVec 18) (s : State) : Host.Outcome State Fault Refusal :=
  s.write r (pgCNV) 0x044 (g * 2 ^ 24 + 2 ^ 18 + pattern.toNat)

/-- CNV_TRAIN_COMPLETE (R181): what was captured of the group's four lanes. -/
def execCnvTrainComplete (lanes : List CnvCapture) (s : State) : Host.Outcome State Fault Refusal :=
  s.act (fun d => d.cnvTrainComplete lanes)

/-- CNV_SAMPLE (R180). Frame k of its second: the words of the four lanes of a group. -/
def execCnvSample (g : Fin 8) (k : Nat) (words : List Word) (s : State) : Host.Outcome State Fault Refusal :=
  s.act (fun d => d.cnvSample g k (words.map (fun w => w.toNat)))

/-- CNV_SYN_UNLOCK (R193). -/
def execCnvSynUnlock (s : State) : Host.Outcome State Fault Refusal := s.act (fun d => d.cnvUnlock)

/-- CNV_SYN_RELOCK (R193). -/
def execCnvSynRelock (s : State) : Host.Outcome State Fault Refusal := s.act (fun d => d.cnvRelock)

/-- CNV_GRP_WRITE (R201). -/
def execCnvGrpWrite (r : Req) (g : Fin 8) (v : Word) (s : State) : Host.Outcome State Fault Refusal :=
  s.write r (pgCNV) (0x080 + 4 * g) (v.toNat)

/-- CNV_LANE_CFG_WRITE (R182). -/
def execCnvLaneCfgWrite (r : Req) (n : Fin 32) (v : Word) (s : State) : Host.Outcome State Fault Refusal :=
  s.write r (pgCNV) (0x100 + 4 * n) (v.toNat)

/-- CNV_PUB_ENABLE (R190). `v` gives the other fields of CNV_PUB_CFGp. -/
def execCnvPubEnable (r : Req) (p : Fin 8) (v : Word) (s : State) : Host.Outcome State Fault Refusal :=
  s.write r (pgCNV) (0x400 + 0x20 * p) (v.toNat ||| 2 ^ 31)

/-- CNV_TPL_DATA_ACCESS (R190). A write of a value, or a read. -/
def execCnvTplDataAccess (r : Req) (v : Option Word) (s : State) : Host.Outcome State Fault Refusal := s.access r pgCNV 0x504 v

/-- RSM_CONTEXT_COMMIT (R198). -/
def execRsmContextCommit (r : Req) (u : Fin 12) (s : State) : Host.Outcome State Fault Refusal := s.write r (pgRSM + u) 0x044 (1)

/-- RSM_CONTEXT_INVALIDATE (R198). -/
def execRsmContextInvalidate (r : Req) (u : Fin 12) (s : State) : Host.Outcome State Fault Refusal := s.write r (pgRSM + u) 0x044 (2)

/-- RSM_CONTEXT_READ (R198). -/
def execRsmContextRead (r : Req) (u : Fin 12) (s : State) : Host.Outcome State Fault Refusal := s.write r (pgRSM + u) 0x044 (3)

/-- WFC_ASSEMBLE_FRAME (R213). -/
def execWfcAssembleFrame (k : Fin 64) (s : State) : Host.Outcome State Fault Refusal := s.act (fun d => d.wfcAssemble k)

/-- WFC_COMPRESS_ITEM (R215). -/
def execWfcCompressItem (k : Fin 64) (s : State) : Host.Outcome State Fault Refusal := s.act (fun d => d.wfcItem k)

/-- WFC_CONTEXT_COMMIT (R218). -/
def execWfcContextCommit (r : Req) (s : State) : Host.Outcome State Fault Refusal := s.write r (pgWFC) 0x044 (1)

/-- WFC_CONTEXT_INVALIDATE (R218). -/
def execWfcContextInvalidate (r : Req) (s : State) : Host.Outcome State Fault Refusal := s.write r (pgWFC) 0x044 (2)

/-- WFC_CONTEXT_READ (R218). -/
def execWfcContextRead (r : Req) (s : State) : Host.Outcome State Fault Refusal := s.write r (pgWFC) 0x044 (3)

/-- WFC_HDR_DATA_ACCESS (R220). A write of a value, or a read. -/
def execWfcHdrDataAccess (r : Req) (v : Option Word) (s : State) : Host.Outcome State Fault Refusal := s.access r pgWFC 0x064 v

end Sys2Proof.Machine
end

