-- ==== Sys2Proof/Machine/Dispatch.lean ====
section
/-! DEFINITION. The dispatch of a command to its meaning: one arm per row of spec/opcode_table.json. -/

namespace Sys2Proof.Machine

open Sys2Proof

def exec (i : Instr) (s : State) : Host.Outcome State Fault Refusal :=
  match i with
  | .tick env => Sys2Proof.Machine.execTick env s
  | .orbCoastExpiry n => Sys2Proof.Machine.execOrbCoastExpiry n s
  | .touHoldExpiry n => Sys2Proof.Machine.execTouHoldExpiry n s
  | .biQuietExpiry n => Sys2Proof.Machine.execBiQuietExpiry n s
  | .biEdge n l off => Sys2Proof.Machine.execBiEdge n l off s
  | .alarmResetAssert => Sys2Proof.Machine.execAlarmResetAssert s
  | .deadlineExpiry c entry => Sys2Proof.Machine.execDeadlineExpiry c entry s
  | .lockClaim r page rivals => Sys2Proof.Machine.execLockClaim r page rivals s
  | .lockRelease r page => Sys2Proof.Machine.execLockRelease r page s
  | .lockClearComplete page => Sys2Proof.Machine.execLockClearComplete page s
  | .ctrlEnable r page => Sys2Proof.Machine.execCtrlEnable r page s
  | .ctrlDisable r page => Sys2Proof.Machine.execCtrlDisable r page s
  | .ctrlDrain r page => Sys2Proof.Machine.execCtrlDrain r page s
  | .drainComplete page queue => Sys2Proof.Machine.execDrainComplete page queue s
  | .softReset r page => Sys2Proof.Machine.execSoftReset r page s
  | .softResetComplete page => Sys2Proof.Machine.execSoftResetComplete page s
  | .irqSetWrite r page v => Sys2Proof.Machine.execIrqSetWrite r page v s
  | .registerWrite r page off v at_ rivals parity upset => Sys2Proof.Machine.execRegisterWrite r page off v at_ rivals parity upset s
  | .latchedPairRead r page off c => Sys2Proof.Machine.execLatchedPairRead r page off c s
  | .readClearRead r page off => Sys2Proof.Machine.execReadClearRead r page off s
  | .shadowCheck page hits => Sys2Proof.Machine.execShadowCheck page hits s
  | .recordHeldRelease code unit => Sys2Proof.Machine.execRecordHeldRelease code unit s
  | .ppsEdge rising off => Sys2Proof.Machine.execPpsEdge rising off s
  | .ppsEdgeTimeout => Sys2Proof.Machine.execPpsEdgeTimeout s
  | .irigFrame f off => Sys2Proof.Machine.execIrigFrame f off s
  | .irigFrameTimeout => Sys2Proof.Machine.execIrigFrameTimeout s
  | .ext10Loss => Sys2Proof.Machine.execExt10Loss s
  | .timServoWrite r v => Sys2Proof.Machine.execTimServoWrite r v s
  | .servoHeartbeatExpiry => Sys2Proof.Machine.execServoHeartbeatExpiry s
  | .sourceRevertExpiry => Sys2Proof.Machine.execSourceRevertExpiry s
  | .holdLimitExpiry => Sys2Proof.Machine.execHoldLimitExpiry s
  | .timPhaseAdjWrite r v => Sys2Proof.Machine.execTimPhaseAdjWrite r v s
  | .timStepWrite r v => Sys2Proof.Machine.execTimStepWrite r v s
  | .timSetCommit r v => Sys2Proof.Machine.execTimSetCommit r v s
  | .timSnapRequest r => Sys2Proof.Machine.execTimSnapRequest r s
  | .orbStart r n v => Sys2Proof.Machine.execOrbStart r n v s
  | .orbStop r n v => Sys2Proof.Machine.execOrbStop r n v s
  | .orbOffsetWrite r n v => Sys2Proof.Machine.execOrbOffsetWrite r n v s
  | .orbCmpWrite r k v => Sys2Proof.Machine.execOrbCmpWrite r k v s
  | .evmRaise r tag src => Sys2Proof.Machine.execEvmRaise r tag src s
  | .evmSnapshotRequest r => Sys2Proof.Machine.execEvmSnapshotRequest r s
  | .bioCfgWrite r n v at_ => Sys2Proof.Machine.execBioCfgWrite r n v at_ s
  | .bioUnblockWrite r k v => Sys2Proof.Machine.execBioUnblockWrite r k v s
  | .pitSwapRequest r => Sys2Proof.Machine.execPitSwapRequest r s
  | .pitTermWrite r k v => Sys2Proof.Machine.execPitTermWrite r k v s
  | .touUnlatch r hi v => Sys2Proof.Machine.execTouUnlatch r hi v s
  | .touMismClear r hi v => Sys2Proof.Machine.execTouMismClear r hi v s
  | .frameRx p sub f off same => Sys2Proof.Machine.execFrameRx p sub f off same s
  | .hsrForward k off eighths => Sys2Proof.Machine.execHsrForward k off eighths s
  | .prpNodeForget k mac => Sys2Proof.Machine.execPrpNodeForget k mac s
  | .prpSupervisionTimer k => Sys2Proof.Machine.execPrpSupervisionTimer k s
  | .frameTxSubmit p sub pair bytes => Sys2Proof.Machine.execFrameTxSubmit p sub pair bytes s
  | .frameTx p off eighths => Sys2Proof.Machine.execFrameTx p off eighths s
  | .prtTsFifoPop r p => Sys2Proof.Machine.execPrtTsFifoPop r p s
  | .prtCounterClear r p => Sys2Proof.Machine.execPrtCounterClear r p s
  | .linkStateChange p sub env => Sys2Proof.Machine.execLinkStateChange p sub env s
  | .hstInboundRequest tlp bar off w n env => Sys2Proof.Machine.execHstInboundRequest tlp bar off w n env s
  | .hstCompletion id data poisoned => Sys2Proof.Machine.execHstCompletion id data poisoned s
  | .hstCompletionTimeout id => Sys2Proof.Machine.execHstCompletionTimeout id s
  | .hstFunctionReset perst => Sys2Proof.Machine.execHstFunctionReset perst s
  | .hstLinkDown => Sys2Proof.Machine.execHstLinkDown s
  | .msixUnmask k => Sys2Proof.Machine.execMsixUnmask k s
  | .trvIngressProgram dp authOver same brk => Sys2Proof.Machine.execTrvIngressProgram dp authOver same brk s
  | .trvEgressProgram queue info brk => Sys2Proof.Machine.execTrvEgressProgram queue info brk s
  | .trvEntryCommit r => Sys2Proof.Machine.execTrvEntryCommit r s
  | .trvEntryInvalidate r => Sys2Proof.Machine.execTrvEntryInvalidate r s
  | .trvEntryRead r => Sys2Proof.Machine.execTrvEntryRead r s
  | .trvStepWrite r v => Sys2Proof.Machine.execTrvStepWrite r v s
  | .trvMissWrite r dp v => Sys2Proof.Machine.execTrvMissWrite r dp v s
  | .trvCplMapWrite r p v => Sys2Proof.Machine.execTrvCplMapWrite r p v s
  | .trvCplRelease p => Sys2Proof.Machine.execTrvCplRelease p s
  | .trvLossScan entry => Sys2Proof.Machine.execTrvLossScan entry s
  | .qmgQueueCommit r => Sys2Proof.Machine.execQmgQueueCommit r s
  | .qmgQueueInvalidate r => Sys2Proof.Machine.execQmgQueueInvalidate r s
  | .qmgQueueRead r => Sys2Proof.Machine.execQmgQueueRead r s
  | .qmgQueueEnable r => Sys2Proof.Machine.execQmgQueueEnable r s
  | .qmgQueueDisable r => Sys2Proof.Machine.execQmgQueueDisable r s
  | .qmgQueueDrain r => Sys2Proof.Machine.execQmgQueueDrain r s
  | .qmgQueueDrainDiscard r => Sys2Proof.Machine.execQmgQueueDrainDiscard r s
  | .qmgProducerDoorbell r v rivals => Sys2Proof.Machine.execQmgProducerDoorbell r v rivals s
  | .qmgClaim r queue count => Sys2Proof.Machine.execQmgClaim r queue count s
  | .qmgFree r queue count => Sys2Proof.Machine.execQmgFree r queue count s
  | .qmgComplete r v => Sys2Proof.Machine.execQmgComplete r v s
  | .qmgTagAllocate r => Sys2Proof.Machine.execQmgTagAllocate r s
  | .qmgTagFree r tag => Sys2Proof.Machine.execQmgTagFree r tag s
  | .qmgTagTimeout tag => Sys2Proof.Machine.execQmgTagTimeout tag s
  | .cnvTrainStart r g pattern => Sys2Proof.Machine.execCnvTrainStart r g pattern s
  | .cnvTrainComplete lanes => Sys2Proof.Machine.execCnvTrainComplete lanes s
  | .cnvSample g k words => Sys2Proof.Machine.execCnvSample g k words s
  | .cnvSynUnlock => Sys2Proof.Machine.execCnvSynUnlock s
  | .cnvSynRelock => Sys2Proof.Machine.execCnvSynRelock s
  | .cnvGrpWrite r g v => Sys2Proof.Machine.execCnvGrpWrite r g v s
  | .cnvLaneCfgWrite r n v => Sys2Proof.Machine.execCnvLaneCfgWrite r n v s
  | .cnvPubEnable r p v => Sys2Proof.Machine.execCnvPubEnable r p v s
  | .cnvTplDataAccess r v => Sys2Proof.Machine.execCnvTplDataAccess r v s
  | .rsmContextCommit r u => Sys2Proof.Machine.execRsmContextCommit r u s
  | .rsmContextInvalidate r u => Sys2Proof.Machine.execRsmContextInvalidate r u s
  | .rsmContextRead r u => Sys2Proof.Machine.execRsmContextRead r u s
  | .wfcAssembleFrame k => Sys2Proof.Machine.execWfcAssembleFrame k s
  | .wfcCompressItem k => Sys2Proof.Machine.execWfcCompressItem k s
  | .wfcContextCommit r => Sys2Proof.Machine.execWfcContextCommit r s
  | .wfcContextInvalidate r => Sys2Proof.Machine.execWfcContextInvalidate r s
  | .wfcContextRead r => Sys2Proof.Machine.execWfcContextRead r s
  | .wfcHdrDataAccess r v => Sys2Proof.Machine.execWfcHdrDataAccess r v s
  | .issueGroup e v => Sys2Proof.Machine.execIssueGroup e v s
  | .add e short rd rs rt => Sys2Proof.Machine.execAdd e short rd rs rt s
  | .sub e short rd rs rt => Sys2Proof.Machine.execSub e short rd rs rt s
  | .addc e rd rs rt => Sys2Proof.Machine.execAddc e rd rs rt s
  | .subc e rd rs rt => Sys2Proof.Machine.execSubc e rd rs rt s
  | .adds e rd rs rt => Sys2Proof.Machine.execAdds e rd rs rt s
  | .subs e rd rs rt => Sys2Proof.Machine.execSubs e rd rs rt s
  | .and e short rd rs rt => Sys2Proof.Machine.execAnd e short rd rs rt s
  | .or e short rd rs rt => Sys2Proof.Machine.execOr e short rd rs rt s
  | .xor e short rd rs rt => Sys2Proof.Machine.execXor e short rd rs rt s
  | .andn e rd rs rt => Sys2Proof.Machine.execAndn e rd rs rt s
  | .sll e short rd rs rt => Sys2Proof.Machine.execSll e short rd rs rt s
  | .srl e short rd rs rt => Sys2Proof.Machine.execSrl e short rd rs rt s
  | .sra e short rd rs rt => Sys2Proof.Machine.execSra e short rd rs rt s
  | .slli e short rd rs sa => Sys2Proof.Machine.execSlli e short rd rs sa s
  | .srli e rd rs sa => Sys2Proof.Machine.execSrli e rd rs sa s
  | .srai e rd rs sa => Sys2Proof.Machine.execSrai e rd rs sa s
  | .mul e rd rs rt => Sys2Proof.Machine.execMul e rd rs rt s
  | .mulh e rd rs rt => Sys2Proof.Machine.execMulh e rd rs rt s
  | .mulhu e rd rs rt => Sys2Proof.Machine.execMulhu e rd rs rt s
  | .min e rd rs rt => Sys2Proof.Machine.execMin e rd rs rt s
  | .max e rd rs rt => Sys2Proof.Machine.execMax e rd rs rt s
  | .abs e rd rs => Sys2Proof.Machine.execAbs e rd rs s
  | .clz e rd rs => Sys2Proof.Machine.execClz e rd rs s
  | .ext e rd rs sa => Sys2Proof.Machine.execExt e rd rs sa s
  | .cmp e short rs rt => Sys2Proof.Machine.execCmp e short rs rt s
  | .tst e short rs rt => Sys2Proof.Machine.execTst e short rs rt s
  | .mov e short rd rs => Sys2Proof.Machine.execMov e short rd rs s
  | .sel e rd rs rt cond => Sys2Proof.Machine.execSel e rd rs rt cond s
  | .rev e rd rs sa => Sys2Proof.Machine.execRev e rd rs sa s
  | .addi e short rd rs imm => Sys2Proof.Machine.execAddi e short rd rs imm s
  | .andi e rd rs imm => Sys2Proof.Machine.execAndi e rd rs imm s
  | .ori e rd rs imm => Sys2Proof.Machine.execOri e rd rs imm s
  | .xori e rd rs imm => Sys2Proof.Machine.execXori e rd rs imm s
  | .cmpi e short rs imm => Sys2Proof.Machine.execCmpi e short rs imm s
  | .ldhi e rd imm => Sys2Proof.Machine.execLdhi e rd imm s
  | .ldi e rd imm => Sys2Proof.Machine.execLdi e rd imm s
  | .atswap e rd rs rt v same => Sys2Proof.Machine.execAtswap e rd rs rt v same s
  | .atadd e rd rs rt v same => Sys2Proof.Machine.execAtadd e rd rs rt v same s
  | .atcas e rd rs rt v same => Sys2Proof.Machine.execAtcas e rd rs rt v same s
  | .ldw e short rd rs imm v => Sys2Proof.Machine.execLdw e short rd rs imm v s
  | .ldh e rd rs imm v => Sys2Proof.Machine.execLdh e rd rs imm v s
  | .ldhu e rd rs imm v => Sys2Proof.Machine.execLdhu e rd rs imm v s
  | .ldb e rd rs imm v => Sys2Proof.Machine.execLdb e rd rs imm v s
  | .ldbu e rd rs imm v => Sys2Proof.Machine.execLdbu e rd rs imm v s
  | .stw e short rd rs imm v => Sys2Proof.Machine.execStw e short rd rs imm v s
  | .sth e rd rs imm v => Sys2Proof.Machine.execSth e rd rs imm v s
  | .stb e rd rs imm v => Sys2Proof.Machine.execStb e rd rs imm v s
  | .agLoad e short op rd m upd v => Sys2Proof.Machine.execAgLoad e short op rd m upd v s
  | .agStore e short op rd m upd v => Sys2Proof.Machine.execAgStore e short op rd m upd v s
  | .vld e vd m sz upd v => Sys2Proof.Machine.execVld e vd m sz upd v s
  | .vst e vd m sz upd v => Sys2Proof.Machine.execVst e vd m sz upd v s
  | .vldr e vd m sz upd v => Sys2Proof.Machine.execVldr e vd m sz upd v s
  | .agset e m field rs => Sys2Proof.Machine.execAgset e m field rs s
  | .agget e rd m field => Sys2Proof.Machine.execAgget e rd m field s
  | .agadd e m imm => Sys2Proof.Machine.execAgadd e m imm s
  | .bCond e short cond disp => Sys2Proof.Machine.execBCond e short cond disp s
  | .call e rd disp => Sys2Proof.Machine.execCall e rd disp s
  | .callr e short rd rs imm => Sys2Proof.Machine.execCallr e short rd rs imm s
  | .dbnz e rd disp => Sys2Proof.Machine.execDbnz e rd disp s
  | .nop e => Sys2Proof.Machine.execNop e s
  | .trap e n => Sys2Proof.Machine.execTrap e n s
  | .eret e => Sys2Proof.Machine.execEret e s
  | .mfs e rd sr => Sys2Proof.Machine.execMfs e rd sr s
  | .mts e sr rs => Sys2Proof.Machine.execMts e sr rs s
  | .wfe e => Sys2Proof.Machine.execWfe e s
  | .fence e => Sys2Proof.Machine.execFence e s
  | .mac e a rs rt => Sys2Proof.Machine.execMac e a rs rt s
  | .msu e a rs rt => Sys2Proof.Machine.execMsu e a rs rt s
  | .mula e a rs rt => Sys2Proof.Machine.execMula e a rs rt s
  | .macu e a rs rt => Sys2Proof.Machine.execMacu e a rs rt s
  | .clra e a => Sys2Proof.Machine.execClra e a s
  | .mova e a rs => Sys2Proof.Machine.execMova e a rs s
  | .rda e rd a sh => Sys2Proof.Machine.execRda e rd a sh s
  | .rdah e rd a sh => Sys2Proof.Machine.execRdah e rd a sh s
  | .asum e a => Sys2Proof.Machine.execAsum e a s
  | .vadd e vd vs vt sz => Sys2Proof.Machine.execVadd e vd vs vt sz s
  | .vsub e vd vs vt sz => Sys2Proof.Machine.execVsub e vd vs vt sz s
  | .vadds e vd vs vt sz => Sys2Proof.Machine.execVadds e vd vs vt sz s
  | .vsubs e vd vs vt sz => Sys2Proof.Machine.execVsubs e vd vs vt sz s
  | .vhadd e vd vs vt sz => Sys2Proof.Machine.execVhadd e vd vs vt sz s
  | .vhsub e vd vs vt sz => Sys2Proof.Machine.execVhsub e vd vs vt sz s
  | .vand e vd vs vt => Sys2Proof.Machine.execVand e vd vs vt s
  | .vor e vd vs vt => Sys2Proof.Machine.execVor e vd vs vt s
  | .vxor e vd vs vt => Sys2Proof.Machine.execVxor e vd vs vt s
  | .vmin e vd vs vt sz => Sys2Proof.Machine.execVmin e vd vs vt sz s
  | .vmax e vd vs vt sz => Sys2Proof.Machine.execVmax e vd vs vt sz s
  | .vabs e vd vs sz => Sys2Proof.Machine.execVabs e vd vs sz s
  | .vsll e vd vs sz sh => Sys2Proof.Machine.execVsll e vd vs sz sh s
  | .vsrl e vd vs sz sh => Sys2Proof.Machine.execVsrl e vd vs sz sh s
  | .vsra e vd vs sz sh => Sys2Proof.Machine.execVsra e vd vs sz sh s
  | .vmov e vd vs => Sys2Proof.Machine.execVmov e vd vs s
  | .vmul e vs vt sz => Sys2Proof.Machine.execVmul e vs vt sz s
  | .vmac e vs vt sz => Sys2Proof.Machine.execVmac e vs vt sz s
  | .vmsu e vs vt sz => Sys2Proof.Machine.execVmsu e vs vt sz s
  | .vclr e => Sys2Proof.Machine.execVclr e s
  | .vrnd e vd sz sh => Sys2Proof.Machine.execVrnd e vd sz sh s
  | .vcmul e vd vs vt sh => Sys2Proof.Machine.execVcmul e vd vs vt sh s
  | .vbcast e vd rs sz => Sys2Proof.Machine.execVbcast e vd rs sz s
  | .vins e vd idx rs sz => Sys2Proof.Machine.execVins e vd idx rs sz s
  | .vext e rd vs idx sz => Sys2Proof.Machine.execVext e rd vs idx sz s
  | .neg e rd rs => Sys2Proof.Machine.execNeg e rd rs s
  | .sexth e rd rs => Sys2Proof.Machine.execSexth e rd rs s
  | .jr e rs => Sys2Proof.Machine.execJr e rs s
  | .movi e rd imm => Sys2Proof.Machine.execMovi e rd imm s
  | .reltaskRead e rd => Sys2Proof.Machine.execReltaskRead e rd s
  | .reldoneWrite e rs => Sys2Proof.Machine.execReldoneWrite e rs s
  | .evclrWrite e rs => Sys2Proof.Machine.execEvclrWrite e rs s
  | .qrdyRead e rd => Sys2Proof.Machine.execQrdyRead e rd s
  | .wdkickWrite e rs => Sys2Proof.Machine.execWdkickWrite e rs s
  | .asyncExceptionTake e => Sys2Proof.Machine.execAsyncExceptionTake e s
  | .engineWake e => Sys2Proof.Machine.execEngineWake e s
  | .watchdogExpiry e => Sys2Proof.Machine.execWatchdogExpiry e s
  | .gateInfo e same => Sys2Proof.Machine.execGateInfo e same s
  | .gateRecord e same => Sys2Proof.Machine.execGateRecord e same s
  | .gateRandom e same => Sys2Proof.Machine.execGateRandom e same s
  | .gateDump e same => Sys2Proof.Machine.execGateDump e same s
  | .gateRestart e same => Sys2Proof.Machine.execGateRestart e same s
  | .gateAttest e same => Sys2Proof.Machine.execGateAttest e same s
  | .gateKeyInstall e same => Sys2Proof.Machine.execGateKeyInstall e same s
  | .gateKeyErase e same => Sys2Proof.Machine.execGateKeyErase e same s
  | .gateSign e same => Sys2Proof.Machine.execGateSign e same s
  | .gateSecverAdvance e same => Sys2Proof.Machine.execGateSecverAdvance e same s
  | .gateCommand e same => Sys2Proof.Machine.execGateCommand e same s
  | .gateDebugStatus e same => Sys2Proof.Machine.execGateDebugStatus e same s
  | .gateAnswer e same => Sys2Proof.Machine.execGateAnswer e same s
  | .gateTimeout e => Sys2Proof.Machine.execGateTimeout e s
  | .refugeServiceComplete j env => Sys2Proof.Machine.execRefugeServiceComplete j env s
  | .engRunStart r e => Sys2Proof.Machine.execEngRunStart r e s
  | .engRunStop r e => Sys2Proof.Machine.execEngRunStop r e s
  | .engRunFreeze r e => Sys2Proof.Machine.execEngRunFreeze r e s
  | .engWorldWrite r e v => Sys2Proof.Machine.execEngWorldWrite r e v s
  | .engMemoryClearComplete e => Sys2Proof.Machine.execEngMemoryClearComplete e s
  | .relEntryCommit r c => Sys2Proof.Machine.execRelEntryCommit r c s
  | .relEntryInvalidate r c => Sys2Proof.Machine.execRelEntryInvalidate r c s
  | .relEntryRead r c => Sys2Proof.Machine.execRelEntryRead r c s
  | .fatalDump => Sys2Proof.Machine.execFatalDump s
  | .dumpCp7Timeout => Sys2Proof.Machine.execDumpCp7Timeout s
  | .scrubRow cls bank ecc hit => Sys2Proof.Machine.execScrubRow cls bank ecc hit s
  | .dramInitComplete k ok => Sys2Proof.Machine.execDramInitComplete k ok s
  | .mceGuardWrite r v => Sys2Proof.Machine.execMceGuardWrite r v s
  | .guardInitComplete => Sys2Proof.Machine.execGuardInitComplete s
  | .cplKeyWrite r p k v => Sys2Proof.Machine.execCplKeyWrite r p k v s
  | .cplLoadKey r p parity => Sys2Proof.Machine.execCplLoadKey r p parity s
  | .cplKeyReady p => Sys2Proof.Machine.execCplKeyReady p s
  | .cplGo r p first last => Sys2Proof.Machine.execCplGo r p first last s
  | .cplAbort r p => Sys2Proof.Machine.execCplAbort r p s
  | .cplJobComplete p brk => Sys2Proof.Machine.execCplJobComplete p brk s
  | .cplReseed p supplied => Sys2Proof.Machine.execCplReseed p supplied s
  | .pkeCfgWrite r v => Sys2Proof.Machine.execPkeCfgWrite r v s
  | .pkeOpDataAccess r v => Sys2Proof.Machine.execPkeOpDataAccess r v s
  | .pkeGo r => Sys2Proof.Machine.execPkeGo r s
  | .pkeAbort r k => Sys2Proof.Machine.execPkeAbort r k s
  | .pkePreempt => Sys2Proof.Machine.execPkePreempt s
  | .pkeJobComplete fault brk => Sys2Proof.Machine.execPkeJobComplete fault brk s
  | .pkeRandomTimeout => Sys2Proof.Machine.execPkeRandomTimeout s
  | .pkeCtxRead r k => Sys2Proof.Machine.execPkeCtxRead r k s
  | .keccakHandover => Sys2Proof.Machine.execKeccakHandover s
  | .hshGo r first last => Sys2Proof.Machine.execHshGo r first last s
  | .hshSqueeze r => Sys2Proof.Machine.execHshSqueeze r s
  | .hshAbort r => Sys2Proof.Machine.execHshAbort r s
  | .hshJobComplete brk => Sys2Proof.Machine.execHshJobComplete brk s
  | .powerOnReset brownout straps cycles => Sys2Proof.Machine.execPowerOnReset brownout straps cycles s
  | .warmReset => Sys2Proof.Machine.execWarmReset s
  | .powerLoss cut => Sys2Proof.Machine.execPowerLoss cut s
  | .bootBaseCamp v => Sys2Proof.Machine.execBootBaseCamp v s
  | .bootRefuge writes brk => Sys2Proof.Machine.execBootRefuge writes brk s
  | .bootLoading m writes => Sys2Proof.Machine.execBootLoading m writes s
  | .bootProtectionReady writes => Sys2Proof.Machine.execBootProtectionReady writes s
  | .rfgBootOk r key => Sys2Proof.Machine.execRfgBootOk r key s
  | .bootOkExpiry => Sys2Proof.Machine.execBootOkExpiry s
  | .recoveryFrame src payload m env => Sys2Proof.Machine.execRecoveryFrame src payload m env s
  | .cmdProvision b env => Sys2Proof.Machine.execCmdProvision b env s
  | .cmdTakeOwnership b env => Sys2Proof.Machine.execCmdTakeOwnership b env s
  | .cmdTransferOwnership b env => Sys2Proof.Machine.execCmdTransferOwnership b env s
  | .cmdRetire b env => Sys2Proof.Machine.execCmdRetire b env s
  | .cmdReprovision b env => Sys2Proof.Machine.execCmdReprovision b env s
  | .cmdDisableTamperSource b env => Sys2Proof.Machine.execCmdDisableTamperSource b env s
  | .cmdDebugToken b env => Sys2Proof.Machine.execCmdDebugToken b env s
  | .rfgNonceRequest r => Sys2Proof.Machine.execRfgNonceRequest r s
  | .rfgDbgRevoke r => Sys2Proof.Machine.execRfgDbgRevoke r s
  | .debugTokenExpiry => Sys2Proof.Machine.execDebugTokenExpiry s
  | .refugeWatchdogExpiry => Sys2Proof.Machine.execRefugeWatchdogExpiry s
  | .trnReseed => Sys2Proof.Machine.execTrnReseed s
  | .trnHealthFail test => Sys2Proof.Machine.execTrnHealthFail test s
  | .trnRetest pass => Sys2Proof.Machine.execTrnRetest pass s
  | .tamperDetect src lasting => Sys2Proof.Machine.execTamperDetect src lasting s
  | .clockMonitorChange cond on => Sys2Proof.Machine.execClockMonitorChange cond on s
  | .tmpLatchClear r hi v => Sys2Proof.Machine.execTmpLatchClear r hi v s
  | .tmpEnWrite r hi v => Sys2Proof.Machine.execTmpEnWrite r hi v s
  | .glitchWindowExpiry => Sys2Proof.Machine.execGlitchWindowExpiry s
  | .vbatSwitchover toVbat mv => Sys2Proof.Machine.execVbatSwitchover toVbat mv s
  | .bkdStateLoss => Sys2Proof.Machine.execBkdStateLoss s
  | .backupAlarm srcs cycles => Sys2Proof.Machine.execBackupAlarm srcs cycles s
  | .bkdLogClear r => Sys2Proof.Machine.execBkdLogClear r s
  | .bkdLogDataRead r => Sys2Proof.Machine.execBkdLogDataRead r s
  | .bkdVaultDataAccess r v => Sys2Proof.Machine.execBkdVaultDataAccess r v s
  | .flashProgram r rivals => Sys2Proof.Machine.execFlashProgram r rivals s
  | .flashProgramComplete bank ok => Sys2Proof.Machine.execFlashProgramComplete bank ok s
  | .flashErase r rivals => Sys2Proof.Machine.execFlashErase r rivals s
  | .flashEraseComplete bank ok => Sys2Proof.Machine.execFlashEraseComplete bank ok s
  | .flashSuspend r rivals => Sys2Proof.Machine.execFlashSuspend r rivals s
  | .flashSuspendComplete bank => Sys2Proof.Machine.execFlashSuspendComplete bank s
  | .flashResume r rivals => Sys2Proof.Machine.execFlashResume r rivals s
  | .flashMarginRead r margin ecc mask rivals => Sys2Proof.Machine.execFlashMarginRead r margin ecc mask rivals s
  | .flashBlankCheck r weak rivals => Sys2Proof.Machine.execFlashBlankCheck r weak rivals s
  | .flashBlockInfo r rivals => Sys2Proof.Machine.execFlashBlockInfo r rivals s
  | .flashSuspendLong bank => Sys2Proof.Machine.execFlashSuspendLong bank s
  | .evrTake => Sys2Proof.Machine.execEvrTake s
  | .evrCreditGain => Sys2Proof.Machine.execEvrCreditGain s
  | .evrTickClose => Sys2Proof.Machine.execEvrTickClose s
  | .evrFlashCommit fails => Sys2Proof.Machine.execEvrFlashCommit fails s
  | .evrReclaim => Sys2Proof.Machine.execEvrReclaim s
  | .mirrorUpdate => Sys2Proof.Machine.execMirrorUpdate s
  | .mirrorTimerExpiry => Sys2Proof.Machine.execMirrorTimerExpiry s
  | .cardInsert c => Sys2Proof.Machine.execCardInsert c s
  | .cardRemove doubt => Sys2Proof.Machine.execCardRemove doubt s
  | .cardIdentify m env => Sys2Proof.Machine.execCardIdentify m env s
  | .cardPark => Sys2Proof.Machine.execCardPark s
  | .crdAppend fails => Sys2Proof.Machine.execCrdAppend fails s
  | .crdReadBlocks fails => Sys2Proof.Machine.execCrdReadBlocks fails s
  | .crdSync fails => Sys2Proof.Machine.execCrdSync fails s
  | .crdFormat fails => Sys2Proof.Machine.execCrdFormat fails s
  | .crdParkCommand fails => Sys2Proof.Machine.execCrdParkCommand fails s
  | .crdRecordItem k => Sys2Proof.Machine.execCrdRecordItem k s
  | .crdBlockAck => Sys2Proof.Machine.execCrdBlockAck s
  | .crdAttemptTimeout kind cmd status => Sys2Proof.Machine.execCrdAttemptTimeout kind cmd status s
  | .crdCairnTimer => Sys2Proof.Machine.execCrdCairnTimer s
  | .nfcPoll ext tags left => Sys2Proof.Machine.execNfcPoll ext tags left s
  | .nfcActivate ext fails late ans crcBad => Sys2Proof.Machine.execNfcActivate ext fails late ans crcBad s
  | .nfcExchange fails late ans => Sys2Proof.Machine.execNfcExchange fails late ans s
  | .nfcDeselect => Sys2Proof.Machine.execNfcDeselect s
  | .nfcFieldOff => Sys2Proof.Machine.execNfcFieldOff s
  | .nfcFieldIdleTimeout => Sys2Proof.Machine.execNfcFieldIdleTimeout s
  | .nfcExtFieldTimeout => Sys2Proof.Machine.execNfcExtFieldTimeout s
  | .nfcSessionWaitTimeout => Sys2Proof.Machine.execNfcSessionWaitTimeout s
  | .nfcLpcdPing amp phase ovr tags left => Sys2Proof.Machine.execNfcLpcdPing amp phase ovr tags left s
  | .islandFieldOn => Sys2Proof.Machine.execIslandFieldOn s
  | .islandTypeAFrame f nbits => Sys2Proof.Machine.execIslandTypeAFrame f nbits s
  | .islandPps dsi dri => Sys2Proof.Machine.execIslandPps dsi dri s
  | .islandSelect b mv => Sys2Proof.Machine.execIslandSelect b mv s
  | .islandRead b decayed mv => Sys2Proof.Machine.execIslandRead b decayed mv s
  | .islandGetStatus b mv => Sys2Proof.Machine.execIslandGetStatus b mv s
  | .islandWriteNote b mv cut => Sys2Proof.Machine.execIslandWriteNote b mv cut s
  | .islandSessionEnd how => Sys2Proof.Machine.execIslandSessionEnd how s
  | .nfcNoteDataRead r => Sys2Proof.Machine.execNfcNoteDataRead r s
  | .ropeTickEdge elapsed mark env => Sys2Proof.Machine.execRopeTickEdge elapsed mark env s
  | .ropeTickLoss => Sys2Proof.Machine.execRopeTickLoss s
  | .ropeRejoin => Sys2Proof.Machine.execRopeRejoin s
  | .ropeEventSlot lane bits ok => Sys2Proof.Machine.execRopeEventSlot lane bits ok s
  | .ropeDataSlot lane bits ok => Sys2Proof.Machine.execRopeDataSlot lane bits ok s
  | .ropeCreditSlot lane bits ok => Sys2Proof.Machine.execRopeCreditSlot lane bits ok s
  | .ropeTimeSlot lane bits ok => Sys2Proof.Machine.execRopeTimeSlot lane bits ok s
  | .ropeStepSlot lane bits ok => Sys2Proof.Machine.execRopeStepSlot lane bits ok s
  | .ropeOrbitSlot lane bits ok => Sys2Proof.Machine.execRopeOrbitSlot lane bits ok s
  | .ropeOrbitHiSlot lane bits ok => Sys2Proof.Machine.execRopeOrbitHiSlot lane bits ok s
  | .ropeMemberLoss lane => Sys2Proof.Machine.execRopeMemberLoss lane s
  | .isdLinkAlign p => Sys2Proof.Machine.execIsdLinkAlign p s
  | .isdHello p f => Sys2Proof.Machine.execIsdHello p f s
  | .isdHelloTimer p => Sys2Proof.Machine.execIsdHelloTimer p s
  | .isdDataFlit p f => Sys2Proof.Machine.execIsdDataFlit p f s
  | .isdIdleFlit p f => Sys2Proof.Machine.execIsdIdleFlit p f s
  | .isdNak p f => Sys2Proof.Machine.execIsdNak p f s
  | .isdAckTimeout p => Sys2Proof.Machine.execIsdAckTimeout p s
  | .isdNakRepeat p => Sys2Proof.Machine.execIsdNakRepeat p s
  | .isdTimeFlit p f off age => Sys2Proof.Machine.execIsdTimeFlit p f off age s
  | .isdTimeTimer p off eighths fabric => Sys2Proof.Machine.execIsdTimeTimer p off eighths fabric s
  | .isdTopo p f => Sys2Proof.Machine.execIsdTopo p f s
  | .isdTopoTimer => Sys2Proof.Machine.execIsdTopoTimer s
  | .isdElectionStands reqs => Sys2Proof.Machine.execIsdElectionStands reqs s
  | .isdRoute p f => Sys2Proof.Machine.execIsdRoute p f s
  | .isdAdmitWrite r v => Sys2Proof.Machine.execIsdAdmitWrite r v s
  | .isdItemSend queue => Sys2Proof.Machine.execIsdItemSend queue s
  | .isdReassemblyTimeout j => Sys2Proof.Machine.execIsdReassemblyTimeout j s
  | .isdVc1LateDrop p => Sys2Proof.Machine.execIsdVc1LateDrop p s
  | .isdXmapCommit r => Sys2Proof.Machine.execIsdXmapCommit r s
  | .isdXmapInvalidate r => Sys2Proof.Machine.execIsdXmapInvalidate r s
  | .isdXmapRead r => Sys2Proof.Machine.execIsdXmapRead r s
  | .sysRstCmd r => Sys2Proof.Machine.execSysRstCmd r s
  | .sysExtRstWrite r assert => Sys2Proof.Machine.execSysExtRstWrite r assert s
  | .jtagIdcode => Sys2Proof.Machine.execJtagIdcode s
  | .jtagSamplePreload top ton => Sys2Proof.Machine.execJtagSamplePreload top ton s
  | .jtagExtest top ton => Sys2Proof.Machine.execJtagExtest top ton s
  | .jtagIntest top ton => Sys2Proof.Machine.execJtagIntest top ton s
  | .jtagClamp => Sys2Proof.Machine.execJtagClamp s
  | .jtagHighz => Sys2Proof.Machine.execJtagHighz s
  | .jtagBypass => Sys2Proof.Machine.execJtagBypass s
  | .dapAccess op addr v busy env => Sys2Proof.Machine.execDapAccess op addr v busy env s
  | .dbgMboxDataWrite r v => Sys2Proof.Machine.execDbgMboxDataWrite r v s
  | .dbgMboxGo r len env => Sys2Proof.Machine.execDbgMboxGo r len env s
  | .ext10Return => Sys2Proof.Machine.execExt10Return s
  | .hstLinkUp width speed => Sys2Proof.Machine.execHstLinkUp width speed s
  | .illegalInstruction e word half => Sys2Proof.Machine.execIllegalInstruction e word half s
  | .gateReserved e j same => Sys2Proof.Machine.execGateReserved e j same s
  | .pkeMemoryClearComplete => Sys2Proof.Machine.execPkeMemoryClearComplete s
  | .dramTemperatureReport k hot => Sys2Proof.Machine.execDramTemperatureReport k hot s
  | .wardenLockstepMismatch => Sys2Proof.Machine.execWardenLockstepMismatch s
  | .ropeIdleSlot lane bits ok => Sys2Proof.Machine.execRopeIdleSlot lane bits ok s
  | .isdLinkDown p => Sys2Proof.Machine.execIsdLinkDown p s

end Sys2Proof.Machine
end

