-- ==== Sys2Proof/WellFormed.lean ====
section
/-! DEFINITION. Which commands are well formed: operand values that the encodings of Stovar code, the pins and the partners can present.
The ranges that the operand types give already are not repeated here. -/

namespace Sys2Proof

/-- The 16-bit forms of R247: the destination is the first source. -/
def shortSame (short : Bool) (rd rs : Fin 32) : Bool := !short || rd == rs

/-- A 7-bit signed immediate. -/
def shortImm7 (short : Bool) (imm : Int) : Bool := !short || (decide (-64 ≤ imm) && decide (imm < 64))

/-- The 16-bit ldw and stw: g31, a multiple of 4 below 512. -/
def shortStack (short : Bool) (rs : Fin 32) (imm : Nat) : Bool := !short || (rs == 31 && imm % 4 == 0 && decide (imm < 512))

/-- A shift within an element, an element index within a vector (R246). -/
def shiftOk (sz : Bool) (sh : Nat) : Bool := decide (sh < (if sz then 16 else 32))
def indexOk (sz : Bool) (idx : Nat) : Bool := decide (idx < (if sz then 8 else 4))

/-- The BCD fields of an IRIG-B frame fit their bits (R39). -/
def IrigFrame.ok (f : IrigFrame) : Bool :=
  decide (f.sec < 256) && decide (f.min < 256) && decide (f.hour < 256) && decide (f.day < 4096) && decide (f.year < 256)

/-- A command is well formed. -/
def Instr.wf : Instr → Bool
  | .add _ short rd rs _ | .sub _ short rd rs _ | .and _ short rd rs _ | .or _ short rd rs _ | .xor _ short rd rs _
  | .sll _ short rd rs _ | .srl _ short rd rs _ | .sra _ short rd rs _ | .slli _ short rd rs _ => shortSame short rd rs
  | .addi _ short rd rs imm => shortSame short rd rs && shortImm7 short imm.toInt
  | .cmpi _ short _ imm => shortImm7 short imm.toInt
  | .callr _ short rd _ imm => !short || (rd == 30 && imm == 0)
  | .bCond _ short _ disp => !short || (decide (-128 ≤ disp.toInt) && decide (disp.toInt < 128))
  | .ldw _ short _ rs imm _ | .stw _ short _ rs imm _ => shortStack short rs imm.toNat
  | .agLoad _ short op _ _ _ _ => !short || op == 0
  | .agStore _ short op _ _ _ _ => !short || op == 0
  | .vsll _ _ _ sz sh | .vsrl _ _ _ sz sh | .vsra _ _ _ sz sh => shiftOk sz sh
  | .vcmul _ _ _ _ sh => decide (sh.val ≤ 16)
  | .vins _ _ idx _ sz => indexOk sz idx
  | .vext _ _ _ idx sz => indexOk sz idx
  | .illegalInstruction _ word half => !half || (decide (word.toNat < 65536) && word.toNat % 4 != 0)
  | .irigFrame f _ => f.ok
  | .hstInboundRequest _ _ _ w n _ => decide (n ≤ 4096) && (match w with | some b => decide (b.length ≤ 4096) | none => true)
  | .cnvSample _ _ words => words.length == 4
  | .cnvTrainComplete res => res.length == 4
  | .evrFlashCommit fails => decide (fails < 16)
  | .islandTypeAFrame f nbits => decide (nbits ≤ 8 * f.length)
  | _ => true

end Sys2Proof
end

