-- ==== Sys2Proof/Safety.lean ====
section
/-! DEFINITION. The terms that claims about the machine use. -/

namespace Sys2Proof.Machine

open Sys2Proof

/-- The device as a command meets it: the answer and the outputs of the command before are gone, and no operand of its own stands. -/
def Dev.cleared (d : Dev) : Dev := { d with off := 0, brk := none, resp := { status := none, data := 0 }, out := [] }

/-- The device has power. -/
abbrev State.on (s : State) : Prop := s.dev.sys.powered = true

/-- The command answers a next state with the queue and the round-robin pointer as they were, and `P` holds of its device. -/
def Completes (c : Instr) (s : State) (P : Dev → Prop) : Prop := ∃ d, exec c s = .next { s with dev := d } ∧ P d

/-- The command answers the next state whose device `f` gives from the device as the command meets it. -/
def Gives (c : Instr) (s : State) (f : Dev → Dev) : Prop := exec c s = .next { s with dev := f s.dev.cleared }

/-- A write of the register at `off` of `page` by `r` passes every check before its effect (R11, R26, R27, R283, R285, R288, R289). -/
abbrev State.accepts (s : State) (r : Req) (page off : Nat) : Prop :=
  s.on ∧ s.dev.accessCheck r page off false = .ok ∧ s.dev.mismatched page (shadowOff off) = false

/-- The same for a read. -/
abbrev State.acceptsRead (s : State) (r : Req) (page off : Nat) : Prop :=
  s.on ∧ s.dev.accessCheck r page off true = .ok ∧ s.dev.mismatched page (shadowOff off) = false

/-- A write command has the effect `f`, and its answer and the page's STATUS carry ST_OK (R10, R286). -/
def Effects (c : Instr) (s : State) (page : Nat) (f : Dev → Dev) : Prop := Gives c s (fun d => (f d).report page .ok)

/-- A write command that ends the page's running job: as `Effects`, and STATUS carries ST_ABORTED (R310, R320, R335, R341; log entry 355). -/
def EndsJob (c : Instr) (s : State) (page : Nat) (f : Dev → Dev) : Prop :=
  Gives c s (fun d => ((f d).report page .ok).wr STATUS_last_status Status.aborted.code 0 page)

/-- A command is turned away with a status, which its answer and the page's STATUS carry; nothing else changes. -/
def TurnedAway (c : Instr) (s : State) (page : Nat) (st : Status) : Prop := Gives c s (fun d => d.report page st)

/-- A flash command of `r` passes every check before its own, and no other requester has the bank (R25, R284, R393). -/
abbrev State.hasBank (s : State) (r : Req) (rivals : List (Req × Fin 4)) : Prop :=
  s.accepts r pgFLC 0x068 ∧ losesBank s.rr r (flBank (s.dev.flAddr (reqId r))) (rivals.map (fun x => (x.1, x.2.val))) = false

/-- Engine `e` issues its next instruction: the device has power, the engine is RUNNING, and no asynchronous cause is taken first (R260). -/
abbrev State.issues (s : State) (e : Nat) : Prop := s.on ∧ s.dev.engRunning e = true ∧ s.dev.takeable e = none

/-- The command leaves engine `e` as `f` gives it from what it was; every other engine and the rest of the device stay. -/
def EngineStep (c : Instr) (s : State) (e : Nat) (f : Eng → Eng) : Prop :=
  Completes c s (fun d => d.engOf e = f (s.dev.engOf e) ∧ (∀ k, k ≠ e → d.engOf k = s.dev.engOf k) ∧
    { d with eng := [] } = { s.dev.cleared with eng := [] })

/-- A load of `w` bytes at `a` by engine `e`, answered without a bus error: what the access leaves, `f` of the value it gives, the pc past an
instruction of `n` bytes. -/
def LoadsTo (c : Instr) (s : State) (e : Fin 96) (a w n : Nat) (v : MemEnv) (f : Nat → Dev → Dev) : Prop :=
  a % w = 0 → (s.dev.cleared.engLoad e a w v).1 = .ok →
    Gives c s (fun d => let x := d.engLoad e a w v; (f x.2.1 x.2.2).setPc e ((d.engOf e).pc + n))

/-- A store of bytes at `a` by engine `e`, answered without a bus error; of the writers of its CCLK that `v` names, those after it in the
order of R25 leave their own bytes (R230, R302). -/
def StoresTo (c : Instr) (s : State) (e : Fin 96) (a : Nat) (b : List Byte) (n : Nat) (v : MemEnv) (f : Dev → Dev) : Prop :=
  a % b.length = 0 → (s.dev.cleared.engStore e a b (laterOf v s.rr (.eng e))).1 = .ok →
    Gives c s (fun d => (f (d.engStore e a b (laterOf v s.rr (.eng e))).2).setPc e ((d.engOf e).pc + n))

/-- Engine `e` takes a synchronous exception at this instruction, whose EPC is the instruction itself (R256 to R258, R261). -/
def Raises (c : Instr) (s : State) (e cause arg st : Nat) : Prop :=
  Gives c s (fun d => d.syncException e cause arg st (d.engOf e).pc (d.engOf e).pc)

/-- General register `r`; g0 reads as zero (R221). -/
def Eng.read (x : Eng) (r : Nat) : Word := if r = 0 then 0 else x.g.get r 0
/-- A write of general register `r`; one of g0 is discarded (R221). -/
def Eng.write (x : Eng) (r : Nat) (v : Word) : Eng := if r = 0 then x else { x with g := x.g.set r v 0 }
/-- A write of vector register `r`. -/
def Eng.writeV (x : Eng) (r : Nat) (v : BitVec 128) : Eng := { x with v := x.v.set r v 0 }
/-- A write of accumulator `n`. -/
def Eng.writeA (x : Eng) (n : Nat) (v : Int) : Eng := { x with a := x.a.set n v 0 }
/-- A write of address generator `m`. -/
def Eng.writeM (x : Eng) (m : Nat) (v : Gen) : Eng := { x with m := x.m.set m v {} }
/-- The pc past an instruction of `n` bytes. -/
def Eng.past (x : Eng) (n : Nat) : Eng := { x with pc := (x.pc + n) % 65536 }
/-- N and Z from a result, C and V given, Q as it was (R224). -/
def Eng.nzcv (x : Eng) (r : Word) (c v : Bool) : Eng := { x with fl := mkFl (x.fl.getLsbD 4) r.msb (r == 0) c v }
/-- N and Z from a result, the other flags as they were. -/
def Eng.nz (x : Eng) (r : Word) : Eng := x.nzcv r (x.fl.getLsbD 1) (x.fl.getLsbD 0)
/-- Q set where `b`, the other flags as they were. -/
def Eng.sticky (x : Eng) (b : Bool) : Eng :=
  { x with fl := mkFl (x.fl.getLsbD 4 || b) (x.fl.getLsbD 3) (x.fl.getLsbD 2) (x.fl.getLsbD 1) (x.fl.getLsbD 0) }
/-- A value that a signed number of `w` bits does not hold. -/
def outside (w : Nat) (v : Int) : Bool := decide (v < -2 ^ (w - 1)) || decide (2 ^ (w - 1) ≤ v)
/-- The value limited to what a signed number of `w` bits holds. -/
def limited (w : Nat) (v : Int) : Int := max (-2 ^ (w - 1)) (min (2 ^ (w - 1) - 1) v)

/-- Event source `n` is raised: it stands at 1 in the vector of the next tick (R65). -/
abbrev Dev.raised (d : Dev) (n : Nat) : Prop := d.evm.latch.getLsbD n = true

end Sys2Proof.Machine
end

