-- ==== Sys2Proof/Certificates/Slice0/Obligations.lean ====
section
/-! DEFINITION. The statements about the model. -/

open Sys2Proof Sys2Proof.Machine

/-! ### The machine -/

/-- A step takes the command at the front of the queue and runs it on the state with the queue's rest; on an empty queue the device
idles (log entry 1). -/
def Obligations.StepRunsFront : Prop :=
  (∀ (c : Instr) (s : State), step { s with pending := c :: s.pending } = exec c s) ∧
  (∀ s : State, s.pending = [] → step s = .next s)

/-! ### Time and orbits -/

/-- What happens to TIM and ORB from outside: the pulse-per-second input (R38), the IRIG-B input (R39), the 10 MHz input (R35, R62), and the
expiry of the servo heartbeat (R40), of the revert time (R37), of the holdover limit (R42), of a coasting orbit (R57). A tick moves the
round-robin pointer on (R541), and its effect on the device is TIM's own step to the tick followed by that of every other block (R48); a
device that follows a rope takes its ticks from the rope (R51, R473). -/
def Obligations.TimeEventsComplete : Prop :=
  (∀ (s : State) (n : Fin 4), s.on → s.dev.rd ORBn_STATE_state n = 3 →
    s.dev.rd ORBn_CFG_coast_cycles n ≤ s.dev.rd ORBn_STATE_coasted n →
    Gives (.orbCoastExpiry n) s (fun d =>
      ((d.setOrbit n { d.orbit n with toNominal := true }).wr ORBn_STATE_state 4 n).raise (658 + 8 * n))) ∧
  (∀ (s : State) (rising : Bool) (off : Nat), s.on → rising ≠ s.dev.flag TIM_CFG_pps_in_pol → s.dev.tim.ppsLast = none →
    s.dev.qualified 2 = false →
    Gives (.ppsEdge rising off) s (fun d =>
      let c := d.counterAt off / 2 ^ 32
      let d := d.wr64 TIM_PPS_CAP_LO_tai TIM_PPS_CAP_HI_tai c
      { d with tim := { d.tim with ppsLast := some c, ppsLastCclk := d.cclk + off, ppsGood := 1 } })) ∧
  (∀ (s : State) (rising : Bool) (off l : Nat), s.on → rising ≠ s.dev.flag TIM_CFG_pps_in_pol → s.dev.tim.ppsLast = some l →
    l + 999990000 ≤ s.dev.counterAt off / 2 ^ 32 → s.dev.counterAt off / 2 ^ 32 ≤ l + 1000010000 → 3 ≤ s.dev.tim.ppsGood →
    Gives (.ppsEdge rising off) s (fun d =>
      let c := d.counterAt off / 2 ^ 32
      let d := d.wr64 TIM_PPS_CAP_LO_tai TIM_PPS_CAP_HI_tai c
      ({ d with tim := { d.tim with ppsLast := some c, ppsLastCclk := d.cclk + off, ppsGood := 4 } }).setQual 2 true off)) ∧
  (∀ (s : State) (l : Nat), s.on → s.dev.tim.ppsLast = some l → s.dev.tim.ppsLastCclk + 880000000 ≤ s.dev.nextCclk →
    s.dev.qualified 2 = true →
    Gives .ppsEdgeTimeout s (fun d =>
      (({ d with tim := { d.tim with ppsLast := none, ppsGood := 0 } }).setQual 2 false).raise 646)) ∧
  (∀ (s : State) (f : IrigFrame) (off l : Nat), s.on → s.dev.flag TIM_IRIG_CFG_en = true →
    f.amplitude = s.dev.flag TIM_IRIG_CFG_format → f.markersOk = true → s.dev.tim.irigLast = some l →
    s.dev.irigSecond f = some ((l : Int) + 1) → 1 ≤ s.dev.tim.irigGood →
    Gives (.irigFrame f off) s (fun d =>
      let c := d.counterAt off / 2 ^ 32
      let d := { d with tim := { d.tim with irigLastCclk := d.cclk + off } }
      let d := (d.wr TIM_IRIG_STAT_last_ok 1).wr64 TIM_IRIG_TAI_LO_tai TIM_IRIG_TAI_HI_tai c
      ({ d with tim := { d.tim with
        irigLast := some (l + 1), irigGood := 2, irigBad := 0,
        irigDiff := ((l + 1 : Nat) : Int) - ((c + 500000000) / 1000000000 : Nat) } }).setQual 3 true off)) ∧
  (∀ (s : State) (f : IrigFrame) (off : Nat), s.on → s.dev.flag TIM_IRIG_CFG_en = true →
    f.amplitude = s.dev.flag TIM_IRIG_CFG_format → f.markersOk = false → s.dev.tim.irigBad = 0 →
    Gives (.irigFrame f off) s (fun d =>
      let d := { d with tim := { d.tim with irigLastCclk := d.cclk + off } }
      let d := ((d.bump TIM_IRIG_STAT_frame_err).wr TIM_IRIG_STAT_last_ok 0).raise 648
      { d with tim := { d.tim with irigGood := 0, irigBad := 1 } })) ∧
  (∀ s : State, s.on → s.dev.tim.irigLastCclk + 2000000000 ≤ s.dev.nextCclk →
    Gives .irigFrameTimeout s (fun d => ({ d with tim := { d.tim with irigLast := none, irigGood := 0 } }).setQual 3 false)) ∧
  (∀ s : State, s.on → s.dev.flag TIM_STATE_ext10_active = true → s.dev.rd TIM_STATE_state ≠ 3 → s.dev.rd TIM_STATE_state ≠ 4 →
    Gives .ext10Loss s (fun d =>
      let d := { d with tim := { d.tim with ext10Present := false } }
      ((d.wr TIM_STATE_qualified (setBits (d.rd TIM_STATE_qualified) 3 3 0)).wr TIM_STATE_ext10_active 0).raise 650)) ∧
  (∀ s : State, s.on → s.dev.flag TIM_CFG_ext10_en = true →
    Gives .ext10Return s (fun d =>
      let d := { d with tim := { d.tim with ext10Present := true } }
      (d.wr TIM_STATE_qualified (setBits (d.rd TIM_STATE_qualified) 3 3 1)).wr TIM_STATE_ext10_active 1)) ∧
  (∀ s : State, s.on → (s.dev.flag TIM_SERVO_ptp_qual || s.dev.flag TIM_SERVO_locked) = true →
    s.dev.tim.servoAt + 3 * cclkPerS ≤ s.dev.nextCclk →
    Gives .servoHeartbeatExpiry s (fun d => ((d.wr TIM_SERVO_ptp_qual 0).wr TIM_SERVO_locked 0).setQual 1 false)) ∧
  (∀ s : State, s.on → Gives .sourceRevertExpiry s (fun d => { d with tim := { d.tim with revert := true } })) ∧
  (∀ s : State, s.on → s.dev.rd TIM_STATE_state = 3 → s.dev.rd TIM_CFG_hold_limit ≠ 0 →
    s.dev.tim.holdSince + s.dev.rd TIM_CFG_hold_limit * cclkPerS ≤ s.dev.cclk →
    Gives .holdLimitExpiry s (fun d => (d.wr TIM_STATE_state 4).raise 642)) ∧
  (∀ (s : State) (env : TickEnv), s.on → (s.dev.ropeMember && s.dev.following) = false →
    exec (.tick env) s = .next { s with
      rr := (s.rr + 1) % 112, dev := (s.dev.cleared.timTick env.ext10).tickRest s.dev.cleared env }) ∧
  (∀ (s : State) (env : TickEnv), s.on → (s.dev.ropeMember && s.dev.following) = true → Gives (.tick env) s (fun d => d))

/-- The selection of a tick, once per tick (R36, R37, R42): the active source stays while it is qualified and in a slot, unless a source
that stands before it has been qualified for revert_s seconds when the reversion is due; otherwise the first qualified source in slot order
is taken, and with none a LOCKED device enters HOLDOVER. -/
def Obligations.SourceSelection : Prop :=
  (∀ d : Dev, d.follower = false → d.rd TIM_STATE_active_src ≠ 0 → d.qualified (d.rd TIM_STATE_active_src) = true →
    d.srcOrder.contains (d.rd TIM_STATE_active_src) = true → d.tim.revert = false →
    d.timSelect.rd TIM_STATE_active_src = d.rd TIM_STATE_active_src) ∧
  (∀ (d : Dev) (c : Nat), d.follower = false → d.rd TIM_STATE_active_src ≠ 0 → d.qualified (d.rd TIM_STATE_active_src) = true →
    d.srcOrder.contains (d.rd TIM_STATE_active_src) = true → d.tim.revert = true → d.rd TIM_CFG_revert_s ≠ 0 →
    (d.srcOrder.takeWhile (· != d.rd TIM_STATE_active_src)).find? (fun c => d.qualified c &&
      decide (d.tim.qualSince.get c 0 + d.rd TIM_CFG_revert_s * cclkPerS ≤ d.cclk + 1)) = some c →
    d.timSelect.rd TIM_STATE_active_src = c) ∧
  (∀ d : Dev, d.follower = false → (d.rd TIM_STATE_active_src = 0 ∨ d.qualified (d.rd TIM_STATE_active_src) = false) →
    d.timSelect.rd TIM_STATE_active_src = d.bestSource) ∧
  (∀ d : Dev, d.follower = false → d.qualified (d.rd TIM_STATE_active_src) = false → d.bestSource = 0 →
    d.rd TIM_STATE_state = 2 → d.timSelect.rd TIM_STATE_state = 3 ∧ d.timSelect.raised 641)

/-- What a write of TIM's and ORB's command registers does once it is accepted: servo reports (R40), corrections (R44 to R46), a snapshot
(R62), start, stop and offset of an orbit (R52, R543), a comparator (R61). -/
def Obligations.TimeWritesComplete : Prop :=
  (∀ (s : State) (r : Req) (v : Word), s.accepts r pgTIM 0x04C →
    Effects (.timServoWrite r v) s pgTIM (fun d =>
      let d := (d.plainWrite pgTIM 0x04C v.toNat).2
      let d := { d with tim := { d.tim with servoAt := d.cclk } }
      d.setQual 1 (d.flag TIM_SERVO_ptp_qual))) ∧
  (∀ (s : State) (r : Req) (v : Word), s.accepts r pgTIM 0x05C →
    Effects (.timPhaseAdjWrite r v) s pgTIM (fun d =>
      { d with tim := { d.tim with pend := { d.tim.pend with phase := some v.toInt } } })) ∧
  (∀ (s : State) (r : Req) (v : Word), s.accepts r pgTIM 0x060 → s.dev.follower = false → 0 < v.toInt →
    Effects (.timStepWrite r v) s pgTIM (fun d =>
      ({ d with tim := { d.tim with pend := { d.tim.pend with step := some v.toInt } } }).wr TIM_STEP_ns v.toNat)) ∧
  (∀ (s : State) (r : Req) (v : Word), s.accepts r pgTIM 0x068 → s.dev.follower = false →
    s.dev.flag TIM_STATE_ever_locked = false →
    Effects (.timSetCommit r v) s pgTIM (fun d =>
      { d with tim := { d.tim with pend := { d.tim.pend with set := some (v.toNat * 2 ^ 32 + d.tim.setLo) } } })) ∧
  (∀ (s : State) (r : Req), s.accepts r pgTIM 0x088 →
    Effects (.timSnapRequest r) s pgTIM (fun d => ({ d with tim := { d.tim with snapReq := true } }).wr TIM_SNAP_valid 0)) ∧
  (∀ (s : State) (r : Req) (n : Fin 4) (v : Word), s.accepts r pgORB (0x044 + 0x40 * n) → s.dev.flag ORBn_CFG_run n = false →
    s.dev.rd ORBn_SRC_kind n ≠ 3 → bitsOf v.toNat 5 4 ≠ 3 →
    Effects (.orbStart r n v) s pgORB (fun d =>
      let d := (d.plainWrite pgORB (0x044 + 0x40 * n) (v.toNat ||| 1)).2
      d.setOrbit n { d.orbit n with startReq := true, stopReq := false })) ∧
  (∀ (s : State) (r : Req) (n : Fin 4) (v : Word), s.accepts r pgORB (0x044 + 0x40 * n) → s.dev.flag ORBn_CFG_run n = true →
    bitOf v.toNat 1 = s.dev.flag ORBn_CFG_nominal n → bitsOf v.toNat 5 4 ≠ 3 → (s.dev.orbit n).startReq = false →
    Effects (.orbStop r n v) s pgORB (fun d =>
      let d := (d.plainWrite pgORB (0x044 + 0x40 * n) (v.toNat / 2 * 2)).2
      d.setOrbit n { d.orbit n with stopReq := true })) ∧
  (∀ (s : State) (r : Req) (n : Fin 4) (v : BitVec 16), s.accepts r pgORB (0x048 + 0x40 * n) →
    Effects (.orbOffsetWrite r n v) s pgORB (fun d =>
      let d := (d.plainWrite pgORB (0x048 + 0x40 * n) v.toNat).2
      if d.rd ORBn_STATE_state n = 0 then d else d.setOrbit n { d.orbit n with offsetNew := some v.toNat })) ∧
  (∀ (s : State) (r : Req) (k : Fin 16) (v : Word), s.accepts r pgORB (0x200 + 4 * k) → v.getLsbD 31 = true →
    s.dev.flag ORB_CMPk_en k = false →
    Effects (.orbCmpWrite r k v) s pgORB (fun d =>
      let d := (d.plainWrite pgORB (0x200 + 4 * k) v.toNat).2
      { d with cmp := d.cmp.set k ⟨true, 0⟩ ⟨false, 0⟩ }))

/-- A read of TIM_TAI_LO gives bits [31:0] of the counter in the CCLK of the read and latches bits [63:32]; a read of TIM_TAI_HI gives the
latched value (R49). -/
def Obligations.LatchedTai : Prop :=
  (∀ (s : State) (r : Req) (c : Nat), s.acceptsRead r pgTIM 0x050 →
    Completes (.latchedPairRead r (Fin.ofNat 1024 pgTIM) 0x050 c) s (fun d =>
      d.resp = ⟨some .ok, BitVec.ofNat 32 (s.dev.counterAt c / 2 ^ 32)⟩ ∧
      d.pairHi.get (latchKey .tim r pgTIM 0x054) 0 = BitVec.ofNat 32 (s.dev.counterAt c / 2 ^ 64))) ∧
  (∀ (s : State) (r : Req) (c : Nat), s.acceptsRead r pgTIM 0x054 →
    Completes (.latchedPairRead r (Fin.ofNat 1024 pgTIM) 0x054 c) s (fun d =>
      d.resp = ⟨some .ok, s.dev.pairHi.get (latchKey .tim r pgTIM 0x054) 0⟩ ∧ d.pairHi = s.dev.pairHi))

/-! ### Events and the piton path -/

/-- The event matrix and the piton path outside a tick: a hold that runs out (R80), a binary input's edge (R75) and quiet period (R76), the
alarm reset (R87), a software raise (R68), a snapshot request (R65), and the accepted writes of BIO, PIT and TOU (R76, R78 to R80, R82,
R547). -/
def Obligations.EventsComplete : Prop :=
  (∀ (s : State) (n : Fin 64), s.on → s.dev.tou.holding.getLsbD n = true → s.dev.holdRunning n = false →
    ({ s.dev with tou := { s.dev.tou with holding := setBitV s.dev.tou.holding n false } }).touWanted n = false →
    Gives (.touHoldExpiry n) s (fun d =>
      ({ d with tou := { d.tou with holding := setBitV d.tou.holding n false } }).touSet (setBitV d.tou.energised n false))) ∧
  (∀ (s : State) (n : Fin 128), s.on → (s.dev.bi n).blocked = true →
    (s.dev.bi n).lastRaw + max 1 (s.dev.rd BIO_CHAT_quiet) * ticksPerMs ≤ s.dev.ticks →
    Gives (.biQuietExpiry n) s (fun d => d.biUnblock n)) ∧
  (∀ (s : State) (n : Fin 128) (l : Bool) (off : Nat), s.on → (s.dev.bi n).pin ≠ l → s.dev.flag BIO_CFGn_en n = true →
    Completes (.biEdge n l off) s (fun d =>
      (if l != s.dev.flag BIO_CFGn_pol n then
        d.bi n = { s.dev.bi n with pin := l, rise := (s.dev.tickTai, off), lastRaw := s.dev.ticks }
      else d.bi n = { s.dev.bi n with pin := l, fall := (s.dev.tickTai, off), lastRaw := s.dev.ticks }) ∧
      (∀ j, j ≠ n.val → d.bi j = s.dev.bi j) ∧ d = { s.dev.cleared with bio := d.bio })) ∧
  (∀ (s : State) (t : Nat), s.on → s.dev.evm.alarm = some t → s.dev.flag LCC_STATE_tamper_lock = false →
    (s.dev.alarmClear t = true ∨ t + 65535 * ticksPer10us ≤ s.dev.ticks) →
    Gives .alarmResetAssert s (fun d => d.warmReset causeAlarm)) ∧
  (∀ (s : State) (r : Req) (tag : BitVec 16) (src : Fin 1024), s.accepts r pgEVM 0x04C → s.dev.ownsSource r src = true →
    s.dev.evm.latch.getLsbD src = false →
    Effects (.evmRaise r tag src) s pgEVM (fun d => d.raise src tag.toNat)) ∧
  (∀ (s : State) (r : Req), s.accepts r pgEVM 0x040 →
    Effects (.evmSnapshotRequest r) s pgEVM (fun d =>
      ({ d with evm := { d.evm with snapReq := true } }).wr EVM_TICK_CTRL_snap_valid 0)) ∧
  (∀ (s : State) (r : Req) (n : Fin 128) (v : Word) (at_ : Fin 64), s.accepts r pgBIO (0x200 + 4 * n) →
    s.dev.flag BIO_CFGn_en n = false → v.getLsbD 0 = true →
    Effects (.bioCfgWrite r n v at_) s pgBIO (fun d =>
      ({ d with off := at_.val }.plainWrite pgBIO (0x200 + 4 * n) v.toNat).2.biRawChange n at_)) ∧
  (∀ (s : State) (r : Req) (k : Fin 4) (v : Word), s.accepts r pgBIO (0x070 + 4 * k) →
    Effects (.bioUnblockWrite r k v) s pgBIO (fun d =>
      ((List.range 32).filter (fun i => v.toNat.testBit i && (d.bi (32 * k + i)).blocked)).foldl
        (fun d i => d.biUnblock (32 * k + i)) d)) ∧
  (∀ (s : State) (r : Req), s.accepts r pgPIT 0x040 →
    Effects (.pitSwapRequest r) s pgPIT (fun d => { d with pit := { d.pit with swapReq := true } })) ∧
  (∀ (s : State) (r : Req) (k : Fin 6) (v : Word), s.accepts r pgPIT (0x050 + 4 * k) → k.val < 4 →
    Effects (.pitTermWrite r k v) s pgPIT (fun d =>
      let t := d.pitTerm (!d.pit.active) (d.rd PIT_SEL_term)
      let lits := (t.lits.set (2 * k) (BitVec.ofNat 16 v.toNat &&& 0xE3FF)).set (2 * k + 1) (BitVec.ofNat 16 (v.toNat / 65536) &&& 0xE3FF)
      d.pitTermPut { t with lits := lits })) ∧
  (∀ (s : State) (r : Req) (k : Fin 6) (v : Word), s.accepts r pgPIT (0x050 + 4 * k) → 4 ≤ k.val →
    Effects (.pitTermWrite r k v) s pgPIT (fun d =>
      let t := d.pitTerm (!d.pit.active) (d.rd PIT_SEL_term)
      let m := if k.val = 5 then setBits t.omask.toNat 63 32 v.toNat else setBits t.omask.toNat 31 0 v.toNat
      d.pitTermPut { t with omask := BitVec.ofNat 64 m })) ∧
  (∀ (s : State) (r : Req) (hi : Bool) (v : Word), s.accepts r pgTOU (if hi then 0x05C else 0x058) →
    Effects (.touUnlatch r hi v) s pgTOU (fun d =>
      let m := BitVec.ofNat 64 (if hi then v.toNat * 2 ^ 32 else v.toNat)
      { d with tou := { d.tou with latched := d.tou.latched &&& ~~~m } })) ∧
  (∀ (s : State) (r : Req) (hi : Bool) (v : Word), s.accepts r pgTOU (if hi then 0x054 else 0x050) →
    Effects (.touMismClear r hi v) s pgTOU (fun d => (d.plainWrite pgTOU (if hi then 0x054 else 0x050) v.toNat).2))

/-- What is demanded at a tick is the union of the output masks of the active bank's true terms that SECDED has not found uncorrectable
(R77, R79). -/
def Obligations.TripDemand : Prop :=
  ∀ (d : Dev) (errs : List Nat) (n : Nat), d.pit.swapReq = false →
    ((d.pitTick errs).tou.demand.getLsbD n = true ↔
      ∃ e ∈ d.pit.terms, b2n d.pit.active * 256 ≤ e.1 ∧ e.1 < b2n d.pit.active * 256 + 256 ∧
        e.1 ∉ d.pit.bad ∧ (∀ t ∈ errs, e.1 ≠ b2n d.pit.active * 256 + t) ∧
        termTrue d.evm.vec d.evm.rise d.evm.fall e.2 = true ∧ e.2.omask.getLsbD n = true)

/-- A trip output that its configuration does not enable, that a complement fault holds off, or in bivouac mode any, is not energised after
a tick; nor is one while TOU is neither enabled nor draining (R80, R81, R83, R352). -/
def Obligations.TripOutputsFailSafe : Prop :=
  ∀ (d : Dev) (n : Nat),
    (d.flag TOU_CFGn_en n = false ∨ d.tou.heldOff.getLsbD n = true ∨ d.bivouac = true ∨
      (d.flag STATUS_enabled 0 pgTOU = false ∧ d.flag STATUS_draining 0 pgTOU = false)) →
    (d.touTick).tou.energised.getLsbD n = false

/-! ### What every register page shares -/

/-- A block's owner, enable and drain: a claim by one requester or against rivals (R25, R26), a release (R26), the end of the clear (R27),
enable, disable and drain (R28, R29, R83, R542), and the end of a drain (R28, R287). A claim or a release that ends a job leaves ST_ABORTED in
STATUS (R310). -/
def Obligations.PageControlCompletes : Prop :=
  (∀ (s : State) (r : Req) (page : Fin 1024) (rivals : List Req), s.accepts r page 0x024 → loses s.rr r rivals = false →
    lockPages.contains page.val = true → s.dev.rd LOCK_owner 0 page = 0xFF →
    Gives (.lockClaim r page rivals) s (fun d => ((d.lockChange page (reqId r)).report page .ok).jobNote d page 0x024)) ∧
  (∀ (s : State) (r : Req) (page : Fin 1024) (rivals : List Req), s.on → loses s.rr r rivals = true →
    TurnedAway (.lockClaim r page rivals) s page .busy) ∧
  (∀ (s : State) (r : Req) (page : Fin 1024), s.accepts r page 0x024 → lockPages.contains page.val = true →
    s.dev.rd LOCK_owner 0 page = reqId r →
    Gives (.lockRelease r page) s (fun d => ((d.lockChange page 0xFF).report page .ok).jobNote d page 0x024)) ∧
  (∀ (s : State) (page : Fin 1024), s.on →
    Gives (.lockClearComplete page) s (fun d => { d with lockClear := d.lockClear.set page 0 0 })) ∧
  (∀ (s : State) (r : Req) (page : Fin 1024) (b : Blk) (inst : Nat), s.accepts r page 0x008 → pageBlock page = some (b, inst) →
    s.dev.flag STATUS_draining 0 page = true →
    Effects (.ctrlEnable r page) s page (fun d => (d.wr STATUS_enable_pending 1 0 page).wr CTRL_enable 1 0 page)) ∧
  (∀ (s : State) (r : Req) (page : Fin 1024) (b : Blk) (inst : Nat), s.accepts r page 0x008 → pageBlock page = some (b, inst) →
    s.dev.flag STATUS_draining 0 page = false → s.dev.flag STATUS_enabled 0 page = false →
    b ≠ .tou → b ≠ .isd → b ≠ .drc →
    Effects (.ctrlEnable r page) s page (fun d =>
      ((d.wr CTRL_enable 1 0 page).wr STATUS_enabled 1 0 page).portSettle b page)) ∧
  (∀ (s : State) (r : Req) (page : Fin 1024) (b : Blk) (inst : Nat), s.accepts r page 0x008 → pageBlock page = some (b, inst) →
    s.dev.flag STATUS_draining 0 page = false → s.dev.flag STATUS_enabled 0 page = true →
    Effects (.ctrlDisable r page) s page (fun d =>
      (((d.wr CTRL_enable 0 0 page).wr STATUS_enabled 0 0 page).blockDisable b page).portSettle b page)) ∧
  (∀ (s : State) (r : Req) (page : Fin 1024) (b : Blk) (inst : Nat), s.accepts r page 0x008 → pageBlock page = some (b, inst) →
    s.dev.flag STATUS_draining 0 page = true →
    Effects (.ctrlDisable r page) s page (fun d =>
      let d := (d.wr STATUS_enable_pending 0 0 page).wr CTRL_enable 0 0 page
      if b = .tou then d.touDisable else d)) ∧
  (∀ (s : State) (r : Req) (page : Fin 1024) (b : Blk) (inst : Nat), s.accepts r page 0x008 → pageBlock page = some (b, inst) →
    s.dev.flag STATUS_draining 0 page = false → s.dev.flag STATUS_enabled 0 page = true →
    Effects (.ctrlDrain r page) s page (fun d =>
      ((((d.wr CTRL_enable 0 0 page).wr STATUS_enabled 0 0 page).wr STATUS_draining 1 0 page).wr CTRL_drain 1 0 page).blockDrain b page)) ∧
  (∀ (s : State) (page : Fin 1024) (b : Blk) (inst : Nat), s.on → pageBlock page = some (b, inst) →
    s.dev.flag STATUS_draining 0 page = true → s.dev.drained b page = true → s.dev.flag STATUS_enable_pending 0 page = false →
    Gives (.drainComplete page none) s (fun d =>
      (((((d.wr STATUS_draining 0 0 page).wr CTRL_drain 0 0 page).wr STATUS_enable_pending 0 0 page).irq page 30).drainOver b page).portSettle b
        page)) ∧
  (∀ (s : State) (page : Fin 1024) (n : Fin 16384), s.on →
    Gives (.drainComplete page (some n)) s (fun d => d.queueDrainComplete n))

/-- Register accesses that every page shares: soft reset and its end (R288), interrupt bits (R287), a write (R285), one that is refused, one
that meets a parity error (R296), a read that clears (R7), the check of the inverted copies (R289), and a record held back (R545). -/
def Obligations.PageAccessCompletes : Prop :=
  (∀ (s : State) (r : Req) (page : Fin 1024) (b : Blk) (inst : Nat), s.accepts r page 0x008 → pageBlock page = some (b, inst) →
    Effects (.softReset r page) s page (fun d => d.softReset page)) ∧
  (∀ (s : State) (page : Fin 1024), s.on → s.dev.inReset.get page 0 = 1 →
    Gives (.softResetComplete page) s (fun d => { d with inReset := d.inReset.set page 0 0 })) ∧
  (∀ (s : State) (r : Req) (page : Fin 1024) (v : Word) (b : Blk) (inst : Nat), s.accepts r page 0x01C →
    pageBlock page = some (b, inst) →
    Effects (.irqSetWrite r page v) s page (fun d =>
      (d.wr IRQ_STAT_bits (d.rd IRQ_STAT_bits 0 page ||| (v.toNat &&& irqMask b)) 0 page).irqNote page (d.irqLine page))) ∧
  (∀ (s : State) (r : Req) (page : Fin 1024) (off : Fin 4096) (v : Word) (at_ : Fin 64) (b : Blk) (inst : Nat), s.accepts r page off →
    pageBlock page = some (b, inst) → isShadowed b off = false →
    Gives (.registerWrite r page off v at_ [] false 0) s (fun d =>
      let d := { d with off := at_.val }
      let e := d.writeEffect r page off v.toNat noEnv
      (e.2.report page e.1).jobNote d page off)) ∧
  (∀ (s : State) (r : Req) (page : Fin 1024) (off : Fin 4096) (v upset : Word) (at_ : Fin 64) (rivals : List Req), s.on →
    Gives (.registerWrite r page off v at_ rivals true upset) s (fun d =>
      ({ d with off := at_.val }.parityError page 2 (0xF0000000 + 4096 * page + off) (reqId r)).answer .faultDetected)) ∧
  (∀ (s : State) (r : Req) (page : Fin 1024) (off : Fin 4096) (b : Blk) (inst : Nat) (g : RegDesc), s.acceptsRead r page off →
    pageBlock page = some (b, inst) → off.val < 0x800 → off.val ≠ 0x010 → findReg b off = some g →
    g.fields.any (fun f => f.acc == .rc) = true → s.dev.readAct r b page off = none →
    s.dev.latchedPair r b inst page off 0 = none → latchedHigh b off = false → s.dev.view r b inst off = none → b ≠ .sbf →
    Gives (.readClearRead r page off) s (fun d =>
      let key := ownKey b r page off
      (d.setWord key (g.rcCleared (d.word key))).answer .ok (g.readMask (d.word key)))) ∧
  (∀ (s : State) (page : Fin 1024) (hits : List (Fin 4096 × Word)), s.on →
    Gives (.shadowCheck page hits) s (fun d => d.shadowCheck page (hits.map (fun h => (h.1.val, h.2.toNat))))) ∧
  (∀ (s : State) (code : BitVec 16) (unit : BitVec 32) (x : Rate) (h : Rec) (t : Nat), s.on →
    s.dev.evr.rate.get (code.toNat * 2 ^ 32 + unit.toNat) {} = x → x.held = some h → x.last = some t →
    t + 1000000000 ≤ s.dev.tickTai →
    Gives (.recordHeldRelease code unit) s (fun d =>
      (d.setRate (code.toNat * 2 ^ 32 + unit.toNat) { last := some d.tickTai, block := x.block }).direct x.block h)) ∧
  (∀ (s : State) (r : Req) (page : Fin 1024) (off : Fin 4096) (v : Word) (at_ : Fin 64) (b : Blk) (inst : Nat), s.on →
    pageBlock page = some (b, inst) → off.val % 4 = 0 → isShadowed b off = false → s.dev.accessCheck r page off false ≠ .ok →
    Gives (.registerWrite r page off v at_ [] false 0) s (fun d =>
      { d with off := at_.val }.report page (s.dev.accessCheck r page off false)))

/-- A write to the LOCK register of a block that serves one user, by anyone, of any value (R26); a change of owner begins the clear (R27). -/
def Obligations.LockWrites : Prop :=
  ∀ (s : State) (r : Req) (page : Fin 1024) (v : Word) (at_ : Fin 64) (owner : Nat), s.accepts r page 0x024 →
    lockPages.contains page.val = true → owner = s.dev.rd LOCK_owner 0 page →
    (v.toNat % 256 = reqId r → owner = 0xFF → Completes (.registerWrite r page 0x024 v at_ [] false 0) s (fun d =>
      d.resp.status = some .ok ∧ d.rd LOCK_owner 0 page = reqId r ∧ d.lockClear.get page 0 = 1)) ∧
    (v.toNat % 256 = reqId r → owner = reqId r →
      Gives (.registerWrite r page 0x024 v at_ [] false 0) s (fun d => { d with off := at_.val }.report page .ok)) ∧
    (v.toNat % 256 = reqId r → owner ≠ 0xFF → owner ≠ reqId r →
      Gives (.registerWrite r page 0x024 v at_ [] false 0) s (fun d => { d with off := at_.val }.report page .busy)) ∧
    (v.toNat % 256 ≠ reqId r → v.toNat % 256 ≠ 0xFF →
      Gives (.registerWrite r page 0x024 v at_ [] false 0) s (fun d => { d with off := at_.val }.report page .denied)) ∧
    (v.toNat % 256 = 0xFF → owner ≠ 0xFF → (owner = reqId r ∨ r = .refuge) →
      Completes (.registerWrite r page 0x024 v at_ [] false 0) s (fun d =>
        d.resp.status = some .ok ∧ d.rd LOCK_owner 0 page = 0xFF ∧ d.lockClear.get page 0 = 1)) ∧
    (v.toNat % 256 = 0xFF → owner ≠ 0xFF → owner ≠ reqId r → r ≠ .refuge →
      Gives (.registerWrite r page 0x024 v at_ [] false 0) s (fun d => { d with off := at_.val }.report page .denied)) ∧
    (v.toNat % 256 = 0xFF → owner = 0xFF →
      Gives (.registerWrite r page 0x024 v at_ [] false 0) s (fun d => { d with off := at_.val }.report page .ok))

/-- A write leaves each field as its access type says: RW takes the value, W1C clears the bits written as 1, WO holds nothing, RO and RC stay,
WL takes the value the first time only; a locked register answers ST_DENIED (R7). -/
def Obligations.FieldTypes : Prop :=
  ∀ (d : Dev) (page off v : Nat) (b : Blk) (inst : Nat) (g : RegDesc) (f : FieldDesc), pageBlock page = some (b, inst) →
    findReg b off = some g → f ∈ g.fields →
    let key := regKey page off
    let old := bitsOf (d.word key) f.hi f.lo
    let new := bitsOf v f.hi f.lo
    let now := bitsOf ((d.plainWrite page off v).2.word key) f.hi f.lo
    (f.acc = .rw → now = new) ∧ (f.acc = .w1c → now = old - (old &&& new)) ∧ (f.acc = .wo → now = 0) ∧
      (f.acc = .ro → now = old) ∧ (f.acc = .rc → now = old) ∧
      (f.acc = .wl → d.wlLocked.contains key = false → now = new ∧ (d.plainWrite page off v).2.wlLocked.contains key = true) ∧
      (f.acc = .wl → d.wlLocked.contains key = true → now = old ∧ (d.plainWrite page off v).1 = .denied)

/-- A soft reset returns a page's registers to their reset values: all but SHADOW_CHK, LOCK, the registers that a reset keeps and those that
show state which a soft reset keeps (R288, R546). -/
def Obligations.SoftResetRegisters : Prop :=
  ∀ (d : Dev) (b : Blk) (page key : Nat), keyPage key = page → keyOff key ≠ 0x020 → keyOff key ≠ 0x024 →
    keptReg true (key % 2 ^ 26) = false → softKeeps b (keyOff key) = false →
    (d.pageRegsReset b page).word key = resetOfKey key

/-- After a check of a page's inverted copies every mismatch of the page is known (R289). -/
def Obligations.ShadowCheckFindsAll : Prop :=
  ∀ (d : Dev) (page : Nat) (hits : List (Nat × Nat)) (k : Nat), k ∈ (d.shadowCheck page hits).shadow.map (·.1) → k / 1024 = page →
    k ∈ (d.shadowCheck page hits).shadowSeen

/-! ### Ports -/

/-- The Ethernet ports: the frames of one CCLK by ascending port and sub-port (R91, R108); a frame received and handed to the sequencer, or
discarded for its length (R94 to R97), forwarded round a ring (R110),
submitted (R96), and sent, with the stamp of a two-step event message (R99, R101, R103); the node table's timers (R107, R109); the stamp
FIFO and the counters (R97, R103); a change of the link (R92, R113). The host port: reads and writes of the stream buffer (R150) and of a
register page (R116), a request outside every BAR (R116), a malformed one (R119), the end of a request of the device (R118, R119), link and function reset (R118),
an unmasked vector (R117). -/
def Obligations.PortsComplete : Prop :=
  (∀ (s : State) (p : Fin 12) (sub : Fin 4) (off : Nat) (f : RxFrame) (same : List (Fin 12 × Fin 4 × RxFrame)), s.on →
    Gives (.frameRx p sub f off same) s (fun d =>
      (rxOrder ((p.val, sub.val, f) :: same.map (fun x => (x.1.val, x.2.1.val, x.2.2)))).foldl (fun d x => d.frameRx x.1 x.2.1 x.2.2 off) d)) ∧
  (∀ (s : State) (p : Fin 12) (sub : Fin 4) (sub' off : Nat) (f : RxFrame), s.on → s.dev.macOn p = true → s.dev.portEnabled p = true →
    s.dev.portDraining p = false → sub' = (if s.dev.breakout p then sub.val else 0) → s.dev.subUp p sub' = true →
    64 ≤ f.bytes.length → f.bytes.length ≤ s.dev.rd PRT_MAC_max_len 0 p → etherType f.bytes ≠ 0x8808 → f.fecUncorr = 0 →
    crc32eth (f.bytes.take (f.bytes.length - 4)) = leValue (f.bytes.drop (f.bytes.length - 4)) →
    s.dev.flag PRT_PTP_ptp_en 0 p = false → s.dev.pairMode (pairOf p) = 0 → s.dev.bivouac = false →
    Gives (.frameRx p sub f off []) s (fun d =>
      let d := ((d.portCount p sub' 6 f.fecCorr).portCount p sub' 7 0).portCount p sub' 8 f.symErr
      let d := (d.portCount p sub' 0).portCount p sub' 1 f.bytes.length
      let b := f.bytes.take (f.bytes.length - 4)
      let h : Handed := {
        port := p, sub := sub', stamp := d.rxStamp p off f.age, fcsBad := false, bytes := b, vlans := vlanFields b, red := none, info := f.info }
      d.trvArrive h)) ∧
  (∀ (s : State) (p : Fin 12) (sub : Fin 4) (sub' off : Nat) (f : RxFrame), s.on → s.dev.macOn p = true → s.dev.portEnabled p = true →
    s.dev.portDraining p = false → sub' = (if s.dev.breakout p then sub.val else 0) → s.dev.subUp p sub' = true →
    f.bytes.length < 64 → f.fecUncorr = 0 →
    Gives (.frameRx p sub f off []) s (fun d =>
      let d := ((d.portCount p sub' 6 f.fecCorr).portCount p sub' 7 0).portCount p sub' 8 f.symErr
      let d := (d.portCount p sub' 0).portCount p sub' 1 f.bytes.length
      (d.portCount p sub' 3).portRec p sub' 0x4002 3 0)) ∧
  (∀ (s : State) (k : Fin 6) (off eighths p : Nat) (b : List Byte) (fs : List (Nat × List Byte)), s.on →
    (s.dev.pair k).fwd = (p, b) :: fs → s.dev.portEnabled (otherPort p) = true → s.dev.subUp (otherPort p) 0 = true →
    Gives (.hsrForward k off eighths) s (fun d =>
      ((d.setPair k { d.pair k with fwd := fs }).portCount (otherPort p) 0 20).transmit (otherPort p)
        { sub := 0, bytes := b, carried := none } off eighths)) ∧
  (∀ (s : State) (k : Fin 6) (mac : BitVec 48), s.on →
    Gives (.prpNodeForget k mac) s (fun d =>
      let keep (n : Node) : Bool := n.mac != mac.toNat || decide (d.cclk < n.seen + d.forgetMs k * cclkPerMs)
      d.setPair k { d.pair k with nodes := (d.pair k).nodes.filter keep })) ∧
  (∀ (s : State) (k : Fin 6), s.on → s.dev.pairMode k ≠ 0 → s.dev.lifeMs k ≠ 0 →
    (s.dev.pair k).supAt + s.dev.lifeMs k * cclkPerMs ≤ s.dev.cclk →
    Gives (.prpSupervisionTimer k) s (fun d =>
      ((d.setPair k { d.pair k with supAt := d.cclk, supSeq := ((d.pair k).supSeq + 1) % 65536 }).toPair k 0
        (macPad (d.supervisionFrame k)) none).2)) ∧
  (∀ (s : State) (p : Fin 12) (sub : Fin 4) (bytes : List Byte), s.on → s.dev.macOn p = true → bytes.length + 4 ≤ s.dev.rd PRT_MAC_max_len 0 p →
    s.dev.pairMode (pairOf p) ≠ 2 → s.dev.portDraining p = false → s.dev.portEnabled p = true →
    s.dev.egressBytes p + (macPad bytes).length ≤ fifoSize p →
    Gives (.frameTxSubmit p sub false bytes) s (fun d =>
      (d.setPort p { d.port p with
        egress := (d.port p).egress ++ [{ sub := sub, bytes := macPad bytes, carried := none }] }).answer .ok)) ∧
  (∀ (s : State) (p : Fin 12) (off eighths : Nat) (f : TxFrame) (fs : List TxFrame), s.on → (s.dev.port p).egress = f :: fs →
    s.dev.macOn p = true → s.dev.subUp p f.sub = true → s.dev.flag PRT_PTP_ptp_en 0 p = false →
    Gives (.frameTx p off eighths) s (fun d =>
      let b := f.bytes ++ leBytes (crc32eth f.bytes) 4
      (((d.setPort p { d.port p with egress := fs }).portCount p f.sub 10).portCount p f.sub 11 b.length).emit (.frame p f.sub b))) ∧
  (∀ (s : State) (p : Fin 12) (off eighths o : Nat) (f : TxFrame) (fs : List TxFrame), s.on → (s.dev.port p).egress = f :: fs →
    s.dev.macOn p = true → s.dev.subUp p f.sub = true → s.dev.ptpOff p f.bytes = some o → ptpShort f.bytes o = false → ptpType f.bytes o ≤ 3 →
    f.carried = none → s.dev.flag PRT_PTP_one_step 0 p = false →
    Gives (.frameTx p off eighths) s (fun d =>
      let b := f.bytes ++ leBytes (crc32eth f.bytes) 4
      let d := d.setPort p { d.port p with egress := fs }
      (((d.pushStamp p f.sub f.bytes o (d.txStamp p off eighths)).portCount p f.sub 10).portCount p f.sub 11 b.length).emit
        (.frame p f.sub b))) ∧
  (∀ (s : State) (r : Req) (p : Fin 12) (e : TsEntry) (es : List TsEntry), s.acceptsRead r (pgPort p) 0x07C →
    (s.dev.port p).ts = e :: es →
    Gives (.prtTsFifoPop r p) s (fun d =>
      ((d.setPort p { d.port p with ts := es }).wr PRT_TS_STAT_count es.length 0 p).answer .ok (e.stamp % 65536))) ∧
  (∀ (s : State) (r : Req) (p : Fin 12), s.accepts r (pgPort p) 0x09C →
    Effects (.prtCounterClear r p) s (pgPort p) (fun d => d.setPort p { d.port p with cnt := [] })) ∧
  (∀ (s : State) (p : Fin 12) (sub : Fin 4) (sub' : Nat) (e : LinkEnv), s.on → (isMgmt p = true ∨ s.dev.portMode p ≠ 6) →
    sub' = (if s.dev.breakout p then sub.val else 0) →
    Gives (.linkStateChange p sub e) s (fun d =>
      ((((d.linkFields p sub' e (d.linkUp p sub' e)).linkRecords p sub' e).anOffer p sub' e).faultAnswer p sub' e).portNote p)) ∧
  (∀ (s : State) (p : Fin 12) (sub : Fin 4) (e : LinkEnv), s.on → isMgmt p = false → s.dev.portMode p = 6 →
    Gives (.linkStateChange p sub e) s (fun d =>
      ((d.setPort p { d.port p with align := if e.align then [0] else [] }).wr PRT_LINK_lane_lock e.lock.toNat 0 p).portNote p)) ∧
  (∀ (s : State) (off n : Nat) (env : MemEnv), s.on → s.dev.hstLive = true → s.dev.flag HST_LINK_d3hot = false → n ≤ 4096 →
    off + n ≤ 0x1000000 → s.dev.devReach .hst false (sbBase + off) n = true →
    (s.dev.cleared.memGuard (reqId .hst) (sbBase + off) (laterOf env s.rr .hst)).1 = .ok →
    ((s.dev.cleared.memGuard (reqId .hst) (sbBase + off) (laterOf env s.rr .hst)).2.memLoad .hst (sbBase + off) n).1 = .ok →
    Gives (.hstInboundRequest 0 2 off none n env) s (fun d =>
      let x := (d.memGuard (reqId .hst) (sbBase + off) (laterOf env s.rr .hst)).2.memLoad .hst (sbBase + off) n
      x.2.2.hstData .ok (leBytes x.2.1 n))) ∧
  (∀ (s : State) (off n : Nat) (b : List Byte) (env : MemEnv), s.on → s.dev.hstLive = true → s.dev.flag HST_LINK_d3hot = false →
    b.length ≤ 512 → off + b.length ≤ 0x1000000 → s.dev.devReach .hst true (sbBase + off) b.length = true →
    (s.dev.cleared.memGuard (reqId .hst) (sbBase + off) (laterOf env s.rr .hst)).1 = .ok →
    Gives (.hstInboundRequest 0 2 off (some b) n env) s (fun d =>
      let x := (d.memGuard (reqId .hst) (sbBase + off) (laterOf env s.rr .hst)).2.memStore .hst (sbBase + off) b (laterOf env s.rr .hst).rivals
      x.2.answer x.1)) ∧
  (∀ (s : State) (off : Nat) (env : MemEnv), s.on → s.dev.hstLive = true → s.dev.flag HST_LINK_d3hot = false → off + 4 ≤ 0x10000000 →
    off % 4 = 0 → env.parity = false → (s.dev.cleared.pageRead .hst (off / 4096) (off % 4096)).resp.status = some .ok →
    Gives (.hstInboundRequest 0 0 off none 4 env) s (fun d =>
      let x := d.pageRead .hst (off / 4096) (off % 4096)
      x.hstData .ok (leBytes x.resp.data.toNat 4))) ∧
  (∀ (s : State) (off n : Nat) (b : List Byte) (env : MemEnv), s.on → s.dev.hstLive = true → s.dev.flag HST_LINK_d3hot = false →
    b.length = 4 → off + 4 ≤ 0x10000000 → off % 4 = 0 → env.parity = false →
    s.dev.accessCheck .hst (off / 4096) (off % 4096) false ≠ .denied →
    Gives (.hstInboundRequest 0 0 off (some b) n env) s (fun d => d.pageWrite .hst (off / 4096) (off % 4096) (leValue b))) ∧
  (∀ (s : State) (off n : Nat) (bar : Fin 8) (env : MemEnv), s.on → s.dev.hstLive = true → n ≤ 4096 →
    (bar.val % 2 = 1 ∨ (bar.val ≠ 6 ∧ s.dev.flag HST_LINK_d3hot = true)) →
    Gives (.hstInboundRequest 0 bar off none n env) s (fun d =>
      let d := (d.wr HST_ERR_unsupported 1).hstRec 0x4032 3 0
      { d with hst := { d.hst with aerU := setBits d.hst.aerU 20 20 1 } }.emit (.hostCpl 1 []))) ∧
  (∀ (s : State) (off n : Nat) (w : Option (List Byte)) (bar : Fin 8) (env : MemEnv), s.on → s.dev.hstLive = true →
    Gives (.hstInboundRequest 1 bar off w n env) s (fun d => ((d.wr HST_ERR_malformed 1).hstRec 0x4030 4 0).aer 2 18)) ∧
  (∀ (s : State) (id : Nat) (data : List Byte) (r : HstReq), s.on → s.dev.hstReq id = some r →
    Gives (.hstCompletion id data false) s (fun d => (d.hstFinish r .ok).answer .ok (leValue (data.take 4)))) ∧
  (∀ (s : State) (id : Nat) (r : HstReq), s.on → s.dev.hstReq id = some r → r.read = true →
    Gives (.hstCompletionTimeout id) s (fun d =>
      (((d.wr HST_ERR_cpl_timeout 1).hstRec 0x4034 4 0).aer 1 14).hstFinish r .protocol)) ∧
  (∀ s : State, s.on → s.dev.inReset.get pgHST 0 = 0 → s.dev.bivouac = false → s.dev.hst.reqs = [] →
    Gives (.hstFunctionReset false) s (fun d =>
      let d := { d with
        hst := { ids := d.hst.ids }
        regs := d.regs.drop hstOwnReg
        shadow := d.shadow.drop hstOwnReg
        shadowSeen := d.shadowSeen.filter (fun k => !hstOwnReg k) }
      (((d.lockFreeAll 0x0C).wr HST_LINK_d3hot 0).wr HST_ERR_flr 1).raise 972 3)) ∧
  (∀ s : State, s.on → s.dev.flag HST_LINK_up = true → s.dev.hst.reqs = [] →
    Gives .hstLinkDown s (fun d => (((d.wr HST_LINK_up 0).wr HST_LINK_width 0).wr HST_LINK_speed 0).raise 972 2)) ∧
  (∀ (s : State) (width speed : Fin 16), s.on → s.dev.inReset.get pgHST 0 = 0 → s.dev.bivouac = false → s.dev.flag HST_LINK_up = false →
    Gives (.hstLinkUp width speed) s (fun d =>
      (((({ d with hst := { d.hst with ids := d.rfg.otp.hstIds } }).wr HST_LINK_up 1).wr HST_LINK_width width).wr HST_LINK_speed speed).raise 972 1)) ∧
  (∀ (s : State) (k : Fin 64), s.on → s.dev.hstLive = true →
    Gives (.msixUnmask k) s (fun d => (d.msixWord (4 * k + 3) (d.hst.msix.get (4 * k + 3) 1 / 2 * 2)).answer .ok))

/-! ### The traverse sequencer and queues -/

/-- The traverse sequencer: the frames of one CCLK in the order of R25 (R140); the program of a frame that no step finds at fault (R121, R130),
of an egress item (R143), of a void item (R153);
commit, invalidation and reading of an entry (R126, R146), a step (R128), the miss program (R124), a pipeline claimed and released (R134),
the loss of a stream (R141). -/
def Obligations.TraverseCompletes : Prop :=
  (∀ (s : State) (dp : Fin 12) (authOver : Bool) (same : List (Fin 12 × Bool)) (brk : Option (Fin 8)), s.on →
    Gives (.trvIngressProgram dp authOver same brk) s (fun d =>
      (dpOrder s.rr ((dp.val, authOver) :: same.map (fun x => (x.1.val, x.2)))).foldl (fun d x => d.trvIngress x.1 x.2) (d.withBreak brk))) ∧
  (∀ (s : State) (dp : Fin 12) (authOver : Bool) (f : Flight), s.on →
    s.dev.trv.flights.find? (·.dp == dp.val) = some f → f.mal = none → f.h.fcsBad = false →
    f.prog.all (fun t => stepOp t == 0 || decide (5 ≤ stepOp t)) = true →
    Gives (.trvIngressProgram dp authOver [] none) s (fun d =>
      let d := { d with trv := { d.trv with flights := d.trv.flights.erase f } }
      let x : Pass := { dp := dp, entry := f.entry, e := f.e, egress := false, bytes := f.h.bytes, info := f.h.info, stamp := f.h.stamp
                        itemTime := 0, steps := f.prog }
      let act := d.action f.e.dispo 0
      (Dev.outputSteps act f.prog x (if act.testBit 3 then d.keepState x else d)).unstage f.vc f.plan)) ∧
  (∀ (s : State) (n : Fin 16384) (info : FrameMeta) (brk : Option (Fin 8)) (q : Queue) (e : TrvEntry), s.on → s.dev.q n = q →
    q.valid = true → q.consKind = 1 → q.unclaimed ≠ 0 → q.claimed = 0 → s.dev.entry q.consId = e → e.valid = true → e.egress = true →
    ((s.dev.cleared.withBreak brk).hwLoad e.datapath (q.slotAddr q.cons) q.slot).1 = .ok →
    (parseHdr ((s.dev.cleared.withBreak brk).hwLoad e.datapath (q.slotAddr q.cons) q.slot).2.1).flags.testBit 3 = false →
    Gives (.trvEgressProgram n info brk) s (fun d =>
      let x := (d.withBreak brk).hwLoad e.datapath (q.slotAddr q.cons) q.slot
      let h := parseHdr x.2.1
      ((x.2.2.claimItems n 1).egressProgram e q.consId (slice x.2.1 16 h.len) h.time info).freeItems n 1)) ∧
  (∀ (s : State) (n : Fin 16384) (info : FrameMeta) (brk : Option (Fin 8)) (q : Queue) (e : TrvEntry), s.on → s.dev.q n = q →
    q.valid = true → q.consKind = 1 → q.unclaimed ≠ 0 → q.claimed = 0 → s.dev.entry q.consId = e → e.valid = true → e.egress = true →
    ((s.dev.cleared.withBreak brk).hwLoad e.datapath (q.slotAddr q.cons) q.slot).1 = .ok →
    (parseHdr ((s.dev.cleared.withBreak brk).hwLoad e.datapath (q.slotAddr q.cons) q.slot).2.1).flags.testBit 3 = true →
    Gives (.trvEgressProgram n info brk) s (fun d =>
      (((d.withBreak brk).hwLoad e.datapath (q.slotAddr q.cons) q.slot).2.2.claimItems n 1).freeItems n 1)) ∧
  (∀ (s : State) (r : Req) (i : Nat), s.accepts r pgTRV 0x04C → s.dev.rd TRV_ENT_SEL_index = i → s.dev.trvStaged.valid = true →
    s.dev.commitStatus i s.dev.trvStaged = .ok → (s.dev.entry i).inLoss = false →
    Effects (.trvEntryCommit r) s pgTRV (fun d =>
      (d.setEntry i { d.trvStaged with gen := ((d.entry i).gen + 1) % 256, kept := d.cclk, first := true }).rowWritten pgTRV i)) ∧
  (∀ (s : State) (r : Req) (i : Nat), s.accepts r pgTRV 0x04C → s.dev.rd TRV_ENT_SEL_index = i → (s.dev.entry i).inLoss = false →
    Effects (.trvEntryInvalidate r) s pgTRV (fun d =>
      let e := d.entry i
      (d.setEntry i { e with w0 := setBits e.w0 31 31 0, first := true, inLoss := false, a := 0, b := 0,
                             gen := (e.gen + 1) % 256, kept := d.cclk }).rowWritten pgTRV i)) ∧
  (∀ (s : State) (r : Req) (e : TrvEntry), s.accepts r pgTRV 0x04C → s.dev.entry (s.dev.rd TRV_ENT_SEL_index) = e →
    Effects (.trvEntryRead r) s pgTRV (fun d =>
      (((((((d.wr TRV_ENT_Wk_word e.w0 0).wr TRV_ENT_Wk_word e.w1 1).wr TRV_ENT_Wk_word e.w2 2).wr TRV_ENT_Wk_word e.w3 3).wr
        TRV_ENT_Wk_word e.w4 4).wr TRV_ENT_Wk_word e.w5 5).wr TRV_ENT_Wk_word e.w6 6).wr TRV_ENT_Wk_word e.w7 7)) ∧
  (∀ (s : State) (r : Req) (v : Word), s.accepts r pgTRV 0x078 → s.dev.stepRefs (s.dev.rd TRV_STEP_SEL_index) = 0 →
    Effects (.trvStepWrite r v) s pgTRV (fun d =>
      { d with trv := { d.trv with steps := d.trv.steps.set (d.rd TRV_STEP_SEL_index) v.toNat 0 } }.rowWritten pgTRV
        (stepRow (d.rd TRV_STEP_SEL_index)))) ∧
  (∀ (s : State) (r : Req) (dp : Fin 12) (v : Word), s.accepts r pgTRV (0x100 + 4 * dp) →
    (v.getLsbD 31 = false ∨ s.dev.programBad (bitsOf v.toNat 11 0) (bitsOf v.toNat 24 21) 0 = false) →
    Effects (.trvMissWrite r dp v) s pgTRV (fun d => (d.plainWrite pgTRV (0x100 + 4 * dp) v.toNat).2)) ∧
  (∀ (s : State) (r : Req) (p : Fin 8) (v : Word) (id : Nat), s.accepts r pgTRV (0x0E0 + 4 * p) → v.getLsbD 31 = true →
    s.dev.flag TRV_CPL_MAPp_held p = false → s.dev.rd LOCK_owner 0 (pgCPL p) = 0xFF →
    (∀ k : Fin 8, k ≠ p → s.dev.flag TRV_CPL_MAPp_en k = true →
      bitsOf v.toNat 11 0 &&& s.dev.rd TRV_CPL_MAPp_ingress k = 0 ∧ bitsOf v.toNat 23 12 &&& s.dev.rd TRV_CPL_MAPp_egress k = 0) →
    lowestBit (bitsOf v.toNat 11 0 ||| bitsOf v.toNat 23 12) 12 = some id →
    Effects (.trvCplMapWrite r p v) s pgTRV (fun d =>
      ((d.plainWrite pgTRV (0x0E0 + 4 * p) v.toNat).2.lockChange (pgCPL p) id).wr TRV_CPL_MAPp_held 1 p)) ∧
  (∀ (s : State) (p : Fin 8), s.on → s.dev.flag TRV_CPL_MAPp_held p = true → s.dev.flag TRV_CPL_MAPp_en p = false →
    s.dev.trv.flights.any (fun f => f.pipe == some p.val) = false →
    Gives (.trvCplRelease p) s (fun d => (d.wr TRV_CPL_MAPp_held 0 p).lockChange (pgCPL p) 0xFF)) ∧
  (∀ (s : State) (i : Fin 16384) (e : TrvEntry), s.on → s.dev.entry i = e → e.valid = true → e.egress = false → e.lossTo ≠ 0 →
    e.inLoss = false → e.kept + e.lossTo * cclkPerMs ≤ s.dev.cclk →
    Gives (.trvLossScan i) s (fun d =>
      ((d.setEntry i { e with inLoss := true }).trvRec i 0x5010 5 0).lossNote e.lossGrp))

/-- Queues: commit, invalidation, reading, enable, disable, drain and drain with discard (R151, R173, R175, R549), a producer's doorbell
(R155), claim and free (R157), completion (R159), and operation tags (R168, R170). -/
def Obligations.QueuesComplete : Prop :=
  (∀ (s : State) (r : Req) (n w : Nat) (q : Queue), s.accepts r pgQMG 0x054 → s.dev.queueCmdStatus r 1 = .ok → s.dev.selQueue r = n →
    s.dev.q n = q → (s.dev.rdOwn (reqId r) QMG_QD_Wk_word 0).testBit 31 = true →
    w = (if r = .refuge then bitsOf (s.dev.rdOwn (reqId r) QMG_QD_Wk_word 0) 19 18 else q.world) →
    Effects (.qmgQueueCommit r) s pgQMG (fun d =>
      (d.setQ n {
        known := true, world := w, w0 := setBits (d.rdOwn (reqId r) QMG_QD_Wk_word 0) 19 18 w
        w1 := d.rdOwn (reqId r) QMG_QD_Wk_word 1, w2 := d.rdOwn (reqId r) QMG_QD_Wk_word 2, w3 := d.rdOwn (reqId r) QMG_QD_Wk_word 3
        reserved := q.reserved, late := q.late, full := q.full }).rowWritten pgQMG n)) ∧
  (∀ (s : State) (r : Req) (n : Nat) (q : Queue), s.accepts r pgQMG 0x054 → s.dev.queueCmdStatus r 1 = .ok → s.dev.selQueue r = n →
    s.dev.q n = q → (s.dev.rdOwn (reqId r) QMG_QD_Wk_word 0).testBit 31 = false →
    Effects (.qmgQueueInvalidate r) s pgQMG (fun d =>
      ((d.setQ n { known := q.known, world := q.world, reserved := q.reserved, late := q.late, full := q.full }).abortItems n
        (q.ents ++ q.spill) .aborted).rowWritten pgQMG n)) ∧
  (∀ (s : State) (r : Req) (q : Queue), s.accepts r pgQMG 0x054 → s.dev.queueCmdStatus r 2 = .ok → s.dev.q (s.dev.selQueue r) = q →
    Effects (.qmgQueueRead r) s pgQMG (fun d =>
      (((d.wrOwn (reqId r) QMG_QD_Wk_word (setBits q.w0 19 18 q.world) 0).wrOwn (reqId r) QMG_QD_Wk_word q.w1 1).wrOwn (reqId r)
        QMG_QD_Wk_word q.w2 2).wrOwn (reqId r) QMG_QD_Wk_word q.w3 3)) ∧
  (∀ (s : State) (r : Req) (n : Nat) (q : Queue), s.accepts r pgQMG 0x054 → s.dev.queueCmdStatus r 3 = .ok → s.dev.selQueue r = n →
    s.dev.q n = q → q.draining = false → q.enabled = false →
    Effects (.qmgQueueEnable r) s pgQMG (fun d => d.setQ n { q with enabled := true, first := true })) ∧
  (∀ (s : State) (r : Req) (n : Nat) (q : Queue), s.accepts r pgQMG 0x054 → s.dev.queueCmdStatus r 3 = .ok → s.dev.selQueue r = n →
    s.dev.q n = q → q.draining = true →
    Effects (.qmgQueueEnable r) s pgQMG (fun d => d.setQ n { q with pend := true })) ∧
  (∀ (s : State) (r : Req) (n : Nat) (q : Queue), s.accepts r pgQMG 0x054 → s.dev.queueCmdStatus r 4 = .ok → s.dev.selQueue r = n →
    s.dev.q n = q → q.pend = false →
    Effects (.qmgQueueDisable r) s pgQMG (fun d => d.setQ n { q with enabled := false })) ∧
  (∀ (s : State) (r : Req) (n : Nat) (q : Queue), s.accepts r pgQMG 0x054 → s.dev.queueCmdStatus r 5 = .ok → s.dev.selQueue r = n →
    s.dev.q n = q → q.enabled = true →
    Effects (.qmgQueueDrain r) s pgQMG (fun d => d.setQ n { q with enabled := false, draining := true })) ∧
  (∀ (s : State) (r : Req) (n : Nat) (q : Queue), s.accepts r pgQMG 0x054 → s.dev.queueCmdStatus r 6 = .ok → s.dev.selQueue r = n →
    s.dev.q n = q → q.enabled = true →
    Effects (.qmgQueueDrainDiscard r) s pgQMG (fun d =>
      let gone := q.ents.drop q.claimed ++ q.spill
      let q' := { q with enabled := false, draining := true, prod := q.claim, ents := q.ents.take q.claimed, spill := [], spillHead := 0 }
      ((d.setQ n q').abortItems n gone .aborted).qStat 8 gone.length)) ∧
  (∀ (s : State) (r : Req) (v : Word) (n cnt : Nat), s.accepts r pgQMG 0x080 → n = bitsOf v.toNat 29 16 → cnt = bitsOf v.toNat 15 0 →
    s.dev.doorbellStatus r n cnt = .ok → (s.dev.q n).kind ≠ 1 →
    Effects (.qmgProducerDoorbell r v []) s pgQMG (fun d => ((d.q n).announced cnt).foldl (fun d i => d.announce r n i) d)) ∧
  (∀ (s : State) (r : Req) (n : Fin 16384) (cnt : BitVec 16), s.accepts r pgQMG 0x084 → s.dev.foreignQueue r (s.dev.q n) = false →
    s.dev.rowBad pgQMG n = false → cnt ≠ 0 → cnt.toNat ≤ (s.dev.q n).unclaimed →
    Effects (.qmgClaim r n cnt) s pgQMG (fun d =>
      d.setQ n { d.q n with claim := ((d.q n).claim + cnt.toNat) % 65536 })) ∧
  (∀ (s : State) (r : Req) (n : Fin 16384) (cnt : BitVec 16), s.accepts r pgQMG 0x084 → s.dev.foreignQueue r (s.dev.q n) = false →
    s.dev.rowBad pgQMG n = false → cnt ≠ 0 → cnt.toNat ≤ (s.dev.q n).claimed →
    Effects (.qmgFree r n cnt) s pgQMG (fun d =>
      let q := d.q n
      let d := d.setQ n { q with cons := (q.cons + cnt.toNat) % 65536, ents := q.ents.drop cnt.toNat }
      (d.abortItems n (q.ents.take cnt.toNat) .aborted).refill n cnt.toNat)) ∧
  (∀ (s : State) (r : Req) (v : Word) (n i : Nat) (e : Ent), s.accepts r pgQMG 0x090 →
    n = s.dev.rdOwn (reqId r) QMG_CPL_Q_queue → s.dev.foreignQueue r (s.dev.q n) = false →
    ((s.dev.q n).ents.take (s.dev.q n).claimed).findIdx? (fun e =>
      e.seq == s.dev.rdOwn (reqId r) QMG_CPL_Q_seq && e.reply.isSome && !e.done) = some i →
    (s.dev.q n).ents[i]? = some e →
    Effects (.qmgComplete r v) s pgQMG (fun d =>
      (d.setQ n { d.q n with ents := (d.q n).ents.set i { e with done := true } }).endItem n e (reqId r) (bitsOf v.toNat 7 0)
        (d.rdOwn (reqId r) QMG_CPL_ARG_arg))) ∧
  (∀ (s : State) (r : Req) (i : Nat), s.accepts r pgQMG 0x098 → s.dev.lowestFreeTag (tagRange r).1 (tagRange r).2 = some i →
    Effects (.qmgTagAllocate r) s pgQMG (fun d =>
      let t := d.tag i
      let d := d.setTag i { t with used := true, tmo := d.rdOwn (reqId r) QMG_TAG_TMO_tmo, item := none }
      (d.wrOwn (reqId r) QMG_TAG_RES_status 0).wrOwn (reqId r) QMG_TAG_RES_tag (t.gen * 2048 + i))) ∧
  (∀ (s : State) (r : Req) (tag : BitVec 16), s.accepts r pgQMG 0x098 → s.dev.ownsTag r tag.toNat = true → tag.toNat ≠ 0xFFFF →
    (s.dev.tag (tag.toNat % 2048)).item = none →
    Effects (.qmgTagFree r tag) s pgQMG (fun d =>
      d.setTag (tag.toNat % 2048) { d.tag (tag.toNat % 2048) with used := false, tmo := 0 })) ∧
  (∀ (s : State) (i : Fin 65536) (t : Tag) (n : Nat), s.on → s.dev.tag (i % 2048) = t → t.gen = i / 2048 → t.used = true →
    t.item = some n → t.tmo ≠ 0 → t.start + t.tmo * 10000 ≤ s.dev.tickTai →
    Gives (.qmgTagTimeout i) s (fun d =>
      ((d.cancelTag (i % 2048) .timeout).qStat 2).qRec 0x6010 4 n ((d.tickTai - t.start) / 1000)))

/-- A node table passes a new sequence number once and finds it a duplicate while it is among the 64 below the highest (R107); so does a
command queue that suppresses duplicates (R172). -/
def Obligations.DuplicatesPassOnce : Prop :=
  (∀ (n : Node) (seq : Nat), n.high < 65536 → seq < 65536 → n.map < 2 ^ 64 → (n.judge seq).1 = .fresh →
    ((n.judge seq).2.judge seq).1 = .duplicate) ∧
  (∀ (q : Queue) (seq : Nat), q.h < 65536 → seq < 65536 → q.map < 2 ^ 64 → (q.judge seq).1 = .ok →
    ((q.judge seq).2.judge seq).1 = .duplicate)

/-- An item whose bytes go into the ring of a queue that neither suppresses duplicates nor spills adds one to the occupancy, and the queue's
consumer indices stay as they were (R152, R156). -/
def Obligations.AdmitAddsOne : Prop :=
  ∀ (d : Dev) (n : Nat) (bytes : List Byte) (e : Ent), (d.q n).dedup = false → (d.q n).spilling = false → (d.q n).prod < 65536 →
    (d.q n).cons < 65536 → (d.q n).occupancy < 65535 →
    (d.hwStore 0xFE ((d.q n).slotAddr (d.q n).prod) (overlay bytes 6 [0])).1 = .ok →
    ((d.admitItem n bytes e).q n).occupancy = (d.q n).occupancy + 1 ∧ ((d.admitItem n bytes e).q n).cons = (d.q n).cons ∧
      ((d.admitItem n bytes e).q n).claim = (d.q n).claim ∧ ∀ m, m ≠ n → (d.admitItem n bytes e).q m = d.q m

/-! ### The converter port, resamplers and the waveform coder -/

/-- The converter port: training started and ended (R181), one frame of a running group (R180), the synthesiser's lock (R193), the writes of a
group (R179, R201), of a lane (R182), of a publisher (R190) and of its template (R190). Resamplers and the waveform coder: commit,
invalidation and reading of a context (R198, R218), the next frame of a kind 1 context (R213), a frame that leaves the coding units (R215),
and the header words (R220). -/
def Obligations.ConverterCompletes : Prop :=
  (∀ (s : State) (r : Req) (g : Fin 8) (pattern : BitVec 18), s.accepts r pgCNV 0x044 → s.dev.flag CNV_TRAIN_busy = false →
    s.dev.grpOn g = true →
    Effects (.cnvTrainStart r g pattern) s pgCNV (fun d =>
      ((d.plainWrite pgCNV 0x044 (g * 2 ^ 24 + 2 ^ 18 + pattern.toNat)).2.wr CNV_TRAIN_busy 1).cnvUncaptured g |>.cnvSettle)) ∧
  (∀ (s : State) (g : Nat) (caps : List CnvCapture) (a b c e : Nat × Nat), s.on → s.dev.flag CNV_TRAIN_busy = true →
    s.dev.rd CNV_TRAIN_group = g → (List.range 4).map (fun i => trainLane (if s.dev.rd CNV_GRPg_fmt g = 0 then 16 else 18)
      (s.dev.rd CNV_TRAIN_pattern) (caps.getD i ⟨[], []⟩)) = [some a, some b, some c, some e] →
    Gives (.cnvTrainComplete caps) s (fun d =>
      let lane (d : Dev) (n : Nat) (x : Nat × Nat) : Dev :=
        ((d.wr CNV_LANE_CFGn_tap x.1 n).wr CNV_LANE_CFGn_slip x.2 n).setLane n { d.lane n with isSet := true }
      let d := lane (lane (lane (lane d (4 * g) a) (4 * g + 1) b) (4 * g + 2) c) (4 * g + 3) e
      ((((d.wr CNV_TRAIN_busy 0).wr CNV_TRAIN_RES_fail 0).setGrp g { d.grp g with next := none }).cnvSettle).wr
        STATUS_last_status 0 0 pgCNV)) ∧
  (∀ (s : State) (g : Fin 8) (f sec k count : Nat) (words : List Word), s.on → s.dev.grpOn g = true →
    s.dev.training g = false → f < rateHz (s.dev.rd CNV_GRPg_rate g) → k < rateHz (s.dev.rd CNV_GRPg_rate g) →
    nominal16 (s.dev.taiNs / 1000000000) f (rateDiv (s.dev.rd CNV_GRPg_rate g)) ≤ s.dev.taiNs * 65536 →
    count = sec * rateHz (s.dev.rd CNV_GRPg_rate g) + k →
    count + s.dev.rd CNV_GRPg_pipe g = s.dev.taiNs / 1000000000 * rateHz (s.dev.rd CNV_GRPg_rate g) + f →
    s.dev.skipped (nominal16 sec k (rateDiv (s.dev.rd CNV_GRPg_rate g))) = false → (s.dev.grp g).next = some count →
    Gives (.cnvSample g f words) s (fun d =>
      let since := (d.grp g).since.map (· + 1)
      let d := d.setGrp g { d.grp g with next := some (count + 1), since := since, jumped := false }
      let unsync (r : Nat) : Bool := !d.flag CNV_SYN_locked || (match since with | some n => decide (n < pubDelay r) | none => false)
      let w (i : Nat) : Nat := (words.map (fun w => w.toNat)).getD i 0
      let a := d.laneFrame (4 * g) (w 0) false
      let b := a.2.laneFrame (4 * g + 1) (w 1) false
      let c := b.2.laneFrame (4 * g + 2) (w 2) false
      let e := c.2.laneFrame (4 * g + 3) (w 3) false
      e.2.grpProducts g sec k unsync [a.1, b.1, c.1, e.1])) ∧
  (∀ s : State, s.on → s.dev.flag CNV_SYN_locked = true →
    Gives .cnvSynUnlock s (fun d => ((d.wr CNV_SYN_locked 0).cnvRec 0 0x7006 5 0).cnvSettle)) ∧
  (∀ s : State, s.on → s.dev.flag CNV_SYN_locked = false → s.dev.flag CNV_SYN_en = true →
    Gives .cnvSynRelock s (fun d => { d.wr CNV_SYN_locked 1 with cnv := { d.cnv with relock := true } })) ∧
  (∀ (s : State) (r : Req) (g : Fin 8) (v : Word), s.accepts r pgCNV (0x080 + 4 * g) → s.dev.flag CNV_GRPg_en g = false →
    framingOk v.toNat = true →
    Effects (.cnvGrpWrite r g v) s pgCNV (fun d => (d.plainWrite pgCNV (0x080 + 4 * g) v.toNat).2.cnvSettle)) ∧
  (∀ (s : State) (r : Req) (n : Fin 32) (v : Word), s.accepts r pgCNV (0x100 + 4 * n) → s.dev.flag CNV_GRPg_en (n / 4) = false →
    Effects (.cnvLaneCfgWrite r n v) s pgCNV (fun d =>
      ((d.plainWrite pgCNV (0x100 + 4 * n) v.toNat).2.setLane n { d.lane n with isSet := true }).cnvSettle)) ∧
  (∀ (s : State) (r : Req) (p : Fin 8) (v : Word), s.accepts r pgCNV (0x400 + 0x20 * p) → s.dev.flag CNV_PUB_CFGp_en p = false →
    s.dev.pubBad p (v.toNat ||| 2 ^ 31) = false →
    Effects (.cnvPubEnable r p v) s pgCNV (fun d =>
      (d.plainWrite pgCNV (0x400 + 0x20 * p) (v.toNat ||| 2 ^ 31)).2.setPub p {})) ∧
  (∀ (s : State) (r : Req) (v : Word) (k : Nat), s.accepts r pgCNV 0x504 →
    k = 256 * s.dev.rd CNV_TPL_SEL_pub + s.dev.rd CNV_TPL_SEL_word →
    Effects (.cnvTplDataAccess r (some v)) s pgCNV (fun d =>
      ({ d with cnv := { d.cnv with tpl := d.cnv.tpl.set k v 0 } }).wr CNV_TPL_SEL_word ((d.rd CNV_TPL_SEL_word + 1) % 256))) ∧
  (∀ (s : State) (r : Req) (k : Nat), s.acceptsRead r pgCNV 0x504 →
    k = 256 * s.dev.rd CNV_TPL_SEL_pub + s.dev.rd CNV_TPL_SEL_word →
    Gives (.cnvTplDataAccess r none) s (fun d =>
      (d.wr CNV_TPL_SEL_word ((d.rd CNV_TPL_SEL_word + 1) % 256)).answer .ok (d.cnv.tpl.get k 0).toNat)) ∧
  (∀ (s : State) (r : Req) (u : Fin 12) (k : Nat) (c : RsmCtx), s.accepts r (pgRSM + u) 0x044 →
    k = rsmKey u (s.dev.rd RSM_CTX_SEL_ctx 0 u) → s.dev.rsmStaged u = c → c.valid = true → s.dev.rsmBad c = false →
    (((s.dev.rsmUnit u).filter (fun e => e.1 != k)).foldl (fun n e => n + s.dev.rsmLoadIn e.2) (s.dev.rsmLoadIn c)) ≤ 200000000 →
    (((s.dev.rsmUnit u).filter (fun e => e.1 != k)).foldl (fun n e => n + rsmLoadOut e.2) (rsmLoadOut c)) ≤ 25000000 →
    Effects (.rsmContextCommit r u) s (pgRSM + u) (fun d => (d.setRsm k c).rowWritten (pgRSM + u) (d.rd RSM_CTX_SEL_ctx 0 u))) ∧
  (∀ (s : State) (r : Req) (u : Fin 12), s.accepts r (pgRSM + u) 0x044 → (s.dev.rsmStaged u).valid = false →
    Effects (.rsmContextCommit r u) s (pgRSM + u) (fun d => d.setRsm (rsmKey u (d.rd RSM_CTX_SEL_ctx 0 u)) {})) ∧
  (∀ (s : State) (r : Req) (u : Fin 12), s.accepts r (pgRSM + u) 0x044 →
    Effects (.rsmContextInvalidate r u) s (pgRSM + u) (fun d => d.setRsm (rsmKey u (d.rd RSM_CTX_SEL_ctx 0 u)) {})) ∧
  (∀ (s : State) (r : Req) (u : Fin 12) (c : RsmCtx), s.accepts r (pgRSM + u) 0x044 →
    s.dev.rsmCtx (rsmKey u (s.dev.rd RSM_CTX_SEL_ctx 0 u)) = c →
    Effects (.rsmContextRead r u) s (pgRSM + u) (fun d =>
      (((d.wrWord RSM_CTX_W0_valid c.w0 0 u).wr RSM_CTX_W1_r_in c.w1 0 u).wr RSM_CTX_W2_first c.w2 0 u).wr RSM_CTX_W3_lanes c.w3 0 u)) ∧
  (∀ (s : State) (k : Fin 64) (c : WfcCtx) (outs : List (List (Nat × List Int))) (n last : Nat), s.on → s.dev.wfcCtx k = c →
    c.valid = true → c.kind = 1 → outs = c.lanes.map c.outRuns → n = c.frameStart outs → last = n + 64 * c.blocks →
    s.dev.wfcReady c n = true →
    Gives (.wfcAssembleFrame k) s (fun d =>
      let code := d.wfcRate c
      let hz := rateHz code / 2 ^ c.dec
      let time := n / hz * 1000000000 + n % hz * 2 ^ c.dec * rateDiv code * 25 / 18
      let h : Pyrlon := {
        version := 1, gap := c.gap, codecRes := 0, tag := c.tag, width := c.width, order := c.order, mode := c.mode, k := c.k
        degraded := outs.any (fun runs => (List.range c.blocks).any (fun j => (outsAt runs (n + 64 * j) 64).isNone))
        chans := c.lanes.length, streamId := c.w3, count := n % 2 ^ 48,
        blocks := c.blocks, rateRes := 0, dec := c.dec, rate := code, time := time, keyId := 0, len := 0 }
      let x := buildPdu h (frameBlocks n c.blocks outs)
      let d := (d.wfcCoded k (c.lanes.length * c.blocks) x.2).wfcOut k c.queue time (padTo c.hdrLen c.hdr ++ x.1 ++ List.replicate h.tagLen 0)
      d.setWfc k ({ d.wfcCtx k with out := some last, chans := trimStreams last c.dec (d.wfcCtx k).chans }).swap)) ∧
  (∀ (s : State) (k : Fin 64) (j : WfcJob) (js : List WfcJob), s.on → (s.dev.wfcCtx k).jobs = j :: js → (s.dev.wfcCtx k).next = none →
    j.decode = false → (s.dev.wfcCtx k).mode ≠ 3 →
    Gives (.wfcCompressItem k) s (fun d =>
      let c := { d.wfcCtx k with jobs := js }
      let h := parsePyrlon j.pdu
      let x := encodePdu c j.pdu
      ((d.setWfc k c).wfcCoded k (h.chans * h.blocks) x.2).wfcOuts k j.dests h.time x.1)) ∧
  (∀ (s : State) (k : Fin 64) (j : WfcJob) (js : List WfcJob), s.on → (s.dev.wfcCtx k).jobs = j :: js → (s.dev.wfcCtx k).next = none →
    j.decode = false → (s.dev.wfcCtx k).mode = 3 →
    Gives (.wfcCompressItem k) s (fun d =>
      let r := (d.setWfc k { d.wfcCtx k with jobs := js }).wfcDecimate k j.pdu
      r.1.foldl (fun d p => d.wfcOuts k j.dests p.1 p.2) r.2)) ∧
  (∀ (s : State) (k : Fin 64) (j : WfcJob) (js : List WfcJob) (bs : List (List Int)), s.on → (s.dev.wfcCtx k).jobs = j :: js →
    (s.dev.wfcCtx k).next = none → j.decode = true → (parsePyrlon j.pdu).mode ≠ 0 →
    decodeBlocks (parsePyrlon j.pdu).mode (parsePyrlon j.pdu).order (parsePyrlon j.pdu).k (parsePyrlon j.pdu).bits
      ((parsePyrlon j.pdu).chans * (parsePyrlon j.pdu).blocks) (slice j.pdu 0x1E (parsePyrlon j.pdu).len) = .ok bs →
    Gives (.wfcCompressItem k) s (fun d =>
      let h := parsePyrlon j.pdu
      ((d.setWfc k { d.wfcCtx k with jobs := js }).wfcCoded k (h.chans * h.blocks) 0).wfcOuts k j.dests h.time (rawBytes h.width bs))) ∧
  (∀ (s : State) (r : Req) (k : Nat) (c : WfcCtx), s.accepts r pgWFC 0x044 → s.dev.rd WFC_CTX_SEL_ctx = k → s.dev.wfcStaged = c →
    c.valid = true → s.dev.wfcBad c = false →
    ((s.dev.wfc.ctx.filter (fun e => e.1 != k)).foldl (fun n e => n + s.dev.wfcLoadOf e.2.coming) (s.dev.wfcLoadOf c)) ≤ 11370000000 →
    Effects (.wfcContextCommit r) s pgWFC (fun d =>
      let old := d.wfcCtx k
      (d.setWfc k (if old.jobs = [] ∧ d.wfcGathers old = false then
          { old with
            w0 := c.w0, w1 := c.w1, w2 := c.w2, w3 := c.w3, next := none, left := 0, chans := [], seen := [], out := none,
            lost := false, degr := false }
        else { old with next := some (c.w0, c.w1, c.w2, c.w3), left := old.jobs.length })).rowWritten pgWFC k)) ∧
  (∀ (s : State) (r : Req), s.accepts r pgWFC 0x044 →
    Effects (.wfcContextInvalidate r) s pgWFC (fun d =>
      let k := d.rd WFC_CTX_SEL_ctx
      let old := d.wfcCtx k
      d.setWfc k (if old.jobs = [] ∧ d.wfcGathers old = false then
          { old with
            w0 := 0, w1 := 0, w2 := 0, w3 := 0, next := none, left := 0, chans := [], seen := [], out := none,
            lost := false, degr := false }
        else { old with next := some (0, 0, 0, 0), left := old.jobs.length }))) ∧
  (∀ (s : State) (r : Req) (c : WfcCtx), s.accepts r pgWFC 0x044 → (s.dev.wfcCtx (s.dev.rd WFC_CTX_SEL_ctx)).coming = c →
    Effects (.wfcContextRead r) s pgWFC (fun d =>
      (((d.wrWord WFC_CTX_W0_valid c.w0).wrWord WFC_CTX_W1_channels c.w1).wr WFC_CTX_W2_lanes c.w2).wr WFC_CTX_W3_stream_id c.w3)) ∧
  (∀ (s : State) (r : Req) (v : Word) (k : Nat), s.accepts r pgWFC 0x064 → s.dev.rd WFC_CTX_SEL_ctx = k →
    ((s.dev.wfcCtx k).valid = false ∨ (s.dev.wfcCtx k).kind ≠ 1) →
    ((s.dev.wfcCtx k).coming.valid = false ∨ (s.dev.wfcCtx k).coming.kind ≠ 1) →
    Effects (.wfcHdrDataAccess r (some v)) s pgWFC (fun d =>
      let c := d.wfcCtx k
      (d.setWfc k { c with hdr := overlay (padTo 32 c.hdr) (4 * d.rd WFC_HDR_SEL_word) (leBytes v.toNat 4) }).wr WFC_HDR_SEL_word
        ((d.rd WFC_HDR_SEL_word + 1) % 8))) ∧
  (∀ (s : State) (r : Req) (k : Nat), s.acceptsRead r pgWFC 0x064 → s.dev.rd WFC_CTX_SEL_ctx = k →
    Gives (.wfcHdrDataAccess r none) s (fun d =>
      (d.wr WFC_HDR_SEL_word ((d.rd WFC_HDR_SEL_word + 1) % 8)).answer .ok
        (leAt (padTo 32 (d.wfcCtx k).hdr) (4 * d.rd WFC_HDR_SEL_word) 4)))

/-- A captured word gives its lane the converted value; a word that breaks the rules of R179 gives the last good one again, and sixteen of
them in a row fail the lane (R180). -/
def Obligations.CapturedWord : Prop :=
  ∀ (d : Dev) (n w : Nat),
    let fmt := d.rd CNV_GRPg_fmt (n / 4)
    let x := d.laneWord n w
    let l := x.2.2.2.lane n
    (wordBad fmt (d.lane n).bit0 w = false →
      x.1 = convertWord fmt (d.flag CNV_GRPg_code (n / 4)) w ∧ x.2.1 = false ∧ l.last = x.1 ∧ l.bad = 0 ∧
        l.good = (d.lane n).good + 1) ∧
    (wordBad fmt (d.lane n).bit0 w = true →
      x.1 = (d.lane n).last ∧ x.2.1 = true ∧ l.last = (d.lane n).last ∧ l.bad = (d.lane n).bad + 1 ∧ l.good = 0 ∧
        l.failed = ((d.lane n).failed || decide ((d.lane n).bad = 15))) ∧
    (∀ m, m ≠ n → x.2.2.2.lane m = d.lane m)

/-- What the waveform coder codes comes back: raw samples and the samples of the lossless modes bit for bit, those of the bounded-error mode
with an error of at most the bound, their warm-up samples exactly (R203, R208 to R211). -/
def Obligations.CodedFramesDecode : Prop :=
  ∀ (mode p k width : Nat) (bs : List (List Int)), p ≤ 3 → width ≤ 1 →
    (∀ b ∈ bs, b.length = 64 ∧ ∀ x ∈ b, -(2 ^ ((if width = 0 then 16 else 18) - 1) : Int) ≤ x ∧ x < 2 ^ ((if width = 0 then 16 else 18) - 1)) →
    (mode = 0 → rawBlocks width bs.length (codePayload mode p k width bs).1 = bs) ∧
    ((mode = 1 ∨ mode = 3) →
      decodeBlocks mode p k (if width = 0 then 16 else 18) bs.length (codePayload mode p k width bs).1 = .ok bs) ∧
    (mode = 2 → 1 ≤ k → k ≤ 255 →
      ∃ ys, decodeBlocks mode p k (if width = 0 then 16 else 18) bs.length (codePayload mode p k width bs).1 = .ok ys ∧
        ys.length = bs.length ∧ ∀ j i, (ys.getD j []).length = (bs.getD j []).length ∧
          (((ys.getD j []).getD i 0 - (bs.getD j []).getD i 0).natAbs ≤ k) ∧
          (i < p → (ys.getD j []).getD i 0 = (bs.getD j []).getD i 0))

/-! ### Engines: computing -/

/-- The scalar additions and subtractions and what they leave in rd, the flags and the pc: N and Z of the result, C as the carry of the sum or 1 where no
borrow occurs, V as the signed overflow, Q where a saturating one saturated; nothing else changes (R221, R224, R225, R241, R242, R247). -/
def Obligations.ScalarArithmetic : Prop :=
  (∀ (s : State) (e : Fin 96) (short : Bool) (rd rs rt : Fin 32), s.issues e →
    EngineStep (.add e short rd rs rt) s e (fun x =>
      let a := x.read rs
      let b := x.read rt
      ((x.write rd (a + b)).nzcv (a + b) (decide (2 ^ 32 ≤ a.toNat + b.toNat)) (outside 32 (a.toInt + b.toInt))).past (formLen short))) ∧
  (∀ (s : State) (e : Fin 96) (short : Bool) (rd rs rt : Fin 32), s.issues e →
    EngineStep (.sub e short rd rs rt) s e (fun x =>
      let a := x.read rs
      let b := x.read rt
      ((x.write rd (a - b)).nzcv (a - b) (decide (b.toNat ≤ a.toNat)) (outside 32 (a.toInt - b.toInt))).past (formLen short))) ∧
  (∀ (s : State) (e : Fin 96) (rd rs rt : Fin 32), s.issues e →
    EngineStep (.addc e rd rs rt) s e (fun x =>
      let a := x.read rs
      let b := x.read rt
      let k := b2n (x.fl.getLsbD 1)
      let r := a + b + BitVec.ofNat 32 k
      ((x.write rd r).nzcv r (decide (2 ^ 32 ≤ a.toNat + b.toNat + k)) (outside 32 (a.toInt + b.toInt + k))).past 4)) ∧
  (∀ (s : State) (e : Fin 96) (rd rs rt : Fin 32), s.issues e →
    EngineStep (.subc e rd rs rt) s e (fun x =>
      let a := x.read rs
      let b := x.read rt
      let k := 1 - b2n (x.fl.getLsbD 1)
      let r := a - b - BitVec.ofNat 32 k
      ((x.write rd r).nzcv r (decide (b.toNat + k ≤ a.toNat)) (outside 32 (a.toInt - b.toInt - k))).past 4)) ∧
  (∀ (s : State) (e : Fin 96) (rd rs rt : Fin 32), s.issues e →
    EngineStep (.adds e rd rs rt) s e (fun x =>
      let a := x.read rs
      let b := x.read rt
      (((x.write rd (BitVec.ofInt 32 (limited 32 (a.toInt + b.toInt)))).nzcv (BitVec.ofInt 32 (limited 32 (a.toInt + b.toInt))) (decide (2 ^ 32 ≤ a.toNat + b.toNat)) (outside 32 (a.toInt + b.toInt))).sticky (outside 32 (a.toInt + b.toInt))).past 4)) ∧
  (∀ (s : State) (e : Fin 96) (rd rs rt : Fin 32), s.issues e →
    EngineStep (.subs e rd rs rt) s e (fun x =>
      let a := x.read rs
      let b := x.read rt
      (((x.write rd (BitVec.ofInt 32 (limited 32 (a.toInt - b.toInt)))).nzcv (BitVec.ofInt 32 (limited 32 (a.toInt - b.toInt))) (decide (b.toNat ≤ a.toNat)) (outside 32 (a.toInt - b.toInt))).sticky (outside 32 (a.toInt - b.toInt))).past 4)) ∧
  (∀ (s : State) (e : Fin 96) (rd rs : Fin 32), s.issues e →
    EngineStep (.abs e rd rs) s e (fun x =>
      let m : Int := (x.read rs).toInt.natAbs
      let r := BitVec.ofInt 32 (limited 32 m)
      (((x.write rd r).nzcv r (x.fl.getLsbD 1) (outside 32 m)).sticky (outside 32 m)).past 4)) ∧
  (∀ (s : State) (e : Fin 96) (short : Bool) (rs rt : Fin 32), s.issues e →
    EngineStep (.cmp e short rs rt) s e (fun x =>
      let a := x.read rs
      let b := x.read rt
      (x.nzcv (a - b) (decide (b.toNat ≤ a.toNat)) (outside 32 (a.toInt - b.toInt))).past (formLen short))) ∧
  (∀ (s : State) (e : Fin 96) (short : Bool) (rd rs : Fin 32) (imm : BitVec 15), s.issues e →
    EngineStep (.addi e short rd rs imm) s e (fun x =>
      let a := x.read rs
      let b := imm.signExtend 32
      ((x.write rd (a + b)).nzcv (a + b) (decide (2 ^ 32 ≤ a.toNat + b.toNat)) (outside 32 (a.toInt + b.toInt))).past (formLen short))) ∧
  (∀ (s : State) (e : Fin 96) (short : Bool) (rs : Fin 32) (imm : BitVec 15), s.issues e →
    EngineStep (.cmpi e short rs imm) s e (fun x =>
      let a := x.read rs
      let b := imm.signExtend 32
      (x.nzcv (a - b) (decide (b.toNat ≤ a.toNat)) (outside 32 (a.toInt - b.toInt))).past (formLen short))) ∧
  (∀ (s : State) (e : Fin 96) (rd rs : Fin 32), s.issues e →
    EngineStep (.neg e rd rs) s e (fun x =>
      let b := x.read rs
      ((x.write rd (0 - b)).nzcv (0 - b) (decide (b.toNat = 0)) (outside 32 (-b.toInt))).past 2))

/-- The scalar logic, multiplication, minimum and maximum, and bit instructions: rd, N and Z of the result, the pc; nothing else changes (R221, R224,
R241, R242, R247). -/
def Obligations.ScalarLogic : Prop :=
  (∀ (s : State) (e : Fin 96) (short : Bool) (rd rs rt : Fin 32), s.issues e →
    EngineStep (.and e short rd rs rt) s e (fun x =>
      let a := x.read rs
      let b := x.read rt
      ((x.write rd (a &&& b)).nz (a &&& b)).past (formLen short))) ∧
  (∀ (s : State) (e : Fin 96) (short : Bool) (rd rs rt : Fin 32), s.issues e →
    EngineStep (.or e short rd rs rt) s e (fun x =>
      let a := x.read rs
      let b := x.read rt
      ((x.write rd (a ||| b)).nz (a ||| b)).past (formLen short))) ∧
  (∀ (s : State) (e : Fin 96) (short : Bool) (rd rs rt : Fin 32), s.issues e →
    EngineStep (.xor e short rd rs rt) s e (fun x =>
      let a := x.read rs
      let b := x.read rt
      ((x.write rd (a ^^^ b)).nz (a ^^^ b)).past (formLen short))) ∧
  (∀ (s : State) (e : Fin 96) (rd rs rt : Fin 32), s.issues e →
    EngineStep (.andn e rd rs rt) s e (fun x =>
      let a := x.read rs
      let b := x.read rt
      ((x.write rd (a &&& ~~~b)).nz (a &&& ~~~b)).past 4)) ∧
  (∀ (s : State) (e : Fin 96) (rd rs rt : Fin 32), s.issues e →
    EngineStep (.mul e rd rs rt) s e (fun x =>
      let a := x.read rs
      let b := x.read rt
      ((x.write rd (a * b)).nz (a * b)).past 4)) ∧
  (∀ (s : State) (e : Fin 96) (rd rs rt : Fin 32), s.issues e →
    EngineStep (.mulh e rd rs rt) s e (fun x =>
      let a := x.read rs
      let b := x.read rt
      ((x.write rd (BitVec.ofInt 32 (a.toInt * b.toInt / 2 ^ 32))).nz (BitVec.ofInt 32 (a.toInt * b.toInt / 2 ^ 32))).past 4)) ∧
  (∀ (s : State) (e : Fin 96) (rd rs rt : Fin 32), s.issues e →
    EngineStep (.mulhu e rd rs rt) s e (fun x =>
      let a := x.read rs
      let b := x.read rt
      ((x.write rd (BitVec.ofNat 32 (a.toNat * b.toNat / 2 ^ 32))).nz (BitVec.ofNat 32 (a.toNat * b.toNat / 2 ^ 32))).past 4)) ∧
  (∀ (s : State) (e : Fin 96) (rd rs rt : Fin 32), s.issues e →
    EngineStep (.min e rd rs rt) s e (fun x =>
      let a := x.read rs
      let b := x.read rt
      ((x.write rd (BitVec.ofInt 32 (min a.toInt b.toInt))).nz (BitVec.ofInt 32 (min a.toInt b.toInt))).past 4)) ∧
  (∀ (s : State) (e : Fin 96) (rd rs rt : Fin 32), s.issues e →
    EngineStep (.max e rd rs rt) s e (fun x =>
      let a := x.read rs
      let b := x.read rt
      ((x.write rd (BitVec.ofInt 32 (max a.toInt b.toInt))).nz (BitVec.ofInt 32 (max a.toInt b.toInt))).past 4)) ∧
  (∀ (s : State) (e : Fin 96) (short : Bool) (rs rt : Fin 32), s.issues e →
    EngineStep (.tst e short rs rt) s e (fun x =>
      (x.nz (x.read rs &&& x.read rt)).past (formLen short))) ∧
  (∀ (s : State) (e : Fin 96) (rd rs : Fin 32) (imm : BitVec 15), s.issues e →
    EngineStep (.andi e rd rs imm) s e (fun x =>
      let r := x.read rs &&& imm.setWidth 32
      ((x.write rd r).nz r).past 4)) ∧
  (∀ (s : State) (e : Fin 96) (rd rs : Fin 32) (imm : BitVec 15), s.issues e →
    EngineStep (.ori e rd rs imm) s e (fun x =>
      let r := x.read rs ||| imm.setWidth 32
      ((x.write rd r).nz r).past 4)) ∧
  (∀ (s : State) (e : Fin 96) (rd rs : Fin 32) (imm : BitVec 15), s.issues e →
    EngineStep (.xori e rd rs imm) s e (fun x =>
      let r := x.read rs ^^^ imm.setWidth 32
      ((x.write rd r).nz r).past 4)) ∧
  (∀ (s : State) (e : Fin 96) (rd rs : Fin 32), s.issues e →
    EngineStep (.clz e rd rs) s e (fun x =>
      let r := BitVec.ofNat 32 (32 - (if x.read rs = 0 then 0 else Nat.log2 (x.read rs).toNat + 1))
      ((x.write rd r).nz r).past 4)) ∧
  (∀ (s : State) (e : Fin 96) (rd rs : Fin 32), s.issues e →
    EngineStep (.sexth e rd rs) s e (fun x =>
      let r := ((x.read rs).setWidth 16).signExtend 32
      ((x.write rd r).nz r).past 2)) ∧
  (∀ (s : State) (e : Fin 96) (rd rs : Fin 32), s.issues e →
    EngineStep (.ext e rd rs 0) s e (fun x =>
      let r := ((x.read rs).setWidth 8).signExtend 32
      ((x.write rd r).nz r).past 4)) ∧
  (∀ (s : State) (e : Fin 96) (rd rs : Fin 32), s.issues e →
    EngineStep (.ext e rd rs 1) s e (fun x =>
      let r := ((x.read rs).setWidth 16).signExtend 32
      ((x.write rd r).nz r).past 4)) ∧
  (∀ (s : State) (e : Fin 96) (rd rs : Fin 32), s.issues e →
    EngineStep (.ext e rd rs 2) s e (fun x =>
      let r := x.read rs &&& 0xFF
      ((x.write rd r).nz r).past 4)) ∧
  (∀ (s : State) (e : Fin 96) (rd rs : Fin 32), s.issues e →
    EngineStep (.ext e rd rs 3) s e (fun x =>
      let r := x.read rs &&& 0xFFFF
      ((x.write rd r).nz r).past 4)) ∧
  (∀ (s : State) (e : Fin 96) (rd rs sa : Fin 32) (r : Word), s.issues e →
    (∀ i : Fin 32, r.getLsbD i = (decide (i.val ≤ sa.val) && ((s.dev.engOf e).read rs).getLsbD (sa - i))) →
    EngineStep (.rev e rd rs sa) s e (fun x => ((x.write rd r).nz r).past 4))

/-- The shifts: the result, 0 or the sign for amounts of 32 and more; N and Z; C the last bit shifted out, as it was for an amount of 0; V and Q
as they were; nothing else changes (R221, R224, R241). -/
def Obligations.ScalarShifts : Prop :=
  (∀ (s : State) (e : Fin 96) (short : Bool) (rd rs rt : Fin 32), s.issues e →
    EngineStep (.sll e short rd rs rt) s e (fun x =>
      let a := x.read rs
      let n := (x.read rt).toNat % 64
      let r : Word := if 32 ≤ n then 0 else a <<< n
      ((x.write rd r).nzcv r (if n = 0 then x.fl.getLsbD 1 else if 32 < n then false else a.getLsbD (32 - n)) (x.fl.getLsbD 0)).past (formLen short))) ∧
  (∀ (s : State) (e : Fin 96) (short : Bool) (rd rs rt : Fin 32), s.issues e →
    EngineStep (.srl e short rd rs rt) s e (fun x =>
      let a := x.read rs
      let n := (x.read rt).toNat % 64
      let r : Word := if 32 ≤ n then 0 else a >>> n
      ((x.write rd r).nzcv r (if n = 0 then x.fl.getLsbD 1 else if 32 < n then false else a.getLsbD (n - 1)) (x.fl.getLsbD 0)).past (formLen short))) ∧
  (∀ (s : State) (e : Fin 96) (short : Bool) (rd rs rt : Fin 32), s.issues e →
    EngineStep (.sra e short rd rs rt) s e (fun x =>
      let a := x.read rs
      let n := (x.read rt).toNat % 64
      let r : Word := if 32 ≤ n then (if a.msb then -1 else 0) else a.sshiftRight n
      ((x.write rd r).nzcv r (if n = 0 then x.fl.getLsbD 1 else if 32 < n then a.msb else a.getLsbD (n - 1)) (x.fl.getLsbD 0)).past (formLen short))) ∧
  (∀ (s : State) (e : Fin 96) (short : Bool) (rd rs sa : Fin 32), s.issues e →
    EngineStep (.slli e short rd rs sa) s e (fun x =>
      let a := x.read rs
      let n := sa.val
      let r : Word := if 32 ≤ n then 0 else a <<< n
      ((x.write rd r).nzcv r (if n = 0 then x.fl.getLsbD 1 else if 32 < n then false else a.getLsbD (32 - n)) (x.fl.getLsbD 0)).past (formLen short))) ∧
  (∀ (s : State) (e : Fin 96) (rd rs sa : Fin 32), s.issues e →
    EngineStep (.srli e rd rs sa) s e (fun x =>
      let a := x.read rs
      let n := sa.val
      let r : Word := if 32 ≤ n then 0 else a >>> n
      ((x.write rd r).nzcv r (if n = 0 then x.fl.getLsbD 1 else if 32 < n then false else a.getLsbD (n - 1)) (x.fl.getLsbD 0)).past 4)) ∧
  (∀ (s : State) (e : Fin 96) (rd rs sa : Fin 32), s.issues e →
    EngineStep (.srai e rd rs sa) s e (fun x =>
      let a := x.read rs
      let n := sa.val
      let r : Word := if 32 ≤ n then (if a.msb then -1 else 0) else a.sshiftRight n
      ((x.write rd r).nzcv r (if n = 0 then x.fl.getLsbD 1 else if 32 < n then a.msb else a.getLsbD (n - 1)) (x.fl.getLsbD 0)).past 4))

/-- The moves and constants change rd and the pc only, nop and fence the pc only (R221, R225, R230, R241, R242, R244, R247). That fence has no
more to do is the model's reading of one order of commands (log entry 105). -/
def Obligations.ScalarMoves : Prop :=
  (∀ (s : State) (e : Fin 96) (short : Bool) (rd rs : Fin 32), s.issues e →
    EngineStep (.mov e short rd rs) s e (fun x =>
      (x.write rd (x.read rs)).past (formLen short))) ∧
  (∀ (s : State) (e : Fin 96) (rd rs rt : Fin 32) (cond : Fin 16), s.issues e →
    EngineStep (.sel e rd rs rt cond) s e (fun x =>
      (x.write rd (if Fl.holds x.fl cond then x.read rs else x.read rt)).past 4)) ∧
  (∀ (s : State) (e : Fin 96) (rd : Fin 32) (imm : BitVec 20), s.issues e →
    EngineStep (.ldhi e rd imm) s e (fun x =>
      (x.write rd (imm.setWidth 32 <<< 12)).past 4)) ∧
  (∀ (s : State) (e : Fin 96) (rd : Fin 32) (imm : BitVec 20), s.issues e →
    EngineStep (.ldi e rd imm) s e (fun x =>
      (x.write rd (imm.signExtend 32)).past 4)) ∧
  (∀ (s : State) (e : Fin 96) (rd : Fin 32) (imm : BitVec 7), s.issues e →
    EngineStep (.movi e rd imm) s e (fun x =>
      (x.write rd (imm.signExtend 32)).past 2)) ∧
  (∀ (s : State) (e : Fin 96), s.issues e →
    EngineStep (.nop e) s e (fun x =>
      x.past 4)) ∧
  (∀ (s : State) (e : Fin 96), s.issues e →
    EngineStep (.fence e) s e (fun x =>
      x.past 4))

/-- The multiply-accumulate instructions: the accumulator, limited to 72 bits, and Q where it was limited; rda and rdah round half up, shift and
limit; nothing else changes (R223, R224, R245). -/
def Obligations.ScalarMac : Prop :=
  (∀ (s : State) (e : Fin 96) (a : Fin 4) (rs rt : Fin 32), s.issues e →
    EngineStep (.mac e a rs rt) s e (fun x =>
      let v : Int := x.a.get a 0 + (x.read rs).toInt * (x.read rt).toInt
      ((x.writeA a (limited 72 v)).sticky (outside 72 v)).past 4)) ∧
  (∀ (s : State) (e : Fin 96) (a : Fin 4) (rs rt : Fin 32), s.issues e →
    EngineStep (.msu e a rs rt) s e (fun x =>
      let v : Int := x.a.get a 0 - (x.read rs).toInt * (x.read rt).toInt
      ((x.writeA a (limited 72 v)).sticky (outside 72 v)).past 4)) ∧
  (∀ (s : State) (e : Fin 96) (a : Fin 4) (rs rt : Fin 32), s.issues e →
    EngineStep (.mula e a rs rt) s e (fun x =>
      (x.writeA a ((x.read rs).toInt * (x.read rt).toInt)).past 4)) ∧
  (∀ (s : State) (e : Fin 96) (a : Fin 4) (rs rt : Fin 32), s.issues e →
    EngineStep (.macu e a rs rt) s e (fun x =>
      let v : Int := x.a.get a 0 + ((x.read rs).toNat * (x.read rt).toNat : Nat)
      ((x.writeA a (limited 72 v)).sticky (outside 72 v)).past 4)) ∧
  (∀ (s : State) (e : Fin 96) (a : Fin 4), s.issues e →
    EngineStep (.clra e a) s e (fun x =>
      (x.writeA a 0).past 4)) ∧
  (∀ (s : State) (e : Fin 96) (a : Fin 4) (rs : Fin 32), s.issues e →
    EngineStep (.mova e a rs) s e (fun x =>
      (x.writeA a (x.read rs).toInt).past 4)) ∧
  (∀ (s : State) (e : Fin 96) (rd : Fin 32) (a : Fin 4) (sh : Fin 64), s.issues e →
    EngineStep (.rda e rd a sh) s e (fun x =>
      let v := (x.a.get a 0 + (if sh.val = 0 then 0 else 2 ^ (sh.val - 1))) / 2 ^ sh.val
      ((x.write rd (BitVec.ofInt 32 (limited 32 v))).sticky (outside 32 v)).past 4)) ∧
  (∀ (s : State) (e : Fin 96) (rd : Fin 32) (a : Fin 4) (sh : Fin 64), s.issues e →
    EngineStep (.rdah e rd a sh) s e (fun x =>
      let v := (x.a.get a 0 + (if sh.val = 0 then 0 else 2 ^ (sh.val - 1))) / 2 ^ sh.val
      ((x.write rd (BitVec.ofInt 32 (limited 16 v))).sticky (outside 16 v)).past 4)) ∧
  (∀ (s : State) (e : Fin 96) (a : Fin 4), s.issues e →
    EngineStep (.asum e a) s e (fun x =>
      let v := x.a.get 0 0 + x.a.get 1 0 + x.a.get 2 0 + x.a.get 3 0
      ((x.writeA a (limited 72 v)).sticky (outside 72 v)).past 4))

/-- The vector ALU instructions write vd element by element; the saturating ones set Q where an element was limited; nothing else changes (R222,
R224, R246). -/
def Obligations.VectorAlu : Prop :=
  (∀ (s : State) (e : Fin 96) (vd vs vt : Fin 16) (sz : Bool), s.issues e →
    EngineStep (.vadd e vd vs vt sz) s e (fun x =>
      (x.writeV vd (mapEls sz (fun a b => a + b) (x.v.get vs 0) (x.v.get vt 0))).past 4)) ∧
  (∀ (s : State) (e : Fin 96) (vd vs vt : Fin 16) (sz : Bool), s.issues e →
    EngineStep (.vsub e vd vs vt sz) s e (fun x =>
      (x.writeV vd (mapEls sz (fun a b => a - b) (x.v.get vs 0) (x.v.get vt 0))).past 4)) ∧
  (∀ (s : State) (e : Fin 96) (vd vs vt : Fin 16) (sz : Bool), s.issues e →
    EngineStep (.vadds e vd vs vt sz) s e (fun x =>
      let a := x.v.get vs 0
      let b := x.v.get vt 0
      let f (i : Nat) : Int := elS sz a i + elS sz b i
      ((x.writeV vd (vecOf sz ((List.range (elN sz)).map (fun i => limited (elW sz) (f i))))).sticky
        ((List.range (elN sz)).any (fun i => outside (elW sz) (f i)))).past 4)) ∧
  (∀ (s : State) (e : Fin 96) (vd vs vt : Fin 16) (sz : Bool), s.issues e →
    EngineStep (.vsubs e vd vs vt sz) s e (fun x =>
      let a := x.v.get vs 0
      let b := x.v.get vt 0
      let f (i : Nat) : Int := elS sz a i - elS sz b i
      ((x.writeV vd (vecOf sz ((List.range (elN sz)).map (fun i => limited (elW sz) (f i))))).sticky
        ((List.range (elN sz)).any (fun i => outside (elW sz) (f i)))).past 4)) ∧
  (∀ (s : State) (e : Fin 96) (vd vs vt : Fin 16) (sz : Bool), s.issues e →
    EngineStep (.vhadd e vd vs vt sz) s e (fun x =>
      (x.writeV vd (mapEls sz (fun a b => (a + b + 1) / 2) (x.v.get vs 0) (x.v.get vt 0))).past 4)) ∧
  (∀ (s : State) (e : Fin 96) (vd vs vt : Fin 16) (sz : Bool), s.issues e →
    EngineStep (.vhsub e vd vs vt sz) s e (fun x =>
      (x.writeV vd (mapEls sz (fun a b => (a - b + 1) / 2) (x.v.get vs 0) (x.v.get vt 0))).past 4)) ∧
  (∀ (s : State) (e : Fin 96) (vd vs vt : Fin 16), s.issues e →
    EngineStep (.vand e vd vs vt) s e (fun x =>
      (x.writeV vd (x.v.get vs 0 &&& x.v.get vt 0)).past 4)) ∧
  (∀ (s : State) (e : Fin 96) (vd vs vt : Fin 16), s.issues e →
    EngineStep (.vor e vd vs vt) s e (fun x =>
      (x.writeV vd (x.v.get vs 0 ||| x.v.get vt 0)).past 4)) ∧
  (∀ (s : State) (e : Fin 96) (vd vs vt : Fin 16), s.issues e →
    EngineStep (.vxor e vd vs vt) s e (fun x =>
      (x.writeV vd (x.v.get vs 0 ^^^ x.v.get vt 0)).past 4)) ∧
  (∀ (s : State) (e : Fin 96) (vd vs vt : Fin 16) (sz : Bool), s.issues e →
    EngineStep (.vmin e vd vs vt sz) s e (fun x =>
      (x.writeV vd (mapEls sz (fun a b => min a b) (x.v.get vs 0) (x.v.get vt 0))).past 4)) ∧
  (∀ (s : State) (e : Fin 96) (vd vs vt : Fin 16) (sz : Bool), s.issues e →
    EngineStep (.vmax e vd vs vt sz) s e (fun x =>
      (x.writeV vd (mapEls sz (fun a b => max a b) (x.v.get vs 0) (x.v.get vt 0))).past 4)) ∧
  (∀ (s : State) (e : Fin 96) (vd vs : Fin 16) (sz : Bool), s.issues e →
    EngineStep (.vabs e vd vs sz) s e (fun x =>
      let f (i : Nat) : Int := (elS sz (x.v.get vs 0) i).natAbs
      ((x.writeV vd (vecOf sz ((List.range (elN sz)).map (fun i => limited (elW sz) (f i))))).sticky
        ((List.range (elN sz)).any (fun i => outside (elW sz) (f i)))).past 4)) ∧
  (∀ (s : State) (e : Fin 96) (vd vs : Fin 16) (sz : Bool) (sh : Fin 64), s.issues e → sh.val < elW sz →
    EngineStep (.vsll e vd vs sz sh) s e (fun x =>
      (x.writeV vd (vecOf sz ((List.range (elN sz)).map (fun i => ((el sz (x.v.get vs 0) i * 2 ^ sh.val : Nat) : Int))))).past 4)) ∧
  (∀ (s : State) (e : Fin 96) (vd vs : Fin 16) (sz : Bool) (sh : Fin 64), s.issues e → sh.val < elW sz →
    EngineStep (.vsrl e vd vs sz sh) s e (fun x =>
      (x.writeV vd (vecOf sz ((List.range (elN sz)).map (fun i => ((el sz (x.v.get vs 0) i / 2 ^ sh.val : Nat) : Int))))).past 4)) ∧
  (∀ (s : State) (e : Fin 96) (vd vs : Fin 16) (sz : Bool) (sh : Fin 64), s.issues e → sh.val < elW sz →
    EngineStep (.vsra e vd vs sz sh) s e (fun x =>
      (x.writeV vd (vecOf sz ((List.range (elN sz)).map (fun i => elS sz (x.v.get vs 0) i / 2 ^ sh.val)))).past 4)) ∧
  (∀ (s : State) (e : Fin 96) (vd vs : Fin 16), s.issues e →
    EngineStep (.vmov e vd vs) s e (fun x =>
      (x.writeV vd (x.v.get vs 0)).past 4)) ∧
  (∀ (s : State) (e : Fin 96) (vd : Fin 16) (rs : Fin 32) (sz : Bool), s.issues e →
    EngineStep (.vbcast e vd rs sz) s e (fun x =>
      (x.writeV vd (vecOf sz (List.replicate (elN sz) (x.read rs).toInt))).past 4)) ∧
  (∀ (s : State) (e : Fin 96) (vd : Fin 16) (idx : Fin 8) (rs : Fin 32) (sz : Bool), s.issues e → idx.val < elN sz →
    EngineStep (.vins e vd idx rs sz) s e (fun x =>
      (x.writeV vd (vecOf sz ((List.range (elN sz)).map (fun i => if i = idx.val then (x.read rs).toInt else elS sz (x.v.get vd 0) i)))).past 4)) ∧
  (∀ (s : State) (e : Fin 96) (rd : Fin 32) (vs : Fin 16) (idx : Fin 8) (sz : Bool), s.issues e → idx.val < elN sz →
    EngineStep (.vext e rd vs idx sz) s e (fun x =>
      (x.write rd (BitVec.ofInt 32 (elS sz (x.v.get vs 0) idx))).past 4))

/-- The vector MAC instructions: products and sums of products into a0 to a3, each limited to 72 bits, rounding into vd, complex products, and Q
where a value was limited; nothing else changes (R223, R224, R246). -/
def Obligations.VectorMac : Prop :=
  (∀ (s : State) (e : Fin 96) (vs vt : Fin 16) (sz : Bool), s.issues e →
    EngineStep (.vmul e vs vt sz) s e (fun x =>
      let p (i : Nat) : Int := if sz then elS true (x.v.get vs 0) (2 * i) * elS true (x.v.get vt 0) (2 * i) +
        elS true (x.v.get vs 0) (2 * i + 1) * elS true (x.v.get vt 0) (2 * i + 1) else elS false (x.v.get vs 0) i * elS false (x.v.get vt 0) i
      ((((x.writeA 0 (p 0)).writeA 1 (p 1)).writeA 2 (p 2)).writeA 3 (p 3)).past 4)) ∧
  (∀ (s : State) (e : Fin 96) (vs vt : Fin 16) (sz : Bool), s.issues e →
    EngineStep (.vmac e vs vt sz) s e (fun x =>
      let p (i : Nat) : Int := if sz then elS true (x.v.get vs 0) (2 * i) * elS true (x.v.get vt 0) (2 * i) +
        elS true (x.v.get vs 0) (2 * i + 1) * elS true (x.v.get vt 0) (2 * i + 1) else elS false (x.v.get vs 0) i * elS false (x.v.get vt 0) i
      let f (i : Nat) : Int := x.a.get i 0 + p i
      (((((x.writeA 0 (limited 72 (f 0))).writeA 1 (limited 72 (f 1))).writeA 2 (limited 72 (f 2))).writeA 3 (limited 72 (f 3))).sticky
        ((List.range 4).any (fun i => outside 72 (f i)))).past 4)) ∧
  (∀ (s : State) (e : Fin 96) (vs vt : Fin 16) (sz : Bool), s.issues e →
    EngineStep (.vmsu e vs vt sz) s e (fun x =>
      let p (i : Nat) : Int := if sz then elS true (x.v.get vs 0) (2 * i) * elS true (x.v.get vt 0) (2 * i) +
        elS true (x.v.get vs 0) (2 * i + 1) * elS true (x.v.get vt 0) (2 * i + 1) else elS false (x.v.get vs 0) i * elS false (x.v.get vt 0) i
      let f (i : Nat) : Int := x.a.get i 0 - p i
      (((((x.writeA 0 (limited 72 (f 0))).writeA 1 (limited 72 (f 1))).writeA 2 (limited 72 (f 2))).writeA 3 (limited 72 (f 3))).sticky
        ((List.range 4).any (fun i => outside 72 (f i)))).past 4)) ∧
  (∀ (s : State) (e : Fin 96), s.issues e →
    EngineStep (.vclr e) s e (fun x =>
      ((((x.writeA 0 0).writeA 1 0).writeA 2 0).writeA 3 0).past 4)) ∧
  (∀ (s : State) (e : Fin 96) (vd : Fin 16) (sh : Fin 64), s.issues e →
    EngineStep (.vrnd e vd false sh) s e (fun x =>
      let v (i : Nat) : Int := (x.a.get i 0 + (if sh.val = 0 then 0 else 2 ^ (sh.val - 1))) / 2 ^ sh.val
      ((x.writeV vd (vecOf false ((List.range 4).map (fun i => limited 32 (v i))))).sticky
        ((List.range 4).any (fun i => outside 32 (v i)))).past 4)) ∧
  (∀ (s : State) (e : Fin 96) (vd : Fin 16) (sh : Fin 64), s.issues e →
    EngineStep (.vrnd e vd true sh) s e (fun x =>
      let v (i : Nat) : Int := (x.a.get i 0 + (if sh.val = 0 then 0 else 2 ^ (sh.val - 1))) / 2 ^ sh.val
      ((x.writeV vd (vecOf true ((List.range 8).map (fun i => if i % 2 = 0 then limited 16 (v (i / 2)) else 0)))).sticky
        ((List.range 4).any (fun i => outside 16 (v i)))).past 4)) ∧
  (∀ (s : State) (e : Fin 96) (vd vs vt : Fin 16) (sh : Fin 64), s.issues e → sh.val ≤ 16 →
    EngineStep (.vcmul e vd vs vt sh) s e (fun x =>
      let a (i : Nat) : Int := elS true (x.v.get vs 0) i
      let b (i : Nat) : Int := elS true (x.v.get vt 0) i
      let r : Int := if sh.val = 0 then 0 else 2 ^ (sh.val - 1)
      let re (i : Nat) : Int := (a (2 * i) * b (2 * i) - a (2 * i + 1) * b (2 * i + 1) + r) / 2 ^ sh.val
      let im (i : Nat) : Int := (a (2 * i) * b (2 * i + 1) + a (2 * i + 1) * b (2 * i) + r) / 2 ^ sh.val
      ((x.writeV vd (vecOf true ((List.range 8).map (fun i => limited 16 (if i % 2 = 0 then re (i / 2) else im (i / 2)))))).sticky
        ((List.range 4).any (fun i => outside 16 (re i) || outside 16 (im i)))).past 4))

/-- The elements of a vector: element i of the vector of a list is the list's entry cut to the element's width, lowest element first (R222). -/
def Obligations.VectorElements : Prop :=
  ∀ (sz : Bool) (l : List Int) (i : Nat), l.length = elN sz → i < elN sz →
    el sz (vecOf sz l) i = ((l.getD i 0) % (2 ^ elW sz : Nat)).toNat ∧
      (outside (elW sz) (l.getD i 0) = false → elS sz (vecOf sz l) i = l.getD i 0)

/-! ### Engines: memory -/

/-- Scalar loads and stores: the address rs + sext(imm12), the value extended as the mnemonic says, the low bits of rd stored (R230, R243). -/
def Obligations.ScalarMemoryCompletes : Prop :=
  (∀ (s : State) (e : Fin 96) (short : Bool) (rd rs : Fin 32) (imm : BitVec 12) (v : MemEnv), s.issues e →
    LoadsTo (.ldw e short rd rs imm v) s e (s.dev.gr e rs + imm.signExtend 32).toNat 4 (formLen short) v
      (fun x d => d.setGr e rd (BitVec.ofNat 32 x))) ∧
  (∀ (s : State) (e : Fin 96) (rd rs : Fin 32) (imm : BitVec 12) (v : MemEnv), s.issues e →
    LoadsTo (.ldh e rd rs imm v) s e (s.dev.gr e rs + imm.signExtend 32).toNat 2 4 v
      (fun x d => d.setGr e rd ((BitVec.ofNat 16 x).signExtend 32))) ∧
  (∀ (s : State) (e : Fin 96) (rd rs : Fin 32) (imm : BitVec 12) (v : MemEnv), s.issues e →
    LoadsTo (.ldhu e rd rs imm v) s e (s.dev.gr e rs + imm.signExtend 32).toNat 2 4 v
      (fun x d => d.setGr e rd (BitVec.ofNat 32 x))) ∧
  (∀ (s : State) (e : Fin 96) (rd rs : Fin 32) (imm : BitVec 12) (v : MemEnv), s.issues e →
    LoadsTo (.ldb e rd rs imm v) s e (s.dev.gr e rs + imm.signExtend 32).toNat 1 4 v
      (fun x d => d.setGr e rd ((BitVec.ofNat 8 x).signExtend 32))) ∧
  (∀ (s : State) (e : Fin 96) (rd rs : Fin 32) (imm : BitVec 12) (v : MemEnv), s.issues e →
    LoadsTo (.ldbu e rd rs imm v) s e (s.dev.gr e rs + imm.signExtend 32).toNat 1 4 v
      (fun x d => d.setGr e rd (BitVec.ofNat 32 x))) ∧
  (∀ (s : State) (e : Fin 96) (short : Bool) (rd rs : Fin 32) (imm : BitVec 12) (v : MemEnv), s.issues e →
    StoresTo (.stw e short rd rs imm v) s e (s.dev.gr e rs + imm.signExtend 32).toNat (leBytes (s.dev.gr e rd).toNat 4) (formLen short) v
      (fun d => d)) ∧
  (∀ (s : State) (e : Fin 96) (rd rs : Fin 32) (imm : BitVec 12) (v : MemEnv), s.issues e →
    StoresTo (.sth e rd rs imm v) s e (s.dev.gr e rs + imm.signExtend 32).toNat (leBytes (s.dev.gr e rd).toNat 2) 4 v (fun d => d)) ∧
  (∀ (s : State) (e : Fin 96) (rd rs : Fin 32) (imm : BitVec 12) (v : MemEnv), s.issues e →
    StoresTo (.stb e rd rs imm v) s e (s.dev.gr e rs + imm.signExtend 32).toNat (leBytes (s.dev.gr e rd).toNat 1) 4 v (fun d => d))

/-- Accesses through an address generator: the address base + index, the access, then the update where asked for (R226 to R229, R243); the
atomic instructions, of which two in one CCLK run in the order of R25 whichever command brings them (R25, R231, R242). -/
def Obligations.GeneratorMemoryCompletes : Prop :=
  (∀ (s : State) (e : Fin 96) (short : Bool) (op : Fin 5) (rd : Fin 32) (m : Fin 8) (upd : Bool) (v : MemEnv), s.issues e →
    (s.dev.gen e m).valid = true →
    LoadsTo (.agLoad e short op rd m upd v) s e (s.dev.gen e m).addr ([4, 2, 2, 1, 1].getD op 0) (formLen short) v (fun x d =>
      let d := d.setGr e rd (match op.val with
        | 1 => (BitVec.ofNat 16 x).signExtend 32
        | 3 => (BitVec.ofNat 8 x).signExtend 32
        | _ => BitVec.ofNat 32 x)
      if upd then d.setGen e m (d.gen e m).next else d)) ∧
  (∀ (s : State) (e : Fin 96) (short : Bool) (op : Fin 3) (rd : Fin 32) (m : Fin 8) (upd : Bool) (v : MemEnv), s.issues e →
    (s.dev.gen e m).valid = true →
    StoresTo (.agStore e short op rd m upd v) s e (s.dev.gen e m).addr (leBytes (s.dev.gr e rd).toNat ([4, 2, 1].getD op 0)) (formLen short) v
      (fun d => if upd then d.setGen e m (d.gen e m).next else d)) ∧
  (∀ (s : State) (e : Fin 96) (vd : Fin 16) (m : Fin 8) (sz upd : Bool) (v : MemEnv), s.issues e → (s.dev.gen e m).valid = true →
    (s.dev.gen e m).circular = false → (s.dev.gen e m).misaligned (elW sz / 8) = none →
    (s.dev.cleared.engLoad e (s.dev.gen e m).addr 16 v).1 = .ok →
    Gives (.vld e vd m sz upd v) s (fun d =>
      let x := d.engLoad e (d.gen e m).addr 16 v
      let y := x.2.2.setVr e vd (BitVec.ofNat 128 x.2.1)
      (if upd then y.setGen e m (y.gen e m).next else y).setPc e ((d.engOf e).pc + 4))) ∧
  (∀ (s : State) (e : Fin 96) (vd : Fin 16) (m : Fin 8) (sz upd : Bool) (v : MemEnv), s.issues e → (s.dev.gen e m).valid = true →
    (s.dev.gen e m).circular = true → (s.dev.gen e m).misaligned (elW sz / 8) = none →
    (s.dev.cleared.loadElements e (elW sz / 8) v ((s.dev.gen e m).elements (elW sz / 8))).1 = .ok →
    Gives (.vld e vd m sz upd v) s (fun d =>
      let x := d.loadElements e (elW sz / 8) v ((d.gen e m).elements (elW sz / 8))
      let y := x.2.2.setVr e vd (BitVec.ofNat 128 x.2.1)
      (if upd then y.setGen e m (y.gen e m).next else y).setPc e ((d.engOf e).pc + 4))) ∧
  (∀ (s : State) (e : Fin 96) (vd : Fin 16) (m : Fin 8) (sz upd : Bool) (v : MemEnv), s.issues e → (s.dev.gen e m).valid = true →
    (s.dev.gen e m).circular = false → (s.dev.gen e m).misaligned (elW sz / 8) = none →
    (s.dev.cleared.engStore e (s.dev.gen e m).addr (leBytes (s.dev.vr e vd).toNat 16) (laterOf v s.rr (.eng e))).1 = .ok →
    Gives (.vst e vd m sz upd v) s (fun d =>
      let y := (d.engStore e (d.gen e m).addr (leBytes (d.vr e vd).toNat 16) (laterOf v s.rr (.eng e))).2
      (if upd then y.setGen e m (y.gen e m).next else y).setPc e ((d.engOf e).pc + 4))) ∧
  (∀ (s : State) (e : Fin 96) (vd : Fin 16) (m : Fin 8) (sz upd : Bool) (v : MemEnv), s.issues e → (s.dev.gen e m).valid = true →
    (s.dev.gen e m).circular = true → (s.dev.gen e m).misaligned (elW sz / 8) = none →
    (∀ a ∈ (s.dev.gen e m).elements (elW sz / 8), a + elW sz / 8 ≤ 0x20000) →
    Gives (.vst e vd m sz upd v) s (fun d =>
      let es := elW sz / 8
      let y := ((d.gen e m).elements es).zipIdx.foldl (fun y p =>
        (y.engStore e p.1 (leBytes ((d.vr e vd).toNat / 2 ^ (8 * es * p.2)) es)
          { laterOf v s.rr (.eng e) with parity := false, ecc := 0 }).2) d
      (if upd then y.setGen e m (y.gen e m).next else y).setPc e ((d.engOf e).pc + 4))) ∧
  (∀ (s : State) (e : Fin 96) (vd : Fin 16) (m : Fin 8) (sz upd : Bool) (v : MemEnv), s.issues e → (s.dev.gen e m).valid = true →
    (s.dev.gen e m).addr % (elW sz / 8) = 0 → (s.dev.cleared.engLoad e (s.dev.gen e m).addr (elW sz / 8) v).1 = .ok →
    Gives (.vldr e vd m sz upd v) s (fun d =>
      let x := d.engLoad e (d.gen e m).addr (elW sz / 8) v
      let y := x.2.2.setVr e vd (vecOf sz (List.replicate (elN sz) x.2.1))
      (if upd then y.setGen e m (y.gen e m).next else y).setPc e ((d.engOf e).pc + 4))) ∧
  (∀ (s : State) (e : Fin 96) (rd rs rt : Fin 32) (v w : MemEnv) (a : Nat), s.issues e →
    w = { laterOf v s.rr (.eng e) with parity := false, ecc := 0 } → a = (s.dev.gr e rs).toNat → a % 4 = 0 →
    (a < 0x20000 ∨ 0x100000 ≤ a ∧ a < 0x200000) → (s.dev.cleared.engLoad e a 4 v).1 = .ok →
    ((s.dev.cleared.engLoad e a 4 v).2.2.engStore e a (leBytes (s.dev.gr e rt).toNat 4) w).1 = .ok →
    Gives (.atswap e rd rs rt v []) s (fun d =>
      let x := d.engLoad e a 4 v
      let y := (x.2.2.engStore e a (leBytes (d.gr e rt).toNat 4) w).2
      (y.setGr e rd (BitVec.ofNat 32 x.2.1)).setPc e ((d.engOf e).pc + 4))) ∧
  (∀ (s : State) (e : Fin 96) (rd rs rt : Fin 32) (v w : MemEnv) (a : Nat) (b : List Byte), s.issues e →
    w = { laterOf v s.rr (.eng e) with parity := false, ecc := 0 } → a = (s.dev.gr e rs).toNat →
    a % 4 = 0 → (a < 0x20000 ∨ 0x100000 ≤ a ∧ a < 0x200000) → (s.dev.cleared.engLoad e a 4 v).1 = .ok →
    b = leBytes (BitVec.ofNat 32 (s.dev.cleared.engLoad e a 4 v).2.1 + s.dev.gr e rt).toNat 4 →
    ((s.dev.cleared.engLoad e a 4 v).2.2.engStore e a b w).1 = .ok →
    Gives (.atadd e rd rs rt v []) s (fun d =>
      let x := d.engLoad e a 4 v
      ((x.2.2.engStore e a b w).2.setGr e rd (BitVec.ofNat 32 x.2.1)).setPc e ((d.engOf e).pc + 4))) ∧
  (∀ (s : State) (e : Fin 96) (rd rs rt : Fin 32) (v w : MemEnv) (a : Nat), s.issues e →
    w = { laterOf v s.rr (.eng e) with parity := false, ecc := 0 } → a = (s.dev.gr e rs).toNat → a % 4 = 0 →
    (a < 0x20000 ∨ 0x100000 ≤ a ∧ a < 0x200000) → (s.dev.cleared.engLoad e a 4 v).1 = .ok →
    BitVec.ofNat 32 (s.dev.cleared.engLoad e a 4 v).2.1 = s.dev.gr e rd →
    ((s.dev.cleared.engLoad e a 4 v).2.2.engStore e a (leBytes (s.dev.gr e rt).toNat 4) w).1 = .ok →
    Gives (.atcas e rd rs rt v []) s (fun d =>
      let x := d.engLoad e a 4 v
      let y := (x.2.2.engStore e a (leBytes (d.gr e rt).toNat 4) w).2
      (y.setGr e rd (BitVec.ofNat 32 x.2.1)).setPc e ((d.engOf e).pc + 4))) ∧
  (∀ (s : State) (e : Fin 96) (rd rs rt : Fin 32) (v w : MemEnv) (a : Nat), s.issues e →
    w = { laterOf v s.rr (.eng e) with parity := false, ecc := 0 } → a = (s.dev.gr e rs).toNat → a % 4 = 0 →
    (a < 0x20000 ∨ 0x100000 ≤ a ∧ a < 0x200000) → (s.dev.cleared.engLoad e a 4 v).1 = .ok →
    BitVec.ofNat 32 (s.dev.cleared.engLoad e a 4 v).2.1 ≠ s.dev.gr e rd →
    Gives (.atcas e rd rs rt v []) s (fun d =>
      let x := d.engLoad e a 4 v
      (x.2.2.setGr e rd (BitVec.ofNat 32 x.2.1)).setPc e ((d.engOf e).pc + 4))) ∧
  (∀ (s : State) (x y : Atomic) (f : Dev → Dev), s.on → rank s.rr (.eng x.e) < rank s.rr (.eng y.e) →
    f = (fun d => [x, y].foldl (fun d z => d.issue z.e 4 (fun d _ _ =>
      d.opAtomic z.e z.op.val z.rd z.rs z.rt (laterOf z.v s.rr (.eng z.e)))) d) →
    (x.op = 0 → Gives (.atswap x.e x.rd x.rs x.rt x.v [y]) s f) ∧ (y.op = 0 → Gives (.atswap y.e y.rd y.rs y.rt y.v [x]) s f) ∧
    (x.op = 1 → Gives (.atadd x.e x.rd x.rs x.rt x.v [y]) s f) ∧ (y.op = 1 → Gives (.atadd y.e y.rd y.rs y.rt y.v [x]) s f) ∧
    (x.op = 2 → Gives (.atcas x.e x.rd x.rs x.rt x.v [y]) s f) ∧ (y.op = 2 → Gives (.atcas y.e y.rd y.rs y.rt y.v [x]) s f))

/-- An engine's own data memory: a load gives the bytes that stand there and changes nothing; a store puts its bytes there, little-endian,
and changes no other byte and nothing else (R230, R281); memory keeps its canonical form. -/
def Obligations.DataMemory : Prop :=
  ∀ (d : Dev) (e : Fin 96) (a : Nat), memWf d.mem = true → d.initStatus 1 = .ok →
    (∀ n, 0 < n → a + n ≤ 0x20000 → d.firstBad 1 (engData e + a) n = none →
      d.engLoad e a n ⟨false, 0, [], []⟩ = (.ok, leValue ((List.range n).map (fun i => memByte d.mem (engData e + a + i))), d)) ∧
    (∀ b : List Byte, 0 < b.length → a + b.length ≤ 0x20000 → d.firstBad 1 (engData e + a) b.length = none →
      (d.engStore e a b ⟨false, 0, [], []⟩).1 = .ok ∧ { (d.engStore e a b ⟨false, 0, [], []⟩).2 with mem := [] } = { d with mem := [] } ∧
        memWf (d.engStore e a b ⟨false, 0, [], []⟩).2.mem = true ∧
        ∀ x, memByte (d.engStore e a b ⟨false, 0, [], []⟩).2.mem x =
          if engData e + a ≤ x ∧ x < engData e + a + b.length then b.getD (x - (engData e + a)) 0 else memByte d.mem x)

/-- What stops an access of an engine: a misaligned address raises cause 5 with the address, a bus error cause 6 with the address and the
status, a generator whose fields do not fit its mode cause 4 with its number; nothing is loaded or stored (R226, R228, R239, R256). -/
def Obligations.AccessesTrap : Prop :=
  (∀ (s : State) (e : Fin 96) (short : Bool) (rd rs : Fin 32) (imm : BitVec 12) (v : MemEnv) (a : Nat), s.issues e →
    a = (s.dev.gr e rs + imm.signExtend 32).toNat → a % 4 ≠ 0 →
    Raises (.ldw e short rd rs imm v) s e 5 a 0 ∧ Raises (.stw e short rd rs imm v) s e 5 a 0) ∧
  (∀ (s : State) (e : Fin 96) (rd rs : Fin 32) (imm : BitVec 12) (v : MemEnv) (a : Nat), s.issues e →
    a = (s.dev.gr e rs + imm.signExtend 32).toNat → a % 2 ≠ 0 →
    Raises (.ldh e rd rs imm v) s e 5 a 0 ∧ Raises (.ldhu e rd rs imm v) s e 5 a 0 ∧ Raises (.sth e rd rs imm v) s e 5 a 0) ∧
  (∀ (s : State) (e : Fin 96) (short : Bool) (rd rs : Fin 32) (imm : BitVec 12) (v : MemEnv) (a : Nat), s.issues e →
    a = (s.dev.gr e rs + imm.signExtend 32).toNat → a % 4 = 0 → (s.dev.cleared.engLoad e a 4 v).1 ≠ .ok →
    Gives (.ldw e short rd rs imm v) s (fun d =>
      let x := d.engLoad e a 4 v
      x.2.2.syncException e 6 a x.1.code (d.engOf e).pc (d.engOf e).pc)) ∧
  (∀ (s : State) (e : Fin 96) (short : Bool) (rd rs : Fin 32) (imm : BitVec 12) (v : MemEnv) (a : Nat), s.issues e →
    a = (s.dev.gr e rs + imm.signExtend 32).toNat → a % 4 = 0 →
    (s.dev.cleared.engStore e a (leBytes (s.dev.gr e rd).toNat 4) (laterOf v s.rr (.eng e))).1 ≠ .ok →
    Gives (.stw e short rd rs imm v) s (fun d =>
      let x := d.engStore e a (leBytes (d.gr e rd).toNat 4) (laterOf v s.rr (.eng e))
      x.2.syncException e 6 a x.1.code (d.engOf e).pc (d.engOf e).pc)) ∧
  (∀ (s : State) (e : Fin 96) (m : Fin 8) (sz upd : Bool) (v : MemEnv), s.issues e → (s.dev.gen e m).valid = false →
    (∀ (short : Bool) (op : Fin 5) (rd : Fin 32), Raises (.agLoad e short op rd m upd v) s e 4 m 0) ∧
    (∀ (short : Bool) (op : Fin 3) (rd : Fin 32), Raises (.agStore e short op rd m upd v) s e 4 m 0) ∧
    (∀ vd : Fin 16, Raises (.vld e vd m sz upd v) s e 4 m 0 ∧ Raises (.vst e vd m sz upd v) s e 4 m 0 ∧
      Raises (.vldr e vd m sz upd v) s e 4 m 0)) ∧
  (∀ (s : State) (e : Fin 96) (vd : Fin 16) (m : Fin 8) (sz upd : Bool) (v : MemEnv) (a : Nat), s.issues e →
    (s.dev.gen e m).valid = true → (s.dev.gen e m).misaligned (elW sz / 8) = some a →
    Raises (.vld e vd m sz upd v) s e 5 a 0 ∧ Raises (.vst e vd m sz upd v) s e 5 a 0) ∧
  (∀ (s : State) (e : Fin 96) (rd rs rt : Fin 32) (v : MemEnv) (a : Nat), s.issues e → a = (s.dev.gr e rs).toNat → a % 4 = 0 →
    ¬(a < 0x20000 ∨ 0x100000 ≤ a ∧ a < 0x200000) →
    Raises (.atswap e rd rs rt v []) s e 6 a Status.denied.code ∧ Raises (.atadd e rd rs rt v []) s e 6 a Status.denied.code ∧
      Raises (.atcas e rd rs rt v []) s e 6 a Status.denied.code)

/-- The address-generator instructions write one field, read one, advance the index (R226, R227, R243); a reserved mode, and agadd in
bit-reversed mode, raise cause 4. -/
def Obligations.GeneratorInstructions : Prop :=
  (∀ (s : State) (e : Fin 96) (m : Fin 8) (field : Fin 5) (rs : Fin 32), s.issues e →
    (field.val = 4 → (s.dev.gr e rs).toNat % 4 ≠ 3) →
    EngineStep (.agset e m field rs) s e (fun x =>
      let g := x.m.get m {}
      let v := x.read rs
      (x.writeM m (match field.val with
        | 0 => { g with base := v }
        | 1 => { g with len := v }
        | 2 => { g with step := v }
        | 3 => { g with idx := v }
        | _ => { g with mode := v.toNat % 4 })).past 4)) ∧
  (∀ (s : State) (e : Fin 96) (m : Fin 8) (rs : Fin 32), s.issues e → (s.dev.gr e rs).toNat % 4 = 3 →
    Raises (.agset e m 4 rs) s e 4 m 0) ∧
  (∀ (s : State) (e : Fin 96) (rd : Fin 32) (m : Fin 8) (field : Fin 5), s.issues e →
    EngineStep (.agget e rd m field) s e (fun x =>
      let g := x.m.get m {}
      (x.write rd ([g.base, g.len, g.step, g.idx, BitVec.ofNat 32 g.mode].getD field 0)).past 4)) ∧
  (∀ (s : State) (e : Fin 96) (m : Fin 8) (imm : BitVec 13), s.issues e → (s.dev.gen e m).mode ≠ 2 →
    EngineStep (.agadd e m imm) s e (fun x => (x.writeM m ((x.m.get m {}).advance imm.toInt)).past 4)) ∧
  (∀ (s : State) (e : Fin 96) (m : Fin 8) (imm : BitVec 13), s.issues e → (s.dev.gen e m).mode = 2 →
    Raises (.agadd e m imm) s e 4 m 0)

/-- The post-update of a valid generator: linear, the index steps; modulo, it wraps within the length; bit-reversed, it steps through the
indices in bit-reversed order; base, length, step and mode stay, and a modulo or bit-reversed generator stays valid (R226, R227). -/
def Obligations.GeneratorUpdate : Prop :=
  ∀ x : Gen, x.valid = true →
    x.next.base = x.base ∧ x.next.len = x.len ∧ x.next.step = x.step ∧ x.next.mode = x.mode ∧ x.next.valid = true ∧
    (x.mode = 0 → x.next.idx = x.idx + x.step) ∧
    (x.mode = 1 → (x.next.idx.toNat : Int) = ((x.idx.toNat : Int) + x.step.toInt) % x.len.toNat) ∧
    (x.mode = 2 → ∃ k j, x.len.toNat = x.step.toNat * 2 ^ k ∧ j < 2 ^ k ∧ x.idx.toNat = x.step.toNat * revLow k j ∧
      x.next.idx.toNat = x.step.toNat * revLow k ((j + 1) % 2 ^ k))

/-! ### Engines: control, exceptions, system registers -/

/-- Control transfers: a branch whose condition holds or does not, calls, the decrement and branch (R225, R244, R247); a target that faults
raises cause 1 with the target and writes nothing (R236, R239). -/
def Obligations.ControlTransfers : Prop :=
  (∀ (s : State) (e : Fin 96) (short : Bool) (cond : Fin 16) (disp : BitVec 21) (t : Int), s.issues e →
    Fl.holds (s.dev.flags e) cond = true → t = (s.dev.engOf e).pc + 2 * disp.toInt → s.dev.targetBad e t = false →
    EngineStep (.bCond e short cond disp) s e (fun x => { x with pc := t.toNat })) ∧
  (∀ (s : State) (e : Fin 96) (short : Bool) (cond : Fin 16) (disp : BitVec 21), s.issues e →
    Fl.holds (s.dev.flags e) cond = false → EngineStep (.bCond e short cond disp) s e (fun x => x.past (formLen short))) ∧
  (∀ (s : State) (e : Fin 96) (rd : Fin 32) (disp : BitVec 20) (t : Int), s.issues e →
    t = (s.dev.engOf e).pc + 2 * disp.toInt → s.dev.targetBad e t = false →
    EngineStep (.call e rd disp) s e (fun x => { x.write rd (BitVec.ofNat 32 ((x.pc + 4) % 65536)) with pc := t.toNat })) ∧
  (∀ (s : State) (e : Fin 96) (short : Bool) (rd rs : Fin 32) (imm : BitVec 15) (t : Nat), s.issues e →
    t = (s.dev.gr e rs + imm.signExtend 32).toNat → s.dev.targetBad e t = false →
    EngineStep (.callr e short rd rs imm) s e (fun x =>
      { x.write rd (BitVec.ofNat 32 ((x.pc + formLen short) % 65536)) with pc := t })) ∧
  (∀ (s : State) (e : Fin 96) (rs : Fin 32) (t : Nat), s.issues e → t = (s.dev.gr e rs).toNat → s.dev.targetBad e t = false →
    EngineStep (.jr e rs) s e (fun x => { x with pc := t })) ∧
  (∀ (s : State) (e : Fin 96) (rd : Fin 32) (disp : BitVec 20) (t : Int), s.issues e → rd ≠ 0 → s.dev.gr e rd ≠ 1 →
    t = (s.dev.engOf e).pc + 2 * disp.toInt → s.dev.targetBad e t = false →
    EngineStep (.dbnz e rd disp) s e (fun x => { x.write rd (x.read rd - 1) with pc := t.toNat })) ∧
  (∀ (s : State) (e : Fin 96) (rd : Fin 32) (disp : BitVec 20), s.issues e → (rd = 0 ∨ s.dev.gr e rd = 1) →
    EngineStep (.dbnz e rd disp) s e (fun x => (x.write rd 0).past 4)) ∧
  (∀ (s : State) (e : Fin 96) (rd : Fin 32) (disp : BitVec 20) (t : Int), s.issues e → t = (s.dev.engOf e).pc + 2 * disp.toInt →
    s.dev.targetBad e t = true → Raises (.call e rd disp) s e 1 (t % 2 ^ 32).toNat 0)

/-- Taking an exception and returning from it: trap #0 to #239 enters the handler with EPC past the trap (R256 to R258), an asynchronous cause
is taken at a boundary (R257, R260), eret returns (R259), at user level it is a privilege exception (R244), and so are what is no instruction
(R232, R257) and its kind. An exception raised while ESTAT.hnd is 1 halts the engine: the four registers of the first exception stay, ECAUSE2
holds the second cause and the low 16 bits of the faulting address, and the Refuge's interrupt follows (R252, R261). -/
def Obligations.ExceptionsEnterAndReturn : Prop :=
  (∀ (s : State) (e : Fin 96) (n : Fin 240), s.issues e → (s.dev.engOf e).hnd = false →
    EngineStep (.trap e n) s e (fun x => { x with
      plev := x.super, paen := x.aen, aen := false, hnd := true, ecause := 7, earg := n, epc := (x.pc + 4) % 65536, super := true
      pc := x.evb })) ∧
  (∀ (s : State) (e : Fin 96) (w : Word), s.issues e → (s.dev.engOf e).hnd = false →
    s.dev.cleared.execWord e (w.toNat / 4 * 4) (s.dev.engOf e).pc ((s.dev.engOf e).pc + 4) ⟨false, 0, [], []⟩ = none →
    EngineStep (.illegalInstruction e w false) s e (fun x => { x with
      plev := x.super, paen := x.aen, aen := false, hnd := true, ecause := 2, earg := w.toNat, epc := x.pc, super := true
      pc := x.evb })) ∧
  (∀ (s : State) (e : Fin 96) (c : Nat), s.on → s.dev.engRunning e = true → s.dev.takeable e = some c → c ≠ 0x11 →
    EngineStep (.asyncExceptionTake e) s e (fun x => { x with
      plev := x.super, paen := x.aen, aen := false, hnd := true, ecause := c, earg := 0, epc := x.pc, super := true, pc := x.evb })) ∧
  (∀ (s : State) (e : Fin 96) (m : Nat × Nat) (ms : List (Nat × Nat)), s.on → s.dev.engRunning e = true → s.dev.takeable e = some 0x11 →
    (s.dev.engOf e).missed = m :: ms →
    EngineStep (.asyncExceptionTake e) s e (fun x => { x with
      plev := x.super, paen := x.aen, aen := false, hnd := true, ecause := 0x11, earg := m.1 * 256 + m.2, epc := x.pc, super := true
      pc := x.evb })) ∧
  (∀ (s : State) (e : Fin 96), s.issues e → (s.dev.engOf e).super = true → s.dev.targetBad e (s.dev.engOf e).epc = false →
    EngineStep (.eret e) s e (fun x => { x with pc := x.epc, super := x.plev, aen := x.paen, hnd := false })) ∧
  (∀ (s : State) (e : Fin 96), s.issues e → (s.dev.engOf e).super = false → Raises (.eret e) s e 3 0xFFFFFFFF 0) ∧
  (∀ (s : State) (e : Fin 96) (n : Fin 240), s.issues e → (s.dev.engOf e).hnd = true →
    Completes (.trap e n) s (fun d =>
      d.engState e = 4 ∧ d.rd ENG_STATE_reason 0 e = 1 ∧
      (let x := s.dev.engOf e
       let y := d.engOf e
       y.epc = x.epc ∧ y.ecause = x.ecause ∧ y.earg = x.earg ∧ y.aen = x.aen ∧ y.hnd = true ∧ y.paen = x.paen ∧ y.plev = x.plev ∧
         y.ecause2 = 7 + 65536 * (x.pc % 65536)) ∧
      (∀ k, k ≠ e.val → d.engOf k = s.dev.engOf k) ∧ d.mem = s.dev.mem ∧ Out.refugeNote (pgENG e) ∈ d.out))

/-- wfe completes at once where (IPEND AND IMASK) ≠ 0, else the engine waits until that holds; the lowest such cause is then taken, if it
can be under R260, with EPC at the instruction after wfe, where the pc stands while the engine waits; else execution goes on there (R262). -/
def Obligations.WaitForEvent : Prop :=
  (∀ (s : State) (e : Fin 96), s.issues e → s.dev.ipend e &&& (s.dev.engOf e).imask ≠ 0 → EngineStep (.wfe e) s e (fun x => x.past 4)) ∧
  (∀ (s : State) (e : Fin 96), s.issues e → s.dev.ipend e &&& (s.dev.engOf e).imask = 0 →
    Gives (.wfe e) s (fun d => (d.setEngState e 2 0).setPc e ((d.engOf e).pc + 4))) ∧
  (∀ (s : State) (e : Fin 96), s.on → s.dev.engState e = 2 → s.dev.ipend e &&& (s.dev.engOf e).imask = 0 →
    Gives (.engineWake e) s (fun d => d)) ∧
  (∀ (s : State) (e : Fin 96) (k : Nat), s.on → s.dev.engState e = 2 → (s.dev.ipend e &&& (s.dev.engOf e).imask).testBit k = true →
    (∀ j, j < k → (s.dev.ipend e &&& (s.dev.engOf e).imask).testBit j = false) → (s.dev.engOf e).aen = true → (s.dev.engOf e).hnd = false →
    Gives (.engineWake e) s (fun d => (d.setEngState e 1 0).takeException e (0x10 + k)
      (if k = 1 then (match (d.engOf e).missed with | [] => 0 | m :: _ => m.1 * 256 + m.2) else 0) 0 (d.engOf e).pc)) ∧
  (∀ (s : State) (e : Fin 96), s.on → s.dev.engState e = 2 → s.dev.ipend e &&& (s.dev.engOf e).imask ≠ 0 →
    ((s.dev.engOf e).aen = false ∨ (s.dev.engOf e).hnd = true) → Gives (.engineWake e) s (fun d => d.setEngState e 1 0))

/-- System registers: what a permitted mfs and mts read and write, and where they raise cause 2 or 3 (R248, R277); RELTASK, RELDONE, EVCLR,
QRDY and WDKICK (R269, R272 to R274). -/
def Obligations.SystemRegisters : Prop :=
  (∀ (s : State) (e : Fin 96) (rd : Fin 32) (p : Fin 1024 × (Eng → Nat)), s.issues e →
    (p.1.val < 0x10 ∨ (s.dev.engOf e).super = true) →
    p.1 ∈ [0x000, 0x002, 0x004, 0x006, 0x010, 0x011, 0x012, 0x013, 0x014, 0x015, 0x016, 0x017, 0x01C] →
    p.2 = (match p.1.val with
      | 0x000 => fun x => x.fl.toNat
      | 0x002 => fun x => x.attr
      | 0x004 => fun x => x.tickHi
      | 0x006 => fun x => x.cycHi
      | 0x010 => fun x => x.evb
      | 0x011 => fun x => x.ecause
      | 0x012 => fun x => x.epc
      | 0x013 => fun x => b2n x.aen + 2 * b2n x.hnd + 4 * b2n x.paen + 8 * b2n x.plev
      | 0x014 => fun x => x.earg
      | 0x015 => fun x => x.ecause2
      | 0x016 => fun x => x.escr.toNat
      | 0x017 => fun x => x.imask
      | _ => fun x => x.evmask) →
    EngineStep (.mfs e rd p.1) s e (fun x => (x.write rd (BitVec.ofNat 32 (p.2 x))).past 4)) ∧
  (∀ (s : State) (e : Fin 96) (rd : Fin 32), s.issues e →
    EngineStep (.mfs e rd 0x003) s e (fun x =>
      ({ x with tickHi := s.dev.tickTai / 2 ^ 32 }.write rd (BitVec.ofNat 32 s.dev.tickTai)).past 4)) ∧
  (∀ (s : State) (e : Fin 96) (rd : Fin 32) (sr : Fin 1024), s.issues e → knownSr sr = false →
    Raises (.mfs e rd sr) s e 2 (15 * 2 ^ 27 + rd * 2 ^ 22 + sr * 2 ^ 7 + 3 * 4) 0) ∧
  (∀ (s : State) (e : Fin 96) (rd : Fin 32) (sr : Fin 1024), s.issues e → knownSr sr = true → 0x10 ≤ sr.val →
    (s.dev.engOf e).super = false → Raises (.mfs e rd sr) s e 3 sr 0) ∧
  (∀ (s : State) (e : Fin 96) (rs : Fin 32), s.issues e →
    EngineStep (.mts e 0x000 rs) s e (fun x => { x with fl := (x.read rs).setWidth 5 }.past 4)) ∧
  (∀ (s : State) (e : Fin 96) (rs : Fin 32), s.issues e → (s.dev.engOf e).super = true →
    EngineStep (.mts e 0x010 rs) s e (fun x => { x with evb := (x.read rs).toNat / 4 * 4 % 65536 }.past 4) ∧
    EngineStep (.mts e 0x012 rs) s e (fun x => { x with epc := (x.read rs).toNat / 2 * 2 % 65536 }.past 4) ∧
    EngineStep (.mts e 0x013 rs) s e (fun x =>
      let v := x.read rs
      { x with aen := v.getLsbD 0, hnd := v.getLsbD 1, paen := v.getLsbD 2, plev := v.getLsbD 3 }.past 4) ∧
    EngineStep (.mts e 0x016 rs) s e (fun x => { x with escr := x.read rs }.past 4) ∧
    EngineStep (.mts e 0x017 rs) s e (fun x => { x with imask := (x.read rs).toNat % 32 }.past 4) ∧
    EngineStep (.mts e 0x01C rs) s e (fun x => { x with evmask := (x.read rs).toNat }.past 4)) ∧
  (∀ (s : State) (e : Fin 96) (sr : Fin 1024) (rs : Fin 32), s.issues e → knownSr sr = true →
    (readOnlySr sr = true ∨ 0x10 ≤ sr.val ∧ (s.dev.engOf e).super = false) → Raises (.mts e sr rs) s e 3 sr 0) ∧
  (∀ (s : State) (e : Fin 96) (rd : Fin 32) (h : RelItem) (t : List RelItem), s.issues e → (s.dev.engOf e).super = true →
    (s.dev.engOf e).relq = h :: t →
    EngineStep (.reltaskRead e rd) s e (fun x => ({ x with relq := t }.write rd
      (BitVec.ofNat 32 (2 ^ 31 + b2n h.late * 2 ^ 30 + min 255 h.ovr * 2 ^ 16 + h.entry * 256 + h.tag))).past 4)) ∧
  (∀ (s : State) (e : Fin 96) (rs : Fin 32) (k : Nat) (run : Running), s.issues e → (s.dev.engOf e).super = true →
    k = relKey (engClu e) ((s.dev.gr e rs).toNat % 64) → (s.dev.relOf k).run = some run → run.engine = e.val →
    Gives (.reldoneWrite e rs) s (fun d =>
      let d' := if run.missed = false ∧ run.deadline ≤ d.tickTai then d.relMiss k run else d
      let d' := d'.setRel k { d'.relOf k with run := none }
      let x := d'.engOf e
      (d'.setEng e { x with missed := x.missed.filter (fun m => m.1 != (d.gr e rs).toNat % 64) }).setPc e (x.pc + 4))) ∧
  (∀ (s : State) (e : Fin 96) (rs : Fin 32), s.issues e → (s.dev.engOf e).super = true →
    (∀ run, (s.dev.relOf (relKey (engClu e) ((s.dev.gr e rs).toNat % 64))).run = some run → run.engine ≠ e.val) →
    Gives (.reldoneWrite e rs) s (fun d => (d.bump CLU_DL_bad_done 1 0 (engClu e)).setPc e ((d.engOf e).pc + 4))) ∧
  (∀ (s : State) (e : Fin 96) (rs : Fin 32) (p v : Nat), s.issues e → (s.dev.engOf e).super = true →
    p = s.dev.rd CLU_PEND_bits 0 (engClu e) → v = (s.dev.gr e rs).toNat →
    Gives (.evclrWrite e rs) s (fun d => (d.wr CLU_PEND_bits (p - (p &&& v)) 0 (engClu e)).setPc e ((d.engOf e).pc + 4))) ∧
  (∀ (s : State) (e : Fin 96) (rd : Fin 32) (l : List Nat) (ovr : Bool), s.issues e → (s.dev.engOf e).super = true →
    s.dev.qrdy e = (l, ovr) →
    Gives (.qrdyRead e rd) s (fun d =>
      ((d.setQrdy e (l.drop 1, false)).setGr e rd (BitVec.ofNat 32 (b2n (!l.isEmpty) * 2 ^ 31 + b2n ovr * 2 ^ 30 + l.headD 0))).setPc e
        ((d.engOf e).pc + 4))) ∧
  (∀ (s : State) (e : Fin 96) (rs : Fin 32), s.issues e → (s.dev.engOf e).super = true →
    EngineStep (.wdkickWrite e rs) s e (fun x => { x with wdPend := false, wdAcc := 0 }.past 4))

/-- What stands at an engine's pc issues: on a compact page one instruction of 32 or of 16 bits, on a wide page a group (R232 to R236); an
atomic operation that another engine issues in the same CCLK comes before or after it in the order of R25 (R231). -/
def Obligations.IssueCompletes : Prop :=
  (∀ (s : State) (e : Fin 96) (v : MemEnv) (pc : Nat) (fx : Fx), s.issues e → pc = (s.dev.engOf e).pc → s.dev.initStatus 0 = .ok →
    s.dev.widePage e pc = false → (∀ x ∈ v.atomics, x.e = e) →
    s.dev.codeBad e pc 4 = none → s.dev.codeHalf e pc % 4 = 0 → s.dev.widePage e (pc + 2) = false →
    s.dev.cleared.execWord e (s.dev.codeWord e pc) pc ((pc + 4) % 65536) (laterOf v s.rr (.eng e)) = some fx →
    Gives (.issueGroup e v) s (fun _ => Dev.finish e pc (pc + 4) fx)) ∧
  (∀ (s : State) (e : Fin 96) (v : MemEnv) (pc : Nat) (fx : Fx), s.issues e → pc = (s.dev.engOf e).pc → s.dev.initStatus 0 = .ok →
    s.dev.widePage e pc = false → (∀ x ∈ v.atomics, x.e = e) →
    s.dev.codeBad e pc 2 = none → s.dev.codeHalf e pc % 4 ≠ 0 →
    s.dev.cleared.execHalf e (s.dev.codeHalf e pc) pc ((pc + 2) % 65536) (laterOf v s.rr (.eng e)) = some fx →
    Gives (.issueGroup e v) s (fun _ => Dev.finish e pc (pc + 2) fx)) ∧
  (∀ (s : State) (e : Fin 96) (v : MemEnv) (pc : Nat) (as : List Nat), s.issues e → pc = (s.dev.engOf e).pc → s.dev.initStatus 0 = .ok →
    s.dev.widePage e pc = true → as = s.dev.groupAddrs e pc → s.dev.codeBad e pc (4 * as.length) = none →
    groupBad (as.map (s.dev.codeWord e)) = false → (∀ x ∈ v.atomics, x.e = e) →
    Gives (.issueGroup e v) s (fun d => Dev.runGroup e (laterOf v s.rr (.eng e)) as d)) ∧
  (∀ (s : State) (e : Fin 96) (v : MemEnv) (x : GroupRival), s.on → v.atomics = [x] → x.e ≠ e →
    rank s.rr (.eng x.e) < rank s.rr (.eng e) →
    Gives (.issueGroup e v) s (fun d => (d.atomics s.rr [Machine.GroupRival.atomic x]).issueNext e (laterOf v s.rr (.eng e)))) ∧
  (∀ (s : State) (e : Fin 96) (v : MemEnv) (x : GroupRival), s.on → v.atomics = [x] → x.e ≠ e →
    rank s.rr (.eng e) < rank s.rr (.eng x.e) →
    Gives (.issueGroup e v) s (fun d => (d.issueNext e (laterOf v s.rr (.eng e))).atomics s.rr [Machine.GroupRival.atomic x]))

/-- A word of the R format that stands at the pc of an engine on a compact page issues as the row of its fn code says: the encodings of
R233 and R241. -/
def Obligations.IssuedWords : Prop :=
  ∀ (s : State) (e : Fin 96) (v : MemEnv) (rd rs rt : Fin 32) (p : Nat × Instr), s.issues e → s.dev.initStatus 0 = .ok →
    (∀ x ∈ v.atomics, x.e = e) →
    p ∈ [(0, .add e false rd rs rt), (1, .sub e false rd rs rt), (2, .addc e rd rs rt), (3, .subc e rd rs rt), (4, .adds e rd rs rt),
      (5, .subs e rd rs rt), (6, .and e false rd rs rt), (7, .or e false rd rs rt), (8, .xor e false rd rs rt), (9, .andn e rd rs rt),
      (10, .sll e false rd rs rt), (11, .srl e false rd rs rt), (12, .sra e false rd rs rt), (16, .mul e rd rs rt), (17, .mulh e rd rs rt),
      (18, .mulhu e rd rs rt), (19, .min e rd rs rt), (20, .max e rd rs rt)] →
    s.dev.codeWord e (s.dev.engOf e).pc ≠ 0 → s.dev.widePage e (s.dev.engOf e).pc = false → s.dev.widePage e ((s.dev.engOf e).pc + 2) = false →
    s.dev.codeBad e (s.dev.engOf e).pc 4 = none →
    s.dev.codeWord e (s.dev.engOf e).pc = rd.val * 2 ^ 22 + rs.val * 2 ^ 17 + rt.val * 2 ^ 12 + p.1 * 4 →
    exec (.issueGroup e v) s = exec p.2 s

/-! ### Engines: their register page, releases, gates -/

/-- ENG_RUN, ENG_WORLD and the watchdog: start of a stopped and of a frozen engine (R253, R254), stop (R255), freeze (R252), a new world and the
end of its clear (R249), the first and the second expiry (R273); that a second expiry in a gate call only counts is the model's reading (log
entry 331). -/
def Obligations.EngineControlCompletes : Prop :=
  (∀ (s : State) (r : Req) (e : Fin 96), s.accepts r (pgENG e) 0x044 → s.dev.engState e = 0 → s.dev.engWorld e ≠ 0 →
    s.dev.flag STATUS_busy 0 (pgENG e) = false →
    Effects (.engRunStart r e) s (pgENG e) (fun d =>
      ((d.setEng e { super := true, hnd := true, attr := (d.engOf e).attr, cycFrom := d.cclk }).setQrdy e ([], false)).setEngState e 1 0)) ∧
  (∀ (s : State) (r : Req) (e : Fin 96), s.accepts r (pgENG e) 0x044 → s.dev.engState e = 5 → s.dev.rd ENG_STATE_reason 0 e = 3 →
    (s.dev.engOf e).thaw ≠ 3 →
    Effects (.engRunStart r e) s (pgENG e) (fun d =>
      (d.setEng e { d.engOf e with wdAcc := 0, thaw := 0, gate := none }).setEngState e (d.engOf e).thaw 0)) ∧
  (∀ (s : State) (r : Req) (e : Fin 96), s.accepts r (pgENG e) 0x044 → s.dev.engState e = 5 → s.dev.rd ENG_STATE_reason 0 e = 3 →
    (s.dev.engOf e).thaw = 3 →
    Effects (.engRunStart r e) s (pgENG e) (fun d =>
      ((d.setEng e { d.engOf e with wdAcc := 0, thaw := 0, gate := none }).setGr e 2 (BitVec.ofNat 32 Status.aborted.code)).setEngState e 1 0)) ∧
  (∀ (s : State) (r : Req) (e : Fin 96), s.accepts r (pgENG e) 0x044 →
    Effects (.engRunStop r e) s (pgENG e) (fun d =>
      (((d.setEng e { d.engOf e with gate := none }).setEngState e 0 0).endTags (16 * e) 16).lockFreeAll (0x10 + e))) ∧
  (∀ (s : State) (r : Req) (e : Fin 96), s.accepts r (pgENG e) 0x044 → s.dev.engState e ≠ 0 → s.dev.engState e ≠ 5 →
    Effects (.engRunFreeze r e) s (pgENG e) (fun d =>
      ((d.setEng e { d.engOf e with thaw := d.engState e, gate := none }).setEngState e 5 3).wr ENG_PC_pc (d.engOf e).pc 0 e)) ∧
  (∀ (s : State) (r : Req) (e : Fin 96), s.accepts r (pgENG e) 0x044 → (s.dev.engState e = 0 ∨ s.dev.engState e = 5) →
    Effects (.engRunFreeze r e) s (pgENG e) (fun d => d)) ∧
  (∀ (s : State) (r : Req) (e : Fin 96) (v : BitVec 2), s.accepts r (pgENG e) 0x040 → s.dev.engState e = 0 → v ≠ 3 →
    Effects (.engWorldWrite r e v) s (pgENG e) (fun d =>
      let lo := engBase e
      let d := (d.plainWrite (pgENG e) 0x040 v.toNat).2
      { d with mem := memForget d.mem lo (lo + 0x40000)
               bad := d.bad.drop (fun a => decide (lo ≤ a) && decide (a < lo + 0x40000)) }.wr STATUS_busy 1 0 (pgENG e))) ∧
  (∀ (s : State) (e : Fin 96), s.on → Gives (.engMemoryClearComplete e) s (fun d => d.wr STATUS_busy 0 0 (pgENG e))) ∧
  (∀ (s : State) (e : Fin 96), s.on → s.dev.flag ENG_WDT_en 0 e = true →
    (s.dev.engState e = 1 ∨ s.dev.engState e = 2 ∨ s.dev.engState e = 3) → s.dev.wdPeriod e ≤ (s.dev.engOf e).wdAcc →
    ((s.dev.engOf e).wdPend = false ∨ s.dev.engState e = 3) →
    EngineStep (.watchdogExpiry e) s e (fun x => { x with wdAcc := x.wdAcc - s.dev.wdPeriod e, wdPend := true })) ∧
  (∀ (s : State) (e : Fin 96), s.on → s.dev.flag ENG_WDT_en 0 e = true → (s.dev.engState e = 1 ∨ s.dev.engState e = 2) →
    s.dev.wdPeriod e ≤ (s.dev.engOf e).wdAcc → (s.dev.engOf e).wdPend = true →
    Gives (.watchdogExpiry e) s (fun d =>
      let x := d.engOf e
      let d := d.setEng e { x with wdAcc := x.wdAcc - d.wdPeriod e, wdPend := true }
      ((d.halt e 2 x.pc).engRec e 0x8003 5 e x.pc).emit (.refugeNote (pgENG e))))

/-- The release table: commit, invalidation and reading of an entry (R266), and a deadline that passes (R271). A gate call sends n and g4 to g7
to the Refuge; the engine resumes past its trap with the status in g2 and the result in g3 (R263, R264, R362). Gate calls of one CCLK are answered in the order of R25 (R25, R263). -/
def Obligations.ReleasesAndGatesComplete : Prop :=
  (∀ (s : State) (r : Req) (c : Fin 12) (k : Nat) (l : List Nat), s.accepts r (pgCLU c) 0x044 → k = s.dev.relSel r c →
    l = s.dev.relStaged r c → s.dev.relForeign r c ((relOfWords l).engine c) = false → (relOfWords l).bad = false →
    ((s.dev.relOf k).valid = true → s.dev.relForeign r c ((s.dev.relOf k).engine c) = false) →
    ((relOfWords l).valid = true → (relOfWords l).kind = 2 → ∀ p ∈ s.dev.rel, p.1 ≠ k → p.1 / 64 = c.val →
      p.2.coming.valid = true → p.2.coming.kind = 2 → p.2.coming.evBit ≠ (relOfWords l).evBit) →
    Effects (.relEntryCommit r c) s (pgCLU c) (fun d => d.setRel k { d.relOf k with next := some l })) ∧
  (∀ (s : State) (r : Req) (c : Fin 12) (k : Nat), s.accepts r (pgCLU c) 0x044 → k = s.dev.relSel r c →
    ((s.dev.relOf k).valid = true → s.dev.relForeign r c ((s.dev.relOf k).engine c) = false) →
    Effects (.relEntryInvalidate r c) s (pgCLU c) (fun d =>
      d.setRel k { d.relOf k with w0 := setBits (d.relOf k).w0 31 31 0, next := none })) ∧
  (∀ (s : State) (r : Req) (c : Fin 12) (x : RelEntry), s.accepts r (pgCLU c) 0x044 → x = s.dev.relOf (s.dev.relSel r c) →
    Effects (.relEntryRead r c) s (pgCLU c) (fun d =>
      ((((d.wrOwn (reqId r) CLU_REL_Wk_word x.w0 0 c).wrOwn (reqId r) CLU_REL_Wk_word x.w1 1 c).wrOwn (reqId r) CLU_REL_Wk_word x.w2 2 c).wrOwn
        (reqId r) CLU_REL_Wk_word x.w3 3 c).wrOwn (reqId r) CLU_REL_Wk_word x.w4 4 c)) ∧
  (∀ (s : State) (c : Fin 12) (i : Fin 64) (k : Nat) (run : Running), s.on → k = 64 * c + i → (s.dev.relOf k).run = some run →
    run.missed = false → run.deadline ≤ s.dev.tickTai →
    Gives (.deadlineExpiry c i) s (fun d =>
      let d := d.setRel k { d.relOf k with run := some { run with missed := true } }
      let d := (d.bump CLU_DL_misses 1 0 c).raise (106 + c) (run.engine + i * 256)
      let d := d.engRec run.engine 0x8012 5 (run.engine + i * 256) ((d.tickTai - run.deadline) / 50)
      if run.irq then d.setEng run.engine { d.engOf run.engine with missed := (d.engOf run.engine).missed ++ [(i.val, run.tag)] } else d)) ∧
  (∀ (s : State) (e : Fin 96) (nx : Nat), s.issues e → nx = ((s.dev.engOf e).pc + 4) % 65536 →
    Gives (.gateInfo e []) s (fun d =>
      ((d.gateCall e 240 nx).setPc e nx).gateAnswer e .ok (some (BitVec.ofNat 32 (d.lcc + d.rfg.fwVersion % 256 * 256))))) ∧
  (∀ (s : State) (e : Fin 96) (nx : Nat), s.issues e → nx = ((s.dev.engOf e).pc + 4) % 65536 → 0x9000 ≤ (s.dev.gr e 4).toNat % 65536 →
    (s.dev.gr e 4).toNat % 65536 ≤ 0x9FFF → (s.dev.gr e 5).toNat % 8 ≤ (if (s.dev.engOf e).super then 6 else 4) →
    Gives (.gateRecord e []) s (fun d =>
      let d := (d.gateCall e 241 nx).setPc e nx
      (d.direct pgRFG (d.mkRec ((d.gr e 4).toNat % 65536) ((d.gr e 5).toNat % 8) 2 (d.engSrc e)
        ⟨(d.gr e 6).toNat, (d.gr e 7).toNat, nx⟩)).gateAnswer e .ok (some 0))) ∧
  (∀ (s : State) (e : Fin 96) (nx : Nat), s.issues e → nx = ((s.dev.engOf e).pc + 4) % 65536 → s.dev.flag TRN_STAT_drbg_ready = true →
    Gives (.gateRandom e []) s (fun d =>
      let x := ((d.gateCall e 242 nx).setPc e nx).drbg
      x.2.gateAnswer e .ok (some (BitVec.ofNat 32 x.1)))) ∧
  (∀ (s : State) (e : Fin 96) (nx : Nat), s.issues e → nx = ((s.dev.engOf e).pc + 4) % 65536 → (s.dev.engOf e).super = true →
    s.dev.dumpRefusal = .ok →
    Gives (.gateDump e []) s (fun d =>
      let d := (d.gateCall e 243 nx).setPc e nx
      ({ d.engFreeze e 4 with rfg := { d.rfg with dumps := d.rfg.dumps ++
        [{ engine := e, trigger := 0, reason := (d.gr e 4).toNat, card := (d.gr e 5).getLsbD 0, at_ := d.taiNs, since := 0 }] } } : Dev).wr
          EVR_DUMP_STAT_busy 1)) ∧
  (∀ (s : State) (e : Fin 96) (nx t : Nat), s.issues e → nx = ((s.dev.engOf e).pc + 4) % 65536 → (s.dev.engOf e).super = true →
    t = (s.dev.gr e 4).toNat → t < 96 → t ≠ e.val → s.dev.engWorld t = s.dev.engWorld e → s.dev.engWorld t ≠ 0 →
    s.dev.flag STATUS_busy 0 (pgENG t) = false →
    Gives (.gateRestart e []) s (fun d =>
      let d := ((d.gateCall e 244 nx).setPc e nx).engStop t
      ((d.engFresh t).setEngState t 1 0).gateAnswer e .ok (some 0))) ∧
  (∀ (s : State) (e : Fin 96) (nx : Nat), s.issues e → nx = ((s.dev.engOf e).pc + 4) % 65536 → s.dev.lcc ≠ 0 →
    s.dev.rfg.services.length < 16 →
    Gives (.gateAttest e []) s (fun d =>
      let d := (d.gateCall e 245 nx).setPc e nx
      let v : Service := { gate := 245, engine := e, g4 := (d.gr e 4).toNat, g5 := (d.gr e 5).toNat, g6 := (d.gr e 6).toNat
                           queue := (d.gr e 7).toNat % 2 ^ 14, seq := (d.gr e 7).toNat / 2 ^ 16 }
      ({ d with rfg := { d.rfg with services := d.rfg.services ++ [v] } }).gateAnswer e .ok none)) ∧
  (∀ (s : State) (e : Fin 96) (nx : Nat), s.issues e → nx = ((s.dev.engOf e).pc + 4) % 65536 → (s.dev.engOf e).super = true →
    s.dev.rfg.services.length < 16 →
    Gives (.gateSign e []) s (fun d =>
      let d := (d.gateCall e 248 nx).setPc e nx
      let v : Service := { gate := 248, engine := e, g4 := (d.gr e 4).toNat, g5 := (d.gr e 5).toNat, g6 := (d.gr e 6).toNat
                           queue := (d.gr e 7).toNat % 2 ^ 14, seq := (d.gr e 7).toNat / 2 ^ 16 }
      ({ d with rfg := { d.rfg with services := d.rfg.services ++ [v] } }).gateAnswer e .ok none)) ∧
  (∀ (s : State) (e : Fin 96) (nx : Nat), s.issues e → nx = ((s.dev.engOf e).pc + 4) % 65536 → (s.dev.engOf e).super = true →
    s.dev.engWorld e = 1 → s.dev.rfg.services.length < 16 →
    Gives (.gateCommand e []) s (fun d =>
      let d := (d.gateCall e 250 nx).setPc e nx
      let v : Service := { gate := 250, engine := e, g4 := (d.gr e 4).toNat, g5 := (d.gr e 5).toNat, g6 := (d.gr e 6).toNat
                           queue := (d.gr e 7).toNat % 2 ^ 14, seq := (d.gr e 7).toNat / 2 ^ 16 }
      ({ d with rfg := { d.rfg with services := d.rfg.services ++ [v] } }).gateAnswer e .ok none)) ∧
  (∀ (s : State) (e : Fin 96) (nx : Nat) (g : Gate), s.issues e → nx = ((s.dev.engOf e).pc + 4) % 65536 → (s.dev.engOf e).super = true →
    g = { n := 246, g4 := s.dev.gr e 4, g5 := s.dev.gr e 5, g6 := s.dev.gr e 6, g7 := s.dev.gr e 7, at_ := s.dev.cclk, epc := nx } →
    (((s.dev.cleared.gateCall e 246 nx).setPc e nx).gateKeyInstall e g).1 = .ok →
    Gives (.gateKeyInstall e []) s (fun d =>
      let x := ((d.gateCall e 246 nx).setPc e nx).gateKeyInstall e g
      x.2.2.gateAnswer e .ok (some 0))) ∧
  (∀ (s : State) (e : Fin 96) (nx slot : Nat), s.issues e → nx = ((s.dev.engOf e).pc + 4) % 65536 → (s.dev.engOf e).super = true →
    slot = (s.dev.gr e 4).toNat → 16 ≤ slot → slot < 256 →
    (s.dev.slotOf slot).attr.testBit (if s.dev.engWorld e = 1 then 13 else 14) = true →
    Gives (.gateKeyErase e []) s (fun d =>
      let d := (d.gateCall e 247 nx).setPc e nx
      ({ d.setSlot slot {} with rfg := { d.rfg with copies := d.rfg.copies.filter (fun c => c.1 != slot) } }).gateAnswer e .ok (some 0))) ∧
  (∀ (s : State) (e : Fin 96) (nx v : Nat), s.issues e → nx = ((s.dev.engOf e).pc + 4) % 65536 → (s.dev.engOf e).super = true →
    s.dev.engWorld e = 1 → s.dev.rd RFG_STAGE_stage = 4 → v = (s.dev.gr e 4).toNat → v = s.dev.secver + 1 → v ≤ 255 →
    v ≤ s.dev.rfg.fwVersion →
    Gives (.gateSecverAdvance e []) s (fun d =>
      let d := (d.gateCall e 249 nx).setPc e nx
      ((d.wr LCC_COUNT_secver v).refugeRec 0xC011 7 v 0).gateAnswer e .ok (some (BitVec.ofNat 32 v)))) ∧
  (∀ (s : State) (e : Fin 96) (nx v : Nat), s.issues e → nx = ((s.dev.engOf e).pc + 4) % 65536 → (s.dev.engOf e).super = true →
    s.dev.engWorld e = 1 → s.dev.rd RFG_STAGE_stage = 4 → v = (s.dev.gr e 4).toNat → s.dev.secver + 1 < v → v ≤ 255 →
    v ≤ s.dev.rfg.fwVersion →
    Gives (.gateSecverAdvance e []) s (fun d => ((d.gateCall e 249 nx).setPc e nx).wr LCC_COUNT_secver (d.secver + 1))) ∧
  (∀ (s : State) (e : Fin 96) (nx : Nat), s.issues e → nx = ((s.dev.engOf e).pc + 4) % 65536 →
    Gives (.gateDebugStatus e []) s (fun d =>
      ((d.gateCall e 251 nx).setPc e nx).gateAnswer e .ok (some (BitVec.ofNat 32 d.dbgPerms)))) ∧
  (∀ (s : State) (e : Fin 96) (j : Fin 4) (nx : Nat), s.issues e → nx = ((s.dev.engOf e).pc + 4) % 65536 →
    Gives (.gateReserved e j []) s (fun d => ((d.gateCall e (252 + j) nx).setPc e nx).gateAnswer e .badParam none)) ∧
  (∀ (s : State) (e : Fin 96) (g : Gate), s.on → s.dev.gateOf e = some g → g.n = 251 →
    Gives (.gateAnswer e []) s (fun d => d.gateAnswer e .ok (some (BitVec.ofNat 32 d.dbgPerms)))) ∧
  (∀ (s : State) (e k : Fin 96), s.on → rank s.rr (.eng e) < rank s.rr (.eng k) →
    Gives (.gateAnswer e [k]) s (fun d => (d.gateReply e).gateReply k) ∧
    Gives (.gateAnswer k [e]) s (fun d => (d.gateReply e).gateReply k)) ∧
  (∀ (s : State) (e k : Fin 96) (nx : Nat), s.issues e → nx = ((s.dev.engOf e).pc + 4) % 65536 → rank s.rr (.eng k) < rank s.rr (.eng e) →
    Gives (.gateInfo e [k]) s (fun d => (((d.gateCall e 240 nx).setPc e nx).gateReply k).gateReply e)) ∧
  (∀ (s : State) (e : Fin 96) (g : Gate), s.on → s.dev.gateOf e = some g → g.at_ + 10 * cclkPerMs ≤ s.dev.cclk →
    Gives (.gateTimeout e) s (fun d => (d.engRec e 0x8020 4 e g.n).gateAnswer e .timeout none)) ∧
  (∀ (s : State) (j : Nat) (env : CmdEnv) (v : Service), s.on → s.dev.rfg.services[j]? = some v → v.gate = 245 →
    Gives (.refugeServiceComplete j env) s (fun d =>
      let x := ({ d with rfg := { d.rfg with services := d.rfg.services.eraseIdx j } }).serveAttest v
      (x.2.2.serviceItem v x.1 x.2.1).retiredNow)) ∧
  (∀ (s : State) (j : Nat) (env : CmdEnv) (v : Service), s.on → s.dev.rfg.services[j]? = some v → v.gate = 248 →
    Gives (.refugeServiceComplete j env) s (fun d =>
      let x := ({ d with rfg := { d.rfg with services := d.rfg.services.eraseIdx j } }).serveSign v
      (x.2.2.serviceItem v x.1 x.2.1).retiredNow)) ∧
  (∀ (s : State) (j : Nat) (env : CmdEnv) (v : Service), s.on → s.dev.rfg.services[j]? = some v → v.gate = 250 →
    Gives (.refugeServiceComplete j env) s (fun d =>
      let x := ({ d with rfg := { d.rfg with services := d.rfg.services.eraseIdx j } }).serveCommand v env
      (x.2.2.serviceItem v x.1 x.2.1).retiredNow))

/-! ### Memories, the dump, the cipher pipelines, the PKE and HSH -/

/-- Memories and the fatal dump: a scrubbed row with a double-bit error, with a single-bit error, and one that comes again (R295), DRAM's initialisation and temperature (R297), the guarded region (R300), and a dump
without a region, one whose record is written, one that waits for CP7, one that is written, and CP7 taken from its holder (R424). -/
def Obligations.MemoryAndDumpComplete : Prop :=
  (∀ (s : State) (bank row a : Nat), s.on → bank < 192 → row = s.dev.scrubAt.get bank 0 → row < 8192 →
    a = engBase (bank / 2) + bank % 2 * 0x8000 + 4 * row →
    Gives (.scrubRow 0 bank [2] false) s (fun d =>
      let d := { d with scrubAt := d.scrubAt.set bank ((row + 1) % 8192) 0, bad := d.bad.set a 1 0 }
      (d.faultInfo (faultPage 0 a) 1 (bankOf 0 a) .faultDetected 0xFF).raise 64 (faultPage 0 a) (a % 2 ^ 32) 0xFF)) ∧
  (∀ (s : State) (bank row page : Nat), s.on → bank < 0x8000 → row = s.dev.scrubAt.get (4 * 2 ^ 16 + bank) 0 → page = bank % 4096 →
    Gives (.scrubRow 4 bank [2] false) s (fun d =>
      let d := { d with
        scrubAt := d.scrubAt.set (4 * 2 ^ 16 + bank) ((row + 1) % 8192) 0
        bad := d.bad.set (rowKey page (bank / 4096 * 8192 + row)) 1 0 }
      (d.faultInfo page 1 (rowBank (bank / 4096 * 8192 + row)) .faultDetected 0xFF).raise 68 page 0 0xFF)) ∧
  (∀ (s : State) (row : Nat), s.on → row = s.dev.scrubAt.get (5 * 2 ^ 16 + 1) 0 → row < 8192 →
    Gives (.scrubRow 5 1 [2] false) s (fun d =>
      let d := { d with
        scrubAt := d.scrubAt.set (5 * 2 ^ 16 + 1) ((row + 1) % 8192) 0
        bad := d.bad.set (rowKey pgRFG (0x2000 + row)) 1 0 }
      ((d.faultInfo pgRFG 1 1 .faultDetected 0xFF).raise 69 pgRFG 0 0xFF).level 83 true)) ∧
  (∀ (s : State) (row : Nat), s.on → row = s.dev.scrubAt.get (5 * 2 ^ 16 + 2) 0 → row < 8192 →
    Gives (.scrubRow 5 2 [2] false) s (fun d =>
      let d := { d with
        scrubAt := d.scrubAt.set (5 * 2 ^ 16 + 2) ((row + 1) % 8192) 0
        bad := d.bad.set (rowKey pgRFG (0x4000 + row)) 1 0 }
      (d.faultInfo pgRFG 1 2 .faultDetected 0xFF).raise 69 pgRFG 0 0xFF)) ∧
  (∀ (s : State) (bank row a : Nat), s.on → bank < 64 → row = s.dev.scrubAt.get (3 * 2 ^ 16 + bank) 0 → row < 8192 →
    a = 0x10000000 + bank * 0x40000 + 32 * row → (∀ i < 4, s.dev.bad.get (a + 8 * i) 0 = 0) →
    Gives (.scrubRow 3 bank [1, 0, 0, 0] false) s (fun d =>
      ({ d with scrubAt := d.scrubAt.set (3 * 2 ^ 16 + bank) ((row + 1) % 8192) 0 } : Dev).corrected 3 a)) ∧
  (∀ (s : State) (cls : Fin 6) (bank : Nat) (ecc : List (Fin 3)) (hit : Bool), s.on → (hit = true ∨ scrubBanks cls ≤ bank) →
    Gives (.scrubRow cls bank ecc hit) s (fun d => d)) ∧
  (∀ (s : State) (k : Fin 2), s.on → s.dev.flag STATUS_busy 0 (pgDRC + k) = true →
    Gives (.dramInitComplete k true) s (fun d =>
      (((d.wr STATUS_busy 0 0 (pgDRC + k)).wr DRC_STAT_init_done 1 0 k).wr DRC_STAT_trained 1 0 k).wr STATUS_last_status 0 0 (pgDRC + k))) ∧
  (∀ (s : State) (k : Fin 2) (hot : Bool), s.on →
    Gives (.dramTemperatureReport k hot) s (fun d => d.wr DRC_STAT_hot (b2n hot) 0 k)) ∧
  (∀ (s : State) (r : Req) (v : Word) (lo len : Nat), s.accepts r pgMCE 0x040 → s.dev.wlLocked.contains (regKey pgMCE 0x040) = false →
    lo = bitsOf v.toNat 31 16 * 2 ^ 24 → len = 2 ^ (bitsOf v.toNat 3 0 + 3) * 2 ^ 20 → 0 < bitsOf v.toNat 3 0 → bitsOf v.toNat 3 0 < 8 →
    lo % len = 0 → dramBase ≤ lo → lo + len ≤ s.dev.dramEnd →
    Effects (.mceGuardWrite r v) s pgMCE (fun d =>
      let d := (d.plainWrite pgMCE 0x040 v.toNat).2
      { d with mem := memForget d.mem lo (lo + len), bad := d.bad.drop (fun a => decide (lo ≤ a) && decide (a < lo + len))
               lineCtr := [], ctrCache := [], ctrStored := [] })) ∧
  (∀ s : State, s.on → s.dev.guardSize ≠ 0 → Gives .guardInitComplete s (fun d => d.wr MCE_STAT_guard_ready 1)) ∧
  (∀ (s : State) (x : DumpReq) (l : List DumpReq), s.on → s.dev.rfg.dumps = x :: l → s.dev.flag EVR_DUMP_en = false →
    Gives .fatalDump s (fun d =>
      (({ d with rfg := { d.rfg with dumps := l } }).wr EVR_DUMP_STAT_status Status.notReady.code).wr EVR_DUMP_STAT_busy 0)) ∧
  (∀ (s : State) (x : DumpReq) (l : List DumpReq), s.on → s.dev.rfg.dumps = x :: l → s.dev.engState x.engine ≠ 4 → x.written = none →
    s.dev.flag EVR_DUMP_en = true → (s.dev.slotOf 8).type ≠ 0 →
    Gives .fatalDump s (fun d =>
      let r := d.mkRec 0xF020 7 3 0x7E ⟨x.engine + x.trigger * 256, 1, x.reason⟩
      (({ d with rfg := { d.rfg with dumps := { x with written := some r } :: l } }).wr EVR_DUMP_STAT_busy 1).direct pgRFG r)) ∧
  (∀ (s : State) (x : DumpReq) (l : List DumpReq), s.on → s.dev.rfg.dumps = x :: l → s.dev.engState x.engine = 4 → x.written = none →
    s.dev.flag EVR_DUMP_en = true → (s.dev.slotOf 8).type ≠ 0 →
    Gives .fatalDump s (fun d =>
      let d' := d.engFreeze x.engine (d.rd ENG_STATE_reason 0 x.engine)
      let r := d'.mkRec 0xF020 7 3 0x7E ⟨x.engine + x.trigger * 256, 1, x.reason⟩
      (({ d' with rfg := { d'.rfg with dumps := { x with at_ := d.taiNs, written := some r } :: l } }).wr EVR_DUMP_STAT_busy 1).direct
        pgRFG r)) ∧
  (∀ (s : State) (x : DumpReq) (l : List DumpReq), s.on → s.dev.rfg.dumps = x :: l → x.written ≠ none → x.num ≠ none → x.since = 0 →
    s.dev.flag EVR_DUMP_en = true → (s.dev.slotOf 8).type ≠ 0 → s.dev.rd LOCK_owner 0 (pgCPL 7) ≠ 0xFF →
    s.dev.rd LOCK_owner 0 (pgCPL 7) ≠ 0x0E →
    Gives .fatalDump s (fun d => { d with rfg := { d.rfg with dumps := { x with since := d.cclk } :: l } })) ∧
  (∀ (s : State) (x : DumpReq) (l : List DumpReq) (n : Nat), s.on → s.dev.rfg.dumps = x :: l → x.written ≠ none → x.num = some n →
    x.card = false → s.dev.flag EVR_DUMP_en = true → (s.dev.slotOf 8).type ≠ 0 → s.dev.rd LOCK_owner 0 (pgCPL 7) = 0xFF →
    s.dev.flag TRN_STAT_drbg_ready = true →
    Gives .fatalDump s (fun d =>
      let d' := d.lockChange (pgCPL 7) 0x0E
      (({ d' with rfg := { d'.rfg with dumps := l } }).dumpWrite x n).lockChange (pgCPL 7) 0xFF)) ∧
  (∀ (s : State) (x : DumpReq) (l : List DumpReq) (o : Nat), s.on → s.dev.rfg.dumps = x :: l → x.since ≠ 0 →
    x.since + cclkPerMs ≤ s.dev.cclk → o = s.dev.rd LOCK_owner 0 (pgCPL 7) → o ≠ 0xFF →
    Gives .dumpCp7Timeout s (fun d => (d.lockUnmap (pgCPL 7) o).lockChange (pgCPL 7) 0xFF))

/-- A cipher pipeline: key registers and load_key (R312), a job started (R316), aborted and ended (R320), ended by a fault
(R317), and reseeds (R307); what the two shares of a key register and of a key hold together (R306). -/
def Obligations.CipherCompletes : Prop :=
  (∀ (s : State) (r : Req) (p k : Fin 8) (v : Word), s.accepts r (pgCPL p) (0x044 + 4 * k) →
    Effects (.cplKeyWrite r p k v) s (pgCPL p) (fun d =>
      let d := (d.plainWrite (pgCPL p) (0x044 + 4 * k) v.toNat).2
      let d := d.setKeyReg p k v.toNat
      ((d.setCpl p { d.cplOf p with keyA := [], keyB := [], loading := none, chain := none }).wr CPL_STAT_key_ready 0 0 p).wr CPL_STAT_chain_open
        0 0 p)) ∧
  (∀ (d : Dev) (p k v : Nat), k < 8 →
    (d.setKeyReg p k v).keyRegs p = overlay (d.keyRegs p) (4 * k) (leBytes v 4)) ∧
  (∀ (d : Dev) (p : Nat) (key : List Byte), key.length ≤ 128 →
    ((d.setLoading p key).cplOf p).loading.map (fun k => xorBytes k.1 k.2) = some key) ∧
  (∀ (s : State) (r : Req) (p : Fin 8), s.accepts r (pgCPL p) 0x0A4 → s.dev.flag CPL_STAT_seeded 0 p = true →
    s.dev.flag CPL_MODE_ksrc 0 p = false → s.dev.rd CPL_MODE_ksize 0 p ≠ 3 →
    Effects (.cplLoadKey r p false) s (pgCPL p) (fun d =>
      let key := (d.keyRegs p).take (keyBytesOf (d.rd CPL_MODE_ksize 0 p))
      let d := ((d.setCpl p { d.cplOf p with keyA := [], keyB := [], loading := none, chain := none }).wr CPL_STAT_key_ready 0 0 p).wr
        CPL_STAT_chain_open 0 0 p
      d.setLoading p key)) ∧
  (∀ (s : State) (r : Req) (p : Fin 8) (slot : Nat), s.accepts r (pgCPL p) 0x0A4 → s.dev.flag CPL_MODE_ksrc 0 p = true →
    slot = s.dev.rd CPL_MODE_slot 0 p → s.dev.flag CPL_STAT_seeded 0 p = true →
    s.dev.slotPermits slot (s.dev.cplOwner p) (cplUses (s.dev.rd CPL_MODE_mode 0 p) (s.dev.flag CPL_MODE_op 0 p)) = true →
    s.dev.rd CPL_MODE_ksize 0 p ≠ 3 → (s.dev.slotOf slot).aesBytes = keyBytesOf (s.dev.rd CPL_MODE_ksize 0 p) →
    s.dev.slotBad slot = none → s.dev.vaultStatus (s.dev.cplOwner p) = .ok →
    Effects (.cplLoadKey r p false) s (pgCPL p) (fun d =>
      let key := (d.slotOf slot).key
      let d := ((d.setCpl p { d.cplOf p with keyA := [], keyB := [], loading := none, chain := none }).wr CPL_STAT_key_ready 0 0 p).wr
        CPL_STAT_chain_open 0 0 p
      d.setLoading p key)) ∧
  (∀ (s : State) (p : Fin 8) (a b : List Byte), s.on → (s.dev.cplOf p).loading = some (a, b) →
    Gives (.cplKeyReady p) s (fun d =>
      ((d.setCpl p { d.cplOf p with loading := none, keyA := a, keyB := b }).wr CPL_STAT_key_ready 1 0 p).irq (pgCPL p) 1)) ∧
  (∀ (s : State) (r : Req) (p : Fin 8) (first last : Bool) (j : CplJob), s.accepts r (pgCPL p) 0x0A4 → j = s.dev.cplStaged p first last →
    (s.dev.cplOf p).job = none → (j.mode = 0 → j.owner = 0x0E) → s.dev.reach j.owner false j.src j.srcLen = .ok →
    s.dev.reach j.owner true j.dst j.dstLen = .ok → (j.msgs ≠ 0 → s.dev.tableReach j = .ok) →
    j.bad (s.dev.cplOf p).opened = false → s.dev.cleared.cplTableWraps j = false → s.dev.flag CPL_STAT_key_ready 0 p = true → s.dev.flag CPL_STAT_seeded 0 p = true →
    Effects (.cplGo r p first last) s (pgCPL p) (fun d =>
      let chain := if first then none else (d.cplOf p).chain
      ((d.setCpl p { d.cplOf p with job := some j, chain := chain }).wr STATUS_busy 1 0 (pgCPL p)).wr CPL_STAT_chain_open (b2n chain.isSome) 0 p)) ∧
  (∀ (s : State) (r : Req) (p : Fin 8), s.accepts r (pgCPL p) 0x0A4 → (s.dev.cplOf p).job = none →
    Effects (.cplAbort r p) s (pgCPL p) (fun d =>
      (d.setCpl p { d.cplOf p with chain := none }).wr CPL_STAT_chain_open 0 0 p)) ∧
  (∀ (s : State) (r : Req) (p : Fin 8) (j : CplJob), s.accepts r (pgCPL p) 0x0A4 → (s.dev.cplOf p).job = some j → j.mode = 4 →
    EndsJob (.cplAbort r p) s (pgCPL p) (fun d =>
      let d := (d.setCpl p { d.cplOf p with chain := none }).wr CPL_STAT_chain_open 0 0 p
      let d := (d.jobWrite j.owner j.dst (zeros j.dstLen)).2
      (((d.setCpl p { d.cplOf p with job := none }).wr STATUS_busy 0 0 (pgCPL p)).wr STATUS_last_status Status.aborted.code 0 (pgCPL p)).irq
        (pgCPL p) 0)) ∧
  (∀ (s : State) (p : Fin 8) (j : CplJob) (d0 d1 : Dev) (src out : List Byte), s.on → (s.dev.cplOf p).job = some j → j.mode = 3 →
    j.msgs = 0 → j.aad = 0 → j.first = true → j.last = true → j.overlaps = false →
    s.dev.cleared.jobRead j.owner j.src j.srcLen = (.ok, src, d0) →
    out = xorBytes src (ctrStream (d0.cplOf p).key j.iv (ctrBytes j.ctrW) src.length) →
    d0.jobWrite j.owner j.dst out = (.ok, d1) →
    Gives (.cplJobComplete p none) s (fun _ =>
      let d := (d1.wr CPL_STAT_out_len out.length 0 p).setQuad CPL_IVk_bytes p (ctrAdd (ctrBytes j.ctrW) j.iv (ceilDiv src.length 16))
      let d := (d.setCpl p { d.cplOf p with chain := none }).wr CPL_STAT_chain_open 0 0 p
      (((d.setCpl p { d.cplOf p with job := none }).wr STATUS_busy 0 0 (pgCPL p)).wr STATUS_last_status 0 0 (pgCPL p)).irq (pgCPL p) 0)) ∧
  (∀ (s : State) (p : Fin 8) (brk : Option (Fin 8)) (j : CplJob) (d0 : Dev) (st : Status) (src : List Byte), s.on →
    (s.dev.cplOf p).job = some j → (s.dev.cleared.withBreak brk).jobRead j.owner j.src j.srcLen = (st, src, d0) → st ≠ .ok →
    Gives (.cplJobComplete p brk) s (fun _ =>
      let d := (d0.cplSpoil j).cplRec p 0xB006 4 st.code
      let d := (d.setCpl p { d.cplOf p with chain := none }).wr CPL_STAT_chain_open 0 0 p
      (((d.setCpl p { d.cplOf p with job := none }).wr STATUS_busy 0 0 (pgCPL p)).wr STATUS_last_status st.code 0 (pgCPL p)).irq (pgCPL p) 0)) ∧
  (∀ (s : State) (p : Fin 8), s.on → s.dev.flag TRN_STAT_drbg_ready = true →
    Gives (.cplReseed p true) s (fun d =>
      let x := d.drbg
      ((x.2.setCpl p { x.2.cplOf p with gen := x.1 % 2 ^ 256 }).wr CPL_STAT_seeded 1 0 p).wr CPL_RNG_consec 0 0 p)) ∧
  (∀ (s : State) (p : Fin 8), s.on → 1 ≤ s.dev.rd CPL_RNG_consec 0 p → s.dev.rd CPL_RNG_consec 0 p ≠ 15 →
    Gives (.cplReseed p false) s (fun d =>
      (d.wr CPL_RNG_consec (satAdd 0xFFFF (d.rd CPL_RNG_consec 0 p) 1) 0 p).bump CPL_RNG_missed 1 0 p))

/-- The PKE (PKE_CFG and its memory clear R324, the operand window R326, go R327, preemption R334, an arithmetic and a failed job R330, late random
bits R332, abort R335, a finished context read R343) and HSH (R341), with the handover of Keccak core 0 (R336). -/
def Obligations.PublicKeyAndHashComplete : Prop :=
  (∀ (s : State) (r : Req) (v : Word), s.accepts r pgPKE 0x040 → (s.dev.pkeCtx 0).state = 0 → (s.dev.pkeCtx 1).state = 0 →
    s.dev.pke.clearing = false → 4 ≤ bitsOf v.toNat 23 16 → bitsOf v.toNat 23 16 ≤ 128 →
    Effects (.pkeCfgWrite r v) s pgPKE (fun d =>
      let d := (d.plainWrite pgPKE 0x040 v.toNat).2
      ({ d with pke := { d.pke with mem := [], clearing := true, release := [], scratch := [] } }).wr STATUS_busy 1 0 pgPKE)) ∧
  (∀ s : State, s.on → s.dev.pke.clearing = true → s.dev.pkeRunning = none →
    Gives .pkeMemoryClearComplete s (fun d => ({ d with pke := { d.pke with clearing := false } }).wr STATUS_busy 0 0 pgPKE)) ∧
  (∀ (s : State) (r : Req) (v : Word) (i : Nat), s.accepts r pgPKE 0x094 → s.dev.pkeSel = some i → s.dev.pkeSlotBusy false = false →
    s.dev.pke.clearing = false →
    Effects (.pkeOpDataAccess r (some v)) s pgPKE (fun d =>
      ({ d with pke := { d.pke with mem := d.pke.mem.set i v 0 } }).pkeAdvance)) ∧
  (∀ (s : State) (r : Req) (i : Nat), s.acceptsRead r pgPKE 0x094 → s.dev.rd LOCK_owner 0 pgPKE = reqId r → s.dev.pkeSel = some i →
    s.dev.pkeSlotBusy true = false → s.dev.pke.clearing = false →
    Gives (.pkeOpDataAccess r none) s (fun d => d.pkeAdvance.answer .ok (d.pke.mem.get i 0).toNat)) ∧
  (∀ (s : State) (r : Req) (c : PkeCtx), s.accepts r pgPKE 0x080 → c = s.dev.pkeStaged → (s.dev.pkeCtx 0).state = 0 →
    (s.dev.pkeCtx 1).state = 0 → s.dev.pke.clearing = false → s.dev.pkeVaultDenied c = false → s.dev.pkeReachBad c = false →
    c.known = true → s.dev.pkeOperandBad c = false → c.urgent = false → c.addrHigh = false → c.slh = false →
    Effects (.pkeGo r) s pgPKE (fun d =>
      let x := ((d.setPkeCtx 0 { c with state := 1 }).wr PKE_STAT_last_ctx 0).draw .random
      let d := { x.2 with pke := { x.2.pke with scratch := x.2.pke.scratch.set 0 x.1 0 } }
      (d.setPkeCtx 0 { c with state := 2, since := d.cclk, supplied := !c.random || d.flag TRN_STAT_drbg_ready }).wr STATUS_busy 1 0 pgPKE)) ∧
  (∀ (s : State) (r : Req) (k : Fin 4), s.accepts r pgPKE 0x080 → k.val < 2 → s.dev.flag PKE_CFG_yield = true →
    (s.dev.pkeCtx k).state = 1 → (s.dev.pkeCtx k).op ≠ 8 →
    Effects (.pkeAbort r k) s pgPKE (fun d =>
      let d := { d with pke := { d.pke with scratch := d.pke.scratch.set k 0 0 } }
      (((d.setPkeCtx k { state := 4, status := Status.aborted.code, cmd := (d.pkeCtx k).cmd }).wr STATUS_last_status Status.aborted.code 0
        pgPKE).irq pgPKE k).pkeNext k)) ∧
  (∀ (s : State) (r : Req) (k : Fin 4) (c : PkeCtx), s.accepts r pgPKE 0x080 → k.val < 2 → s.dev.flag PKE_CFG_yield = true →
    c = s.dev.pkeCtx k → c.state = 2 → c.op ≠ 8 → (s.dev.pkeCtx (1 - k)).state = 0 →
    EndsJob (.pkeAbort r k) s pgPKE (fun d =>
      let d := { d with pke := { d.pke with scratch := d.pke.scratch.set k 0 0 } }
      ((((d.pkeZeroOut c).setPkeCtx k { state := 4, status := Status.aborted.code, cmd := c.cmd }).wr STATUS_last_status Status.aborted.code 0
        pgPKE).irq pgPKE k).pkeNext k)) ∧
  (∀ (s : State) (r : Req), s.accepts r pgPKE 0x080 → s.dev.flag PKE_CFG_yield = false → (s.dev.pkeCtx 0).state = 2 →
    (s.dev.pkeCtx 1).state = 0 →
    EndsJob (.pkeAbort r 0) s pgPKE (fun d =>
      let d := (((d.setPkeCtx 0 { state := 4, status := Status.aborted.code, cmd := (d.pkeCtx 0).cmd }).wr STATUS_last_status
        Status.aborted.code 0 pgPKE).irq pgPKE 0).pkeNext 0
      ({ d with pke := { d.pke with mem := [], clearing := true, release := [], scratch := [] } }).wr STATUS_busy 1 0 pgPKE)) ∧
  (∀ s : State, s.on → s.dev.flag PKE_CFG_yield = true → (s.dev.pkeCtx 0).state = 2 → (s.dev.pkeCtx 0).urgent = false →
    (s.dev.pkeCtx 1).state = 1 → (s.dev.pkeCtx 1).urgent = true →
    Gives .pkePreempt s (fun d =>
      ((d.setPkeCtx 0 { d.pkeCtx 0 with state := 3 }).bump PKE_STAT_preempt).pkeStart 1)) ∧
  (∀ (s : State) (k : Nat) (c : PkeCtx) (fault : Bool), s.on → s.dev.pkeRunning = some k → c = s.dev.pkeCtx k → c.supplied = true →
    c.earlySt = .ok → c.op = 0x10 →
    Gives (.pkeJobComplete fault none) s (fun d =>
      let d := d.pkePut (c.a 3) ((d.pkeInt (c.a 0) + d.pkeInt (c.a 1)) % d.pkeInt (c.a 2))
      (((d.setPkeCtx k { state := 4, status := 0, cmd := c.cmd }).wr STATUS_last_status 0 0 pgPKE).irq pgPKE k).pkeNext k)) ∧
  (∀ (s : State) (k : Nat) (c : PkeCtx), s.on → s.dev.pkeRunning = some k → c = s.dev.pkeCtx k → c.supplied = true →
    c.earlySt = .ok → c.op = 0x03 →
    Gives (.pkeJobComplete true none) s (fun d =>
      let d := (d.drbg.2.pkeZeroOut c).pkeRec 0xB011 6 k c.op
      (((d.setPkeCtx k { state := 4, status := Status.faultDetected.code, cmd := c.cmd }).wr STATUS_last_status
        Status.faultDetected.code 0 pgPKE).irq pgPKE k).pkeNext k)) ∧
  (∀ (s : State) (k : Nat) (c : PkeCtx), s.on → s.dev.pkeRunning = some k → c = s.dev.pkeCtx k → c.supplied = false →
    s.dev.flag TRN_STAT_drbg_ready = false → c.since + 100 * cclkPerUs ≤ s.dev.cclk →
    Gives .pkeRandomTimeout s (fun d => (d.pkeRec 0xB012 4 k c.op).pkeEnd k .notReady)) ∧
  (∀ (s : State) (r : Req) (k : Fin 2) (c : PkeCtx), s.acceptsRead r pgPKE (0x084 + 4 * k) → c = s.dev.pkeCtx k → c.state = 4 →
    Gives (.pkeCtxRead r k) s (fun d =>
      (d.setPkeCtx k {}).answer .ok (4 * 2 ^ 28 + c.op * 2 ^ 16 + c.status * 2 ^ 8 + b2n c.urgent))) ∧
  (∀ (s : State) (k : Nat), s.on → s.dev.pkeRunning = some k → (s.dev.pkeCtx k).slh = true → s.dev.hsh.job = none →
    Gives .keccakHandover s (fun d => ({ d with hsh := { d.hsh with pkeCore0 := true } }).wr HSH_STAT_core_wait 0)) ∧
  (∀ (s : State) (j : HshJob), s.on → s.dev.hsh.job = some j → hshKeccak j.fn = true →
    Gives .keccakHandover s (fun d => ({ d with hsh := { d.hsh with pkeCore0 := false } }).wr HSH_STAT_core_wait 0)) ∧
  (∀ (s : State) (r : Req) (last : Bool) (j : HshJob), s.accepts r pgHSH 0x058 → j = s.dev.hshStaged true last false →
    s.dev.hsh.job = none → s.dev.reach j.owner false j.src j.len = .ok → j.toMem = false → s.dev.hshBad j = false →
    (hshKeccak j.fn = true → s.dev.hsh.pkeCore0 = false) →
    Effects (.hshGo r true last) s pgHSH (fun d =>
      ((({ d with hsh := { d.hsh with chain := none, xof := none, job := some j } }).wr HSH_STAT_chain_open 0).wr STATUS_busy 1 0 pgHSH).wr
        HSH_STAT_done 0)) ∧
  (∀ (s : State) (r : Req) (j : HshJob), s.accepts r pgHSH 0x058 → j = s.dev.hshStaged false false true → s.dev.hsh.job = none →
    j.toMem = false → s.dev.hshBad j = false → s.dev.hsh.chain = none → s.dev.hsh.pkeCore0 = false →
    Effects (.hshSqueeze r) s pgHSH (fun d =>
      ((({ d with hsh := { d.hsh with job := some j } }).wr HSH_STAT_chain_open 0).wr STATUS_busy 1 0 pgHSH).wr HSH_STAT_done 0)) ∧
  (∀ (s : State) (r : Req), s.accepts r pgHSH 0x058 → s.dev.hsh.job = none →
    Effects (.hshAbort r) s pgHSH (fun d =>
      ({ d with hsh := { d.hsh with chain := none, xof := none } }).wr HSH_STAT_chain_open 0)) ∧
  (∀ (s : State) (r : Req) (j : HshJob), s.accepts r pgHSH 0x058 → s.dev.hsh.job = some j → j.toMem = false →
    EndsJob (.hshAbort r) s pgHSH (fun d =>
      (({ d with hsh := { d.hsh with chain := none, xof := none } }).wr HSH_STAT_chain_open 0).hshEnd .aborted)) ∧
  (∀ (s : State) (j : HshJob) (src : List Byte) (d0 : Dev), s.on → s.dev.hsh.job = some j → j.squeeze = false → j.first = true →
    j.last = true → hshShake j.fn = false → (hshKeccak j.fn = true → s.dev.hsh.pkeCore0 = false) →
    s.dev.cleared.jobRead j.owner j.src j.len = (.ok, src, d0) →
    Gives (.hshJobComplete none) s (fun _ =>
      let d := ({ d0 with hsh := { d0.hsh with chain := none, xof := none } } : Dev).hshDigest
        (((hshStart j.fn).more src).finish.output 0 j.outLen)
      let d := ({ d with hsh := { d.hsh with job := none } }).wr HSH_STAT_chain_open 0
      ((((d.wr STATUS_busy 0 0 pgHSH).wr HSH_STAT_core_wait 0).wr HSH_STAT_done 1).wr STATUS_last_status 0 0 pgHSH).irq pgHSH 0))

/-! ### Resets, the start, the Refuge -/

/-- Power-on, power loss and warm resets (R517, R518), RESET_OUT_N (R520), the stages of a start (R347 to R350), BOOT_OK and its limit (R351), a
fragment of a recovery session (R354). Log entry 120 names the straps' and causes' values that the spec leaves to a power-on reset. -/
def Obligations.ResetsAndStartComplete : Prop :=
  (∀ (s : State) (brownout : Bool) (straps : Fin 8) (cycles : Nat), s.dev.bivouac = false →
    exec (.powerOnReset brownout straps cycles) s = .next { s with
      rr := 0
      dev := ((((s.dev.cleared.setRtc (s.dev.bkd.rtc + cycles) s.dev.bkd.frac).resetNow false (if brownout then 2 else 1)).wrWord
        SYS_STRAP_rope_pos straps).strapEffect).wr BKD_STAT_on_vbat 0 }) ∧
  (∀ (s : State) (cut : Fin 3), s.on →
    Gives (.powerLoss cut) s (fun d =>
      let d := (d.flInterrupt).tlogCut cut
      { d with sys := { d.sys with powered := false, outHigh := false } })) ∧
  (∀ s : State, s.on → s.dev.bivouac = false → Gives .warmReset s (fun d => d.resetNow true 4)) ∧
  (∀ s : State, s.on → s.dev.bivouac = true → s.dev.rd RFG_BOOT_CAUSE_cause ≠ 0 → s.dev.rd RFG_BOOT_CAUSE_cause ≠ 7 →
    Gives .warmReset s (fun d =>
      (({ d with rfg := { d.rfg with fails := 2 } }).resetNow true 4).refugeRec 0xC004 7 1 0)) ∧
  (∀ (s : State) (r : Req), s.accepts r pgSYS 0x04C → s.dev.bivouac = false →
    Effects (.sysRstCmd r) s pgSYS (fun d => d.resetNow true 32)) ∧
  (∀ (s : State) (r : Req), s.accepts r pgSYS 0x050 → s.dev.sys.outHigh = true →
    Effects (.sysExtRstWrite r true) s pgSYS (fun d =>
      let d := (d.plainWrite pgSYS 0x050 1).2
      ({ d with sys := { d.sys with outHigh := false } }).emit (.resetOut false))) ∧
  (∀ (s : State) (r : Req), s.accepts r pgSYS 0x050 → s.dev.sys.outHigh = false → s.dev.sys.outTill ≤ s.dev.cclk →
    Effects (.sysExtRstWrite r false) s pgSYS (fun d =>
      let d := (d.plainWrite pgSYS 0x050 0).2
      ({ d with sys := { d.sys with outHigh := true } }).emit (.resetOut true))) ∧
  (∀ (s : State) (v : BaseEnv) (d0 d1 d2 : Dev) (fw : Manifest) (c : Nat), s.on → s.dev.rfg.baseDone = false → s.dev.bivouac = false →
    v.lockstep = true → v.rom = true → v.sysBlocks = [] → s.dev.flag FLC_STAT_scan_done = true →
    d0 = (s.dev.cleared.startM0.lightSelftest v.light.toNat).trnStart v.trn → d0.rd LCC_STATE_progress = 0 → d0.sys.powered = true →
    d1 = d0.logsStart v.copyCut v.failLines → d1.sys.powered = true → d1.flag LCC_STATE_tamper_lock = false → d1.lcc ≠ 3 →
    c = d1.rfg.fails → c < 3 → fw = s.dev.rfg.firmware.getD v.fw → d2 = d1.setFails (c + 1) → d2.manifestCause fw true = 0 →
    Gives (.bootBaseCamp v) s (fun _ =>
      ({ d2 with rfg := { d2.rfg with baseDone := true, fwVersion := fw.version, fwDigest := manifestDigest fw } }).refugeWrites v.writes)) ∧
  (∀ (s : State) (v : BaseEnv), s.on → s.dev.rfg.baseDone = false → s.dev.bivouac = false → v.lockstep = false →
    Gives (.bootBaseCamp v) s (fun d =>
      let d := if d.flag FLC_STAT_scan_done then d else d.flScan []
      ((d.startM0.lightSelftest v.light.toNat).level 80 true).enterBivouac 6 80)) ∧
  (∀ (s : State) (w : List RegWrite), s.on → s.dev.rfg.baseDone = true → s.dev.bivouac = false → s.dev.rd RFG_STAGE_stage = 0 →
    s.dev.flag TRN_STAT_drbg_ready = true →
    Gives (.bootRefuge w none) s (fun d => ((((d.wr RFG_STAGE_stage 1).reload true).dramKeys.wr MCE_STAT_keys_loaded 1).islReport).refugeWrites w)) ∧
  (∀ (s : State) (m m' : Manifest) (w : List RegWrite), s.on → s.dev.bivouac = false → s.dev.rd RFG_STAGE_stage = 1 →
    m = s.dev.rfg.station.getD m' → (s.dev.cleared.wr RFG_STAGE_stage 2).manifestCause m false = 0 →
    Gives (.bootLoading m' w) s (fun d =>
      let d := ((d.wr RFG_STAGE_stage 2).refugeWrites w).loadImages m
      ({ d with rfg := { d.rfg with role := m.role, stationDigest := manifestDigest m } }).startWorld 2)) ∧
  (∀ (s : State) (m m' : Manifest) (w : List RegWrite) (c : Nat), s.on → s.dev.bivouac = false → s.dev.rd RFG_STAGE_stage = 1 →
    m = s.dev.rfg.station.getD m' → c = (s.dev.cleared.wr RFG_STAGE_stage 2).manifestCause m false → c ≠ 0 →
    Gives (.bootLoading m' w) s (fun d => (d.wr RFG_STAGE_stage 2).enterBivouac c 0)) ∧
  (∀ (s : State) (w : List RegWrite), s.on → s.dev.bivouac = false → s.dev.rd RFG_STAGE_stage = 2 →
    Gives (.bootProtectionReady w) s (fun d => ((d.wr RFG_STAGE_stage 3).refugeWrites w).startWorld 1)) ∧
  (∀ (s : State) (r : Req), s.accepts r pgRFG 0x048 → s.dev.rd RFG_STAGE_stage = 3 → s.dev.sinceReset < 30 * cclkPerS →
    Effects (.rfgBootOk r 0x5A) s pgRFG (fun d =>
      ((((({ (d.wr RFG_STAGE_stage 4) with rfg := { d.rfg with fails := 0 } }).wr RFG_BOOT_CAUSE_fails 0).refugeRec 0xC001 1
        (d.sinceReset / cclkPerMs) 0).placeStatement).mirrorTrigger).islMix)) ∧
  (∀ (s : State) (r : Req) (key : BitVec 8), s.accepts r pgRFG 0x048 → s.dev.rd RFG_STAGE_stage < 3 →
    key ≠ 0x5A → TurnedAway (.rfgBootOk r key) s pgRFG .badParam) ∧
  (∀ s : State, s.on → s.dev.bivouac = false → s.dev.rd RFG_STAGE_stage < 4 → 30 * cclkPerS ≤ s.dev.sinceReset →
    Gives .bootOkExpiry s (fun d =>
      (d.resetNow true 16).direct pgRFG (d.mkRec 0xC002 5 3 0x7E ⟨d.rd RFG_STAGE_stage, 1, 0⟩))) ∧
  (∀ (s : State) (src : BitVec 48) (payload : List Byte) (m : Manifest) (env : CmdEnv) (ses len fl : Nat), s.on → s.dev.bivouac = true →
    ses = leAt payload 0 4 → len = leAt payload 8 2 → fl = leAt payload 10 2 → s.dev.rfg.session = none → 0 < len → len ≤ 8192 →
    12 + len ≤ payload.length → fl < 4 → fl.testBit 0 = false → leAt payload 4 4 = 0 →
    Gives (.recoveryFrame src payload m env) s (fun d =>
      ({ d with rfg := { d.rfg with session := some (ses, fl.testBit 1, slice payload 12 len) } }).recoveryAnswer src.toNat d.rfg.otp.mac
        payload .ok))

/-- The Refuge: signed commands accepted and refused (R356 to R358, R360), the nonce (R359), the end of debug authorisation (R360), its watchdog
and lockstep (R344), and TRN (R363). -/
def Obligations.RefugeCommandsComplete : Prop :=
  (∀ (s : State) (b : List Byte) (env : CmdEnv) (c : SignedCmd), s.on → c = parseCmd b → leAt b 0x34 1 = 1 → c.bad = false →
    s.dev.cmdAuth c b env = true → s.dev.cmdLimit c = true → env.cut = none → s.dev.flag TRN_STAT_drbg_ready = true →
    Gives (.cmdProvision b env) s (fun d =>
      let d := { d.nonceDrop with rfg := { d.nonceDrop.rfg with refused := 0 } }
      let d := [1, 2, 3, 4].foldl (fun d k => (d.transStep 1 k c.arg env).mark 1 k) d
      ((d.wr LCC_STATE_progress 0).refugeRec 0xC010 7 1 0).answer .ok)) ∧
  (∀ (s : State) (b : List Byte) (env : CmdEnv) (c : SignedCmd), s.on → c = parseCmd b → leAt b 0x34 1 = 2 → c.bad = false →
    s.dev.cmdAuth c b env = true → s.dev.cmdLimit c = true → env.cut = none → s.dev.flag TRN_STAT_drbg_ready = true →
    Gives (.cmdTakeOwnership b env) s (fun d =>
      let d := { d.nonceDrop with rfg := { d.nonceDrop.rfg with refused := 0 } }
      let d := [1, 2, 3, 4].foldl (fun d k => (d.transStep 2 k c.arg env).mark 2 k) d
      ((d.wr LCC_STATE_progress 0).refugeRec 0xC010 7 2 0).answer .ok)) ∧
  (∀ (s : State) (b : List Byte) (env : CmdEnv) (c : SignedCmd), s.on → c = parseCmd b → leAt b 0x34 1 = 3 → c.bad = false →
    s.dev.cmdAuth c b env = true → s.dev.cmdLimit c = true → env.cut = none → s.dev.flag TRN_STAT_drbg_ready = true →
    Gives (.cmdTransferOwnership b env) s (fun d =>
      let d := { d.nonceDrop with rfg := { d.nonceDrop.rfg with refused := 0 } }
      let d := [1, 2, 3, 4, 5].foldl (fun d k => (d.transStep 3 k c.arg env).mark 3 k) d
      let d := (d.wr LCC_STATE_progress 0).refugeRec 0xC010 7 3 0
      (d.refugeRec 0xC012 7 d.ownerIdx 0).answer .ok)) ∧
  (∀ (s : State) (b : List Byte) (env : CmdEnv) (c : SignedCmd), s.on → c = parseCmd b → leAt b 0x34 1 = 4 → c.bad = false →
    s.dev.cmdAuth c b env = true → s.dev.cmdLimit c = true → env.cut = none →
    Gives (.cmdRetire b env) s (fun d =>
      let d := { d.nonceDrop with rfg := { d.nonceDrop.rfg with refused := 0 } }
      let d := [1, 2, 3, 4].foldl (fun d k => (d.transStep 4 k c.arg env).mark 4 k) d
      ((d.wr LCC_STATE_progress 0).refugeRec 0xC010 7 4 0).answer .ok |>.retiredNow)) ∧
  (∀ (s : State) (b : List Byte) (env : CmdEnv) (c : SignedCmd), s.on → c = parseCmd b → leAt b 0x34 1 = 5 → c.bad = false →
    s.dev.cmdAuth c b env = true → s.dev.bivouac = false → s.dev.flag TRN_STAT_drbg_ready = true →
    Gives (.cmdReprovision b env) s (fun d =>
      let d := { d.nonceDrop with rfg := { d.nonceDrop.rfg with refused := 0 } }
      (((d.wr LCC_STATE_tamper_lock 0).newSeed).refugeRec 0xC014 7 c.signer 0).answer .ok)) ∧
  (∀ (s : State) (b : List Byte) (env : CmdEnv) (c : SignedCmd), s.on → c = parseCmd b → leAt b 0x34 1 = 6 → c.bad = false →
    s.dev.cmdAuth c b env = true → s.dev.cmdLimit c = true →
    Gives (.cmdDisableTamperSource b env) s (fun d =>
      let d := { d.nonceDrop with rfg := { d.nonceDrop.rfg with refused := 0 } }
      let n := leAt c.arg 0 1
      ((d.setOtp { d.rfg.otp with fuse := d.rfg.otp.fuse ||| 2 ^ n }).refugeRec 0xC013 7 n 0).answer .ok)) ∧
  (∀ (s : State) (b : List Byte) (env : CmdEnv) (c : SignedCmd), s.on → c = parseCmd b → leAt b 0x34 1 = 8 → c.bad = false →
    s.dev.cmdAuth c b env = true → s.dev.cmdLimit c = true → s.dev.lcc ≠ 3 →
    Gives (.cmdDebugToken b env) s (fun d =>
      let d := { d.nonceDrop with rfg := { d.nonceDrop.rfg with refused := 0, dbgSeen := true
                                                                dbgUntil := d.cclk + leAt c.arg 4 4 * cclkPerS } }
      (((d.wr RFG_DBG_active 1).wr RFG_DBG_perms (leAt c.arg 0 4)).refugeRec 0xC031 6 c.signer (leAt c.arg 0 4)).answer .ok)) ∧
  (∀ (s : State) (b : List Byte) (env : CmdEnv) (c : SignedCmd), s.on → c = parseCmd b → leAt b 0x34 1 = 8 → c.bad = false →
    s.dev.cmdAuth c b env = false →
    Gives (.cmdDebugToken b env) s (fun d =>
      let n := d.rfg.refused + 1
      let d := d.nonceDrop
      let d := { d with rfg := { d.rfg with refused := n, holdUntil := d.cclk + min 64 (2 ^ (min 6 (n - 1))) * cclkPerS } }
      (d.refugeRec 0xC030 6 8 0).answer .authFail)) ∧
  (∀ (s : State) (r : Req), s.accepts r pgRFG 0x04C → s.dev.rfg.holdUntil ≤ s.dev.cclk → s.dev.flag TRN_STAT_drbg_ready = true →
    Effects (.rfgNonceRequest r) s pgRFG (fun d =>
      let n := leBytes d.drbg.1 32
      let d := d.drbg.2
      let d := { d with rfg := { d.rfg with nonce := some n } }
      (List.range 8).foldl (fun d k => d.wr RFG_NONCEk_bytes (leAt n (4 * k) 4) k) d)) ∧
  (∀ (s : State) (r : Req), s.accepts r pgRFG 0x04C → s.dev.cclk < s.dev.rfg.holdUntil →
    TurnedAway (.rfgNonceRequest r) s pgRFG .busy) ∧
  (∀ (s : State) (r : Req), s.accepts r pgRFG 0x070 → s.dev.flag RFG_DBG_active = true →
    Effects (.rfgDbgRevoke r) s pgRFG (fun d => ((d.wr RFG_DBG_active 0).wr RFG_DBG_perms 0).refugeRec 0xC032 3 3 0)) ∧
  (∀ s : State, s.on → s.dev.rfg.dbgUntil ≤ s.dev.cclk → s.dev.flag RFG_DBG_active = true →
    Gives .debugTokenExpiry s (fun d => ((d.wr RFG_DBG_active 0).wr RFG_DBG_perms 0).refugeRec 0xC032 3 0 0)) ∧
  (∀ s : State, s.on → Gives .refugeWatchdogExpiry s (fun d => d.level 82 true)) ∧
  (∀ s : State, s.on → Gives .wardenLockstepMismatch s (fun d => d.level 80 true)) ∧
  (∀ s : State, s.on → s.dev.flag TRN_STAT_drbg_ready = true →
    (s.dev.rfg.trnReseedAt + cclkPerS ≤ s.dev.cclk ∨ 65536 ≤ s.dev.rfg.trnReqs) →
    Gives .trnReseed s (fun d =>
      ({ d with rfg := { d.rfg with trnReseedAt := d.cclk, trnReqs := 0 } }).bump TRN_CNT_reseeds)) ∧
  (∀ (s : State) (test : Fin 3), s.on →
    Gives (.trnHealthFail test) s (fun d =>
      let d := ((d.wr TRN_STAT_drbg_ready 0).wr TRN_STAT_health_ok 0).bump TRN_STAT_fails
      ({ d with rfg := { d.rfg with trnFailAt := d.cclk } }).refugeRec 0xC020 6 test 0)) ∧
  (∀ s : State, s.on → s.dev.flag TRN_STAT_health_ok = false → s.dev.rfg.trnFailAt + 100 * cclkPerMs ≤ s.dev.cclk →
    Gives (.trnRetest true) s (fun d =>
      let d := (d.wr TRN_STAT_drbg_ready 1).wr TRN_STAT_health_ok 1
      let d := ({ d with rfg := { d.rfg with trnReseedAt := d.cclk, trnReqs := 0 } }).refugeRec 0xC021 2 0 0
      if d.rfg.due then d.placeStatement else d))

/-! ### Tamper response, backup domain, debug -/

/-- TMP (R366, R367, R371, R383), the clock monitor (R524), BKD (R376 to R381, R384), and debug: the JTAG instructions, with and without the
token's permission (R537), the debug access port (R538) and the debug mailbox (R539). -/
def Obligations.GuardAndDebugComplete : Prop :=
  (∀ (s : State) (src : Fin 64) (lasting : Bool), s.on → src.val < 32 ∨ (36 < src.val ∧ src.val < 48) → s.dev.tmpActive src = true →
    Gives (.tamperDetect src lasting) s (fun d => ((d.setLatch src true).setCond src lasting).tmpSettle)) ∧
  (∀ (s : State) (src : Fin 64) (lasting : Bool), s.on → 32 ≤ src.val → src.val ≤ 36 → s.dev.tmpActive src = true →
    s.dev.tmpLatch.testBit src = false → 0 < s.dev.rd TMP_GLITCH_count → s.dev.rd TMP_GLITCH_limit = 0 →
    Gives (.tamperDetect src lasting) s (fun d =>
      let d := (d.setLatch src true).setCond src lasting
      (d.wr TMP_GLITCH_count (satAdd 255 (d.rd TMP_GLITCH_count) 1)).tmpSettle)) ∧
  (∀ (s : State) (src : Fin 64) (lasting : Bool), s.on → s.dev.tmpActive src = false → Gives (.tamperDetect src lasting) s (fun d => d)) ∧
  (∀ (s : State) (cond : Fin 4) (on : Bool), s.on → cond.val ≠ 3 →
    Gives (.clockMonitorChange cond on) s (fun d =>
      (d.wr SYS_CLKMON_cond (setBits (d.rd SYS_CLKMON_cond) cond cond (b2n on))).level (84 + cond) on)) ∧
  (∀ (s : State) (r : Req) (hi : Bool) (i : Fin 32) (n : Nat), s.accepts r pgTMP (if hi then 0x04C else 0x048) →
    n = (if hi then 32 else 0) + i → s.dev.tmpLatch.testBit n = true → s.dev.tmpCond.testBit n = false →
    Effects (.tmpLatchClear r hi (1#32 <<< i.val)) s pgTMP (fun d => (d.setLatch n false).tmpSettle)) ∧
  (∀ (s : State) (r : Req) (hi : Bool) (i : Fin 32) (n : Nat), s.accepts r pgTMP (if hi then 0x04C else 0x048) →
    n = (if hi then 32 else 0) + i → s.dev.tmpLatch.testBit n = true → s.dev.tmpCond.testBit n = true →
    Gives (.tmpLatchClear r hi (1#32 <<< i.val)) s (fun d => ((d.rated pgTMP 0xD001 n 3 n 0).tmpSettle).report pgTMP .busy)) ∧
  (∀ (s : State) (r : Req) (hi : Bool) (v : Word), s.accepts r pgTMP (if hi then 0x044 else 0x040) →
    s.dev.wlLocked.contains (regKey pgTMP (if hi then 0x044 else 0x040)) = false →
    Effects (.tmpEnWrite r hi v) s pgTMP (fun d =>
      let d := (d.plainWrite pgTMP (if hi then 0x044 else 0x040) v.toNat).2
      (d.wr64 TMP_EN_LO_bits TMP_EN_HI_bits (d.tmpEn - (d.tmpEn &&& d.lccFuse))).tmpSettle)) ∧
  (∀ s : State, s.on → s.dev.rd TMP_GLITCH_count ≠ 0 →
    s.dev.tmp.glitchAt + max 1 (s.dev.rd TMP_GLITCH_window_s) * cclkPerS ≤ s.dev.cclk →
    Gives .glitchWindowExpiry s (fun d => d.wr TMP_GLITCH_count 0)) ∧
  (∀ (s : State) (mv : BitVec 12), 2200 ≤ mv.toNat → mv.toNat ≤ 3800 →
    Gives (.vbatSwitchover false mv) s (fun d =>
      let d := (d.wr BKD_STAT_on_vbat 0).wr BKD_STAT_vbat_mv mv.toNat
      ({ d with bkd := { d.bkd with vbat := mv.toNat } }).bkdStand [])) ∧
  (∀ (s : State) (mv : BitVec 12), s.on → s.dev.flag BKD_STAT_on_vbat = false → s.dev.bkdArm = 0 → s.dev.bkd.standing = [] →
    mv.toNat < 2200 →
    Gives (.vbatSwitchover true mv) s (fun d =>
      let d := (d.wr BKD_STAT_on_vbat 1).wr BKD_STAT_vbat_mv mv.toNat
      let d := ({ d with bkd := { d.bkd with vbat := mv.toNat } }).tamperDetect 31 true
      ((d.tamperDetect 30 true).wr BKD_STAT_rtc_free 1).tmpSettle)) ∧
  (∀ s : State, s.dev.flag BKD_STAT_on_vbat = true →
    Gives .bkdStateLoss s (fun d =>
      (({ (d.resetRegs pgBKD 0x040 0x074) with bkd := { lost := true, lossLock := d.flag BKD_CFG_por_lock } }).wr BKD_STAT_on_vbat 1).tmpSettle)) ∧
  (∀ (s : State) (src : Fin 64) (detail : BitVec 32) (cycles : Nat), s.dev.flag BKD_STAT_on_vbat = true →
    (s.dev.bkdArm &&& bSources).testBit src = true → s.dev.bkd.seen.get src 0 = 0 → s.dev.bkd.standing = [] → s.dev.evmHas src = false →
    Gives (.backupAlarm [(src, detail)] cycles) s (fun d =>
      let d := (d.setRtc (d.bkd.rtc + cycles) d.bkd.frac).bkdStand [src.val]
      let d := { d with bkd := { d.bkd with vault := [], seed := [] } }
      (((d.bkdAppend src (bkdDetail src detail.toNat)).wr BKD_STAT_lock 1).tmpSettle).tmpLogged [src.val])) ∧
  (∀ (s : State) (r : Req), s.accepts r pgBKD 0x064 →
    Effects (.bkdLogClear r) s pgBKD (fun d =>
      let d := { d with bkd := { d.bkd with log := [], n := 0, lost := false, clearedAt := d.rd EVR_SEQ_seq } }
      ((((d.wr BKD_LOG_STAT_count 0).wr BKD_LOG_STAT_overflow 0).wr BKD_STAT_lock 0).wr BKD_STAT_bkd_por 0).tmpSettle)) ∧
  (∀ (s : State) (r : Req) (i w : Nat), s.acceptsRead r pgBKD 0x05C → i = s.dev.rd BKD_LOG_SEL_index → w = s.dev.rd BKD_LOG_SEL_word →
    Gives (.bkdLogDataRead r) s (fun d =>
      let n := (4 * i + w + 1) % 256
      ((d.wr BKD_LOG_SEL_index (n / 4)).wr BKD_LOG_SEL_word (n % 4)).answer .ok (leAt (d.bkd.log.get i []) (4 * w) 4))) ∧
  (∀ (s : State) (r : Req) (v : Word) (i : Nat), s.accepts r pgBKD 0x06C → i = s.dev.rd BKD_VAULT_SEL_word →
    Effects (.bkdVaultDataAccess r (some v)) s pgBKD (fun d =>
      ({ d with bkd := { d.bkd with vault := d.bkd.vault.set i v 0 } }).wr BKD_VAULT_SEL_word ((i + 1) % 512))) ∧
  (∀ (s : State) (r : Req) (i : Nat), s.acceptsRead r pgBKD 0x06C → i = s.dev.rd BKD_VAULT_SEL_word →
    Gives (.bkdVaultDataAccess r none) s (fun d =>
      (d.wr BKD_VAULT_SEL_word ((i + 1) % 512)).answer .ok (d.bkd.vault.get i 0).toNat)) ∧
  (∀ s : State, s.on →
    Gives .jtagIdcode s (fun d => ({ d with jtag := { d.jtag with ir := 1 } }).emit (.tdo 0x19600C93))) ∧
  (∀ (s : State) (top ton : BitVec 64), s.on →
    Gives (.jtagSamplePreload top ton) s (fun d =>
      { d with jtag := { d.jtag with ir := 2, top := top &&& ~~~(top &&& ~~~ton), ton := ton ||| (top &&& ~~~ton) } })) ∧
  (∀ (s : State) (top ton : BitVec 64), s.on → s.dev.dbgPerm 5 = true →
    Gives (.jtagExtest top ton) s (fun d =>
      { d with jtag := { d.jtag with ir := 3, top := top &&& ~~~(top &&& ~~~ton), ton := ton ||| (top &&& ~~~ton) } })) ∧
  (∀ (s : State) (top ton : BitVec 64), s.on → s.dev.dbgPerm 5 = true →
    Gives (.jtagIntest top ton) s (fun d =>
      { d with jtag := { d.jtag with ir := 4, top := top &&& ~~~(top &&& ~~~ton), ton := ton ||| (top &&& ~~~ton) } })) ∧
  (∀ s : State, s.on → s.dev.dbgPerm 5 = true →
    Gives .jtagClamp s (fun d => { d with jtag := { d.jtag with ir := 5 } }) ∧
    Gives .jtagHighz s (fun d => { d with jtag := { d.jtag with ir := 6 } })) ∧
  (∀ (s : State) (top ton : BitVec 64), s.on → s.dev.dbgPerm 5 = false →
    Gives (.jtagExtest top ton) s (fun d => { d with jtag := { d.jtag with ir := 0xFF } }) ∧
    Gives (.jtagIntest top ton) s (fun d => { d with jtag := { d.jtag with ir := 0xFF } }) ∧
    Gives .jtagClamp s (fun d => { d with jtag := { d.jtag with ir := 0xFF } }) ∧
    Gives .jtagHighz s (fun d => { d with jtag := { d.jtag with ir := 0xFF } })) ∧
  (∀ s : State, s.on → Gives .jtagBypass s (fun d => { d with jtag := { d.jtag with ir := 0xFF } })) ∧
  (∀ (s : State) (op : Fin 4) (a : BitVec 40) (v : Word) (env : MemEnv), s.on →
    Gives (.dapAccess op a v true env) s (fun d => { d with jtag := { d.jtag with ir := 0x20, status := Status.busy.code } })) ∧
  (∀ (s : State) (a : BitVec 40) (v : Word) (env : MemEnv), s.on →
    Gives (.dapAccess 0 a v false env) s (fun d => { d with jtag := { d.jtag with ir := 0x20 } })) ∧
  (∀ (s : State) (a : BitVec 40) (v : Word) (env : MemEnv) (page : Nat), s.on → 0xF0000000 ≤ a.toNat → a.toNat < 0x100000000 →
    page = (pageOfAddr a.toNat).1 → (pageBlock page).isSome = true → a.toNat % 4 = 0 → env.parity = false →
    Gives (.dapAccess 2 a v false env) s (fun d =>
      let d := ({ d with jtag := { d.jtag with ir := 0x20 } }).pageWrite .dbg page (a.toNat % 4096) v.toNat
      ({ d with jtag := { d.jtag with status := d.answered.1.code, data := BitVec.ofNat 32 d.answered.2 } }).answer d.answered.1 d.answered.2)) ∧
  (∀ (s : State) (r : Req) (v : Word), s.accepts r pgDBG 0x040 → s.dev.jtag.mbox.length < 65536 →
    Effects (.dbgMboxDataWrite r v) s pgDBG (fun d =>
      (({ d with jtag := { d.jtag with mbox := d.jtag.mbox ++ leBytes v.toNat 4 } }).wr DBG_MBOX_STAT_count (d.jtag.mbox.length + 4)).wr
        DBG_MBOX_STAT_done 0)) ∧
  (∀ (s : State) (r : Req) (v : Word), s.accepts r pgDBG 0x040 → 65536 ≤ s.dev.jtag.mbox.length →
    TurnedAway (.dbgMboxDataWrite r v) s pgDBG .full) ∧
  (∀ (s : State) (r : Req) (n : Fin 131072) (env : CmdEnv), s.accepts r pgDBG 0x044 → n.val ≤ s.dev.jtag.mbox.length →
    Effects (.dbgMboxGo r n env) s pgDBG (fun d =>
      let x := ({ d with jtag := { d.jtag with mbox := [] } }).execSigned (d.jtag.mbox.take n) env
      (((x.2.wr DBG_MBOX_STAT_count 0).wr DBG_MBOX_STAT_done 1).wr DBG_MBOX_STAT_status x.1.code).retiredNow))


/-! ### Flash, the event recorder, the record card -/

/-- FLC's commands carried out (R391 to R396, R398), a lost bank (R393), a refusal by region (R389), the ends of a program and an erase (R394,
R395), a suspend and its long wait (R396). -/
def Obligations.FlashCompletes : Prop :=
  (∀ (s : State) (r : Req) (l : List (Req × Fin 4)) (o b : Nat), s.hasBank r l → o = s.dev.flAddr (reqId r) → b = flBlock o →
    s.dev.flCommon (reqId r) = .ok → s.dev.flMayWrite r b = true → s.dev.flc.programmed.any (fun e => e.1 == flLine o) = false →
    s.dev.indet b = false → s.dev.flProgState b = .ok →
    Effects (.flashProgram r l) s pgFLC (fun d =>
      let data := ((List.range 8).map (fun k => leBytes (d.rdOwn (reqId r) FLC_WDATAk_bytes k) 4)).flatten
      (d.wrOwn (reqId r) FLC_RES_done 0).setBank (b / 256)
        { d.bank (b / 256) with prog := some { line := flLine o, data := data, owner := reqId r } })) ∧
  (∀ (s : State) (r : Req) (l : List (Req × Fin 4)), s.on →
    losesBank s.rr r (flBank (s.dev.flAddr (reqId r))) (l.map (fun x => (x.1, x.2.val))) = true →
    s.dev.flRunning (reqId r) = false →
    (let ends := fun (d : Dev) => (((d.wrOwn (reqId r) FLC_RES_done 1).wrOwn (reqId r) FLC_RES_status Status.busy.code).irq pgFLC
        (flBlock (s.dev.flAddr (reqId r)) / 256)).report pgFLC .busy
     Gives (.flashProgram r l) s ends ∧ Gives (.flashErase r l) s ends)) ∧
  (∀ (s : State) (r : Req) (l : List (Req × Fin 4)), s.on →
    losesBank s.rr r (flBank (s.dev.flAddr (reqId r))) (l.map (fun x => (x.1, x.2.val))) = true → s.dev.flRunning (reqId r) = true →
    TurnedAway (.flashProgram r l) s pgFLC .busy ∧ TurnedAway (.flashErase r l) s pgFLC .busy) ∧
  (∀ (s : State) (r : Req) (l : List (Req × Fin 4)) (b : Nat), s.hasBank r l → b = flBlock (s.dev.flAddr (reqId r)) →
    s.dev.flRunning (reqId r) = false → s.dev.flag FLC_STAT_scan_done = true → s.dev.flRegionWrite r b = false →
    s.dev.flEraseState b = .ok →
    Gives (.flashErase r l) s (fun d =>
      let d := (d.raise 1004 b 1 (reqId r + 512)).rated pgFLC 0xE005 b 4 b (reqId r + 512)
      ((d.wrOwn (reqId r) FLC_RES_done 1).wrOwn (reqId r) FLC_RES_status Status.denied.code).irq pgFLC (b / 256) |>.report pgFLC
        .denied)) ∧
  (∀ (s : State) (bank : Fin 4) (p : FlProg), s.on → (s.dev.bank bank).prog = some p → (s.dev.bank bank).erase = none →
    Gives (.flashProgramComplete bank true) s (fun d =>
      let d := d.setBank bank { d.bank bank with prog := none }
      let d := d.store (flashBase + 32 * p.line) p.data
      let d := { d with
        bad := d.bad.set (flashBase + 32 * p.line) 0 0
        flc := { d.flc with programmed := Tbl.put d.flc.programmed p.line () } }
      ((d.wrOwn p.owner FLC_RES_done 1).wrOwn p.owner FLC_RES_status 0).irq pgFLC bank)) ∧
  (∀ (s : State) (bank : Fin 4) (p : FlProg), s.on → (s.dev.bank bank).prog = some p → (s.dev.bank bank).erase = none →
    Gives (.flashProgramComplete bank false) s (fun d =>
      let d := d.setBank bank { d.bank bank with prog := none }
      let v := (d.draw .flashLine).1
      ((((d.draw .flashLine).2.flPut p.line (leBytes v 32)).flDone p.owner bank .faultDetected).raise 1000 (p.line / 1024) 1
        (p.line * 32)).rated pgFLC 0xE001 (p.line / 1024) 4 (p.line / 1024) (p.line * 32))) ∧
  (∀ (s : State) (r : Req) (l : List (Req × Fin 4)) (b n : Nat), s.hasBank r l → b = flBlock (s.dev.flAddr (reqId r)) →
    s.dev.flCommon (reqId r) = .ok → s.dev.flMayWrite r b = true → b < 1022 → s.dev.flEraseState b = .ok →
    n = satAdd 0xFFFFFF (s.dev.eraseCount b) 1 → n < flRating b →
    Effects (.flashErase r l) s pgFLC (fun d =>
      let d := (d.wrOwn (reqId r) FLC_RES_done 0).setEraseFlag b true
      let d := { d with flc := { d.flc with erases := d.flc.erases.set b n 0 } }
      d.setBank (b / 256) { d.bank (b / 256) with erase := some { block := b, owner := reqId r, since := d.cclk } })) ∧
  (∀ (s : State) (bank : Fin 4) (e : FlErase), s.on → (s.dev.bank bank).erase = some e → e.suspended = false → e.hold = [] →
    Gives (.flashEraseComplete bank true) s (fun d =>
      let d := d.setBank bank { d.bank bank with erase := none }
      ((((d.flWipe e.block).setEraseFlag e.block false).setIndet e.block false).wrOwn e.owner FLC_RES_done 1).wrOwn e.owner FLC_RES_status 0
        |>.irq pgFLC bank)) ∧
  (∀ (s : State) (bank : Fin 4) (e : FlErase), s.on → (s.dev.bank bank).erase = some e → e.suspended = false → e.hold = [] →
    Gives (.flashEraseComplete bank false) s (fun d =>
      let d := d.setBank bank { d.bank bank with erase := none }
      ((d.setIndet e.block true).flDone e.owner bank .faultDetected).flEvent 1001 0xE002 4 e.block (d.eraseCount e.block))) ∧
  (∀ (s : State) (r : Req) (l : List (Req × Fin 4)) (b : Nat) (e : FlErase), s.hasBank r l → b = flBlock (s.dev.flAddr (reqId r)) →
    (s.dev.bank (b / 256)).erase = some e → s.dev.flSuspCommon (reqId r) (b / 256) = .ok → s.dev.flOwnsErase r b = true →
    e.suspended = false →
    Effects (.flashSuspend r l) s pgFLC (fun d =>
      (d.wrOwn (reqId r) FLC_RES_done 0).setBank (b / 256) { d.bank (b / 256) with erase := some { e with hold := e.hold ++ [reqId r] } })) ∧
  (∀ (s : State) (bank : Fin 4) (e : FlErase) (q : Nat), s.on → (s.dev.bank bank).erase = some e → e.hold = [q] →
    e.since + 500 * cclkPerUs ≤ s.dev.cclk →
    Gives (.flashSuspendComplete bank) s (fun d =>
      (((d.setBank bank { d.bank bank with erase := some { e with suspended := true, suspAt := d.cclk, hold := [] } }).wrOwn q
        FLC_RES_done 1).wrOwn q FLC_RES_status 0).irq pgFLC bank)) ∧
  (∀ (s : State) (r : Req) (l : List (Req × Fin 4)) (b : Nat) (e : FlErase), s.hasBank r l → b = flBlock (s.dev.flAddr (reqId r)) →
    (s.dev.bank (b / 256)).erase = some e → s.dev.flSuspCommon (reqId r) (b / 256) = .ok → s.dev.flOwnsErase r b = true →
    e.suspended = true → (s.dev.bank (b / 256)).prog = none →
    Effects (.flashResume r l) s pgFLC (fun d =>
      let d := (d.wrOwn (reqId r) FLC_RES_done 0).setBank (b / 256)
        { d.bank (b / 256) with erase := some { e with suspended := false, since := d.cclk, resume := [], long := false } }
      ((d.wrOwn (reqId r) FLC_RES_done 1).wrOwn (reqId r) FLC_RES_status 0).irq pgFLC (b / 256))) ∧
  (∀ (s : State) (r : Req) (mask : List Byte) (l : List (Req × Fin 4)) (o : Nat), s.hasBank r l → o = s.dev.flAddr (reqId r) →
    s.dev.flReadCmdStatus r false = .ok → (s.dev.bank (flBank o)).prog = none → s.dev.flEcc (flLine o) = 0 →
    Effects (.flashMarginRead r 0 0 mask l) s pgFLC (fun d =>
      let d := (List.range 8).foldl (fun d' k => d'.wrOwn (reqId r) FLC_RDATAk_bytes (leAt (d.flLineData (flLine o)) (4 * k) 4) k) d
      (((d.wrOwn (reqId r) FLC_RES_ecc 0).wrOwn (reqId r) FLC_RES_done 1).wrOwn (reqId r) FLC_RES_status 0).irq pgFLC (flBank o))) ∧
  (∀ (s : State) (r : Req) (l : List (Req × Fin 4)) (b : Nat), s.hasBank r l → b = flBlock (s.dev.flAddr (reqId r)) →
    s.dev.flReadCmdStatus r false = .ok → (s.dev.bank (b / 256)).prog = none →
    (∀ i < 1024, s.dev.flEcc (1024 * b + i) ≠ 2 ∧ (s.dev.flLineData (1024 * b + i)).all (· == 0xFF) = true) →
    Effects (.flashBlankCheck r none l) s pgFLC (fun d =>
      (((d.wrOwn (reqId r) FLC_RES_line 0).wrOwn (reqId r) FLC_RES_done 1).wrOwn (reqId r) FLC_RES_status 0).irq pgFLC (b / 256))) ∧
  (∀ (s : State) (r : Req) (l : List (Req × Fin 4)) (b : Nat), s.hasBank r l → b = flBlock (s.dev.flAddr (reqId r)) →
    s.dev.flCommon (reqId r) = .ok → s.dev.flMayRead r b = true → (s.dev.bank (b / 256)).erase = none →
    Effects (.flashBlockInfo r l) s pgFLC (fun d =>
      let q := reqId r
      let d := ((((d.wrOwn q FLC_INFO_in_progress (b2n (d.eraseFlag b))).wrOwn q FLC_INFO_indeterminate (b2n (d.indet b))).wrOwn q
        FLC_INFO_suspended 0).wrOwn q FLC_INFO_no_erase (b2n (decide (1022 ≤ b)))).wrOwn q FLC_INFO_erase_count (d.eraseCount b)
      ((d.wrOwn q FLC_RES_done 1).wrOwn q FLC_RES_status 0).irq pgFLC (b / 256))) ∧
  (∀ (s : State) (bank : Fin 4) (e : FlErase), s.on → (s.dev.bank bank).erase = some e → e.suspended = true → e.long = false →
    e.suspAt + cclkPerS < s.dev.cclk →
    Gives (.flashSuspendLong bank) s (fun d =>
      ((d.setBank bank { d.bank bank with erase := some { e with long := true } }).raise 1006 e.block 1 e.owner).rated pgFLC 0xE007 e.block 3
        e.block e.owner))

/-- EVR: a record taken and credits gained (R414), a tick closed (R412), a commit (R416), a block reclaimed (R417), and the mirror (R426). -/
def Obligations.RecorderCompletes : Prop :=
  (∀ (s : State) (x : Rec) (d0 : Dev), s.on → 0 < s.dev.evr.credits → s.dev.cleared.nextTake = some (x, d0) → x.sev < 6 →
    (∀ t, d0.evr.closed = some t → t < x.time) → d0.flag ISD_REXP_en = false →
    Gives .evrTake s (fun _ =>
      { d0 with evr := { d0.evr with credits := d0.evr.credits - 1, taken := d0.evr.taken ++ [x], exports := [] } })) ∧
  (∀ s : State, s.on → s.dev.evr.creditAt + 800 ≤ s.dev.cclk →
    Gives .evrCreditGain s (fun d =>
      { d with evr := { d.evr with creditAt := d.evr.creditAt + 800, credits := min 64 (d.evr.credits + 1) } })) ∧
  (∀ (s : State) (t : Nat), s.on → s.dev.evr.ticks[4]? = some t →
    Gives .evrTickClose s (fun d =>
      let now := sortRecs (d.evr.taken.filter (fun r => decide (r.time ≤ t)))
      let d := { d with evr := { d.evr with closed := some (max (d.evr.closed.getD 0) t), taken := d.evr.taken.filter (fun r => !decide (r.time ≤ t)) } }
      ((now.foldl Dev.sequence d).isdRecords).isdRetry)) ∧
  (∀ (s : State) (x : Rec), s.on → s.dev.flag EVR_CFG_flog_en = true → s.dev.logReady = true → s.dev.nextCommit = some x → x.sev < 7 →
    (liveOf s.dev.evr.log).length < logMax →
    Gives (.evrFlashCommit 0) s (fun d =>
      let i := d.evr.writeLine
      let d := d.flPut (d.logLine i) x.bytes
      let d := ({ d with evr := { d.evr with writeLine := (i + 1) % logLines } }).setLog (d.evr.log ++ [(⟨i, x, false⟩ : LogEnt)])
      let d := { d with evr := { d.evr with
        recent := (x :: d.evr.recent).take 512
        mirrorFrom := some (d.evr.mirrorFrom.getD d.cclk)
        mirrorDue := d.evr.mirrorDue || decide (6 ≤ x.sev) } }
      { d with evr := { d.evr with
        staged := d.evr.staged.map (fun e => if e.2.r.seq = x.seq then (e.1, { e.2 with committed := true }) else e)
        unstaged := d.evr.unstaged.filter (fun y => y.seq != x.seq)
        tlogWait := d.evr.tlogWait.filter (fun y => y.seq != x.seq)
        retained := d.evr.retained.filter (fun y => !(y.numbered && y.r.seq == x.seq)) } })) ∧
  (∀ (s : State) (b first : Nat) (inOld : LogEnt → Bool), s.on → s.dev.flag EVR_CFG_flog_en = true → b = s.dev.spareBlock →
    s.dev.blockUsed b = true → s.dev.flEraseState b = .ok → first = (s.dev.evr.writeLine / 1024 * 1024 + 1024) % logLines →
    inOld = (fun e => decide (first ≤ e.line) && decide (e.line < first + 1024)) →
    Gives .evrReclaim s (fun d =>
      let d := d.copyForward ((liveOf d.evr.log).filter inOld)
      (d.setLog (d.evr.log.filter (fun e => !inOld e))).flEraseStart b 0x0E)) ∧
  (∀ s : State, s.on → s.dev.evr.mirrorDue = true → s.dev.flag EVR_CFG_mirror_en = true → s.dev.isl.session = none →
    Gives .mirrorUpdate s (fun d => ({ d with evr := { d.evr with mirrorDue := false, mirrorFrom := none } }).mirrorWrite)) ∧
  (∀ s : State, s.on → s.dev.evr.mirrorDue = true → s.dev.flag EVR_CFG_mirror_en = true → s.dev.isl.session = some (1 - s.dev.isl.bank) →
    Gives .mirrorUpdate s (fun d =>
      { d with evr := { d.evr with mirrorDue := false, mirrorFrom := none }, isl := { d.isl with held := true } })) ∧
  (∀ (s : State) (t : Nat), s.on → s.dev.evr.mirrorFrom = some t → t + 60 * cclkPerS ≤ s.dev.cclk →
    Gives .mirrorTimerExpiry s (fun d => { d with evr := { d.evr with mirrorDue := true } }))

/-- CRD: insertion, removal, identification and parking (R430, R432, R433), the five commands and a record item (R445), an acknowledged block
(R438), a failed attempt (R436), and the cairn timer (R442). -/
def Obligations.CardCompletes : Prop :=
  (∀ (s : State) (c : Card), s.on → s.dev.crdEnabled = true → s.dev.flag CRD_STAT_present = false →
    Gives (.cardInsert c) s (fun d =>
      let blocks := c.content.foldl (fun t e => Tbl.set t e.1 (padTo 512 e.2) (zeros 512)) []
      let d := ({ d with crd := { card := some c, blocks := blocks, identify := true, lastAccess := d.cclk, offAt := d.crd.offAt } }).wr
        CRD_STAT_present 1
      ({ d with crd := { d.crd with readyAt := max d.cclk d.crd.offAt + max 1 (d.rd CRD_CFG_ramp_ms) * cclkPerMs } }).emit
        (.cardPower true))) ∧
  (∀ (s : State) (doubt : Nat), s.on → s.dev.flag CRD_STAT_present = true → s.dev.crd.writing = [] → s.dev.crd.job = none →
    Gives (.cardRemove doubt) s (fun d =>
      ((({ d with crd := { status := d.crd.status, offAt := d.cclk + 5 * cclkPerMs } }).wrWord CRD_STAT_present 0).emit (.cardPower false)).raise 974 d.crd.status 1 0)) ∧
  (∀ (s : State) (m : Manifest) (env : CmdEnv) (c : Card) (step : Nat) (st : Status), s.on → s.dev.bivouac = false →
    s.dev.crd.card = some c → s.dev.crd.identify = true → s.dev.crd.readyAt ≤ s.dev.cclk → cardIdentifyAs c = .error (step, st) →
    Gives (.cardIdentify m env) s (fun d =>
      let d := ({ d with crd := { d.crd with identify := false } }).cardGreeted c
      let d := d.raise 975 d.crd.status 1 step
      let present := d.rd CRD_STAT_present
      (((d.wrWord CRD_STAT_present 0).wr CRD_STAT_present present).cardOff).wr STATUS_last_status st.code 0 pgCRD)) ∧
  (∀ d : Dev, d.cardOff = ({ d with crd := { d.crd with offAt := d.cclk + 5 * cclkPerMs } }).emit (.cardPower false)) ∧
  (∀ (s : State) (m : Manifest) (env : CmdEnv) (c : Card) (type : Nat) (d0 : Dev) (speed : Nat × Dev), s.on → s.dev.crd.card = some c →
    s.dev.crd.identify = true → s.dev.crd.readyAt ≤ s.dev.cclk → cardIdentifyAs c = .ok type →
    d0 = ((({ s.dev.cleared with crd := { s.dev.crd with identify := false } }).cardGreeted c).cardIds c).wr CRD_CAP_blocks c.cap →
    speed = d0.cardSpeed c (d0.cardModes c).reverse → s.dev.bivouac = false →
    Gives (.cardIdentify m env) s (fun _ =>
      (((((speed.2.wr CRD_STAT_type type).wr CRD_STAT_speed speed.1).wr CRD_STAT_v18 (b2n (d0.cardV18 c))).wr CRD_STAT_width4
        (b2n (c.scr.testBit 50))).wr CRD_STAT_wp (b2n (cardProtected c))).cardMount)) ∧
  (∀ s : State, s.on → s.dev.rd CRD_CFG_park_ms ≠ 0 → s.dev.crd.job = none → s.dev.crd.writing = [] →
    s.dev.crdWaits 0 = false → s.dev.crdWaits 1 = false → s.dev.crdWaits 2 = false →
    s.dev.crd.lastAccess + s.dev.rd CRD_CFG_park_ms * cclkPerMs ≤ s.dev.cclk → s.dev.flag CRD_STAT_present = true →
    s.dev.flag CRD_STAT_parked = false →
    Gives .cardPark s (fun d =>
      (((d.wrWord CRD_STAT_present 0).wr CRD_STAT_present (d.rd CRD_STAT_present)).cardOff).wr CRD_STAT_parked 1)) ∧
  (∀ (s : State) (fails : List (Fin 5 × Nat)) (n : Nat) (b p : List Byte) (d0 : Dev), s.on → s.dev.crdEnabled = true → s.dev.crd.job = none →
    s.dev.crd.writing = [] → s.dev.crdQueue 0 = some n → s.dev.cleared.blockClaim n 65536 = (some b, d0) → p = b.drop 16 →
    d0.flag CRD_STAT_parked = false →
    (leAt p 2 1 = 1 → 8 ≤ p.length → leAt p 4 4 ≠ 0 → leAt p 4 4 ≤ 0xFFFFFFEF → d0.flag CRD_STAT_mounted = true →
      d0.flag CRD_STAT_wp = false →
      Gives (.crdAppend fails) s (fun _ =>
        ({ d0 with crd := { d0.crd with
          job := some { queue := n, op := 1, obj := leAt p 4 4, todo := crdChunks (p.drop 8) }
          tries := 0, since := d0.cclk, evrSeq := max d0.crd.evrSeq (evrSeqOf ((p.drop 8).drop 16)) } }).crdPush)) ∧
    (leAt p 2 1 = 2 → 16 ≤ p.length → 0 < leAt p 8 2 → leAt p 8 2 ≤ 128 → leAt p 10 2 = 0 →
      leAt p 4 4 + leAt p 8 2 ≤ d0.rd CRD_CAP_blocks → leAt p 12 4 + 512 * leAt p 8 2 ≤ sbSize → d0.rd CRD_STAT_type ≠ 0 → fails = [] →
      Gives (.crdReadBlocks fails) s (fun _ =>
        let d := { d0 with crd := { d0.crd with job := some { queue := n, op := 2 }, tries := 0, since := d0.cclk } }
        let x := (List.range (leAt p 8 2)).foldl (fun (x : Status × Dev) i =>
          let y := x.2.hwStore 0xFE (sbBase + leAt p 12 4 + 512 * i) (x.2.crdAt (leAt p 4 4 + i))
          (pickStatus [x.1, y.1], y.2)) (.ok, d)
        ({ x.2 with crd := { x.2.crd with job := none, lastAccess := x.2.cclk } }).blockDone n x.1 (if x.1 = Status.ok then leAt p 8 2 else 0))) ∧
    (leAt p 2 1 = 3 → d0.flag CRD_STAT_mounted = true → d0.crd.uncovered = [] →
      Gives (.crdSync fails) s (fun _ => d0.blockDone n .ok 0)) ∧
    (leAt p 2 1 = 4 → 8 ≤ p.length → leAt p 4 4 = 0 → d0.crd.card.isSome = true → 2048 < d0.rd CRD_CAP_blocks →
      d0.flag CRD_STAT_wp = false →
      Gives (.crdFormat fails) s (fun _ =>
        let id := d0.drbg.1 % 2 ^ 32
        let d := d0.drbg.2
        let b := crdBlock id 1 false false 0 0 (headerPayload id d.rfg.otp.uid (d.rd CRD_CAP_blocks) d.taiNs)
        { d with crd := { d.crd with
          job := some { queue := n, op := 4, formatId := id }
          writing := [{ lba := 0, bytes := b, wseq := 0, kind := 1 }, { lba := 1, bytes := b, wseq := 0, kind := 1 }]
          tries := 0, since := d.cclk, lastAccess := d.cclk } })) ∧
    (leAt p 2 1 = 5 → d0.flag CRD_STAT_present = true →
      Gives (.crdParkCommand fails) s (fun _ =>
        let d := ((d0.wrWord CRD_STAT_present 0).wr CRD_STAT_present (d0.rd CRD_STAT_present)).cardOff
        (d.wr CRD_STAT_parked 1).blockDone n .ok 0)) ∧
    (leAt p 2 1 = 0 → Gives (.crdAppend fails) s (fun _ => d0.blockDone n .badParam 0))) ∧
  (∀ (s : State) (k : Fin 2) (n : Nat) (b : List Byte) (d0 : Dev), s.on → s.dev.crdEnabled = true → s.dev.crd.job = none →
    s.dev.crd.writing = [] → (List.range (k + 1)).any s.dev.crdWaits = false → s.dev.crdQueue (k + 1) = some n →
    s.dev.cleared.blockClaim n 65536 = (some b, d0) → d0.flag CRD_STAT_parked = false → d0.flag CRD_STAT_mounted = true →
    d0.flag CRD_STAT_wp = false →
    Gives (.crdRecordItem k) s (fun _ =>
      ({ d0 with crd := { d0.crd with
        job := some { queue := n, op := 1, obj := d0.rd CRD_RQOBJk_object k, todo := crdChunks b }
        tries := 0, since := d0.cclk, evrSeq := max d0.crd.evrSeq (evrSeqOf (b.drop 16)) } }).crdPush)) ∧
  (∀ (s : State) (b : CrdBlock) (l : List CrdBlock), s.on → s.dev.crd.writing = b :: l → b.kind = 2 → s.dev.crdEnded = false →
    Gives .crdBlockAck s (fun d =>
      let c := { d.crd with blocks := d.crd.blocks.set b.lba b.bytes (zeros 512) }
      (({ d with crd := { c with
        writing := l
        lastAccess := d.cclk
        uncFrom := if c.uncovered.isEmpty then d.cclk else c.uncFrom
        uncovered := c.uncovered ++ [(b.wseq, leAt b.bytes 0x1FC 4)] } }).wr CRD_WSEQ_wseq (b.wseq + 1)).crdPush)) ∧
  (∀ (s : State) (cmd : Fin 64) (status : Word) (b : CrdBlock) (l : List CrdBlock), s.on → s.dev.crd.writing = b :: l → s.dev.crd.job = none →
    s.dev.crd.tries < 2 → s.dev.cclk * 5 ≤ s.dev.crd.since * 5 + 750000000 * 4 →
    Gives (.crdAttemptTimeout 1 cmd status) s (fun d =>
      let d := ({ d with crd := { d.crd with status := status.toNat } }).rated pgCRD 0x2002 0 3 status.toNat cmd
      ({ d with crd := { d.crd with tries := d.crd.tries + 1 } }).qStat 0)) ∧
  (∀ s : State, s.on → s.dev.crd.uncovered ≠ [] → s.dev.crd.uncFrom + max 1 (s.dev.rd CRD_CFG_cairn_ms) * cclkPerMs ≤ s.dev.cclk →
    s.dev.crd.writing = [] →
    Gives .crdCairnTimer s (fun d =>
      { d with crd := { d.crd with cairnDue := true, writing := [d.crdCairn], tries := 0, since := d.cclk, lastAccess := d.cclk } }))

/-! ### Contactless reader and tag island -/

/-- NFC's items (R449, R451, R453 to R455), its timeouts (R448, R449) and a ping (R457); the island's field, frames, session, commands and note
(R458 to R465). Which lengths the island takes for wrong is the model's choice (log entry 456). -/
def Obligations.ContactlessCompletes : Prop :=
  (∀ (s : State) (b p : List Byte) (d0 : Dev), s.on → s.dev.nfcEnabled = true → s.dev.cleared.nfcTake = (some b, d0) → p = b.drop 16 →
    (∀ (ext : Bool) (tags : List NfcTag) (left : Nat), leAt p 2 1 = 1 → 8 ≤ p.length → leAt p 4 1 = 1 → leAt p 5 3 = 0 →
      d0.flag NFC_STAT_field_on = true → (orderA tags).any (·.bad) = false → (orderA tags).length ≤ 8 →
      Gives (.nfcPoll ext tags left) s (fun _ =>
        ({ d0 with nfc := { d0.nfc with tags := (orderA tags).map (fun t => { tag := t }) } }).nfcEnd .ok (orderA tags).length)) ∧
    (∀ (tags : List NfcTag) (left : Nat), leAt p 2 1 = 1 → 8 ≤ p.length → leAt p 4 1 = 1 → leAt p 5 3 = 0 →
      d0.flag NFC_STAT_field_on = false →
      Gives (.nfcPoll true tags left) s (fun _ =>
        let d := d0.wr NFC_STAT_ext_field 1
        { d with nfc := { d.nfc with waiting := some (d.nfc.waiting.getD d.cclk) } })) ∧
    (∀ (ext : Bool) (i : Nat) (t : TagEnt) (a : List Byte) (crcBad : Bool), leAt p 2 1 = 2 → 8 ≤ p.length → i = leAt p 4 1 → leAt p 5 1 ≤ 3 →
      leAt p 6 2 = 0 → d0.nfc.tags[i]? = some t → d0.nfcActive = none → d0.flag NFC_STAT_field_on = true → answerBad t.tag a crcBad = false →
      Gives (.nfcActivate ext [] false (some a) crcBad) s (fun _ =>
        let u := { t with state := 2, rate := tagRate (rateByte t.tag a) (leAt p 5 1), ats := padTo 16 a }
        (({ d0 with nfc := { d0.nfc with tags := d0.nfc.tags.set i u } }).raise 981 i (leAt t.tag.uid 0 4)).nfcEnd .ok a.length)) ∧
    (∀ r : List Byte, leAt p 2 1 = 3 → d0.exchangeStatus b p = .ok → r.length ≤ leAt p 8 2 →
      Gives (.nfcExchange [] false (some r)) s (fun _ =>
        let x := d0.hwStore 0xFE (sbBase + leAt p 4 4) r
        x.2.nfcEnd x.1 (if x.1 = .ok then r.length else 0))) ∧
    (∀ (i : Nat) (t : TagEnt), leAt p 2 1 = 4 → d0.nfcActive = some i → d0.nfc.tags[i]? = some t →
      Gives .nfcDeselect s (fun _ => ({ d0 with nfc := { d0.nfc with tags := d0.nfc.tags.set i { t with state := 3 } } }).nfcEnd .ok 0)) ∧
    (leAt p 2 1 = 5 →
      Gives .nfcFieldOff s (fun _ => (({ d0 with nfc := { d0.nfc with tags := [] } }).wr NFC_STAT_field_on 0).nfcEnd .ok 0)) ∧
    (leAt p 2 1 = 0 → Gives .nfcFieldOff s (fun _ => d0.nfcEnd .badParam 0))) ∧
  (∀ s : State, s.on → s.dev.flag NFC_STAT_field_on = true → s.dev.nfc.waiting = none → s.dev.nfcActive = none →
    s.dev.nfc.lastDone + 2 * cclkPerS ≤ s.dev.cclk →
    Gives .nfcFieldIdleTimeout s (fun d => ({ d with nfc := { d.nfc with tags := [] } }).wr NFC_STAT_field_on 0)) ∧
  (∀ (s : State) (t : Nat), s.on → s.dev.nfc.waiting = some t → s.dev.flag NFC_STAT_ext_field = true → t + 100 * cclkPerMs ≤ s.dev.cclk →
    Gives .nfcExtFieldTimeout s (fun d => (d.raise 983 0 1).nfcEnd .busy 0)) ∧
  (∀ (s : State) (t : Nat), s.on → s.dev.nfc.waiting = some t → s.dev.isl.session.isSome = true → t + 2 * cclkPerS ≤ s.dev.cclk →
    Gives .nfcSessionWaitTimeout s (fun d => d.nfcEnd .busy 0)) ∧
  (∀ (s : State) (amp phase : Nat) (tags : List NfcTag) (left : Nat), s.on → s.dev.nfcEnabled = true → s.dev.flag NFC_LPCD_en = true →
    s.dev.flag NFC_STAT_field_on = false → s.dev.nfc.waiting = none → s.dev.isl.session = none →
    s.dev.nfc.pingAt + max 1 (s.dev.rd NFC_LPCD_period_ms) * cclkPerMs ≤ s.dev.cclk → s.dev.nfc.pings = [] →
    Gives (.nfcLpcdPing amp phase false tags left) s (fun d =>
      ({ d with nfc := { d.nfc with pingAt := d.cclk, far := 0, pings := [(amp, phase)] } }).wr NFC_STAT_detune 0)) ∧
  (∀ s : State, s.dev.islListens = true → s.dev.isl.field = false →
    Gives .islandFieldOn s (fun d =>
      let x := d.draw .random
      let y := x.2.draw .random
      { y.2 with isl := { d.isl with rng := leBytes x.1 16, field := true, uid := 0x08 :: leBytes y.1 3, proto := 0, halted := false
                                     selected := false, noted := false } })) ∧
  (∀ s : State, s.dev.islListens = true → s.dev.isl.field = true → s.dev.isl.proto = 0 →
    Gives (.islandTypeAFrame [0x26] 7) s (fun d =>
      ({ d with isl := { d.isl with proto := 1, halted := false } }).emit (.island [0x04, 0x00]))) ∧
  (∀ s : State, s.dev.islListens = true → s.dev.isl.field = true → s.dev.isl.proto = 4 →
    Gives (.islandPps 0 0) s (fun d => d.emit (.island (withCrcA [0xD0])))) ∧
  (∀ (s : State) (mv : Nat), s.dev.islListens = true → s.dev.isl.field = true → s.dev.isl.proto = 4 → s.dev.isl.session = none →
    Gives (.islandSelect ([0x00, 0xA4, 0x04, 0x00, 0x07] ++ islAid) mv) s (fun d =>
      ({ d with isl := { d.isl with selected := true, session := some d.isl.bank, sessions := satAdd 65535 d.isl.sessions 1 } }).emit
        (.apdu [0x90, 0x00]))) ∧
  (∀ (s : State) (b : List Byte) (mv : Nat) (a : Apdu) (l : List Byte), s.dev.islListens = true → s.dev.isl.field = true →
    s.dev.isl.proto = 4 → a = parseApdu b → a.kind = 2 → s.dev.isl.word a mv = 0x9000 → l = (s.dev.isl.file a.p1).drop (leValue a.data) →
    Gives (.islandRead b false mv) s (fun d =>
      d.emit (.apdu (l.take a.le ++ (if l.length < a.le then [0x62, 0x82] else [0x90, 0x00]))))) ∧
  (∀ (s : State) (b : List Byte) (mv : Nat) (a : Apdu), s.dev.islListens = true → s.dev.isl.field = true → s.dev.isl.proto = 4 →
    a = parseApdu b → a.kind = 3 → s.dev.isl.word a mv = 0x9000 →
    Gives (.islandGetStatus b mv) s (fun d =>
      let x := d.isl
      d.emit (.apdu (leBytes x.sessions 4 ++ leBytes x.noteSeq 4 ++ leBytes (x.bankOf (x.session.getD x.bank)).gen 4 ++
        leBytes (b2n d.sys.powered + 2 * b2n x.held + 4 * b2n (!x.failed.isEmpty)) 1 ++ leBytes x.refused 1 ++ leBytes 0 2 ++
        [0x90, 0x00])))) ∧
  (∀ (s : State) (b : List Byte) (mv : Nat) (a : Apdu), s.on → s.dev.islListens = true → s.dev.isl.field = true → s.dev.isl.proto = 4 →
    a = parseApdu b → a.kind = 4 → s.dev.isl.word a mv = 0x9000 → s.dev.isl.mark = none →
    Gives (.islandWriteNote b mv none) s (fun d =>
      let x := d.isl
      let page := notePage 1 a.data
      let y := { x with
        pages := x.pages.set 0 page []
        noted := true
        marks := x.marks.set x.nextMark { seq := 1, page := 0, crc := leAt page 136 4 } { seq := 0, page := 2, crc := 0 }
        nextMark := (x.nextMark + 1) % 64 }
      (({ d with isl := y }).raise 985 0 1).emit (.apdu [0x90, 0x00]))) ∧
  (∀ (s : State) (b : List Byte) (mv : Nat) (a : Apdu) (w : Nat), s.dev.islListens = true → s.dev.isl.field = true → s.dev.isl.proto = 4 →
    a = parseApdu b → a.kind = 4 → w = s.dev.isl.word a mv → w ≠ 0x9000 → w ≠ 0x6581 →
    Gives (.islandWriteNote b mv none) s (fun d =>
      ({ d with isl := { d.isl with refused := satAdd 255 d.isl.refused 1 } }).emit (.apdu (beBytes w 2)))) ∧
  (∀ s : State, s.dev.isl.proto = 4 → s.dev.isl.session = none →
    Gives (.islandSessionEnd 0) s (fun d => { d with isl := { d.isl with proto := 3, halted := true, selected := false } })) ∧
  (∀ s : State, s.dev.isl.session = none →
    Gives (.islandSessionEnd 2) s (fun d =>
      { d with isl := { d.isl with field := false, selected := false, proto := 0, halted := false, noted := false } })) ∧
  (∀ (s : State) (b : Nat), s.on → s.dev.isl.proto = 4 → s.dev.isl.session = some b → s.dev.isl.held = false →
    Gives (.islandSessionEnd 1) s (fun d =>
      (({ d with isl := { d.isl with proto := 3, halted := true, selected := false, session := none } }).raise 984 0 1).islReport)) ∧
  (∀ (s : State) (r : Req) (i : Nat), s.acceptsRead r pgNFC 0x07C → i = s.dev.rd NFC_NOTE_SEL_word →
    Gives (.nfcNoteDataRead r) s (fun d =>
      (d.wr NFC_NOTE_SEL_word ((i + 1) % 35)).answer .ok (leAt (d.isl.note.getD []) (4 * i) 4)))

/-! ### Rope and Isdin fabric -/

/-- The rope: edges followed and not followed, and one that a member set back passes over (R46, R473, R474, R476), a lost edge and the return (R476), every slot type (R471, R472, R474, R475, R477,
R479, R480), a slot in error (R472), and a lost member (R480). -/
def Obligations.RopeCompletes : Prop :=
  (∀ (s : State) (elapsed : Nat) (env : TickEnv), s.on → s.dev.ropeMember = true → s.dev.following = false →
    Gives (.ropeTickEdge elapsed false env) s (fun d =>
      { d with rop := { d.rop with edgeAt := d.cclk + elapsed, agreeFrom := some (d.rop.agreeFrom.getD d.cclk) } })) ∧
  (∀ (s : State) (elapsed : Nat) (env : TickEnv) (f n m : Dev), s.on → s.dev.ropeMember = true → s.dev.following = true →
    s.dev.rop.hold = 0 → f = s.dev.cleared.followTick elapsed →
    n = ((f.lockedTick (f.cclk - s.dev.cclk)).stepEventTick.applyCorrections).ext10Tick env.ext10 →
    m = ({ n with rop := { n.rop with edgeAt := n.cclk } }).ppsOutTick →
    exec (.ropeTickEdge elapsed true env) s = .next { s with
      rr := (s.rr + 1) % 112, dev := (m.ropeMark m.tim.lastTick).tickRest s.dev.cleared env } ∧
    (m.tim.lastTick % 1000000000 ≠ 0 →
      exec (.ropeTickEdge elapsed false env) s = .next { s with rr := (s.rr + 1) % 112, dev := m.tickRest s.dev.cleared env }) ∧
    (m.tim.lastTick % 1000000000 = 0 →
      exec (.ropeTickEdge elapsed false env) s = .next { s with
        rr := (s.rr + 1) % 112, dev := (m.ropeUnfollow).tickRest s.dev.cleared env })) ∧
  (∀ (s : State) (elapsed : Nat) (env : TickEnv), s.on → s.dev.ropeMember = true → s.dev.following = true → s.dev.rop.hold ≠ 0 →
    Gives (.ropeTickEdge elapsed false env) s (fun d =>
      let c := d.cclk + max 1 elapsed
      { d with
        cclk := c
        tim := { d.tim with tai := d.tim.tai + 50 * 2 ^ 32 }
        rop := { d.rop with hold := d.rop.hold - 1, edgeAt := c } })) ∧
  (∀ s : State, s.on → s.dev.ropeMember = true → s.dev.following = true →
    Gives .ropeTickLoss s (fun d =>
      ((({ d with rop := { d.rop with agreeFrom := none, time := [], step := [], hold := 0 } }).wr ROP_STAT_following 0).enterHoldover).raise 997 1 1)) ∧
  (∀ (s : State) (t : Nat), s.on → s.dev.ropeMember = true → s.dev.following = false → s.dev.rop.agreeFrom = some t →
    t + cclkPerS ≤ s.dev.cclk → s.dev.tim.rem.natAbs ≤ 2 ^ 32 →
    Gives .ropeRejoin s (fun d =>
      let d := if d.rd TIM_STATE_state = 2 then d else d.raise 640
      let d := { d with rop := { d.rop with hold := (d.tim.nextTick * 2 ^ 32 - d.tim.tai - 1) / (50 * 2 ^ 32) } }
      ((((d.wr ROP_STAT_following 1).wr TIM_STATE_state 2).wr TIM_STATE_ever_locked 1).wr TIM_STATE_hold_elapsed 0).raise 997 0 1)) ∧
  (∀ (s : State) (lane : Fin 4) (bits : BitVec 40) (v : Nat), s.on → s.dev.ropeLeader = true → lane ≠ 0 → slotType bits.toNat = 1 →
    v = bits.toNat % 2 ^ 36 →
    Gives (.ropeEventSlot lane bits true) s (fun d => ((d.laneSeen lane).fwdEntry lane (v / 2 ^ 18)).fwdEntry lane (v % 2 ^ 18))) ∧
  (∀ (s : State) (lane : Fin 4) (bits : BitVec 40) (v : Nat), s.on → s.dev.hearsLane lane = true → slotType bits.toNat = 2 →
    v = bits.toNat % 2 ^ 36 → v.testBit 33 = true →
    Gives (.ropeDataSlot lane bits true) s (fun d =>
      let d := d.laneSeen lane
      { d with rop := { d.rop with parts := d.rop.parts.set lane (leBytes (v % 2 ^ 32) 4) [] } })) ∧
  (∀ (s : State) (lane : Fin 4) (bits : BitVec 40) (v vc : Nat), s.on → s.dev.hearsLane lane = true → slotType bits.toNat = 3 →
    v = bits.toNat % 2 ^ 36 → vc = bitsOf v 35 34 →
    Gives (.ropeCreditSlot lane bits true) s (fun d =>
      let d := d.laneSeen lane
      d.addRopeCredit lane vc (min (bitsOf v 33 30) (8 - d.ropeCredit lane vc) : Nat))) ∧
  (∀ (s : State) (bits : BitVec 40) (v : Nat), s.on → s.dev.ropeMember = true → slotType bits.toNat = 4 → v = bits.toNat % 2 ^ 36 →
    bitsOf v 33 32 < 2 →
    Gives (.ropeTimeSlot 0 bits true) s (fun d =>
      { d with rop := { d.rop with time := d.rop.time.put (bitsOf v 33 32) (v % 2 ^ 32) } })) ∧
  (∀ (s : State) (bits : BitVec 40) (v : Nat), s.on → s.dev.ropeMember = true → slotType bits.toNat = 5 → v = bits.toNat % 2 ^ 36 →
    bitsOf v 33 32 < 2 → s.dev.rop.step = [] →
    Gives (.ropeStepSlot 0 bits true) s (fun d =>
      { d with rop := { d.rop with step := Tbl.put (Tbl.put [] 2 d.ticks) (bitsOf v 33 32) (v % 2 ^ 32) } })) ∧
  (∀ (s : State) (bits : BitVec 40) (low at_ : Nat), s.on → s.dev.ropeMember = true → slotType bits.toNat = 5 →
    bitsOf (bits.toNat % 2 ^ 36) 33 32 = 1 → s.dev.rop.step = [(0, low), (2, at_)] →
    Gives (.ropeStepSlot 0 bits true) s (fun d =>
      ({ d with rop := { d.rop with step := [] } }).adoptNext (low + bits.toNat % 2 ^ 32 * 2 ^ 32 + 50 * (d.ticks + 1 - at_)))) ∧
  (∀ (s : State) (bits : BitVec 40) (v n : Nat), s.on → s.dev.ropeMember = true → slotType bits.toNat = 6 → v = bits.toNat % 2 ^ 36 →
    n = bitsOf v 35 34 → s.dev.orbFollows n = true → bitsOf v 33 32 = 1 →
    Gives (.ropeOrbitSlot 0 bits true) s (fun d =>
      { d with rop := { d.rop with
        updates := d.rop.updates ++ [(n, v % 2 ^ 32 / 2 ^ 24, d.rop.orbit.get (8 * n) 0, signed 24 (v % 2 ^ 32))] } })) ∧
  (∀ (s : State) (bits : BitVec 40) (v n : Nat), s.on → s.dev.ropeMember = true → slotType bits.toNat = 7 → v = bits.toNat % 2 ^ 36 →
    n = bitsOf v 35 34 → s.dev.orbFollows n = true → s.dev.rop.hiSeen.contains n = true →
    (s.dev.orbit n).trail.headD 0 / orbCycle / 2 ^ 32 % 65536 = v % 65536 →
    Gives (.ropeOrbitHiSlot 0 bits true) s (fun d => d)) ∧
  (∀ (s : State) (bits : BitVec 40) (v n : Nat), s.on → s.dev.ropeMember = true → slotType bits.toNat = 7 → v = bits.toNat % 2 ^ 36 →
    n = bitsOf v 35 34 → s.dev.orbFollows n = true → s.dev.rop.hiSeen.contains n = true →
    (s.dev.orbit n).trail.headD 0 / orbCycle / 2 ^ 32 % 65536 ≠ v % 65536 →
    Gives (.ropeOrbitHiSlot 0 bits true) s (fun d =>
      let o := d.orbit n
      let by_ : Int := (((v % 65536 : Nat) : Int) - (o.trail.headD 0 / orbCycle / 2 ^ 32 % 65536 : Nat)) * 2 ^ 32 * orbCycle
      (d.setOrbit n { o with
        pos := o.pos + by_, vis := max o.vis (o.pos + by_).toNat
        trail := o.trail.map (fun x : Nat => ((x : Int) + by_).toNat) }).rated pgROP 0x1022 0 4 0x10 n)) ∧
  (∀ (s : State) (lane : Fin 4) (bits : BitVec 40), s.on → s.dev.hearsLane lane = true → slotType bits.toNat = 0 →
    Gives (.ropeIdleSlot lane bits true) s (fun d => d.laneSeen lane)) ∧
  (∀ (s : State) (lane : Fin 4) (bits : BitVec 40) (ok : Bool), s.on → s.dev.hearsLane lane = true →
    (ok = false ∨ 8 ≤ slotType bits.toNat) →
    Gives (.ropeIdleSlot lane bits ok) s (fun d =>
      (d.bump ROP_STAT_slot_err).rated pgROP 0x1020 lane 3 (0x10 + lane) (slotType bits.toNat))) ∧
  (∀ (s : State) (lane : Fin 4), s.on → s.dev.ropeLeader = true → (s.dev.rd ROP_STAT_members).testBit lane = true →
    s.dev.rop.seen.get lane 0 + 15 ≤ s.dev.ticks →
    Gives (.ropeMemberLoss lane) s (fun d =>
      (d.wr ROP_STAT_members (setBits (d.rd ROP_STAT_members) lane lane 0)).raise 996 lane 1))

/-- Isdin: link alignment and loss (R481, R504), HELLO (R491), flits received, held, resent and refused (R483 to R485), time transfer (R489),
discovery and routes (R493, R495), admission (R492), items sent, reassembled late or dropped (R486, R498, R499), and the export map (R498). -/
def Obligations.IsdinCompletes : Prop :=
  (∀ (s : State) (p : Fin 8), s.on → s.dev.flag STATUS_enabled 0 pgISD = true → s.dev.portEnabled p = true → s.dev.portMode p = 6 →
    s.dev.linkState p ≤ 1 → s.dev.ropePos = 0 →
    Gives (.isdLinkAlign p) s (fun d =>
      let d := (d.setLink p { helloAt := d.cclk, timeAt := d.cclk }).wr ISD_LINKp_state 2 p
      d.wr ISD_LINKp_col_port (d.isdSide p) p)) ∧
  (∀ (s : State) (p : Fin 8), s.on → s.dev.linkState p ≠ 0 →
    Gives (.isdLinkDown p) s (fun d => (d.raise 989 p 1).linkLeave p 0)) ∧
  (∀ (s : State) (p : Fin 8) (f : Flit) (b : List Byte), s.on → s.dev.linkState p = 2 → f.kind = 2 → f.crcOk = true → b = f.payload →
    b.length = 0x40 → leAt b 0 2 = 0x1501 → leAt b 0x36 1 = s.dev.isdMassif (s.dev.isdSide p) → leAt b 0x3D 1 ≠ 1 →
    (s.dev.link p).got = false →
    Gives (.isdHello p f) s (fun d =>
      let d := (d.isdStat p 1).wr ISD_LINKp_peer_node (bitsOf (leAt b 0x34 2) 11 6) p
      d.setLink p { d.link p with
        uid := slice b 4 16, addr := leAt b 0x34 2, got := true, credit := [leAt b 0x38 1, leAt b 0x39 1, leAt b 0x3A 1, leAt b 0x3B 1] })) ∧
  (∀ (s : State) (p : Fin 8) (f : Flit), s.on → s.dev.linkState p = 2 → f.kind = 2 → f.crcOk = false →
    Gives (.isdHello p f) s (fun d => ((d.isdStat p 1).isdStat p 2).rated pgISD 0x1001 p 3 p f.lseq)) ∧
  (∀ (s : State) (p : Fin 8), s.on → 2 ≤ s.dev.linkState p → (s.dev.link p).helloAt + 100 * cclkPerUs ≤ s.dev.cclk →
    Gives (.isdHelloTimer p) s (fun d =>
      (d.setLink p { d.link p with helloAt := d.cclk }).isdEmit p
        { flit0 with kind := 2, vc := 3, first := true, last := true
                     payload := d.helloPayload p })) ∧
  (∀ (s : State) (p : Fin 8) (f : Flit) (d1 : Dev), s.on → s.dev.linkState p = 4 → f.crcOk = true →
    d1 = ((s.dev.cleared.isdStat p 1).isdAck p f).isdSend p →
    (f.kind = 0 → Gives (.isdIdleFlit p f) s (fun _ => d1.isdIdle p)) ∧
    (f.kind = 6 → d1.linkUpNow p = true → Gives (.isdNak p f) s (fun _ => (d1.isdResend p).isdIdle p)) ∧
    (f.kind = 3 → d1.linkUpNow p = true → ∀ off age : Nat,
      Gives (.isdTimeFlit p f off age) s (fun _ => (d1.timeIn p f.payload (d1.rxStamp p off age)).isdIdle p)) ∧
    (d1.linkState p = 4 → f.lseq = ((d1.link p).rx + 1) % 65536 → getN (d1.link p).peer f.vc ≠ 0 → ∀ d2 : Dev,
      d2 = d1.setLink p { d1.link p with
        rx := f.lseq, gap := false, nakAt := d1.cclk
        peer := (d1.link p).peer.set f.vc (getN (d1.link p).peer f.vc - 1)
        owed := (d1.link p).owed.set f.vc (getN (d1.link p).owed f.vc + 1) } →
      (f.kind = 1 → Gives (.isdDataFlit p f) s (fun _ => ((d2.dataIn p f).isdRetry).isdIdle p)) ∧
      (f.kind = 4 → Gives (.isdTopo p f) s (fun _ => ((d2.topoIn p f).isdRetry).isdIdle p)) ∧
      (f.kind = 5 → Gives (.isdRoute p f) s (fun _ => ((d2.routeIn p f).isdRetry).isdIdle p))) ∧
    (f.kind = 1 → d1.linkState p = 4 → f.lseq ≠ ((d1.link p).rx + 1) % 65536 → (d1.link p).gap = true →
      Gives (.isdDataFlit p f) s (fun _ => d1.rated pgISD 0x1001 p 3 p f.lseq))) ∧
  (∀ (s : State) (p : Fin 8) (h : HeldFlit), s.on → s.dev.linkUpNow p = true → (s.dev.link p).held = [h] → h.lastAt + 400 ≤ s.dev.cclk →
    h.tries < 3 → s.dev.cclk ≤ h.firstAt + 2 * cclkPerUs →
    Gives (.isdAckTimeout p) s (fun d =>
      (((d.setLink p { d.link p with held := [{ h with tries := h.tries + 1, lastAt := d.cclk }] }).isdEmit p { h.f with resent := true }).bump
        ISD_LINKp_resent 1 p).qStat 0)) ∧
  (∀ (s : State) (p : Fin 8) (h : HeldFlit), s.on → s.dev.linkUpNow p = true → (s.dev.link p).held = [h] → h.lastAt + 400 ≤ s.dev.cclk →
    3 ≤ h.tries → Gives (.isdAckTimeout p) s (fun d => ((d.isdStat p 3).raise 990 p 1).linkLeave p 2)) ∧
  (∀ (s : State) (p : Fin 8), s.on → s.dev.linkUpNow p = true → (s.dev.link p).gap = true → (s.dev.link p).nakAt + 400 ≤ s.dev.cclk →
    Gives (.isdNakRepeat p) s (fun d =>
      (d.setLink p { d.link p with gap := true, nakAt := d.cclk }).isdEmit p { flit0 with kind := 6 })) ∧
  (∀ (s : State) (p : Fin 8) (off eighths n : Nat) (fabric : Bool) (h : Nat × Nat), s.on → s.dev.linkUpNow p = true →
    (s.dev.link p).timeAt + 125 * cclkPerUs ≤ s.dev.cclk → n = ((s.dev.link p).tseq + 1) % 65536 → h = (s.dev.link p).heard.getD (0, 0) →
    Gives (.isdTimeTimer p off eighths fabric) s (fun d =>
      let l := d.link p
      let b := leBytes n 2 ++ leBytes l.sent.1 2 ++ stampBytes l.sent.2 ++ leBytes h.1 2 ++ stampBytes h.2 ++
        leBytes (d.rd TIM_STATE_state) 1 ++ leBytes (d.ownHops fabric) 1
      (d.setLink p { l with tseq := n, sent := (n, d.txStamp p off eighths), timeAt := d.cclk }).isdEmit p
        { flit0 with kind := 3, vc := 3, first := true, last := true, payload := b })) ∧
  (∀ s : State, s.on → s.dev.flag STATUS_enabled 0 pgISD = true → s.dev.isd.floodAt + 100 * cclkPerMs ≤ s.dev.cclk →
    Gives .isdTopoTimer s (fun d => d.floodOwn)) ∧
  (∀ (s : State) (reqs : List (List Byte × Nat)), s.on → s.dev.flag STATUS_enabled 0 pgISD = true → s.dev.isd.stood = false →
    s.dev.isd.changedAt + 2 * cclkPerMs ≤ s.dev.cclk →
    (({ s.dev.cleared with isd := { s.dev.isd with stood := true } }).elect 0 reqs).flag ISD_COL_en = false →
    Gives (.isdElectionStands reqs) s (fun d => ({ d with isd := { d.isd with stood := true } }).elect 0 reqs)) ∧
  (∀ (s : State) (r : Req) (v : BitVec 8), s.accepts r pgISD 0x050 → s.dev.flag ISD_CFG_admit = false →
    Effects (.isdAdmitWrite r v) s pgISD (fun d => (d.plainWrite pgISD 0x050 v.toNat).2)) ∧
  (∀ (s : State) (n : Fin 16384) (b : List Byte) (i : Nat) (d0 : Dev), s.on → (s.dev.q n).consKind = 3 → (s.dev.q n).consId = 1 →
    (s.dev.ropeMember = true ∨ (s.dev.flag STATUS_enabled 0 pgISD = true ∧ s.dev.unaddressed = false)) →
    s.dev.cleared.isdClaim n 65536 = (some (b, i), d0) →
    (∀ e : Nat × Nat, d0.xmapOf n = some e → Gives (.isdItemSend n) s (fun _ => d0.isdExport n i b e.2)) ∧
    (d0.xmapOf n = none → s.dev.rd ISD_CFG2_ret_q = n → Gives (.isdItemSend n) s (fun _ => d0.isdReturned n b i)) ∧
    (d0.xmapOf n = none → s.dev.rd ISD_CFG2_ret_q ≠ n →
      Gives (.isdItemSend n) s (fun _ =>
        let d := (d0.voidSlot n ((d0.q n).cons + i)).rated pgISD 0x100D 0 3 0 n
        (d.completeAt n i 0xFE Status.aborted.code 0).isdFree n 65536))) ∧
  (∀ (s : State) (j : Nat) (x : IsdPart), s.on → s.dev.isd.parts[j]? = some x → x.at_ + cclkPerMs ≤ s.dev.cclk →
    Gives (.isdReassemblyTimeout j) s (fun d =>
      ({ d with isd := { d.isd with parts := d.isd.parts.eraseIdx j } }).isdStat x.port 5)) ∧
  (∀ (s : State) (p : Fin 8) (t : Nat), s.on → (s.dev.link p).vc1From = some t → t + max 1 (s.dev.rd ISD_CFG_vc1_late) * cclkPerUs ≤ s.dev.cclk →
    Gives (.isdVc1LateDrop p) s (fun d =>
      ((d.setLink p { d.link p with waiting := withoutVc1 (d.link p).waiting, vc1From := none }).isdStat p 6).vc1Note p)) ∧
  (∀ (s : State) (r : Req) (k w0 w1 : Nat), s.accepts r pgISD 0x11C → k = s.dev.rd ISD_XMAP_SEL_entry → w0 = s.dev.rdWord ISD_XMAP_W0_valid →
    w1 = s.dev.rdWord ISD_XMAP_W1_dst → bitsOf w1 21 16 = 0 →
    ((w0.testBit 31 && s.dev.isd.xmap.any (fun e => e.1 != k && e.2.1.testBit 31 && bitsOf e.2.1 13 0 == bitsOf w0 13 0)) = false →
      Effects (.isdXmapCommit r) s pgISD (fun d => { d with isd := { d.isd with xmap := d.isd.xmap.set k (w0, w1) (0, 0) } })) ∧
    ((w0.testBit 31 && s.dev.isd.xmap.any (fun e => e.1 != k && e.2.1.testBit 31 && bitsOf e.2.1 13 0 == bitsOf w0 13 0)) = true →
      TurnedAway (.isdXmapCommit r) s pgISD .duplicate)) ∧
  (∀ (s : State) (r : Req) (k : Nat), s.accepts r pgISD 0x11C → k = s.dev.rd ISD_XMAP_SEL_entry →
    Effects (.isdXmapInvalidate r) s pgISD (fun d => { d with isd := { d.isd with xmap := d.isd.xmap.set k (0, 0) (0, 0) } }) ∧
    Effects (.isdXmapRead r) s pgISD (fun d =>
      let e := d.isd.xmap.get k (0, 0)
      (d.wrWord ISD_XMAP_W0_valid e.1).wrWord ISD_XMAP_W1_dst e.2))

/-! ### The machine as a whole -/

/-- What a power-on reset by POR_N leaves before its first tick: nothing waits, the round-robin pointer is 0 (R541), every register reads its
table's reset value but SYS_RST_CAUSE, which names the reset, and LCC_COUNT, which shows an OTP without an owner; that the device has
power, that its OTP is blank, and how long RESET_OUT_N stays low is the model's choice of the moment (log entry 120). Memory lists nothing. -/
def Obligations.ResetState : Prop :=
  State.reset.pending = [] ∧ State.reset.rr = 0 ∧ State.reset.on ∧ State.reset.dev.mem = [] ∧ State.reset.dev.ticks = 0 ∧
  State.reset.dev.rd SYS_RST_CAUSE_por_pin = 1 ∧ State.reset.dev.rd LCC_COUNT_owner_idx = 15 ∧
  (∀ key : Nat, key ≠ (SYS_RST_CAUSE_por_pin : Fld).key 0 0 → key ≠ (LCC_COUNT_owner_idx : Fld).key 0 0 →
    State.reset.dev.word key = (BitVec.ofNat 32 (resetOfKey key)).toNat) ∧
  (∀ e : Nat, State.reset.dev.engOf e = ({} : Eng)) ∧ memWf State.reset.dev.mem = true

/-- No command stops the device: from every state a step answers a next state, which waits for exactly the queue's rest. -/
def Obligations.StepAnswers : Prop :=
  ∀ s : State, ∃ t : State, step s = .next t ∧ t.pending = s.pending.tail

/-- The round-robin pointer stays a requester ID below 112, whatever command a step takes (R25, R541). -/
def Obligations.RoundRobinStays : Prop :=
  ∀ s t : State, s.rr < 112 → step s = .next t → t.rr < 112

/-- A tick's TAI value is above the one before, whatever correction of the counter takes effect, and the next tick stays at least 50 ns ahead
(R35, R45, R46, R48). -/
def Obligations.TickTimesRise : Prop :=
  ∀ (d : Dev) (ext10 : Int), d.tim.lastTick + 50 ≤ d.tim.nextTick →
    (d.timTick ext10).tim.lastTick = d.tim.nextTick ∧ d.tim.lastTick < (d.timTick ext10).tim.lastTick ∧
    (d.timTick ext10).tim.lastTick + 50 ≤ (d.timTick ext10).tim.nextTick
end

