-- ==== Sys2Proof/Laws/State.lean ====
section
/-! SUPPORT. The fields of the device under its named updates: every field that an update does not name stays as it was. -/

namespace Sys2Proof.Machine

open Sys2Proof

/-! ### `setWord` -/

@[simp] theorem Dev.setWord_cclk (d : Dev) (key v : Nat) : (d.setWord key v).cclk = d.cclk := rfl
@[simp] theorem Dev.setWord_ticks (d : Dev) (key v : Nat) : (d.setWord key v).ticks = d.ticks := rfl
@[simp] theorem Dev.setWord_off (d : Dev) (key v : Nat) : (d.setWord key v).off = d.off := rfl
@[simp] theorem Dev.setWord_brk (d : Dev) (key v : Nat) : (d.setWord key v).brk = d.brk := rfl
@[simp] theorem Dev.setWord_draws (d : Dev) (key v : Nat) : (d.setWord key v).draws = d.draws := rfl
@[simp] theorem Dev.setWord_resp (d : Dev) (key v : Nat) : (d.setWord key v).resp = d.resp := rfl
@[simp] theorem Dev.setWord_out (d : Dev) (key v : Nat) : (d.setWord key v).out = d.out := rfl
@[simp] theorem Dev.setWord_wlLocked (d : Dev) (key v : Nat) : (d.setWord key v).wlLocked = d.wlLocked := rfl
@[simp] theorem Dev.setWord_shadow (d : Dev) (key v : Nat) : (d.setWord key v).shadow = d.shadow := rfl
@[simp] theorem Dev.setWord_shadowSeen (d : Dev) (key v : Nat) : (d.setWord key v).shadowSeen = d.shadowSeen := rfl
@[simp] theorem Dev.setWord_pairHi (d : Dev) (key v : Nat) : (d.setWord key v).pairHi = d.pairHi := rfl
@[simp] theorem Dev.setWord_lockClear (d : Dev) (key v : Nat) : (d.setWord key v).lockClear = d.lockClear := rfl
@[simp] theorem Dev.setWord_inReset (d : Dev) (key v : Nat) : (d.setWord key v).inReset = d.inReset := rfl
@[simp] theorem Dev.setWord_mem (d : Dev) (key v : Nat) : (d.setWord key v).mem = d.mem := rfl
@[simp] theorem Dev.setWord_bivouac (d : Dev) (key v : Nat) : (d.setWord key v).bivouac = d.bivouac := rfl
@[simp] theorem Dev.setWord_tim (d : Dev) (key v : Nat) : (d.setWord key v).tim = d.tim := rfl
@[simp] theorem Dev.setWord_orb (d : Dev) (key v : Nat) : (d.setWord key v).orb = d.orb := rfl
@[simp] theorem Dev.setWord_cmp (d : Dev) (key v : Nat) : (d.setWord key v).cmp = d.cmp := rfl
@[simp] theorem Dev.setWord_evm (d : Dev) (key v : Nat) : (d.setWord key v).evm = d.evm := rfl
@[simp] theorem Dev.setWord_bio (d : Dev) (key v : Nat) : (d.setWord key v).bio = d.bio := rfl
@[simp] theorem Dev.setWord_pit (d : Dev) (key v : Nat) : (d.setWord key v).pit = d.pit := rfl
@[simp] theorem Dev.setWord_tou (d : Dev) (key v : Nat) : (d.setWord key v).tou = d.tou := rfl
@[simp] theorem Dev.setWord_evr (d : Dev) (key v : Nat) : (d.setWord key v).evr = d.evr := rfl
@[simp] theorem Dev.setWord_hst (d : Dev) (key v : Nat) : (d.setWord key v).hst = d.hst := rfl
@[simp] theorem Dev.setWord_ports (d : Dev) (key v : Nat) : (d.setWord key v).ports = d.ports := rfl
@[simp] theorem Dev.setWord_pairs (d : Dev) (key v : Nat) : (d.setWord key v).pairs = d.pairs := rfl
@[simp] theorem Dev.setWord_qmg (d : Dev) (key v : Nat) : (d.setWord key v).qmg = d.qmg := rfl
@[simp] theorem Dev.setWord_trv (d : Dev) (key v : Nat) : (d.setWord key v).trv = d.trv := rfl
@[simp] theorem Dev.setWord_rsm (d : Dev) (key v : Nat) : (d.setWord key v).rsm = d.rsm := rfl
@[simp] theorem Dev.setWord_cnv (d : Dev) (key v : Nat) : (d.setWord key v).cnv = d.cnv := rfl
@[simp] theorem Dev.setWord_wfc (d : Dev) (key v : Nat) : (d.setWord key v).wfc = d.wfc := rfl
@[simp] theorem Dev.setWord_bad (d : Dev) (key v : Nat) : (d.setWord key v).bad = d.bad := rfl
@[simp] theorem Dev.setWord_initTill (d : Dev) (key v : Nat) : (d.setWord key v).initTill = d.initTill := rfl
@[simp] theorem Dev.setWord_scramble (d : Dev) (key v : Nat) : (d.setWord key v).scramble = d.scramble := rfl
@[simp] theorem Dev.setWord_lineCtr (d : Dev) (key v : Nat) : (d.setWord key v).lineCtr = d.lineCtr := rfl
@[simp] theorem Dev.setWord_ctrCache (d : Dev) (key v : Nat) : (d.setWord key v).ctrCache = d.ctrCache := rfl
@[simp] theorem Dev.setWord_ctrStored (d : Dev) (key v : Nat) : (d.setWord key v).ctrStored = d.ctrStored := rfl
@[simp] theorem Dev.setWord_vaultTill (d : Dev) (key v : Nat) : (d.setWord key v).vaultTill = d.vaultTill := rfl
@[simp] theorem Dev.setWord_dramOld (d : Dev) (key v : Nat) : (d.setWord key v).dramOld = d.dramOld := rfl
@[simp] theorem Dev.setWord_dramNew (d : Dev) (key v : Nat) : (d.setWord key v).dramNew = d.dramNew := rfl
@[simp] theorem Dev.setWord_scrubAt (d : Dev) (key v : Nat) : (d.setWord key v).scrubAt = d.scrubAt := rfl
@[simp] theorem Dev.setWord_eng (d : Dev) (key v : Nat) : (d.setWord key v).eng = d.eng := rfl
@[simp] theorem Dev.setWord_rel (d : Dev) (key v : Nat) : (d.setWord key v).rel = d.rel := rfl
@[simp] theorem Dev.setWord_vault (d : Dev) (key v : Nat) : (d.setWord key v).vault = d.vault := rfl
@[simp] theorem Dev.setWord_cpl (d : Dev) (key v : Nat) : (d.setWord key v).cpl = d.cpl := rfl
@[simp] theorem Dev.setWord_pke (d : Dev) (key v : Nat) : (d.setWord key v).pke = d.pke := rfl
@[simp] theorem Dev.setWord_hsh (d : Dev) (key v : Nat) : (d.setWord key v).hsh = d.hsh := rfl
@[simp] theorem Dev.setWord_flc (d : Dev) (key v : Nat) : (d.setWord key v).flc = d.flc := rfl
@[simp] theorem Dev.setWord_rfg (d : Dev) (key v : Nat) : (d.setWord key v).rfg = d.rfg := rfl
@[simp] theorem Dev.setWord_crd (d : Dev) (key v : Nat) : (d.setWord key v).crd = d.crd := rfl
@[simp] theorem Dev.setWord_nfc (d : Dev) (key v : Nat) : (d.setWord key v).nfc = d.nfc := rfl
@[simp] theorem Dev.setWord_isl (d : Dev) (key v : Nat) : (d.setWord key v).isl = d.isl := rfl
@[simp] theorem Dev.setWord_rop (d : Dev) (key v : Nat) : (d.setWord key v).rop = d.rop := rfl
@[simp] theorem Dev.setWord_isd (d : Dev) (key v : Nat) : (d.setWord key v).isd = d.isd := rfl
@[simp] theorem Dev.setWord_tmp (d : Dev) (key v : Nat) : (d.setWord key v).tmp = d.tmp := rfl
@[simp] theorem Dev.setWord_bkd (d : Dev) (key v : Nat) : (d.setWord key v).bkd = d.bkd := rfl
@[simp] theorem Dev.setWord_jtag (d : Dev) (key v : Nat) : (d.setWord key v).jtag = d.jtag := rfl
@[simp] theorem Dev.setWord_sys (d : Dev) (key v : Nat) : (d.setWord key v).sys = d.sys := rfl

/-! ### `wr` -/

@[simp] theorem Dev.wr_cclk (d : Dev) (f : Fld) (v k p : Nat) : (d.wr f v k p).cclk = d.cclk := rfl
@[simp] theorem Dev.wr_ticks (d : Dev) (f : Fld) (v k p : Nat) : (d.wr f v k p).ticks = d.ticks := rfl
@[simp] theorem Dev.wr_off (d : Dev) (f : Fld) (v k p : Nat) : (d.wr f v k p).off = d.off := rfl
@[simp] theorem Dev.wr_brk (d : Dev) (f : Fld) (v k p : Nat) : (d.wr f v k p).brk = d.brk := rfl
@[simp] theorem Dev.wr_draws (d : Dev) (f : Fld) (v k p : Nat) : (d.wr f v k p).draws = d.draws := rfl
@[simp] theorem Dev.wr_resp (d : Dev) (f : Fld) (v k p : Nat) : (d.wr f v k p).resp = d.resp := rfl
@[simp] theorem Dev.wr_out (d : Dev) (f : Fld) (v k p : Nat) : (d.wr f v k p).out = d.out := rfl
@[simp] theorem Dev.wr_wlLocked (d : Dev) (f : Fld) (v k p : Nat) : (d.wr f v k p).wlLocked = d.wlLocked := rfl
@[simp] theorem Dev.wr_shadow (d : Dev) (f : Fld) (v k p : Nat) : (d.wr f v k p).shadow = d.shadow := rfl
@[simp] theorem Dev.wr_shadowSeen (d : Dev) (f : Fld) (v k p : Nat) : (d.wr f v k p).shadowSeen = d.shadowSeen := rfl
@[simp] theorem Dev.wr_pairHi (d : Dev) (f : Fld) (v k p : Nat) : (d.wr f v k p).pairHi = d.pairHi := rfl
@[simp] theorem Dev.wr_lockClear (d : Dev) (f : Fld) (v k p : Nat) : (d.wr f v k p).lockClear = d.lockClear := rfl
@[simp] theorem Dev.wr_inReset (d : Dev) (f : Fld) (v k p : Nat) : (d.wr f v k p).inReset = d.inReset := rfl
@[simp] theorem Dev.wr_mem (d : Dev) (f : Fld) (v k p : Nat) : (d.wr f v k p).mem = d.mem := rfl
@[simp] theorem Dev.wr_bivouac (d : Dev) (f : Fld) (v k p : Nat) : (d.wr f v k p).bivouac = d.bivouac := rfl
@[simp] theorem Dev.wr_tim (d : Dev) (f : Fld) (v k p : Nat) : (d.wr f v k p).tim = d.tim := rfl
@[simp] theorem Dev.wr_orb (d : Dev) (f : Fld) (v k p : Nat) : (d.wr f v k p).orb = d.orb := rfl
@[simp] theorem Dev.wr_cmp (d : Dev) (f : Fld) (v k p : Nat) : (d.wr f v k p).cmp = d.cmp := rfl
@[simp] theorem Dev.wr_evm (d : Dev) (f : Fld) (v k p : Nat) : (d.wr f v k p).evm = d.evm := rfl
@[simp] theorem Dev.wr_bio (d : Dev) (f : Fld) (v k p : Nat) : (d.wr f v k p).bio = d.bio := rfl
@[simp] theorem Dev.wr_pit (d : Dev) (f : Fld) (v k p : Nat) : (d.wr f v k p).pit = d.pit := rfl
@[simp] theorem Dev.wr_tou (d : Dev) (f : Fld) (v k p : Nat) : (d.wr f v k p).tou = d.tou := rfl
@[simp] theorem Dev.wr_evr (d : Dev) (f : Fld) (v k p : Nat) : (d.wr f v k p).evr = d.evr := rfl
@[simp] theorem Dev.wr_hst (d : Dev) (f : Fld) (v k p : Nat) : (d.wr f v k p).hst = d.hst := rfl
@[simp] theorem Dev.wr_ports (d : Dev) (f : Fld) (v k p : Nat) : (d.wr f v k p).ports = d.ports := rfl
@[simp] theorem Dev.wr_pairs (d : Dev) (f : Fld) (v k p : Nat) : (d.wr f v k p).pairs = d.pairs := rfl
@[simp] theorem Dev.wr_qmg (d : Dev) (f : Fld) (v k p : Nat) : (d.wr f v k p).qmg = d.qmg := rfl
@[simp] theorem Dev.wr_trv (d : Dev) (f : Fld) (v k p : Nat) : (d.wr f v k p).trv = d.trv := rfl
@[simp] theorem Dev.wr_rsm (d : Dev) (f : Fld) (v k p : Nat) : (d.wr f v k p).rsm = d.rsm := rfl
@[simp] theorem Dev.wr_cnv (d : Dev) (f : Fld) (v k p : Nat) : (d.wr f v k p).cnv = d.cnv := rfl
@[simp] theorem Dev.wr_wfc (d : Dev) (f : Fld) (v k p : Nat) : (d.wr f v k p).wfc = d.wfc := rfl
@[simp] theorem Dev.wr_bad (d : Dev) (f : Fld) (v k p : Nat) : (d.wr f v k p).bad = d.bad := rfl
@[simp] theorem Dev.wr_initTill (d : Dev) (f : Fld) (v k p : Nat) : (d.wr f v k p).initTill = d.initTill := rfl
@[simp] theorem Dev.wr_scramble (d : Dev) (f : Fld) (v k p : Nat) : (d.wr f v k p).scramble = d.scramble := rfl
@[simp] theorem Dev.wr_lineCtr (d : Dev) (f : Fld) (v k p : Nat) : (d.wr f v k p).lineCtr = d.lineCtr := rfl
@[simp] theorem Dev.wr_ctrCache (d : Dev) (f : Fld) (v k p : Nat) : (d.wr f v k p).ctrCache = d.ctrCache := rfl
@[simp] theorem Dev.wr_ctrStored (d : Dev) (f : Fld) (v k p : Nat) : (d.wr f v k p).ctrStored = d.ctrStored := rfl
@[simp] theorem Dev.wr_vaultTill (d : Dev) (f : Fld) (v k p : Nat) : (d.wr f v k p).vaultTill = d.vaultTill := rfl
@[simp] theorem Dev.wr_dramOld (d : Dev) (f : Fld) (v k p : Nat) : (d.wr f v k p).dramOld = d.dramOld := rfl
@[simp] theorem Dev.wr_dramNew (d : Dev) (f : Fld) (v k p : Nat) : (d.wr f v k p).dramNew = d.dramNew := rfl
@[simp] theorem Dev.wr_scrubAt (d : Dev) (f : Fld) (v k p : Nat) : (d.wr f v k p).scrubAt = d.scrubAt := rfl
@[simp] theorem Dev.wr_eng (d : Dev) (f : Fld) (v k p : Nat) : (d.wr f v k p).eng = d.eng := rfl
@[simp] theorem Dev.wr_rel (d : Dev) (f : Fld) (v k p : Nat) : (d.wr f v k p).rel = d.rel := rfl
@[simp] theorem Dev.wr_vault (d : Dev) (f : Fld) (v k p : Nat) : (d.wr f v k p).vault = d.vault := rfl
@[simp] theorem Dev.wr_cpl (d : Dev) (f : Fld) (v k p : Nat) : (d.wr f v k p).cpl = d.cpl := rfl
@[simp] theorem Dev.wr_pke (d : Dev) (f : Fld) (v k p : Nat) : (d.wr f v k p).pke = d.pke := rfl
@[simp] theorem Dev.wr_hsh (d : Dev) (f : Fld) (v k p : Nat) : (d.wr f v k p).hsh = d.hsh := rfl
@[simp] theorem Dev.wr_flc (d : Dev) (f : Fld) (v k p : Nat) : (d.wr f v k p).flc = d.flc := rfl
@[simp] theorem Dev.wr_rfg (d : Dev) (f : Fld) (v k p : Nat) : (d.wr f v k p).rfg = d.rfg := rfl
@[simp] theorem Dev.wr_crd (d : Dev) (f : Fld) (v k p : Nat) : (d.wr f v k p).crd = d.crd := rfl
@[simp] theorem Dev.wr_nfc (d : Dev) (f : Fld) (v k p : Nat) : (d.wr f v k p).nfc = d.nfc := rfl
@[simp] theorem Dev.wr_isl (d : Dev) (f : Fld) (v k p : Nat) : (d.wr f v k p).isl = d.isl := rfl
@[simp] theorem Dev.wr_rop (d : Dev) (f : Fld) (v k p : Nat) : (d.wr f v k p).rop = d.rop := rfl
@[simp] theorem Dev.wr_isd (d : Dev) (f : Fld) (v k p : Nat) : (d.wr f v k p).isd = d.isd := rfl
@[simp] theorem Dev.wr_tmp (d : Dev) (f : Fld) (v k p : Nat) : (d.wr f v k p).tmp = d.tmp := rfl
@[simp] theorem Dev.wr_bkd (d : Dev) (f : Fld) (v k p : Nat) : (d.wr f v k p).bkd = d.bkd := rfl
@[simp] theorem Dev.wr_jtag (d : Dev) (f : Fld) (v k p : Nat) : (d.wr f v k p).jtag = d.jtag := rfl
@[simp] theorem Dev.wr_sys (d : Dev) (f : Fld) (v k p : Nat) : (d.wr f v k p).sys = d.sys := rfl

/-! ### `wrWord` -/

@[simp] theorem Dev.wrWord_cclk (d : Dev) (f : Fld) (v k p : Nat) : (d.wrWord f v k p).cclk = d.cclk := rfl
@[simp] theorem Dev.wrWord_ticks (d : Dev) (f : Fld) (v k p : Nat) : (d.wrWord f v k p).ticks = d.ticks := rfl
@[simp] theorem Dev.wrWord_off (d : Dev) (f : Fld) (v k p : Nat) : (d.wrWord f v k p).off = d.off := rfl
@[simp] theorem Dev.wrWord_brk (d : Dev) (f : Fld) (v k p : Nat) : (d.wrWord f v k p).brk = d.brk := rfl
@[simp] theorem Dev.wrWord_draws (d : Dev) (f : Fld) (v k p : Nat) : (d.wrWord f v k p).draws = d.draws := rfl
@[simp] theorem Dev.wrWord_resp (d : Dev) (f : Fld) (v k p : Nat) : (d.wrWord f v k p).resp = d.resp := rfl
@[simp] theorem Dev.wrWord_out (d : Dev) (f : Fld) (v k p : Nat) : (d.wrWord f v k p).out = d.out := rfl
@[simp] theorem Dev.wrWord_wlLocked (d : Dev) (f : Fld) (v k p : Nat) : (d.wrWord f v k p).wlLocked = d.wlLocked := rfl
@[simp] theorem Dev.wrWord_shadow (d : Dev) (f : Fld) (v k p : Nat) : (d.wrWord f v k p).shadow = d.shadow := rfl
@[simp] theorem Dev.wrWord_shadowSeen (d : Dev) (f : Fld) (v k p : Nat) : (d.wrWord f v k p).shadowSeen = d.shadowSeen := rfl
@[simp] theorem Dev.wrWord_pairHi (d : Dev) (f : Fld) (v k p : Nat) : (d.wrWord f v k p).pairHi = d.pairHi := rfl
@[simp] theorem Dev.wrWord_lockClear (d : Dev) (f : Fld) (v k p : Nat) : (d.wrWord f v k p).lockClear = d.lockClear := rfl
@[simp] theorem Dev.wrWord_inReset (d : Dev) (f : Fld) (v k p : Nat) : (d.wrWord f v k p).inReset = d.inReset := rfl
@[simp] theorem Dev.wrWord_mem (d : Dev) (f : Fld) (v k p : Nat) : (d.wrWord f v k p).mem = d.mem := rfl
@[simp] theorem Dev.wrWord_bivouac (d : Dev) (f : Fld) (v k p : Nat) : (d.wrWord f v k p).bivouac = d.bivouac := rfl
@[simp] theorem Dev.wrWord_tim (d : Dev) (f : Fld) (v k p : Nat) : (d.wrWord f v k p).tim = d.tim := rfl
@[simp] theorem Dev.wrWord_orb (d : Dev) (f : Fld) (v k p : Nat) : (d.wrWord f v k p).orb = d.orb := rfl
@[simp] theorem Dev.wrWord_cmp (d : Dev) (f : Fld) (v k p : Nat) : (d.wrWord f v k p).cmp = d.cmp := rfl
@[simp] theorem Dev.wrWord_evm (d : Dev) (f : Fld) (v k p : Nat) : (d.wrWord f v k p).evm = d.evm := rfl
@[simp] theorem Dev.wrWord_bio (d : Dev) (f : Fld) (v k p : Nat) : (d.wrWord f v k p).bio = d.bio := rfl
@[simp] theorem Dev.wrWord_pit (d : Dev) (f : Fld) (v k p : Nat) : (d.wrWord f v k p).pit = d.pit := rfl
@[simp] theorem Dev.wrWord_tou (d : Dev) (f : Fld) (v k p : Nat) : (d.wrWord f v k p).tou = d.tou := rfl
@[simp] theorem Dev.wrWord_evr (d : Dev) (f : Fld) (v k p : Nat) : (d.wrWord f v k p).evr = d.evr := rfl
@[simp] theorem Dev.wrWord_hst (d : Dev) (f : Fld) (v k p : Nat) : (d.wrWord f v k p).hst = d.hst := rfl
@[simp] theorem Dev.wrWord_ports (d : Dev) (f : Fld) (v k p : Nat) : (d.wrWord f v k p).ports = d.ports := rfl
@[simp] theorem Dev.wrWord_pairs (d : Dev) (f : Fld) (v k p : Nat) : (d.wrWord f v k p).pairs = d.pairs := rfl
@[simp] theorem Dev.wrWord_qmg (d : Dev) (f : Fld) (v k p : Nat) : (d.wrWord f v k p).qmg = d.qmg := rfl
@[simp] theorem Dev.wrWord_trv (d : Dev) (f : Fld) (v k p : Nat) : (d.wrWord f v k p).trv = d.trv := rfl
@[simp] theorem Dev.wrWord_rsm (d : Dev) (f : Fld) (v k p : Nat) : (d.wrWord f v k p).rsm = d.rsm := rfl
@[simp] theorem Dev.wrWord_cnv (d : Dev) (f : Fld) (v k p : Nat) : (d.wrWord f v k p).cnv = d.cnv := rfl
@[simp] theorem Dev.wrWord_wfc (d : Dev) (f : Fld) (v k p : Nat) : (d.wrWord f v k p).wfc = d.wfc := rfl
@[simp] theorem Dev.wrWord_bad (d : Dev) (f : Fld) (v k p : Nat) : (d.wrWord f v k p).bad = d.bad := rfl
@[simp] theorem Dev.wrWord_initTill (d : Dev) (f : Fld) (v k p : Nat) : (d.wrWord f v k p).initTill = d.initTill := rfl
@[simp] theorem Dev.wrWord_scramble (d : Dev) (f : Fld) (v k p : Nat) : (d.wrWord f v k p).scramble = d.scramble := rfl
@[simp] theorem Dev.wrWord_lineCtr (d : Dev) (f : Fld) (v k p : Nat) : (d.wrWord f v k p).lineCtr = d.lineCtr := rfl
@[simp] theorem Dev.wrWord_ctrCache (d : Dev) (f : Fld) (v k p : Nat) : (d.wrWord f v k p).ctrCache = d.ctrCache := rfl
@[simp] theorem Dev.wrWord_ctrStored (d : Dev) (f : Fld) (v k p : Nat) : (d.wrWord f v k p).ctrStored = d.ctrStored := rfl
@[simp] theorem Dev.wrWord_vaultTill (d : Dev) (f : Fld) (v k p : Nat) : (d.wrWord f v k p).vaultTill = d.vaultTill := rfl
@[simp] theorem Dev.wrWord_dramOld (d : Dev) (f : Fld) (v k p : Nat) : (d.wrWord f v k p).dramOld = d.dramOld := rfl
@[simp] theorem Dev.wrWord_dramNew (d : Dev) (f : Fld) (v k p : Nat) : (d.wrWord f v k p).dramNew = d.dramNew := rfl
@[simp] theorem Dev.wrWord_scrubAt (d : Dev) (f : Fld) (v k p : Nat) : (d.wrWord f v k p).scrubAt = d.scrubAt := rfl
@[simp] theorem Dev.wrWord_eng (d : Dev) (f : Fld) (v k p : Nat) : (d.wrWord f v k p).eng = d.eng := rfl
@[simp] theorem Dev.wrWord_rel (d : Dev) (f : Fld) (v k p : Nat) : (d.wrWord f v k p).rel = d.rel := rfl
@[simp] theorem Dev.wrWord_vault (d : Dev) (f : Fld) (v k p : Nat) : (d.wrWord f v k p).vault = d.vault := rfl
@[simp] theorem Dev.wrWord_cpl (d : Dev) (f : Fld) (v k p : Nat) : (d.wrWord f v k p).cpl = d.cpl := rfl
@[simp] theorem Dev.wrWord_pke (d : Dev) (f : Fld) (v k p : Nat) : (d.wrWord f v k p).pke = d.pke := rfl
@[simp] theorem Dev.wrWord_hsh (d : Dev) (f : Fld) (v k p : Nat) : (d.wrWord f v k p).hsh = d.hsh := rfl
@[simp] theorem Dev.wrWord_flc (d : Dev) (f : Fld) (v k p : Nat) : (d.wrWord f v k p).flc = d.flc := rfl
@[simp] theorem Dev.wrWord_rfg (d : Dev) (f : Fld) (v k p : Nat) : (d.wrWord f v k p).rfg = d.rfg := rfl
@[simp] theorem Dev.wrWord_crd (d : Dev) (f : Fld) (v k p : Nat) : (d.wrWord f v k p).crd = d.crd := rfl
@[simp] theorem Dev.wrWord_nfc (d : Dev) (f : Fld) (v k p : Nat) : (d.wrWord f v k p).nfc = d.nfc := rfl
@[simp] theorem Dev.wrWord_isl (d : Dev) (f : Fld) (v k p : Nat) : (d.wrWord f v k p).isl = d.isl := rfl
@[simp] theorem Dev.wrWord_rop (d : Dev) (f : Fld) (v k p : Nat) : (d.wrWord f v k p).rop = d.rop := rfl
@[simp] theorem Dev.wrWord_isd (d : Dev) (f : Fld) (v k p : Nat) : (d.wrWord f v k p).isd = d.isd := rfl
@[simp] theorem Dev.wrWord_tmp (d : Dev) (f : Fld) (v k p : Nat) : (d.wrWord f v k p).tmp = d.tmp := rfl
@[simp] theorem Dev.wrWord_bkd (d : Dev) (f : Fld) (v k p : Nat) : (d.wrWord f v k p).bkd = d.bkd := rfl
@[simp] theorem Dev.wrWord_jtag (d : Dev) (f : Fld) (v k p : Nat) : (d.wrWord f v k p).jtag = d.jtag := rfl
@[simp] theorem Dev.wrWord_sys (d : Dev) (f : Fld) (v k p : Nat) : (d.wrWord f v k p).sys = d.sys := rfl

/-! ### `answer` -/

@[simp] theorem Dev.answer_cclk (d : Dev) (st : Status) (data : Nat) : (d.answer st data).cclk = d.cclk := rfl
@[simp] theorem Dev.answer_ticks (d : Dev) (st : Status) (data : Nat) : (d.answer st data).ticks = d.ticks := rfl
@[simp] theorem Dev.answer_off (d : Dev) (st : Status) (data : Nat) : (d.answer st data).off = d.off := rfl
@[simp] theorem Dev.answer_brk (d : Dev) (st : Status) (data : Nat) : (d.answer st data).brk = d.brk := rfl
@[simp] theorem Dev.answer_draws (d : Dev) (st : Status) (data : Nat) : (d.answer st data).draws = d.draws := rfl
@[simp] theorem Dev.answer_out (d : Dev) (st : Status) (data : Nat) : (d.answer st data).out = d.out := rfl
@[simp] theorem Dev.answer_regs (d : Dev) (st : Status) (data : Nat) : (d.answer st data).regs = d.regs := rfl
@[simp] theorem Dev.answer_wlLocked (d : Dev) (st : Status) (data : Nat) : (d.answer st data).wlLocked = d.wlLocked := rfl
@[simp] theorem Dev.answer_shadow (d : Dev) (st : Status) (data : Nat) : (d.answer st data).shadow = d.shadow := rfl
@[simp] theorem Dev.answer_shadowSeen (d : Dev) (st : Status) (data : Nat) : (d.answer st data).shadowSeen = d.shadowSeen := rfl
@[simp] theorem Dev.answer_pairHi (d : Dev) (st : Status) (data : Nat) : (d.answer st data).pairHi = d.pairHi := rfl
@[simp] theorem Dev.answer_lockClear (d : Dev) (st : Status) (data : Nat) : (d.answer st data).lockClear = d.lockClear := rfl
@[simp] theorem Dev.answer_inReset (d : Dev) (st : Status) (data : Nat) : (d.answer st data).inReset = d.inReset := rfl
@[simp] theorem Dev.answer_mem (d : Dev) (st : Status) (data : Nat) : (d.answer st data).mem = d.mem := rfl
@[simp] theorem Dev.answer_bivouac (d : Dev) (st : Status) (data : Nat) : (d.answer st data).bivouac = d.bivouac := rfl
@[simp] theorem Dev.answer_tim (d : Dev) (st : Status) (data : Nat) : (d.answer st data).tim = d.tim := rfl
@[simp] theorem Dev.answer_orb (d : Dev) (st : Status) (data : Nat) : (d.answer st data).orb = d.orb := rfl
@[simp] theorem Dev.answer_cmp (d : Dev) (st : Status) (data : Nat) : (d.answer st data).cmp = d.cmp := rfl
@[simp] theorem Dev.answer_evm (d : Dev) (st : Status) (data : Nat) : (d.answer st data).evm = d.evm := rfl
@[simp] theorem Dev.answer_bio (d : Dev) (st : Status) (data : Nat) : (d.answer st data).bio = d.bio := rfl
@[simp] theorem Dev.answer_pit (d : Dev) (st : Status) (data : Nat) : (d.answer st data).pit = d.pit := rfl
@[simp] theorem Dev.answer_tou (d : Dev) (st : Status) (data : Nat) : (d.answer st data).tou = d.tou := rfl
@[simp] theorem Dev.answer_evr (d : Dev) (st : Status) (data : Nat) : (d.answer st data).evr = d.evr := rfl
@[simp] theorem Dev.answer_hst (d : Dev) (st : Status) (data : Nat) : (d.answer st data).hst = d.hst := rfl
@[simp] theorem Dev.answer_ports (d : Dev) (st : Status) (data : Nat) : (d.answer st data).ports = d.ports := rfl
@[simp] theorem Dev.answer_pairs (d : Dev) (st : Status) (data : Nat) : (d.answer st data).pairs = d.pairs := rfl
@[simp] theorem Dev.answer_qmg (d : Dev) (st : Status) (data : Nat) : (d.answer st data).qmg = d.qmg := rfl
@[simp] theorem Dev.answer_trv (d : Dev) (st : Status) (data : Nat) : (d.answer st data).trv = d.trv := rfl
@[simp] theorem Dev.answer_rsm (d : Dev) (st : Status) (data : Nat) : (d.answer st data).rsm = d.rsm := rfl
@[simp] theorem Dev.answer_cnv (d : Dev) (st : Status) (data : Nat) : (d.answer st data).cnv = d.cnv := rfl
@[simp] theorem Dev.answer_wfc (d : Dev) (st : Status) (data : Nat) : (d.answer st data).wfc = d.wfc := rfl
@[simp] theorem Dev.answer_bad (d : Dev) (st : Status) (data : Nat) : (d.answer st data).bad = d.bad := rfl
@[simp] theorem Dev.answer_initTill (d : Dev) (st : Status) (data : Nat) : (d.answer st data).initTill = d.initTill := rfl
@[simp] theorem Dev.answer_scramble (d : Dev) (st : Status) (data : Nat) : (d.answer st data).scramble = d.scramble := rfl
@[simp] theorem Dev.answer_lineCtr (d : Dev) (st : Status) (data : Nat) : (d.answer st data).lineCtr = d.lineCtr := rfl
@[simp] theorem Dev.answer_ctrCache (d : Dev) (st : Status) (data : Nat) : (d.answer st data).ctrCache = d.ctrCache := rfl
@[simp] theorem Dev.answer_ctrStored (d : Dev) (st : Status) (data : Nat) : (d.answer st data).ctrStored = d.ctrStored := rfl
@[simp] theorem Dev.answer_vaultTill (d : Dev) (st : Status) (data : Nat) : (d.answer st data).vaultTill = d.vaultTill := rfl
@[simp] theorem Dev.answer_dramOld (d : Dev) (st : Status) (data : Nat) : (d.answer st data).dramOld = d.dramOld := rfl
@[simp] theorem Dev.answer_dramNew (d : Dev) (st : Status) (data : Nat) : (d.answer st data).dramNew = d.dramNew := rfl
@[simp] theorem Dev.answer_scrubAt (d : Dev) (st : Status) (data : Nat) : (d.answer st data).scrubAt = d.scrubAt := rfl
@[simp] theorem Dev.answer_eng (d : Dev) (st : Status) (data : Nat) : (d.answer st data).eng = d.eng := rfl
@[simp] theorem Dev.answer_rel (d : Dev) (st : Status) (data : Nat) : (d.answer st data).rel = d.rel := rfl
@[simp] theorem Dev.answer_vault (d : Dev) (st : Status) (data : Nat) : (d.answer st data).vault = d.vault := rfl
@[simp] theorem Dev.answer_cpl (d : Dev) (st : Status) (data : Nat) : (d.answer st data).cpl = d.cpl := rfl
@[simp] theorem Dev.answer_pke (d : Dev) (st : Status) (data : Nat) : (d.answer st data).pke = d.pke := rfl
@[simp] theorem Dev.answer_hsh (d : Dev) (st : Status) (data : Nat) : (d.answer st data).hsh = d.hsh := rfl
@[simp] theorem Dev.answer_flc (d : Dev) (st : Status) (data : Nat) : (d.answer st data).flc = d.flc := rfl
@[simp] theorem Dev.answer_rfg (d : Dev) (st : Status) (data : Nat) : (d.answer st data).rfg = d.rfg := rfl
@[simp] theorem Dev.answer_crd (d : Dev) (st : Status) (data : Nat) : (d.answer st data).crd = d.crd := rfl
@[simp] theorem Dev.answer_nfc (d : Dev) (st : Status) (data : Nat) : (d.answer st data).nfc = d.nfc := rfl
@[simp] theorem Dev.answer_isl (d : Dev) (st : Status) (data : Nat) : (d.answer st data).isl = d.isl := rfl
@[simp] theorem Dev.answer_rop (d : Dev) (st : Status) (data : Nat) : (d.answer st data).rop = d.rop := rfl
@[simp] theorem Dev.answer_isd (d : Dev) (st : Status) (data : Nat) : (d.answer st data).isd = d.isd := rfl
@[simp] theorem Dev.answer_tmp (d : Dev) (st : Status) (data : Nat) : (d.answer st data).tmp = d.tmp := rfl
@[simp] theorem Dev.answer_bkd (d : Dev) (st : Status) (data : Nat) : (d.answer st data).bkd = d.bkd := rfl
@[simp] theorem Dev.answer_jtag (d : Dev) (st : Status) (data : Nat) : (d.answer st data).jtag = d.jtag := rfl
@[simp] theorem Dev.answer_sys (d : Dev) (st : Status) (data : Nat) : (d.answer st data).sys = d.sys := rfl

/-! ### `report` -/

@[simp] theorem Dev.report_cclk (d : Dev) (page : Nat) (st : Status) : (d.report page st).cclk = d.cclk := rfl
@[simp] theorem Dev.report_ticks (d : Dev) (page : Nat) (st : Status) : (d.report page st).ticks = d.ticks := rfl
@[simp] theorem Dev.report_off (d : Dev) (page : Nat) (st : Status) : (d.report page st).off = d.off := rfl
@[simp] theorem Dev.report_brk (d : Dev) (page : Nat) (st : Status) : (d.report page st).brk = d.brk := rfl
@[simp] theorem Dev.report_draws (d : Dev) (page : Nat) (st : Status) : (d.report page st).draws = d.draws := rfl
@[simp] theorem Dev.report_out (d : Dev) (page : Nat) (st : Status) : (d.report page st).out = d.out := rfl
@[simp] theorem Dev.report_wlLocked (d : Dev) (page : Nat) (st : Status) : (d.report page st).wlLocked = d.wlLocked := rfl
@[simp] theorem Dev.report_shadow (d : Dev) (page : Nat) (st : Status) : (d.report page st).shadow = d.shadow := rfl
@[simp] theorem Dev.report_shadowSeen (d : Dev) (page : Nat) (st : Status) : (d.report page st).shadowSeen = d.shadowSeen := rfl
@[simp] theorem Dev.report_pairHi (d : Dev) (page : Nat) (st : Status) : (d.report page st).pairHi = d.pairHi := rfl
@[simp] theorem Dev.report_lockClear (d : Dev) (page : Nat) (st : Status) : (d.report page st).lockClear = d.lockClear := rfl
@[simp] theorem Dev.report_inReset (d : Dev) (page : Nat) (st : Status) : (d.report page st).inReset = d.inReset := rfl
@[simp] theorem Dev.report_mem (d : Dev) (page : Nat) (st : Status) : (d.report page st).mem = d.mem := rfl
@[simp] theorem Dev.report_bivouac (d : Dev) (page : Nat) (st : Status) : (d.report page st).bivouac = d.bivouac := rfl
@[simp] theorem Dev.report_tim (d : Dev) (page : Nat) (st : Status) : (d.report page st).tim = d.tim := rfl
@[simp] theorem Dev.report_orb (d : Dev) (page : Nat) (st : Status) : (d.report page st).orb = d.orb := rfl
@[simp] theorem Dev.report_cmp (d : Dev) (page : Nat) (st : Status) : (d.report page st).cmp = d.cmp := rfl
@[simp] theorem Dev.report_evm (d : Dev) (page : Nat) (st : Status) : (d.report page st).evm = d.evm := rfl
@[simp] theorem Dev.report_bio (d : Dev) (page : Nat) (st : Status) : (d.report page st).bio = d.bio := rfl
@[simp] theorem Dev.report_pit (d : Dev) (page : Nat) (st : Status) : (d.report page st).pit = d.pit := rfl
@[simp] theorem Dev.report_tou (d : Dev) (page : Nat) (st : Status) : (d.report page st).tou = d.tou := rfl
@[simp] theorem Dev.report_evr (d : Dev) (page : Nat) (st : Status) : (d.report page st).evr = d.evr := rfl
@[simp] theorem Dev.report_hst (d : Dev) (page : Nat) (st : Status) : (d.report page st).hst = d.hst := rfl
@[simp] theorem Dev.report_ports (d : Dev) (page : Nat) (st : Status) : (d.report page st).ports = d.ports := rfl
@[simp] theorem Dev.report_pairs (d : Dev) (page : Nat) (st : Status) : (d.report page st).pairs = d.pairs := rfl
@[simp] theorem Dev.report_qmg (d : Dev) (page : Nat) (st : Status) : (d.report page st).qmg = d.qmg := rfl
@[simp] theorem Dev.report_trv (d : Dev) (page : Nat) (st : Status) : (d.report page st).trv = d.trv := rfl
@[simp] theorem Dev.report_rsm (d : Dev) (page : Nat) (st : Status) : (d.report page st).rsm = d.rsm := rfl
@[simp] theorem Dev.report_cnv (d : Dev) (page : Nat) (st : Status) : (d.report page st).cnv = d.cnv := rfl
@[simp] theorem Dev.report_wfc (d : Dev) (page : Nat) (st : Status) : (d.report page st).wfc = d.wfc := rfl
@[simp] theorem Dev.report_bad (d : Dev) (page : Nat) (st : Status) : (d.report page st).bad = d.bad := rfl
@[simp] theorem Dev.report_initTill (d : Dev) (page : Nat) (st : Status) : (d.report page st).initTill = d.initTill := rfl
@[simp] theorem Dev.report_scramble (d : Dev) (page : Nat) (st : Status) : (d.report page st).scramble = d.scramble := rfl
@[simp] theorem Dev.report_lineCtr (d : Dev) (page : Nat) (st : Status) : (d.report page st).lineCtr = d.lineCtr := rfl
@[simp] theorem Dev.report_ctrCache (d : Dev) (page : Nat) (st : Status) : (d.report page st).ctrCache = d.ctrCache := rfl
@[simp] theorem Dev.report_ctrStored (d : Dev) (page : Nat) (st : Status) : (d.report page st).ctrStored = d.ctrStored := rfl
@[simp] theorem Dev.report_vaultTill (d : Dev) (page : Nat) (st : Status) : (d.report page st).vaultTill = d.vaultTill := rfl
@[simp] theorem Dev.report_dramOld (d : Dev) (page : Nat) (st : Status) : (d.report page st).dramOld = d.dramOld := rfl
@[simp] theorem Dev.report_dramNew (d : Dev) (page : Nat) (st : Status) : (d.report page st).dramNew = d.dramNew := rfl
@[simp] theorem Dev.report_scrubAt (d : Dev) (page : Nat) (st : Status) : (d.report page st).scrubAt = d.scrubAt := rfl
@[simp] theorem Dev.report_eng (d : Dev) (page : Nat) (st : Status) : (d.report page st).eng = d.eng := rfl
@[simp] theorem Dev.report_rel (d : Dev) (page : Nat) (st : Status) : (d.report page st).rel = d.rel := rfl
@[simp] theorem Dev.report_vault (d : Dev) (page : Nat) (st : Status) : (d.report page st).vault = d.vault := rfl
@[simp] theorem Dev.report_cpl (d : Dev) (page : Nat) (st : Status) : (d.report page st).cpl = d.cpl := rfl
@[simp] theorem Dev.report_pke (d : Dev) (page : Nat) (st : Status) : (d.report page st).pke = d.pke := rfl
@[simp] theorem Dev.report_hsh (d : Dev) (page : Nat) (st : Status) : (d.report page st).hsh = d.hsh := rfl
@[simp] theorem Dev.report_flc (d : Dev) (page : Nat) (st : Status) : (d.report page st).flc = d.flc := rfl
@[simp] theorem Dev.report_rfg (d : Dev) (page : Nat) (st : Status) : (d.report page st).rfg = d.rfg := rfl
@[simp] theorem Dev.report_crd (d : Dev) (page : Nat) (st : Status) : (d.report page st).crd = d.crd := rfl
@[simp] theorem Dev.report_nfc (d : Dev) (page : Nat) (st : Status) : (d.report page st).nfc = d.nfc := rfl
@[simp] theorem Dev.report_isl (d : Dev) (page : Nat) (st : Status) : (d.report page st).isl = d.isl := rfl
@[simp] theorem Dev.report_rop (d : Dev) (page : Nat) (st : Status) : (d.report page st).rop = d.rop := rfl
@[simp] theorem Dev.report_isd (d : Dev) (page : Nat) (st : Status) : (d.report page st).isd = d.isd := rfl
@[simp] theorem Dev.report_tmp (d : Dev) (page : Nat) (st : Status) : (d.report page st).tmp = d.tmp := rfl
@[simp] theorem Dev.report_bkd (d : Dev) (page : Nat) (st : Status) : (d.report page st).bkd = d.bkd := rfl
@[simp] theorem Dev.report_jtag (d : Dev) (page : Nat) (st : Status) : (d.report page st).jtag = d.jtag := rfl
@[simp] theorem Dev.report_sys (d : Dev) (page : Nat) (st : Status) : (d.report page st).sys = d.sys := rfl

/-! ### `emit` -/

@[simp] theorem Dev.emit_cclk (d : Dev) (o : Out) : (d.emit o).cclk = d.cclk := rfl
@[simp] theorem Dev.emit_ticks (d : Dev) (o : Out) : (d.emit o).ticks = d.ticks := rfl
@[simp] theorem Dev.emit_off (d : Dev) (o : Out) : (d.emit o).off = d.off := rfl
@[simp] theorem Dev.emit_brk (d : Dev) (o : Out) : (d.emit o).brk = d.brk := rfl
@[simp] theorem Dev.emit_draws (d : Dev) (o : Out) : (d.emit o).draws = d.draws := rfl
@[simp] theorem Dev.emit_resp (d : Dev) (o : Out) : (d.emit o).resp = d.resp := rfl
@[simp] theorem Dev.emit_regs (d : Dev) (o : Out) : (d.emit o).regs = d.regs := rfl
@[simp] theorem Dev.emit_wlLocked (d : Dev) (o : Out) : (d.emit o).wlLocked = d.wlLocked := rfl
@[simp] theorem Dev.emit_shadow (d : Dev) (o : Out) : (d.emit o).shadow = d.shadow := rfl
@[simp] theorem Dev.emit_shadowSeen (d : Dev) (o : Out) : (d.emit o).shadowSeen = d.shadowSeen := rfl
@[simp] theorem Dev.emit_pairHi (d : Dev) (o : Out) : (d.emit o).pairHi = d.pairHi := rfl
@[simp] theorem Dev.emit_lockClear (d : Dev) (o : Out) : (d.emit o).lockClear = d.lockClear := rfl
@[simp] theorem Dev.emit_inReset (d : Dev) (o : Out) : (d.emit o).inReset = d.inReset := rfl
@[simp] theorem Dev.emit_mem (d : Dev) (o : Out) : (d.emit o).mem = d.mem := rfl
@[simp] theorem Dev.emit_bivouac (d : Dev) (o : Out) : (d.emit o).bivouac = d.bivouac := rfl
@[simp] theorem Dev.emit_tim (d : Dev) (o : Out) : (d.emit o).tim = d.tim := rfl
@[simp] theorem Dev.emit_orb (d : Dev) (o : Out) : (d.emit o).orb = d.orb := rfl
@[simp] theorem Dev.emit_cmp (d : Dev) (o : Out) : (d.emit o).cmp = d.cmp := rfl
@[simp] theorem Dev.emit_evm (d : Dev) (o : Out) : (d.emit o).evm = d.evm := rfl
@[simp] theorem Dev.emit_bio (d : Dev) (o : Out) : (d.emit o).bio = d.bio := rfl
@[simp] theorem Dev.emit_pit (d : Dev) (o : Out) : (d.emit o).pit = d.pit := rfl
@[simp] theorem Dev.emit_tou (d : Dev) (o : Out) : (d.emit o).tou = d.tou := rfl
@[simp] theorem Dev.emit_evr (d : Dev) (o : Out) : (d.emit o).evr = d.evr := rfl
@[simp] theorem Dev.emit_hst (d : Dev) (o : Out) : (d.emit o).hst = d.hst := rfl
@[simp] theorem Dev.emit_ports (d : Dev) (o : Out) : (d.emit o).ports = d.ports := rfl
@[simp] theorem Dev.emit_pairs (d : Dev) (o : Out) : (d.emit o).pairs = d.pairs := rfl
@[simp] theorem Dev.emit_qmg (d : Dev) (o : Out) : (d.emit o).qmg = d.qmg := rfl
@[simp] theorem Dev.emit_trv (d : Dev) (o : Out) : (d.emit o).trv = d.trv := rfl
@[simp] theorem Dev.emit_rsm (d : Dev) (o : Out) : (d.emit o).rsm = d.rsm := rfl
@[simp] theorem Dev.emit_cnv (d : Dev) (o : Out) : (d.emit o).cnv = d.cnv := rfl
@[simp] theorem Dev.emit_wfc (d : Dev) (o : Out) : (d.emit o).wfc = d.wfc := rfl
@[simp] theorem Dev.emit_bad (d : Dev) (o : Out) : (d.emit o).bad = d.bad := rfl
@[simp] theorem Dev.emit_initTill (d : Dev) (o : Out) : (d.emit o).initTill = d.initTill := rfl
@[simp] theorem Dev.emit_scramble (d : Dev) (o : Out) : (d.emit o).scramble = d.scramble := rfl
@[simp] theorem Dev.emit_lineCtr (d : Dev) (o : Out) : (d.emit o).lineCtr = d.lineCtr := rfl
@[simp] theorem Dev.emit_ctrCache (d : Dev) (o : Out) : (d.emit o).ctrCache = d.ctrCache := rfl
@[simp] theorem Dev.emit_ctrStored (d : Dev) (o : Out) : (d.emit o).ctrStored = d.ctrStored := rfl
@[simp] theorem Dev.emit_vaultTill (d : Dev) (o : Out) : (d.emit o).vaultTill = d.vaultTill := rfl
@[simp] theorem Dev.emit_dramOld (d : Dev) (o : Out) : (d.emit o).dramOld = d.dramOld := rfl
@[simp] theorem Dev.emit_dramNew (d : Dev) (o : Out) : (d.emit o).dramNew = d.dramNew := rfl
@[simp] theorem Dev.emit_scrubAt (d : Dev) (o : Out) : (d.emit o).scrubAt = d.scrubAt := rfl
@[simp] theorem Dev.emit_eng (d : Dev) (o : Out) : (d.emit o).eng = d.eng := rfl
@[simp] theorem Dev.emit_rel (d : Dev) (o : Out) : (d.emit o).rel = d.rel := rfl
@[simp] theorem Dev.emit_vault (d : Dev) (o : Out) : (d.emit o).vault = d.vault := rfl
@[simp] theorem Dev.emit_cpl (d : Dev) (o : Out) : (d.emit o).cpl = d.cpl := rfl
@[simp] theorem Dev.emit_pke (d : Dev) (o : Out) : (d.emit o).pke = d.pke := rfl
@[simp] theorem Dev.emit_hsh (d : Dev) (o : Out) : (d.emit o).hsh = d.hsh := rfl
@[simp] theorem Dev.emit_flc (d : Dev) (o : Out) : (d.emit o).flc = d.flc := rfl
@[simp] theorem Dev.emit_rfg (d : Dev) (o : Out) : (d.emit o).rfg = d.rfg := rfl
@[simp] theorem Dev.emit_crd (d : Dev) (o : Out) : (d.emit o).crd = d.crd := rfl
@[simp] theorem Dev.emit_nfc (d : Dev) (o : Out) : (d.emit o).nfc = d.nfc := rfl
@[simp] theorem Dev.emit_isl (d : Dev) (o : Out) : (d.emit o).isl = d.isl := rfl
@[simp] theorem Dev.emit_rop (d : Dev) (o : Out) : (d.emit o).rop = d.rop := rfl
@[simp] theorem Dev.emit_isd (d : Dev) (o : Out) : (d.emit o).isd = d.isd := rfl
@[simp] theorem Dev.emit_tmp (d : Dev) (o : Out) : (d.emit o).tmp = d.tmp := rfl
@[simp] theorem Dev.emit_bkd (d : Dev) (o : Out) : (d.emit o).bkd = d.bkd := rfl
@[simp] theorem Dev.emit_jtag (d : Dev) (o : Out) : (d.emit o).jtag = d.jtag := rfl
@[simp] theorem Dev.emit_sys (d : Dev) (o : Out) : (d.emit o).sys = d.sys := rfl

/-! ### `store` -/

@[simp] theorem Dev.store_cclk (d : Dev) (a : Nat) (bs : List Byte) : (d.store a bs).cclk = d.cclk := rfl
@[simp] theorem Dev.store_ticks (d : Dev) (a : Nat) (bs : List Byte) : (d.store a bs).ticks = d.ticks := rfl
@[simp] theorem Dev.store_off (d : Dev) (a : Nat) (bs : List Byte) : (d.store a bs).off = d.off := rfl
@[simp] theorem Dev.store_brk (d : Dev) (a : Nat) (bs : List Byte) : (d.store a bs).brk = d.brk := rfl
@[simp] theorem Dev.store_draws (d : Dev) (a : Nat) (bs : List Byte) : (d.store a bs).draws = d.draws := rfl
@[simp] theorem Dev.store_resp (d : Dev) (a : Nat) (bs : List Byte) : (d.store a bs).resp = d.resp := rfl
@[simp] theorem Dev.store_out (d : Dev) (a : Nat) (bs : List Byte) : (d.store a bs).out = d.out := rfl
@[simp] theorem Dev.store_regs (d : Dev) (a : Nat) (bs : List Byte) : (d.store a bs).regs = d.regs := rfl
@[simp] theorem Dev.store_wlLocked (d : Dev) (a : Nat) (bs : List Byte) : (d.store a bs).wlLocked = d.wlLocked := rfl
@[simp] theorem Dev.store_shadow (d : Dev) (a : Nat) (bs : List Byte) : (d.store a bs).shadow = d.shadow := rfl
@[simp] theorem Dev.store_shadowSeen (d : Dev) (a : Nat) (bs : List Byte) : (d.store a bs).shadowSeen = d.shadowSeen := rfl
@[simp] theorem Dev.store_pairHi (d : Dev) (a : Nat) (bs : List Byte) : (d.store a bs).pairHi = d.pairHi := rfl
@[simp] theorem Dev.store_lockClear (d : Dev) (a : Nat) (bs : List Byte) : (d.store a bs).lockClear = d.lockClear := rfl
@[simp] theorem Dev.store_inReset (d : Dev) (a : Nat) (bs : List Byte) : (d.store a bs).inReset = d.inReset := rfl
@[simp] theorem Dev.store_bivouac (d : Dev) (a : Nat) (bs : List Byte) : (d.store a bs).bivouac = d.bivouac := rfl
@[simp] theorem Dev.store_tim (d : Dev) (a : Nat) (bs : List Byte) : (d.store a bs).tim = d.tim := rfl
@[simp] theorem Dev.store_orb (d : Dev) (a : Nat) (bs : List Byte) : (d.store a bs).orb = d.orb := rfl
@[simp] theorem Dev.store_cmp (d : Dev) (a : Nat) (bs : List Byte) : (d.store a bs).cmp = d.cmp := rfl
@[simp] theorem Dev.store_evm (d : Dev) (a : Nat) (bs : List Byte) : (d.store a bs).evm = d.evm := rfl
@[simp] theorem Dev.store_bio (d : Dev) (a : Nat) (bs : List Byte) : (d.store a bs).bio = d.bio := rfl
@[simp] theorem Dev.store_pit (d : Dev) (a : Nat) (bs : List Byte) : (d.store a bs).pit = d.pit := rfl
@[simp] theorem Dev.store_tou (d : Dev) (a : Nat) (bs : List Byte) : (d.store a bs).tou = d.tou := rfl
@[simp] theorem Dev.store_evr (d : Dev) (a : Nat) (bs : List Byte) : (d.store a bs).evr = d.evr := rfl
@[simp] theorem Dev.store_hst (d : Dev) (a : Nat) (bs : List Byte) : (d.store a bs).hst = d.hst := rfl
@[simp] theorem Dev.store_ports (d : Dev) (a : Nat) (bs : List Byte) : (d.store a bs).ports = d.ports := rfl
@[simp] theorem Dev.store_pairs (d : Dev) (a : Nat) (bs : List Byte) : (d.store a bs).pairs = d.pairs := rfl
@[simp] theorem Dev.store_qmg (d : Dev) (a : Nat) (bs : List Byte) : (d.store a bs).qmg = d.qmg := rfl
@[simp] theorem Dev.store_trv (d : Dev) (a : Nat) (bs : List Byte) : (d.store a bs).trv = d.trv := rfl
@[simp] theorem Dev.store_rsm (d : Dev) (a : Nat) (bs : List Byte) : (d.store a bs).rsm = d.rsm := rfl
@[simp] theorem Dev.store_cnv (d : Dev) (a : Nat) (bs : List Byte) : (d.store a bs).cnv = d.cnv := rfl
@[simp] theorem Dev.store_wfc (d : Dev) (a : Nat) (bs : List Byte) : (d.store a bs).wfc = d.wfc := rfl
@[simp] theorem Dev.store_bad (d : Dev) (a : Nat) (bs : List Byte) : (d.store a bs).bad = d.bad := rfl
@[simp] theorem Dev.store_initTill (d : Dev) (a : Nat) (bs : List Byte) : (d.store a bs).initTill = d.initTill := rfl
@[simp] theorem Dev.store_scramble (d : Dev) (a : Nat) (bs : List Byte) : (d.store a bs).scramble = d.scramble := rfl
@[simp] theorem Dev.store_lineCtr (d : Dev) (a : Nat) (bs : List Byte) : (d.store a bs).lineCtr = d.lineCtr := rfl
@[simp] theorem Dev.store_ctrCache (d : Dev) (a : Nat) (bs : List Byte) : (d.store a bs).ctrCache = d.ctrCache := rfl
@[simp] theorem Dev.store_ctrStored (d : Dev) (a : Nat) (bs : List Byte) : (d.store a bs).ctrStored = d.ctrStored := rfl
@[simp] theorem Dev.store_vaultTill (d : Dev) (a : Nat) (bs : List Byte) : (d.store a bs).vaultTill = d.vaultTill := rfl
@[simp] theorem Dev.store_dramOld (d : Dev) (a : Nat) (bs : List Byte) : (d.store a bs).dramOld = d.dramOld := rfl
@[simp] theorem Dev.store_dramNew (d : Dev) (a : Nat) (bs : List Byte) : (d.store a bs).dramNew = d.dramNew := rfl
@[simp] theorem Dev.store_scrubAt (d : Dev) (a : Nat) (bs : List Byte) : (d.store a bs).scrubAt = d.scrubAt := rfl
@[simp] theorem Dev.store_eng (d : Dev) (a : Nat) (bs : List Byte) : (d.store a bs).eng = d.eng := rfl
@[simp] theorem Dev.store_rel (d : Dev) (a : Nat) (bs : List Byte) : (d.store a bs).rel = d.rel := rfl
@[simp] theorem Dev.store_vault (d : Dev) (a : Nat) (bs : List Byte) : (d.store a bs).vault = d.vault := rfl
@[simp] theorem Dev.store_cpl (d : Dev) (a : Nat) (bs : List Byte) : (d.store a bs).cpl = d.cpl := rfl
@[simp] theorem Dev.store_pke (d : Dev) (a : Nat) (bs : List Byte) : (d.store a bs).pke = d.pke := rfl
@[simp] theorem Dev.store_hsh (d : Dev) (a : Nat) (bs : List Byte) : (d.store a bs).hsh = d.hsh := rfl
@[simp] theorem Dev.store_flc (d : Dev) (a : Nat) (bs : List Byte) : (d.store a bs).flc = d.flc := rfl
@[simp] theorem Dev.store_rfg (d : Dev) (a : Nat) (bs : List Byte) : (d.store a bs).rfg = d.rfg := rfl
@[simp] theorem Dev.store_crd (d : Dev) (a : Nat) (bs : List Byte) : (d.store a bs).crd = d.crd := rfl
@[simp] theorem Dev.store_nfc (d : Dev) (a : Nat) (bs : List Byte) : (d.store a bs).nfc = d.nfc := rfl
@[simp] theorem Dev.store_isl (d : Dev) (a : Nat) (bs : List Byte) : (d.store a bs).isl = d.isl := rfl
@[simp] theorem Dev.store_rop (d : Dev) (a : Nat) (bs : List Byte) : (d.store a bs).rop = d.rop := rfl
@[simp] theorem Dev.store_isd (d : Dev) (a : Nat) (bs : List Byte) : (d.store a bs).isd = d.isd := rfl
@[simp] theorem Dev.store_tmp (d : Dev) (a : Nat) (bs : List Byte) : (d.store a bs).tmp = d.tmp := rfl
@[simp] theorem Dev.store_bkd (d : Dev) (a : Nat) (bs : List Byte) : (d.store a bs).bkd = d.bkd := rfl
@[simp] theorem Dev.store_jtag (d : Dev) (a : Nat) (bs : List Byte) : (d.store a bs).jtag = d.jtag := rfl
@[simp] theorem Dev.store_sys (d : Dev) (a : Nat) (bs : List Byte) : (d.store a bs).sys = d.sys := rfl

/-! ### `setEng` -/

@[simp] theorem Dev.setEng_cclk (d : Dev) (e : Nat) (x : Eng) : (d.setEng e x).cclk = d.cclk := rfl
@[simp] theorem Dev.setEng_ticks (d : Dev) (e : Nat) (x : Eng) : (d.setEng e x).ticks = d.ticks := rfl
@[simp] theorem Dev.setEng_off (d : Dev) (e : Nat) (x : Eng) : (d.setEng e x).off = d.off := rfl
@[simp] theorem Dev.setEng_brk (d : Dev) (e : Nat) (x : Eng) : (d.setEng e x).brk = d.brk := rfl
@[simp] theorem Dev.setEng_draws (d : Dev) (e : Nat) (x : Eng) : (d.setEng e x).draws = d.draws := rfl
@[simp] theorem Dev.setEng_resp (d : Dev) (e : Nat) (x : Eng) : (d.setEng e x).resp = d.resp := rfl
@[simp] theorem Dev.setEng_out (d : Dev) (e : Nat) (x : Eng) : (d.setEng e x).out = d.out := rfl
@[simp] theorem Dev.setEng_regs (d : Dev) (e : Nat) (x : Eng) : (d.setEng e x).regs = d.regs := rfl
@[simp] theorem Dev.setEng_wlLocked (d : Dev) (e : Nat) (x : Eng) : (d.setEng e x).wlLocked = d.wlLocked := rfl
@[simp] theorem Dev.setEng_shadow (d : Dev) (e : Nat) (x : Eng) : (d.setEng e x).shadow = d.shadow := rfl
@[simp] theorem Dev.setEng_shadowSeen (d : Dev) (e : Nat) (x : Eng) : (d.setEng e x).shadowSeen = d.shadowSeen := rfl
@[simp] theorem Dev.setEng_pairHi (d : Dev) (e : Nat) (x : Eng) : (d.setEng e x).pairHi = d.pairHi := rfl
@[simp] theorem Dev.setEng_lockClear (d : Dev) (e : Nat) (x : Eng) : (d.setEng e x).lockClear = d.lockClear := rfl
@[simp] theorem Dev.setEng_inReset (d : Dev) (e : Nat) (x : Eng) : (d.setEng e x).inReset = d.inReset := rfl
@[simp] theorem Dev.setEng_mem (d : Dev) (e : Nat) (x : Eng) : (d.setEng e x).mem = d.mem := rfl
@[simp] theorem Dev.setEng_bivouac (d : Dev) (e : Nat) (x : Eng) : (d.setEng e x).bivouac = d.bivouac := rfl
@[simp] theorem Dev.setEng_tim (d : Dev) (e : Nat) (x : Eng) : (d.setEng e x).tim = d.tim := rfl
@[simp] theorem Dev.setEng_orb (d : Dev) (e : Nat) (x : Eng) : (d.setEng e x).orb = d.orb := rfl
@[simp] theorem Dev.setEng_cmp (d : Dev) (e : Nat) (x : Eng) : (d.setEng e x).cmp = d.cmp := rfl
@[simp] theorem Dev.setEng_evm (d : Dev) (e : Nat) (x : Eng) : (d.setEng e x).evm = d.evm := rfl
@[simp] theorem Dev.setEng_bio (d : Dev) (e : Nat) (x : Eng) : (d.setEng e x).bio = d.bio := rfl
@[simp] theorem Dev.setEng_pit (d : Dev) (e : Nat) (x : Eng) : (d.setEng e x).pit = d.pit := rfl
@[simp] theorem Dev.setEng_tou (d : Dev) (e : Nat) (x : Eng) : (d.setEng e x).tou = d.tou := rfl
@[simp] theorem Dev.setEng_evr (d : Dev) (e : Nat) (x : Eng) : (d.setEng e x).evr = d.evr := rfl
@[simp] theorem Dev.setEng_hst (d : Dev) (e : Nat) (x : Eng) : (d.setEng e x).hst = d.hst := rfl
@[simp] theorem Dev.setEng_ports (d : Dev) (e : Nat) (x : Eng) : (d.setEng e x).ports = d.ports := rfl
@[simp] theorem Dev.setEng_pairs (d : Dev) (e : Nat) (x : Eng) : (d.setEng e x).pairs = d.pairs := rfl
@[simp] theorem Dev.setEng_qmg (d : Dev) (e : Nat) (x : Eng) : (d.setEng e x).qmg = d.qmg := rfl
@[simp] theorem Dev.setEng_trv (d : Dev) (e : Nat) (x : Eng) : (d.setEng e x).trv = d.trv := rfl
@[simp] theorem Dev.setEng_rsm (d : Dev) (e : Nat) (x : Eng) : (d.setEng e x).rsm = d.rsm := rfl
@[simp] theorem Dev.setEng_cnv (d : Dev) (e : Nat) (x : Eng) : (d.setEng e x).cnv = d.cnv := rfl
@[simp] theorem Dev.setEng_wfc (d : Dev) (e : Nat) (x : Eng) : (d.setEng e x).wfc = d.wfc := rfl
@[simp] theorem Dev.setEng_bad (d : Dev) (e : Nat) (x : Eng) : (d.setEng e x).bad = d.bad := rfl
@[simp] theorem Dev.setEng_initTill (d : Dev) (e : Nat) (x : Eng) : (d.setEng e x).initTill = d.initTill := rfl
@[simp] theorem Dev.setEng_scramble (d : Dev) (e : Nat) (x : Eng) : (d.setEng e x).scramble = d.scramble := rfl
@[simp] theorem Dev.setEng_lineCtr (d : Dev) (e : Nat) (x : Eng) : (d.setEng e x).lineCtr = d.lineCtr := rfl
@[simp] theorem Dev.setEng_ctrCache (d : Dev) (e : Nat) (x : Eng) : (d.setEng e x).ctrCache = d.ctrCache := rfl
@[simp] theorem Dev.setEng_ctrStored (d : Dev) (e : Nat) (x : Eng) : (d.setEng e x).ctrStored = d.ctrStored := rfl
@[simp] theorem Dev.setEng_vaultTill (d : Dev) (e : Nat) (x : Eng) : (d.setEng e x).vaultTill = d.vaultTill := rfl
@[simp] theorem Dev.setEng_dramOld (d : Dev) (e : Nat) (x : Eng) : (d.setEng e x).dramOld = d.dramOld := rfl
@[simp] theorem Dev.setEng_dramNew (d : Dev) (e : Nat) (x : Eng) : (d.setEng e x).dramNew = d.dramNew := rfl
@[simp] theorem Dev.setEng_scrubAt (d : Dev) (e : Nat) (x : Eng) : (d.setEng e x).scrubAt = d.scrubAt := rfl
@[simp] theorem Dev.setEng_rel (d : Dev) (e : Nat) (x : Eng) : (d.setEng e x).rel = d.rel := rfl
@[simp] theorem Dev.setEng_vault (d : Dev) (e : Nat) (x : Eng) : (d.setEng e x).vault = d.vault := rfl
@[simp] theorem Dev.setEng_cpl (d : Dev) (e : Nat) (x : Eng) : (d.setEng e x).cpl = d.cpl := rfl
@[simp] theorem Dev.setEng_pke (d : Dev) (e : Nat) (x : Eng) : (d.setEng e x).pke = d.pke := rfl
@[simp] theorem Dev.setEng_hsh (d : Dev) (e : Nat) (x : Eng) : (d.setEng e x).hsh = d.hsh := rfl
@[simp] theorem Dev.setEng_flc (d : Dev) (e : Nat) (x : Eng) : (d.setEng e x).flc = d.flc := rfl
@[simp] theorem Dev.setEng_rfg (d : Dev) (e : Nat) (x : Eng) : (d.setEng e x).rfg = d.rfg := rfl
@[simp] theorem Dev.setEng_crd (d : Dev) (e : Nat) (x : Eng) : (d.setEng e x).crd = d.crd := rfl
@[simp] theorem Dev.setEng_nfc (d : Dev) (e : Nat) (x : Eng) : (d.setEng e x).nfc = d.nfc := rfl
@[simp] theorem Dev.setEng_isl (d : Dev) (e : Nat) (x : Eng) : (d.setEng e x).isl = d.isl := rfl
@[simp] theorem Dev.setEng_rop (d : Dev) (e : Nat) (x : Eng) : (d.setEng e x).rop = d.rop := rfl
@[simp] theorem Dev.setEng_isd (d : Dev) (e : Nat) (x : Eng) : (d.setEng e x).isd = d.isd := rfl
@[simp] theorem Dev.setEng_tmp (d : Dev) (e : Nat) (x : Eng) : (d.setEng e x).tmp = d.tmp := rfl
@[simp] theorem Dev.setEng_bkd (d : Dev) (e : Nat) (x : Eng) : (d.setEng e x).bkd = d.bkd := rfl
@[simp] theorem Dev.setEng_jtag (d : Dev) (e : Nat) (x : Eng) : (d.setEng e x).jtag = d.jtag := rfl
@[simp] theorem Dev.setEng_sys (d : Dev) (e : Nat) (x : Eng) : (d.setEng e x).sys = d.sys := rfl

/-! ### `setFlags` -/

@[simp] theorem Dev.setFlags_cclk (d : Dev) (e : Nat) (f : Fl) : (d.setFlags e f).cclk = d.cclk := rfl
@[simp] theorem Dev.setFlags_ticks (d : Dev) (e : Nat) (f : Fl) : (d.setFlags e f).ticks = d.ticks := rfl
@[simp] theorem Dev.setFlags_off (d : Dev) (e : Nat) (f : Fl) : (d.setFlags e f).off = d.off := rfl
@[simp] theorem Dev.setFlags_brk (d : Dev) (e : Nat) (f : Fl) : (d.setFlags e f).brk = d.brk := rfl
@[simp] theorem Dev.setFlags_draws (d : Dev) (e : Nat) (f : Fl) : (d.setFlags e f).draws = d.draws := rfl
@[simp] theorem Dev.setFlags_resp (d : Dev) (e : Nat) (f : Fl) : (d.setFlags e f).resp = d.resp := rfl
@[simp] theorem Dev.setFlags_out (d : Dev) (e : Nat) (f : Fl) : (d.setFlags e f).out = d.out := rfl
@[simp] theorem Dev.setFlags_regs (d : Dev) (e : Nat) (f : Fl) : (d.setFlags e f).regs = d.regs := rfl
@[simp] theorem Dev.setFlags_wlLocked (d : Dev) (e : Nat) (f : Fl) : (d.setFlags e f).wlLocked = d.wlLocked := rfl
@[simp] theorem Dev.setFlags_shadow (d : Dev) (e : Nat) (f : Fl) : (d.setFlags e f).shadow = d.shadow := rfl
@[simp] theorem Dev.setFlags_shadowSeen (d : Dev) (e : Nat) (f : Fl) : (d.setFlags e f).shadowSeen = d.shadowSeen := rfl
@[simp] theorem Dev.setFlags_pairHi (d : Dev) (e : Nat) (f : Fl) : (d.setFlags e f).pairHi = d.pairHi := rfl
@[simp] theorem Dev.setFlags_lockClear (d : Dev) (e : Nat) (f : Fl) : (d.setFlags e f).lockClear = d.lockClear := rfl
@[simp] theorem Dev.setFlags_inReset (d : Dev) (e : Nat) (f : Fl) : (d.setFlags e f).inReset = d.inReset := rfl
@[simp] theorem Dev.setFlags_mem (d : Dev) (e : Nat) (f : Fl) : (d.setFlags e f).mem = d.mem := rfl
@[simp] theorem Dev.setFlags_bivouac (d : Dev) (e : Nat) (f : Fl) : (d.setFlags e f).bivouac = d.bivouac := rfl
@[simp] theorem Dev.setFlags_tim (d : Dev) (e : Nat) (f : Fl) : (d.setFlags e f).tim = d.tim := rfl
@[simp] theorem Dev.setFlags_orb (d : Dev) (e : Nat) (f : Fl) : (d.setFlags e f).orb = d.orb := rfl
@[simp] theorem Dev.setFlags_cmp (d : Dev) (e : Nat) (f : Fl) : (d.setFlags e f).cmp = d.cmp := rfl
@[simp] theorem Dev.setFlags_evm (d : Dev) (e : Nat) (f : Fl) : (d.setFlags e f).evm = d.evm := rfl
@[simp] theorem Dev.setFlags_bio (d : Dev) (e : Nat) (f : Fl) : (d.setFlags e f).bio = d.bio := rfl
@[simp] theorem Dev.setFlags_pit (d : Dev) (e : Nat) (f : Fl) : (d.setFlags e f).pit = d.pit := rfl
@[simp] theorem Dev.setFlags_tou (d : Dev) (e : Nat) (f : Fl) : (d.setFlags e f).tou = d.tou := rfl
@[simp] theorem Dev.setFlags_evr (d : Dev) (e : Nat) (f : Fl) : (d.setFlags e f).evr = d.evr := rfl
@[simp] theorem Dev.setFlags_hst (d : Dev) (e : Nat) (f : Fl) : (d.setFlags e f).hst = d.hst := rfl
@[simp] theorem Dev.setFlags_ports (d : Dev) (e : Nat) (f : Fl) : (d.setFlags e f).ports = d.ports := rfl
@[simp] theorem Dev.setFlags_pairs (d : Dev) (e : Nat) (f : Fl) : (d.setFlags e f).pairs = d.pairs := rfl
@[simp] theorem Dev.setFlags_qmg (d : Dev) (e : Nat) (f : Fl) : (d.setFlags e f).qmg = d.qmg := rfl
@[simp] theorem Dev.setFlags_trv (d : Dev) (e : Nat) (f : Fl) : (d.setFlags e f).trv = d.trv := rfl
@[simp] theorem Dev.setFlags_rsm (d : Dev) (e : Nat) (f : Fl) : (d.setFlags e f).rsm = d.rsm := rfl
@[simp] theorem Dev.setFlags_cnv (d : Dev) (e : Nat) (f : Fl) : (d.setFlags e f).cnv = d.cnv := rfl
@[simp] theorem Dev.setFlags_wfc (d : Dev) (e : Nat) (f : Fl) : (d.setFlags e f).wfc = d.wfc := rfl
@[simp] theorem Dev.setFlags_bad (d : Dev) (e : Nat) (f : Fl) : (d.setFlags e f).bad = d.bad := rfl
@[simp] theorem Dev.setFlags_initTill (d : Dev) (e : Nat) (f : Fl) : (d.setFlags e f).initTill = d.initTill := rfl
@[simp] theorem Dev.setFlags_scramble (d : Dev) (e : Nat) (f : Fl) : (d.setFlags e f).scramble = d.scramble := rfl
@[simp] theorem Dev.setFlags_lineCtr (d : Dev) (e : Nat) (f : Fl) : (d.setFlags e f).lineCtr = d.lineCtr := rfl
@[simp] theorem Dev.setFlags_ctrCache (d : Dev) (e : Nat) (f : Fl) : (d.setFlags e f).ctrCache = d.ctrCache := rfl
@[simp] theorem Dev.setFlags_ctrStored (d : Dev) (e : Nat) (f : Fl) : (d.setFlags e f).ctrStored = d.ctrStored := rfl
@[simp] theorem Dev.setFlags_vaultTill (d : Dev) (e : Nat) (f : Fl) : (d.setFlags e f).vaultTill = d.vaultTill := rfl
@[simp] theorem Dev.setFlags_dramOld (d : Dev) (e : Nat) (f : Fl) : (d.setFlags e f).dramOld = d.dramOld := rfl
@[simp] theorem Dev.setFlags_dramNew (d : Dev) (e : Nat) (f : Fl) : (d.setFlags e f).dramNew = d.dramNew := rfl
@[simp] theorem Dev.setFlags_scrubAt (d : Dev) (e : Nat) (f : Fl) : (d.setFlags e f).scrubAt = d.scrubAt := rfl
@[simp] theorem Dev.setFlags_rel (d : Dev) (e : Nat) (f : Fl) : (d.setFlags e f).rel = d.rel := rfl
@[simp] theorem Dev.setFlags_vault (d : Dev) (e : Nat) (f : Fl) : (d.setFlags e f).vault = d.vault := rfl
@[simp] theorem Dev.setFlags_cpl (d : Dev) (e : Nat) (f : Fl) : (d.setFlags e f).cpl = d.cpl := rfl
@[simp] theorem Dev.setFlags_pke (d : Dev) (e : Nat) (f : Fl) : (d.setFlags e f).pke = d.pke := rfl
@[simp] theorem Dev.setFlags_hsh (d : Dev) (e : Nat) (f : Fl) : (d.setFlags e f).hsh = d.hsh := rfl
@[simp] theorem Dev.setFlags_flc (d : Dev) (e : Nat) (f : Fl) : (d.setFlags e f).flc = d.flc := rfl
@[simp] theorem Dev.setFlags_rfg (d : Dev) (e : Nat) (f : Fl) : (d.setFlags e f).rfg = d.rfg := rfl
@[simp] theorem Dev.setFlags_crd (d : Dev) (e : Nat) (f : Fl) : (d.setFlags e f).crd = d.crd := rfl
@[simp] theorem Dev.setFlags_nfc (d : Dev) (e : Nat) (f : Fl) : (d.setFlags e f).nfc = d.nfc := rfl
@[simp] theorem Dev.setFlags_isl (d : Dev) (e : Nat) (f : Fl) : (d.setFlags e f).isl = d.isl := rfl
@[simp] theorem Dev.setFlags_rop (d : Dev) (e : Nat) (f : Fl) : (d.setFlags e f).rop = d.rop := rfl
@[simp] theorem Dev.setFlags_isd (d : Dev) (e : Nat) (f : Fl) : (d.setFlags e f).isd = d.isd := rfl
@[simp] theorem Dev.setFlags_tmp (d : Dev) (e : Nat) (f : Fl) : (d.setFlags e f).tmp = d.tmp := rfl
@[simp] theorem Dev.setFlags_bkd (d : Dev) (e : Nat) (f : Fl) : (d.setFlags e f).bkd = d.bkd := rfl
@[simp] theorem Dev.setFlags_jtag (d : Dev) (e : Nat) (f : Fl) : (d.setFlags e f).jtag = d.jtag := rfl
@[simp] theorem Dev.setFlags_sys (d : Dev) (e : Nat) (f : Fl) : (d.setFlags e f).sys = d.sys := rfl

/-! ### `setVr` -/

@[simp] theorem Dev.setVr_cclk (d : Dev) (e v : Nat) (x : BitVec 128) : (d.setVr e v x).cclk = d.cclk := rfl
@[simp] theorem Dev.setVr_ticks (d : Dev) (e v : Nat) (x : BitVec 128) : (d.setVr e v x).ticks = d.ticks := rfl
@[simp] theorem Dev.setVr_off (d : Dev) (e v : Nat) (x : BitVec 128) : (d.setVr e v x).off = d.off := rfl
@[simp] theorem Dev.setVr_brk (d : Dev) (e v : Nat) (x : BitVec 128) : (d.setVr e v x).brk = d.brk := rfl
@[simp] theorem Dev.setVr_draws (d : Dev) (e v : Nat) (x : BitVec 128) : (d.setVr e v x).draws = d.draws := rfl
@[simp] theorem Dev.setVr_resp (d : Dev) (e v : Nat) (x : BitVec 128) : (d.setVr e v x).resp = d.resp := rfl
@[simp] theorem Dev.setVr_out (d : Dev) (e v : Nat) (x : BitVec 128) : (d.setVr e v x).out = d.out := rfl
@[simp] theorem Dev.setVr_regs (d : Dev) (e v : Nat) (x : BitVec 128) : (d.setVr e v x).regs = d.regs := rfl
@[simp] theorem Dev.setVr_wlLocked (d : Dev) (e v : Nat) (x : BitVec 128) : (d.setVr e v x).wlLocked = d.wlLocked := rfl
@[simp] theorem Dev.setVr_shadow (d : Dev) (e v : Nat) (x : BitVec 128) : (d.setVr e v x).shadow = d.shadow := rfl
@[simp] theorem Dev.setVr_shadowSeen (d : Dev) (e v : Nat) (x : BitVec 128) : (d.setVr e v x).shadowSeen = d.shadowSeen := rfl
@[simp] theorem Dev.setVr_pairHi (d : Dev) (e v : Nat) (x : BitVec 128) : (d.setVr e v x).pairHi = d.pairHi := rfl
@[simp] theorem Dev.setVr_lockClear (d : Dev) (e v : Nat) (x : BitVec 128) : (d.setVr e v x).lockClear = d.lockClear := rfl
@[simp] theorem Dev.setVr_inReset (d : Dev) (e v : Nat) (x : BitVec 128) : (d.setVr e v x).inReset = d.inReset := rfl
@[simp] theorem Dev.setVr_mem (d : Dev) (e v : Nat) (x : BitVec 128) : (d.setVr e v x).mem = d.mem := rfl
@[simp] theorem Dev.setVr_bivouac (d : Dev) (e v : Nat) (x : BitVec 128) : (d.setVr e v x).bivouac = d.bivouac := rfl
@[simp] theorem Dev.setVr_tim (d : Dev) (e v : Nat) (x : BitVec 128) : (d.setVr e v x).tim = d.tim := rfl
@[simp] theorem Dev.setVr_orb (d : Dev) (e v : Nat) (x : BitVec 128) : (d.setVr e v x).orb = d.orb := rfl
@[simp] theorem Dev.setVr_cmp (d : Dev) (e v : Nat) (x : BitVec 128) : (d.setVr e v x).cmp = d.cmp := rfl
@[simp] theorem Dev.setVr_evm (d : Dev) (e v : Nat) (x : BitVec 128) : (d.setVr e v x).evm = d.evm := rfl
@[simp] theorem Dev.setVr_bio (d : Dev) (e v : Nat) (x : BitVec 128) : (d.setVr e v x).bio = d.bio := rfl
@[simp] theorem Dev.setVr_pit (d : Dev) (e v : Nat) (x : BitVec 128) : (d.setVr e v x).pit = d.pit := rfl
@[simp] theorem Dev.setVr_tou (d : Dev) (e v : Nat) (x : BitVec 128) : (d.setVr e v x).tou = d.tou := rfl
@[simp] theorem Dev.setVr_evr (d : Dev) (e v : Nat) (x : BitVec 128) : (d.setVr e v x).evr = d.evr := rfl
@[simp] theorem Dev.setVr_hst (d : Dev) (e v : Nat) (x : BitVec 128) : (d.setVr e v x).hst = d.hst := rfl
@[simp] theorem Dev.setVr_ports (d : Dev) (e v : Nat) (x : BitVec 128) : (d.setVr e v x).ports = d.ports := rfl
@[simp] theorem Dev.setVr_pairs (d : Dev) (e v : Nat) (x : BitVec 128) : (d.setVr e v x).pairs = d.pairs := rfl
@[simp] theorem Dev.setVr_qmg (d : Dev) (e v : Nat) (x : BitVec 128) : (d.setVr e v x).qmg = d.qmg := rfl
@[simp] theorem Dev.setVr_trv (d : Dev) (e v : Nat) (x : BitVec 128) : (d.setVr e v x).trv = d.trv := rfl
@[simp] theorem Dev.setVr_rsm (d : Dev) (e v : Nat) (x : BitVec 128) : (d.setVr e v x).rsm = d.rsm := rfl
@[simp] theorem Dev.setVr_cnv (d : Dev) (e v : Nat) (x : BitVec 128) : (d.setVr e v x).cnv = d.cnv := rfl
@[simp] theorem Dev.setVr_wfc (d : Dev) (e v : Nat) (x : BitVec 128) : (d.setVr e v x).wfc = d.wfc := rfl
@[simp] theorem Dev.setVr_bad (d : Dev) (e v : Nat) (x : BitVec 128) : (d.setVr e v x).bad = d.bad := rfl
@[simp] theorem Dev.setVr_initTill (d : Dev) (e v : Nat) (x : BitVec 128) : (d.setVr e v x).initTill = d.initTill := rfl
@[simp] theorem Dev.setVr_scramble (d : Dev) (e v : Nat) (x : BitVec 128) : (d.setVr e v x).scramble = d.scramble := rfl
@[simp] theorem Dev.setVr_lineCtr (d : Dev) (e v : Nat) (x : BitVec 128) : (d.setVr e v x).lineCtr = d.lineCtr := rfl
@[simp] theorem Dev.setVr_ctrCache (d : Dev) (e v : Nat) (x : BitVec 128) : (d.setVr e v x).ctrCache = d.ctrCache := rfl
@[simp] theorem Dev.setVr_ctrStored (d : Dev) (e v : Nat) (x : BitVec 128) : (d.setVr e v x).ctrStored = d.ctrStored := rfl
@[simp] theorem Dev.setVr_vaultTill (d : Dev) (e v : Nat) (x : BitVec 128) : (d.setVr e v x).vaultTill = d.vaultTill := rfl
@[simp] theorem Dev.setVr_dramOld (d : Dev) (e v : Nat) (x : BitVec 128) : (d.setVr e v x).dramOld = d.dramOld := rfl
@[simp] theorem Dev.setVr_dramNew (d : Dev) (e v : Nat) (x : BitVec 128) : (d.setVr e v x).dramNew = d.dramNew := rfl
@[simp] theorem Dev.setVr_scrubAt (d : Dev) (e v : Nat) (x : BitVec 128) : (d.setVr e v x).scrubAt = d.scrubAt := rfl
@[simp] theorem Dev.setVr_rel (d : Dev) (e v : Nat) (x : BitVec 128) : (d.setVr e v x).rel = d.rel := rfl
@[simp] theorem Dev.setVr_vault (d : Dev) (e v : Nat) (x : BitVec 128) : (d.setVr e v x).vault = d.vault := rfl
@[simp] theorem Dev.setVr_cpl (d : Dev) (e v : Nat) (x : BitVec 128) : (d.setVr e v x).cpl = d.cpl := rfl
@[simp] theorem Dev.setVr_pke (d : Dev) (e v : Nat) (x : BitVec 128) : (d.setVr e v x).pke = d.pke := rfl
@[simp] theorem Dev.setVr_hsh (d : Dev) (e v : Nat) (x : BitVec 128) : (d.setVr e v x).hsh = d.hsh := rfl
@[simp] theorem Dev.setVr_flc (d : Dev) (e v : Nat) (x : BitVec 128) : (d.setVr e v x).flc = d.flc := rfl
@[simp] theorem Dev.setVr_rfg (d : Dev) (e v : Nat) (x : BitVec 128) : (d.setVr e v x).rfg = d.rfg := rfl
@[simp] theorem Dev.setVr_crd (d : Dev) (e v : Nat) (x : BitVec 128) : (d.setVr e v x).crd = d.crd := rfl
@[simp] theorem Dev.setVr_nfc (d : Dev) (e v : Nat) (x : BitVec 128) : (d.setVr e v x).nfc = d.nfc := rfl
@[simp] theorem Dev.setVr_isl (d : Dev) (e v : Nat) (x : BitVec 128) : (d.setVr e v x).isl = d.isl := rfl
@[simp] theorem Dev.setVr_rop (d : Dev) (e v : Nat) (x : BitVec 128) : (d.setVr e v x).rop = d.rop := rfl
@[simp] theorem Dev.setVr_isd (d : Dev) (e v : Nat) (x : BitVec 128) : (d.setVr e v x).isd = d.isd := rfl
@[simp] theorem Dev.setVr_tmp (d : Dev) (e v : Nat) (x : BitVec 128) : (d.setVr e v x).tmp = d.tmp := rfl
@[simp] theorem Dev.setVr_bkd (d : Dev) (e v : Nat) (x : BitVec 128) : (d.setVr e v x).bkd = d.bkd := rfl
@[simp] theorem Dev.setVr_jtag (d : Dev) (e v : Nat) (x : BitVec 128) : (d.setVr e v x).jtag = d.jtag := rfl
@[simp] theorem Dev.setVr_sys (d : Dev) (e v : Nat) (x : BitVec 128) : (d.setVr e v x).sys = d.sys := rfl

/-! ### `setAcc` -/

@[simp] theorem Dev.setAcc_cclk (d : Dev) (e n : Nat) (v : Int) : (d.setAcc e n v).cclk = d.cclk := rfl
@[simp] theorem Dev.setAcc_ticks (d : Dev) (e n : Nat) (v : Int) : (d.setAcc e n v).ticks = d.ticks := rfl
@[simp] theorem Dev.setAcc_off (d : Dev) (e n : Nat) (v : Int) : (d.setAcc e n v).off = d.off := rfl
@[simp] theorem Dev.setAcc_brk (d : Dev) (e n : Nat) (v : Int) : (d.setAcc e n v).brk = d.brk := rfl
@[simp] theorem Dev.setAcc_draws (d : Dev) (e n : Nat) (v : Int) : (d.setAcc e n v).draws = d.draws := rfl
@[simp] theorem Dev.setAcc_resp (d : Dev) (e n : Nat) (v : Int) : (d.setAcc e n v).resp = d.resp := rfl
@[simp] theorem Dev.setAcc_out (d : Dev) (e n : Nat) (v : Int) : (d.setAcc e n v).out = d.out := rfl
@[simp] theorem Dev.setAcc_regs (d : Dev) (e n : Nat) (v : Int) : (d.setAcc e n v).regs = d.regs := rfl
@[simp] theorem Dev.setAcc_wlLocked (d : Dev) (e n : Nat) (v : Int) : (d.setAcc e n v).wlLocked = d.wlLocked := rfl
@[simp] theorem Dev.setAcc_shadow (d : Dev) (e n : Nat) (v : Int) : (d.setAcc e n v).shadow = d.shadow := rfl
@[simp] theorem Dev.setAcc_shadowSeen (d : Dev) (e n : Nat) (v : Int) : (d.setAcc e n v).shadowSeen = d.shadowSeen := rfl
@[simp] theorem Dev.setAcc_pairHi (d : Dev) (e n : Nat) (v : Int) : (d.setAcc e n v).pairHi = d.pairHi := rfl
@[simp] theorem Dev.setAcc_lockClear (d : Dev) (e n : Nat) (v : Int) : (d.setAcc e n v).lockClear = d.lockClear := rfl
@[simp] theorem Dev.setAcc_inReset (d : Dev) (e n : Nat) (v : Int) : (d.setAcc e n v).inReset = d.inReset := rfl
@[simp] theorem Dev.setAcc_mem (d : Dev) (e n : Nat) (v : Int) : (d.setAcc e n v).mem = d.mem := rfl
@[simp] theorem Dev.setAcc_bivouac (d : Dev) (e n : Nat) (v : Int) : (d.setAcc e n v).bivouac = d.bivouac := rfl
@[simp] theorem Dev.setAcc_tim (d : Dev) (e n : Nat) (v : Int) : (d.setAcc e n v).tim = d.tim := rfl
@[simp] theorem Dev.setAcc_orb (d : Dev) (e n : Nat) (v : Int) : (d.setAcc e n v).orb = d.orb := rfl
@[simp] theorem Dev.setAcc_cmp (d : Dev) (e n : Nat) (v : Int) : (d.setAcc e n v).cmp = d.cmp := rfl
@[simp] theorem Dev.setAcc_evm (d : Dev) (e n : Nat) (v : Int) : (d.setAcc e n v).evm = d.evm := rfl
@[simp] theorem Dev.setAcc_bio (d : Dev) (e n : Nat) (v : Int) : (d.setAcc e n v).bio = d.bio := rfl
@[simp] theorem Dev.setAcc_pit (d : Dev) (e n : Nat) (v : Int) : (d.setAcc e n v).pit = d.pit := rfl
@[simp] theorem Dev.setAcc_tou (d : Dev) (e n : Nat) (v : Int) : (d.setAcc e n v).tou = d.tou := rfl
@[simp] theorem Dev.setAcc_evr (d : Dev) (e n : Nat) (v : Int) : (d.setAcc e n v).evr = d.evr := rfl
@[simp] theorem Dev.setAcc_hst (d : Dev) (e n : Nat) (v : Int) : (d.setAcc e n v).hst = d.hst := rfl
@[simp] theorem Dev.setAcc_ports (d : Dev) (e n : Nat) (v : Int) : (d.setAcc e n v).ports = d.ports := rfl
@[simp] theorem Dev.setAcc_pairs (d : Dev) (e n : Nat) (v : Int) : (d.setAcc e n v).pairs = d.pairs := rfl
@[simp] theorem Dev.setAcc_qmg (d : Dev) (e n : Nat) (v : Int) : (d.setAcc e n v).qmg = d.qmg := rfl
@[simp] theorem Dev.setAcc_trv (d : Dev) (e n : Nat) (v : Int) : (d.setAcc e n v).trv = d.trv := rfl
@[simp] theorem Dev.setAcc_rsm (d : Dev) (e n : Nat) (v : Int) : (d.setAcc e n v).rsm = d.rsm := rfl
@[simp] theorem Dev.setAcc_cnv (d : Dev) (e n : Nat) (v : Int) : (d.setAcc e n v).cnv = d.cnv := rfl
@[simp] theorem Dev.setAcc_wfc (d : Dev) (e n : Nat) (v : Int) : (d.setAcc e n v).wfc = d.wfc := rfl
@[simp] theorem Dev.setAcc_bad (d : Dev) (e n : Nat) (v : Int) : (d.setAcc e n v).bad = d.bad := rfl
@[simp] theorem Dev.setAcc_initTill (d : Dev) (e n : Nat) (v : Int) : (d.setAcc e n v).initTill = d.initTill := rfl
@[simp] theorem Dev.setAcc_scramble (d : Dev) (e n : Nat) (v : Int) : (d.setAcc e n v).scramble = d.scramble := rfl
@[simp] theorem Dev.setAcc_lineCtr (d : Dev) (e n : Nat) (v : Int) : (d.setAcc e n v).lineCtr = d.lineCtr := rfl
@[simp] theorem Dev.setAcc_ctrCache (d : Dev) (e n : Nat) (v : Int) : (d.setAcc e n v).ctrCache = d.ctrCache := rfl
@[simp] theorem Dev.setAcc_ctrStored (d : Dev) (e n : Nat) (v : Int) : (d.setAcc e n v).ctrStored = d.ctrStored := rfl
@[simp] theorem Dev.setAcc_vaultTill (d : Dev) (e n : Nat) (v : Int) : (d.setAcc e n v).vaultTill = d.vaultTill := rfl
@[simp] theorem Dev.setAcc_dramOld (d : Dev) (e n : Nat) (v : Int) : (d.setAcc e n v).dramOld = d.dramOld := rfl
@[simp] theorem Dev.setAcc_dramNew (d : Dev) (e n : Nat) (v : Int) : (d.setAcc e n v).dramNew = d.dramNew := rfl
@[simp] theorem Dev.setAcc_scrubAt (d : Dev) (e n : Nat) (v : Int) : (d.setAcc e n v).scrubAt = d.scrubAt := rfl
@[simp] theorem Dev.setAcc_rel (d : Dev) (e n : Nat) (v : Int) : (d.setAcc e n v).rel = d.rel := rfl
@[simp] theorem Dev.setAcc_vault (d : Dev) (e n : Nat) (v : Int) : (d.setAcc e n v).vault = d.vault := rfl
@[simp] theorem Dev.setAcc_cpl (d : Dev) (e n : Nat) (v : Int) : (d.setAcc e n v).cpl = d.cpl := rfl
@[simp] theorem Dev.setAcc_pke (d : Dev) (e n : Nat) (v : Int) : (d.setAcc e n v).pke = d.pke := rfl
@[simp] theorem Dev.setAcc_hsh (d : Dev) (e n : Nat) (v : Int) : (d.setAcc e n v).hsh = d.hsh := rfl
@[simp] theorem Dev.setAcc_flc (d : Dev) (e n : Nat) (v : Int) : (d.setAcc e n v).flc = d.flc := rfl
@[simp] theorem Dev.setAcc_rfg (d : Dev) (e n : Nat) (v : Int) : (d.setAcc e n v).rfg = d.rfg := rfl
@[simp] theorem Dev.setAcc_crd (d : Dev) (e n : Nat) (v : Int) : (d.setAcc e n v).crd = d.crd := rfl
@[simp] theorem Dev.setAcc_nfc (d : Dev) (e n : Nat) (v : Int) : (d.setAcc e n v).nfc = d.nfc := rfl
@[simp] theorem Dev.setAcc_isl (d : Dev) (e n : Nat) (v : Int) : (d.setAcc e n v).isl = d.isl := rfl
@[simp] theorem Dev.setAcc_rop (d : Dev) (e n : Nat) (v : Int) : (d.setAcc e n v).rop = d.rop := rfl
@[simp] theorem Dev.setAcc_isd (d : Dev) (e n : Nat) (v : Int) : (d.setAcc e n v).isd = d.isd := rfl
@[simp] theorem Dev.setAcc_tmp (d : Dev) (e n : Nat) (v : Int) : (d.setAcc e n v).tmp = d.tmp := rfl
@[simp] theorem Dev.setAcc_bkd (d : Dev) (e n : Nat) (v : Int) : (d.setAcc e n v).bkd = d.bkd := rfl
@[simp] theorem Dev.setAcc_jtag (d : Dev) (e n : Nat) (v : Int) : (d.setAcc e n v).jtag = d.jtag := rfl
@[simp] theorem Dev.setAcc_sys (d : Dev) (e n : Nat) (v : Int) : (d.setAcc e n v).sys = d.sys := rfl

/-! ### `setGen` -/

@[simp] theorem Dev.setGen_cclk (d : Dev) (e m : Nat) (x : Gen) : (d.setGen e m x).cclk = d.cclk := rfl
@[simp] theorem Dev.setGen_ticks (d : Dev) (e m : Nat) (x : Gen) : (d.setGen e m x).ticks = d.ticks := rfl
@[simp] theorem Dev.setGen_off (d : Dev) (e m : Nat) (x : Gen) : (d.setGen e m x).off = d.off := rfl
@[simp] theorem Dev.setGen_brk (d : Dev) (e m : Nat) (x : Gen) : (d.setGen e m x).brk = d.brk := rfl
@[simp] theorem Dev.setGen_draws (d : Dev) (e m : Nat) (x : Gen) : (d.setGen e m x).draws = d.draws := rfl
@[simp] theorem Dev.setGen_resp (d : Dev) (e m : Nat) (x : Gen) : (d.setGen e m x).resp = d.resp := rfl
@[simp] theorem Dev.setGen_out (d : Dev) (e m : Nat) (x : Gen) : (d.setGen e m x).out = d.out := rfl
@[simp] theorem Dev.setGen_regs (d : Dev) (e m : Nat) (x : Gen) : (d.setGen e m x).regs = d.regs := rfl
@[simp] theorem Dev.setGen_wlLocked (d : Dev) (e m : Nat) (x : Gen) : (d.setGen e m x).wlLocked = d.wlLocked := rfl
@[simp] theorem Dev.setGen_shadow (d : Dev) (e m : Nat) (x : Gen) : (d.setGen e m x).shadow = d.shadow := rfl
@[simp] theorem Dev.setGen_shadowSeen (d : Dev) (e m : Nat) (x : Gen) : (d.setGen e m x).shadowSeen = d.shadowSeen := rfl
@[simp] theorem Dev.setGen_pairHi (d : Dev) (e m : Nat) (x : Gen) : (d.setGen e m x).pairHi = d.pairHi := rfl
@[simp] theorem Dev.setGen_lockClear (d : Dev) (e m : Nat) (x : Gen) : (d.setGen e m x).lockClear = d.lockClear := rfl
@[simp] theorem Dev.setGen_inReset (d : Dev) (e m : Nat) (x : Gen) : (d.setGen e m x).inReset = d.inReset := rfl
@[simp] theorem Dev.setGen_mem (d : Dev) (e m : Nat) (x : Gen) : (d.setGen e m x).mem = d.mem := rfl
@[simp] theorem Dev.setGen_bivouac (d : Dev) (e m : Nat) (x : Gen) : (d.setGen e m x).bivouac = d.bivouac := rfl
@[simp] theorem Dev.setGen_tim (d : Dev) (e m : Nat) (x : Gen) : (d.setGen e m x).tim = d.tim := rfl
@[simp] theorem Dev.setGen_orb (d : Dev) (e m : Nat) (x : Gen) : (d.setGen e m x).orb = d.orb := rfl
@[simp] theorem Dev.setGen_cmp (d : Dev) (e m : Nat) (x : Gen) : (d.setGen e m x).cmp = d.cmp := rfl
@[simp] theorem Dev.setGen_evm (d : Dev) (e m : Nat) (x : Gen) : (d.setGen e m x).evm = d.evm := rfl
@[simp] theorem Dev.setGen_bio (d : Dev) (e m : Nat) (x : Gen) : (d.setGen e m x).bio = d.bio := rfl
@[simp] theorem Dev.setGen_pit (d : Dev) (e m : Nat) (x : Gen) : (d.setGen e m x).pit = d.pit := rfl
@[simp] theorem Dev.setGen_tou (d : Dev) (e m : Nat) (x : Gen) : (d.setGen e m x).tou = d.tou := rfl
@[simp] theorem Dev.setGen_evr (d : Dev) (e m : Nat) (x : Gen) : (d.setGen e m x).evr = d.evr := rfl
@[simp] theorem Dev.setGen_hst (d : Dev) (e m : Nat) (x : Gen) : (d.setGen e m x).hst = d.hst := rfl
@[simp] theorem Dev.setGen_ports (d : Dev) (e m : Nat) (x : Gen) : (d.setGen e m x).ports = d.ports := rfl
@[simp] theorem Dev.setGen_pairs (d : Dev) (e m : Nat) (x : Gen) : (d.setGen e m x).pairs = d.pairs := rfl
@[simp] theorem Dev.setGen_qmg (d : Dev) (e m : Nat) (x : Gen) : (d.setGen e m x).qmg = d.qmg := rfl
@[simp] theorem Dev.setGen_trv (d : Dev) (e m : Nat) (x : Gen) : (d.setGen e m x).trv = d.trv := rfl
@[simp] theorem Dev.setGen_rsm (d : Dev) (e m : Nat) (x : Gen) : (d.setGen e m x).rsm = d.rsm := rfl
@[simp] theorem Dev.setGen_cnv (d : Dev) (e m : Nat) (x : Gen) : (d.setGen e m x).cnv = d.cnv := rfl
@[simp] theorem Dev.setGen_wfc (d : Dev) (e m : Nat) (x : Gen) : (d.setGen e m x).wfc = d.wfc := rfl
@[simp] theorem Dev.setGen_bad (d : Dev) (e m : Nat) (x : Gen) : (d.setGen e m x).bad = d.bad := rfl
@[simp] theorem Dev.setGen_initTill (d : Dev) (e m : Nat) (x : Gen) : (d.setGen e m x).initTill = d.initTill := rfl
@[simp] theorem Dev.setGen_scramble (d : Dev) (e m : Nat) (x : Gen) : (d.setGen e m x).scramble = d.scramble := rfl
@[simp] theorem Dev.setGen_lineCtr (d : Dev) (e m : Nat) (x : Gen) : (d.setGen e m x).lineCtr = d.lineCtr := rfl
@[simp] theorem Dev.setGen_ctrCache (d : Dev) (e m : Nat) (x : Gen) : (d.setGen e m x).ctrCache = d.ctrCache := rfl
@[simp] theorem Dev.setGen_ctrStored (d : Dev) (e m : Nat) (x : Gen) : (d.setGen e m x).ctrStored = d.ctrStored := rfl
@[simp] theorem Dev.setGen_vaultTill (d : Dev) (e m : Nat) (x : Gen) : (d.setGen e m x).vaultTill = d.vaultTill := rfl
@[simp] theorem Dev.setGen_dramOld (d : Dev) (e m : Nat) (x : Gen) : (d.setGen e m x).dramOld = d.dramOld := rfl
@[simp] theorem Dev.setGen_dramNew (d : Dev) (e m : Nat) (x : Gen) : (d.setGen e m x).dramNew = d.dramNew := rfl
@[simp] theorem Dev.setGen_scrubAt (d : Dev) (e m : Nat) (x : Gen) : (d.setGen e m x).scrubAt = d.scrubAt := rfl
@[simp] theorem Dev.setGen_rel (d : Dev) (e m : Nat) (x : Gen) : (d.setGen e m x).rel = d.rel := rfl
@[simp] theorem Dev.setGen_vault (d : Dev) (e m : Nat) (x : Gen) : (d.setGen e m x).vault = d.vault := rfl
@[simp] theorem Dev.setGen_cpl (d : Dev) (e m : Nat) (x : Gen) : (d.setGen e m x).cpl = d.cpl := rfl
@[simp] theorem Dev.setGen_pke (d : Dev) (e m : Nat) (x : Gen) : (d.setGen e m x).pke = d.pke := rfl
@[simp] theorem Dev.setGen_hsh (d : Dev) (e m : Nat) (x : Gen) : (d.setGen e m x).hsh = d.hsh := rfl
@[simp] theorem Dev.setGen_flc (d : Dev) (e m : Nat) (x : Gen) : (d.setGen e m x).flc = d.flc := rfl
@[simp] theorem Dev.setGen_rfg (d : Dev) (e m : Nat) (x : Gen) : (d.setGen e m x).rfg = d.rfg := rfl
@[simp] theorem Dev.setGen_crd (d : Dev) (e m : Nat) (x : Gen) : (d.setGen e m x).crd = d.crd := rfl
@[simp] theorem Dev.setGen_nfc (d : Dev) (e m : Nat) (x : Gen) : (d.setGen e m x).nfc = d.nfc := rfl
@[simp] theorem Dev.setGen_isl (d : Dev) (e m : Nat) (x : Gen) : (d.setGen e m x).isl = d.isl := rfl
@[simp] theorem Dev.setGen_rop (d : Dev) (e m : Nat) (x : Gen) : (d.setGen e m x).rop = d.rop := rfl
@[simp] theorem Dev.setGen_isd (d : Dev) (e m : Nat) (x : Gen) : (d.setGen e m x).isd = d.isd := rfl
@[simp] theorem Dev.setGen_tmp (d : Dev) (e m : Nat) (x : Gen) : (d.setGen e m x).tmp = d.tmp := rfl
@[simp] theorem Dev.setGen_bkd (d : Dev) (e m : Nat) (x : Gen) : (d.setGen e m x).bkd = d.bkd := rfl
@[simp] theorem Dev.setGen_jtag (d : Dev) (e m : Nat) (x : Gen) : (d.setGen e m x).jtag = d.jtag := rfl
@[simp] theorem Dev.setGen_sys (d : Dev) (e m : Nat) (x : Gen) : (d.setGen e m x).sys = d.sys := rfl

/-! ### `setPc` -/

@[simp] theorem Dev.setPc_cclk (d : Dev) (e pc : Nat) : (d.setPc e pc).cclk = d.cclk := rfl
@[simp] theorem Dev.setPc_ticks (d : Dev) (e pc : Nat) : (d.setPc e pc).ticks = d.ticks := rfl
@[simp] theorem Dev.setPc_off (d : Dev) (e pc : Nat) : (d.setPc e pc).off = d.off := rfl
@[simp] theorem Dev.setPc_brk (d : Dev) (e pc : Nat) : (d.setPc e pc).brk = d.brk := rfl
@[simp] theorem Dev.setPc_draws (d : Dev) (e pc : Nat) : (d.setPc e pc).draws = d.draws := rfl
@[simp] theorem Dev.setPc_resp (d : Dev) (e pc : Nat) : (d.setPc e pc).resp = d.resp := rfl
@[simp] theorem Dev.setPc_out (d : Dev) (e pc : Nat) : (d.setPc e pc).out = d.out := rfl
@[simp] theorem Dev.setPc_regs (d : Dev) (e pc : Nat) : (d.setPc e pc).regs = d.regs := rfl
@[simp] theorem Dev.setPc_wlLocked (d : Dev) (e pc : Nat) : (d.setPc e pc).wlLocked = d.wlLocked := rfl
@[simp] theorem Dev.setPc_shadow (d : Dev) (e pc : Nat) : (d.setPc e pc).shadow = d.shadow := rfl
@[simp] theorem Dev.setPc_shadowSeen (d : Dev) (e pc : Nat) : (d.setPc e pc).shadowSeen = d.shadowSeen := rfl
@[simp] theorem Dev.setPc_pairHi (d : Dev) (e pc : Nat) : (d.setPc e pc).pairHi = d.pairHi := rfl
@[simp] theorem Dev.setPc_lockClear (d : Dev) (e pc : Nat) : (d.setPc e pc).lockClear = d.lockClear := rfl
@[simp] theorem Dev.setPc_inReset (d : Dev) (e pc : Nat) : (d.setPc e pc).inReset = d.inReset := rfl
@[simp] theorem Dev.setPc_mem (d : Dev) (e pc : Nat) : (d.setPc e pc).mem = d.mem := rfl
@[simp] theorem Dev.setPc_bivouac (d : Dev) (e pc : Nat) : (d.setPc e pc).bivouac = d.bivouac := rfl
@[simp] theorem Dev.setPc_tim (d : Dev) (e pc : Nat) : (d.setPc e pc).tim = d.tim := rfl
@[simp] theorem Dev.setPc_orb (d : Dev) (e pc : Nat) : (d.setPc e pc).orb = d.orb := rfl
@[simp] theorem Dev.setPc_cmp (d : Dev) (e pc : Nat) : (d.setPc e pc).cmp = d.cmp := rfl
@[simp] theorem Dev.setPc_evm (d : Dev) (e pc : Nat) : (d.setPc e pc).evm = d.evm := rfl
@[simp] theorem Dev.setPc_bio (d : Dev) (e pc : Nat) : (d.setPc e pc).bio = d.bio := rfl
@[simp] theorem Dev.setPc_pit (d : Dev) (e pc : Nat) : (d.setPc e pc).pit = d.pit := rfl
@[simp] theorem Dev.setPc_tou (d : Dev) (e pc : Nat) : (d.setPc e pc).tou = d.tou := rfl
@[simp] theorem Dev.setPc_evr (d : Dev) (e pc : Nat) : (d.setPc e pc).evr = d.evr := rfl
@[simp] theorem Dev.setPc_hst (d : Dev) (e pc : Nat) : (d.setPc e pc).hst = d.hst := rfl
@[simp] theorem Dev.setPc_ports (d : Dev) (e pc : Nat) : (d.setPc e pc).ports = d.ports := rfl
@[simp] theorem Dev.setPc_pairs (d : Dev) (e pc : Nat) : (d.setPc e pc).pairs = d.pairs := rfl
@[simp] theorem Dev.setPc_qmg (d : Dev) (e pc : Nat) : (d.setPc e pc).qmg = d.qmg := rfl
@[simp] theorem Dev.setPc_trv (d : Dev) (e pc : Nat) : (d.setPc e pc).trv = d.trv := rfl
@[simp] theorem Dev.setPc_rsm (d : Dev) (e pc : Nat) : (d.setPc e pc).rsm = d.rsm := rfl
@[simp] theorem Dev.setPc_cnv (d : Dev) (e pc : Nat) : (d.setPc e pc).cnv = d.cnv := rfl
@[simp] theorem Dev.setPc_wfc (d : Dev) (e pc : Nat) : (d.setPc e pc).wfc = d.wfc := rfl
@[simp] theorem Dev.setPc_bad (d : Dev) (e pc : Nat) : (d.setPc e pc).bad = d.bad := rfl
@[simp] theorem Dev.setPc_initTill (d : Dev) (e pc : Nat) : (d.setPc e pc).initTill = d.initTill := rfl
@[simp] theorem Dev.setPc_scramble (d : Dev) (e pc : Nat) : (d.setPc e pc).scramble = d.scramble := rfl
@[simp] theorem Dev.setPc_lineCtr (d : Dev) (e pc : Nat) : (d.setPc e pc).lineCtr = d.lineCtr := rfl
@[simp] theorem Dev.setPc_ctrCache (d : Dev) (e pc : Nat) : (d.setPc e pc).ctrCache = d.ctrCache := rfl
@[simp] theorem Dev.setPc_ctrStored (d : Dev) (e pc : Nat) : (d.setPc e pc).ctrStored = d.ctrStored := rfl
@[simp] theorem Dev.setPc_vaultTill (d : Dev) (e pc : Nat) : (d.setPc e pc).vaultTill = d.vaultTill := rfl
@[simp] theorem Dev.setPc_dramOld (d : Dev) (e pc : Nat) : (d.setPc e pc).dramOld = d.dramOld := rfl
@[simp] theorem Dev.setPc_dramNew (d : Dev) (e pc : Nat) : (d.setPc e pc).dramNew = d.dramNew := rfl
@[simp] theorem Dev.setPc_scrubAt (d : Dev) (e pc : Nat) : (d.setPc e pc).scrubAt = d.scrubAt := rfl
@[simp] theorem Dev.setPc_rel (d : Dev) (e pc : Nat) : (d.setPc e pc).rel = d.rel := rfl
@[simp] theorem Dev.setPc_vault (d : Dev) (e pc : Nat) : (d.setPc e pc).vault = d.vault := rfl
@[simp] theorem Dev.setPc_cpl (d : Dev) (e pc : Nat) : (d.setPc e pc).cpl = d.cpl := rfl
@[simp] theorem Dev.setPc_pke (d : Dev) (e pc : Nat) : (d.setPc e pc).pke = d.pke := rfl
@[simp] theorem Dev.setPc_hsh (d : Dev) (e pc : Nat) : (d.setPc e pc).hsh = d.hsh := rfl
@[simp] theorem Dev.setPc_flc (d : Dev) (e pc : Nat) : (d.setPc e pc).flc = d.flc := rfl
@[simp] theorem Dev.setPc_rfg (d : Dev) (e pc : Nat) : (d.setPc e pc).rfg = d.rfg := rfl
@[simp] theorem Dev.setPc_crd (d : Dev) (e pc : Nat) : (d.setPc e pc).crd = d.crd := rfl
@[simp] theorem Dev.setPc_nfc (d : Dev) (e pc : Nat) : (d.setPc e pc).nfc = d.nfc := rfl
@[simp] theorem Dev.setPc_isl (d : Dev) (e pc : Nat) : (d.setPc e pc).isl = d.isl := rfl
@[simp] theorem Dev.setPc_rop (d : Dev) (e pc : Nat) : (d.setPc e pc).rop = d.rop := rfl
@[simp] theorem Dev.setPc_isd (d : Dev) (e pc : Nat) : (d.setPc e pc).isd = d.isd := rfl
@[simp] theorem Dev.setPc_tmp (d : Dev) (e pc : Nat) : (d.setPc e pc).tmp = d.tmp := rfl
@[simp] theorem Dev.setPc_bkd (d : Dev) (e pc : Nat) : (d.setPc e pc).bkd = d.bkd := rfl
@[simp] theorem Dev.setPc_jtag (d : Dev) (e pc : Nat) : (d.setPc e pc).jtag = d.jtag := rfl
@[simp] theorem Dev.setPc_sys (d : Dev) (e pc : Nat) : (d.setPc e pc).sys = d.sys := rfl

@[simp] theorem Dev.answer_resp (d : Dev) (st : Status) (data : Nat) :
    (d.answer st data).resp = { status := some st, data := BitVec.ofNat 32 data } := rfl
@[simp] theorem Dev.report_resp (d : Dev) (page : Nat) (st : Status) :
    (d.report page st).resp = { status := some st, data := BitVec.ofNat 32 0 } := rfl
@[simp] theorem Dev.emit_out (d : Dev) (o : Out) : (d.emit o).out = d.out ++ [o] := rfl

end Sys2Proof.Machine
end

