-- ==== Sys2Proof/Laws/Tbl.lean ====
section
/-! SUPPORT. The laws of sparse tables and of memory: a read after a write to the same place gives the value written, a write
leaves every other place alone, and every operation keeps the canonical form. -/

namespace Sys2Proof.Machine

open Sys2Proof

variable {α : Type}

@[simp] theorem Tbl.get_nil (k : Nat) (d : α) : Tbl.get [] k d = d := rfl

theorem Tbl.get_cons (e : Nat × α) (t : Tbl α) (k : Nat) (d : α) :
    Tbl.get (e :: t) k d = if k = e.1 then e.2 else Tbl.get t k d := rfl

theorem Tbl.get_put_same (t : Tbl α) (k : Nat) (v d : α) : Tbl.get (Tbl.put t k v) k d = v := by
  induction t with
  | nil => simp [Tbl.put, Tbl.get_cons]
  | cons e t ih =>
    simp only [Tbl.put]
    split
    · simp [Tbl.get_cons]
    · split
      · simp [Tbl.get_cons]
      · simp [Tbl.get_cons, *]

theorem Tbl.get_put_ne (t : Tbl α) {j k : Nat} (h : j ≠ k) (v d : α) : Tbl.get (Tbl.put t k v) j d = Tbl.get t j d := by
  induction t with
  | nil => simp [Tbl.put, Tbl.get_cons, h]
  | cons e t ih =>
    simp only [Tbl.put]
    split
    · simp [Tbl.get_cons, h]
    · split
      · rename_i hk; simp [Tbl.get_cons, h, ← hk]
      · simp [Tbl.get_cons, ih]

theorem Tbl.get_del_same (t : Tbl α) (k : Nat) (d : α) : Tbl.get (Tbl.del t k) k d = d := by
  induction t with
  | nil => rfl
  | cons e t ih =>
    simp only [Tbl.del, List.filter_cons] at ih ⊢
    by_cases h : e.1 = k
    · simp [h, ih]
    · simp [h, Tbl.get_cons, ih, Ne.symm h]

theorem Tbl.get_del_ne (t : Tbl α) {j k : Nat} (h : j ≠ k) (d : α) : Tbl.get (Tbl.del t k) j d = Tbl.get t j d := by
  induction t with
  | nil => rfl
  | cons e t ih =>
    simp only [Tbl.del, List.filter_cons] at ih ⊢
    by_cases hk : e.1 = k
    · have : j ≠ e.1 := by rw [hk]; exact h
      simp [hk, ih, Tbl.get_cons, h]
    · simp [hk, Tbl.get_cons, ih]

@[simp] theorem Tbl.get_set_same [DecidableEq α] (t : Tbl α) (k : Nat) (v d : α) : Tbl.get (Tbl.set t k v d) k d = v := by
  unfold Tbl.set
  split
  · rename_i h; rw [Tbl.get_del_same, h]
  · exact Tbl.get_put_same t k v d

theorem Tbl.get_set_ne [DecidableEq α] (t : Tbl α) {j k : Nat} (h : j ≠ k) (v d d' : α) :
    Tbl.get (Tbl.set t k v d) j d' = Tbl.get t j d' := by
  unfold Tbl.set
  split
  · exact Tbl.get_del_ne t h d'
  · exact Tbl.get_put_ne t h v d'

theorem Tbl.get_set [DecidableEq α] (t : Tbl α) (j k : Nat) (v d : α) :
    Tbl.get (Tbl.set t k v d) j d = if j = k then v else Tbl.get t j d := by
  split
  · rename_i h; rw [h, Tbl.get_set_same]
  · rename_i h; exact Tbl.get_set_ne t h v d d

/-! ### The canonical form -/

theorem Tbl.rising_tail {e : Nat × α} {t : Tbl α} (h : Tbl.rising (e :: t) = true) : Tbl.rising t = true := by
  cases t with
  | nil => rfl
  | cons f t => simp [Tbl.rising] at h; exact h.2

theorem Tbl.rising_iff (e : Nat × α) (t : Tbl α) :
    Tbl.rising (e :: t) = true ↔ (∀ x ∈ t, e.1 < x.1) ∧ Tbl.rising t = true := by
  induction t generalizing e with
  | nil => simp [Tbl.rising]
  | cons f t ih =>
    simp only [Tbl.rising, Bool.and_eq_true, decide_eq_true_eq]
    constructor
    · rintro ⟨h1, h2⟩
      refine ⟨fun x hx => ?_, h2⟩
      rcases List.mem_cons.mp hx with rfl | hx
      · exact h1
      · exact Nat.lt_trans h1 (((ih f).mp h2).1 x hx)
    · rintro ⟨h1, h2⟩
      exact ⟨h1 f List.mem_cons_self, h2⟩

theorem Tbl.rising_filter (t : Tbl α) (p : Nat × α → Bool) (h : Tbl.rising t = true) : Tbl.rising (t.filter p) = true := by
  induction t with
  | nil => exact h
  | cons e t ih =>
    rw [Tbl.rising_iff] at h
    rw [List.filter_cons]
    split
    · rw [Tbl.rising_iff]
      exact ⟨fun x hx => h.1 x (List.mem_filter.mp hx).1, ih h.2⟩
    · exact ih h.2

theorem Tbl.mem_put {t : Tbl α} {k : Nat} {v : α} {x : Nat × α} (h : x ∈ Tbl.put t k v) : x = (k, v) ∨ x ∈ t := by
  induction t with
  | nil => simp [Tbl.put] at h; exact .inl h
  | cons e t ih =>
    simp only [Tbl.put] at h
    split at h
    · rcases List.mem_cons.mp h with h | h
      · exact .inl h
      · exact .inr h
    · split at h
      · rcases List.mem_cons.mp h with h | h
        · exact .inl h
        · exact .inr (List.mem_cons_of_mem _ h)
      · rcases List.mem_cons.mp h with h | h
        · exact .inr (h ▸ List.mem_cons_self)
        · exact (ih h).imp id (List.mem_cons_of_mem _)

theorem Tbl.rising_put (t : Tbl α) (k : Nat) (v : α) (h : Tbl.rising t = true) : Tbl.rising (Tbl.put t k v) = true := by
  induction t with
  | nil => rfl
  | cons e t ih =>
    have ht := (Tbl.rising_iff e t).mp h
    simp only [Tbl.put]
    split
    · rename_i hk
      rw [Tbl.rising_iff]
      refine ⟨fun x hx => ?_, h⟩
      rcases List.mem_cons.mp hx with rfl | hx
      · exact hk
      · exact Nat.lt_trans hk (ht.1 x hx)
    · split
      · rename_i hk
        rw [Tbl.rising_iff]
        exact ⟨fun x hx => hk ▸ ht.1 x hx, ht.2⟩
      · rename_i h1 h2
        rw [Tbl.rising_iff]
        refine ⟨fun x hx => ?_, ih ht.2⟩
        rcases Tbl.mem_put hx with rfl | hx
        · show e.1 < k; omega
        · exact ht.1 x hx

theorem Tbl.rising_set [DecidableEq α] (t : Tbl α) (k : Nat) (v d : α) (h : Tbl.rising t = true) :
    Tbl.rising (Tbl.set t k v d) = true := by
  unfold Tbl.set
  split
  · exact Tbl.rising_filter t _ h
  · exact Tbl.rising_put t k v h

/-! ### Memory -/

@[simp] theorem memByte_memPut_same (m : List Host.Cell) (a : Nat) (v : Byte) : memByte (memPut m a v) a = v :=
  Tbl.get_set_same m a v (memDefault a)

theorem memByte_memPut_ne (m : List Host.Cell) {a b : Nat} (h : b ≠ a) (v : Byte) : memByte (memPut m a v) b = memByte m b :=
  Tbl.get_set_ne m h v (memDefault a) (memDefault b)

/-- A run of bytes reads back outside the bytes written as before. -/
theorem memByte_memPutAll_outside (m : List Host.Cell) (a b : Nat) (bs : List Byte) (h : b < a ∨ a + bs.length ≤ b) :
    memByte (memPutAll m a bs) b = memByte m b := by
  induction bs generalizing m a with
  | nil => rfl
  | cons v bs ih =>
    simp only [List.length_cons] at h
    rw [memPutAll, ih _ _ (by omega), memByte_memPut_ne _ (by omega)]

/-- A run of bytes reads back as written. -/
theorem memByte_memPutAll_inside (m : List Host.Cell) (a i : Nat) (bs : List Byte) (h : i < bs.length) :
    memByte (memPutAll m a bs) (a + i) = bs.getD i 0 := by
  induction bs generalizing m a i with
  | nil => simp at h
  | cons v bs ih =>
    cases i with
    | zero => rw [memPutAll, memByte_memPutAll_outside _ _ _ _ (by omega)]; simp
    | succ i =>
      rw [memPutAll, show a + (i + 1) = (a + 1) + i by omega, ih _ _ _ (by simpa using h)]
      simp

theorem memPut_wf (m : List Host.Cell) (a : Nat) (v : Byte) (h : memWf m = true) : memWf (memPut m a v) = true := by
  simp only [memWf, Bool.and_eq_true, List.all_eq_true] at h ⊢
  refine ⟨Tbl.rising_set m a v _ h.1, fun c hc => ?_⟩
  unfold memPut Tbl.set at hc
  split at hc
  · exact h.2 c (List.mem_filter.mp hc).1
  · rename_i hv
    rcases Tbl.mem_put hc with rfl | hc
    · simpa using hv
    · exact h.2 c hc

theorem memPutAll_wf (m : List Host.Cell) (a : Nat) (bs : List Byte) (h : memWf m = true) : memWf (memPutAll m a bs) = true := by
  induction bs generalizing m a with
  | nil => exact h
  | cons v bs ih => exact ih _ _ (memPut_wf m a v h)

theorem mem_filter_wf (m : List Host.Cell) (p : Host.Cell → Bool) (h : memWf m = true) : memWf (m.filter p) = true := by
  simp only [memWf, Bool.and_eq_true, List.all_eq_true] at h ⊢
  exact ⟨Tbl.rising_filter m p h.1, fun c hc => h.2 c (List.mem_filter.mp hc).1⟩

theorem memForget_wf (m : List Host.Cell) (lo hi : Nat) (h : memWf m = true) : memWf (memForget m lo hi) = true :=
  mem_filter_wf m _ h

theorem reset_mem_wf : memWf State.reset.dev.mem = true := rfl

end Sys2Proof.Machine
end

