-- ==== Sys2Proof/Laws/Regs.lean ====
section
/-! SUPPORT. The laws of registers and their fields: a field reads back what hardware wrote into it, and every other field and
register reads as before. -/

namespace Sys2Proof.Machine

open Sys2Proof

theorem Dev.word_setWord_same (d : Dev) (key v : Nat) : (d.setWord key v).word key = v % 2 ^ 32 := by
  simp [Dev.word, Dev.setWord]

theorem Dev.word_setWord_ne (d : Dev) {j key : Nat} (h : j ≠ key) (v : Nat) : (d.setWord key v).word j = d.word j := by
  simp [Dev.word, Dev.setWord, Tbl.get_set_ne _ h]

theorem Dev.word_lt (d : Dev) (key : Nat) : d.word key < 2 ^ 32 := BitVec.isLt _

theorem testBit_bitsOf (n hi lo i : Nat) :
    (bitsOf n hi lo).testBit i = (decide (i < hi + 1 - lo) && n.testBit (lo + i)) := by
  simp [bitsOf, Nat.testBit_mod_two_pow, Nat.testBit_shiftRight]

theorem bitsOf_lt (n hi lo : Nat) : bitsOf n hi lo < 2 ^ (hi + 1 - lo) := Nat.mod_lt _ (Nat.two_pow_pos _)

/-- A number is its bits below `lo`, the field, and the bits above. -/
theorem bitsOf_split (n hi lo : Nat) (h : lo ≤ hi) :
    n = n % 2 ^ lo + bitsOf n hi lo * 2 ^ lo + n / 2 ^ (hi + 1) * 2 ^ (hi + 1) := by
  have e : 2 ^ (hi + 1) = 2 ^ lo * 2 ^ (hi + 1 - lo) := by rw [← Nat.pow_add]; congr 1; omega
  have h1 := Nat.div_add_mod n (2 ^ lo)
  have h2 := Nat.div_add_mod (n / 2 ^ lo) (2 ^ (hi + 1 - lo))
  rw [Nat.div_div_eq_div_mul, ← e] at h2
  rw [bitsOf, Nat.shiftRight_eq_div_pow]
  conv => lhs; rw [← h1, ← h2, Nat.mul_add, ← Nat.mul_assoc, ← e]
  rw [Nat.mul_comm (2 ^ (hi + 1)), Nat.mul_comm (2 ^ lo)]
  omega

theorem setBits_eq (n hi lo v : Nat) (h : lo ≤ hi) :
    setBits n hi lo v = n % 2 ^ lo + v % 2 ^ (hi + 1 - lo) * 2 ^ lo + n / 2 ^ (hi + 1) * 2 ^ (hi + 1) := by
  have := bitsOf_split n hi lo h
  unfold setBits
  omega

theorem testBit_setBits (n hi lo v i : Nat) (h : lo ≤ hi) :
    (setBits n hi lo v).testBit i = if lo ≤ i ∧ i ≤ hi then v.testBit (i - lo) else n.testBit i := by
  have e : 2 ^ (hi + 1) = 2 ^ lo * 2 ^ (hi + 1 - lo) := by rw [← Nat.pow_add]; congr 1; omega
  have hm : setBits n hi lo v =
      2 ^ lo * (2 ^ (hi + 1 - lo) * (n / 2 ^ (hi + 1)) + v % 2 ^ (hi + 1 - lo)) + n % 2 ^ lo := by
    rw [setBits_eq n hi lo v h, Nat.mul_add, ← Nat.mul_assoc, ← e, Nat.mul_comm (2 ^ lo) (v % _), Nat.mul_comm (2 ^ (hi + 1))]
    omega
  rw [hm, Nat.testBit_two_pow_mul_add _ (Nat.mod_lt _ (Nat.two_pow_pos _))]
  by_cases h1 : i < lo
  · rw [if_pos h1, if_neg (by omega), Nat.testBit_mod_two_pow]; simp [h1]
  · rw [if_neg h1, Nat.testBit_two_pow_mul_add _ (Nat.mod_lt _ (Nat.two_pow_pos _))]
    by_cases h2 : i ≤ hi
    · rw [if_pos (by omega), if_pos (by omega), Nat.testBit_mod_two_pow]
      have : i - lo < hi + 1 - lo := by omega
      simp [this]
    · rw [if_neg (by omega), if_neg (by omega), Nat.testBit_div_two_pow]
      congr 1; omega

theorem bitsOf_setBits_same (n hi lo v : Nat) (h : lo ≤ hi) : bitsOf (setBits n hi lo v) hi lo = v % 2 ^ (hi + 1 - lo) := by
  apply Nat.eq_of_testBit_eq
  intro i
  rw [testBit_bitsOf, testBit_setBits _ _ _ _ _ h, Nat.testBit_mod_two_pow]
  by_cases hi' : i < hi + 1 - lo
  · rw [if_pos (by omega)]; simp
  · simp [hi']

theorem bitsOf_setBits_other (n hi lo v hi' lo' : Nat) (h : lo ≤ hi) (hd : hi' < lo ∨ hi < lo') :
    bitsOf (setBits n hi lo v) hi' lo' = bitsOf n hi' lo' := by
  apply Nat.eq_of_testBit_eq
  intro i
  rw [testBit_bitsOf, testBit_bitsOf, testBit_setBits _ _ _ _ _ h]
  by_cases hi'' : i < hi' + 1 - lo'
  · rw [if_neg (by omega)]
  · simp [hi'']

theorem bitsOf_mod (n hi lo w : Nat) (h : hi < w) : bitsOf (n % 2 ^ w) hi lo = bitsOf n hi lo := by
  apply Nat.eq_of_testBit_eq
  intro i
  rw [testBit_bitsOf, testBit_bitsOf, Nat.testBit_mod_two_pow]
  by_cases hi' : i < hi + 1 - lo
  · have : lo + i < w := by omega
    simp [this]
  · simp [hi']

/-- A field reads back what was written into it. -/
theorem Dev.rd_wr_same (d : Dev) (f : Fld) (v k p : Nat) (h1 : f.lo ≤ f.hi) (h2 : f.hi < 32) :
    (d.wr f v k p).rd f k p = v % 2 ^ (f.hi + 1 - f.lo) := by
  rw [Dev.rd, Dev.wr, Dev.word_setWord_same, bitsOf_mod _ _ _ _ h2, bitsOf_setBits_same _ _ _ _ h1]

/-- A field of another register reads as before. -/
theorem Dev.rd_wr_key_ne (d : Dev) (f g : Fld) (v k p j q : Nat) (h : g.key j q ≠ f.key k p) :
    (d.wr f v k p).rd g j q = d.rd g j q := by
  rw [Dev.rd, Dev.wr, Dev.word_setWord_ne _ h, Dev.rd]

/-- Another field of the same register reads as before. -/
theorem Dev.rd_wr_other (d : Dev) (f g : Fld) (v k p j q : Nat) (h1 : f.lo ≤ f.hi) (h2 : g.hi < 32)
    (h : g.key j q = f.key k p) (hd : g.hi < f.lo ∨ f.hi < g.lo) : (d.wr f v k p).rd g j q = d.rd g j q := by
  rw [Dev.rd, Dev.wr, h, Dev.word_setWord_same, bitsOf_mod _ _ _ _ h2, bitsOf_setBits_other _ _ _ _ _ _ h1 hd, Dev.rd, h]

/-- A stored word reads back; other registers read as before. -/
theorem Dev.rdWord_wrWord_same (d : Dev) (f : Fld) (v k p : Nat) : (d.wrWord f v k p).rdWord f k p = v % 2 ^ 32 :=
  Dev.word_setWord_same d _ v

@[simp] theorem Dev.rd_answer (d : Dev) (st : Status) (x : Nat) (f : Fld) (k p : Nat) : (d.answer st x).rd f k p = d.rd f k p := rfl
@[simp] theorem Dev.rd_emit (d : Dev) (o : Out) (f : Fld) (k p : Nat) : (d.emit o).rd f k p = d.rd f k p := rfl
@[simp] theorem Dev.rd_setEng (d : Dev) (e : Nat) (x : Eng) (f : Fld) (k p : Nat) : (d.setEng e x).rd f k p = d.rd f k p := rfl
@[simp] theorem Dev.rd_store (d : Dev) (a : Nat) (bs : List Byte) (f : Fld) (k p : Nat) :
    (d.store a bs).rd f k p = d.rd f k p := rfl

/-- The outcome of an operation on a page is in its STATUS. -/
theorem Dev.report_status (d : Dev) (page : Nat) (st : Status) : (d.report page st).rd STATUS_last_status 0 page = st.code := by
  rw [Dev.report, Dev.rd_answer, Dev.rd_wr_same _ _ _ _ _ (by decide) (by decide)]
  cases st <;> rfl

/-- A report changes no field outside the page's STATUS. -/
theorem Dev.rd_report_ne (d : Dev) (page : Nat) (st : Status) (g : Fld) (j q : Nat)
    (h : g.key j q ≠ (STATUS_last_status : Fld).key 0 page) : (d.report page st).rd g j q = d.rd g j q := by
  rw [Dev.report, Dev.rd_answer, Dev.rd_wr_key_ne _ _ _ _ _ _ _ _ h]

end Sys2Proof.Machine
end

