-- ==== Sys2Proof/Laws/Ops.lean ====
section
/-! SUPPORT. What the shared operations do, said once: the frame of a command around its effect on the device, register accesses, the
issue of an engine's instruction. -/

namespace Sys2Proof.Machine

open Sys2Proof

/-! ### Commands -/

theorem State.act_on (s : State) (f : Dev → Dev) (h : s.dev.sys.powered = true) :
    s.act f = .next { s with dev := f s.dev.cleared } := by
  simp [State.act, Dev.cleared, h]

theorem State.act_off (s : State) (f : Dev → Dev) (h : s.dev.sys.powered = false) :
    s.act f = .next { s with dev := s.dev.cleared } := by
  simp [State.act, Dev.cleared, h]

theorem State.always_eq (s : State) (f : Dev → Dev) : s.always f = .next { s with dev := f s.dev.cleared } := rfl

/-- An effect on the device answers a next state and leaves the queue and the round-robin pointer alone. -/
theorem State.act_next (s : State) (f : Dev → Dev) : ∃ d, s.act f = .next { s with dev := d } := ⟨_, rfl⟩

theorem State.always_next (s : State) (f : Dev → Dev) : ∃ d, s.always f = .next { s with dev := d } := ⟨_, rfl⟩

/-! ### Register accesses -/

/-- A write that passes every check has its effect, and STATUS and the answer carry the effect's status. -/
theorem Dev.guardedWrite_ok (d : Dev) (r : Req) (page off : Nat) (act : Dev → Status × Dev)
    (h : d.accessCheck r page off false = .ok) (hm : d.mismatched page (shadowOff off) = false) :
    d.guardedWrite r page off act = (act d).2.report page (act d).1 := by
  unfold Dev.guardedWrite
  unfold Dev.accessCheck at h
  split at h
  · simp at h
  · rename_i b inst hb
    simp only
    split at h
    · simp at h
    · rename_i ho
      simp only [if_neg ho, hm, Bool.and_false, Bool.false_and, Bool.false_eq_true, if_false]
      have hc : d.accessCheck r page off false = .ok := by
        unfold Dev.accessCheck
        simp only [hb, if_neg ho]
        exact h
      simp [hc]

/-- A refused write changes STATUS and nothing else. -/
theorem Dev.guardedWrite_refused (d : Dev) (r : Req) (page off : Nat) (act : Dev → Status × Dev) (b : Blk) (inst : Nat)
    (hb : pageBlock page = some (b, inst)) (ho : off % 4 = 0 ∧ off < 0x1000) (h : d.accessCheck r page off false ≠ .ok) :
    d.guardedWrite r page off act = d.report page (d.accessCheck r page off false) := by
  unfold Dev.guardedWrite
  simp only [hb]
  rw [if_neg (by omega), if_pos h]

/-- No job of the page runs, so that none can end by the write. -/
theorem Dev.jobNote_idle (d was : Dev) (page off : Nat) (h : was.lockJob page = false) : d.jobNote was page off = d := by
  simp [Dev.jobNote, h]

theorem Dev.pageWrite_ok (d : Dev) (r : Req) (page off v : Nat) (env : CmdEnv)
    (h : d.accessCheck r page off false = .ok) (hm : d.mismatched page (shadowOff off) = false) :
    d.pageWrite r page off v env =
      ((d.writeEffect r page off v env).2.report page (d.writeEffect r page off v env).1).jobNote d page off := by
  unfold Dev.pageWrite
  rw [Dev.guardedWrite_ok d r page off _ h hm]

theorem Dev.pageWrite_idle (d : Dev) (r : Req) (page off v : Nat) (env : CmdEnv) (hj : d.lockJob page = false)
    (h : d.accessCheck r page off false = .ok) (hm : d.mismatched page (shadowOff off) = false) :
    d.pageWrite r page off v env = (d.writeEffect r page off v env).2.report page (d.writeEffect r page off v env).1 := by
  rw [Dev.pageWrite_ok d r page off v env h hm, Dev.jobNote_idle _ _ _ _ hj]

theorem Dev.guardedRead_ok (d : Dev) (r : Req) (page off : Nat) (act : Dev → Status × Nat × Dev)
    (h : d.accessCheck r page off true = .ok) (hm : d.mismatched page (shadowOff off) = false) :
    d.guardedRead r page off act = (act d).2.2.answer (act d).1 (act d).2.1 := by
  unfold Dev.guardedRead
  unfold Dev.accessCheck at h
  split at h
  · simp at h
  · rename_i b inst hb
    simp only
    split at h
    · simp at h
    · rename_i ho
      simp only [if_neg ho, hm, Bool.and_false, Bool.false_and, Bool.false_eq_true, if_false]
      have hc : d.accessCheck r page off true = .ok := by
        unfold Dev.accessCheck
        simp only [hb, if_neg ho]
        exact h
      simp [hc]

/-! ### Engines -/

/-- A running engine with no cause to take issues. -/
theorem Dev.issue_ready (d : Dev) (e len : Nat) (f : Dev → Nat → Nat → Fx) (h : d.engRunning e = true) (ht : d.takeable e = none) :
    d.issue e len f = Dev.finish e (d.engOf e).pc (d.after e len) (f d (d.engOf e).pc (d.after e len)) := by
  simp [Dev.issue, Dev.boundary, h, ht]

theorem Dev.compute_ready (d : Dev) (e len : Nat) (f : Dev → Dev) (h : d.engRunning e = true) (ht : d.takeable e = none) :
    d.compute e len f = (f d).setPc e (d.after e len) := by
  simp [Dev.compute, Dev.issue_ready, h, ht, Dev.finish]

/-- An engine that does not run issues nothing. -/
theorem Dev.issue_idle (d : Dev) (e len : Nat) (f : Dev → Nat → Nat → Fx) (h : d.engRunning e = false) : d.issue e len f = d := by
  simp [Dev.issue, Dev.boundary, h]

@[simp] theorem Dev.engOf_setEng_same (d : Dev) (e : Nat) (x : Eng) : (d.setEng e x).engOf e = x := Tbl.get_set_same _ _ _ _

theorem Dev.engOf_setEng_ne (d : Dev) {e j : Nat} (h : j ≠ e) (x : Eng) : (d.setEng e x).engOf j = d.engOf j :=
  Tbl.get_set_ne _ h _ _ _

theorem Dev.engOf_setEng (d : Dev) (e j : Nat) (x : Eng) : (d.setEng e x).engOf j = if j = e then x else d.engOf j := by
  split
  · rename_i h; rw [h, Dev.engOf_setEng_same]
  · rename_i h; exact Dev.engOf_setEng_ne d h x

@[simp] theorem Dev.gr_zero (d : Dev) (e : Nat) : d.gr e 0 = 0 := rfl

theorem Dev.gr_setGr_same (d : Dev) (e r : Nat) (v : Word) (h : r ≠ 0) : (d.setGr e r v).gr e r = v := by
  simp [Dev.gr, Dev.setGr, h]

theorem Dev.gr_setGr_ne (d : Dev) (e r j : Nat) (v : Word) (h : j ≠ r) : (d.setGr e r v).gr e j = d.gr e j := by
  unfold Dev.setGr
  split
  · rfl
  · simp [Dev.gr, Tbl.get_set_ne _ h]

theorem Dev.setGr_zero (d : Dev) (e : Nat) (v : Word) : d.setGr e 0 v = d := rfl

theorem Dev.vr_setVr (d : Dev) (e v j : Nat) (x : BitVec 128) : (d.setVr e v x).vr e j = if j = v then x else d.vr e j := by
  simp [Dev.vr, Dev.setVr, Tbl.get_set]

theorem Dev.acc_setAcc (d : Dev) (e n j : Nat) (v : Int) :
    (d.setAcc e n v).acc e j = if j = n then (satInt 72 v).1 else d.acc e j := by
  simp [Dev.acc, Dev.setAcc, Tbl.get_set]

theorem Dev.gen_setGen (d : Dev) (e m j : Nat) (x : Gen) : (d.setGen e m x).gen e j = if j = m then x else d.gen e j := by
  simp [Dev.gen, Dev.setGen, Tbl.get_set]

theorem satInt_range (w : Nat) (v : Int) : -(2 ^ (w - 1) : Nat) ≤ (satInt w v).1 ∧ (satInt w v).1 ≤ (2 ^ (w - 1) : Nat) - 1 := by
  have h : (0 : Int) < (2 ^ (w - 1) : Nat) := Int.ofNat_lt.mpr (Nat.two_pow_pos _)
  unfold satInt
  generalize ((2 ^ (w - 1) : Nat) : Int) = N at h ⊢
  dsimp only
  split
  · dsimp only; omega
  · split
    · dsimp only; omega
    · dsimp only; omega

end Sys2Proof.Machine
end

