-- ==== Sys2Proof/Laws/Slh.lean ====
section
/-! SUPPORT. What the model's SLH-DSA signs, it verifies (FIPS 205): so every command that asks for a good signature can get one. -/

namespace Sys2Proof.Machine

/-! ### Lengths -/

@[simp] theorem onLanes_length (f : Nat → Nat → Lane) : (onLanes f).length = 25 := by simp [onLanes]

theorem keccakF_length (s : List Lane) : (keccakF s).length = 25 := by
  unfold keccakF
  rw [show List.range 24 = List.range 23 ++ [23] from rfl, List.foldl_append]
  simp only [List.foldl_cons, List.foldl_nil]
  generalize List.foldl _ s (List.range 23) = t
  have h : (kChi (kRhoPi (kTheta t))).length = 25 := by simp [kChi]
  split
  · next e => simp [e] at h
  · next e => simp [e] at h; simp [h]

theorem absorbAll_length (rate : Nat) (data : List Byte) : (absorbAll rate keccak0 data).length = 25 := by
  unfold absorbAll
  generalize chunks rate data = l
  suffices h : ∀ s : List Lane, s.length = 25 → (l.foldl (absorb rate) s).length = 25 from h _ (by simp [keccak0])
  induction l with
  | nil => exact fun s h => h
  | cons b l ih => exact fun s _ => ih _ (keccakF_length _)

@[simp] theorem leBytes_length (k n : Nat) : (leBytes n k).length = k := by
  induction k generalizing n with
  | zero => rfl
  | succ k ih => simp [leBytes, ih]

theorem laneBytes_length (s : List Lane) : (laneBytes s).length = 8 * s.length := by
  unfold laneBytes
  induction s with
  | nil => rfl
  | cons x s ih => simp [ih]; omega

theorem shake256_length (m : List Byte) (n : Nat) (h : n ≤ 136) (h' : 0 < n) : (shake256 m n).length = n := by
  have c : ceilDiv n 136 = 1 := by unfold ceilDiv; rw [if_neg (by decide)]; omega
  unfold shake256 sponge squeeze
  rw [c]
  generalize e : absorbAll 136 keccak0 (m ++ keccakPad 136 0x1F m.length) = s
  have hs : s.length = 25 := by rw [← e]; exact absorbAll_length _ _
  simp [List.range_succ, laneBytes_length, hs]
  omega

@[simp] theorem slhH_length (seed : List Byte) (a : Adrs) (m : List Byte) : (slhH seed a m).length = 32 :=
  shake256_length _ _ (by omega) (by omega)

/-! ### Pieces of 32 bytes -/

theorem flatten_length {l : List (List Byte)} (h : ∀ x ∈ l, x.length = 32) : l.flatten.length = 32 * l.length := by
  induction l with
  | nil => rfl
  | cons x l ih =>
    have := ih (fun y hy => h y (by simp [hy]))
    have := h x (by simp)
    rw [List.flatten_cons, List.length_append, List.length_cons]; omega

theorem slice_flatten {l : List (List Byte)} (h : ∀ x ∈ l, x.length = 32) (i : Nat) :
    slice l.flatten (i * 32) 32 = l.getD i [] := by
  induction l generalizing i with
  | nil => simp [slice]
  | cons x l ih =>
    have hx := h x (by simp)
    cases i with
    | zero => simp [slice, ← hx]
    | succ i =>
      have := ih (fun y hy => h y (by simp [hy])) i
      simp only [slice, List.flatten_cons] at this ⊢
      rw [show (i + 1) * 32 = x.length + i * 32 by omega, ← List.drop_drop, List.drop_left, this]
      simp

/-- Pieces of a concatenation of pieces. -/
theorem chunks_flatten {l : List (List Byte)} (h : ∀ x ∈ l, x.length = 32) : chunks 32 l.flatten = l := by
  have c : ceilDiv l.flatten.length 32 = l.length := by rw [flatten_length h]; unfold ceilDiv; rw [if_neg (by decide)]; omega
  unfold chunks
  rw [if_neg (by decide), c]
  apply List.ext_getElem (by simp)
  intro i h1 h2
  simp [slice_flatten h, h2]

/-! ### WOTS+ -/

theorem wotsChain_add (seed : List Byte) (a : Adrs) (x : List Byte) (i s t : Nat) :
    wotsChain seed a x i (s + t) = wotsChain seed a (wotsChain seed a x i s) (i + s) t := by
  induction s generalizing x i with
  | zero => simp [wotsChain]
  | succ s ih =>
    rw [show s + 1 + t = (s + t) + 1 by omega, wotsChain, wotsChain, ih, show i + 1 + s = i + (s + 1) by omega]

theorem wotsChain_length (seed : List Byte) (a : Adrs) (x : List Byte) (i s : Nat) (h : x.length = 32) :
    (wotsChain seed a x i s).length = 32 := by
  induction s generalizing x i with
  | zero => exact h
  | succ s ih => exact ih _ _ (slhH_length ..)

@[simp] theorem base2b_length (x : List Byte) (b n : Nat) : (base2b x b n).length = n := by simp [base2b]

@[simp] theorem wotsDigits_length (m : List Byte) : (wotsDigits m).length = 67 := by simp [wotsDigits]

theorem wotsDigits_le (m : List Byte) : ∀ n ∈ wotsDigits m, n ≤ 15 := by
  intro n h
  simp only [wotsDigits, base2b, List.mem_append, List.mem_map] at h
  obtain ⟨_, _, rfl⟩ | ⟨_, _, rfl⟩ := h <;> omega

/-- The chain ends that a signature leads to are those of the key. -/
theorem wotsFromSig_sign (seed sk : List Byte) (a : Adrs) (m : List Byte) :
    wotsFromSig seed a (wotsSign seed sk a m) m = wotsGen seed sk a := by
  have e : (wotsDigits m).mapIdx (fun i n =>
      wotsChain seed { a with typ := 0, w2 := i } ((wotsSign seed sk a m).getD i []) n (15 - n)) =
      (List.range 67).map (fun i => wotsChain seed { a with typ := 0, w2 := i } (wotsSecret seed sk a i) 0 15) := by
    refine List.ext_getElem (by rw [List.length_mapIdx, wotsDigits_length, List.length_map, List.length_range]) (fun i h1 h2 => ?_)
    have hi : i < (wotsDigits m).length := by rwa [List.length_mapIdx] at h1
    have hd := wotsDigits_le m _ (List.getElem_mem hi)
    have hg : (wotsSign seed sk a m).getD i [] =
        wotsChain seed { a with typ := 0, w2 := i } (wotsSecret seed sk a i) 0 (wotsDigits m)[i] := by
      unfold wotsSign
      rw [List.getD_eq_getElem?_getD, List.getElem?_eq_getElem (by rwa [List.length_mapIdx]), Option.getD_some, List.getElem_mapIdx]
    rw [List.getElem_mapIdx, List.getElem_map, List.getElem_range, hg]
    generalize (wotsDigits m)[i] = n at hd
    have := wotsChain_add seed { a with typ := 0, w2 := i } (wotsSecret seed sk a i) 0 n (15 - n)
    rw [Nat.zero_add] at this
    rw [← this, Nat.add_sub_cancel' hd]
  unfold wotsFromSig wotsGen
  rw [e]

@[simp] theorem wotsSign_length (seed sk : List Byte) (a : Adrs) (m : List Byte) : (wotsSign seed sk a m).length = 67 := by
  simp [wotsSign]

theorem wotsSign_pieces (seed sk : List Byte) (a : Adrs) (m : List Byte) : ∀ x ∈ wotsSign seed sk a m, x.length = 32 := by
  intro x h
  obtain ⟨i, hi, rfl⟩ := List.mem_iff_getElem.mp h
  simp only [wotsSign, List.getElem_mapIdx]
  exact wotsChain_length _ _ _ _ _ (slhH_length ..)

/-! ### Authentication paths -/

@[simp] theorem xmssNode_length (seed sk : List Byte) (a : Adrs) (i z : Nat) : (xmssNode seed sk a i z).length = 32 := by
  cases z <;> simp [xmssNode, wotsGen, wotsPk]

@[simp] theorem forsNode_length (seed sk : List Byte) (a : Adrs) (i z : Nat) : (forsNode seed sk a i z).length = 32 := by
  cases z <;> simp [forsNode]

theorem xor_one (i : Nat) : i ^^^ 1 = if i % 2 = 0 then i + 1 else i - 1 := by
  refine Nat.eq_of_testBit_eq (fun j => ?_)
  rw [Nat.testBit_xor]
  cases j with
  | zero =>
    split <;> rename_i h <;> simp only [Nat.testBit_zero]
    · rw [h, show (i + 1) % 2 = 1 by omega]; rfl
    · rw [show i % 2 = 1 by omega, show (i - 1) % 2 = 0 by omega]; rfl
  | succ j =>
    rw [Nat.testBit_succ, Nat.testBit_succ 1]
    split
    · rw [Nat.testBit_succ, show (i + 1) / 2 = i / 2 by omega]; simp
    · rw [Nat.testBit_succ, show (i - 1) / 2 = i / 2 by omega]; simp

/-- A path of siblings leads from a node to its ancestor. -/
theorem pathUp_siblings (seed sk : List Byte) (a : Adrs) (n i z : Nat) :
    pathUp seed { a with typ := 2, w1 := 0 } ((List.range n).map (fun j => xmssNode seed sk a ((i / 2 ^ j) ^^^ 1) (z + j))) i z i
      (xmssNode seed sk a i z) = xmssNode seed sk a (i / 2 ^ n) (z + n) := by
  induction n generalizing i z with
  | zero => simp [pathUp]
  | succ n ih =>
    rw [List.range_succ_eq_map, List.map_cons, List.map_map, pathUp]
    have e : (List.range n).map ((fun j => xmssNode seed sk a ((i / 2 ^ j) ^^^ 1) (z + j)) ∘ Nat.succ) =
        (List.range n).map (fun j => xmssNode seed sk a ((i / 2 / 2 ^ j) ^^^ 1) (z + 1 + j)) := by
      apply List.map_congr_left
      intro j _
      simp only [Function.comp, Nat.succ_eq_add_one, Nat.pow_succ']
      rw [Nat.div_div_eq_div_mul, show z + (j + 1) = z + 1 + j by omega]
    have up : (slhH seed { a with typ := 2, w1 := 0, w2 := z + 1, w3 := i / 2 }
        (if i % 2 = 0 then xmssNode seed sk a i z ++ xmssNode seed sk a ((i / 2 ^ 0) ^^^ 1) (z + 0)
          else xmssNode seed sk a ((i / 2 ^ 0) ^^^ 1) (z + 0) ++ xmssNode seed sk a i z)) = xmssNode seed sk a (i / 2) (z + 1) := by
      simp only [xmssNode, Nat.pow_zero, Nat.div_one, Nat.add_zero, xor_one]
      by_cases h : i % 2 = 0
      · rw [if_pos h, if_pos h, show 2 * (i / 2) = i by omega]
      · rw [if_neg h, if_neg h, show 2 * (i / 2) = i - 1 by omega, show i - 1 + 1 = i by omega]
    rw [e, up, ih, Nat.pow_succ', Nat.div_div_eq_div_mul, show z + 1 + n = z + (n + 1) by omega]

theorem xmssSign_length (seed sk : List Byte) (a : Adrs) (hp idx : Nat) (m : List Byte) :
    (xmssSign seed sk a hp idx m).length = 67 + hp := by simp [xmssSign]

theorem xmssSign_pieces (seed sk : List Byte) (a : Adrs) (hp idx : Nat) (m : List Byte) :
    ∀ x ∈ xmssSign seed sk a hp idx m, x.length = 32 := by
  intro x h
  simp only [xmssSign, List.mem_append, List.mem_map] at h
  obtain h | ⟨_, _, rfl⟩ := h
  · exact wotsSign_pieces _ _ _ _ _ h
  · simp

/-- An XMSS signature leads to the root of its tree. -/
theorem xmssFromSig_sign (seed sk : List Byte) (a : Adrs) (hp idx : Nat) (m : List Byte) (h : idx < 2 ^ hp) :
    xmssFromSig seed a idx (xmssSign seed sk a hp idx m) m = xmssNode seed sk a 0 hp := by
  unfold xmssFromSig xmssSign
  rw [List.take_left' (by simp), List.drop_left' (by simp), wotsFromSig_sign]
  have := pathUp_siblings seed sk a hp idx 0
  simp only [Nat.zero_add, Nat.div_eq_of_lt h] at this
  exact this

/-! ### The hypertree -/

theorem htSign_length (seed sk : List Byte) (hp n j tree leaf : Nat) (m : List Byte) :
    (htSign seed sk hp n j tree leaf m).length = n * (67 + hp) := by
  induction n generalizing j tree leaf m with
  | zero => simp [htSign]
  | succ n ih => simp [htSign, ih, xmssSign_length, Nat.succ_mul]; omega

theorem htSign_pieces (seed sk : List Byte) (hp n j tree leaf : Nat) (m : List Byte) :
    ∀ x ∈ htSign seed sk hp n j tree leaf m, x.length = 32 := by
  induction n generalizing j tree leaf m with
  | zero => simp [htSign]
  | succ n ih =>
    intro x h
    simp only [htSign, List.mem_append] at h
    obtain h | h := h
    · exact xmssSign_pieces _ _ _ _ _ _ _ h
    · exact ih _ _ _ _ _ h

/-- The root reached is that of the top tree that the tree index names. -/
theorem htRoot_sign (seed sk : List Byte) (hp n j tree leaf : Nat) (m : List Byte) (h : leaf < 2 ^ hp) :
    htRoot seed hp (n + 1) j tree leaf (htSign seed sk hp (n + 1) j tree leaf m) m =
      xmssNode seed sk { layer := j + n, tree := tree / 2 ^ (hp * n) } 0 hp := by
  induction n generalizing j tree leaf m with
  | zero =>
    simp only [htRoot, htSign, List.append_nil, Nat.mul_zero, Nat.pow_zero, Nat.div_one, Nat.add_zero]
    rw [List.take_of_length_le (Nat.le_of_eq (xmssSign_length ..)), xmssFromSig_sign _ _ _ _ _ _ h]
  | succ n ih =>
    rw [htRoot, htSign]
    rw [List.take_left' (xmssSign_length ..), List.drop_left' (xmssSign_length ..), ih _ _ _ _ (Nat.mod_lt _ (Nat.two_pow_pos hp)),
      Nat.div_div_eq_div_mul, ← Nat.pow_add, show j + 1 + n = j + (n + 1) by omega, show hp + hp * n = hp * (n + 1) by rw [Nat.mul_succ]; omega]

/-! ### Signatures -/

theorem forsSign_pieces (p : SlhPar) (seed sk : List Byte) (a : Adrs) (md : List Byte) :
    ∀ x ∈ forsSign p seed sk a md, x.length = 32 := by
  intro x h
  simp only [forsSign, List.mem_flatten] at h
  obtain ⟨l, hl, hx⟩ := h
  obtain ⟨i, hi, rfl⟩ := List.mem_iff_getElem.mp hl
  simp only [List.getElem_mapIdx, List.mem_cons, List.mem_map] at hx
  obtain rfl | ⟨_, _, rfl⟩ := hx <;> simp [forsSecret]

theorem pieces_sum (n : Nat) (l : List (List (List Byte))) (h : ∀ x ∈ l, x.length = n) : (l.map List.length).sum = l.length * n := by
  induction l with
  | nil => simp
  | cons x l ih =>
    rw [List.map_cons, List.sum_cons, ih (fun y hy => h y (List.mem_cons_of_mem _ hy)), h x List.mem_cons_self, List.length_cons,
      Nat.succ_mul, Nat.add_comm]

theorem forsSign_length (p : SlhPar) (seed sk : List Byte) (a : Adrs) (md : List Byte) :
    (forsSign p seed sk a md).length = p.k * (p.a + 1) := by
  unfold forsSign
  rw [List.length_flatten, pieces_sum (p.a + 1), List.length_mapIdx, base2b_length]
  intro x hx
  obtain ⟨i, hi, rfl⟩ := List.mem_iff_getElem.mp hx
  rw [List.getElem_mapIdx, List.length_cons, List.length_map, List.length_range]

theorem slice_past (x y : List Byte) (i n : Nat) (h : x.length = 32) : slice (x ++ y) (32 + i) n = slice y i n := by
  unfold slice
  rw [← h, ← List.drop_drop, List.drop_left]

theorem slice_front (x y : List Byte) (h : x.length = 32) : slice (x ++ y) 0 32 = x := by
  unfold slice
  rw [List.drop_zero, List.take_left' h]

/-- A signature of the model verifies under its key. -/
theorem slhVerify_sign (p : SlhPar) (hh : p.h = p.d * p.hp) (hd : 0 < p.d) (skSeed prf pkSeed ctx m : List Byte)
    (rnd : Option (List Byte)) (h1 : skSeed.length = 32) (h2 : prf.length = 32) (h3 : pkSeed.length = 32) :
    slhVerify p (pkSeed ++ slhRoot p skSeed pkSeed) ctx m
      (slhSign p (skSeed ++ prf ++ pkSeed ++ slhRoot p skSeed pkSeed) ctx m rnd) = true := by
  have hr : (slhRoot p skSeed pkSeed).length = 32 := xmssNode_length ..
  generalize hroot : slhRoot p skSeed pkSeed = root at hr ⊢
  have e1 : (skSeed ++ prf ++ pkSeed ++ root).take 32 = skSeed := by
    rw [List.append_assoc, List.append_assoc, List.take_left' h1]
  have e2 : slice (skSeed ++ prf ++ pkSeed ++ root) 32 32 = prf := by
    rw [List.append_assoc, List.append_assoc, show 32 = 32 + 0 from rfl, slice_past _ _ _ _ h1, slice_front _ _ h2]
  have e3 : slice (skSeed ++ prf ++ pkSeed ++ root) 64 32 = pkSeed := by
    rw [List.append_assoc, List.append_assoc, show 64 = 32 + (32 + 0) from rfl, slice_past _ _ _ _ h1, slice_past _ _ _ _ h2,
      slice_front _ _ h3]
  have e4 : slice (skSeed ++ prf ++ pkSeed ++ root) 96 32 = root := by
    rw [List.append_assoc, List.append_assoc, show 96 = 32 + (32 + (32 + 0)) from rfl, slice_past _ _ _ _ h1,
      slice_past _ _ _ _ h2, slice_past _ _ _ _ h3]
    simp [slice, List.take_of_length_le, hr]
  have e5 : (pkSeed ++ root).take 32 = pkSeed := List.take_left' h3
  have e6 : slice (pkSeed ++ root) 32 32 = root := by
    rw [show (32 : Nat) = 32 + 0 from rfl, slice_past _ _ _ _ h3]
    simp [slice, List.take_of_length_le, hr]
  unfold slhVerify slhSign slhSignTwo
  simp only [e1, e2, e3, e4, e5, e6]
  generalize hR : shake256 (prf ++ rnd.getD pkSeed ++ slhMessage ctx m) 32 = r
  have hrl : r.length = 32 := by rw [← hR]; exact shake256_length _ _ (by omega) (by omega)
  generalize hs : p.split r pkSeed root (slhMessage ctx m) = sp
  obtain ⟨md, tree, leaf⟩ := sp
  simp only
  have htree : tree < 2 ^ (p.h - p.hp) := by
    have := congrArg (fun x => x.2.1) hs
    simp only [SlhPar.split] at this
    rw [← this]; exact Nat.mod_lt _ (Nat.two_pow_pos _)
  have hleaf : leaf < 2 ^ p.hp := by
    have := congrArg (fun x => x.2.2) hs
    simp only [SlhPar.split] at this
    rw [← this]; exact Nat.mod_lt _ (Nat.two_pow_pos _)
  generalize hfs : forsSign p pkSeed skSeed { tree := tree, typ := 3, w1 := leaf } md = fs
  have hfl : fs.length = p.k * (p.a + 1) := by rw [← hfs]; exact forsSign_length ..
  have hfp : ∀ x ∈ fs, x.length = 32 := by rw [← hfs]; exact forsSign_pieces _ _ _ _ _
  generalize hpk : forsFromSig p pkSeed { tree := tree, typ := 3, w1 := leaf } fs md = pk
  have hpieces : ∀ x ∈ r :: fs ++ htSign pkSeed skSeed p.hp p.d 0 tree leaf pk, x.length = 32 := by
    intro x hx
    simp only [List.cons_append, List.mem_cons, List.mem_append] at hx
    obtain rfl | hx | hx := hx
    · exact hrl
    · exact hfp _ hx
    · exact htSign_pieces _ _ _ _ _ _ _ _ _ hx
  rw [chunks_flatten hpieces]
  have hp1 : p.h - p.hp = p.hp * (p.d - 1) := by rw [hh, Nat.mul_sub, Nat.mul_one, Nat.mul_comm]
  have hroots := htRoot_sign pkSeed skSeed p.hp (p.d - 1) 0 tree leaf pk hleaf
  rw [Nat.sub_add_cancel hd, ← hp1, Nat.div_eq_of_lt htree, Nat.zero_add] at hroots
  have hl : (r :: fs ++ htSign pkSeed skSeed p.hp p.d 0 tree leaf pk).flatten.length = p.sigLen := by
    rw [flatten_length hpieces, List.cons_append, List.length_cons, List.length_append, hfl, htSign_length, SlhPar.sigLen, hh,
      Nat.mul_add p.d]
    omega
  have hdrop : (r :: fs ++ htSign pkSeed skSeed p.hp p.d 0 tree leaf pk).drop (1 + p.k * (p.a + 1)) =
      htSign pkSeed skSeed p.hp p.d 0 tree leaf pk := List.drop_left' (by rw [List.length_cons, hfl, Nat.add_comm])
  have htake : ((r :: fs ++ htSign pkSeed skSeed p.hp p.d 0 tree leaf pk).drop 1).take (p.k * (p.a + 1)) = fs := by
    rw [List.cons_append, List.drop_one, List.tail_cons, List.take_left' hfl]
  rw [hdrop, htake, hl]
  simp only [List.cons_append, List.headD_cons, hs]
  rw [hpk, hroots, ← hroot]
  simp [slhRoot]

end Sys2Proof.Machine
end

