-- ==== Sys2Proof/Tests/Slice0.lean ====
section
/-! SUPPORT. Tests of the model: ill-formed commands that the check refuses, small runs of one command, and a witness for every
statement with hypotheses: states and operands that meet them together. -/

namespace Sys2Proof.Tests

open Sys2Proof Sys2Proof.Machine

set_option maxRecDepth 100000
set_option Elab.async false

/-! ### Well-formedness: each check refuses a term -/

theorem test_wf_short_destination : (Instr.add 0 true 1 2 3).wf = false := by decide
theorem test_wf_short_addi : (Instr.addi 0 true 1 1 64).wf = false := by decide
theorem test_wf_short_cmpi : (Instr.cmpi 0 true 1 64).wf = false := by decide
theorem test_wf_short_callr : (Instr.callr 0 true 29 1 0).wf = false := by decide
theorem test_wf_short_branch : (Instr.bCond 0 true 0 128).wf = false := by decide
theorem test_wf_short_ldw_base : (Instr.ldw 0 true 1 30 4 ⟨false, 0, [], []⟩).wf = false := by decide
theorem test_wf_short_stw_offset : (Instr.stw 0 true 1 31 6 ⟨false, 0, [], []⟩).wf = false := by decide
theorem test_wf_short_generator_load : (Instr.agLoad 0 true 1 1 0 false ⟨false, 0, [], []⟩).wf = false := by decide
theorem test_wf_short_generator_store : (Instr.agStore 0 true 1 1 0 false ⟨false, 0, [], []⟩).wf = false := by decide
theorem test_wf_vector_shift : (Instr.vsll 0 1 2 true 16).wf = false := by decide
theorem test_wf_complex_shift : (Instr.vcmul 0 1 2 3 17).wf = false := by decide
theorem test_wf_insert_index : (Instr.vins 0 1 4 2 false).wf = false := by decide
theorem test_wf_extract_index : (Instr.vext 0 1 2 4 false).wf = false := by decide
theorem test_wf_half_word : (Instr.illegalInstruction 0 4 true).wf = false := by decide
theorem test_wf_irig_seconds : (Instr.irigFrame ⟨false, 0, true, 256, 0, 0, 1, 24⟩ 0).wf = false := by decide
theorem test_wf_host_length : (Instr.hstInboundRequest 0 0 0 none 4097 ⟨false, 0, [], []⟩).wf = false := by decide
theorem test_wf_sample_words : (Instr.cnvSample 0 0 [1, 2, 3]).wf = false := by decide
theorem test_wf_training_lanes : (Instr.cnvTrainComplete []).wf = false := by decide
theorem test_wf_commit_fails : (Instr.evrFlashCommit 16).wf = false := by decide
theorem test_wf_island_bits : (Instr.islandTypeAFrame [0x26] 9).wf = false := by decide
theorem test_wf_accepts : (Instr.add 0 true 2 2 3).wf = true := by decide

/-! ### States -/

/-- A state with a register field written. -/
def fld (s : State) (f : Fld) (v : Nat) (k p : Nat := 0) : State := { s with dev := s.dev.wr f v k p }
/-- A state with its device changed. -/
def upd (s : State) (f : Dev → Dev) : State := { s with dev := f s.dev }
/-- The device after a command. -/
def after (c : Instr) (s : State) : Dev := match exec c s with | .next t => t.dev | _ => s.dev

def tickEnv0 : TickEnv := ⟨[], 0, 0, 0, 0, 0, 0, 0, 0, 0, []⟩
def meta0 : FrameMeta := ⟨none, none, none, some 0, some 0, some 0, 0, false, 0, 0, 0, none, []⟩
def link0 : LinkEnv := ⟨15, true, true, true, false, false, false, 31, 0⟩
def frame0 : List Byte := List.replicate 60 1 ++ leBytes (crc32eth (List.replicate 60 1)) 4
def rx0 : RxFrame := ⟨frame0, 0, true, 0, 0, 0, meta0⟩
def handed0 : Handed := ⟨0, 0, 0, false, List.replicate 60 1, [], none, meta0⟩
def s0 : State := { State.reset with dev := { State.reset.dev with initTill := 0, vaultTill := 0 } }
/-- Values of g1 to g15, of v0 to v7, and engines that hold them. -/
def gens : List Word := [5, 0x80000000, 0xFFFFFFFF, 0x7FFFFFFF, 1, 0x12345678, 0xFFFF8000, 0x00007FFF, 0xDEADBEEF, 0x00000040, 33, 0x80000001, 2, 0xC0000000, 0x0000FFFF]
def vecs : List (BitVec 128) := [0x80007FFF0001FFFF123456789ABCDEF0, 0x7FFFFFFF80000000FFFFFFFF00000001, 0x00010002000300040005000600070008, 0xFFFF8000FFFF80008000800080008000, 0x7FFF7FFF7FFF7FFF7FFF7FFF7FFF7FFF, 0x01020304F5F6F7F88090A0B0C0D0E0F0, 0, 0x80000000800000008000000080000000]
def eng0 : Eng := { g := (List.range 15).map (fun i => (i + 1, gens.getD i 0)), v := (List.range 8).map (fun i => (i, vecs.getD i 0)), a := [(0, 5), (1, -7), (2, 2 ^ 63 - 9), (3, -2 ^ 63 + 3)], m := [(0, ⟨0x1000, 64, 8, 16, 0⟩), (1, ⟨0x2000, 64, 8, 56, 1⟩), (2, ⟨0x3000, 8, 4, 5, 2⟩)], fl := 3, pc := 0x100, super := true, evb := 0x40 }
def eng (x : Eng) (e : Nat := 0) : State := fld (upd s0 (fun d => d.setEng e x)) ENG_STATE_state 1 0 e
def irig0 : IrigFrame := ⟨false, 0, true, 0, 0, 0, 1, 24⟩

/-! ### One command: expected values by hand from the spec -/

/-- R224, R241: 5 + 0xFFFFFFFF = 4 with C and no V (R247's 32-bit form). -/
theorem test_add_carries : ((after (.add 95 false 9 1 3) (eng eng0 95)).gr 95 9, (after (.add 95 false 9 1 3) (eng eng0 95)).flags 95) =
    (4, 2) := by decide +kernel
/-- R224: 5 - 0xFFFFFFFF borrows: C is 0. -/
theorem test_sub_borrows : ((after (.sub 95 false 9 1 3) (eng eng0 95)).gr 95 9, ((after (.sub 95 false 9 1 3) (eng eng0 95)).flags 95).c) =
    (6, false) := by decide +kernel
/-- R224, R241: 0x7FFFFFFF + 5 saturates and sets Q. -/
theorem test_adds_saturates : ((after (.adds 95 9 4 1) (eng eng0 95)).gr 95 9, ((after (.adds 95 9 4 1) (eng eng0 95)).flags 95).q) =
    (0x7FFFFFFF, true) := by decide +kernel
/-- R241: a shift right arithmetic by 33 gives the sign. -/
theorem test_sra_by_33 : (after (.sra 95 false 9 2 11) (eng eng0 95)).gr 95 9 = 0xFFFFFFFF := by decide +kernel
/-- R241: a shift left by 33 gives 0. -/
theorem test_sll_by_33 : (after (.sll 95 false 9 1 11) (eng eng0 95)).gr 95 9 = 0 := by decide +kernel
/-- R242: the high word of -1 times -1 is 0. -/
theorem test_mulh_of_negatives : (after (.mulh 95 9 3 3) (eng eng0 95)).gr 95 9 = 0 := by decide +kernel
/-- R221: a write of g0 is discarded. -/
theorem test_g0_discards : (after (.add 95 false 0 1 1) (eng eng0 95)).gr 95 0 = 0 := by decide +kernel
/-- R257: EPC of a trap is the instruction after it; R258: the handler stands at EVB. -/
theorem test_trap_epc : (let x := (after (.trap 95 5) (eng eng0 95)).engOf 95; (x.epc, x.pc, x.ecause, x.earg)) = (0x104, 0x40, 7, 5) := by
  decide +kernel
/-- R26: the Refuge's claim of a free block is read back as its ID. -/
theorem test_claim : (after (.lockClaim .refuge 0x070 []) State.reset).rd LOCK_owner 0 0x070 = 0x0E := by decide +kernel
/-- R25: with the pointer at 13 the Refuge, whose ID is 14, comes before HST, whose ID is 12. -/
theorem test_rivals : (after (.lockClaim .refuge 0x070 [.hst]) { State.reset with rr := 13 }).rd LOCK_owner 0 0x070 = 0x0E := by decide +kernel
/-- R226: bit-reversed order over a length of 8 with elements of 1: 0, 4, 2, 6, 1. -/
theorem test_bit_reversed :
    (let g0 : Gen := ⟨0, 8, 1, 0, 2⟩
     let g1 := g0.next; let g2 := g1.next; let g3 := g2.next; let g4 := g3.next
     [g1.idx, g2.idx, g3.idx, g4.idx]) = [4, 2, 6, 1] := by decide +kernel
/-- IEEE 802.3: the check value of the CRC over the digits 1 to 9. -/
theorem test_crc32 : crc32eth [0x31, 0x32, 0x33, 0x34, 0x35, 0x36, 0x37, 0x38, 0x39] = 0xCBF43926 := by decide +kernel
/-- FIPS 180-4: SHA-256 of "abc" begins BA 78. -/
theorem test_sha256 : (sha256 [0x61, 0x62, 0x63]).take 2 = [0xBA, 0x78] := by decide +kernel
/-- FIPS 202: SHA3-256 of the empty string begins A7 FF. -/
theorem test_sha3_256 : (sha3_256 []).take 2 = [0xA7, 0xFF] := by decide +kernel
/-- R516: a power loss ends every other command but a power-on reset: an unpowered device does nothing. -/
theorem test_unpowered : exec .warmReset (upd State.reset (fun d => { d with sys := { d.sys with powered := false } })) =
    .next (upd State.reset (fun d => { d with sys := { d.sys with powered := false } })) := rfl

/-! ### Witnesses

`witness_<Statement>_<i>` shows a state and operands that meet the hypotheses of clause i of the statement, its conjuncts counted from 0.
One theorem serves every clause that has the same hypotheses; the line above it names them. -/

theorem some_getD {α : Type} {x : Option α} (h : x.isSome = true) (y : α) : x = some (x.getD y) := by
  cases x with
  | some _ => rfl
  | none => cases h

theorem witness_TimeEventsComplete_0 :
    let s : State := (fld (fld (fld s0 ORBn_STATE_state 3 1 0) ORBn_CFG_coast_cycles 5 1 0) ORBn_STATE_coasted 5 1 0)
    let n : Fin 4 := 1
    s.on ∧ s.dev.rd ORBn_STATE_state n = 3 ∧ s.dev.rd ORBn_CFG_coast_cycles n ≤ s.dev.rd ORBn_STATE_coasted n := by decide +kernel

theorem witness_TimeEventsComplete_1 :
    let s : State := s0
    let rising : Bool := true
    s.on ∧ rising ≠ s.dev.flag TIM_CFG_pps_in_pol ∧ s.dev.tim.ppsLast = none ∧ s.dev.qualified 2 = false := by decide +kernel

theorem witness_TimeEventsComplete_3 :
    let s : State := (upd (fld (fld (fld s0 TIM_STATE_qualified 2 0 0) TIM_STATE_state 2 0 0) TIM_STATE_active_src 2 0 0) (fun d => { d with cclk := 880000000, tim := { d.tim with ppsLast := some 5 } }))
    let l : Nat := 5
    s.on ∧ s.dev.tim.ppsLast = some l ∧ s.dev.tim.ppsLastCclk + 880000000 ≤ s.dev.nextCclk ∧ s.dev.qualified 2 = true := by
  exact ⟨by decide +kernel, by decide +kernel, Nat.le_trans (by decide +kernel) (Nat.le_add_right _ _), by decide +kernel⟩

theorem witness_TimeEventsComplete_4 :
    let s : State := (upd (fld (fld s0 TIM_IRIG_CFG_en 1 0 0) TIM_IRIG_CFG_year 2026 0 0) (fun d => { d with tim := { d.tim with irigLast := some ((((fld (fld s0 TIM_IRIG_CFG_en 1 0 0) TIM_IRIG_CFG_year 2026 0 0).dev.irigSecond irig0).getD 0 - 1).toNat), irigGood := 1 } }))
    let f : IrigFrame := irig0
    let l : Nat := (((fld (fld s0 TIM_IRIG_CFG_en 1 0 0) TIM_IRIG_CFG_year 2026 0 0).dev.irigSecond irig0).getD 0 - 1).toNat
    s.on ∧ s.dev.flag TIM_IRIG_CFG_en = true ∧ f.amplitude = s.dev.flag TIM_IRIG_CFG_format ∧ f.markersOk = true ∧
      s.dev.tim.irigLast = some l ∧ s.dev.irigSecond f = some ((l : Int) + 1) ∧ 1 ≤ s.dev.tim.irigGood := by decide +kernel

theorem witness_TimeEventsComplete_5 :
    let s : State := (fld s0 TIM_IRIG_CFG_en 1 0 0)
    let f : IrigFrame := { irig0 with markersOk := false }
    s.on ∧ s.dev.flag TIM_IRIG_CFG_en = true ∧ f.amplitude = s.dev.flag TIM_IRIG_CFG_format ∧ f.markersOk = false ∧
      s.dev.tim.irigBad = 0 := by decide +kernel

theorem witness_TimeEventsComplete_6 :
    let s : State := (upd (fld s0 TIM_STATE_qualified 4 0 0) (fun d => { d with cclk := 2000000000 }))
    s.on ∧ s.dev.tim.irigLastCclk + 2000000000 ≤ s.dev.nextCclk := by
  exact ⟨by decide +kernel, Nat.le_trans (by decide +kernel) (Nat.le_add_right _ _)⟩

theorem witness_TimeEventsComplete_7 :
    let s : State := (fld s0 TIM_STATE_ext10_active 1 0 0)
    s.on ∧ s.dev.flag TIM_STATE_ext10_active = true ∧ s.dev.rd TIM_STATE_state ≠ 3 ∧ s.dev.rd TIM_STATE_state ≠ 4 := by
  decide +kernel

theorem witness_TimeEventsComplete_8 :
    let s : State := (fld s0 TIM_CFG_ext10_en 1 0 0)
    s.on ∧ s.dev.flag TIM_CFG_ext10_en = true := by decide +kernel

theorem witness_TimeEventsComplete_9 :
    let s : State := (upd (fld s0 TIM_SERVO_locked 1 0 0) (fun d => { d with cclk := 3 * cclkPerS }))
    s.on ∧ (s.dev.flag TIM_SERVO_ptp_qual || s.dev.flag TIM_SERVO_locked) = true ∧
      s.dev.tim.servoAt + 3 * cclkPerS ≤ s.dev.nextCclk := by
  exact ⟨by decide +kernel, by decide +kernel, Nat.le_trans (by decide +kernel) (Nat.le_add_right _ _)⟩

-- TimeEventsComplete 10; PageControlCompletes 10; PageAccessCompletes 4, 6; MemoryAndDumpComplete 7; ResetsAndStartComplete 1; RefugeCommandsComplete 12, 13, 15; GuardAndDebugComplete 16, 17, 26 to 28
theorem witness_TimeEventsComplete_10 :
    let s : State := s0
    s.on := by decide +kernel

theorem witness_TimeEventsComplete_11 :
    let s : State := (upd (fld (fld s0 TIM_STATE_state 3 0 0) TIM_CFG_hold_limit 1 0 0) (fun d => { d with cclk := cclkPerS }))
    s.on ∧ s.dev.rd TIM_STATE_state = 3 ∧ s.dev.rd TIM_CFG_hold_limit ≠ 0 ∧
      s.dev.tim.holdSince + s.dev.rd TIM_CFG_hold_limit * cclkPerS ≤ s.dev.cclk := by decide +kernel

theorem witness_TimeEventsComplete_12 :
    let s : State := s0
    s.on ∧ (s.dev.ropeMember && s.dev.following) = false := by decide +kernel

theorem witness_TimeEventsComplete_13 :
    let s : State := (fld (fld (fld s0 ROP_CFG_en 1 0 0) SYS_STRAP_rope_pos 1 0 0) ROP_STAT_following 1 0 0)
    s.on ∧ (s.dev.ropeMember && s.dev.following) = true := by decide +kernel

theorem witness_SourceSelection_0 :
    let d : Dev := (fld (fld (fld (fld (fld s0 TIM_STATE_active_src 2 0 0) TIM_STATE_state 2 0 0) TIM_STATE_ever_locked 1 0 0) TIM_SERVO_locked 1 0 0) TIM_STATE_qualified 3 0 0).dev
    d.follower = false ∧ d.rd TIM_STATE_active_src ≠ 0 ∧ d.qualified (d.rd TIM_STATE_active_src) = true ∧
      d.srcOrder.contains (d.rd TIM_STATE_active_src) = true ∧ d.tim.revert = false := by decide +kernel

theorem witness_SourceSelection_1 :
    let d : Dev := (upd (fld (fld (fld (fld (fld (fld (fld (fld s0 TIM_STATE_active_src 2 0 0) TIM_STATE_state 2 0 0) TIM_STATE_ever_locked 1 0 0) TIM_SERVO_locked 1 0 0) TIM_STATE_qualified 3 0 0) TIM_CFG_revert_s 1 0 0) TIM_SRC_PRIO_slot0 1 0 0) TIM_SRC_PRIO_slot1 2 0 0) (fun d => { d with cclk := cclkPerS - 1, tim := { d.tim with revert := true } })).dev
    let c : Nat := 1
    d.follower = false ∧ d.rd TIM_STATE_active_src ≠ 0 ∧ d.qualified (d.rd TIM_STATE_active_src) = true ∧
      d.srcOrder.contains (d.rd TIM_STATE_active_src) = true ∧ d.tim.revert = true ∧ d.rd TIM_CFG_revert_s ≠ 0 ∧
      (d.srcOrder.takeWhile (· != d.rd TIM_STATE_active_src)).find? (fun c => d.qualified c && decide (d.tim.qualSince.get c 0 + d.rd TIM_CFG_revert_s * cclkPerS ≤ d.cclk + 1)) = some c := by
  decide +kernel

theorem witness_SourceSelection_2 :
    let d : Dev := (fld (fld (fld (fld (fld s0 TIM_STATE_active_src 2 0 0) TIM_STATE_state 2 0 0) TIM_STATE_ever_locked 1 0 0) TIM_SERVO_locked 1 0 0) TIM_STATE_qualified 4 0 0).dev
    d.follower = false ∧ ((d.rd TIM_STATE_active_src = 0 ∨ d.qualified (d.rd TIM_STATE_active_src) = false)) := by decide +kernel

theorem witness_SourceSelection_3 :
    let d : Dev := (fld (fld (fld (fld s0 TIM_STATE_active_src 2 0 0) TIM_STATE_state 2 0 0) TIM_STATE_ever_locked 1 0 0) TIM_SERVO_locked 1 0 0).dev
    d.follower = false ∧ d.qualified (d.rd TIM_STATE_active_src) = false ∧ d.bestSource = 0 ∧ d.rd TIM_STATE_state = 2 := by
  decide +kernel

theorem witness_TimeWritesComplete_0 :
    let s : State := s0
    let r : Req := .refuge
    s.accepts r pgTIM 0x04C := by decide +kernel

theorem witness_TimeWritesComplete_1 :
    let s : State := s0
    let r : Req := .refuge
    s.accepts r pgTIM 0x05C := by decide +kernel

theorem witness_TimeWritesComplete_2 :
    let s : State := s0
    let r : Req := .refuge
    let v : Word := 7
    s.accepts r pgTIM 0x060 ∧ s.dev.follower = false ∧ 0 < v.toInt := by decide +kernel

theorem witness_TimeWritesComplete_3 :
    let s : State := s0
    let r : Req := .refuge
    s.accepts r pgTIM 0x068 ∧ s.dev.follower = false ∧ s.dev.flag TIM_STATE_ever_locked = false := by decide +kernel

theorem witness_TimeWritesComplete_4 :
    let s : State := s0
    let r : Req := .refuge
    s.accepts r pgTIM 0x088 := by decide +kernel

theorem witness_TimeWritesComplete_5 :
    let s : State := s0
    let r : Req := .refuge
    let n : Fin 4 := 2
    let v : Word := 0
    s.accepts r pgORB (0x044 + 0x40 * n) ∧ s.dev.flag ORBn_CFG_run n = false ∧ s.dev.rd ORBn_SRC_kind n ≠ 3 ∧
      bitsOf v.toNat 5 4 ≠ 3 := by decide +kernel

theorem witness_TimeWritesComplete_6 :
    let s : State := (fld s0 ORBn_CFG_run 1 3 0)
    let r : Req := .refuge
    let n : Fin 4 := 3
    let v : Word := 0
    s.accepts r pgORB (0x044 + 0x40 * n) ∧ s.dev.flag ORBn_CFG_run n = true ∧ bitOf v.toNat 1 = s.dev.flag ORBn_CFG_nominal n ∧
      bitsOf v.toNat 5 4 ≠ 3 ∧ (s.dev.orbit n).startReq = false := by decide +kernel

theorem witness_TimeWritesComplete_7 :
    let s : State := (fld s0 ORBn_STATE_state 1 1 0)
    let r : Req := .refuge
    let n : Fin 4 := 1
    s.accepts r pgORB (0x048 + 0x40 * n) := by decide +kernel

theorem witness_TimeWritesComplete_8 :
    let s : State := s0
    let r : Req := .refuge
    let k : Fin 16 := 15
    let v : Word := 0x80000000
    s.accepts r pgORB (0x200 + 4 * k) ∧ v.getLsbD 31 = true ∧ s.dev.flag ORB_CMPk_en k = false := by decide +kernel

theorem witness_LatchedTai_0 :
    let s : State := s0
    let r : Req := .refuge
    s.acceptsRead r pgTIM 0x050 := by decide +kernel

theorem witness_LatchedTai_1 :
    let s : State := s0
    let r : Req := .refuge
    s.acceptsRead r pgTIM 0x054 := by decide +kernel

theorem witness_EventsComplete_0 :
    let s : State := (upd (fld (fld s0 STATUS_enabled 1 0 7) TOU_CFGn_en 1 5 0) (fun d => { d with ticks := 10000000, tou := { d.tou with holding := 32, energised := 33 } }))
    let n : Fin 64 := 5
    s.on ∧ s.dev.tou.holding.getLsbD n = true ∧ s.dev.holdRunning n = false ∧
      ({ s.dev with tou := { s.dev.tou with holding := setBitV s.dev.tou.holding n false } }).touWanted n = false := by
  decide +kernel

theorem witness_EventsComplete_1 :
    let s : State := (upd s0 (fun d => { d with ticks := 100000 * ticksPerMs, bio := d.bio.set 7 { blocked := true, pin := true } {} }))
    let n : Fin 128 := 7
    s.on ∧ (s.dev.bi n).blocked = true ∧ (s.dev.bi n).lastRaw + max 1 (s.dev.rd BIO_CHAT_quiet) * ticksPerMs ≤ s.dev.ticks := by
  decide +kernel

theorem witness_EventsComplete_2 :
    let s : State := (fld s0 BIO_CFGn_en 1 9 0)
    let n : Fin 128 := 9
    let l : Bool := true
    s.on ∧ (s.dev.bi n).pin ≠ l ∧ s.dev.flag BIO_CFGn_en n = true := by decide +kernel

theorem witness_EventsComplete_3 :
    let s : State := (upd s0 (fun d => { d with evm := { d.evm with alarm := some 0 } }))
    let t : Nat := 0
    s.on ∧ s.dev.evm.alarm = some t ∧ s.dev.flag LCC_STATE_tamper_lock = false ∧
      ((s.dev.alarmClear t = true ∨ t + 65535 * ticksPer10us ≤ s.dev.ticks)) := by decide +kernel

theorem witness_EventsComplete_4 :
    let s : State := (fld s0 EVM_SRC_CFG_owner_kind 1 0 0)
    let r : Req := .refuge
    let src : Fin 1024 := 958
    s.accepts r pgEVM 0x04C ∧ s.dev.ownsSource r src = true ∧ s.dev.evm.latch.getLsbD src = false := by decide +kernel

theorem witness_EventsComplete_5 :
    let s : State := s0
    let r : Req := .refuge
    s.accepts r pgEVM 0x040 := by decide +kernel

theorem witness_EventsComplete_6 :
    let s : State := (upd s0 (fun d => { d with bio := d.bio.set 127 { pin := true } {} }))
    let r : Req := .refuge
    let n : Fin 128 := 127
    let v : Word := 1
    s.accepts r pgBIO (0x200 + 4 * n) ∧ s.dev.flag BIO_CFGn_en n = false ∧ v.getLsbD 0 = true := by decide +kernel

theorem witness_EventsComplete_7 :
    let s : State := (upd s0 (fun d => { d with ticks := 77, bio := d.bio.set 127 { blocked := true, pin := true } {} }))
    let r : Req := .refuge
    let k : Fin 4 := 3
    s.accepts r pgBIO (0x070 + 4 * k) := by decide +kernel

theorem witness_EventsComplete_8 :
    let s : State := s0
    let r : Req := .refuge
    s.accepts r pgPIT 0x040 := by decide +kernel

theorem witness_EventsComplete_9 :
    let s : State := s0
    let r : Req := .refuge
    let k : Fin 6 := 3
    s.accepts r pgPIT (0x050 + 4 * k) ∧ k.val < 4 := by decide +kernel

theorem witness_EventsComplete_10 :
    let s : State := s0
    let r : Req := .refuge
    let k : Fin 6 := 4
    s.accepts r pgPIT (0x050 + 4 * k) ∧ 4 ≤ k.val := by decide +kernel

theorem witness_EventsComplete_11 :
    let s : State := (upd s0 (fun d => { d with tou := { d.tou with latched := BitVec.allOnes 64 } }))
    let r : Req := .refuge
    let hi : Bool := true
    s.accepts r pgTOU (if hi then 0x05C else 0x058) := by decide +kernel

theorem witness_EventsComplete_12 :
    let s : State := (fld s0 TOU_MISM_HI_bits 5 0 0)
    let r : Req := .refuge
    let hi : Bool := true
    s.accepts r pgTOU (if hi then 0x054 else 0x050) := by decide +kernel

theorem witness_TripDemand_0 :
    let d : Dev := { s0.dev with pit := { s0.dev.pit with terms := [(3, ⟨List.replicate 8 0x6000, BitVec.allOnes 64⟩)] } }
    d.pit.swapReq = false := by decide +kernel

theorem witness_TripOutputsFailSafe_0 :
    let d : Dev := s0.dev
    let n : Nat := 63
    ((d.flag TOU_CFGn_en n = false ∨ d.tou.heldOff.getLsbD n = true ∨ d.bivouac = true ∨ (d.flag STATUS_enabled 0 pgTOU = false ∧
      d.flag STATUS_draining 0 pgTOU = false))) := by decide +kernel

theorem witness_PageControlCompletes_0 :
    let s : State := { s0 with rr := 13 }
    let r : Req := .refuge
    let page : Fin 1024 := 0x070
    let rivals : List Req := [.hst]
    s.accepts r page 0x024 ∧ loses s.rr r rivals = false ∧ lockPages.contains page.val = true ∧ s.dev.rd LOCK_owner 0 page = 0xFF := by
  decide +kernel

theorem witness_PageControlCompletes_1 :
    let s : State := { s0 with rr := 3 }
    let r : Req := .refuge
    let rivals : List Req := [.dp 3]
    s.on ∧ loses s.rr r rivals = true := by decide +kernel

theorem witness_PageControlCompletes_2 :
    let s : State := (fld s0 LOCK_owner 0x0E 0 0x079)
    let r : Req := .refuge
    let page : Fin 1024 := 0x079
    s.accepts r page 0x024 ∧ lockPages.contains page.val = true ∧ s.dev.rd LOCK_owner 0 page = reqId r := by decide +kernel

theorem witness_PageControlCompletes_3 :
    let s : State := (upd s0 (fun d => { d with lockClear := d.lockClear.set 0x078 1 0 }))
    s.on := by decide +kernel

theorem witness_PageControlCompletes_4 :
    let s : State := (fld s0 STATUS_draining 1 0 0x020)
    let r : Req := .refuge
    let page : Fin 1024 := 0x020
    let b : Blk := ((pageBlock 0x020).getD (.sys,0)).1
    let inst : Nat := ((pageBlock 0x020).getD (.sys,0)).2
    s.accepts r page 0x008 ∧ pageBlock page = some (b, inst) ∧ s.dev.flag STATUS_draining 0 page = true := by decide +kernel

theorem witness_PageControlCompletes_5 :
    let s : State := s0
    let r : Req := .refuge
    let page : Fin 1024 := 0x010
    let b : Blk := ((pageBlock 0x010).getD (.sys,0)).1
    let inst : Nat := ((pageBlock 0x010).getD (.sys,0)).2
    s.accepts r page 0x008 ∧ pageBlock page = some (b, inst) ∧ s.dev.flag STATUS_draining 0 page = false ∧
      s.dev.flag STATUS_enabled 0 page = false ∧ b ≠ .tou ∧ b ≠ .isd ∧ b ≠ .drc := by decide +kernel

-- PageControlCompletes 6, 8
theorem witness_PageControlCompletes_6 :
    let s : State := (fld s0 STATUS_enabled 1 0 0x010)
    let r : Req := .refuge
    let page : Fin 1024 := 0x010
    let b : Blk := ((pageBlock 0x010).getD (.sys,0)).1
    let inst : Nat := ((pageBlock 0x010).getD (.sys,0)).2
    s.accepts r page 0x008 ∧ pageBlock page = some (b, inst) ∧ s.dev.flag STATUS_draining 0 page = false ∧
      s.dev.flag STATUS_enabled 0 page = true := by decide +kernel

theorem witness_PageControlCompletes_7 :
    let s : State := (fld s0 STATUS_draining 1 0 7)
    let r : Req := .refuge
    let page : Fin 1024 := 7
    let b : Blk := ((pageBlock 7).getD (.sys,0)).1
    let inst : Nat := ((pageBlock 7).getD (.sys,0)).2
    s.accepts r page 0x008 ∧ pageBlock page = some (b, inst) ∧ s.dev.flag STATUS_draining 0 page = true := by decide +kernel

theorem witness_PageControlCompletes_9 :
    let s : State := (fld s0 STATUS_draining 1 0 0x010)
    let page : Fin 1024 := 0x010
    let b : Blk := ((pageBlock 0x010).getD (.sys,0)).1
    let inst : Nat := ((pageBlock 0x010).getD (.sys,0)).2
    s.on ∧ pageBlock page = some (b, inst) ∧ s.dev.flag STATUS_draining 0 page = true ∧ s.dev.drained b page = true ∧
      s.dev.flag STATUS_enable_pending 0 page = false := by decide +kernel

theorem witness_PageAccessCompletes_0 :
    let s : State := s0
    let r : Req := .refuge
    let page : Fin 1024 := 0x010
    let b : Blk := ((pageBlock 0x010).getD (.sys,0)).1
    let inst : Nat := ((pageBlock 0x010).getD (.sys,0)).2
    s.accepts r page 0x008 ∧ pageBlock page = some (b, inst) := by decide +kernel

theorem witness_PageAccessCompletes_1 :
    let s : State := (upd s0 (fun d => { d with inReset := d.inReset.set 0x010 1 0 }))
    let page : Fin 1024 := 0x010
    s.on ∧ s.dev.inReset.get page 0 = 1 := by decide +kernel

theorem witness_PageAccessCompletes_2 :
    let s : State := (fld s0 IRQ_EN_bits 0x40000000 0 0x010)
    let r : Req := .refuge
    let page : Fin 1024 := 0x010
    let b : Blk := ((pageBlock 0x010).getD (.sys,0)).1
    let inst : Nat := ((pageBlock 0x010).getD (.sys,0)).2
    s.accepts r page 0x01C ∧ pageBlock page = some (b, inst) := by decide +kernel

theorem witness_PageAccessCompletes_3 :
    let s : State := s0
    let r : Req := .refuge
    let page : Fin 1024 := 0x010
    let off : Fin 4096 := 0x06C
    let b : Blk := ((pageBlock 0x010).getD (.sys,0)).1
    let inst : Nat := ((pageBlock 0x010).getD (.sys,0)).2
    s.accepts r page off ∧ pageBlock page = some (b, inst) ∧ isShadowed b off = false := by decide +kernel

theorem witness_PageAccessCompletes_5 :
    let s : State := (fld s0 PRT_TS_STAT_dropped 5 0 0)
    let r : Req := .refuge
    let page : Fin 1024 := 16
    let off : Fin 4096 := 108
    let b : Blk := ((pageBlock 16).getD (.sys,0)).1
    let inst : Nat := ((pageBlock 16).getD (.sys,0)).2
    let g : RegDesc := (findReg ((pageBlock 16).getD (.sys,0)).1 108).getD ⟨0,0,0,.std,false,[]⟩
    s.acceptsRead r page off ∧ pageBlock page = some (b, inst) ∧ off.val < 0x800 ∧ off.val ≠ 0x010 ∧ findReg b off = some g ∧
      g.fields.any (fun f => f.acc == .rc) = true ∧ s.dev.readAct r b page off = none ∧
      s.dev.latchedPair r b inst page off 0 = none ∧ latchedHigh b off = false ∧ s.dev.view r b inst off = none ∧ b ≠ .sbf := by
  decide +kernel

theorem witness_PageAccessCompletes_7 :
    let s : State := (upd s0 (fun d => { d with tim := { d.tim with lastTick := 1000000000 }, evr := { d.evr with rate := d.evr.rate.set (5 * 2 ^ 32 + 7) { last := some 0, held := some ⟨5, 3, 0, 0, false, 1, 2, 0, ⟨1,2,3⟩⟩, block := 2 } {} } }))
    let code : BitVec 16 := 5
    let unit : BitVec 32 := 7
    let x : Rate := { last := some 0, held := some ⟨5, 3, 0, 0, false, 1, 2, 0, ⟨1,2,3⟩⟩, block := 2 }
    let h : Rec := ⟨5, 3, 0, 0, false, 1, 2, 0, ⟨1,2,3⟩⟩
    let t : Nat := 0
    s.on ∧ s.dev.evr.rate.get (code.toNat * 2 ^ 32 + unit.toNat) {} = x ∧ x.held = some h ∧ x.last = some t ∧
      t + 1000000000 ≤ s.dev.tickTai := by decide +kernel

theorem witness_PageAccessCompletes_8 :
    let s : State := s0
    let r : Req := .hst
    let page : Fin 1024 := 0x002
    let off : Fin 4096 := 0x04C
    let b : Blk := ((pageBlock 0x002).getD (.sys,0)).1
    let inst : Nat := ((pageBlock 0x002).getD (.sys,0)).2
    s.on ∧ pageBlock page = some (b, inst) ∧ off.val % 4 = 0 ∧ isShadowed b off = false ∧ s.dev.accessCheck r page off false ≠ .ok := by
  decide +kernel

theorem witness_LockWrites_0 :
    let s : State := s0
    let r : Req := .refuge
    let page : Fin 1024 := 0x070
    let v : Word := 0x10E
    let owner : Nat := s.dev.rd LOCK_owner 0 page
    s.accepts r page 0x024 ∧ lockPages.contains page.val = true ∧ v.toNat % 256 = reqId r ∧ owner = 0xFF := by decide +kernel

theorem witness_LockWrites_1 :
    let s : State := (fld s0 LOCK_owner 0x0E 0 0x070)
    let r : Req := .refuge
    let page : Fin 1024 := 0x070
    let v : Word := 0x0E
    let owner : Nat := s.dev.rd LOCK_owner 0 page
    s.accepts r page 0x024 ∧ lockPages.contains page.val = true ∧ v.toNat % 256 = reqId r ∧ owner = reqId r := by decide +kernel

theorem witness_LockWrites_2 :
    let s : State := (fld s0 LOCK_owner 3 0 0x070)
    let r : Req := .refuge
    let page : Fin 1024 := 0x070
    let v : Word := 0x0E
    let owner : Nat := s.dev.rd LOCK_owner 0 page
    s.accepts r page 0x024 ∧ lockPages.contains page.val = true ∧ v.toNat % 256 = reqId r ∧ owner ≠ 0xFF ∧ owner ≠ reqId r := by
  decide +kernel

theorem witness_LockWrites_3 :
    let s : State := s0
    let r : Req := .refuge
    let page : Fin 1024 := 0x070
    let v : Word := 0x0F
    s.accepts r page 0x024 ∧ lockPages.contains page.val = true ∧ v.toNat % 256 ≠ reqId r ∧ v.toNat % 256 ≠ 0xFF := by decide +kernel

theorem witness_LockWrites_4 :
    let s : State := (fld (fld s0 LOCK_owner 3 0 0x070) TRV_CPL_MAPp_en 1 0 0)
    let r : Req := .refuge
    let page : Fin 1024 := 0x070
    let v : Word := 0xFF
    let owner : Nat := s.dev.rd LOCK_owner 0 page
    s.accepts r page 0x024 ∧ lockPages.contains page.val = true ∧ v.toNat % 256 = 0xFF ∧ owner ≠ 0xFF ∧
      ((owner = reqId r ∨ r = .refuge)) := by decide +kernel

theorem witness_LockWrites_5 :
    let s : State := (fld (fld s0 LOCK_owner 3 0 0x070) WORLD_ACC_hst_wr 1 0 0x070)
    let r : Req := .hst
    let page : Fin 1024 := 0x070
    let v : Word := 0xFF
    let owner : Nat := s.dev.rd LOCK_owner 0 page
    s.accepts r page 0x024 ∧ lockPages.contains page.val = true ∧ v.toNat % 256 = 0xFF ∧ owner ≠ 0xFF ∧ owner ≠ reqId r ∧
      r ≠ .refuge := by decide +kernel

theorem witness_LockWrites_6 :
    let s : State := s0
    let r : Req := .refuge
    let page : Fin 1024 := 0x070
    let v : Word := 0xFF
    let owner : Nat := s.dev.rd LOCK_owner 0 page
    s.accepts r page 0x024 ∧ lockPages.contains page.val = true ∧ v.toNat % 256 = 0xFF ∧ owner = 0xFF := by decide +kernel

theorem witness_FieldTypes_0 :
    let page : Nat := 0x002
    let off : Nat := 0x04C
    let b : Blk := .tim
    let inst : Nat := 0
    let g : RegDesc := (findReg .tim 0x04C).getD ⟨0,0,0,.std,false,[]⟩
    let f : FieldDesc := ((findReg .tim 0x04C).getD ⟨0,0,0,.std,false,[]⟩).fields.headD ⟨0,0,.ro,0⟩
    pageBlock page = some (b, inst) ∧ findReg b off = some g ∧ f ∈ g.fields := by decide +kernel

theorem witness_SoftResetRegisters_0 :
    let b : Blk := .tim
    let page : Nat := 2
    let key : Nat := regKey 2 0x04C
    keyPage key = page ∧ keyOff key ≠ 0x020 ∧ keyOff key ≠ 0x024 ∧ keptReg true (key % 2 ^ 26) = false ∧
      softKeeps b (keyOff key) = false := by decide +kernel

theorem witness_ShadowCheckFindsAll_0 :
    let d : Dev := s0.dev
    let page : Nat := 2
    let hits : List (Nat × Nat) := [(0x040, 4), (0x044, 1)]
    let k : Nat := regKey 2 0x040
    k ∈ (d.shadowCheck page hits).shadow.map (·.1) ∧ k / 1024 = page := by decide +kernel

theorem witness_PortsComplete_0 :
    let s : State := (fld (fld (fld (fld s0 PRT_MODE_mode 1 0 0) STATUS_enabled 1 0 0x010) PRT_LINK_up 1 0 0) PRT_MAC_max_len 1522 0 0)
    s.on := by decide +kernel

theorem witness_PortsComplete_1 :
    let s : State := (fld (fld (fld (fld s0 PRT_MODE_mode 1 0 0) STATUS_enabled 1 0 0x010) PRT_LINK_up 1 0 0) PRT_MAC_max_len 1522 0 0)
    let p : Fin 12 := 0
    let sub : Fin 4 := 0
    let f : RxFrame := rx0
    let sub' : Nat := (if s.dev.breakout p then sub.val else 0)
    s.on ∧ s.dev.macOn p = true ∧ s.dev.portEnabled p = true ∧ s.dev.portDraining p = false ∧ s.dev.subUp p sub' = true ∧
      64 ≤ f.bytes.length ∧ f.bytes.length ≤ s.dev.rd PRT_MAC_max_len 0 p ∧ etherType f.bytes ≠ 0x8808 ∧ f.fecUncorr = 0 ∧
      crc32eth (f.bytes.take (f.bytes.length - 4)) = leValue (f.bytes.drop (f.bytes.length - 4)) ∧
      s.dev.flag PRT_PTP_ptp_en 0 p = false ∧ s.dev.pairMode (pairOf p) = 0 ∧ s.dev.bivouac = false := by decide +kernel

theorem witness_PortsComplete_2 :
    let s : State := (fld (fld (fld (fld s0 PRT_MODE_mode 1 0 0) STATUS_enabled 1 0 0x010) PRT_LINK_up 1 0 0) PRT_MAC_max_len 1522 0 0)
    let p : Fin 12 := 0
    let sub : Fin 4 := 0
    let f : RxFrame := { rx0 with bytes := List.replicate 63 1 }
    let sub' : Nat := (if s.dev.breakout p then sub.val else 0)
    s.on ∧ s.dev.macOn p = true ∧ s.dev.portEnabled p = true ∧ s.dev.portDraining p = false ∧ s.dev.subUp p sub' = true ∧
      f.bytes.length < 64 ∧ f.fecUncorr = 0 := by decide +kernel

theorem witness_PortsComplete_3 :
    let s : State := (upd (fld (fld (fld s0 STATUS_enabled 1 0 0x019) MGP_MODE_mode 1 0 1) MGP_LINK_up 1 0 1) (fun d => { d with pairs := d.pairs.set 4 { fwd := [(8, List.replicate 70 1)] } {} }))
    let k : Fin 6 := 4
    let p : Nat := 8
    let b : List Byte := List.replicate 70 1
    let fs : List (Nat × List Byte) := []
    s.on ∧ (s.dev.pair k).fwd = (p, b) :: fs ∧ s.dev.portEnabled (otherPort p) = true ∧ s.dev.subUp (otherPort p) 0 = true := by
  decide +kernel

theorem witness_PortsComplete_4 :
    let s : State := (upd s0 (fun d => { d with cclk := 10 ^ 12, pairs := d.pairs.set 5 { nodes := [⟨5, 1, 0, 0⟩, ⟨6, 1, 0, 0⟩] } {} }))
    s.on := by decide +kernel

theorem witness_PortsComplete_5 :
    let s : State := (upd (fld (fld (fld (fld s0 PRT_PRP_en 1 0 0) PRT_PRP_life_ms 2000 0 0) PRT_MODE_mode 1 0 0) STATUS_enabled 1 0 0x010) (fun d => { d with cclk := 2000 * cclkPerMs }))
    let k : Fin 6 := 0
    s.on ∧ s.dev.pairMode k ≠ 0 ∧ s.dev.lifeMs k ≠ 0 ∧ (s.dev.pair k).supAt + s.dev.lifeMs k * cclkPerMs ≤ s.dev.cclk := by
  decide +kernel

theorem witness_PortsComplete_6 :
    let s : State := (fld (fld (fld (fld s0 PRT_MODE_mode 1 0 0) STATUS_enabled 1 0 0x010) PRT_LINK_up 1 0 0) PRT_MAC_max_len 1522 0 0)
    let p : Fin 12 := 0
    let bytes : List Byte := List.replicate 50 1
    s.on ∧ s.dev.macOn p = true ∧ bytes.length + 4 ≤ s.dev.rd PRT_MAC_max_len 0 p ∧ s.dev.pairMode (pairOf p) ≠ 2 ∧
      s.dev.portDraining p = false ∧ s.dev.portEnabled p = true ∧ s.dev.egressBytes p + (macPad bytes).length ≤ fifoSize p := by
  decide +kernel

theorem witness_PortsComplete_7 :
    let s : State := (upd (fld (fld (fld (fld s0 PRT_MODE_mode 1 0 0) STATUS_enabled 1 0 0x010) PRT_LINK_up 1 0 0) PRT_MAC_max_len 1522 0 0) (fun d => { d with ports := d.ports.set 0 { egress := [⟨0, List.replicate 60 1, none⟩] } {} }))
    let p : Fin 12 := 0
    let f : TxFrame := ⟨0, List.replicate 60 1, none⟩
    let fs : List TxFrame := []
    s.on ∧ (s.dev.port p).egress = f :: fs ∧ s.dev.macOn p = true ∧ s.dev.subUp p f.sub = true ∧
      s.dev.flag PRT_PTP_ptp_en 0 p = false := by decide +kernel

theorem witness_PortsComplete_8 :
    let s : State := (upd (fld (fld (fld (fld (fld s0 PRT_MODE_mode 1 0 0) STATUS_enabled 1 0 0x010) PRT_LINK_up 1 0 0) PRT_MAC_max_len 1522 0 0) PRT_PTP_ptp_en 1 0 0) (fun d => { d with ports := d.ports.set 0 { egress := [⟨0, List.replicate 12 0 ++ [0x88, 0xF7] ++ List.replicate 60 0, none⟩] } {} }))
    let p : Fin 12 := 0
    let o : Nat := 14
    let f : TxFrame := ⟨0, List.replicate 12 0 ++ [0x88, 0xF7] ++ List.replicate 60 0, none⟩
    let fs : List TxFrame := []
    s.on ∧ (s.dev.port p).egress = f :: fs ∧ s.dev.macOn p = true ∧ s.dev.subUp p f.sub = true ∧
      s.dev.ptpOff p f.bytes = some o ∧ ptpShort f.bytes o = false ∧ ptpType f.bytes o ≤ 3 ∧ f.carried = none ∧
      s.dev.flag PRT_PTP_one_step 0 p = false := by decide +kernel

theorem witness_PortsComplete_9 :
    let s : State := (upd s0 (fun d => { d with ports := d.ports.set 0 { ts := [⟨1, 2⟩] } {} }))
    let r : Req := .refuge
    let p : Fin 12 := 0
    let e : TsEntry := ⟨1, 2⟩
    let es : List TsEntry := []
    s.acceptsRead r (pgPort p) 0x07C ∧ (s.dev.port p).ts = e :: es := by decide +kernel

theorem witness_PortsComplete_10 :
    let s : State := (upd s0 (fun d => { d with ports := d.ports.set 11 { cnt := [(3, 5)] } {} }))
    let r : Req := .refuge
    let p : Fin 12 := 11
    s.accepts r (pgPort p) 0x09C := by decide +kernel

theorem witness_PortsComplete_11 :
    let s : State := (fld (fld (fld (fld s0 PRT_MODE_mode 1 0 0) STATUS_enabled 1 0 0x010) PRT_LINK_up 1 0 0) PRT_MAC_max_len 1522 0 0)
    let p : Fin 12 := 0
    s.on ∧ ((isMgmt p = true ∨ s.dev.portMode p ≠ 6)) := by decide +kernel

theorem witness_PortsComplete_12 :
    let s : State := (fld s0 PRT_MODE_mode 6 0 7)
    let p : Fin 12 := 7
    s.on ∧ isMgmt p = false ∧ s.dev.portMode p = 6 := by decide +kernel

theorem witness_PortsComplete_13 :
    let s : State := (fld (fld (fld (fld s0 HST_LINK_up 1 0 0) SBF_HWIN_BASEk_en 1 0 0) SBF_HWIN_BASEk_wr 1 0 0) SBF_HWIN_SIZEk_size 16 0 0)
    let off : Nat := 64
    let n : Nat := 8
    let env : MemEnv := ⟨false, 0, [], []⟩
    s.on ∧ s.dev.hstLive = true ∧ s.dev.flag HST_LINK_d3hot = false ∧ n ≤ 4096 ∧ off + n ≤ 0x1000000 ∧
      s.dev.devReach .hst false (sbBase + off) n = true ∧
      (s.dev.cleared.memGuard (reqId .hst) (sbBase + off) (laterOf env s.rr .hst)).1 = .ok ∧
      ((s.dev.cleared.memGuard (reqId .hst) (sbBase + off) (laterOf env s.rr .hst)).2.memLoad .hst (sbBase + off) n).1 = .ok := by
  decide +kernel

theorem witness_PortsComplete_14 :
    let s : State := (fld (fld (fld (fld s0 HST_LINK_up 1 0 0) SBF_HWIN_BASEk_en 1 0 0) SBF_HWIN_BASEk_wr 1 0 0) SBF_HWIN_SIZEk_size 16 0 0)
    let off : Nat := 64
    let b : List Byte := [1,2,3,4,5,6,7,8]
    let env : MemEnv := ⟨false, 0, [], []⟩
    s.on ∧ s.dev.hstLive = true ∧ s.dev.flag HST_LINK_d3hot = false ∧ b.length ≤ 512 ∧ off + b.length ≤ 0x1000000 ∧
      s.dev.devReach .hst true (sbBase + off) b.length = true ∧
      (s.dev.cleared.memGuard (reqId .hst) (sbBase + off) (laterOf env s.rr .hst)).1 = .ok := by decide +kernel

theorem witness_PortsComplete_15 :
    let s : State := (fld (fld (fld s0 HST_LINK_up 1 0 0) WORLD_ACC_hst_rd 1 0 2) WORLD_ACC_world 1 0 2)
    let off : Nat := 0x2054
    let env : MemEnv := ⟨false, 0, [], []⟩
    s.on ∧ s.dev.hstLive = true ∧ s.dev.flag HST_LINK_d3hot = false ∧ off + 4 ≤ 0x10000000 ∧ off % 4 = 0 ∧ env.parity = false ∧
      (s.dev.cleared.pageRead .hst (off / 4096) (off % 4096)).resp.status = some .ok := by decide +kernel

theorem witness_PortsComplete_16 :
    let s : State := (fld (fld (fld (fld s0 HST_LINK_up 1 0 0) WORLD_ACC_hst_rd 1 0 4) WORLD_ACC_hst_wr 1 0 4) WORLD_ACC_world 1 0 4)
    let off : Nat := 0x4040
    let b : List Byte := [1,0,0,0]
    let env : MemEnv := ⟨false, 0, [], []⟩
    s.on ∧ s.dev.hstLive = true ∧ s.dev.flag HST_LINK_d3hot = false ∧ b.length = 4 ∧ off + 4 ≤ 0x10000000 ∧ off % 4 = 0 ∧
      env.parity = false ∧ s.dev.accessCheck .hst (off / 4096) (off % 4096) false ≠ .denied := by decide +kernel

theorem witness_PortsComplete_17 :
    let s : State := (fld (fld s0 HST_LINK_up 1 0 0) HST_LINK_d3hot 1 0 0)
    let n : Nat := 4096
    let bar : Fin 8 := 4
    s.on ∧ s.dev.hstLive = true ∧ n ≤ 4096 ∧ ((bar.val % 2 = 1 ∨ (bar.val ≠ 6 ∧ s.dev.flag HST_LINK_d3hot = true))) := by
  decide +kernel

theorem witness_PortsComplete_18 :
    let s : State := (fld s0 HST_LINK_up 1 0 0)
    s.on ∧ s.dev.hstLive = true := by decide +kernel

theorem witness_PortsComplete_19 :
    let s : State := (upd (fld s0 HST_LINK_up 1 0 0) (fun d => { d with hst := { d.hst with reqs := [⟨5, true, 0, none⟩] } }))
    let id : Nat := 5
    let r : HstReq := ⟨5, true, 0, none⟩
    s.on ∧ s.dev.hstReq id = some r := by decide +kernel

theorem witness_PortsComplete_20 :
    let s : State := (upd (fld s0 HST_LINK_up 1 0 0) (fun d => { d with hst := { d.hst with reqs := [⟨5, true, 0, none⟩] } }))
    let id : Nat := 5
    let r : HstReq := ⟨5, true, 0, none⟩
    s.on ∧ s.dev.hstReq id = some r ∧ r.read = true := by decide +kernel

theorem witness_PortsComplete_21 :
    let s : State := (upd (fld (fld s0 HST_LINK_up 1 0 0) LOCK_owner 0x0C 0 0x078) (fun d => { d with hst := { d.hst with pba := 5 } }))
    s.on ∧ s.dev.inReset.get pgHST 0 = 0 ∧ s.dev.bivouac = false ∧ s.dev.hst.reqs = [] := by decide +kernel

theorem witness_PortsComplete_22 :
    let s : State := (fld (fld s0 HST_LINK_up 1 0 0) HST_LINK_width 8 0 0)
    s.on ∧ s.dev.flag HST_LINK_up = true ∧ s.dev.hst.reqs = [] := by decide +kernel

theorem witness_PortsComplete_23 :
    let s : State := s0
    s.on ∧ s.dev.inReset.get pgHST 0 = 0 ∧ s.dev.bivouac = false ∧ s.dev.flag HST_LINK_up = false := by decide +kernel

theorem witness_PortsComplete_24 :
    let s : State := (upd (fld s0 HST_LINK_up 1 0 0) (fun d => { d with hst := { d.hst with pba := BitVec.allOnes 64 } }))
    s.on ∧ s.dev.hstLive = true := by decide +kernel

theorem witness_TraverseCompletes_0 :
    let s : State := (upd s0 (fun d => { d with trv := { d.trv with flights := [⟨2, handed0, some 5, {}, [0], [], 1, none, none⟩] } }))
    s.on := by decide +kernel

theorem witness_TraverseCompletes_1 :
    let s : State := (upd { s0 with rr := 5 } (fun d => { d with trv := { d.trv with flights := [⟨2, handed0, some 5, {}, [0], [], 1, none, none⟩] } }))
    let dp : Fin 12 := 2
    let f : Flight := ⟨2, handed0, some 5, {}, [0], [], 1, none, none⟩
    s.on ∧ s.dev.trv.flights.find? (·.dp == dp.val) = some f ∧ f.mal = none ∧ f.h.fcsBad = false ∧
      f.prog.all (fun t => stepOp t == 0 || decide (5 ≤ stepOp t)) = true := by decide +kernel

theorem witness_TraverseCompletes_2 :
    let s : State := (upd s0 (fun d => (d.setQ 7 { known := true, w0 := 2 ^ 31 + 5 * 2 ^ 24 + 4 * 2 ^ 20, w1 := 2 ^ 30 + 3 * 2 ^ 16, enabled := true, prod := 1, ents := [{}] }).setEntry 3 { w0 := 2 ^ 31 + 2 ^ 30, w5 := 2 ^ 20 }))
    let n : Fin 16384 := 7
    let brk : Option (Fin 8) := none
    let q : Queue := { known := true, w0 := 2 ^ 31 + 5 * 2 ^ 24 + 4 * 2 ^ 20, w1 := 2 ^ 30 + 3 * 2 ^ 16, enabled := true, prod := 1, ents := [{}] }
    let e : TrvEntry := { w0 := 2 ^ 31 + 2 ^ 30, w5 := 2 ^ 20 }
    s.on ∧ s.dev.q n = q ∧ q.valid = true ∧ q.consKind = 1 ∧ q.unclaimed ≠ 0 ∧ q.claimed = 0 ∧ s.dev.entry q.consId = e ∧
      e.valid = true ∧ e.egress = true ∧ ((s.dev.cleared.withBreak brk).hwLoad e.datapath (q.slotAddr q.cons) q.slot).1 = .ok ∧
      (parseHdr ((s.dev.cleared.withBreak brk).hwLoad e.datapath (q.slotAddr q.cons) q.slot).2.1).flags.testBit 3 = false := by
  decide +kernel

theorem witness_TraverseCompletes_3 :
    let s : State := (upd s0 (fun d => ((d.setQ 7 { known := true, w0 := 2 ^ 31 + 5 * 2 ^ 24 + 4 * 2 ^ 20, w1 := 2 ^ 30 + 3 * 2 ^ 16, enabled := true, prod := 1, ents := [{}] }).setEntry 3 { w0 := 2 ^ 31 + 2 ^ 30, w5 := 2 ^ 20 }).store (sbBase + 6) [8]))
    let n : Fin 16384 := 7
    let brk : Option (Fin 8) := none
    let q : Queue := { known := true, w0 := 2 ^ 31 + 5 * 2 ^ 24 + 4 * 2 ^ 20, w1 := 2 ^ 30 + 3 * 2 ^ 16, enabled := true, prod := 1, ents := [{}] }
    let e : TrvEntry := { w0 := 2 ^ 31 + 2 ^ 30, w5 := 2 ^ 20 }
    s.on ∧ s.dev.q n = q ∧ q.valid = true ∧ q.consKind = 1 ∧ q.unclaimed ≠ 0 ∧ q.claimed = 0 ∧ s.dev.entry q.consId = e ∧
      e.valid = true ∧ e.egress = true ∧ ((s.dev.cleared.withBreak brk).hwLoad e.datapath (q.slotAddr q.cons) q.slot).1 = .ok ∧
      (parseHdr ((s.dev.cleared.withBreak brk).hwLoad e.datapath (q.slotAddr q.cons) q.slot).2.1).flags.testBit 3 = true := by
  decide +kernel

theorem witness_TraverseCompletes_4 :
    let s : State := (upd (fld (fld (fld s0 TRV_ENT_SEL_index 9 0 0) TRV_ENT_Wk_word 0xC0000000 0 0) TRV_ENT_Wk_word 0x00100000 5 0) (fun d => { d with trv := { d.trv with steps := d.trv.steps.set 0 0x50000000 0 } }))
    let r : Req := .refuge
    let i : Nat := 9
    s.accepts r pgTRV 0x04C ∧ s.dev.rd TRV_ENT_SEL_index = i ∧ s.dev.trvStaged.valid = true ∧
      s.dev.commitStatus i s.dev.trvStaged = .ok ∧ (s.dev.entry i).inLoss = false := by decide +kernel

theorem witness_TraverseCompletes_5 :
    let s : State := (upd (fld s0 TRV_ENT_SEL_index 9 0 0) (fun d => d.setEntry 9 { w0 := 2 ^ 31 + 2 ^ 30, w5 := 2 ^ 20 }))
    let r : Req := .refuge
    let i : Nat := 9
    s.accepts r pgTRV 0x04C ∧ s.dev.rd TRV_ENT_SEL_index = i ∧ (s.dev.entry i).inLoss = false := by decide +kernel

theorem witness_TraverseCompletes_6 :
    let s : State := (upd (fld s0 TRV_ENT_SEL_index 9 0 0) (fun d => d.setEntry 9 { w0 := 2 ^ 31 + 2 ^ 30, w5 := 2 ^ 20 }))
    let r : Req := .refuge
    let e : TrvEntry := { w0 := 2 ^ 31 + 2 ^ 30, w5 := 2 ^ 20 }
    s.accepts r pgTRV 0x04C ∧ s.dev.entry (s.dev.rd TRV_ENT_SEL_index) = e := by decide +kernel

theorem witness_TraverseCompletes_7 :
    let s : State := (fld s0 TRV_STEP_SEL_index 4095 0 0)
    let r : Req := .refuge
    s.accepts r pgTRV 0x078 ∧ s.dev.stepRefs (s.dev.rd TRV_STEP_SEL_index) = 0 := by decide +kernel

theorem witness_TraverseCompletes_8 :
    let s : State := (upd s0 (fun d => { d with trv := { d.trv with steps := d.trv.steps.set 0 0x50000000 0 } }))
    let r : Req := .refuge
    let dp : Fin 12 := 11
    let v : Word := 0x80000000
    s.accepts r pgTRV (0x100 + 4 * dp) ∧
      ((v.getLsbD 31 = false ∨ s.dev.programBad (bitsOf v.toNat 11 0) (bitsOf v.toNat 24 21) 0 = false)) := by decide +kernel

theorem witness_TraverseCompletes_9 :
    let s : State := s0
    let r : Req := .refuge
    let p : Fin 8 := 5
    let v : Word := 0x80000008
    let id : Nat := 3
    s.accepts r pgTRV (0x0E0 + 4 * p) ∧ v.getLsbD 31 = true ∧ s.dev.flag TRV_CPL_MAPp_held p = false ∧
      s.dev.rd LOCK_owner 0 (pgCPL p) = 0xFF ∧
      ((∀ k : Fin 8, k ≠ p → s.dev.flag TRV_CPL_MAPp_en k = true → bitsOf v.toNat 11 0 &&& s.dev.rd TRV_CPL_MAPp_ingress k = 0 ∧
      bitsOf v.toNat 23 12 &&& s.dev.rd TRV_CPL_MAPp_egress k = 0)) ∧
      lowestBit (bitsOf v.toNat 11 0 ||| bitsOf v.toNat 23 12) 12 = some id := by decide +kernel

theorem witness_TraverseCompletes_10 :
    let s : State := (fld (fld s0 TRV_CPL_MAPp_held 1 5 0) LOCK_owner 3 0 0x075)
    let p : Fin 8 := 5
    s.on ∧ s.dev.flag TRV_CPL_MAPp_held p = true ∧ s.dev.flag TRV_CPL_MAPp_en p = false ∧
      s.dev.trv.flights.any (fun f => f.pipe == some p.val) = false := by decide +kernel

theorem witness_TraverseCompletes_11 :
    let s : State := (upd s0 (fun d => ({ d with cclk := 5 * cclkPerMs }).setEntry 16383 { w0 := 2 ^ 31, w7 := 5 * 2 ^ 20 + 4 }))
    let i : Fin 16384 := 16383
    let e : TrvEntry := { w0 := 2 ^ 31, w7 := 5 * 2 ^ 20 + 4 }
    s.on ∧ s.dev.entry i = e ∧ e.valid = true ∧ e.egress = false ∧ e.lossTo ≠ 0 ∧ e.inLoss = false ∧
      e.kept + e.lossTo * cclkPerMs ≤ s.dev.cclk := by decide +kernel

theorem witness_QueuesComplete_0 :
    let s : State := (upd s0 (fun d => (((((d.wr ENG_WORLD_world 1 0 0).setEng 0 { d.engOf 0 with super := true }).wrOwn 0x10 QMG_Q_SEL_queue 7 0)).wrOwn 0x10 QMG_QD_Wk_word (2 ^ 31 + 5 * 2 ^ 24 + 4 * 2 ^ 20 + 0x1000) 0).setQ 7 { known := true, world := 0 }))
    let r : Req := .eng 0
    let n : Nat := 7
    let w : Nat := 0
    let q : Queue := { known := true, world := 0 }
    s.accepts r pgQMG 0x054 ∧ s.dev.queueCmdStatus r 1 = .ok ∧ s.dev.selQueue r = n ∧ s.dev.q n = q ∧
      (s.dev.rdOwn (reqId r) QMG_QD_Wk_word 0).testBit 31 = true ∧
      w = (if r = .refuge then bitsOf (s.dev.rdOwn (reqId r) QMG_QD_Wk_word 0) 19 18 else q.world) := by decide +kernel

theorem witness_QueuesComplete_1 :
    let s : State := (upd s0 (fun d => ((((d.wr ENG_WORLD_world 1 0 0).setEng 0 { d.engOf 0 with super := true }).wrOwn 0x10 QMG_Q_SEL_queue 7 0)).setQ 7 { known := true, world := 0, w0 := 2 ^ 31 + 5 * 2 ^ 24 + 4 * 2 ^ 20, w1 := 0x0E, prod := 2, claim := 1, ents := [{ seq := 3, reply := some 7 }, { seq := 4 }] }))
    let r : Req := .eng 0
    let n : Nat := 7
    let q : Queue := { known := true, world := 0, w0 := 2 ^ 31 + 5 * 2 ^ 24 + 4 * 2 ^ 20, w1 := 0x0E, prod := 2, claim := 1, ents := [{ seq := 3, reply := some 7 }, { seq := 4 }] }
    s.accepts r pgQMG 0x054 ∧ s.dev.queueCmdStatus r 1 = .ok ∧ s.dev.selQueue r = n ∧ s.dev.q n = q ∧
      (s.dev.rdOwn (reqId r) QMG_QD_Wk_word 0).testBit 31 = false := by decide +kernel

theorem witness_QueuesComplete_2 :
    let s : State := (upd s0 (fun d => (d.wrOwn 0x0E QMG_Q_SEL_queue 7 0).setQ 7 { known := true, world := 0, w0 := 2 ^ 31 + 5 * 2 ^ 24 + 4 * 2 ^ 20, w1 := 0x0E, prod := 2, claim := 1, ents := [{ seq := 3, reply := some 7 }, { seq := 4 }] }))
    let r : Req := .refuge
    let q : Queue := { known := true, world := 0, w0 := 2 ^ 31 + 5 * 2 ^ 24 + 4 * 2 ^ 20, w1 := 0x0E, prod := 2, claim := 1, ents := [{ seq := 3, reply := some 7 }, { seq := 4 }] }
    s.accepts r pgQMG 0x054 ∧ s.dev.queueCmdStatus r 2 = .ok ∧ s.dev.q (s.dev.selQueue r) = q := by decide +kernel

theorem witness_QueuesComplete_3 :
    let s : State := (upd s0 (fun d => (d.wrOwn 0x0E QMG_Q_SEL_queue 7 0).setQ 7 { known := true, world := 0, w0 := 2 ^ 31 + 5 * 2 ^ 24 + 4 * 2 ^ 20, w1 := 0x0E, prod := 2, claim := 1, ents := [{ seq := 3, reply := some 7 }, { seq := 4 }] }))
    let r : Req := .refuge
    let n : Nat := 7
    let q : Queue := { known := true, world := 0, w0 := 2 ^ 31 + 5 * 2 ^ 24 + 4 * 2 ^ 20, w1 := 0x0E, prod := 2, claim := 1, ents := [{ seq := 3, reply := some 7 }, { seq := 4 }] }
    s.accepts r pgQMG 0x054 ∧ s.dev.queueCmdStatus r 3 = .ok ∧ s.dev.selQueue r = n ∧ s.dev.q n = q ∧ q.draining = false ∧
      q.enabled = false := by decide +kernel

theorem witness_QueuesComplete_4 :
    let s : State := (upd s0 (fun d => (d.wrOwn 0x0E QMG_Q_SEL_queue 7 0).setQ 7 { ({ known := true, world := 0, w0 := 2 ^ 31 + 5 * 2 ^ 24 + 4 * 2 ^ 20, w1 := 0x0E, prod := 2, claim := 1, ents := [{ seq := 3, reply := some 7 }, { seq := 4 }] } : Queue) with draining := true }))
    let r : Req := .refuge
    let n : Nat := 7
    let q : Queue := { ({ known := true, world := 0, w0 := 2 ^ 31 + 5 * 2 ^ 24 + 4 * 2 ^ 20, w1 := 0x0E, prod := 2, claim := 1, ents := [{ seq := 3, reply := some 7 }, { seq := 4 }] } : Queue) with draining := true }
    s.accepts r pgQMG 0x054 ∧ s.dev.queueCmdStatus r 3 = .ok ∧ s.dev.selQueue r = n ∧ s.dev.q n = q ∧ q.draining = true := by
  decide +kernel

theorem witness_QueuesComplete_5 :
    let s : State := (upd s0 (fun d => (d.wrOwn 0x0E QMG_Q_SEL_queue 7 0).setQ 7 { known := true, world := 0, w0 := 2 ^ 31 + 5 * 2 ^ 24 + 4 * 2 ^ 20, w1 := 0x0E, prod := 2, claim := 1, ents := [{ seq := 3, reply := some 7 }, { seq := 4 }] }))
    let r : Req := .refuge
    let n : Nat := 7
    let q : Queue := { known := true, world := 0, w0 := 2 ^ 31 + 5 * 2 ^ 24 + 4 * 2 ^ 20, w1 := 0x0E, prod := 2, claim := 1, ents := [{ seq := 3, reply := some 7 }, { seq := 4 }] }
    s.accepts r pgQMG 0x054 ∧ s.dev.queueCmdStatus r 4 = .ok ∧ s.dev.selQueue r = n ∧ s.dev.q n = q ∧ q.pend = false := by
  decide +kernel

theorem witness_QueuesComplete_6 :
    let s : State := (upd s0 (fun d => (d.wrOwn 0x0E QMG_Q_SEL_queue 7 0).setQ 7 { ({ known := true, world := 0, w0 := 2 ^ 31 + 5 * 2 ^ 24 + 4 * 2 ^ 20, w1 := 0x0E, prod := 2, claim := 1, ents := [{ seq := 3, reply := some 7 }, { seq := 4 }] } : Queue) with enabled := true }))
    let r : Req := .refuge
    let n : Nat := 7
    let q : Queue := { ({ known := true, world := 0, w0 := 2 ^ 31 + 5 * 2 ^ 24 + 4 * 2 ^ 20, w1 := 0x0E, prod := 2, claim := 1, ents := [{ seq := 3, reply := some 7 }, { seq := 4 }] } : Queue) with enabled := true }
    s.accepts r pgQMG 0x054 ∧ s.dev.queueCmdStatus r 5 = .ok ∧ s.dev.selQueue r = n ∧ s.dev.q n = q ∧ q.enabled = true := by
  decide +kernel

theorem witness_QueuesComplete_7 :
    let s : State := (upd s0 (fun d => (d.wrOwn 0x0E QMG_Q_SEL_queue 7 0).setQ 7 { ({ known := true, world := 0, w0 := 2 ^ 31 + 5 * 2 ^ 24 + 4 * 2 ^ 20, w1 := 0x0E, prod := 2, claim := 1, ents := [{ seq := 3, reply := some 7 }, { seq := 4 }] } : Queue) with enabled := true }))
    let r : Req := .refuge
    let n : Nat := 7
    let q : Queue := { ({ known := true, world := 0, w0 := 2 ^ 31 + 5 * 2 ^ 24 + 4 * 2 ^ 20, w1 := 0x0E, prod := 2, claim := 1, ents := [{ seq := 3, reply := some 7 }, { seq := 4 }] } : Queue) with enabled := true }
    s.accepts r pgQMG 0x054 ∧ s.dev.queueCmdStatus r 6 = .ok ∧ s.dev.selQueue r = n ∧ s.dev.q n = q ∧ q.enabled = true := by
  decide +kernel

theorem witness_QueuesComplete_8 :
    let s : State := (upd s0 (fun d => ((d.wrOwn 0x0E QMG_Q_SEL_queue 7 0).store (sbBase + 68) [255, 255]).setQ 7 { ({ known := true, world := 0, w0 := 2 ^ 31 + 5 * 2 ^ 24 + 4 * 2 ^ 20, w1 := 0x0E, prod := 2, claim := 1, ents := [{ seq := 3, reply := some 7 }, { seq := 4 }] } : Queue) with enabled := true }))
    let r : Req := .refuge
    let v : Word := 7 * 2 ^ 16 + 1
    let n : Nat := bitsOf v.toNat 29 16
    let cnt : Nat := bitsOf v.toNat 15 0
    s.accepts r pgQMG 0x080 ∧ s.dev.doorbellStatus r n cnt = .ok ∧ (s.dev.q n).kind ≠ 1 := by decide +kernel

theorem witness_QueuesComplete_9 :
    let s : State := (upd s0 (fun d => (d.wrOwn 0x0E QMG_Q_SEL_queue 7 0).setQ 7 { known := true, world := 0, w0 := 2 ^ 31 + 5 * 2 ^ 24 + 4 * 2 ^ 20, w1 := 0x0E, prod := 2, claim := 1, ents := [{ seq := 3, reply := some 7 }, { seq := 4 }] }))
    let r : Req := .refuge
    let n : Fin 16384 := 7
    let cnt : BitVec 16 := 1
    s.accepts r pgQMG 0x084 ∧ s.dev.foreignQueue r (s.dev.q n) = false ∧ s.dev.rowBad pgQMG n = false ∧ cnt ≠ 0 ∧
      cnt.toNat ≤ (s.dev.q n).unclaimed := by decide +kernel

theorem witness_QueuesComplete_10 :
    let s : State := (upd s0 (fun d => (d.wrOwn 0x0E QMG_Q_SEL_queue 7 0).setQ 7 { known := true, world := 0, w0 := 2 ^ 31 + 5 * 2 ^ 24 + 4 * 2 ^ 20, w1 := 0x0E, prod := 2, claim := 1, ents := [{ seq := 3, reply := some 7 }, { seq := 4 }] }))
    let r : Req := .refuge
    let n : Fin 16384 := 7
    let cnt : BitVec 16 := 1
    s.accepts r pgQMG 0x084 ∧ s.dev.foreignQueue r (s.dev.q n) = false ∧ s.dev.rowBad pgQMG n = false ∧ cnt ≠ 0 ∧
      cnt.toNat ≤ (s.dev.q n).claimed := by decide +kernel

theorem witness_QueuesComplete_11 :
    let s : State := (upd s0 (fun d => ((d.wrOwn 0x0E QMG_CPL_Q_queue 7 0).wrOwn 0x0E QMG_CPL_Q_seq 3 0).setQ 7 { known := true, world := 0, w0 := 2 ^ 31 + 5 * 2 ^ 24 + 4 * 2 ^ 20, w1 := 0x0E, prod := 2, claim := 1, ents := [{ seq := 3, reply := some 7 }, { seq := 4 }] }))
    let r : Req := .refuge
    let i : Nat := 0
    let e : Ent := { seq := 3, reply := some 7 }
    let n : Nat := s.dev.rdOwn (reqId r) QMG_CPL_Q_queue
    s.accepts r pgQMG 0x090 ∧ s.dev.foreignQueue r (s.dev.q n) = false ∧
      ((s.dev.q n).ents.take (s.dev.q n).claimed).findIdx? (fun e => e.seq == s.dev.rdOwn (reqId r) QMG_CPL_Q_seq && e.reply.isSome && !e.done) = some i ∧ (s.dev.q n).ents[i]? = some e := by
  decide +kernel

theorem witness_QueuesComplete_12 :
    let s : State := (upd s0 (fun d => d.setTag 1792 { used := true }))
    let r : Req := .refuge
    let i : Nat := 1793
    s.accepts r pgQMG 0x098 ∧ s.dev.lowestFreeTag (tagRange r).1 (tagRange r).2 = some i := by decide +kernel

theorem witness_QueuesComplete_13 :
    let s : State := (upd s0 (fun d => d.setTag 1792 { used := true }))
    let r : Req := .refuge
    let tag : BitVec 16 := 1792
    s.accepts r pgQMG 0x098 ∧ s.dev.ownsTag r tag.toNat = true ∧ tag.toNat ≠ 0xFFFF ∧ (s.dev.tag (tag.toNat % 2048)).item = none := by
  decide +kernel

theorem witness_QueuesComplete_14 :
    let s : State := (upd s0 (fun d => (({ d with tim := { d.tim with lastTick := 10000 } } : Dev).setQ 7 { ({ known := true, world := 0, w0 := 2 ^ 31 + 5 * 2 ^ 24 + 4 * 2 ^ 20, w1 := 0x0E, prod := 2, claim := 1, ents := [{ seq := 3, reply := some 7 }, { seq := 4 }] } : Queue) with ents := [{ seq := 3, tag := 63232, reply := some 7 }, { seq := 4 }] }).setTag 1792 { gen := 30, used := true, tmo := 1, item := some 7, start := 0 }))
    let i : Fin 65536 := 63232
    let t : Tag := { gen := 30, used := true, tmo := 1, item := some 7, start := 0 }
    let n : Nat := 7
    s.on ∧ s.dev.tag (i % 2048) = t ∧ t.gen = i / 2048 ∧ t.used = true ∧ t.item = some n ∧ t.tmo ≠ 0 ∧
      t.start + t.tmo * 10000 ≤ s.dev.tickTai := by decide +kernel

theorem witness_DuplicatesPassOnce_0 :
    let n : Node := ⟨1, 65535, 0, 0⟩
    let seq : Nat := 5
    n.high < 65536 ∧ seq < 65536 ∧ n.map < 2 ^ 64 ∧ (n.judge seq).1 = .fresh := by decide +kernel

theorem witness_DuplicatesPassOnce_1 :
    let q : Queue := { first := false, h := 65535 }
    let seq : Nat := 5
    q.h < 65536 ∧ seq < 65536 ∧ q.map < 2 ^ 64 ∧ (q.judge seq).1 = .ok := by decide +kernel

theorem witness_AdmitAddsOne_0 :
    let d : Dev := (upd s0 (fun d => d.setQ 7 { known := true, world := 0, w0 := 2 ^ 31 + 5 * 2 ^ 24 + 4 * 2 ^ 20, w1 := 0x0E, prod := 2, claim := 1, ents := [{ seq := 3, reply := some 7 }, { seq := 4 }] })).dev
    let n : Nat := 7
    let bytes : List Byte := [1,2,3]
    (d.q n).dedup = false ∧ (d.q n).spilling = false ∧ (d.q n).prod < 65536 ∧ (d.q n).cons < 65536 ∧ (d.q n).occupancy < 65535 ∧
      (d.hwStore 0xFE ((d.q n).slotAddr (d.q n).prod) (overlay bytes 6 [0])).1 = .ok := by decide +kernel

theorem witness_ConverterCompletes_0 :
    let s : State := (fld (fld (fld (fld (fld (fld s0 STATUS_enabled 1 0 0x030) CNV_SYN_en 1 0 0) CNV_SYN_locked 1 0 0) CNV_GRPg_en 1 0 0) CNV_GRPg_rate 5 0 0) CNV_GRPg_en 1 7 0)
    let r : Req := .refuge
    let g : Fin 8 := 7
    s.accepts r pgCNV 0x044 ∧ s.dev.flag CNV_TRAIN_busy = false ∧ s.dev.grpOn g = true := by decide +kernel

theorem witness_ConverterCompletes_1 :
    let s : State := (fld (fld (fld (fld (fld (fld (fld (fld s0 STATUS_enabled 1 0 0x030) CNV_SYN_en 1 0 0) CNV_SYN_locked 1 0 0) CNV_GRPg_en 1 2 0) CNV_GRPg_fmt 1 2 0) CNV_TRAIN_busy 1 0 0) CNV_TRAIN_group 2 0 0) CNV_TRAIN_pattern 0x3FFFF 0 0)
    let g : Nat := 2
    let caps : List CnvCapture := [⟨List.replicate 3 (BitVec.ofNat 64 (0x3FFFF * 2 ^ 31)), List.replicate 5 [] ++ List.replicate 9 [BitVec.ofNat 64 (0x3FFFF * 2 ^ 31)]⟩, ⟨List.replicate 3 (BitVec.ofNat 64 (0x3FFFF * 2 ^ 31)), List.replicate 5 [] ++ List.replicate 9 [BitVec.ofNat 64 (0x3FFFF * 2 ^ 31)]⟩, ⟨List.replicate 3 (BitVec.ofNat 64 (0x3FFFF * 2 ^ 31)), List.replicate 5 [] ++ List.replicate 9 [BitVec.ofNat 64 (0x3FFFF * 2 ^ 31)]⟩, ⟨List.replicate 3 (BitVec.ofNat 64 (0x3FFFF * 2 ^ 31)), List.replicate 5 [] ++ List.replicate 9 [BitVec.ofNat 64 (0x3FFFF * 2 ^ 31)]⟩]
    let a : Nat × Nat := (9, 31)
    let b : Nat × Nat := (9, 31)
    let c : Nat × Nat := (9, 31)
    let e : Nat × Nat := (9, 31)
    s.on ∧ s.dev.flag CNV_TRAIN_busy = true ∧ s.dev.rd CNV_TRAIN_group = g ∧
      (List.range 4).map (fun i => trainLane (if s.dev.rd CNV_GRPg_fmt g = 0 then 16 else 18) (s.dev.rd CNV_TRAIN_pattern) (caps.getD i ⟨[], []⟩)) = [some a, some b, some c, some e] := by
  decide +kernel

theorem witness_ConverterCompletes_2 :
    let s : State := (upd (fld (fld (fld (fld (fld (fld s0 STATUS_enabled 1 0 0x030) CNV_SYN_en 1 0 0) CNV_SYN_locked 1 0 0) CNV_GRPg_en 1 0 0) CNV_GRPg_rate 5 0 0) CNV_LANE_CFGn_en 1 0 0) (fun d => { d with cnv := { d.cnv with grps := d.cnv.grps.set 0 { next := some 0 } {}, lanes := d.cnv.lanes.set 0 { isSet := true } {} } }))
    let g : Fin 8 := 0
    let f : Nat := 0
    let sec : Nat := 0
    let k : Nat := 0
    let count : Nat := 0
    s.on ∧ s.dev.grpOn g = true ∧ s.dev.training g = false ∧ f < rateHz (s.dev.rd CNV_GRPg_rate g) ∧
      k < rateHz (s.dev.rd CNV_GRPg_rate g) ∧
      nominal16 (s.dev.taiNs / 1000000000) f (rateDiv (s.dev.rd CNV_GRPg_rate g)) ≤ s.dev.taiNs * 65536 ∧
      count = sec * rateHz (s.dev.rd CNV_GRPg_rate g) + k ∧
      count + s.dev.rd CNV_GRPg_pipe g = s.dev.taiNs / 1000000000 * rateHz (s.dev.rd CNV_GRPg_rate g) + f ∧
      s.dev.skipped (nominal16 sec k (rateDiv (s.dev.rd CNV_GRPg_rate g))) = false ∧ (s.dev.grp g).next = some count := by
  decide +kernel

theorem witness_ConverterCompletes_3 :
    let s : State := (fld (fld (fld s0 STATUS_enabled 1 0 0x030) CNV_SYN_en 1 0 0) CNV_SYN_locked 1 0 0)
    s.on ∧ s.dev.flag CNV_SYN_locked = true := by decide +kernel

theorem witness_ConverterCompletes_4 :
    let s : State := (fld s0 CNV_SYN_en 1 0 0)
    s.on ∧ s.dev.flag CNV_SYN_locked = false ∧ s.dev.flag CNV_SYN_en = true := by decide +kernel

theorem witness_ConverterCompletes_5 :
    let s : State := s0
    let r : Req := .refuge
    let g : Fin 8 := 7
    let v : Word := 0x80000005
    s.accepts r pgCNV (0x080 + 4 * g) ∧ s.dev.flag CNV_GRPg_en g = false ∧ framingOk v.toNat = true := by decide +kernel

theorem witness_ConverterCompletes_6 :
    let s : State := (fld (fld (fld s0 STATUS_enabled 1 0 0x030) CNV_SYN_en 1 0 0) CNV_SYN_locked 1 0 0)
    let r : Req := .refuge
    let n : Fin 32 := 31
    s.accepts r pgCNV (0x100 + 4 * n) ∧ s.dev.flag CNV_GRPg_en (n / 4) = false := by decide +kernel

theorem witness_ConverterCompletes_7 :
    let s : State := (fld (fld (fld (fld (fld (fld s0 STATUS_enabled 1 0 0x030) CNV_SYN_en 1 0 0) CNV_SYN_locked 1 0 0) CNV_GRPg_en 1 0 0) CNV_GRPg_rate 5 0 0) CNV_PUB_LENp_tpl_len 1024 7 0)
    let r : Req := .refuge
    let p : Fin 8 := 7
    let v : Word := 0
    s.accepts r pgCNV (0x400 + 0x20 * p) ∧ s.dev.flag CNV_PUB_CFGp_en p = false ∧ s.dev.pubBad p (v.toNat ||| 2 ^ 31) = false := by
  decide +kernel

theorem witness_ConverterCompletes_8 :
    let s : State := (fld (fld s0 CNV_TPL_SEL_word 255 0 0) CNV_TPL_SEL_pub 7 0 0)
    let r : Req := .refuge
    let k : Nat := 2047
    s.accepts r pgCNV 0x504 ∧ k = 256 * s.dev.rd CNV_TPL_SEL_pub + s.dev.rd CNV_TPL_SEL_word := by decide +kernel

theorem witness_ConverterCompletes_9 :
    let s : State := (fld (fld s0 CNV_TPL_SEL_word 255 0 0) CNV_TPL_SEL_pub 7 0 0)
    let r : Req := .refuge
    let k : Nat := 2047
    s.acceptsRead r pgCNV 0x504 ∧ k = 256 * s.dev.rd CNV_TPL_SEL_pub + s.dev.rd CNV_TPL_SEL_word := by decide +kernel

theorem witness_ConverterCompletes_10 :
    let s : State := (upd (fld (fld s0 RSM_CTX_W0_valid 1 0 11) RSM_CTX_W0_queue 7 0 11) (fun d => d.setQ 7 { known := true, w0 := 2 ^ 31 + 8 * 2 ^ 24 + 4 * 2 ^ 20, enabled := true }))
    let r : Req := .refuge
    let u : Fin 12 := 11
    let k : Nat := rsmKey 11 0
    let c : RsmCtx := { w0 := 2 ^ 31 + 7 }
    s.accepts r (pgRSM + u) 0x044 ∧ k = rsmKey u (s.dev.rd RSM_CTX_SEL_ctx 0 u) ∧ s.dev.rsmStaged u = c ∧ c.valid = true ∧
      s.dev.rsmBad c = false ∧
      (((s.dev.rsmUnit u).filter (fun e => e.1 != k)).foldl (fun n e => n + s.dev.rsmLoadIn e.2) (s.dev.rsmLoadIn c)) ≤ 200000000 ∧ (((s.dev.rsmUnit u).filter (fun e => e.1 != k)).foldl (fun n e => n + rsmLoadOut e.2) (rsmLoadOut c)) ≤ 25000000 := by
  decide +kernel

theorem witness_ConverterCompletes_11 :
    let s : State := (fld s0 RSM_CTX_SEL_ctx 31 0 11)
    let r : Req := .refuge
    let u : Fin 12 := 11
    s.accepts r (pgRSM + u) 0x044 ∧ (s.dev.rsmStaged u).valid = false := by decide +kernel

theorem witness_ConverterCompletes_12 :
    let s : State := (fld s0 RSM_CTX_SEL_ctx 31 0 11)
    let r : Req := .refuge
    let u : Fin 12 := 11
    s.accepts r (pgRSM + u) 0x044 := by decide +kernel

theorem witness_ConverterCompletes_13 :
    let s : State := (upd (fld s0 RSM_CTX_SEL_ctx 31 0 3) (fun d => d.setRsm (rsmKey 3 31) { w0 := 2 ^ 31 + 7 }))
    let r : Req := .refuge
    let u : Fin 12 := 3
    let c : RsmCtx := { w0 := 2 ^ 31 + 7 }
    s.accepts r (pgRSM + u) 0x044 ∧ s.dev.rsmCtx (rsmKey u (s.dev.rd RSM_CTX_SEL_ctx 0 u)) = c := by decide +kernel

theorem witness_ConverterCompletes_14 :
    let s : State := (upd (fld (fld (fld (fld (fld s0 STATUS_enabled 1 0 0x030) CNV_SYN_en 1 0 0) CNV_SYN_locked 1 0 0) CNV_GRPg_en 1 0 0) CNV_GRPg_rate 5 0 0) (fun d => (d.setQ 7 { known := true, w0 := 2 ^ 31 + 8 * 2 ^ 24 + 4 * 2 ^ 20, enabled := true }).setWfc 63 { w0 := 2 ^ 31 + 2 ^ 29 + 7, w2 := 1, chans := [(0, [{ base := 0, vals := List.replicate 64 5 }])] }))
    let k : Fin 64 := 63
    let c : WfcCtx := { w0 := 2 ^ 31 + 2 ^ 29 + 7, w2 := 1, chans := [(0, [{ base := 0, vals := List.replicate 64 5 }])] }
    let outs : List (List (Nat × List Int)) := [[(0, List.replicate 64 5)]]
    let n : Nat := 0
    let last : Nat := 64
    s.on ∧ s.dev.wfcCtx k = c ∧ c.valid = true ∧ c.kind = 1 ∧ outs = c.lanes.map c.outRuns ∧ n = c.frameStart outs ∧
      last = n + 64 * c.blocks ∧ s.dev.wfcReady c n = true := by decide +kernel

theorem witness_ConverterCompletes_15 :
    let s : State := (upd s0 (fun d => (d.setQ 7 { known := true, w0 := 2 ^ 31 + 8 * 2 ^ 24 + 4 * 2 ^ 20, enabled := true }).setWfc 63 { w0 := 2 ^ 31 + 7, jobs := [⟨false, List.replicate 30 0, [7], 0, 0⟩] }))
    let k : Fin 64 := 63
    let j : WfcJob := ⟨false, List.replicate 30 0, [7], 0, 0⟩
    let js : List WfcJob := []
    s.on ∧ (s.dev.wfcCtx k).jobs = j :: js ∧ (s.dev.wfcCtx k).next = none ∧ j.decode = false ∧ (s.dev.wfcCtx k).mode ≠ 3 := by
  decide +kernel

theorem witness_ConverterCompletes_16 :
    let s : State := (upd s0 (fun d => (d.setQ 7 { known := true, w0 := 2 ^ 31 + 8 * 2 ^ 24 + 4 * 2 ^ 20, enabled := true }).setWfc 63 { w0 := 2 ^ 31 + 3 * 2 ^ 27 + 2 ^ 23 + 7, jobs := [⟨false, List.replicate 30 0, [7], 0, 0⟩] }))
    let k : Fin 64 := 63
    let j : WfcJob := ⟨false, List.replicate 30 0, [7], 0, 0⟩
    let js : List WfcJob := []
    s.on ∧ (s.dev.wfcCtx k).jobs = j :: js ∧ (s.dev.wfcCtx k).next = none ∧ j.decode = false ∧ (s.dev.wfcCtx k).mode = 3 := by
  decide +kernel

theorem witness_ConverterCompletes_17 :
    let s : State := (upd s0 (fun d => (d.setQ 7 { known := true, w0 := 2 ^ 31 + 8 * 2 ^ 24 + 4 * 2 ^ 20, enabled := true }).setWfc 63 { w0 := 2 ^ 31 + 7, jobs := [⟨true, [0, 1] ++ List.replicate 28 0, [7], 0, 0⟩] }))
    let k : Fin 64 := 63
    let j : WfcJob := ⟨true, [0, 1] ++ List.replicate 28 0, [7], 0, 0⟩
    let js : List WfcJob := []
    let bs : List (List Int) := []
    s.on ∧ (s.dev.wfcCtx k).jobs = j :: js ∧ (s.dev.wfcCtx k).next = none ∧ j.decode = true ∧ (parsePyrlon j.pdu).mode ≠ 0 ∧
      decodeBlocks (parsePyrlon j.pdu).mode (parsePyrlon j.pdu).order (parsePyrlon j.pdu).k (parsePyrlon j.pdu).bits ((parsePyrlon j.pdu).chans * (parsePyrlon j.pdu).blocks) (slice j.pdu 0x1E (parsePyrlon j.pdu).len) = .ok bs := by
  decide +kernel

theorem witness_ConverterCompletes_18 :
    let s : State := (upd (fld (fld (fld s0 WFC_CTX_SEL_ctx 63 0 0) WFC_CTX_W0_valid 1 0 0) WFC_CTX_W0_queue 7 0 0) (fun d => d.setQ 7 { known := true, w0 := 2 ^ 31 + 8 * 2 ^ 24 + 4 * 2 ^ 20, enabled := true }))
    let r : Req := .refuge
    let k : Nat := 63
    let c : WfcCtx := { w0 := 2 ^ 31 + 7 }
    s.accepts r pgWFC 0x044 ∧ s.dev.rd WFC_CTX_SEL_ctx = k ∧ s.dev.wfcStaged = c ∧ c.valid = true ∧ s.dev.wfcBad c = false ∧
      ((s.dev.wfc.ctx.filter (fun e => e.1 != k)).foldl (fun n e => n + s.dev.wfcLoadOf e.2.coming) (s.dev.wfcLoadOf c)) ≤ 11370000000 := by
  decide +kernel

theorem witness_ConverterCompletes_19 :
    let s : State := (fld s0 WFC_CTX_SEL_ctx 63 0 0)
    let r : Req := .refuge
    s.accepts r pgWFC 0x044 := by decide +kernel

theorem witness_ConverterCompletes_20 :
    let s : State := (upd (fld s0 WFC_CTX_SEL_ctx 63 0 0) (fun d => d.setWfc 63 { w0 := 2 ^ 31 + 7, w3 := 5 }))
    let r : Req := .refuge
    let c : WfcCtx := { w0 := 2 ^ 31 + 7, w3 := 5 }
    s.accepts r pgWFC 0x044 ∧ (s.dev.wfcCtx (s.dev.rd WFC_CTX_SEL_ctx)).coming = c := by decide +kernel

theorem witness_ConverterCompletes_21 :
    let s : State := (fld (fld s0 WFC_CTX_SEL_ctx 63 0 0) WFC_HDR_SEL_word 7 0 0)
    let r : Req := .refuge
    let k : Nat := 63
    s.accepts r pgWFC 0x064 ∧ s.dev.rd WFC_CTX_SEL_ctx = k ∧ (((s.dev.wfcCtx k).valid = false ∨ (s.dev.wfcCtx k).kind ≠ 1)) ∧
      (((s.dev.wfcCtx k).coming.valid = false ∨ (s.dev.wfcCtx k).coming.kind ≠ 1)) := by decide +kernel

theorem witness_ConverterCompletes_22 :
    let s : State := (fld (fld s0 WFC_CTX_SEL_ctx 63 0 0) WFC_HDR_SEL_word 7 0 0)
    let r : Req := .refuge
    let k : Nat := 63
    s.acceptsRead r pgWFC 0x064 ∧ s.dev.rd WFC_CTX_SEL_ctx = k := by decide +kernel

theorem witness_CodedFramesDecode_0 :
    let mode : Nat := 0
    let p : Nat := 0
    let width : Nat := 0
    let bs : List (List Int) := [(List.range 64).map (fun i => ((i * 977 : Nat) : Int) % 65536 - 32768)]
    p ≤ 3 ∧ width ≤ 1 ∧ ((∀ b ∈ bs, b.length = 64 ∧ ∀ x ∈ b, -(2 ^ ((if width = 0 then 16 else 18) - 1) : Int) ≤ x ∧
      x < 2 ^ ((if width = 0 then 16 else 18) - 1))) ∧ mode = 0 := by decide +kernel

theorem witness_CodedFramesDecode_1 :
    let mode : Nat := 1
    let p : Nat := 2
    let width : Nat := 0
    let bs : List (List Int) := [(List.range 64).map (fun i => ((i * 977 : Nat) : Int) % 65536 - 32768)]
    p ≤ 3 ∧ width ≤ 1 ∧ ((∀ b ∈ bs, b.length = 64 ∧ ∀ x ∈ b, -(2 ^ ((if width = 0 then 16 else 18) - 1) : Int) ≤ x ∧
      x < 2 ^ ((if width = 0 then 16 else 18) - 1))) ∧ ((mode = 1 ∨ mode = 3)) := by decide +kernel

-- ScalarArithmetic 0 to 10; ScalarLogic 0 to 18; ScalarShifts 0 to 5; ScalarMoves 0 to 6; ScalarMac 0 to 8; VectorAlu 0 to 11, 15, 16; VectorMac 0 to 5
theorem witness_ScalarArithmetic_0 :
    let s : State := (eng { eng0 with fl := 0 } 95)
    let e : Fin 96 := 95
    s.issues e := by decide +kernel

theorem witness_ScalarLogic_19 :
    let s : State := (eng { eng0 with fl := 0 } 95)
    let e : Fin 96 := 95
    let rs : Fin 32 := 1
    let sa : Fin 32 := 0
    let r : Word := BitVec.ofNat 32 ((List.range 32).foldl (fun m i => m + (if decide (i ≤ 0) && (gens.getD 0 0).getLsbD (0 - i) then 2 ^ i else 0)) 0)
    s.issues e ∧ (∀ i : Fin 32, r.getLsbD i = (decide (i.val ≤ sa.val) && ((s.dev.engOf e).read rs).getLsbD (sa - i))) := by
  decide +kernel

-- VectorAlu 12 to 14
theorem witness_VectorAlu_12 :
    let s : State := (eng { eng0 with fl := 0 } 95)
    let e : Fin 96 := 95
    let sz : Bool := false
    let sh : Fin 64 := 0
    s.issues e ∧ sh.val < elW sz := by decide +kernel

-- VectorAlu 17, 18
theorem witness_VectorAlu_17 :
    let s : State := (eng { eng0 with fl := 0 } 95)
    let e : Fin 96 := 95
    let idx : Fin 8 := 0
    let sz : Bool := false
    s.issues e ∧ idx.val < elN sz := by decide +kernel

theorem witness_VectorMac_6 :
    let s : State := (eng { eng0 with fl := 0 } 95)
    let e : Fin 96 := 95
    let sh : Fin 64 := 0
    s.issues e ∧ sh.val ≤ 16 := by decide +kernel

theorem witness_VectorElements_0 :
    let sz : Bool := true
    let l : List Int := [1,-2,3,-4,32767,-32768,40000,-1]
    let i : Nat := 7
    l.length = elN sz ∧ i < elN sz := by decide +kernel

-- ScalarMemoryCompletes 0 to 7
theorem witness_ScalarMemoryCompletes_0 :
    let s : State := (upd (eng eng0 95) (fun d => d.store (engData 95 + 0x40) ((List.range 200).map (fun i => BitVec.ofNat 8 (i * 37 + 11))) |>.store (engData 95 + 0x1000) ((List.range 200).map (fun i => BitVec.ofNat 8 (i * 37 + 11))) |>.store (engData 95 + 0x2000) ((List.range 200).map (fun i => BitVec.ofNat 8 (i * 29 + 11)))))
    let e : Fin 96 := 95
    s.issues e := by decide +kernel

-- GeneratorMemoryCompletes 0, 1
theorem witness_GeneratorMemoryCompletes_0 :
    let s : State := (upd (eng eng0 95) (fun d => d.store (engData 95 + 0x40) ((List.range 200).map (fun i => BitVec.ofNat 8 (i * 37 + 11))) |>.store (engData 95 + 0x1000) ((List.range 200).map (fun i => BitVec.ofNat 8 (i * 37 + 11))) |>.store (engData 95 + 0x2000) ((List.range 200).map (fun i => BitVec.ofNat 8 (i * 29 + 11)))))
    let e : Fin 96 := 95
    let m : Fin 8 := 0
    s.issues e ∧ (s.dev.gen e m).valid = true := by decide +kernel

theorem witness_GeneratorMemoryCompletes_2 :
    let s : State := (upd (eng eng0 95) (fun d => d.store (engData 95 + 0x40) ((List.range 200).map (fun i => BitVec.ofNat 8 (i * 37 + 11))) |>.store (engData 95 + 0x1000) ((List.range 200).map (fun i => BitVec.ofNat 8 (i * 37 + 11))) |>.store (engData 95 + 0x2000) ((List.range 200).map (fun i => BitVec.ofNat 8 (i * 29 + 11)))))
    let e : Fin 96 := 95
    let m : Fin 8 := 0
    let sz : Bool := false
    let v : MemEnv := ⟨false, 0, [], []⟩
    s.issues e ∧ (s.dev.gen e m).valid = true ∧ (s.dev.gen e m).circular = false ∧
      (s.dev.gen e m).misaligned (elW sz / 8) = none ∧ (s.dev.cleared.engLoad e (s.dev.gen e m).addr 16 v).1 = .ok := by
  decide +kernel

theorem witness_GeneratorMemoryCompletes_3 :
    let s : State := (upd (eng eng0 95) (fun d => d.store (engData 95 + 0x40) ((List.range 200).map (fun i => BitVec.ofNat 8 (i * 37 + 11))) |>.store (engData 95 + 0x1000) ((List.range 200).map (fun i => BitVec.ofNat 8 (i * 37 + 11))) |>.store (engData 95 + 0x2000) ((List.range 200).map (fun i => BitVec.ofNat 8 (i * 29 + 11)))))
    let e : Fin 96 := 95
    let m : Fin 8 := 1
    let sz : Bool := false
    let v : MemEnv := ⟨false, 0, [], []⟩
    s.issues e ∧ (s.dev.gen e m).valid = true ∧ (s.dev.gen e m).circular = true ∧
      (s.dev.gen e m).misaligned (elW sz / 8) = none ∧
      (s.dev.cleared.loadElements e (elW sz / 8) v ((s.dev.gen e m).elements (elW sz / 8))).1 = .ok := by decide +kernel

theorem witness_GeneratorMemoryCompletes_4 :
    let s : State := (upd (eng eng0 95) (fun d => d.store (engData 95 + 0x40) ((List.range 200).map (fun i => BitVec.ofNat 8 (i * 37 + 11))) |>.store (engData 95 + 0x1000) ((List.range 200).map (fun i => BitVec.ofNat 8 (i * 37 + 11))) |>.store (engData 95 + 0x2000) ((List.range 200).map (fun i => BitVec.ofNat 8 (i * 29 + 11)))))
    let e : Fin 96 := 95
    let vd : Fin 16 := 2
    let m : Fin 8 := 0
    let sz : Bool := false
    let v : MemEnv := ⟨false, 0, [], []⟩
    s.issues e ∧ (s.dev.gen e m).valid = true ∧ (s.dev.gen e m).circular = false ∧
      (s.dev.gen e m).misaligned (elW sz / 8) = none ∧
      (s.dev.cleared.engStore e (s.dev.gen e m).addr (leBytes (s.dev.vr e vd).toNat 16) (laterOf v s.rr (.eng e))).1 = .ok := by
  decide +kernel

theorem witness_GeneratorMemoryCompletes_5 :
    let s : State := (upd (eng eng0 95) (fun d => d.store (engData 95 + 0x40) ((List.range 200).map (fun i => BitVec.ofNat 8 (i * 37 + 11))) |>.store (engData 95 + 0x1000) ((List.range 200).map (fun i => BitVec.ofNat 8 (i * 37 + 11))) |>.store (engData 95 + 0x2000) ((List.range 200).map (fun i => BitVec.ofNat 8 (i * 29 + 11)))))
    let e : Fin 96 := 95
    let m : Fin 8 := 1
    let sz : Bool := false
    s.issues e ∧ (s.dev.gen e m).valid = true ∧ (s.dev.gen e m).circular = true ∧
      (s.dev.gen e m).misaligned (elW sz / 8) = none ∧ (∀ a ∈ (s.dev.gen e m).elements (elW sz / 8), a + elW sz / 8 ≤ 0x20000) := by
  decide +kernel

theorem witness_GeneratorMemoryCompletes_6 :
    let s : State := (upd (eng eng0 95) (fun d => d.store (engData 95 + 0x40) ((List.range 200).map (fun i => BitVec.ofNat 8 (i * 37 + 11))) |>.store (engData 95 + 0x1000) ((List.range 200).map (fun i => BitVec.ofNat 8 (i * 37 + 11))) |>.store (engData 95 + 0x2000) ((List.range 200).map (fun i => BitVec.ofNat 8 (i * 29 + 11)))))
    let e : Fin 96 := 95
    let m : Fin 8 := 0
    let sz : Bool := false
    let v : MemEnv := ⟨false, 0, [], []⟩
    s.issues e ∧ (s.dev.gen e m).valid = true ∧ (s.dev.gen e m).addr % (elW sz / 8) = 0 ∧
      (s.dev.cleared.engLoad e (s.dev.gen e m).addr (elW sz / 8) v).1 = .ok := by decide +kernel

theorem witness_GeneratorMemoryCompletes_7 :
    let s : State := (upd (eng eng0 95) (fun d => d.store (engData 95 + 0x40) ((List.range 200).map (fun i => BitVec.ofNat 8 (i * 37 + 11))) |>.store (engData 95 + 0x1000) ((List.range 200).map (fun i => BitVec.ofNat 8 (i * 37 + 11))) |>.store (engData 95 + 0x2000) ((List.range 200).map (fun i => BitVec.ofNat 8 (i * 29 + 11)))))
    let e : Fin 96 := 95
    let rs : Fin 32 := 10
    let rt : Fin 32 := 6
    let v : MemEnv := ⟨false, 0, [], []⟩
    let w : MemEnv := { laterOf v s.rr (.eng e) with parity := false, ecc := 0 }
    let a : Nat := (s.dev.gr e rs).toNat
    s.issues e ∧ a % 4 = 0 ∧ ((a < 0x20000 ∨ 0x100000 ≤ a ∧ a < 0x200000)) ∧ (s.dev.cleared.engLoad e a 4 v).1 = .ok ∧
      ((s.dev.cleared.engLoad e a 4 v).2.2.engStore e a (leBytes (s.dev.gr e rt).toNat 4) w).1 = .ok := by decide +kernel

theorem witness_GeneratorMemoryCompletes_8 :
    let s : State := (upd (eng eng0 95) (fun d => d.store (engData 95 + 0x40) ((List.range 200).map (fun i => BitVec.ofNat 8 (i * 37 + 11))) |>.store (engData 95 + 0x1000) ((List.range 200).map (fun i => BitVec.ofNat 8 (i * 37 + 11))) |>.store (engData 95 + 0x2000) ((List.range 200).map (fun i => BitVec.ofNat 8 (i * 29 + 11)))))
    let e : Fin 96 := 95
    let rs : Fin 32 := 10
    let rt : Fin 32 := 6
    let v : MemEnv := ⟨false, 0, [], []⟩
    let w : MemEnv := { laterOf v s.rr (.eng e) with parity := false, ecc := 0 }
    let a : Nat := (s.dev.gr e rs).toNat
    let b : List Byte := leBytes (BitVec.ofNat 32 (s.dev.cleared.engLoad e a 4 v).2.1 + s.dev.gr e rt).toNat 4
    s.issues e ∧ a % 4 = 0 ∧ ((a < 0x20000 ∨ 0x100000 ≤ a ∧ a < 0x200000)) ∧ (s.dev.cleared.engLoad e a 4 v).1 = .ok ∧
      ((s.dev.cleared.engLoad e a 4 v).2.2.engStore e a b w).1 = .ok := by decide +kernel

theorem witness_GeneratorMemoryCompletes_9 :
    let s : State := (upd (upd (eng eng0 95) (fun d => d.store (engData 95 + 0x40) ((List.range 200).map (fun i => BitVec.ofNat 8 (i * 37 + 11))) |>.store (engData 95 + 0x1000) ((List.range 200).map (fun i => BitVec.ofNat 8 (i * 37 + 11))) |>.store (engData 95 + 0x2000) ((List.range 200).map (fun i => BitVec.ofNat 8 (i * 29 + 11))))) (fun d => d.store (engData 95 + 0x40) (leBytes 0xDEADBEEF 4)))
    let e : Fin 96 := 95
    let rd : Fin 32 := 9
    let rs : Fin 32 := 10
    let rt : Fin 32 := 6
    let v : MemEnv := ⟨false, 0, [], []⟩
    let w : MemEnv := { laterOf v s.rr (.eng e) with parity := false, ecc := 0 }
    let a : Nat := (s.dev.gr e rs).toNat
    s.issues e ∧ a % 4 = 0 ∧ ((a < 0x20000 ∨ 0x100000 ≤ a ∧ a < 0x200000)) ∧ (s.dev.cleared.engLoad e a 4 v).1 = .ok ∧
      BitVec.ofNat 32 (s.dev.cleared.engLoad e a 4 v).2.1 = s.dev.gr e rd ∧
      ((s.dev.cleared.engLoad e a 4 v).2.2.engStore e a (leBytes (s.dev.gr e rt).toNat 4) w).1 = .ok := by decide +kernel

theorem witness_GeneratorMemoryCompletes_10 :
    let s : State := (upd (eng eng0 95) (fun d => d.store (engData 95 + 0x40) ((List.range 200).map (fun i => BitVec.ofNat 8 (i * 37 + 11))) |>.store (engData 95 + 0x1000) ((List.range 200).map (fun i => BitVec.ofNat 8 (i * 37 + 11))) |>.store (engData 95 + 0x2000) ((List.range 200).map (fun i => BitVec.ofNat 8 (i * 29 + 11)))))
    let e : Fin 96 := 95
    let rd : Fin 32 := 9
    let rs : Fin 32 := 10
    let v : MemEnv := ⟨false, 0, [], []⟩
    let a : Nat := (s.dev.gr e rs).toNat
    s.issues e ∧ a % 4 = 0 ∧ ((a < 0x20000 ∨ 0x100000 ≤ a ∧ a < 0x200000)) ∧ (s.dev.cleared.engLoad e a 4 v).1 = .ok ∧
      BitVec.ofNat 32 (s.dev.cleared.engLoad e a 4 v).2.1 ≠ s.dev.gr e rd := by decide +kernel

theorem witness_GeneratorMemoryCompletes_11 :
    let s : State := (fld (upd (upd (eng eng0 95) (fun d => d.store (engData 95 + 0x40) ((List.range 200).map (fun i => BitVec.ofNat 8 (i * 37 + 11))) |>.store (engData 95 + 0x1000) ((List.range 200).map (fun i => BitVec.ofNat 8 (i * 37 + 11))) |>.store (engData 95 + 0x2000) ((List.range 200).map (fun i => BitVec.ofNat 8 (i * 29 + 11))))) (fun d => d.setEng 3 eng0)) ENG_STATE_state 1 0 3)
    let x : Atomic := ⟨0, 3, 9, 10, 6, ⟨false, 0, [], []⟩⟩
    let y : Atomic := ⟨1, 95, 9, 10, 6, ⟨false, 0, [], []⟩⟩
    s.on ∧ rank s.rr (.eng x.e) < rank s.rr (.eng y.e) ∧ x.op = 0 := by decide +kernel

theorem witness_GeneratorMemoryCompletes_12 :
    let s : State := (fld (upd (upd (eng eng0 95) (fun d => d.store (engData 95 + 0x40) ((List.range 200).map (fun i => BitVec.ofNat 8 (i * 37 + 11))) |>.store (engData 95 + 0x1000) ((List.range 200).map (fun i => BitVec.ofNat 8 (i * 37 + 11))) |>.store (engData 95 + 0x2000) ((List.range 200).map (fun i => BitVec.ofNat 8 (i * 29 + 11))))) (fun d => d.setEng 3 eng0)) ENG_STATE_state 1 0 3)
    let x : Atomic := ⟨1, 3, 9, 10, 6, ⟨false, 0, [], []⟩⟩
    let y : Atomic := ⟨0, 95, 9, 10, 6, ⟨false, 0, [], []⟩⟩
    s.on ∧ rank s.rr (.eng x.e) < rank s.rr (.eng y.e) ∧ y.op = 0 := by decide +kernel

theorem witness_GeneratorMemoryCompletes_13 :
    let s : State := (fld (upd (upd (eng eng0 95) (fun d => d.store (engData 95 + 0x40) ((List.range 200).map (fun i => BitVec.ofNat 8 (i * 37 + 11))) |>.store (engData 95 + 0x1000) ((List.range 200).map (fun i => BitVec.ofNat 8 (i * 37 + 11))) |>.store (engData 95 + 0x2000) ((List.range 200).map (fun i => BitVec.ofNat 8 (i * 29 + 11))))) (fun d => d.setEng 3 eng0)) ENG_STATE_state 1 0 3)
    let x : Atomic := ⟨1, 3, 9, 10, 6, ⟨false, 0, [], []⟩⟩
    let y : Atomic := ⟨0, 95, 9, 10, 6, ⟨false, 0, [], []⟩⟩
    s.on ∧ rank s.rr (.eng x.e) < rank s.rr (.eng y.e) ∧ x.op = 1 := by decide +kernel

theorem witness_GeneratorMemoryCompletes_14 :
    let s : State := (fld (upd (upd (eng eng0 95) (fun d => d.store (engData 95 + 0x40) ((List.range 200).map (fun i => BitVec.ofNat 8 (i * 37 + 11))) |>.store (engData 95 + 0x1000) ((List.range 200).map (fun i => BitVec.ofNat 8 (i * 37 + 11))) |>.store (engData 95 + 0x2000) ((List.range 200).map (fun i => BitVec.ofNat 8 (i * 29 + 11))))) (fun d => d.setEng 3 eng0)) ENG_STATE_state 1 0 3)
    let x : Atomic := ⟨2, 3, 9, 10, 6, ⟨false, 0, [], []⟩⟩
    let y : Atomic := ⟨1, 95, 9, 10, 6, ⟨false, 0, [], []⟩⟩
    s.on ∧ rank s.rr (.eng x.e) < rank s.rr (.eng y.e) ∧ y.op = 1 := by decide +kernel

theorem witness_GeneratorMemoryCompletes_15 :
    let s : State := (fld (upd (upd (eng eng0 95) (fun d => d.store (engData 95 + 0x40) ((List.range 200).map (fun i => BitVec.ofNat 8 (i * 37 + 11))) |>.store (engData 95 + 0x1000) ((List.range 200).map (fun i => BitVec.ofNat 8 (i * 37 + 11))) |>.store (engData 95 + 0x2000) ((List.range 200).map (fun i => BitVec.ofNat 8 (i * 29 + 11))))) (fun d => d.setEng 3 eng0)) ENG_STATE_state 1 0 3)
    let x : Atomic := ⟨2, 3, 9, 10, 6, ⟨false, 0, [], []⟩⟩
    let y : Atomic := ⟨0, 95, 9, 10, 6, ⟨false, 0, [], []⟩⟩
    s.on ∧ rank s.rr (.eng x.e) < rank s.rr (.eng y.e) ∧ x.op = 2 := by decide +kernel

theorem witness_GeneratorMemoryCompletes_16 :
    let s : State := (fld (upd (upd (eng eng0 95) (fun d => d.store (engData 95 + 0x40) ((List.range 200).map (fun i => BitVec.ofNat 8 (i * 37 + 11))) |>.store (engData 95 + 0x1000) ((List.range 200).map (fun i => BitVec.ofNat 8 (i * 37 + 11))) |>.store (engData 95 + 0x2000) ((List.range 200).map (fun i => BitVec.ofNat 8 (i * 29 + 11))))) (fun d => d.setEng 3 eng0)) ENG_STATE_state 1 0 3)
    let x : Atomic := ⟨0, 3, 9, 10, 6, ⟨false, 0, [], []⟩⟩
    let y : Atomic := ⟨2, 95, 9, 10, 6, ⟨false, 0, [], []⟩⟩
    s.on ∧ rank s.rr (.eng x.e) < rank s.rr (.eng y.e) ∧ y.op = 2 := by decide +kernel

theorem witness_DataMemory_0 :
    let n : Nat := 8
    let d : Dev := (upd s0 (fun d => d.store (engData 3 + 64) [1,2,3,4,5])).dev
    let e : Fin 96 := 3
    let a : Nat := 64
    memWf d.mem = true ∧ d.initStatus 1 = .ok ∧ 0 < n ∧ a + n ≤ 0x20000 ∧ d.firstBad 1 (engData e + a) n = none := by decide +kernel

theorem witness_DataMemory_1 :
    let d : Dev := (upd s0 (fun d => d.store (engData 3 + 64) [1,2,3,4,5])).dev
    let e : Fin 96 := 3
    let a : Nat := 66
    let b : List Byte := [9,0,9,0]
    memWf d.mem = true ∧ d.initStatus 1 = .ok ∧ 0 < b.length ∧ a + b.length ≤ 0x20000 ∧
      d.firstBad 1 (engData e + a) b.length = none := by decide +kernel

-- AccessesTrap 0, 1
theorem witness_AccessesTrap_0 :
    let s : State := (upd (eng eng0 95) (fun d => d.store (engData 95 + 0x40) ((List.range 200).map (fun i => BitVec.ofNat 8 (i * 37 + 11))) |>.store (engData 95 + 0x1000) ((List.range 200).map (fun i => BitVec.ofNat 8 (i * 37 + 11))) |>.store (engData 95 + 0x2000) ((List.range 200).map (fun i => BitVec.ofNat 8 (i * 29 + 11)))))
    let e : Fin 96 := 95
    let rs : Fin 32 := 10
    let imm : BitVec 12 := 3
    let a : Nat := (s.dev.gr e rs + imm.signExtend 32).toNat
    s.issues e ∧ a % 4 ≠ 0 := by decide +kernel

-- AccessesTrap 2 to 4
theorem witness_AccessesTrap_2 :
    let s : State := (upd (eng eng0 95) (fun d => d.store (engData 95 + 0x40) ((List.range 200).map (fun i => BitVec.ofNat 8 (i * 37 + 11))) |>.store (engData 95 + 0x1000) ((List.range 200).map (fun i => BitVec.ofNat 8 (i * 37 + 11))) |>.store (engData 95 + 0x2000) ((List.range 200).map (fun i => BitVec.ofNat 8 (i * 29 + 11)))))
    let e : Fin 96 := 95
    let rs : Fin 32 := 10
    let imm : BitVec 12 := 3
    let a : Nat := (s.dev.gr e rs + imm.signExtend 32).toNat
    s.issues e ∧ a % 2 ≠ 0 := by decide +kernel

theorem witness_AccessesTrap_5 :
    let s : State := (eng { eng0 with g := [(1, 0x0FF00000)] } 95)
    let e : Fin 96 := 95
    let rs : Fin 32 := 1
    let imm : BitVec 12 := 0
    let v : MemEnv := ⟨false, 0, [], []⟩
    let a : Nat := (s.dev.gr e rs + imm.signExtend 32).toNat
    s.issues e ∧ a % 4 = 0 ∧ (s.dev.cleared.engLoad e a 4 v).1 ≠ .ok := by decide +kernel

theorem witness_AccessesTrap_6 :
    let s : State := (eng { eng0 with g := [(1, 0x0FF00000)] } 95)
    let e : Fin 96 := 95
    let rd : Fin 32 := 9
    let rs : Fin 32 := 1
    let imm : BitVec 12 := 0
    let v : MemEnv := ⟨false, 0, [], []⟩
    let a : Nat := (s.dev.gr e rs + imm.signExtend 32).toNat
    s.issues e ∧ a % 4 = 0 ∧ (s.dev.cleared.engStore e a (leBytes (s.dev.gr e rd).toNat 4) (laterOf v s.rr (.eng e))).1 ≠ .ok := by
  decide +kernel

-- AccessesTrap 7 to 11
theorem witness_AccessesTrap_7 :
    let s : State := (eng { eng0 with m := [(3, ⟨0, 0, 0, 0, 1⟩)] } 95)
    let e : Fin 96 := 95
    let m : Fin 8 := 3
    s.issues e ∧ (s.dev.gen e m).valid = false := by decide +kernel

-- AccessesTrap 12, 13
theorem witness_AccessesTrap_12 :
    let s : State := (eng { eng0 with m := [(3, ⟨0x101, 64, 8, 0, 0⟩)] } 95)
    let e : Fin 96 := 95
    let m : Fin 8 := 3
    let sz : Bool := true
    let a : Nat := 0x101
    s.issues e ∧ (s.dev.gen e m).valid = true ∧ (s.dev.gen e m).misaligned (elW sz / 8) = some a := by decide +kernel

theorem witness_AccessesTrap_14 :
    let s : State := (eng { eng0 with g := [(1, 0x20000)] } 95)
    let e : Fin 96 := 95
    let rs : Fin 32 := 1
    let a : Nat := (s.dev.gr e rs).toNat
    s.issues e ∧ a % 4 = 0 ∧ (¬(a < 0x20000 ∨ 0x100000 ≤ a ∧ a < 0x200000)) := by decide +kernel

theorem witness_AccessesTrap_15 :
    let s : State := (eng { eng0 with g := [(1, 0xFFFFC)] } 95)
    let e : Fin 96 := 95
    let rs : Fin 32 := 1
    let a : Nat := (s.dev.gr e rs).toNat
    s.issues e ∧ a % 4 = 0 ∧ (¬(a < 0x20000 ∨ 0x100000 ≤ a ∧ a < 0x200000)) := by decide +kernel

theorem witness_AccessesTrap_16 :
    let s : State := (eng { eng0 with g := [(1, 0x200000)] } 95)
    let e : Fin 96 := 95
    let rs : Fin 32 := 1
    let a : Nat := (s.dev.gr e rs).toNat
    s.issues e ∧ a % 4 = 0 ∧ (¬(a < 0x20000 ∨ 0x100000 ≤ a ∧ a < 0x200000)) := by decide +kernel

theorem witness_GeneratorInstructions_0 :
    let s : State := (eng eng0 95)
    let e : Fin 96 := 95
    let field : Fin 5 := 0
    let rs : Fin 32 := 1
    s.issues e ∧ ((field.val = 4 → (s.dev.gr e rs).toNat % 4 ≠ 3)) := by decide +kernel

theorem witness_GeneratorInstructions_1 :
    let s : State := (eng eng0 95)
    let e : Fin 96 := 95
    let rs : Fin 32 := 3
    s.issues e ∧ (s.dev.gr e rs).toNat % 4 = 3 := by decide +kernel

-- GeneratorInstructions 2; SystemRegisters 1, 4; ReleasesAndGatesComplete 4, 16, 17
theorem witness_GeneratorInstructions_2 :
    let s : State := (eng eng0 95)
    let e : Fin 96 := 95
    s.issues e := by decide +kernel

theorem witness_GeneratorInstructions_3 :
    let s : State := (eng eng0 95)
    let e : Fin 96 := 95
    let m : Fin 8 := 0
    s.issues e ∧ (s.dev.gen e m).mode ≠ 2 := by decide +kernel

theorem witness_GeneratorInstructions_4 :
    let s : State := (eng eng0 95)
    let e : Fin 96 := 95
    let m : Fin 8 := 2
    s.issues e ∧ (s.dev.gen e m).mode = 2 := by decide +kernel

theorem witness_GeneratorUpdate_0 :
    let x : Gen := ⟨0x2000, 64, 8, 8 * revLow 3 0, 2⟩
    x.valid = true := by decide +kernel

theorem witness_ControlTransfers_0 :
    let s : State := (eng { eng0 with fl := 3 } 95)
    let e : Fin 96 := 95
    let cond : Fin 16 := 15
    let disp : BitVec 21 := 5
    let t : Int := (s.dev.engOf e).pc + 2 * disp.toInt
    s.issues e ∧ Fl.holds (s.dev.flags e) cond = true ∧ s.dev.targetBad e t = false := by decide +kernel

theorem witness_ControlTransfers_1 :
    let s : State := (eng { eng0 with fl := 3 } 95)
    let e : Fin 96 := 95
    let cond : Fin 16 := 7
    s.issues e ∧ Fl.holds (s.dev.flags e) cond = false := by decide +kernel

theorem witness_ControlTransfers_2 :
    let s : State := (eng eng0 95)
    let e : Fin 96 := 95
    let disp : BitVec 20 := 5
    let t : Int := (s.dev.engOf e).pc + 2 * disp.toInt
    s.issues e ∧ s.dev.targetBad e t = false := by decide +kernel

theorem witness_ControlTransfers_3 :
    let s : State := (eng eng0 95)
    let e : Fin 96 := 95
    let rs : Fin 32 := 10
    let imm : BitVec 15 := 2
    let t : Nat := (s.dev.gr e rs + imm.signExtend 32).toNat
    s.issues e ∧ s.dev.targetBad e t = false := by decide +kernel

theorem witness_ControlTransfers_4 :
    let s : State := (eng eng0 95)
    let e : Fin 96 := 95
    let rs : Fin 32 := 10
    let t : Nat := (s.dev.gr e rs).toNat
    s.issues e ∧ s.dev.targetBad e t = false := by decide +kernel

theorem witness_ControlTransfers_5 :
    let s : State := (eng eng0 95)
    let e : Fin 96 := 95
    let rd : Fin 32 := 1
    let disp : BitVec 20 := 5
    let t : Int := (s.dev.engOf e).pc + 2 * disp.toInt
    s.issues e ∧ rd ≠ 0 ∧ s.dev.gr e rd ≠ 1 ∧ s.dev.targetBad e t = false := by decide +kernel

theorem witness_ControlTransfers_6 :
    let s : State := (eng eng0 95)
    let e : Fin 96 := 95
    let rd : Fin 32 := 0
    s.issues e ∧ ((rd = 0 ∨ s.dev.gr e rd = 1)) := by decide +kernel

theorem witness_ControlTransfers_7 :
    let s : State := (eng eng0 95)
    let e : Fin 96 := 95
    let disp : BitVec 20 := -200
    let t : Int := (s.dev.engOf e).pc + 2 * disp.toInt
    s.issues e ∧ s.dev.targetBad e t = true := by decide +kernel

theorem witness_ExceptionsEnterAndReturn_0 :
    let s : State := (eng eng0 95)
    let e : Fin 96 := 95
    s.issues e ∧ (s.dev.engOf e).hnd = false := by decide +kernel

theorem witness_ExceptionsEnterAndReturn_1 :
    let s : State := (eng eng0 95)
    let e : Fin 96 := 95
    let w : Word := 0xFFFFFFFC
    s.issues e ∧ (s.dev.engOf e).hnd = false ∧
      s.dev.cleared.execWord e (w.toNat / 4 * 4) (s.dev.engOf e).pc ((s.dev.engOf e).pc + 4) ⟨false, 0, [], []⟩ = none := by
  decide +kernel

theorem witness_ExceptionsEnterAndReturn_2 :
    let s : State := (eng { eng0 with aen := true, imask := 31, relq := [⟨1,2,false,0⟩] } 95)
    let e : Fin 96 := 95
    let c : Nat := 0x12
    s.on ∧ s.dev.engRunning e = true ∧ s.dev.takeable e = some c ∧ c ≠ 0x11 := by decide +kernel

theorem witness_ExceptionsEnterAndReturn_3 :
    let s : State := (eng { eng0 with aen := true, imask := 31, missed := [(3, 4)] } 95)
    let e : Fin 96 := 95
    let m : Nat × Nat := (3, 4)
    let ms : List (Nat × Nat) := []
    s.on ∧ s.dev.engRunning e = true ∧ s.dev.takeable e = some 0x11 ∧ (s.dev.engOf e).missed = m :: ms := by decide +kernel

theorem witness_ExceptionsEnterAndReturn_4 :
    let s : State := (eng { eng0 with hnd := true, paen := true, epc := 0x1234, plev := false } 95)
    let e : Fin 96 := 95
    s.issues e ∧ (s.dev.engOf e).super = true ∧ s.dev.targetBad e (s.dev.engOf e).epc = false := by decide +kernel

theorem witness_ExceptionsEnterAndReturn_5 :
    let s : State := (eng { eng0 with super := false } 95)
    let e : Fin 96 := 95
    s.issues e ∧ (s.dev.engOf e).super = false := by decide +kernel

theorem witness_ExceptionsEnterAndReturn_6 :
    let s : State := (eng { eng0 with hnd := true, epc := 5, ecause := 7, earg := 9 } 95)
    let e : Fin 96 := 95
    s.issues e ∧ (s.dev.engOf e).hnd = true := by decide +kernel

theorem witness_WaitForEvent_0 :
    let s : State := (eng { eng0 with imask := 4, relq := [⟨1,2,false,0⟩] } 95)
    let e : Fin 96 := 95
    s.issues e ∧ s.dev.ipend e &&& (s.dev.engOf e).imask ≠ 0 := by decide +kernel

theorem witness_WaitForEvent_1 :
    let s : State := (eng { eng0 with imask := 3, relq := [⟨1,2,false,0⟩] } 95)
    let e : Fin 96 := 95
    s.issues e ∧ s.dev.ipend e &&& (s.dev.engOf e).imask = 0 := by decide +kernel

theorem witness_WaitForEvent_2 :
    let s : State := (fld (eng { eng0 with imask := 3, relq := [⟨1,2,false,0⟩] } 95) ENG_STATE_state 2 0 95)
    let e : Fin 96 := 95
    s.on ∧ s.dev.engState e = 2 ∧ s.dev.ipend e &&& (s.dev.engOf e).imask = 0 := by decide +kernel

theorem witness_WaitForEvent_3 :
    let s : State := (fld (eng { eng0 with imask := 31, relq := [⟨1,2,false,0⟩], missed := [(3,4)], aen := true } 95) ENG_STATE_state 2 0 95)
    let e : Fin 96 := 95
    let k : Nat := 1
    s.on ∧ s.dev.engState e = 2 ∧ (s.dev.ipend e &&& (s.dev.engOf e).imask).testBit k = true ∧
      ((∀ j, j < k → (s.dev.ipend e &&& (s.dev.engOf e).imask).testBit j = false)) ∧ (s.dev.engOf e).aen = true ∧
      (s.dev.engOf e).hnd = false := by decide +kernel

theorem witness_WaitForEvent_4 :
    let s : State := (fld (eng { eng0 with imask := 31, relq := [⟨1,2,false,0⟩], missed := [(3,4)], aen := true, hnd := true } 95) ENG_STATE_state 2 0 95)
    let e : Fin 96 := 95
    s.on ∧ s.dev.engState e = 2 ∧ s.dev.ipend e &&& (s.dev.engOf e).imask ≠ 0 ∧
      (((s.dev.engOf e).aen = false ∨ (s.dev.engOf e).hnd = true)) := by decide +kernel

theorem witness_SystemRegisters_0 :
    let s : State := (eng { eng0 with epc := 0x1234 } 95)
    let e : Fin 96 := 95
    let p : Fin 1024 × (Eng → Nat) := (0x012, fun x => x.epc)
    s.issues e ∧ ((p.1.val < 0x10 ∨ (s.dev.engOf e).super = true)) ∧
      p.1 ∈ [0x000, 0x002, 0x004, 0x006, 0x010, 0x011, 0x012, 0x013, 0x014, 0x015, 0x016, 0x017, 0x01C] ∧
      p.2 = (match p.1.val with | 0x000 => fun x => x.fl.toNat | 0x002 => fun x => x.attr | 0x004 => fun x => x.tickHi | 0x006 => fun x => x.cycHi | 0x010 => fun x => x.evb | 0x011 => fun x => x.ecause | 0x012 => fun x => x.epc | 0x013 => fun x => b2n x.aen + 2 * b2n x.hnd + 4 * b2n x.paen + 8 * b2n x.plev | 0x014 => fun x => x.earg | 0x015 => fun x => x.ecause2 | 0x016 => fun x => x.escr.toNat | 0x017 => fun x => x.imask | _ => fun x => x.evmask) := by
  exact ⟨by decide +kernel, by decide +kernel, by decide +kernel, rfl⟩

theorem witness_SystemRegisters_2 :
    let s : State := (eng eng0 95)
    let e : Fin 96 := 95
    let sr : Fin 1024 := 1023
    s.issues e ∧ knownSr sr = false := by decide +kernel

theorem witness_SystemRegisters_3 :
    let s : State := (eng { eng0 with super := false } 95)
    let e : Fin 96 := 95
    let sr : Fin 1024 := 0x010
    s.issues e ∧ knownSr sr = true ∧ 0x10 ≤ sr.val ∧ (s.dev.engOf e).super = false := by decide +kernel

-- SystemRegisters 5 to 10, 17
theorem witness_SystemRegisters_5 :
    let s : State := (eng eng0 95)
    let e : Fin 96 := 95
    s.issues e ∧ (s.dev.engOf e).super = true := by decide +kernel

theorem witness_SystemRegisters_11 :
    let s : State := (eng eng0 95)
    let e : Fin 96 := 95
    let sr : Fin 1024 := 0x003
    s.issues e ∧ knownSr sr = true ∧ ((readOnlySr sr = true ∨ 0x10 ≤ sr.val ∧ (s.dev.engOf e).super = false)) := by decide +kernel

theorem witness_SystemRegisters_12 :
    let s : State := (eng { eng0 with relq := [⟨1,2,true,300⟩, ⟨2,3,false,0⟩] } 95)
    let e : Fin 96 := 95
    let h : RelItem := ⟨1,2,true,300⟩
    let t : List RelItem := [⟨2,3,false,0⟩]
    s.issues e ∧ (s.dev.engOf e).super = true ∧ (s.dev.engOf e).relq = h :: t := by decide +kernel

theorem witness_SystemRegisters_13 :
    let s : State := (upd (eng { eng0 with g := [(10, 0x40)], missed := [(0, 7), (1, 2)] } 95) (fun d => d.setRel (relKey 11 0) { run := some ⟨95, 7, 100, true, true⟩ }))
    let e : Fin 96 := 95
    let rs : Fin 32 := 10
    let run : Running := ⟨95, 7, 100, true, true⟩
    let k : Nat := relKey (engClu e) ((s.dev.gr e rs).toNat % 64)
    s.issues e ∧ (s.dev.engOf e).super = true ∧ (s.dev.relOf k).run = some run ∧ run.engine = e.val := by decide +kernel

theorem witness_SystemRegisters_14 :
    let s : State := (eng { eng0 with g := [(10, 0x40)] } 95)
    let e : Fin 96 := 95
    let rs : Fin 32 := 10
    s.issues e ∧ (s.dev.engOf e).super = true ∧
      ((∀ run, (s.dev.relOf (relKey (engClu e) ((s.dev.gr e rs).toNat % 64))).run = some run → run.engine ≠ e.val)) := by
  decide +kernel

theorem witness_SystemRegisters_15 :
    let s : State := (fld (eng eng0 95) CLU_PEND_bits 0xFFFF00FF 0 11)
    let e : Fin 96 := 95
    s.issues e ∧ (s.dev.engOf e).super = true := by decide +kernel

theorem witness_SystemRegisters_16 :
    let s : State := (upd (eng eng0 95) (fun d => d.setQrdy 95 ([5, 6], true)))
    let e : Fin 96 := 95
    let l : List Nat := [5, 6]
    let ovr : Bool := true
    s.issues e ∧ (s.dev.engOf e).super = true ∧ s.dev.qrdy e = (l, ovr) := by decide +kernel

theorem witness_IssueCompletes_0 :
    let s : State := (upd (eng { eng0 with pc := 0x100 } 95) (fun d => d.store (engBase 95 + 0x100) (leBytes (3 * 2 ^ 22 + 1 * 2 ^ 17 + 2 * 2 ^ 12) 4)))
    let e : Fin 96 := 95
    let v : MemEnv := ⟨false, 0, [], []⟩
    let fx : Fx := (s.dev.cleared.execWord e (s.dev.codeWord e (s.dev.engOf e).pc) (s.dev.engOf e).pc ((((s.dev.engOf e).pc) + 4) % 65536) (laterOf v s.rr (.eng e))).getD (.next s.dev)
    let pc : Nat := (s.dev.engOf e).pc
    s.issues e ∧ s.dev.initStatus 0 = .ok ∧ s.dev.widePage e pc = false ∧ (∀ x ∈ v.atomics, x.e = e) ∧
      s.dev.codeBad e pc 4 = none ∧ s.dev.codeHalf e pc % 4 = 0 ∧ s.dev.widePage e (pc + 2) = false ∧
      s.dev.cleared.execWord e (s.dev.codeWord e pc) pc ((pc + 4) % 65536) (laterOf v s.rr (.eng e)) = some fx := by
  exact ⟨by decide +kernel, by decide +kernel, by decide +kernel, by decide +kernel, by decide +kernel, by decide +kernel, by decide +kernel, some_getD (by decide +kernel) _⟩

theorem witness_IssueCompletes_1 :
    let s : State := (upd (eng { eng0 with pc := 0x100 } 95) (fun d => d.store (engBase 95 + 0x100) (leBytes 1 2)))
    let e : Fin 96 := 95
    let v : MemEnv := ⟨false, 0, [], []⟩
    let fx : Fx := (s.dev.cleared.execHalf e (s.dev.codeHalf e (s.dev.engOf e).pc) (s.dev.engOf e).pc ((((s.dev.engOf e).pc) + 2) % 65536) (laterOf v s.rr (.eng e))).getD (.next s.dev)
    let pc : Nat := (s.dev.engOf e).pc
    s.issues e ∧ s.dev.initStatus 0 = .ok ∧ s.dev.widePage e pc = false ∧ (∀ x ∈ v.atomics, x.e = e) ∧
      s.dev.codeBad e pc 2 = none ∧ s.dev.codeHalf e pc % 4 ≠ 0 ∧
      s.dev.cleared.execHalf e (s.dev.codeHalf e pc) pc ((pc + 2) % 65536) (laterOf v s.rr (.eng e)) = some fx := by
  exact ⟨by decide +kernel, by decide +kernel, by decide +kernel, by decide +kernel, by decide +kernel, by decide +kernel, some_getD (by decide +kernel) _⟩

theorem witness_IssueCompletes_2 :
    let s : State := (upd (eng { eng0 with pc := 0x100, attr := 1 } 95) (fun d => d.store (engBase 95 + 0x100) (leBytes (1 + 3 * 2 ^ 22 + 1 * 2 ^ 17 + 2 * 2 ^ 12) 4)))
    let e : Fin 96 := 95
    let v : MemEnv := ⟨false, 0, [], []⟩
    let pc : Nat := (s.dev.engOf e).pc
    let as : List Nat := s.dev.groupAddrs e pc
    s.issues e ∧ s.dev.initStatus 0 = .ok ∧ s.dev.widePage e pc = true ∧ s.dev.codeBad e pc (4 * as.length) = none ∧
      groupBad (as.map (s.dev.codeWord e)) = false ∧ (∀ x ∈ v.atomics, x.e = e) := by decide +kernel

theorem witness_IssueCompletes_3 :
    let s : State := { (fld (upd (upd (eng eng0 95) (fun d => d.store (engData 95 + 0x40) ((List.range 200).map (fun i => BitVec.ofNat 8 (i * 37 + 11))) |>.store (engData 95 + 0x1000) ((List.range 200).map (fun i => BitVec.ofNat 8 (i * 37 + 11))) |>.store (engData 95 + 0x2000) ((List.range 200).map (fun i => BitVec.ofNat 8 (i * 29 + 11))))) (fun d => d.setEng 3 eng0)) ENG_STATE_state 1 0 3) with rr := 2 }
    let e : Fin 96 := 95
    let v : MemEnv := ⟨false, 0, [], [⟨2, 3, 9, 10, 6, false, 0⟩]⟩
    let x : GroupRival := ⟨2, 3, 9, 10, 6, false, 0⟩
    s.on ∧ v.atomics = [x] ∧ x.e ≠ e ∧ rank s.rr (.eng x.e) < rank s.rr (.eng e) := by decide +kernel

theorem witness_IssueCompletes_4 :
    let s : State := { (fld (upd (upd (eng eng0 95) (fun d => d.store (engData 95 + 0x40) ((List.range 200).map (fun i => BitVec.ofNat 8 (i * 37 + 11))) |>.store (engData 95 + 0x1000) ((List.range 200).map (fun i => BitVec.ofNat 8 (i * 37 + 11))) |>.store (engData 95 + 0x2000) ((List.range 200).map (fun i => BitVec.ofNat 8 (i * 29 + 11))))) (fun d => d.setEng 3 eng0)) ENG_STATE_state 1 0 3) with rr := 50 }
    let e : Fin 96 := 95
    let v : MemEnv := ⟨false, 0, [], [⟨2, 3, 9, 10, 6, false, 0⟩]⟩
    let x : GroupRival := ⟨2, 3, 9, 10, 6, false, 0⟩
    s.on ∧ v.atomics = [x] ∧ x.e ≠ e ∧ rank s.rr (.eng e) < rank s.rr (.eng x.e) := by decide +kernel

theorem witness_IssuedWords_0 :
    let s : State := (upd (eng { eng0 with pc := 0x100 } 95) (fun d => d.store (engBase 95 + 0x100) (leBytes (3 * 2 ^ 22 + 1 * 2 ^ 17 + 2 * 2 ^ 12) 4)))
    let e : Fin 96 := 95
    let v : MemEnv := ⟨false, 0, [], []⟩
    let rd : Fin 32 := 3
    let rs : Fin 32 := 1
    let rt : Fin 32 := 2
    let p : Nat × Instr := (0, .add 95 false 3 1 2)
    s.issues e ∧ s.dev.initStatus 0 = .ok ∧ (∀ x ∈ v.atomics, x.e = e) ∧
      p ∈ [(0, .add e false rd rs rt), (1, .sub e false rd rs rt), (2, .addc e rd rs rt), (3, .subc e rd rs rt), (4, .adds e rd rs rt), (5, .subs e rd rs rt), (6, .and e false rd rs rt), (7, .or e false rd rs rt), (8, .xor e false rd rs rt), (9, .andn e rd rs rt), (10, .sll e false rd rs rt), (11, .srl e false rd rs rt), (12, .sra e false rd rs rt), (16, .mul e rd rs rt), (17, .mulh e rd rs rt), (18, .mulhu e rd rs rt), (19, .min e rd rs rt), (20, .max e rd rs rt)] ∧ s.dev.codeWord e (s.dev.engOf e).pc ≠ 0 ∧ s.dev.widePage e (s.dev.engOf e).pc = false ∧ s.dev.widePage e ((s.dev.engOf e).pc + 2) = false ∧ s.dev.codeBad e (s.dev.engOf e).pc 4 = none ∧ s.dev.codeWord e (s.dev.engOf e).pc = rd.val * 2 ^ 22 + rs.val * 2 ^ 17 + rt.val * 2 ^ 12 + p.1 * 4 := by
  decide +kernel

theorem witness_EngineControlCompletes_0 :
    let s : State := (upd (fld (fld s0 ENG_STATE_state 0 0 95) ENG_WORLD_world 1 0 95) (fun d => d.setEng 95 eng0))
    let r : Req := .refuge
    let e : Fin 96 := 95
    s.accepts r (pgENG e) 0x044 ∧ s.dev.engState e = 0 ∧ s.dev.engWorld e ≠ 0 ∧ s.dev.flag STATUS_busy 0 (pgENG e) = false := by
  decide +kernel

theorem witness_EngineControlCompletes_1 :
    let s : State := (upd (fld (fld s0 ENG_STATE_state 5 0 95) ENG_STATE_reason 3 0 95) (fun d => d.setEng 95 { eng0 with thaw := 1 }))
    let r : Req := .refuge
    let e : Fin 96 := 95
    s.accepts r (pgENG e) 0x044 ∧ s.dev.engState e = 5 ∧ s.dev.rd ENG_STATE_reason 0 e = 3 ∧ (s.dev.engOf e).thaw ≠ 3 := by
  decide +kernel

theorem witness_EngineControlCompletes_2 :
    let s : State := (upd (fld (fld s0 ENG_STATE_state 5 0 95) ENG_STATE_reason 3 0 95) (fun d => d.setEng 95 { eng0 with thaw := 3 }))
    let r : Req := .refuge
    let e : Fin 96 := 95
    s.accepts r (pgENG e) 0x044 ∧ s.dev.engState e = 5 ∧ s.dev.rd ENG_STATE_reason 0 e = 3 ∧ (s.dev.engOf e).thaw = 3 := by
  decide +kernel

theorem witness_EngineControlCompletes_3 :
    let s : State := (fld (eng eng0 95) LOCK_owner 0x6F 0 0x078)
    let r : Req := .refuge
    let e : Fin 96 := 95
    s.accepts r (pgENG e) 0x044 := by decide +kernel

theorem witness_EngineControlCompletes_4 :
    let s : State := (eng eng0 95)
    let r : Req := .refuge
    let e : Fin 96 := 95
    s.accepts r (pgENG e) 0x044 ∧ s.dev.engState e ≠ 0 ∧ s.dev.engState e ≠ 5 := by decide +kernel

theorem witness_EngineControlCompletes_5 :
    let s : State := (upd (fld s0 ENG_STATE_state 5 0 95) (fun d => d.setEng 95 eng0))
    let r : Req := .refuge
    let e : Fin 96 := 95
    s.accepts r (pgENG e) 0x044 ∧ ((s.dev.engState e = 0 ∨ s.dev.engState e = 5)) := by decide +kernel

theorem witness_EngineControlCompletes_6 :
    let s : State := (upd s0 (fun d => d.store (engBase 95 + 4) [1]))
    let r : Req := .refuge
    let e : Fin 96 := 95
    let v : BitVec 2 := 2
    s.accepts r (pgENG e) 0x040 ∧ s.dev.engState e = 0 ∧ v ≠ 3 := by decide +kernel

theorem witness_EngineControlCompletes_7 :
    let s : State := (fld s0 STATUS_busy 1 0 (pgENG 95))
    s.on := by decide +kernel

theorem witness_EngineControlCompletes_8 :
    let s : State := (fld (fld (eng { eng0 with wdAcc := 10 ^ 12, wdPend := true } 95) ENG_WDT_en 1 0 95) ENG_STATE_state 3 0 95)
    let e : Fin 96 := 95
    s.on ∧ s.dev.flag ENG_WDT_en 0 e = true ∧ ((s.dev.engState e = 1 ∨ s.dev.engState e = 2 ∨ s.dev.engState e = 3)) ∧
      s.dev.wdPeriod e ≤ (s.dev.engOf e).wdAcc ∧ (((s.dev.engOf e).wdPend = false ∨ s.dev.engState e = 3)) := by decide +kernel

theorem witness_EngineControlCompletes_9 :
    let s : State := (fld (eng { eng0 with wdAcc := 10 ^ 12, wdPend := true } 95) ENG_WDT_en 1 0 95)
    let e : Fin 96 := 95
    s.on ∧ s.dev.flag ENG_WDT_en 0 e = true ∧ ((s.dev.engState e = 1 ∨ s.dev.engState e = 2)) ∧
      s.dev.wdPeriod e ≤ (s.dev.engOf e).wdAcc ∧ (s.dev.engOf e).wdPend = true := by decide +kernel

theorem witness_ReleasesAndGatesComplete_0 :
    let s : State := (upd s0 (fun d => d.wrOwn 0x0E CLU_REL_Wk_word (2 ^ 31) 0 11))
    let r : Req := .refuge
    let c : Fin 12 := 11
    let k : Nat := s.dev.relSel r c
    let l : List Nat := s.dev.relStaged r c
    s.accepts r (pgCLU c) 0x044 ∧ s.dev.relForeign r c ((relOfWords l).engine c) = false ∧ (relOfWords l).bad = false ∧
      (((s.dev.relOf k).valid = true → s.dev.relForeign r c ((s.dev.relOf k).engine c) = false)) ∧
      (((relOfWords l).valid = true → (relOfWords l).kind = 2 → ∀ p ∈ s.dev.rel, p.1 ≠ k → p.1 / 64 = c.val → p.2.coming.valid = true → p.2.coming.kind = 2 → p.2.coming.evBit ≠ (relOfWords l).evBit)) := by
  decide +kernel

theorem witness_ReleasesAndGatesComplete_1 :
    let s : State := (upd s0 (fun d => d.setRel (relKey 11 0) { w0 := 2 ^ 31, run := some ⟨95, 7, 100, false, false⟩ }))
    let r : Req := .refuge
    let c : Fin 12 := 11
    let k : Nat := s.dev.relSel r c
    s.accepts r (pgCLU c) 0x044 ∧ (((s.dev.relOf k).valid = true → s.dev.relForeign r c ((s.dev.relOf k).engine c) = false)) := by
  decide +kernel

theorem witness_ReleasesAndGatesComplete_2 :
    let s : State := (upd s0 (fun d => d.setRel (relKey 11 0) { w0 := 2 ^ 31, run := some ⟨95, 7, 100, false, false⟩ }))
    let r : Req := .refuge
    let c : Fin 12 := 11
    s.accepts r (pgCLU c) 0x044 := by decide +kernel

theorem witness_ReleasesAndGatesComplete_3 :
    let s : State := (upd s0 (fun d => d.setRel (relKey 11 63) { w0 := 2 ^ 31, run := some ⟨95, 7, 0, false, true⟩ }))
    let c : Fin 12 := 11
    let i : Fin 64 := 63
    let run : Running := ⟨95, 7, 0, false, true⟩
    let k : Nat := 64 * c + i
    s.on ∧ (s.dev.relOf k).run = some run ∧ run.missed = false ∧ run.deadline ≤ s.dev.tickTai := by decide +kernel

theorem witness_ReleasesAndGatesComplete_5 :
    let s : State := (eng { eng0 with g := [(4, 0x9FFF), (5, 6), (6, 1), (7, 2)] } 95)
    let e : Fin 96 := 95
    s.issues e ∧ 0x9000 ≤ (s.dev.gr e 4).toNat % 65536 ∧ (s.dev.gr e 4).toNat % 65536 ≤ 0x9FFF ∧
      (s.dev.gr e 5).toNat % 8 ≤ (if (s.dev.engOf e).super then 6 else 4) := by decide +kernel

theorem witness_ReleasesAndGatesComplete_6 :
    let s : State := (fld (eng eng0 95) TRN_STAT_drbg_ready 1 0 0)
    let e : Fin 96 := 95
    s.issues e ∧ s.dev.flag TRN_STAT_drbg_ready = true := by decide +kernel

theorem witness_ReleasesAndGatesComplete_7 :
    let s : State := (upd (fld (fld (eng eng0 95) EVR_DUMP_en 1 0 0) TRN_STAT_drbg_ready 1 0 0) (fun d => d.setSlot 8 { attr := 2 ^ 31, key := zeros 32 }))
    let e : Fin 96 := 95
    s.issues e ∧ (s.dev.engOf e).super = true ∧ s.dev.dumpRefusal = .ok := by decide +kernel

theorem witness_ReleasesAndGatesComplete_8 :
    let s : State := (fld (fld (eng { eng0 with g := [(4, 5)] } 95) ENG_WORLD_world 1 0 95) ENG_WORLD_world 1 0 5)
    let e : Fin 96 := 95
    let t : Nat := (s.dev.gr e 4).toNat
    s.issues e ∧ (s.dev.engOf e).super = true ∧ t < 96 ∧ t ≠ e.val ∧ s.dev.engWorld t = s.dev.engWorld e ∧ s.dev.engWorld t ≠ 0 ∧
      s.dev.flag STATUS_busy 0 (pgENG t) = false := by decide +kernel

theorem witness_ReleasesAndGatesComplete_9 :
    let s : State := (fld (eng eng0 95) LCC_STATE_state 2 0 0)
    let e : Fin 96 := 95
    s.issues e ∧ s.dev.lcc ≠ 0 ∧ s.dev.rfg.services.length < 16 := by decide +kernel

theorem witness_ReleasesAndGatesComplete_10 :
    let s : State := (eng eng0 95)
    let e : Fin 96 := 95
    s.issues e ∧ (s.dev.engOf e).super = true ∧ s.dev.rfg.services.length < 16 := by decide +kernel

theorem witness_ReleasesAndGatesComplete_11 :
    let s : State := (fld (eng eng0 95) ENG_WORLD_world 1 0 95)
    let e : Fin 96 := 95
    s.issues e ∧ (s.dev.engOf e).super = true ∧ s.dev.engWorld e = 1 ∧ s.dev.rfg.services.length < 16 := by decide +kernel

theorem witness_ReleasesAndGatesComplete_12 :
    let s : State := (upd (fld (fld (eng { eng0 with g := [(4, 0x100000), (5, 52), (6, 16)] } 95) ENG_WORLD_world 1 0 95) CLU_MEM_WORLD_segs 0xFFFFFFFF 0 11) (fun d => (d.setSlot 8 { attr := 3 * 2 ^ 28, key := zeros 32 }).store (cluBase 11) (leBytes (2 ^ 28) 4 ++ zeros 16 ++ [0xce, 0xa7, 0x40, 0x3d, 0x4d, 0x60, 0x6b, 0x6e, 0x07, 0x4e, 0xc5, 0xd3, 0xba, 0xf3, 0x9d, 0x18] ++ [0xd0, 0xd1, 0xc8, 0xa7, 0x99, 0x99, 0x6b, 0xf0, 0x26, 0x5b, 0x98, 0xb5, 0xd4, 0x8a, 0xb9, 0x19])))
    let e : Fin 96 := 95
    let nx : Nat := ((s.dev.engOf e).pc + 4) % 65536
    let g : Gate := { n := 246, g4 := s.dev.gr e 4, g5 := s.dev.gr e 5, g6 := s.dev.gr e 6, g7 := s.dev.gr e 7, at_ := s.dev.cclk, epc := nx }
    s.issues e ∧ (s.dev.engOf e).super = true ∧ (((s.dev.cleared.gateCall e 246 nx).setPc e nx).gateKeyInstall e g).1 = .ok := by
  decide +kernel

theorem witness_ReleasesAndGatesComplete_13 :
    let s : State := (upd (fld (eng { eng0 with g := [(4, 16)] } 95) ENG_WORLD_world 1 0 95) (fun d => d.setSlot 16 { attr := 2 ^ 31 + 2 ^ 13, key := zeros 32 }))
    let e : Fin 96 := 95
    let slot : Nat := (s.dev.gr e 4).toNat
    s.issues e ∧ (s.dev.engOf e).super = true ∧ 16 ≤ slot ∧ slot < 256 ∧
      (s.dev.slotOf slot).attr.testBit (if s.dev.engWorld e = 1 then 13 else 14) = true := by decide +kernel

theorem witness_ReleasesAndGatesComplete_14 :
    let s : State := (upd (fld (fld (eng { eng0 with g := [(4, 1)] } 95) ENG_WORLD_world 1 0 95) RFG_STAGE_stage 4 0 0) (fun d => { d with rfg := { d.rfg with fwVersion := 5 } }))
    let e : Fin 96 := 95
    let v : Nat := (s.dev.gr e 4).toNat
    s.issues e ∧ (s.dev.engOf e).super = true ∧ s.dev.engWorld e = 1 ∧ s.dev.rd RFG_STAGE_stage = 4 ∧ v = s.dev.secver + 1 ∧
      v ≤ 255 ∧ v ≤ s.dev.rfg.fwVersion := by decide +kernel

theorem witness_ReleasesAndGatesComplete_15 :
    let s : State := (upd (fld (fld (eng { eng0 with g := [(4, 5)] } 95) ENG_WORLD_world 1 0 95) RFG_STAGE_stage 4 0 0) (fun d => { d with rfg := { d.rfg with fwVersion := 5 } }))
    let e : Fin 96 := 95
    let v : Nat := (s.dev.gr e 4).toNat
    s.issues e ∧ (s.dev.engOf e).super = true ∧ s.dev.engWorld e = 1 ∧ s.dev.rd RFG_STAGE_stage = 4 ∧ s.dev.secver + 1 < v ∧
      v ≤ 255 ∧ v ≤ s.dev.rfg.fwVersion := by decide +kernel

theorem witness_ReleasesAndGatesComplete_18 :
    let s : State := (fld (eng { eng0 with gate := some ⟨251, 0, 0, 0, 0, 0, 0x104⟩ } 95) ENG_STATE_state 3 0 95)
    let e : Fin 96 := 95
    let g : Gate := ⟨251, 0, 0, 0, 0, 0, 0x104⟩
    s.on ∧ s.dev.gateOf e = some g ∧ g.n = 251 := by decide +kernel

-- ReleasesAndGatesComplete 19, 20
theorem witness_ReleasesAndGatesComplete_19 :
    let s : State := { fld (upd (fld (eng { eng0 with gate := some ⟨251, 0, 0, 0, 0, 0, 0x104⟩ } 95) ENG_STATE_state 3 0 95) (fun d => d.setEng 3 { eng0 with gate := some ⟨251, 0, 0, 0, 0, 0, 0x104⟩ })) ENG_STATE_state 3 0 3 with rr := 50 }
    let e : Fin 96 := 95
    let k : Fin 96 := 3
    s.on ∧ rank s.rr (.eng e) < rank s.rr (.eng k) := by decide +kernel

theorem witness_ReleasesAndGatesComplete_21 :
    let s : State := (fld (upd (eng eng0 95) (fun d => d.setEng 3 { eng0 with gate := some ⟨251, 0, 0, 0, 0, 0, 0x104⟩ })) ENG_STATE_state 3 0 3)
    let e : Fin 96 := 95
    let k : Fin 96 := 3
    s.issues e ∧ rank s.rr (.eng k) < rank s.rr (.eng e) := by decide +kernel

theorem witness_ReleasesAndGatesComplete_22 :
    let s : State := (upd (fld (eng { eng0 with gate := some ⟨251, 0, 0, 0, 0, 0, 0x104⟩ } 95) ENG_STATE_state 3 0 95) (fun d => { d with cclk := 10 * cclkPerMs }))
    let e : Fin 96 := 95
    let g : Gate := ⟨251, 0, 0, 0, 0, 0, 0x104⟩
    s.on ∧ s.dev.gateOf e = some g ∧ g.at_ + 10 * cclkPerMs ≤ s.dev.cclk := by decide +kernel

theorem witness_ReleasesAndGatesComplete_23 :
    let s : State := (upd (fld (eng eng0 95) LCC_STATE_state 2 0 0) (fun d => { d with rfg := { d.rfg with services := [⟨245, 95, 0x01000000 + 95 * 0x40000 + 0x20000, 32, 0, 0, 0⟩] } }))
    let j : Nat := 0
    let v : Service := ⟨245, 95, 0x01000000 + 95 * 0x40000 + 0x20000, 32, 0, 0, 0⟩
    s.on ∧ s.dev.rfg.services[j]? = some v ∧ v.gate = 245 := by decide +kernel

theorem witness_ReleasesAndGatesComplete_24 :
    let s : State := (upd (fld (eng eng0 95) LCC_STATE_state 2 0 0) (fun d => { d with rfg := { d.rfg with services := [⟨248, 95, 0x01000000 + 95 * 0x40000 + 0x20000, 32, 0, 0, 0⟩] } }))
    let j : Nat := 0
    let v : Service := ⟨248, 95, 0x01000000 + 95 * 0x40000 + 0x20000, 32, 0, 0, 0⟩
    s.on ∧ s.dev.rfg.services[j]? = some v ∧ v.gate = 248 := by decide +kernel

theorem witness_ReleasesAndGatesComplete_25 :
    let s : State := (upd (fld (eng eng0 95) LCC_STATE_state 2 0 0) (fun d => { d with rfg := { d.rfg with services := [⟨250, 95, 0x01000000 + 95 * 0x40000 + 0x20000, 32, 0, 0, 0⟩] } }))
    let j : Nat := 0
    let v : Service := ⟨250, 95, 0x01000000 + 95 * 0x40000 + 0x20000, 32, 0, 0, 0⟩
    s.on ∧ s.dev.rfg.services[j]? = some v ∧ v.gate = 250 := by decide +kernel

theorem witness_MemoryAndDumpComplete_0 :
    let s : State := (upd s0 (fun d => { d with scrubAt := d.scrubAt.set 191 8191 0 }))
    let bank : Nat := 191
    let row : Nat := s.dev.scrubAt.get bank 0
    s.on ∧ bank < 192 ∧ row < 8192 := by decide +kernel

theorem witness_MemoryAndDumpComplete_1 :
    let s : State := s0
    let bank : Nat := 0x1040
    s.on ∧ bank < 0x8000 := by decide +kernel

theorem witness_MemoryAndDumpComplete_2 :
    let s : State := s0
    let row : Nat := s.dev.scrubAt.get (5 * 2 ^ 16 + 1) 0
    s.on ∧ row < 8192 := by decide +kernel

theorem witness_MemoryAndDumpComplete_3 :
    let s : State := s0
    let row : Nat := s.dev.scrubAt.get (5 * 2 ^ 16 + 2) 0
    s.on ∧ row < 8192 := by decide +kernel

theorem witness_MemoryAndDumpComplete_4 :
    let s : State := s0
    let bank : Nat := 63
    let row : Nat := s.dev.scrubAt.get (3 * 2 ^ 16 + bank) 0
    let a : Nat := 0x10000000 + bank * 0x40000 + 32 * row
    s.on ∧ bank < 64 ∧ row < 8192 ∧ (∀ i < 4, s.dev.bad.get (a + 8 * i) 0 = 0) := by decide +kernel

theorem witness_MemoryAndDumpComplete_5 :
    let s : State := s0
    let cls : Fin 6 := 3
    let bank : Nat := 63
    let hit : Bool := true
    s.on ∧ ((hit = true ∨ scrubBanks cls ≤ bank)) := by decide +kernel

theorem witness_MemoryAndDumpComplete_6 :
    let s : State := (fld s0 STATUS_busy 1 0 (pgDRC + 1))
    let k : Fin 2 := 1
    s.on ∧ s.dev.flag STATUS_busy 0 (pgDRC + k) = true := by decide +kernel

theorem witness_MemoryAndDumpComplete_8 :
    let s : State := s0
    let r : Req := .refuge
    let v : Word := 0x10000001
    let lo : Nat := 0x1000000000
    let len : Nat := 2 ^ (bitsOf v.toNat 3 0 + 3) * 2 ^ 20
    s.accepts r pgMCE 0x040 ∧ s.dev.wlLocked.contains (regKey pgMCE 0x040) = false ∧ lo = bitsOf v.toNat 31 16 * 2 ^ 24 ∧
      0 < bitsOf v.toNat 3 0 ∧ bitsOf v.toNat 3 0 < 8 ∧ lo % len = 0 ∧ dramBase ≤ lo ∧ lo + len ≤ s.dev.dramEnd := by decide +kernel

theorem witness_MemoryAndDumpComplete_9 :
    let s : State := (fld (fld s0 MCE_GUARD_base 0x1000 0 0) MCE_GUARD_size 1 0 0)
    s.on ∧ s.dev.guardSize ≠ 0 := by decide +kernel

theorem witness_MemoryAndDumpComplete_10 :
    let s : State := (upd (eng eng0 95) (fun d => ({ d with cclk := 5 + cclkPerMs, rfg := { d.rfg with dumps := [⟨95, 0, 5, false, 77, 0, none, none⟩] } }).setSlot 8 { attr := 3 * 2 ^ 28, key := zeros 32 }))
    let x : DumpReq := ⟨95, 0, 5, false, 77, 0, none, none⟩
    let l : List DumpReq := []
    s.on ∧ s.dev.rfg.dumps = x :: l ∧ s.dev.flag EVR_DUMP_en = false := by decide +kernel

theorem witness_MemoryAndDumpComplete_11 :
    let s : State := (upd (fld (eng eng0 95) EVR_DUMP_en 1 0 0) (fun d => ({ d with cclk := 5 + cclkPerMs, rfg := { d.rfg with dumps := [⟨95, 0, 5, false, 77, 0, none, none⟩] } }).setSlot 8 { attr := 3 * 2 ^ 28, key := zeros 32 }))
    let x : DumpReq := ⟨95, 0, 5, false, 77, 0, none, none⟩
    let l : List DumpReq := []
    s.on ∧ s.dev.rfg.dumps = x :: l ∧ s.dev.engState x.engine ≠ 4 ∧ x.written = none ∧ s.dev.flag EVR_DUMP_en = true ∧
      (s.dev.slotOf 8).type ≠ 0 := by decide +kernel

theorem witness_MemoryAndDumpComplete_12 :
    let s : State := (fld (upd (fld (eng eng0 95) EVR_DUMP_en 1 0 0) (fun d => ({ d with cclk := 5 + cclkPerMs, rfg := { d.rfg with dumps := [⟨95, 0, 5, false, 77, 0, none, none⟩] } }).setSlot 8 { attr := 3 * 2 ^ 28, key := zeros 32 })) ENG_STATE_state 4 0 95)
    let x : DumpReq := ⟨95, 0, 5, false, 77, 0, none, none⟩
    let l : List DumpReq := []
    s.on ∧ s.dev.rfg.dumps = x :: l ∧ s.dev.engState x.engine = 4 ∧ x.written = none ∧ s.dev.flag EVR_DUMP_en = true ∧
      (s.dev.slotOf 8).type ≠ 0 := by decide +kernel

theorem witness_MemoryAndDumpComplete_13 :
    let s : State := (upd (fld (fld (eng eng0 95) EVR_DUMP_en 1 0 0) LOCK_owner 3 0 (pgCPL 7)) (fun d => ({ d with cclk := 5 + cclkPerMs, rfg := { d.rfg with dumps := [⟨95, 0, 5, false, 77, 0, some ⟨0xF020, 7, 3, 0x7E, false, 5, 100, 0, ⟨95, 1, 0⟩⟩, some 9⟩] } }).setSlot 8 { attr := 3 * 2 ^ 28, key := zeros 32 }))
    let x : DumpReq := ⟨95, 0, 5, false, 77, 0, some ⟨0xF020, 7, 3, 0x7E, false, 5, 100, 0, ⟨95, 1, 0⟩⟩, some 9⟩
    let l : List DumpReq := []
    s.on ∧ s.dev.rfg.dumps = x :: l ∧ x.written ≠ none ∧ x.num ≠ none ∧ x.since = 0 ∧ s.dev.flag EVR_DUMP_en = true ∧
      (s.dev.slotOf 8).type ≠ 0 ∧ s.dev.rd LOCK_owner 0 (pgCPL 7) ≠ 0xFF ∧ s.dev.rd LOCK_owner 0 (pgCPL 7) ≠ 0x0E := by
  decide +kernel

theorem witness_MemoryAndDumpComplete_14 :
    let s : State := (upd (fld (fld (eng eng0 95) EVR_DUMP_en 1 0 0) TRN_STAT_drbg_ready 1 0 0) (fun d => ({ d with cclk := 5 + cclkPerMs, rfg := { d.rfg with dumps := [⟨95, 0, 5, false, 77, 0, some ⟨0xF020, 7, 3, 0x7E, false, 5, 100, 0, ⟨95, 1, 0⟩⟩, some 9⟩] } }).setSlot 8 { attr := 3 * 2 ^ 28, key := zeros 32 }))
    let x : DumpReq := ⟨95, 0, 5, false, 77, 0, some ⟨0xF020, 7, 3, 0x7E, false, 5, 100, 0, ⟨95, 1, 0⟩⟩, some 9⟩
    let l : List DumpReq := []
    let n : Nat := 9
    s.on ∧ s.dev.rfg.dumps = x :: l ∧ x.written ≠ none ∧ x.num = some n ∧ x.card = false ∧ s.dev.flag EVR_DUMP_en = true ∧
      (s.dev.slotOf 8).type ≠ 0 ∧ s.dev.rd LOCK_owner 0 (pgCPL 7) = 0xFF ∧ s.dev.flag TRN_STAT_drbg_ready = true := by decide +kernel

theorem witness_MemoryAndDumpComplete_15 :
    let s : State := (upd (fld (fld (eng eng0 95) EVR_DUMP_en 1 0 0) LOCK_owner 3 0 (pgCPL 7)) (fun d => ({ d with cclk := 5 + cclkPerMs, rfg := { d.rfg with dumps := [⟨95, 0, 5, false, 77, 5, none, none⟩] } }).setSlot 8 { attr := 3 * 2 ^ 28, key := zeros 32 }))
    let x : DumpReq := ⟨95, 0, 5, false, 77, 5, none, none⟩
    let l : List DumpReq := []
    let o : Nat := s.dev.rd LOCK_owner 0 (pgCPL 7)
    s.on ∧ s.dev.rfg.dumps = x :: l ∧ x.since ≠ 0 ∧ x.since + cclkPerMs ≤ s.dev.cclk ∧ o ≠ 0xFF := by decide +kernel

theorem witness_CipherCompletes_0 :
    let s : State := (fld s0 LOCK_owner 0x0E 0 (pgCPL 7))
    let r : Req := .refuge
    let p : Fin 8 := 7
    let k : Fin 8 := 7
    s.accepts r (pgCPL p) (0x044 + 4 * k) := by decide +kernel

theorem witness_CipherCompletes_1 :
    let k : Nat := 7
    k < 8 := by decide +kernel

theorem witness_CipherCompletes_2 :
    let key : List Byte := [1,2,3]
    key.length ≤ 128 := by decide +kernel

theorem witness_CipherCompletes_3 :
    let s : State := (fld (fld s0 LOCK_owner 0x0E 0 (pgCPL 7)) CPL_STAT_seeded 1 0 7)
    let r : Req := .refuge
    let p : Fin 8 := 7
    s.accepts r (pgCPL p) 0x0A4 ∧ s.dev.flag CPL_STAT_seeded 0 p = true ∧ s.dev.flag CPL_MODE_ksrc 0 p = false ∧
      s.dev.rd CPL_MODE_ksize 0 p ≠ 3 := by decide +kernel

theorem witness_CipherCompletes_4 :
    let s : State := (upd (fld (fld (fld (fld (fld (fld s0 LOCK_owner 0x0E 0 (pgCPL 7)) CPL_STAT_seeded 1 0 7) CPL_MODE_ksrc 1 0 7) CPL_MODE_slot 8 0 7) CPL_MODE_mode 1 0 7) CPL_MODE_ksize 2 0 7) (fun d => d.setSlot 8 { attr := 3 * 2 ^ 28 + 0xFFFFFFF, key := zeros 32 }))
    let r : Req := .refuge
    let p : Fin 8 := 7
    let slot : Nat := s.dev.rd CPL_MODE_slot 0 p
    s.accepts r (pgCPL p) 0x0A4 ∧ s.dev.flag CPL_MODE_ksrc 0 p = true ∧ s.dev.flag CPL_STAT_seeded 0 p = true ∧
      s.dev.slotPermits slot (s.dev.cplOwner p) (cplUses (s.dev.rd CPL_MODE_mode 0 p) (s.dev.flag CPL_MODE_op 0 p)) = true ∧
      s.dev.rd CPL_MODE_ksize 0 p ≠ 3 ∧ (s.dev.slotOf slot).aesBytes = keyBytesOf (s.dev.rd CPL_MODE_ksize 0 p) ∧
      s.dev.slotBad slot = none ∧ s.dev.vaultStatus (s.dev.cplOwner p) = .ok := by decide +kernel

theorem witness_CipherCompletes_5 :
    let s : State := (upd s0 (fun d => d.setCpl 7 { loading := some (zeros 32, zeros 32) }))
    let p : Fin 8 := 7
    let a : List Byte := zeros 32
    let b : List Byte := zeros 32
    s.on ∧ (s.dev.cplOf p).loading = some (a, b) := by decide +kernel

theorem witness_CipherCompletes_6 :
    let s : State := (upd (fld (fld (fld (fld (fld (fld (fld (fld s0 LOCK_owner 0x0E 0 (pgCPL 7)) CPL_STAT_seeded 1 0 7) CPL_STAT_key_ready 1 0 7) CPL_MODE_mode 3 0 7) CPL_LEN_len 20 0 7) CPL_SRC_LO_addr 0x017E0000 0 7) CPL_DST_LO_addr 0x017E0100 0 7) CPL_MODE_tag_len 16 0 7) (fun d => d.setCpl 7 { keyA := zeros 32, keyB := zeros 32 }))
    let r : Req := .refuge
    let p : Fin 8 := 7
    let first : Bool := true
    let last : Bool := true
    let j : CplJob := s.dev.cplStaged p first last
    s.accepts r (pgCPL p) 0x0A4 ∧ (s.dev.cplOf p).job = none ∧ ((j.mode = 0 → j.owner = 0x0E)) ∧
      s.dev.reach j.owner false j.src j.srcLen = .ok ∧ s.dev.reach j.owner true j.dst j.dstLen = .ok ∧
      ((j.msgs ≠ 0 → s.dev.tableReach j = .ok)) ∧ j.bad (s.dev.cplOf p).opened = false ∧ s.dev.cleared.cplTableWraps j = false ∧
      s.dev.flag CPL_STAT_key_ready 0 p = true ∧ s.dev.flag CPL_STAT_seeded 0 p = true := by decide +kernel

theorem witness_CipherCompletes_7 :
    let s : State := (fld s0 LOCK_owner 0x0E 0 (pgCPL 7))
    let r : Req := .refuge
    let p : Fin 8 := 7
    s.accepts r (pgCPL p) 0x0A4 ∧ (s.dev.cplOf p).job = none := by decide +kernel

theorem witness_CipherCompletes_8 :
    let s : State := (upd (fld s0 LOCK_owner 0x0E 0 (pgCPL 7)) (fun d => d.setCpl 7 { job := some ⟨4, false, 16, 0, zeros 16, zeros 16, 0x17e0000, 0x17e0100, 0, 4, 0, 0, true, true, 0x0E⟩ }))
    let r : Req := .refuge
    let p : Fin 8 := 7
    let j : CplJob := ⟨4, false, 16, 0, zeros 16, zeros 16, 0x17e0000, 0x17e0100, 0, 4, 0, 0, true, true, 0x0E⟩
    s.accepts r (pgCPL p) 0x0A4 ∧ (s.dev.cplOf p).job = some j ∧ j.mode = 4 := by decide +kernel

theorem witness_CipherCompletes_9 :
    let s : State := (upd s0 (fun d => d.setCpl 7 { keyA := zeros 16, keyB := zeros 16, job := some ⟨3, false, 16, 0, zeros 16, zeros 16, 0x17e0000, 0x17e0100, 0, 4, 0, 0, true, true, 0x0E⟩ }))
    let p : Fin 8 := 7
    let j : CplJob := ⟨3, false, 16, 0, zeros 16, zeros 16, 0x17e0000, 0x17e0100, 0, 4, 0, 0, true, true, 0x0E⟩
    let d0 : Dev := ((s0.dev.setCpl 7 { keyA := zeros 16, keyB := zeros 16, job := some ⟨3, false, 16, 0, zeros 16, zeros 16, 0x17e0000, 0x17e0100, 0, 4, 0, 0, true, true, 0x0E⟩ }).cleared.jobRead 14 0x017E0000 4).2.2
    let d1 : Dev := (d0.jobWrite j.owner j.dst (xorBytes (zeros 4) (ctrStream (d0.cplOf p).key j.iv (ctrBytes j.ctrW) 4))).2
    let src : List Byte := zeros 4
    let out : List Byte := xorBytes src (ctrStream (d0.cplOf p).key j.iv (ctrBytes j.ctrW) src.length)
    s.on ∧ (s.dev.cplOf p).job = some j ∧ j.mode = 3 ∧ j.msgs = 0 ∧ j.aad = 0 ∧ j.first = true ∧ j.last = true ∧
      j.overlaps = false ∧ s.dev.cleared.jobRead j.owner j.src j.srcLen = (.ok, src, d0) ∧
      d0.jobWrite j.owner j.dst out = (.ok, d1) := by decide +kernel

theorem witness_CipherCompletes_10 :
    let s : State := (upd State.reset (fun d => d.setCpl 7 { keyA := zeros 16, keyB := zeros 16, job := some ⟨3, false, 16, 0, zeros 16, zeros 16, 0x10000000, 0x17e0100, 0, 4, 0, 0, true, true, 0x0E⟩ }))
    let p : Fin 8 := 7
    let brk : Option (Fin 8) := none
    let j : CplJob := ⟨3, false, 16, 0, zeros 16, zeros 16, 0x10000000, 0x17e0100, 0, 4, 0, 0, true, true, 0x0E⟩
    let d0 : Dev := (s.dev.cleared.jobRead 14 0x10000000 4).2.2
    let st : Status := .notReady
    let src : List Byte := []
    s.on ∧ (s.dev.cplOf p).job = some j ∧ (s.dev.cleared.withBreak brk).jobRead j.owner j.src j.srcLen = (st, src, d0) ∧ st ≠ .ok := by
  decide +kernel

theorem witness_CipherCompletes_11 :
    let s : State := (fld s0 TRN_STAT_drbg_ready 1 0 0)
    s.on ∧ s.dev.flag TRN_STAT_drbg_ready = true := by decide +kernel

theorem witness_CipherCompletes_12 :
    let s : State := (fld s0 CPL_RNG_consec 3 0 7)
    let p : Fin 8 := 7
    s.on ∧ 1 ≤ s.dev.rd CPL_RNG_consec 0 p ∧ s.dev.rd CPL_RNG_consec 0 p ≠ 15 := by decide +kernel

theorem witness_PublicKeyAndHashComplete_0 :
    let s : State := (fld s0 LOCK_owner 0x0E 0 (pgPKE))
    let r : Req := .refuge
    let v : Word := 0x00400000
    s.accepts r pgPKE 0x040 ∧ (s.dev.pkeCtx 0).state = 0 ∧ (s.dev.pkeCtx 1).state = 0 ∧ s.dev.pke.clearing = false ∧
      4 ≤ bitsOf v.toNat 23 16 ∧ bitsOf v.toNat 23 16 ≤ 128 := by decide +kernel

theorem witness_PublicKeyAndHashComplete_1 :
    let s : State := (upd (fld s0 LOCK_owner 0x0E 0 (pgPKE)) (fun d => { d with pke := { d.pke with clearing := true } }))
    s.on ∧ s.dev.pke.clearing = true ∧ s.dev.pkeRunning = none := by decide +kernel

theorem witness_PublicKeyAndHashComplete_2 :
    let s : State := (fld s0 LOCK_owner 0x0E 0 (pgPKE))
    let r : Req := .refuge
    let i : Nat := (s0.dev.pkeSel).getD 0
    s.accepts r pgPKE 0x094 ∧ s.dev.pkeSel = some i ∧ s.dev.pkeSlotBusy false = false ∧ s.dev.pke.clearing = false := by
  decide +kernel

theorem witness_PublicKeyAndHashComplete_3 :
    let s : State := (fld s0 LOCK_owner 0x0E 0 (pgPKE))
    let r : Req := .refuge
    let i : Nat := (s0.dev.pkeSel).getD 0
    s.acceptsRead r pgPKE 0x094 ∧ s.dev.rd LOCK_owner 0 pgPKE = reqId r ∧ s.dev.pkeSel = some i ∧
      s.dev.pkeSlotBusy true = false ∧ s.dev.pke.clearing = false := by decide +kernel

theorem witness_PublicKeyAndHashComplete_4 :
    let s : State := (upd (fld (fld (fld (fld (fld (fld s0 LOCK_owner 0x0E 0 (pgPKE)) PKE_CMD_op 16 0 0) PKE_ARGk_slot 3 3 0) PKE_ARGk_slot 1 1 0) PKE_ARGk_slot 2 2 0) PKE_SIZE_m_words 4 0 0) (fun d => (((d.pkePut 0 3).pkePut 1 4).pkePut 2 7)))
    let r : Req := .refuge
    let c : PkeCtx := s.dev.pkeStaged
    s.accepts r pgPKE 0x080 ∧ (s.dev.pkeCtx 0).state = 0 ∧ (s.dev.pkeCtx 1).state = 0 ∧ s.dev.pke.clearing = false ∧
      s.dev.pkeVaultDenied c = false ∧ s.dev.pkeReachBad c = false ∧ c.known = true ∧ s.dev.pkeOperandBad c = false ∧
      c.urgent = false ∧ c.addrHigh = false ∧ c.slh = false := by decide +kernel

theorem witness_PublicKeyAndHashComplete_5 :
    let s : State := (upd (fld (fld s0 LOCK_owner 0x0E 0 (pgPKE)) PKE_CFG_yield 1 0 0) (fun d => ((d.setPkeCtx 0 {}).setPkeCtx 1 { state := 1, cmd := 16, supplied := false, args := [0,1,2,3,0,0], size := 0 })))
    let r : Req := .refuge
    let k : Fin 4 := 1
    s.accepts r pgPKE 0x080 ∧ k.val < 2 ∧ s.dev.flag PKE_CFG_yield = true ∧ (s.dev.pkeCtx k).state = 1 ∧ (s.dev.pkeCtx k).op ≠ 8 := by
  decide +kernel

theorem witness_PublicKeyAndHashComplete_6 :
    let s : State := (upd (fld (fld s0 LOCK_owner 0x0E 0 (pgPKE)) PKE_CFG_yield 1 0 0) (fun d => (d.setPkeCtx 0 { state := 2, cmd := 16, supplied := true, args := [0,1,2,3,0,0], size := 0 })))
    let r : Req := .refuge
    let k : Fin 4 := 0
    let c : PkeCtx := s.dev.pkeCtx k
    s.accepts r pgPKE 0x080 ∧ k.val < 2 ∧ s.dev.flag PKE_CFG_yield = true ∧ c.state = 2 ∧ c.op ≠ 8 ∧
      (s.dev.pkeCtx (1 - k)).state = 0 := by decide +kernel

theorem witness_PublicKeyAndHashComplete_7 :
    let s : State := (upd (fld s0 LOCK_owner 0x0E 0 (pgPKE)) (fun d => (d.setPkeCtx 0 { state := 2, cmd := 16, supplied := true, args := [0,1,2,3,0,0], size := 0 })))
    let r : Req := .refuge
    s.accepts r pgPKE 0x080 ∧ s.dev.flag PKE_CFG_yield = false ∧ (s.dev.pkeCtx 0).state = 2 ∧ (s.dev.pkeCtx 1).state = 0 := by
  decide +kernel

theorem witness_PublicKeyAndHashComplete_8 :
    let s : State := (upd (fld (fld s0 LOCK_owner 0x0E 0 (pgPKE)) PKE_CFG_yield 1 0 0) (fun d => ((d.setPkeCtx 0 { state := 2, cmd := 16, supplied := true, args := [0,1,2,3,0,0], size := 0 }).setPkeCtx 1 { state := 1, cmd := 16 + 2 ^ 12, supplied := false, args := [0,1,2,3,0,0], size := 0 })))
    s.on ∧ s.dev.flag PKE_CFG_yield = true ∧ (s.dev.pkeCtx 0).state = 2 ∧ (s.dev.pkeCtx 0).urgent = false ∧
      (s.dev.pkeCtx 1).state = 1 ∧ (s.dev.pkeCtx 1).urgent = true := by decide +kernel

theorem witness_PublicKeyAndHashComplete_9 :
    let s : State := (upd (fld s0 LOCK_owner 0x0E 0 (pgPKE)) (fun d => ((((d.setPkeCtx 0 { state := 2, cmd := 16, supplied := true, args := [0,1,2,3,0,0], size := 0 }).pkePut 0 3).pkePut 1 5).pkePut 2 7)))
    let k : Nat := 0
    let c : PkeCtx := s.dev.pkeCtx k
    s.on ∧ s.dev.pkeRunning = some k ∧ c.supplied = true ∧ c.earlySt = .ok ∧ c.op = 0x10 := by decide +kernel

theorem witness_PublicKeyAndHashComplete_10 :
    let s : State := (upd (fld s0 LOCK_owner 0x0E 0 (pgPKE)) (fun d => (d.setPkeCtx 0 { state := 2, cmd := 3, supplied := true, args := [0,1,2,3,0,0], size := 0 })))
    let k : Nat := 0
    let c : PkeCtx := s.dev.pkeCtx k
    s.on ∧ s.dev.pkeRunning = some k ∧ c.supplied = true ∧ c.earlySt = .ok ∧ c.op = 0x03 := by decide +kernel

theorem witness_PublicKeyAndHashComplete_11 :
    let s : State := (upd (fld s0 LOCK_owner 0x0E 0 (pgPKE)) (fun d => { (d.setPkeCtx 0 { state := 2, cmd := 1, supplied := false, args := [0,1,2,3,0,0], size := 0 }) with cclk := 100 * cclkPerUs }))
    let k : Nat := 0
    let c : PkeCtx := s.dev.pkeCtx k
    s.on ∧ s.dev.pkeRunning = some k ∧ c.supplied = false ∧ s.dev.flag TRN_STAT_drbg_ready = false ∧
      c.since + 100 * cclkPerUs ≤ s.dev.cclk := by decide +kernel

theorem witness_PublicKeyAndHashComplete_12 :
    let s : State := (upd (fld s0 LOCK_owner 0x0E 0 (pgPKE)) (fun d => ((d.setPkeCtx 0 {}).setPkeCtx 1 { state := 4, cmd := 16, supplied := false, args := [0,1,2,3,0,0], size := 0 })))
    let r : Req := .refuge
    let k : Fin 2 := 1
    let c : PkeCtx := s.dev.pkeCtx k
    s.acceptsRead r pgPKE (0x084 + 4 * k) ∧ c.state = 4 := by decide +kernel

theorem witness_PublicKeyAndHashComplete_13 :
    let s : State := (upd (fld s0 LOCK_owner 0x0E 0 (pgPKE)) (fun d => (d.setPkeCtx 0 { state := 2, cmd := 8, supplied := true, args := [0,1,2,3,0,0], size := 0 })))
    let k : Nat := 0
    s.on ∧ s.dev.pkeRunning = some k ∧ (s.dev.pkeCtx k).slh = true ∧ s.dev.hsh.job = none := by decide +kernel

theorem witness_PublicKeyAndHashComplete_14 :
    let s : State := (upd s0 (fun d => { d with hsh := { d.hsh with job := some ⟨0, 0, 5, 3, 32, true, true, false, 14⟩, pkeCore0 := true } }))
    let j : HshJob := ⟨0, 0, 5, 3, 32, true, true, false, 14⟩
    s.on ∧ s.dev.hsh.job = some j ∧ hshKeccak j.fn = true := by decide +kernel

theorem witness_PublicKeyAndHashComplete_15 :
    let s : State := (fld (fld (fld s0 LOCK_owner 0x0E 0 (pgHSH)) HSH_LEN_len 5 0 0) HSH_SRC_LO_addr 0x017E0000 0 0)
    let r : Req := .refuge
    let last : Bool := true
    let j : HshJob := s.dev.hshStaged true last false
    s.accepts r pgHSH 0x058 ∧ s.dev.hsh.job = none ∧ s.dev.reach j.owner false j.src j.len = .ok ∧ j.toMem = false ∧
      s.dev.hshBad j = false ∧ ((hshKeccak j.fn = true → s.dev.hsh.pkeCore0 = false)) := by decide +kernel

theorem witness_PublicKeyAndHashComplete_16 :
    let s : State := (upd (fld (fld (fld s0 LOCK_owner 0x0E 0 (pgHSH)) HSH_FN_fn 5 0 0) HSH_FN_out_len 16 0 0) (fun d => { d with hsh := { d.hsh with xof := some ((hshStart 5).finish, 0) } }))
    let r : Req := .refuge
    let j : HshJob := s.dev.hshStaged false false true
    s.accepts r pgHSH 0x058 ∧ s.dev.hsh.job = none ∧ j.toMem = false ∧ s.dev.hshBad j = false ∧ s.dev.hsh.chain = none ∧
      s.dev.hsh.pkeCore0 = false := by decide +kernel

theorem witness_PublicKeyAndHashComplete_17 :
    let s : State := (fld s0 LOCK_owner 0x0E 0 (pgHSH))
    let r : Req := .refuge
    s.accepts r pgHSH 0x058 ∧ s.dev.hsh.job = none := by decide +kernel

theorem witness_PublicKeyAndHashComplete_18 :
    let s : State := (upd (fld s0 LOCK_owner 0x0E 0 (pgHSH)) (fun d => { d with hsh := { d.hsh with job := some ⟨0, 0, 5, 3, 32, true, true, false, 14⟩ } }))
    let r : Req := .refuge
    let j : HshJob := ⟨0, 0, 5, 3, 32, true, true, false, 14⟩
    s.accepts r pgHSH 0x058 ∧ s.dev.hsh.job = some j ∧ j.toMem = false := by decide +kernel

theorem witness_PublicKeyAndHashComplete_19 :
    let s : State := (upd s0 (fun d => { d with hsh := { d.hsh with job := some ⟨0x017E0000, 0, 5, 3, 32, true, true, false, 14⟩ } }))
    let j : HshJob := ⟨0x017E0000, 0, 5, 3, 32, true, true, false, 14⟩
    let src : List Byte := zeros 5
    let d0 : Dev := ((s.dev.cleared.jobRead 14 0x017E0000 5).2.2)
    s.on ∧ s.dev.hsh.job = some j ∧ j.squeeze = false ∧ j.first = true ∧ j.last = true ∧ hshShake j.fn = false ∧
      ((hshKeccak j.fn = true → s.dev.hsh.pkeCore0 = false)) ∧ s.dev.cleared.jobRead j.owner j.src j.len = (.ok, src, d0) := by
  decide +kernel

theorem witness_ResetsAndStartComplete_0 :
    let s : State := s0
    s.dev.bivouac = false := by decide +kernel

theorem witness_ResetsAndStartComplete_2 :
    let s : State := s0
    s.on ∧ s.dev.bivouac = false := by decide +kernel

theorem witness_ResetsAndStartComplete_3 :
    let s : State := (upd (fld s0 RFG_BOOT_CAUSE_cause 1 0 0) (fun d => { d with bivouac := true }))
    s.on ∧ s.dev.bivouac = true ∧ s.dev.rd RFG_BOOT_CAUSE_cause ≠ 0 ∧ s.dev.rd RFG_BOOT_CAUSE_cause ≠ 7 := by decide +kernel

theorem witness_ResetsAndStartComplete_4 :
    let s : State := s0
    let r : Req := .refuge
    s.accepts r pgSYS 0x04C ∧ s.dev.bivouac = false := by decide +kernel

theorem witness_ResetsAndStartComplete_5 :
    let s : State := (upd s0 (fun d => { d with sys := { d.sys with outHigh := true } }))
    let r : Req := .refuge
    s.accepts r pgSYS 0x050 ∧ s.dev.sys.outHigh = true := by decide +kernel

theorem witness_ResetsAndStartComplete_6 :
    let s : State := (upd s0 (fun d => { d with sys := { d.sys with outHigh := false }, cclk := 10 ^ 12 }))
    let r : Req := .refuge
    s.accepts r pgSYS 0x050 ∧ s.dev.sys.outHigh = false ∧ s.dev.sys.outTill ≤ s.dev.cclk := by decide +kernel

theorem witness_ResetsAndStartComplete_8 :
    let s : State := s0
    let v : BaseEnv := ⟨false, true, true, ⟨[], [], [], none, false⟩, [], [], ⟨[], 0, zeros 16, 0, [], [], [], 0, []⟩, [], 0, none, []⟩
    s.on ∧ s.dev.rfg.baseDone = false ∧ s.dev.bivouac = false ∧ v.lockstep = false := by decide +kernel

theorem witness_ResetsAndStartComplete_9 :
    let s : State := (upd (fld s0 TRN_STAT_drbg_ready 1 0 0) (fun d => { d with rfg := { d.rfg with baseDone := true } }))
    s.on ∧ s.dev.rfg.baseDone = true ∧ s.dev.bivouac = false ∧ s.dev.rd RFG_STAGE_stage = 0 ∧
      s.dev.flag TRN_STAT_drbg_ready = true := by decide +kernel

theorem witness_ResetsAndStartComplete_11 :
    let s : State := (fld s0 RFG_STAGE_stage 1 0 0)
    let m' : Manifest := ⟨[], 0, zeros 16, 0, [], [], [], 0, []⟩
    let m : Manifest := s.dev.rfg.station.getD m'
    let c : Nat := (s.dev.cleared.wr RFG_STAGE_stage 2).manifestCause m false
    s.on ∧ s.dev.bivouac = false ∧ s.dev.rd RFG_STAGE_stage = 1 ∧ c ≠ 0 := by decide +kernel

theorem witness_ResetsAndStartComplete_12 :
    let s : State := (fld s0 RFG_STAGE_stage 2 0 0)
    s.on ∧ s.dev.bivouac = false ∧ s.dev.rd RFG_STAGE_stage = 2 := by decide +kernel

theorem witness_ResetsAndStartComplete_13 :
    let s : State := (fld (fld s0 RFG_STAGE_stage 3 0 0) LCC_STATE_state 1 0 0)
    let r : Req := .refuge
    s.accepts r pgRFG 0x048 ∧ s.dev.rd RFG_STAGE_stage = 3 ∧ s.dev.sinceReset < 30 * cclkPerS := by decide +kernel

theorem witness_ResetsAndStartComplete_14 :
    let s : State := s0
    let r : Req := .refuge
    let key : BitVec 8 := 1
    s.accepts r pgRFG 0x048 ∧ s.dev.rd RFG_STAGE_stage < 3 ∧ key ≠ 0x5A := by decide +kernel

theorem witness_ResetsAndStartComplete_15 :
    let s : State := (upd (fld s0 RFG_STAGE_stage 3 0 0) (fun d => { d with cclk := 30 * cclkPerS }))
    s.on ∧ s.dev.bivouac = false ∧ s.dev.rd RFG_STAGE_stage < 4 ∧ 30 * cclkPerS ≤ s.dev.sinceReset := by decide +kernel

theorem witness_ResetsAndStartComplete_16 :
    let s : State := (upd s0 (fun d => { d with bivouac := true }))
    let payload : List Byte := leBytes 7 4 ++ leBytes 0 4 ++ leBytes 5 2 ++ leBytes 2 2 ++ zeros 5
    let len : Nat := leAt payload 8 2
    let fl : Nat := leAt payload 10 2
    s.on ∧ s.dev.bivouac = true ∧ s.dev.rfg.session = none ∧ 0 < len ∧ len ≤ 8192 ∧ 12 + len ≤ payload.length ∧ fl < 4 ∧
      fl.testBit 0 = false ∧ leAt payload 4 4 = 0 := by decide +kernel

theorem witness_RefugeCommandsComplete_7 :
    let s : State := (upd (fld s0 LCC_STATE_state 1 0 0) (fun d => { d with rfg := { d.rfg with refused := 9 } }))
    let b : List Byte := (leBytes 0xC701 2 ++ leBytes 0 1 ++ leBytes 0 1 ++ zeros 16 ++ zeros 32 ++ leBytes 8 1 ++ leBytes 1 1 ++ zeros 2 ++ leBytes 0x7F 4 ++ leBytes 86400 4 ++ zeros 24)
    let env : CmdEnv := ⟨zeros 64, [], [], none, false⟩
    let c : SignedCmd := parseCmd b
    s.on ∧ leAt b 0x34 1 = 8 ∧ c.bad = false ∧ s.dev.cmdAuth c b env = false := by decide +kernel

theorem witness_RefugeCommandsComplete_8 :
    let s : State := (fld s0 TRN_STAT_drbg_ready 1 0 0)
    let r : Req := .refuge
    s.accepts r pgRFG 0x04C ∧ s.dev.rfg.holdUntil ≤ s.dev.cclk ∧ s.dev.flag TRN_STAT_drbg_ready = true := by decide +kernel

theorem witness_RefugeCommandsComplete_9 :
    let s : State := (upd s0 (fun d => { d with rfg := { d.rfg with holdUntil := 5 } }))
    let r : Req := .refuge
    s.accepts r pgRFG 0x04C ∧ s.dev.cclk < s.dev.rfg.holdUntil := by decide +kernel

theorem witness_RefugeCommandsComplete_10 :
    let s : State := (fld (fld s0 RFG_DBG_active 1 0 0) RFG_DBG_perms 5 0 0)
    let r : Req := .refuge
    s.accepts r pgRFG 0x070 ∧ s.dev.flag RFG_DBG_active = true := by decide +kernel

theorem witness_RefugeCommandsComplete_11 :
    let s : State := (fld (fld s0 RFG_DBG_active 1 0 0) RFG_DBG_perms 5 0 0)
    s.on ∧ s.dev.rfg.dbgUntil ≤ s.dev.cclk ∧ s.dev.flag RFG_DBG_active = true := by decide +kernel

theorem witness_RefugeCommandsComplete_14 :
    let s : State := (upd (fld s0 TRN_STAT_drbg_ready 1 0 0) (fun d => { d with cclk := cclkPerS }))
    s.on ∧ s.dev.flag TRN_STAT_drbg_ready = true ∧ ((s.dev.rfg.trnReseedAt + cclkPerS ≤ s.dev.cclk ∨ 65536 ≤ s.dev.rfg.trnReqs)) := by
  decide +kernel

theorem witness_RefugeCommandsComplete_16 :
    let s : State := (upd (fld s0 TRN_STAT_health_ok 0 0 0) (fun d => { d with cclk := 100 * cclkPerMs }))
    s.on ∧ s.dev.flag TRN_STAT_health_ok = false ∧ s.dev.rfg.trnFailAt + 100 * cclkPerMs ≤ s.dev.cclk := by decide +kernel

theorem witness_GuardAndDebugComplete_0 :
    let s : State := s0
    let src : Fin 64 := 31
    s.on ∧ (src.val < 32 ∨ (36 < src.val ∧ src.val < 48)) ∧ s.dev.tmpActive src = true := by decide +kernel

theorem witness_GuardAndDebugComplete_1 :
    let s : State := (fld (fld s0 TMP_GLITCH_count 2 0 0) TMP_GLITCH_limit 0 0 0)
    let src : Fin 64 := 36
    s.on ∧ 32 ≤ src.val ∧ src.val ≤ 36 ∧ s.dev.tmpActive src = true ∧ s.dev.tmpLatch.testBit src = false ∧
      0 < s.dev.rd TMP_GLITCH_count ∧ s.dev.rd TMP_GLITCH_limit = 0 := by decide +kernel

theorem witness_GuardAndDebugComplete_2 :
    let s : State := (fld s0 LCC_FUSE_HI_disabled 0x100 0 0)
    let src : Fin 64 := 40
    s.on ∧ s.dev.tmpActive src = false := by decide +kernel

theorem witness_GuardAndDebugComplete_3 :
    let s : State := s0
    let cond : Fin 4 := 2
    s.on ∧ cond.val ≠ 3 := by decide +kernel

theorem witness_GuardAndDebugComplete_4 :
    let s : State := (upd s0 (fun d => d.setLatch 63 true))
    let r : Req := .refuge
    let hi : Bool := true
    let i : Fin 32 := 31
    let n : Nat := (if hi then 32 else 0) + i
    s.accepts r pgTMP (if hi then 0x04C else 0x048) ∧ s.dev.tmpLatch.testBit n = true ∧ s.dev.tmpCond.testBit n = false := by
  decide +kernel

theorem witness_GuardAndDebugComplete_5 :
    let s : State := (upd s0 (fun d => (d.setLatch 31 true).setCond 31 true))
    let r : Req := .refuge
    let hi : Bool := false
    let i : Fin 32 := 31
    let n : Nat := (if hi then 32 else 0) + i
    s.accepts r pgTMP (if hi then 0x04C else 0x048) ∧ s.dev.tmpLatch.testBit n = true ∧ s.dev.tmpCond.testBit n = true := by
  decide +kernel

theorem witness_GuardAndDebugComplete_6 :
    let s : State := s0
    let r : Req := .refuge
    let hi : Bool := true
    s.accepts r pgTMP (if hi then 0x044 else 0x040) ∧ s.dev.wlLocked.contains (regKey pgTMP (if hi then 0x044 else 0x040)) = false := by
  decide +kernel

theorem witness_GuardAndDebugComplete_7 :
    let s : State := (upd (fld (fld s0 TMP_GLITCH_count 2 0 0) TMP_GLITCH_window_s 1 0 0) (fun d => { d with cclk := cclkPerS }))
    s.on ∧ s.dev.rd TMP_GLITCH_count ≠ 0 ∧ s.dev.tmp.glitchAt + max 1 (s.dev.rd TMP_GLITCH_window_s) * cclkPerS ≤ s.dev.cclk := by
  decide +kernel

theorem witness_GuardAndDebugComplete_8 :
    let mv : BitVec 12 := 3000
    2200 ≤ mv.toNat ∧ mv.toNat ≤ 3800 := by decide +kernel

theorem witness_GuardAndDebugComplete_9 :
    let s : State := s0
    let mv : BitVec 12 := 2199
    s.on ∧ s.dev.flag BKD_STAT_on_vbat = false ∧ s.dev.bkdArm = 0 ∧ s.dev.bkd.standing = [] ∧ mv.toNat < 2200 := by decide +kernel

theorem witness_GuardAndDebugComplete_10 :
    let s : State := (fld (fld s0 BKD_STAT_on_vbat 1 0 0) BKD_CFG_por_lock 1 0 0)
    s.dev.flag BKD_STAT_on_vbat = true := by decide +kernel

theorem witness_GuardAndDebugComplete_11 :
    let s : State := (fld (fld (fld s0 BKD_STAT_on_vbat 1 0 0) BKD_ARM_LO_armed 0xFFFFFFFF 0 0) BKD_ARM_HI_armed 0xFFFFFFFF 0 0)
    let src : Fin 64 := 47
    s.dev.flag BKD_STAT_on_vbat = true ∧ (s.dev.bkdArm &&& bSources).testBit src = true ∧ s.dev.bkd.seen.get src 0 = 0 ∧
      s.dev.bkd.standing = [] ∧ s.dev.evmHas src = false := by decide +kernel

theorem witness_GuardAndDebugComplete_12 :
    let s : State := s0
    let r : Req := .refuge
    s.accepts r pgBKD 0x064 := by decide +kernel

theorem witness_GuardAndDebugComplete_13 :
    let s : State := s0
    let r : Req := .refuge
    s.acceptsRead r pgBKD 0x05C := by decide +kernel

theorem witness_GuardAndDebugComplete_14 :
    let s : State := (fld s0 BKD_VAULT_SEL_word 511 0 0)
    let r : Req := .refuge
    let i : Nat := 511
    s.accepts r pgBKD 0x06C ∧ i = s.dev.rd BKD_VAULT_SEL_word := by decide +kernel

theorem witness_GuardAndDebugComplete_15 :
    let s : State := s0
    let r : Req := .refuge
    s.acceptsRead r pgBKD 0x06C := by decide +kernel

-- GuardAndDebugComplete 18 to 21
theorem witness_GuardAndDebugComplete_18 :
    let s : State := (fld (fld s0 RFG_DBG_active 1 0 0) RFG_DBG_perms 0x7F 0 0)
    s.on ∧ s.dev.dbgPerm 5 = true := by decide +kernel

-- GuardAndDebugComplete 22 to 25
theorem witness_GuardAndDebugComplete_22 :
    let s : State := (fld s0 LCC_STATE_state 2 0 0)
    s.on ∧ s.dev.dbgPerm 5 = false := by decide +kernel

theorem witness_GuardAndDebugComplete_29 :
    let s : State := s0
    let a : BitVec 40 := 0xF000204C
    let env : MemEnv := ⟨false, 0, [], []⟩
    let page : Nat := (pageOfAddr a.toNat).1
    s.on ∧ 0xF0000000 ≤ a.toNat ∧ a.toNat < 0x100000000 ∧ (pageBlock page).isSome = true ∧ a.toNat % 4 = 0 ∧ env.parity = false := by
  decide +kernel

theorem witness_GuardAndDebugComplete_30 :
    let s : State := s0
    let r : Req := .refuge
    s.accepts r pgDBG 0x040 ∧ s.dev.jtag.mbox.length < 65536 := by decide +kernel

theorem witness_GuardAndDebugComplete_32 :
    let s : State := s0
    let r : Req := .refuge
    let n : Fin 131072 := 0
    s.accepts r pgDBG 0x044 ∧ n.val ≤ s.dev.jtag.mbox.length := by decide +kernel

theorem witness_FlashCompletes_0 :
    let s : State := (upd (fld s0 FLC_STAT_scan_done 1 0 0) (fun d => ((d.wrOwn 0x0E FLC_WDATAk_bytes 5 7)).wrOwn 0x0E FLC_ADDR_line (1000 * 1024 + 3)))
    let r : Req := .refuge
    let l : List (Req × Fin 4) := [(.hst, 1)]
    let b : Nat := 1000
    let o : Nat := s.dev.flAddr (reqId r)
    s.hasBank r l ∧ b = flBlock o ∧ s.dev.flCommon (reqId r) = .ok ∧ s.dev.flMayWrite r b = true ∧
      s.dev.flc.programmed.any (fun e => e.1 == flLine o) = false ∧ s.dev.indet b = false ∧ s.dev.flProgState b = .ok := by
  decide +kernel

theorem witness_FlashCompletes_1 :
    let s : State := { (upd (fld s0 FLC_STAT_scan_done 1 0 0) (fun d => (d).wrOwn 0x0E FLC_ADDR_line (1000 * 1024 + 3))) with rr := 15 }
    let r : Req := .refuge
    let l : List (Req × Fin 4) := [(.eng 0, 3)]
    s.on ∧ losesBank s.rr r (flBank (s.dev.flAddr (reqId r))) (l.map (fun x => (x.1, x.2.val))) = true ∧
      s.dev.flRunning (reqId r) = false := by decide +kernel

-- FlashCompletes 2, 3
theorem witness_FlashCompletes_2 :
    let s : State := { (upd (fld s0 FLC_STAT_scan_done 1 0 0) (fun d => (d.setBank 0 { erase := some { block := 0, owner := 0x0E, since := 0 } }).wrOwn 0x0E FLC_ADDR_line (1000 * 1024 + 3))) with rr := 15 }
    let r : Req := .refuge
    let l : List (Req × Fin 4) := [(.eng 0, 3)]
    s.on ∧ losesBank s.rr r (flBank (s.dev.flAddr (reqId r))) (l.map (fun x => (x.1, x.2.val))) = true ∧
      s.dev.flRunning (reqId r) = true := by decide +kernel

theorem witness_FlashCompletes_4 :
    let s : State := (upd (fld (fld (fld (eng { eng0 with  } 95) FLC_STAT_scan_done 1 0 0) WORLD_ACC_world 3 0 0x080) ENG_WORLD_world 1 0 5) (fun d => (d.setEng 5 eng0).wrOwn 0x15 FLC_ADDR_line 7))
    let r : Req := .eng 5
    let l : List (Req × Fin 4) := []
    let b : Nat := flBlock (s.dev.flAddr (reqId r))
    s.hasBank r l ∧ s.dev.flRunning (reqId r) = false ∧ s.dev.flag FLC_STAT_scan_done = true ∧ s.dev.flRegionWrite r b = false ∧
      s.dev.flEraseState b = .ok := by decide +kernel

-- FlashCompletes 5, 6
theorem witness_FlashCompletes_5 :
    let s : State := (upd s0 (fun d => d.setBank 0 { prog := some ⟨5, zeros 32, 0x0E⟩ }))
    let bank : Fin 4 := 0
    let p : FlProg := ⟨5, zeros 32, 0x0E⟩
    s.on ∧ (s.dev.bank bank).prog = some p ∧ (s.dev.bank bank).erase = none := by decide +kernel

theorem witness_FlashCompletes_7 :
    let s : State := (upd (fld s0 FLC_STAT_scan_done 1 0 0) (fun d => (d).wrOwn 0x0E FLC_ADDR_line (1000 * 1024 + 3)))
    let r : Req := .refuge
    let l : List (Req × Fin 4) := []
    let b : Nat := flBlock (s.dev.flAddr (reqId r))
    let n : Nat := satAdd 0xFFFFFF (s.dev.eraseCount b) 1
    s.hasBank r l ∧ s.dev.flCommon (reqId r) = .ok ∧ s.dev.flMayWrite r b = true ∧ b < 1022 ∧ s.dev.flEraseState b = .ok ∧
      n < flRating b := by decide +kernel

-- FlashCompletes 8, 9
theorem witness_FlashCompletes_8 :
    let s : State := (upd s0 (fun d => d.setBank 3 { erase := some { block := 1000, owner := 0x0E, since := 0 } }))
    let bank : Fin 4 := 3
    let e : FlErase := { block := 1000, owner := 0x0E, since := 0 }
    s.on ∧ (s.dev.bank bank).erase = some e ∧ e.suspended = false ∧ e.hold = [] := by decide +kernel

theorem witness_FlashCompletes_10 :
    let s : State := (upd (fld s0 FLC_STAT_scan_done 1 0 0) (fun d => (d.setBank 3 { erase := some { block := 1000, owner := 0x0E, since := 0 } }).wrOwn 0x0E FLC_ADDR_line (1000 * 1024 + 3)))
    let r : Req := .refuge
    let l : List (Req × Fin 4) := []
    let e : FlErase := { block := 1000, owner := 0x0E, since := 0 }
    let b : Nat := flBlock (s.dev.flAddr (reqId r))
    s.hasBank r l ∧ (s.dev.bank (b / 256)).erase = some e ∧ s.dev.flSuspCommon (reqId r) (b / 256) = .ok ∧
      s.dev.flOwnsErase r b = true ∧ e.suspended = false := by decide +kernel

theorem witness_FlashCompletes_11 :
    let s : State := (upd s0 (fun d => { d.setBank 3 { erase := some { block := 1000, owner := 0x0E, since := 0, hold := [0x0E] } } with cclk := 500 * cclkPerUs }))
    let bank : Fin 4 := 3
    let e : FlErase := { block := 1000, owner := 0x0E, since := 0, hold := [0x0E] }
    let q : Nat := 0x0E
    s.on ∧ (s.dev.bank bank).erase = some e ∧ e.hold = [q] ∧ e.since + 500 * cclkPerUs ≤ s.dev.cclk := by decide +kernel

theorem witness_FlashCompletes_12 :
    let s : State := (upd (fld s0 FLC_STAT_scan_done 1 0 0) (fun d => (d.setBank 3 { erase := some { block := 1000, owner := 0x0E, since := 0, suspended := true } }).wrOwn 0x0E FLC_ADDR_line (1000 * 1024 + 3)))
    let r : Req := .refuge
    let l : List (Req × Fin 4) := []
    let e : FlErase := { block := 1000, owner := 0x0E, since := 0, suspended := true }
    let b : Nat := flBlock (s.dev.flAddr (reqId r))
    s.hasBank r l ∧ (s.dev.bank (b / 256)).erase = some e ∧ s.dev.flSuspCommon (reqId r) (b / 256) = .ok ∧
      s.dev.flOwnsErase r b = true ∧ e.suspended = true ∧ (s.dev.bank (b / 256)).prog = none := by decide +kernel

theorem witness_FlashCompletes_13 :
    let s : State := (upd (fld s0 FLC_STAT_scan_done 1 0 0) (fun d => (d).wrOwn 0x0E FLC_ADDR_line (1000 * 1024 + 3)))
    let r : Req := .refuge
    let l : List (Req × Fin 4) := []
    let o : Nat := s.dev.flAddr (reqId r)
    s.hasBank r l ∧ s.dev.flReadCmdStatus r false = .ok ∧ (s.dev.bank (flBank o)).prog = none ∧ s.dev.flEcc (flLine o) = 0 := by
  decide +kernel

theorem witness_FlashCompletes_14 :
    let s : State := (upd (fld s0 FLC_STAT_scan_done 1 0 0) (fun d => (d).wrOwn 0x0E FLC_ADDR_line (1000 * 1024 + 3)))
    let r : Req := .refuge
    let l : List (Req × Fin 4) := []
    let b : Nat := flBlock (s.dev.flAddr (reqId r))
    s.hasBank r l ∧ s.dev.flReadCmdStatus r false = .ok ∧ (s.dev.bank (b / 256)).prog = none ∧
      ((∀ i < 1024, s.dev.flEcc (1024 * b + i) ≠ 2 ∧ (s.dev.flLineData (1024 * b + i)).all (· == 0xFF) = true)) := by decide +kernel

theorem witness_FlashCompletes_15 :
    let s : State := (upd (fld s0 FLC_STAT_scan_done 1 0 0) (fun d => (d).wrOwn 0x0E FLC_ADDR_line (1000 * 1024 + 3)))
    let r : Req := .refuge
    let l : List (Req × Fin 4) := []
    let b : Nat := flBlock (s.dev.flAddr (reqId r))
    s.hasBank r l ∧ s.dev.flCommon (reqId r) = .ok ∧ s.dev.flMayRead r b = true ∧ (s.dev.bank (b / 256)).erase = none := by
  decide +kernel

theorem witness_FlashCompletes_16 :
    let s : State := (upd s0 (fun d => { d.setBank 3 { erase := some { block := 1000, owner := 0x0E, since := 0, suspended := true } } with cclk := cclkPerS + 1 }))
    let bank : Fin 4 := 3
    let e : FlErase := { block := 1000, owner := 0x0E, since := 0, suspended := true }
    s.on ∧ (s.dev.bank bank).erase = some e ∧ e.suspended = true ∧ e.long = false ∧ e.suspAt + cclkPerS < s.dev.cclk := by
  decide +kernel

theorem witness_RecorderCompletes_0 :
    let s : State := (upd s0 (fun d => { d with evr := { d.evr with direct := [(5, ⟨0x9001, 4, 1, 0, false, 5, 100, 0, ⟨1, 2, 3⟩⟩)] } }))
    let x : Rec := ⟨0x9001, 4, 1, 0, false, 5, 100, 0, ⟨1, 2, 3⟩⟩
    let d0 : Dev := (s0.dev.cleared)
    s.on ∧ 0 < s.dev.evr.credits ∧ s.dev.cleared.nextTake = some (x, d0) ∧ x.sev < 6 ∧
      ((∀ t, d0.evr.closed = some t → t < x.time)) ∧ d0.flag ISD_REXP_en = false := by
  refine ⟨by decide +kernel, by decide +kernel, by decide +kernel, by decide +kernel, ?_, by decide +kernel⟩
  intro t h
  cases (show (none : Option Nat) = some t from h)

theorem witness_RecorderCompletes_1 :
    let s : State := (upd s0 (fun d => { d with cclk := 800, evr := { d.evr with credits := 64 } }))
    s.on ∧ s.dev.evr.creditAt + 800 ≤ s.dev.cclk := by decide +kernel

theorem witness_RecorderCompletes_2 :
    let s : State := (upd s0 (fun d => { d with evr := { d.evr with ticks := [900,800,700,600,100], taken := [⟨0x9001, 4, 1, 0, false, 5, 100, 0, ⟨1, 2, 3⟩⟩, { (⟨0x9001, 4, 1, 0, false, 5, 100, 0, ⟨1, 2, 3⟩⟩ : Rec) with time := 101 }] } }))
    let t : Nat := 100
    s.on ∧ s.dev.evr.ticks[4]? = some t := by decide +kernel

theorem witness_RecorderCompletes_3 :
    let s : State := (upd (fld (fld (fld s0 EVR_CFG_flog_en 1 0 0) EVR_CFG_flog_first 512 0 0) FLC_STAT_scan_done 1 0 0) (fun d => { d with evr := { d.evr with retained := [⟨⟨0x9001, 6, 1, 0, false, 5, 100, 7, ⟨1, 2, 3⟩⟩, true, false⟩], unstaged := [⟨0x9001, 6, 1, 0, false, 5, 100, 7, ⟨1, 2, 3⟩⟩, ⟨0x9001, 4, 1, 0, false, 5, 100, 0, ⟨1, 2, 3⟩⟩] } }))
    let x : Rec := ⟨0x9001, 6, 1, 0, false, 5, 100, 7, ⟨1, 2, 3⟩⟩
    s.on ∧ s.dev.flag EVR_CFG_flog_en = true ∧ s.dev.logReady = true ∧ s.dev.nextCommit = some x ∧ x.sev < 7 ∧
      (liveOf s.dev.evr.log).length < logMax := by decide +kernel

theorem witness_RecorderCompletes_4 :
    let s : State := (upd (fld (fld s0 EVR_CFG_flog_en 1 0 0) EVR_CFG_flog_first 512 0 0) (fun d => { d with evr := { d.evr with log := [⟨1024, ⟨0x9001, 6, 1, 0, false, 5, 100, 7, ⟨1, 2, 3⟩⟩, false⟩, ⟨2048, ⟨0x9001, 6, 1, 0, false, 5, 100, 7, ⟨1, 2, 3⟩⟩, true⟩] } }.flPut (513 * 1024) (zeros 32)))
    let b : Nat := s.dev.spareBlock
    s.on ∧ s.dev.flag EVR_CFG_flog_en = true ∧ s.dev.blockUsed b = true ∧ s.dev.flEraseState b = .ok := by decide +kernel

theorem witness_RecorderCompletes_5 :
    let s : State := (upd (fld s0 EVR_CFG_mirror_en 1 0 0) (fun d => { d with evr := { d.evr with mirrorDue := true } }))
    s.on ∧ s.dev.evr.mirrorDue = true ∧ s.dev.flag EVR_CFG_mirror_en = true ∧ s.dev.isl.session = none := by decide +kernel

theorem witness_RecorderCompletes_6 :
    let s : State := (upd (fld s0 EVR_CFG_mirror_en 1 0 0) (fun d => { d with evr := { d.evr with mirrorDue := true }, isl := { d.isl with session := some (1 - d.isl.bank) } }))
    s.on ∧ s.dev.evr.mirrorDue = true ∧ s.dev.flag EVR_CFG_mirror_en = true ∧ s.dev.isl.session = some (1 - s.dev.isl.bank) := by
  decide +kernel

theorem witness_RecorderCompletes_7 :
    let s : State := (upd s0 (fun d => { d with cclk := 60 * cclkPerS, evr := { d.evr with mirrorFrom := some 0 } }))
    let t : Nat := 0
    s.on ∧ s.dev.evr.mirrorFrom = some t ∧ t + 60 * cclkPerS ≤ s.dev.cclk := by decide +kernel

theorem witness_CardCompletes_0 :
    let s : State := (fld s0 STATUS_enabled 1 0 pgCRD)
    s.on ∧ s.dev.crdEnabled = true ∧ s.dev.flag CRD_STAT_present = false := by decide +kernel

theorem witness_CardCompletes_1 :
    let s : State := (upd (fld s0 CRD_STAT_present 1 0 0) (fun d => { d with crd := { d.crd with card := some { echo := some 0xAA, ready := true, ccs := true, s18a := false, switchOk := false, cid := 5, csd := 2 ^ 126, scr := 2 ^ 50, cap := 100000, modes := 0, badModes := 0, tunes := true, confirms := true, wp := false, content := [] } } }))
    s.on ∧ s.dev.flag CRD_STAT_present = true ∧ s.dev.crd.writing = [] ∧ s.dev.crd.job = none := by decide +kernel

theorem witness_CardCompletes_2 :
    let s : State := (upd (fld s0 CRD_STAT_present 1 0 0) (fun d => { d with crd := { d.crd with identify := true, card := some { ({ echo := some 0xAA, ready := true, ccs := true, s18a := false, switchOk := false, cid := 5, csd := 2 ^ 126, scr := 2 ^ 50, cap := 100000, modes := 0, badModes := 0, tunes := true, confirms := true, wp := false, content := [] } : Card) with ready := false } } }))
    let c : Card := { ({ echo := some 0xAA, ready := true, ccs := true, s18a := false, switchOk := false, cid := 5, csd := 2 ^ 126, scr := 2 ^ 50, cap := 100000, modes := 0, badModes := 0, tunes := true, confirms := true, wp := false, content := [] } : Card) with ready := false }
    let step : Nat := 2
    let st : Status := .timeout
    s.on ∧ s.dev.bivouac = false ∧ s.dev.crd.card = some c ∧ s.dev.crd.identify = true ∧ s.dev.crd.readyAt ≤ s.dev.cclk ∧
      cardIdentifyAs c = .error (step, st) := by decide +kernel

theorem witness_CardCompletes_4 :
    let s : State := (upd (fld s0 CRD_STAT_present 1 0 0) (fun d => { d with crd := { d.crd with identify := true, card := some { echo := some 0xAA, ready := true, ccs := true, s18a := false, switchOk := false, cid := 5, csd := 2 ^ 126, scr := 2 ^ 50, cap := 100000, modes := 2, badModes := 2, tunes := true, confirms := true, wp := false, content := [] } } }))
    let c : Card := { echo := some 0xAA, ready := true, ccs := true, s18a := false, switchOk := false, cid := 5, csd := 2 ^ 126, scr := 2 ^ 50, cap := 100000, modes := 2, badModes := 2, tunes := true, confirms := true, wp := false, content := [] }
    let type : Nat := 3
    s.on ∧ s.dev.crd.card = some c ∧ s.dev.crd.identify = true ∧ s.dev.crd.readyAt ≤ s.dev.cclk ∧ cardIdentifyAs c = .ok type ∧
      s.dev.bivouac = false := by decide +kernel

theorem witness_CardCompletes_5 :
    let s : State := (upd (fld (fld s0 CRD_CFG_park_ms 1 0 0) CRD_STAT_present 1 0 0) (fun d => { d with cclk := cclkPerMs }))
    s.on ∧ s.dev.rd CRD_CFG_park_ms ≠ 0 ∧ s.dev.crd.job = none ∧ s.dev.crd.writing = [] ∧ s.dev.crdWaits 0 = false ∧
      s.dev.crdWaits 1 = false ∧ s.dev.crdWaits 2 = false ∧
      s.dev.crd.lastAccess + s.dev.rd CRD_CFG_park_ms * cclkPerMs ≤ s.dev.cclk ∧ s.dev.flag CRD_STAT_present = true ∧
      s.dev.flag CRD_STAT_parked = false := by decide +kernel

theorem witness_CardCompletes_6 :
    let s : State := (upd (fld (fld (fld (fld (fld (fld (fld s0 STATUS_enabled 1 0 pgCRD) CRD_STAT_present 1 0 0) CRD_STAT_mounted 1 0 0) CRD_CAP_blocks 100000 0 0) CRD_STAT_type 3 0 0) CRD_Q_en 1 0 0) CRD_Q_queue 7 0 0) (fun d => (({ d with crd := { d.crd with card := some { echo := some 0xAA, ready := true, ccs := true, s18a := false, switchOk := false, cid := 5, csd := 2 ^ 126, scr := 2 ^ 50, cap := 100000, modes := 0, badModes := 0, tunes := true, confirms := true, wp := false, content := [] }, ringStart := 10, ringLen := 1000 } }).setQ 7 { known := true, w0 := 2 ^ 31 + 9 * 2 ^ 24 + 4 * 2 ^ 20, w1 := 0, enabled := true, prod := 1, ents := [{}] }).store sbBase (mkHdr 200 1 0xFFFF 0 3 5 ++ ([0,0] ++ leBytes 1 1 ++ [0] ++ leBytes 9 4 ++ (List.replicate 32 0x55)))))
    let n : Nat := 7
    let b : List Byte := (((upd (fld (fld (fld (fld (fld (fld (fld s0 STATUS_enabled 1 0 pgCRD) CRD_STAT_present 1 0 0) CRD_STAT_mounted 1 0 0) CRD_CAP_blocks 100000 0 0) CRD_STAT_type 3 0 0) CRD_Q_en 1 0 0) CRD_Q_queue 7 0 0) (fun d => (({ d with crd := { d.crd with card := some { echo := some 0xAA, ready := true, ccs := true, s18a := false, switchOk := false, cid := 5, csd := 2 ^ 126, scr := 2 ^ 50, cap := 100000, modes := 0, badModes := 0, tunes := true, confirms := true, wp := false, content := [] }, ringStart := 10, ringLen := 1000 } }).setQ 7 { known := true, w0 := 2 ^ 31 + 9 * 2 ^ 24 + 4 * 2 ^ 20, w1 := 0, enabled := true, prod := 1, ents := [{}] }).store sbBase (mkHdr 200 1 0xFFFF 0 3 5 ++ ([0,0] ++ leBytes 1 1 ++ [0] ++ leBytes 9 4 ++ (List.replicate 32 0x55)))))).dev.cleared.blockClaim 7 65536).1.getD []
    let d0 : Dev := (((upd (fld (fld (fld (fld (fld (fld (fld s0 STATUS_enabled 1 0 pgCRD) CRD_STAT_present 1 0 0) CRD_STAT_mounted 1 0 0) CRD_CAP_blocks 100000 0 0) CRD_STAT_type 3 0 0) CRD_Q_en 1 0 0) CRD_Q_queue 7 0 0) (fun d => (({ d with crd := { d.crd with card := some { echo := some 0xAA, ready := true, ccs := true, s18a := false, switchOk := false, cid := 5, csd := 2 ^ 126, scr := 2 ^ 50, cap := 100000, modes := 0, badModes := 0, tunes := true, confirms := true, wp := false, content := [] }, ringStart := 10, ringLen := 1000 } }).setQ 7 { known := true, w0 := 2 ^ 31 + 9 * 2 ^ 24 + 4 * 2 ^ 20, w1 := 0, enabled := true, prod := 1, ents := [{}] }).store sbBase (mkHdr 200 1 0xFFFF 0 3 5 ++ ([0,0] ++ leBytes 1 1 ++ [0] ++ leBytes 9 4 ++ (List.replicate 32 0x55)))))).dev.cleared.blockClaim 7 65536).2
    let p : List Byte := b.drop 16
    s.on ∧ s.dev.crdEnabled = true ∧ s.dev.crd.job = none ∧ s.dev.crd.writing = [] ∧ s.dev.crdQueue 0 = some n ∧
      s.dev.cleared.blockClaim n 65536 = (some b, d0) ∧ d0.flag CRD_STAT_parked = false ∧ leAt p 2 1 = 1 ∧ 8 ≤ p.length ∧
      leAt p 4 4 ≠ 0 ∧ leAt p 4 4 ≤ 0xFFFFFFEF ∧ d0.flag CRD_STAT_mounted = true ∧ d0.flag CRD_STAT_wp = false := by decide +kernel

theorem witness_CardCompletes_7 :
    let s : State := (upd (fld (fld (fld (fld (fld (fld (fld s0 STATUS_enabled 1 0 pgCRD) CRD_STAT_present 1 0 0) CRD_STAT_mounted 1 0 0) CRD_CAP_blocks 100000 0 0) CRD_STAT_type 3 0 0) CRD_Q_en 1 0 0) CRD_Q_queue 7 0 0) (fun d => (({ d with crd := { d.crd with card := some { echo := some 0xAA, ready := true, ccs := true, s18a := false, switchOk := false, cid := 5, csd := 2 ^ 126, scr := 2 ^ 50, cap := 100000, modes := 0, badModes := 0, tunes := true, confirms := true, wp := false, content := [] }, ringStart := 10, ringLen := 1000 } }).setQ 7 { known := true, w0 := 2 ^ 31 + 9 * 2 ^ 24 + 4 * 2 ^ 20, w1 := 0, enabled := true, prod := 1, ents := [{}] }).store sbBase (mkHdr 200 1 0xFFFF 0 3 5 ++ ([0,0] ++ leBytes 2 1 ++ [0] ++ leBytes 3 4 ++ leBytes 2 2 ++ [0,0] ++ leBytes 4096 4))))
    let n : Nat := 7
    let b : List Byte := (((upd (fld (fld (fld (fld (fld (fld (fld s0 STATUS_enabled 1 0 pgCRD) CRD_STAT_present 1 0 0) CRD_STAT_mounted 1 0 0) CRD_CAP_blocks 100000 0 0) CRD_STAT_type 3 0 0) CRD_Q_en 1 0 0) CRD_Q_queue 7 0 0) (fun d => (({ d with crd := { d.crd with card := some { echo := some 0xAA, ready := true, ccs := true, s18a := false, switchOk := false, cid := 5, csd := 2 ^ 126, scr := 2 ^ 50, cap := 100000, modes := 0, badModes := 0, tunes := true, confirms := true, wp := false, content := [] }, ringStart := 10, ringLen := 1000 } }).setQ 7 { known := true, w0 := 2 ^ 31 + 9 * 2 ^ 24 + 4 * 2 ^ 20, w1 := 0, enabled := true, prod := 1, ents := [{}] }).store sbBase (mkHdr 200 1 0xFFFF 0 3 5 ++ ([0,0] ++ leBytes 2 1 ++ [0] ++ leBytes 3 4 ++ leBytes 2 2 ++ [0,0] ++ leBytes 4096 4))))).dev.cleared.blockClaim 7 65536).1.getD []
    let d0 : Dev := (((upd (fld (fld (fld (fld (fld (fld (fld s0 STATUS_enabled 1 0 pgCRD) CRD_STAT_present 1 0 0) CRD_STAT_mounted 1 0 0) CRD_CAP_blocks 100000 0 0) CRD_STAT_type 3 0 0) CRD_Q_en 1 0 0) CRD_Q_queue 7 0 0) (fun d => (({ d with crd := { d.crd with card := some { echo := some 0xAA, ready := true, ccs := true, s18a := false, switchOk := false, cid := 5, csd := 2 ^ 126, scr := 2 ^ 50, cap := 100000, modes := 0, badModes := 0, tunes := true, confirms := true, wp := false, content := [] }, ringStart := 10, ringLen := 1000 } }).setQ 7 { known := true, w0 := 2 ^ 31 + 9 * 2 ^ 24 + 4 * 2 ^ 20, w1 := 0, enabled := true, prod := 1, ents := [{}] }).store sbBase (mkHdr 200 1 0xFFFF 0 3 5 ++ ([0,0] ++ leBytes 2 1 ++ [0] ++ leBytes 3 4 ++ leBytes 2 2 ++ [0,0] ++ leBytes 4096 4))))).dev.cleared.blockClaim 7 65536).2
    let p : List Byte := b.drop 16
    s.on ∧ s.dev.crdEnabled = true ∧ s.dev.crd.job = none ∧ s.dev.crd.writing = [] ∧ s.dev.crdQueue 0 = some n ∧
      s.dev.cleared.blockClaim n 65536 = (some b, d0) ∧ d0.flag CRD_STAT_parked = false ∧ leAt p 2 1 = 2 ∧ 16 ≤ p.length ∧
      0 < leAt p 8 2 ∧ leAt p 8 2 ≤ 128 ∧ leAt p 10 2 = 0 ∧ leAt p 4 4 + leAt p 8 2 ≤ d0.rd CRD_CAP_blocks ∧
      leAt p 12 4 + 512 * leAt p 8 2 ≤ sbSize ∧ d0.rd CRD_STAT_type ≠ 0 := by decide +kernel

theorem witness_CardCompletes_8 :
    let s : State := (upd (fld (fld (fld (fld (fld (fld (fld s0 STATUS_enabled 1 0 pgCRD) CRD_STAT_present 1 0 0) CRD_STAT_mounted 1 0 0) CRD_CAP_blocks 100000 0 0) CRD_STAT_type 3 0 0) CRD_Q_en 1 0 0) CRD_Q_queue 7 0 0) (fun d => (({ d with crd := { d.crd with card := some { echo := some 0xAA, ready := true, ccs := true, s18a := false, switchOk := false, cid := 5, csd := 2 ^ 126, scr := 2 ^ 50, cap := 100000, modes := 0, badModes := 0, tunes := true, confirms := true, wp := false, content := [] }, ringStart := 10, ringLen := 1000 } }).setQ 7 { known := true, w0 := 2 ^ 31 + 9 * 2 ^ 24 + 4 * 2 ^ 20, w1 := 0, enabled := true, prod := 1, ents := [{}] }).store sbBase (mkHdr 200 1 0xFFFF 0 3 5 ++ ([0,0] ++ leBytes 3 1))))
    let n : Nat := 7
    let b : List Byte := (((upd (fld (fld (fld (fld (fld (fld (fld s0 STATUS_enabled 1 0 pgCRD) CRD_STAT_present 1 0 0) CRD_STAT_mounted 1 0 0) CRD_CAP_blocks 100000 0 0) CRD_STAT_type 3 0 0) CRD_Q_en 1 0 0) CRD_Q_queue 7 0 0) (fun d => (({ d with crd := { d.crd with card := some { echo := some 0xAA, ready := true, ccs := true, s18a := false, switchOk := false, cid := 5, csd := 2 ^ 126, scr := 2 ^ 50, cap := 100000, modes := 0, badModes := 0, tunes := true, confirms := true, wp := false, content := [] }, ringStart := 10, ringLen := 1000 } }).setQ 7 { known := true, w0 := 2 ^ 31 + 9 * 2 ^ 24 + 4 * 2 ^ 20, w1 := 0, enabled := true, prod := 1, ents := [{}] }).store sbBase (mkHdr 200 1 0xFFFF 0 3 5 ++ ([0,0] ++ leBytes 3 1))))).dev.cleared.blockClaim 7 65536).1.getD []
    let d0 : Dev := (((upd (fld (fld (fld (fld (fld (fld (fld s0 STATUS_enabled 1 0 pgCRD) CRD_STAT_present 1 0 0) CRD_STAT_mounted 1 0 0) CRD_CAP_blocks 100000 0 0) CRD_STAT_type 3 0 0) CRD_Q_en 1 0 0) CRD_Q_queue 7 0 0) (fun d => (({ d with crd := { d.crd with card := some { echo := some 0xAA, ready := true, ccs := true, s18a := false, switchOk := false, cid := 5, csd := 2 ^ 126, scr := 2 ^ 50, cap := 100000, modes := 0, badModes := 0, tunes := true, confirms := true, wp := false, content := [] }, ringStart := 10, ringLen := 1000 } }).setQ 7 { known := true, w0 := 2 ^ 31 + 9 * 2 ^ 24 + 4 * 2 ^ 20, w1 := 0, enabled := true, prod := 1, ents := [{}] }).store sbBase (mkHdr 200 1 0xFFFF 0 3 5 ++ ([0,0] ++ leBytes 3 1))))).dev.cleared.blockClaim 7 65536).2
    let p : List Byte := b.drop 16
    s.on ∧ s.dev.crdEnabled = true ∧ s.dev.crd.job = none ∧ s.dev.crd.writing = [] ∧ s.dev.crdQueue 0 = some n ∧
      s.dev.cleared.blockClaim n 65536 = (some b, d0) ∧ d0.flag CRD_STAT_parked = false ∧ leAt p 2 1 = 3 ∧
      d0.flag CRD_STAT_mounted = true ∧ d0.crd.uncovered = [] := by decide +kernel

theorem witness_CardCompletes_9 :
    let s : State := (upd (fld (fld (fld (fld (fld (fld (fld s0 STATUS_enabled 1 0 pgCRD) CRD_STAT_present 1 0 0) CRD_STAT_mounted 1 0 0) CRD_CAP_blocks 100000 0 0) CRD_STAT_type 3 0 0) CRD_Q_en 1 0 0) CRD_Q_queue 7 0 0) (fun d => (({ d with crd := { d.crd with card := some { echo := some 0xAA, ready := true, ccs := true, s18a := false, switchOk := false, cid := 5, csd := 2 ^ 126, scr := 2 ^ 50, cap := 100000, modes := 0, badModes := 0, tunes := true, confirms := true, wp := false, content := [] }, ringStart := 10, ringLen := 1000 } }).setQ 7 { known := true, w0 := 2 ^ 31 + 9 * 2 ^ 24 + 4 * 2 ^ 20, w1 := 0, enabled := true, prod := 1, ents := [{}] }).store sbBase (mkHdr 200 1 0xFFFF 0 3 5 ++ ([0,0] ++ leBytes 4 1 ++ zeros 5))))
    let n : Nat := 7
    let b : List Byte := (((upd (fld (fld (fld (fld (fld (fld (fld s0 STATUS_enabled 1 0 pgCRD) CRD_STAT_present 1 0 0) CRD_STAT_mounted 1 0 0) CRD_CAP_blocks 100000 0 0) CRD_STAT_type 3 0 0) CRD_Q_en 1 0 0) CRD_Q_queue 7 0 0) (fun d => (({ d with crd := { d.crd with card := some { echo := some 0xAA, ready := true, ccs := true, s18a := false, switchOk := false, cid := 5, csd := 2 ^ 126, scr := 2 ^ 50, cap := 100000, modes := 0, badModes := 0, tunes := true, confirms := true, wp := false, content := [] }, ringStart := 10, ringLen := 1000 } }).setQ 7 { known := true, w0 := 2 ^ 31 + 9 * 2 ^ 24 + 4 * 2 ^ 20, w1 := 0, enabled := true, prod := 1, ents := [{}] }).store sbBase (mkHdr 200 1 0xFFFF 0 3 5 ++ ([0,0] ++ leBytes 4 1 ++ zeros 5))))).dev.cleared.blockClaim 7 65536).1.getD []
    let d0 : Dev := (((upd (fld (fld (fld (fld (fld (fld (fld s0 STATUS_enabled 1 0 pgCRD) CRD_STAT_present 1 0 0) CRD_STAT_mounted 1 0 0) CRD_CAP_blocks 100000 0 0) CRD_STAT_type 3 0 0) CRD_Q_en 1 0 0) CRD_Q_queue 7 0 0) (fun d => (({ d with crd := { d.crd with card := some { echo := some 0xAA, ready := true, ccs := true, s18a := false, switchOk := false, cid := 5, csd := 2 ^ 126, scr := 2 ^ 50, cap := 100000, modes := 0, badModes := 0, tunes := true, confirms := true, wp := false, content := [] }, ringStart := 10, ringLen := 1000 } }).setQ 7 { known := true, w0 := 2 ^ 31 + 9 * 2 ^ 24 + 4 * 2 ^ 20, w1 := 0, enabled := true, prod := 1, ents := [{}] }).store sbBase (mkHdr 200 1 0xFFFF 0 3 5 ++ ([0,0] ++ leBytes 4 1 ++ zeros 5))))).dev.cleared.blockClaim 7 65536).2
    let p : List Byte := b.drop 16
    s.on ∧ s.dev.crdEnabled = true ∧ s.dev.crd.job = none ∧ s.dev.crd.writing = [] ∧ s.dev.crdQueue 0 = some n ∧
      s.dev.cleared.blockClaim n 65536 = (some b, d0) ∧ d0.flag CRD_STAT_parked = false ∧ leAt p 2 1 = 4 ∧ 8 ≤ p.length ∧
      leAt p 4 4 = 0 ∧ d0.crd.card.isSome = true ∧ 2048 < d0.rd CRD_CAP_blocks ∧ d0.flag CRD_STAT_wp = false := by decide +kernel

theorem witness_CardCompletes_10 :
    let s : State := (upd (fld (fld (fld (fld (fld (fld (fld s0 STATUS_enabled 1 0 pgCRD) CRD_STAT_present 1 0 0) CRD_STAT_mounted 1 0 0) CRD_CAP_blocks 100000 0 0) CRD_STAT_type 3 0 0) CRD_Q_en 1 0 0) CRD_Q_queue 7 0 0) (fun d => (({ d with crd := { d.crd with card := some { echo := some 0xAA, ready := true, ccs := true, s18a := false, switchOk := false, cid := 5, csd := 2 ^ 126, scr := 2 ^ 50, cap := 100000, modes := 0, badModes := 0, tunes := true, confirms := true, wp := false, content := [] }, ringStart := 10, ringLen := 1000 } }).setQ 7 { known := true, w0 := 2 ^ 31 + 9 * 2 ^ 24 + 4 * 2 ^ 20, w1 := 0, enabled := true, prod := 1, ents := [{}] }).store sbBase (mkHdr 200 1 0xFFFF 0 3 5 ++ ([0,0] ++ leBytes 5 1))))
    let n : Nat := 7
    let b : List Byte := (((upd (fld (fld (fld (fld (fld (fld (fld s0 STATUS_enabled 1 0 pgCRD) CRD_STAT_present 1 0 0) CRD_STAT_mounted 1 0 0) CRD_CAP_blocks 100000 0 0) CRD_STAT_type 3 0 0) CRD_Q_en 1 0 0) CRD_Q_queue 7 0 0) (fun d => (({ d with crd := { d.crd with card := some { echo := some 0xAA, ready := true, ccs := true, s18a := false, switchOk := false, cid := 5, csd := 2 ^ 126, scr := 2 ^ 50, cap := 100000, modes := 0, badModes := 0, tunes := true, confirms := true, wp := false, content := [] }, ringStart := 10, ringLen := 1000 } }).setQ 7 { known := true, w0 := 2 ^ 31 + 9 * 2 ^ 24 + 4 * 2 ^ 20, w1 := 0, enabled := true, prod := 1, ents := [{}] }).store sbBase (mkHdr 200 1 0xFFFF 0 3 5 ++ ([0,0] ++ leBytes 5 1))))).dev.cleared.blockClaim 7 65536).1.getD []
    let d0 : Dev := (((upd (fld (fld (fld (fld (fld (fld (fld s0 STATUS_enabled 1 0 pgCRD) CRD_STAT_present 1 0 0) CRD_STAT_mounted 1 0 0) CRD_CAP_blocks 100000 0 0) CRD_STAT_type 3 0 0) CRD_Q_en 1 0 0) CRD_Q_queue 7 0 0) (fun d => (({ d with crd := { d.crd with card := some { echo := some 0xAA, ready := true, ccs := true, s18a := false, switchOk := false, cid := 5, csd := 2 ^ 126, scr := 2 ^ 50, cap := 100000, modes := 0, badModes := 0, tunes := true, confirms := true, wp := false, content := [] }, ringStart := 10, ringLen := 1000 } }).setQ 7 { known := true, w0 := 2 ^ 31 + 9 * 2 ^ 24 + 4 * 2 ^ 20, w1 := 0, enabled := true, prod := 1, ents := [{}] }).store sbBase (mkHdr 200 1 0xFFFF 0 3 5 ++ ([0,0] ++ leBytes 5 1))))).dev.cleared.blockClaim 7 65536).2
    let p : List Byte := b.drop 16
    s.on ∧ s.dev.crdEnabled = true ∧ s.dev.crd.job = none ∧ s.dev.crd.writing = [] ∧ s.dev.crdQueue 0 = some n ∧
      s.dev.cleared.blockClaim n 65536 = (some b, d0) ∧ d0.flag CRD_STAT_parked = false ∧ leAt p 2 1 = 5 ∧
      d0.flag CRD_STAT_present = true := by decide +kernel

theorem witness_CardCompletes_11 :
    let s : State := (upd (fld (fld (fld (fld (fld (fld (fld s0 STATUS_enabled 1 0 pgCRD) CRD_STAT_present 1 0 0) CRD_STAT_mounted 1 0 0) CRD_CAP_blocks 100000 0 0) CRD_STAT_type 3 0 0) CRD_Q_en 1 0 0) CRD_Q_queue 7 0 0) (fun d => (({ d with crd := { d.crd with card := some { echo := some 0xAA, ready := true, ccs := true, s18a := false, switchOk := false, cid := 5, csd := 2 ^ 126, scr := 2 ^ 50, cap := 100000, modes := 0, badModes := 0, tunes := true, confirms := true, wp := false, content := [] }, ringStart := 10, ringLen := 1000 } }).setQ 7 { known := true, w0 := 2 ^ 31 + 9 * 2 ^ 24 + 4 * 2 ^ 20, w1 := 0, enabled := true, prod := 1, ents := [{}] }).store sbBase (mkHdr 200 1 0xFFFF 0 3 5 ++ ([0,0] ++ leBytes 0 1))))
    let n : Nat := 7
    let b : List Byte := (((upd (fld (fld (fld (fld (fld (fld (fld s0 STATUS_enabled 1 0 pgCRD) CRD_STAT_present 1 0 0) CRD_STAT_mounted 1 0 0) CRD_CAP_blocks 100000 0 0) CRD_STAT_type 3 0 0) CRD_Q_en 1 0 0) CRD_Q_queue 7 0 0) (fun d => (({ d with crd := { d.crd with card := some { echo := some 0xAA, ready := true, ccs := true, s18a := false, switchOk := false, cid := 5, csd := 2 ^ 126, scr := 2 ^ 50, cap := 100000, modes := 0, badModes := 0, tunes := true, confirms := true, wp := false, content := [] }, ringStart := 10, ringLen := 1000 } }).setQ 7 { known := true, w0 := 2 ^ 31 + 9 * 2 ^ 24 + 4 * 2 ^ 20, w1 := 0, enabled := true, prod := 1, ents := [{}] }).store sbBase (mkHdr 200 1 0xFFFF 0 3 5 ++ ([0,0] ++ leBytes 0 1))))).dev.cleared.blockClaim 7 65536).1.getD []
    let d0 : Dev := (((upd (fld (fld (fld (fld (fld (fld (fld s0 STATUS_enabled 1 0 pgCRD) CRD_STAT_present 1 0 0) CRD_STAT_mounted 1 0 0) CRD_CAP_blocks 100000 0 0) CRD_STAT_type 3 0 0) CRD_Q_en 1 0 0) CRD_Q_queue 7 0 0) (fun d => (({ d with crd := { d.crd with card := some { echo := some 0xAA, ready := true, ccs := true, s18a := false, switchOk := false, cid := 5, csd := 2 ^ 126, scr := 2 ^ 50, cap := 100000, modes := 0, badModes := 0, tunes := true, confirms := true, wp := false, content := [] }, ringStart := 10, ringLen := 1000 } }).setQ 7 { known := true, w0 := 2 ^ 31 + 9 * 2 ^ 24 + 4 * 2 ^ 20, w1 := 0, enabled := true, prod := 1, ents := [{}] }).store sbBase (mkHdr 200 1 0xFFFF 0 3 5 ++ ([0,0] ++ leBytes 0 1))))).dev.cleared.blockClaim 7 65536).2
    let p : List Byte := b.drop 16
    s.on ∧ s.dev.crdEnabled = true ∧ s.dev.crd.job = none ∧ s.dev.crd.writing = [] ∧ s.dev.crdQueue 0 = some n ∧
      s.dev.cleared.blockClaim n 65536 = (some b, d0) ∧ d0.flag CRD_STAT_parked = false ∧ leAt p 2 1 = 0 := by decide +kernel

theorem witness_CardCompletes_12 :
    let s : State := (upd (fld (fld (fld (fld (fld (fld (fld s0 STATUS_enabled 1 0 pgCRD) CRD_STAT_present 1 0 0) CRD_STAT_mounted 1 0 0) CRD_CAP_blocks 100000 0 0) CRD_STAT_type 3 0 0) CRD_RQk_en 1 1 0) CRD_RQk_queue 7 1 0) (fun d => (({ d with crd := { d.crd with card := some { echo := some 0xAA, ready := true, ccs := true, s18a := false, switchOk := false, cid := 5, csd := 2 ^ 126, scr := 2 ^ 50, cap := 100000, modes := 0, badModes := 0, tunes := true, confirms := true, wp := false, content := [] }, ringStart := 10, ringLen := 1000 } }).setQ 7 { known := true, w0 := 2 ^ 31 + 9 * 2 ^ 24 + 4 * 2 ^ 20, w1 := 0, enabled := true, prod := 1, ents := [{}] }).store sbBase (mkHdr 200 1 0xFFFF 0 3 5 ++ (List.replicate 40 5))))
    let k : Fin 2 := 1
    let n : Nat := 7
    let b : List Byte := (((upd (fld (fld (fld (fld (fld (fld (fld s0 STATUS_enabled 1 0 pgCRD) CRD_STAT_present 1 0 0) CRD_STAT_mounted 1 0 0) CRD_CAP_blocks 100000 0 0) CRD_STAT_type 3 0 0) CRD_RQk_en 1 1 0) CRD_RQk_queue 7 1 0) (fun d => (({ d with crd := { d.crd with card := some { echo := some 0xAA, ready := true, ccs := true, s18a := false, switchOk := false, cid := 5, csd := 2 ^ 126, scr := 2 ^ 50, cap := 100000, modes := 0, badModes := 0, tunes := true, confirms := true, wp := false, content := [] }, ringStart := 10, ringLen := 1000 } }).setQ 7 { known := true, w0 := 2 ^ 31 + 9 * 2 ^ 24 + 4 * 2 ^ 20, w1 := 0, enabled := true, prod := 1, ents := [{}] }).store sbBase (mkHdr 200 1 0xFFFF 0 3 5 ++ (List.replicate 40 5))))).dev.cleared.blockClaim 7 65536).1.getD []
    let d0 : Dev := (((upd (fld (fld (fld (fld (fld (fld (fld s0 STATUS_enabled 1 0 pgCRD) CRD_STAT_present 1 0 0) CRD_STAT_mounted 1 0 0) CRD_CAP_blocks 100000 0 0) CRD_STAT_type 3 0 0) CRD_RQk_en 1 1 0) CRD_RQk_queue 7 1 0) (fun d => (({ d with crd := { d.crd with card := some { echo := some 0xAA, ready := true, ccs := true, s18a := false, switchOk := false, cid := 5, csd := 2 ^ 126, scr := 2 ^ 50, cap := 100000, modes := 0, badModes := 0, tunes := true, confirms := true, wp := false, content := [] }, ringStart := 10, ringLen := 1000 } }).setQ 7 { known := true, w0 := 2 ^ 31 + 9 * 2 ^ 24 + 4 * 2 ^ 20, w1 := 0, enabled := true, prod := 1, ents := [{}] }).store sbBase (mkHdr 200 1 0xFFFF 0 3 5 ++ (List.replicate 40 5))))).dev.cleared.blockClaim 7 65536).2
    s.on ∧ s.dev.crdEnabled = true ∧ s.dev.crd.job = none ∧ s.dev.crd.writing = [] ∧
      (List.range (k + 1)).any s.dev.crdWaits = false ∧ s.dev.crdQueue (k + 1) = some n ∧
      s.dev.cleared.blockClaim n 65536 = (some b, d0) ∧ d0.flag CRD_STAT_parked = false ∧ d0.flag CRD_STAT_mounted = true ∧
      d0.flag CRD_STAT_wp = false := by decide +kernel

theorem witness_CardCompletes_13 :
    let s : State := (upd s0 (fun d => { d with crd := { d.crd with writing := [⟨17, zeros 512, 5, 2⟩] } }))
    let b : CrdBlock := ⟨17, zeros 512, 5, 2⟩
    let l : List CrdBlock := []
    s.on ∧ s.dev.crd.writing = b :: l ∧ b.kind = 2 ∧ s.dev.crdEnded = false := by decide +kernel

theorem witness_CardCompletes_14 :
    let s : State := (upd s0 (fun d => { d with crd := { d.crd with writing := [⟨17, zeros 512, 5, 2⟩] } }))
    let b : CrdBlock := ⟨17, zeros 512, 5, 2⟩
    let l : List CrdBlock := []
    s.on ∧ s.dev.crd.writing = b :: l ∧ s.dev.crd.job = none ∧ s.dev.crd.tries < 2 ∧
      s.dev.cclk * 5 ≤ s.dev.crd.since * 5 + 750000000 * 4 := by decide +kernel

theorem witness_CardCompletes_15 :
    let s : State := (upd s0 (fun d => { d with cclk := 10 ^ 12, crd := { d.crd with uncovered := [(1, 2)] } }))
    s.on ∧ s.dev.crd.uncovered ≠ [] ∧ s.dev.crd.uncFrom + max 1 (s.dev.rd CRD_CFG_cairn_ms) * cclkPerMs ≤ s.dev.cclk ∧
      s.dev.crd.writing = [] := by decide +kernel

theorem witness_ContactlessCompletes_0 :
    let s : State := (upd (fld (fld (fld (fld s0 STATUS_enabled 1 0 pgNFC) NFC_CFG_queue 7 0 0) NFC_CFG_types 3 0 0) NFC_STAT_field_on 1 0 0) (fun d => ({ d with nfc := d.nfc }.setQ 7 { known := true, w0 := 2 ^ 31 + 9 * 2 ^ 24 + 4 * 2 ^ 20, w1 := 0, enabled := true, prod := 1, ents := [{}] }).store sbBase (mkHdr (([0,0] ++ leBytes 1 1 ++ [0] ++ leBytes 1 1 ++ zeros 3 : List Byte) : List Byte).length 1 0xFFFF 0 0x0C 5 ++ (([0,0] ++ leBytes 1 1 ++ [0] ++ leBytes 1 1 ++ zeros 3 : List Byte)))))
    let b : List Byte := (((upd (fld (fld (fld (fld s0 STATUS_enabled 1 0 pgNFC) NFC_CFG_queue 7 0 0) NFC_CFG_types 3 0 0) NFC_STAT_field_on 1 0 0) (fun d => ({ d with nfc := d.nfc }.setQ 7 { known := true, w0 := 2 ^ 31 + 9 * 2 ^ 24 + 4 * 2 ^ 20, w1 := 0, enabled := true, prod := 1, ents := [{}] }).store sbBase (mkHdr (([0,0] ++ leBytes 1 1 ++ [0] ++ leBytes 1 1 ++ zeros 3 : List Byte) : List Byte).length 1 0xFFFF 0 0x0C 5 ++ (([0,0] ++ leBytes 1 1 ++ [0] ++ leBytes 1 1 ++ zeros 3 : List Byte)))))).dev.cleared.nfcTake).1.getD []
    let d0 : Dev := (((upd (fld (fld (fld (fld s0 STATUS_enabled 1 0 pgNFC) NFC_CFG_queue 7 0 0) NFC_CFG_types 3 0 0) NFC_STAT_field_on 1 0 0) (fun d => ({ d with nfc := d.nfc }.setQ 7 { known := true, w0 := 2 ^ 31 + 9 * 2 ^ 24 + 4 * 2 ^ 20, w1 := 0, enabled := true, prod := 1, ents := [{}] }).store sbBase (mkHdr (([0,0] ++ leBytes 1 1 ++ [0] ++ leBytes 1 1 ++ zeros 3 : List Byte) : List Byte).length 1 0xFFFF 0 0x0C 5 ++ (([0,0] ++ leBytes 1 1 ++ [0] ++ leBytes 1 1 ++ zeros 3 : List Byte)))))).dev.cleared.nfcTake).2
    let tags : List NfcTag := [⟨false, [4, 1, 2, 3, 4, 5, 6], 0x44, 0x20, false, 0, []⟩, ⟨false, [8, 1, 2, 3], 0x04, 0x08, false, 0, []⟩]
    let p : List Byte := b.drop 16
    s.on ∧ s.dev.nfcEnabled = true ∧ s.dev.cleared.nfcTake = (some b, d0) ∧ leAt p 2 1 = 1 ∧ 8 ≤ p.length ∧ leAt p 4 1 = 1 ∧
      leAt p 5 3 = 0 ∧ d0.flag NFC_STAT_field_on = true ∧ (orderA tags).any (·.bad) = false ∧ (orderA tags).length ≤ 8 := by
  decide +kernel

theorem witness_ContactlessCompletes_1 :
    let s : State := (upd (fld (fld (fld s0 STATUS_enabled 1 0 pgNFC) NFC_CFG_queue 7 0 0) NFC_CFG_types 3 0 0) (fun d => ({ d with nfc := d.nfc }.setQ 7 { known := true, w0 := 2 ^ 31 + 9 * 2 ^ 24 + 4 * 2 ^ 20, w1 := 0, enabled := true, prod := 1, ents := [{}] }).store sbBase (mkHdr (([0,0] ++ leBytes 1 1 ++ [0] ++ leBytes 1 1 ++ zeros 3 : List Byte) : List Byte).length 1 0xFFFF 0 0x0C 5 ++ (([0,0] ++ leBytes 1 1 ++ [0] ++ leBytes 1 1 ++ zeros 3 : List Byte)))))
    let b : List Byte := (((upd (fld (fld (fld s0 STATUS_enabled 1 0 pgNFC) NFC_CFG_queue 7 0 0) NFC_CFG_types 3 0 0) (fun d => ({ d with nfc := d.nfc }.setQ 7 { known := true, w0 := 2 ^ 31 + 9 * 2 ^ 24 + 4 * 2 ^ 20, w1 := 0, enabled := true, prod := 1, ents := [{}] }).store sbBase (mkHdr (([0,0] ++ leBytes 1 1 ++ [0] ++ leBytes 1 1 ++ zeros 3 : List Byte) : List Byte).length 1 0xFFFF 0 0x0C 5 ++ (([0,0] ++ leBytes 1 1 ++ [0] ++ leBytes 1 1 ++ zeros 3 : List Byte)))))).dev.cleared.nfcTake).1.getD []
    let d0 : Dev := (((upd (fld (fld (fld s0 STATUS_enabled 1 0 pgNFC) NFC_CFG_queue 7 0 0) NFC_CFG_types 3 0 0) (fun d => ({ d with nfc := d.nfc }.setQ 7 { known := true, w0 := 2 ^ 31 + 9 * 2 ^ 24 + 4 * 2 ^ 20, w1 := 0, enabled := true, prod := 1, ents := [{}] }).store sbBase (mkHdr (([0,0] ++ leBytes 1 1 ++ [0] ++ leBytes 1 1 ++ zeros 3 : List Byte) : List Byte).length 1 0xFFFF 0 0x0C 5 ++ (([0,0] ++ leBytes 1 1 ++ [0] ++ leBytes 1 1 ++ zeros 3 : List Byte)))))).dev.cleared.nfcTake).2
    let p : List Byte := b.drop 16
    s.on ∧ s.dev.nfcEnabled = true ∧ s.dev.cleared.nfcTake = (some b, d0) ∧ leAt p 2 1 = 1 ∧ 8 ≤ p.length ∧ leAt p 4 1 = 1 ∧
      leAt p 5 3 = 0 ∧ d0.flag NFC_STAT_field_on = false := by decide +kernel

theorem witness_ContactlessCompletes_2 :
    let s : State := (upd (fld (fld (fld (fld s0 STATUS_enabled 1 0 pgNFC) NFC_CFG_queue 7 0 0) NFC_CFG_types 3 0 0) NFC_STAT_field_on 1 0 0) (fun d => ({ d with nfc := { d.nfc with tags := [{ tag := ⟨false, [4, 1, 2, 3, 4, 5, 6], 0x44, 0x20, false, 0, []⟩ }, { tag := ⟨false, [8, 1, 2, 3], 0x04, 0x08, false, 0, []⟩ }] } }.setQ 7 { known := true, w0 := 2 ^ 31 + 9 * 2 ^ 24 + 4 * 2 ^ 20, w1 := 0, enabled := true, prod := 1, ents := [{}] }).store sbBase (mkHdr (([0,0] ++ leBytes 2 1 ++ [0] ++ leBytes 1 1 ++ leBytes 2 1 ++ zeros 2 : List Byte) : List Byte).length 1 0xFFFF 0 0x0C 5 ++ (([0,0] ++ leBytes 2 1 ++ [0] ++ leBytes 1 1 ++ leBytes 2 1 ++ zeros 2 : List Byte)))))
    let b : List Byte := (((upd (fld (fld (fld (fld s0 STATUS_enabled 1 0 pgNFC) NFC_CFG_queue 7 0 0) NFC_CFG_types 3 0 0) NFC_STAT_field_on 1 0 0) (fun d => ({ d with nfc := { d.nfc with tags := [{ tag := ⟨false, [4, 1, 2, 3, 4, 5, 6], 0x44, 0x20, false, 0, []⟩ }, { tag := ⟨false, [8, 1, 2, 3], 0x04, 0x08, false, 0, []⟩ }] } }.setQ 7 { known := true, w0 := 2 ^ 31 + 9 * 2 ^ 24 + 4 * 2 ^ 20, w1 := 0, enabled := true, prod := 1, ents := [{}] }).store sbBase (mkHdr (([0,0] ++ leBytes 2 1 ++ [0] ++ leBytes 1 1 ++ leBytes 2 1 ++ zeros 2 : List Byte) : List Byte).length 1 0xFFFF 0 0x0C 5 ++ (([0,0] ++ leBytes 2 1 ++ [0] ++ leBytes 1 1 ++ leBytes 2 1 ++ zeros 2 : List Byte)))))).dev.cleared.nfcTake).1.getD []
    let d0 : Dev := (((upd (fld (fld (fld (fld s0 STATUS_enabled 1 0 pgNFC) NFC_CFG_queue 7 0 0) NFC_CFG_types 3 0 0) NFC_STAT_field_on 1 0 0) (fun d => ({ d with nfc := { d.nfc with tags := [{ tag := ⟨false, [4, 1, 2, 3, 4, 5, 6], 0x44, 0x20, false, 0, []⟩ }, { tag := ⟨false, [8, 1, 2, 3], 0x04, 0x08, false, 0, []⟩ }] } }.setQ 7 { known := true, w0 := 2 ^ 31 + 9 * 2 ^ 24 + 4 * 2 ^ 20, w1 := 0, enabled := true, prod := 1, ents := [{}] }).store sbBase (mkHdr (([0,0] ++ leBytes 2 1 ++ [0] ++ leBytes 1 1 ++ leBytes 2 1 ++ zeros 2 : List Byte) : List Byte).length 1 0xFFFF 0 0x0C 5 ++ (([0,0] ++ leBytes 2 1 ++ [0] ++ leBytes 1 1 ++ leBytes 2 1 ++ zeros 2 : List Byte)))))).dev.cleared.nfcTake).2
    let i : Nat := 1
    let t : TagEnt := { tag := ⟨false, [8, 1, 2, 3], 0x04, 0x08, false, 0, []⟩ }
    let a : List Byte := [5, 0x78, 0x33, 0x80, 0]
    let crcBad : Bool := false
    let p : List Byte := b.drop 16
    s.on ∧ s.dev.nfcEnabled = true ∧ s.dev.cleared.nfcTake = (some b, d0) ∧ leAt p 2 1 = 2 ∧ 8 ≤ p.length ∧ i = leAt p 4 1 ∧
      leAt p 5 1 ≤ 3 ∧ leAt p 6 2 = 0 ∧ d0.nfc.tags[i]? = some t ∧ d0.nfcActive = none ∧ d0.flag NFC_STAT_field_on = true ∧
      answerBad t.tag a crcBad = false := by decide +kernel

theorem witness_ContactlessCompletes_3 :
    let s : State := (upd (fld (fld (fld (fld (fld (fld (fld (fld s0 STATUS_enabled 1 0 pgNFC) NFC_CFG_queue 7 0 0) NFC_CFG_types 3 0 0) NFC_STAT_field_on 1 0 0) SBF_HWIN_BASEk_en 1 0 0) SBF_HWIN_BASEk_wr 1 0 0) SBF_HWIN_BASEk_base 0x1000 0 0) SBF_HWIN_SIZEk_size 16 0 0) (fun d => ({ d with nfc := { d.nfc with tags := [{ tag := ⟨false, [4, 1, 2, 3, 4, 5, 6], 0x44, 0x20, false, 0, []⟩, state := 2 }] } }.setQ 7 { known := true, w0 := 2 ^ 31 + 9 * 2 ^ 24 + 4 * 2 ^ 20, w1 := 0, enabled := true, prod := 1, ents := [{}] }).store sbBase (mkHdr (([0,0] ++ leBytes 3 1 ++ [0] ++ leBytes 4096 4 ++ leBytes 100 2 ++ zeros 2 ++ [1, 2, 3] : List Byte) : List Byte).length 1 0xFFFF 0 0x0C 5 ++ (([0,0] ++ leBytes 3 1 ++ [0] ++ leBytes 4096 4 ++ leBytes 100 2 ++ zeros 2 ++ [1, 2, 3] : List Byte)))))
    let b : List Byte := (((upd (fld (fld (fld (fld (fld (fld (fld (fld s0 STATUS_enabled 1 0 pgNFC) NFC_CFG_queue 7 0 0) NFC_CFG_types 3 0 0) NFC_STAT_field_on 1 0 0) SBF_HWIN_BASEk_en 1 0 0) SBF_HWIN_BASEk_wr 1 0 0) SBF_HWIN_BASEk_base 0x1000 0 0) SBF_HWIN_SIZEk_size 16 0 0) (fun d => ({ d with nfc := { d.nfc with tags := [{ tag := ⟨false, [4, 1, 2, 3, 4, 5, 6], 0x44, 0x20, false, 0, []⟩, state := 2 }] } }.setQ 7 { known := true, w0 := 2 ^ 31 + 9 * 2 ^ 24 + 4 * 2 ^ 20, w1 := 0, enabled := true, prod := 1, ents := [{}] }).store sbBase (mkHdr (([0,0] ++ leBytes 3 1 ++ [0] ++ leBytes 4096 4 ++ leBytes 100 2 ++ zeros 2 ++ [1, 2, 3] : List Byte) : List Byte).length 1 0xFFFF 0 0x0C 5 ++ (([0,0] ++ leBytes 3 1 ++ [0] ++ leBytes 4096 4 ++ leBytes 100 2 ++ zeros 2 ++ [1, 2, 3] : List Byte)))))).dev.cleared.nfcTake).1.getD []
    let d0 : Dev := (((upd (fld (fld (fld (fld (fld (fld (fld (fld s0 STATUS_enabled 1 0 pgNFC) NFC_CFG_queue 7 0 0) NFC_CFG_types 3 0 0) NFC_STAT_field_on 1 0 0) SBF_HWIN_BASEk_en 1 0 0) SBF_HWIN_BASEk_wr 1 0 0) SBF_HWIN_BASEk_base 0x1000 0 0) SBF_HWIN_SIZEk_size 16 0 0) (fun d => ({ d with nfc := { d.nfc with tags := [{ tag := ⟨false, [4, 1, 2, 3, 4, 5, 6], 0x44, 0x20, false, 0, []⟩, state := 2 }] } }.setQ 7 { known := true, w0 := 2 ^ 31 + 9 * 2 ^ 24 + 4 * 2 ^ 20, w1 := 0, enabled := true, prod := 1, ents := [{}] }).store sbBase (mkHdr (([0,0] ++ leBytes 3 1 ++ [0] ++ leBytes 4096 4 ++ leBytes 100 2 ++ zeros 2 ++ [1, 2, 3] : List Byte) : List Byte).length 1 0xFFFF 0 0x0C 5 ++ (([0,0] ++ leBytes 3 1 ++ [0] ++ leBytes 4096 4 ++ leBytes 100 2 ++ zeros 2 ++ [1, 2, 3] : List Byte)))))).dev.cleared.nfcTake).2
    let r : List Byte := [0x90, 0]
    let p : List Byte := b.drop 16
    s.on ∧ s.dev.nfcEnabled = true ∧ s.dev.cleared.nfcTake = (some b, d0) ∧ leAt p 2 1 = 3 ∧ d0.exchangeStatus b p = .ok ∧
      r.length ≤ leAt p 8 2 := by decide +kernel

theorem witness_ContactlessCompletes_4 :
    let s : State := (upd (fld (fld (fld s0 STATUS_enabled 1 0 pgNFC) NFC_CFG_queue 7 0 0) NFC_CFG_types 3 0 0) (fun d => ({ d with nfc := { d.nfc with tags := [{ tag := ⟨false, [4, 1, 2, 3, 4, 5, 6], 0x44, 0x20, false, 0, []⟩, state := 2 }] } }.setQ 7 { known := true, w0 := 2 ^ 31 + 9 * 2 ^ 24 + 4 * 2 ^ 20, w1 := 0, enabled := true, prod := 1, ents := [{}] }).store sbBase (mkHdr (([0,0] ++ leBytes 4 1 ++ [0] ++ zeros 5 : List Byte) : List Byte).length 1 0xFFFF 0 0x0C 5 ++ (([0,0] ++ leBytes 4 1 ++ [0] ++ zeros 5 : List Byte)))))
    let b : List Byte := (((upd (fld (fld (fld s0 STATUS_enabled 1 0 pgNFC) NFC_CFG_queue 7 0 0) NFC_CFG_types 3 0 0) (fun d => ({ d with nfc := { d.nfc with tags := [{ tag := ⟨false, [4, 1, 2, 3, 4, 5, 6], 0x44, 0x20, false, 0, []⟩, state := 2 }] } }.setQ 7 { known := true, w0 := 2 ^ 31 + 9 * 2 ^ 24 + 4 * 2 ^ 20, w1 := 0, enabled := true, prod := 1, ents := [{}] }).store sbBase (mkHdr (([0,0] ++ leBytes 4 1 ++ [0] ++ zeros 5 : List Byte) : List Byte).length 1 0xFFFF 0 0x0C 5 ++ (([0,0] ++ leBytes 4 1 ++ [0] ++ zeros 5 : List Byte)))))).dev.cleared.nfcTake).1.getD []
    let d0 : Dev := (((upd (fld (fld (fld s0 STATUS_enabled 1 0 pgNFC) NFC_CFG_queue 7 0 0) NFC_CFG_types 3 0 0) (fun d => ({ d with nfc := { d.nfc with tags := [{ tag := ⟨false, [4, 1, 2, 3, 4, 5, 6], 0x44, 0x20, false, 0, []⟩, state := 2 }] } }.setQ 7 { known := true, w0 := 2 ^ 31 + 9 * 2 ^ 24 + 4 * 2 ^ 20, w1 := 0, enabled := true, prod := 1, ents := [{}] }).store sbBase (mkHdr (([0,0] ++ leBytes 4 1 ++ [0] ++ zeros 5 : List Byte) : List Byte).length 1 0xFFFF 0 0x0C 5 ++ (([0,0] ++ leBytes 4 1 ++ [0] ++ zeros 5 : List Byte)))))).dev.cleared.nfcTake).2
    let i : Nat := 0
    let t : TagEnt := { tag := ⟨false, [4, 1, 2, 3, 4, 5, 6], 0x44, 0x20, false, 0, []⟩, state := 2 }
    let p : List Byte := b.drop 16
    s.on ∧ s.dev.nfcEnabled = true ∧ s.dev.cleared.nfcTake = (some b, d0) ∧ leAt p 2 1 = 4 ∧ d0.nfcActive = some i ∧
      d0.nfc.tags[i]? = some t := by decide +kernel

theorem witness_ContactlessCompletes_5 :
    let s : State := (upd (fld (fld (fld (fld s0 STATUS_enabled 1 0 pgNFC) NFC_CFG_queue 7 0 0) NFC_CFG_types 3 0 0) NFC_STAT_field_on 1 0 0) (fun d => ({ d with nfc := { d.nfc with tags := [{ tag := ⟨false, [4, 1, 2, 3, 4, 5, 6], 0x44, 0x20, false, 0, []⟩, state := 2 }] } }.setQ 7 { known := true, w0 := 2 ^ 31 + 9 * 2 ^ 24 + 4 * 2 ^ 20, w1 := 0, enabled := true, prod := 1, ents := [{}] }).store sbBase (mkHdr (([0,0] ++ leBytes 5 1 ++ [0] ++ zeros 5 : List Byte) : List Byte).length 1 0xFFFF 0 0x0C 5 ++ (([0,0] ++ leBytes 5 1 ++ [0] ++ zeros 5 : List Byte)))))
    let b : List Byte := (((upd (fld (fld (fld (fld s0 STATUS_enabled 1 0 pgNFC) NFC_CFG_queue 7 0 0) NFC_CFG_types 3 0 0) NFC_STAT_field_on 1 0 0) (fun d => ({ d with nfc := { d.nfc with tags := [{ tag := ⟨false, [4, 1, 2, 3, 4, 5, 6], 0x44, 0x20, false, 0, []⟩, state := 2 }] } }.setQ 7 { known := true, w0 := 2 ^ 31 + 9 * 2 ^ 24 + 4 * 2 ^ 20, w1 := 0, enabled := true, prod := 1, ents := [{}] }).store sbBase (mkHdr (([0,0] ++ leBytes 5 1 ++ [0] ++ zeros 5 : List Byte) : List Byte).length 1 0xFFFF 0 0x0C 5 ++ (([0,0] ++ leBytes 5 1 ++ [0] ++ zeros 5 : List Byte)))))).dev.cleared.nfcTake).1.getD []
    let d0 : Dev := (((upd (fld (fld (fld (fld s0 STATUS_enabled 1 0 pgNFC) NFC_CFG_queue 7 0 0) NFC_CFG_types 3 0 0) NFC_STAT_field_on 1 0 0) (fun d => ({ d with nfc := { d.nfc with tags := [{ tag := ⟨false, [4, 1, 2, 3, 4, 5, 6], 0x44, 0x20, false, 0, []⟩, state := 2 }] } }.setQ 7 { known := true, w0 := 2 ^ 31 + 9 * 2 ^ 24 + 4 * 2 ^ 20, w1 := 0, enabled := true, prod := 1, ents := [{}] }).store sbBase (mkHdr (([0,0] ++ leBytes 5 1 ++ [0] ++ zeros 5 : List Byte) : List Byte).length 1 0xFFFF 0 0x0C 5 ++ (([0,0] ++ leBytes 5 1 ++ [0] ++ zeros 5 : List Byte)))))).dev.cleared.nfcTake).2
    let p : List Byte := b.drop 16
    s.on ∧ s.dev.nfcEnabled = true ∧ s.dev.cleared.nfcTake = (some b, d0) ∧ leAt p 2 1 = 5 := by decide +kernel

theorem witness_ContactlessCompletes_6 :
    let s : State := (upd (fld (fld (fld s0 STATUS_enabled 1 0 pgNFC) NFC_CFG_queue 7 0 0) NFC_CFG_types 3 0 0) (fun d => ({ d with nfc := d.nfc }.setQ 7 { known := true, w0 := 2 ^ 31 + 9 * 2 ^ 24 + 4 * 2 ^ 20, w1 := 0, enabled := true, prod := 1, ents := [{}] }).store sbBase (mkHdr (([0,0] ++ leBytes 0 1 ++ [0] ++ zeros 5 : List Byte) : List Byte).length 1 0xFFFF 0 0x0C 5 ++ (([0,0] ++ leBytes 0 1 ++ [0] ++ zeros 5 : List Byte)))))
    let b : List Byte := (((upd (fld (fld (fld s0 STATUS_enabled 1 0 pgNFC) NFC_CFG_queue 7 0 0) NFC_CFG_types 3 0 0) (fun d => ({ d with nfc := d.nfc }.setQ 7 { known := true, w0 := 2 ^ 31 + 9 * 2 ^ 24 + 4 * 2 ^ 20, w1 := 0, enabled := true, prod := 1, ents := [{}] }).store sbBase (mkHdr (([0,0] ++ leBytes 0 1 ++ [0] ++ zeros 5 : List Byte) : List Byte).length 1 0xFFFF 0 0x0C 5 ++ (([0,0] ++ leBytes 0 1 ++ [0] ++ zeros 5 : List Byte)))))).dev.cleared.nfcTake).1.getD []
    let d0 : Dev := (((upd (fld (fld (fld s0 STATUS_enabled 1 0 pgNFC) NFC_CFG_queue 7 0 0) NFC_CFG_types 3 0 0) (fun d => ({ d with nfc := d.nfc }.setQ 7 { known := true, w0 := 2 ^ 31 + 9 * 2 ^ 24 + 4 * 2 ^ 20, w1 := 0, enabled := true, prod := 1, ents := [{}] }).store sbBase (mkHdr (([0,0] ++ leBytes 0 1 ++ [0] ++ zeros 5 : List Byte) : List Byte).length 1 0xFFFF 0 0x0C 5 ++ (([0,0] ++ leBytes 0 1 ++ [0] ++ zeros 5 : List Byte)))))).dev.cleared.nfcTake).2
    let p : List Byte := b.drop 16
    s.on ∧ s.dev.nfcEnabled = true ∧ s.dev.cleared.nfcTake = (some b, d0) ∧ leAt p 2 1 = 0 := by decide +kernel

theorem witness_ContactlessCompletes_7 :
    let s : State := (upd (fld s0 NFC_STAT_field_on 1 0 0) (fun d => { d with cclk := 2 * cclkPerS, nfc := { d.nfc with tags := [{ tag := ⟨false, [4, 1, 2, 3, 4, 5, 6], 0x44, 0x20, false, 0, []⟩ }] } }))
    s.on ∧ s.dev.flag NFC_STAT_field_on = true ∧ s.dev.nfc.waiting = none ∧ s.dev.nfcActive = none ∧
      s.dev.nfc.lastDone + 2 * cclkPerS ≤ s.dev.cclk := by decide +kernel

theorem witness_ContactlessCompletes_8 :
    let s : State := (upd (fld (fld s0 NFC_STAT_ext_field 1 0 0) NFC_CFG_queue 7 0 0) (fun d => { d with cclk := 10 ^ 9, nfc := { d.nfc with waiting := some 0 } }.setQ 7 { ({ known := true, w0 := 2 ^ 31 + 9 * 2 ^ 24 + 4 * 2 ^ 20, w1 := 0, enabled := true, prod := 1, ents := [{}] } : Queue) with claim := 1 }))
    let t : Nat := 0
    s.on ∧ s.dev.nfc.waiting = some t ∧ s.dev.flag NFC_STAT_ext_field = true ∧ t + 100 * cclkPerMs ≤ s.dev.cclk := by decide +kernel

theorem witness_ContactlessCompletes_9 :
    let s : State := (upd (fld s0 NFC_CFG_queue 7 0 0) (fun d => { d with cclk := 10 ^ 10, isl := { d.isl with session := some 0 }, nfc := { d.nfc with waiting := some 0 } }.setQ 7 { ({ known := true, w0 := 2 ^ 31 + 9 * 2 ^ 24 + 4 * 2 ^ 20, w1 := 0, enabled := true, prod := 1, ents := [{}] } : Queue) with claim := 1 }))
    let t : Nat := 0
    s.on ∧ s.dev.nfc.waiting = some t ∧ s.dev.isl.session.isSome = true ∧ t + 2 * cclkPerS ≤ s.dev.cclk := by decide +kernel

theorem witness_ContactlessCompletes_10 :
    let s : State := (upd (fld (fld s0 STATUS_enabled 1 0 pgNFC) NFC_LPCD_en 1 0 0) (fun d => { d with cclk := 10 ^ 10 }))
    s.on ∧ s.dev.nfcEnabled = true ∧ s.dev.flag NFC_LPCD_en = true ∧ s.dev.flag NFC_STAT_field_on = false ∧
      s.dev.nfc.waiting = none ∧ s.dev.isl.session = none ∧
      s.dev.nfc.pingAt + max 1 (s.dev.rd NFC_LPCD_period_ms) * cclkPerMs ≤ s.dev.cclk ∧ s.dev.nfc.pings = [] := by decide +kernel

theorem witness_ContactlessCompletes_11 :
    let s : State := (fld s0 NFC_CFG_isl_en 1 0 0)
    s.dev.islListens = true ∧ s.dev.isl.field = false := by decide +kernel

theorem witness_ContactlessCompletes_12 :
    let s : State := (upd (fld s0 NFC_CFG_isl_en 1 0 0) (fun d => { d with isl := { d.isl with field := true } }))
    s.dev.islListens = true ∧ s.dev.isl.field = true ∧ s.dev.isl.proto = 0 := by decide +kernel

theorem witness_ContactlessCompletes_13 :
    let s : State := (upd (fld s0 NFC_CFG_isl_en 1 0 0) (fun d => { d with isl := { bank := 0, field := true, proto := 4, selected := true, session := some 0, banks := [(0, { gen := 3, files := [[1,2,3,4,5,6,7,8,9],[2],[3]] })]  } }))
    s.dev.islListens = true ∧ s.dev.isl.field = true ∧ s.dev.isl.proto = 4 := by decide +kernel

theorem witness_ContactlessCompletes_14 :
    let s : State := (upd (fld s0 NFC_CFG_isl_en 1 0 0) (fun d => { d with isl := { bank := 0, field := true, proto := 4, selected := true, session := none, banks := [(0, { gen := 3, files := [[1,2,3,4,5,6,7,8,9],[2],[3]] })]  } }))
    s.dev.islListens = true ∧ s.dev.isl.field = true ∧ s.dev.isl.proto = 4 ∧ s.dev.isl.session = none := by decide +kernel

theorem witness_ContactlessCompletes_15 :
    let s : State := (upd (fld s0 NFC_CFG_isl_en 1 0 0) (fun d => { d with isl := { bank := 0, field := true, proto := 4, selected := true, session := some 0, banks := [(0, { gen := 3, files := [[1,2,3,4,5,6,7,8,9],[2],[3]] })]  } }))
    let b : List Byte := [0x80, 0xB0, 1, 0, 3, 2, 0, 0, 3]
    let mv : Nat := 0
    let a : Apdu := parseApdu b
    s.dev.islListens = true ∧ s.dev.isl.field = true ∧ s.dev.isl.proto = 4 ∧ a.kind = 2 ∧ s.dev.isl.word a mv = 0x9000 := by
  decide +kernel

theorem witness_ContactlessCompletes_16 :
    let s : State := (upd (fld s0 NFC_CFG_isl_en 1 0 0) (fun d => { d with isl := { bank := 0, field := true, proto := 4, selected := true, session := some 0, banks := [(0, { gen := 3, files := [[1,2,3,4,5,6,7,8,9],[2],[3]] })]  } }))
    let b : List Byte := [0x80, 0xCA, 0, 0, 16]
    let mv : Nat := 0
    let a : Apdu := parseApdu b
    s.dev.islListens = true ∧ s.dev.isl.field = true ∧ s.dev.isl.proto = 4 ∧ a.kind = 3 ∧ s.dev.isl.word a mv = 0x9000 := by
  decide +kernel

theorem witness_ContactlessCompletes_17 :
    let s : State := (upd (fld s0 NFC_CFG_isl_en 1 0 0) (fun d => { d with isl := { bank := 0, field := true, proto := 4, selected := true, session := some 0, banks := [(0, { gen := 3, files := [[1,2,3,4,5,6,7,8,9],[2],[3]] })]  } }))
    let b : List Byte := [0x80, 0xD6, 4, 0, 2, 7, 8]
    let mv : Nat := 3000
    let a : Apdu := parseApdu b
    s.on ∧ s.dev.islListens = true ∧ s.dev.isl.field = true ∧ s.dev.isl.proto = 4 ∧ a.kind = 4 ∧ s.dev.isl.word a mv = 0x9000 ∧
      s.dev.isl.mark = none := by decide +kernel

theorem witness_ContactlessCompletes_18 :
    let s : State := (upd (fld s0 NFC_CFG_isl_en 1 0 0) (fun d => { d with isl := { bank := 0, field := true, proto := 4, selected := true, session := some 0, banks := [(0, { gen := 3, files := [[1,2,3,4,5,6,7,8,9],[2],[3]] })]  } }))
    let b : List Byte := [0x80, 0xD6, 4, 0, 2, 7, 8]
    let mv : Nat := 100
    let a : Apdu := parseApdu b
    let w : Nat := s.dev.isl.word a mv
    s.dev.islListens = true ∧ s.dev.isl.field = true ∧ s.dev.isl.proto = 4 ∧ a.kind = 4 ∧ w ≠ 0x9000 ∧ w ≠ 0x6581 := by
  decide +kernel

theorem witness_ContactlessCompletes_19 :
    let s : State := (upd (fld s0 NFC_CFG_isl_en 1 0 0) (fun d => { d with isl := { bank := 0, field := true, proto := 4, selected := true, session := none, banks := [(0, { gen := 3, files := [[1,2,3,4,5,6,7,8,9],[2],[3]] })]  } }))
    s.dev.isl.proto = 4 ∧ s.dev.isl.session = none := by decide +kernel

theorem witness_ContactlessCompletes_20 :
    let s : State := (upd (fld s0 NFC_CFG_isl_en 1 0 0) (fun d => { d with isl := { bank := 0, field := true, proto := 4, selected := true, session := none, banks := [(0, { gen := 3, files := [[1,2,3,4,5,6,7,8,9],[2],[3]] })]  } }))
    s.dev.isl.session = none := by decide +kernel

theorem witness_ContactlessCompletes_21 :
    let s : State := (upd (fld s0 NFC_CFG_isl_en 1 0 0) (fun d => { d with isl := { bank := 0, field := true, proto := 4, selected := true, session := some 0, banks := [(0, { gen := 3, files := [[1,2,3,4,5,6,7,8,9],[2],[3]] })]  } }))
    let b : Nat := 0
    s.on ∧ s.dev.isl.proto = 4 ∧ s.dev.isl.session = some b ∧ s.dev.isl.held = false := by decide +kernel

theorem witness_ContactlessCompletes_22 :
    let s : State := (fld s0 NFC_NOTE_SEL_word 34 0 0)
    let r : Req := .refuge
    s.acceptsRead r pgNFC 0x07C := by decide +kernel

theorem witness_RopeCompletes_0 :
    let s : State := (fld (fld (fld s0 ROP_CFG_en 1 0 0) SYS_STRAP_rope_pos 1 0 0) STATUS_enabled 1 0 pgROP)
    s.on ∧ s.dev.ropeMember = true ∧ s.dev.following = false := by decide +kernel

theorem witness_RopeCompletes_1 :
    let s : State := (upd (fld (fld (fld (fld s0 ROP_CFG_en 1 0 0) SYS_STRAP_rope_pos 1 0 0) STATUS_enabled 1 0 pgROP) ROP_STAT_following 1 0 0) (fun d => { d with cclk := 10 ^ 9, ticks := 2000000, tim := { d.tim with lastTick := 999999950, nextTick := 999999950 + 50 } }))
    s.on ∧ s.dev.ropeMember = true ∧ s.dev.following = true ∧ s.dev.rop.hold = 0 := by decide +kernel

theorem witness_RopeCompletes_2 :
    let s : State := (upd (fld (fld (fld (fld s0 ROP_CFG_en 1 0 0) SYS_STRAP_rope_pos 1 0 0) STATUS_enabled 1 0 pgROP) ROP_STAT_following 1 0 0) (fun d => { d with cclk := 10 ^ 9, ticks := 2000000, tim := { d.tim with lastTick := 999999900, nextTick := 999999900 + 50 } }))
    let elapsed : Nat := 40
    let env : TickEnv := tickEnv0
    let f : Dev := s.dev.cleared.followTick elapsed
    let n : Dev := ((f.lockedTick (f.cclk - s.dev.cclk)).stepEventTick.applyCorrections).ext10Tick env.ext10
    let m : Dev := ({ n with rop := { n.rop with edgeAt := n.cclk } }).ppsOutTick
    s.on ∧ s.dev.ropeMember = true ∧ s.dev.following = true ∧ s.dev.rop.hold = 0 ∧ m.tim.lastTick % 1000000000 ≠ 0 := by
  decide +kernel

theorem witness_RopeCompletes_3 :
    let s : State := (upd (fld (fld (fld (fld s0 ROP_CFG_en 1 0 0) SYS_STRAP_rope_pos 1 0 0) STATUS_enabled 1 0 pgROP) ROP_STAT_following 1 0 0) (fun d => { d with cclk := 10 ^ 9, ticks := 2000000, tim := { d.tim with lastTick := 999999950, nextTick := 999999950 + 50 } }))
    let elapsed : Nat := 40
    let env : TickEnv := tickEnv0
    let f : Dev := s.dev.cleared.followTick elapsed
    let n : Dev := ((f.lockedTick (f.cclk - s.dev.cclk)).stepEventTick.applyCorrections).ext10Tick env.ext10
    let m : Dev := ({ n with rop := { n.rop with edgeAt := n.cclk } }).ppsOutTick
    s.on ∧ s.dev.ropeMember = true ∧ s.dev.following = true ∧ s.dev.rop.hold = 0 ∧ m.tim.lastTick % 1000000000 = 0 := by
  decide +kernel

theorem witness_RopeCompletes_4 :
    let s : State := (upd (fld (fld (fld (fld s0 ROP_CFG_en 1 0 0) SYS_STRAP_rope_pos 1 0 0) STATUS_enabled 1 0 pgROP) ROP_STAT_following 1 0 0) (fun d => { d with rop := { d.rop with hold := 3 } }))
    s.on ∧ s.dev.ropeMember = true ∧ s.dev.following = true ∧ s.dev.rop.hold ≠ 0 := by decide +kernel

theorem witness_RopeCompletes_5 :
    let s : State := (fld (fld (fld (fld s0 ROP_CFG_en 1 0 0) SYS_STRAP_rope_pos 1 0 0) STATUS_enabled 1 0 pgROP) ROP_STAT_following 1 0 0)
    s.on ∧ s.dev.ropeMember = true ∧ s.dev.following = true := by decide +kernel

theorem witness_RopeCompletes_6 :
    let s : State := (upd (fld (fld (fld s0 ROP_CFG_en 1 0 0) SYS_STRAP_rope_pos 1 0 0) STATUS_enabled 1 0 pgROP) (fun d => { d with cclk := 10 ^ 10, rop := { d.rop with agreeFrom := some 0 } }))
    let t : Nat := 0
    s.on ∧ s.dev.ropeMember = true ∧ s.dev.following = false ∧ s.dev.rop.agreeFrom = some t ∧ t + cclkPerS ≤ s.dev.cclk ∧
      s.dev.tim.rem.natAbs ≤ 2 ^ 32 := by decide +kernel

theorem witness_RopeCompletes_7 :
    let s : State := (fld (fld (fld s0 ROP_CFG_en 1 0 0) STATUS_enabled 1 0 pgROP) ROP_STAT_members 15 0 0)
    let lane : Fin 4 := 3
    let bits : BitVec 40 := BitVec.ofNat 40 (1 * 2 ^ 36 + (5 * 2 ^ 18 + 9))
    s.on ∧ s.dev.ropeLeader = true ∧ lane ≠ 0 ∧ slotType bits.toNat = 1 := by decide +kernel

theorem witness_RopeCompletes_8 :
    let s : State := (fld (fld (fld s0 ROP_CFG_en 1 0 0) STATUS_enabled 1 0 pgROP) ROP_STAT_members 15 0 0)
    let lane : Fin 4 := 3
    let bits : BitVec 40 := BitVec.ofNat 40 (2 * 2 ^ 36 + (2 ^ 33 + 0xDEADBEEF))
    let v : Nat := bits.toNat % 2 ^ 36
    s.on ∧ s.dev.hearsLane lane = true ∧ slotType bits.toNat = 2 ∧ v.testBit 33 = true := by decide +kernel

theorem witness_RopeCompletes_9 :
    let s : State := (fld (fld (fld s0 ROP_CFG_en 1 0 0) STATUS_enabled 1 0 pgROP) ROP_STAT_members 15 0 0)
    let lane : Fin 4 := 3
    let bits : BitVec 40 := BitVec.ofNat 40 (3 * 2 ^ 36 + (2 * 2 ^ 34 + 15 * 2 ^ 30))
    s.on ∧ s.dev.hearsLane lane = true ∧ slotType bits.toNat = 3 := by decide +kernel

theorem witness_RopeCompletes_10 :
    let s : State := (fld (fld (fld s0 ROP_CFG_en 1 0 0) SYS_STRAP_rope_pos 1 0 0) STATUS_enabled 1 0 pgROP)
    let bits : BitVec 40 := BitVec.ofNat 40 (4 * 2 ^ 36 + (2 ^ 32 + 77))
    let v : Nat := bits.toNat % 2 ^ 36
    s.on ∧ s.dev.ropeMember = true ∧ slotType bits.toNat = 4 ∧ bitsOf v 33 32 < 2 := by decide +kernel

theorem witness_RopeCompletes_11 :
    let s : State := (fld (fld (fld s0 ROP_CFG_en 1 0 0) SYS_STRAP_rope_pos 1 0 0) STATUS_enabled 1 0 pgROP)
    let bits : BitVec 40 := BitVec.ofNat 40 (5 * 2 ^ 36 + (77))
    let v : Nat := bits.toNat % 2 ^ 36
    s.on ∧ s.dev.ropeMember = true ∧ slotType bits.toNat = 5 ∧ bitsOf v 33 32 < 2 ∧ s.dev.rop.step = [] := by decide +kernel

theorem witness_RopeCompletes_12 :
    let s : State := (upd (fld (fld (fld (fld s0 ROP_CFG_en 1 0 0) SYS_STRAP_rope_pos 1 0 0) STATUS_enabled 1 0 pgROP) ROP_STAT_following 1 0 0) (fun d => { d with ticks := 10, rop := { d.rop with step := [(0, 5), (2, 3)] } }))
    let bits : BitVec 40 := BitVec.ofNat 40 (5 * 2 ^ 36 + (2 ^ 32 + 77))
    let low : Nat := 5
    let at_ : Nat := 3
    s.on ∧ s.dev.ropeMember = true ∧ slotType bits.toNat = 5 ∧ bitsOf (bits.toNat % 2 ^ 36) 33 32 = 1 ∧
      s.dev.rop.step = [(0, low), (2, at_)] := by decide +kernel

theorem witness_RopeCompletes_13 :
    let s : State := (fld (fld (fld (fld (fld (fld s0 ROP_CFG_en 1 0 0) SYS_STRAP_rope_pos 1 0 0) STATUS_enabled 1 0 pgROP) ROP_STAT_following 1 0 0) ORBn_SRC_kind 2 3 0) ORBn_STATE_state 1 3 0)
    let bits : BitVec 40 := BitVec.ofNat 40 (6 * 2 ^ 36 + (3 * 2 ^ 34 + 2 ^ 32 + 5 * 2 ^ 24 + 0xFFFFFF))
    let v : Nat := bits.toNat % 2 ^ 36
    let n : Nat := bitsOf v 35 34
    s.on ∧ s.dev.ropeMember = true ∧ slotType bits.toNat = 6 ∧ s.dev.orbFollows n = true ∧ bitsOf v 33 32 = 1 := by decide +kernel

theorem witness_RopeCompletes_14 :
    let s : State := (upd (fld (fld (fld (fld (fld (fld s0 ROP_CFG_en 1 0 0) SYS_STRAP_rope_pos 1 0 0) STATUS_enabled 1 0 pgROP) ROP_STAT_following 1 0 0) ORBn_SRC_kind 2 3 0) ORBn_STATE_state 1 3 0) (fun d => { d with rop := { d.rop with hiSeen := [3] } }))
    let bits : BitVec 40 := BitVec.ofNat 40 (7 * 2 ^ 36 + (3 * 2 ^ 34))
    let v : Nat := bits.toNat % 2 ^ 36
    let n : Nat := bitsOf v 35 34
    s.on ∧ s.dev.ropeMember = true ∧ slotType bits.toNat = 7 ∧ s.dev.orbFollows n = true ∧ s.dev.rop.hiSeen.contains n = true ∧
      (s.dev.orbit n).trail.headD 0 / orbCycle / 2 ^ 32 % 65536 = v % 65536 := by decide +kernel

theorem witness_RopeCompletes_15 :
    let s : State := (upd (fld (fld (fld (fld (fld (fld s0 ROP_CFG_en 1 0 0) SYS_STRAP_rope_pos 1 0 0) STATUS_enabled 1 0 pgROP) ROP_STAT_following 1 0 0) ORBn_SRC_kind 2 3 0) ORBn_STATE_state 1 3 0) (fun d => { d with rop := { d.rop with hiSeen := [3] } }))
    let bits : BitVec 40 := BitVec.ofNat 40 (7 * 2 ^ 36 + (3 * 2 ^ 34 + 1))
    let v : Nat := bits.toNat % 2 ^ 36
    let n : Nat := bitsOf v 35 34
    s.on ∧ s.dev.ropeMember = true ∧ slotType bits.toNat = 7 ∧ s.dev.orbFollows n = true ∧ s.dev.rop.hiSeen.contains n = true ∧
      (s.dev.orbit n).trail.headD 0 / orbCycle / 2 ^ 32 % 65536 ≠ v % 65536 := by decide +kernel

theorem witness_RopeCompletes_16 :
    let s : State := (fld (fld (fld s0 ROP_CFG_en 1 0 0) STATUS_enabled 1 0 pgROP) ROP_STAT_members 15 0 0)
    let lane : Fin 4 := 3
    let bits : BitVec 40 := 0
    s.on ∧ s.dev.hearsLane lane = true ∧ slotType bits.toNat = 0 := by decide +kernel

theorem witness_RopeCompletes_17 :
    let s : State := (fld (fld (fld s0 ROP_CFG_en 1 0 0) STATUS_enabled 1 0 pgROP) ROP_STAT_members 15 0 0)
    let lane : Fin 4 := 3
    let bits : BitVec 40 := BitVec.ofNat 40 (9 * 2 ^ 36 + (0))
    let ok : Bool := true
    s.on ∧ s.dev.hearsLane lane = true ∧ ((ok = false ∨ 8 ≤ slotType bits.toNat)) := by decide +kernel

theorem witness_RopeCompletes_18 :
    let s : State := (upd (fld (fld (fld s0 ROP_CFG_en 1 0 0) STATUS_enabled 1 0 pgROP) ROP_STAT_members 15 0 0) (fun d => { d with ticks := 15 }))
    let lane : Fin 4 := 3
    s.on ∧ s.dev.ropeLeader = true ∧ (s.dev.rd ROP_STAT_members).testBit lane = true ∧
      s.dev.rop.seen.get lane 0 + 15 ≤ s.dev.ticks := by decide +kernel

theorem witness_IsdinCompletes_0 :
    let s : State := (upd (fld (fld (fld (fld (fld s0 STATUS_enabled 1 0 pgISD) STATUS_enabled 1 0 (pgPort 5)) PRT_MODE_mode 6 0 5) ISD_LINKp_state 1 5 0) ISD_CFG_massif 3 0 0) (fun d => ({ d with cclk := 10 ^ 12 })))
    let p : Fin 8 := 5
    s.on ∧ s.dev.flag STATUS_enabled 0 pgISD = true ∧ s.dev.portEnabled p = true ∧ s.dev.portMode p = 6 ∧ s.dev.linkState p ≤ 1 ∧
      s.dev.ropePos = 0 := by decide +kernel

theorem witness_IsdinCompletes_1 :
    let s : State := (upd (fld (fld (fld (fld (fld s0 STATUS_enabled 1 0 pgISD) STATUS_enabled 1 0 (pgPort 5)) PRT_MODE_mode 6 0 5) ISD_LINKp_state 4 5 0) ISD_CFG_massif 3 0 0) (fun d => ({ d with cclk := 10 ^ 12 })))
    let p : Fin 8 := 5
    s.on ∧ s.dev.linkState p ≠ 0 := by decide +kernel

theorem witness_IsdinCompletes_2 :
    let s : State := (upd (fld (fld (fld (fld (fld s0 STATUS_enabled 1 0 pgISD) STATUS_enabled 1 0 (pgPort 5)) PRT_MODE_mode 6 0 5) ISD_LINKp_state 2 5 0) ISD_CFG_massif 3 0 0) (fun d => ({ d with cclk := 10 ^ 12 })))
    let p : Fin 8 := 5
    let f : Flit := { flit0 with kind := 2, payload := leBytes 0x1501 2 ++ zeros 2 ++ List.replicate 16 9 ++ zeros 32 ++ leBytes 0x3045 2 ++ [3, 0, 32, 64, 64, 32, 0, 0, 0, 0] }
    let b : List Byte := f.payload
    s.on ∧ s.dev.linkState p = 2 ∧ f.kind = 2 ∧ f.crcOk = true ∧ b.length = 0x40 ∧ leAt b 0 2 = 0x1501 ∧
      leAt b 0x36 1 = s.dev.isdMassif (s.dev.isdSide p) ∧ leAt b 0x3D 1 ≠ 1 ∧ (s.dev.link p).got = false := by decide +kernel

theorem witness_IsdinCompletes_3 :
    let s : State := (upd (fld (fld (fld (fld (fld s0 STATUS_enabled 1 0 pgISD) STATUS_enabled 1 0 (pgPort 5)) PRT_MODE_mode 6 0 5) ISD_LINKp_state 2 5 0) ISD_CFG_massif 3 0 0) (fun d => ({ d with cclk := 10 ^ 12 })))
    let p : Fin 8 := 5
    let f : Flit := { flit0 with kind := 2, crcOk := false, lseq := 9 }
    s.on ∧ s.dev.linkState p = 2 ∧ f.kind = 2 ∧ f.crcOk = false := by decide +kernel

theorem witness_IsdinCompletes_4 :
    let s : State := (upd (fld (fld (fld (fld (fld s0 STATUS_enabled 1 0 pgISD) STATUS_enabled 1 0 (pgPort 5)) PRT_MODE_mode 6 0 5) ISD_LINKp_state 2 5 0) ISD_CFG_massif 3 0 0) (fun d => ({ d with cclk := 10 ^ 12 })))
    let p : Fin 8 := 5
    s.on ∧ 2 ≤ s.dev.linkState p ∧ (s.dev.link p).helloAt + 100 * cclkPerUs ≤ s.dev.cclk := by decide +kernel

theorem witness_IsdinCompletes_5 :
    let s : State := (upd (fld (fld (fld (fld (fld s0 STATUS_enabled 1 0 pgISD) STATUS_enabled 1 0 (pgPort 5)) PRT_MODE_mode 6 0 5) ISD_LINKp_state 4 5 0) ISD_CFG_massif 3 0 0) (fun d => ({ d with cclk := 10 ^ 12 })))
    let p : Fin 8 := 5
    let f : Flit := { flit0 with kind := 0 }
    s.on ∧ s.dev.linkState p = 4 ∧ f.crcOk = true ∧ f.kind = 0 := by decide +kernel

theorem witness_IsdinCompletes_6 :
    let s : State := (upd (fld (fld (fld (fld (fld s0 STATUS_enabled 1 0 pgISD) STATUS_enabled 1 0 (pgPort 5)) PRT_MODE_mode 6 0 5) ISD_LINKp_state 4 5 0) ISD_CFG_massif 3 0 0) (fun d => ({ d with cclk := 10 ^ 12 })))
    let p : Fin 8 := 5
    let f : Flit := { flit0 with kind := 6 }
    let d1 : Dev := ((s.dev.cleared.isdStat p 1).isdAck p f).isdSend p
    s.on ∧ s.dev.linkState p = 4 ∧ f.crcOk = true ∧ f.kind = 6 ∧ d1.linkUpNow p = true := by decide +kernel

theorem witness_IsdinCompletes_7 :
    let s : State := (upd (fld (fld (fld (fld (fld s0 STATUS_enabled 1 0 pgISD) STATUS_enabled 1 0 (pgPort 5)) PRT_MODE_mode 6 0 5) ISD_LINKp_state 4 5 0) ISD_CFG_massif 3 0 0) (fun d => ({ d with cclk := 10 ^ 12 })))
    let p : Fin 8 := 5
    let f : Flit := { flit0 with kind := 3, payload := List.replicate 32 7 }
    let d1 : Dev := ((s.dev.cleared.isdStat p 1).isdAck p f).isdSend p
    s.on ∧ s.dev.linkState p = 4 ∧ f.crcOk = true ∧ f.kind = 3 ∧ d1.linkUpNow p = true := by decide +kernel

theorem witness_IsdinCompletes_8 :
    let s : State := (upd (fld (fld (fld (fld (fld s0 STATUS_enabled 1 0 pgISD) STATUS_enabled 1 0 (pgPort 5)) PRT_MODE_mode 6 0 5) ISD_LINKp_state 4 5 0) ISD_CFG_massif 3 0 0) (fun d => ({ d with cclk := 10 ^ 12 })))
    let p : Fin 8 := 5
    let f : Flit := { flit0 with kind := 1, payload := List.replicate 32 7, dst := 0x3045, first := true, last := true }
    let d1 : Dev := ((s.dev.cleared.isdStat p 1).isdAck p f).isdSend p
    s.on ∧ s.dev.linkState p = 4 ∧ f.crcOk = true ∧ d1.linkState p = 4 ∧ f.lseq = ((d1.link p).rx + 1) % 65536 ∧
      getN (d1.link p).peer f.vc ≠ 0 ∧ f.kind = 1 := by decide +kernel

theorem witness_IsdinCompletes_9 :
    let s : State := (upd (fld (fld (fld (fld (fld s0 STATUS_enabled 1 0 pgISD) STATUS_enabled 1 0 (pgPort 5)) PRT_MODE_mode 6 0 5) ISD_LINKp_state 4 5 0) ISD_CFG_massif 3 0 0) (fun d => ({ d with cclk := 10 ^ 12 })))
    let p : Fin 8 := 5
    let f : Flit := { flit0 with kind := 4, payload := List.replicate 64 7, first := true, last := true }
    let d1 : Dev := ((s.dev.cleared.isdStat p 1).isdAck p f).isdSend p
    s.on ∧ s.dev.linkState p = 4 ∧ f.crcOk = true ∧ d1.linkState p = 4 ∧ f.lseq = ((d1.link p).rx + 1) % 65536 ∧
      getN (d1.link p).peer f.vc ≠ 0 ∧ f.kind = 4 := by decide +kernel

theorem witness_IsdinCompletes_10 :
    let s : State := (upd (fld (fld (fld (fld (fld s0 STATUS_enabled 1 0 pgISD) STATUS_enabled 1 0 (pgPort 5)) PRT_MODE_mode 6 0 5) ISD_LINKp_state 4 5 0) ISD_CFG_massif 3 0 0) (fun d => ({ d with cclk := 10 ^ 12 })))
    let p : Fin 8 := 5
    let f : Flit := { flit0 with kind := 5, payload := List.replicate 64 7, first := true, last := true }
    let d1 : Dev := ((s.dev.cleared.isdStat p 1).isdAck p f).isdSend p
    s.on ∧ s.dev.linkState p = 4 ∧ f.crcOk = true ∧ d1.linkState p = 4 ∧ f.lseq = ((d1.link p).rx + 1) % 65536 ∧
      getN (d1.link p).peer f.vc ≠ 0 ∧ f.kind = 5 := by decide +kernel

theorem witness_IsdinCompletes_11 :
    let s : State := (upd (fld (fld (fld (fld (fld s0 STATUS_enabled 1 0 pgISD) STATUS_enabled 1 0 (pgPort 5)) PRT_MODE_mode 6 0 5) ISD_LINKp_state 4 5 0) ISD_CFG_massif 3 0 0) (fun d => ({ (d.setLink 5 { d.link 5 with gap := true }) with cclk := 10 ^ 12 })))
    let p : Fin 8 := 5
    let f : Flit := { flit0 with kind := 1, lseq := 9 }
    let d1 : Dev := ((s.dev.cleared.isdStat p 1).isdAck p f).isdSend p
    s.on ∧ s.dev.linkState p = 4 ∧ f.crcOk = true ∧ f.kind = 1 ∧ d1.linkState p = 4 ∧ f.lseq ≠ ((d1.link p).rx + 1) % 65536 ∧
      (d1.link p).gap = true := by decide +kernel

theorem witness_IsdinCompletes_12 :
    let s : State := (upd (fld (fld (fld (fld (fld s0 STATUS_enabled 1 0 pgISD) STATUS_enabled 1 0 (pgPort 5)) PRT_MODE_mode 6 0 5) ISD_LINKp_state 4 5 0) ISD_CFG_massif 3 0 0) (fun d => ({ (d.setLink 5 { d.link 5 with held := [⟨{ flit0 with kind := 1, lseq := 4 }, 10 ^ 12 - 400, 10 ^ 12 - 400, 2, none⟩] }) with cclk := 10 ^ 12 })))
    let p : Fin 8 := 5
    let h : HeldFlit := ⟨{ flit0 with kind := 1, lseq := 4 }, 10 ^ 12 - 400, 10 ^ 12 - 400, 2, none⟩
    s.on ∧ s.dev.linkUpNow p = true ∧ (s.dev.link p).held = [h] ∧ h.lastAt + 400 ≤ s.dev.cclk ∧ h.tries < 3 ∧
      s.dev.cclk ≤ h.firstAt + 2 * cclkPerUs := by decide +kernel

theorem witness_IsdinCompletes_13 :
    let s : State := (upd (fld (fld (fld (fld (fld s0 STATUS_enabled 1 0 pgISD) STATUS_enabled 1 0 (pgPort 5)) PRT_MODE_mode 6 0 5) ISD_LINKp_state 4 5 0) ISD_CFG_massif 3 0 0) (fun d => ({ (d.setLink 5 { d.link 5 with held := [⟨{ flit0 with kind := 1, lseq := 4 }, 10 ^ 12 - 400, 10 ^ 12 - 400, 3, none⟩] }) with cclk := 10 ^ 12 })))
    let p : Fin 8 := 5
    let h : HeldFlit := ⟨{ flit0 with kind := 1, lseq := 4 }, 10 ^ 12 - 400, 10 ^ 12 - 400, 3, none⟩
    s.on ∧ s.dev.linkUpNow p = true ∧ (s.dev.link p).held = [h] ∧ h.lastAt + 400 ≤ s.dev.cclk ∧ 3 ≤ h.tries := by decide +kernel

theorem witness_IsdinCompletes_14 :
    let s : State := (upd (fld (fld (fld (fld (fld s0 STATUS_enabled 1 0 pgISD) STATUS_enabled 1 0 (pgPort 5)) PRT_MODE_mode 6 0 5) ISD_LINKp_state 4 5 0) ISD_CFG_massif 3 0 0) (fun d => ({ (d.setLink 5 { d.link 5 with gap := true }) with cclk := 10 ^ 12 })))
    let p : Fin 8 := 5
    s.on ∧ s.dev.linkUpNow p = true ∧ (s.dev.link p).gap = true ∧ (s.dev.link p).nakAt + 400 ≤ s.dev.cclk := by decide +kernel

theorem witness_IsdinCompletes_15 :
    let s : State := (upd (fld (fld (fld (fld (fld s0 STATUS_enabled 1 0 pgISD) STATUS_enabled 1 0 (pgPort 5)) PRT_MODE_mode 6 0 5) ISD_LINKp_state 4 5 0) ISD_CFG_massif 3 0 0) (fun d => ({ d with cclk := 10 ^ 12 })))
    let p : Fin 8 := 5
    s.on ∧ s.dev.linkUpNow p = true ∧ (s.dev.link p).timeAt + 125 * cclkPerUs ≤ s.dev.cclk := by decide +kernel

theorem witness_IsdinCompletes_16 :
    let s : State := (upd (fld (fld (fld (fld (fld s0 STATUS_enabled 1 0 pgISD) STATUS_enabled 1 0 (pgPort 5)) PRT_MODE_mode 6 0 5) ISD_LINKp_state 4 5 0) ISD_CFG_massif 3 0 0) (fun d => ({ d with cclk := 10 ^ 12 })))
    s.on ∧ s.dev.flag STATUS_enabled 0 pgISD = true ∧ s.dev.isd.floodAt + 100 * cclkPerMs ≤ s.dev.cclk := by decide +kernel

theorem witness_IsdinCompletes_17 :
    let s : State := (upd (fld (fld (fld (fld (fld s0 STATUS_enabled 1 0 pgISD) STATUS_enabled 1 0 (pgPort 5)) PRT_MODE_mode 6 0 5) ISD_LINKp_state 4 5 0) ISD_CFG_massif 3 0 0) (fun d => ({ d with cclk := 10 ^ 12 })))
    let reqs : List (List Byte × Nat) := [(List.replicate 16 9, 5)]
    s.on ∧ s.dev.flag STATUS_enabled 0 pgISD = true ∧ s.dev.isd.stood = false ∧
      s.dev.isd.changedAt + 2 * cclkPerMs ≤ s.dev.cclk ∧
      (({ s.dev.cleared with isd := { s.dev.isd with stood := true } }).elect 0 reqs).flag ISD_COL_en = false := by decide +kernel

theorem witness_IsdinCompletes_18 :
    let s : State := (fld s0 ISD_CFG_admit 0 0 0)
    let r : Req := .refuge
    s.accepts r pgISD 0x050 ∧ s.dev.flag ISD_CFG_admit = false := by decide +kernel

theorem witness_IsdinCompletes_19 :
    let s : State := (upd (fld (fld (fld (fld (fld (fld s0 STATUS_enabled 1 0 pgISD) STATUS_enabled 1 0 (pgPort 5)) PRT_MODE_mode 6 0 5) ISD_LINKp_state 4 5 0) ISD_CFG_massif 3 0 0) ISD_ADDR_addr 0x3100 0 0) (fun d => ({ (({ d with isd := { d.isd with xmap := [(0, (2 ^ 31 + 7, 0x3045))] } }).setQ 7 { known := true, w0 := 2 ^ 31 + 9 * 2 ^ 24 + 4 * 2 ^ 20, w1 := 3 * 2 ^ 30 + 1 * 2 ^ 16, enabled := true, prod := 1, ents := [{}] }).store sbBase (mkHdr 20 1 0xFFFF 0 0x0C 5 ++ List.replicate 20 7) with cclk := 10 ^ 12 })))
    let n : Fin 16384 := 7
    let b : List Byte := ((((upd (fld (fld (fld (fld (fld (fld s0 STATUS_enabled 1 0 pgISD) STATUS_enabled 1 0 (pgPort 5)) PRT_MODE_mode 6 0 5) ISD_LINKp_state 4 5 0) ISD_CFG_massif 3 0 0) ISD_ADDR_addr 0x3100 0 0) (fun d => ({ (({ d with isd := { d.isd with xmap := [(0, (2 ^ 31 + 7, 0x3045))] } }).setQ 7 { known := true, w0 := 2 ^ 31 + 9 * 2 ^ 24 + 4 * 2 ^ 20, w1 := 3 * 2 ^ 30 + 1 * 2 ^ 16, enabled := true, prod := 1, ents := [{}] }).store sbBase (mkHdr 20 1 0xFFFF 0 0x0C 5 ++ List.replicate 20 7) with cclk := 10 ^ 12 })))).dev.cleared.isdClaim 7 65536).1.map (·.1)).getD []
    let i : Nat := ((((upd (fld (fld (fld (fld (fld (fld s0 STATUS_enabled 1 0 pgISD) STATUS_enabled 1 0 (pgPort 5)) PRT_MODE_mode 6 0 5) ISD_LINKp_state 4 5 0) ISD_CFG_massif 3 0 0) ISD_ADDR_addr 0x3100 0 0) (fun d => ({ (({ d with isd := { d.isd with xmap := [(0, (2 ^ 31 + 7, 0x3045))] } }).setQ 7 { known := true, w0 := 2 ^ 31 + 9 * 2 ^ 24 + 4 * 2 ^ 20, w1 := 3 * 2 ^ 30 + 1 * 2 ^ 16, enabled := true, prod := 1, ents := [{}] }).store sbBase (mkHdr 20 1 0xFFFF 0 0x0C 5 ++ List.replicate 20 7) with cclk := 10 ^ 12 })))).dev.cleared.isdClaim 7 65536).1.map (·.2)).getD 0
    let d0 : Dev := (((upd (fld (fld (fld (fld (fld (fld s0 STATUS_enabled 1 0 pgISD) STATUS_enabled 1 0 (pgPort 5)) PRT_MODE_mode 6 0 5) ISD_LINKp_state 4 5 0) ISD_CFG_massif 3 0 0) ISD_ADDR_addr 0x3100 0 0) (fun d => ({ (({ d with isd := { d.isd with xmap := [(0, (2 ^ 31 + 7, 0x3045))] } }).setQ 7 { known := true, w0 := 2 ^ 31 + 9 * 2 ^ 24 + 4 * 2 ^ 20, w1 := 3 * 2 ^ 30 + 1 * 2 ^ 16, enabled := true, prod := 1, ents := [{}] }).store sbBase (mkHdr 20 1 0xFFFF 0 0x0C 5 ++ List.replicate 20 7) with cclk := 10 ^ 12 })))).dev.cleared.isdClaim 7 65536).2
    let e : Nat × Nat := (2 ^ 31 + 7, 0x3045)
    s.on ∧ (s.dev.q n).consKind = 3 ∧ (s.dev.q n).consId = 1 ∧
      ((s.dev.ropeMember = true ∨ (s.dev.flag STATUS_enabled 0 pgISD = true ∧ s.dev.unaddressed = false))) ∧
      s.dev.cleared.isdClaim n 65536 = (some (b, i), d0) ∧ d0.xmapOf n = some e := by decide +kernel

theorem witness_IsdinCompletes_20 :
    let s : State := (upd (fld (fld (fld (fld (fld (fld (fld s0 STATUS_enabled 1 0 pgISD) STATUS_enabled 1 0 (pgPort 5)) PRT_MODE_mode 6 0 5) ISD_LINKp_state 4 5 0) ISD_CFG_massif 3 0 0) ISD_ADDR_addr 0x3100 0 0) ISD_CFG2_ret_q 7 0 0) (fun d => ({ (({ d with isd := { d.isd with xmap := [] } }).setQ 7 { known := true, w0 := 2 ^ 31 + 9 * 2 ^ 24 + 4 * 2 ^ 20, w1 := 3 * 2 ^ 30 + 1 * 2 ^ 16, enabled := true, prod := 1, ents := [{}] }).store sbBase (mkHdr 20 1 0xFFFF 0 0x0C 5 ++ List.replicate 20 7) with cclk := 10 ^ 12 })))
    let n : Fin 16384 := 7
    let b : List Byte := ((((upd (fld (fld (fld (fld (fld (fld (fld s0 STATUS_enabled 1 0 pgISD) STATUS_enabled 1 0 (pgPort 5)) PRT_MODE_mode 6 0 5) ISD_LINKp_state 4 5 0) ISD_CFG_massif 3 0 0) ISD_ADDR_addr 0x3100 0 0) ISD_CFG2_ret_q 7 0 0) (fun d => ({ (({ d with isd := { d.isd with xmap := [] } }).setQ 7 { known := true, w0 := 2 ^ 31 + 9 * 2 ^ 24 + 4 * 2 ^ 20, w1 := 3 * 2 ^ 30 + 1 * 2 ^ 16, enabled := true, prod := 1, ents := [{}] }).store sbBase (mkHdr 20 1 0xFFFF 0 0x0C 5 ++ List.replicate 20 7) with cclk := 10 ^ 12 })))).dev.cleared.isdClaim 7 65536).1.map (·.1)).getD []
    let i : Nat := ((((upd (fld (fld (fld (fld (fld (fld (fld s0 STATUS_enabled 1 0 pgISD) STATUS_enabled 1 0 (pgPort 5)) PRT_MODE_mode 6 0 5) ISD_LINKp_state 4 5 0) ISD_CFG_massif 3 0 0) ISD_ADDR_addr 0x3100 0 0) ISD_CFG2_ret_q 7 0 0) (fun d => ({ (({ d with isd := { d.isd with xmap := [] } }).setQ 7 { known := true, w0 := 2 ^ 31 + 9 * 2 ^ 24 + 4 * 2 ^ 20, w1 := 3 * 2 ^ 30 + 1 * 2 ^ 16, enabled := true, prod := 1, ents := [{}] }).store sbBase (mkHdr 20 1 0xFFFF 0 0x0C 5 ++ List.replicate 20 7) with cclk := 10 ^ 12 })))).dev.cleared.isdClaim 7 65536).1.map (·.2)).getD 0
    let d0 : Dev := (((upd (fld (fld (fld (fld (fld (fld (fld s0 STATUS_enabled 1 0 pgISD) STATUS_enabled 1 0 (pgPort 5)) PRT_MODE_mode 6 0 5) ISD_LINKp_state 4 5 0) ISD_CFG_massif 3 0 0) ISD_ADDR_addr 0x3100 0 0) ISD_CFG2_ret_q 7 0 0) (fun d => ({ (({ d with isd := { d.isd with xmap := [] } }).setQ 7 { known := true, w0 := 2 ^ 31 + 9 * 2 ^ 24 + 4 * 2 ^ 20, w1 := 3 * 2 ^ 30 + 1 * 2 ^ 16, enabled := true, prod := 1, ents := [{}] }).store sbBase (mkHdr 20 1 0xFFFF 0 0x0C 5 ++ List.replicate 20 7) with cclk := 10 ^ 12 })))).dev.cleared.isdClaim 7 65536).2
    s.on ∧ (s.dev.q n).consKind = 3 ∧ (s.dev.q n).consId = 1 ∧
      ((s.dev.ropeMember = true ∨ (s.dev.flag STATUS_enabled 0 pgISD = true ∧ s.dev.unaddressed = false))) ∧
      s.dev.cleared.isdClaim n 65536 = (some (b, i), d0) ∧ d0.xmapOf n = none ∧ s.dev.rd ISD_CFG2_ret_q = n := by decide +kernel

theorem witness_IsdinCompletes_21 :
    let s : State := (upd (fld (fld (fld (fld (fld (fld (fld s0 STATUS_enabled 1 0 pgISD) STATUS_enabled 1 0 (pgPort 5)) PRT_MODE_mode 6 0 5) ISD_LINKp_state 4 5 0) ISD_CFG_massif 3 0 0) ISD_ADDR_addr 0x3100 0 0) ISD_CFG2_ret_q 8 0 0) (fun d => ({ (({ d with isd := { d.isd with xmap := [] } }).setQ 7 { known := true, w0 := 2 ^ 31 + 9 * 2 ^ 24 + 4 * 2 ^ 20, w1 := 3 * 2 ^ 30 + 1 * 2 ^ 16, enabled := true, prod := 1, ents := [{}] }).store sbBase (mkHdr 20 1 0xFFFF 0 0x0C 5 ++ List.replicate 20 7) with cclk := 10 ^ 12 })))
    let n : Fin 16384 := 7
    let b : List Byte := ((((upd (fld (fld (fld (fld (fld (fld (fld s0 STATUS_enabled 1 0 pgISD) STATUS_enabled 1 0 (pgPort 5)) PRT_MODE_mode 6 0 5) ISD_LINKp_state 4 5 0) ISD_CFG_massif 3 0 0) ISD_ADDR_addr 0x3100 0 0) ISD_CFG2_ret_q 8 0 0) (fun d => ({ (({ d with isd := { d.isd with xmap := [] } }).setQ 7 { known := true, w0 := 2 ^ 31 + 9 * 2 ^ 24 + 4 * 2 ^ 20, w1 := 3 * 2 ^ 30 + 1 * 2 ^ 16, enabled := true, prod := 1, ents := [{}] }).store sbBase (mkHdr 20 1 0xFFFF 0 0x0C 5 ++ List.replicate 20 7) with cclk := 10 ^ 12 })))).dev.cleared.isdClaim 7 65536).1.map (·.1)).getD []
    let i : Nat := ((((upd (fld (fld (fld (fld (fld (fld (fld s0 STATUS_enabled 1 0 pgISD) STATUS_enabled 1 0 (pgPort 5)) PRT_MODE_mode 6 0 5) ISD_LINKp_state 4 5 0) ISD_CFG_massif 3 0 0) ISD_ADDR_addr 0x3100 0 0) ISD_CFG2_ret_q 8 0 0) (fun d => ({ (({ d with isd := { d.isd with xmap := [] } }).setQ 7 { known := true, w0 := 2 ^ 31 + 9 * 2 ^ 24 + 4 * 2 ^ 20, w1 := 3 * 2 ^ 30 + 1 * 2 ^ 16, enabled := true, prod := 1, ents := [{}] }).store sbBase (mkHdr 20 1 0xFFFF 0 0x0C 5 ++ List.replicate 20 7) with cclk := 10 ^ 12 })))).dev.cleared.isdClaim 7 65536).1.map (·.2)).getD 0
    let d0 : Dev := (((upd (fld (fld (fld (fld (fld (fld (fld s0 STATUS_enabled 1 0 pgISD) STATUS_enabled 1 0 (pgPort 5)) PRT_MODE_mode 6 0 5) ISD_LINKp_state 4 5 0) ISD_CFG_massif 3 0 0) ISD_ADDR_addr 0x3100 0 0) ISD_CFG2_ret_q 8 0 0) (fun d => ({ (({ d with isd := { d.isd with xmap := [] } }).setQ 7 { known := true, w0 := 2 ^ 31 + 9 * 2 ^ 24 + 4 * 2 ^ 20, w1 := 3 * 2 ^ 30 + 1 * 2 ^ 16, enabled := true, prod := 1, ents := [{}] }).store sbBase (mkHdr 20 1 0xFFFF 0 0x0C 5 ++ List.replicate 20 7) with cclk := 10 ^ 12 })))).dev.cleared.isdClaim 7 65536).2
    s.on ∧ (s.dev.q n).consKind = 3 ∧ (s.dev.q n).consId = 1 ∧
      ((s.dev.ropeMember = true ∨ (s.dev.flag STATUS_enabled 0 pgISD = true ∧ s.dev.unaddressed = false))) ∧
      s.dev.cleared.isdClaim n 65536 = (some (b, i), d0) ∧ d0.xmapOf n = none ∧ s.dev.rd ISD_CFG2_ret_q ≠ n := by decide +kernel

theorem witness_IsdinCompletes_22 :
    let s : State := (upd (fld (fld (fld (fld (fld s0 STATUS_enabled 1 0 pgISD) STATUS_enabled 1 0 (pgPort 5)) PRT_MODE_mode 6 0 5) ISD_LINKp_state 4 5 0) ISD_CFG_massif 3 0 0) (fun d => ({ { d with isd := { d.isd with parts := [⟨1, 2, 3, 4, [], 0, 5⟩] } } with cclk := 10 ^ 12 })))
    let j : Nat := 0
    let x : IsdPart := ⟨1, 2, 3, 4, [], 0, 5⟩
    s.on ∧ s.dev.isd.parts[j]? = some x ∧ x.at_ + cclkPerMs ≤ s.dev.cclk := by decide +kernel

theorem witness_IsdinCompletes_23 :
    let s : State := (upd (fld (fld (fld (fld (fld s0 STATUS_enabled 1 0 pgISD) STATUS_enabled 1 0 (pgPort 5)) PRT_MODE_mode 6 0 5) ISD_LINKp_state 4 5 0) ISD_CFG_massif 3 0 0) (fun d => ({ (d.setLink 5 { d.link 5 with vc1From := some 0, waiting := [({ flit0 with vc := 1 }, none), ({ flit0 with vc := 2 }, none)] }) with cclk := 10 ^ 12 })))
    let p : Fin 8 := 5
    let t : Nat := 0
    s.on ∧ (s.dev.link p).vc1From = some t ∧ t + max 1 (s.dev.rd ISD_CFG_vc1_late) * cclkPerUs ≤ s.dev.cclk := by decide +kernel

theorem witness_IsdinCompletes_24 :
    let s : State := (fld (fld s0 ISD_XMAP_W0_valid 1 0 0) ISD_XMAP_W0_queue 7 0 0)
    let r : Req := .refuge
    let k : Nat := s.dev.rd ISD_XMAP_SEL_entry
    let w0 : Nat := s.dev.rdWord ISD_XMAP_W0_valid
    let w1 : Nat := s.dev.rdWord ISD_XMAP_W1_dst
    s.accepts r pgISD 0x11C ∧ bitsOf w1 21 16 = 0 ∧
      (w0.testBit 31 && s.dev.isd.xmap.any (fun e => e.1 != k && e.2.1.testBit 31 && bitsOf e.2.1 13 0 == bitsOf w0 13 0)) = false := by
  decide +kernel

theorem witness_IsdinCompletes_25 :
    let s : State := (upd (fld (fld (fld s0 ISD_XMAP_SEL_entry 2 0 0) ISD_XMAP_W0_valid 1 0 0) ISD_XMAP_W0_queue 7 0 0) (fun d => { d with isd := { d.isd with xmap := [(0, (2 ^ 31 + 7, 0x3045))] } }))
    let r : Req := .refuge
    let k : Nat := s.dev.rd ISD_XMAP_SEL_entry
    let w0 : Nat := s.dev.rdWord ISD_XMAP_W0_valid
    let w1 : Nat := s.dev.rdWord ISD_XMAP_W1_dst
    s.accepts r pgISD 0x11C ∧ bitsOf w1 21 16 = 0 ∧
      (w0.testBit 31 && s.dev.isd.xmap.any (fun e => e.1 != k && e.2.1.testBit 31 && bitsOf e.2.1 13 0 == bitsOf w0 13 0)) = true := by
  decide +kernel

-- IsdinCompletes 26, 27
theorem witness_IsdinCompletes_26 :
    let s : State := (upd s0 (fun d => { d with isd := { d.isd with xmap := [(0, (2 ^ 31 + 7, 0x3045))] } }))
    let r : Req := .refuge
    s.accepts r pgISD 0x11C := by decide +kernel

theorem counterAt_zero (d : Dev) (h : d.tim.rem = 0) : d.counterAt 0 = d.tim.tai % 2 ^ 96 := by
  simp [Dev.counterAt, advanceBy, h]

/-- A second after an edge whose counter value was 0. -/
def ppsState : State :=
  upd State.reset (fun d => { d with tim := { d.tim with tai := 1000000000 * 2 ^ 32, rem := 0, ppsLast := some 0, ppsGood := 3 } })

theorem witness_TimeEventsComplete_2 :
    ppsState.on ∧ true ≠ ppsState.dev.flag TIM_CFG_pps_in_pol ∧ ppsState.dev.tim.ppsLast = some 0 ∧
      0 + 999990000 ≤ ppsState.dev.counterAt 0 / 2 ^ 32 ∧ ppsState.dev.counterAt 0 / 2 ^ 32 ≤ 0 + 1000010000 ∧
      3 ≤ ppsState.dev.tim.ppsGood := by
  rw [counterAt_zero _ rfl]
  decide +kernel

/-- A mailbox that is full. -/
def fullMailbox : State := upd State.reset (fun d => { d with jtag := { d.jtag with mbox := zeros 65536 } })

theorem witness_GuardAndDebugComplete_31 : fullMailbox.accepts .refuge pgDBG 0x040 ∧ 65536 ≤ fullMailbox.dev.jtag.mbox.length := by
  refine ⟨by decide +kernel, Nat.le_of_eq ?_⟩
  exact (List.length_replicate ..).symm

/-! ### What needs a good SLH-DSA signature: the law of Laws/Slh.lean gives one under a key whose seeds are zeros -/

def testRoot : List Byte := slhRoot slhS (zeros 32) (zeros 32)
def testPk : List Byte := zeros 32 ++ testRoot
def testSig (m : List Byte) : List Byte := slhSign slhS (zeros 32 ++ zeros 32 ++ zeros 32 ++ testRoot) [] m none

theorem testSig_verifies (m : List Byte) : slhVerify slhS testPk [] m (testSig m) = true :=
  slhVerify_sign slhS (by decide) (by decide) (zeros 32) (zeros 32) (zeros 32) [] m none rfl rfl rfl

/-- A signed command whose first 88 bytes are `h`. -/
def testCmd (h : List Byte) : List Byte := h ++ testSig h
def testCmdEnv : CmdEnv := ⟨testPk, [], [], none, false⟩

theorem parse_testCmd (h : List Byte) (hl : h.length = 0x58) : parseCmd (testCmd h) = { parseCmd h with sig := testSig h } := by
  have hd : ∀ i n, i + n ≤ 0x58 → ((h ++ testSig h).drop i).take n = (h.drop i).take n := by
    intro i n hin
    rw [List.drop_append_of_le_length (by omega), List.take_append_of_le_length (by rw [List.length_drop]; omega)]
  have h0 : (h ++ testSig h).take 2 = h.take 2 := hd 0 2 (by omega)
  unfold testCmd parseCmd leAt slice
  simp [hd, h0, List.drop_left' hl]

theorem leAt_testCmd (h : List Byte) (hl : h.length = 0x58) : leAt (testCmd h) 0x34 1 = leAt h 0x34 1 :=
  congrArg SignedCmd.code (parse_testCmd h hl)

/-- What a command's bytes and the state must show beside the signature. -/
structure Signed (d : Dev) (h : List Byte) (code : Nat) : Prop where
  len : h.length = 0x58
  code : leAt h 0x34 1 = code
  good : (parseCmd h).bad = false
  shown : (parseCmd h).permitted d.lcc = true ∧ ((parseCmd h).uid == d.rfg.otp.uid) = true ∧
    (d.rfg.nonce == some (parseCmd h).nonce) = true ∧ ((parseCmd h).state == d.lcc) = true ∧ (parseCmd h).set = 0

/-- A command that shows it, by a signer whose key OTP names, is well formed and authenticates. -/
theorem Signed.meets {d : Dev} {h : List Byte} {code : Nat} (x : Signed d h code) (hk : d.keyNamed (parseCmd h).signer testPk = true) :
    leAt (testCmd h) 0x34 1 = code ∧ (parseCmd (testCmd h)).bad = false ∧
      d.cmdAuth (parseCmd (testCmd h)) (testCmd h) testCmdEnv = true := by
  obtain ⟨h1, h2, h3, h4, h5⟩ := x.shown
  refine ⟨(leAt_testCmd h x.len).trans x.code, ?_, ?_⟩
  · rw [parse_testCmd h x.len]; exact x.good
  · rw [parse_testCmd h x.len]
    have ht : (testCmd h).take 0x58 = h := List.take_left' x.len
    unfold Dev.cmdAuth
    simp only [ht, testCmdEnv, SignedCmd.permitted, h5] at h1 ⊢
    rw [hk, h1, h2, h3, h4]
    exact testSig_verifies h

/-- The 88 bytes: signer, code, life-cycle state, argument; the uid and the nonce are zeros. -/
def cmdHead (signer code state : Nat) (arg : List Byte) : List Byte :=
  leBytes 0xC701 2 ++ leBytes signer 1 ++ leBytes 0 1 ++ zeros 16 ++ zeros 32 ++ leBytes code 1 ++ leBytes state 1 ++ zeros 2 ++ arg

/-- A device in a life-cycle state, with a nonce of zeros out and a hash as its first owner's. -/
def lifeState (state owner : Nat) (hash : List Byte) : State :=
  upd State.reset (fun d =>
    let d := ((d.wr TRN_STAT_drbg_ready 1).wr LCC_STATE_state state).wr LCC_COUNT_owner_idx owner
    { d with rfg := { d.rfg with nonce := some (zeros 32), otp := { d.rfg.otp with uid := zeros 16, owners := [hash] } } })

theorem vendor_named (state owner : Nat) (hash : List Byte) : (lifeState state owner hash).dev.keyNamed 0 testPk = true := rfl

theorem ownerIdx_rfg (d : Dev) (r : Rfg) : ({ d with rfg := r } : Dev).ownerIdx = d.rd LCC_COUNT_owner_idx := rfl

theorem lifeState_ownerIdx (state : Nat) (x : List Byte) : (lifeState state 0 x).dev.ownerIdx = 0 := by
  unfold lifeState upd
  rw [ownerIdx_rfg, Dev.rd_wr_same _ _ _ _ _ (by decide) (by decide), Nat.zero_mod]

theorem lifeState_ownerHash (state : Nat) (x : List Byte) : (lifeState state 0 x).dev.ownerHash = x := by
  unfold Dev.ownerHash
  rw [lifeState_ownerIdx, if_neg (by decide)]
  show [x].getD 0 [] = x
  rfl

theorem owner_named (state : Nat) : (lifeState state 0 (sha3_256 testPk)).dev.keyNamed 1 testPk = true := by
  unfold Dev.keyNamed
  rw [if_neg (by decide), lifeState_ownerIdx, lifeState_ownerHash, beq_self_eq_true, Bool.and_true]
  decide

/-- What the statement of a signed command of `code` asks of the state and of the command's bytes. -/
def SignedMeets (s : State) (b : List Byte) (code : Nat) : Prop :=
  s.on ∧ s.dev.flag TRN_STAT_drbg_ready = true ∧ leAt b 0x34 1 = code ∧ (parseCmd b).bad = false ∧ s.dev.cmdAuth (parseCmd b) b testCmdEnv = true ∧
    s.dev.cmdLimit (parseCmd b) = true ∧ testCmdEnv.cut = none

theorem signed_witness (s : State) (h : List Byte) (code : Nat) (hs : s.on) (hr : s.dev.flag TRN_STAT_drbg_ready = true)
    (x : Signed s.dev h code)
    (hk : s.dev.keyNamed (parseCmd h).signer testPk = true) (hl : s.dev.cmdLimit { parseCmd h with sig := testSig h } = true) :
    SignedMeets s (testCmd h) code := by
  obtain ⟨h1, h2, h3⟩ := x.meets hk
  refine ⟨hs, hr, h1, h2, h3, ?_, rfl⟩
  rw [parse_testCmd h x.len]
  exact hl

/-- Provisioning, in MANUF. -/
theorem witness_RefugeCommandsComplete_0 : SignedMeets (lifeState 0 15 []) (testCmd (cmdHead 0 1 0 (zeros 32))) 1 :=
  signed_witness _ _ _ (by decide +kernel) (by decide +kernel)
    ⟨by decide +kernel, by decide +kernel, by decide +kernel, by decide +kernel⟩ (vendor_named ..) (by decide +kernel)

/-- Taking ownership, in PROVISIONED. -/
theorem witness_RefugeCommandsComplete_1 : SignedMeets (lifeState 1 15 []) (testCmd (cmdHead 0 2 1 (zeros 32))) 2 :=
  signed_witness _ _ _ (by decide +kernel) (by decide +kernel)
    ⟨by decide +kernel, by decide +kernel, by decide +kernel, by decide +kernel⟩ (vendor_named ..) (by decide +kernel)

/-- Transferring it, by the owner. -/
theorem witness_RefugeCommandsComplete_2 : SignedMeets (lifeState 2 0 (sha3_256 testPk)) (testCmd (cmdHead 1 3 2 (zeros 32))) 3 :=
  signed_witness _ _ _ (by decide +kernel) (by decide +kernel)
    ⟨by decide +kernel, by decide +kernel, by decide +kernel, by decide +kernel⟩ (owner_named 2) (by decide +kernel)

/-- Retiring, by the owner. -/
theorem witness_RefugeCommandsComplete_3 : SignedMeets (lifeState 2 0 (sha3_256 testPk)) (testCmd (cmdHead 1 4 2 (zeros 32))) 4 :=
  signed_witness _ _ _ (by decide +kernel) (by decide +kernel)
    ⟨by decide +kernel, by decide +kernel, by decide +kernel, by decide +kernel⟩ (owner_named 2) (by decide +kernel)

/-- Clearing the tamper lock, outside bivouac mode. -/
theorem witness_RefugeCommandsComplete_4 : (lifeState 2 0 (sha3_256 testPk)).dev.bivouac = false ∧ SignedMeets (lifeState 2 0 (sha3_256 testPk)) (testCmd (cmdHead 1 5 2 (zeros 32))) 5 :=
  And.intro (rfl)
    (signed_witness _ _ _ (by decide +kernel) (by decide +kernel)
      ⟨by decide +kernel, by decide +kernel, by decide +kernel, by decide +kernel⟩ (owner_named 2) (by decide +kernel))

/-- Disabling tamper source 63. -/
theorem witness_RefugeCommandsComplete_5 : SignedMeets (lifeState 2 0 (sha3_256 testPk)) (testCmd (cmdHead 1 6 2 (leBytes 63 32))) 6 :=
  signed_witness _ _ _ (by decide +kernel) (by decide +kernel)
    ⟨by decide +kernel, by decide +kernel, by decide +kernel, by decide +kernel⟩ (owner_named 2) (by decide +kernel)

/-- A debug token of the longest lifetime, in PROVISIONED. -/
theorem witness_RefugeCommandsComplete_6 : (lifeState 1 15 []).dev.lcc ≠ 3 ∧ SignedMeets (lifeState 1 15 []) (testCmd (cmdHead 0 8 1 (leBytes 0x7F 4 ++ leBytes 86400 4 ++ zeros 24))) 8 :=
  And.intro (by decide +kernel)
    (signed_witness _ _ _ (by decide +kernel) (by decide +kernel)
      ⟨by decide +kernel, by decide +kernel, by decide +kernel, by decide +kernel⟩ (vendor_named ..) (by decide +kernel))

/-- A manifest that the test key signs. -/
def testHeader : List Byte := leBytes (Config.manifestHeader 5 (zeros 16) 0 [] []).toNat 128
def testManifest : Manifest := ⟨testHeader, 5, zeros 16, 0, [], [], testPk, 0, testSig testHeader⟩

theorem testHeader_ok : manifestHeaderOk testManifest = true := by
  unfold manifestHeaderOk
  exact beq_self_eq_true testHeader

/-- It is accepted where OTP holds no vendor hash yet and no higher security version. -/
theorem testManifest_accepted (d : Dev) (firmware : Bool) (h1 : d.lcc < 2) (h2 : d.rfg.otp.vendor = []) (h3 : d.secver ≤ 5) :
    d.manifestCause testManifest firmware = 0 := by
  have hv : slhVerify (slhOf testManifest.set) testManifest.pk [] testManifest.header testManifest.sig = true :=
    testSig_verifies testHeader
  have hs : d.manifestSigned testManifest firmware = true := by
    have a : (firmware || d.lcc != 2) = true := by simp; right; omega
    have b : (d.lcc != 3) = true := by simp; omega
    unfold Dev.manifestSigned
    simp only [a, b, testHeader_ok, hv, if_true, Dev.keyNamed, h2, List.isEmpty_nil, Bool.true_or, Bool.and_true]
  have hh : d.manifestHere testManifest = true := by
    unfold Dev.manifestHere
    rw [show testManifest.uid = zeros 16 from rfl, show (zeros 16).all (fun b => b == 0) = true by decide +kernel, Bool.true_or]
  have hi : Manifest.imagesOk testManifest.images = true := rfl
  unfold Dev.manifestCause
  rw [hs, hh, hi, if_neg (by decide)]
  exact if_neg (Nat.not_lt.mpr h3)

def baseEnv0 : BaseEnv := ⟨true, true, true, testCmdEnv, [], [], testManifest, [], 0, none, []⟩

/-- After the flash scan of a reset. -/
def scanned : State := fld State.reset FLC_STAT_scan_done 1

theorem witness_ResetsAndStartComplete_7 :
    let d0 := (scanned.dev.cleared.startM0.lightSelftest baseEnv0.light.toNat).trnStart baseEnv0.trn
    let d1 := d0.logsStart baseEnv0.copyCut baseEnv0.failLines
    scanned.on ∧ scanned.dev.rfg.baseDone = false ∧ scanned.dev.bivouac = false ∧ baseEnv0.lockstep = true ∧ baseEnv0.rom = true ∧
      baseEnv0.sysBlocks = [] ∧ scanned.dev.flag FLC_STAT_scan_done = true ∧ d0.rd LCC_STATE_progress = 0 ∧ d0.sys.powered = true ∧
      d1.sys.powered = true ∧ d1.flag LCC_STATE_tamper_lock = false ∧ d1.lcc ≠ 3 ∧ d1.rfg.fails < 3 ∧
      scanned.dev.rfg.firmware.getD baseEnv0.fw = testManifest ∧ (d1.setFails (d1.rfg.fails + 1)).manifestCause testManifest true = 0 := by
  have h : (let d0 := (scanned.dev.cleared.startM0.lightSelftest baseEnv0.light.toNat).trnStart baseEnv0.trn
      let d1 := d0.logsStart baseEnv0.copyCut baseEnv0.failLines
      let d2 := d1.setFails (d1.rfg.fails + 1)
      scanned.dev.flag FLC_STAT_scan_done = true ∧ d0.rd LCC_STATE_progress = 0 ∧ d0.sys.powered = true ∧ d1.sys.powered = true ∧
        d1.flag LCC_STATE_tamper_lock = false ∧ d1.lcc ≠ 3 ∧ d1.rfg.fails < 3 ∧ d2.lcc < 2 ∧ d2.rfg.otp.vendor = [] ∧
        d2.secver ≤ 5) := by decide +kernel
  obtain ⟨h0, h1, h2, h3, h4, h5, h6, h7, h8, h9⟩ := h
  exact ⟨rfl, rfl, rfl, rfl, rfl, rfl, h0, h1, h2, h3, h4, h5, h6, rfl, testManifest_accepted _ _ h7 h8 h9⟩

theorem witness_ResetsAndStartComplete_10 :
    let s := fld State.reset RFG_STAGE_stage 1
    s.on ∧ s.dev.bivouac = false ∧ s.dev.rd RFG_STAGE_stage = 1 ∧
      testManifest = s.dev.rfg.station.getD testManifest ∧ (s.dev.cleared.wr RFG_STAGE_stage 2).manifestCause testManifest false = 0 :=
  ⟨rfl, rfl, by decide +kernel, rfl, testManifest_accepted _ _ (by decide +kernel) (by decide +kernel) (by decide +kernel)⟩

/-! ### The machine, the coder and the tick -/

theorem witness_StepRunsFront_1 : s0.pending = [] := rfl
theorem witness_RoundRobinStays : ∃ t, State.reset.rr < 112 ∧ step State.reset = .next t := ⟨_, by decide, rfl⟩
theorem witness_TickTimesRise : State.reset.dev.tim.lastTick + 50 ≤ State.reset.dev.tim.nextTick := by decide
theorem witness_CodedFramesDecode_2 :
    ∃ p k width, ∃ bs : List (List Int), p ≤ 3 ∧ width ≤ 1 ∧ (∀ b ∈ bs, b.length = 64 ∧
      ∀ x ∈ b, -(2 ^ ((if width = 0 then 16 else 18) - 1) : Int) ≤ x ∧ x < 2 ^ ((if width = 0 then 16 else 18) - 1)) ∧ bs ≠ [] ∧
      1 ≤ k ∧ k ≤ 255 :=
  ⟨3, 255, 1, [List.replicate 64 131071, List.replicate 64 (-131072)], by decide, by decide, by decide +kernel, by decide,
    by decide, by decide⟩


end Sys2Proof.Tests
end

section
/-! SUPPORT. What a step can do to the queue and to the round-robin pointer, said once for every command; the statements about a step that
follow from it. -/

namespace Sys2Proof.Machine

open Sys2Proof

/-! ### What a command can answer -/

/-- The outcome is a next state that waits for what `s` waits for, its round-robin pointer as in `s`, moved on by one, or back at 0 (R541). -/
def Advances (s : State) (o : Host.Outcome State Fault Refusal) : Prop :=
  ∃ rr d, o = .next { s with rr := rr, dev := d } ∧ (rr = s.rr ∨ rr = (s.rr + 1) % 112 ∨ rr = 0)

/-- An effect on the device alone. `State.act` and `State.always` answer in this form. -/
theorem next_advances (s : State) (d : Dev) : Advances s (.next { s with dev := d }) := ⟨s.rr, d, rfl, .inl rfl⟩

theorem State.access_advances (s : State) (r : Req) (page off : Nat) (v : Option Word) : Advances s (s.access r page off v) := by
  cases v with
  | some w => exact next_advances s _
  | none => exact next_advances s _

/-- A tick of the device's own moves the pointer on, one that it takes from elsewhere does not (R541). -/
theorem tick_advances (s : State) (own : Bool) (d : Dev) :
    Advances s (.next { s with rr := if own then (s.rr + 1) % 112 else s.rr, dev := d }) := by
  cases own with
  | true => exact ⟨_, d, rfl, .inr (.inl rfl)⟩
  | false => exact ⟨_, d, rfl, .inl rfl⟩

theorem execLockClaim_advances (r : Req) (page : Fin 1024) (rivals : List Req) (s : State) :
    Advances s (execLockClaim r page rivals s) := by
  unfold execLockClaim
  split
  · exact next_advances s _
  · exact next_advances s _

theorem execQmgProducerDoorbell_advances (r : Req) (v : Word) (rivals : List (Req × Fin 16384)) (s : State) :
    Advances s (execQmgProducerDoorbell r v rivals s) := by
  unfold execQmgProducerDoorbell
  split
  · exact next_advances s _
  · exact next_advances s _

/-- Every command answers a next state and leaves the queue alone. The named cases are those that are not one effect on the device. -/
theorem exec_advances (c : Instr) (s : State) : Advances s (exec c s) := by
  cases c
  case tick => exact tick_advances s _ _
  case ropeTickEdge => exact tick_advances s _ _
  case powerOnReset => exact ⟨0, _, rfl, .inr (.inr rfl)⟩
  case lockClaim => exact execLockClaim_advances _ _ _ s
  case qmgProducerDoorbell => exact execQmgProducerDoorbell_advances _ _ _ s
  case pkeOpDataAccess => exact s.access_advances _ _ _ _
  case bkdVaultDataAccess => exact s.access_advances _ _ _ _
  case cnvTplDataAccess => exact s.access_advances _ _ _ _
  case wfcHdrDataAccess => exact s.access_advances _ _ _ _
  all_goals exact next_advances s _

/-! ### A step -/

/-- On an empty queue the device idles (log entry 1). -/
theorem step_idle (s : State) (h : s.pending = []) : step s = .next s := by rw [step, h]

/-- The command at the front is run on the state with the queue's rest. -/
theorem step_front (s : State) (c : Instr) (cs : List Instr) (h : s.pending = c :: cs) : step s = exec c { s with pending := cs } := by
  rw [step, h]

/-- Settles O1: both halves are the two branches of a step. -/
theorem stepRunsFront : Obligations.StepRunsFront := ⟨fun c s => step_front _ c s.pending rfl, step_idle⟩

/-- Settles O58: an idle step keeps the empty queue, and no command touches the queue's rest (`exec_advances`). -/
theorem stepAnswers : Obligations.StepAnswers := by
  intro s
  cases h : s.pending with
  | nil => exact ⟨s, step_idle s h, h⟩
  | cons c cs =>
    obtain ⟨rr, d, hnext, _⟩ := exec_advances c { s with pending := cs }
    exact ⟨_, (step_front s c cs h).trans hnext, rfl⟩

end Sys2Proof.Machine
end

section
/-! SUPPORT. What a command that accesses a register page gives: from the shared operation it calls to the state it leaves (R7, R285 to R289,
R296, R545). -/

namespace Sys2Proof.Machine

open Sys2Proof

/-! ### Commands that are one effect on the device -/

/-- A command that is the effect `g` gives what `g` makes of the device as the command meets it. -/
theorem Gives.of_act {c : Instr} {s : State} {f : Dev → Dev} (g : Dev → Dev) (hon : s.on) (hexec : exec c s = s.act g)
    (heff : g s.dev.cleared = f s.dev.cleared) : Gives c s f := by
  rw [Gives, hexec, State.act_on s g hon, heff]

/-! ### Writes -/

/-- No job of the page ended by the write: as many run as before. -/
theorem Dev.jobNote_same (d was : Dev) (page off : Nat) (h : d.lockJob page = was.lockJob page) : d.jobNote was page off = d := by
  simp [Dev.jobNote, h]

/-- The registers below LOCK end no job. -/
theorem Dev.jobNote_low (d was : Dev) (page off : Nat) (h : off < 0x24) : d.jobNote was page off = d := by
  simp [Dev.jobNote, Nat.not_le.mpr h]

@[simp] theorem Dev.lockJob_report (d : Dev) (page p : Nat) (st : Status) : (d.report page st).lockJob p = d.lockJob p := rfl

/-- A refused write leaves its status in STATUS and in the answer, and nothing else. -/
theorem Dev.pageWrite_refused (d : Dev) (r : Req) (page off v : Nat) (env : CmdEnv) (b : Blk) (inst : Nat)
    (hb : pageBlock page = some (b, inst)) (ho : off % 4 = 0 ∧ off < 0x1000) (h : d.accessCheck r page off false ≠ .ok) :
    d.pageWrite r page off v env = d.report page (d.accessCheck r page off false) := by
  rw [Dev.pageWrite, Dev.guardedWrite_refused d r page off _ b inst hb ho h, Dev.jobNote_same _ _ _ _ (Dev.lockJob_report ..)]

/-- A write of a header register below LOCK that passes every check, and whose own effect answers ST_OK. -/
theorem Effects.of_headerWrite {c : Instr} {s : State} {f : Dev → Dev} {r : Req} {page off : Nat} {b : Blk} {inst : Nat} (v : Nat)
    (hacc : s.accepts r page off) (hb : pageBlock page = some (b, inst)) (hlow : off < 0x24) (hexec : exec c s = s.write r page off v)
    (heff : s.dev.cleared.headerWrite r b page off v = (.ok, f s.dev.cleared)) : Effects c s page f := by
  obtain ⟨hon, hcheck, hcopy⟩ := hacc
  have hwrite : s.dev.cleared.writeEffect r page off v noEnv = (.ok, f s.dev.cleared) := by
    simp only [Dev.writeEffect, hb]
    rw [if_pos (.inl (by omega)), heff]
  refine Gives.of_act _ hon hexec ?_
  rw [Dev.pageWrite_ok s.dev.cleared r page off v noEnv hcheck hcopy, Dev.jobNote_low _ _ _ _ hlow, hwrite]

/-- Bits flip only in the copies of a shadowed register (R289). -/
theorem Dev.flip_unshadowed (d : Dev) (page off x : Nat) (b : Blk) (inst : Nat) (hb : pageBlock page = some (b, inst))
    (hs : isShadowed b off = false) : d.flip page off x = d := by
  simp [Dev.flip, hb, hs]

/-- Without rivals, parity error and upset REGISTER_WRITE is the register write, `at_` CCLK after the tick. -/
theorem Dev.registerWrite_plain (d : Dev) (rr : Nat) (r : Req) (page off v at_ x : Nat) (b : Blk) (inst : Nat)
    (hb : pageBlock page = some (b, inst)) (hs : isShadowed b off = false) :
    d.registerWrite rr r page off v at_ [] false x = { d with off := at_ }.pageWrite r page off v := by
  simp [Dev.registerWrite, loses, Dev.flip_unshadowed _ page off x b inst hb hs]

/-- A parity error on the bus answers ST_FAULT_DETECTED, whoever else writes (R296). -/
theorem Dev.registerWrite_parity (d : Dev) (rr : Nat) (r : Req) (page off v at_ x : Nat) (rivals : List Req) :
    d.registerWrite rr r page off v at_ rivals true x =
      ({ d with off := at_ }.parityError page 2 (0xF0000000 + 4096 * page + off) (reqId r)).answer .faultDetected := rfl

/-! ### Reads -/

/-- Whether a read has an effect of its own does not turn on the answer and the outputs of the command before. -/
theorem Dev.readAct_cleared_isNone (d : Dev) (r : Req) (b : Blk) (page off : Nat) :
    (d.cleared.readAct r b page off).isNone = (d.readAct r b page off).isNone := by
  have hrd (f : Fld) (k p : Nat) : d.cleared.rd f k p = d.rd f k p := rfl
  cases b <;> simp only [Dev.readAct, hrd, apply_ite Option.isNone, Option.isNone_some]

/-- A stored word with RC fields clears them as it is read (R7). SBF's own effect is left out. -/
theorem Dev.storedRead_rc (d : Dev) (r : Req) (b : Blk) (page off : Nat) (g : RegDesc) (hg : findReg b off = some g)
    (hrc : g.fields.any (fun f => f.acc == .rc) = true) (hb : b ≠ .sbf) :
    d.storedRead r b page off =
      (.ok, g.readMask (d.word (ownKey b r page off)),
        d.setWord (ownKey b r page off) (g.rcCleared (d.word (ownKey b r page off)))) := by
  simp [Dev.storedRead, hg, hrc, hb]

/-- A register that nothing computes, latches or pops reads as its stored word. -/
theorem Dev.readEffect_stored (d : Dev) (r : Req) (page off c : Nat) (b : Blk) (inst : Nat) (hb : pageBlock page = some (b, inst))
    (hlow : off < 0x800) (hraw : off ≠ 0x010) (hact : d.readAct r b page off = none)
    (hpair : d.latchedPair r b inst page off c = none) (hhigh : latchedHigh b off = false) (hview : d.view r b inst off = none) :
    d.readEffect r page off c = d.storedRead r b page off := by
  simp [Dev.readEffect, hb, Nat.not_le.mpr hlow, hraw, hact, hpair, hhigh, hview]

/-! ### Records held back -/

/-- A held record is due a second after the record before (R545). -/
theorem Dev.heldRelease_due (d : Dev) (key : Nat) (x : Rate) (h : Rec) (t : Nat) (hx : d.evr.rate.get key {} = x) (hh : x.held = some h)
    (ht : x.last = some t) (hdue : t + 1000000000 ≤ d.tickTai) :
    d.heldRelease key = (d.setRate key { last := some d.tickTai, block := x.block }).direct x.block h := by
  simp [Dev.heldRelease, hx, hh, ht, hdue]

/-! ### What each command gives -/

theorem softReset_effects (s : State) (r : Req) (page : Fin 1024) (b : Blk) (inst : Nat) (hacc : s.accepts r page 0x008)
    (hb : pageBlock page = some (b, inst)) : Effects (.softReset r page) s page (fun d => d.softReset page) :=
  Effects.of_headerWrite 2 hacc hb (by decide) rfl (by simp [Dev.headerWrite, Dev.ctrlWrite, hb, show bitOf 2 1 = true from rfl])

theorem irqSetWrite_effects (s : State) (r : Req) (page : Fin 1024) (v : Word) (b : Blk) (inst : Nat) (hacc : s.accepts r page 0x01C)
    (hb : pageBlock page = some (b, inst)) :
    Effects (.irqSetWrite r page v) s page (fun d =>
      (d.wr IRQ_STAT_bits (d.rd IRQ_STAT_bits 0 page ||| (v.toNat &&& irqMask b)) 0 page).irqNote page (d.irqLine page)) :=
  Effects.of_headerWrite v.toNat hacc hb (by decide) rfl rfl

theorem softResetComplete_gives (s : State) (page : Fin 1024) (hon : s.on) (h : s.dev.inReset.get page 0 = 1) :
    Gives (.softResetComplete page) s (fun d => { d with inReset := d.inReset.set page 0 0 }) :=
  Gives.of_act (fun d => d.softResetComplete page) hon rfl (if_pos h)

theorem registerWrite_gives (s : State) (r : Req) (page : Fin 1024) (off : Fin 4096) (v : Word) (at_ : Fin 64) (b : Blk) (inst : Nat)
    (hacc : s.accepts r page off) (hb : pageBlock page = some (b, inst)) (hs : isShadowed b off = false) :
    Gives (.registerWrite r page off v at_ [] false 0) s (fun d =>
      let d := { d with off := at_.val }
      let e := d.writeEffect r page off v.toNat noEnv
      (e.2.report page e.1).jobNote d page off) := by
  obtain ⟨hon, hcheck, hcopy⟩ := hacc
  refine Gives.of_act (fun d => d.registerWrite s.rr r page off v.toNat at_ [] false 0) hon rfl ?_
  rw [Dev.registerWrite_plain _ _ _ _ _ _ _ _ b inst hb hs]
  exact Dev.pageWrite_ok _ r page off _ noEnv hcheck hcopy

theorem registerWrite_refused_gives (s : State) (r : Req) (page : Fin 1024) (off : Fin 4096) (v : Word) (at_ : Fin 64) (b : Blk)
    (inst : Nat) (hon : s.on) (hb : pageBlock page = some (b, inst)) (hal : off.val % 4 = 0) (hs : isShadowed b off = false)
    (h : s.dev.accessCheck r page off false ≠ .ok) :
    Gives (.registerWrite r page off v at_ [] false 0) s (fun d =>
      { d with off := at_.val }.report page (s.dev.accessCheck r page off false)) := by
  refine Gives.of_act (fun d => d.registerWrite s.rr r page off v.toNat at_ [] false 0) hon rfl ?_
  rw [Dev.registerWrite_plain _ _ _ _ _ _ _ _ b inst hb hs]
  exact Dev.pageWrite_refused _ r page off _ noEnv b inst hb ⟨hal, off.isLt⟩ h

theorem readClearRead_gives (s : State) (r : Req) (page : Fin 1024) (off : Fin 4096) (b : Blk) (inst : Nat) (g : RegDesc)
    (hacc : s.acceptsRead r page off) (hb : pageBlock page = some (b, inst)) (hlow : off.val < 0x800) (hraw : off.val ≠ 0x010)
    (hg : findReg b off = some g) (hrc : g.fields.any (fun f => f.acc == .rc) = true) (hact : s.dev.readAct r b page off = none)
    (hpair : s.dev.latchedPair r b inst page off 0 = none) (hhigh : latchedHigh b off = false) (hview : s.dev.view r b inst off = none)
    (hsbf : b ≠ .sbf) :
    Gives (.readClearRead r page off) s (fun d =>
      let key := ownKey b r page off
      (d.setWord key (g.rcCleared (d.word key))).answer .ok (g.readMask (d.word key))) := by
  obtain ⟨hon, hcheck, hcopy⟩ := hacc
  refine Gives.of_act (fun d => d.pageRead r page off) hon rfl ?_
  have hactNone : s.dev.cleared.readAct r b page off = none := by
    rw [← Option.isNone_iff_eq_none, Dev.readAct_cleared_isNone, hact, Option.isNone_none]
  have hread : s.dev.cleared.readEffect r page off 0 = _ :=
    (Dev.readEffect_stored _ r page off 0 b inst hb hlow hraw hactNone hpair hhigh hview).trans
      (Dev.storedRead_rc _ r b page off g hg hrc hsbf)
  refine (Dev.guardedRead_ok s.dev.cleared r page off _ hcheck hcopy).trans ?_
  simp only [hread]

/-- Settles O10, clause by clause: what a page access does once its checks are passed or refused, and the release of a held record. -/
theorem pageAccessCompletes : Obligations.PageAccessCompletes :=
  ⟨softReset_effects, softResetComplete_gives, irqSetWrite_effects, registerWrite_gives,
    fun s r page off v upset at_ rivals hon =>
      Gives.of_act (fun d => d.registerWrite s.rr r page off v.toNat at_ rivals true upset.toNat) hon rfl (Dev.registerWrite_parity ..),
    readClearRead_gives,
    fun _ page hits hon => Gives.of_act (fun d => d.shadowCheck page (hits.map (fun h => (h.1.val, h.2.toNat)))) hon rfl rfl,
    fun s code unit x h t hon hx hh ht hdue =>
      Gives.of_act (fun d => d.heldRelease (code.toNat * 2 ^ 32 + unit.toNat)) hon rfl (Dev.heldRelease_due s.dev.cleared _ x h t hx hh ht hdue),
    registerWrite_refused_gives⟩

end Sys2Proof.Machine
end

section
/-! SUPPORT. The fields of a register lie apart from one another, so that a write leaves in each what the field's own access type says
(R7). -/

namespace Sys2Proof.Machine

open Sys2Proof

/-! ### The layout of a register -/

/-- Two fields share no bit. -/
abbrev FieldDesc.Apart (f g : FieldDesc) : Prop := f.hi < g.lo ∨ g.hi < f.lo

/-- Every field lies within the word and shares no bit with another. -/
abbrev FieldsApart (fs : List FieldDesc) : Prop := (∀ f ∈ fs, f.lo ≤ f.hi ∧ f.hi < 32) ∧ fs.Pairwise FieldDesc.Apart

theorem headerRegs_apart : ∀ g ∈ headerRegs, FieldsApart g.fields := by decide +kernel

theorem regsOf_apart (b : Blk) : ∀ g ∈ regsOf b, FieldsApart g.fields := by cases b <;> decide +kernel

/-- Every register of the register map has its fields apart. -/
theorem findReg_apart {b : Blk} {off : Nat} {g : RegDesc} (h : findReg b off = some g) : FieldsApart g.fields := by
  unfold findReg at h
  split at h
  · exact headerRegs_apart g (List.mem_of_find?_eq_some h)
  · exact regsOf_apart b g (List.mem_of_find?_eq_some h)

/-! ### The word a write leaves -/

/-- Fields written one after another leave a field alone that lies apart from them all. -/
theorem bitsOf_foldl_setBits_apart (x : FieldDesc → Nat) (fs : List FieldDesc) (w : Nat) (f : FieldDesc) (hle : ∀ g ∈ fs, g.lo ≤ g.hi)
    (hf : ∀ g ∈ fs, f.Apart g) : bitsOf (fs.foldl (fun w g => setBits w g.hi g.lo (x g)) w) f.hi f.lo = bitsOf w f.hi f.lo := by
  induction fs generalizing w with
  | nil => rfl
  | cons g fs ih =>
    rw [List.forall_mem_cons] at hle hf
    rw [List.foldl_cons, ih _ hle.2 hf.2, bitsOf_setBits_other _ _ _ _ _ _ hle.1 hf.1]

/-- Fields that lie apart, written one after another, each hold what was written into them. -/
theorem bitsOf_foldl_setBits_mem (x : FieldDesc → Nat) (fs : List FieldDesc) (w : Nat) (f : FieldDesc) (h : FieldsApart fs) (hf : f ∈ fs) :
    bitsOf (fs.foldl (fun w g => setBits w g.hi g.lo (x g)) w) f.hi f.lo = x f % 2 ^ (f.hi + 1 - f.lo) := by
  obtain ⟨hin, hapart⟩ := h
  induction fs generalizing w with
  | nil => cases hf
  | cons g fs ih =>
    rw [List.forall_mem_cons] at hin
    rw [List.pairwise_cons] at hapart
    rw [List.foldl_cons]
    rcases List.mem_cons.mp hf with rfl | hf
    · rw [bitsOf_foldl_setBits_apart x fs _ f (fun g hg => (hin.2 g hg).1) hapart.1, bitsOf_setBits_same _ _ _ _ hin.1.1]
    · exact ih _ hf hin.2 hapart.2

section
variable {f : FieldDesc} (old v : Nat) (locked : Bool)

theorem fieldAfter_rw (h : f.acc = .rw) : fieldAfter f old v locked = bitsOf v f.hi f.lo := by simp [fieldAfter, h]

theorem fieldAfter_w1c (h : f.acc = .w1c) :
    fieldAfter f old v locked = bitsOf old f.hi f.lo - (bitsOf old f.hi f.lo &&& bitsOf v f.hi f.lo) := by simp [fieldAfter, h]

theorem fieldAfter_wo (h : f.acc = .wo) : fieldAfter f old v locked = 0 := by simp [fieldAfter, h]

theorem fieldAfter_ro (h : f.acc = .ro) : fieldAfter f old v locked = bitsOf old f.hi f.lo := by simp [fieldAfter, h]

theorem fieldAfter_rc (h : f.acc = .rc) : fieldAfter f old v locked = bitsOf old f.hi f.lo := by simp [fieldAfter, h]

theorem fieldAfter_wl (h : f.acc = .wl) :
    fieldAfter f old v locked = if locked then bitsOf old f.hi f.lo else bitsOf v f.hi f.lo := by simp [fieldAfter, h]

/-- What a write leaves in a field fits the field. -/
theorem fieldAfter_lt : fieldAfter f old v locked < 2 ^ (f.hi + 1 - f.lo) := by
  have hold := bitsOf_lt old f.hi f.lo
  have hnew := bitsOf_lt v f.hi f.lo
  cases h : f.acc with
  | rw => rwa [fieldAfter_rw _ _ _ h]
  | w1c => rw [fieldAfter_w1c _ _ _ h]; exact Nat.lt_of_le_of_lt (Nat.sub_le _ _) hold
  | wl => rw [fieldAfter_wl _ _ _ h]; split <;> assumption
  | ro => rwa [fieldAfter_ro _ _ _ h]
  | rc => rwa [fieldAfter_rc _ _ _ h]
  | wo => rw [fieldAfter_wo _ _ _ h]; exact Nat.two_pow_pos _

end

/-! ### The plain write of a register -/

section
variable {page off : Nat} {b : Blk} {inst : Nat} {g : RegDesc} {f : FieldDesc} (d : Dev) (v : Nat)
  (hb : pageBlock page = some (b, inst)) (hg : findReg b off = some g)
include hb hg

/-- The word that a plain write stores, whether it answers ST_OK or ST_DENIED. -/
theorem Dev.plainWrite_word :
    (d.plainWrite page off v).2.word (regKey page off) =
      g.wordAfter (d.word (regKey page off)) v (d.wlLocked.contains (regKey page off)) % 2 ^ 32 := by
  rw [← Dev.word_setWord_same d]
  simp only [Dev.plainWrite, hb, hg]
  split
  · rfl
  · split
    · rfl
    · rfl

/-- What a plain write leaves in a field turns on the field alone. -/
theorem Dev.plainWrite_field (hf : f ∈ g.fields) :
    bitsOf ((d.plainWrite page off v).2.word (regKey page off)) f.hi f.lo =
      fieldAfter f (d.word (regKey page off)) v (d.wlLocked.contains (regKey page off)) := by
  have hapart := findReg_apart hg
  rw [Dev.plainWrite_word d v hb hg, bitsOf_mod _ _ _ _ (hapart.1 f hf).2, RegDesc.wordAfter,
    bitsOf_foldl_setBits_mem _ g.fields _ f hapart hf, Nat.mod_eq_of_lt (fieldAfter_lt ..)]

/-- The first write of a register with a WL field locks it. -/
theorem Dev.plainWrite_locks (hf : f ∈ g.fields) (hwl : f.acc = .wl) (hopen : d.wlLocked.contains (regKey page off) = false) :
    (d.plainWrite page off v).2.wlLocked.contains (regKey page off) = true := by
  have hany : g.fields.any (fun f => f.acc == .wl) = true := List.any_eq_true.mpr ⟨f, hf, by simp [hwl]⟩
  simp only [Dev.plainWrite, hb, hg, hany, hopen]
  simp

/-- A write of a locked register answers ST_DENIED. -/
theorem Dev.plainWrite_denied (hf : f ∈ g.fields) (hwl : f.acc = .wl) (hlocked : d.wlLocked.contains (regKey page off) = true) :
    (d.plainWrite page off v).1 = .denied := by
  have hany : g.fields.any (fun f => f.acc == .wl) = true := List.any_eq_true.mpr ⟨f, hf, by simp [hwl]⟩
  simp only [Dev.plainWrite, hb, hg, hany, hlocked]
  simp

end

/-- Settles O12: every clause is `fieldAfter` at one access type (`Dev.plainWrite_field`); a WL field's lock and status are the register's. -/
theorem fieldTypes : Obligations.FieldTypes := by
  intro d page off v b inst g f hb hg hf key old new now
  have hnow : now = fieldAfter f (d.word key) v (d.wlLocked.contains key) := Dev.plainWrite_field d v hb hg hf
  exact ⟨fun h => hnow.trans (fieldAfter_rw _ _ _ h), fun h => hnow.trans (fieldAfter_w1c _ _ _ h),
    fun h => hnow.trans (fieldAfter_wo _ _ _ h), fun h => hnow.trans (fieldAfter_ro _ _ _ h), fun h => hnow.trans (fieldAfter_rc _ _ _ h),
    fun h hopen => ⟨hnow.trans ((fieldAfter_wl _ _ _ h).trans (by rw [hopen]; rfl)), Dev.plainWrite_locks d v hb hg hf h hopen⟩,
    fun h hlocked => ⟨hnow.trans ((fieldAfter_wl _ _ _ h).trans (by rw [hlocked]; rfl)), Dev.plainWrite_denied d v hb hg hf h hlocked⟩⟩

end Sys2Proof.Machine
end

section
/-! SUPPORT. The machine as a whole: the round-robin pointer along a step, and what a power-on reset leaves (R25, R541). -/

namespace Sys2Proof.Machine

open Sys2Proof

/-- Settles O59: what a command does to the pointer (`exec_advances`) keeps it below 112, and so does an idle step. -/
theorem roundRobinStays : Obligations.RoundRobinStays := by
  intro s t hlt hstep
  cases hq : s.pending with
  | nil =>
    rw [step_idle s hq] at hstep
    cases hstep
    exact hlt
  | cons c cs =>
    obtain ⟨rr, d, hnext, hrr⟩ := exec_advances c { s with pending := cs }
    rw [step_front s c cs hq, hnext] at hstep
    cases hstep
    rcases hrr with rfl | rfl | rfl
    · exact hlt
    · exact Nat.mod_lt _ (by decide)
    · exact Nat.zero_lt_succ _

/-- Every register reads its table's reset value but the two that the reset itself has written. -/
theorem reset_word (key : Nat) (hcause : key ≠ (SYS_RST_CAUSE_por_pin : Fld).key 0 0)
    (hcount : key ≠ (LCC_COUNT_owner_idx : Fld).key 0 0) :
    State.reset.dev.word key = (BitVec.ofNat 32 (resetOfKey key)).toNat := by
  simp [Dev.word, State.reset, resetRegs, Tbl.get_cons, hcause, hcount]

/-- Settles O57: the reset state is written out, its registers are `reset_word`. -/
theorem resetState : Obligations.ResetState :=
  ⟨rfl, rfl, rfl, rfl, rfl, by decide +kernel, by decide +kernel, reset_word, fun _ => rfl, reset_mem_wf⟩

end Sys2Proof.Machine
end

section
/-! SUPPORT. The LOCK register of a block that serves one user: each case of a write, and the commands that write it (R26, R27, R310). -/

namespace Sys2Proof.Machine

open Sys2Proof

/-! ### Requesters and pages -/

theorem reqId_lt (r : Req) : reqId r < 112 := by
  cases r with
  | dp i => simp only [reqId]; omega
  | eng e => simp only [reqId]; omega
  | hst => decide
  | dbg => decide
  | refuge => decide

theorem reqId_mod (r : Req) : reqId r % 256 = reqId r := Nat.mod_eq_of_lt (Nat.lt_trans (reqId_lt r) (by decide))

theorem reqId_ne_free (r : Req) : (0xFF : Nat) ≠ reqId r := by
  have := reqId_lt r
  omega

/-- LOCK is a header register that no block shadows. -/
theorem lock_unshadowed (b : Blk) : isShadowed b 0x024 = false := by cases b <;> rfl

/-- Every page with a LOCK register carries a block. -/
theorem pageBlock_of_lockPages {page : Nat} (h : lockPages.contains page = true) : ∃ b inst, pageBlock page = some (b, inst) := by
  have hall : ∀ p ∈ lockPages, (pageBlock p).isSome = true := by decide +kernel
  obtain ⟨x, hx⟩ := Option.isSome_iff_exists.mp (hall page (List.contains_iff_mem.mp h))
  exact ⟨x.1, x.2, hx⟩

/-! ### What a change of owner leaves -/

/-- A change of owner leaves the new owner in LOCK and the clear running. -/
theorem Dev.lockChange_owner (d : Dev) (page new : Nat) : (d.lockChange page new).rd LOCK_owner 0 page = new % 256 :=
  Dev.rd_wr_same ((d.lockEndJobs page).lockWipe page) LOCK_owner new 0 page (by decide) (by decide)

theorem Dev.lockChange_clear (d : Dev) (page new : Nat) : (d.lockChange page new).lockClear.get page 0 = 1 := by
  simp [Dev.lockChange]

/-- What stands in STATUS of a page is no part of LOCK. -/
theorem lock_key_ne_status (page : Nat) : (LOCK_owner : Fld).key 0 page ≠ (STATUS_last_status : Fld).key 0 page := by
  simp [Fld.key, regKey]

/-- Neither the report of a write nor the note of a job it ended shows in LOCK. -/
theorem Dev.rd_lock_reported (d was : Dev) (page off : Nat) (st : Status) :
    ((d.report page st).jobNote was page off).rd LOCK_owner 0 page = d.rd LOCK_owner 0 page := by
  have hreport := Dev.rd_report_ne d page st LOCK_owner 0 page (lock_key_ne_status page)
  unfold Dev.jobNote
  split
  · rw [Dev.rd_wr_key_ne _ _ _ _ _ _ _ _ (lock_key_ne_status page), hreport]
  · exact hreport

theorem Dev.jobNote_resp (d was : Dev) (page off : Nat) : (d.jobNote was page off).resp = d.resp := by
  simp only [Dev.jobNote, apply_ite Dev.resp, Dev.wr_resp, ite_self]

theorem Dev.jobNote_lockClear (d was : Dev) (page off : Nat) : (d.jobNote was page off).lockClear = d.lockClear := by
  simp only [Dev.jobNote, apply_ite Dev.lockClear, Dev.wr_lockClear, ite_self]

/-! ### The cases of a write to LOCK (R26) -/

section
variable (d : Dev) {r : Req} {page v : Nat} (hpage : lockPages.contains page = true)
include hpage

theorem Dev.lockWrite_claim (hv : v % 256 = reqId r) (hfree : d.rd LOCK_owner 0 page = 0xFF) :
    d.lockWrite r page v = (.ok, d.lockChange page (reqId r)) := by
  simp only [Dev.lockWrite, hpage, hv, hfree, Bool.not_true, Bool.false_eq_true, if_true, if_false]

theorem Dev.lockWrite_own (hv : v % 256 = reqId r) (hown : d.rd LOCK_owner 0 page = reqId r) :
    d.lockWrite r page v = (.ok, d) := by
  simp only [Dev.lockWrite, hpage, hv, hown, Bool.not_true, Bool.false_eq_true, if_true, if_false, (reqId_ne_free r).symm]

theorem Dev.lockWrite_busy (hv : v % 256 = reqId r) (hfree : d.rd LOCK_owner 0 page ≠ 0xFF)
    (hown : d.rd LOCK_owner 0 page ≠ reqId r) : d.lockWrite r page v = (.busy, d) := by
  simp only [Dev.lockWrite, hpage, hv, hfree, hown, Bool.not_true, Bool.false_eq_true, if_true, if_false]

/-- An ID of neither the writer nor nobody. -/
theorem Dev.lockWrite_foreign (hv : v % 256 ≠ reqId r) (hff : v % 256 ≠ 0xFF) : d.lockWrite r page v = (.denied, d) := by
  simp only [Dev.lockWrite, hpage, hv, hff, Bool.not_true, Bool.false_eq_true, if_false]

/-- Giving back a block that is free. -/
theorem Dev.lockWrite_free (hv : v % 256 = 0xFF) (hfree : d.rd LOCK_owner 0 page = 0xFF) : d.lockWrite r page v = (.ok, d) := by
  simp only [Dev.lockWrite, hpage, hv, hfree, Bool.not_true, Bool.false_eq_true, if_true, if_false, reqId_ne_free r]

theorem Dev.lockWrite_release (hv : v % 256 = 0xFF) (hfree : d.rd LOCK_owner 0 page ≠ 0xFF)
    (hby : d.rd LOCK_owner 0 page = reqId r ∨ r = .refuge) :
    d.lockWrite r page v = (.ok, (if r = .refuge ∧ d.rd LOCK_owner 0 page ≠ reqId r
      then d.lockUnmap page (d.rd LOCK_owner 0 page) else d).lockChange page 0xFF) := by
  simp only [Dev.lockWrite, hpage, hv, hfree, hby, Bool.not_true, Bool.false_eq_true, if_true, if_false, reqId_ne_free r]

theorem Dev.lockWrite_denied (hv : v % 256 = 0xFF) (hfree : d.rd LOCK_owner 0 page ≠ 0xFF)
    (hown : d.rd LOCK_owner 0 page ≠ reqId r) (href : r ≠ .refuge) : d.lockWrite r page v = (.denied, d) := by
  simp only [Dev.lockWrite, hpage, hv, hfree, hown, href, or_self, Bool.not_true, Bool.false_eq_true, if_true, if_false,
    reqId_ne_free r]

end

/-! ### The commands that write LOCK -/

theorem Dev.writeEffect_lock (d : Dev) (r : Req) {page : Nat} (v : Nat) (env : CmdEnv) (hpage : lockPages.contains page = true) :
    d.writeEffect r page 0x024 v env = d.lockWrite r page v := by
  obtain ⟨b, inst, hb⟩ := pageBlock_of_lockPages hpage
  simp only [Dev.writeEffect, hb]
  rfl

section
variable {s : State} {r : Req} {page : Fin 1024} {v : Word} {at_ : Fin 64} (hacc : s.accepts r page 0x024)
  (hpage : lockPages.contains page.val = true)
include hacc hpage

/-- REGISTER_WRITE of LOCK is the write of R26, its status reported. -/
theorem registerWrite_lock :
    Gives (.registerWrite r page 0x024 v at_ [] false 0) s (fun d =>
      let d := { d with off := at_.val }
      let e := d.lockWrite r page v.toNat
      (e.2.report page e.1).jobNote d page 0x024) := by
  obtain ⟨b, inst, hb⟩ := pageBlock_of_lockPages hpage
  have h := registerWrite_gives s r page 0x024 v at_ b inst hacc hb (lock_unshadowed b)
  have hw : ({ s.dev.cleared with off := at_.val } : Dev).writeEffect r page (0x024 : Fin 4096) v.toNat noEnv =
    ({ s.dev.cleared with off := at_.val } : Dev).lockWrite r page v.toNat := Dev.writeEffect_lock _ r v.toNat noEnv hpage
  simp only [Gives, hw] at h
  exact h

/-- A write of LOCK that moves nothing leaves its status and nothing else. -/
theorem registerWrite_lock_keeps {st : Status}
    (h : ({ s.dev.cleared with off := at_.val } : Dev).lockWrite r page v.toNat = (st, { s.dev.cleared with off := at_.val })) :
    Gives (.registerWrite r page 0x024 v at_ [] false 0) s (fun d => { d with off := at_.val }.report page st) := by
  have hw := registerWrite_lock (v := v) (at_ := at_) hacc hpage
  simp only [Gives, h] at hw
  rwa [Dev.jobNote_same _ _ _ _ (Dev.lockJob_report ..)] at hw

/-- A write of LOCK that changes the owner leaves the new one there, and the clear running (R27). -/
theorem registerWrite_lock_changes {d : Dev} {new : Nat}
    (h : ({ s.dev.cleared with off := at_.val } : Dev).lockWrite r page v.toNat = (.ok, d.lockChange page new)) :
    Completes (.registerWrite r page 0x024 v at_ [] false 0) s (fun d =>
      d.resp.status = some .ok ∧ d.rd LOCK_owner 0 page = new % 256 ∧ d.lockClear.get page 0 = 1) := by
  refine ⟨_, registerWrite_lock (v := v) (at_ := at_) hacc hpage, ?_⟩
  simp only [h]
  refine ⟨?_, ?_, ?_⟩
  · rw [Dev.jobNote_resp, Dev.report_resp]
  · rw [Dev.rd_lock_reported, Dev.lockChange_owner]
  · rw [Dev.jobNote_lockClear]
    exact Dev.lockChange_clear d page new

end

/-- Settles O11: each clause is one case of `Dev.lockWrite`, which either keeps the owner or changes it. -/
theorem lockWrites : Obligations.LockWrites := by
  rintro s r page v at_ owner hacc hpage rfl
  refine ⟨fun hv hfree => ?_, fun hv hown => ?_, fun hv hfree hown => ?_, fun hv hff => ?_, fun hv hfree hby => ?_,
    fun hv hfree hown href => ?_, fun hv hfree => ?_⟩
  · have h := registerWrite_lock_changes hacc hpage (Dev.lockWrite_claim { s.dev.cleared with off := at_.val } hpage hv hfree)
    rwa [reqId_mod] at h
  · exact registerWrite_lock_keeps hacc hpage (Dev.lockWrite_own _ hpage hv hown)
  · exact registerWrite_lock_keeps hacc hpage (Dev.lockWrite_busy _ hpage hv hfree hown)
  · exact registerWrite_lock_keeps hacc hpage (Dev.lockWrite_foreign _ hpage hv hff)
  · exact registerWrite_lock_changes hacc hpage (Dev.lockWrite_release { s.dev.cleared with off := at_.val } hpage hv hfree hby)
  · exact registerWrite_lock_keeps hacc hpage (Dev.lockWrite_denied _ hpage hv hfree hown href)
  · exact registerWrite_lock_keeps hacc hpage (Dev.lockWrite_free _ hpage hv hfree)

/-- A write command of LOCK that R26 grants. -/
theorem lockCommand_gives {c : Instr} {s : State} {r : Req} {page : Fin 1024} {v : Nat} (f : Dev → Dev) (hacc : s.accepts r page 0x024)
    (hpage : lockPages.contains page.val = true) (hexec : exec c s = s.write r page 0x024 v)
    (h : s.dev.cleared.lockWrite r page v = (.ok, f s.dev.cleared)) :
    Gives c s (fun d => ((f d).report page .ok).jobNote d page 0x024) := by
  obtain ⟨hon, hcheck, hcopy⟩ := hacc
  refine Gives.of_act (fun d => d.pageWrite r page 0x024 v) hon hexec ?_
  rw [Dev.pageWrite_ok s.dev.cleared r page 0x024 v noEnv hcheck hcopy, Dev.writeEffect_lock _ r v noEnv hpage, h]

end Sys2Proof.Machine
end

section
/-! SUPPORT. A block's enable and drain: each case of a write of CTRL, the end of a drain, and the commands that claim, release, enable,
disable and drain (R26 to R29, R83, R287, R542). -/

namespace Sys2Proof.Machine

open Sys2Proof

/-! ### The cases of a write to CTRL -/

section
variable (d : Dev) {page : Nat} {b : Blk} {inst : Nat} (hb : pageBlock page = some (b, inst))
include hb

/-- A write of CTRL.enable = 1 alone. -/
theorem Dev.ctrlWrite_enable : d.ctrlWrite page 1 = d.ctrlEnable b inst page := by
  simp [Dev.ctrlWrite, hb, bitOf, Nat.testBit]

/-- A write of CTRL with no field set. -/
theorem Dev.ctrlWrite_disable : d.ctrlWrite page 0 = (.ok, d.ctrlDisable b page) := by
  simp [Dev.ctrlWrite, hb, bitOf]

/-- A write of CTRL.drain = 1 alone, at a block that does not drain yet. -/
theorem Dev.ctrlWrite_drain (hdrain : d.flag STATUS_draining 0 page = false) : d.ctrlWrite page 4 = (.ok, d.ctrlDrain b page) := by
  simp [Dev.ctrlWrite, hb, hdrain, bitOf, Nat.testBit]

end

/-- A block whose chapter adds nothing to the enable. -/
theorem Dev.blockEnable_plain (d : Dev) {b : Blk} (inst : Nat) (htou : b ≠ .tou) (hisd : b ≠ .isd) (hdrc : b ≠ .drc) :
    d.blockEnable b inst = (.ok, d) := by
  unfold Dev.blockEnable
  split
  · exact absurd rfl htou
  · exact absurd rfl hisd
  · exact absurd rfl hdrc
  · rfl

/-- An enable during a drain waits for its end (R28). -/
theorem Dev.ctrlEnable_draining (d : Dev) (b : Blk) (inst page : Nat) (h : d.flag STATUS_draining 0 page = true) :
    d.ctrlEnable b inst page = (.ok, (d.wr STATUS_enable_pending 1 0 page).wr CTRL_enable 1 0 page) := by
  simp only [Dev.ctrlEnable, h, if_true]

theorem Dev.ctrlEnable_plain (d : Dev) {b : Blk} (inst page : Nat) (hdrain : d.flag STATUS_draining 0 page = false)
    (hen : d.flag STATUS_enabled 0 page = false) (htou : b ≠ .tou) (hisd : b ≠ .isd) (hdrc : b ≠ .drc) :
    d.ctrlEnable b inst page = (.ok, ((d.wr CTRL_enable 1 0 page).wr STATUS_enabled 1 0 page).portSettle b page) := by
  simp only [Dev.ctrlEnable, hdrain, hen, d.blockEnable_plain inst htou hisd hdrc, Bool.false_eq_true, if_false, ne_eq, not_true]
  rfl

theorem Dev.ctrlDisable_draining (d : Dev) (b : Blk) (page : Nat) (h : d.flag STATUS_draining 0 page = true) :
    d.ctrlDisable b page =
      (let d := (d.wr STATUS_enable_pending 0 0 page).wr CTRL_enable 0 0 page
       if b = .tou then d.touDisable else d) := by
  simp only [Dev.ctrlDisable, h, if_true]

theorem Dev.ctrlDisable_enabled (d : Dev) (b : Blk) (page : Nat) (hdrain : d.flag STATUS_draining 0 page = false)
    (hen : d.flag STATUS_enabled 0 page = true) :
    d.ctrlDisable b page = (((d.wr CTRL_enable 0 0 page).wr STATUS_enabled 0 0 page).blockDisable b page).portSettle b page := by
  simp only [Dev.ctrlDisable, hdrain, hen, Bool.false_eq_true, if_true, if_false]
  rfl

theorem Dev.ctrlDrain_enabled (d : Dev) (b : Blk) (page : Nat) (hdrain : d.flag STATUS_draining 0 page = false)
    (hen : d.flag STATUS_enabled 0 page = true) :
    d.ctrlDrain b page =
      ((((d.wr CTRL_enable 0 0 page).wr STATUS_enabled 0 0 page).wr STATUS_draining 1 0 page).wr CTRL_drain 1 0 page).blockDrain b page := by
  simp only [Dev.ctrlDrain, hdrain, hen, Bool.false_eq_true, if_true, if_false]
  rfl

/-- A drain that nothing holds up ends; no enable waits for it. -/
theorem Dev.drainComplete_over (d : Dev) {page : Nat} {b : Blk} {inst : Nat} (hb : pageBlock page = some (b, inst))
    (hdrain : d.flag STATUS_draining 0 page = true) (hover : d.drained b page = true)
    (hpend : d.flag STATUS_enable_pending 0 page = false) :
    d.drainComplete page =
      (((((d.wr STATUS_draining 0 0 page).wr CTRL_drain 0 0 page).wr STATUS_enable_pending 0 0 page).irq page 30).drainOver b page).portSettle b
        page := by
  simp only [Dev.drainComplete, hb, hdrain, hover, hpend, Bool.not_true, Bool.or_self, Bool.false_eq_true, if_false]

/-- Whether a block's drain is over does not turn on the answer and the outputs of the command before. -/
theorem Dev.drained_cleared (d : Dev) (b : Blk) (page : Nat) : d.cleared.drained b page = d.drained b page := by
  cases b <;> rfl

/-! ### The commands -/

/-- A write command of CTRL that answers ST_OK. -/
theorem Effects.of_ctrlWrite {c : Instr} {s : State} {f : Dev → Dev} {r : Req} {page : Fin 1024} {b : Blk} {inst : Nat} {v : Nat}
    (hacc : s.accepts r page 0x008) (hb : pageBlock page = some (b, inst)) (hexec : exec c s = s.write r page 0x008 v)
    (heff : s.dev.cleared.ctrlWrite page v = (.ok, f s.dev.cleared)) : Effects c s page f :=
  Effects.of_headerWrite v hacc hb (by decide) hexec heff

/-- A claim that no rival comes before is a write of the claimer's ID (R25). -/
theorem exec_lockClaim_first {r : Req} {page : Fin 1024} {rivals : List Req} {s : State} (h : loses s.rr r rivals = false) :
    exec (.lockClaim r page rivals) s = s.write r page 0x024 (reqId r) := by
  show execLockClaim r page rivals s = _
  simp only [execLockClaim, h, Bool.false_eq_true, if_false]

theorem exec_lockClaim_loses {r : Req} {page : Fin 1024} {rivals : List Req} {s : State} (h : loses s.rr r rivals = true) :
    exec (.lockClaim r page rivals) s = s.act (fun d => d.report page .busy) := by
  show execLockClaim r page rivals s = _
  simp only [execLockClaim, h, if_true]

/-! ### What each command gives -/

theorem lockClaim_gives (s : State) (r : Req) (page : Fin 1024) (rivals : List Req) (hacc : s.accepts r page 0x024)
    (hfirst : loses s.rr r rivals = false) (hpage : lockPages.contains page.val = true) (hfree : s.dev.rd LOCK_owner 0 page = 0xFF) :
    Gives (.lockClaim r page rivals) s (fun d => ((d.lockChange page (reqId r)).report page .ok).jobNote d page 0x024) :=
  lockCommand_gives (fun d => d.lockChange page (reqId r)) hacc hpage (exec_lockClaim_first hfirst)
    (Dev.lockWrite_claim s.dev.cleared hpage (reqId_mod r) hfree)

theorem lockRelease_gives (s : State) (r : Req) (page : Fin 1024) (hacc : s.accepts r page 0x024)
    (hpage : lockPages.contains page.val = true) (hown : s.dev.rd LOCK_owner 0 page = reqId r) :
    Gives (.lockRelease r page) s (fun d => ((d.lockChange page 0xFF).report page .ok).jobNote d page 0x024) := by
  refine lockCommand_gives (fun d => d.lockChange page 0xFF) hacc hpage rfl ?_
  have hfree : s.dev.cleared.rd LOCK_owner 0 page ≠ 0xFF := fun h => reqId_ne_free r (h.symm.trans hown)
  rw [Dev.lockWrite_release _ hpage rfl hfree (.inl hown), if_neg (fun h => h.2 hown)]

section
variable (s : State) (r : Req) (page : Fin 1024) (b : Blk) (inst : Nat) (hacc : s.accepts r page 0x008)
  (hb : pageBlock page = some (b, inst))
include hacc hb

theorem ctrlEnable_draining_effects (hdrain : s.dev.flag STATUS_draining 0 page = true) :
    Effects (.ctrlEnable r page) s page (fun d => (d.wr STATUS_enable_pending 1 0 page).wr CTRL_enable 1 0 page) :=
  Effects.of_ctrlWrite hacc hb rfl
    ((Dev.ctrlWrite_enable s.dev.cleared hb).trans (Dev.ctrlEnable_draining s.dev.cleared b inst page hdrain))

theorem ctrlEnable_effects (hdrain : s.dev.flag STATUS_draining 0 page = false) (hen : s.dev.flag STATUS_enabled 0 page = false)
    (htou : b ≠ .tou) (hisd : b ≠ .isd) (hdrc : b ≠ .drc) :
    Effects (.ctrlEnable r page) s page (fun d =>
      ((d.wr CTRL_enable 1 0 page).wr STATUS_enabled 1 0 page).portSettle b page) :=
  Effects.of_ctrlWrite hacc hb rfl
    ((Dev.ctrlWrite_enable s.dev.cleared hb).trans (Dev.ctrlEnable_plain s.dev.cleared inst page hdrain hen htou hisd hdrc))

theorem ctrlDisable_effects (hdrain : s.dev.flag STATUS_draining 0 page = false) (hen : s.dev.flag STATUS_enabled 0 page = true) :
    Effects (.ctrlDisable r page) s page (fun d =>
      (((d.wr CTRL_enable 0 0 page).wr STATUS_enabled 0 0 page).blockDisable b page).portSettle b page) :=
  Effects.of_ctrlWrite hacc hb rfl
    ((Dev.ctrlWrite_disable s.dev.cleared hb).trans
      (congrArg (Prod.mk _) (Dev.ctrlDisable_enabled s.dev.cleared b page hdrain hen)))

theorem ctrlDisable_draining_effects (hdrain : s.dev.flag STATUS_draining 0 page = true) :
    Effects (.ctrlDisable r page) s page (fun d =>
      let d := (d.wr STATUS_enable_pending 0 0 page).wr CTRL_enable 0 0 page
      if b = .tou then d.touDisable else d) :=
  Effects.of_ctrlWrite hacc hb rfl
    ((Dev.ctrlWrite_disable s.dev.cleared hb).trans
      (congrArg (Prod.mk _) (Dev.ctrlDisable_draining s.dev.cleared b page hdrain)))

theorem ctrlDrain_effects (hdrain : s.dev.flag STATUS_draining 0 page = false) (hen : s.dev.flag STATUS_enabled 0 page = true) :
    Effects (.ctrlDrain r page) s page (fun d =>
      ((((d.wr CTRL_enable 0 0 page).wr STATUS_enabled 0 0 page).wr STATUS_draining 1 0 page).wr CTRL_drain 1 0 page).blockDrain b page) :=
  Effects.of_ctrlWrite hacc hb rfl
    ((Dev.ctrlWrite_drain s.dev.cleared hb hdrain).trans
      (congrArg (Prod.mk _) (Dev.ctrlDrain_enabled s.dev.cleared b page hdrain hen)))

end

theorem drainComplete_gives (s : State) (page : Fin 1024) (b : Blk) (inst : Nat) (hon : s.on) (hb : pageBlock page = some (b, inst))
    (hdrain : s.dev.flag STATUS_draining 0 page = true) (hover : s.dev.drained b page = true)
    (hpend : s.dev.flag STATUS_enable_pending 0 page = false) :
    Gives (.drainComplete page none) s (fun d =>
      (((((d.wr STATUS_draining 0 0 page).wr CTRL_drain 0 0 page).wr STATUS_enable_pending 0 0 page).irq page 30).drainOver b page).portSettle b
        page) :=
  Gives.of_act (fun d => d.drainComplete page) hon rfl
    (Dev.drainComplete_over s.dev.cleared hb hdrain ((Dev.drained_cleared s.dev b page).trans hover) hpend)

/-- Settles O9, clause by clause: what each command that controls a block gives. -/
theorem pageControlCompletes : Obligations.PageControlCompletes :=
  ⟨lockClaim_gives, fun _ _ page _ hon hloses => Gives.of_act (fun d => d.report page .busy) hon (exec_lockClaim_loses hloses) rfl,
    lockRelease_gives, fun _ page hon => Gives.of_act (fun d => d.lockCleared page) hon rfl rfl,
    ctrlEnable_draining_effects, ctrlEnable_effects, ctrlDisable_effects, ctrlDisable_draining_effects, ctrlDrain_effects,
    drainComplete_gives, fun _ _ n hon => Gives.of_act (fun d => d.queueDrainComplete n) hon rfl rfl⟩

end Sys2Proof.Machine
end

section
/-! SUPPORT. The inputs and timers of TIM and ORB, each in the case that a statement names, and a tick (R35 to R57, R541). -/

namespace Sys2Proof.Machine

open Sys2Proof

/-! ### Fields under the operations of this part -/

@[simp] theorem Dev.rd_raise (d : Dev) (src p0 p1 p2 : Nat) (f : Fld) (k p : Nat) : (d.raise src p0 p1 p2).rd f k p = d.rd f k p := by
  unfold Dev.raise
  split <;> rfl

/-- The capture of a time leaves the sources' qualification alone. -/
theorem Dev.qualified_ppsCapture (d : Dev) (c n : Nat) :
    (d.wr64 TIM_PPS_CAP_LO_tai TIM_PPS_CAP_HI_tai c).qualified n = d.qualified n := by
  unfold Dev.qualified Dev.wr64
  rw [Dev.rd_wr_key_ne _ _ _ _ _ _ _ _ (by decide), Dev.rd_wr_key_ne _ _ _ _ _ _ _ _ (by decide)]

/-! ### The orbits (R57) -/

theorem Dev.orbCoastExpiry_due (d : Dev) (n : Nat) (hstate : d.rd ORBn_STATE_state n = 3)
    (hdue : d.rd ORBn_CFG_coast_cycles n ≤ d.rd ORBn_STATE_coasted n) :
    d.orbCoastExpiry n =
      ((d.setOrbit n { d.orbit n with toNominal := true }).wr ORBn_STATE_state 4 n).raise (658 + 8 * n) :=
  if_pos ⟨hstate, hdue⟩

/-! ### 1PPS (R38) -/

/-- The first edge of a row starts the count. -/
theorem Dev.ppsEdge_first (d : Dev) (rising : Bool) (off : Nat) (hedge : rising ≠ d.flag TIM_CFG_pps_in_pol)
    (hlast : d.tim.ppsLast = none) (hqual : d.qualified 2 = false) :
    d.ppsEdge rising off =
      (let c := d.counterAt off / 2 ^ 32
       let d := d.wr64 TIM_PPS_CAP_LO_tai TIM_PPS_CAP_HI_tai c
       { d with tim := { d.tim with ppsLast := some c, ppsLastCclk := d.cclk + off, ppsGood := 1 } }) := by
  have hlast' : (d.wr64 TIM_PPS_CAP_LO_tai TIM_PPS_CAP_HI_tai (d.counterAt off / 2 ^ 32)).tim.ppsLast = none := hlast
  simp only [Dev.ppsEdge, if_neg hedge, hlast', Dev.qualified_ppsCapture, hqual, Bool.false_eq_true, if_false]
  rfl

/-- From the fourth good interval in a row on the input is qualified. -/
theorem Dev.ppsEdge_fourth (d : Dev) (rising : Bool) (off l : Nat) (hedge : rising ≠ d.flag TIM_CFG_pps_in_pol)
    (hlast : d.tim.ppsLast = some l) (hlow : l + 999990000 ≤ d.counterAt off / 2 ^ 32)
    (hhigh : d.counterAt off / 2 ^ 32 ≤ l + 1000010000) (hgood : 3 ≤ d.tim.ppsGood) :
    d.ppsEdge rising off =
      (let c := d.counterAt off / 2 ^ 32
       let d := d.wr64 TIM_PPS_CAP_LO_tai TIM_PPS_CAP_HI_tai c
       ({ d with tim := { d.tim with ppsLast := some c, ppsLastCclk := d.cclk + off, ppsGood := 4 } }).setQual 2 true off) := by
  have hlast' : (d.wr64 TIM_PPS_CAP_LO_tai TIM_PPS_CAP_HI_tai (d.counterAt off / 2 ^ 32)).tim.ppsLast = some l := hlast
  have hgood' : (d.wr64 TIM_PPS_CAP_LO_tai TIM_PPS_CAP_HI_tai (d.counterAt off / 2 ^ 32)).tim.ppsGood = d.tim.ppsGood := rfl
  have hfour : min 4 (d.tim.ppsGood + 1) = 4 := by omega
  have hmany : 4 ≤ d.tim.ppsGood + 1 := by omega
  simp only [Dev.ppsEdge, if_neg hedge, hlast', hgood', hlow, hhigh, and_self, decide_true, if_true, hfour, hmany, Bool.or_true]

/-- A qualified input that has been silent for 1.1 s is disqualified. -/
theorem Dev.ppsTimeout_qualified (d : Dev) (l : Nat) (hlast : d.tim.ppsLast = some l)
    (hdue : d.tim.ppsLastCclk + 880000000 ≤ d.nextCclk) (hqual : d.qualified 2 = true) :
    d.ppsTimeout = (({ d with tim := { d.tim with ppsLast := none, ppsGood := 0 } }).setQual 2 false).raise 646 := by
  simp only [Dev.ppsTimeout, hlast, Option.isSome_some, hdue, and_self, hqual, if_true]

/-! ### IRIG-B (R39) -/

/-- What second a frame decodes to does not turn on TIM's state behind its registers. -/
theorem Dev.irigSecond_tim (d : Dev) (t : Tim) (f : IrigFrame) : ({ d with tim := t } : Dev).irigSecond f = d.irigSecond f := rfl

/-- A frame of the second after the last good one is the second good one in a row. -/
theorem Dev.irigFrame_good (d : Dev) (f : IrigFrame) (off l : Nat) (hen : d.flag TIM_IRIG_CFG_en = true)
    (hformat : f.amplitude = d.flag TIM_IRIG_CFG_format) (hmark : f.markersOk = true) (hlast : d.tim.irigLast = some l)
    (hsec : d.irigSecond f = some ((l : Int) + 1)) (hgood : 1 ≤ d.tim.irigGood) :
    d.irigFrame f off =
      (let c := d.counterAt off / 2 ^ 32
       let d := { d with tim := { d.tim with irigLastCclk := d.cclk + off } }
       let d := (d.wr TIM_IRIG_STAT_last_ok 1).wr64 TIM_IRIG_TAI_LO_tai TIM_IRIG_TAI_HI_tai c
       ({ d with tim := { d.tim with
         irigLast := some (l + 1), irigGood := 2, irigBad := 0,
         irigDiff := ((l + 1 : Nat) : Int) - ((c + 500000000) / 1000000000 : Nat) } }).setQual 3 true off) := by
  have htwo : min 2 (d.tim.irigGood + 1) = 2 := by omega
  have hmany : 2 ≤ d.tim.irigGood + 1 := by omega
  have hnat : ((l : Int) + 1).toNat = l + 1 := by omega
  simp only [Dev.irigFrame, hen, hformat, hmark, Dev.irigSecond_tim, hsec, hlast, hnat, htwo, hmany, Bool.not_true, bne_self_eq_false, Bool.or_self,
    Bool.false_eq_true, if_false, if_true, decide_true, Option.getD_some]

/-- The first bad frame of a row is counted, recorded, and ends the row of good ones. -/
theorem Dev.irigFrame_bad (d : Dev) (f : IrigFrame) (off : Nat) (hen : d.flag TIM_IRIG_CFG_en = true)
    (hformat : f.amplitude = d.flag TIM_IRIG_CFG_format) (hmark : f.markersOk = false) (hbad : d.tim.irigBad = 0) :
    d.irigFrame f off =
      (let d := { d with tim := { d.tim with irigLastCclk := d.cclk + off } }
       let d := ((d.bump TIM_IRIG_STAT_frame_err).wr TIM_IRIG_STAT_last_ok 0).raise 648
       { d with tim := { d.tim with irigGood := 0, irigBad := 1 } }) := by
  simp only [Dev.irigFrame, hen, hformat, hmark, hbad, Bool.not_true, bne_self_eq_false, Bool.or_self, Bool.false_eq_true, if_false]
  rfl

theorem Dev.irigTimeout_due (d : Dev) (hdue : d.tim.irigLastCclk + 2000000000 ≤ d.nextCclk) :
    d.irigTimeout = ({ d with tim := { d.tim with irigLast := none, irigGood := 0 } }).setQual 3 false :=
  if_pos hdue

/-! ### The 10 MHz input (R35, R62) -/

/-- Neither the presence of the input nor the steering from it is part of the time state. -/
theorem Dev.ext10Update_state (d : Dev) : d.ext10Update.rd TIM_STATE_state = d.rd TIM_STATE_state := by
  unfold Dev.ext10Update
  rw [Dev.rd_wr_other _ _ _ _ _ _ _ _ (by decide) (by decide) (by decide) (by decide),
    Dev.rd_wr_other _ _ _ _ _ _ _ _ (by decide) (by decide) (by decide) (by decide)]

/-- The input steers nothing in holdover when it is lost outside of it. -/
theorem Dev.ext10Loss_active (d : Dev) (hact : d.flag TIM_STATE_ext10_active = true) (h3 : d.rd TIM_STATE_state ≠ 3)
    (h4 : d.rd TIM_STATE_state ≠ 4) :
    d.ext10Loss =
      (let d := { d with tim := { d.tim with ext10Present := false } }
       ((d.wr TIM_STATE_qualified (setBits (d.rd TIM_STATE_qualified) 3 3 0)).wr TIM_STATE_ext10_active 0).raise 650) := by
  have hstate : ((({ d with tim := { d.tim with ext10Present := false } } : Dev).ext10Update).raise 650).rd TIM_STATE_state =
      d.rd TIM_STATE_state := by rw [Dev.rd_raise, Dev.ext10Update_state]; rfl
  simp only [Dev.ext10Loss, hact, hstate, h3, h4, or_self, if_true, if_false]
  rfl

theorem Dev.ext10Return_enabled (d : Dev) (hen : d.flag TIM_CFG_ext10_en = true) :
    d.ext10Return =
      (let d := { d with tim := { d.tim with ext10Present := true } }
       (d.wr TIM_STATE_qualified (setBits (d.rd TIM_STATE_qualified) 3 3 1)).wr TIM_STATE_ext10_active 1) := by
  have hen' : ({ d with tim := { d.tim with ext10Present := true } } : Dev).flag TIM_CFG_ext10_en = true := hen
  simp only [Dev.ext10Return, Dev.ext10Update, hen', Bool.and_self]
  rfl

/-! ### Timers of TIM (R40, R42) -/

theorem Dev.servoHeartbeat_due (d : Dev) (hset : (d.flag TIM_SERVO_ptp_qual || d.flag TIM_SERVO_locked) = true)
    (hdue : d.tim.servoAt + 3 * cclkPerS ≤ d.nextCclk) :
    d.servoHeartbeat = ((d.wr TIM_SERVO_ptp_qual 0).wr TIM_SERVO_locked 0).setQual 1 false := by
  simp only [Dev.servoHeartbeat, hset, hdue, decide_true, Bool.and_self, if_true]

theorem Dev.holdLimit_due (d : Dev) (hstate : d.rd TIM_STATE_state = 3) (hlim : d.rd TIM_CFG_hold_limit ≠ 0)
    (hdue : d.tim.holdSince + d.rd TIM_CFG_hold_limit * cclkPerS ≤ d.cclk) :
    d.holdLimit = (d.wr TIM_STATE_state 4).raise 642 :=
  if_pos ⟨hstate, hlim, hdue⟩

/-! ### The tick (R48, R541) -/

theorem exec_tick_own (s : State) (env : TickEnv) (hon : s.on) (hown : (s.dev.ropeMember && s.dev.following) = false) :
    exec (.tick env) s = .next { s with
      rr := (s.rr + 1) % 112, dev := (s.dev.cleared.timTick env.ext10).tickRest s.dev.cleared env } := by
  show execTick env s = _
  have hown' : (s.dev.cleared.ropeMember && s.dev.cleared.following) = false := hown
  simp only [execTick, hon, hown, Bool.not_false, Bool.and_self, if_true]
  rw [State.act_on { s with rr := (s.rr + 1) % 112 } _ hon]
  simp only [Dev.tick, hown', Bool.false_eq_true, if_false]

/-- A device that follows a rope leaves its ticks to the rope. -/
theorem tick_follower_gives (s : State) (env : TickEnv) (hon : s.on) (hown : (s.dev.ropeMember && s.dev.following) = true) :
    Gives (.tick env) s (fun d => d) := by
  show execTick env s = _
  have hown' : (s.dev.cleared.ropeMember && s.dev.cleared.following) = true := hown
  simp only [execTick, hown, Bool.not_true, Bool.and_false, Bool.false_eq_true, if_false]
  rw [State.act_on _ _ hon]
  simp only [Dev.tick, hown', if_true]

/-- Settles O2, clause by clause: the case of each input and timer that the clause names, and the tick. -/
theorem timeEventsComplete : Obligations.TimeEventsComplete :=
  ⟨fun _ n hon hstate hdue => Gives.of_act (fun d => d.orbCoastExpiry n) hon rfl (Dev.orbCoastExpiry_due _ n hstate hdue),
    fun s rising off hon hedge hlast hqual =>
      Gives.of_act (fun d => d.ppsEdge rising off) hon rfl (Dev.ppsEdge_first s.dev.cleared rising off hedge hlast hqual),
    fun s rising off l hon hedge hlast hlow hhigh hgood =>
      Gives.of_act (fun d => d.ppsEdge rising off) hon rfl (Dev.ppsEdge_fourth s.dev.cleared rising off l hedge hlast hlow hhigh hgood),
    fun s l hon hlast hdue hqual => Gives.of_act Dev.ppsTimeout hon rfl (Dev.ppsTimeout_qualified s.dev.cleared l hlast hdue hqual),
    fun s f off l hon hen hformat hmark hlast hsec hgood =>
      Gives.of_act (fun d => d.irigFrame f off) hon rfl (Dev.irigFrame_good s.dev.cleared f off l hen hformat hmark hlast hsec hgood),
    fun s f off hon hen hformat hmark hbad =>
      Gives.of_act (fun d => d.irigFrame f off) hon rfl (Dev.irigFrame_bad s.dev.cleared f off hen hformat hmark hbad),
    fun s hon hdue => Gives.of_act Dev.irigTimeout hon rfl (Dev.irigTimeout_due s.dev.cleared hdue),
    fun s hon hact h3 h4 => Gives.of_act Dev.ext10Loss hon rfl (Dev.ext10Loss_active s.dev.cleared hact h3 h4),
    fun s hon hen => Gives.of_act Dev.ext10Return hon rfl (Dev.ext10Return_enabled s.dev.cleared hen),
    fun s hon hset hdue => Gives.of_act Dev.servoHeartbeat hon rfl (Dev.servoHeartbeat_due s.dev.cleared hset hdue),
    fun _ hon => Gives.of_act Dev.sourceRevert hon rfl rfl,
    fun s hon hstate hlim hdue => Gives.of_act Dev.holdLimit hon rfl (Dev.holdLimit_due s.dev.cleared hstate hlim hdue),
    exec_tick_own, tick_follower_gives⟩

end Sys2Proof.Machine
end

section
/-! SUPPORT. The order of R25 among what comes in one CCLK, and the write of a block register up to the block's own effect (R25, R285). -/

namespace Sys2Proof.Machine

open Sys2Proof

/-! ### The order of R25 -/

section
variable {α : Type} {f : α → Nat} {p : Nat → α → Bool} (hp : ∀ k x, p k x = decide (f x = k))
include hp

/-- One entry alone is all that comes. -/
theorem flatMap_range_one (x : α) (n : Nat) :
    (List.range n).flatMap (fun k => [x].filter (p k)) = if f x < n then [x] else [] := by
  induction n with
  | zero => rfl
  | succ n ih =>
    rw [List.range_succ, List.flatMap_append, ih]
    by_cases hx : f x = n
    · simp [hp, hx]
    · have hiff : f x < n + 1 ↔ f x < n := by omega
      simp [hp, hx, hiff]

/-- Of two entries the one of lower rank comes first, in whichever order they are named. -/
theorem flatMap_range_two {x y : α} {l : List α} (hl : l = [x, y] ∨ l = [y, x]) (hxy : f x < f y) (n : Nat) (hn : f y < n) :
    (List.range n).flatMap (fun k => l.filter (p k)) = [x, y] := by
  have hfilter (k : Nat) : l.filter (p k) = [x].filter (p k) ++ [y].filter (p k) := by
    rcases hl with rfl | rfl
    · exact List.filter_append (l₁ := [x]) [y]
    · by_cases hk : f x = k
      · have hy : f y ≠ k := by omega
        simp [hp, hk, hy]
      · simp [List.filter_cons, hp, hk]
  simp only [hfilter]
  clear hfilter hl
  induction n with
  | zero => omega
  | succ n ih =>
    rw [List.range_succ, List.flatMap_append]
    by_cases hy : f y = n
    · have hbefore : (List.range n).flatMap (fun k => [x].filter (p k) ++ [y].filter (p k)) = [x] := by
        have hnone : (List.range n).flatMap (fun k => [x].filter (p k) ++ [y].filter (p k)) =
            (List.range n).flatMap (fun k => [x].filter (p k)) := by
          refine List.flatMap_congr fun k hk => ?_
          have hyk : f y ≠ k := by have := List.mem_range.mp hk; omega
          simp [hp, hyk]
        rw [hnone, flatMap_range_one hp, if_pos (by omega)]
      have hx : f x ≠ n := by omega
      simp [hbefore, hp, hy, hx]
    · have hx : f x ≠ n := by omega
      rw [ih (by omega)]
      simp [hp, hy, hx]

end

theorem rank_lt (rr : Nat) (r : Req) : rank rr r < 112 := Nat.mod_lt _ (by decide)

/-! ### The write of a block register -/

/-- A page without a LOCK register runs no job that a write could end. -/
theorem Dev.lockJob_elsewhere (d : Dev) {page : Nat} (h : lockPages.contains page = false) : d.lockJob page = false := by
  simp only [lockPages, List.contains_eq_mem, List.mem_cons, List.not_mem_nil, or_false, decide_eq_false_iff_not, not_or] at h
  have hcpl : (decide (0x070 ≤ page) && decide (page < 0x078)) = false := by
    rw [Bool.and_eq_false_iff, decide_eq_false_iff_not, decide_eq_false_iff_not]
    omega
  rw [Dev.lockJob, if_neg (by unfold pgPKE; omega), if_neg (by unfold pgHSH; omega), hcpl, Bool.false_and]

/-- A write of a block register that passes every check, at a page without a LOCK register, whose own effect answers ST_OK. -/
theorem Effects.of_blockWrite {c : Instr} {s : State} {f : Dev → Dev} {r : Req} {page off : Nat} {b : Blk} {inst : Nat} (v : Nat)
    (hacc : s.accepts r page off) (hb : pageBlock page = some (b, inst)) (hpage : lockPages.contains page = false)
    (hoff : 0x040 ≤ off ∧ off < 0x800) (hexec : exec c s = s.write r page off v)
    (heff : s.dev.cleared.blockWrite r b inst page off v noEnv = (.ok, f s.dev.cleared)) : Effects c s page f := by
  obtain ⟨hon, hcheck, hcopy⟩ := hacc
  have hwrite : s.dev.cleared.writeEffect r page off v noEnv = (.ok, f s.dev.cleared) := by
    simp only [Dev.writeEffect, hb]
    rw [if_neg (by omega), heff]
  refine Gives.of_act _ hon hexec ?_
  rw [Dev.pageWrite_idle s.dev.cleared r page off v noEnv (Dev.lockJob_elsewhere _ hpage) hcheck hcopy, hwrite]

/-- The plain write of a register without WL fields answers ST_OK. -/
theorem Dev.plainWrite_status (d : Dev) {page off : Nat} {b : Blk} {inst : Nat} {g : RegDesc} (v : Nat)
    (hb : pageBlock page = some (b, inst)) (hg : findReg b off = some g) (hwl : g.fields.any (fun f => f.acc == .wl) = false) :
    d.plainWrite page off v = (.ok, (d.plainWrite page off v).2) := by
  simp [Dev.plainWrite, hb, hg, hwl]

/-- A plain write changes no other register. -/
theorem Dev.plainWrite_word_ne (d : Dev) (page off v : Nat) {key : Nat} (h : key ≠ regKey page off) :
    (d.plainWrite page off v).2.word key = d.word key := by
  unfold Dev.plainWrite
  split
  · rfl
  · split
    · rfl
    · dsimp only
      split
      · exact Dev.word_setWord_ne d h _
      · split
        · exact Dev.word_setWord_ne d h _
        · exact Dev.word_setWord_ne d h _

end Sys2Proof.Machine
end

section
/-! SUPPORT. The traverse sequencer: a frame that no step finds at fault, an egress item, the entries, steps and maps of its page, the loss
of a stream (R121 to R146). -/

namespace Sys2Proof.Machine

open Sys2Proof

/-! ### The frames of one CCLK (R140) -/

theorem dpOrder_one (rr : Nat) (x : Nat × Bool) : dpOrder rr [x] = [x] := by
  have h := flatMap_range_one (f := fun x : Nat × Bool => (x.1 + 112 - rr % 112) % 112) (fun _ _ => rfl) x 112
  rwa [if_pos (Nat.mod_lt _ (by decide))] at h

theorem Dev.withBreak_none (d : Dev) : d.cleared.withBreak none = d.cleared := rfl

/-! ### A frame that no step finds at fault (R121, R130) -/

/-- A program of output steps alone: none of the ops 1 to 4 is in it. -/
theorem Pass.has_judge {x : Pass} (h : x.steps.all (fun t => stepOp t == 0 || decide (5 ≤ stepOp t)) = true) {op : Nat} (hlow : 1 ≤ op)
    (hhigh : op ≤ 4) : x.has op = false := by
  rw [Pass.has, List.any_eq_false]
  intro t ht hop
  have hstep := List.all_eq_true.mp h t ht
  simp only [Bool.or_eq_true, beq_iff_eq, decide_eq_true_eq] at hstep hop
  omega

/-- A pass that nothing has found at fault yet leaves no statistics and no records. -/
theorem Dev.verdictNotes_clean (d : Dev) (x : Pass) (act : Nat) (hv : x.v = 0) (hr : x.recs = []) : d.verdictNotes x act = d := by
  simp [Dev.verdictNotes, hv, hr]

section
variable {x : Pass} (h : x.steps.all (fun t => stepOp t == 0 || decide (5 ≤ stepOp t)) = true)
include h

theorem Pass.extract_output : x.extract = x := by
  simp [Pass.extract, Pass.has_judge h (op := 1) (by decide) (by decide)]

theorem Pass.stampStep_output (tick : Nat) : x.stampStep tick = x := by
  simp [Pass.stampStep, Pass.has_judge h (op := 2) (by decide) (by decide)]

theorem Dev.authStep_output (d : Dev) (pipe : Option Nat) (ovr : Bool) : d.authStep x pipe ovr = (x, d) := by
  simp [Dev.authStep, Pass.has_judge h (op := 3) (by decide) (by decide)]

theorem Dev.dedupStep_output (d : Dev) : d.dedupStep x = (x, d) := by
  unfold Dev.dedupStep
  split
  · rfl
  · simp [Pass.has_judge h (op := 4) (by decide) (by decide)]

end

/-- Of a frame without a fault: its disposition is that of verdict 0. -/
theorem Dev.dispose_clean (d : Dev) (x : Pass) (hv : x.v = 0) (hr : x.recs = []) :
    d.dispose x =
      Dev.outputSteps (d.action x.e.dispo 0) x.steps x (if (d.action x.e.dispo 0).testBit 3 then d.keepState x else d) := by
  simp only [Dev.dispose, Dev.verdictNotes_clean d x _ hv hr, hv, Nat.zero_mod]

theorem Dev.trvIngress_clean (d : Dev) (dp : Nat) (authOver : Bool) (f : Flight) (hfind : d.trv.flights.find? (·.dp == dp) = some f)
    (hmal : f.mal = none) (hfcs : f.h.fcsBad = false) (hbrk : d.brk = none)
    (hprog : f.prog.all (fun t => stepOp t == 0 || decide (5 ≤ stepOp t)) = true) :
    d.trvIngress dp authOver =
      (let d := { d with trv := { d.trv with flights := d.trv.flights.erase f } }
       let x : Pass := { dp := dp, entry := f.entry, e := f.e, egress := false, bytes := f.h.bytes, info := f.h.info, stamp := f.h.stamp
                         itemTime := 0, steps := f.prog }
       let act := d.action f.e.dispo 0
       (Dev.outputSteps act f.prog x (if act.testBit 3 then d.keepState x else d)).unstage f.vc f.plan) := by
  have hnobrk : (d.brk = some 3) = False := by simp [hbrk]
  simp only [Dev.trvIngress, hfind, hnobrk, if_false, hmal, hfcs, b2n, Option.isSome_none, Bool.false_eq_true]
  rw [Pass.extract_output hprog, Pass.stampStep_output hprog, Dev.authStep_output hprog]
  dsimp only
  rw [Dev.dedupStep_output hprog]
  dsimp only
  rw [Dev.dispose_clean _ _ rfl rfl]

/-! ### Egress (R143, R153) -/

section
variable (d : Dev) {n : Nat} {info : FrameMeta} {q : Queue} {e : TrvEntry} (hq : d.q n = q) (hqv : q.valid = true) (hkind : q.consKind = 1)
  (hitem : q.unclaimed ≠ 0) (hclaim : q.claimed = 0) (he : d.entry q.consId = e) (hev : e.valid = true) (heg : e.egress = true)
  (hload : (d.hwLoad e.datapath (q.slotAddr q.cons) q.slot).1 = .ok)
include hq hqv hkind hitem hclaim he hev heg hload

/-- The item at the head of a queue bound to an egress entry. -/
theorem Dev.trvEgress_item :
    d.trvEgress n info =
      (let x := d.hwLoad e.datapath (q.slotAddr q.cons) q.slot
       let h := parseHdr x.2.1
       let d := x.2.2.claimItems n 1
       (if h.flags.testBit 3 then d else d.egressProgram e q.consId (slice x.2.1 16 h.len) h.time info).freeItems n 1) := by
  have hskip : (!q.valid || q.consKind != 1 || q.unclaimed == 0 || q.claimed != 0 || !(e.valid && e.egress)) = false := by
    simp [hqv, hkind, hitem, hclaim, hev, heg]
  simp only [Dev.trvEgress, hq, he, hskip, hload, Bool.false_eq_true, if_false, ne_eq, not_true]

end

/-! ### Writes of the sequencer's page -/

theorem Effects.of_trvWrite {c : Instr} {s : State} {f : Dev → Dev} {r : Req} {off v : Nat} (hacc : s.accepts r pgTRV off)
    (hoff : 0x040 ≤ off ∧ off < 0x800) (hexec : exec c s = s.write r pgTRV off v) (heff : s.dev.cleared.trvWrite off v = (.ok, f s.dev.cleared)) :
    Effects c s pgTRV f :=
  Effects.of_blockWrite (b := .trv) (inst := 0) v hacc rfl rfl hoff hexec heff

theorem Dev.replaceEntry_kept (d : Dev) (i : Nat) (e : TrvEntry) (h : (d.entry i).inLoss = false) :
    d.replaceEntry i e = d.setEntry i { e with gen := ((d.entry i).gen + 1) % 256, kept := d.cclk, first := true } := by
  simp only [Dev.replaceEntry, h, Bool.false_eq_true, if_false]

theorem Dev.trvCommit_ok (d : Dev) (i : Nat) (hsel : d.rd TRV_ENT_SEL_index = i) (hvalid : d.trvStaged.valid = true)
    (hst : d.commitStatus i d.trvStaged = .ok) (hloss : (d.entry i).inLoss = false) :
    d.trvCommit = (.ok,
      (d.setEntry i { d.trvStaged with gen := ((d.entry i).gen + 1) % 256, kept := d.cclk, first := true }).rowWritten pgTRV i) := by
  simp only [Dev.trvCommit, hsel, hvalid, hst, if_true, ne_eq, not_true, if_false, Dev.replaceEntry_kept _ _ _ hloss]

theorem Dev.trvInvalidate_ok (d : Dev) (i : Nat) (hsel : d.rd TRV_ENT_SEL_index = i) (hloss : (d.entry i).inLoss = false) :
    d.trvInvalidate = (.ok,
      (let e := d.entry i
       (d.setEntry i { e with w0 := setBits e.w0 31 31 0, first := true, inLoss := false, a := 0, b := 0,
                              gen := (e.gen + 1) % 256, kept := d.cclk }).rowWritten pgTRV i)) := by
  simp only [Dev.trvInvalidate, hsel, Dev.replaceEntry_kept _ _ _ hloss]

theorem Dev.trvStepWrite_ok (d : Dev) (v : Nat) (h : d.stepRefs (d.rd TRV_STEP_SEL_index) = 0) :
    d.trvStepWrite v = (.ok, { d with trv := { d.trv with steps := d.trv.steps.set (d.rd TRV_STEP_SEL_index) v 0 } }.rowWritten pgTRV
      (stepRow (d.rd TRV_STEP_SEL_index))) := by
  simp only [Dev.trvStepWrite, h, ne_eq, not_true, if_false]

/-- TRV_MISSd stands at 0x100 and up. -/
theorem Dev.trvWrite_miss (d : Dev) (dp : Fin 12) (v : Nat) : d.trvWrite (0x100 + 4 * dp) v = d.trvMissWrite dp v := by
  fin_cases dp <;> rfl

/-- TRV_CPL_MAPp stands at 0x0E0 and up. -/
theorem Dev.trvWrite_cplMap (d : Dev) (p : Fin 8) (v : Nat) : d.trvWrite (0x0E0 + 4 * p) v = d.cplMapWrite p v := by
  fin_cases p <;> rfl

/-- The register of a datapath's miss program. -/
def missDesc : RegDesc := ⟨0x100, 4, 12, .std, true, [⟨31, 31, .rw, 0⟩, ⟨24, 21, .rw, 0⟩, ⟨19, 12, .rw, 0⟩, ⟨11, 0, .rw, 0⟩]⟩

theorem findReg_miss (dp : Fin 12) : findReg .trv (0x100 + 4 * dp) = some missDesc := by
  revert dp
  decide +kernel

theorem Dev.trvMissWrite_ok (d : Dev) (dp : Fin 12) (v : Word)
    (h : v.getLsbD 31 = false ∨ d.programBad (bitsOf v.toNat 11 0) (bitsOf v.toNat 24 21) 0 = false) :
    d.trvMissWrite dp v.toNat = (.ok, (d.plainWrite pgTRV (0x100 + 4 * dp) v.toNat).2) := by
  have hbad : ¬(v.toNat.testBit 31 = true ∧ d.programBad (bitsOf v.toNat 11 0) (bitsOf v.toNat 24 21) 0 = true) := by
    rintro ⟨hen, hprog⟩
    rcases h with h | h
    · exact absurd (hen.symm.trans h) (by decide)
    · exact absurd (hprog.symm.trans h) (by decide)
  rw [Dev.trvMissWrite, if_neg hbad]
  exact Dev.plainWrite_status d _ (b := .trv) (inst := 0) rfl (findReg_miss dp) rfl

/-! ### The map of a pipeline (R134) -/

/-- The register of a pipeline's map. -/
def cplMapDesc : RegDesc := ⟨0x0E0, 4, 8, .refuge, true, [⟨31, 31, .rw, 0⟩, ⟨30, 30, .ro, 0⟩, ⟨23, 12, .rw, 0⟩, ⟨11, 0, .rw, 0⟩]⟩

theorem findReg_cplMap (p : Fin 8) : findReg .trv (0x0E0 + 4 * p) = some cplMapDesc := by
  revert p
  decide +kernel

section
variable (d : Dev) (p : Fin 8) (v : Nat)

/-- What a write of a map leaves in its fields: the sets as written, held as it was. -/
theorem Dev.plainWrite_cplMap_field {f : FieldDesc} (hf : f ∈ cplMapDesc.fields) :
    bitsOf ((d.plainWrite pgTRV (0x0E0 + 4 * p) v).2.word (regKey pgTRV (0x0E0 + 4 * p))) f.hi f.lo =
      fieldAfter f (d.word (regKey pgTRV (0x0E0 + 4 * p))) v (d.wlLocked.contains (regKey pgTRV (0x0E0 + 4 * p))) :=
  Dev.plainWrite_field (b := .trv) (inst := 0) d v rfl (findReg_cplMap p) hf

theorem Dev.plainWrite_cplMap_held :
    (d.plainWrite pgTRV (0x0E0 + 4 * p) v).2.flag TRV_CPL_MAPp_held p = d.flag TRV_CPL_MAPp_held p := by
  have h := (d.plainWrite_cplMap_field p v (f := ⟨30, 30, .ro, 0⟩) (by decide)).trans (fieldAfter_ro _ _ _ rfl)
  exact congrArg (· != 0) h

theorem Dev.plainWrite_cplMap_ingress : (d.plainWrite pgTRV (0x0E0 + 4 * p) v).2.rd TRV_CPL_MAPp_ingress p = bitsOf v 11 0 :=
  (d.plainWrite_cplMap_field p v (f := ⟨11, 0, .rw, 0⟩) (by decide)).trans (fieldAfter_rw _ _ _ rfl)

theorem Dev.plainWrite_cplMap_egress : (d.plainWrite pgTRV (0x0E0 + 4 * p) v).2.rd TRV_CPL_MAPp_egress p = bitsOf v 23 12 :=
  (d.plainWrite_cplMap_field p v (f := ⟨23, 12, .rw, 0⟩) (by decide)).trans (fieldAfter_rw _ _ _ rfl)

/-- The pipeline's own LOCK is on another page. -/
theorem Dev.plainWrite_cplMap_owner :
    (d.plainWrite pgTRV (0x0E0 + 4 * p) v).2.rd LOCK_owner 0 (pgCPL p) = d.rd LOCK_owner 0 (pgCPL p) := by
  rw [Dev.rd, Dev.plainWrite_word_ne _ _ _ _ (by simp only [Fld.key, regKey, pgCPL, pgTRV]; omega), Dev.rd]

end

/-- An enabled map that shares no datapath with another, of a pipeline that is free, claims the pipeline. -/
theorem Dev.cplMapWrite_claims (d : Dev) (p : Fin 8) (v : Word) (id : Nat) (hen : v.getLsbD 31 = true)
    (hheld : d.flag TRV_CPL_MAPp_held p = false) (hfree : d.rd LOCK_owner 0 (pgCPL p) = 0xFF)
    (hapart : ∀ k : Fin 8, k ≠ p → d.flag TRV_CPL_MAPp_en k = true →
      bitsOf v.toNat 11 0 &&& d.rd TRV_CPL_MAPp_ingress k = 0 ∧ bitsOf v.toNat 23 12 &&& d.rd TRV_CPL_MAPp_egress k = 0)
    (hid : lowestBit (bitsOf v.toNat 11 0 ||| bitsOf v.toNat 23 12) 12 = some id) :
    d.cplMapWrite p v.toNat = (.ok,
      ((d.plainWrite pgTRV (0x0E0 + 4 * p) v.toNat).2.lockChange (pgCPL p) id).wr TRV_CPL_MAPp_held 1 p) := by
  have hclash : (List.range 8).any (fun k => k != p.val && d.flag TRV_CPL_MAPp_en k &&
      ((bitsOf v.toNat 11 0 &&& d.rd TRV_CPL_MAPp_ingress k) != 0 || (bitsOf v.toNat 23 12 &&& d.rd TRV_CPL_MAPp_egress k) != 0)) = false := by
    rw [List.any_eq_false]
    intro k hk hbad
    simp only [Bool.and_eq_true, bne_iff_ne, ne_eq] at hbad
    obtain ⟨⟨hkp, hken⟩, hshare⟩ := hbad
    obtain ⟨hin, hout⟩ := hapart ⟨k, List.mem_range.mp hk⟩ (fun h => hkp (congrArg Fin.val h)) hken
    simp [hin, hout] at hshare
  have hbit : v.toNat.testBit 31 = true := hen
  simp only [Dev.cplMapWrite, hclash, hbit, Bool.and_false, Bool.false_eq_true, if_false, Dev.plainWrite_cplMap_held, hheld,
    Bool.not_false, and_self, if_true, Dev.cplClaim, Dev.plainWrite_cplMap_ingress, Dev.plainWrite_cplMap_egress, hid,
    Dev.plainWrite_cplMap_owner, hfree]

theorem Dev.cplMapRelease_idle (d : Dev) (p : Nat) (hheld : d.flag TRV_CPL_MAPp_held p = true) (hen : d.flag TRV_CPL_MAPp_en p = false)
    (hidle : d.trv.flights.any (fun f => f.pipe == some p) = false) :
    d.cplMapRelease p = (d.wr TRV_CPL_MAPp_held 0 p).lockChange (pgCPL p) 0xFF := by
  simp only [Dev.cplMapRelease, hheld, hen, hidle, Bool.not_false, Bool.and_self, if_true]

/-! ### Loss supervision (R141) -/

theorem Dev.lossScan_lost (d : Dev) (i : Nat) (e : TrvEntry) (he : d.entry i = e) (hvalid : e.valid = true) (heg : e.egress = false)
    (hto : e.lossTo ≠ 0) (hloss : e.inLoss = false) (hdue : e.kept + e.lossTo * cclkPerMs ≤ d.cclk) :
    d.lossScan i = ((d.setEntry i { e with inLoss := true }).trvRec i 0x5010 5 0).lossNote e.lossGrp := by
  have hto' : (e.lossTo != 0) = true := bne_iff_ne.mpr hto
  simp only [Dev.lossScan, he, hvalid, heg, hto', hloss, hdue, decide_true, Bool.not_false, Bool.and_self, if_true]

/-! ### What each command gives -/

theorem trvIngressProgram_gives (s : State) (dp : Fin 12) (authOver : Bool) (f : Flight) (hon : s.on)
    (hfind : s.dev.trv.flights.find? (·.dp == dp.val) = some f) (hmal : f.mal = none) (hfcs : f.h.fcsBad = false)
    (hprog : f.prog.all (fun t => stepOp t == 0 || decide (5 ≤ stepOp t)) = true) :
    Gives (.trvIngressProgram dp authOver [] none) s (fun d =>
      let d := { d with trv := { d.trv with flights := d.trv.flights.erase f } }
      let x : Pass := { dp := dp, entry := f.entry, e := f.e, egress := false, bytes := f.h.bytes, info := f.h.info, stamp := f.h.stamp
                        itemTime := 0, steps := f.prog }
      let act := d.action f.e.dispo 0
      (Dev.outputSteps act f.prog x (if act.testBit 3 then d.keepState x else d)).unstage f.vc f.plan) := by
  refine Gives.of_act (fun d => (dpOrder s.rr [(dp.val, authOver)]).foldl (fun d x => d.trvIngress x.1 x.2) (d.withBreak none)) hon rfl ?_
  rw [dpOrder_one, Dev.withBreak_none]
  exact Dev.trvIngress_clean s.dev.cleared dp authOver f hfind hmal hfcs rfl hprog

section
variable (s : State) (n : Fin 16384) (info : FrameMeta) (brk : Option (Fin 8)) (q : Queue) (e : TrvEntry) (hon : s.on)
  (hq : s.dev.q n = q) (hqv : q.valid = true) (hkind : q.consKind = 1) (hitem : q.unclaimed ≠ 0) (hclaim : q.claimed = 0)
  (he : s.dev.entry q.consId = e) (hev : e.valid = true) (heg : e.egress = true)
  (hload : ((s.dev.cleared.withBreak brk).hwLoad e.datapath (q.slotAddr q.cons) q.slot).1 = .ok)
include hon hq hqv hkind hitem hclaim he hev heg hload

theorem trvEgressProgram_gives
    (hvoid : (parseHdr ((s.dev.cleared.withBreak brk).hwLoad e.datapath (q.slotAddr q.cons) q.slot).2.1).flags.testBit 3 = false) :
    Gives (.trvEgressProgram n info brk) s (fun d =>
      let x := (d.withBreak brk).hwLoad e.datapath (q.slotAddr q.cons) q.slot
      let h := parseHdr x.2.1
      ((x.2.2.claimItems n 1).egressProgram e q.consId (slice x.2.1 16 h.len) h.time info).freeItems n 1) := by
  refine Gives.of_act (fun d => (d.withBreak brk).trvEgress n info) hon rfl ?_
  have hitem := Dev.trvEgress_item (s.dev.cleared.withBreak brk) (info := info) hq hqv hkind hitem hclaim he hev heg hload
  simp only [hvoid, Bool.false_eq_true, if_false] at hitem
  exact hitem

theorem trvEgressProgram_void_gives
    (hvoid : (parseHdr ((s.dev.cleared.withBreak brk).hwLoad e.datapath (q.slotAddr q.cons) q.slot).2.1).flags.testBit 3 = true) :
    Gives (.trvEgressProgram n info brk) s (fun d =>
      (((d.withBreak brk).hwLoad e.datapath (q.slotAddr q.cons) q.slot).2.2.claimItems n 1).freeItems n 1) := by
  refine Gives.of_act (fun d => (d.withBreak brk).trvEgress n info) hon rfl ?_
  have hitem := Dev.trvEgress_item (s.dev.cleared.withBreak brk) (info := info) hq hqv hkind hitem hclaim he hev heg hload
  simp only [hvoid, if_true] at hitem
  exact hitem

end

theorem trvCplMapWrite_effects (s : State) (r : Req) (p : Fin 8) (v : Word) (id : Nat) (hacc : s.accepts r pgTRV (0x0E0 + 4 * p))
    (hen : v.getLsbD 31 = true) (hheld : s.dev.flag TRV_CPL_MAPp_held p = false) (hfree : s.dev.rd LOCK_owner 0 (pgCPL p) = 0xFF)
    (hapart : ∀ k : Fin 8, k ≠ p → s.dev.flag TRV_CPL_MAPp_en k = true →
      bitsOf v.toNat 11 0 &&& s.dev.rd TRV_CPL_MAPp_ingress k = 0 ∧ bitsOf v.toNat 23 12 &&& s.dev.rd TRV_CPL_MAPp_egress k = 0)
    (hid : lowestBit (bitsOf v.toNat 11 0 ||| bitsOf v.toNat 23 12) 12 = some id) :
    Effects (.trvCplMapWrite r p v) s pgTRV (fun d =>
      ((d.plainWrite pgTRV (0x0E0 + 4 * p) v.toNat).2.lockChange (pgCPL p) id).wr TRV_CPL_MAPp_held 1 p) :=
  Effects.of_trvWrite hacc (by omega) rfl
    ((Dev.trvWrite_cplMap s.dev.cleared p v.toNat).trans (Dev.cplMapWrite_claims s.dev.cleared p v id hen hheld hfree hapart hid))

/-- Settles O16, clause by clause: what a frame or an item leaves when its program runs, and what each command of the page gives. -/
theorem traverseCompletes : Obligations.TraverseCompletes :=
  ⟨fun s dp authOver same brk hon =>
      Gives.of_act (fun d => (dpOrder s.rr ((dp.val, authOver) :: same.map (fun x => (x.1.val, x.2)))).foldl
        (fun d x => d.trvIngress x.1 x.2) (d.withBreak brk)) hon rfl rfl,
    trvIngressProgram_gives, trvEgressProgram_gives, trvEgressProgram_void_gives,
    fun s _ i hacc hsel hvalid hst hloss =>
      Effects.of_trvWrite hacc (by decide) rfl (Dev.trvCommit_ok s.dev.cleared i hsel hvalid hst hloss),
    fun s _ i hacc hsel hloss => Effects.of_trvWrite hacc (by decide) rfl (Dev.trvInvalidate_ok s.dev.cleared i hsel hloss),
    fun _ _ _ hacc he => Effects.of_trvWrite hacc (by decide) rfl (by subst he; rfl),
    fun s _ v hacc href => Effects.of_trvWrite hacc (by decide) rfl (Dev.trvStepWrite_ok s.dev.cleared v.toNat href),
    fun s _ dp v hacc h => Effects.of_trvWrite hacc (by omega) rfl
      ((Dev.trvWrite_miss s.dev.cleared dp v.toNat).trans (Dev.trvMissWrite_ok s.dev.cleared dp v h)),
    trvCplMapWrite_effects,
    fun s p hon hheld hen hidle => Gives.of_act (fun d => d.cplMapRelease p) hon rfl (Dev.cplMapRelease_idle s.dev.cleared p hheld hen hidle),
    fun s i e hon he hvalid heg hto hloss hdue =>
      Gives.of_act (fun d => d.lossScan i) hon rfl (Dev.lossScan_lost s.dev.cleared i e he hvalid heg hto hloss hdue)⟩

end Sys2Proof.Machine
end

section
/-! SUPPORT. An engine's instruction from its command to the state it leaves, and accesses through address generators (R226 to R229, R239,
R243, R260). -/

namespace Sys2Proof.Machine

open Sys2Proof

/-! ### The issue of one instruction -/

theorem Dev.setPc_mod (d : Dev) (e pc : Nat) : d.setPc e (pc % 65536) = d.setPc e pc := by
  simp only [Dev.setPc, Nat.mod_mod]

/-- A command that issues an instruction of an engine that is ready gives what the instruction leaves. -/
theorem Gives.of_issue {c : Instr} {s : State} {f : Dev → Dev} {e len : Nat} (act : Dev → Nat → Nat → Fx) (hiss : s.issues e)
    (hexec : exec c s = s.act (fun d => d.issue e len act))
    (heff : Dev.finish e (s.dev.engOf e).pc (s.dev.after e len) (act s.dev.cleared (s.dev.engOf e).pc (s.dev.after e len)) = f s.dev.cleared) :
    Gives c s f := by
  obtain ⟨hon, hrun, hcause⟩ := hiss
  refine Gives.of_act _ hon hexec ?_
  rw [Dev.issue_ready s.dev.cleared e len act hrun hcause]
  exact heff

/-- An instruction that goes on to the next one leaves its effect and the pc past it. -/
theorem Gives.of_next {c : Instr} {s : State} {g : Dev → Dev} {e len : Nat} (act : Dev → Nat → Nat → Fx) (hiss : s.issues e)
    (hexec : exec c s = s.act (fun d => d.issue e len act)) (heff : ∀ pc nx, act s.dev.cleared pc nx = .next (g s.dev.cleared)) :
    Gives c s (fun d => (g d).setPc e ((d.engOf e).pc + len)) := by
  refine Gives.of_issue act hiss hexec ?_
  rw [heff]
  exact Dev.setPc_mod _ _ _

/-- An address generator does not turn on the answer and the outputs of the command before. -/
theorem Dev.gen_cleared (d : Dev) (e m : Nat) : d.cleared.gen e m = d.gen e m := rfl

/-! ### The writers of one CCLK -/

/-- A load does not turn on who else writes in its CCLK. -/
theorem Dev.engLoad_laterOf (d : Dev) (e : Fin 96) (a n : Nat) (v : MemEnv) (rr : Nat) (r : Req) :
    d.engLoad e a n (laterOf v rr r) = d.engLoad e a n v := rfl

theorem Dev.loadElements_laterOf (d : Dev) (e : Fin 96) (es : Nat) (v : MemEnv) (rr : Nat) (r : Req) (as : List Nat) :
    d.loadElements e es (laterOf v rr r) as = d.loadElements e es v as := by
  cases as <;> rfl

/-! ### Loads and stores at an address -/

theorem loadThen_ok {x : Status × Nat × Dev} (a : Nat) (k : Nat → Dev → Fx) (h : x.1 = .ok) : loadThen x a k = k x.2.1 x.2.2 := if_pos h

theorem storeThen_ok {x : Status × Dev} (a : Nat) (k : Dev → Fx) (h : x.1 = .ok) : storeThen x a k = k x.2 := if_pos h

/-- ldh and ldb extend the sign of what they load. -/
theorem ofInt_signed (w n : Nat) : BitVec.ofInt 32 (signed w n) = (BitVec.ofNat w n).signExtend 32 := by
  simp only [BitVec.signExtend, BitVec.toInt, BitVec.toNat_ofNat, signed]

section
variable {d : Dev} {e : Fin 96} {op a : Nat} {v : MemEnv}

theorem Dev.scalarAt_load (rd : Nat) (k : Dev → Dev) (hop : op < 5) (halign : a % opWidth op = 0) (hok : (d.engLoad e a (opWidth op) v).1 = .ok) :
    d.scalarAt e op rd a v k =
      .next (k ((d.engLoad e a (opWidth op) v).2.2.setGr e rd (loaded op (d.engLoad e a (opWidth op) v).2.1))) := by
  rw [Dev.scalarAt, if_neg (not_not.mpr halign), if_pos hop, loadThen_ok _ _ hok]

theorem Dev.scalarAt_store (rd : Nat) (k : Dev → Dev) (hop : ¬op < 5) (halign : a % opWidth op = 0)
    (hok : (d.engStore e a (leBytes (d.gr e rd).toNat (opWidth op)) v).1 = .ok) :
    d.scalarAt e op rd a v k = .next (k (d.engStore e a (leBytes (d.gr e rd).toNat (opWidth op)) v).2) := by
  rw [Dev.scalarAt, if_neg (not_not.mpr halign), if_neg hop, storeThen_ok _ _ hok]

end

/-! ### Scalar accesses through a generator (R226, R243) -/

/-- The widths of the five loads and of the three stores. -/
theorem opWidth_load (op : Fin 5) : opWidth op = [4, 2, 2, 1, 1].getD op 0 := by fin_cases op <;> rfl

theorem opWidth_store (op : Fin 3) : opWidth (5 + op) = [4, 2, 1].getD op 0 := by fin_cases op <;> rfl

theorem loaded_eq (op : Fin 5) (x : Nat) :
    loaded op x = (match op.val with
      | 1 => (BitVec.ofNat 16 x).signExtend 32
      | 3 => (BitVec.ofNat 8 x).signExtend 32
      | _ => BitVec.ofNat 32 x) := by
  fin_cases op
  · rfl
  · exact ofInt_signed 16 x
  · rfl
  · exact ofInt_signed 8 x
  · rfl

theorem agLoad_loadsTo (s : State) (e : Fin 96) (short : Bool) (op : Fin 5) (rd : Fin 32) (m : Fin 8) (upd : Bool) (v : MemEnv)
    (hiss : s.issues e) (hvalid : (s.dev.gen e m).valid = true) :
    LoadsTo (.agLoad e short op rd m upd v) s e (s.dev.gen e m).addr ([4, 2, 2, 1, 1].getD op 0) (formLen short) v (fun x d =>
      let d := d.setGr e rd (match op.val with
        | 1 => (BitVec.ofNat 16 x).signExtend 32
        | 3 => (BitVec.ofNat 8 x).signExtend 32
        | _ => BitVec.ofNat 32 x)
      if upd then d.setGen e m (d.gen e m).next else d) := by
  intro halign hok
  rw [← opWidth_load] at halign hok ⊢
  simp only [← loaded_eq]
  refine Gives.of_next (g := fun d => ((d.engLoad e (s.dev.gen e m).addr (opWidth op) v).2.2.setGr e rd
      (loaded op (d.engLoad e (s.dev.gen e m).addr (opWidth op) v).2.1)).bumpGen e m upd)
    (fun d _ _ => d.opAg e op rd m upd (laterOf v s.rr (.eng e))) hiss rfl fun _ _ => ?_
  simp only [Dev.opAg, Dev.gen_cleared, hvalid, Bool.not_true, Bool.false_eq_true, if_false]
  exact Dev.scalarAt_load rd (fun d => d.bumpGen e m upd) op.isLt halign hok

theorem agStore_storesTo (s : State) (e : Fin 96) (short : Bool) (op : Fin 3) (rd : Fin 32) (m : Fin 8) (upd : Bool) (v : MemEnv)
    (hiss : s.issues e) (hvalid : (s.dev.gen e m).valid = true) :
    StoresTo (.agStore e short op rd m upd v) s e (s.dev.gen e m).addr (leBytes (s.dev.gr e rd).toNat ([4, 2, 1].getD op 0)) (formLen short) v
      (fun d => if upd then d.setGen e m (d.gen e m).next else d) := by
  intro halign hok
  rw [leBytes_length] at halign
  rw [← opWidth_store] at halign hok ⊢
  refine Gives.of_next (g := fun d => (d.engStore e (s.dev.gen e m).addr (leBytes (s.dev.gr e rd).toNat (opWidth (5 + op)))
      (laterOf v s.rr (.eng e))).2.bumpGen e m upd)
    (fun d _ _ => d.opAg e (5 + op) rd m upd (laterOf v s.rr (.eng e))) hiss rfl fun _ _ => ?_
  simp only [Dev.opAg, Dev.gen_cleared, hvalid, Bool.not_true, Bool.false_eq_true, if_false]
  exact Dev.scalarAt_store rd (fun d => d.bumpGen e m upd) (by omega) halign hok

/-! ### Vector accesses (R228, R229) -/

section
variable (s : State) (e : Fin 96) (vd : Fin 16) (m : Fin 8) (sz upd : Bool) (v : MemEnv) (hiss : s.issues e)
  (hvalid : (s.dev.gen e m).valid = true)
include hiss hvalid

theorem vld_gives (hcirc : (s.dev.gen e m).circular = false) (halign : (s.dev.gen e m).misaligned (elW sz / 8) = none)
    (hok : (s.dev.cleared.engLoad e (s.dev.gen e m).addr 16 v).1 = .ok) :
    Gives (.vld e vd m sz upd v) s (fun d =>
      let x := d.engLoad e (d.gen e m).addr 16 v
      let y := x.2.2.setVr e vd (BitVec.ofNat 128 x.2.1)
      (if upd then y.setGen e m (y.gen e m).next else y).setPc e ((d.engOf e).pc + 4)) := by
  refine Gives.of_next (g := fun d => ((d.engLoad e (d.gen e m).addr 16 v).2.2.setVr e vd
      (BitVec.ofNat 128 (d.engLoad e (d.gen e m).addr 16 v).2.1)).bumpGen e m upd)
    (fun d _ _ => d.opVec e false vd m sz upd (laterOf v s.rr (.eng e))) hiss rfl fun _ _ => ?_
  simp only [Dev.opVec, Dev.gen_cleared, hvalid, hcirc, halign, Bool.not_true, Bool.false_eq_true, if_false]
  exact loadThen_ok _ _ hok

theorem vld_circular_gives (hcirc : (s.dev.gen e m).circular = true) (halign : (s.dev.gen e m).misaligned (elW sz / 8) = none)
    (hok : (s.dev.cleared.loadElements e (elW sz / 8) v ((s.dev.gen e m).elements (elW sz / 8))).1 = .ok) :
    Gives (.vld e vd m sz upd v) s (fun d =>
      let x := d.loadElements e (elW sz / 8) v ((d.gen e m).elements (elW sz / 8))
      let y := x.2.2.setVr e vd (BitVec.ofNat 128 x.2.1)
      (if upd then y.setGen e m (y.gen e m).next else y).setPc e ((d.engOf e).pc + 4)) := by
  refine Gives.of_next (g := fun d =>
      ((d.loadElements e (elW sz / 8) v ((d.gen e m).elements (elW sz / 8))).2.2.setVr e vd
        (BitVec.ofNat 128 (d.loadElements e (elW sz / 8) v ((d.gen e m).elements (elW sz / 8))).2.1)).bumpGen e m upd)
    (fun d _ _ => d.opVec e false vd m sz upd (laterOf v s.rr (.eng e))) hiss rfl fun _ _ => ?_
  simp only [Dev.opVec, Dev.gen_cleared, hvalid, hcirc, halign, Bool.not_true, Bool.false_eq_true, if_false, if_true, Dev.loadElements_laterOf]
  exact loadThen_ok _ _ hok

theorem vst_gives (hcirc : (s.dev.gen e m).circular = false) (halign : (s.dev.gen e m).misaligned (elW sz / 8) = none)
    (hok : (s.dev.cleared.engStore e (s.dev.gen e m).addr (leBytes (s.dev.vr e vd).toNat 16) (laterOf v s.rr (.eng e))).1 = .ok) :
    Gives (.vst e vd m sz upd v) s (fun d =>
      let y := (d.engStore e (d.gen e m).addr (leBytes (d.vr e vd).toNat 16) (laterOf v s.rr (.eng e))).2
      (if upd then y.setGen e m (y.gen e m).next else y).setPc e ((d.engOf e).pc + 4)) := by
  refine Gives.of_next (g := fun d =>
      (d.engStore e (d.gen e m).addr (leBytes (d.vr e vd).toNat 16) (laterOf v s.rr (.eng e))).2.bumpGen e m upd)
    (c := .vst e vd m sz upd v) (fun d _ _ => d.opVec e true vd m sz upd (laterOf v s.rr (.eng e))) hiss rfl fun _ _ => ?_
  simp only [Dev.opVec, Dev.gen_cleared, hvalid, hcirc, halign, Bool.not_true, Bool.false_eq_true, if_false, if_true]
  exact storeThen_ok _ _ hok

end

/-- Elements that all lie in data memory are stored one after another. -/
theorem Dev.storeElements_inside (d : Dev) (e : Fin 96) (es w : Nat) (v : MemEnv) (as : List Nat) (h : ∀ a ∈ as, a + es ≤ 0x20000) :
    d.storeElements e es w v as = (.ok, as.zipIdx.foldl (fun y p =>
      (y.engStore e p.1 (leBytes (w / 2 ^ (8 * es * p.2)) es) { v with parity := false, ecc := 0 }).2) d) := by
  have hin : as.any (fun a => decide (0x20000 < a + es)) = false := by
    simp only [List.any_eq_false, decide_eq_true_eq, Nat.not_lt]
    exact h
  have hswap : (List.range as.length).zip as = as.zipIdx.map Prod.swap := by
    rw [List.zipIdx_eq_zip_range', List.range_eq_range', List.zip_swap]
  rw [Dev.storeElements, if_neg (by rw [hin]; decide), hswap, List.foldl_map]
  rfl

theorem vst_circular_gives (s : State) (e : Fin 96) (vd : Fin 16) (m : Fin 8) (sz upd : Bool) (v : MemEnv) (hiss : s.issues e)
    (hvalid : (s.dev.gen e m).valid = true) (hcirc : (s.dev.gen e m).circular = true)
    (halign : (s.dev.gen e m).misaligned (elW sz / 8) = none)
    (hin : ∀ a ∈ (s.dev.gen e m).elements (elW sz / 8), a + elW sz / 8 ≤ 0x20000) :
    Gives (.vst e vd m sz upd v) s (fun d =>
      let es := elW sz / 8
      let y := ((d.gen e m).elements es).zipIdx.foldl (fun y p =>
        (y.engStore e p.1 (leBytes ((d.vr e vd).toNat / 2 ^ (8 * es * p.2)) es)
          { laterOf v s.rr (.eng e) with parity := false, ecc := 0 }).2) d
      (if upd then y.setGen e m (y.gen e m).next else y).setPc e ((d.engOf e).pc + 4)) := by
  refine Gives.of_next (g := fun d => (((d.gen e m).elements (elW sz / 8)).zipIdx.foldl (fun y p =>
        (y.engStore e p.1 (leBytes ((d.vr e vd).toNat / 2 ^ (8 * (elW sz / 8) * p.2)) (elW sz / 8))
          { laterOf v s.rr (.eng e) with parity := false, ecc := 0 }).2) d).bumpGen e m upd)
    (c := .vst e vd m sz upd v) (fun d _ _ => d.opVec e true vd m sz upd (laterOf v s.rr (.eng e))) hiss rfl fun _ _ => ?_
  simp only [Dev.opVec, Dev.gen_cleared, hvalid, hcirc, halign, Bool.not_true, Bool.false_eq_true, if_false, if_true]
  rw [Dev.storeElements_inside _ _ _ _ _ _ hin, storeThen_ok _ _ rfl]

theorem vldr_gives (s : State) (e : Fin 96) (vd : Fin 16) (m : Fin 8) (sz upd : Bool) (v : MemEnv) (hiss : s.issues e)
    (hvalid : (s.dev.gen e m).valid = true) (halign : (s.dev.gen e m).addr % (elW sz / 8) = 0)
    (hok : (s.dev.cleared.engLoad e (s.dev.gen e m).addr (elW sz / 8) v).1 = .ok) :
    Gives (.vldr e vd m sz upd v) s (fun d =>
      let x := d.engLoad e (d.gen e m).addr (elW sz / 8) v
      let y := x.2.2.setVr e vd (vecOf sz (List.replicate (elN sz) x.2.1))
      (if upd then y.setGen e m (y.gen e m).next else y).setPc e ((d.engOf e).pc + 4)) := by
  refine Gives.of_next (g := fun d => ((d.engLoad e (d.gen e m).addr (elW sz / 8) v).2.2.setVr e vd
      (vecOf sz (List.replicate (elN sz) (d.engLoad e (d.gen e m).addr (elW sz / 8) v).2.1))).bumpGen e m upd)
    (fun d _ _ => d.opVldr e vd m sz upd (laterOf v s.rr (.eng e))) hiss rfl fun _ _ => ?_
  simp only [Dev.opVldr, Dev.gen_cleared, hvalid, halign, Bool.not_true, Bool.false_eq_true, if_false, ne_eq, not_true]
  exact loadThen_ok _ _ hok

end Sys2Proof.Machine
end

section
/-! SUPPORT. The atomic instructions: one operation on a word of data memory or of the cluster memory, and two of one CCLK (R25, R231). -/

namespace Sys2Proof.Machine

open Sys2Proof

/-! ### What a load of a local memory leaves -/

/-- The addresses that an atomic instruction reaches: the engine's data memory and its cluster's memory. -/
abbrev LocalAddr (a : Nat) : Prop := a < 0x20000 ∨ 0x100000 ≤ a ∧ a < 0x200000

theorem memClass_engData (e : Fin 96) {a : Nat} (h : a < 0x20000) : memClass (engData e + a) = some 1 := by
  have he := e.isLt
  unfold memClass engData engBase
  rw [if_pos (by omega)]
  have hoff : (0x01000000 + e.val * 0x40000 + 0x20000 + a - 0x01000000) % 0x40000 = 0x20000 + a := by omega
  simp only [hoff]
  rw [if_neg (by omega), if_pos (by omega)]

theorem memClass_cluster (e : Fin 96) {a : Nat} (h : a < 0x100000) : memClass (cluBase (engClu e) + a) = some 2 := by
  have he := e.isLt
  unfold memClass cluBase engClu
  rw [if_neg (by omega), if_pos (by omega)]

/-- A word at such an address is SRAM of class 1 or 2. -/
theorem Dev.engMap_local (d : Dev) (e : Fin 96) {a : Nat} (hlocal : LocalAddr a) (halign : a % 4 = 0) :
    memClass (d.engMap e false a 4).2 = some 1 ∨ memClass (d.engMap e false a 4).2 = some 2 := by
  unfold Dev.engMap
  rcases hlocal with h | ⟨hlo, hhi⟩
  · rw [if_pos (by omega)]
    exact .inl (memClass_engData e h)
  · rw [if_neg (by omega), if_pos (by omega)]
    exact .inr (memClass_cluster e (by omega))

theorem Dev.setRate_eng (d : Dev) (key : Nat) (x : Rate) : (d.setRate key x).eng = d.eng := rfl

theorem Dev.direct_eng (d : Dev) (block : Nat) (x : Rec) : (d.direct block x).eng = d.eng := rfl

theorem Dev.correctedAt_eng (d : Dev) (page c a : Nat) : (d.correctedAt page c a).eng = d.eng := by
  have hcount : (if c = 6 then d.bump DRC_ECC_corrected 1 0 (a / 256 % 2) else d).eng = d.eng := by
    rw [apply_ite Dev.eng, Dev.bump, Dev.wr_eng, ite_self]
  simp only [Dev.correctedAt]
  split
  · rw [Dev.setRate_eng, hcount]
  · rw [apply_ite Dev.eng, Dev.direct_eng, Dev.setRate_eng, Dev.setRate_eng, ite_self, hcount]

theorem Dev.upset_eng (d : Dev) (a ecc : Nat) : (d.upset a ecc).eng = d.eng := by
  unfold Dev.upset
  split
  · rfl
  · dsimp only
    split
    · split
      · rfl
      · exact Dev.correctedAt_eng ..
    · rfl
    · split <;> rfl
    · rfl

theorem Dev.memGuard_ok_eng (d : Dev) (who a : Nat) (v : MemEnv) (h : (d.memGuard who a v).1 = .ok) :
    (d.memGuard who a v).2.eng = d.eng := by
  unfold Dev.memGuard at h ⊢
  split
  · split
    · simp_all
    · exact Dev.upset_eng ..
  · exact Dev.upset_eng ..

/-- A load of SRAM that succeeds changes nothing. -/
theorem Dev.memLoad_sram (d : Dev) (r : Req) {a : Nat} (n : Nat) (hclass : memClass a = some 1 ∨ memClass a = some 2)
    (h : (d.memLoad r a n).1 = .ok) : (d.memLoad r a n).2.2 = d := by
  obtain ⟨c, hc, h7, h6⟩ : ∃ c, memClass a = some c ∧ c ≠ 7 ∧ c ≠ 6 := by
    rcases hclass with hc | hc
    · exact ⟨1, hc, by decide, by decide⟩
    · exact ⟨2, hc, by decide, by decide⟩
  by_cases hst : d.hwStatus c a n = .ok
  · cases hrow : d.counterBad (codeWords c a n) with
    | some row => simp [Dev.memLoad, hc, hst, hrow] at h
    | none =>
      cases hword : d.firstBad c a n with
      | some w => simp [Dev.memLoad, hc, hst, hrow, hword] at h
      | none => simp [Dev.memLoad, hc, hst, hrow, hword, Dev.linesRead, h6]
  · simp [Dev.memLoad, hc, hst] at h

/-- A load of a local memory that succeeds leaves every engine as it was. -/
theorem Dev.engLoad_local_eng (d : Dev) (e : Fin 96) {a : Nat} (v : MemEnv) (hlocal : LocalAddr a) (halign : a % 4 = 0)
    (hok : (d.engLoad e a 4 v).1 = .ok) : (d.engLoad e a 4 v).2.2.eng = d.eng := by
  have hpage : ¬0xF0000000 ≤ a := by rcases hlocal with h | h <;> omega
  by_cases hmap : (d.engMap e false a 4).1 = .ok
  · by_cases hguard : (d.memGuard (0x10 + e) (d.engMap e false a 4).2 v).1 = .ok
    · simp only [Dev.engLoad, if_neg hpage, hmap, hguard, ne_eq, not_true, if_false] at hok ⊢
      rw [Dev.memLoad_sram _ _ _ (d.engMap_local e hlocal halign) hok]
      exact Dev.memGuard_ok_eng _ _ _ _ hguard
    · simp only [Dev.engLoad, if_neg hpage, hmap, hguard, ne_eq, not_true, not_false_eq_true, if_true, if_false] at hok
  · simp only [Dev.engLoad, if_neg hpage, hmap, ne_eq, not_false_eq_true, if_true] at hok

theorem Dev.gr_of_eng {d d' : Dev} (h : d'.eng = d.eng) (e r : Nat) : d'.gr e r = d.gr e r := by
  simp only [Dev.gr, Dev.engOf, h]

/-! ### One atomic operation -/

theorem Dev.atomics_one (d : Dev) (rr : Nat) (x : Atomic) :
    d.atomics rr [x] = d.issue x.e 4 (fun d _ _ => d.opAtomic x.e x.op.val x.rd x.rs x.rt (laterOf x.v rr (.eng x.e))) := by
  have h := flatMap_range_one (f := fun x : Atomic => rank rr (.eng x.e)) (p := fun k x => rank rr (.eng x.e) == k) (fun _ _ => rfl) x 112
  rw [if_pos (rank_lt ..)] at h
  rw [Dev.atomics, h]
  rfl

/-- Two atomic operations of one CCLK run in the order of R25, whichever is named first. -/
theorem Dev.atomics_two (d : Dev) (rr : Nat) {x y : Atomic} {l : List Atomic} (hl : l = [x, y] ∨ l = [y, x])
    (hxy : rank rr (.eng x.e) < rank rr (.eng y.e)) :
    d.atomics rr l = [x, y].foldl (fun d z => d.issue z.e 4 (fun d _ _ =>
      d.opAtomic z.e z.op.val z.rd z.rs z.rt (laterOf z.v rr (.eng z.e)))) d := by
  have h := flatMap_range_two (f := fun x : Atomic => rank rr (.eng x.e)) (p := fun k x => rank rr (.eng x.e) == k) (fun _ _ => rfl) hl
    hxy 112 (rank_lt ..)
  rw [Dev.atomics, h]

/-- What a compare-and-swap, a swap or an addition stores: `o` is the word found, `t` and `r` are what rt and rd hold. -/
def atomicStored (op : Nat) (o t r : Word) : Word :=
  match op with
  | 0 => t
  | 1 => o + t
  | _ => if o = r then t else o

section
variable {d : Dev} {e : Fin 96} {rs a rr : Nat} {r : Req} {v w : MemEnv} (hw : w = { laterOf v rr r with parity := false, ecc := 0 })
  (ha : a = (d.gr e rs).toNat) (halign : a % 4 = 0) (hlocal : LocalAddr a) (hload : (d.engLoad e a 4 v).1 = .ok)
include hw ha halign hlocal hload

/-- An atomic operation whose load succeeds stores from the registers as they stood before it. -/
theorem Dev.opAtomic_loaded (op rd rt : Nat) :
    d.opAtomic e op rd rs rt (laterOf v rr r) =
      (let x := d.engLoad e a 4 v
       let o := BitVec.ofNat 32 x.2.1
       storeThen (if op = 2 ∧ o ≠ d.gr e rd then (.ok, x.2.2)
           else x.2.2.engStore e a (leBytes (atomicStored op o (d.gr e rt) (d.gr e rd)).toNat 4) w) a
         (fun d => .next (d.setGr e rd o))) := by
  have hreg : (decide (a < 0x20000) || (decide (0x100000 ≤ a) && decide (a < 0x200000))) = true := by simpa using hlocal
  have hgr (k : Nat) : (d.engLoad e a 4 v).2.2.gr e k = d.gr e k := Dev.gr_of_eng (d.engLoad_local_eng e v hlocal halign hload) e k
  subst hw
  simp only [Dev.opAtomic, ← ha, halign, hreg, Dev.engLoad_laterOf, ne_eq, not_true, Bool.not_true, Bool.false_eq_true, if_false,
    loadThen_ok _ _ hload, hgr]
  rfl

theorem Dev.opAtomic_swap (rd rt : Nat) (hstore : ((d.engLoad e a 4 v).2.2.engStore e a (leBytes (d.gr e rt).toNat 4) w).1 = .ok) :
    d.opAtomic e 0 rd rs rt (laterOf v rr r) = .next (((d.engLoad e a 4 v).2.2.engStore e a (leBytes (d.gr e rt).toNat 4) w).2.setGr e rd
      (BitVec.ofNat 32 (d.engLoad e a 4 v).2.1)) := by
  rw [Dev.opAtomic_loaded hw ha halign hlocal hload]
  exact storeThen_ok _ _ hstore

theorem Dev.opAtomic_add (rd rt : Nat) {b : List Byte} (hb : b = leBytes (BitVec.ofNat 32 (d.engLoad e a 4 v).2.1 + d.gr e rt).toNat 4)
    (hstore : ((d.engLoad e a 4 v).2.2.engStore e a b w).1 = .ok) :
    d.opAtomic e 1 rd rs rt (laterOf v rr r) = .next (((d.engLoad e a 4 v).2.2.engStore e a b w).2.setGr e rd
      (BitVec.ofNat 32 (d.engLoad e a 4 v).2.1)) := by
  rw [Dev.opAtomic_loaded hw ha halign hlocal hload]
  subst hb
  exact storeThen_ok _ _ hstore

theorem Dev.opAtomic_cas_equal (rd rt : Nat) (heq : BitVec.ofNat 32 (d.engLoad e a 4 v).2.1 = d.gr e rd)
    (hstore : ((d.engLoad e a 4 v).2.2.engStore e a (leBytes (d.gr e rt).toNat 4) w).1 = .ok) :
    d.opAtomic e 2 rd rs rt (laterOf v rr r) = .next (((d.engLoad e a 4 v).2.2.engStore e a (leBytes (d.gr e rt).toNat 4) w).2.setGr e rd
      (BitVec.ofNat 32 (d.engLoad e a 4 v).2.1)) := by
  rw [Dev.opAtomic_loaded hw ha halign hlocal hload]
  simp only [heq, ne_eq, not_true, and_false, if_false, atomicStored, if_true]
  exact storeThen_ok _ _ hstore

omit hw in
/-- A compare that fails stores nothing. -/
theorem Dev.opAtomic_cas_differs (rd rt : Nat) (hne : BitVec.ofNat 32 (d.engLoad e a 4 v).2.1 ≠ d.gr e rd) :
    d.opAtomic e 2 rd rs rt (laterOf v rr r) =
      .next ((d.engLoad e a 4 v).2.2.setGr e rd (BitVec.ofNat 32 (d.engLoad e a 4 v).2.1)) := by
  rw [Dev.opAtomic_loaded rfl ha halign hlocal hload]
  dsimp only
  rw [if_pos ⟨rfl, hne⟩]
  exact storeThen_ok _ _ rfl

end

/-! ### What each command gives -/

/-- A command of one atomic operation that goes on to the next instruction. -/
theorem Gives.of_atomic {c : Instr} {s : State} {g : Dev → Dev} (x : Atomic) (hiss : s.issues x.e)
    (hexec : exec c s = s.act (fun d => d.atomics s.rr [x]))
    (heff : s.dev.cleared.opAtomic x.e x.op.val x.rd x.rs x.rt (laterOf x.v s.rr (.eng x.e)) = .next (g s.dev.cleared)) :
    Gives c s (fun d => (g d).setPc x.e ((d.engOf x.e).pc + 4)) :=
  Gives.of_next (fun d _ _ => d.opAtomic x.e x.op.val x.rd x.rs x.rt (laterOf x.v s.rr (.eng x.e))) hiss
    (hexec.trans (congrArg s.act (funext fun d => d.atomics_one s.rr x))) fun _ _ => heff

section
variable (s : State) (e : Fin 96) (rd rs rt : Fin 32) (v w : MemEnv) (a : Nat) (hiss : s.issues e)
  (hw : w = { laterOf v s.rr (.eng e) with parity := false, ecc := 0 }) (ha : a = (s.dev.gr e rs).toNat) (halign : a % 4 = 0)
  (hlocal : a < 0x20000 ∨ 0x100000 ≤ a ∧ a < 0x200000) (hload : (s.dev.cleared.engLoad e a 4 v).1 = .ok)
include hiss hw ha halign hlocal hload

theorem atswap_gives (hstore : ((s.dev.cleared.engLoad e a 4 v).2.2.engStore e a (leBytes (s.dev.gr e rt).toNat 4) w).1 = .ok) :
    Gives (.atswap e rd rs rt v []) s (fun d =>
      let x := d.engLoad e a 4 v
      let y := (x.2.2.engStore e a (leBytes (d.gr e rt).toNat 4) w).2
      (y.setGr e rd (BitVec.ofNat 32 x.2.1)).setPc e ((d.engOf e).pc + 4)) := by
  exact Gives.of_atomic (g := fun d =>
    (((d.engLoad e a 4 v).2.2.engStore e a (leBytes (d.gr e rt).toNat 4) w).2.setGr e rd (BitVec.ofNat 32 (d.engLoad e a 4 v).2.1)))
    ⟨0, e, rd, rs, rt, v⟩ hiss rfl
    (Dev.opAtomic_swap (d := s.dev.cleared) hw ha halign hlocal hload rd rt hstore)

theorem atadd_gives (b : List Byte) (hb : b = leBytes (BitVec.ofNat 32 (s.dev.cleared.engLoad e a 4 v).2.1 + s.dev.gr e rt).toNat 4)
    (hstore : ((s.dev.cleared.engLoad e a 4 v).2.2.engStore e a b w).1 = .ok) :
    Gives (.atadd e rd rs rt v []) s (fun d =>
      let x := d.engLoad e a 4 v
      ((x.2.2.engStore e a b w).2.setGr e rd (BitVec.ofNat 32 x.2.1)).setPc e ((d.engOf e).pc + 4)) := by
  exact Gives.of_atomic (g := fun d => (((d.engLoad e a 4 v).2.2.engStore e a b w).2.setGr e rd
      (BitVec.ofNat 32 (d.engLoad e a 4 v).2.1))) ⟨1, e, rd, rs, rt, v⟩ hiss rfl
    (Dev.opAtomic_add (d := s.dev.cleared) hw ha halign hlocal hload rd rt hb hstore)

theorem atcas_equal_gives (heq : BitVec.ofNat 32 (s.dev.cleared.engLoad e a 4 v).2.1 = s.dev.gr e rd)
    (hstore : ((s.dev.cleared.engLoad e a 4 v).2.2.engStore e a (leBytes (s.dev.gr e rt).toNat 4) w).1 = .ok) :
    Gives (.atcas e rd rs rt v []) s (fun d =>
      let x := d.engLoad e a 4 v
      let y := (x.2.2.engStore e a (leBytes (d.gr e rt).toNat 4) w).2
      (y.setGr e rd (BitVec.ofNat 32 x.2.1)).setPc e ((d.engOf e).pc + 4)) := by
  exact Gives.of_atomic (g := fun d =>
    (((d.engLoad e a 4 v).2.2.engStore e a (leBytes (d.gr e rt).toNat 4) w).2.setGr e rd (BitVec.ofNat 32 (d.engLoad e a 4 v).2.1)))
    ⟨2, e, rd, rs, rt, v⟩ hiss rfl
    (Dev.opAtomic_cas_equal (d := s.dev.cleared) hw ha halign hlocal hload rd rt heq hstore)

omit hw in
theorem atcas_differs_gives (hne : BitVec.ofNat 32 (s.dev.cleared.engLoad e a 4 v).2.1 ≠ s.dev.gr e rd) :
    Gives (.atcas e rd rs rt v []) s (fun d =>
      let x := d.engLoad e a 4 v
      (x.2.2.setGr e rd (BitVec.ofNat 32 x.2.1)).setPc e ((d.engOf e).pc + 4)) :=
  Gives.of_atomic (g := fun d => ((d.engLoad e a 4 v).2.2.setGr e rd (BitVec.ofNat 32 (d.engLoad e a 4 v).2.1))) ⟨2, e, rd, rs, rt, v⟩ hiss
    rfl (Dev.opAtomic_cas_differs (d := s.dev.cleared) ha halign hlocal hload rd rt hne)

end

/-- A command that names both operations gives them in the order of R25. -/
theorem Gives.of_atomics_two {c : Instr} {s : State} {x y : Atomic} {l : List Atomic} (hon : s.on) (hl : l = [x, y] ∨ l = [y, x])
    (hxy : rank s.rr (.eng x.e) < rank s.rr (.eng y.e)) (hexec : exec c s = s.act (fun d => d.atomics s.rr l)) :
    Gives c s (fun d => [x, y].foldl (fun d z => d.issue z.e 4 (fun d _ _ =>
      d.opAtomic z.e z.op.val z.rd z.rs z.rt (laterOf z.v s.rr (.eng z.e)))) d) :=
  Gives.of_act _ hon hexec (Dev.atomics_two _ _ hl hxy)

theorem atomicPair_gives (s : State) (x y : Atomic) (f : Dev → Dev) (hon : s.on) (hxy : rank s.rr (.eng x.e) < rank s.rr (.eng y.e))
    (hf : f = (fun d => [x, y].foldl (fun d z => d.issue z.e 4 (fun d _ _ =>
      d.opAtomic z.e z.op.val z.rd z.rs z.rt (laterOf z.v s.rr (.eng z.e)))) d)) :
    (x.op = 0 → Gives (.atswap x.e x.rd x.rs x.rt x.v [y]) s f) ∧ (y.op = 0 → Gives (.atswap y.e y.rd y.rs y.rt y.v [x]) s f) ∧
    (x.op = 1 → Gives (.atadd x.e x.rd x.rs x.rt x.v [y]) s f) ∧ (y.op = 1 → Gives (.atadd y.e y.rd y.rs y.rt y.v [x]) s f) ∧
    (x.op = 2 → Gives (.atcas x.e x.rd x.rs x.rt x.v [y]) s f) ∧ (y.op = 2 → Gives (.atcas y.e y.rd y.rs y.rt y.v [x]) s f) := by
  subst hf
  have hrow (z : Atomic) {op : Fin 3} (h : z.op = op) : (⟨op, z.e, z.rd, z.rs, z.rt, z.v⟩ : Atomic) = z := by subst h; rfl
  refine ⟨fun h => ?_, fun h => ?_, fun h => ?_, fun h => ?_, fun h => ?_, fun h => ?_⟩
  · exact Gives.of_atomics_two (l := [_, y]) hon (.inl (by rw [hrow x h])) hxy rfl
  · exact Gives.of_atomics_two (l := [_, x]) hon (.inr (by rw [hrow y h])) hxy rfl
  · exact Gives.of_atomics_two (l := [_, y]) hon (.inl (by rw [hrow x h])) hxy rfl
  · exact Gives.of_atomics_two (l := [_, x]) hon (.inr (by rw [hrow y h])) hxy rfl
  · exact Gives.of_atomics_two (l := [_, y]) hon (.inl (by rw [hrow x h])) hxy rfl
  · exact Gives.of_atomics_two (l := [_, x]) hon (.inr (by rw [hrow y h])) hxy rfl

/-- Settles O32, clause by clause: an access through a generator, an atomic operation, two of them in one CCLK. -/
theorem generatorMemoryCompletes : Obligations.GeneratorMemoryCompletes :=
  ⟨agLoad_loadsTo, agStore_storesTo, vld_gives, vld_circular_gives, vst_gives, vst_circular_gives, vldr_gives, atswap_gives,
    fun s e rd rs rt v w a b hiss hw ha halign hlocal hload hb hstore =>
      atadd_gives s e rd rs rt v w a hiss hw ha halign hlocal hload b hb hstore,
    atcas_equal_gives,
    fun s e rd rs rt v _ a hiss _ ha halign hlocal hload hne => atcas_differs_gives s e rd rs rt v a hiss ha halign hlocal hload hne,
    atomicPair_gives⟩

end Sys2Proof.Machine
end

section
/-! SUPPORT. What stands at an engine's pc issues: an instruction of a compact page, a group of a wide one, beside another engine's atomic
operation (R25, R231 to R236). -/

namespace Sys2Proof.Machine

open Sys2Proof

/-! ### Fetch -/

/-- What is fetched does not turn on the answer and the outputs of the command before. -/
theorem Dev.initStatus_cleared (d : Dev) (c : Nat) : d.cleared.initStatus c = d.initStatus c := rfl
theorem Dev.widePage_cleared (d : Dev) (e pc : Nat) : d.cleared.widePage e pc = d.widePage e pc := rfl
theorem Dev.codeHalf_cleared (d : Dev) (e pc : Nat) : d.cleared.codeHalf e pc = d.codeHalf e pc := rfl
theorem Dev.codeWord_cleared (d : Dev) (e : Nat) : d.cleared.codeWord e = d.codeWord e := rfl
theorem Dev.codeBad_cleared (d : Dev) (e pc n : Nat) : d.cleared.codeBad e pc n = d.codeBad e pc n := rfl
theorem Dev.groupAddrs_cleared (d : Dev) (e pc : Nat) : d.cleared.groupAddrs e pc = d.groupAddrs e pc := rfl

/-- A ready engine whose memory has started and whose fetch meets no uncorrectable word: a wide page gives a group, a compact one an
instruction. -/
theorem Dev.issueNext_ready (d : Dev) (e : Fin 96) (v : MemEnv) {pc : Nat} (hpc : pc = (d.engOf e).pc) (hrun : d.engRunning e = true)
    (hcause : d.takeable e = none) (hinit : d.initStatus 0 = .ok) (hcode : d.codeBad e pc (d.fetchLen e pc) = none) :
    d.issueNext e v = if d.widePage e pc then d.issueWide e pc v
      else Dev.finish e pc (pc + (d.fetchCompact e pc v).2) (d.fetchCompact e pc v).1 := by
  subst hpc
  simp only [Dev.issueNext, Dev.boundary, hrun, hcause, hinit, hcode, Bool.not_true, Bool.false_eq_true, if_false, ne_eq, not_true]

section
variable (d : Dev) (e : Fin 96) (pc : Nat) (v : MemEnv)

/-! An instruction of 32 bits, and one of 16 bits. -/

theorem Dev.fetchLen_word (hwide : d.widePage e pc = false) (hlow : d.codeHalf e pc % 4 = 0) : d.fetchLen e pc = 4 := by
  simp only [Dev.fetchLen, hwide, hlow, Bool.false_eq_true, if_false, ne_eq, not_true]

theorem Dev.fetchLen_half (hwide : d.widePage e pc = false) (hlow : d.codeHalf e pc % 4 ≠ 0) : d.fetchLen e pc = 2 := by
  simp only [Dev.fetchLen, hwide, hlow, Bool.false_eq_true, if_false, ne_eq, not_false_eq_true, if_true]

theorem Dev.fetchLen_group (hwide : d.widePage e pc = true) : d.fetchLen e pc = 4 * (d.groupAddrs e pc).length := by
  simp only [Dev.fetchLen, hwide, if_true]

theorem Dev.fetchCompact_word {fx : Fx} (hlow : d.codeHalf e pc % 4 = 0) (hnext : d.widePage e (pc + 2) = false)
    (hfx : d.execWord e (d.codeWord e pc) pc ((pc + 4) % 65536) v = some fx) : d.fetchCompact e pc v = (fx, 4) := by
  simp only [Dev.fetchCompact, hlow, hnext, hfx, ne_eq, not_true, Bool.false_eq_true, if_false, Option.getD_some]

theorem Dev.fetchCompact_half {fx : Fx} (hlow : d.codeHalf e pc % 4 ≠ 0)
    (hfx : d.execHalf e (d.codeHalf e pc) pc ((pc + 2) % 65536) v = some fx) : d.fetchCompact e pc v = (fx, 2) := by
  simp only [Dev.fetchCompact, hlow, hfx, ne_eq, not_false_eq_true, if_true, Option.getD_some]

theorem Dev.issueWide_group (hgood : groupBad ((d.groupAddrs e pc).map (d.codeWord e)) = false) :
    d.issueWide e pc v = Dev.runGroup e v (d.groupAddrs e pc) d := by
  simp only [Dev.issueWide, hgood, Bool.false_eq_true, if_false]

end

/-! ### Beside atomic operations of other engines (R231) -/

theorem Dev.atomics_nil (d : Dev) (rr : Nat) : d.atomics rr [] = d := by
  have hnone : (List.range 112).flatMap (fun k => [].filter (fun x : Atomic => rank rr (.eng x.e) == k)) = [] :=
    List.flatMap_eq_nil_iff.mpr fun _ _ => rfl
  rw [Dev.atomics, hnone, List.foldl_nil]

theorem Dev.groupIssue_alone (d : Dev) (rr : Nat) (e : Fin 96) (v : MemEnv) (h : ∀ x ∈ v.atomics, x.e = e) :
    d.groupIssue rr e v = d.issueNext e (laterOf v rr (.eng e)) := by
  have hnone : v.atomics.filter (fun x => x.e != e) = [] := by
    rw [List.filter_eq_nil_iff]
    exact fun x hx hne => bne_iff_ne.mp hne (h x hx)
  simp only [Dev.groupIssue, hnone, List.map_nil, List.filter_nil, Dev.atomics_nil]

section
variable (d : Dev) {rr : Nat} {e : Fin 96} {v : MemEnv} {x : GroupRival} (hone : v.atomics = [x]) (hne : x.e ≠ e)
include hone hne

theorem Dev.groupIssue_after (hrank : rank rr (.eng x.e) < rank rr (.eng e)) :
    d.groupIssue rr e v = (d.atomics rr [GroupRival.atomic x]).issueNext e (laterOf v rr (.eng e)) := by
  have hne' : (x.e != e) = true := bne_iff_ne.mpr hne
  have hfirst : rank rr (.eng (GroupRival.atomic x).e) < rank rr (.eng e) := hrank
  simp [Dev.groupIssue, hone, hne', hfirst, Dev.atomics_nil]

theorem Dev.groupIssue_before (hrank : rank rr (.eng e) < rank rr (.eng x.e)) :
    d.groupIssue rr e v = (d.issueNext e (laterOf v rr (.eng e))).atomics rr [GroupRival.atomic x] := by
  have hne' : (x.e != e) = true := bne_iff_ne.mpr hne
  have hlast : ¬rank rr (.eng (GroupRival.atomic x).e) < rank rr (.eng e) := Nat.lt_asymm hrank
  simp [Dev.groupIssue, hone, hne', hlast, Dev.atomics_nil]

end

/-! ### What ISSUE_GROUP gives -/

/-- ISSUE_GROUP of a ready engine beside no other's atomic operation. -/
theorem Gives.of_issueGroup {s : State} {e : Fin 96} {v : MemEnv} {f : Dev → Dev} (hiss : s.issues e) (halone : ∀ x ∈ v.atomics, x.e = e)
    (heff : s.dev.cleared.issueNext e (laterOf v s.rr (.eng e)) = f s.dev.cleared) : Gives (.issueGroup e v) s f :=
  Gives.of_act (fun d => d.groupIssue s.rr e v) hiss.1 rfl ((Dev.groupIssue_alone s.dev.cleared s.rr e v halone).trans heff)

section
variable (s : State) (e : Fin 96) (v : MemEnv) (pc : Nat)

theorem issueGroup_word_gives (fx : Fx) (hiss : s.issues e) (hpc : pc = (s.dev.engOf e).pc) (hinit : s.dev.initStatus 0 = .ok)
    (hwide : s.dev.widePage e pc = false) (halone : ∀ x ∈ v.atomics, x.e = e) (hcode : s.dev.codeBad e pc 4 = none)
    (hlow : s.dev.codeHalf e pc % 4 = 0) (hnext : s.dev.widePage e (pc + 2) = false)
    (hfx : s.dev.cleared.execWord e (s.dev.codeWord e pc) pc ((pc + 4) % 65536) (laterOf v s.rr (.eng e)) = some fx) :
    Gives (.issueGroup e v) s (fun _ => Dev.finish e pc (pc + 4) fx) := by
  refine Gives.of_issueGroup hiss halone ?_
  have hlen : s.dev.cleared.fetchLen e pc = 4 := Dev.fetchLen_word s.dev.cleared e pc hwide hlow
  rw [Dev.issueNext_ready s.dev.cleared e _ hpc hiss.2.1 hiss.2.2 hinit (by rw [hlen]; exact hcode), Dev.widePage_cleared, hwide,
    Dev.fetchCompact_word s.dev.cleared e pc _ hlow hnext hfx]
  rfl

theorem issueGroup_half_gives (fx : Fx) (hiss : s.issues e) (hpc : pc = (s.dev.engOf e).pc) (hinit : s.dev.initStatus 0 = .ok)
    (hwide : s.dev.widePage e pc = false) (halone : ∀ x ∈ v.atomics, x.e = e) (hcode : s.dev.codeBad e pc 2 = none)
    (hlow : s.dev.codeHalf e pc % 4 ≠ 0)
    (hfx : s.dev.cleared.execHalf e (s.dev.codeHalf e pc) pc ((pc + 2) % 65536) (laterOf v s.rr (.eng e)) = some fx) :
    Gives (.issueGroup e v) s (fun _ => Dev.finish e pc (pc + 2) fx) := by
  refine Gives.of_issueGroup hiss halone ?_
  have hlen : s.dev.cleared.fetchLen e pc = 2 := Dev.fetchLen_half s.dev.cleared e pc hwide hlow
  rw [Dev.issueNext_ready s.dev.cleared e _ hpc hiss.2.1 hiss.2.2 hinit (by rw [hlen]; exact hcode), Dev.widePage_cleared, hwide,
    Dev.fetchCompact_half s.dev.cleared e pc _ hlow hfx]
  rfl

theorem issueGroup_group_gives (as : List Nat) (hiss : s.issues e) (hpc : pc = (s.dev.engOf e).pc) (hinit : s.dev.initStatus 0 = .ok)
    (hwide : s.dev.widePage e pc = true) (has : as = s.dev.groupAddrs e pc) (hcode : s.dev.codeBad e pc (4 * as.length) = none)
    (hgood : groupBad (as.map (s.dev.codeWord e)) = false) (halone : ∀ x ∈ v.atomics, x.e = e) :
    Gives (.issueGroup e v) s (fun d => Dev.runGroup e (laterOf v s.rr (.eng e)) as d) := by
  subst has
  refine Gives.of_issueGroup hiss halone ?_
  have hlen : s.dev.cleared.fetchLen e pc = 4 * (s.dev.groupAddrs e pc).length := Dev.fetchLen_group s.dev.cleared e pc hwide
  rw [Dev.issueNext_ready s.dev.cleared e _ hpc hiss.2.1 hiss.2.2 hinit (by rw [hlen]; exact hcode), Dev.widePage_cleared, hwide,
    if_pos rfl, Dev.issueWide_group s.dev.cleared e pc _ hgood, Dev.groupAddrs_cleared]

end

/-- Settles O41, clause by clause: what each kind of fetch gives, and the two orders beside an atomic operation. -/
theorem issueCompletes : Obligations.IssueCompletes :=
  ⟨issueGroup_word_gives, issueGroup_half_gives, issueGroup_group_gives,
    fun s e v _ hon hone hne hrank =>
      Gives.of_act (fun d => d.groupIssue s.rr e v) hon rfl (Dev.groupIssue_after s.dev.cleared hone hne hrank),
    fun s e v _ hon hone hne hrank =>
      Gives.of_act (fun d => d.groupIssue s.rr e v) hon rfl (Dev.groupIssue_before s.dev.cleared hone hne hrank)⟩

end Sys2Proof.Machine
end

section
/-! SUPPORT. What the stop of an engine leaves alone: the registers of the engines' pages behind the header, and each page's busy bit. Neither a
completion of an item, nor a fault it meets, nor the release of a block writes them (R255, R294, R303, R310). -/

namespace Sys2Proof.Machine

open Sys2Proof

/-- The registers of the engines' pages behind the header, and the busy bits of those pages, read as before. -/
structure Dev.EnginePagesKept (d d' : Dev) : Prop where
  word : ∀ key, 0x40000 ≤ key → 16 ≤ key % 1024 → d'.word key = d.word key
  busy : ∀ page, 0x100 ≤ page → d'.rd STATUS_busy 0 page = d.rd STATUS_busy 0 page

namespace Dev.EnginePagesKept

variable {d d' d'' : Dev}

protected theorem refl (d : Dev) : d.EnginePagesKept d := ⟨fun _ _ _ => rfl, fun _ _ => rfl⟩

protected theorem trans (h : d.EnginePagesKept d') (h' : d'.EnginePagesKept d'') : d.EnginePagesKept d'' :=
  ⟨fun key hk ho => (h'.word key hk ho).trans (h.word key hk ho), fun page hp => (h'.busy page hp).trans (h.busy page hp)⟩

/-- Whatever leaves all registers alone. -/
theorem of_regs (h : d'.regs = d.regs) : d.EnginePagesKept d' := by
  have hword (key : Nat) : d'.word key = d.word key := by rw [Dev.word, h, Dev.word]
  exact ⟨fun key _ _ => hword key, fun page _ => by rw [Dev.rd, hword, Dev.rd]⟩

theorem ite {c : Prop} [Decidable c] (h : d.EnginePagesKept d') (h' : d.EnginePagesKept d'') :
    d.EnginePagesKept (if c then d' else d'') := by
  split
  · exact h
  · exact h'

/-- One step after another. -/
theorem foldl {α β : Type} {g : β → Dev} {f : β → α → β} (l : List α) (b : β)
    (h : ∀ a ∈ l, ∀ b', d.EnginePagesKept (g b') → d.EnginePagesKept (g (f b' a))) (hb : d.EnginePagesKept (g b)) :
    d.EnginePagesKept (g (l.foldl f b)) := by
  induction l generalizing b with
  | nil => exact hb
  | cons a l ih => exact ih _ (fun x hx => h x (List.mem_cons_of_mem _ hx)) (h a List.mem_cons_self b hb)

/-! ### Registers

From here on each rule says that one more operation keeps what was kept so far. -/

section
variable (h : d.EnginePagesKept d')
include h

/-- A write of a register below the engines' pages. -/
theorem wr_below {f : Fld} (v k p : Nat) (hkey : f.key k p < 0x40000) : d.EnginePagesKept (d'.wr f v k p) := by
  refine h.trans ⟨fun key hk _ => Dev.word_setWord_ne _ (by omega) _, fun page hp => Dev.rd_wr_key_ne _ _ _ _ _ _ _ _ ?_⟩
  simp only [Fld.key, regKey] at hkey ⊢
  omega

/-- A write of a header register other than STATUS. -/
theorem wr_header {off hi lo : Nat} (v page : Nat) (hlt : off < 0x40) (hoff : off / 4 ≠ 3) :
    d.EnginePagesKept (d'.wr ⟨0, off, 0, hi, lo⟩ v 0 page) := by
  have hkey : (⟨0, off, 0, hi, lo⟩ : Fld).key 0 page = page * 1024 + off / 4 := by simp [Fld.key, regKey]
  refine h.trans ⟨fun key _ ho => Dev.word_setWord_ne _ (by omega) _, fun q _ => Dev.rd_wr_key_ne _ _ _ _ _ _ _ _ ?_⟩
  simp only [Fld.key, regKey]
  omega

/-- A write of a field of STATUS above busy. -/
theorem wr_status {hi lo : Nat} (v page : Nat) (hle : lo ≤ hi) (hlo : 1 < lo) :
    d.EnginePagesKept (d'.wr ⟨0, 0x00C, 0, hi, lo⟩ v 0 page) := by
  have hkey : (⟨0, 0x00C, 0, hi, lo⟩ : Fld).key 0 page = page * 1024 + 3 := by simp [Fld.key, regKey]
  refine h.trans ⟨fun key _ ho => Dev.word_setWord_ne _ (by omega) _, fun q _ => ?_⟩
  by_cases hq : q = page
  · subst hq
    exact Dev.rd_wr_other _ _ _ _ _ _ _ _ hle (by decide) rfl (.inl hlo)
  · refine Dev.rd_wr_key_ne _ _ _ _ _ _ _ _ ?_
    simp only [Fld.key, regKey]
    omega

/-- The registers of a page below the engines' pages return to reset. -/
theorem resetRegs (page lo hi : Nat) (hpage : regKey page hi ≤ 0x40000) : d.EnginePagesKept (d'.resetRegs page lo hi) := by
  have hword (key : Nat) (hk : 0x40000 ≤ key) : (d'.resetRegs page lo hi).word key = d'.word key := by
    have hget : ∀ t : Tbl Word, (t.drop fun k => decide (regKey page lo ≤ k) && decide (k < regKey page hi)).get key
        (BitVec.ofNat 32 (resetOfKey key)) = t.get key (BitVec.ofNat 32 (resetOfKey key)) := by
      intro t
      induction t with
      | nil => rfl
      | cons x t ih =>
        simp only [Tbl.drop] at ih ⊢
        rw [List.filter_cons]
        split
        next => rw [Tbl.get_cons, Tbl.get_cons, ih]
        next hx =>
          have hne : key ≠ x.1 := by
            intro heq
            simp only [Bool.not_eq_true', Bool.not_eq_false, Bool.and_eq_true, decide_eq_true_eq] at hx
            omega
          rw [ih, Tbl.get_cons, if_neg hne]
    rw [Dev.word, Dev.resetRegs, hget, Dev.word]
  refine h.trans ⟨fun key hk _ => hword key hk, fun p hp => ?_⟩
  rw [Dev.rd, hword _ (by simp only [Fld.key, regKey]; omega), Dev.rd]

/-! ### State beside the registers -/

theorem setQ (n : Nat) (q : Queue) : d.EnginePagesKept (d'.setQ n q) := h.trans (of_regs rfl)
theorem setTag (i : Nat) (t : Tag) : d.EnginePagesKept (d'.setTag i t) := h.trans (of_regs rfl)
theorem setCpl (p : Nat) (c : Cpl) : d.EnginePagesKept (d'.setCpl p c) := h.trans (of_regs rfl)
theorem setPkeCtx (k : Nat) (c : PkeCtx) : d.EnginePagesKept (d'.setPkeCtx k c) := h.trans (of_regs rfl)
theorem setPke (x : Pke) : d.EnginePagesKept { d' with pke := x } := h.trans (of_regs rfl)
theorem setHsh (x : Hsh) : d.EnginePagesKept { d' with hsh := x } := h.trans (of_regs rfl)
theorem setRfg (x : Rfg) : d.EnginePagesKept { d' with rfg := x } := h.trans (of_regs rfl)
theorem setLockClear (x : Tbl Nat) : d.EnginePagesKept { d' with lockClear := x } := h.trans (of_regs rfl)
theorem draw (k : Config.Kind) : d.EnginePagesKept (d'.draw k).2 := h.trans (of_regs rfl)
theorem store (a : Nat) (bs : List Byte) : d.EnginePagesKept (d'.store a bs) := h.trans (of_regs rfl)
theorem storeBut (a : Nat) (bs : List Byte) (rivals : List (Req × Nat × Nat)) : d.EnginePagesKept (d'.storeBut a bs rivals) :=
  ite (store h _ _) (h.trans (of_regs rfl))
theorem level (src : Nat) (b : Bool) (p : P3) : d.EnginePagesKept (d'.level src b p) := h.trans (of_regs rfl)
theorem raise (src p0 p1 p2 : Nat) : d.EnginePagesKept (d'.raise src p0 p1 p2) := h.trans (ite (.refl _) (of_regs rfl))

theorem rated (block code unit sev p0 p2 src : Nat) : d.EnginePagesKept (d'.rated block code unit sev p0 p2 src) := by
  refine h.trans (of_regs ?_)
  unfold Dev.rated
  dsimp only
  split
  · rfl
  · split
    · rfl
    · split <;> rfl

/-! ### Interrupts and faults -/

theorem msix (v : Nat) : d.EnginePagesKept (d'.msix v) := by
  refine h.trans (of_regs ?_)
  unfold Dev.msix
  split
  · rfl
  · split <;> rfl

theorem irq (page bit : Nat) : d.EnginePagesKept (d'.irq page bit) := by
  unfold Dev.irq Dev.irqNote
  exact ite (foldl (g := id) _ _ (fun v _ _ h => msix h v) (wr_header h _ page (by decide) (by decide)))
    (wr_header h _ page (by decide) (by decide))

theorem setFault (page : Nat) : d.EnginePagesKept (d'.setFault page) :=
  ite h (irq (wr_status h 1 page (by decide) (by decide)) page 31)

theorem faultInfo (page kind at_ : Nat) (st : Status) (requester : Nat) :
    d.EnginePagesKept (d'.faultInfo page kind at_ st requester) := by
  have hinfo {d' : Dev} {hi lo : Nat} (h : d.EnginePagesKept d') (v : Nat) :
      d.EnginePagesKept (d'.wr ⟨0, 0x028, 0, hi, lo⟩ v 0 page) := wr_header h v page (by decide) (by decide)
  exact ite (setFault h page) (hinfo (hinfo (hinfo (hinfo (hinfo (setFault h page) _) _) _) _) _)

theorem memFault (c a kind requester : Nat) : d.EnginePagesKept (d'.memFault c a kind requester) := by
  have hecc (p : Nat) (hp : p < 2) : (DRC_ECC_uncorrectable : Fld).key 0 p < 0x40000 ∧ (DRC_ERR_ADDR_LO_addr : Fld).key 0 p < 0x40000 ∧
      (DRC_ERR_ADDR_HI_addr : Fld).key 0 p < 0x40000 := by
    simp only [Fld.key, regKey]
    omega
  obtain ⟨hcount, hlow, hhigh⟩ := hecc (a / 256 % 2) (Nat.mod_lt _ (by decide))
  unfold Dev.memFault
  refine ite (raise (faultInfo (wr_below (wr_below (ite ?_ ?_) _ _ _ (by decide)) _ _ _ (by decide)) _ _ _ _ _) _ _ _ _)
    (raise (faultInfo h _ _ _ _ _) _ _ _ _)
  · exact wr_below h _ _ _ (by decide)
  · exact wr_below (wr_below (wr_below (wr_below h _ _ _ (by decide)) _ _ _ hcount) _ _ _ hlow) _ _ _ hhigh

theorem parityError (page seg addr requester : Nat) : d.EnginePagesKept (d'.parityError page seg addr requester) :=
  raise (faultInfo h _ _ _ _ _) _ _ _ _

theorem rowFault (cls page row requester : Nat) : d.EnginePagesKept (d'.rowFault cls page row requester) :=
  ite (level (raise (faultInfo h _ _ _ _ _) _ _ _ _) _ _ _) (raise (faultInfo h _ _ _ _ _) _ _ _ _)

end

/-! ### Accesses to memory -/

theorem cacheUse_regs (k : Nat) (d : Dev) (level i : Nat) (write : Bool) : (Dev.cacheUse k d level i write).regs = d.regs := by
  induction k generalizing d level i write with
  | zero => rfl
  | succ k ih =>
    rw [Dev.cacheUse]
    split
    · rfl
    · dsimp only
      split
      · rfl
      · rw [ih]
        split
        · rw [ih]; rfl
        · rfl

theorem linesUsed_regs (d : Dev) (write : Bool) (ws : List Nat) : (ws.foldl (fun d w => d.lineUsed write w) d).regs = d.regs := by
  have hline (d : Dev) (a : Nat) : (d.lineUsed write a).regs = d.regs := by
    unfold Dev.lineUsed
    split
    · rfl
    · rw [cacheUse_regs]
      split <;> rfl
  induction ws generalizing d with
  | nil => rfl
  | cons w ws ih => rw [List.foldl_cons, ih, hline]

section
variable (h : d.EnginePagesKept d')
include h

theorem linesRead (c : Nat) (ws : List Nat) : d.EnginePagesKept (d'.linesRead c ws) :=
  ite (h.trans (of_regs (linesUsed_regs _ _ _))) h

theorem wordsWritten (c : Nat) (ws : List Nat) : d.EnginePagesKept (d'.wordsWritten c ws) := by
  refine h.trans (of_regs ?_)
  unfold Dev.wordsWritten
  extract_lets d1 d2
  have hregs : d2.regs = d'.regs := by
    unfold d2
    split <;> rfl
  split
  · rw [linesUsed_regs, hregs]
  · exact hregs

theorem hwLoad (who a n : Nat) : d.EnginePagesKept (d'.hwLoad who a n).2.2 := by
  unfold Dev.hwLoad
  split
  · exact h
  · dsimp only
    split
    · exact h
    · split
      · exact parityError h _ _ _ _
      · split
        · exact rowFault h _ _ _ _
        · split
          · exact memFault h _ _ _ _
          · exact linesRead h _ _

theorem hwStore (who a : Nat) (bs : List Byte) : d.EnginePagesKept (d'.hwStore who a bs).2 := by
  unfold Dev.hwStore
  split
  · exact h
  · dsimp only
    split
    · exact h
    · split
      · exact parityError h _ _ _ _
      · split
        · exact rowFault h _ _ _ _
        · split
          · exact memFault h _ _ _ _
          · exact store (wordsWritten h _ _) _ _

theorem memStore (r : Req) (a : Nat) (bs : List Byte) (rivals : List (Req × Nat × Nat)) :
    d.EnginePagesKept (d'.memStore r a bs rivals).2 := by
  unfold Dev.memStore
  dsimp only
  split
  · exact h
  · exact h
  · split
    · exact h
    · split
      · exact rowFault h _ _ _ _
      · split
        · exact memFault h _ _ _ _
        · exact storeBut (wordsWritten h _ _) _ _ _

theorem jobWrite (who a : Nat) (bs : List Byte) : d.EnginePagesKept (d'.jobWrite who a bs).2 := by
  refine foldl (g := Prod.snd) _ _ (fun p _ acc h => ?_) h
  dsimp only
  split
  · exact h
  · split
    · exact parityError h _ _ _ _
    · exact memStore h _ _ _ _

theorem jobSmear (who a n : Nat) : d.EnginePagesKept (d'.jobSmear who a n) := by
  unfold Dev.jobSmear
  exact jobWrite (draw h .memory) who a (leBytes (d'.draw .memory).1 n)

/-! ### Items and tags -/

theorem notifyQueue (n : Nat) : d.EnginePagesKept (d'.notifyQueue n) := by
  unfold Dev.notifyQueue
  dsimp only
  split
  · exact h
  · split
    · exact h.trans (of_regs rfl)
    · exact msix h _
    · exact ite (h.trans (of_regs rfl)) h
    · exact h

theorem ringPut (n : Nat) (bytes : List Byte) (e : Ent) : d.EnginePagesKept (d'.ringPut n bytes e).2 := by
  unfold Dev.ringPut
  dsimp only
  split
  · exact hwStore h _ _ _
  · exact ite (notifyQueue (setQ (hwStore h _ _ _) _ _) _) (setQ (hwStore h _ _ _) _ _)

theorem freeTag (tag : Nat) : d.EnginePagesKept (d'.freeTag tag) := ite (setTag h _ _) h

theorem endItem (n : Nat) (e : Ent) (src st arg : Nat) : d.EnginePagesKept (d'.endItem n e src st arg) := by
  unfold Dev.endItem
  refine ite h ?_
  dsimp only
  split
  · exact ite (setQ (freeTag h _) _ _) (ringPut (setQ (freeTag h _) _ _) _ _ _)
  · exact freeTag h _

theorem voidAt (item : Nat) : d.EnginePagesKept (d'.voidAt item) := by
  unfold Dev.voidAt
  exact ite (hwStore (hwLoad h _ _ _) _ _ _) (hwLoad h _ _ _)

theorem cancelTag (i : Nat) (st : Status) : d.EnginePagesKept (d'.cancelTag i st) := by
  unfold Dev.cancelTag
  extract_lets t tag d1
  have h1 : d.EnginePagesKept d1 := setTag h _ _
  split
  · exact h1
  · extract_lets q
    split
    · extract_lets e d2 d3
      have h2 : d.EnginePagesKept d2 := setQ h1 _ _
      exact endItem (ite (voidAt h2 _) h2) _ _ _ _ _
    · split
      · exact endItem (voidAt (setQ h1 _ _) _) _ _ _ _ _
      · exact h1

theorem endTags (first n : Nat) : d.EnginePagesKept (d'.endTags first n) := by
  unfold Dev.endTags
  exact foldl (g := id) _ _ (fun _ _ _ h => ite h (ite (cancelTag h _ _) (setTag h _ _))) h

/-! ### Blocks with a LOCK register -/

/-- A field of a page of CPL0 to CPL7. -/
theorem wr_cpl {f : Fld} (v : Nat) {p : Nat} (hp : p < 8) (hf : f.page ≤ 0x070 ∧ f.off < 0x1000) : d.EnginePagesKept (d'.wr f v 0 p) := by
  refine wr_below h v 0 p ?_
  simp only [Fld.key, regKey]
  omega

theorem cplEnd {p : Nat} (hp : p < 8) (st : Status) : d.EnginePagesKept (d'.cplEnd p st) := by
  unfold Dev.cplEnd
  refine irq (wr_status (wr_below (setCpl h _ _) _ _ _ ?_) _ _ (by decide) (by decide)) _ _
  simp only [Fld.key, regKey, pgCPL]
  omega

theorem cplRelease {p : Nat} (hp : p < 8) : d.EnginePagesKept (d'.cplRelease p) := by
  unfold Dev.cplRelease
  split
  · exact h
  · exact cplEnd (rated (jobSmear h _ _ _) _ _ _ _ _ _ _) hp _

theorem drbg : d.EnginePagesKept d'.drbg.2 := by
  have hseed : d.EnginePagesKept (if 65536 ≤ d'.rfg.trnReqs then d'.reseed else d') :=
    ite (wr_below (setRfg h _) _ _ _ (by decide)) h
  exact hseed.trans (of_regs rfl)

theorem cplSeed {p : Nat} (hp : p < 8) : d.EnginePagesKept (d'.cplSeed p) := by
  unfold Dev.cplSeed
  exact wr_cpl (setCpl (drbg h) _ _) _ hp (by decide)

theorem cplClear {p : Nat} (hp : p < 8) : d.EnginePagesKept (d'.cplClear p) := by
  unfold Dev.cplClear
  extract_lets d1 d2
  have h1 : d.EnginePagesKept d1 := by
    refine setCpl (resetRegs h _ _ _ ?_) _ _
    simp only [regKey, pgCPL]
    omega
  have h2 : d.EnginePagesKept d2 := ite (cplSeed h1 hp) h1
  exact wr_cpl (wr_cpl h2 _ hp (by decide)) _ hp (by decide)

theorem pkeDrop (release : Bool) : d.EnginePagesKept (d'.pkeDrop release) := by
  unfold Dev.pkeDrop Dev.pkeBusyBit
  refine wr_below (foldl (g := id) _ _ (fun k _ d' h => ?_) h) _ _ _ (by decide)
  dsimp only [id]
  have hrec : d.EnginePagesKept (if ((d'.pkeCtx k).active && release) = true then d'.pkeRec 0xB014 3 k (d'.pkeCtx k).owner else d') :=
    ite (rated h _ _ _ _ _ _ _) h
  exact ite (wr_below (setPkeCtx (ite (jobSmear hrec _ _ _) hrec) _ _) _ _ _ (by decide)) hrec

theorem hshDrop (release : Bool) : d.EnginePagesKept (d'.hshDrop release) := by
  have hend {d' : Dev} (h : d.EnginePagesKept d') (st : Status) : d.EnginePagesKept (d'.hshEnd st) := by
    unfold Dev.hshEnd Dev.hshChainBit
    exact irq (wr_below (wr_below (wr_below (wr_below (wr_below (setHsh h _) _ _ _ (by decide)) _ _ _ (by decide)) _ _ _ (by decide)) _ _ _
      (by decide)) _ _ _ (by decide)) _ _
  unfold Dev.hshDrop
  split
  · exact h
  next j _ =>
    have hsmear : d.EnginePagesKept (if j.toMem = true then d'.jobSmear j.owner j.dst j.outLen else d') := ite (jobSmear h _ _ _) h
    exact hend (ite (rated hsmear _ _ _ _ _ _ _) hsmear) _

theorem lockChange {page : Nat} (new : Nat) (hpage : page ∈ lockPages) : d.EnginePagesKept (d'.lockChange page new) := by
  have hcpl : page ≠ pgPKE → page ≠ pgHSH → page - 0x070 < 8 := by
    simp only [lockPages, List.mem_cons, List.not_mem_nil, or_false] at hpage
    unfold pgPKE pgHSH
    omega
  have hjobs : d.EnginePagesKept (d'.lockEndJobs page) := by
    unfold Dev.lockEndJobs
    split
    next => exact pkeDrop h _
    next hpke =>
      split
      next => exact hshDrop h _
      next hhsh => exact cplRelease h (hcpl hpke hhsh)
  have hwipe : d.EnginePagesKept ((d'.lockEndJobs page).lockWipe page) := by
    unfold Dev.lockWipe
    split
    next => exact wr_below (setPke (resetRegs hjobs _ _ _ (by decide)) _) _ _ _ (by decide)
    next hpke =>
      split
      next => exact wr_below (setHsh (resetRegs hjobs _ _ _ (by decide)) _) _ _ _ (by decide)
      next hhsh => exact cplClear hjobs (hcpl hpke hhsh)
  unfold Dev.lockChange
  exact setLockClear (wr_header hwipe _ _ (by decide) (by decide)) _

theorem lockFreeAll (owner : Nat) : d.EnginePagesKept (d'.lockFreeAll owner) := by
  unfold Dev.lockFreeAll
  exact foldl (g := id) _ _ (fun _ hp _ h => ite (lockChange h _ hp) h) h

end

end Dev.EnginePagesKept

end Sys2Proof.Machine
end

section
/-! SUPPORT. The release table's entries and deadlines (R265, R266, R271). -/

namespace Sys2Proof.Machine

open Sys2Proof

/-! ### Commands of a cluster's release table -/

/-- A command of a cluster's release table that answers ST_OK. -/
theorem Effects.of_relCommand {c : Instr} {s : State} {f : Dev → Dev} {r : Req} {i : Fin 12} (v : Nat) (hacc : s.accepts r (pgCLU i) 0x044)
    (hexec : exec c s = s.write r (pgCLU i) 0x044 v) (heff : s.dev.cleared.cluWrite r i 0x044 v = (.ok, f s.dev.cleared)) :
    Effects c s (pgCLU i) f := by
  have hpage : ∀ i : Fin 12, pageBlock (pgCLU i) = some (.clu, i.val) ∧ lockPages.contains (pgCLU i) = false := by decide +kernel
  exact Effects.of_blockWrite v hacc (hpage i).1 (hpage i).2 (by decide) hexec heff

theorem RelEntry.clear_eq (x : RelEntry) : x.clear = { x with w0 := setBits x.w0 31 31 0 } := rfl

section
variable (d : Dev) (r : Req) (c : Nat) {k : Nat} (hk : k = d.relSel r c)
include hk

/-- A commit of words that are not bad, over an entry and for an engine of the requester's world, whose pending bit no other entry of
the cluster watches. -/
theorem Dev.relCommit_ok {l : List Nat} (hl : l = d.relStaged r c) (hnew : d.relForeign r c ((relOfWords l).engine c) = false)
    (hbad : (relOfWords l).bad = false) (hold : (d.relOf k).valid = true → d.relForeign r c ((d.relOf k).engine c) = false)
    (hdup : (relOfWords l).valid = true → (relOfWords l).kind = 2 → ∀ p ∈ d.rel, p.1 ≠ k → p.1 / 64 = c →
      p.2.coming.valid = true → p.2.coming.kind = 2 → p.2.coming.evBit ≠ (relOfWords l).evBit) :
    d.relCommit r c = (.ok, d.setRel k { d.relOf k with next := some l }) := by
  have hforeign : ((d.relOf k).valid && d.relForeign r c ((d.relOf k).engine c)) = false :=
    Bool.and_eq_false_imp.mpr hold
  have hnodup : ((relOfWords l).valid && (relOfWords l).kind == 2 && d.rel.any (fun p => p.1 != k && p.1 / 64 == c &&
      p.2.coming.valid && p.2.coming.kind == 2 && p.2.coming.evBit == (relOfWords l).evBit)) = false := by
    refine Bool.and_eq_false_imp.mpr fun hwatch => List.any_eq_false.mpr fun p hp => ?_
    rw [Bool.and_eq_true, beq_iff_eq] at hwatch
    simp only [Bool.and_eq_true, bne_iff_ne, beq_iff_eq]
    rintro ⟨⟨⟨⟨hne, hclu⟩, hvalid⟩, hkind⟩, hbit⟩
    exact hdup hwatch.1 hwatch.2 p hp hne hclu hvalid hkind hbit
  subst hk hl
  simp only [Dev.relCommit, hnew, hforeign, hbad, hnodup, Bool.or_self, Bool.false_eq_true, if_false]
  rfl

theorem Dev.relInvalidate_ok (hold : (d.relOf k).valid = true → d.relForeign r c ((d.relOf k).engine c) = false) :
    d.relInvalidate r c = (.ok, d.setRel k { d.relOf k with w0 := setBits (d.relOf k).w0 31 31 0, next := none }) := by
  have hforeign : ((d.relOf k).valid && d.relForeign r c ((d.relOf k).engine c)) = false :=
    Bool.and_eq_false_imp.mpr hold
  subst hk
  simp only [Dev.relInvalidate, hforeign, Bool.false_eq_true, if_false]
  rw [RelEntry.clear_eq]

omit hk in
theorem Dev.relRead_ok {x : RelEntry} (hx : x = d.relOf (d.relSel r c)) :
    d.relRead r c = (.ok,
      ((((d.wrOwn (reqId r) CLU_REL_Wk_word x.w0 0 c).wrOwn (reqId r) CLU_REL_Wk_word x.w1 1 c).wrOwn (reqId r) CLU_REL_Wk_word x.w2 2 c).wrOwn
        (reqId r) CLU_REL_Wk_word x.w3 3 c).wrOwn (reqId r) CLU_REL_Wk_word x.w4 4 c) := by
  rw [hx]
  rfl

end

/-! ### Deadlines -/

/-- A running release whose deadline has passed is missed. -/
theorem Dev.deadlineExpiry_missed (d : Dev) {k : Nat} {run : Running} (hrun : (d.relOf k).run = some run) (hnew : run.missed = false)
    (hdue : run.deadline ≤ d.tickTai) : d.deadlineExpiry k = d.relMiss k run := by
  have hpast : ¬d.tickTai < run.deadline := Nat.not_lt.mpr hdue
  simp only [Dev.deadlineExpiry, hrun, hnew, hpast, decide_false, Bool.or_self, Bool.false_eq_true, if_false]

theorem deadlineExpiry_gives (s : State) (c : Fin 12) (i : Fin 64) (k : Nat) (run : Running) (hon : s.on) (hk : k = 64 * c + i)
    (hrun : (s.dev.relOf k).run = some run) (hnew : run.missed = false) (hdue : run.deadline ≤ s.dev.tickTai) :
    Gives (.deadlineExpiry c i) s (fun d =>
      let d := d.setRel k { d.relOf k with run := some { run with missed := true } }
      let d := (d.bump CLU_DL_misses 1 0 c).raise (106 + c) (run.engine + i * 256)
      let d := d.engRec run.engine 0x8012 5 (run.engine + i * 256) ((d.tickTai - run.deadline) / 50)
      if run.irq then d.setEng run.engine { d.engOf run.engine with missed := (d.engOf run.engine).missed ++ [(i.val, run.tag)] } else d) := by
  have hclu : k / 64 = c := by omega
  have hentry : k % 64 = i := by omega
  refine Gives.of_act (fun d => d.deadlineExpiry (relKey c i)) hon rfl ?_
  rw [relKey, ← hk, Dev.deadlineExpiry_missed s.dev.cleared hrun hnew hdue, Dev.relMiss, hclu, hentry]
  rfl

end Sys2Proof.Machine
end

section
/-! SUPPORT. Gate calls: what the engine's trap leaves, what the Refuge answers, and its services (R263, R264, R275, R362). -/

namespace Sys2Proof.Machine

open Sys2Proof

/-! ### The trap into a gate (R263) -/

theorem Dev.rd_setEngState_ne (d : Dev) (e st reason : Nat) {f : Fld} {k p : Nat} (h : f.key k p ≠ (ENG_STATE_state : Fld).key 0 e) :
    (d.setEngState e st reason).rd f k p = d.rd f k p := by
  rw [Dev.setEngState, Dev.rd_wr_key_ne _ ENG_STATE_reason f _ _ _ _ _ h, Dev.rd_wr_key_ne _ _ _ _ _ _ _ _ h]

theorem Dev.engState_setEngState (d : Dev) (e st reason : Nat) : (d.setEngState e st reason).engState e = st % 8 := by
  rw [Dev.engState, Dev.setEngState, Dev.rd_wr_other _ ENG_STATE_reason ENG_STATE_state _ _ _ _ _ (by decide) (by decide) rfl (.inl (by decide)),
    Dev.rd_wr_same _ _ _ _ _ (by decide) (by decide)]
  rfl

/-- The registers of an engine's own page lie behind those of all pages below. -/
theorem engState_key_above {f : Fld} {k p : Nat} (h : f.key k p < 0x40000) (e : Nat) : f.key k p ≠ (ENG_STATE_state : Fld).key 0 e := by
  simp only [Fld.key, regKey] at h ⊢
  omega

theorem engWorld_key_ne_state (e j : Nat) : (ENG_WORLD_world : Fld).key 0 j ≠ (ENG_STATE_state : Fld).key 0 e := by
  simp only [Fld.key, regKey]
  omega

/-- The device once an engine's trap has called a gate: the engine waits in it, its pc past the trap. -/
abbrev Dev.gated (d : Dev) (e n nx : Nat) : Dev := (d.gateCall e n nx).setPc e nx

/-- The call as the Refuge finds it. -/
def Dev.gateArgs (d : Dev) (e n nx : Nat) : Gate :=
  { n := n, g4 := d.gr e 4, g5 := d.gr e 5, g6 := d.gr e 6, g7 := d.gr e 7, at_ := d.cclk, epc := nx }

section
variable (d : Dev) (e n nx : Nat)

theorem Dev.rd_gated {f : Fld} {k p : Nat} (h : f.key k p ≠ (ENG_STATE_state : Fld).key 0 e) : (d.gated e n nx).rd f k p = d.rd f k p := by
  rw [Dev.gated, Dev.setPc, Dev.rd_setEng, Dev.gateCall, Dev.rd_setEngState_ne _ _ _ _ h, Dev.rd_setEng]

/-- A register of a page below the engines' pages does not show the call. -/
theorem Dev.rd_gated_below {f : Fld} {k p : Nat} (h : f.key k p < 0x40000) : (d.gated e n nx).rd f k p = d.rd f k p :=
  d.rd_gated e n nx (engState_key_above h e)

theorem Dev.engWorld_gated (j : Nat) : (d.gated e n nx).engWorld j = d.engWorld j :=
  d.rd_gated e n nx (engWorld_key_ne_state e j)

theorem Dev.engOf_gated :
    (d.gated e n nx).engOf e = { d.engOf e with gate := some (d.gateArgs e n nx), pc := nx % 65536 } := by
  have hcall : (d.gateCall e n nx).engOf e = { d.engOf e with gate := some (d.gateArgs e n nx) } :=
    Dev.engOf_setEng_same d e _
  rw [Dev.gated, Dev.setPc, Dev.engOf_setEng_same, hcall]

theorem Dev.gr_gated (r : Nat) : (d.gated e n nx).gr e r = d.gr e r := by
  rw [Dev.gr, Dev.engOf_gated, Dev.gr]

theorem Dev.super_gated : ((d.gated e n nx).engOf e).super = (d.engOf e).super := by
  rw [Dev.engOf_gated]

theorem Dev.gateOf_gated : (d.gated e n nx).gateOf e = some (d.gateArgs e n nx) := by
  have hstate : (d.gated e n nx).engState e = 3 := by
    rw [Dev.engState, Dev.gated, Dev.setPc, Dev.rd_setEng, ← Dev.engState, Dev.gateCall, Dev.engState_setEngState]
  rw [Dev.gateOf, hstate, if_pos rfl, Dev.engOf_gated]

end

/-! ### The order of the replies (R25) -/

theorem engOrder_one (rr : Nat) (e : Fin 96) : engOrder rr [e] = [e] := by
  have h := flatMap_range_one (f := fun e : Fin 96 => rank rr (.eng e)) (fun _ _ => rfl) e 112
  rwa [if_pos (rank_lt _ _)] at h

theorem engOrder_two {rr : Nat} {e k : Fin 96} {l : List (Fin 96)} (hl : l = [e, k] ∨ l = [k, e])
    (h : rank rr (.eng e) < rank rr (.eng k)) : engOrder rr l = [e, k] :=
  flatMap_range_two (f := fun e : Fin 96 => rank rr (.eng e)) (fun _ _ => rfl) hl h 112 (rank_lt _ _)

theorem Dev.gateReplies_one (d : Dev) (rr : Nat) (e : Fin 96) : d.gateReplies rr [e] = d.gateReply e := by
  rw [Dev.gateReplies, show [e].eraseDups = [e] from rfl, engOrder_one]
  rfl

theorem Dev.gateReplies_two (d : Dev) {rr : Nat} {e k : Fin 96} {l : List (Fin 96)} (hl : l = [e, k] ∨ l = [k, e])
    (h : rank rr (.eng e) < rank rr (.eng k)) : d.gateReplies rr l = (d.gateReply e).gateReply k := by
  have hne : e ≠ k := by
    rintro rfl
    exact Nat.lt_irrefl _ h
  have hdups : l.eraseDups = l := by
    rcases hl with rfl | rfl
    · simp [List.eraseDups_cons, hne.symm]
    · simp [List.eraseDups_cons, hne]
  rw [Dev.gateReplies, hdups, engOrder_two hl h]
  rfl

/-! ### A gate command -/

/-- A running engine's trap calls its gate, and the Refuge answers. -/
theorem Dev.gateIssue_running (d : Dev) (rr : Nat) (e : Fin 96) {n nx : Nat} (same : List (Fin 96)) (hrun : d.engRunning e = true)
    (hcause : d.takeable e = none) (hn : 240 ≤ n) (hnx : nx = ((d.engOf e).pc + 4) % 65536) :
    d.gateIssue rr e n same = (d.gated e n nx).gateReplies rr (e :: same) := by
  have hout : d.gateOf e = none := by
    rw [Dev.gateOf, if_neg (by rw [beq_iff_eq.mp hrun]; decide)]
  have hissue : d.issue e 4 (fun d _ nx => d.opTrap e n nx) = d.gated e n nx := by
    subst hnx
    rw [Dev.issue_ready d e 4 _ hrun hcause, Dev.opTrap, if_neg (Nat.not_lt.mpr hn)]
    rfl
  have hin : ((d.gated e n nx).gateOf e).any (fun g => g.n == n) = true := by
    rw [Dev.gateOf_gated]
    exact beq_self_eq_true n
  simp only [Dev.gateIssue, hout, hissue, hin, Option.isSome_none, Bool.false_eq_true, if_false, if_true]

/-- The command of a gate that a ready engine calls alone. -/
theorem Gives.of_gate {c : Instr} {s : State} {f : Dev → Dev} {e : Fin 96} {n nx : Nat} (hiss : s.issues e) (hn : 240 ≤ n)
    (hnx : nx = ((s.dev.engOf e).pc + 4) % 65536) (hexec : exec c s = s.act (fun d => d.gateIssue s.rr e n []))
    (heff : (s.dev.cleared.gated e n nx).gateReply e = f s.dev.cleared) : Gives c s f := by
  obtain ⟨hon, hrun, hcause⟩ := hiss
  refine Gives.of_act (fun d => d.gateIssue s.rr e n []) hon hexec ?_
  rw [Dev.gateIssue_running s.dev.cleared s.rr e [] hrun hcause hn hnx, Dev.gateReplies_one, heff]

/-- What the Refuge answers, but for a dump and a security version still to be advanced. -/
theorem Dev.gateReply_answers (d : Dev) {e : Nat} {g : Gate} (hg : d.gateOf e = some g) (hdump : g.n ≠ 243) (hsec : g.n ≠ 249)
    {st : Status} {res : Option Word} {d' : Dev} (hserve : d.gateServe e g = (st, res, d')) : d.gateReply e = d'.gateAnswer e st res := by
  simp only [Dev.gateReply, hg, hserve, hdump, hsec, false_and, if_false]

theorem Dev.gateReply_gated (d : Dev) (e nx : Nat) {n : Nat} (hdump : n ≠ 243) (hsec : n ≠ 249) {st : Status} {res : Option Word} {d' : Dev}
    (hserve : (d.gated e n nx).gateServe e (d.gateArgs e n nx) = (st, res, d')) : (d.gated e n nx).gateReply e = d'.gateAnswer e st res :=
  Dev.gateReply_answers _ (d.gateOf_gated e n nx) hdump hsec hserve

/-- Gate 249 answers once the version is the one asked for. -/
theorem Dev.gateReply_secver_last (d : Dev) {e : Nat} {g : Gate} (hg : d.gateOf e = some g) {res : Option Word} {d' : Dev}
    (hserve : d.gateServe e g = (.ok, res, d')) (hdone : ¬d'.secver < g.g4.toNat) (hdump : g.n ≠ 243) :
    d.gateReply e = d'.gateAnswer e .ok res := by
  simp only [Dev.gateReply, hg, hserve, hdone, hdump, false_and, and_false, if_false]

/-- Until then the call waits. -/
theorem Dev.gateReply_secver_more (d : Dev) {e : Nat} {g : Gate} (hg : d.gateOf e = some g) (hn : g.n = 249) {res : Option Word} {d' : Dev}
    (hserve : d.gateServe e g = (.ok, res, d')) (hopen : d'.secver < g.g4.toNat) : d.gateReply e = d' := by
  have hdump : (249 : Nat) ≠ 243 := by decide
  simp only [Dev.gateReply, hg, hserve, hn, hopen, hdump, false_and, and_self, if_true, if_false]

/-! ### What each gate serves (R264, R362) -/

section
variable (d : Dev) (e : Nat) {g : Gate}

theorem Dev.gateServe_info (hn : g.n = 240) :
    d.gateServe e g = (.ok, some (BitVec.ofNat 32 (d.lcc + d.rfg.fwVersion % 256 * 256)), d) := by
  simp only [Dev.gateServe, hn]

theorem Dev.gateServe_record (hn : g.n = 241) (hlow : 0x9000 ≤ g.g4.toNat % 65536) (hhigh : g.g4.toNat % 65536 ≤ 0x9FFF)
    (hsev : g.g5.toNat % 8 ≤ (if (d.engOf e).super then 6 else 4)) :
    d.gateServe e g = (.ok, some 0, d.direct pgRFG (d.mkRec (g.g4.toNat % 65536) (g.g5.toNat % 8) 2 (d.engSrc e)
      ⟨g.g6.toNat, g.g7.toNat, g.epc⟩)) := by
  simp only [Dev.gateServe, hn, Dev.gateRecord, Nat.not_lt.mpr hlow, Nat.not_lt.mpr hhigh, Nat.not_lt.mpr hsev, or_self, if_false]

theorem Dev.gateServe_random (hn : g.n = 242) (hready : d.flag TRN_STAT_drbg_ready = true) :
    d.gateServe e g = (.ok, some (BitVec.ofNat 32 d.drbg.1), d.drbg.2) := by
  simp only [Dev.gateServe, hn, Dev.random, hready, if_true]

theorem Dev.gateServe_dump (hn : g.n = 243) (hsup : (d.engOf e).super = true) (hok : d.dumpRefusal = .ok) :
    d.gateServe e g = (.ok, none, d) := by
  simp only [Dev.gateServe, hn, hsup, hok]
  rfl

theorem Dev.gateServe_restart (hn : g.n = 244) : d.gateServe e g = d.gateRestart e g := by
  simp only [Dev.gateServe, hn]

theorem Dev.gateServe_install (hn : g.n = 246) : d.gateServe e g = d.gateKeyInstall e g := by
  simp only [Dev.gateServe, hn]

theorem Dev.gateServe_erase (hn : g.n = 247) : d.gateServe e g = d.gateKeyErase e g := by
  simp only [Dev.gateServe, hn]

theorem Dev.gateServe_secver (hn : g.n = 249) : d.gateServe e g = d.gateSecver e g := by
  simp only [Dev.gateServe, hn]

theorem Dev.gateServe_debug (hn : g.n = 251) : d.gateServe e g = (.ok, some (BitVec.ofNat 32 d.dbgPerms), d) := by
  simp only [Dev.gateServe, hn]

theorem Dev.gateServe_reserved (hn : 252 ≤ g.n) : d.gateServe e g = (.badParam, none, d) := by
  unfold Dev.gateServe
  dsimp only
  split
  any_goals omega
  rfl

end

end Sys2Proof.Machine
end

section
/-! SUPPORT. What each gate call gives, its time limit, and the Refuge's services (R263, R264, R275, R362). -/

namespace Sys2Proof.Machine

open Sys2Proof

/-! ### Services (R362) -/

/-- The gates that queue a service, each with its own refusal. -/
theorem Dev.gateServe_service (d : Dev) (e : Nat) {g : Gate} (hfree : d.rfg.services.length < 16)
    (hmay : g.n = 245 ∧ d.lcc ≠ 0 ∨ g.n = 248 ∧ (d.engOf e).super = true ∨
      g.n = 250 ∧ d.engWorld e = 1 ∧ (d.engOf e).super = true) :
    d.gateServe e g = (.ok, none, { d with rfg := { d.rfg with services := d.rfg.services ++
      [{ gate := g.n, engine := e, g4 := g.g4.toNat, g5 := g.g5.toNat, g6 := g.g6.toNat
         queue := g.g7.toNat % 2 ^ 14, seq := g.g7.toNat / 2 ^ 16 }] } }) := by
  have hserve : d.gateServe e g = d.service e g .ok := by
    obtain ⟨hn, hlcc⟩ | ⟨hn, hsup⟩ | ⟨hn, hworld, hsup⟩ := hmay
    · simp only [Dev.gateServe, hn, hlcc, if_false]
    · simp only [Dev.gateServe, hn, hsup, levelStatus, if_true]
    · simp only [Dev.gateServe, hn, Dev.pSuperEng, hsup, hworld, levelStatus, beq_self_eq_true, Bool.and_self, if_true]
  have hroom : pickStatus [.ok, if 16 ≤ d.rfg.services.length then .busy else .ok] = .ok := by
    rw [if_neg (Nat.not_le.mpr hfree)]
    rfl
  simp only [hserve, Dev.service, hroom, ne_eq, not_true, if_false]

/-- The work of a service that completes, by the gate that queued it. -/
def Dev.serviceWork (d : Dev) (v : Service) (env : CmdEnv) : Status × Nat × Dev :=
  match v.gate with
  | 245 => d.serveAttest v
  | 248 => d.serveSign v
  | _ => d.serveCommand v env

theorem Dev.serviceComplete_eq (d : Dev) (j : Nat) (env : CmdEnv) {v : Service} (hv : d.rfg.services[j]? = some v) :
    d.serviceComplete j env =
      (let x := ({ d with rfg := { d.rfg with services := d.rfg.services.eraseIdx j } }).serviceWork v env
       x.2.2.serviceItem v x.1 x.2.1) := by
  rw [Dev.serviceComplete, hv]
  rfl

theorem Dev.serviceWork_attest (d : Dev) {v : Service} (env : CmdEnv) (hn : v.gate = 245) : d.serviceWork v env = d.serveAttest v := by
  simp only [Dev.serviceWork, hn]

theorem Dev.serviceWork_sign (d : Dev) {v : Service} (env : CmdEnv) (hn : v.gate = 248) : d.serviceWork v env = d.serveSign v := by
  simp only [Dev.serviceWork, hn]

theorem Dev.serviceWork_command (d : Dev) {v : Service} (env : CmdEnv) (hn : v.gate = 250) :
    d.serviceWork v env = d.serveCommand v env := by
  simp only [Dev.serviceWork, hn]

/-- A service that completes is done, and its completion item tells how (R362). -/
theorem refugeServiceComplete_gives {s : State} {j : Nat} (env : CmdEnv) {v : Service} (hon : s.on)
    (hv : s.dev.rfg.services[j]? = some v) :
    Gives (.refugeServiceComplete j env) s (fun d =>
      let x := ({ d with rfg := { d.rfg with services := d.rfg.services.eraseIdx j } }).serviceWork v env
      (x.2.2.serviceItem v x.1 x.2.1).retiredNow) := by
  refine Gives.of_act (fun d => (d.serviceComplete j env).retiredNow) hon rfl ?_
  rw [Dev.serviceComplete_eq s.dev.cleared j env hv]

/-! ### Slots of the vault, the security version, debug -/

/-- An installation that ends well answers 0. -/
theorem Dev.gateKeyInstall_result (d : Dev) (e : Nat) (g : Gate) (h : (d.gateKeyInstall e g).1 = .ok) :
    (d.gateKeyInstall e g).2.1 = some 0 := by
  revert h
  unfold Dev.gateKeyInstall
  extract_lets slot len st
  split
  next hst => exact fun h => absurd h hst
  next =>
    split
    next rs b d1 _ =>
      split
      next ks d2 _ =>
        extract_lets
        split
        next hrs => exact fun h => absurd h hrs
        next =>
          split
          next hst => exact fun h => absurd h hst
          next => exact fun _ => rfl

/-- A caller at supervisor level erases a slot that its world may use. -/
theorem Dev.gateKeyErase_ok (d : Dev) (e : Nat) {g : Gate} {slot : Nat} (hslot : slot = g.g4.toNat) (hlow : 16 ≤ slot) (hhigh : slot < 256)
    (hsup : (d.engOf e).super = true) (hown : (d.slotOf slot).attr.testBit (if d.engWorld e = 1 then 13 else 14) = true) :
    d.gateKeyErase e g = (.ok, some 0,
      { d.setSlot slot {} with rfg := { d.rfg with copies := d.rfg.copies.filter (fun c => c.1 != slot) } }) := by
  subst hslot
  simp only [Dev.gateKeyErase, hsup, hown, Nat.not_lt.mpr hlow, Nat.not_le.mpr hhigh, decide_false, Bool.or_false, Bool.or_true,
    Bool.and_self, Bool.false_eq_true, if_false, levelStatus, if_true]
  rfl

/-- The permissions of debug do not show a call. -/
theorem Dev.dbgPerms_gated (d : Dev) (e n nx : Nat) : (d.gated e n nx).dbgPerms = d.dbgPerms := by
  have hlcc : (d.gated e n nx).rd LCC_STATE_state = d.rd LCC_STATE_state := d.rd_gated_below e n nx (by decide)
  have hactive : (d.gated e n nx).rd RFG_DBG_active = d.rd RFG_DBG_active := d.rd_gated_below e n nx (by decide)
  have hperms : (d.gated e n nx).rd RFG_DBG_perms = d.rd RFG_DBG_perms := d.rd_gated_below e n nx (by decide)
  rw [Dev.dbgPerms, Dev.flag, hlcc, hactive, hperms, Dev.dbgPerms, Dev.flag]

/-! ### The gates of an engine that calls alone -/

section
variable (s : State) (e : Fin 96) (nx : Nat) (hiss : s.issues e) (hnx : nx = ((s.dev.engOf e).pc + 4) % 65536)
include hiss hnx

theorem gateInfo_gives :
    Gives (.gateInfo e []) s (fun d =>
      ((d.gateCall e 240 nx).setPc e nx).gateAnswer e .ok (some (BitVec.ofNat 32 (d.lcc + d.rfg.fwVersion % 256 * 256)))) := by
  refine Gives.of_gate hiss (by decide) hnx rfl ?_
  have hlcc : (s.dev.cleared.gated e 240 nx).lcc = s.dev.cleared.lcc := Dev.rd_gated_below _ _ _ _ (by decide)
  rw [Dev.gateReply_gated _ _ _ (by decide) (by decide) (Dev.gateServe_info _ _ rfl), hlcc]
  rfl

theorem gateRecord_gives (hlow : 0x9000 ≤ (s.dev.gr e 4).toNat % 65536) (hhigh : (s.dev.gr e 4).toNat % 65536 ≤ 0x9FFF)
    (hsev : (s.dev.gr e 5).toNat % 8 ≤ (if (s.dev.engOf e).super then 6 else 4)) :
    Gives (.gateRecord e []) s (fun d =>
      let d := (d.gateCall e 241 nx).setPc e nx
      (d.direct pgRFG (d.mkRec ((d.gr e 4).toNat % 65536) ((d.gr e 5).toNat % 8) 2 (d.engSrc e)
        ⟨(d.gr e 6).toNat, (d.gr e 7).toNat, nx⟩)).gateAnswer e .ok (some 0)) := by
  refine Gives.of_gate hiss (by decide) hnx rfl ?_
  have hserve := Dev.gateServe_record (s.dev.cleared.gated e 241 nx) e (g := s.dev.cleared.gateArgs e 241 nx) rfl hlow hhigh
    (by rw [Dev.super_gated]; exact hsev)
  rw [Dev.gateReply_gated _ _ _ (by decide) (by decide) hserve]
  simp only [Dev.gr_gated, Dev.gateArgs]

theorem gateRandom_gives (hready : s.dev.flag TRN_STAT_drbg_ready = true) :
    Gives (.gateRandom e []) s (fun d =>
      let x := ((d.gateCall e 242 nx).setPc e nx).drbg
      x.2.gateAnswer e .ok (some (BitVec.ofNat 32 x.1))) := by
  refine Gives.of_gate hiss (by decide) hnx rfl ?_
  have hready' : (s.dev.cleared.gated e 242 nx).flag TRN_STAT_drbg_ready = true := by
    rw [Dev.flag, Dev.rd_gated_below _ _ _ _ (by decide)]
    exact hready
  rw [Dev.gateReply_gated _ _ _ (by decide) (by decide) (Dev.gateServe_random _ _ rfl hready')]

/-- An accepted dump freezes the engine (R275). -/
theorem gateDump_gives (hsup : (s.dev.engOf e).super = true) (hok : s.dev.dumpRefusal = .ok) :
    Gives (.gateDump e []) s (fun d =>
      let d := (d.gateCall e 243 nx).setPc e nx
      ({ d.engFreeze e 4 with rfg := { d.rfg with dumps := d.rfg.dumps ++
        [{ engine := e, trigger := 0, reason := (d.gr e 4).toNat, card := (d.gr e 5).getLsbD 0, at_ := d.taiNs, since := 0 }] } } : Dev).wr
          EVR_DUMP_STAT_busy 1) := by
  refine Gives.of_gate hiss (by decide) hnx rfl ?_
  have hok' : (s.dev.cleared.gated e 243 nx).dumpRefusal = .ok := by
    rw [Dev.dumpRefusal, Dev.flag, Dev.flag, Dev.rd_gated_below _ _ _ _ (by decide), Dev.rd_gated_below _ _ _ _ (by decide)]
    exact hok
  have hsup' : ((s.dev.cleared.gated e 243 nx).engOf e).super = true := (Dev.super_gated ..).trans hsup
  simp only [Dev.gateReply, Dev.gateOf_gated, Dev.gateServe_dump _ _ (g := s.dev.cleared.gateArgs e 243 nx) rfl hsup' hok',
    Dev.gr_gated]
  rfl

theorem gateService_gives {c : Instr} {n : Nat} (hexec : exec c s = s.act (fun d => d.gateIssue s.rr e n []))
    (hfree : s.dev.rfg.services.length < 16)
    (hmay : n = 245 ∧ s.dev.lcc ≠ 0 ∨ n = 248 ∧ (s.dev.engOf e).super = true ∨
      n = 250 ∧ s.dev.engWorld e = 1 ∧ (s.dev.engOf e).super = true) :
    Gives c s (fun d =>
      let d := (d.gateCall e n nx).setPc e nx
      let v : Service := { gate := n, engine := e, g4 := (d.gr e 4).toNat, g5 := (d.gr e 5).toNat, g6 := (d.gr e 6).toNat
                           queue := (d.gr e 7).toNat % 2 ^ 14, seq := (d.gr e 7).toNat / 2 ^ 16 }
      ({ d with rfg := { d.rfg with services := d.rfg.services ++ [v] } }).gateAnswer e .ok none) := by
  refine Gives.of_gate hiss (by omega) hnx hexec ?_
  have hlcc : (s.dev.cleared.gated e n nx).lcc = s.dev.cleared.lcc := Dev.rd_gated_below _ _ _ _ (by decide)
  have hserve := Dev.gateServe_service (s.dev.cleared.gated e n nx) e (g := s.dev.cleared.gateArgs e n nx) hfree
    (by rw [hlcc, Dev.super_gated, Dev.engWorld_gated]; exact hmay)
  rw [Dev.gateReply_gated _ _ _ (by omega) (by omega) hserve]
  simp only [Dev.gr_gated, Dev.gateArgs]

theorem gateKeyInstall_gives (g : Gate)
    (hg : g = { n := 246, g4 := s.dev.gr e 4, g5 := s.dev.gr e 5, g6 := s.dev.gr e 6, g7 := s.dev.gr e 7, at_ := s.dev.cclk, epc := nx })
    (hok : (((s.dev.cleared.gateCall e 246 nx).setPc e nx).gateKeyInstall e g).1 = .ok) :
    Gives (.gateKeyInstall e []) s (fun d =>
      let x := ((d.gateCall e 246 nx).setPc e nx).gateKeyInstall e g
      x.2.2.gateAnswer e .ok (some 0)) := by
  refine Gives.of_gate hiss (by decide) hnx rfl ?_
  have hargs : s.dev.cleared.gateArgs e 246 nx = g := hg.symm
  have hserve : (s.dev.cleared.gated e 246 nx).gateServe e (s.dev.cleared.gateArgs e 246 nx) =
      (.ok, some 0, ((s.dev.cleared.gated e 246 nx).gateKeyInstall e g).2.2) := by
    rw [hargs, Dev.gateServe_install _ _ (by rw [hg])]
    exact Prod.ext hok (Prod.ext (Dev.gateKeyInstall_result _ _ _ hok) rfl)
  rw [Dev.gateReply_gated _ _ _ (by decide) (by decide) hserve]

theorem gateKeyErase_gives (slot : Nat) (hsup : (s.dev.engOf e).super = true) (hslot : slot = (s.dev.gr e 4).toNat) (hlow : 16 ≤ slot)
    (hhigh : slot < 256) (hown : (s.dev.slotOf slot).attr.testBit (if s.dev.engWorld e = 1 then 13 else 14) = true) :
    Gives (.gateKeyErase e []) s (fun d =>
      let d := (d.gateCall e 247 nx).setPc e nx
      ({ d.setSlot slot {} with rfg := { d.rfg with copies := d.rfg.copies.filter (fun c => c.1 != slot) } }).gateAnswer e .ok (some 0)) := by
  refine Gives.of_gate hiss (by decide) hnx rfl ?_
  have hserve := Dev.gateKeyErase_ok (s.dev.cleared.gated e 247 nx) e (g := s.dev.cleared.gateArgs e 247 nx) hslot hlow hhigh
    ((Dev.super_gated ..).trans hsup) (by rw [Dev.engWorld_gated]; exact hown)
  rw [Dev.gateReply_gated _ _ _ (by decide) (by decide) ((Dev.gateServe_erase _ _ rfl).trans hserve)]

theorem gateDebugStatus_gives :
    Gives (.gateDebugStatus e []) s (fun d =>
      ((d.gateCall e 251 nx).setPc e nx).gateAnswer e .ok (some (BitVec.ofNat 32 d.dbgPerms))) := by
  refine Gives.of_gate hiss (by decide) hnx rfl ?_
  rw [Dev.gateReply_gated _ _ _ (by decide) (by decide) (Dev.gateServe_debug _ _ rfl), Dev.dbgPerms_gated]

theorem gateReserved_gives (j : Fin 4) :
    Gives (.gateReserved e j []) s (fun d => ((d.gateCall e (252 + j) nx).setPc e nx).gateAnswer e .badParam none) := by
  refine Gives.of_gate hiss (by omega) hnx rfl ?_
  rw [Dev.gateReply_gated _ _ _ (by omega) (by omega)
    (Dev.gateServe_reserved _ _ (by simp only [Dev.gateArgs]; omega))]

end

end Sys2Proof.Machine
end

section
/-! SUPPORT. The gates that start another engine or advance the security version, gate calls beside others, and O44 (R25, R255, R263,
R264, R357). -/

namespace Sys2Proof.Machine

open Sys2Proof

/-! ### A stop and a start (R253, R255) -/

/-- A stopped engine reads STOPPED, whatever its stop ended. -/
theorem Dev.engStop_kept (d : Dev) (t : Nat) :
    ((d.setEng t { d.engOf t with gate := none }).setEngState t 0 0).EnginePagesKept (d.engStop t) := by
  unfold Dev.engStop
  exact .lockFreeAll (.endTags (.refl _) _ _) _

theorem Dev.engState_engStop (d : Dev) (t : Nat) : (d.engStop t).engState t = 0 := by
  have hkept := (d.engStop_kept t).word ((ENG_STATE_state : Fld).key 0 t) (by simp only [Fld.key, regKey]; omega)
    (by simp only [Fld.key, regKey]; omega)
  rw [Dev.engState, Dev.rd, hkept, ← Dev.rd, ← Dev.engState, Dev.engState_setEngState]

theorem Dev.engWorld_engStop (d : Dev) (t : Nat) : (d.engStop t).engWorld t = d.engWorld t := by
  have hkept := (d.engStop_kept t).word ((ENG_WORLD_world : Fld).key 0 t) (by simp only [Fld.key, regKey]; omega)
    (by simp only [Fld.key, regKey]; omega)
  rw [Dev.engWorld, Dev.rd, hkept, ← Dev.rd, Dev.rd_setEngState_ne _ _ _ _ (engWorld_key_ne_state t t), Dev.rd_setEng, Dev.engWorld]

/-- STATUS lies in the header of its page. -/
theorem busy_key_ne_state (e page : Nat) : (STATUS_busy : Fld).key 0 page ≠ (ENG_STATE_state : Fld).key 0 e := by
  simp only [Fld.key, regKey]
  omega

theorem Dev.busy_engStop (d : Dev) (t : Nat) : (d.engStop t).rd STATUS_busy 0 (pgENG t) = d.rd STATUS_busy 0 (pgENG t) := by
  rw [(d.engStop_kept t).busy (pgENG t) (Nat.le_add_right _ _), Dev.rd_setEngState_ne _ _ _ _ (busy_key_ne_state t _), Dev.rd_setEng]

/-- An engine of some world whose memories are clear starts right after its stop. -/
theorem Dev.engStart_engStop (d : Dev) {t : Nat} (hworld : d.engWorld t ≠ 0) (hbusy : d.flag STATUS_busy 0 (pgENG t) = false) :
    (d.engStop t).engStart t = (.ok, ((d.engStop t).engFresh t).setEngState t 1 0) := by
  have hbusy' : (d.engStop t).flag STATUS_busy 0 (pgENG t) = false := by
    rw [Dev.flag, Dev.busy_engStop]
    exact hbusy
  simp only [Dev.engStart, d.engState_engStop t, d.engWorld_engStop t, hworld, hbusy', Bool.false_eq_true, or_self, if_false]

theorem Dev.gateRestart_ok (d : Dev) (e : Nat) {g : Gate} {t : Nat} (ht : t = g.g4.toNat) (hsup : (d.engOf e).super = true) (hlt : t < 96)
    (hne : t ≠ e) (hsame : d.engWorld t = d.engWorld e) (hworld : d.engWorld t ≠ 0) (hbusy : d.flag STATUS_busy 0 (pgENG t) = false) :
    d.gateRestart e g = (.ok, some 0, ((d.engStop t).engFresh t).setEngState t 1 0) := by
  have hst : pickStatus [levelStatus ((d.engOf e).super && ((decide (96 ≤ t) || t == e) || d.engWorld t == d.engWorld e)),
      if (decide (96 ≤ t) || t == e) = true then .badParam else .ok] = .ok := by
    rw [hsup, hsame, decide_eq_false (Nat.not_le.mpr hlt), beq_eq_false_iff_ne.mpr hne, beq_self_eq_true]
    rfl
  subst ht
  simp only [Dev.gateRestart, hst, d.engStart_engStop hworld hbusy, ne_eq, not_true, if_false, if_true]

/-! ### The security version (R357) -/

/-- One OTP bit more: the answer waits until the version is the one asked for. -/
theorem Dev.gateSecver_ok (d : Dev) (e : Nat) {g : Gate} (hsup : (d.engOf e).super = true) (hworld : d.engWorld e = 1)
    (hstage : d.rd RFG_STAGE_stage = 4) (hnew : d.secver < g.g4.toNat) (hlt : g.g4.toNat ≤ 255) (hfw : g.g4.toNat ≤ d.rfg.fwVersion) :
    d.gateSecver e g = (.ok, some (BitVec.ofNat 32 g.g4.toNat),
      if d.secver + 1 = g.g4.toNat then (d.wr LCC_COUNT_secver (d.secver + 1)).refugeRec 0xC011 7 g.g4.toNat 0
      else d.wr LCC_COUNT_secver (d.secver + 1)) := by
  have hst : pickStatus [if d.pSuperEng e && d.rd RFG_STAGE_stage == 4 then .ok else .denied,
      if d.rfg.fwVersion < g.g4.toNat then .badParam else .ok,
      if g.g4.toNat ≤ d.secver ∨ 255 < g.g4.toNat then .lifecycle else .ok] = .ok := by
    have hcaller : (d.pSuperEng e && d.rd RFG_STAGE_stage == 4) = true := by
      rw [Dev.pSuperEng, hsup, hworld, hstage]
      rfl
    rw [if_pos hcaller, if_neg (Nat.not_lt.mpr hfw), if_neg (by omega)]
    rfl
  have hbit : (d.wr LCC_COUNT_secver (d.secver + 1)).secver = d.secver + 1 := by
    rw [Dev.secver, Dev.rd_wr_same _ _ _ _ _ (by decide) (by decide)]
    exact Nat.mod_eq_of_lt (by show d.secver + 1 < 2 ^ 8; omega)
  simp only [Dev.gateSecver, hst, hbit, ne_eq, not_true, if_false]

section
variable (s : State) (e : Fin 96) (nx : Nat) (hiss : s.issues e) (hnx : nx = ((s.dev.engOf e).pc + 4) % 65536)
  (hsup : (s.dev.engOf e).super = true)
include hiss hnx hsup

theorem gateRestart_gives (t : Nat) (ht : t = (s.dev.gr e 4).toNat) (hlt : t < 96) (hne : t ≠ e.val)
    (hsame : s.dev.engWorld t = s.dev.engWorld e) (hworld : s.dev.engWorld t ≠ 0) (hbusy : s.dev.flag STATUS_busy 0 (pgENG t) = false) :
    Gives (.gateRestart e []) s (fun d =>
      let d := ((d.gateCall e 244 nx).setPc e nx).engStop t
      ((d.engFresh t).setEngState t 1 0).gateAnswer e .ok (some 0)) := by
  refine Gives.of_gate hiss (by decide) hnx rfl ?_
  have hbusy' : (s.dev.cleared.gated e 244 nx).flag STATUS_busy 0 (pgENG t) = false := by
    rw [Dev.flag, Dev.rd_gated _ _ _ _ (busy_key_ne_state e _)]
    exact hbusy
  have hserve := Dev.gateRestart_ok (s.dev.cleared.gated e 244 nx) e (g := s.dev.cleared.gateArgs e 244 nx) ht ((Dev.super_gated ..).trans hsup)
    hlt hne (by rw [Dev.engWorld_gated, Dev.engWorld_gated]; exact hsame) (by rw [Dev.engWorld_gated]; exact hworld) hbusy'
  rw [Dev.gateReply_gated _ _ _ (by decide) (by decide) ((Dev.gateServe_restart _ _ rfl).trans hserve)]

section
variable (v : Nat) (hworld : s.dev.engWorld e = 1) (hstage : s.dev.rd RFG_STAGE_stage = 4) (hv : v = (s.dev.gr e 4).toNat)
  (hlt : v ≤ 255) (hfw : v ≤ s.dev.rfg.fwVersion)
include hworld hstage hv hlt hfw

omit hiss hnx in
/-- What gate 249 serves to a caller that may ask for a higher version. -/
theorem gateSecver_serves (hnew : s.dev.secver < v) :
    (s.dev.cleared.gated e 249 nx).gateServe e (s.dev.cleared.gateArgs e 249 nx) = (.ok, some (BitVec.ofNat 32 v),
      if s.dev.secver + 1 = v then ((s.dev.cleared.gated e 249 nx).wr LCC_COUNT_secver (s.dev.secver + 1)).refugeRec 0xC011 7 v 0
      else (s.dev.cleared.gated e 249 nx).wr LCC_COUNT_secver (s.dev.secver + 1)) := by
  have hstage' : (s.dev.cleared.gated e 249 nx).rd RFG_STAGE_stage = 4 := (Dev.rd_gated_below _ _ _ _ (by decide)).trans hstage
  have hsecver : (s.dev.cleared.gated e 249 nx).secver = s.dev.secver := Dev.rd_gated_below _ _ _ _ (by decide)
  have hargs : (s.dev.cleared.gateArgs e 249 nx).g4.toNat = v := hv.symm
  have hserve := Dev.gateSecver_ok (s.dev.cleared.gated e 249 nx) e (g := s.dev.cleared.gateArgs e 249 nx) ((Dev.super_gated ..).trans hsup)
    ((Dev.engWorld_gated ..).trans hworld) hstage' (by rw [hsecver, hargs]; exact hnew) (by rw [hargs]; exact hlt)
    (by rw [hargs]; exact hfw)
  rw [Dev.gateServe_secver _ _ rfl, hserve, hsecver, hargs]

theorem gateSecverAdvance_last_gives (hnext : v = s.dev.secver + 1) :
    Gives (.gateSecverAdvance e []) s (fun d =>
      let d := (d.gateCall e 249 nx).setPc e nx
      ((d.wr LCC_COUNT_secver v).refugeRec 0xC011 7 v 0).gateAnswer e .ok (some (BitVec.ofNat 32 v))) := by
  refine Gives.of_gate hiss (by decide) hnx rfl ?_
  have hserve := gateSecver_serves s e nx hsup v hworld hstage hv hlt hfw (by omega)
  rw [if_pos hnext.symm, ← hnext] at hserve
  have hdone : ¬(((s.dev.cleared.gated e 249 nx).wr LCC_COUNT_secver v).refugeRec 0xC011 7 v 0).secver <
      (s.dev.cleared.gateArgs e 249 nx).g4.toNat := by
    have hsec : (((s.dev.cleared.gated e 249 nx).wr LCC_COUNT_secver v).refugeRec 0xC011 7 v 0).secver = v % 2 ^ 8 :=
      Dev.rd_wr_same (s.dev.cleared.gated e 249 nx) LCC_COUNT_secver v 0 0 (by decide) (by decide)
    have hargs : (s.dev.cleared.gateArgs e 249 nx).g4.toNat = v := hv.symm
    omega
  rw [Dev.gateReply_secver_last _ (Dev.gateOf_gated ..) hserve hdone (by simp [Dev.gateArgs])]

theorem gateSecverAdvance_more_gives (hmore : s.dev.secver + 1 < v) :
    Gives (.gateSecverAdvance e []) s (fun d => ((d.gateCall e 249 nx).setPc e nx).wr LCC_COUNT_secver (d.secver + 1)) := by
  refine Gives.of_gate hiss (by decide) hnx rfl ?_
  have hserve := gateSecver_serves s e nx hsup v hworld hstage hv hlt hfw (by omega)
  rw [if_neg (by omega)] at hserve
  have hopen : ((s.dev.cleared.gated e 249 nx).wr LCC_COUNT_secver (s.dev.secver + 1)).secver <
      (s.dev.cleared.gateArgs e 249 nx).g4.toNat := by
    have hsec : ((s.dev.cleared.gated e 249 nx).wr LCC_COUNT_secver (s.dev.secver + 1)).secver = (s.dev.secver + 1) % 2 ^ 8 :=
      Dev.rd_wr_same (s.dev.cleared.gated e 249 nx) LCC_COUNT_secver _ 0 0 (by decide) (by decide)
    have hargs : (s.dev.cleared.gateArgs e 249 nx).g4.toNat = v := hv.symm
    omega
  exact Dev.gateReply_secver_more _ (Dev.gateOf_gated ..) rfl hserve hopen

end
end

/-! ### Gate calls beside others, and their time limit (R25, R263) -/

theorem gateAnswer_alone_gives (s : State) (e : Fin 96) (g : Gate) (hon : s.on) (hg : s.dev.gateOf e = some g) (hn : g.n = 251) :
    Gives (.gateAnswer e []) s (fun d => d.gateAnswer e .ok (some (BitVec.ofNat 32 d.dbgPerms))) := by
  refine Gives.of_act (fun d => d.gateReplies s.rr [e]) hon rfl ?_
  rw [Dev.gateReplies_one, Dev.gateReply_answers s.dev.cleared hg (by omega) (by omega) (Dev.gateServe_debug _ _ hn)]

theorem gateAnswer_two_gives (s : State) (e k : Fin 96) (hon : s.on) (hrank : rank s.rr (.eng e) < rank s.rr (.eng k)) :
    Gives (.gateAnswer e [k]) s (fun d => (d.gateReply e).gateReply k) ∧
    Gives (.gateAnswer k [e]) s (fun d => (d.gateReply e).gateReply k) :=
  ⟨Gives.of_act (fun d => d.gateReplies s.rr [e, k]) hon rfl (Dev.gateReplies_two s.dev.cleared (.inl rfl) hrank),
    Gives.of_act (fun d => d.gateReplies s.rr [k, e]) hon rfl (Dev.gateReplies_two s.dev.cleared (.inr rfl) hrank)⟩

theorem gateInfo_two_gives (s : State) (e k : Fin 96) (nx : Nat) (hiss : s.issues e) (hnx : nx = ((s.dev.engOf e).pc + 4) % 65536)
    (hrank : rank s.rr (.eng k) < rank s.rr (.eng e)) :
    Gives (.gateInfo e [k]) s (fun d => (((d.gateCall e 240 nx).setPc e nx).gateReply k).gateReply e) := by
  obtain ⟨hon, hrun, hcause⟩ := hiss
  refine Gives.of_act (fun d => d.gateIssue s.rr e 240 [k]) hon rfl ?_
  rw [Dev.gateIssue_running s.dev.cleared s.rr e [k] hrun hcause (by decide) hnx, Dev.gateReplies_two _ (.inr rfl) hrank]

theorem gateTimeout_gives (s : State) (e : Fin 96) (g : Gate) (hon : s.on) (hg : s.dev.gateOf e = some g)
    (hdue : g.at_ + 10 * cclkPerMs ≤ s.dev.cclk) :
    Gives (.gateTimeout e) s (fun d => (d.engRec e 0x8020 4 e g.n).gateAnswer e .timeout none) := by
  have hg' : s.dev.cleared.gateOf e = some g := hg
  refine Gives.of_act (fun d => d.gateTimeout e) hon rfl ?_
  rw [Dev.gateTimeout, hg']
  exact if_neg (Nat.not_lt.mpr hdue)

/-- Settles O44, clause by clause: the release table and its deadlines, each gate call, the order of two, the time limit, the services. -/
theorem releasesAndGatesComplete : Obligations.ReleasesAndGatesComplete :=
  ⟨fun s r c k l hacc hk hl hnew hbad hold hdup =>
      Effects.of_relCommand 1 hacc rfl (Dev.relCommit_ok s.dev.cleared r c hk hl hnew hbad hold hdup),
    fun s r c k hacc hk hold => Effects.of_relCommand 2 hacc rfl (Dev.relInvalidate_ok s.dev.cleared r c hk hold),
    fun s r c x hacc hx => Effects.of_relCommand 3 hacc rfl (Dev.relRead_ok s.dev.cleared r c hx),
    deadlineExpiry_gives, gateInfo_gives, gateRecord_gives, gateRandom_gives, gateDump_gives,
    fun s e nx t hiss hnx hsup => gateRestart_gives s e nx hiss hnx hsup t,
    fun s e nx hiss hnx hlcc hfree => gateService_gives s e nx hiss hnx rfl hfree (.inl ⟨rfl, hlcc⟩),
    fun s e nx hiss hnx hsup hfree => gateService_gives s e nx hiss hnx rfl hfree (.inr (.inl ⟨rfl, hsup⟩)),
    fun s e nx hiss hnx hsup hworld hfree => gateService_gives s e nx hiss hnx rfl hfree (.inr (.inr ⟨rfl, hworld, hsup⟩)),
    fun s e nx g hiss hnx _ hg hok => gateKeyInstall_gives s e nx hiss hnx g hg hok,
    fun s e nx slot hiss hnx => gateKeyErase_gives s e nx hiss hnx slot,
    fun s e nx v hiss hnx hsup hworld hstage hv hnext hlt hfw =>
      gateSecverAdvance_last_gives s e nx hiss hnx hsup v hworld hstage hv hlt hfw hnext,
    fun s e nx v hiss hnx hsup hworld hstage hv hmore hlt hfw =>
      gateSecverAdvance_more_gives s e nx hiss hnx hsup v hworld hstage hv hlt hfw hmore,
    gateDebugStatus_gives, fun s e j nx hiss hnx => gateReserved_gives s e nx hiss hnx j,
    gateAnswer_alone_gives, gateAnswer_two_gives, gateInfo_two_gives, gateTimeout_gives,
    fun _ _ env _ hon hv hn => by simpa only [Dev.serviceWork_attest _ env hn] using refugeServiceComplete_gives env hon hv,
    fun _ _ env _ hon hv hn => by simpa only [Dev.serviceWork_sign _ env hn] using refugeServiceComplete_gives env hon hv,
    fun _ _ env _ hon hv hn => by simpa only [Dev.serviceWork_command _ env hn] using refugeServiceComplete_gives env hon hv⟩

end Sys2Proof.Machine
end

section
/-! SUPPORT. The values that ticks carry: what a tick leaves of them, whatever corrections of the counter take effect (R35, R45 to R48). -/

namespace Sys2Proof.Machine

open Sys2Proof

@[simp] theorem Dev.raise_tim (d : Dev) (src p0 p1 p2 : Nat) : (d.raise src p0 p1 p2).tim = d.tim := by
  unfold Dev.raise
  split <;> rfl

/-- The last tick carried `t`, and the next lies at least 50 ns ahead of it. -/
def Dev.TickSpaced (d : Dev) (t : Nat) : Prop := d.tim.lastTick = t ∧ t + 50 ≤ d.tim.nextTick

namespace Dev.TickSpaced

section
variable {d d' : Dev} {t : Nat} (h : d.TickSpaced t)
include h

/-- What touches neither tick value keeps them spaced. -/
theorem of_kept (hlast : d'.tim.lastTick = d.tim.lastTick) (hnext : d'.tim.nextTick = d.tim.nextTick) : d'.TickSpaced t := by
  rwa [TickSpaced, hlast, hnext]

/-- The same where the whole of TIM's state is as before. -/
theorem of_tim (htim : d'.tim = d.tim) : d'.TickSpaced t := h.of_kept (by rw [htim]) (by rw [htim])

/-- A move of the counter keeps the ticks spaced that leaves the next at least 50 ns after the last. -/
theorem moved (tai next : Nat) (event : Option Nat) (hnext : d.tim.lastTick + 50 ≤ next) :
    ({ d with tim := { d.tim with tai := tai, nextTick := next, stepEvent := event } } : Dev).TickSpaced t :=
  ⟨h.1, h.1 ▸ hnext⟩

theorem moveForward (ns : Nat) : (d.moveForward ns).TickSpaced t := by
  unfold Dev.moveForward
  exact h.moved _ _ _ (Nat.le_max_right _ _)

/-- Every correction keeps the next tick 50 ns ahead of the last: a set and a step by the grid rule of R46, the others leave both alone. -/
theorem applyCorrections : d.applyCorrections.TickSpaced t := by
  unfold Dev.applyCorrections
  extract_lets p _ d₀ held _ dSet dZero _ dStep _ dFreq _ dPhase
  have hset : dSet.TickSpaced t := by
    unfold dSet
    split
    · exact h.of_kept rfl rfl
    · split
      · exact moveForward (d := d₀) (h.of_kept rfl rfl) _
      · split
        · exact moved (d := d₀) (h.of_kept rfl rfl) _ _ _ (Nat.le_refl _)
        · exact h.of_kept rfl rfl
  have hstep : dStep.TickSpaced t := by
    unfold dStep
    split
    · exact hset
    · split
      · exact moveForward (d := dSet.wr TIM_STEP_ns 0) (hset.of_kept rfl rfl) _
      · exact hset.of_kept rfl rfl
  have hfreq : dFreq.TickSpaced t := by
    unfold dFreq
    split
    · split <;> exact hstep.of_kept rfl rfl
    · exact hstep
  have hphase : dPhase.TickSpaced t := by
    unfold dPhase
    split
    · exact hfreq
    · split <;> exact hfreq.of_kept rfl rfl
  exact hphase.of_kept rfl rfl

theorem raise (src p0 p1 p2 : Nat) : (d.raise src p0 p1 p2).TickSpaced t := h.of_tim (Dev.raise_tim ..)

theorem wr (f : Fld) (v k p : Nat) : (d.wr f v k p).TickSpaced t := h.of_tim rfl

theorem enterHoldover : d.enterHoldover.TickSpaced t := by
  unfold Dev.enterHoldover
  apply raise
  exact h.of_kept rfl rfl

theorem enterAcquiring : d.enterAcquiring.TickSpaced t := by
  unfold Dev.enterAcquiring
  apply raise
  exact h.of_kept rfl rfl

/-- A choice between two devices whose ticks are spaced. -/
theorem ite {c : Prop} {_ : Decidable c} (h' : d'.TickSpaced t) : (if c then d else d').TickSpaced t := by
  split
  · exact h
  · exact h'

theorem timSelect : d.timSelect.TickSpaced t := by
  unfold Dev.timSelect
  refine h.ite ?_
  extract_lets act act' _ dSel locked changed
  have hsel : dSel.TickSpaced t := h.of_kept rfl rfl
  split
  · exact hsel.enterAcquiring.ite hsel
  · exact (hsel.enterHoldover.ite ((hsel.wr ..).raise ..)).ite ((((hsel.wr ..).wr ..).raise ..).ite ((hsel.raise ..).ite hsel))
  · exact hsel.enterHoldover.ite (hsel.enterAcquiring.ite hsel)
  · exact hsel.enterAcquiring.ite hsel

theorem lockedTick (n : Nat) : (d.lockedTick n).TickSpaced t := by
  unfold Dev.lockedTick
  split
  · exact h.of_kept rfl rfl
  · exact h

theorem stepEventTick : d.stepEventTick.TickSpaced t := by
  unfold Dev.stepEventTick
  split
  · apply raise
    exact h.of_kept rfl rfl
  · exact h

theorem ext10Tick (x : Int) : (d.ext10Tick x).TickSpaced t := by
  unfold Dev.ext10Tick
  extract_lets _ dRead
  have hread : dRead.TickSpaced t := h.of_kept rfl rfl
  split
  · split
    · exact hread.of_kept rfl rfl
    · split
      · exact hread.of_kept rfl rfl
      · exact hread
  · exact hread

theorem holdTick : d.holdTick.TickSpaced t := by
  unfold Dev.holdTick
  exact ite (h.wr ..) h

theorem todCheck : d.todCheck.TickSpaced t := by
  unfold Dev.todCheck
  exact ite (h.raise ..) h

theorem ppsOutTick : d.ppsOutTick.TickSpaced t := by
  unfold Dev.ppsOutTick
  split
  · exact h.of_kept rfl rfl
  · split
    · split
      · exact h.of_kept rfl rfl
      · exact h
    · exact h

end

/-- The counter runs on to the tick that was due; the next is due 50 ns later. -/
theorem runToTick (d : Dev) : d.runToTick.TickSpaced d.tim.nextTick := ⟨rfl, Nat.le_refl _⟩

/-- The tick carries the value that was due, and whatever the tick applies leaves 50 ns to the next. -/
theorem timTick (d : Dev) (ext10 : Int) : (d.timTick ext10).TickSpaced d.tim.nextTick := by
  have hrun := ((runToTick d).lockedTick (d.runToTick.cclk - d.cclk)).stepEventTick.applyCorrections
  exact (hrun.ext10Tick ext10).timSelect.holdTick.todCheck.ppsOutTick

end Dev.TickSpaced

/-- Settles O60: a tick carries the value that was due (`Dev.TickSpaced.timTick`), which lay 50 ns ahead of the tick before. -/
theorem tickTimesRise : Obligations.TickTimesRise := by
  intro d ext10 hahead
  obtain ⟨hlast, hnext⟩ := Dev.TickSpaced.timTick d ext10
  exact ⟨hlast, by omega, by omega⟩

end Sys2Proof.Machine
end

section
/-! SUPPORT. The selection of the time source at a tick (R36, R37, R42). -/

namespace Sys2Proof.Machine

open Sys2Proof

/-! ### The source that a tick selects -/

/-- The source that the selection of a tick takes: the active one while it is qualified and in a slot, unless the reversion is due to a
source that stands before it; else the first qualified in slot order (R36, R37). -/
def Dev.selectedSource (d : Dev) : Nat :=
  let act := d.rd TIM_STATE_active_src
  if act != 0 && d.qualified act && d.srcOrder.contains act then (d.revertSource act).getD act else d.bestSource

theorem Dev.rd_lt (d : Dev) (f : Fld) (k p : Nat) : d.rd f k p < 2 ^ (f.hi + 1 - f.lo) := bitsOf_lt ..

/-- The slots hold source codes of two bits. -/
theorem Dev.srcOrder_lt (d : Dev) {c : Nat} (h : c ∈ d.srcOrder) : c < 4 := by
  obtain ⟨hslot, _⟩ := List.mem_filter.mp h
  simp only [List.mem_cons, List.not_mem_nil, or_false] at hslot
  rcases hslot with rfl | rfl | rfl | rfl <;> exact Dev.rd_lt ..

theorem Dev.bestSource_lt (d : Dev) : d.bestSource < 4 := by
  rw [Dev.bestSource]
  cases hfind : d.srcOrder.find? d.qualified with
  | none => decide
  | some c => exact d.srcOrder_lt (List.mem_of_find?_eq_some hfind)

section
variable {d : Dev} (hact : d.rd TIM_STATE_active_src ≠ 0) (hqual : d.qualified (d.rd TIM_STATE_active_src) = true)
  (hslot : d.srcOrder.contains (d.rd TIM_STATE_active_src) = true)
include hact hqual hslot

/-- An active source that is qualified and in a slot gives way to a reversion only. -/
theorem Dev.selectedSource_qualified :
    d.selectedSource = (d.revertSource (d.rd TIM_STATE_active_src)).getD (d.rd TIM_STATE_active_src) := by
  simp only [Dev.selectedSource, bne_iff_ne.mpr hact, hqual, hslot, Bool.and_self, if_true]

/-- Without a reversion it stays. -/
theorem Dev.selectedSource_stays (hrevert : d.tim.revert = false) : d.selectedSource = d.rd TIM_STATE_active_src := by
  simp only [Dev.selectedSource_qualified hact hqual hslot, Dev.revertSource, hrevert, Bool.false_and, Bool.false_eq_true, if_false,
    Option.getD_none]

/-- A reversion takes the first source before it that has been qualified for revert_s seconds. -/
theorem Dev.selectedSource_reverts {c : Nat} (hrevert : d.tim.revert = true) (hdelay : d.rd TIM_CFG_revert_s ≠ 0)
    (hfind : (d.srcOrder.takeWhile (· != d.rd TIM_STATE_active_src)).find? (fun c => d.qualified c &&
      decide (d.tim.qualSince.get c 0 + d.rd TIM_CFG_revert_s * cclkPerS ≤ d.cclk + 1)) = some c) :
    d.selectedSource = c := by
  simp only [Dev.selectedSource_qualified hact hqual hslot, Dev.revertSource, hrevert, bne_iff_ne.mpr hdelay, Bool.and_self, if_true, hfind,
    Option.getD_some]

end

/-- With no active source, or one that is not qualified, the first qualified source is taken. -/
theorem Dev.selectedSource_best {d : Dev} (h : d.rd TIM_STATE_active_src = 0 ∨ d.qualified (d.rd TIM_STATE_active_src) = false) :
    d.selectedSource = d.bestSource := by
  rw [Dev.selectedSource, if_neg]
  rcases h with h | h <;> simp [h]

/-! ### What the selection leaves -/

/-- The other fields of TIM_STATE are written apart from the active source. -/
theorem Dev.activeSource_wr (d : Dev) (f : Fld) (v : Nat) (hkey : f.key 0 0 = (TIM_STATE_active_src : Fld).key 0 0)
    (hle : f.lo ≤ f.hi) (hapart : 9 < f.lo ∨ f.hi < 8) : (d.wr f v).rd TIM_STATE_active_src = d.rd TIM_STATE_active_src :=
  Dev.rd_wr_other d f TIM_STATE_active_src v 0 0 0 0 hle (by decide) hkey.symm hapart

theorem Dev.enterHoldover_activeSource (d : Dev) : d.enterHoldover.rd TIM_STATE_active_src = d.rd TIM_STATE_active_src := by
  unfold Dev.enterHoldover
  rw [Dev.rd_raise]
  exact (Dev.activeSource_wr _ TIM_STATE_hold_elapsed 0 rfl (by decide) (by decide)).trans
    (Dev.activeSource_wr d TIM_STATE_state 3 rfl (by decide) (by decide))

theorem Dev.enterAcquiring_activeSource (d : Dev) : d.enterAcquiring.rd TIM_STATE_active_src = d.rd TIM_STATE_active_src := by
  unfold Dev.enterAcquiring
  rw [Dev.rd_raise]
  exact (Dev.activeSource_wr _ TIM_STATE_hold_elapsed 0 rfl (by decide) (by decide)).trans
    (Dev.activeSource_wr d TIM_STATE_state 1 rfl (by decide) (by decide))

theorem Dev.enterHoldover_state (d : Dev) : d.enterHoldover.rd TIM_STATE_state = 3 := by
  unfold Dev.enterHoldover
  rw [Dev.rd_raise]
  exact (Dev.rd_wr_other _ TIM_STATE_hold_elapsed TIM_STATE_state 0 0 0 0 0 (by decide) (by decide) rfl (by decide)).trans
    (Dev.rd_wr_same d TIM_STATE_state 3 0 0 (by decide) (by decide))

/-- A source that is raised stands at 1, whether it stood there before or not. -/
theorem Dev.raised_raise (d : Dev) {src : Nat} (p0 p1 p2 : Nat) (hsrc : src < 1024) : (d.raise src p0 p1 p2).raised src := by
  unfold Dev.raise Dev.raised
  split
  · assumption
  · simp [setBitV, hsrc]

theorem Dev.enterHoldover_raised (d : Dev) : d.enterHoldover.raised 641 := Dev.raised_raise _ _ _ _ (by decide)

/-- The device once the selection has written the active source, before the time state follows. -/
def Dev.withSelected (d : Dev) : Dev :=
  ({ d with tim := { d.tim with revert := false } }).wr TIM_STATE_active_src d.selectedSource

theorem Dev.withSelected_activeSource (d : Dev) : d.withSelected.rd TIM_STATE_active_src = d.selectedSource % 4 :=
  Dev.rd_wr_same _ TIM_STATE_active_src _ 0 0 (by decide) (by decide)

theorem Dev.withSelected_state (d : Dev) : d.withSelected.rd TIM_STATE_state = d.rd TIM_STATE_state :=
  Dev.rd_wr_other _ TIM_STATE_active_src TIM_STATE_state _ 0 0 0 0 (by decide) (by decide) rfl (by decide)

/-- A field that reads the same in both outcomes of a choice. -/
theorem Dev.rd_ite {d d' : Dev} {c : Prop} {_ : Decidable c} {f : Fld} {k p v : Nat} (h : d.rd f k p = v) (h' : d'.rd f k p = v) :
    (if c then d else d').rd f k p = v := by
  split
  · exact h
  · exact h'

section
variable {d : Dev} (hown : d.follower = false)
include hown

/-- Whatever time state follows, the active source is the selected one. -/
theorem Dev.timSelect_activeSource : d.timSelect.rd TIM_STATE_active_src = d.selectedSource % 4 := by
  unfold Dev.timSelect
  rw [if_neg (by simp [hown])]
  extract_lets act act' _ dSel locked changed
  have hsel : dSel.rd TIM_STATE_active_src = d.selectedSource % 4 := d.withSelected_activeSource
  have hhold : dSel.enterHoldover.rd TIM_STATE_active_src = d.selectedSource % 4 := (Dev.enterHoldover_activeSource _).trans hsel
  have hacq : dSel.enterAcquiring.rd TIM_STATE_active_src = d.selectedSource % 4 := (Dev.enterAcquiring_activeSource _).trans hsel
  have hfree : ((dSel.wr TIM_STATE_state 0).raise 643).rd TIM_STATE_active_src = d.selectedSource % 4 := by
    rw [Dev.rd_raise, Dev.activeSource_wr _ TIM_STATE_state _ rfl (by decide) (by decide), hsel]
  have hlock : (((dSel.wr TIM_STATE_state 2).wr TIM_STATE_ever_locked 1).raise 640).rd TIM_STATE_active_src = d.selectedSource % 4 := by
    rw [Dev.rd_raise, Dev.activeSource_wr _ TIM_STATE_ever_locked _ rfl (by decide) (by decide),
      Dev.activeSource_wr _ TIM_STATE_state _ rfl (by decide) (by decide), hsel]
  have hnew : (dSel.raise 643).rd TIM_STATE_active_src = d.selectedSource % 4 := (Dev.rd_raise ..).trans hsel
  split
  · exact Dev.rd_ite hacq hsel
  · exact Dev.rd_ite (Dev.rd_ite hhold hfree) (Dev.rd_ite hlock (Dev.rd_ite hnew hsel))
  · exact Dev.rd_ite hhold (Dev.rd_ite hacq hsel)
  · exact Dev.rd_ite hacq hsel

/-- A selected source that fits the field is the active one. -/
theorem Dev.timSelect_takes {c : Nat} (hsel : d.selectedSource = c) (hlt : c < 4) : d.timSelect.rd TIM_STATE_active_src = c := by
  rw [Dev.timSelect_activeSource hown, hsel, Nat.mod_eq_of_lt hlt]

/-- A LOCKED device that no source is left for enters HOLDOVER. -/
theorem Dev.timSelect_holdover (hstate : d.rd TIM_STATE_state = 2) (hsel : d.selectedSource = 0) :
    d.timSelect = d.withSelected.enterHoldover := by
  unfold Dev.timSelect
  rw [if_neg (by simp [hown])]
  extract_lets act act' _ dSel locked changed
  have hstate' : dSel.rd TIM_STATE_state = 2 := d.withSelected_state.trans hstate
  rw [hstate']
  exact if_pos hsel

end

/-- Settles O3: the selected source in the case of each clause, and what the selection leaves of it and of the time state. -/
theorem sourceSelection : Obligations.SourceSelection := by
  refine ⟨fun d hown hact hqual hslot hrevert =>
      Dev.timSelect_takes hown (Dev.selectedSource_stays hact hqual hslot hrevert) (Dev.rd_lt ..),
    fun d c hown hact hqual hslot hrevert hdelay hfind =>
      Dev.timSelect_takes hown (Dev.selectedSource_reverts hact hqual hslot hrevert hdelay hfind)
        (d.srcOrder_lt ((List.takeWhile_sublist _).subset (List.mem_of_find?_eq_some hfind))),
    fun d hown hnone => Dev.timSelect_takes hown (Dev.selectedSource_best hnone) d.bestSource_lt, fun d hown hqual hbest hstate => ?_⟩
  rw [Dev.timSelect_holdover hown hstate ((Dev.selectedSource_best (.inr hqual)).trans hbest)]
  exact ⟨Dev.enterHoldover_state _, Dev.enterHoldover_raised _⟩

end Sys2Proof.Machine
end

section
/-! SUPPORT. The counter's pair of registers, and the writes of TIM's and ORB's command registers (R40, R44 to R46, R49, R52, R61, R62, R543). -/

namespace Sys2Proof.Machine

open Sys2Proof

/-! ### Reads of a pair that latches (R49) -/

/-- A read that passes every check leaves what the read's own effect leaves, and answers its value. -/
theorem Completes.of_pageRead {c : Instr} {s : State} {P : Dev → Prop} {r : Req} {page off k : Nat} (hacc : s.acceptsRead r page off)
    (hexec : exec c s = s.act (fun d => d.pageRead r page off k))
    (hP : let e := s.dev.cleared.readEffect r page off k; P (e.2.2.answer e.1 e.2.1)) : Completes c s P := by
  obtain ⟨hon, hcheck, hcopy⟩ := hacc
  refine ⟨_, hexec.trans (State.act_on s _ hon), ?_⟩
  rw [Dev.pageRead, Dev.guardedRead_ok s.dev.cleared r page off _ hcheck hcopy]
  exact hP

/-- The half that latches gives its own value and keeps the other's. -/
theorem Dev.readEffect_pair (d : Dev) (r : Req) (page off c : Nat) (b : Blk) (inst : Nat) (p : Nat × Nat × Nat)
    (hb : pageBlock page = some (b, inst)) (hlow : off < 0x800) (hraw : off ≠ 0x010) (hact : d.readAct r b page off = none)
    (hpair : d.latchedPair r b inst page off c = some p) : d.readEffect r page off c = d.pairRead b r page p := by
  simp only [Dev.readEffect, hb, if_neg (Nat.not_le.mpr hlow), if_neg hraw, hact, hpair]

/-- The other half gives what the pair has latched. -/
theorem Dev.readEffect_latched (d : Dev) (r : Req) (page off c : Nat) (b : Blk) (inst : Nat) (hb : pageBlock page = some (b, inst))
    (hlow : off < 0x800) (hraw : off ≠ 0x010) (hact : d.readAct r b page off = none)
    (hpair : d.latchedPair r b inst page off c = none) (hhigh : latchedHigh b off = true) :
    d.readEffect r page off c = (.ok, (d.pairHi.get (latchKey b r page off) 0).toNat, d) := by
  simp only [Dev.readEffect, hb, if_neg (Nat.not_le.mpr hlow), if_neg hraw, hact, hpair, hhigh, if_true]

theorem ofNat_mod_two_pow (w n : Nat) : BitVec.ofNat w (n % 2 ^ w) = BitVec.ofNat w n := by
  apply BitVec.eq_of_toNat_eq
  simp

/-- TIM_TAI_LO gives the counter's low half in the CCLK of the read and latches the high half. -/
theorem Dev.readEffect_taiLo (d : Dev) (r : Req) (c : Nat) :
    d.readEffect r pgTIM 0x050 c =
      d.pairRead .tim r pgTIM (0x054, d.counterAt c / 2 ^ 32 % 2 ^ 32, d.counterAt c / 2 ^ 32 / 2 ^ 32 % 2 ^ 32) :=
  d.readEffect_pair r pgTIM 0x050 c .tim 0 _ rfl (by decide) (by decide) rfl rfl

theorem Dev.readEffect_taiHi (d : Dev) (r : Req) (c : Nat) :
    d.readEffect r pgTIM 0x054 c = (.ok, (d.pairHi.get (latchKey .tim r pgTIM 0x054) 0).toNat, d) :=
  d.readEffect_latched r pgTIM 0x054 c .tim 0 rfl (by decide) (by decide) rfl rfl rfl

/-- Settles O5: the read of each half of the counter's pair. -/
theorem latchedTai : Obligations.LatchedTai := by
  refine ⟨fun s r c hacc => Completes.of_pageRead (page := pgTIM) (off := 0x050) hacc rfl ?_,
    fun s r c hacc => Completes.of_pageRead (page := pgTIM) (off := 0x054) hacc rfl ?_⟩
  · rw [Dev.readEffect_taiLo]
    refine ⟨?_, ?_⟩
    · show Resp.mk (some .ok) (BitVec.ofNat 32 (s.dev.counterAt c / 2 ^ 32 % 2 ^ 32)) = _
      rw [ofNat_mod_two_pow]
    · show Tbl.get (Tbl.set s.dev.pairHi (latchKey .tim r pgTIM 0x054) (BitVec.ofNat 32 (s.dev.counterAt c / 2 ^ 32 / 2 ^ 32 % 2 ^ 32)) 0) _ 0 = _
      rw [Tbl.get_set_same, ofNat_mod_two_pow, Nat.div_div_eq_div_mul, ← Nat.pow_add]
  · rw [Dev.readEffect_taiHi]
    refine ⟨?_, rfl⟩
    show Resp.mk (some .ok) (BitVec.ofNat 32 (s.dev.pairHi.get (latchKey .tim r pgTIM 0x054) 0).toNat) = _
    rw [BitVec.ofNat_toNat, BitVec.setWidth_eq]

/-! ### Writes of TIM (R40, R44 to R46, R62) -/

theorem signed_toNat {w : Nat} (v : BitVec w) : signed w v.toNat = v.toInt := by
  rw [signed, BitVec.toInt_eq_toNat_cond, Nat.mod_eq_of_lt v.isLt]

theorem Effects.of_timWrite {c : Instr} {s : State} {f : Dev → Dev} {r : Req} {off v : Nat} (hacc : s.accepts r pgTIM off)
    (hoff : 0x040 ≤ off ∧ off < 0x800) (hexec : exec c s = s.write r pgTIM off v) (heff : s.dev.cleared.timWrite off v = (.ok, f s.dev.cleared)) :
    Effects c s pgTIM f :=
  Effects.of_blockWrite (b := .tim) (inst := 0) v hacc rfl rfl hoff hexec heff

theorem Dev.timPhaseWrite_eq (d : Dev) (v : Word) :
    d.timPhaseWrite v.toNat = (.ok, { d with tim := { d.tim with pend := { d.tim.pend with phase := some v.toInt } } }) := by
  rw [Dev.timPhaseWrite, signed_toNat]

/-- A step forward of a device that follows no rope is accepted in every time state. -/
theorem Dev.timStepWrite_forward (d : Dev) (v : Word) (hown : d.follower = false) (hpos : 0 < v.toInt) :
    d.timStepWrite v.toNat =
      (.ok, ({ d with tim := { d.tim with pend := { d.tim.pend with step := some v.toInt } } }).wr TIM_STEP_ns v.toNat) := by
  have hzero : v.toInt ≠ 0 := by omega
  have hneg : ¬v.toInt < 0 := by omega
  simp only [Dev.timStepWrite, signed_toNat, hown, hzero, hneg, false_and, Bool.false_eq_true, if_false]

/-- An absolute set is accepted until the first lock. -/
theorem Dev.timSetCommit_unlocked (d : Dev) (v : Nat) (hown : d.follower = false) (hfirst : d.flag TIM_STATE_ever_locked = false) :
    d.timSetCommit v = (.ok, { d with tim := { d.tim with pend := { d.tim.pend with set := some (v * 2 ^ 32 + d.tim.setLo) } } }) := by
  simp only [Dev.timSetCommit, hown, hfirst, Bool.false_eq_true, if_false]

/-! ### Writes of ORB (R52, R61, R543) -/

theorem Effects.of_orbWrite {c : Instr} {s : State} {f : Dev → Dev} {r : Req} {off v : Nat} (hacc : s.accepts r pgORB off)
    (hoff : 0x040 ≤ off ∧ off < 0x800) (hexec : exec c s = s.write r pgORB off v) (heff : s.dev.cleared.orbWrite off v = (.ok, f s.dev.cleared)) :
    Effects c s pgORB f :=
  Effects.of_blockWrite (b := .orb) (inst := 0) v hacc rfl rfl hoff hexec heff

/-- ORBn_CFG stands at 0x044 and every 0x40 up. -/
theorem Dev.orbWrite_cfg (d : Dev) (n : Fin 4) (v : Nat) : d.orbWrite (0x044 + 0x40 * n) v = d.orbCfgWrite n v := by
  fin_cases n <;> rfl

/-- ORBn_OFFSET stands at 0x048 and every 0x40 up. -/
theorem Dev.orbWrite_offset (d : Dev) (n : Fin 4) (v : Nat) : d.orbWrite (0x048 + 0x40 * n) v = d.orbOffsetWrite n v := by
  fin_cases n <;> rfl

/-- ORB_CMPk stands at 0x200 and up. -/
theorem Dev.orbWrite_cmp (d : Dev) (k : Fin 16) (v : Nat) : d.orbWrite (0x200 + 4 * k) v = d.orbCmpWrite k v := by
  fin_cases k <;> rfl

/-- Setting run leaves the loop's bandwidth as written. -/
theorem bitsOf_bw_set (v : Nat) : bitsOf (v ||| 1) 5 4 = bitsOf v 5 4 := by
  apply Nat.eq_of_testBit_eq
  intro i
  have hone : Nat.testBit 1 (4 + i) = false := Nat.testBit_lt_two_pow (Nat.one_lt_two_pow (by omega))
  rw [testBit_bitsOf, testBit_bitsOf, Nat.testBit_or, hone, Bool.or_false]

/-- Clearing run leaves the loop's bandwidth as written. -/
theorem bitsOf_bw_clear (v : Nat) : bitsOf (v / 2 * 2) 5 4 = bitsOf v 5 4 := by
  simp only [bitsOf, Nat.shiftRight_eq_div_pow]
  omega

/-- Clearing run leaves the nominal frequency as written. -/
theorem bitOf_nominal_clear (v : Nat) : bitOf (v / 2 * 2) 1 = bitOf v 1 := by
  rw [bitOf, bitOf, Nat.testBit_eq_decide_div_mod_eq, Nat.testBit_eq_decide_div_mod_eq]
  congr 2
  omega

theorem bitOf_run_set (v : Nat) : bitOf (v ||| 1) 0 = true := by simp [bitOf]

theorem bitOf_run_clear (v : Nat) : bitOf (v / 2 * 2) 0 = false := by simp [bitOf]

/-- A tracker's state behind its registers stands outside the register words. -/
theorem Dev.orbit_plainWrite (d : Dev) (page off v n : Nat) : (d.plainWrite page off v).2.orbit n = d.orbit n := by
  unfold Dev.plainWrite
  split
  · rfl
  · split
    · rfl
    · dsimp only
      split
      · rfl
      · split <;> rfl

/-- A write of run = 1 to a tracker that does not run, with a source of a kind that exists, asks for a start. -/
theorem Dev.orbCfgWrite_start (d : Dev) (n v : Nat) (hrun : d.flag ORBn_CFG_run n = false) (hkind : d.rd ORBn_SRC_kind n ≠ 3)
    (hbw : bitsOf v 5 4 ≠ 3) :
    d.orbCfgWrite n (v ||| 1) = (.ok,
      let d := (d.plainWrite pgORB (0x044 + 0x40 * n) (v ||| 1)).2
      d.setOrbit n { d.orbit n with startReq := true, stopReq := false }) := by
  simp only [Dev.orbCfgWrite, hrun, hkind, bitsOf_bw_set, hbw, bitOf_run_set, pickStatus]
  simp

/-- A write of run = 0 to a tracker that runs asks for a stop. -/
theorem Dev.orbCfgWrite_stop (d : Dev) (n v : Nat) (hrun : d.flag ORBn_CFG_run n = true) (hnominal : bitOf v 1 = d.flag ORBn_CFG_nominal n)
    (hbw : bitsOf v 5 4 ≠ 3) (hstart : (d.orbit n).startReq = false) :
    d.orbCfgWrite n (v / 2 * 2) = (.ok,
      let d := (d.plainWrite pgORB (0x044 + 0x40 * n) (v / 2 * 2)).2
      d.setOrbit n { d.orbit n with stopReq := true }) := by
  have hstart' : ((d.plainWrite pgORB (0x044 + 0x40 * n) (v / 2 * 2)).2.orbit n).startReq = false := by rw [Dev.orbit_plainWrite, hstart]
  simp only [Dev.orbCfgWrite, hrun, bitOf_nominal_clear, hnominal, bitsOf_bw_clear, hbw, bitOf_run_clear, hstart', pickStatus]
  simp

theorem Dev.orbOffsetWrite_eq (d : Dev) (n : Nat) (v : BitVec 16) :
    d.orbOffsetWrite n v.toNat = (.ok,
      let d := (d.plainWrite pgORB (0x048 + 0x40 * n) v.toNat).2
      if d.rd ORBn_STATE_state n = 0 then d else d.setOrbit n { d.orbit n with offsetNew := some v.toNat }) := by
  have hv : bitsOf v.toNat 15 0 = v.toNat := Nat.mod_eq_of_lt v.isLt
  simp only [Dev.orbOffsetWrite, hv, Dev.orbState]

/-- A write that sets en arms the comparator. -/
theorem Dev.orbCmpWrite_arms (d : Dev) (k : Nat) (v : Word) (hen : v.getLsbD 31 = true) (hoff : d.flag ORB_CMPk_en k = false) :
    d.orbCmpWrite k v.toNat = (.ok,
      let d := (d.plainWrite pgORB (0x200 + 4 * k) v.toNat).2
      { d with cmp := d.cmp.set k ⟨true, 0⟩ ⟨false, 0⟩ }) := by
  have hbit : bitOf v.toNat 31 = true := hen
  simp only [Dev.orbCmpWrite, hbit, hoff, Bool.not_false, Bool.true_or, Bool.and_self, if_true]

/-- Settles O4, clause by clause: the accepted case of each register's write. -/
theorem timeWritesComplete : Obligations.TimeWritesComplete := by
  refine ⟨fun s r v hacc => ?_, fun s r v hacc => ?_, fun s r v hacc hown hpos => ?_, fun s r v hacc hown hfirst => ?_, fun s r hacc => ?_,
    fun s r n v hacc hrun hkind hbw => ?_, fun s r n v hacc hrun hnominal hbw hstart => ?_, fun s r n v hacc => ?_,
    fun s r k v hacc hen hoff => ?_⟩
  · exact Effects.of_timWrite hacc (by decide) rfl rfl
  · exact Effects.of_timWrite hacc (by decide) rfl (Dev.timPhaseWrite_eq ..)
  · exact Effects.of_timWrite hacc (by decide) rfl (Dev.timStepWrite_forward s.dev.cleared v hown hpos)
  · exact Effects.of_timWrite hacc (by decide) rfl (Dev.timSetCommit_unlocked s.dev.cleared v.toNat hown hfirst)
  · exact Effects.of_timWrite hacc (by decide) rfl rfl
  · exact Effects.of_orbWrite hacc (by omega) rfl ((Dev.orbWrite_cfg ..).trans (Dev.orbCfgWrite_start s.dev.cleared n v.toNat hrun hkind hbw))
  · exact Effects.of_orbWrite hacc (by omega) rfl
      ((Dev.orbWrite_cfg ..).trans (Dev.orbCfgWrite_stop s.dev.cleared n v.toNat hrun hnominal hbw hstart))
  · exact Effects.of_orbWrite hacc (by omega) rfl ((Dev.orbWrite_offset ..).trans (Dev.orbOffsetWrite_eq s.dev.cleared n v))
  · exact Effects.of_orbWrite hacc (by omega) rfl ((Dev.orbWrite_cmp ..).trans (Dev.orbCmpWrite_arms s.dev.cleared k v hen hoff))

end Sys2Proof.Machine
end

section
/-! SUPPORT. The rope: the edges of ROPE_TICK at a member, the slots of each type, a lost member (R46, R471 to R480). -/

namespace Sys2Proof.Machine

open Sys2Proof

/-! ### Edges at a member (R46, R473, R474, R476) -/

/-- An edge that is no tick of the member leaves the round-robin pointer alone. -/
theorem exec_ropeTickEdge_apart {s : State} (elapsed : Nat) (mark : Bool) (env : TickEnv) (h : s.dev.following = false ∨ s.dev.rop.hold ≠ 0) :
    exec (.ropeTickEdge elapsed mark env) s = s.act (fun d => d.ropeTickEdge elapsed mark env) := by
  have hown : (s.dev.sys.powered && s.dev.ropeMember && s.dev.following && s.dev.rop.hold == 0) = false := by
    rcases h with h | h <;> simp [h]
  show execRopeTickEdge elapsed mark env s = _
  simp only [execRopeTickEdge, hown, Bool.false_eq_true, if_false]

/-- An edge that a member follows is its tick, and moves the round-robin pointer on. -/
theorem exec_ropeTickEdge_own {s : State} (elapsed : Nat) (mark : Bool) (env : TickEnv) (hon : s.on) (hmem : s.dev.ropeMember = true)
    (hfol : s.dev.following = true) (hhold : s.dev.rop.hold = 0) :
    exec (.ropeTickEdge elapsed mark env) s =
      .next { s with rr := (s.rr + 1) % 112, dev := s.dev.cleared.ropeTickEdge elapsed mark env } := by
  show execRopeTickEdge elapsed mark env s = _
  simp only [execRopeTickEdge, hon, hmem, hfol, hhold, Bool.and_self, BEq.rfl, if_true]
  exact State.act_on { s with rr := (s.rr + 1) % 112 } _ hon

theorem Dev.ropeTickEdge_apart (d : Dev) (elapsed : Nat) (env : TickEnv) (hmem : d.ropeMember = true) (hfol : d.following = false) :
    d.ropeTickEdge elapsed false env =
      { d with rop := { d.rop with edgeAt := d.cclk + elapsed, agreeFrom := some (d.rop.agreeFrom.getD d.cclk) } } := by
  simp only [Dev.ropeTickEdge, hmem, hfol, Bool.not_true, Bool.not_false, Bool.false_eq_true, if_false, if_true]
  rfl

/-- A member that was set back passes over the edge. -/
theorem Dev.ropeTickEdge_held (d : Dev) (elapsed : Nat) (env : TickEnv) (hmem : d.ropeMember = true) (hfol : d.following = true)
    (hhold : d.rop.hold ≠ 0) : d.ropeTickEdge elapsed false env = d.heldEdge elapsed := by
  simp only [Dev.ropeTickEdge, hmem, hfol, hhold, Bool.not_true, Bool.false_eq_true, if_false, ne_eq, not_false_eq_true, if_true]

/-- The member's counter at an edge that it follows, before it compares its value with the leader's. -/
def Dev.edgeTick (d : Dev) (elapsed : Nat) (ext10 : Int) : Dev :=
  let f := d.followTick elapsed
  let n := ((f.lockedTick (f.cclk - d.cclk)).stepEventTick.applyCorrections).ext10Tick ext10
  ({ n with rop := { n.rop with edgeAt := n.cclk } }).ppsOutTick

section
variable (d : Dev) (elapsed : Nat) (env : TickEnv) (hmem : d.ropeMember = true) (hfol : d.following = true) (hhold : d.rop.hold = 0)
include hmem hfol hhold

/-- A second mark compares the member's value with the leader's. -/
theorem Dev.ropeTickEdge_mark :
    d.ropeTickEdge elapsed true env =
      ((d.edgeTick elapsed env.ext10).ropeMark (d.edgeTick elapsed env.ext10).tim.lastTick).tickRest d env := by
  simp only [Dev.ropeTickEdge, hmem, hfol, hhold, Bool.not_true, Bool.false_eq_true, if_false, ne_eq, not_true, if_true]
  rfl

/-- Without a mark the tick is no whole second. -/
theorem Dev.ropeTickEdge_tick (hsecond : (d.edgeTick elapsed env.ext10).tim.lastTick % 1000000000 ≠ 0) :
    d.ropeTickEdge elapsed false env = (d.edgeTick elapsed env.ext10).tickRest d env := by
  simp only [Dev.ropeTickEdge, hmem, hfol, hhold, Bool.not_true, Bool.false_eq_true, if_false, ne_eq, not_true]
  exact congrArg (Dev.tickRest · d env) (if_neg hsecond)

/-- A whole second without a mark ends the following. -/
theorem Dev.ropeTickEdge_unmarked (hsecond : (d.edgeTick elapsed env.ext10).tim.lastTick % 1000000000 = 0) :
    d.ropeTickEdge elapsed false env = ((d.edgeTick elapsed env.ext10).ropeUnfollow).tickRest d env := by
  simp only [Dev.ropeTickEdge, hmem, hfol, hhold, Bool.not_true, Bool.false_eq_true, if_false, ne_eq, not_true]
  exact congrArg (Dev.tickRest · d env) (if_pos hsecond)

end

theorem Dev.ropeTickLoss_follows (d : Dev) (hmem : d.ropeMember = true) (hfol : d.following = true) :
    d.ropeTickLoss =
      ((({ d with rop := { d.rop with agreeFrom := none, time := [], step := [], hold := 0 } }).wr ROP_STAT_following 0).enterHoldover).raise
        997 1 1 := by
  simp only [Dev.ropeTickLoss, Dev.ropeUnfollow, hmem, hfol, Bool.and_self, Bool.not_true, Bool.false_eq_true, if_true, if_false]
  rfl

/-- A member that has agreed for a second, with its offset within 1 ns, follows again. -/
theorem Dev.ropeRejoin_due (d : Dev) {t : Nat} (hmem : d.ropeMember = true) (hfol : d.following = false) (hagree : d.rop.agreeFrom = some t)
    (hdue : t + cclkPerS ≤ d.cclk) (hnear : d.tim.rem.natAbs ≤ 2 ^ 32) :
    d.ropeRejoin =
      (let d := if d.rd TIM_STATE_state = 2 then d else d.raise 640
       let d := { d with rop := { d.rop with hold := (d.tim.nextTick * 2 ^ 32 - d.tim.tai - 1) / (50 * 2 ^ 32) } }
       ((((d.wr ROP_STAT_following 1).wr TIM_STATE_state 2).wr TIM_STATE_ever_locked 1).wr TIM_STATE_hold_elapsed 0).raise 997 0 1) := by
  simp only [Dev.ropeRejoin, hmem, hfol, hagree, hdue, hnear, decide_true, Bool.not_false, Bool.and_self, if_true]
  rfl

/-! ### Slots (R471, R472) -/

/-- A valid slot of the row's own type, on a lane that the device hears. -/
theorem Dev.ropeSlot_heard (d : Dev) {t lane bits : Nat} (f : Dev → Nat → Dev) (hlane : d.hearsLane lane = true) (htype : slotType bits = t)
    (ht : t < 8) : d.ropeSlot t lane bits true f = f (d.laneSeen lane) (bits % 2 ^ 36) := by
  have hknown : ¬8 ≤ t := Nat.not_le.mpr ht
  simp only [Dev.ropeSlot, hlane, htype, hknown, decide_false, Bool.not_true, Bool.or_self, Bool.false_eq_true, if_false, ne_eq, not_true]

/-- A slot with a code error or of a reserved type is counted and recorded in any row. -/
theorem Dev.ropeSlot_error (d : Dev) (t : Nat) {lane bits : Nat} {ok : Bool} (f : Dev → Nat → Dev) (hlane : d.hearsLane lane = true)
    (hbad : ok = false ∨ 8 ≤ slotType bits) : d.ropeSlot t lane bits ok f = d.slotError lane (slotType bits) := by
  have hbad' : (!ok || decide (8 ≤ slotType bits)) = true := by rcases hbad with h | h <;> simp [h]
  simp only [Dev.ropeSlot, hlane, hbad', Bool.not_true, Bool.false_eq_true, if_false, if_true]

/-- A leader hears every member's lane. -/
theorem Dev.hearsLane_leader {d : Dev} {lane : Fin 4} (hlead : d.ropeLeader = true) (hlane : lane ≠ 0) : d.hearsLane lane = true := by
  have hne : (lane.val != 0) = true := bne_iff_ne.mpr (fun h => hlane (Fin.ext h))
  simp only [Dev.hearsLane, hlead, hne, Bool.and_self, Bool.true_or]

section
variable {d : Dev} (hmem : d.ropeMember = true)
include hmem

/-- A member hears the leader's lane. -/
theorem Dev.hearsLane_member : d.hearsLane 0 = true := by
  simp only [Dev.hearsLane, hmem, BEq.rfl, Bool.and_self, Bool.or_true]

/-- Only a leader notes who is present. -/
theorem Dev.laneSeen_member (lane : Nat) : d.laneSeen lane = d := by
  obtain ⟨_, hpos⟩ := Bool.and_eq_true_iff.mp hmem
  have hlead : d.ropeLeader = false := by
    rw [Dev.ropeLeader, Bool.and_eq_false_iff]
    exact .inr (beq_eq_false_iff_ne.mpr (bne_iff_ne.mp hpos))
  simp only [Dev.laneSeen, hlead, Bool.not_false, true_or, if_true]

/-- A valid slot that a member hears from the leader. -/
theorem Dev.ropeSlot_member {t bits : Nat} (f : Dev → Nat → Dev) (htype : slotType bits = t) (ht : t < 8) :
    d.ropeSlot t 0 bits true f = f d (bits % 2 ^ 36) := by
  rw [Dev.ropeSlot_heard d f (Dev.hearsLane_member hmem) htype ht, Dev.laneSeen_member hmem]

end

/-! ### What the slots bring (R474, R475, R477, R479, R480) -/

theorem Dev.ropeEvent_leader (d : Dev) {lane : Fin 4} {bits : Nat} (hlead : d.ropeLeader = true) (hlane : lane ≠ 0)
    (htype : slotType bits = 1) :
    d.ropeEvent lane bits true =
      ((d.laneSeen lane).fwdEntry lane (bits % 2 ^ 36 / 2 ^ 18)).fwdEntry lane (bits % 2 ^ 36 % 2 ^ 18) := by
  have hne : lane.val ≠ 0 := fun h => hlane (Fin.ext h)
  rw [Dev.ropeEvent, Dev.ropeSlot_heard d _ (Dev.hearsLane_leader hlead hlane) htype (by decide), if_neg hne]

/-- The slot that begins a flit drops what the lane had gathered. -/
theorem Dev.ropeDataSlot_first (d : Dev) {lane bits : Nat} (hlane : d.hearsLane lane = true) (htype : slotType bits = 2)
    (hfirst : (bits % 2 ^ 36).testBit 33 = true) :
    d.ropeDataSlot lane bits true =
      (let d := d.laneSeen lane
       { d with rop := { d.rop with parts := d.rop.parts.set lane (leBytes (bits % 2 ^ 36 % 2 ^ 32) 4) [] } }) := by
  have hlen : ([] ++ leBytes (bits % 2 ^ 36 % 2 ^ 32) 4).length < 256 := by simp [leBytes]
  rw [Dev.ropeDataSlot, Dev.ropeSlot_heard d _ hlane htype (by decide)]
  simp only [Dev.ropeData, hfirst, hlen, if_true]
  rfl

theorem Dev.ropeCreditSlot_heard (d : Dev) {lane bits : Nat} (hlane : d.hearsLane lane = true) (htype : slotType bits = 3) :
    d.ropeCreditSlot lane bits true =
      (let d := d.laneSeen lane
       let vc := bitsOf (bits % 2 ^ 36) 35 34
       d.addRopeCredit lane vc (min (bitsOf (bits % 2 ^ 36) 33 30) (8 - d.ropeCredit lane vc) : Nat)) :=
  Dev.ropeSlot_heard d _ hlane htype (by decide)

section
variable {d : Dev} {bits : Nat} (hmem : d.ropeMember = true)
include hmem

theorem Dev.ropeTimeSlot_part (htype : slotType bits = 4) (hpart : bitsOf (bits % 2 ^ 36) 33 32 < 2) :
    d.ropeTimeSlot 0 bits true =
      { d with rop := { d.rop with time := d.rop.time.put (bitsOf (bits % 2 ^ 36) 33 32) (bits % 2 ^ 36 % 2 ^ 32) } } := by
  rw [Dev.ropeTimeSlot, Dev.ropeSlot_member hmem _ htype (by decide), if_neg (Nat.not_le.mpr hpart)]
  rfl

/-- The first part of a step is kept with the number of the tick that brought it. -/
theorem Dev.ropeStepSlot_first (htype : slotType bits = 5) (hpart : bitsOf (bits % 2 ^ 36) 33 32 < 2) (hnone : d.rop.step = []) :
    d.ropeStepSlot 0 bits true =
      { d with rop := { d.rop with
        step := Tbl.put (Tbl.put [] 2 d.ticks) (bitsOf (bits % 2 ^ 36) 33 32) (bits % 2 ^ 36 % 2 ^ 32) } } := by
  have hlen (v : Nat) : (Tbl.put (Tbl.put [] 2 d.ticks) (bitsOf (bits % 2 ^ 36) 33 32) v).length < 3 := by
    simp only [Tbl.put, hpart, if_true, List.length_cons, List.length_nil]
    decide
  rw [Dev.ropeStepSlot, Dev.ropeSlot_member hmem _ htype (by decide)]
  simp only [Nat.not_le.mpr hpart, hnone, List.isEmpty_nil, hlen, if_true, if_false]
  rfl

/-- The second part completes the leader's value, which the member takes for its coming edge. -/
theorem Dev.ropeStepSlot_second {low at_ : Nat} (htype : slotType bits = 5) (hpart : bitsOf (bits % 2 ^ 36) 33 32 = 1)
    (hfirst : d.rop.step = [(0, low), (2, at_)]) :
    d.ropeStepSlot 0 bits true =
      ({ d with rop := { d.rop with step := [] } }).adoptNext (low + bits % 2 ^ 32 * 2 ^ 32 + 50 * (d.ticks + 1 - at_)) := by
  have hword : bits % 2 ^ 36 % 2 ^ 32 = bits % 2 ^ 32 := Nat.mod_mod_of_dvd _ (Nat.pow_dvd_pow 2 (by decide))
  rw [Dev.ropeStepSlot, Dev.ropeSlot_member hmem _ htype (by decide)]
  simp only [hpart, hfirst, hword]
  rfl

end

section
variable {d : Dev} {bits n : Nat} (hn : n = bitsOf (bits % 2 ^ 36) 35 34) (hfollows : d.orbFollows n = true)
include hn hfollows

/-- A correction waits for the tick that it names. -/
theorem Dev.ropeOrbitSlot_update (hmem : d.ropeMember = true) (htype : slotType bits = 6) (hpart : bitsOf (bits % 2 ^ 36) 33 32 = 1) :
    d.ropeOrbitSlot 0 bits true =
      { d with rop := { d.rop with
        updates := d.rop.updates ++
          [(n, bits % 2 ^ 36 % 2 ^ 32 / 2 ^ 24, d.rop.orbit.get (8 * n) 0, signed 24 (bits % 2 ^ 36 % 2 ^ 32))] } } := by
  rw [Dev.ropeOrbitSlot, Dev.ropeSlot_member hmem _ htype (by decide)]
  simp only [← hn, hfollows, hpart, Bool.not_true, Bool.false_eq_true, if_false]
  rfl

section
variable (hmem : d.ropeMember = true) (htype : slotType bits = 7) (hseen : d.rop.hiSeen.contains n = true)
include hmem htype hseen

/-- The high bits of the cycle count agree. -/
theorem Dev.ropeOrbitHi_agrees (hsame : (d.orbit n).trail.headD 0 / orbCycle / 2 ^ 32 % 65536 = bits % 2 ^ 36 % 65536) :
    d.ropeOrbitHi 0 bits true = d := by
  rw [Dev.ropeOrbitHi, Dev.ropeSlot_member hmem _ htype (by decide)]
  simp only [← hn, hfollows, hseen, hsame, Bool.not_true, Bool.false_eq_true, if_false, if_true]
  rfl

/-- They differ: the member takes the leader's. -/
theorem Dev.ropeOrbitHi_differs (hdiff : (d.orbit n).trail.headD 0 / orbCycle / 2 ^ 32 % 65536 ≠ bits % 2 ^ 36 % 65536) :
    d.ropeOrbitHi 0 bits true =
      (let o := d.orbit n
       let by_ : Int :=
         (((bits % 2 ^ 36 % 65536 : Nat) : Int) - (o.trail.headD 0 / orbCycle / 2 ^ 32 % 65536 : Nat)) * 2 ^ 32 * orbCycle
       (d.setOrbit n { o with
         pos := o.pos + by_, vis := max o.vis (o.pos + by_).toNat
         trail := o.trail.map (fun x : Nat => ((x : Int) + by_).toNat) }).rated pgROP 0x1022 0 4 0x10 n) := by
  rw [Dev.ropeOrbitHi, Dev.ropeSlot_member hmem _ htype (by decide)]
  simp only [← hn, hfollows, hseen, hdiff, Bool.not_true, Bool.false_eq_true, if_false, if_true]
  rfl

end
end

/-! ### A lost member (R480) -/

theorem Dev.ropeMemberLoss_due (d : Dev) {lane : Nat} (hlead : d.ropeLeader = true) (hmember : (d.rd ROP_STAT_members).testBit lane = true)
    (hdue : d.rop.seen.get lane 0 + 15 ≤ d.ticks) :
    d.ropeMemberLoss lane = (d.wr ROP_STAT_members (setBits (d.rd ROP_STAT_members) lane lane 0)).raise 996 lane 1 := by
  simp only [Dev.ropeMemberLoss, hlead, hmember, hdue, decide_true, Bool.and_self, if_true]

/-- Settles O55, clause by clause: the edges, the slots of each type, the lost member. -/
theorem ropeCompletes : Obligations.RopeCompletes := by
  refine ⟨fun s elapsed env hon hmem hfol => ?_, fun s elapsed env f n m hon hmem hfol hhold hf hn hm => ?_,
    fun s elapsed env hon hmem hfol hhold => ?_, fun s hon hmem hfol => ?_, fun s t hon hmem hfol hagree hdue hnear => ?_,
    fun s lane bits v hon hlead hlane htype hv => ?_, fun s lane bits v hon hlane htype hv hfirst => ?_,
    fun s lane bits v vc hon hlane htype hv hvc => ?_, fun s bits v hon hmem htype hv hpart => ?_,
    fun s bits v hon hmem htype hv hpart hnone => ?_, fun s bits low at_ hon hmem htype hpart hfirst => ?_,
    fun s bits v n hon hmem htype hv hn hfollows hpart => ?_, fun s bits v n hon hmem htype hv hn hfollows hseen hsame => ?_,
    fun s bits v n hon hmem htype hv hn hfollows hseen hdiff => ?_, fun s lane bits hon hlane htype => ?_,
    fun s lane bits ok hon hlane hbad => ?_, fun s lane hon hlead hmember hdue => ?_⟩
  · exact Gives.of_act _ hon (exec_ropeTickEdge_apart elapsed false env (.inl hfol))
      (Dev.ropeTickEdge_apart s.dev.cleared elapsed env hmem hfol)
  · have hedge : m = s.dev.cleared.edgeTick elapsed env.ext10 := by rw [hm, hn, hf]; rfl
    rw [hedge]
    refine ⟨?_, fun hsecond => ?_, fun hsecond => ?_⟩
    · rw [exec_ropeTickEdge_own elapsed true env hon hmem hfol hhold, Dev.ropeTickEdge_mark s.dev.cleared elapsed env hmem hfol hhold]
    · rw [exec_ropeTickEdge_own elapsed false env hon hmem hfol hhold,
        Dev.ropeTickEdge_tick s.dev.cleared elapsed env hmem hfol hhold hsecond]
    · rw [exec_ropeTickEdge_own elapsed false env hon hmem hfol hhold,
        Dev.ropeTickEdge_unmarked s.dev.cleared elapsed env hmem hfol hhold hsecond]
  · exact Gives.of_act _ hon (exec_ropeTickEdge_apart elapsed false env (.inr hhold))
      (Dev.ropeTickEdge_held s.dev.cleared elapsed env hmem hfol hhold)
  · exact Gives.of_act Dev.ropeTickLoss hon rfl (Dev.ropeTickLoss_follows s.dev.cleared hmem hfol)
  · exact Gives.of_act Dev.ropeRejoin hon rfl (Dev.ropeRejoin_due s.dev.cleared hmem hfol hagree hdue hnear)
  · subst hv
    exact Gives.of_act (fun d => d.ropeEvent lane bits.toNat true) hon rfl (Dev.ropeEvent_leader s.dev.cleared hlead hlane htype)
  · subst hv
    exact Gives.of_act (fun d => d.ropeDataSlot lane bits.toNat true) hon rfl (Dev.ropeDataSlot_first s.dev.cleared hlane htype hfirst)
  · subst hvc hv
    exact Gives.of_act (fun d => d.ropeCreditSlot lane bits.toNat true) hon rfl (Dev.ropeCreditSlot_heard s.dev.cleared hlane htype)
  · subst hv
    exact Gives.of_act (fun d => d.ropeTimeSlot 0 bits.toNat true) hon rfl (Dev.ropeTimeSlot_part (d := s.dev.cleared) hmem htype hpart)
  · subst hv
    exact Gives.of_act (fun d => d.ropeStepSlot 0 bits.toNat true) hon rfl
      (Dev.ropeStepSlot_first (d := s.dev.cleared) hmem htype hpart hnone)
  · exact Gives.of_act (fun d => d.ropeStepSlot 0 bits.toNat true) hon rfl
      (Dev.ropeStepSlot_second (d := s.dev.cleared) hmem htype hpart hfirst)
  · subst hv
    exact Gives.of_act (fun d => d.ropeOrbitSlot 0 bits.toNat true) hon rfl
      (Dev.ropeOrbitSlot_update (d := s.dev.cleared) hn hfollows hmem htype hpart)
  · subst hv
    exact Gives.of_act (fun d => d.ropeOrbitHi 0 bits.toNat true) hon rfl
      (Dev.ropeOrbitHi_agrees (d := s.dev.cleared) hn hfollows hmem htype hseen hsame)
  · subst hv
    exact Gives.of_act (fun d => d.ropeOrbitHi 0 bits.toNat true) hon rfl
      (Dev.ropeOrbitHi_differs (d := s.dev.cleared) hn hfollows hmem htype hseen hdiff)
  · exact Gives.of_act (fun d => d.ropeIdle lane bits.toNat true) hon rfl (Dev.ropeSlot_heard s.dev.cleared _ hlane htype (by decide))
  · exact Gives.of_act (fun d => d.ropeIdle lane bits.toNat ok) hon rfl (Dev.ropeSlot_error s.dev.cleared 0 _ hlane hbad)
  · exact Gives.of_act (fun d => d.ropeMemberLoss lane) hon rfl (Dev.ropeMemberLoss_due s.dev.cleared hlead hmember hdue)

end Sys2Proof.Machine
end

section
/-! SUPPORT. The tick of the trip logic array and of the trip outputs: what the array demands, what the outputs become (R77, R79 to R83,
R352). -/

namespace Sys2Proof.Machine

open Sys2Proof

/-! ### Unions of masks -/

/-- A bit of a union over a list is set where it was set before or where an element sets it. -/
theorem bit_foldl_union {α β : Type} {union : β → β → β} {bit : β → Bool} (hunion : ∀ a b, bit (union a b) = (bit a || bit b))
    (f : α → β) (l : List α) (m : β) : bit (l.foldl (fun m x => union m (f x)) m) = (bit m || l.any (fun x => bit (f x))) := by
  induction l generalizing m with
  | nil => simp
  | cons x l ih => rw [List.foldl_cons, ih, hunion, List.any_cons, Bool.or_assoc]

theorem testBit_maskOf (l : List Nat) (n : Nat) : (maskOf l).testBit n = decide (n ∈ l) := by
  have hbits := bit_foldl_union (bit := fun m => m.testBit n) (fun a b => Nat.testBit_or a b n) (fun k => 1 <<< k) l 0
  have hbit (k : Nat) : (1 <<< k).testBit n = decide (k = n) := by rw [Nat.one_shiftLeft, Nat.testBit_two_pow]
  rw [maskOf, hbits, Nat.zero_testBit, Bool.false_or, Bool.eq_iff_iff]
  simp [hbit]

theorem getLsbD_maskWhere (p : Nat → Bool) (n : Nat) : (maskWhere p).getLsbD n = (decide (n < 64) && p n) := by
  rw [maskWhere, BitVec.getLsbD_ofNat, testBit_maskOf]
  by_cases hn : n < 64 <;> simp [hn]

/-! ### The array (R77, R79) -/

/-- The array finds an uncorrectable error in term `t` of the bank that starts at `bank`. -/
def Dev.pitFault (bank : Nat) (d : Dev) (t : Nat) : Dev :=
  (if bank + t ∈ d.pit.bad then d else { d with pit := { d.pit with bad := (bank + t) :: d.pit.bad } }).raise 105 t

/-- The term of entry `e` is true at this tick: in the bank that starts at `bank`, not marked uncorrectable, its literals true. -/
def Dev.pitTrue (d : Dev) (bank : Nat) (e : Nat × Term) : Bool :=
  decide (bank ≤ e.1) && decide (e.1 < bank + 256) && !d.pit.bad.contains e.1 && termTrue d.evm.vec d.evm.rise d.evm.fall e.2

/-- What SECDED finds changes neither the terms nor the vector that they are evaluated over. -/
structure Dev.ArrayKept (d d' : Dev) : Prop where
  terms : d'.pit.terms = d.pit.terms
  vec : d'.evm.vec = d.evm.vec
  rise : d'.evm.rise = d.evm.rise
  fall : d'.evm.fall = d.evm.fall

@[simp] theorem Dev.raise_pit (d : Dev) (src p0 p1 p2 : Nat) : (d.raise src p0 p1 p2).pit = d.pit := by
  unfold Dev.raise
  split <;> rfl

@[simp] theorem Dev.raise_tou (d : Dev) (src p0 p1 p2 : Nat) : (d.raise src p0 p1 p2).tou = d.tou := by
  unfold Dev.raise
  split <;> rfl

theorem Dev.ArrayKept.raise {d d' : Dev} (h : d.ArrayKept d') (src p0 p1 p2 : Nat) : d.ArrayKept (d'.raise src p0 p1 p2) := by
  unfold Dev.raise
  split
  · exact h
  · exact ⟨h.terms, h.vec, h.rise, h.fall⟩

theorem Dev.ArrayKept.pitFault {d d' : Dev} (h : d.ArrayKept d') (bank t : Nat) : d.ArrayKept (d'.pitFault bank t) := by
  refine Dev.ArrayKept.raise ?_ 105 t 0 0
  split
  · exact h
  · exact ⟨h.terms, h.vec, h.rise, h.fall⟩

theorem Dev.arrayKept_pitFaults (d : Dev) (bank : Nat) (errs : List Nat) : d.ArrayKept (errs.foldl (Dev.pitFault bank) d) :=
  List.foldlRecOn errs _ ⟨rfl, rfl, rfl, rfl⟩ (fun _ h t _ => h.pitFault bank t)

theorem Dev.mem_bad_pitFault (d : Dev) (bank t k : Nat) : k ∈ (d.pitFault bank t).pit.bad ↔ k ∈ d.pit.bad ∨ k = bank + t := by
  rw [Dev.pitFault, Dev.raise_pit]
  split
  · exact ⟨.inl, fun h => h.elim id (fun h => h ▸ ‹_›)⟩
  · rw [List.mem_cons, or_comm]

/-- A term is marked when it was before or when this tick's read marks it. -/
theorem Dev.mem_bad_pitFaults (d : Dev) (bank : Nat) (errs : List Nat) (k : Nat) :
    k ∈ (errs.foldl (Dev.pitFault bank) d).pit.bad ↔ k ∈ d.pit.bad ∨ ∃ t ∈ errs, k = bank + t := by
  induction errs generalizing d with
  | nil => simp
  | cons t errs ih => simp only [List.foldl_cons, ih, Dev.mem_bad_pitFault, List.mem_cons, exists_eq_or_imp, or_assoc]

theorem Dev.pitTrue_pitFaults (d : Dev) (bank : Nat) (errs : List Nat) (e : Nat × Term) :
    (errs.foldl (Dev.pitFault bank) d).pitTrue bank e = true ↔
      bank ≤ e.1 ∧ e.1 < bank + 256 ∧ e.1 ∉ d.pit.bad ∧ (∀ t ∈ errs, e.1 ≠ bank + t) ∧
        termTrue d.evm.vec d.evm.rise d.evm.fall e.2 = true := by
  obtain ⟨-, hvec, hrise, hfall⟩ := d.arrayKept_pitFaults bank errs
  have hbad := d.mem_bad_pitFaults bank errs e.1
  simp only [Dev.pitTrue, hvec, hrise, hfall, Bool.and_eq_true, decide_eq_true_eq, Bool.not_eq_true', List.contains_eq_mem,
    decide_eq_false_iff_not, hbad, not_or, not_exists, not_and, ne_eq, and_assoc]

/-- Without a swap the array demands the masks of the active bank's true terms. -/
theorem Dev.pitTick_demand (d : Dev) (errs : List Nat) (hswap : d.pit.swapReq = false) :
    (d.pitTick errs).tou.demand =
      (d.pit.terms.filter ((errs.foldl (Dev.pitFault (b2n d.pit.active * 256)) d).pitTrue (b2n d.pit.active * 256))).foldl
        (fun m e => m ||| e.2.omask) 0 := by
  rw [← (d.arrayKept_pitFaults (b2n d.pit.active * 256) errs).terms]
  simp only [Dev.pitTick, hswap, Bool.false_eq_true, if_false]
  rfl

/-- Settles O7: a bit of the demand is a bit of the mask of one of the terms that the array finds true. -/
theorem tripDemand : Obligations.TripDemand := by
  intro d errs n hswap
  have hbits := bit_foldl_union (bit := fun m : BitVec 64 => m.getLsbD n) (fun a b => BitVec.getLsbD_or) (fun e : Nat × Term => e.2.omask)
  rw [Dev.pitTick_demand d errs hswap, hbits, show BitVec.getLsbD (0 : BitVec 64) n = false from BitVec.getLsbD_zero, Bool.false_or, List.any_eq_true]
  simp only [List.mem_filter, Dev.pitTrue_pitFaults, and_assoc]

/-! ### The outputs (R80, R81, R83, R352) -/

/-- Output `n` may not be energised: its configuration does not enable it, a complement fault holds it off, the device is in bivouac mode,
or TOU is neither enabled nor draining. -/
def Dev.touBarred (d : Dev) (n : Nat) : Prop :=
  d.flag TOU_CFGn_en n = false ∨ d.tou.heldOff.getLsbD n = true ∨ d.bivouac = true ∨
    (d.flag STATUS_enabled 0 pgTOU = false ∧ d.flag STATUS_draining 0 pgTOU = false)

theorem Dev.touWanted_barred {d : Dev} {n : Nat} (h : d.touBarred n) : d.touWanted n = false := by
  unfold Dev.touWanted
  rcases h with hen | hheld | hbiv | ⟨henabled, hdraining⟩
  · simp [hen]
  · simp [hheld]
  · simp [hbiv]
  · simp [henabled, hdraining]

/-- A demand changes nothing of what bars an output. -/
theorem Dev.touBarred_touDemand {d : Dev} {n : Nat} (h : d.touBarred n) (k : Nat) : (d.touDemand k).touBarred n := by
  unfold Dev.touDemand
  split <;> exact h

theorem Dev.touBarred_touDemands {d : Dev} {n : Nat} (h : d.touBarred n) (l : List Nat) : (l.foldl Dev.touDemand d).touBarred n :=
  List.foldlRecOn (motive := fun d : Dev => d.touBarred n) l _ h (fun _ h k _ => Dev.touBarred_touDemand h k)

/-- The events of a change leave the outputs as they were set. -/
theorem Dev.touSet_energised (d : Dev) (e : BitVec 64) : (d.touSet e).tou.energised = e := by
  unfold Dev.touSet
  dsimp only
  split <;> split <;> simp only [Dev.raise_tou]

theorem Dev.touTick_energised (d : Dev) :
    d.touTick.tou.energised = maskWhere ((setBitsOf d.tou.demand.toNat 64).foldl Dev.touDemand d).touWanted :=
  Dev.touSet_energised ..

/-- Settles O8: what bars an output still bars it once the tick's demands are taken, and no output so barred is wanted. -/
theorem tripOutputsFailSafe : Obligations.TripOutputsFailSafe := by
  intro d n hbarred
  rw [Dev.touTick_energised, getLsbD_maskWhere, Dev.touWanted_barred (Dev.touBarred_touDemands hbarred _), Bool.and_false]

end Sys2Proof.Machine
end

section
/-! SUPPORT. The inputs, timers and writes of the event matrix and the piton path, each in the case that a statement names (R65, R68, R75,
R76, R78 to R80, R82, R87, R547). -/

namespace Sys2Proof.Machine

open Sys2Proof

/-! ### Binary inputs (R75, R76, R547) -/

theorem Dev.bi_setBi_same (d : Dev) (n : Nat) (b : Bi) : (d.setBi n b).bi n = b := Tbl.get_set_same ..

theorem Dev.bi_setBi_ne (d : Dev) {j n : Nat} (h : j ≠ n) (b : Bi) : (d.setBi n b).bi j = d.bi j := Tbl.get_set_ne _ h ..

/-- A raw change keeps its time with the level that it goes to. -/
theorem Dev.bi_biRawChange_same (d : Dev) (n off : Nat) :
    (d.biRawChange n off).bi n =
      if d.biRaw n then { d.bi n with rise := (d.tickTai, off), lastRaw := d.ticks }
      else { d.bi n with fall := (d.tickTai, off), lastRaw := d.ticks } := by
  unfold Dev.biRawChange
  split <;> exact Dev.bi_setBi_same ..

theorem Dev.bi_biRawChange_ne (d : Dev) {j n : Nat} (h : j ≠ n) (off : Nat) : (d.biRawChange n off).bi j = d.bi j := by
  unfold Dev.biRawChange
  split <;> exact Dev.bi_setBi_ne d h _

theorem Dev.biRawChange_eq (d : Dev) (n off : Nat) : d.biRawChange n off = { d with bio := (d.biRawChange n off).bio } := by
  unfold Dev.biRawChange
  split <;> rfl

/-- A new pin level of an enabled input is a raw change. -/
theorem Dev.biEdge_enabled (d : Dev) (n : Nat) (l : Bool) (off : Nat) (hpin : (d.bi n).pin ≠ l) (hen : d.flag BIO_CFGn_en n = true) :
    d.biEdge n l off = (d.setBi n { d.bi n with pin := l }).biRawChange n off := by
  have hen' : (d.setBi n { d.bi n with pin := l }).flag BIO_CFGn_en n = true := hen
  simp only [Dev.biEdge, if_neg hpin, hen', if_true]

theorem Dev.biRaw_setPin (d : Dev) (n : Nat) (l : Bool) :
    (d.setBi n { d.bi n with pin := l }).biRaw n = (l != d.flag BIO_CFGn_pol n) := by
  rw [Dev.biRaw, Dev.bi_setBi_same]
  rfl

/-- The edge's time stands with the level that it goes to. -/
theorem Dev.bi_biEdge_same (d : Dev) (n : Nat) (l : Bool) (off : Nat) (hpin : (d.bi n).pin ≠ l) (hen : d.flag BIO_CFGn_en n = true) :
    (d.biEdge n l off).bi n =
      if l != d.flag BIO_CFGn_pol n then { d.bi n with pin := l, rise := (d.tickTai, off), lastRaw := d.ticks }
      else { d.bi n with pin := l, fall := (d.tickTai, off), lastRaw := d.ticks } := by
  rw [Dev.biEdge_enabled d n l off hpin hen, Dev.bi_biRawChange_same, Dev.biRaw_setPin, Dev.bi_setBi_same]
  rfl

theorem Dev.bi_biEdge_ne (d : Dev) {j n : Nat} (h : j ≠ n) (l : Bool) (off : Nat) : (d.biEdge n l off).bi j = d.bi j := by
  unfold Dev.biEdge
  split
  · rfl
  · dsimp only
    split
    · rw [Dev.bi_biRawChange_ne _ h, Dev.bi_setBi_ne _ h]
    · rw [Dev.bi_setBi_ne _ h]

/-- An edge changes the inputs only. -/
theorem Dev.biEdge_eq (d : Dev) (n : Nat) (l : Bool) (off : Nat) : d.biEdge n l off = { d with bio := (d.biEdge n l off).bio } := by
  unfold Dev.biEdge
  split
  · rfl
  · dsimp only
    split
    · exact Dev.biRawChange_eq ..
    · rfl

theorem Dev.biQuietExpiry_due (d : Dev) (n : Nat) (hblocked : (d.bi n).blocked = true)
    (hdue : (d.bi n).lastRaw + max 1 (d.rd BIO_CHAT_quiet) * ticksPerMs ≤ d.ticks) : d.biQuietExpiry n = d.biUnblock n :=
  if_pos ⟨hblocked, hdue⟩

/-- BIO_CFGn stands at 0x200 and up. -/
theorem Dev.bioWrite_cfg (d : Dev) (n : Fin 128) (v : Nat) : d.bioWrite (0x200 + 4 * n) v = d.bioCfgWrite n v := by
  have hn : (0x200 + 4 * n.val - 0x200) / 4 = n.val := by omega
  rw [Dev.bioWrite, if_neg (by omega), if_pos (by omega), hn]

theorem Dev.writeEffect_bioCfg (d : Dev) (r : Req) (n : Fin 128) (v : Nat) :
    d.writeEffect r pgBIO (0x200 + 4 * n) v noEnv = d.bioCfgWrite n v := by
  have hblock : d.writeEffect r pgBIO (0x200 + 4 * n) v noEnv = d.bioWrite (0x200 + 4 * n) v := if_neg (by omega)
  rw [hblock, Dev.bioWrite_cfg]

/-- BIO_BLOCKk stands at 0x070 and up. -/
theorem Dev.bioWrite_block (d : Dev) (k : Fin 4) (v : Nat) : d.bioWrite (0x070 + 4 * k) v = d.bioBlockWrite k v := by
  have hk : (0x070 + 4 * k.val - 0x070) / 4 = k.val := by omega
  rw [Dev.bioWrite, if_pos (by omega), hk]

/-- A plain write changes the register words and the marks of what is locked only. -/
theorem Dev.plainWrite_frame (d : Dev) (page off v : Nat) :
    (d.plainWrite page off v).2 =
      { d with regs := (d.plainWrite page off v).2.regs, wlLocked := (d.plainWrite page off v).2.wlLocked } := by
  unfold Dev.plainWrite
  dsimp only
  repeat' split
  all_goals rfl

theorem Dev.off_plainWrite (d : Dev) (page off v : Nat) : (d.plainWrite page off v).2.off = d.off :=
  (congrArg Dev.off (d.plainWrite_frame page off v)).trans rfl

/-- A write that enables an input is a raw change in the CCLK of the write. -/
theorem Dev.bioCfgWrite_enables (d : Dev) (n : Nat) (v : Word) (hen : d.flag BIO_CFGn_en n = false) (hset : v.getLsbD 0 = true) :
    d.bioCfgWrite n v.toNat = (.ok, (d.plainWrite pgBIO (0x200 + 4 * n) v.toNat).2.biRawChange n d.off) := by
  have hbit : bitOf v.toNat 0 = true := hset
  simp only [Dev.bioCfgWrite, hen, hbit, Dev.off_plainWrite, Bool.not_true, Bool.not_false, Bool.true_or, Bool.false_eq_true, if_false, if_true]

/-! ### Timers and the alarm reset (R80, R87) -/

/-- A hold that has run out de-energises an output that nothing else keeps. -/
theorem Dev.touHoldExpiry_due (d : Dev) (n : Nat) (hhold : d.tou.holding.getLsbD n = true) (hend : d.holdRunning n = false)
    (hwant : ({ d with tou := { d.tou with holding := setBitV d.tou.holding n false } } : Dev).touWanted n = false) :
    d.touHoldExpiry n =
      ({ d with tou := { d.tou with holding := setBitV d.tou.holding n false } } : Dev).touSet (setBitV d.tou.energised n false) := by
  simp only [Dev.touHoldExpiry, hhold, hend, hwant, Bool.not_false, Bool.and_self, Bool.false_eq_true, if_true, if_false]

/-- The alarm reset is due when no output is kept energised by the demand of the alarm, and at the latest after 65,535 × 10 µs. -/
theorem Dev.alarmReset_due (d : Dev) {t : Nat} (halarm : d.evm.alarm = some t) (hlock : d.flag LCC_STATE_tamper_lock = false)
    (hdue : d.alarmClear t = true ∨ t + 65535 * ticksPer10us ≤ d.ticks) : d.alarmReset = d.warmReset causeAlarm := by
  have hdue' : (d.alarmClear t || decide (t + 65535 * ticksPer10us ≤ d.ticks)) = true := by simpa using hdue
  simp only [Dev.alarmReset, hlock, halarm, hdue', Bool.false_and, Bool.false_eq_true, if_false, if_true]

/-! ### Writes of EVM, BIO, PIT and TOU -/

/-- The operand of EVM_RAISE holds the source below the tag. -/
theorem bitsOf_raise (tag : BitVec 16) (src : Fin 1024) :
    bitsOf (tag.toNat * 65536 + src) 9 0 = src ∧ bitsOf (tag.toNat * 65536 + src) 31 16 = tag.toNat := by
  have htag := tag.isLt
  simp only [bitsOf, Nat.shiftRight_eq_div_pow]
  omega

/-- The first raise of a source before a tick, by its owner. -/
theorem Dev.raiseWrite_first (d : Dev) (r : Req) (tag : BitVec 16) (src : Fin 1024) (hown : d.ownsSource r src = true)
    (hfirst : d.evm.latch.getLsbD src = false) : d.raiseWrite r (tag.toNat * 65536 + src) = (.ok, d.raise src tag.toNat) := by
  obtain ⟨hsrc, htag⟩ := bitsOf_raise tag src
  simp only [Dev.raiseWrite, hsrc, htag, hown, hfirst, Bool.not_true, Bool.false_eq_true, if_false]

/-- PIT_LITk stands at 0x050 and up. -/
theorem Dev.pitWrite_lit (d : Dev) (k : Fin 6) (v : Nat) (hk : k.val < 4) : d.pitWrite (0x050 + 4 * k) v = d.pitLitWrite k v := by
  obtain ⟨k, _⟩ := k
  interval_cases k <;> rfl

/-- PIT_OMASK_LO and PIT_OMASK_HI stand at 0x060 and 0x064. -/
theorem Dev.pitWrite_omask (d : Dev) (k : Fin 6) (v : Nat) (hk : 4 ≤ k.val) :
    d.pitWrite (0x050 + 4 * k) v = d.pitOmaskWrite (decide (k.val = 5)) v := by
  obtain ⟨k, _⟩ := k
  interval_cases k <;> rfl

theorem Dev.pitOmaskWrite_eq (d : Dev) (k : Fin 6) (v : Nat) :
    d.pitOmaskWrite (decide (k.val = 5)) v = (.ok,
      let t := d.pitTerm (!d.pit.active) (d.rd PIT_SEL_term)
      let m := if k.val = 5 then setBits t.omask.toNat 63 32 v else setBits t.omask.toNat 31 0 v
      d.pitTermPut { t with omask := BitVec.ofNat 64 m }) := by
  simp only [Dev.pitOmaskWrite, decide_eq_true_eq]

/-- TOU_UNLATCH_LO and TOU_UNLATCH_HI stand at 0x058 and 0x05C. -/
theorem Dev.touWrite_unlatch (d : Dev) (hi : Bool) (v : Word) :
    d.touWrite (if hi then 0x05C else 0x058) v.toNat = (.ok,
      let m := BitVec.ofNat 64 (if hi then v.toNat * 2 ^ 32 else v.toNat)
      { d with tou := { d.tou with latched := d.tou.latched &&& ~~~m } }) := by
  have hv : v.toNat % 2 ^ 32 = v.toNat := Nat.mod_eq_of_lt v.isLt
  have hreg : d.touWrite (if hi then 0x05C else 0x058) v.toNat = d.touUnlatch hi v.toNat := by cases hi <;> rfl
  rw [hreg, Dev.touUnlatch, hv]

/-- TOU_MISM_LO and TOU_MISM_HI stand at 0x050 and 0x054. -/
theorem Dev.touWrite_mism (d : Dev) (hi : Bool) (v : Nat) :
    d.touWrite (if hi then 0x054 else 0x050) v = (.ok, (d.plainWrite pgTOU (if hi then 0x054 else 0x050) v).2) := by
  cases hi <;> rfl

section
variable {c : Instr} {s : State} {f : Dev → Dev} {r : Req} {off v : Nat}

theorem Effects.of_evmWrite (hacc : s.accepts r pgEVM off) (hoff : 0x040 ≤ off ∧ off < 0x800) (hexec : exec c s = s.write r pgEVM off v)
    (heff : s.dev.cleared.evmWrite r off v = (.ok, f s.dev.cleared)) : Effects c s pgEVM f :=
  Effects.of_blockWrite (b := .evm) (inst := 0) v hacc rfl rfl hoff hexec heff

theorem Effects.of_bioWrite (hacc : s.accepts r pgBIO off) (hoff : 0x040 ≤ off ∧ off < 0x800) (hexec : exec c s = s.write r pgBIO off v)
    (heff : s.dev.cleared.bioWrite off v = (.ok, f s.dev.cleared)) : Effects c s pgBIO f :=
  Effects.of_blockWrite (b := .bio) (inst := 0) v hacc rfl rfl hoff hexec heff

theorem Effects.of_pitWrite (hacc : s.accepts r pgPIT off) (hoff : 0x040 ≤ off ∧ off < 0x800) (hexec : exec c s = s.write r pgPIT off v)
    (heff : s.dev.cleared.pitWrite off v = (.ok, f s.dev.cleared)) : Effects c s pgPIT f :=
  Effects.of_blockWrite (b := .pit) (inst := 0) v hacc rfl rfl hoff hexec heff

theorem Effects.of_touWrite (hacc : s.accepts r pgTOU off) (hoff : 0x040 ≤ off ∧ off < 0x800) (hexec : exec c s = s.write r pgTOU off v)
    (heff : s.dev.cleared.touWrite off v = (.ok, f s.dev.cleared)) : Effects c s pgTOU f :=
  Effects.of_blockWrite (b := .tou) (inst := 0) v hacc rfl rfl hoff hexec heff

end

/-- A write of BIO_CFGn that enables the input, `at_` CCLK after the tick. -/
theorem bioCfgWrite_effects {s : State} {r : Req} {n : Fin 128} {v : Word} (at_ : Fin 64) (hacc : s.accepts r pgBIO (0x200 + 4 * n))
    (hen : s.dev.flag BIO_CFGn_en n = false) (hset : v.getLsbD 0 = true) :
    Effects (.bioCfgWrite r n v at_) s pgBIO (fun d =>
      ({ d with off := at_.val }.plainWrite pgBIO (0x200 + 4 * n) v.toNat).2.biRawChange n at_) := by
  obtain ⟨hon, hcheck, hcopy⟩ := hacc
  refine Gives.of_act (fun d => { d with off := at_.val }.pageWrite r pgBIO (0x200 + 4 * n) v.toNat) hon rfl ?_
  rw [Dev.pageWrite_idle { s.dev.cleared with off := at_.val } r pgBIO _ _ _ (Dev.lockJob_elsewhere _ rfl) hcheck hcopy,
    Dev.writeEffect_bioCfg, Dev.bioCfgWrite_enables { s.dev.cleared with off := at_.val } n v hen hset]

/-- Settles O6, clause by clause: the case of each input and timer that the clause names, and the accepted case of each write. -/
theorem eventsComplete : Obligations.EventsComplete := by
  refine ⟨fun s n hon hhold hend hwant => ?_, fun s n hon hblocked hdue => ?_, fun s n l off hon hpin hen => ?_,
    fun s t hon halarm hlock hdue => ?_, fun s r tag src hacc hown hfirst => ?_, fun s r hacc => ?_,
    fun s r n v at_ hacc hen hset => bioCfgWrite_effects at_ hacc hen hset, fun s r k v hacc => ?_, fun s r hacc => ?_,
    fun s r k v hacc hk => ?_, fun s r k v hacc hk => ?_, fun s r hi v hacc => ?_, fun s r hi v hacc => ?_⟩
  · exact Gives.of_act (fun d => d.touHoldExpiry n) hon rfl (Dev.touHoldExpiry_due s.dev.cleared n hhold hend hwant)
  · exact Gives.of_act (fun d => d.biQuietExpiry n) hon rfl (Dev.biQuietExpiry_due s.dev.cleared n hblocked hdue)
  · have hbi := s.dev.cleared.bi_biEdge_same n l off hpin hen
    refine ⟨_, State.act_on s (fun d => d.biEdge n l off) hon, ?_, fun j hj => s.dev.cleared.bi_biEdge_ne hj l off, Dev.biEdge_eq ..⟩
    split
    · exact hbi.trans (if_pos ‹_›)
    · exact hbi.trans (if_neg ‹_›)
  · exact Gives.of_act Dev.alarmReset hon rfl (Dev.alarmReset_due s.dev.cleared halarm hlock hdue)
  · exact Effects.of_evmWrite hacc (by decide) rfl (Dev.raiseWrite_first s.dev.cleared r tag src hown hfirst)
  · exact Effects.of_evmWrite hacc (by decide) rfl rfl
  · exact Effects.of_bioWrite hacc (by omega) rfl (Dev.bioWrite_block ..)
  · exact Effects.of_pitWrite hacc (by decide) rfl rfl
  · exact Effects.of_pitWrite hacc (by omega) rfl (Dev.pitWrite_lit _ k _ hk)
  · exact Effects.of_pitWrite hacc (by omega) rfl ((Dev.pitWrite_omask _ k _ hk).trans (Dev.pitOmaskWrite_eq _ k _))
  · exact Effects.of_touWrite hacc (by cases hi <;> decide) rfl (Dev.touWrite_unlatch _ hi v)
  · exact Effects.of_touWrite hacc (by cases hi <;> decide) rfl (Dev.touWrite_mism _ hi _)

end Sys2Proof.Machine
end

section
/-! SUPPORT. The Ethernet ports, operation by operation: the counters of a port, a frame received, carried round a ring, submitted and sent,
the registers of a port's page and the change of a link (R89 to R113). -/

namespace Sys2Proof.Machine

open Sys2Proof

/-! ### Counters and port state -/

section
variable (d : Dev) (p sub i n : Nat)

/-- A port's counters are behind its registers. -/
@[simp] theorem Dev.rd_portCount (f : Fld) (k q : Nat) : (d.portCount p sub i n).rd f k q = d.rd f k q := rfl
@[simp] theorem Dev.flag_portCount (f : Fld) (k q : Nat) : (d.portCount p sub i n).flag f k q = d.flag f k q := rfl
@[simp] theorem Dev.pairMode_portCount (k : Nat) : (d.portCount p sub i n).pairMode k = d.pairMode k := rfl
@[simp] theorem Dev.portCount_bivouac : (d.portCount p sub i n).bivouac = d.bivouac := rfl

end

/-- A port that does not work on PTP recognises no message (R101). -/
theorem Dev.ptpOff_disabled (d : Dev) (p : Nat) (b : List Byte) (hptp : d.flag PRT_PTP_ptp_en 0 p = false) : d.ptpOff p b = none := by
  simp only [Dev.ptpOff, hptp, Bool.false_and, Bool.false_eq_true, if_false]

/-! ### Reception (R91, R94 to R97, R108) -/

/-- A frame alone is all that its CCLK brings. -/
theorem rxOrder_one (p : Fin 12) (sub : Fin 4) (f : RxFrame) : rxOrder [(p.val, sub.val, f)] = [(p.val, sub.val, f)] := by
  have hrank : 4 * p.val + sub.val < 48 := by omega
  exact (flatMap_range_one (f := fun x : Nat × Nat × RxFrame => 4 * x.1 + x.2.1) (fun _ _ => rfl) _ 48).trans (if_pos hrank)

/-- The counts of a received frame in which FEC left nothing uncorrected (R97). -/
def Dev.rxCounted (d : Dev) (p sub : Nat) (f : RxFrame) : Dev :=
  ((((d.portCount p sub 6 f.fecCorr).portCount p sub 7 0).portCount p sub 8 f.symErr).portCount p sub 0).portCount p sub 1 f.bytes.length

section
variable (d : Dev) (p sub off : Nat) (f : RxFrame)

theorem Dev.rd_rxCounted (g : Fld) (k q : Nat) : (d.rxCounted p sub f).rd g k q = d.rd g k q := by
  simp only [Dev.rxCounted, Dev.rd_portCount]

theorem Dev.flag_rxCounted (g : Fld) (k q : Nat) : (d.rxCounted p sub f).flag g k q = d.flag g k q := by
  simp only [Dev.rxCounted, Dev.flag_portCount]

theorem Dev.pairMode_rxCounted (k : Nat) : (d.rxCounted p sub f).pairMode k = d.pairMode k := by
  simp only [Dev.rxCounted, Dev.pairMode_portCount]

theorem Dev.rxCounted_bivouac : (d.rxCounted p sub f).bivouac = d.bivouac := by simp only [Dev.rxCounted, Dev.portCount_bivouac]

theorem Dev.pcsCounts_corrected (hfec : f.fecUncorr = 0) :
    ((d.pcsCounts p sub f).portCount p sub 0).portCount p sub 1 f.bytes.length = d.rxCounted p sub f := by
  simp only [Dev.pcsCounts, hfec, Dev.portRecs, Dev.rxCounted]

/-- A frame that breaks no rule, at a port without PTP and redundancy, goes to the sequencer as it came. -/
theorem Dev.acceptFrame_plain (hfcs : crc32eth (f.bytes.take (f.bytes.length - 4)) = leValue (f.bytes.drop (f.bytes.length - 4)))
    (hptp : d.flag PRT_PTP_ptp_en 0 p = false) (hred : d.pairMode (pairOf p) = 0) :
    d.acceptFrame p sub off f =
      (let b := f.bytes.take (f.bytes.length - 4)
       (some { port := p, sub := sub, stamp := d.rxStamp p off f.age, fcsBad := false, bytes := b, vlans := vlanFields b, red := none,
               info := f.info }, d)) := by
  have hbare (b : List Byte) : redFields 0 b = none := rfl
  simp only [Dev.acceptFrame, hfcs, bne_self_eq_false, Bool.false_eq_true, if_false, Dev.ptpReceive, Dev.ptpOff_disabled d p _ hptp,
    hred, hbare, if_true]

section
variable (hmac : d.macOn p = true) (hen : d.portEnabled p = true) (hdrain : d.portDraining p = false)
  (hup : d.subUp p (if d.breakout p then sub else 0) = true) (hfec : f.fecUncorr = 0)
include hmac hen hdrain hup hfec

/-- A frame of fewer than 64 bytes is counted and discarded (R94). -/
theorem Dev.macReceive_runt (hlen : f.bytes.length < 64) :
    d.macReceive p sub off f =
      (let sub := if d.breakout p then sub else 0
       (none, ((d.rxCounted p sub f).portCount p sub 3).portRec p sub 0x4002 3 0)) := by
  simp only [Dev.macReceive, hmac, hen, hdrain, hup, Dev.pcsCounts_corrected _ _ _ _ hfec, hlen, Bool.not_true, Bool.true_or, Bool.or_self,
    Bool.false_and, Bool.false_eq_true, if_false, if_true]

/-- A frame of an allowed length that is no MAC control frame is accepted (R94). -/
theorem Dev.macReceive_accepted (hmin : 64 ≤ f.bytes.length) (hmax : f.bytes.length ≤ d.rd PRT_MAC_max_len 0 p)
    (htype : etherType f.bytes ≠ 0x8808) :
    d.macReceive p sub off f =
      (let sub := if d.breakout p then sub else 0
       (d.rxCounted p sub f).acceptFrame p sub off f) := by
  simp only [Dev.macReceive, hmac, hen, hdrain, hup, Dev.pcsCounts_corrected _ _ _ _ hfec, Nat.not_lt.mpr hmin, Dev.rd_rxCounted,
    Nat.not_lt.mpr hmax, htype, Bool.not_true, Bool.true_or, Bool.or_self, Bool.false_and, Bool.false_eq_true, if_false]

theorem Dev.frameRx_runt (hlen : f.bytes.length < 64) :
    d.frameRx p sub f off =
      (let sub := if d.breakout p then sub else 0
       ((d.rxCounted p sub f).portCount p sub 3).portRec p sub 0x4002 3 0) := by
  rw [Dev.frameRx, Dev.macReceive_runt d p sub off f hmac hen hdrain hup hfec hlen]

/-- The same frame is handed on, unless the sequencer is held in reset (R352). -/
theorem Dev.frameRx_handed (hmin : 64 ≤ f.bytes.length) (hmax : f.bytes.length ≤ d.rd PRT_MAC_max_len 0 p)
    (htype : etherType f.bytes ≠ 0x8808)
    (hfcs : crc32eth (f.bytes.take (f.bytes.length - 4)) = leValue (f.bytes.drop (f.bytes.length - 4)))
    (hptp : d.flag PRT_PTP_ptp_en 0 p = false) (hred : d.pairMode (pairOf p) = 0) (hbiv : d.bivouac = false) :
    d.frameRx p sub f off =
      (let sub := if d.breakout p then sub else 0
       let d := d.rxCounted p sub f
       let b := f.bytes.take (f.bytes.length - 4)
       d.trvArrive {
         port := p, sub := sub, stamp := d.rxStamp p off f.age, fcsBad := false, bytes := b, vlans := vlanFields b, red := none,
         info := f.info }) := by
  have hplain (j : Nat) := Dev.acceptFrame_plain (d.rxCounted p j f) p j off f hfcs ((Dev.flag_rxCounted ..).trans hptp)
    ((Dev.pairMode_rxCounted ..).trans hred)
  rw [Dev.frameRx, Dev.macReceive_accepted d p sub off f hmac hen hdrain hup hfec hmin hmax htype]
  simp only [hplain, Dev.rxCounted_bivouac, hbiv, Bool.false_eq_true, if_false]

end

end

/-! ### The ring (R110) -/

theorem Dev.hsrForward_sends (d : Dev) (k off eighths p : Nat) (b : List Byte) (fs : List (Nat × List Byte))
    (hfwd : (d.pair k).fwd = (p, b) :: fs) (hen : d.portEnabled (otherPort p) = true) (hup : d.subUp (otherPort p) 0 = true) :
    d.hsrForward k off eighths =
      ((d.setPair k { d.pair k with fwd := fs }).portCount (otherPort p) 0 20).transmit (otherPort p)
        { sub := 0, bytes := b, carried := none } off eighths := by
  have hready : ((d.setPair k { d.pair k with fwd := fs }).portEnabled (otherPort p) &&
      (d.setPair k { d.pair k with fwd := fs }).subUp (otherPort p) 0) = true := by
    rw [Bool.and_eq_true]
    exact ⟨hen, hup⟩
  simp only [Dev.hsrForward, hfwd, hready, if_true]

/-! ### Egress (R96, R99, R101, R103, R109) -/

theorem Dev.supervisionTimer_due (d : Dev) (k : Nat) (hred : d.pairMode k ≠ 0) (hlife : d.lifeMs k ≠ 0)
    (hdue : (d.pair k).supAt + d.lifeMs k * cclkPerMs ≤ d.cclk) :
    d.supervisionTimer k =
      ((d.setPair k { d.pair k with supAt := d.cclk, supSeq := ((d.pair k).supSeq + 1) % 65536 }).toPair k 0
        (macPad (d.supervisionFrame k)) none).2 :=
  if_pos ⟨hred, hlife, hdue⟩

/-- A frame that finds room goes to the end of the port's egress FIFO. -/
theorem Dev.toEgress_ok (d : Dev) (p : Nat) (f : TxFrame) (hmac : d.macOn p = true) (hen : d.portEnabled p = true)
    (hdrain : d.portDraining p = false) (hroom : d.egressBytes p + f.bytes.length ≤ fifoSize p) :
    d.toEgress p f = (.ok, d.setPort p { d.port p with egress := (d.port p).egress ++ [f] }) := by
  simp only [Dev.toEgress, hmac, hen, hdrain, Nat.not_lt.mpr hroom, Bool.not_true, Bool.or_self, Bool.false_eq_true, if_false]

/-- A frame of an allowed length for one port, which no ring carries on both. -/
theorem Dev.submit_single (d : Dev) (p sub : Nat) (b : List Byte) (carried : Option (Nat × Stamp)) (hmac : d.macOn p = true)
    (hmax : b.length + 4 ≤ d.rd PRT_MAC_max_len 0 p) (hred : d.pairMode (pairOf p) ≠ 2) :
    d.submit p sub false b carried = d.toEgress p { sub := sub, bytes := macPad b, carried := carried } := by
  simp only [Dev.submit, hmac, Nat.not_lt.mpr hmax, hred, decide_false, Bool.not_true, Bool.or_self, Bool.false_eq_true, if_false]

section
variable (d : Dev) (p off eighths : Nat) (f : TxFrame)

theorem Dev.frameTx_head (fs : List TxFrame) (heg : (d.port p).egress = f :: fs) (hmac : d.macOn p = true) (hup : d.subUp p f.sub = true) :
    d.frameTx p off eighths = (d.setPort p { d.port p with egress := fs }).transmit p f off eighths := by
  simp only [Dev.frameTx, heg, hmac, hup, Bool.and_self, if_true]

/-- A port without PTP sends the frame alone. -/
theorem Dev.transmit_plain (hptp : d.flag PRT_PTP_ptp_en 0 p = false) : d.transmit p f off eighths = d.sendFrame p f.sub f.bytes := by
  simp only [Dev.transmit, Dev.ptpOff_disabled d p f.bytes hptp]

/-- A two-step event message of the device's own leaves unchanged, and its stamp goes into the stamp FIFO. -/
theorem Dev.transmit_twoStep {o : Nat} (hptp : d.ptpOff p f.bytes = some o) (hshort : ptpShort f.bytes o = false)
    (hevent : ptpType f.bytes o ≤ 3) (hown : f.carried = none) (hstep : d.flag PRT_PTP_one_step 0 p = false) :
    d.transmit p f off eighths = (d.pushStamp p f.sub f.bytes o (d.txStamp p off eighths)).sendFrame p f.sub f.bytes := by
  simp only [Dev.transmit, hptp, hshort, hown, Dev.stampOut, hstep, hevent, Bool.false_and, Bool.false_eq_true, if_false, if_true]

end

/-! ### The registers of a port's page (R97, R103) -/

theorem pageBlock_pgPort (p : Fin 12) : ∃ b inst, pageBlock (pgPort p) = some (b, inst) ∧ (b = .prt ∨ b = .mgp) := by
  by_cases hp : p.val < 8
  · exact ⟨.prt, p, by decide +revert, .inl rfl⟩
  · exact ⟨.mgp, p - 8, by decide +revert, .inr rfl⟩

theorem portOfPage_pgPort (p : Nat) : portOfPage (pgPort p) = p := Nat.add_sub_cancel_left ..

theorem pgPort_unlocked (p : Fin 12) : lockPages.contains (pgPort p) = false := by decide +revert

/-- A register whose read does something of its own. -/
theorem Dev.readEffect_acted (d : Dev) (r : Req) (page off c : Nat) {b : Blk} {inst : Nat} {x : Status × Nat × Dev}
    (hb : pageBlock page = some (b, inst)) (hlow : off < 0x800) (hraw : off ≠ 0x010) (hact : d.readAct r b page off = some x) :
    d.readEffect r page off c = x := by
  simp only [Dev.readEffect, hb, Nat.not_le.mpr hlow, hraw, hact, if_false]

/-- The last word of the stamp FIFO's head takes the entry out. -/
theorem Dev.readEffect_tsPop (d : Dev) (r : Req) (p : Fin 12) {e : TsEntry} {es : List TsEntry} (hts : (d.port p).ts = e :: es) :
    d.readEffect r (pgPort p) 0x07C 0 =
      (.ok, e.stamp % 65536, (d.setPort p { d.port p with ts := es }).wr PRT_TS_STAT_count es.length 0 p) := by
  obtain ⟨b, inst, hb, hport⟩ := pageBlock_pgPort p
  have hread : d.readAct r b (pgPort p) 0x07C = some (.ok, (d.tsRead p 3).1, (d.tsRead p 3).2) := by
    rcases hport with rfl | rfl <;> simp only [Dev.readAct, portOfPage_pgPort] <;> rfl
  rw [Dev.readEffect_acted d r _ _ _ hb (by decide) (by decide) hread]
  simp only [Dev.tsRead, hts]

theorem Dev.blockWrite_cntClear (d : Dev) (r : Req) (p inst : Nat) {b : Blk} (hport : b = .prt ∨ b = .mgp) :
    d.blockWrite r b inst (pgPort p) 0x09C 1 noEnv = (.ok, d.setPort p { d.port p with cnt := [] }) := by
  have hwrite : d.blockWrite r b inst (pgPort p) 0x09C 1 noEnv = d.portWrite (portOfPage (pgPort p)) 0x09C 1 := by
    rcases hport with rfl | rfl <;> rfl
  rw [hwrite, portOfPage_pgPort]
  rfl

/-! ### Link state (R92, R113) -/

theorem Dev.linkChange_mac (d : Dev) (p sub : Nat) (e : LinkEnv) (hmode : isMgmt p = true ∨ d.portMode p ≠ 6) :
    d.linkChange p sub e =
      (let sub := if d.breakout p then sub else 0
       ((((d.linkFields p sub e (d.linkUp p sub e)).linkRecords p sub e).anOffer p sub e).faultAnswer p sub e).portNote p) := by
  have hmode' : (!isMgmt p && d.portMode p == 6) = false := by
    rcases hmode with h | h
    · rw [h, Bool.not_true, Bool.false_and]
    · rw [beq_eq_false_iff_ne.mpr h, Bool.and_false]
  simp only [Dev.linkChange, hmode', Bool.false_eq_true, if_false]

theorem Dev.linkChange_lanes (d : Dev) (p sub : Nat) (e : LinkEnv) (hp : isMgmt p = false) (hmode : d.portMode p = 6) :
    d.linkChange p sub e =
      ((d.setPort p { d.port p with align := if e.align then [0] else [] }).wr PRT_LINK_lane_lock e.lock.toNat 0 p).portNote p := by
  simp only [Dev.linkChange, hp, hmode, Bool.not_false, beq_self_eq_true, Bool.and_self, if_true]

end Sys2Proof.Machine
end

section
/-! SUPPORT. The host port, request by request, and what each command of the ports gives (R91 to R119, R150). -/

namespace Sys2Proof.Machine

open Sys2Proof

/-! ### Inbound requests (R116, R119, R150) -/

section
variable (d : Dev) (off n : Nat) (b : List Byte) (env : MemEnv)

/-- A read of an aligned dword that the page answers with ST_OK. -/
theorem Dev.hstPage_read (halign : off % 4 = 0) (hpar : env.parity = false)
    (hok : (d.pageRead .hst (off / 4096) (off % 4096)).resp.status = some .ok) :
    d.hstPage off none 4 env =
      (let x := d.pageRead .hst (off / 4096) (off % 4096)
       x.hstData .ok (leBytes x.resp.data.toNat 4)) := by
  simp only [Dev.hstPage, halign, hpar, hok, Dev.hstReadValue, Option.isNone_none, Option.getD_some, Option.some.injEq, reduceCtorEq, ne_eq,
    not_true, or_self, or_false, false_and, Bool.false_eq_true, if_false, if_true]

/-- A write of an aligned dword that the host may write is the register write. -/
theorem Dev.hstPage_write (halign : off % 4 = 0) (hpar : env.parity = false)
    (hmay : d.accessCheck .hst (off / 4096) (off % 4096) false ≠ .denied) :
    d.hstPage off (some b) 4 env = d.pageWrite .hst (off / 4096) (off % 4096) (leValue b) := by
  simp only [Dev.hstPage, halign, hpar, hmay, Option.isNone_some, ne_eq, not_true, or_self, and_false, Bool.false_eq_true, if_false]

theorem Dev.hstBuffer_read (hreach : d.devReach .hst false (sbBase + off) n = true)
    (hguard : (d.memGuard (reqId .hst) (sbBase + off) env).1 = .ok)
    (hload : ((d.memGuard (reqId .hst) (sbBase + off) env).2.memLoad .hst (sbBase + off) n).1 = .ok) :
    d.hstBuffer off none n env =
      (let x := (d.memGuard (reqId .hst) (sbBase + off) env).2.memLoad .hst (sbBase + off) n
       x.2.2.hstData .ok (leBytes x.2.1 n)) := by
  simp only [Dev.hstBuffer, Option.isSome_none, hreach, hguard, hload, Bool.not_true, Bool.false_eq_true, if_false, if_true]

theorem Dev.hstBuffer_write (hreach : d.devReach .hst true (sbBase + off) n = true)
    (hguard : (d.memGuard (reqId .hst) (sbBase + off) env).1 = .ok) :
    d.hstBuffer off (some b) n env =
      (let x := (d.memGuard (reqId .hst) (sbBase + off) env).2.memStore .hst (sbBase + off) b env.rivals
       x.2.answer x.1) := by
  simp only [Dev.hstBuffer, Option.isSome_some, hreach, hguard, Bool.not_true, Bool.false_eq_true, if_false, if_true]

section
variable (hlive : d.hstLive = true)
include hlive

/-- A malformed request is an error whatever it asks for. -/
theorem Dev.hstRequest_malformed (bar : Nat) (w : Option (List Byte)) : d.hstRequest 1 bar off w n env = d.hstMalformed := by
  simp only [Dev.hstRequest, hlive, Bool.not_true, beq_self_eq_true, Bool.true_or, Bool.false_eq_true, if_false, if_true]

/-- A sound read by its target. -/
theorem Dev.hstRequest_read (bar : Nat) (hn : n ≤ 4096) :
    d.hstRequest 0 bar off none n env =
      if bar = 6 then d.hstConfig off none n
      else if d.flag HST_LINK_d3hot then d.hstUnsupported true
      else if bar = 0 ∧ off + n ≤ 0x10000000 then d.hstPage off none n env
      else if bar = 2 ∧ off + n ≤ 0x1000000 then d.hstBuffer off none n env
      else if bar = 4 ∧ off + n ≤ 0x10000 then d.hstMsix off none n
      else d.hstUnsupported true := by
  simp [Dev.hstRequest, hlive, Nat.not_lt.mpr hn]

/-- A sound write of no more than 512 bytes by its target; its length is that of its bytes. -/
theorem Dev.hstRequest_write (bar : Nat) (hb : b.length ≤ 512) :
    d.hstRequest 0 bar off (some b) n env =
      if bar = 6 then d.hstConfig off (some b) b.length
      else if d.flag HST_LINK_d3hot then d.hstUnsupported false
      else if bar = 0 ∧ off + b.length ≤ 0x10000000 then d.hstPage off (some b) b.length env
      else if bar = 2 ∧ off + b.length ≤ 0x1000000 then d.hstBuffer off (some b) b.length env
      else if bar = 4 ∧ off + b.length ≤ 0x10000 then d.hstMsix off (some b) b.length
      else d.hstUnsupported false := by
  simp [Dev.hstRequest, hlive, Nat.not_lt.mpr hb]

section
variable (hd0 : d.flag HST_LINK_d3hot = false)
include hd0

theorem Dev.hstRequest_pageRead (hbar : off + 4 ≤ 0x10000000) (halign : off % 4 = 0) (hpar : env.parity = false)
    (hok : (d.pageRead .hst (off / 4096) (off % 4096)).resp.status = some .ok) :
    d.hstRequest 0 0 off none 4 env =
      (let x := d.pageRead .hst (off / 4096) (off % 4096)
       x.hstData .ok (leBytes x.resp.data.toNat 4)) := by
  rw [Dev.hstRequest_read d off 4 env hlive 0 (by decide), if_neg (by decide), if_neg (Bool.eq_false_iff.mp hd0), if_pos ⟨rfl, hbar⟩]
  exact Dev.hstPage_read d off env halign hpar hok

theorem Dev.hstRequest_pageWrite (hb : b.length = 4) (hbar : off + 4 ≤ 0x10000000) (halign : off % 4 = 0) (hpar : env.parity = false)
    (hmay : d.accessCheck .hst (off / 4096) (off % 4096) false ≠ .denied) :
    d.hstRequest 0 0 off (some b) n env = d.pageWrite .hst (off / 4096) (off % 4096) (leValue b) := by
  rw [Dev.hstRequest_write d off n b env hlive 0 (by omega), hb, if_neg (by decide), if_neg (Bool.eq_false_iff.mp hd0), if_pos ⟨rfl, hbar⟩]
  exact Dev.hstPage_write d off b env halign hpar hmay

theorem Dev.hstRequest_bufferRead (hn : n ≤ 4096) (hbar : off + n ≤ 0x1000000)
    (hreach : d.devReach .hst false (sbBase + off) n = true) (hguard : (d.memGuard (reqId .hst) (sbBase + off) env).1 = .ok)
    (hload : ((d.memGuard (reqId .hst) (sbBase + off) env).2.memLoad .hst (sbBase + off) n).1 = .ok) :
    d.hstRequest 0 2 off none n env =
      (let x := (d.memGuard (reqId .hst) (sbBase + off) env).2.memLoad .hst (sbBase + off) n
       x.2.2.hstData .ok (leBytes x.2.1 n)) := by
  rw [Dev.hstRequest_read d off n env hlive 2 hn, if_neg (by decide), if_neg (Bool.eq_false_iff.mp hd0), if_neg (by omega),
    if_pos ⟨rfl, hbar⟩]
  exact Dev.hstBuffer_read d off n env hreach hguard hload

theorem Dev.hstRequest_bufferWrite (hb : b.length ≤ 512) (hbar : off + b.length ≤ 0x1000000)
    (hreach : d.devReach .hst true (sbBase + off) b.length = true) (hguard : (d.memGuard (reqId .hst) (sbBase + off) env).1 = .ok) :
    d.hstRequest 0 2 off (some b) n env =
      (let x := (d.memGuard (reqId .hst) (sbBase + off) env).2.memStore .hst (sbBase + off) b env.rivals
       x.2.answer x.1) := by
  rw [Dev.hstRequest_write d off n b env hlive 2 hb, if_neg (by decide), if_neg (Bool.eq_false_iff.mp hd0), if_neg (by omega),
    if_pos ⟨rfl, hbar⟩]
  exact Dev.hstBuffer_write d off b.length b env hreach hguard

end

/-- A read outside every BAR, or of memory in D3hot, is unsupported. -/
theorem Dev.hstRequest_unsupported {bar : Nat} (hn : n ≤ 4096) (hout : bar % 2 = 1 ∨ (bar ≠ 6 ∧ d.flag HST_LINK_d3hot = true)) :
    d.hstRequest 0 bar off none n env = d.hstUnsupported true := by
  rw [Dev.hstRequest_read d off n env hlive bar hn]
  rcases hout with hodd | ⟨hmem, hd3⟩
  · have hcfg : bar ≠ 6 := by omega
    have hpage : bar ≠ 0 := by omega
    have hbuf : bar ≠ 2 := by omega
    have htable : bar ≠ 4 := by omega
    simp only [hcfg, hpage, hbuf, htable, false_and, if_false, ite_self]
  · rw [if_neg hmem, if_pos hd3]

end

end

/-! ### Requests of the device, link and resets (R117, R118, R119) -/

section
variable (d : Dev)

theorem Dev.hstCompletion_sound (id : Nat) (data : List Byte) {r : HstReq} (hreq : d.hstReq id = some r) :
    d.hstCompletion id data false = (d.hstFinish r .ok).answer .ok (leValue (data.take 4)) := by
  simp only [Dev.hstCompletion, hreq, Bool.false_eq_true, if_false]

theorem Dev.hstTimeout_read (id : Nat) {r : HstReq} (hreq : d.hstReq id = some r) (hread : r.read = true) :
    d.hstTimeout id = (((d.wr HST_ERR_cpl_timeout 1).hstRec 0x4034 4 0).aer 1 14).hstFinish r .protocol := by
  simp only [Dev.hstTimeout, hreq, hread, if_true]

theorem Dev.hstAbort_idle (hreqs : d.hst.reqs = []) : d.hstAbort = d := by rw [Dev.hstAbort, hreqs, List.foldl_nil]

/-- A function level reset with no request of the device outstanding. -/
theorem Dev.hstFunctionReset_idle (hrst : d.inReset.get pgHST 0 = 0) (hbiv : d.bivouac = false) (hreqs : d.hst.reqs = []) :
    d.hstFunctionReset false =
      (let d := { d with
        hst := { ids := d.hst.ids }
        regs := d.regs.drop hstOwnReg
        shadow := d.shadow.drop hstOwnReg
        shadowSeen := d.shadowSeen.filter (fun k => !hstOwnReg k) }
       (((d.lockFreeAll 0x0C).wr HST_LINK_d3hot 0).wr HST_ERR_flr 1).raise 972 3) := by
  simp only [Dev.hstFunctionReset, hrst, hbiv, Dev.hstAbort_idle d hreqs, ne_eq, not_true, or_self, Bool.false_and, Bool.false_eq_true, if_false]

theorem Dev.hstLinkDown_idle (hup : d.flag HST_LINK_up = true) (hreqs : d.hst.reqs = []) :
    d.hstLinkDown = (((d.wr HST_LINK_up 0).wr HST_LINK_width 0).wr HST_LINK_speed 0).raise 972 2 := by
  simp only [Dev.hstLinkDown, hup, hreqs, List.isEmpty_nil, Bool.not_true, Bool.false_eq_true, if_false, if_true]

theorem Dev.hstLinkUp_down (width speed : Nat) (hrst : d.inReset.get pgHST 0 = 0) (hbiv : d.bivouac = false)
    (hdown : d.flag HST_LINK_up = false) :
    d.hstLinkUp width speed =
      (((({ d with hst := { d.hst with ids := d.rfg.otp.hstIds } }).wr HST_LINK_up 1).wr HST_LINK_width width).wr HST_LINK_speed speed).raise
        972 1 := by
  simp only [Dev.hstLinkUp, hrst, hbiv, hdown, ne_eq, not_true, or_self, Bool.false_eq_true, if_false]

end

/-! ### What each command gives -/

section
variable (s : State) (hon : s.on)
include hon

/-- A frame alone in its CCLK. -/
theorem frameRx_gives (p : Fin 12) (sub : Fin 4) (f : RxFrame) (off : Nat) {g : Dev → Dev}
    (hrx : s.dev.cleared.frameRx p sub f off = g s.dev.cleared) : Gives (.frameRx p sub f off []) s g := by
  refine Gives.of_act (fun d => (rxOrder [(p.val, sub.val, f)]).foldl (fun d x => d.frameRx x.1 x.2.1 x.2.2 off) d) hon rfl ?_
  rw [rxOrder_one]
  exact hrx

theorem frameTxSubmit_gives (p : Fin 12) (sub : Fin 4) (bytes : List Byte) (hmac : s.dev.macOn p = true)
    (hmax : bytes.length + 4 ≤ s.dev.rd PRT_MAC_max_len 0 p) (hred : s.dev.pairMode (pairOf p) ≠ 2) (hdrain : s.dev.portDraining p = false)
    (hen : s.dev.portEnabled p = true) (hroom : s.dev.egressBytes p + (macPad bytes).length ≤ fifoSize p) :
    Gives (.frameTxSubmit p sub false bytes) s (fun d =>
      (d.setPort p { d.port p with
        egress := (d.port p).egress ++ [{ sub := sub, bytes := macPad bytes, carried := none }] }).answer .ok) := by
  refine Gives.of_act (fun d => (d.submit p sub false bytes none).2.answer (d.submit p sub false bytes none).1) hon rfl ?_
  rw [Dev.submit_single s.dev.cleared p sub bytes none hmac hmax hred,
    Dev.toEgress_ok s.dev.cleared p ⟨sub, macPad bytes, none⟩ hmac hen hdrain hroom]

section
variable (p : Fin 12) (off eighths : Nat) (f : TxFrame) (fs : List TxFrame) (heg : (s.dev.port p).egress = f :: fs)
  (hmac : s.dev.macOn p = true) (hup : s.dev.subUp p f.sub = true)
include heg hmac hup

theorem frameTx_plain_gives (hptp : s.dev.flag PRT_PTP_ptp_en 0 p = false) :
    Gives (.frameTx p off eighths) s (fun d => (d.setPort p { d.port p with egress := fs }).sendFrame p f.sub f.bytes) := by
  refine Gives.of_act (fun d => d.frameTx p off eighths) hon rfl ?_
  rw [Dev.frameTx_head s.dev.cleared p off eighths f fs heg hmac hup]
  exact Dev.transmit_plain _ p off eighths f hptp

theorem frameTx_twoStep_gives {o : Nat} (hptp : s.dev.ptpOff p f.bytes = some o) (hshort : ptpShort f.bytes o = false)
    (hevent : ptpType f.bytes o ≤ 3) (hown : f.carried = none) (hstep : s.dev.flag PRT_PTP_one_step 0 p = false) :
    Gives (.frameTx p off eighths) s (fun d =>
      let d := d.setPort p { d.port p with egress := fs }
      (d.pushStamp p f.sub f.bytes o (d.txStamp p off eighths)).sendFrame p f.sub f.bytes) := by
  refine Gives.of_act (fun d => d.frameTx p off eighths) hon rfl ?_
  rw [Dev.frameTx_head s.dev.cleared p off eighths f fs heg hmac hup]
  exact Dev.transmit_twoStep _ p off eighths f hptp hshort hevent hown hstep

end

/-- A request of the host, with the rivals that come after it in its CCLK. -/
theorem hstInboundRequest_gives (tlp : Fin 4) (bar : Fin 8) (off : Nat) (w : Option (List Byte)) (n : Nat) (env : MemEnv) {g : Dev → Dev}
    (hreq : s.dev.cleared.hstRequest tlp bar off w n (laterOf env s.rr .hst) = g s.dev.cleared) :
    Gives (.hstInboundRequest tlp bar off w n env) s g :=
  Gives.of_act (fun d => d.hstRequest tlp bar off w n (laterOf env s.rr .hst)) hon rfl hreq

end

theorem prtTsFifoPop_gives (s : State) (r : Req) (p : Fin 12) (e : TsEntry) (es : List TsEntry) (hacc : s.acceptsRead r (pgPort p) 0x07C)
    (hts : (s.dev.port p).ts = e :: es) :
    Gives (.prtTsFifoPop r p) s (fun d =>
      ((d.setPort p { d.port p with ts := es }).wr PRT_TS_STAT_count es.length 0 p).answer .ok (e.stamp % 65536)) := by
  obtain ⟨hon, hcheck, hcopy⟩ := hacc
  refine Gives.of_act (fun d => d.pageRead r (pgPort p) 0x07C) hon rfl ?_
  refine (Dev.guardedRead_ok s.dev.cleared r (pgPort p) 0x07C _ hcheck hcopy).trans ?_
  rw [Dev.readEffect_tsPop s.dev.cleared r p hts]

theorem prtCounterClear_effects (s : State) (r : Req) (p : Fin 12) (hacc : s.accepts r (pgPort p) 0x09C) :
    Effects (.prtCounterClear r p) s (pgPort p) (fun d => d.setPort p { d.port p with cnt := [] }) := by
  obtain ⟨b, inst, hb, hport⟩ := pageBlock_pgPort p
  exact Effects.of_blockWrite 1 hacc hb (pgPort_unlocked p) (by decide) rfl (Dev.blockWrite_cntClear _ r p inst hport)

/-- Settles O15, clause by clause: the case of each frame, timer, register access and host request that the clause names. -/
theorem portsComplete : Obligations.PortsComplete := by
  refine ⟨fun s p sub off f same hon => ?frames,
    fun s p sub sub' off f hon hmac hen hdrain hsub hup hmin hmax htype hfec hfcs hptp hred hbiv => ?handed,
    fun s p sub sub' off f hon hmac hen hdrain hsub hup hlen hfec => ?runt,
    fun s k off eighths p b fs hon hfwd hen hup => ?forward, fun s k mac hon => ?forget, fun s k hon hred hlife hdue => ?supervision,
    fun s p sub bytes hon => frameTxSubmit_gives s hon p sub bytes,
    fun s p off eighths f fs hon => frameTx_plain_gives s hon p off eighths f fs,
    fun s p off eighths o f fs hon heg hmac hup => frameTx_twoStep_gives s hon p off eighths f fs heg hmac hup,
    prtTsFifoPop_gives, prtCounterClear_effects,
    fun s p sub sub' e hon hmode hsub => ?link, fun s p sub e hon hp hmode => ?lanes,
    fun s off n env hon hlive hd0 hn hbar hreach hguard hload => hstInboundRequest_gives s hon 0 2 off none n env ?bufferRead,
    fun s off n b env hon hlive hd0 hb hbar hreach hguard => hstInboundRequest_gives s hon 0 2 off (some b) n env ?bufferWrite,
    fun s off env hon hlive hd0 hbar halign hpar hok => hstInboundRequest_gives s hon 0 0 off none 4 env ?pageRead,
    fun s off n b env hon hlive hd0 hb hbar halign hpar hmay => hstInboundRequest_gives s hon 0 0 off (some b) n env ?pageWrite,
    fun s off n bar env hon hlive hn hout => hstInboundRequest_gives s hon 0 bar off none n env ?unsupported,
    fun s off n w bar env hon hlive => hstInboundRequest_gives s hon 1 bar off w n env ?malformed,
    fun s id data r hon hreq => ?completion, fun s id r hon hreq hread => ?timeout, fun s hon hrst hbiv hreqs => ?functionReset,
    fun s hon hup hreqs => ?linkDown, fun s width speed hon hrst hbiv hdown => ?linkUp, fun s k hon hlive => ?unmask⟩
  case frames => exact Gives.of_act (fun d => (rxOrder _).foldl (fun d x => d.frameRx x.1 x.2.1 x.2.2 off) d) hon rfl rfl
  case handed =>
    subst hsub
    exact frameRx_gives s hon p sub f off
      (Dev.frameRx_handed s.dev.cleared p sub off f hmac hen hdrain hup hfec hmin hmax htype hfcs hptp hred hbiv)
  case runt =>
    subst hsub
    exact frameRx_gives s hon p sub f off (Dev.frameRx_runt s.dev.cleared p sub off f hmac hen hdrain hup hfec hlen)
  case forward =>
    exact Gives.of_act (fun d => d.hsrForward k off eighths) hon rfl (Dev.hsrForward_sends s.dev.cleared k off eighths p b fs hfwd hen hup)
  case forget => exact Gives.of_act (fun d => d.nodeForget k mac.toNat) hon rfl rfl
  case supervision =>
    exact Gives.of_act (fun d => d.supervisionTimer k) hon rfl (Dev.supervisionTimer_due s.dev.cleared k hred hlife hdue)
  case link =>
    subst hsub
    exact Gives.of_act (fun d => d.linkChange p sub e) hon rfl (Dev.linkChange_mac s.dev.cleared p sub e hmode)
  case lanes => exact Gives.of_act (fun d => d.linkChange p sub e) hon rfl (Dev.linkChange_lanes s.dev.cleared p sub e hp hmode)
  case bufferRead => exact Dev.hstRequest_bufferRead s.dev.cleared off n _ hlive hd0 hn hbar hreach hguard hload
  case bufferWrite => exact Dev.hstRequest_bufferWrite s.dev.cleared off n b _ hlive hd0 hb hbar hreach hguard
  case pageRead => exact Dev.hstRequest_pageRead s.dev.cleared off _ hlive hd0 hbar halign hpar hok
  case pageWrite => exact Dev.hstRequest_pageWrite s.dev.cleared off n b _ hlive hd0 hb hbar halign hpar hmay
  case unsupported => exact Dev.hstRequest_unsupported s.dev.cleared off n _ hlive hn hout
  case malformed => exact Dev.hstRequest_malformed s.dev.cleared off n _ hlive bar w
  case completion => exact Gives.of_act (fun d => d.hstCompletion id data false) hon rfl (Dev.hstCompletion_sound s.dev.cleared id data hreq)
  case timeout => exact Gives.of_act (fun d => d.hstTimeout id) hon rfl (Dev.hstTimeout_read s.dev.cleared id hreq hread)
  case functionReset =>
    exact Gives.of_act (fun d => d.hstFunctionReset false) hon rfl (Dev.hstFunctionReset_idle s.dev.cleared hrst hbiv hreqs)
  case linkDown => exact Gives.of_act Dev.hstLinkDown hon rfl (Dev.hstLinkDown_idle s.dev.cleared hup hreqs)
  case linkUp =>
    exact Gives.of_act (fun d => d.hstLinkUp width speed) hon rfl (Dev.hstLinkUp_down s.dev.cleared width speed hrst hbiv hdown)
  case unmask => exact Gives.of_act (fun d => d.msixUnmask k) hon rfl (if_pos hlive)

end Sys2Proof.Machine
end

section
/-! SUPPORT. An item taken into the ring of its queue: what the store, the ring and the notification leave of the queues (R152, R153,
R156, R158). -/

namespace Sys2Proof.Machine

open Sys2Proof

/-! ### The state of a queue -/

@[simp] theorem Dev.q_setQ_same (d : Dev) (n : Nat) (q : Queue) : (d.setQ n q).q n = q := Tbl.get_set_same ..

theorem Dev.q_setQ_ne (d : Dev) {m n : Nat} (h : m ≠ n) (q : Queue) : (d.setQ n q).q m = d.q m := Tbl.get_set_ne _ h ..

@[simp] theorem Dev.q_setTag (d : Dev) (i m : Nat) (t : Tag) : (d.setTag i t).q m = d.q m := rfl

/-- A message to the host leaves the queues as they are. -/
theorem Dev.msix_qmg (d : Dev) (v : Nat) : (d.msix v).qmg = d.qmg := by
  unfold Dev.msix
  repeat' split
  all_goals rfl

theorem Dev.q_notifyQueue (d : Dev) (n m : Nat) : (d.notifyQueue n).q m = d.q m := by
  unfold Dev.notifyQueue
  dsimp only
  split
  · rfl
  · split
    · rfl
    · simp only [Dev.q, Dev.msix_qmg]
    · split <;> rfl
    · rfl

/-! ### Stores of the queue manager -/

theorem Dev.cacheUse_qmg (k : Nat) (d : Dev) (level i : Nat) (write : Bool) : (Dev.cacheUse k d level i write).qmg = d.qmg := by
  induction k generalizing d level i write with
  | zero => rfl
  | succ k ih =>
    rw [Dev.cacheUse]
    dsimp only
    split
    · rfl
    · split
      · rfl
      · rw [ih, apply_ite Dev.qmg, ih]
        exact ite_self _

theorem Dev.lineUsed_qmg (d : Dev) (write : Bool) (a : Nat) : (d.lineUsed write a).qmg = d.qmg := by
  unfold Dev.lineUsed
  split
  · rfl
  · rw [Dev.cacheUse_qmg]
    cases write <;> rfl

theorem Dev.wordsWritten_qmg (d : Dev) (c : Nat) (ws : List Nat) : (d.wordsWritten c ws).qmg = d.qmg := by
  have hlines (d : Dev) : (ws.foldl (fun d w => d.lineUsed true w) d).qmg = d.qmg := by
    induction ws generalizing d with
    | nil => rfl
    | cons w ws ih => rw [List.foldl_cons, ih, Dev.lineUsed_qmg]
  unfold Dev.wordsWritten
  extract_lets d1 d2
  have hd2 : d2.qmg = d.qmg := by
    unfold d2
    split <;> rfl
  split
  · rw [hlines, hd2]
  · exact hd2

/-- A store that ends with ST_OK leaves the queues as they are. -/
theorem Dev.hwStore_qmg (d : Dev) {who a : Nat} {bs : List Byte} (h : (d.hwStore who a bs).1 = .ok) :
    (d.hwStore who a bs).2.qmg = d.qmg := by
  unfold Dev.hwStore at h ⊢
  split at h
  · cases h
  next c _ =>
    dsimp only at h ⊢
    by_cases hst : d.hwStatus c a bs.length = .ok
    · rw [if_neg (not_not.mpr hst)] at h ⊢
      repeat' split at h
      · cases h
      · cases h
      · cases h
      · exact Dev.wordsWritten_qmg ..
    · rw [if_pos hst] at h
      exact absurd h hst

/-- Neither the queues nor the values of the bytes decide the status of a store. -/
theorem Dev.hwStore_status_congr (d : Dev) (x : Qmg) {bs bs' : List Byte} (h : bs'.length = bs.length) (who a : Nat) :
    (({ d with qmg := x } : Dev).hwStore who a bs').1 = (d.hwStore who a bs).1 := by
  have hstatus (c n : Nat) : ({ d with qmg := x } : Dev).hwStatus c a n = d.hwStatus c a n := rfl
  have hbroken : ({ d with qmg := x } : Dev).broken who a = d.broken who a := rfl
  have hcounter (ws : List Nat) : ({ d with qmg := x } : Dev).counterBad ws = d.counterBad ws := rfl
  have hword (c w : Nat) : ({ d with qmg := x } : Dev).wordState c w = d.wordState c w := rfl
  simp only [Dev.hwStore, h, hstatus, hbroken, hcounter, hword]
  cases memClass a with
  | none => rfl
  | some c =>
    dsimp only
    repeat' split
    all_goals rfl

/-! ### An item taken into its ring (R152, R156) -/

theorem overlay_one_length (l : List Byte) (off : Nat) (b b' : Byte) : (overlay l off [b]).length = (overlay l off [b']).length := by
  simp [overlay]

/-- An item whose store ends with ST_OK stands in the ring behind the others. -/
theorem Dev.ringPut_ok (d : Dev) (n : Nat) (bytes : List Byte) (e : Ent)
    (h : (d.hwStore 0xFE ((d.q n).slotAddr (d.q n).prod) bytes).1 = .ok) :
    (d.ringPut n bytes e).1 = .ok ∧
      ((d.ringPut n bytes e).2.q n) = { d.q n with prod := idx ((d.q n).prod + 1), ents := (d.q n).ents ++ [e] } ∧
      ∀ m, m ≠ n → (d.ringPut n bytes e).2.q m = d.q m := by
  have hq (m : Nat) : (d.hwStore 0xFE ((d.q n).slotAddr (d.q n).prod) bytes).2.q m = d.q m := by rw [Dev.q, Dev.hwStore_qmg d h, Dev.q]
  simp only [Dev.ringPut, h, ne_eq, not_true, if_false, true_and]
  refine ⟨?_, fun m hm => ?_⟩
  · split
    · rw [Dev.q_notifyQueue, Dev.q_setQ_same]
    · rw [Dev.q_setQ_same]
  · split
    · rw [Dev.q_notifyQueue, Dev.q_setQ_ne _ hm, hq]
    · rw [Dev.q_setQ_ne _ hm, hq]

/-- An item is counted, and named by its tag, before it goes into a ring (R153, R168). -/
def Dev.itemNoted (d : Dev) (n : Nat) (e : Ent) : Dev :=
  let d := d.setQ n { d.q n with gap := false, count := idx ((d.q n).count + 1) }
  if e.tag = 0xFFFF then d else d.setTag (e.tag % 2048) { d.tag (e.tag % 2048) with item := some n, start := d.tickTai }

theorem Dev.itemNoted_eq (d : Dev) (n : Nat) (e : Ent) : d.itemNoted n e = { d with qmg := (d.itemNoted n e).qmg } := by
  unfold Dev.itemNoted
  dsimp only
  split <;> rfl

theorem Dev.q_itemNoted (d : Dev) (n m : Nat) (e : Ent) :
    (d.itemNoted n e).q m = (d.setQ n { d.q n with gap := false, count := idx ((d.q n).count + 1) }).q m := by
  simp only [Dev.itemNoted, apply_ite (Dev.q · m), Dev.q_setTag, ite_self]

/-- An item of a queue that neither suppresses duplicates nor spills goes into the ring, with at most its gap flag changed. -/
theorem Dev.admitItem_ring (d : Dev) (n : Nat) (bytes : List Byte) (e : Ent) (hdedup : (d.q n).dedup = false)
    (hspill : (d.q n).spilling = false) : ∃ b : Byte, d.admitItem n bytes e = (d.itemNoted n e).ringOrLose n (overlay bytes 6 [b]) e := by
  unfold Dev.admitItem
  extract_lets q
  rw [if_neg (by simp [q, hdedup])]
  exact ⟨_, (if_neg (c := q.spilling = true) (by simp [q, hspill])).trans (if_pos rfl)⟩

theorem Dev.ringOrLose_ok (d : Dev) (n : Nat) (bytes : List Byte) (e : Ent) (h : (d.ringPut n bytes e).1 = .ok) :
    d.ringOrLose n bytes e = (d.ringPut n bytes e).2 := by
  simp only [Dev.ringOrLose, h, if_true]

/-- One more at prod is one more in the ring, short of the 65,535 that the indices can tell apart. -/
theorem occupancy_idx_succ {prod cons : Nat} (hprod : prod < 65536) (hcons : cons < 65536) (hroom : (prod + 65536 - cons) % 65536 < 65535) :
    (idx (prod + 1) + 65536 - cons) % 65536 = (prod + 65536 - cons) % 65536 + 1 := by
  unfold idx
  omega

/-- Settles O19: the item goes into the ring (`Dev.admitItem_ring`), where its store ends with ST_OK whatever its flags. -/
theorem admitAddsOne : Obligations.AdmitAddsOne := by
  intro d n bytes e hdedup hspill hprod hcons hroom hstore
  obtain ⟨b, hadmit⟩ := d.admitItem_ring n bytes e hdedup hspill
  have hqn := (d.q_itemNoted n n e).trans (Dev.q_setQ_same ..)
  have hput : ((d.itemNoted n e).hwStore 0xFE (((d.itemNoted n e).q n).slotAddr ((d.itemNoted n e).q n).prod)
      (overlay bytes 6 [b])).1 = .ok := by
    rw [hqn, d.itemNoted_eq n e, Dev.hwStore_status_congr d _ (overlay_one_length bytes 6 b 0)]
    exact hstore
  obtain ⟨hok, hn, hm⟩ := Dev.ringPut_ok _ n _ e hput
  rw [hadmit, Dev.ringOrLose_ok _ n _ e hok, hn, hqn]
  exact ⟨occupancy_idx_succ hprod hcons hroom, rfl, rfl, fun m hne =>
    (hm m hne).trans ((d.q_itemNoted n m e).trans (Dev.q_setQ_ne d hne _))⟩

end Sys2Proof.Machine
end

section
/-! SUPPORT. What each command, doorbell and tag command of the queue manager gives (R151, R155, R157, R159, R168, R170, R173, R175,
R549). -/

namespace Sys2Proof.Machine

open Sys2Proof

/-- Nothing refuses a command of which every check answers ST_OK. -/
@[simp] theorem pickStatus_eq_ok {l : List Status} : pickStatus l = .ok ↔ ∀ c ∈ l, c = .ok := by
  induction l with
  | nil => simp [pickStatus]
  | cons c cs ih =>
    rw [List.forall_mem_cons, ← ih]
    simp only [pickStatus]
    split_ifs <;> simp_all

/-! ### Queue commands (R151, R173, R175, R549) -/

/-- What a queue command that nothing refuses does, by its code in QMG_Q_CMD (R175). -/
def Dev.queueEffect (d : Dev) (r : Req) : Nat → Status × Dev
  | 1 => d.queueCommit r
  | 2 => d.queueRead r
  | 3 => d.queueEnable (d.selQueue r)
  | 4 => d.queueDisable (d.selQueue r)
  | 5 => d.queueDrain (d.selQueue r)
  | _ => d.queueDiscard (d.selQueue r)

section
variable {d : Dev} {r : Req} {cmd : Nat} (h : d.queueCmdStatus r cmd = .ok)
include h

theorem Dev.commitRefusal_of_queueCmdStatus (hcmd : cmd = 1) : d.commitRefusal r = .ok := by
  have hall := pickStatus_eq_ok.mp h
  simpa [hcmd] using hall _ (.tail _ (.tail _ (.head _)))

theorem Dev.rowBad_of_queueCmdStatus (hcmd : 2 ≤ cmd) : d.rowBad pgQMG (d.selQueue r) = false := by
  have hall := pickStatus_eq_ok.mp h
  simpa [hcmd] using hall _ (.tail _ (.tail _ (.tail _ (.tail _ (.head _)))))

theorem Dev.queueCmd_ok (hlow : 1 ≤ cmd) (hhigh : cmd < 8) : d.queueCmd r cmd = d.queueEffect r cmd := by
  have hcode : bitsOf cmd 2 0 = cmd := Nat.mod_eq_of_lt hhigh
  have hrow : ¬(2 ≤ cmd ∧ d.rowBad pgQMG (d.selQueue r) = true) := fun hbad => by
    simp [Dev.rowBad_of_queueCmdStatus h hbad.1] at hbad
  simp only [Dev.queueCmd, hcode, h, if_neg hrow, if_neg (show ¬cmd = 0 by omega), ne_eq, not_true, if_false]
  rfl

end

section
variable {c : Instr} {s : State} {f : Dev → Dev} {r : Req} {off v cmd : Nat}

theorem Effects.of_qmgWrite (hacc : s.accepts r pgQMG off) (hoff : 0x040 ≤ off ∧ off < 0x800) (hexec : exec c s = s.write r pgQMG off v)
    (heff : s.dev.cleared.qmgWrite r off v = (.ok, f s.dev.cleared)) : Effects c s pgQMG f :=
  Effects.of_blockWrite (b := .qmg) (inst := 0) v hacc rfl rfl hoff hexec heff

theorem Effects.of_queueCmd (hacc : s.accepts r pgQMG 0x054) (hst : s.dev.queueCmdStatus r cmd = .ok) (hcmd : 1 ≤ cmd ∧ cmd < 8)
    (hexec : exec c s = s.write r pgQMG 0x054 cmd) (heff : s.dev.cleared.queueEffect r cmd = (.ok, f s.dev.cleared)) :
    Effects c s pgQMG f :=
  Effects.of_qmgWrite hacc (by decide) hexec ((Dev.queueCmd_ok (d := s.dev.cleared) hst hcmd.1 hcmd.2).trans heff)

end

theorem Dev.stagedQueue_valid (d : Dev) (r : Req) : (d.stagedQueue r).valid = (d.rdOwn (reqId r) QMG_QD_Wk_word 0).testBit 31 := by
  rw [Queue.valid, Dev.stagedQueue, testBit_setBits _ _ _ _ _ (by decide), if_neg (by decide)]

theorem Dev.queueCommit_valid (d : Dev) (r : Req) (h : d.commitRefusal r = .ok)
    (hvalid : (d.rdOwn (reqId r) QMG_QD_Wk_word 0).testBit 31 = true) :
    d.queueCommit r = (.ok, (d.setQ (d.selQueue r) (d.stagedQueue r)).rowWritten pgQMG (d.selQueue r)) := by
  simp only [Dev.queueCommit, h, Dev.stagedQueue_valid, hvalid, ne_eq, not_true, Bool.not_true, Bool.false_eq_true, if_false]

theorem Dev.queueCommit_invalid (d : Dev) (r : Req) (h : d.commitRefusal r = .ok)
    (hvalid : (d.rdOwn (reqId r) QMG_QD_Wk_word 0).testBit 31 = false) :
    d.queueCommit r = (.ok,
      let n := d.selQueue r
      let q := d.q n
      ((d.setQ n { known := q.known, world := q.world, reserved := q.reserved, late := q.late, full := q.full }).abortItems n
        (q.ents ++ q.spill) .aborted).rowWritten pgQMG n) := by
  simp only [Dev.queueCommit, h, Dev.stagedQueue_valid, hvalid, ne_eq, not_true, Bool.not_false, if_false, if_true]

section
variable (d : Dev) (n : Nat)

theorem Dev.queueEnable_off (hdrain : (d.q n).draining = false) (hen : (d.q n).enabled = false) :
    d.queueEnable n = (.ok, d.setQ n { d.q n with enabled := true, first := true }) := by
  simp only [Dev.queueEnable, hdrain, hen, Bool.false_eq_true, if_false]

/-- The enable of a queue that drains is pending until the drain ends (R28). -/
theorem Dev.queueEnable_draining (hdrain : (d.q n).draining = true) : d.queueEnable n = (.ok, d.setQ n { d.q n with pend := true }) := by
  simp only [Dev.queueEnable, hdrain, if_true]

theorem Dev.queueDisable_settled (hpend : (d.q n).pend = false) : d.queueDisable n = (.ok, d.setQ n { d.q n with enabled := false }) := by
  simp only [Dev.queueDisable, hpend, Bool.false_eq_true, if_false]

theorem Dev.queueDrain_enabled (hen : (d.q n).enabled = true) :
    d.queueDrain n = (.ok, d.setQ n { d.q n with enabled := false, draining := true }) := by
  simp only [Dev.queueDrain, hen, if_true]

end

theorem Tbl.put_put {α : Type} (t : Tbl α) (k : Nat) (v w : α) : Tbl.put (Tbl.put t k v) k w = Tbl.put t k w := by
  induction t with
  | nil => simp [Tbl.put]
  | cons e t ih =>
    obtain ⟨j, u⟩ := e
    rcases lt_trichotomy k j with hlt | rfl | hgt
    · simp [Tbl.put, hlt]
    · simp [Tbl.put]
    · simp [Tbl.put, hgt.not_gt, hgt.ne', ih]

/-- Of two writes of a queue that each differ from its reset state the second stands. -/
theorem Dev.setQ_setQ (d : Dev) (n : Nat) {q q' : Queue} (hq : q ≠ {}) (hq' : q' ≠ {}) : (d.setQ n q).setQ n q' = d.setQ n q' := by
  simp only [Dev.setQ, Tbl.set, if_neg hq, if_neg hq', Tbl.put_put]

theorem Queue.ne_default_of_draining {q : Queue} (h : q.draining = true) : q ≠ {} := by
  rintro rfl
  cases h

theorem Dev.queueDiscard_enabled (d : Dev) (n : Nat) (hen : (d.q n).enabled = true) :
    d.queueDiscard n = (.ok,
      let q := d.q n
      let gone := q.ents.drop q.claimed ++ q.spill
      let q' := { q with enabled := false, draining := true, prod := q.claim, ents := q.ents.take q.claimed, spill := [], spillHead := 0 }
      ((d.setQ n q').abortItems n gone .aborted).qStat 8 gone.length) := by
  rw [Dev.queueDiscard, Dev.queueDrain_enabled d n hen]
  dsimp only
  rw [Dev.q_setQ_same, Dev.setQ_setQ d n (Queue.ne_default_of_draining rfl) (Queue.ne_default_of_draining rfl)]
  rfl

/-! ### Doorbells (R155, R157, R159) -/

/-- A doorbell that nothing refuses meets no uncorrectable word. -/
theorem Dev.doorbellFault_ok (d : Dev) (r : Req) (n cnt : Nat) (h : d.doorbellStatus r n cnt = .ok) :
    d.rowBad pgQMG n = false ∧ d.doorbellFault r n cnt = d := by
  have hfault := pickStatus_eq_ok.mp h _ (.head _)
  simp only [ite_eq_right_iff, reduceCtorEq, imp_false, Bool.or_eq_true, not_or, Bool.not_eq_true, List.any_eq_false,
    Option.isSome_iff_ne_none, ne_eq, not_not] at hfault
  refine ⟨hfault.2, ?_⟩
  rw [Dev.doorbellFault, List.findSome?_eq_none_iff.mpr hfault.1]

/-- A doorbell of a queue that holds no commands reserves no reply slots. -/
theorem Dev.doorbell_ok (d : Dev) (r : Req) (v : Nat) (h : d.doorbellStatus r (bitsOf v 29 16) (bitsOf v 15 0) = .ok)
    (hkind : (d.q (bitsOf v 29 16)).kind ≠ 1) :
    d.doorbell r v =
      (.ok, ((d.q (bitsOf v 29 16)).announced (bitsOf v 15 0)).foldl (fun d i => d.announce r (bitsOf v 29 16) i) d) := by
  obtain ⟨hrow, hfault⟩ := d.doorbellFault_ok r _ _ h
  simp only [Dev.doorbell, h, hrow, hfault, Dev.replyNeeds, if_neg hkind, Bool.false_eq_true, if_false, ne_eq, not_true, List.foldl_nil]

/-- A claim or a free that nothing refuses: bit 31 tells which, the fields the queue and the count. -/
theorem Dev.consume_ok (d : Dev) (r : Req) {v n cnt : Nat} (hn : bitsOf v 29 16 = n) (hcnt : bitsOf v 15 0 = cnt)
    (hown : d.foreignQueue r (d.q n) = false) (hrow : d.rowBad pgQMG n = false) (hpos : cnt ≠ 0)
    (hheld : cnt ≤ if v.testBit 31 then (d.q n).unclaimed else (d.q n).claimed) :
    d.consume r v = (.ok, if v.testBit 31 then d.claimItems n cnt else d.freeItems n cnt) := by
  simp [Dev.consume, hn, hcnt, hown, hrow, hpos, Nat.not_lt.mpr hheld]

theorem Dev.qmgWrite_consume (d : Dev) (r : Req) (v : Nat) : d.qmgWrite r 0x084 v = d.consume r v := rfl

theorem Effects.of_consume {c : Instr} {s : State} {f : Dev → Dev} {r : Req} {v n cnt : Nat} (hacc : s.accepts r pgQMG 0x084)
    (hexec : exec c s = s.write r pgQMG 0x084 v) (hn : bitsOf v 29 16 = n) (hcnt : bitsOf v 15 0 = cnt)
    (hown : s.dev.foreignQueue r (s.dev.q n) = false) (hrow : s.dev.rowBad pgQMG n = false) (hpos : cnt ≠ 0)
    (hheld : cnt ≤ if v.testBit 31 then (s.dev.q n).unclaimed else (s.dev.q n).claimed)
    (heff : (if v.testBit 31 then s.dev.cleared.claimItems n cnt else s.dev.cleared.freeItems n cnt) = f s.dev.cleared) :
    Effects c s pgQMG f := by
  refine Effects.of_qmgWrite hacc (by decide) hexec ?_
  rw [Dev.qmgWrite_consume, Dev.consume_ok s.dev.cleared r hn hcnt hown hrow hpos hheld, heff]

/-- The operand of QMG_CLAIM. -/
theorem bits_claim (n : Fin 16384) (cnt : BitVec 16) :
    bitsOf (2 ^ 31 + n * 65536 + cnt.toNat) 29 16 = n ∧ bitsOf (2 ^ 31 + n * 65536 + cnt.toNat) 15 0 = cnt.toNat ∧
      (2 ^ 31 + n * 65536 + cnt.toNat).testBit 31 = true := by
  have hcnt := cnt.isLt
  rw [Nat.testBit_eq_decide_div_mod_eq, decide_eq_true_eq]
  simp only [bitsOf, Nat.shiftRight_eq_div_pow]
  omega

/-- The operand of QMG_FREE. -/
theorem bits_free (n : Fin 16384) (cnt : BitVec 16) :
    bitsOf (n * 65536 + cnt.toNat) 29 16 = n ∧ bitsOf (n * 65536 + cnt.toNat) 15 0 = cnt.toNat ∧
      (n * 65536 + cnt.toNat).testBit 31 = false := by
  have hcnt := cnt.isLt
  rw [Nat.testBit_eq_decide_div_mod_eq, decide_eq_false_iff_not]
  simp only [bitsOf, Nat.shiftRight_eq_div_pow]
  omega

/-- The completion of a claimed item by its consumer (R159). -/
theorem Dev.complete_ok (d : Dev) (r : Req) (v : Nat) {n i : Nat} {e : Ent} (hn : d.rdOwn (reqId r) QMG_CPL_Q_queue = n)
    (hown : d.foreignQueue r (d.q n) = false)
    (hfind : ((d.q n).ents.take (d.q n).claimed).findIdx? (fun e => e.seq == d.rdOwn (reqId r) QMG_CPL_Q_seq && e.reply.isSome && !e.done) =
      some i) (he : (d.q n).ents[i]? = some e) :
    d.complete r v = (.ok,
      (d.setQ n { d.q n with ents := (d.q n).ents.set i { e with done := true } }).endItem n e (reqId r) (bitsOf v 7 0)
        (d.rdOwn (reqId r) QMG_CPL_ARG_arg)) := by
  simp only [Dev.complete, hn, hown, hfind, Bool.false_eq_true, if_false, Dev.completeAt, he]

/-! ### Operation tags (R168, R170) -/

theorem Dev.tagAllocate_lowest (d : Dev) (r : Req) {i : Nat} (hfree : d.lowestFreeTag (tagRange r).1 (tagRange r).2 = some i) :
    d.tagAllocate r = (.ok,
      ((d.setTag i { d.tag i with used := true, tmo := d.rdOwn (reqId r) QMG_TAG_TMO_tmo, item := none }).wrOwn (reqId r)
        QMG_TAG_RES_status 0).wrOwn (reqId r) QMG_TAG_RES_tag ((d.tag i).gen * 2048 + i)) := by
  simp only [Dev.tagAllocate, hfree]

/-- The operand of QMG_TAG_FREE. -/
theorem bits_tagFree (tag : BitVec 16) : bitsOf (tag.toNat * 65536 + 2) 1 0 = 2 ∧ bitsOf (tag.toNat * 65536 + 2) 31 16 = tag.toNat := by
  have htag := tag.isLt
  simp only [bitsOf, Nat.shiftRight_eq_div_pow]
  omega

/-- The requester's tag that names no item is free again. -/
theorem Dev.tagFree_owned (d : Dev) (r : Req) (tag : Nat) (hown : d.ownsTag r tag = true) (hset : tag ≠ 0xFFFF)
    (hitem : (d.tag (tag % 2048)).item = none) :
    d.tagFree r tag = (.ok, d.setTag (tag % 2048) { d.tag (tag % 2048) with used := false, tmo := 0 }) := by
  have hlive : (d.tag (tag % 2048)).used = true ∧ (d.tag (tag % 2048)).gen = tag / 2048 := by
    simp only [Dev.ownsTag, Bool.and_eq_true, beq_iff_eq] at hown
    obtain ⟨⟨_, hused⟩, hgen⟩ := hown
    exact ⟨hused, hgen⟩
  simp only [Dev.tagFree, hown, hitem, Dev.freeTag, hset, hlive, Bool.not_true, Bool.false_eq_true, Option.isSome_none, ne_eq,
    not_false_eq_true, and_self, if_false, if_true]

theorem Dev.qmgWrite_tagCmd (d : Dev) (r : Req) (v : Nat) : d.qmgWrite r 0x098 v = d.tagCmd r v := rfl

theorem Dev.tagCmd_free (d : Dev) (r : Req) (tag : BitVec 16) : d.tagCmd r (tag.toNat * 65536 + 2) = d.tagFree r tag.toNat := by
  obtain ⟨hop, htag⟩ := bits_tagFree tag
  rw [Dev.tagCmd, hop]
  exact congrArg (d.tagFree r) htag

theorem Dev.tagLive_used (d : Dev) (tag : Nat) (hused : (d.tag (tag % 2048)).used = true) (hgen : (d.tag (tag % 2048)).gen = tag / 2048) :
    d.tagLive tag = true := by
  simp [Dev.tagLive, hused, hgen]

theorem Dev.tagTimeout_due (d : Dev) (i : Nat) {n : Nat} (hused : (d.tag i).used = true) (hitem : (d.tag i).item = some n)
    (htmo : (d.tag i).tmo ≠ 0) (hdue : (d.tag i).start + (d.tag i).tmo * 10000 ≤ d.tickTai) :
    d.tagTimeout i = ((d.cancelTag i .timeout).qStat 2).qRec 0x6010 4 n ((d.tickTai - (d.tag i).start) / 1000) := by
  have hexp : d.tagExpired i = true := by simp [Dev.tagExpired, hused, hitem, htmo, hdue]
  simp only [Dev.tagTimeout, hexp, hitem, if_true, Option.getD_some]

/-! ### What each command gives -/

theorem exec_doorbell_alone (r : Req) (v : Word) (s : State) : exec (.qmgProducerDoorbell r v []) s = s.write r pgQMG 0x080 v.toNat := by
  have hwins : losesDoorbell s.rr r (bitsOf v.toNat 29 16) [] = false := rfl
  show execQmgProducerDoorbell r v [] s = _
  simp only [execQmgProducerDoorbell, List.map_nil, hwins, Bool.false_eq_true, if_false]

/-- QMG_QUEUE_INVALIDATE is the commit of a descriptor whose valid bit is 0. -/
theorem exec_queueInvalidate {r : Req} {s : State} (hon : s.on) (hvalid : (s.dev.rdOwn (reqId r) QMG_QD_Wk_word 0).testBit 31 = false) :
    exec (.qmgQueueInvalidate r) s = s.write r pgQMG 0x054 1 := by
  have hstaged : s.dev.cleared.stagedInvalid r = true := by
    rw [Dev.stagedInvalid, Bool.not_eq_true']
    exact hvalid
  calc exec (.qmgQueueInvalidate r) s
    _ = s.act (fun d => if d.stagedInvalid r then d.pageWrite r pgQMG 0x054 1 else d) := rfl
    _ = s.write r pgQMG 0x054 1 := by rw [State.write, State.act_on _ _ hon, State.act_on _ _ hon, if_pos hstaged]

/-- Settles O17, clause by clause: the accepted case of each command, doorbell and tag command. -/
theorem queuesComplete : Obligations.QueuesComplete := by
  refine ⟨fun s r n w q hacc hst hn hq hvalid hw => ?commit, fun s r n q hacc hst hn hq hvalid => ?invalidate,
    fun s r q hacc hst hq => ?read, fun s r n q hacc hst hn hq hdrain hen => ?enable, fun s r n q hacc hst hn hq hdrain => ?pend,
    fun s r n q hacc hst hn hq hpend => ?disable, fun s r n q hacc hst hn hq hen => ?drain, fun s r n q hacc hst hn hq hen => ?discard,
    fun s r v n cnt hacc hn hcnt hst hkind => ?doorbell, fun s r n cnt hacc hown hrow hpos hle => ?claim,
    fun s r n cnt hacc hown hrow hpos hle => ?free, fun s r v n i e hacc hn hown hfind he => ?complete,
    fun s r i hacc hfree => ?allocate, fun s r tag hacc hown hset hitem => ?release,
    fun s i t n hon ht hgen hused hitem htmo hdue => ?timeout⟩
  case commit =>
    subst hn hq hw
    exact Effects.of_queueCmd hacc hst (by decide) rfl
      (Dev.queueCommit_valid s.dev.cleared r (Dev.commitRefusal_of_queueCmdStatus hst rfl) hvalid)
  case invalidate =>
    subst hn hq
    exact Effects.of_queueCmd hacc hst (by decide) (exec_queueInvalidate hacc.1 hvalid)
      (Dev.queueCommit_invalid s.dev.cleared r (Dev.commitRefusal_of_queueCmdStatus hst rfl) hvalid)
  case read =>
    subst hq
    exact Effects.of_queueCmd hacc hst (by decide) rfl rfl
  case enable =>
    subst hn hq
    exact Effects.of_queueCmd hacc hst (by decide) rfl (Dev.queueEnable_off s.dev.cleared _ hdrain hen)
  case pend =>
    subst hn hq
    exact Effects.of_queueCmd hacc hst (by decide) rfl (Dev.queueEnable_draining s.dev.cleared _ hdrain)
  case disable =>
    subst hn hq
    exact Effects.of_queueCmd hacc hst (by decide) rfl (Dev.queueDisable_settled s.dev.cleared _ hpend)
  case drain =>
    subst hn hq
    exact Effects.of_queueCmd hacc hst (by decide) rfl (Dev.queueDrain_enabled s.dev.cleared _ hen)
  case discard =>
    subst hn hq
    exact Effects.of_queueCmd hacc hst (by decide) rfl (Dev.queueDiscard_enabled s.dev.cleared _ hen)
  case doorbell =>
    subst hn hcnt
    exact Effects.of_qmgWrite hacc (by decide) (exec_doorbell_alone r v s) (Dev.doorbell_ok s.dev.cleared r _ hst hkind)
  case claim =>
    obtain ⟨hn, hcnt, hbit⟩ := bits_claim n cnt
    refine Effects.of_consume hacc rfl hn hcnt hown hrow (fun hzero => hpos (BitVec.eq_of_toNat_eq hzero)) ?_ ?_
    · rwa [if_pos hbit]
    · rw [if_pos hbit]; rfl
  case free =>
    obtain ⟨hn, hcnt, hbit⟩ := bits_free n cnt
    have hbit' : ¬(n * 65536 + cnt.toNat).testBit 31 = true := by simp [hbit]
    refine Effects.of_consume hacc rfl hn hcnt hown hrow (fun hzero => hpos (BitVec.eq_of_toNat_eq hzero)) ?_ ?_
    · rwa [if_neg hbit']
    · rw [if_neg hbit']; rfl
  case complete =>
    subst hn
    exact Effects.of_qmgWrite hacc (by decide) rfl (Dev.complete_ok s.dev.cleared r _ rfl hown hfind he)
  case allocate => exact Effects.of_qmgWrite hacc (by decide) rfl (Dev.tagAllocate_lowest s.dev.cleared r hfree)
  case release =>
    exact Effects.of_qmgWrite hacc (by decide) rfl
      ((Dev.qmgWrite_tagCmd ..).trans
        ((Dev.tagCmd_free s.dev.cleared r tag).trans (Dev.tagFree_owned s.dev.cleared r _ hown hset hitem)))
  case timeout =>
    subst ht
    refine Gives.of_act (fun d => if d.tagLive i then d.tagTimeout (i % 2048) else d) hon rfl ?_
    rw [if_pos (Dev.tagLive_used s.dev.cleared i hused hgen)]
    exact Dev.tagTimeout_due s.dev.cleared _ hused hitem htmo hdue

end Sys2Proof.Machine
end

section
/-! SUPPORT. What a captured word does to the lanes of the converter port (R180, R182). -/

namespace Sys2Proof.Machine

open Sys2Proof

/-! ### The lanes under the updates of a captured word -/

theorem Dev.lane_setLane (d : Dev) (n m : Nat) (l : CnvLane) : (d.setLane n l).lane m = if m = n then l else d.lane m :=
  Tbl.get_set ..

@[simp] theorem Dev.lane_laneStat (d : Dev) (n i m : Nat) : (d.laneStat n i).lane m = d.lane m := rfl

/-- A record under the rate rule stays with EVR (R545). -/
theorem Dev.rated_cnv (d : Dev) (block code unit sev p0 p2 src : Nat) : (d.rated block code unit sev p0 p2 src).cnv = d.cnv := by
  simp only [Dev.rated]
  split
  · rfl
  · exact (apply_ite Dev.cnv ..).trans (ite_self _)

@[simp] theorem Dev.lane_cnvRec (d : Dev) (n code sev p2 m : Nat) : (d.cnvRec n code sev p2).lane m = d.lane m :=
  congrArg (fun c : Cnv => c.lanes.get m {}) (Dev.rated_cnv ..)

/-! ### The two outcomes of the check (R180, R182) -/

/-- A lane after a check error: the sixteenth in a row fails it (R182). -/
def CnvLane.rejected (l : CnvLane) (w : Nat) : CnvLane :=
  { l with bit0 := some (bitOf w 0), bad := l.bad + 1, good := 0, failed := l.failed || decide (l.bad = 15) }

/-- A lane after a sound word of value `v`: the 256th in a row brings a failed lane back (R182). -/
def CnvLane.accepted (l : CnvLane) (w : Nat) (v : Int) : CnvLane :=
  { l with bit0 := some (bitOf w 0), bad := 0, good := l.good + 1, last := v, failed := l.failed && decide (l.good < 255) }

section
variable (d : Dev) (n w : Nat)

theorem Dev.laneWord_bad (h : wordBad (d.rd CNV_GRPg_fmt (n / 4)) (d.lane n).bit0 w = true) :
    (d.laneWord n w).1 = (d.lane n).last ∧ (d.laneWord n w).2.1 = true ∧
      ∀ m, (d.laneWord n w).2.2.2.lane m = if m = n then (d.lane n).rejected w else d.lane m := by
  simp only [Dev.laneWord, h, if_true, true_and]
  intro m
  split
  next hfails =>
    obtain ⟨hsixteenth, -⟩ := hfails
    by_cases hm : m = n <;> simp [Dev.lane_setLane, CnvLane.rejected, hm, Nat.succ.inj hsixteenth]
  next hkept =>
    have hsame : ((d.lane n).failed || decide ((d.lane n).bad = 15)) = (d.lane n).failed := by
      simpa [not_imp_comm] using hkept
    simp [Dev.lane_setLane, CnvLane.rejected, hsame]

theorem Dev.laneWord_good (h : wordBad (d.rd CNV_GRPg_fmt (n / 4)) (d.lane n).bit0 w = false) :
    (d.laneWord n w).1 = convertWord (d.rd CNV_GRPg_fmt (n / 4)) (d.flag CNV_GRPg_code (n / 4)) w ∧ (d.laneWord n w).2.1 = false ∧
      ∀ m, (d.laneWord n w).2.2.2.lane m = if m = n then (d.lane n).accepted w (d.laneWord n w).1 else d.lane m := by
  have hflag : (d.laneStat n 0).flag CNV_GRPg_code (n / 4) = d.flag CNV_GRPg_code (n / 4) := rfl
  simp only [Dev.laneWord, h, Bool.false_eq_true, if_false, apply_ite Prod.fst, apply_ite Prod.snd, ite_self, true_and, hflag]
  intro m
  simp only [apply_ite (Dev.lane · m), Dev.lane_cnvRec, Dev.lane_laneStat, Dev.lane_setLane, ite_self]
  split
  next hback =>
    obtain ⟨-, hgood⟩ := hback
    have hcleared : ((d.lane n).failed && decide ((d.lane n).good < 255)) = false := by
      simp [Nat.le_of_succ_le_succ hgood]
    by_cases hm : m = n <;> simp [CnvLane.accepted, hm, hcleared]
  next hkept =>
    have hsame : ((d.lane n).failed && decide ((d.lane n).good < 255)) = (d.lane n).failed := by
      simpa using hkept
    simp only [CnvLane.accepted, hsame]

end

/-- Settles O21: the check parts the words in two, and each outcome leaves the lanes as R180 and R182 say. -/
theorem capturedWord : Obligations.CapturedWord := by
  intro d n w
  refine ⟨fun h => ?sound, fun h => ?bad, fun m hm => ?others⟩
  case sound =>
    obtain ⟨hval, hrepl, hlane⟩ := d.laneWord_good n w h
    simp only [hlane, if_true]
    exact ⟨hval, hrepl, rfl, rfl, rfl⟩
  case bad =>
    obtain ⟨hval, hrepl, hlane⟩ := d.laneWord_bad n w h
    simp only [hlane, if_true]
    exact ⟨hval, hrepl, rfl, rfl, rfl, rfl⟩
  case others =>
    cases h : wordBad (d.rd CNV_GRPg_fmt (n / 4)) (d.lane n).bit0 w
    · exact ((d.laneWord_good n w h).2.2 m).trans (if_neg hm)
    · exact ((d.laneWord_bad n w h).2.2 m).trans (if_neg hm)

end Sys2Proof.Machine
end

section
/-! SUPPORT. A compress step of a program that names no queue: its item goes to the context's own queue (R127, R215; log entry 51). -/

namespace Sys2Proof.Machine

open Sys2Proof

/-- What a command that is the effect `g` is said to give is what `g` makes of the device. -/
theorem Gives.eq_of_act {c : Instr} {s : State} {f : Dev → Dev} (g : Dev → Dev) (hon : s.on) (hexec : exec c s = s.act g)
    (h : Gives c s f) : g s.dev.cleared = f s.dev.cleared := by
  rw [Gives, hexec, State.act_on s g hon] at h
  injection h with hstate
  exact congrArg State.dev hstate

/-- A mode 0 frame of one channel and one block of 16-bit zeros (R202, R203). -/
def zeroFrame : List Byte :=
  Pyrlon.bytes {
    version := 1, gap := false, degraded := false, tag := 0, codecRes := 0, width := 0, order := 0, mode := 0, k := 0, chans := 1
    streamId := 0, count := 0, blocks := 1, rateRes := 0, dec := 0, rate := 0, time := 0, keyId := 0, len := 128 } ++
      List.replicate 128 0

/-- The step of a program without an enqueue step after it. -/
def unnamedStep : WfcJob := { decode := false, pdu := zeroFrame, dests := [], entry := 0, dp := 0 }

/-- A valid mode 0 context for queue 7, with one item held for the full queue. -/
def holdingCtx : WfcCtx := { w0 := 2 ^ 31 + 7, held := [(7, 0, [], false)] }

/-- The context has handed the step's frame to the coding units. -/
def unnamedStepState : State := { State.reset with dev := (State.reset.dev.setWfc 0 holdingCtx).wfcStep 0 unnamedStep true }

/-- The queues for which a context holds items. -/
def Dev.heldQueues (d : Dev) (k : Nat) : List Nat := (d.wfcCtx k).held.map (·.1)

/-- The model: the step's item is held for the context's own queue, behind the one before it. -/
theorem wfcItem_unnamed_heldQueues : (unnamedStepState.dev.cleared.wfcItem 0).heldQueues 0 = [7, 7] := by decide +kernel

/-- Items for no queue leave the context what it held. -/
theorem wfcOuts_unnamed_heldQueues :
    let d := unnamedStepState.dev.cleared
    let c := { d.wfcCtx 0 with jobs := [] }
    let h := parsePyrlon unnamedStep.pdu
    let x := encodePdu c unnamedStep.pdu
    (((d.setWfc 0 c).wfcCoded 0 (h.chans * h.blocks) x.2).wfcOuts 0 unnamedStep.dests h.time x.1).heldQueues 0 = [7] := by
  decide +kernel

/-- Refutes O20, in the clause of a frame that leaves the coding units (R215): the clause gives the step's item to the queues that the
program names, also where it names none; there the model gives it to the context's own queue (`wfcItem_unnamed_heldQueues`). -/
theorem not_converterCompletes : ¬ Obligations.ConverterCompletes := by
  rintro ⟨-, -, -, -, -, -, -, -, -, -, -, -, -, -, -, hitem, -⟩
  have hjobs : (unnamedStepState.dev.wfcCtx 0).jobs = [unnamedStep] := by decide +kernel
  have hmode : (unnamedStepState.dev.wfcCtx 0).mode ≠ 3 := by decide +kernel
  have hgives := hitem unnamedStepState 0 unnamedStep [] (by decide +kernel) hjobs (by decide +kernel) rfl hmode
  have hdev := Gives.eq_of_act (fun d => d.wfcItem 0) (by decide +kernel) rfl hgives
  have hheld := congrArg (fun d => d.heldQueues 0) hdev
  have hqueues : [7, 7] = [7] := wfcItem_unnamed_heldQueues.symm.trans (hheld.trans wfcOuts_unnamed_heldQueues)
  cases hqueues

end Sys2Proof.Machine
end

section
/-! SUPPORT. Fields of a bit stream: what is written most significant bit first is read back (R207, R208). -/

namespace Sys2Proof.Machine

open Sys2Proof

/-! ### Two's complement -/

/-- `x` is a sample of `w` bits. -/
def FitsBits (w : Nat) (x : Int) : Prop := -(2 ^ (w - 1) : Int) ≤ x ∧ x < 2 ^ (w - 1)

theorem FitsBits.mono {w v : Nat} {x : Int} (h : FitsBits w x) (hle : w ≤ v) : FitsBits v x := by
  have hpow : (2 ^ (w - 1) : Int) ≤ 2 ^ (v - 1) := pow_le_pow_right₀ (by decide) (by omega)
  exact ⟨(neg_le_neg hpow).trans h.1, h.2.trans_le hpow⟩

theorem unsigned_eq_toNat_ofInt (w : Nat) (x : Int) : unsigned w x = (BitVec.ofInt w x).toNat := (BitVec.toNat_ofInt x).symm

theorem unsigned_lt (w : Nat) (x : Int) : unsigned w x < 2 ^ w := unsigned_eq_toNat_ofInt w x ▸ BitVec.isLt _

theorem signed_unsigned {w : Nat} {x : Int} (hw : 0 < w) (hx : FitsBits w x) : signed w (unsigned w x) = x := by
  rw [unsigned_eq_toNat_ofInt, signed_toNat, BitVec.toInt_ofInt_eq_self hw hx.1 hx.2]

theorem clampBits_eq_max_min (w : Nat) (v : Int) : clampBits w v = max (-2 ^ (w - 1)) (min (2 ^ (w - 1) - 1) v) := by
  have hpos : (0 : Int) < 2 ^ (w - 1) := by positivity
  simp only [clampBits, clampInt]
  split_ifs <;> omega

theorem clampBits_of_fits {w : Nat} {x : Int} (hx : FitsBits w x) : clampBits w x = x := by
  obtain ⟨hlo, hhi⟩ := hx
  rw [clampBits_eq_max_min]
  omega

/-- Clamping does not take a value further from a sample of the range (R211). -/
theorem natAbs_clampBits_sub_le {w : Nat} {x : Int} (hx : FitsBits w x) (v : Int) :
    (clampBits w v - x).natAbs ≤ (v - x).natAbs := by
  obtain ⟨hlo, hhi⟩ := hx
  rw [clampBits_eq_max_min]
  omega

/-! ### Bits of a value -/

theorem b2n_eq_toNat (x : Bool) : b2n x = x.toNat := by cases x <;> rfl

@[simp] theorem msbBits_length (v n : Nat) : (msbBits v n).length = n := by
  induction n with
  | zero => rfl
  | succ n ih => simp [msbBits, ih]

theorem foldl_msbBits (v n a : Nat) : (msbBits v n).foldl (fun s x => 2 * s + b2n x) a = a * 2 ^ n + v % 2 ^ n := by
  induction n generalizing a with
  | zero => simp [msbBits, Nat.mod_one]
  | succ n ih =>
    rw [msbBits, List.foldl_cons, ih, Nat.mod_pow_succ, b2n_eq_toNat, Nat.toNat_testBit]
    ring

theorem bitsVal_msbBits (v n : Nat) : bitsVal (msbBits v n) = v % 2 ^ n := by
  rw [bitsVal, foldl_msbBits, Nat.zero_mul, Nat.zero_add]

theorem bitsVal_concat (l : List Bool) (x : Bool) : bitsVal (l ++ [x]) = 2 * bitsVal l + b2n x := by simp [bitsVal]

theorem bitsVal_lt (l : List Bool) : bitsVal l < 2 ^ l.length := by
  induction l using List.reverseRecOn with
  | nil => decide
  | append_singleton l x ih =>
    have hx := x.toNat_le
    rw [bitsVal_concat, b2n_eq_toNat, List.length_append, List.length_singleton, pow_succ]
    omega

theorem msbBits_succ (v n : Nat) : msbBits v (n + 1) = msbBits (v / 2) n ++ [v.testBit 0] := by
  induction n with
  | zero => rfl
  | succ n ih => rw [msbBits, ih, msbBits, Nat.testBit_succ, List.cons_append]

theorem msbBits_bitsVal (l : List Bool) : msbBits (bitsVal l) l.length = l := by
  induction l using List.reverseRecOn with
  | nil => rfl
  | append_singleton l x ih =>
    have hx := x.toNat_le
    have hhalf : (2 * bitsVal l + x.toNat) / 2 = bitsVal l := by omega
    have hlow : (2 * bitsVal l + x.toNat).testBit 0 = x := by cases x <;> simp
    rw [bitsVal_concat, b2n_eq_toNat, List.length_append, List.length_singleton, msbBits_succ, hhalf, hlow, ih]

/-! ### Reading a field -/

theorem getBits_msbBits (v n : Nat) (rest : List Bool) : getBits n (msbBits v n ++ rest) = some (v % 2 ^ n, rest) := by
  have hlong : ¬(msbBits v n ++ rest).length < n := by simp
  rw [getBits, if_neg hlong, List.take_left' (msbBits_length v n), List.drop_left' (msbBits_length v n), bitsVal_msbBits]

theorem getBits_msbBits_of_lt {v n : Nat} (h : v < 2 ^ n) (rest : List Bool) : getBits n (msbBits v n ++ rest) = some (v, rest) := by
  rw [getBits_msbBits, Nat.mod_eq_of_lt h]

theorem getRun_replicate (n : Nat) (rest : List Bool) : getRun n (List.replicate n true ++ rest) = some (n, rest) := by
  induction n with
  | zero => rfl
  | succ n ih => rw [List.replicate_succ, List.cons_append, getRun, ih]; rfl

theorem getRun_replicate_false {q n : Nat} (h : q < n) (rest : List Bool) :
    getRun n (List.replicate q true ++ false :: rest) = some (q, rest) := by
  induction q generalizing n with
  | zero => obtain ⟨m, rfl⟩ := Nat.exists_eq_add_of_lt h; rfl
  | succ q ih =>
    obtain ⟨m, rfl⟩ : ∃ m, n = m + 1 := ⟨n - 1, by omega⟩
    rw [List.replicate_succ, List.cons_append, getRun, ih (by omega)]
    rfl

/-! ### Bits packed into bytes -/

theorem bitsOfBytes_append (l m : List Byte) : bitsOfBytes (l ++ m) = bitsOfBytes l ++ bitsOfBytes m := by simp [bitsOfBytes]

theorem length_bitsOfBytes_mod (l : List Byte) : (bitsOfBytes l).length % 8 = 0 := by
  induction l with
  | nil => rfl
  | cons a l ih =>
    have hcons : bitsOfBytes (a :: l) = msbBits a.toNat 8 ++ bitsOfBytes l := rfl
    rw [hcons, List.length_append, msbBits_length, Nat.add_mod_left, ih]

/-- The bits of one packed byte are the eight bits it was packed from. -/
theorem msbBits_packedByte (l : List Bool) (i : Nat) :
    msbBits (BitVec.ofNat 8 ((List.range 8).foldl (fun v j => 2 * v + b2n (l.getD (8 * i + j) false)) 0)).toNat 8 =
      (List.range 8).map (fun j => l.getD (8 * i + j) false) := by
  have hfold : (List.range 8).foldl (fun v j => 2 * v + b2n (l.getD (8 * i + j) false)) 0 =
      bitsVal ((List.range 8).map (fun j => l.getD (8 * i + j) false)) := by rw [bitsVal, List.foldl_map]
  have hlen : ((List.range 8).map (fun j => l.getD (8 * i + j) false)).length = 8 := by simp
  have hlt := bitsVal_lt ((List.range 8).map (fun j => l.getD (8 * i + j) false))
  have hback := msbBits_bitsVal ((List.range 8).map (fun j => l.getD (8 * i + j) false))
  rw [hlen] at hlt hback
  rw [hfold, BitVec.toNat_ofNat, Nat.mod_eq_of_lt hlt, hback]

theorem flatten_map_range_mul {α : Type} (g : Nat → α) (n c : Nat) :
    ((List.range c).map (fun i => (List.range n).map (fun j => g (n * i + j)))).flatten = (List.range (n * c)).map g := by
  induction c with
  | zero => rfl
  | succ c ih => simp [List.range_succ, ih, Nat.mul_succ, List.range_add, Function.comp_def]

theorem map_getD_range_add {α : Type} (l : List α) (n : Nat) (d : α) :
    (List.range (l.length + n)).map (fun i => l.getD i d) = l ++ List.replicate n d := by
  refine List.ext_getElem (by simp) fun i hi _ => ?_
  rw [List.getElem_map, List.getElem_range, List.getElem_append]
  split
  case isTrue h => exact List.getD_eq_getElem l d h
  case isFalse h => rw [List.getElem_replicate, List.getD_eq_default l d (by omega)]

/-- The bits of packed bytes are the bits packed, then fewer than eight zeros (R208). -/
theorem bitsOfBytes_packBits (l : List Bool) : ∃ n < 8, bitsOfBytes (packBits l) = l ++ List.replicate n false := by
  have hbits : bitsOfBytes (packBits l) = (List.range (8 * ceilDiv l.length 8)).map (fun i => l.getD i false) := by
    rw [← flatten_map_range_mul, bitsOfBytes, packBits, List.map_map]
    exact congrArg List.flatten (List.map_congr_left fun i _ => msbBits_packedByte l i)
  have hceil : ceilDiv l.length 8 = (l.length + 7) / 8 := rfl
  obtain ⟨n, hn⟩ := Nat.exists_eq_add_of_le (show l.length ≤ 8 * ceilDiv l.length 8 by omega)
  exact ⟨n, by omega, by rw [hbits, hn, map_getD_range_add]⟩

end Sys2Proof.Machine
end

section
/-! SUPPORT. The samples that a decoder rebuilds from a coded block, and how far they are from the samples coded (R207 to R211). -/

namespace Sys2Proof.Machine

open Sys2Proof

/-! ### One sample (R210) -/

theorem unzigzag_zigzag (q : Int) : unzigzag (zigzag q) = q := by
  unfold zigzag unzigzag
  split_ifs <;> omega

theorem quantise_of_ne {mode : Nat} (h : mode ≠ 2) (k : Nat) (e : Int) : quantise mode k e = e := if_neg h

section
variable (mode p k w kr : Nat) (hist : List Int) (b : List Bool)

theorem decodeSample_escaped :
    decodeSample mode p k w kr hist (List.replicate 16 true ++ b) = (getBits w b).map (fun r => (signed w r.1, r.2)) := by
  rw [decodeSample, getRun_replicate]
  rfl

theorem decodeSample_coded {q : Nat} (hq : q < 16) :
    decodeSample mode p k w kr hist (List.replicate q true ++ false :: b) = (getBits kr b).map (fun r =>
      (clampBits w (predict p hist +
        (if mode = 2 then unzigzag (q * 2 ^ kr + r.1) * (2 * k + 1) else unzigzag (q * 2 ^ kr + r.1))), r.2)) := by
  rw [decodeSample, getRun_replicate_false hq]
  split
  case h_1 h => cases h
  case h_2 h => cases h; exact absurd hq (by decide)
  case h_3 h => cases h; rfl

end

/-- What the decoder reads is the encoder's own reconstruction, from any history. -/
theorem decodeSample_codeSample {mode p k w kr : Nat} {hist : List Int} {x : Int} (hw : 0 < w) (hx : FitsBits w x) (rest : List Bool) :
    decodeSample mode p k w kr hist ((codeSample mode p k w kr hist x).1 ++ rest) =
      some ((codeSample mode p k w kr hist x).2.1, rest) := by
  rw [codeSample]
  split
  case isTrue =>
    rw [List.append_assoc, decodeSample_escaped, getBits_msbBits_of_lt (unsigned_lt w x), Option.map_some, signed_unsigned hw hx]
  case isFalse hesc =>
    generalize hu : zigzag (quantise mode k (x - predict p hist)) = u at hesc
    have hrun : u / 2 ^ kr < 16 := by omega
    have hval : unzigzag (u / 2 ^ kr * 2 ^ kr + u % 2 ^ kr) = quantise mode k (x - predict p hist) := by
      rw [Nat.div_add_mod', ← hu, unzigzag_zigzag]
    rw [List.append_assoc, List.append_assoc, List.singleton_append, decodeSample_coded _ _ _ _ _ _ _ hrun, getBits_msbBits,
      Nat.mod_mod, Option.map_some, hval]
    by_cases hm : mode = 2
    · simp only [if_pos hm]
    · simp only [if_neg hm, quantise_of_ne hm, add_sub_cancel, clampBits_of_fits hx]

/-- The greatest error of a decoded sample: the bound in mode 2, none in the others. -/
def lossBound (mode k : Nat) : Nat := if mode = 2 then k else 0

/-- The quantised residual, scaled back, is at most `k` away (R210). -/
theorem natAbs_quantise_mul_sub_le (k : Nat) (e : Int) : (quantise 2 k e * (2 * k + 1) - e).natAbs ≤ k := by
  have hdiv := Nat.div_add_mod (e.natAbs + k) (2 * k + 1)
  have hmod := Nat.mod_lt (e.natAbs + k) (show 0 < 2 * k + 1 by omega)
  rw [quantise, if_pos rfl]
  generalize (e.natAbs + k) / (2 * k + 1) = m at *
  have hcast : (2 * k + 1 : Int) * m = ((2 * k + 1) * m : Nat) := by push_cast; ring
  split
  case isTrue h => rw [neg_mul, mul_comm (m : Int), hcast]; omega
  case isFalse h => rw [mul_comm (m : Int), hcast]; omega

theorem natAbs_codeSample_sub_le {mode p k w kr : Nat} {hist : List Int} {x : Int} (hx : FitsBits w x) :
    ((codeSample mode p k w kr hist x).2.1 - x).natAbs ≤ lossBound mode k := by
  rw [codeSample]
  split
  case isTrue => simp
  case isFalse =>
    by_cases hm : mode = 2
    · subst hm
      have hclamp := natAbs_clampBits_sub_le hx (predict p hist + quantise 2 k (x - predict p hist) * (2 * k + 1))
      have hquant := natAbs_quantise_mul_sub_le k (x - predict p hist)
      simp only [lossBound, if_true]
      omega
    · simp [hm]

/-! ### The samples of a block -/

/-- The codes of `xs` after the history `hist` (R210). -/
def sampleCodes (mode p k w kr : Nat) : List Int → List Int → List Bool
  | _, [] => []
  | hist, x :: xs =>
    let c := codeSample mode p k w kr hist x
    c.1 ++ sampleCodes mode p k w kr (c.2.1 :: hist) xs

/-- The reconstructions of `xs` after the history `hist` (R210). -/
def rebuilt (mode p k w kr : Nat) : List Int → List Int → List Int
  | _, [] => []
  | hist, x :: xs =>
    let y := (codeSample mode p k w kr hist x).2.1
    y :: rebuilt mode p k w kr (y :: hist) xs

/-- The warm-up field of a block (R208). -/
def warmBits (w : Nat) (xs : List Int) : List Bool := (xs.map (fun v => msbBits (unsigned w v) w)).flatten

/-- The samples that a block decodes to: the warm-up, then the reconstructions. -/
def rebuiltBlock (mode p k w : Nat) (x : List Int) : List Int :=
  x.take p ++ rebuilt mode p k w (riceParam mode p k x) (x.take p).reverse (x.drop p)

section
variable {mode p k w kr : Nat} {hist xs : List Int}

@[simp] theorem rebuilt_length : (rebuilt mode p k w kr hist xs).length = xs.length := by
  induction xs generalizing hist with
  | nil => rfl
  | cons x xs ih => rw [rebuilt, List.length_cons, ih, List.length_cons]

@[simp] theorem rebuiltBlock_length : (rebuiltBlock mode p k w xs).length = xs.length := by
  rw [rebuiltBlock, List.length_append, rebuilt_length, ← List.length_append, List.take_append_drop]

theorem natAbs_rebuilt_sub_le (hxs : ∀ x ∈ xs, FitsBits w x) (i : Nat) :
    ((rebuilt mode p k w kr hist xs).getD i 0 - xs.getD i 0).natAbs ≤ lossBound mode k := by
  induction xs generalizing hist i with
  | nil => simp [rebuilt]
  | cons x xs ih =>
    obtain ⟨hx, hrest⟩ := List.forall_mem_cons.mp hxs
    cases i with
    | zero => exact natAbs_codeSample_sub_le hx
    | succ i => exact ih hrest i

/-- Warm-up samples are exact (R211). -/
theorem rebuiltBlock_getD_warm {i : Nat} (hi : i < p) : (rebuiltBlock mode p k w xs).getD i 0 = xs.getD i 0 := by
  by_cases hlen : i < xs.length
  · have htake : i < (xs.take p).length := by rw [List.length_take]; omega
    rw [rebuiltBlock, List.getD_append _ _ _ _ htake, List.getD_eq_getElem _ _ htake, List.getElem_take, List.getD_eq_getElem _ _ hlen]
  · rw [List.getD_eq_default _ _ (by rw [rebuiltBlock_length]; omega), List.getD_eq_default _ _ (by omega)]

theorem natAbs_append_sub_le (l : List Int) {ys xs : List Int} {n : Nat} (h : ∀ i, (ys.getD i 0 - xs.getD i 0).natAbs ≤ n) (i : Nat) :
    ((l ++ ys).getD i 0 - (l ++ xs).getD i 0).natAbs ≤ n := by
  by_cases hi : i < l.length
  · rw [List.getD_append _ _ _ _ hi, List.getD_append _ _ _ _ hi, sub_self]
    exact Nat.zero_le n
  · rw [List.getD_append_right _ _ _ _ (by omega), List.getD_append_right _ _ _ _ (by omega)]
    exact h _

/-- Every decoded sample is within the bound of its mode (R211). -/
theorem natAbs_rebuiltBlock_sub_le (hxs : ∀ x ∈ xs, FitsBits w x) (i : Nat) :
    ((rebuiltBlock mode p k w xs).getD i 0 - xs.getD i 0).natAbs ≤ lossBound mode k := by
  have hdrop : ∀ x ∈ xs.drop p, FitsBits w x := fun x hx => hxs x (List.mem_of_mem_drop hx)
  have hblock := natAbs_append_sub_le (xs.take p) (natAbs_rebuilt_sub_le (mode := mode) (p := p) (k := k)
    (kr := riceParam mode p k xs) (hist := (xs.take p).reverse) hdrop) i
  rwa [List.take_append_drop] at hblock

/-- In the lossless modes a block decodes to its samples (R211). -/
theorem rebuiltBlock_of_lossless (hm : mode ≠ 2) (hxs : ∀ x ∈ xs, FitsBits w x) : rebuiltBlock mode p k w xs = xs := by
  refine List.ext_getElem rebuiltBlock_length fun i hi hi' => ?_
  have hloss := natAbs_rebuiltBlock_sub_le (mode := mode) (p := p) (k := k) hxs i
  rw [lossBound, if_neg hm, List.getD_eq_getElem _ _ hi, List.getD_eq_getElem _ _ hi'] at hloss
  omega

end

end Sys2Proof.Machine
end

section
/-! SUPPORT. A payload that the coder wrote, read by the decoder: each field, each block and the end of the payload (R203, R208). -/

namespace Sys2Proof.Machine

open Sys2Proof

/-! ### The coder -/

theorem riceParam_le (mode p k : Nat) (x : List Int) : riceParam mode p k x ≤ 11 := by
  rw [riceParam]
  dsimp only
  split_ifs
  · exact Nat.zero_le _
  · exact Nat.min_le_left _ _

/-- The coder's step over the samples after the warm-up, in `encodeBlock`. -/
def codeStep (mode p k w kr : Nat) (acc : List Int × List (List Bool) × Nat) (x : Int) : List Int × List (List Bool) × Nat :=
  let c := codeSample mode p k w kr acc.1 x
  (c.2.1 :: acc.1, c.1 :: acc.2.1, acc.2.2 + b2n c.2.2)

theorem foldl_codeStep_codes (mode p k w kr : Nat) (xs : List Int) (acc : List Int × List (List Bool) × Nat) :
    (xs.foldl (codeStep mode p k w kr) acc).2.1.reverse.flatten = acc.2.1.reverse.flatten ++ sampleCodes mode p k w kr acc.1 xs := by
  induction xs generalizing acc with
  | nil => simp [sampleCodes]
  | cons x xs ih => rw [List.foldl_cons, ih]; simp [codeStep, sampleCodes]

/-- The fields of a block before its padding (R208). -/
def blockBits (mode p k w : Nat) (x : List Int) : List Bool :=
  msbBits (riceParam mode p k x) 4 ++ warmBits w (x.take p) ++
    sampleCodes mode p k w (riceParam mode p k x) (x.take p).reverse (x.drop p)

theorem encodeBlock_fst (mode p k w : Nat) (x : List Int) : (encodeBlock mode p k w x).1 = packBits (blockBits mode p k w x) := by
  have hfold := foldl_codeStep_codes mode p k w (riceParam mode p k x) (x.drop p) ((x.take p).reverse, [], 0)
  rw [List.reverse_nil, List.flatten_nil, List.nil_append] at hfold
  rw [blockBits, ← hfold]
  rfl

theorem codePayload_fst {mode : Nat} (h : mode ≠ 0) (p k width : Nat) (bs : List (List Int)) :
    (codePayload mode p k width bs).1 = (bs.map (fun b => (encodeBlock mode p k (if width = 0 then 16 else 18) b).1)).flatten := by
  rw [codePayload, if_neg h]
  simp only [List.map_map]
  rfl

/-! ### The decoder of a block -/

/-- The decoder's step for the sample `i` of a block, in `decodeBlock`. -/
def decodeStep (mode p k w kr : Nat) (acc : Option (List Int × List Bool)) (i : Nat) : Option (List Int × List Bool) :=
  acc.bind (fun a =>
    if i < p then (getBits w a.2).map (fun r => (signed w r.1 :: a.1, r.2))
    else (decodeSample mode p k w kr a.1 a.2).map (fun r => (r.1 :: a.1, r.2)))

theorem decodeBlock_of_foldl {mode p k w kr : Nat} {b fields rest : List Bool} {ys : List Int} (hkr : getBits 4 b = some (kr, fields))
    (hle : kr ≤ 11) (hys : (List.range 64).foldl (decodeStep mode p k w kr) (some ([], fields)) = some (ys.reverse, rest))
    (hpad : (rest.take (rest.length % 8)).any id = false) :
    decodeBlock mode p k w b = some (ys, rest.drop (rest.length % 8)) := by
  rw [decodeBlock, hkr]
  dsimp only
  rw [if_neg (by omega)]
  split
  case h_1 hnone => cases hnone.symm.trans hys
  case h_2 hsome =>
    cases hsome.symm.trans hys
    rw [hpad, List.reverse_reverse]
    rfl

section
variable {mode p k w kr : Nat}

theorem decodeStep_warm {i : Nat} {x : Int} (hi : i < p) (hw : 0 < w) (hx : FitsBits w x) (ys : List Int) (rest : List Bool) :
    decodeStep mode p k w kr (some (ys, msbBits (unsigned w x) w ++ rest)) i = some (x :: ys, rest) := by
  rw [decodeStep, Option.bind_some, if_pos hi, getBits_msbBits_of_lt (unsigned_lt w x), Option.map_some, signed_unsigned hw hx]

theorem decodeStep_coded {i : Nat} {x : Int} (hi : p ≤ i) (hw : 0 < w) (hx : FitsBits w x) (ys : List Int) (rest : List Bool) :
    decodeStep mode p k w kr (some (ys, (codeSample mode p k w kr ys x).1 ++ rest)) i =
      some ((codeSample mode p k w kr ys x).2.1 :: ys, rest) := by
  rw [decodeStep, Option.bind_some, if_neg (by omega), decodeSample_codeSample hw hx, Option.map_some]

theorem foldl_decodeStep_warm (hw : 0 < w) {xs : List Int} (hxs : ∀ x ∈ xs, FitsBits w x) {s : Nat} (hs : s + xs.length ≤ p)
    (ys : List Int) (rest : List Bool) :
    (List.range' s xs.length).foldl (decodeStep mode p k w kr) (some (ys, warmBits w xs ++ rest)) = some (xs.reverse ++ ys, rest) := by
  induction xs generalizing s ys with
  | nil => rfl
  | cons x xs ih =>
    obtain ⟨hx, htail⟩ := List.forall_mem_cons.mp hxs
    rw [List.length_cons] at hs
    have hbits : warmBits w (x :: xs) ++ rest = msbBits (unsigned w x) w ++ (warmBits w xs ++ rest) := List.append_assoc _ _ _
    rw [List.length_cons, List.range'_succ, List.foldl_cons, hbits, decodeStep_warm (by omega) hw hx, ih htail (by omega)]
    simp

theorem foldl_decodeStep_coded (hw : 0 < w) {xs : List Int} (hxs : ∀ x ∈ xs, FitsBits w x) {s : Nat} (hs : p ≤ s)
    (ys : List Int) (rest : List Bool) :
    (List.range' s xs.length).foldl (decodeStep mode p k w kr) (some (ys, sampleCodes mode p k w kr ys xs ++ rest)) =
      some ((rebuilt mode p k w kr ys xs).reverse ++ ys, rest) := by
  induction xs generalizing s ys with
  | nil => rfl
  | cons x xs ih =>
    obtain ⟨hx, htail⟩ := List.forall_mem_cons.mp hxs
    rw [List.length_cons, List.range'_succ, List.foldl_cons, sampleCodes, List.append_assoc, decodeStep_coded hs hw hx,
      ih htail (by omega)]
    simp [rebuilt]

/-- The samples of a block, warm-up and codes, are read in turn (R207). -/
theorem foldl_decodeStep_block (hw : 0 < w) (hp : p ≤ 64) {x : List Int} (hlen : x.length = 64) (hx : ∀ v ∈ x, FitsBits w v)
    (rest : List Bool) :
    (List.range 64).foldl (decodeStep mode p k w kr)
        (some ([], warmBits w (x.take p) ++ (sampleCodes mode p k w kr (x.take p).reverse (x.drop p) ++ rest))) =
      some ((x.take p ++ rebuilt mode p k w kr (x.take p).reverse (x.drop p)).reverse, rest) := by
  have hsplit : List.range 64 = List.range' 0 (x.take p).length ++ List.range' p (x.drop p).length := by
    rw [List.length_take, List.length_drop, hlen, Nat.min_eq_left hp, List.range_eq_range']
    have := List.range'_append_1 (s := 0) (m := p) (n := 64 - p)
    rw [Nat.zero_add, Nat.add_sub_cancel' hp] at this
    exact this.symm
  have hwarm : 0 + (x.take p).length ≤ p := by rw [List.length_take]; omega
  rw [hsplit, List.foldl_append, foldl_decodeStep_warm hw (fun v hv => hx v (List.mem_of_mem_take hv)) hwarm, List.append_nil,
    foldl_decodeStep_coded hw (fun v hv => hx v (List.mem_of_mem_drop hv)) le_rfl, List.reverse_append]

theorem decodeBlock_encodeBlock (hw : 0 < w) (hp : p ≤ 64) {x : List Int} (hlen : x.length = 64) (hx : ∀ v ∈ x, FitsBits w v)
    {rest : List Bool} (hrest : rest.length % 8 = 0) :
    decodeBlock mode p k w (bitsOfBytes (encodeBlock mode p k w x).1 ++ rest) = some (rebuiltBlock mode p k w x, rest) := by
  obtain ⟨n, hn, hpad⟩ := bitsOfBytes_packBits (blockBits mode p k w x)
  have hkr := riceParam_le mode p k x
  have hbits : bitsOfBytes (encodeBlock mode p k w x).1 ++ rest = msbBits (riceParam mode p k x) 4 ++ (warmBits w (x.take p) ++
      (sampleCodes mode p k w (riceParam mode p k x) (x.take p).reverse (x.drop p) ++ (List.replicate n false ++ rest))) := by
    rw [encodeBlock_fst, hpad, blockBits]
    simp only [List.append_assoc]
  have hlenPad : (List.replicate n false ++ rest).length % 8 = n := by
    rw [List.length_append, List.length_replicate]
    omega
  have hblock := decodeBlock_of_foldl (hbits ▸ getBits_msbBits_of_lt (by omega) _) hkr (foldl_decodeStep_block hw hp hlen hx _)
  rw [hlenPad, List.take_left' List.length_replicate, List.drop_left' List.length_replicate] at hblock
  exact hblock (by simp)

end

/-! ### The decoder of a payload -/

/-- The decoder's step for block `i` of a payload, in `decodeBlocks`. -/
def blockStep (mode p k w : Nat) (acc : Except Nat (List (List Int) × List Bool)) (i : Nat) : Except Nat (List (List Int) × List Bool) :=
  match acc with
  | .error e => .error e
  | .ok (bs, bits) =>
    match decodeBlock mode p k w bits with
    | none => .error i
    | some (b, bits) => .ok (b :: bs, bits)

theorem decodeBlocks_of_foldl {mode p k w n : Nat} {payload : List Byte} {ys : List (List Int)}
    (h : (List.range n).foldl (blockStep mode p k w) (.ok ([], bitsOfBytes payload)) = .ok (ys.reverse, [])) :
    decodeBlocks mode p k w n payload = .ok ys := by
  rw [decodeBlocks]
  split
  case h_1 herror => cases herror.symm.trans h
  case h_2 hok =>
    cases hok.symm.trans h
    rw [List.reverse_reverse]
    rfl

section
variable {mode p k w : Nat}

theorem foldl_blockStep_encoded (hw : 0 < w) (hp : p ≤ 64) {bs : List (List Int)}
    (hbs : ∀ b ∈ bs, b.length = 64 ∧ ∀ v ∈ b, FitsBits w v) (s : Nat) (ys : List (List Int)) :
    (List.range' s bs.length).foldl (blockStep mode p k w)
        (.ok (ys, bitsOfBytes (bs.map (fun b => (encodeBlock mode p k w b).1)).flatten)) =
      .ok ((bs.map (rebuiltBlock mode p k w)).reverse ++ ys, []) := by
  induction bs generalizing s ys with
  | nil => rfl
  | cons b bs ih =>
    obtain ⟨⟨hlen, hb⟩, htail⟩ := List.forall_mem_cons.mp hbs
    have hstep : blockStep mode p k w (.ok (ys, bitsOfBytes ((b :: bs).map (fun b => (encodeBlock mode p k w b).1)).flatten)) s =
        .ok (rebuiltBlock mode p k w b :: ys, bitsOfBytes (bs.map (fun b => (encodeBlock mode p k w b).1)).flatten) := by
      rw [List.map_cons, List.flatten_cons, bitsOfBytes_append, blockStep]
      simp only [decodeBlock_encodeBlock hw hp hlen hb (length_bitsOfBytes_mod _)]
    rw [List.length_cons, List.range'_succ, List.foldl_cons, hstep, ih htail]
    simp

/-- A coded payload decodes to the rebuilt blocks. -/
theorem decodeBlocks_encoded (hw : 0 < w) (hp : p ≤ 64) {bs : List (List Int)}
    (hbs : ∀ b ∈ bs, b.length = 64 ∧ ∀ v ∈ b, FitsBits w v) :
    decodeBlocks mode p k w bs.length (bs.map (fun b => (encodeBlock mode p k w b).1)).flatten =
      .ok (bs.map (rebuiltBlock mode p k w)) := by
  refine decodeBlocks_of_foldl ?_
  rw [List.range_eq_range', foldl_blockStep_encoded hw hp hbs, List.append_nil]

end

end Sys2Proof.Machine
end

section
/-! SUPPORT. Raw samples: each one is read where it was laid out (R203). -/

namespace Sys2Proof.Machine

open Sys2Proof

theorem leValue_leBytes (v n : Nat) : leValue (leBytes v n) = v % 256 ^ n := by
  induction n generalizing v with
  | zero => simp [leBytes, leValue, Nat.mod_one]
  | succ n ih =>
    have hbyte : (BitVec.ofNat 8 v).toNat = v % 256 := BitVec.toNat_ofNat v 8
    rw [leBytes, leValue, ih, hbyte, pow_succ', Nat.mod_mul]

/-- In lists of one length, laid end to end, the one with the number `i` starts at `i` lengths. -/
theorem take_drop_flatten_of_length {α : Type} {n : Nat} {ls : List (List α)} (h : ∀ l ∈ ls, l.length = n) {i : Nat}
    (hi : i < ls.length) : (ls.flatten.drop (i * n)).take n = ls[i] := by
  induction ls generalizing i with
  | nil => exact absurd hi (Nat.not_lt_zero i)
  | cons l ls ih =>
    obtain ⟨hl, hls⟩ := List.forall_mem_cons.mp h
    cases i with
    | zero => rw [Nat.zero_mul, List.drop_zero, List.flatten_cons, List.take_left' hl]; rfl
    | succ i =>
      rw [List.length_cons] at hi
      rw [List.flatten_cons, Nat.succ_mul, Nat.add_comm, ← List.drop_drop, List.drop_left' hl, ih hls (by omega)]
      rfl

theorem getElem_flatten_of_length {α : Type} {n : Nat} {ls : List (List α)} (h : ∀ l ∈ ls, l.length = n) {j i : Nat}
    (hj : j < ls.length) (hi : i < ls[j].length) : ls.flatten[n * j + i]? = some ls[j][i] := by
  have hn : i < n := h _ (List.getElem_mem hj) ▸ hi
  have hget : ((ls.flatten.drop (j * n)).take n)[i]? = ls[j][i]? := by rw [take_drop_flatten_of_length h hj]
  rw [List.getElem?_take_of_lt hn, List.getElem?_drop, Nat.mul_comm, List.getElem?_eq_getElem hi] at hget
  exact hget

/-- A sample as mode 0 lays it out (R203). -/
def rawSample (width : Nat) (x : Int) : List Byte := leBytes (unsigned (8 * sampleBytes width) x) (sampleBytes width)

theorem rawSample_length (width : Nat) (x : Int) : (rawSample width x).length = sampleBytes width := leBytes_length _ _

theorem leValue_rawSample (width : Nat) (x : Int) : leValue (rawSample width x) = unsigned (8 * sampleBytes width) x := by
  have hlt : unsigned (8 * sampleBytes width) x < 256 ^ sampleBytes width := (unsigned_lt _ x).trans_eq (pow_mul 2 8 _)
  rw [rawSample, leValue_leBytes, Nat.mod_eq_of_lt hlt]

theorem rawBytes_eq (width : Nat) (bs : List (List Int)) : rawBytes width bs = (bs.flatten.map (rawSample width)).flatten := by
  rw [rawBytes, List.map_flatten, List.flatten_flatten, List.map_map]
  rfl

theorem sampleBytes_pos (width : Nat) : 0 < sampleBytes width := by
  rw [sampleBytes]
  split <;> decide

theorem leAt_rawBytes {width : Nat} {bs : List (List Int)} {i : Nat} {x : Int} (hx : bs.flatten[i]? = some x) :
    leAt (rawBytes width bs) (i * sampleBytes width) (sampleBytes width) = unsigned (8 * sampleBytes width) x := by
  obtain ⟨hi, rfl⟩ := List.getElem?_eq_some_iff.mp hx
  have hchunk : ∀ l ∈ bs.flatten.map (rawSample width), l.length = sampleBytes width :=
    List.forall_mem_map.mpr fun x _ => rawSample_length width x
  rw [leAt, slice, rawBytes_eq, take_drop_flatten_of_length hchunk (by rwa [List.length_map]), List.getElem_map, leValue_rawSample]

/-- Raw samples come back bit for bit (R211). -/
theorem rawBlocks_rawBytes {width : Nat} {bs : List (List Int)}
    (hbs : ∀ b ∈ bs, b.length = 64 ∧ ∀ x ∈ b, FitsBits (8 * sampleBytes width) x) :
    rawBlocks width bs.length (rawBytes width bs) = bs := by
  refine List.ext_getElem (by simp [rawBlocks]) fun j _ hj => ?_
  obtain ⟨hlen, hfit⟩ := hbs _ (List.getElem_mem hj)
  refine List.ext_getElem (by simp [rawBlocks, hlen]) fun i _ hi => ?_
  have hat := leAt_rawBytes (width := width) (getElem_flatten_of_length (fun b hb => (hbs b hb).1) hj hi)
  simp only [rawBlocks, List.getElem_map, List.getElem_range, hat]
  exact signed_unsigned (Nat.mul_pos (by decide) (sampleBytes_pos width)) (hfit _ (List.getElem_mem hi))

end Sys2Proof.Machine
end

section
/-! SUPPORT. What the waveform coder codes comes back (R203, R208 to R211). -/

namespace Sys2Proof.Machine

open Sys2Proof

section
variable {mode p width : Nat} {bs : List (List Int)}
  (hbs : ∀ b ∈ bs, b.length = 64 ∧ ∀ x ∈ b, FitsBits (if width = 0 then 16 else 18) x)
include hbs

theorem rawBlocks_codePayload (p k : Nat) : rawBlocks width bs.length (codePayload 0 p k width bs).1 = bs := by
  have hwidth : (if width = 0 then 16 else 18) ≤ 8 * sampleBytes width := by
    rw [sampleBytes]
    split <;> decide
  exact rawBlocks_rawBytes fun b hb => ⟨(hbs b hb).1, fun x hx => ((hbs b hb).2 x hx).mono hwidth⟩

theorem decodeBlocks_codePayload (hm : mode ≠ 0) (hp : p ≤ 64) (k : Nat) :
    decodeBlocks mode p k (if width = 0 then 16 else 18) bs.length (codePayload mode p k width bs).1 =
      .ok (bs.map (rebuiltBlock mode p k (if width = 0 then 16 else 18))) := by
  rw [codePayload_fst hm]
  exact decodeBlocks_encoded (by split <;> decide) hp hbs

end

theorem map_rebuiltBlock_getD (mode p k w : Nat) (bs : List (List Int)) (j : Nat) :
    (bs.map (rebuiltBlock mode p k w)).getD j [] = rebuiltBlock mode p k w (bs.getD j []) := by
  have hnil : rebuiltBlock mode p k w [] = [] := List.eq_nil_of_length_eq_zero rebuiltBlock_length
  rw [← hnil, List.getD_map, hnil]

/-- Settles O22: the decoder reads the coder's own reconstructions back (`decodeBlocks_codePayload`), which are the samples in the lossless
modes and within the bound in mode 2; raw samples are read where they were laid out (`rawBlocks_codePayload`). -/
theorem codedFramesDecode : Obligations.CodedFramesDecode := by
  intro mode p k width bs hp _ hbs
  have hdecode (hm : mode ≠ 0) := decodeBlocks_codePayload hbs hm (hp.trans (by decide)) k
  refine ⟨?raw, ?lossless, ?bounded⟩
  case raw => rintro rfl; exact rawBlocks_codePayload hbs p k
  case lossless =>
    intro hm
    have hraw : mode ≠ 0 := by omega
    have hbound : mode ≠ 2 := by omega
    rw [hdecode hraw, List.map_congr_left fun b hb => rebuiltBlock_of_lossless hbound (hbs b hb).2, List.map_id']
  case bounded =>
    rintro rfl - -
    refine ⟨_, hdecode (by decide), List.length_map _, fun j i => ?_⟩
    have hfit : ∀ x ∈ bs.getD j [], FitsBits (if width = 0 then 16 else 18) x := by
      rw [List.getD_eq_getElem?_getD]
      cases hj : bs[j]? with
      | none => simp
      | some b => exact (hbs b (List.mem_of_getElem? hj)).2
    rw [map_rebuiltBlock_getD]
    exact ⟨rebuiltBlock_length, natAbs_rebuiltBlock_sub_le hfit i, rebuiltBlock_getD_warm⟩

end Sys2Proof.Machine
end

section
/-! SUPPORT. What an instruction that only computes leaves: its engine changed, every other engine and the rest of the device as they were
(R221 to R225). -/

namespace Sys2Proof.Machine

open Sys2Proof

/-! ### One engine changed -/

/-- `d'` is `d` but for engine `e`, which is `x`. -/
structure Dev.Leaves (d : Dev) (e : Nat) (x : Eng) (d' : Dev) : Prop where
  own : d'.engOf e = x
  others : ∀ k, k ≠ e → d'.engOf k = d.engOf k
  rest : { d' with eng := [] } = { d with eng := [] }

section
variable {d d' : Dev} {e : Nat} {x : Eng}

protected theorem Dev.Leaves.refl (d : Dev) (e : Nat) : d.Leaves e (d.engOf e) d := ⟨rfl, fun _ _ => rfl, rfl⟩

theorem Dev.Leaves.setEng (h : d.Leaves e x d') (y : Eng) : d.Leaves e y (d'.setEng e y) :=
  ⟨Dev.engOf_setEng_same .., fun k hk => (Dev.engOf_setEng_ne _ hk _).trans (h.others k hk), h.rest⟩

theorem Dev.Leaves.setGr (h : d.Leaves e x d') (r : Nat) (v : Word) : d.Leaves e (x.write r v) (d'.setGr e r v) := by
  obtain rfl := h.own
  unfold Dev.setGr Eng.write
  split
  · exact h
  · exact h.setEng _

theorem Dev.Leaves.setFlags (h : d.Leaves e x d') (f : Fl) : d.Leaves e { x with fl := f } (d'.setFlags e f) := by
  obtain rfl := h.own
  exact h.setEng _

theorem Dev.Leaves.setVr (h : d.Leaves e x d') (r : Nat) (v : BitVec 128) : d.Leaves e (x.writeV r v) (d'.setVr e r v) := by
  obtain rfl := h.own
  exact h.setEng _

theorem Dev.Leaves.setGen (h : d.Leaves e x d') (m : Nat) (v : Gen) : d.Leaves e (x.writeM m v) (d'.setGen e m v) := by
  obtain rfl := h.own
  exact h.setEng _

theorem Dev.Leaves.setPc (h : d.Leaves e x d') (pc : Nat) : d.Leaves e { x with pc := pc % 65536 } (d'.setPc e pc) := by
  obtain rfl := h.own
  exact h.setEng _

end

/-- A command that leaves engine `e` of a ready device as `f` gives it. -/
theorem EngineStep.of_issue {c : Instr} {s : State} {e len : Nat} {f : Eng → Eng} (act : Dev → Nat → Nat → Fx) (hiss : s.issues e)
    (hexec : exec c s = s.act (fun d => d.issue e len act))
    (heff : s.dev.cleared.Leaves e (f (s.dev.engOf e)) (Dev.finish e (s.dev.engOf e).pc (s.dev.after e len)
      (act s.dev.cleared (s.dev.engOf e).pc (s.dev.after e len)))) : EngineStep c s e f := by
  obtain ⟨hon, hrun, hcause⟩ := hiss
  refine ⟨_, ?_, heff.own, heff.others, heff.rest⟩
  rw [hexec, State.act_on s _ hon, Dev.issue_ready s.dev.cleared e len act hrun hcause]
  rfl

/-- An instruction that goes on to the next one and leaves the pc to it. -/
theorem EngineStep.of_next {c : Instr} {s : State} {e len : Nat} {g : Eng → Eng} (act : Dev → Nat → Nat → Fx) {d' : Dev}
    (hiss : s.issues e) (hexec : exec c s = s.act (fun d => d.issue e len act)) (hact : ∀ pc nx, act s.dev.cleared pc nx = .next d')
    (heff : s.dev.cleared.Leaves e (g (s.dev.engOf e)) d') (hpc : (g (s.dev.engOf e)).pc = (s.dev.engOf e).pc) :
    EngineStep c s e (fun x => (g x).past len) := by
  refine EngineStep.of_issue act hiss hexec ?_
  rw [hact, Dev.finish, Dev.after, Dev.setPc_mod, Eng.past, hpc]
  exact heff.setPc _

/-- An instruction that only computes. -/
theorem EngineStep.of_compute {c : Instr} {s : State} {e len : Nat} {g : Eng → Eng} {op : Dev → Dev} (hiss : s.issues e)
    (hexec : exec c s = s.act (fun d => d.compute e len op)) (heff : s.dev.cleared.Leaves e (g (s.dev.engOf e)) (op s.dev.cleared))
    (hpc : (g (s.dev.engOf e)).pc = (s.dev.engOf e).pc) : EngineStep c s e (fun x => (g x).past len) :=
  EngineStep.of_next (fun d _ _ => .next (op d)) hiss hexec (fun _ _ => rfl) heff hpc

/-! ### Registers and flags of an engine -/

theorem Dev.gr_eq_read (d : Dev) (e r : Nat) : d.gr e r = (d.engOf e).read r := rfl

@[simp] theorem Eng.write_pc (x : Eng) (r : Nat) (v : Word) : (x.write r v).pc = x.pc := by
  unfold Eng.write
  split <;> rfl

@[simp] theorem Eng.write_fl (x : Eng) (r : Nat) (v : Word) : (x.write r v).fl = x.fl := by
  unfold Eng.write
  split <;> rfl

@[simp] theorem Eng.nzcv_pc (x : Eng) (r : Word) (c v : Bool) : (x.nzcv r c v).pc = x.pc := rfl
@[simp] theorem Eng.nz_pc (x : Eng) (r : Word) : (x.nz r).pc = x.pc := rfl
@[simp] theorem Eng.sticky_pc (x : Eng) (b : Bool) : (x.sticky b).pc = x.pc := rfl
@[simp] theorem Eng.writeV_pc (x : Eng) (r : Nat) (v : BitVec 128) : (x.writeV r v).pc = x.pc := rfl
@[simp] theorem Eng.writeA_pc (x : Eng) (r : Nat) (v : Int) : (x.writeA r v).pc = x.pc := rfl
@[simp] theorem Eng.writeM_pc (x : Eng) (r : Nat) (v : Gen) : (x.writeM r v).pc = x.pc := rfl

/-- Each flag reads back from its place (R224). -/
theorem mkFl_flags (q n z c v : Bool) :
    (mkFl q n z c v).getLsbD 4 = q ∧ (mkFl q n z c v).getLsbD 3 = n ∧ (mkFl q n z c v).getLsbD 2 = z ∧
      (mkFl q n z c v).getLsbD 1 = c ∧ (mkFl q n z c v).getLsbD 0 = v := by
  revert q n z c v
  decide

theorem mkFl_self (f : Fl) : mkFl (f.getLsbD 4) (f.getLsbD 3) (f.getLsbD 2) (f.getLsbD 1) (f.getLsbD 0) = f := by
  revert f
  decide

theorem satInt_eq (w : Nat) (v : Int) : satInt w v = (limited w v, outside w v) := by
  have hpos : (0 : Int) < 2 ^ (w - 1) := by positivity
  simp only [satInt, limited, outside, Nat.cast_pow, Nat.cast_ofNat]
  generalize (2 : Int) ^ (w - 1) = m at *
  split_ifs <;> simp <;> omega

theorem not_fits32 (v : Int) : (!fits32 v) = outside 32 v := by
  rw [fits32, satInt_eq, Bool.not_not]

/-! ### A result with its flags -/

/-- A result into rd, and the flags that come with it. -/
def Eng.put (x : Eng) (rd : Nat) (r : Word × Fl) : Eng := { x.write rd r.1 with fl := r.2 }

theorem Dev.Leaves.put (d : Dev) (e rd : Nat) (r : Word × Fl) : d.Leaves e ((d.engOf e).put rd r) (d.put e rd r) :=
  ((Dev.Leaves.refl d e).setGr rd r.1).setFlags r.2

section
variable (x : Eng) (rd : Nat)

theorem Eng.put_nzcv (v : Word) (c o : Bool) : x.put rd (v, Fl.nzcv x.fl v c o) = (x.write rd v).nzcv v c o := by
  simp only [Eng.put, Eng.nzcv, Fl.nzcv, Fl.q, Eng.write_fl]

theorem Eng.put_logic (v : Word) : x.put rd (logic x.fl v) = (x.write rd v).nz v := by
  rw [logic, Fl.nz, Eng.put_nzcv, Eng.nz, Eng.write_fl]
  rfl

theorem Eng.put_shifted (v : Word) (n : Nat) (out : Bool) :
    x.put rd (shifted x.fl v n out) = (x.write rd v).nzcv v (if n = 0 then x.fl.getLsbD 1 else out) (x.fl.getLsbD 0) :=
  Eng.put_nzcv ..

theorem Eng.put_addC (a b : Word) (k : Nat) :
    x.put rd (addC x.fl a b k) =
      (let r := a + b + BitVec.ofNat 32 k
       (x.write rd r).nzcv r (decide (2 ^ 32 ≤ a.toNat + b.toNat + k)) (outside 32 (a.toInt + b.toInt + k))) := by
  rw [addC, not_fits32]
  exact Eng.put_nzcv ..

theorem Eng.put_subB (a b : Word) (k : Nat) :
    x.put rd (subB x.fl a b k) =
      (let r := a - b - BitVec.ofNat 32 k
       (x.write rd r).nzcv r (decide (b.toNat + k ≤ a.toNat)) (outside 32 (a.toInt - b.toInt - k))) := by
  rw [subB, not_fits32]
  exact Eng.put_nzcv ..

/-- A saturating instruction sets V and Q where its result was limited (R241). -/
theorem Eng.put_sat (v : Int) (c : Bool) :
    x.put rd (BitVec.ofInt 32 (limited 32 v), Fl.sat (Fl.nzcv x.fl (BitVec.ofInt 32 (limited 32 v)) c (outside 32 v)) (outside 32 v)) =
      ((x.write rd (BitVec.ofInt 32 (limited 32 v))).nzcv (BitVec.ofInt 32 (limited 32 v)) c (outside 32 v)).sticky (outside 32 v) := by
  simp only [Eng.put, Eng.sticky, Eng.nzcv, Fl.sat, Fl.nzcv, Fl.q, Fl.n, Fl.z, Fl.c, Fl.v, Eng.write_fl]

theorem Eng.put_addSat (a b : Word) :
    x.put rd (addSat x.fl a b) =
      (let v := a.toInt + b.toInt
       let r := BitVec.ofInt 32 (limited 32 v)
       ((x.write rd r).nzcv r (decide (2 ^ 32 ≤ a.toNat + b.toNat)) (outside 32 v)).sticky (outside 32 v)) := by
  rw [addSat, satInt_eq]
  exact Eng.put_sat ..

theorem Eng.put_subSat (a b : Word) :
    x.put rd (subSat x.fl a b) =
      (let v := a.toInt - b.toInt
       let r := BitVec.ofInt 32 (limited 32 v)
       ((x.write rd r).nzcv r (decide (b.toNat ≤ a.toNat)) (outside 32 v)).sticky (outside 32 v)) := by
  rw [subSat, satInt_eq]
  exact Eng.put_sat ..

theorem Eng.put_absSat (a : Word) :
    x.put rd (absSat x.fl a) =
      (let v : Int := a.toInt.natAbs
       let r := BitVec.ofInt 32 (limited 32 v)
       ((x.write rd r).nzcv r (x.fl.getLsbD 1) (outside 32 v)).sticky (outside 32 v)) := by
  have habs : (if a.toInt < 0 then -a.toInt else a.toInt) = a.toInt.natAbs := by split <;> omega
  rw [absSat, satInt_eq, habs]
  exact Eng.put_sat ..

end

/-- An instruction whose result goes into rd with its flags. -/
theorem EngineStep.of_put {c : Instr} {s : State} {e len rd : Nat} {g : Eng → Eng} {r : Dev → Word × Fl} (hiss : s.issues e)
    (hexec : exec c s = s.act (fun d => d.compute e len (fun d => d.put e rd (r d))))
    (heff : (s.dev.engOf e).put rd (r s.dev.cleared) = g (s.dev.engOf e)) : EngineStep c s e (fun x => (g x).past len) := by
  refine EngineStep.of_compute hiss hexec (heff ▸ Dev.Leaves.put ..) ?_
  rw [← heff, Eng.put, Eng.write_pc]

/-- An instruction that leaves flags only. -/
theorem EngineStep.of_flags {c : Instr} {s : State} {e len : Nat} {g : Eng → Eng} {r : Dev → Fl} (hiss : s.issues e)
    (hexec : exec c s = s.act (fun d => d.compute e len (fun d => d.setFlags e (r d))))
    (heff : { s.dev.engOf e with fl := r s.dev.cleared } = g (s.dev.engOf e)) : EngineStep c s e (fun x => (g x).past len) := by
  refine EngineStep.of_compute hiss hexec (heff ▸ (Dev.Leaves.refl ..).setFlags _) ?_
  rw [← heff]

/-- An instruction that leaves a general register only. -/
theorem EngineStep.of_write {c : Instr} {s : State} {e len rd : Nat} {v : Eng → Word} {r : Dev → Word} (hiss : s.issues e)
    (hexec : exec c s = s.act (fun d => d.compute e len (fun d => d.setGr e rd (r d))))
    (heff : r s.dev.cleared = v (s.dev.engOf e)) : EngineStep c s e (fun x => (x.write rd (v x)).past len) := by
  refine EngineStep.of_compute (g := fun x => x.write rd (v x)) hiss hexec (heff ▸ (Dev.Leaves.refl ..).setGr _ _) (Eng.write_pc ..)

end Sys2Proof.Machine
end

section
/-! SUPPORT. The scalar instructions that compute: sums, logic, shifts, moves (R221, R224, R225, R241, R242, R247). -/

namespace Sys2Proof.Machine

open Sys2Proof

/-! ### Sums and differences (R241, R242) -/

section
variable (x : Eng) (rd : Nat) (a b : Word)

theorem addC_zero (f : Fl) :
    addC f a b 0 = (a + b, f.nzcv (a + b) (decide (2 ^ 32 ≤ a.toNat + b.toNat)) (outside 32 (a.toInt + b.toInt))) := by
  simp only [addC, not_fits32, BitVec.add_zero, Nat.add_zero, Int.natCast_zero, Int.add_zero]

theorem subB_zero (f : Fl) :
    subB f a b 0 = (a - b, f.nzcv (a - b) (decide (b.toNat ≤ a.toNat)) (outside 32 (a.toInt - b.toInt))) := by
  simp only [subB, not_fits32, BitVec.sub_zero, Nat.add_zero, Int.natCast_zero, Int.sub_zero]

theorem Eng.put_add :
    x.put rd (addC x.fl a b 0) =
      (x.write rd (a + b)).nzcv (a + b) (decide (2 ^ 32 ≤ a.toNat + b.toNat)) (outside 32 (a.toInt + b.toInt)) := by
  rw [addC_zero, Eng.put_nzcv]

theorem Eng.put_sub :
    x.put rd (subB x.fl a b 0) =
      (x.write rd (a - b)).nzcv (a - b) (decide (b.toNat ≤ a.toNat)) (outside 32 (a.toInt - b.toInt)) := by
  rw [subB_zero, Eng.put_nzcv]

theorem Eng.put_neg :
    x.put rd (subB x.fl 0 b 0) = (x.write rd (0 - b)).nzcv (0 - b) (decide (b.toNat = 0)) (outside 32 (-b.toInt)) := by
  have hborrow : b.toNat ≤ (0 : Word).toNat ↔ b.toNat = 0 := Nat.le_zero
  have hdiff : (0 : Word).toInt - b.toInt = -b.toInt := Int.zero_sub _
  rw [Eng.put_sub, decide_eq_decide.mpr hborrow, hdiff]

theorem Eng.flags_sub :
    { x with fl := (subB x.fl a b 0).2 } = x.nzcv (a - b) (decide (b.toNat ≤ a.toNat)) (outside 32 (a.toInt - b.toInt)) := by
  rw [subB_zero]
  rfl

end

theorem sxt_toNat {w : Nat} (imm : BitVec w) : sxt w imm.toNat = imm.signExtend 32 := by
  rw [sxt, ofInt_signed, BitVec.ofNat_toNat, BitVec.setWidth_eq]

/-- Settles O23: each instruction puts one of the model's sums or differences, whose flags are those of the clause. -/
theorem scalarArithmetic : Obligations.ScalarArithmetic := by
  refine ⟨?add, ?sub, ?addc, ?subc, ?adds, ?subs, ?abs, ?cmp, ?addi, ?cmpi, ?neg⟩
  case add => exact fun s e short rd rs rt hiss => EngineStep.of_put hiss rfl (Eng.put_add ..)
  case sub => exact fun s e short rd rs rt hiss => EngineStep.of_put hiss rfl (Eng.put_sub ..)
  case addc => exact fun s e rd rs rt hiss => EngineStep.of_put hiss rfl (Eng.put_addC ..)
  case subc => exact fun s e rd rs rt hiss => EngineStep.of_put hiss rfl (Eng.put_subB ..)
  case adds => exact fun s e rd rs rt hiss => EngineStep.of_put hiss rfl (Eng.put_addSat ..)
  case subs => exact fun s e rd rs rt hiss => EngineStep.of_put hiss rfl (Eng.put_subSat ..)
  case abs => exact fun s e rd rs hiss => EngineStep.of_put hiss rfl (Eng.put_absSat ..)
  case cmp => exact fun s e short rs rt hiss => EngineStep.of_flags hiss rfl (Eng.flags_sub ..)
  case addi =>
    intro s e short rd rs imm hiss
    refine EngineStep.of_put hiss rfl ?_
    rw [sxt_toNat]
    exact Eng.put_add ..
  case cmpi =>
    intro s e short rs imm hiss
    refine EngineStep.of_flags hiss rfl ?_
    rw [sxt_toNat]
    exact Eng.flags_sub ..
  case neg => exact fun s e rd rs hiss => EngineStep.of_put hiss rfl (Eng.put_neg ..)

/-! ### Logic, products, bits (R241, R242) -/

theorem ofInt_min_toInt (a b : Word) : BitVec.ofInt 32 (min a.toInt b.toInt) = if a.toInt ≤ b.toInt then a else b := by
  rw [min_def]
  split <;> exact BitVec.ofInt_toInt

theorem ofInt_max_toInt (a b : Word) : BitVec.ofInt 32 (max a.toInt b.toInt) = if a.toInt ≤ b.toInt then b else a := by
  rw [max_def]
  split <;> exact BitVec.ofInt_toInt

theorem clz32_eq (x : Word) : clz32 x = 32 - (if x = 0 then 0 else Nat.log2 x.toNat + 1) := by
  have hzero : x.toNat = 0 ↔ x = 0 := ⟨fun h => BitVec.eq_of_toNat_eq h, fun h => h ▸ rfl⟩
  simp only [clz32, hzero]
  split <;> omega

/-- A zero extension of the low `k` bits is a mask. -/
theorem setWidth_setWidth_eq_and (x : Word) {k : Nat} (hk : k < 32) : (x.setWidth k).setWidth 32 = x &&& BitVec.ofNat 32 (2 ^ k - 1) := by
  have hpow : 2 ^ k < 2 ^ 32 := Nat.pow_lt_pow_right (by decide) hk
  have hlow : x.toNat % 2 ^ k < 2 ^ 32 := (Nat.mod_lt _ (Nat.two_pow_pos k)).trans hpow
  apply BitVec.eq_of_toNat_eq
  rw [BitVec.toNat_setWidth, BitVec.toNat_setWidth, BitVec.toNat_and, BitVec.toNat_ofNat, Nat.mod_eq_of_lt hlow,
    Nat.mod_eq_of_lt ((Nat.sub_le ..).trans_lt hpow), Nat.and_two_pow_sub_one_eq_mod]

/-! A run of bits in reverse: what rev and bit-reversed addressing compute (R226, R241). -/

/-- The first `n` bits of `p`, the first of them at the highest place. -/
def reversedBits (p : Nat → Bool) : Nat → Nat
  | 0 => 0
  | n + 1 => 2 * reversedBits p n + b2n (p n)

theorem testBit_reversedBits (p : Nat → Bool) (n i : Nat) : (reversedBits p n).testBit i = (decide (i < n) && p (n - 1 - i)) := by
  induction n generalizing i with
  | zero => simp [reversedBits]
  | succ n ih =>
    rw [reversedBits, b2n_eq_toNat]
    cases i with
    | zero => cases h : p n <;> simp [h]
    | succ i =>
      have hhalf : (2 * reversedBits p n + (p n).toNat) / 2 = reversedBits p n := by have := (p n).toNat_lt; omega
      rw [Nat.testBit_succ, hhalf, ih, show n + 1 - 1 - (i + 1) = n - 1 - i by omega]
      simp

theorem foldl_reversedBits (p : Nat → Bool) (n m : Nat) (hm : m ≤ n) :
    (List.range m).foldl (fun s i => s + b2n (p i) * 2 ^ (n - 1 - i)) 0 = reversedBits p m * 2 ^ (n - m) := by
  induction m with
  | zero => simp [reversedBits]
  | succ m ih =>
    rw [List.range_succ, List.foldl_append, List.foldl_cons, List.foldl_nil, ih (by omega), reversedBits,
      show n - m = n - 1 - m + 1 by omega, show n - (m + 1) = n - 1 - m by omega]
    ring

theorem revBits_eq (sa : Nat) (x : Word) : revBits sa x = BitVec.ofNat 32 (reversedBits x.getLsbD (sa + 1)) := by
  have hsum := foldl_reversedBits x.getLsbD (sa + 1) (sa + 1) le_rfl
  rw [Nat.sub_self, Nat.pow_zero, Nat.mul_one] at hsum
  rw [← hsum]
  rfl

theorem revBits_eq_of_bits {sa : Fin 32} {x r : Word} (h : ∀ i : Fin 32, r.getLsbD i = (decide (i.val ≤ sa.val) && x.getLsbD (sa - i))) :
    revBits sa x = r := by
  apply BitVec.eq_of_getLsbD_eq
  intro i hi
  rw [h ⟨i, hi⟩, revBits_eq, BitVec.getLsbD_ofNat, testBit_reversedBits]
  simp only [hi, decide_true, Bool.true_and, Nat.lt_succ_iff, Nat.add_sub_cancel]

/-- An instruction whose result goes into rd with its N and Z. -/
theorem EngineStep.of_logic {c : Instr} {s : State} {e len rd : Nat} {v : Eng → Word} {r : Dev → Word} (hiss : s.issues e)
    (hexec : exec c s = s.act (fun d => d.compute e len (fun d => d.put e rd (logic (d.flags e) (r d)))))
    (heff : r s.dev.cleared = v (s.dev.engOf e)) : EngineStep c s e (fun x => ((x.write rd (v x)).nz (v x)).past len) :=
  EngineStep.of_put hiss hexec ((Eng.put_logic ..).trans (by rw [heff]))

/-- Settles O24: each instruction puts a result with its N and Z; the result is the clause's. -/
theorem scalarLogic : Obligations.ScalarLogic := by
  refine ⟨?and, ?or, ?xor, ?andn, ?mul, ?mulh, ?mulhu, ?min, ?max, ?tst, ?andi, ?ori, ?xori, ?clz, ?sexth, ?extb, ?exth, ?extbu, ?exthu,
    ?rev⟩
  case and => exact fun s e short rd rs rt hiss => EngineStep.of_logic hiss rfl rfl
  case or => exact fun s e short rd rs rt hiss => EngineStep.of_logic hiss rfl rfl
  case xor => exact fun s e short rd rs rt hiss => EngineStep.of_logic hiss rfl rfl
  case andn => exact fun s e rd rs rt hiss => EngineStep.of_logic hiss rfl rfl
  case mul => exact fun s e rd rs rt hiss => EngineStep.of_logic hiss rfl rfl
  case mulh => exact fun s e rd rs rt hiss => EngineStep.of_logic hiss rfl rfl
  case mulhu => exact fun s e rd rs rt hiss => EngineStep.of_logic hiss rfl rfl
  case min => exact fun s e rd rs rt hiss => EngineStep.of_logic hiss rfl (ofInt_min_toInt ..).symm
  case max => exact fun s e rd rs rt hiss => EngineStep.of_logic hiss rfl (ofInt_max_toInt ..).symm
  case tst => exact fun s e short rs rt hiss => EngineStep.of_flags hiss rfl rfl
  case andi => exact fun s e rd rs imm hiss => EngineStep.of_logic hiss rfl (congrArg (_ &&& ·) (BitVec.ofNat_toNat ..))
  case ori => exact fun s e rd rs imm hiss => EngineStep.of_logic hiss rfl (congrArg (_ ||| ·) (BitVec.ofNat_toNat ..))
  case xori => exact fun s e rd rs imm hiss => EngineStep.of_logic hiss rfl (congrArg (_ ^^^ ·) (BitVec.ofNat_toNat ..))
  case clz => exact fun s e rd rs hiss => EngineStep.of_logic hiss rfl (congrArg _ (clz32_eq _))
  case sexth => exact fun s e rd rs hiss => EngineStep.of_logic hiss rfl rfl
  case extb => exact fun s e rd rs hiss => EngineStep.of_logic hiss rfl rfl
  case exth => exact fun s e rd rs hiss => EngineStep.of_logic hiss rfl rfl
  case extbu => exact fun s e rd rs hiss => EngineStep.of_logic hiss rfl (setWidth_setWidth_eq_and _ (by decide))
  case exthu => exact fun s e rd rs hiss => EngineStep.of_logic hiss rfl (setWidth_setWidth_eq_and _ (by decide))
  case rev => exact fun s e rd rs sa r hiss hr => EngineStep.of_logic (v := fun _ => r) hiss rfl (revBits_eq_of_bits hr)

/-! ### Shifts (R241) -/

/-- An arithmetic shift by the width and more leaves the sign in every place. -/
theorem sshiftRight_eq_sign {a : Word} {n : Nat} (hn : 32 ≤ n) : a.sshiftRight n = if a.msb then -1 else 0 := by
  apply BitVec.eq_of_getLsbD_eq
  intro i hi
  have hones : (-1 : Word) = BitVec.allOnes 32 := rfl
  rw [BitVec.getLsbD_sshiftRight, if_neg (by omega), hones]
  cases a.msb with
  | false => simp
  | true => rw [if_pos rfl, BitVec.getLsbD_allOnes, decide_eq_true hi, decide_eq_false (Nat.not_le.mpr hi)]; rfl

section
variable (x : Eng) (rd : Nat) (a : Word) (n : Nat)

theorem Eng.put_shl :
    x.put rd (shl x.fl a n) =
      (let r : Word := if 32 ≤ n then 0 else a <<< n
       (x.write rd r).nzcv r (if n = 0 then x.fl.getLsbD 1 else if 32 < n then false else a.getLsbD (32 - n)) (x.fl.getLsbD 0)) := by
  have hres : (if 32 ≤ n then 0 else a <<< n) = a <<< n := by
    split
    · exact (BitVec.shiftLeft_eq_zero ‹_›).symm
    · rfl
  have hout : (if 32 < n then false else a.getLsbD (32 - n)) = (decide (n ≤ 32) && a.getLsbD (32 - n)) := by
    split
    · simp [*]
    · simp [Nat.le_of_not_lt ‹_›]
  simp only [hres, hout]
  exact Eng.put_shifted ..

theorem Eng.put_shrL :
    x.put rd (shrL x.fl a n) =
      (let r : Word := if 32 ≤ n then 0 else a >>> n
       (x.write rd r).nzcv r (if n = 0 then x.fl.getLsbD 1 else if 32 < n then false else a.getLsbD (n - 1)) (x.fl.getLsbD 0)) := by
  have hres : (if 32 ≤ n then 0 else a >>> n) = a >>> n := by
    split
    · exact (BitVec.ushiftRight_eq_zero ‹_›).symm
    · rfl
  have hout : (if 32 < n then false else a.getLsbD (n - 1)) = a.getLsbD (n - 1) := by
    split
    · exact (BitVec.getLsbD_of_ge _ _ (by omega)).symm
    · rfl
  simp only [hres, hout]
  exact Eng.put_shifted ..

theorem Eng.put_shrA :
    x.put rd (shrA x.fl a n) =
      (let r : Word := if 32 ≤ n then (if a.msb then -1 else 0) else a.sshiftRight n
       (x.write rd r).nzcv r (if n = 0 then x.fl.getLsbD 1 else if 32 < n then a.msb else a.getLsbD (n - 1)) (x.fl.getLsbD 0)) := by
  have hres : (if 32 ≤ n then (if a.msb then -1 else 0) else a.sshiftRight n) = a.sshiftRight n := by
    split
    · exact (sshiftRight_eq_sign ‹_›).symm
    · rfl
  have hout : (if 32 < n then a.msb else a.getLsbD (n - 1)) = (if n ≤ 32 then a.getLsbD (n - 1) else a.msb) := by
    simp only [← Nat.not_lt, ite_not]
  simp only [hres, hout]
  exact Eng.put_shifted ..

end

/-- Settles O25: each instruction puts one of the model's shifts, whose result and C are those of the clause. -/
theorem scalarShifts : Obligations.ScalarShifts := by
  refine ⟨?sll, ?srl, ?sra, ?slli, ?srli, ?srai⟩
  case sll => exact fun s e short rd rs rt hiss => EngineStep.of_put hiss rfl (Eng.put_shl ..)
  case srl => exact fun s e short rd rs rt hiss => EngineStep.of_put hiss rfl (Eng.put_shrL ..)
  case sra => exact fun s e short rd rs rt hiss => EngineStep.of_put hiss rfl (Eng.put_shrA ..)
  case slli => exact fun s e short rd rs sa hiss => EngineStep.of_put hiss rfl (Eng.put_shl ..)
  case srli => exact fun s e rd rs sa hiss => EngineStep.of_put hiss rfl (Eng.put_shrL ..)
  case srai => exact fun s e rd rs sa hiss => EngineStep.of_put hiss rfl (Eng.put_shrA ..)

/-! ### Moves and constants (R241, R242, R244, R247) -/

theorem ofNat_mul_4096 (imm : BitVec 20) : BitVec.ofNat 32 (imm.toNat * 4096) = imm.setWidth 32 <<< 12 := by
  apply BitVec.eq_of_toNat_eq
  have himm := imm.isLt
  rw [BitVec.toNat_ofNat, BitVec.toNat_shiftLeft, BitVec.toNat_setWidth, Nat.mod_eq_of_lt (a := imm.toNat) (by omega), Nat.shiftLeft_eq]

/-- movi: a 7-bit immediate within ldi's. -/
theorem sxt_movi (imm : BitVec 7) : sxt 20 (unsigned 20 (signed 7 imm.toNat)) = imm.signExtend 32 := by
  have hfit : FitsBits 20 imm.toInt := ⟨by have := imm.le_toInt; omega, by have := imm.toInt_lt; omega⟩
  rw [sxt, signed_toNat, signed_unsigned (by decide) hfit]
  rfl

/-- Settles O26: a move writes rd, and nop and fence leave the registers alone. -/
theorem scalarMoves : Obligations.ScalarMoves := by
  refine ⟨?mov, ?sel, ?ldhi, ?ldi, ?movi, ?nop, ?fence⟩
  case mov => exact fun s e short rd rs hiss => EngineStep.of_write hiss rfl rfl
  case sel => exact fun s e rd rs rt cond hiss => EngineStep.of_write hiss rfl rfl
  case ldhi => exact fun s e rd imm hiss => EngineStep.of_write hiss rfl (ofNat_mul_4096 imm)
  case ldi => exact fun s e rd imm hiss => EngineStep.of_write hiss rfl (sxt_toNat imm)
  case movi => exact fun s e rd imm hiss => EngineStep.of_write hiss rfl (sxt_movi imm)
  case nop => exact fun s e hiss => EngineStep.of_compute (g := id) hiss rfl (.refl ..) rfl
  case fence => exact fun s e hiss => EngineStep.of_compute (g := id) hiss rfl (.refl ..) rfl

end Sys2Proof.Machine
end

section
/-! SUPPORT. The accumulator and vector instructions, and where the elements of a vector lie (R222 to R224, R245, R246). -/

namespace Sys2Proof.Machine

open Sys2Proof

/-! ### Limited values and Q (R223, R224) -/

theorem limited_of_fits {w : Nat} {v : Int} (h : FitsBits w v) : limited w v = v := by
  obtain ⟨hlo, hhi⟩ := h
  unfold limited
  omega

theorem outside_of_fits {w : Nat} {v : Int} (h : FitsBits w v) : outside w v = false := by
  obtain ⟨hlo, hhi⟩ := h
  simp only [outside, Bool.or_eq_false_iff, decide_eq_false_iff_not]
  omega

theorem fits_of_outside {w : Nat} {v : Int} (h : outside w v = false) : FitsBits w v := by
  simp only [outside, Bool.or_eq_false_iff, decide_eq_false_iff_not] at h
  exact ⟨by omega, by omega⟩

theorem Eng.sticky_false (x : Eng) : x.sticky false = x := by
  rw [Eng.sticky, Bool.or_false, mkFl_self]

theorem Eng.sticky_sticky (x : Eng) (a b : Bool) : (x.sticky a).sticky b = x.sticky (a || b) := by
  obtain ⟨hq, hn, hz, hc, hv⟩ := mkFl_flags (x.fl.getLsbD 4 || a) (x.fl.getLsbD 3) (x.fl.getLsbD 2) (x.fl.getLsbD 1) (x.fl.getLsbD 0)
  simp only [Eng.sticky, hq, hn, hz, hc, hv, Bool.or_assoc]

theorem Eng.writeA_sticky (x : Eng) (n : Nat) (v : Int) (b : Bool) : (x.sticky b).writeA n v = (x.writeA n v).sticky b := rfl

section
variable {d d' : Dev} {e : Nat} {x : Eng}

theorem Dev.Leaves.setQ32 (h : d.Leaves e x d') (b : Bool) : d.Leaves e (x.sticky b) (d'.setQ32 e b) := by
  obtain rfl := h.own
  exact h.setFlags _

/-- An accumulation is limited to 72 bits and sets Q where it was. -/
theorem Dev.Leaves.setAcc (h : d.Leaves e x d') (n : Nat) (v : Int) :
    d.Leaves e ((x.writeA n (limited 72 v)).sticky (outside 72 v)) (d'.setAcc e n v) := by
  obtain rfl := h.own
  rw [Dev.setAcc, satInt_eq]
  exact h.setEng _

/-- Four accumulations, one into each accumulator; any of them may set Q. -/
theorem Dev.Leaves.vecAcc (h : d.Leaves e x d') (f : Nat → Int) :
    d.Leaves e (((((x.writeA 0 (limited 72 (f 0))).writeA 1 (limited 72 (f 1))).writeA 2 (limited 72 (f 2))).writeA 3 (limited 72 (f 3))).sticky
      ((List.range 4).any (fun i => outside 72 (f i)))) (d'.vecAcc e f) := by
  have hall := (((h.setAcc 0 (f 0)).setAcc 1 (f 1)).setAcc 2 (f 2)).setAcc 3 (f 3)
  have hany : (List.range 4).any (fun i => outside 72 (f i)) = (((outside 72 (f 0) || outside 72 (f 1)) || outside 72 (f 2)) || outside 72 (f 3)) := by
    simp [List.range_succ, Bool.or_assoc]
  simp only [Eng.writeA_sticky, Eng.sticky_sticky] at hall
  rw [hany]
  exact hall

end

/-! ### Scalar multiply-accumulate instructions (R245) -/

/-- An instruction that accumulates. -/
theorem EngineStep.of_acc {c : Instr} {s : State} {e len a : Nat} {v : Eng → Int} {r : Dev → Int} (hiss : s.issues e)
    (hexec : exec c s = s.act (fun d => d.compute e len (fun d => d.setAcc e a (r d)))) (heff : r s.dev.cleared = v (s.dev.engOf e)) :
    EngineStep c s e (fun x => ((x.writeA a (limited 72 (v x))).sticky (outside 72 (v x))).past len) :=
  EngineStep.of_compute (g := fun x => (x.writeA a (limited 72 (v x))).sticky (outside 72 (v x))) hiss hexec
    (heff ▸ (Dev.Leaves.refl ..).setAcc _ _) rfl

/-- One whose value always fits in 72 bits. -/
theorem EngineStep.of_acc_fits {c : Instr} {s : State} {e len a : Nat} {v : Eng → Int} {r : Dev → Int} (hiss : s.issues e)
    (hexec : exec c s = s.act (fun d => d.compute e len (fun d => d.setAcc e a (r d)))) (heff : r s.dev.cleared = v (s.dev.engOf e))
    (hfit : ∀ x, FitsBits 72 (v x)) : EngineStep c s e (fun x => (x.writeA a (v x)).past len) := by
  have h := EngineStep.of_acc (v := v) hiss hexec heff
  simp only [limited_of_fits (hfit _), outside_of_fits (hfit _), Eng.sticky_false] at h
  exact h

theorem fitsBits_toInt (a : Word) : FitsBits 32 a.toInt := ⟨a.le_toInt, a.toInt_lt⟩

/-- A product of two numbers of 32 bits. -/
theorem FitsBits.abs_mul_le {a b : Int} (ha : FitsBits 32 a) (hb : FitsBits 32 b) : |a * b| ≤ 2 ^ 62 := by
  have hbound {c : Int} (hc : FitsBits 32 c) : |c| ≤ 2 ^ 31 := abs_le.mpr ⟨hc.1, hc.2.le⟩
  rw [abs_mul]
  exact (mul_le_mul (hbound ha) (hbound hb) (abs_nonneg b) (by decide)).trans (by decide)

theorem fitsBits_of_abs_le {v : Int} (h : |v| ≤ 2 ^ 63) : FitsBits 72 v := by
  obtain ⟨hlo, hhi⟩ := abs_le.mp h
  exact ⟨by omega, by omega⟩

theorem fitsBits_toInt_mul (a b : Word) : FitsBits 72 (a.toInt * b.toInt) :=
  fitsBits_of_abs_le (((fitsBits_toInt a).abs_mul_le (fitsBits_toInt b)).trans (by decide))

theorem fitsBits_zero : FitsBits 72 0 := fitsBits_of_abs_le (by decide)

theorem roundShift_eq (v : Int) (sh : Nat) : roundShift v sh = (v + (if sh = 0 then 0 else 2 ^ (sh - 1))) / 2 ^ sh := by
  unfold roundShift
  push_cast
  rfl

/-- A rounded accumulator, limited to `w` bits, into rd, and Q. -/
theorem EngineStep.of_round {c : Instr} {s : State} {e len rd a sh w : Nat} (hiss : s.issues e)
    (hexec : exec c s = s.act (fun d => d.compute e len (fun d =>
      let r := satInt w (roundShift (d.acc e a) sh)
      (d.setGr e rd (BitVec.ofInt 32 r.1)).setQ32 e r.2))) :
    EngineStep c s e (fun x =>
      let v := (x.a.get a 0 + (if sh = 0 then 0 else 2 ^ (sh - 1))) / 2 ^ sh
      ((x.write rd (BitVec.ofInt 32 (limited w v))).sticky (outside w v)).past len) := by
  refine EngineStep.of_compute hiss hexec ?_ (Eng.write_pc ..)
  simp only [satInt_eq, roundShift_eq]
  exact ((Dev.Leaves.refl ..).setGr _ _).setQ32 _

/-- Settles O27: each instruction accumulates the clause's value, or rounds an accumulator into rd. -/
theorem scalarMac : Obligations.ScalarMac := by
  refine ⟨?mac, ?msu, ?mula, ?macu, ?clra, ?mova, ?rda, ?rdah, ?asum⟩
  case mac => exact fun s e a rs rt hiss => EngineStep.of_acc hiss rfl rfl
  case msu => exact fun s e a rs rt hiss => EngineStep.of_acc hiss rfl rfl
  case mula => exact fun s e a rs rt hiss => EngineStep.of_acc_fits hiss rfl rfl fun _ => fitsBits_toInt_mul ..
  case macu => exact fun s e a rs rt hiss => EngineStep.of_acc hiss rfl rfl
  case clra => exact fun s e a hiss => EngineStep.of_acc_fits (v := fun _ => 0) hiss rfl rfl fun _ => fitsBits_zero
  case mova =>
    exact fun s e a rs hiss => EngineStep.of_acc_fits hiss rfl rfl fun x => (fitsBits_toInt _).mono (by decide)
  case rda => exact fun s e rd a sh hiss => EngineStep.of_round hiss rfl
  case rdah => exact fun s e rd a sh hiss => EngineStep.of_round hiss rfl
  case asum => exact fun s e a hiss => EngineStep.of_acc hiss rfl rfl

/-! ### Elements (R222) -/

theorem elW_pos (sz : Bool) : 0 < elW sz := by cases sz <;> decide

theorem el_lt (sz : Bool) (x : BitVec 128) (i : Nat) : el sz x i < 2 ^ elW sz := Nat.mod_lt _ (Nat.two_pow_pos _)

theorem fitsBits_signed (w n : Nat) : FitsBits w (signed w n) := by
  have hint : signed w n = (BitVec.ofNat w n).toInt := by
    rw [← signed_toNat, BitVec.toNat_ofNat]
    simp only [signed, Nat.mod_mod]
  rw [hint]
  exact ⟨BitVec.le_toInt _, BitVec.toInt_lt⟩

/-- An element's signed value and the element are one number modulo its width. -/
theorem signed_emod (w n : Nat) : signed w n % ((2 ^ w : Nat) : Int) = ((n % 2 ^ w : Nat) : Int) := by
  simp only [signed]
  split
  · exact Int.emod_eq_of_lt (by omega) (by exact_mod_cast Nat.mod_lt _ (Nat.two_pow_pos _))
  · rw [Int.sub_emod_right]
    exact Int.emod_eq_of_lt (by omega) (by exact_mod_cast Nat.mod_lt _ (Nat.two_pow_pos _))

theorem unsigned_elS (sz : Bool) (x : BitVec 128) (i : Nat) : unsigned (elW sz) (elS sz x i) = el sz x i := by
  rw [unsigned, elS, signed_emod, Int.toNat_natCast, Nat.mod_eq_of_lt (el_lt ..)]

theorem unsigned_elS_mul (sz : Bool) (x : BitVec 128) (i k : Nat) :
    unsigned (elW sz) (elS sz x i * k) = unsigned (elW sz) ((el sz x i * k : Nat) : Int) := by
  rw [unsigned, unsigned, Int.mul_emod, elS, signed_emod, Nat.cast_mul, Int.mul_emod (el sz x i), Int.natCast_mod]

/-- A vector turns on its elements' bits only. -/
theorem vecOf_congr (sz : Bool) {l : List Nat} {f g : Nat → Int} (h : ∀ i, unsigned (elW sz) (f i) = unsigned (elW sz) (g i)) :
    vecOf sz (l.map f) = vecOf sz (l.map g) := by
  simp only [vecOf, List.foldr_map, h]

/-- The number that a list of elements makes, the first at the lowest place. -/
def elementsNat (w : Nat) (l : List Int) : Nat := l.foldr (fun v s => unsigned w v + 2 ^ w * s) 0

theorem elementsNat_lt (w : Nat) (l : List Int) : elementsNat w l < 2 ^ (w * l.length) := by
  induction l with
  | nil => simp [elementsNat]
  | cons v l ih =>
    have hv := unsigned_lt w v
    rw [elementsNat] at ih
    rw [elementsNat, List.foldr_cons, List.length_cons, Nat.mul_succ, Nat.pow_add]
    calc unsigned w v + 2 ^ w * _ < 2 ^ w * (List.foldr (fun v s => unsigned w v + 2 ^ w * s) 0 l + 1) := by rw [Nat.mul_succ]; omega
      _ ≤ 2 ^ w * 2 ^ (w * l.length) := Nat.mul_le_mul_left _ ih
      _ = 2 ^ (w * l.length) * 2 ^ w := Nat.mul_comm ..

theorem elementsNat_digit (w : Nat) (l : List Int) (i : Nat) (hi : i < l.length) :
    elementsNat w l / 2 ^ (w * i) % 2 ^ w = unsigned w (l.getD i 0) := by
  induction l generalizing i with
  | nil => simp at hi
  | cons v l ih =>
    have hv := unsigned_lt w v
    rw [elementsNat, List.foldr_cons]
    cases i with
    | zero => rw [Nat.mul_zero, Nat.pow_zero, Nat.div_one, Nat.add_mul_mod_self_left, Nat.mod_eq_of_lt hv]; rfl
    | succ i =>
      rw [Nat.mul_succ, Nat.add_comm (w * i), Nat.pow_add, ← Nat.div_div_eq_div_mul, Nat.add_mul_div_left _ _ (Nat.two_pow_pos w),
        Nat.div_eq_of_lt hv, Nat.zero_add]
      exact ih i (by simpa using hi)

theorem el_vecOf {sz : Bool} {l : List Int} {i : Nat} (hl : l.length = elN sz) (hi : i < elN sz) :
    el sz (vecOf sz l) i = unsigned (elW sz) (l.getD i 0) := by
  have hwidth : elW sz * elN sz = 128 := by cases sz <;> rfl
  have hlt := elementsNat_lt (elW sz) l
  rw [hl, hwidth] at hlt
  have hval : (vecOf sz l).toNat = elementsNat (elW sz) l := by
    rw [vecOf, BitVec.toNat_ofNat]
    exact Nat.mod_eq_of_lt hlt
  rw [el, hval, elementsNat_digit _ _ _ (hl ▸ hi)]

/-- Settles O30: a vector's number has its elements as digits. -/
theorem vectorElements : Obligations.VectorElements := by
  intro sz l i hl hi
  refine ⟨el_vecOf hl hi, fun hin => ?_⟩
  rw [elS, el_vecOf hl hi, signed_unsigned (elW_pos sz) (fits_of_outside hin)]

end Sys2Proof.Machine
end

section
/-! SUPPORT. The vector instructions (R222 to R224, R246). -/

namespace Sys2Proof.Machine

open Sys2Proof

/-! ### Vector ALU -/

/-- An instruction that writes vd only. -/
theorem EngineStep.of_writeV {c : Instr} {s : State} {e len vd : Nat} {v : Eng → BitVec 128} {r : Dev → BitVec 128} (hiss : s.issues e)
    (hexec : exec c s = s.act (fun d => d.compute e len (fun d => d.setVr e vd (r d)))) (heff : r s.dev.cleared = v (s.dev.engOf e)) :
    EngineStep c s e (fun x => (x.writeV vd (v x)).past len) :=
  EngineStep.of_compute (g := fun x => x.writeV vd (v x)) hiss hexec (heff ▸ (Dev.Leaves.refl ..).setVr _ _) rfl

/-- An instruction that writes vd and sets Q where an element was limited. -/
theorem EngineStep.of_writeV_sticky {c : Instr} {s : State} {e len vd : Nat} {v : Eng → BitVec 128} {q : Eng → Bool} {r : Dev → BitVec 128}
    {p : Dev → Bool} (hiss : s.issues e)
    (hexec : exec c s = s.act (fun d => d.compute e len (fun d => (d.setVr e vd (r d)).setQ32 e (p d))))
    (hv : r s.dev.cleared = v (s.dev.engOf e)) (hq : p s.dev.cleared = q (s.dev.engOf e)) :
    EngineStep c s e (fun x => ((x.writeV vd (v x)).sticky (q x)).past len) :=
  EngineStep.of_compute (g := fun x => (x.writeV vd (v x)).sticky (q x)) hiss hexec
    (hv ▸ hq ▸ ((Dev.Leaves.refl ..).setVr _ _).setQ32 _) rfl

/-- A saturating operation limits each element, and Q says whether one was limited. -/
theorem map_satInt (w : Nat) (l : List Nat) (f : Nat → Int) :
    (l.map (fun i => satInt w (f i))).map (·.1) = l.map (fun i => limited w (f i)) ∧
      (l.map (fun i => satInt w (f i))).any (·.2) = l.any (fun i => outside w (f i)) := by
  simp only [satInt_eq, List.map_map, List.any_map, Function.comp_def, and_self]

theorem EngineStep.of_vecSat {c : Instr} {s : State} {e len vd vs vt : Nat} {sz : Bool} {op : Int → Int → Int} (g : Eng → Nat → Int)
    (hiss : s.issues e) (hexec : exec c s = s.act (fun d => d.compute e len (fun d => d.vecSat e vd vs vt sz op)))
    (heff : ∀ x : Eng, ∀ i, op (elS sz (x.v.get vs 0) i) (elS sz (x.v.get vt 0) i) = g x i) :
    EngineStep c s e (fun x => ((x.writeV vd (vecOf sz ((List.range (elN sz)).map (fun i => limited (elW sz) (g x i))))).sticky
      ((List.range (elN sz)).any (fun i => outside (elW sz) (g x i)))).past len) := by
  have hmap := map_satInt (elW sz) (List.range (elN sz)) (g (s.dev.engOf e))
  simp only [← heff (s.dev.engOf e)] at hmap
  refine EngineStep.of_writeV_sticky hiss hexec ?_ ?_
  · simp only [← heff]
    exact congrArg (vecOf sz) hmap.1
  · simp only [← heff]
    exact hmap.2

/-- Settles O28: each instruction writes the clause's vector; where the model shifts an element's signed value, the clause shifts the
element, and both are one number modulo its width. -/
theorem vectorAlu : Obligations.VectorAlu := by
  refine ⟨?vadd, ?vsub, ?vadds, ?vsubs, ?vhadd, ?vhsub, ?vand, ?vor, ?vxor, ?vmin, ?vmax, ?vabs, ?vsll, ?vsrl, ?vsra, ?vmov, ?vbcast, ?vins,
    ?vext⟩
  case vadd => exact fun s e vd vs vt sz hiss => EngineStep.of_writeV hiss rfl rfl
  case vsub => exact fun s e vd vs vt sz hiss => EngineStep.of_writeV hiss rfl rfl
  case vadds =>
    exact fun s e vd vs vt sz hiss =>
      EngineStep.of_vecSat (fun x i => elS sz (x.v.get vs 0) i + elS sz (x.v.get vt 0) i) hiss rfl fun _ _ => rfl
  case vsubs =>
    exact fun s e vd vs vt sz hiss =>
      EngineStep.of_vecSat (fun x i => elS sz (x.v.get vs 0) i - elS sz (x.v.get vt 0) i) hiss rfl fun _ _ => rfl
  case vhadd => exact fun s e vd vs vt sz hiss => EngineStep.of_writeV hiss rfl rfl
  case vhsub => exact fun s e vd vs vt sz hiss => EngineStep.of_writeV hiss rfl rfl
  case vand => exact fun s e vd vs vt hiss => EngineStep.of_writeV hiss rfl rfl
  case vor => exact fun s e vd vs vt hiss => EngineStep.of_writeV hiss rfl rfl
  case vxor => exact fun s e vd vs vt hiss => EngineStep.of_writeV hiss rfl rfl
  case vmin => exact fun s e vd vs vt sz hiss => EngineStep.of_writeV hiss rfl rfl
  case vmax => exact fun s e vd vs vt sz hiss => EngineStep.of_writeV hiss rfl rfl
  case vabs =>
    refine fun s e vd vs sz hiss =>
      EngineStep.of_vecSat (vt := vs) (fun x i => ((elS sz (x.v.get vs 0) i).natAbs : Int)) hiss rfl fun _ _ => ?_
    split <;> omega
  case vsll =>
    exact fun s e vd vs sz sh hiss _ => EngineStep.of_writeV hiss rfl (vecOf_congr sz fun i => unsigned_elS_mul sz _ i _)
  case vsrl =>
    refine fun s e vd vs sz sh hiss _ => EngineStep.of_writeV hiss rfl (vecOf_congr sz fun i => ?_)
    dsimp only
    rw [unsigned_elS]
    rfl
  case vsra =>
    refine fun s e vd vs sz sh hiss _ => EngineStep.of_writeV hiss rfl (vecOf_congr sz fun i => ?_)
    rw [Nat.cast_pow]
    rfl
  case vmov => exact fun s e vd vs hiss => EngineStep.of_writeV hiss rfl rfl
  case vbcast => exact fun s e vd rs sz hiss => EngineStep.of_writeV hiss rfl rfl
  case vins => exact fun s e vd idx rs sz hiss _ => EngineStep.of_writeV hiss rfl rfl
  case vext => exact fun s e rd vs idx sz hiss _ => EngineStep.of_write hiss rfl rfl

/-! ### Vector MAC -/

/-- An element fits in 32 bits, whichever its width. -/
theorem fitsBits_elS (sz : Bool) (x : BitVec 128) (i : Nat) : FitsBits 32 (elS sz x i) :=
  (fitsBits_signed (elW sz) _).mono (by cases sz <;> decide)

/-- A lane's product, or sum of two products, fits in an accumulator. -/
theorem fitsBits_laneProduct (sz : Bool) (x y : BitVec 128) (i : Nat) : FitsBits 72 (laneProduct sz x y i) := by
  have hmul (j : Nat) : |elS sz x j * elS sz y j| ≤ 2 ^ 62 := (fitsBits_elS sz x j).abs_mul_le (fitsBits_elS sz y j)
  apply fitsBits_of_abs_le
  unfold laneProduct
  cases sz with
  | false => exact (hmul i).trans (by decide)
  | true => exact (abs_add_le _ _).trans ((add_le_add (hmul _) (hmul _)).trans (by decide))

theorem EngineStep.of_vecAcc {c : Instr} {s : State} {e len : Nat} (f : Eng → Nat → Int) {r : Dev → Nat → Int} (hiss : s.issues e)
    (hexec : exec c s = s.act (fun d => d.compute e len (fun d => d.vecAcc e (r d)))) (heff : r s.dev.cleared = f (s.dev.engOf e)) :
    EngineStep c s e (fun x =>
      (((((x.writeA 0 (limited 72 (f x 0))).writeA 1 (limited 72 (f x 1))).writeA 2 (limited 72 (f x 2))).writeA 3 (limited 72 (f x 3))).sticky
        ((List.range 4).any (fun i => outside 72 (f x i)))).past len) := by
  refine EngineStep.of_compute (g := fun x =>
    ((((x.writeA 0 (limited 72 (f x 0))).writeA 1 (limited 72 (f x 1))).writeA 2 (limited 72 (f x 2))).writeA 3 (limited 72 (f x 3))).sticky
        ((List.range 4).any (fun i => outside 72 (f x i)))) hiss hexec ?_ rfl
  rw [← heff]
  exact (Dev.Leaves.refl ..).vecAcc _

/-- Accumulators loaded with values that always fit. -/
theorem EngineStep.of_vecAcc_fits {c : Instr} {s : State} {e len : Nat} (f : Eng → Nat → Int) {r : Dev → Nat → Int} (hiss : s.issues e)
    (hexec : exec c s = s.act (fun d => d.compute e len (fun d => d.vecAcc e (r d)))) (heff : r s.dev.cleared = f (s.dev.engOf e))
    (hfit : ∀ x i, FitsBits 72 (f x i)) :
    EngineStep c s e (fun x => ((((x.writeA 0 (f x 0)).writeA 1 (f x 1)).writeA 2 (f x 2)).writeA 3 (f x 3)).past len) := by
  have h := EngineStep.of_vecAcc f hiss hexec heff
  have hany (x : Eng) : (List.range 4).any (fun i => outside 72 (f x i)) = false := by
    simp only [outside_of_fits (hfit _ _), List.any_eq_false, Bool.false_eq_true, not_false_eq_true, implies_true]
  simp only [limited_of_fits (hfit _ _), hany, Eng.sticky_false] at h
  exact h

/-- Settles O29: lane products always fit an accumulator, so that only a running sum is limited; rounded values are limited to vd's elements. -/
theorem vectorMac : Obligations.VectorMac := by
  refine ⟨?vmul, ?vmac, ?vmsu, ?vclr, ?vrnd, ?vrndHalf, ?vcmul⟩
  case vmul =>
    exact fun s e vs vt sz hiss =>
      EngineStep.of_vecAcc_fits (fun x => laneProduct sz (x.v.get vs 0) (x.v.get vt 0)) hiss rfl rfl fun _ _ => fitsBits_laneProduct ..
  case vmac =>
    exact fun s e vs vt sz hiss =>
      EngineStep.of_vecAcc (fun x i => x.a.get i 0 + laneProduct sz (x.v.get vs 0) (x.v.get vt 0) i) hiss rfl rfl
  case vmsu =>
    exact fun s e vs vt sz hiss =>
      EngineStep.of_vecAcc (fun x i => x.a.get i 0 - laneProduct sz (x.v.get vs 0) (x.v.get vt 0) i) hiss rfl rfl
  case vclr => exact fun s e hiss => EngineStep.of_vecAcc_fits (fun _ _ => 0) hiss rfl rfl fun _ _ => fitsBits_zero
  case vrnd =>
    intro s e vd sh hiss
    have hmap := map_satInt 32 (List.range 4) (fun i => roundShift (s.dev.cleared.acc e i) sh)
    simp only [roundShift_eq] at hmap
    refine EngineStep.of_writeV_sticky hiss rfl ?_ ?_
    · simp only [roundShift_eq]
      exact congrArg (vecOf false) hmap.1
    · simp only [roundShift_eq]
      exact hmap.2
  case vrndHalf =>
    intro s e vd sh hiss
    have hmap := map_satInt 16 (List.range 4) (fun i => roundShift (s.dev.cleared.acc e i) sh)
    simp only [roundShift_eq] at hmap
    refine EngineStep.of_writeV_sticky hiss rfl ?_ ?_
    · simp only [roundShift_eq, satInt_eq]
      rfl
    · simp only [roundShift_eq]
      exact hmap.2
  case vcmul =>
    intro s e vd vs vt sh hiss _
    refine EngineStep.of_writeV_sticky hiss rfl ?_ ?_
    · simp only [roundShift_eq, satInt_eq]
      rfl
    · simp only [roundShift_eq, satInt_eq]
      simp [List.range_succ, Bool.or_assoc, Dev.vr, Dev.engOf, Dev.cleared]

end Sys2Proof.Machine
end

section
/-! SUPPORT. Loads and stores at a register and an immediate, the exceptions that stop an access, and data memory (R226, R228, R230, R239,
R243, R256, R281). -/

namespace Sys2Proof.Machine

open Sys2Proof

/-! ### Scalar loads and stores (R243) -/

theorem Dev.opMem_eq (d : Dev) (e : Fin 96) (op rd rs : Nat) (imm : BitVec 12) (v : MemEnv) :
    d.opMem e op rd rs imm.toNat v = d.scalarAt e op rd (d.gr e rs + imm.signExtend 32).toNat v id := by
  rw [← sxt_toNat]
  rfl

section
variable {c : Instr} {s : State} {e : Fin 96} {len op rd rs : Nat} {imm : BitVec 12} {v : MemEnv} (hiss : s.issues e)
  (hexec : exec c s = s.act (fun d => d.issue e len (fun d _ _ => d.opMem e op rd rs imm.toNat (laterOf v s.rr (.eng e)))))
include hiss hexec

theorem LoadsTo.of_opMem (hop : op < 5) :
    LoadsTo c s e (s.dev.gr e rs + imm.signExtend 32).toNat (opWidth op) len v (fun x d => d.setGr e rd (loaded op x)) := by
  intro halign hok
  refine Gives.of_next (g := fun d => let x := d.engLoad e (s.dev.gr e rs + imm.signExtend 32).toNat (opWidth op) v
    x.2.2.setGr e rd (loaded op x.2.1)) _ hiss hexec fun _ _ => ?_
  rw [Dev.opMem_eq]
  exact Dev.scalarAt_load rd id hop halign hok

theorem StoresTo.of_opMem (hop : ¬op < 5) :
    StoresTo c s e (s.dev.gr e rs + imm.signExtend 32).toNat (leBytes (s.dev.gr e rd).toNat (opWidth op)) len v (fun d => d) := by
  intro halign hok
  rw [leBytes_length] at halign
  refine Gives.of_next (g := fun d => (d.engStore e (s.dev.gr e rs + imm.signExtend 32).toNat (leBytes (s.dev.gr e rd).toNat (opWidth op))
    (laterOf v s.rr (.eng e))).2) _ hiss hexec fun _ _ => ?_
  rw [Dev.opMem_eq]
  exact Dev.scalarAt_store rd id hop halign hok

end

/-- Settles O31: each instruction is one access at rs + sext(imm12). -/
theorem scalarMemoryCompletes : Obligations.ScalarMemoryCompletes := by
  refine ⟨?ldw, ?ldh, ?ldhu, ?ldb, ?ldbu, ?stw, ?sth, ?stb⟩
  case ldw => exact fun s e short rd rs imm v hiss => LoadsTo.of_opMem (op := 0) hiss rfl (by decide)
  case ldh =>
    intro s e rd rs imm v hiss
    simp only [← ofInt_signed]
    exact LoadsTo.of_opMem (op := 1) hiss rfl (by decide)
  case ldhu => exact fun s e rd rs imm v hiss => LoadsTo.of_opMem (op := 2) hiss rfl (by decide)
  case ldb =>
    intro s e rd rs imm v hiss
    simp only [← ofInt_signed]
    exact LoadsTo.of_opMem (op := 3) hiss rfl (by decide)
  case ldbu => exact fun s e rd rs imm v hiss => LoadsTo.of_opMem (op := 4) hiss rfl (by decide)
  case stw => exact fun s e short rd rs imm v hiss => StoresTo.of_opMem (op := 5) hiss rfl (by decide)
  case sth => exact fun s e rd rs imm v hiss => StoresTo.of_opMem (op := 6) hiss rfl (by decide)
  case stb => exact fun s e rd rs imm v hiss => StoresTo.of_opMem (op := 7) hiss rfl (by decide)

/-! ### Exceptions of an access (R239, R256) -/

/-- An instruction that raises an exception other than trap's: its EPC is the instruction. -/
theorem Gives.of_exc {c : Instr} {s : State} {e len cause arg : Nat} {g : Dev → Dev} {st : Dev → Nat} (act : Dev → Nat → Nat → Fx)
    (hiss : s.issues e) (hexec : exec c s = s.act (fun d => d.issue e len act)) (hcause : cause ≠ 7)
    (heff : ∀ pc nx, act s.dev.cleared pc nx = .exc (g s.dev.cleared) cause arg (st s.dev.cleared)) :
    Gives c s (fun d => (g d).syncException e cause arg (st d) (d.engOf e).pc (d.engOf e).pc) := by
  refine Gives.of_issue act hiss hexec ?_
  rw [heff, Dev.finish, if_neg hcause]
  rfl

theorem Raises.of_exc {c : Instr} {s : State} {e len cause arg st : Nat} (act : Dev → Nat → Nat → Fx) (hiss : s.issues e)
    (hexec : exec c s = s.act (fun d => d.issue e len act)) (hcause : cause ≠ 7)
    (heff : ∀ pc nx, act s.dev.cleared pc nx = .exc s.dev.cleared cause arg st) : Raises c s e cause arg st :=
  Gives.of_exc (g := id) (st := fun _ => st) act hiss hexec hcause heff

theorem loadThen_error {x : Status × Nat × Dev} (a : Nat) (k : Nat → Dev → Fx) (h : x.1 ≠ .ok) : loadThen x a k = .exc x.2.2 6 a x.1.code :=
  if_neg h

theorem storeThen_error {x : Status × Dev} (a : Nat) (k : Dev → Fx) (h : x.1 ≠ .ok) : storeThen x a k = .exc x.2 6 a x.1.code := if_neg h

section
variable {d : Dev} {e : Fin 96} {op a : Nat} {v : MemEnv}

theorem Dev.scalarAt_misaligned (rd : Nat) (k : Dev → Dev) (h : a % opWidth op ≠ 0) : d.scalarAt e op rd a v k = .exc d 5 a 0 := if_pos h

theorem Dev.scalarAt_loadError (rd : Nat) (k : Dev → Dev) (hop : op < 5) (halign : a % opWidth op = 0)
    (herr : (d.engLoad e a (opWidth op) v).1 ≠ .ok) :
    d.scalarAt e op rd a v k = .exc (d.engLoad e a (opWidth op) v).2.2 6 a (d.engLoad e a (opWidth op) v).1.code := by
  rw [Dev.scalarAt, if_neg (not_not.mpr halign), if_pos hop, loadThen_error _ _ herr]

theorem Dev.scalarAt_storeError (rd : Nat) (k : Dev → Dev) (hop : ¬op < 5) (halign : a % opWidth op = 0)
    (herr : (d.engStore e a (leBytes (d.gr e rd).toNat (opWidth op)) v).1 ≠ .ok) :
    d.scalarAt e op rd a v k = .exc (d.engStore e a (leBytes (d.gr e rd).toNat (opWidth op)) v).2 6 a
      (d.engStore e a (leBytes (d.gr e rd).toNat (opWidth op)) v).1.code := by
  rw [Dev.scalarAt, if_neg (not_not.mpr halign), if_neg hop, storeThen_error _ _ herr]

theorem Dev.opAg_invalid {m : Nat} (rd : Nat) (upd : Bool) (h : (d.gen e m).valid = false) : d.opAg e op rd m upd v = .exc d 4 m 0 := by
  simp only [Dev.opAg, h, Bool.not_false, if_true]

theorem Dev.opVec_invalid {m : Nat} (store : Bool) (vd : Nat) (sz upd : Bool) (h : (d.gen e m).valid = false) :
    d.opVec e store vd m sz upd v = .exc d 4 m 0 := by
  simp only [Dev.opVec, h, Bool.not_false, if_true]

theorem Dev.opVldr_invalid {m : Nat} (vd : Nat) (sz upd : Bool) (h : (d.gen e m).valid = false) :
    d.opVldr e vd m sz upd v = .exc d 4 m 0 := by
  simp only [Dev.opVldr, h, Bool.not_false, if_true]

theorem Dev.opVec_misaligned {m : Nat} (store : Bool) (vd : Nat) (sz upd : Bool) (hvalid : (d.gen e m).valid = true)
    (h : (d.gen e m).misaligned (elW sz / 8) = some a) : d.opVec e store vd m sz upd v = .exc d 5 a 0 := by
  simp only [Dev.opVec, hvalid, h, Bool.not_true, Bool.false_eq_true, if_false]

theorem Dev.opAtomic_far {rs : Nat} (rd rt : Nat) (ha : a = (d.gr e rs).toNat) (halign : a % 4 = 0) (hfar : ¬LocalAddr a) :
    d.opAtomic e op rd rs rt v = .exc d 6 a Status.denied.code := by
  have hreg : (decide (a < 0x20000) || (decide (0x100000 ≤ a) && decide (a < 0x200000))) = false := by
    rw [← Bool.not_eq_true]
    simpa using hfar
  simp only [Dev.opAtomic, ← ha, halign, hreg, ne_eq, not_true, if_false, Bool.not_false, if_true]

end

section
variable {c : Instr} {s : State} {e : Fin 96} {len op rd rs : Nat} {imm : BitVec 12} {v : MemEnv} {a : Nat} (hiss : s.issues e)
  (hexec : exec c s = s.act (fun d => d.issue e len (fun d _ _ => d.opMem e op rd rs imm.toNat (laterOf v s.rr (.eng e)))))
  (ha : a = (s.dev.gr e rs + imm.signExtend 32).toNat)
include hiss hexec ha

theorem Raises.of_opMem_misaligned (h : a % opWidth op ≠ 0) : Raises c s e 5 a 0 := by
  subst ha
  refine Raises.of_exc _ hiss hexec (by decide) fun _ _ => ?_
  rw [Dev.opMem_eq]
  exact Dev.scalarAt_misaligned rd id h

theorem Gives.of_opMem_loadError (hop : op < 5) (halign : a % opWidth op = 0) (herr : (s.dev.cleared.engLoad e a (opWidth op) v).1 ≠ .ok) :
    Gives c s (fun d =>
      let x := d.engLoad e a (opWidth op) v
      x.2.2.syncException e 6 a x.1.code (d.engOf e).pc (d.engOf e).pc) := by
  subst ha
  refine Gives.of_exc (g := fun d => (d.engLoad e _ (opWidth op) v).2.2) (st := fun d => (d.engLoad e _ (opWidth op) v).1.code) _ hiss hexec
    (by decide) fun _ _ => ?_
  rw [Dev.opMem_eq]
  exact Dev.scalarAt_loadError rd id hop halign herr

theorem Gives.of_opMem_storeError (hop : ¬op < 5) (halign : a % opWidth op = 0)
    (herr : (s.dev.cleared.engStore e a (leBytes (s.dev.gr e rd).toNat (opWidth op)) (laterOf v s.rr (.eng e))).1 ≠ .ok) :
    Gives c s (fun d =>
      let x := d.engStore e a (leBytes (d.gr e rd).toNat (opWidth op)) (laterOf v s.rr (.eng e))
      x.2.syncException e 6 a x.1.code (d.engOf e).pc (d.engOf e).pc) := by
  subst ha
  refine Gives.of_exc (g := fun d => (d.engStore e _ (leBytes (d.gr e rd).toNat (opWidth op)) (laterOf v s.rr (.eng e))).2)
    (st := fun d => (d.engStore e _ (leBytes (d.gr e rd).toNat (opWidth op)) (laterOf v s.rr (.eng e))).1.code) _ hiss hexec
    (by decide) fun _ _ => ?_
  rw [Dev.opMem_eq]
  exact Dev.scalarAt_storeError rd id hop halign herr

end

/-- Settles O34, clause by clause: misaligned, answered by a bus error, through a generator that is not valid, or beyond the reach of an
atomic instruction. -/
theorem accessesTrap : Obligations.AccessesTrap := by
  refine ⟨?word, ?half, ?loadError, ?storeError, ?invalid, ?vector, ?atomic⟩
  case word =>
    exact fun s e short rd rs imm v a hiss ha h =>
      ⟨.of_opMem_misaligned (op := 0) hiss rfl ha h, .of_opMem_misaligned (op := 5) hiss rfl ha h⟩
  case half =>
    exact fun s e rd rs imm v a hiss ha h =>
      ⟨.of_opMem_misaligned (op := 1) hiss rfl ha h, .of_opMem_misaligned (op := 2) hiss rfl ha h, .of_opMem_misaligned (op := 6) hiss rfl ha h⟩
  case loadError =>
    exact fun s e short rd rs imm v a hiss ha halign herr => .of_opMem_loadError (op := 0) hiss rfl ha (by decide) halign herr
  case storeError =>
    exact fun s e short rd rs imm v a hiss ha halign herr => .of_opMem_storeError (op := 5) hiss rfl ha (by decide) halign herr
  case invalid =>
    intro s e m sz upd v hiss hvalid
    refine ⟨fun short op rd => ?_, fun short op rd => ?_, fun vd => ⟨?_, ?_, ?_⟩⟩
    · exact .of_exc (fun d _ _ => d.opAg e op rd m upd (laterOf v s.rr (.eng e))) hiss rfl (by decide) fun _ _ => Dev.opAg_invalid _ _ hvalid
    · exact .of_exc (fun d _ _ => d.opAg e (5 + op) rd m upd (laterOf v s.rr (.eng e))) hiss rfl (by decide) fun _ _ =>
        Dev.opAg_invalid _ _ hvalid
    · exact .of_exc (fun d _ _ => d.opVec e false vd m sz upd (laterOf v s.rr (.eng e))) hiss rfl (by decide) fun _ _ =>
        Dev.opVec_invalid _ _ _ _ hvalid
    · exact .of_exc (fun d _ _ => d.opVec e true vd m sz upd (laterOf v s.rr (.eng e))) hiss rfl (by decide) fun _ _ =>
        Dev.opVec_invalid _ _ _ _ hvalid
    · exact .of_exc (fun d _ _ => d.opVldr e vd m sz upd (laterOf v s.rr (.eng e))) hiss rfl (by decide) fun _ _ =>
        Dev.opVldr_invalid _ _ _ hvalid
  case vector =>
    intro s e vd m sz upd v a hiss hvalid h
    exact ⟨.of_exc (fun d _ _ => d.opVec e false vd m sz upd (laterOf v s.rr (.eng e))) hiss rfl (by decide) fun _ _ =>
        Dev.opVec_misaligned _ _ _ _ hvalid h,
      .of_exc (fun d _ _ => d.opVec e true vd m sz upd (laterOf v s.rr (.eng e))) hiss rfl (by decide) fun _ _ =>
        Dev.opVec_misaligned _ _ _ _ hvalid h⟩
  case atomic =>
    intro s e rd rs rt v a hiss ha halign hfar
    have hraise {c : Instr} (x : Atomic) (hx : x.e = e ∧ x.rs = rs) (hexec : exec c s = s.act (fun d => d.atomics s.rr [x])) :
        Raises c s e 6 a Status.denied.code := by
      obtain ⟨rfl, rfl⟩ := hx
      exact .of_exc (fun d _ _ => d.opAtomic x.e x.op.val x.rd x.rs x.rt (laterOf x.v s.rr (.eng x.e))) hiss
        (hexec.trans (congrArg s.act (funext fun d => d.atomics_one s.rr x))) (by decide) fun _ _ => Dev.opAtomic_far _ _ ha halign hfar
    exact ⟨hraise ⟨0, e, rd, rs, rt, v⟩ ⟨rfl, rfl⟩ rfl, hraise ⟨1, e, rd, rs, rt, v⟩ ⟨rfl, rfl⟩ rfl,
      hraise ⟨2, e, rd, rs, rt, v⟩ ⟨rfl, rfl⟩ rfl⟩

/-! ### Data memory (R230, R281, R294) -/

/-- A started device whose word at the foot of engine 0's data memory carries the mark 3, which the model gives a word of flash after a
single-bit error: neither of the marks that a read refuses. -/
def markedWord : Dev := { bad := [(engData 0, 3)], initTill := 0 }

/-- A store of one byte of that word is refused, since it does not cover the word whole. -/
theorem markedWord_store : (markedWord.engStore 0 0 [0] ⟨false, 0, [], []⟩).1 = .faultDetected := by
  rfl

/-- Refutes O33: its premise on uncorrectable words excludes the marks 1 and 2 only (`firstBad`), while a store refuses every marked word that
it does not cover whole; `markedWord` meets the premises and refuses the store of one byte. -/
theorem not_dataMemory : ¬ Obligations.DataMemory := by
  intro h
  obtain ⟨-, hstore⟩ := h markedWord 0 0 rfl rfl
  have hok := (hstore [0] (by decide) (by decide) rfl).1
  rw [markedWord_store] at hok
  exact absurd hok (by decide)

end Sys2Proof.Machine
end

section
/-! SUPPORT. Address generators: their instructions and their post-update (R226, R227, R243). -/

namespace Sys2Proof.Machine

open Sys2Proof

/-! ### Instructions (R243) -/

/-- An instruction that writes a generator and goes on. -/
theorem EngineStep.of_writeM {c : Instr} {s : State} {e len m : Nat} {v : Eng → Gen} {x : Gen} (act : Dev → Nat → Nat → Fx) (hiss : s.issues e)
    (hexec : exec c s = s.act (fun d => d.issue e len act)) (hact : ∀ pc nx, act s.dev.cleared pc nx = .next (s.dev.cleared.setGen e m x))
    (heff : x = v (s.dev.engOf e)) : EngineStep c s e (fun x => (x.writeM m (v x)).past len) :=
  EngineStep.of_next (g := fun x => x.writeM m (v x)) act hiss hexec hact (heff ▸ (Dev.Leaves.refl ..).setGen _ _) rfl

/-- agset writes the field that it names; a reserved mode is refused. -/
theorem Dev.opAgset_next (d : Dev) (e m rs : Nat) (field : Fin 5) (h : field.val = 4 → (d.gr e rs).toNat % 4 ≠ 3) :
    d.opAgset e m field rs = .next (d.setGen e m (match field.val with
      | 0 => { d.gen e m with base := d.gr e rs }
      | 1 => { d.gen e m with len := d.gr e rs }
      | 2 => { d.gen e m with step := d.gr e rs }
      | 3 => { d.gen e m with idx := d.gr e rs }
      | _ => { d.gen e m with mode := (d.gr e rs).toNat % 4 })) := by
  fin_cases field
  · rfl
  · rfl
  · rfl
  · rfl
  · exact if_neg (h rfl)

/-- Settles O35, clause by clause: agset and its reserved mode, agget, agadd and the bit-reversed mode. -/
theorem generatorInstructions : Obligations.GeneratorInstructions := by
  refine ⟨?agset, ?reserved, ?agget, ?agadd, ?reversed⟩
  case agset =>
    exact fun s e m field rs hiss h => EngineStep.of_writeM (fun d _ _ => d.opAgset e m field rs) hiss rfl
      (fun _ _ => Dev.opAgset_next s.dev.cleared e m rs field h) rfl
  case reserved =>
    exact fun s e m rs hiss h => Raises.of_exc (fun d _ _ => d.opAgset e m 4 rs) hiss rfl (by decide) fun _ _ => if_pos h
  case agget =>
    intro s e rd m field hiss
    refine EngineStep.of_write hiss rfl ?_
    fin_cases field <;> rfl
  case agadd =>
    intro s e m imm hiss h
    refine EngineStep.of_writeM (fun d _ _ => d.opAgadd e m imm.toNat) hiss rfl (fun _ _ => if_neg h) ?_
    rw [signed_toNat]
    rfl
  case reversed =>
    exact fun s e m imm hiss h => Raises.of_exc (fun d _ _ => d.opAgadd e m imm.toNat) hiss rfl (by decide) fun _ _ => if_pos h

/-! ### The post-update (R226) -/

theorem revLow_eq (k j : Nat) : revLow k j = reversedBits j.testBit k := by
  have hsum := foldl_reversedBits j.testBit k k le_rfl
  rw [Nat.sub_self, Nat.pow_zero, Nat.mul_one] at hsum
  exact hsum

theorem testBit_revLow (k j i : Nat) : (revLow k j).testBit i = (decide (i < k) && j.testBit (k - 1 - i)) := by
  rw [revLow_eq, testBit_reversedBits]

theorem revLow_lt (k j : Nat) : revLow k j < 2 ^ k := by
  refine Nat.lt_pow_two_of_testBit _ fun i hi => ?_
  simp [testBit_revLow, Nat.not_lt.mpr hi]

/-- Reversing twice gives the number back. -/
theorem revLow_revLow {k j : Nat} (hj : j < 2 ^ k) : revLow k (revLow k j) = j := by
  apply Nat.eq_of_testBit_eq
  intro i
  rw [testBit_revLow, testBit_revLow]
  by_cases hi : i < k
  · have hback : k - 1 - (k - 1 - i) = i := by omega
    simp [hi, hback, show k - 1 - i < k by omega]
  · have hzero : j.testBit i = false := Nat.testBit_lt_two_pow (hj.trans_le (Nat.pow_le_pow_right (by decide) (by omega)))
    simp [hi, hzero]

theorem isPow2_iff (n : Nat) : isPow2 n = true ↔ ∃ k, n = 2 ^ k := by
  rw [isPow2, Bool.and_eq_true, bne_iff_ne, beq_iff_eq]
  exact Nat.ne_zero_and_sub_one_eq_zero_iff_isPowerOfTwo

theorem Gen.valid_linear {x : Gen} (hmode : x.mode = 0) : x.valid = true := by
  simp only [Gen.valid, hmode]

theorem Gen.valid_modulo {x : Gen} (hmode : x.mode = 1) :
    x.valid = true ↔ 1 ≤ x.len.toNat ∧ x.step.toInt.natAbs ≤ x.len.toNat ∧ x.idx.toNat < x.len.toNat := by
  simp only [Gen.valid, hmode, Bool.and_eq_true, decide_eq_true_eq, and_assoc]

theorem Gen.valid_reversed {x : Gen} (hmode : x.mode = 2) :
    x.valid = true ↔ (∃ a, x.len.toNat = 2 ^ a) ∧ (∃ b, x.step.toNat = 2 ^ b) ∧ x.step.toNat < x.len.toNat ∧
      x.idx.toNat % x.step.toNat = 0 ∧ x.idx.toNat < x.len.toNat := by
  simp only [Gen.valid, hmode, Bool.and_eq_true, decide_eq_true_eq, beq_iff_eq, isPow2_iff, and_assoc]

/-- Linear mode: the index steps. -/
theorem Gen.next_linear {x : Gen} (hmode : x.mode = 0) : x.next = { x with idx := x.idx + x.step } := by
  have hsum : BitVec.ofInt 32 ((x.idx.toNat : Int) + x.step.toInt) = x.idx + x.step := by
    rw [BitVec.ofInt_add, BitVec.ofInt_toInt, BitVec.ofInt_natCast, BitVec.ofNat_toNat, BitVec.setWidth_eq]
  simp only [Gen.next, Gen.advance, hmode, hsum]

/-- Modulo mode: the index after the step wraps within the length. -/
theorem Gen.next_modulo {x : Gen} (hvalid : x.valid = true) (hmode : x.mode = 1) :
    ∃ i : Nat, x.next = { x with idx := BitVec.ofNat 32 i } ∧ i < x.len.toNat ∧
      (i : Int) = ((x.idx.toNat : Int) + x.step.toInt) % x.len.toNat := by
  obtain ⟨-, hstep, hidx⟩ := (Gen.valid_modulo hmode).mp hvalid
  obtain ⟨i, hi⟩ : ∃ i : Int, i = (x.idx.toNat : Int) + x.step.toInt := ⟨_, rfl⟩
  obtain ⟨w, hw⟩ : ∃ w : Int, w = if (x.len.toNat : Int) ≤ i then i - x.len.toNat else if i < 0 then i + x.len.toNat else i := ⟨_, rfl⟩
  have hrange : 0 ≤ w ∧ w < x.len.toNat := by
    rw [hw]
    split_ifs <;> omega
  have hnext : x.next = { x with idx := BitVec.ofInt 32 w } := by
    simp only [Gen.next, Gen.advance, hmode, hw, hi]
  have hmod : w = i % x.len.toNat := by
    rw [← Int.emod_eq_of_lt hrange.1 hrange.2, hw]
    split_ifs
    · exact Int.sub_emod_right ..
    · exact Int.add_emod_right ..
    · rfl
  refine ⟨w.toNat, ?_, by omega, by rw [Int.toNat_of_nonneg hrange.1, hmod, hi]⟩
  rw [hnext, ← BitVec.ofInt_natCast, Int.toNat_of_nonneg hrange.1]

/-- Bit-reversed mode: the index is a multiple of the step, whose factor counts on in bit-reversed order. -/
theorem Gen.next_reversed {x : Gen} (hvalid : x.valid = true) (hmode : x.mode = 2) :
    ∃ k j, x.len.toNat = x.step.toNat * 2 ^ k ∧ j < 2 ^ k ∧ x.idx.toNat = x.step.toNat * revLow k j ∧
      x.next = { x with idx := BitVec.ofNat 32 (x.step.toNat * revLow k ((j + 1) % 2 ^ k)) } := by
  obtain ⟨⟨a, hlen⟩, ⟨b, hstep⟩, hlt, hmul, hidx⟩ := (Gen.valid_reversed hmode).mp hvalid
  have hpos : 0 < x.step.toNat := hstep ▸ Nat.two_pow_pos b
  have hba : b ≤ a := (Nat.pow_lt_pow_iff_right (by decide : 1 < 2)).mp (hlen ▸ hstep ▸ hlt) |>.le
  have hlenk : x.len.toNat = x.step.toNat * 2 ^ (a - b) := by rw [hlen, hstep, ← Nat.pow_add, Nat.add_sub_cancel' hba]
  have hk : Nat.log2 (x.len.toNat / x.step.toNat) = a - b := by rw [hlenk, Nat.mul_div_cancel_left _ hpos, Nat.log2_two_pow]
  have hq : x.idx.toNat / x.step.toNat < 2 ^ (a - b) := Nat.div_lt_of_lt_mul (hlenk ▸ hidx)
  refine ⟨a - b, revLow (a - b) (x.idx.toNat / x.step.toNat), hlenk, revLow_lt .., ?_, ?_⟩
  · rw [revLow_revLow hq, Nat.mul_div_cancel' (Nat.dvd_of_mod_eq_zero hmul)]
  · simp only [Gen.next, hmode, hk]

/-- An index below the length is a word. -/
theorem toNat_ofNat_of_lt_len {i : Nat} {len : Word} (h : i < len.toNat) : (BitVec.ofNat 32 i).toNat = i := by
  rw [BitVec.toNat_ofNat, Nat.mod_eq_of_lt (h.trans len.isLt)]

/-- Settles O36: a valid generator is linear, modulo or bit-reversed, and the post-update of each mode changes the index alone. -/
theorem generatorUpdate : Obligations.GeneratorUpdate := by
  intro x hvalid
  obtain hmode | hmode | hmode : x.mode = 0 ∨ x.mode = 1 ∨ x.mode = 2 := by
    unfold Gen.valid at hvalid
    split at hvalid
    · exact .inl ‹_›
    · exact .inr (.inl ‹_›)
    · exact .inr (.inr ‹_›)
    · cases hvalid
  · rw [Gen.next_linear hmode]
    exact ⟨rfl, rfl, rfl, rfl, Gen.valid_linear hmode, fun _ => rfl, fun h => by omega, fun h => by omega⟩
  · obtain ⟨i, hnext, hi, hmod⟩ := Gen.next_modulo hvalid hmode
    obtain ⟨hlen, hstep, -⟩ := (Gen.valid_modulo hmode).mp hvalid
    rw [hnext]
    have hvalid' := (Gen.valid_modulo (x := { x with idx := BitVec.ofNat 32 i }) hmode).mpr
    refine ⟨rfl, rfl, rfl, rfl, hvalid' ⟨hlen, hstep, ?_⟩, fun h => by omega, fun _ => ?_, fun h => by omega⟩
    · rwa [toNat_ofNat_of_lt_len hi]
    · rwa [toNat_ofNat_of_lt_len hi]
  · obtain ⟨k, j, hlen, hj, hidx, hnext⟩ := Gen.next_reversed hvalid hmode
    obtain ⟨hpowLen, hpowStep, hlt, -, -⟩ := (Gen.valid_reversed hmode).mp hvalid
    have hpos : 0 < x.step.toNat := by obtain ⟨b, hb⟩ := hpowStep; exact hb ▸ Nat.two_pow_pos b
    have hnew : x.step.toNat * revLow k ((j + 1) % 2 ^ k) < x.len.toNat := hlen ▸ Nat.mul_lt_mul_of_pos_left (revLow_lt ..) hpos
    rw [hnext]
    have hvalid' := (Gen.valid_reversed (x := { x with idx := BitVec.ofNat 32 (x.step.toNat * revLow k ((j + 1) % 2 ^ k)) }) hmode).mpr
    refine ⟨rfl, rfl, rfl, rfl, hvalid' ⟨hpowLen, hpowStep, hlt, ?_, ?_⟩, fun h => by omega, fun h => by omega,
      fun _ => ⟨k, j, hlen, hj, hidx, toNat_ofNat_of_lt_len hnew⟩⟩
    · rw [toNat_ofNat_of_lt_len hnew, Nat.mul_mod_right]
    · rwa [toNat_ofNat_of_lt_len hnew]

end Sys2Proof.Machine
end

section
/-! SUPPORT. Control transfers, exceptions and returns of an engine (R225, R232, R236, R239, R244, R252, R256 to R261). -/

namespace Sys2Proof.Machine

open Sys2Proof

/-! ### Transfers (R236, R244) -/

/-- A target that does not fault is an address of instruction memory. -/
theorem Dev.target_lt {d : Dev} {e : Nat} {t : Int} (h : d.targetBad e t = false) : t.toNat % 65536 = t.toNat := by
  simp only [Dev.targetBad, Bool.or_eq_false_iff, decide_eq_false_iff_not] at h
  obtain ⟨⟨⟨hlo, hhi⟩, -⟩, -⟩ := h
  omega

theorem Dev.transfer_ok {d : Dev} {e : Nat} {t : Int} (link : Dev → Dev) (h : d.targetBad e t = false) :
    d.transfer e t link = .jump (link d) t := by
  simp only [Dev.transfer, h, Bool.false_eq_true, if_false]

theorem Dev.transfer_bad {d : Dev} {e : Nat} {t : Int} (link : Dev → Dev) (h : d.targetBad e t = true) :
    d.transfer e t link = .exc d 1 (t % 2 ^ 32).toNat 0 := by
  simp only [Dev.transfer, h, if_true]
  rfl

/-- An instruction that reaches a target that does not fault. -/
theorem EngineStep.of_jump {c : Instr} {s : State} {e len : Nat} {f : Eng → Eng} {x : Eng} {d' : Dev} {t : Int} (act : Dev → Nat → Nat → Fx)
    (hiss : s.issues e) (hexec : exec c s = s.act (fun d => d.issue e len act))
    (hact : act s.dev.cleared (s.dev.engOf e).pc (s.dev.after e len) = .jump d' t) (hgood : s.dev.targetBad e t = false)
    (hleaves : s.dev.cleared.Leaves e x d') (heff : { x with pc := t.toNat } = f (s.dev.engOf e)) : EngineStep c s e f := by
  refine EngineStep.of_issue act hiss hexec ?_
  rw [hact, ← heff, ← Dev.target_lt hgood]
  exact hleaves.setPc _

theorem Dev.opCallr_eq (d : Dev) (e rd rs : Nat) (imm : BitVec 15) (nx : Nat) :
    d.opCallr e rd rs imm.toInt nx = d.transfer e ((d.gr e rs + imm.signExtend 32).toNat : Nat) (fun d => d.setGr e rd (BitVec.ofNat 32 nx)) := rfl

theorem Dev.opCallr_zero (d : Dev) (e rs nx : Nat) : d.opCallr e 0 rs 0 nx = d.transfer e ((d.gr e rs).toNat : Nat) id := by
  have hzero : d.gr e rs + BitVec.ofInt 32 0 = d.gr e rs := BitVec.add_zero _
  rw [Dev.opCallr, hzero]
  rfl

/-- dbnz of a register that does not count down to 0. -/
theorem Dev.opDbnz_counts {d : Dev} {e rd : Nat} (disp : Int) (pc : Nat) (hrd : rd ≠ 0) (hcount : d.gr e rd ≠ 1) :
    d.opDbnz e rd disp pc = d.transfer e (pc + 2 * disp) (fun d' => d'.setGr e rd (d.gr e rd - 1)) := by
  have hne : d.gr e rd - 1 ≠ 0 := sub_ne_zero.mpr hcount
  simp only [Dev.opDbnz, if_neg hrd, ne_eq, hne, not_false_eq_true, if_true]

theorem Dev.opDbnz_ends {d : Dev} {e rd : Nat} (disp : Int) (pc : Nat) (h : rd = 0 ∨ d.gr e rd = 1) :
    d.opDbnz e rd disp pc = .next (d.setGr e rd 0) := by
  have hzero : (if rd = 0 then 0 else d.gr e rd - 1) = 0 := by
    split
    · rfl
    · rw [h.resolve_left ‹_›]; rfl
  simp only [Dev.opDbnz, hzero, ne_eq, not_true, if_false]

/-- Settles O37: a transfer reaches a target that does not fault, a branch or count that fails goes on, and a target that faults raises
cause 1. -/
theorem controlTransfers : Obligations.ControlTransfers := by
  refine ⟨?taken, ?untaken, ?call, ?callr, ?jr, ?counts, ?ends, ?bad⟩
  case taken =>
    rintro s e short cond disp t hiss hcond rfl hgood
    refine EngineStep.of_jump (fun d pc _ => d.opBranch e cond disp.toInt pc) hiss rfl ?_ hgood (.refl ..) rfl
    exact (if_pos hcond).trans (Dev.transfer_ok (d := s.dev.cleared) id hgood)
  case untaken =>
    intro s e short cond disp hiss hcond
    refine EngineStep.of_next (g := id) (fun d pc _ => d.opBranch e cond disp.toInt pc) hiss rfl (fun _ _ => ?_) (.refl ..) rfl
    exact if_neg (ne_true_of_eq_false hcond)
  case call =>
    rintro s e rd disp t hiss rfl hgood
    exact EngineStep.of_jump (fun d pc nx => d.opCall e rd disp.toInt pc nx) hiss rfl (Dev.transfer_ok (d := s.dev.cleared) _ hgood) hgood
      ((Dev.Leaves.refl ..).setGr _ _) rfl
  case callr =>
    rintro s e short rd rs imm t hiss rfl hgood
    exact EngineStep.of_jump (fun d _ nx => d.opCallr e rd rs imm.toInt nx) hiss rfl (Dev.transfer_ok (d := s.dev.cleared) _ hgood) hgood
      ((Dev.Leaves.refl ..).setGr _ _) rfl
  case jr =>
    rintro s e rs t hiss rfl hgood
    exact EngineStep.of_jump (fun d _ nx => d.opCallr e 0 rs 0 nx) hiss rfl
      ((Dev.opCallr_zero ..).trans (Dev.transfer_ok (d := s.dev.cleared) _ hgood)) hgood (.refl ..) rfl
  case counts =>
    rintro s e rd disp t hiss hrd hcount rfl hgood
    exact EngineStep.of_jump (fun d pc _ => d.opDbnz e rd disp.toInt pc) hiss rfl
      ((Dev.opDbnz_counts (d := s.dev.cleared) _ _ (Fin.val_ne_of_ne hrd) hcount).trans (Dev.transfer_ok (d := s.dev.cleared) _ hgood)) hgood
      ((Dev.Leaves.refl ..).setGr _ _) rfl
  case ends =>
    intro s e rd disp hiss h
    exact EngineStep.of_next (g := fun x => x.write rd 0) (fun d pc _ => d.opDbnz e rd disp.toInt pc) hiss rfl
      (fun _ _ => Dev.opDbnz_ends (d := s.dev.cleared) _ _ (h.imp_left (congrArg Fin.val))) ((Dev.Leaves.refl ..).setGr _ _) (Eng.write_pc ..)
  case bad =>
    rintro s e rd disp t hiss rfl hbad
    refine Gives.of_issue (fun d pc nx => d.opCall e rd disp.toInt pc nx) hiss rfl ?_
    rw [Dev.opCall, Dev.transfer_bad (d := s.dev.cleared) _ hbad]
    rfl

/-! ### Exceptions (R256 to R260) -/

/-- A command whose effect changes one engine. -/
theorem EngineStep.of_act {c : Instr} {s : State} {e : Nat} {f : Eng → Eng} (g : Dev → Dev) (hon : s.on) (hexec : exec c s = s.act g)
    (heff : s.dev.cleared.Leaves e (f (s.dev.engOf e)) (g s.dev.cleared)) : EngineStep c s e f :=
  ⟨_, hexec.trans (State.act_on s g hon), heff.own, heff.others, heff.rest⟩

/-- The engine as an exception leaves it (R256). -/
def Eng.excepted (x : Eng) (cause arg epc : Nat) : Eng :=
  { x with plev := x.super, paen := x.aen, aen := false, hnd := true, ecause := cause, earg := arg, epc := epc, super := true, pc := x.evb }

theorem Dev.Leaves.takeException (d : Dev) (e cause arg epc : Nat) :
    d.Leaves e ((d.engOf e).excepted cause arg epc) (d.takeException e cause arg 0 epc) :=
  (Dev.Leaves.refl d e).setEng _

theorem Dev.Leaves.eretState (d : Dev) (e : Nat) :
    d.Leaves e { d.engOf e with pc := (d.engOf e).epc, super := (d.engOf e).plev, aen := (d.engOf e).paen, hnd := false } (d.eretState e) :=
  (Dev.Leaves.refl d e).setEng _

/-- Outside a handler an exception enters it; within one it halts the engine (R261). -/
theorem Dev.syncException_first {d : Dev} {e : Nat} (cause arg st addr epc : Nat) (h : (d.engOf e).hnd = false) :
    d.syncException e cause arg st addr epc = d.takeException e cause arg st epc := by
  simp only [Dev.syncException, h, Bool.false_eq_true, if_false]

theorem Dev.syncException_double {d : Dev} {e : Nat} (cause arg st addr epc : Nat) (h : (d.engOf e).hnd = true) :
    d.syncException e cause arg st addr epc =
      (((d.setEng e { d.engOf e with ecause2 := cause + 65536 * (addr % 65536) }).halt e 1 epc).engRec e 0x8002 5 e
        (cause + 65536 * (addr % 65536))).emit (.refugeNote (pgENG e)) := by
  simp only [Dev.syncException, h, if_true]

/-- trap below 240 raises cause 7 with its number. -/
theorem Dev.opTrap_exc (d : Dev) (e : Nat) (n : Fin 240) (nx : Nat) : d.opTrap e n nx = .exc d 7 n 0 := if_pos n.isLt

theorem Dev.illegalIssue_unknown {d : Dev} {e : Fin 96} {w : Nat} (hrun : d.engRunning e = true) (hcause : d.takeable e = none)
    (hword : d.execWord e (w / 4 * 4) (d.engOf e).pc ((d.engOf e).pc + 4) ⟨false, 0, [], []⟩ = none) :
    d.illegalIssue e w false = d.syncException e 2 w 0 (d.engOf e).pc (d.engOf e).pc := by
  simp only [Dev.illegalIssue, Dev.boundary, hrun, hcause, hword, Bool.not_true, Bool.false_eq_true, if_false, Option.isSome_none,
    Bool.not_false, Bool.or_true, if_true]
  rfl

theorem Dev.asyncTake_cause {d : Dev} {e c : Nat} (hrun : d.engRunning e = true) (hcause : d.takeable e = some c) :
    d.asyncTake e = d.takeAsync e c := by
  simp only [Dev.asyncTake, hrun, hcause, if_true]

theorem Dev.takeAsync_other {d : Dev} {e c : Nat} (h : c ≠ 0x11) : d.takeAsync e c = d.takeException e c 0 0 (d.engOf e).pc := by
  simp only [Dev.takeAsync, if_neg h]

theorem Dev.takeAsync_deadline {d : Dev} {e : Nat} {m : Nat × Nat} {ms : List (Nat × Nat)} (h : (d.engOf e).missed = m :: ms) :
    d.takeAsync e 0x11 = d.takeException e 0x11 (m.1 * 256 + m.2) 0 (d.engOf e).pc := by
  simp only [Dev.takeAsync, h, if_true]

/-! ### The double fault (R252, R261) -/

/-- A record leaves the engines, the registers and memory. -/
theorem Dev.rated_fields (d : Dev) (block code unit sev p0 p2 src : Nat) :
    (d.rated block code unit sev p0 p2 src).eng = d.eng ∧ (d.rated block code unit sev p0 p2 src).regs = d.regs ∧
      (d.rated block code unit sev p0 p2 src).mem = d.mem := by
  unfold Dev.rated
  dsimp only
  split
  · exact ⟨rfl, rfl, rfl⟩
  · split
    · exact ⟨rfl, rfl, rfl⟩
    · split <;> exact ⟨rfl, rfl, rfl⟩

theorem Dev.rd_of_regs {d d' : Dev} (h : d'.regs = d.regs) (f : Fld) (k p : Nat) : d'.rd f k p = d.rd f k p := by
  simp only [Dev.rd, Dev.word, h]

/-- One dump more is asked for. -/
def Dev.askDump (d : Dev) (req : DumpReq) : Dev := { d with rfg := { d.rfg with dumps := d.rfg.dumps ++ [req] } }

theorem Dev.askDump_eng (d : Dev) (req : DumpReq) : (d.askDump req).eng = d.eng := rfl
theorem Dev.askDump_mem (d : Dev) (req : DumpReq) : (d.askDump req).mem = d.mem := rfl
theorem Dev.askDump_regs (d : Dev) (req : DumpReq) : (d.askDump req).regs = d.regs := rfl

theorem Dev.halt_eq (d : Dev) (e reason pc : Nat) : ∃ req, d.halt e reason pc =
    ((((d.setEng e { d.engOf e with pc := pc }).setEngState e 4 reason).wr ENG_PC_pc pc 0 e).askDump req).wr EVR_DUMP_STAT_busy 1 :=
  ⟨_, rfl⟩

theorem Dev.setEngState_eng (d : Dev) (e st reason : Nat) : (d.setEngState e st reason).eng = d.eng := rfl
theorem Dev.setEngState_mem (d : Dev) (e st reason : Nat) : (d.setEngState e st reason).mem = d.mem := rfl

theorem Dev.halt_eng (d : Dev) (e reason pc : Nat) : (d.halt e reason pc).eng = (d.setEng e { d.engOf e with pc := pc }).eng := by
  obtain ⟨req, heq⟩ := Dev.halt_eq d e reason pc
  rw [heq, Dev.wr_eng, Dev.askDump_eng, Dev.wr_eng, Dev.setEngState_eng]

theorem Dev.halt_mem (d : Dev) (e reason pc : Nat) : (d.halt e reason pc).mem = d.mem := by
  obtain ⟨req, heq⟩ := Dev.halt_eq d e reason pc
  rw [heq, Dev.wr_mem, Dev.askDump_mem, Dev.wr_mem, Dev.setEngState_mem, Dev.setEng_mem]

/-- A field of the engine's state register reads as the change of state leaves it. -/
theorem Dev.halt_rd (d : Dev) (e reason pc : Nat) {f : Fld} (h : f.key 0 e = (ENG_STATE_state : Fld).key 0 e) :
    (d.halt e reason pc).rd f 0 e = ((d.setEng e { d.engOf e with pc := pc }).setEngState e 4 reason).rd f 0 e := by
  have hdump : f.key 0 e ≠ (EVR_DUMP_STAT_busy : Fld).key 0 0 := by
    rw [h]
    simp only [Fld.key, regKey]
    omega
  have hpc : f.key 0 e ≠ (ENG_PC_pc : Fld).key 0 e := by
    rw [h]
    simp only [Fld.key, regKey]
    omega
  obtain ⟨req, heq⟩ := Dev.halt_eq d e reason pc
  rw [heq, Dev.rd_wr_key_ne _ _ _ _ _ _ _ _ hdump, Dev.rd_of_regs (Dev.askDump_regs ..), Dev.rd_wr_key_ne _ _ _ _ _ _ _ _ hpc]

theorem Dev.halt_engState (d : Dev) (e reason pc : Nat) : (d.halt e reason pc).engState e = 4 := by
  rw [Dev.engState, Dev.halt_rd d e reason pc rfl, ← Dev.engState, Dev.engState_setEngState]

theorem Dev.halt_reason (d : Dev) (e reason pc : Nat) : (d.halt e reason pc).rd ENG_STATE_reason 0 e = reason % 8 := by
  rw [Dev.halt_rd d e reason pc (f := ENG_STATE_reason) rfl, Dev.setEngState, Dev.rd_wr_same _ _ _ _ _ (by decide) (by decide)]
  rfl

/-- A double fault (R252, R261): the engine is HALTED with reason 1, ECAUSE2 holds `c2`, and the Refuge is told. -/
theorem Dev.doubleFault_leaves {d d' : Dev} {e c2 pc : Nat}
    (h : d' = (((d.setEng e { d.engOf e with ecause2 := c2 }).halt e 1 pc).engRec e 0x8002 5 e c2).emit (.refugeNote (pgENG e))) :
    d'.engState e = 4 ∧ d'.rd ENG_STATE_reason 0 e = 1 ∧ d'.engOf e = { d.engOf e with ecause2 := c2, pc := pc } ∧
      (∀ k, k ≠ e → d'.engOf k = d.engOf k) ∧ d'.mem = d.mem ∧ Out.refugeNote (pgENG e) ∈ d'.out := by
  obtain ⟨d₁, h₁⟩ : ∃ d₁, d₁ = d.setEng e { d.engOf e with ecause2 := c2 } := ⟨_, rfl⟩
  obtain ⟨d₂, h₂⟩ : ∃ d₂, d₂ = d₁.halt e 1 pc := ⟨_, rfl⟩
  obtain ⟨d₃, h₃⟩ : ∃ d₃, d₃ = d₂.engRec e 0x8002 5 e c2 := ⟨_, rfl⟩
  rw [← h₁, ← h₂, ← h₃] at h
  obtain ⟨heng, hregs, hmem⟩ : d₃.eng = d₂.eng ∧ d₃.regs = d₂.regs ∧ d₃.mem = d₂.mem := h₃ ▸ Dev.rated_fields ..
  have hleaves₁ : d.Leaves e { d.engOf e with ecause2 := c2 } d₁ := h₁ ▸ (Dev.Leaves.refl d e).setEng _
  have hleaves : d.Leaves e { d₁.engOf e with pc := pc } (d₁.setEng e { d₁.engOf e with pc := pc }) := hleaves₁.setEng _
  have hengOf (k : Nat) : d'.engOf k = (d₁.setEng e { d₁.engOf e with pc := pc }).engOf k := by
    simp only [Dev.engOf, h, Dev.emit_eng, heng, h₂, Dev.halt_eng]
  refine ⟨?state, ?reason, ?own, fun k hk => (hengOf k).trans (hleaves.others k hk), ?mem, ?note⟩
  case state => rw [h, Dev.engState, Dev.rd_emit, Dev.rd_of_regs hregs, h₂, ← Dev.engState, Dev.halt_engState]
  case reason => rw [h, Dev.rd_emit, Dev.rd_of_regs hregs, h₂, Dev.halt_reason]
  case own => rw [hengOf, hleaves.own, hleaves₁.own]
  case mem => rw [h, Dev.emit_mem, hmem, h₂, Dev.halt_mem, h₁, Dev.setEng_mem]
  case note =>
    rw [h, Dev.emit_out]
    exact List.mem_append_right _ (List.mem_singleton.mpr rfl)

/-- Settles O38, clause by clause: an exception that enters its handler, eret, and the one that halts the engine. -/
theorem exceptionsEnterAndReturn : Obligations.ExceptionsEnterAndReturn := by
  refine ⟨?trap, ?illegal, ?async, ?deadline, ?eret, ?user, ?double⟩
  case trap =>
    intro s e n hiss hfirst
    refine EngineStep.of_issue (fun d _ nx => d.opTrap e n nx) hiss rfl ?_
    rw [Dev.opTrap_exc, Dev.finish, if_pos rfl, Dev.syncException_first (d := s.dev.cleared) _ _ _ _ _ hfirst]
    exact Dev.Leaves.takeException ..
  case illegal =>
    intro s e w hiss hfirst hword
    obtain ⟨hon, hrun, hcause⟩ := hiss
    refine EngineStep.of_act (fun d => d.illegalIssue e w.toNat false) hon rfl ?_
    rw [Dev.illegalIssue_unknown (d := s.dev.cleared) hrun hcause hword, Dev.syncException_first (d := s.dev.cleared) _ _ _ _ _ hfirst]
    exact Dev.Leaves.takeException ..
  case async =>
    intro s e c hon hrun hcause hne
    refine EngineStep.of_act (fun d => d.asyncTake e) hon rfl ?_
    rw [Dev.asyncTake_cause (d := s.dev.cleared) hrun hcause, Dev.takeAsync_other hne]
    exact Dev.Leaves.takeException ..
  case deadline =>
    intro s e m ms hon hrun hcause hmissed
    refine EngineStep.of_act (fun d => d.asyncTake e) hon rfl ?_
    rw [Dev.asyncTake_cause (d := s.dev.cleared) hrun hcause, Dev.takeAsync_deadline (d := s.dev.cleared) hmissed]
    exact Dev.Leaves.takeException ..
  case eret =>
    intro s e hiss hsuper hgood
    refine EngineStep.of_jump (fun d _ _ => d.opEret e) hiss rfl ?_ hgood (Dev.Leaves.eretState ..) rfl
    have hsuper' : (s.dev.cleared.engOf e).super = true := hsuper
    have hgood' : s.dev.cleared.targetBad e ((s.dev.cleared.engOf e).epc : Int) = false := hgood
    simp only [Dev.opEret, hsuper', hgood', Bool.not_true, Bool.false_eq_true, if_false]
    rfl
  case user =>
    intro s e hiss huser
    have huser' : (s.dev.cleared.engOf e).super = false := huser
    refine Raises.of_exc (fun d _ _ => d.opEret e) hiss rfl (by decide) fun _ _ => ?_
    simp only [Dev.opEret, huser', Bool.not_false, if_true]
  case double =>
    intro s e n hiss hsecond
    obtain ⟨hon, hrun, hcause⟩ := hiss
    refine ⟨_, State.act_on s (fun d => d.issue e 4 (fun d _ nx => d.opTrap e n nx)) hon, ?_⟩
    rw [Dev.issue_ready s.dev.cleared e _ _ hrun hcause, Dev.opTrap_exc, Dev.finish, if_pos rfl,
      Dev.syncException_double (d := s.dev.cleared) _ _ _ _ _ hsecond]
    obtain ⟨hstate, hreason, hown, hothers, hmem, hnote⟩ := Dev.doubleFault_leaves (d := s.dev.cleared) (e := e) rfl
    refine ⟨hstate, hreason, ?_, hothers, hmem, hnote⟩
    rw [hown]
    exact ⟨rfl, rfl, rfl, rfl, hsecond, rfl, rfl, rfl⟩

end Sys2Proof.Machine
end

section
/-! SUPPORT. System registers and the registers of releases, event bits, queue readiness and the watchdog (R248, R269, R272 to R274, R277). -/

namespace Sys2Proof.Machine

open Sys2Proof

/-! ### The checks of mfs and mts (R248) -/

section
variable {d : Dev} {e sr : Nat} (r word : Nat)

theorem Dev.opMfs_unknown (hknown : knownSr sr = false) : d.opMfs e r sr word = .exc d 2 word 0 := by
  simp only [Dev.opMfs, hknown, Bool.not_false, if_true]

theorem Dev.opMfs_denied (hknown : knownSr sr = true) (hsr : 0x10 ≤ sr) (huser : (d.engOf e).super = false) :
    d.opMfs e r sr word = .exc d 3 sr 0 := by
  simp only [Dev.opMfs, hknown, hsr, huser, Bool.not_true, Bool.not_false, Bool.false_eq_true, and_self, if_true, if_false]

theorem Dev.opMfs_read (hknown : knownSr sr = true) (hperm : sr < 0x10 ∨ (d.engOf e).super = true) :
    d.opMfs e r sr word = .next ((d.readSr e sr).2.setGr e r (d.readSr e sr).1) := by
  have hallowed : ¬(0x10 ≤ sr ∧ (!(d.engOf e).super) = true) := by
    rintro ⟨hsr, huser⟩
    rcases hperm with hlow | hsuper
    · omega
    · simp [hsuper] at huser
  simp only [Dev.opMfs, hknown, Bool.not_true, Bool.false_eq_true, if_false, if_neg hallowed]

theorem Dev.opMts_denied (hknown : knownSr sr = true) (h : readOnlySr sr = true ∨ 0x10 ≤ sr ∧ (d.engOf e).super = false) :
    d.opMts e sr r word = .exc d 3 sr 0 := by
  have hdenied : (0x10 ≤ sr ∧ (!(d.engOf e).super) = true) ∨ readOnlySr sr = true := by
    rwa [Bool.not_eq_true', or_comm]
  simp only [Dev.opMts, hknown, Bool.not_true, Bool.false_eq_true, if_false, if_pos hdenied]

theorem Dev.opMts_write (hknown : knownSr sr = true) (hwritten : readOnlySr sr = false)
    (hperm : sr < 0x10 ∨ (d.engOf e).super = true) : d.opMts e sr r word = .next (d.writeSr e sr (d.gr e r)) := by
  have hallowed : ¬((0x10 ≤ sr ∧ (!(d.engOf e).super) = true) ∨ readOnlySr sr = true) := by
    rintro (⟨hsr, huser⟩ | hread)
    · rcases hperm with hlow | hsuper
      · omega
      · simp [hsuper] at huser
    · simp [hwritten] at hread
  simp only [Dev.opMts, hknown, Bool.not_true, Bool.false_eq_true, if_false, if_neg hallowed]

end

/-! ### What mfs and mts leave -/

section
variable {c : Instr} {s : State} {e : Fin 96} {sr rd rs word : Nat} {f : Eng → Eng}

/-- A read of a system register whose reading leaves the engine as `f` gives it. -/
theorem EngineStep.of_mfs {v : Eng → Word} (hiss : s.issues e)
    (hexec : exec c s = s.act (fun d => d.issue e 4 (fun d _ _ => d.opMfs e rd sr word))) (hknown : knownSr sr = true)
    (hperm : sr < 0x10 ∨ (s.dev.engOf e).super = true) (hvalue : (s.dev.cleared.readSr e sr).1 = v (s.dev.engOf e))
    (heff : s.dev.cleared.Leaves e (f (s.dev.engOf e)) (s.dev.cleared.readSr e sr).2)
    (hpc : (f (s.dev.engOf e)).pc = (s.dev.engOf e).pc) : EngineStep c s e (fun x => ((f x).write rd (v x)).past 4) := by
  refine EngineStep.of_next (g := fun x => (f x).write rd (v x)) _ hiss hexec
    (fun _ _ => Dev.opMfs_read (d := s.dev.cleared) _ _ hknown hperm) ?_ ((Eng.write_pc ..).trans hpc)
  rw [hvalue]
  exact heff.setGr _ _

/-- A write of a system register that leaves the engine as `f` gives it. -/
theorem EngineStep.of_mts (hiss : s.issues e)
    (hexec : exec c s = s.act (fun d => d.issue e 4 (fun d _ _ => d.opMts e sr rs word))) (hknown : knownSr sr = true)
    (hwritten : readOnlySr sr = false) (hperm : sr < 0x10 ∨ (s.dev.engOf e).super = true)
    (heff : s.dev.cleared.Leaves e (f (s.dev.engOf e)) (s.dev.cleared.writeSr e sr (s.dev.gr e rs)))
    (hpc : (f (s.dev.engOf e)).pc = (s.dev.engOf e).pc) : EngineStep c s e (fun x => (f x).past 4) :=
  EngineStep.of_next _ hiss hexec (fun _ _ => Dev.opMts_write (d := s.dev.cleared) _ _ hknown hwritten hperm) heff hpc

/-- A read of a system register with the effect `g` on the device. -/
theorem Gives.of_mfs {g : Dev → Word × Dev} (hiss : s.issues e)
    (hexec : exec c s = s.act (fun d => d.issue e 4 (fun d _ _ => d.opMfs e rd sr word))) (hknown : knownSr sr = true)
    (hsuper : (s.dev.engOf e).super = true) (hread : s.dev.cleared.readSr e sr = g s.dev.cleared) :
    Gives c s (fun d => ((g d).2.setGr e rd (g d).1).setPc e ((d.engOf e).pc + 4)) := by
  refine Gives.of_next (g := fun d => (g d).2.setGr e rd (g d).1) _ hiss hexec fun _ _ => ?_
  rw [Dev.opMfs_read (d := s.dev.cleared) _ _ hknown (Or.inr hsuper), hread]

/-- A write of a system register with the effect `g` on the device. -/
theorem Gives.of_mts {g : Dev → Dev} (hiss : s.issues e)
    (hexec : exec c s = s.act (fun d => d.issue e 4 (fun d _ _ => d.opMts e sr rs word))) (hknown : knownSr sr = true)
    (hwritten : readOnlySr sr = false) (hsuper : (s.dev.engOf e).super = true)
    (hwrite : s.dev.cleared.writeSr e sr (s.dev.gr e rs) = g s.dev.cleared) :
    Gives c s (fun d => (g d).setPc e ((d.engOf e).pc + 4)) := by
  refine Gives.of_next (g := g) _ hiss hexec fun _ _ => ?_
  rw [← hwrite]
  exact Dev.opMts_write (d := s.dev.cleared) _ _ hknown hwritten (Or.inr hsuper)

end

/-- The alignment of EVB and EPC (R256): the low bits of a 16-bit value dropped. -/
theorem bitsOf_aligned (n : Nat) : bitsOf n 15 2 * 4 = n / 4 * 4 % 65536 ∧ bitsOf n 15 1 * 2 = n / 2 * 2 % 65536 := by
  simp only [bitsOf, Nat.shiftRight_eq_div_pow]
  omega

/-! ### Releases (R272) -/

/-- A miss is counted and recorded; no pc moves. -/
theorem Dev.relMiss_pc (d : Dev) (k : Nat) (run : Running) (e : Nat) : ((d.relMiss k run).engOf e).pc = (d.engOf e).pc := by
  have hraise (d : Dev) (src p0 : Nat) : (d.raise src p0).eng = d.eng := by
    unfold Dev.raise
    split <;> rfl
  have hrec (d : Dev) (a code sev p0 p2 : Nat) : (d.engRec a code sev p0 p2).eng = d.eng := (Dev.rated_fields ..).1
  have heng (d₁ d₂ : Dev) (h : d₂.eng = d₁.eng) : (d₂.engOf e).pc = (d₁.engOf e).pc := by rw [Dev.engOf, h, Dev.engOf]
  have hset (d : Dev) (a : Nat) (l : List (Nat × Nat)) : ((d.setEng a { d.engOf a with missed := l }).engOf e).pc = (d.engOf e).pc := by
    rcases eq_or_ne e a with rfl | hne
    · rw [Dev.engOf_setEng_same]
    · rw [Dev.engOf_setEng_ne _ hne]
  unfold Dev.relMiss
  dsimp only
  split
  · exact (hset ..).trans (heng _ _ ((hrec ..).trans (hraise ..)))
  · exact heng _ _ ((hrec ..).trans (hraise ..))

/-- A release that ends notes first that it is late (R272). -/
def Dev.lateNoted (d : Dev) (k : Nat) (run : Running) : Dev :=
  if run.missed = false ∧ run.deadline ≤ d.tickTai then d.relMiss k run else d

theorem Dev.lateNoted_pc (d : Dev) (k : Nat) (run : Running) (e : Nat) : ((d.lateNoted k run).engOf e).pc = (d.engOf e).pc := by
  unfold Dev.lateNoted
  split
  · exact Dev.relMiss_pc ..
  · rfl

/-- Entry `k` runs no longer, and the engine's cause 0x11 of its number `i` ends. -/
def Dev.releaseEnded (d : Dev) (e k i : Nat) : Dev :=
  let x := d.engOf e
  (d.setRel k { d.relOf k with run := none }).setEng e { x with missed := x.missed.filter (fun m => m.1 != i) }

/-- What a RELDONE of the engine's own running release leaves. -/
theorem Dev.relDone_own {d : Dev} {e i : Nat} {run : Running} (hrun : (d.relOf (relKey (engClu e) i)).run = some run)
    (hown : run.engine = e) : d.relDone e i = (d.lateNoted (relKey (engClu e) i) run).releaseEnded e (relKey (engClu e) i) i := by
  have hflip : (if run.missed || decide (d.tickTai < run.deadline) then d else d.relMiss (relKey (engClu e) i) run) =
      d.lateNoted (relKey (engClu e) i) run := by
    rw [← ite_not, Dev.lateNoted]
    simp only [Bool.or_eq_true, decide_eq_true_eq, not_or, Bool.not_eq_true, Nat.not_lt]
  simp only [Dev.relDone, hrun, hown, if_true, hflip]
  rfl

theorem Dev.relDone_other {d : Dev} {e i : Nat} (h : ∀ run, (d.relOf (relKey (engClu e) i)).run = some run → run.engine ≠ e) :
    d.relDone e i = d.bump CLU_DL_bad_done 1 0 (engClu e) := by
  unfold Dev.relDone
  dsimp only
  split
  · rw [if_neg (h _ ‹_›)]
  · rfl

theorem Dev.relTask_head {d : Dev} {e : Nat} {h : RelItem} {t : List RelItem} (hq : (d.engOf e).relq = h :: t) :
    d.relTask e = (BitVec.ofNat 32 (2 ^ 31 + b2n h.late * 2 ^ 30 + min 255 h.ovr * 2 ^ 16 + h.entry * 256 + h.tag),
      d.setEng e { d.engOf e with relq := t }) := by
  simp only [Dev.relTask, hq]

/-- Settles O40, clause by clause: the check of the number and the level, then the read or the write of one register. -/
theorem systemRegisters : Obligations.SystemRegisters := by
  refine ⟨?read, ?tick, ?unknown, ?denied, ?flags, ?supervisor, ?refused, ?reltask, ?reldone, ?badDone, ?evclr, ?qrdy, ?wdkick⟩
  case read =>
    rintro s e rd ⟨sr, v⟩ hiss hperm hsr hv
    have hknown : knownSr sr = true := (List.all_eq_true (p := fun sr : Fin 1024 => knownSr sr)).mp (by decide) sr hsr
    have hread : s.dev.cleared.readSr e sr = (BitVec.ofNat 32 (v (s.dev.engOf e)), s.dev.cleared) := by
      simp only [List.mem_cons, List.not_mem_nil, or_false] at hsr
      dsimp only at hv
      rcases hsr with rfl | rfl | rfl | rfl | rfl | rfl | rfl | rfl | rfl | rfl | rfl | rfl | rfl <;> subst hv
      -- ESCR, a word already
      on_goal 11 => exact Prod.ext ((BitVec.ofNat_toNat ..).trans (BitVec.setWidth_eq _)).symm rfl
      all_goals rfl
    exact EngineStep.of_mfs (f := id) (v := fun x => BitVec.ofNat 32 (v x)) hiss rfl hknown hperm (congrArg Prod.fst hread)
      (hread ▸ .refl ..) rfl
  case tick =>
    intro s e rd hiss
    exact EngineStep.of_mfs (f := fun x => { x with tickHi := s.dev.tickTai / 2 ^ 32 }) (v := fun _ => BitVec.ofNat 32 s.dev.tickTai) hiss rfl
      (by decide) (Or.inl (by decide)) rfl ((Dev.Leaves.refl ..).setEng _) rfl
  case unknown => exact fun s e rd sr hiss hknown => Raises.of_exc _ hiss rfl (by decide) fun _ _ => Dev.opMfs_unknown _ _ hknown
  case denied =>
    exact fun s e rd sr hiss hknown hsr huser => Raises.of_exc _ hiss rfl (by decide) fun _ _ => Dev.opMfs_denied _ _ hknown hsr huser
  case refused => exact fun s e sr rs hiss hknown h => Raises.of_exc _ hiss rfl (by decide) fun _ _ => Dev.opMts_denied _ _ hknown h
  case flags =>
    intro s e rs hiss
    refine EngineStep.of_mts (f := fun x => { x with fl := (x.read rs).setWidth 5 }) hiss rfl (by decide) (by decide) (Or.inl (by decide)) ?_ rfl
    rw [← BitVec.ofNat_toNat]
    exact (Dev.Leaves.refl ..).setFlags _
  case supervisor =>
    intro s e rs hiss hsuper
    obtain ⟨hevb, hepc⟩ := bitsOf_aligned (s.dev.gr e rs).toNat
    refine ⟨?_, ?_, ?_, ?_, ?_, ?_⟩
    · refine EngineStep.of_mts (f := fun x => { x with evb := (x.read rs).toNat / 4 * 4 % 65536 }) hiss rfl (by decide) (by decide)
        (Or.inr hsuper) ?_ rfl
      rw [← Dev.gr_eq_read, ← hevb]
      exact (Dev.Leaves.refl ..).setEng _
    · refine EngineStep.of_mts (f := fun x => { x with epc := (x.read rs).toNat / 2 * 2 % 65536 }) hiss rfl (by decide) (by decide)
        (Or.inr hsuper) ?_ rfl
      rw [← Dev.gr_eq_read, ← hepc]
      exact (Dev.Leaves.refl ..).setEng _
    all_goals exact EngineStep.of_mts hiss rfl (by decide) (by decide) (Or.inr hsuper) ((Dev.Leaves.refl ..).setEng _) rfl
  case reltask =>
    intro s e rd h t hiss hsuper hq
    have hread := Dev.relTask_head (d := s.dev.cleared) hq
    exact EngineStep.of_mfs (f := fun x => { x with relq := t }) (v := fun _ => _) hiss rfl (by decide) (Or.inr hsuper) (congrArg Prod.fst hread)
      ((congrArg Prod.snd hread) ▸ (Dev.Leaves.refl ..).setEng _) rfl
  case reldone =>
    rintro s e rs k run hiss hsuper rfl hrun hown
    obtain ⟨i, hi⟩ : ∃ i, i = (s.dev.gr e rs).toNat % 64 := ⟨_, rfl⟩
    rw [← hi] at hrun ⊢
    have hnoted : Gives (.reldoneWrite e rs) s (fun d =>
        ((d.lateNoted (relKey (engClu e) i) run).releaseEnded e (relKey (engClu e) i) i).setPc e ((d.engOf e).pc + 4)) :=
      Gives.of_mts (g := fun d => (d.lateNoted _ run).releaseEnded e _ _) hiss rfl (by decide) (by decide) hsuper
        ((congrArg (Dev.relDone s.dev.cleared e) hi.symm).trans (Dev.relDone_own (d := s.dev.cleared) hrun hown))
    rw [Gives, ← Dev.lateNoted_pc _ (relKey (engClu e) i) run] at hnoted
    rw [Gives, hnoted]
    subst hi
    rfl
  case badDone =>
    exact fun s e rs hiss hsuper h => Gives.of_mts hiss rfl (by decide) (by decide) hsuper (Dev.relDone_other (d := s.dev.cleared) h)
  case evclr =>
    rintro s e rs p v hiss hsuper rfl rfl
    exact Gives.of_mts (g := fun d => d.wr CLU_PEND_bits _ 0 _) hiss rfl (by decide) (by decide) hsuper rfl
  case qrdy =>
    intro s e rd l ovr hiss hsuper hq
    refine Gives.of_mfs (g := fun d => (BitVec.ofNat 32 (b2n (!l.isEmpty) * 2 ^ 31 + b2n ovr * 2 ^ 30 + l.headD 0), d.setQrdy e (l.drop 1, false)))
      hiss rfl (by decide) hsuper ?_
    have hhead : s.dev.cleared.qrdy e = (l, ovr) := hq
    show s.dev.cleared.qrdyRead e = _
    rw [Dev.qrdyRead, hhead]
  case wdkick =>
    exact fun s e rs hiss hsuper => EngineStep.of_mts (f := fun x => { x with wdPend := false, wdAcc := 0 }) hiss rfl (by decide) (by decide)
      (Or.inr hsuper) ((Dev.Leaves.refl ..).setEng _) rfl

end Sys2Proof.Machine
end

section
/-! SUPPORT. The words of the R format, decoded at the pc of an engine (R233, R241). -/

namespace Sys2Proof.Machine

open Sys2Proof

/-- What ISSUE_GROUP does with a word of a compact page that decodes to an instruction that only computes: it issues that instruction. -/
theorem exec_issueGroup_of_word {c : Instr} {s : State} {e : Fin 96} {v : MemEnv} {op : Dev → Dev} (hiss : s.issues e)
    (hinit : s.dev.initStatus 0 = .ok) (halone : ∀ x ∈ v.atomics, x.e = e) (hwide : s.dev.widePage e (s.dev.engOf e).pc = false)
    (hnext : s.dev.widePage e ((s.dev.engOf e).pc + 2) = false) (hcode : s.dev.codeBad e (s.dev.engOf e).pc 4 = none)
    (hlow : s.dev.codeWord e (s.dev.engOf e).pc % 4 = 0) (hexec : exec c s = s.act (fun d => d.compute e 4 op))
    (hword : ∀ pc nx v, s.dev.cleared.execWord e (s.dev.codeWord e (s.dev.engOf e).pc) pc nx v = some (.next (op s.dev.cleared))) :
    exec (.issueGroup e v) s = exec c s := by
  have hhalf : s.dev.codeHalf e (s.dev.engOf e).pc % 4 = 0 := by
    rw [Dev.codeWord] at hlow
    omega
  have hissued := issueGroup_word_gives s e v _ _ hiss rfl hinit hwide halone hcode hhalf hnext (hword ..)
  have hcomputed := Gives.of_next (g := op) (fun d _ _ => .next (op d)) hiss hexec fun _ _ => rfl
  exact hissued.trans hcomputed.symm

/-- The fields of a word of the R format (R233). -/
theorem rWord_fields {w fn : Nat} {rd rs rt : Fin 32} (hfn : fn < 32) (hw : w = rd.val * 2 ^ 22 + rs.val * 2 ^ 17 + rt.val * 2 ^ 12 + fn * 4) :
    fRd w = rd ∧ fRs w = rs ∧ fRt w = rt ∧ fSa w = 0 ∧ fFn w = fn ∧ bitsOf w 31 27 = 0 ∧ w % 4 = 0 := by
  have hrd := rd.isLt
  have hrs := rs.isLt
  have hrt := rt.isLt
  simp only [fRd, fRs, fRt, fSa, fFn, bitsOf, Nat.shiftRight_eq_div_pow]
  omega

/-- A word of major 0 other than 0 is one of the R format. -/
theorem Dev.execWord_major0 (d : Dev) (e : Fin 96) {w : Nat} (pc nx : Nat) (v : MemEnv) (hmajor : bitsOf w 31 27 = 0) (hw : w / 4 ≠ 0) :
    d.execWord e w pc nx v = d.execR e w := by
  simp only [Dev.execWord, if_neg hw, hmajor]

/-- Settles O42: by the word's fields the decoder reaches the row of its fn code, which does what the instruction does. -/
theorem issuedWords : Obligations.IssuedWords := by
  rintro s e v rd rs rt ⟨fn, c⟩ hiss hinit halone hrow hne hwide hnext hcode hw
  have hfn : fn < 32 := by
    simp only [List.mem_cons, Prod.mk.injEq, List.not_mem_nil, or_false] at hrow
    omega
  obtain ⟨hrd, hrs, hrt, hsa, hfield, hmajor, hlow⟩ := rWord_fields hfn hw
  have hissue {op : Dev → Dev} (hexec : exec c s = s.act (fun d => d.compute e 4 op))
      (hfx : s.dev.cleared.execR e (s.dev.codeWord e (s.dev.engOf e).pc) = some (.next (op s.dev.cleared))) :
      exec (.issueGroup e v) s = exec c s :=
    exec_issueGroup_of_word hiss hinit halone hwide hnext hcode hlow hexec fun _ _ _ =>
      (Dev.execWord_major0 _ _ _ _ _ hmajor (by omega)).trans hfx
  simp only [Dev.execR, hrd, hrs, hrt, hsa, hfield] at hissue
  simp only [List.mem_cons, Prod.mk.injEq, List.not_mem_nil, or_false] at hrow
  rcases hrow with ⟨rfl, rfl⟩ | ⟨rfl, rfl⟩ | ⟨rfl, rfl⟩ | ⟨rfl, rfl⟩ | ⟨rfl, rfl⟩ | ⟨rfl, rfl⟩ | ⟨rfl, rfl⟩ | ⟨rfl, rfl⟩ | ⟨rfl, rfl⟩ |
    ⟨rfl, rfl⟩ | ⟨rfl, rfl⟩ | ⟨rfl, rfl⟩ | ⟨rfl, rfl⟩ | ⟨rfl, rfl⟩ | ⟨rfl, rfl⟩ | ⟨rfl, rfl⟩ | ⟨rfl, rfl⟩ | ⟨rfl, rfl⟩
  all_goals exact hissue rfl rfl

end Sys2Proof.Machine
end

section
/-! SUPPORT. The asynchronous causes of an engine, the wait for one, and O39 (R260, R262). -/

namespace Sys2Proof.Machine

open Sys2Proof

/-! ### The lowest set bit -/

theorem bitList_eq_filter (v n : Nat) : bitList v n = (List.range n).filter v.testBit := by
  induction n with
  | zero => rfl
  | succ n ih =>
    rw [bitList, ih, List.range_succ, List.filter_append]
    cases h : v.testBit n <;> simp [h]

theorem lowestBit_eq_find? (v w : Nat) : lowestBit v w = (List.range w).find? v.testBit := by
  rw [lowestBit, setBitsOf, ← List.head?_filter, ← bitList_eq_filter]
  split
  · subst v
    rw [bitList_eq_filter, List.filter_eq_nil_iff.mpr (by simp)]
  · rfl

theorem lowestBit_eq_some {v w k : Nat} :
    lowestBit v w = some k ↔ v.testBit k = true ∧ k < w ∧ ∀ j, j < k → v.testBit j = false := by
  rw [lowestBit_eq_find?, List.find?_range_eq_some]
  simp

/-- A number of `w` bits has no lowest set bit exactly where it is zero. -/
theorem lowestBit_eq_none {v w : Nat} (hv : v < 2 ^ w) : lowestBit v w = none ↔ v = 0 := by
  rw [lowestBit_eq_find?, List.find?_range_eq_none]
  refine ⟨fun h => Nat.zero_of_testBit_eq_false fun i => ?_, fun h i _ => by simp [h]⟩
  rcases Nat.lt_or_ge i w with hi | hi
  · simpa using h i hi
  · exact Nat.testBit_lt_two_pow (hv.trans_le (Nat.pow_le_pow_right (by decide) hi))

/-! ### Pending causes (R260) -/

theorem b2n_le (b : Bool) : b2n b ≤ 1 := by cases b <;> decide

section
variable (d : Dev) (e : Nat)

/-- IPEND has five bits. -/
theorem Dev.ipend_lt : d.ipend e < 2 ^ 5 := by
  have h0 := b2n_le (d.engOf e).wdPend
  have h1 := b2n_le (!(d.engOf e).missed.isEmpty)
  have h2 := b2n_le (!(d.engOf e).relq.isEmpty)
  have h3 := b2n_le (d.evPend e != 0)
  have h4 := b2n_le (!(d.qrdy e).1.isEmpty || (d.qrdy e).2)
  simp only [Dev.ipend]
  omega

theorem Dev.enabledCauses_lt : d.ipend e &&& (d.engOf e).imask < 2 ^ 5 :=
  Nat.lt_of_le_of_lt Nat.and_le_left (d.ipend_lt e)

theorem Dev.pendingCause_eq_none : d.pendingCause e = none ↔ d.ipend e &&& (d.engOf e).imask = 0 := by
  rw [Dev.pendingCause, Option.map_eq_none_iff, lowestBit_eq_none (d.enabledCauses_lt e)]

theorem Dev.pendingCause_isSome : (d.pendingCause e).isSome = true ↔ d.ipend e &&& (d.engOf e).imask ≠ 0 := by
  rw [Option.isSome_iff_ne_none, ne_eq, Dev.pendingCause_eq_none]

variable {d e}

theorem Dev.pendingCause_lowest {k : Nat} (hbit : (d.ipend e &&& (d.engOf e).imask).testBit k = true)
    (hlow : ∀ j, j < k → (d.ipend e &&& (d.engOf e).imask).testBit j = false) : d.pendingCause e = some (0x10 + k) := by
  have hk : k < 5 := (Nat.pow_lt_pow_iff_right (by decide)).mp ((Nat.ge_two_pow_of_testBit hbit).trans_lt (d.enabledCauses_lt e))
  rw [Dev.pendingCause, lowestBit_eq_some.mpr ⟨hbit, hk, hlow⟩, Option.map_some]

theorem Dev.takeable_free (haen : (d.engOf e).aen = true) (hhnd : (d.engOf e).hnd = false) : d.takeable e = d.pendingCause e := by
  simp only [Dev.takeable, haen, hhnd, Bool.not_false, Bool.and_self, if_true]

theorem Dev.takeable_held (h : (d.engOf e).aen = false ∨ (d.engOf e).hnd = true) : d.takeable e = none := by
  rcases h with h | h <;> simp [Dev.takeable, h]

variable (d e)

/-- The state of an engine is no part of its causes. -/
theorem Dev.pendingCause_setEngState (st reason : Nat) : (d.setEngState e st reason).pendingCause e = d.pendingCause e := by
  have hclu : (CLU_PEND_bits : Fld).key 0 (engClu e) ≠ (ENG_STATE_state : Fld).key 0 e := by
    simp only [Fld.key, regKey, engClu]
    omega
  have hpend : (d.setEngState e st reason).evPend e = d.evPend e := by
    rw [Dev.evPend, Dev.rd_setEngState_ne _ _ _ _ hclu]
    rfl
  rw [Dev.pendingCause, Dev.ipend, hpend]
  rfl

theorem Dev.takeable_setEngState (st reason : Nat) : (d.setEngState e st reason).takeable e = d.takeable e := by
  rw [Dev.takeable, Dev.pendingCause_setEngState]
  rfl

/-! ### Waiting and waking (R262) -/

variable {d e}

theorem Dev.opWfe_pending (h : d.ipend e &&& (d.engOf e).imask ≠ 0) : d.opWfe e = .next d :=
  if_pos ((d.pendingCause_isSome e).mpr h)

theorem Dev.opWfe_waits (h : d.ipend e &&& (d.engOf e).imask = 0) : d.opWfe e = .park (d.setEngState e 2 0) :=
  if_neg fun hsome => (d.pendingCause_isSome e).mp hsome h

theorem Dev.engWake_sleeps (h : d.ipend e &&& (d.engOf e).imask = 0) : d.engWake e = d := by
  simp only [Dev.engWake, (d.pendingCause_eq_none e).mpr h, Option.isSome_none, Bool.and_false, Bool.false_eq_true, if_false]

section
variable (hwait : d.engState e = 2) (hpend : (d.pendingCause e).isSome = true)
include hwait hpend

/-- A waiting engine with an enabled cause runs again, and takes the cause that is then takeable. -/
theorem Dev.engWake_takes {c : Nat} (hcause : d.takeable e = some c) : d.engWake e = (d.setEngState e 1 0).takeAsync e c := by
  simp only [Dev.engWake, hwait, hpend, Dev.takeable_setEngState, hcause, decide_true, Bool.and_self, if_true]

theorem Dev.engWake_goesOn (hcause : d.takeable e = none) : d.engWake e = d.setEngState e 1 0 := by
  simp only [Dev.engWake, hwait, hpend, Dev.takeable_setEngState, hcause, decide_true, Bool.and_self, if_true]

end

theorem Dev.takeAsync_bit (d : Dev) (e k : Nat) : d.takeAsync e (0x10 + k) = d.takeException e (0x10 + k)
    (if k = 1 then (match (d.engOf e).missed with | [] => 0 | m :: _ => m.1 * 256 + m.2) else 0) 0 (d.engOf e).pc := by
  by_cases hk : k = 1
  · subst hk
    rfl
  · have hcause : 0x10 + k ≠ 0x11 := by omega
    simp only [Dev.takeAsync, if_neg hk, if_neg hcause]

end

/-- Settles O39, clause by clause: wfe with a cause and without one, and a waiting engine that sleeps on, takes its cause, or goes on. -/
theorem waitForEvent : Obligations.WaitForEvent := by
  refine ⟨?completes, ?waits, ?sleeps, ?takes, ?goesOn⟩
  case completes =>
    intro s e hiss hpend
    exact EngineStep.of_next (g := id) (fun d _ _ => d.opWfe e) hiss rfl (fun _ _ => Dev.opWfe_pending (d := s.dev.cleared) hpend)
      (.refl ..) rfl
  case waits =>
    intro s e hiss hnone
    refine Gives.of_issue (fun d _ _ => d.opWfe e) hiss rfl ?_
    rw [Dev.opWfe_waits (d := s.dev.cleared) hnone]
    exact Dev.setPc_mod ..
  case sleeps =>
    intro s e hon _ hnone
    exact Gives.of_act (fun d => d.engWake e) hon rfl (Dev.engWake_sleeps (d := s.dev.cleared) hnone)
  case takes =>
    intro s e k hon hwait hbit hlow haen hhnd
    have hcause := Dev.pendingCause_lowest (d := s.dev.cleared) hbit hlow
    have htake := (Dev.takeable_free (d := s.dev.cleared) haen hhnd).trans hcause
    exact Gives.of_act (fun d => d.engWake e) hon rfl
      ((Dev.engWake_takes (d := s.dev.cleared) hwait (Option.isSome_of_eq_some hcause) htake).trans (Dev.takeAsync_bit ..))
  case goesOn =>
    intro s e hon hwait hpend hheld
    exact Gives.of_act (fun d => d.engWake e) hon rfl (Dev.engWake_goesOn (d := s.dev.cleared) hwait
      ((Dev.pendingCause_isSome ..).mpr hpend) (Dev.takeable_held (d := s.dev.cleared) hheld))

end Sys2Proof.Machine
end

section
/-! SUPPORT. ENG_RUN and ENG_WORLD, the end of a clear, the expiries of the watchdog, and O43 (R249, R252 to R255, R273). -/

namespace Sys2Proof.Machine

open Sys2Proof

/-! ### Registers of an engine's page -/

/-- A write of a register of an engine's page that answers ST_OK. -/
theorem Effects.of_engWrite {c : Instr} {s : State} {f : Dev → Dev} {r : Req} {e : Fin 96} {off v : Nat}
    (hacc : s.accepts r (pgENG e) off) (hoff : 0x040 ≤ off ∧ off < 0x800) (hexec : exec c s = s.write r (pgENG e) off v)
    (heff : s.dev.cleared.engPageWrite e off v = (.ok, f s.dev.cleared)) : Effects c s (pgENG e) f := by
  have hpage : ∀ e : Fin 96, pageBlock (pgENG e) = some (.eng, e.val) ∧ lockPages.contains (pgENG e) = false := by decide +kernel
  exact Effects.of_blockWrite v hacc (hpage e).1 (hpage e).2 hoff hexec heff

/-! ### Start and freeze (R252 to R254) -/

section
variable {d : Dev} {e : Nat}

theorem Dev.engStart_stopped (hstate : d.engState e = 0) (hworld : d.engWorld e ≠ 0) (hbusy : d.flag STATUS_busy 0 (pgENG e) = false) :
    d.engStart e = (.ok, (d.engFresh e).setEngState e 1 0) := by
  simp only [Dev.engStart, hstate, hworld, hbusy, Bool.false_eq_true, or_self, if_false]

section
variable (hstate : d.engState e = 5) (hreason : d.rd ENG_STATE_reason 0 e = 3)
include hstate hreason

/-- An engine frozen by ENG_RUN goes on in the state it was frozen in. -/
theorem Dev.engStart_frozen (hthaw : (d.engOf e).thaw ≠ 3) : d.engStart e =
    (.ok, (d.setEng e { d.engOf e with wdAcc := 0, thaw := 0, gate := none }).setEngState e (d.engOf e).thaw 0) := by
  simp only [Dev.engStart, hstate, hreason, ne_eq, not_true, if_false, if_neg hthaw]

/-- One that was frozen in a gate call goes on with the call ended. -/
theorem Dev.engStart_frozenInGate (hthaw : (d.engOf e).thaw = 3) : d.engStart e =
    (.ok, ((d.setEng e { d.engOf e with wdAcc := 0, thaw := 0, gate := none }).setGr e 2
      (BitVec.ofNat 32 Status.aborted.code)).setEngState e 1 0) := by
  simp only [Dev.engStart, hstate, hreason, ne_eq, not_true, if_false, if_pos hthaw]

end

theorem Dev.engFreeze_active (reason : Nat) (hstopped : d.engState e ≠ 0) (hfrozen : d.engState e ≠ 5) : d.engFreeze e reason =
    ((d.setEng e { d.engOf e with thaw := d.engState e, gate := none }).setEngState e 5 reason).wr ENG_PC_pc (d.engOf e).pc 0 e :=
  if_neg (not_or.mpr ⟨hstopped, hfrozen⟩)

theorem Dev.engFreeze_idle (reason : Nat) (h : d.engState e = 0 ∨ d.engState e = 5) : d.engFreeze e reason = d := if_pos h

end

/-! ### A new world (R249) -/

/-- The instruction and data memory of engine `e` forgotten, with what was uncorrectable in them. -/
def Dev.engForget (d : Dev) (e : Nat) : Dev :=
  { d with mem := memForget d.mem (engBase e) (engBase e + 0x40000)
           bad := d.bad.drop (fun a => decide (engBase e ≤ a) && decide (a < engBase e + 0x40000)) }

/-- A stopped engine takes any world but the reserved one, and its clear runs. -/
theorem Dev.engWorldWrite_stopped {d : Dev} {e v : Nat} (hstate : d.engState e = 0) (hworld : v % 4 ≠ 3) :
    d.engWorldWrite e v = (.ok, ((d.plainWrite (pgENG e) 0x040 v).2.engForget e).wr STATUS_busy 1 0 (pgENG e)) := by
  simp only [Dev.engWorldWrite, hstate, hworld, pickStatus, if_true, if_false, ne_eq, not_true]
  rfl

/-! ### The watchdog (R273) -/

section
variable {d : Dev} {e : Nat} (hen : d.flag ENG_WDT_en 0 e = true) (hdue : d.wdPeriod e ≤ (d.engOf e).wdAcc)
include hen hdue

/-- What an expiry does: the period is taken off the count and the cause stands; where it stood already and the engine is in no gate
call, the engine halts. -/
theorem Dev.wdExpire_due (hcounts : d.engState e = 1 ∨ d.engState e = 2 ∨ d.engState e = 3) : d.wdExpire e =
    (let x := d.engOf e
     let d' := d.setEng e { x with wdAcc := x.wdAcc - d.wdPeriod e, wdPend := true }
     if x.wdPend = true ∧ d.engState e ≠ 3 then ((d'.halt e 2 x.pc).engRec e 0x8003 5 e x.pc).emit (.refugeNote (pgENG e)) else d') := by
  have hstate : (d.engState e == 1 || d.engState e == 2 || d.engState e == 3) = true := by
    rcases hcounts with h | h | h <;> rw [h] <;> rfl
  simp only [Dev.wdExpire, hen, decide_eq_true hdue, hstate, Bool.and_self, Bool.not_true, Bool.or_self, Bool.false_eq_true, if_false]
  rfl

theorem Dev.wdExpire_pends (hcounts : d.engState e = 1 ∨ d.engState e = 2 ∨ d.engState e = 3)
    (h : (d.engOf e).wdPend = false ∨ d.engState e = 3) :
    d.wdExpire e = d.setEng e { d.engOf e with wdAcc := (d.engOf e).wdAcc - d.wdPeriod e, wdPend := true } := by
  rw [Dev.wdExpire_due hen hdue hcounts]
  refine if_neg fun ⟨hpend, hgate⟩ => h.elim (fun hfirst => ?_) hgate
  exact Bool.false_ne_true (hfirst.symm.trans hpend)

theorem Dev.wdExpire_halts (hstate : d.engState e = 1 ∨ d.engState e = 2) (hpend : (d.engOf e).wdPend = true) : d.wdExpire e =
    (((d.setEng e { d.engOf e with wdAcc := (d.engOf e).wdAcc - d.wdPeriod e, wdPend := true }).halt e 2 (d.engOf e).pc).engRec e 0x8003 5 e
      (d.engOf e).pc).emit (.refugeNote (pgENG e)) := by
  rw [Dev.wdExpire_due hen hdue (hstate.imp_right .inl)]
  exact if_pos ⟨hpend, by omega⟩

end

/-- Settles O43, clause by clause: the cases of start and freeze, stop, a new world and the end of its clear, and the two expiries. -/
theorem engineControlCompletes : Obligations.EngineControlCompletes := by
  refine ⟨?start, ?thaw, ?thawGate, ?stop, ?freeze, ?freezeIdle, ?world, ?cleared, ?pends, ?halts⟩
  case start =>
    intro s r e hacc hstate hworld hbusy
    exact Effects.of_engWrite hacc (by decide) rfl (Dev.engStart_stopped (d := s.dev.cleared) hstate hworld hbusy)
  case thaw =>
    intro s r e hacc hstate hreason hthaw
    exact Effects.of_engWrite hacc (by decide) rfl (Dev.engStart_frozen (d := s.dev.cleared) hstate hreason hthaw)
  case thawGate =>
    intro s r e hacc hstate hreason hthaw
    exact Effects.of_engWrite hacc (by decide) rfl (Dev.engStart_frozenInGate (d := s.dev.cleared) hstate hreason hthaw)
  case stop =>
    intro s r e hacc
    exact Effects.of_engWrite hacc (by decide) rfl rfl
  case freeze =>
    intro s r e hacc hstopped hfrozen
    exact Effects.of_engWrite hacc (by decide) rfl
      (congrArg (Prod.mk Status.ok) (Dev.engFreeze_active (d := s.dev.cleared) 3 hstopped hfrozen))
  case freezeIdle =>
    intro s r e hacc hidle
    exact Effects.of_engWrite hacc (by decide) rfl (congrArg (Prod.mk Status.ok) (Dev.engFreeze_idle (d := s.dev.cleared) 3 hidle))
  case world =>
    intro s r e v hacc hstate hv
    have hworld : v.toNat % 4 ≠ 3 := by bv_omega
    exact Effects.of_engWrite hacc (by decide) rfl (Dev.engWorldWrite_stopped (d := s.dev.cleared) hstate hworld)
  case cleared =>
    intro s e hon
    exact Gives.of_act (fun d => d.engCleared e) hon rfl rfl
  case pends =>
    intro s e hon hen hcounts hdue h
    refine EngineStep.of_act (fun d => d.wdExpire e) hon rfl ?_
    rw [Dev.wdExpire_pends (d := s.dev.cleared) hen hdue hcounts h]
    exact (Dev.Leaves.refl ..).setEng _
  case halts =>
    intro s e hon hen hstate hdue hpend
    exact Gives.of_act (fun d => d.wdExpire e) hon rfl (Dev.wdExpire_halts (d := s.dev.cleared) hen hdue hstate hpend)

end Sys2Proof.Machine
end

section
/-! SUPPORT. Reset words, what a soft reset leaves of a page's registers, and O13 (R288, R546). -/

namespace Sys2Proof.Machine

open Sys2Proof

/-! ### Reset words -/

/-- Every register's reset word fits the register. -/
theorem findReg_resetWord_lt {b : Blk} {off : Nat} {g : RegDesc} (h : findReg b off = some g) : g.resetWord < 2 ^ 32 := by
  have hheader : ∀ g ∈ headerRegs, g.resetWord < 2 ^ 32 := by decide +kernel
  have hblock : ∀ b, ∀ g ∈ regsOf b, g.resetWord < 2 ^ 32 := by
    intro b
    cases b <;> decide +kernel
  unfold findReg at h
  split at h
  · exact hheader g (List.mem_of_find?_eq_some h)
  · exact hblock b g (List.mem_of_find?_eq_some h)

/-- The number of a page among those of its block lies below their count. -/
theorem pageBlock_inst_lt {page inst : Nat} {b : Blk} (h : pageBlock page = some (b, inst)) : inst < b.count := by
  obtain ⟨b', hfind, hpair⟩ := Option.map_eq_some_iff.mp h
  obtain ⟨rfl, rfl⟩ := Prod.mk.inj hpair
  have hrange := List.find?_some hfind
  rw [Bool.and_eq_true, decide_eq_true_eq, decide_eq_true_eq] at hrange
  omega

theorem resetOfKey_lt (key : Nat) : resetOfKey key < 2 ^ 32 := by
  unfold resetOfKey
  dsimp only
  split
  next => decide
  next b inst hb =>
    split
    next =>
      have hinst := pageBlock_inst_lt hb
      have htype : b.type ≤ 0xFFFF ∧ b.count ≤ 96 := by cases b <;> decide
      omega
    next =>
      split
      · decide
      · split
        · decide
        next hg => exact findReg_resetWord_lt hg

/-! ### Soft reset -/

/-- An entry that a table drops reads as the default. -/
theorem Tbl.get_drop_named {α : Type} (t : Tbl α) {p : Nat → Bool} {k : Nat} (h : p k = true) (v : α) : (t.drop p).get k v = v := by
  induction t with
  | nil => rfl
  | cons e t ih =>
    unfold Tbl.drop at ih ⊢
    rw [List.filter_cons]
    split
    next hkept =>
      have hne : k ≠ e.1 := by
        rintro rfl
        simp [h] at hkept
      rw [Tbl.get_cons, if_neg hne, ih]
    next => exact ih

/-- Settles O13: the reset drops the register's entry, and the reset word that then shows fits a register. -/
theorem softResetRegisters : Obligations.SoftResetRegisters := by
  intro d b page key hpage hacc hlock _ hkeeps
  have hdropped : (keyPage key == page && !(keyOff key == 0x020 || keyOff key == 0x024 ||
      (softKeeps b (keyOff key) && decide (0x040 ≤ keyOff key)))) = true := by
    simp [hpage, hacc, hlock, hkeeps]
  rw [Dev.word, Dev.pageRegsReset, Tbl.get_drop_named _ hdropped]
  exact Nat.mod_eq_of_lt (resetOfKey_lt key)

end Sys2Proof.Machine
end

section
/-! SUPPORT. What an access to memory leaves as it was (R287, R294, R300, R303). -/

namespace Sys2Proof.Machine

open Sys2Proof

/-- What an access to memory leaves as it was, whatever it finds there: the free values, the Refuge, the pipelines, and what is known of the copies
of registers. -/
structure Dev.BesideMemoryKept (d d' : Dev) : Prop where
  draws : d'.draws = d.draws
  rfg : d'.rfg = d.rfg
  cpl : d'.cpl = d.cpl
  shadow : d'.shadow = d.shadow
  shadowSeen : d'.shadowSeen = d.shadowSeen

namespace Dev.BesideMemoryKept

protected theorem refl (d : Dev) : d.BesideMemoryKept d := ⟨rfl, rfl, rfl, rfl, rfl⟩

section
variable {d d' d'' : Dev} (h : d.BesideMemoryKept d')
include h

protected theorem trans (h' : d'.BesideMemoryKept d'') : d.BesideMemoryKept d'' :=
  ⟨h'.draws.trans h.draws, h'.rfg.trans h.rfg, h'.cpl.trans h.cpl, h'.shadow.trans h.shadow, h'.shadowSeen.trans h.shadowSeen⟩

theorem ite {c : Prop} [Decidable c] (h' : d.BesideMemoryKept d'') : d.BesideMemoryKept (if c then d' else d'') := by
  split
  · exact h
  · exact h'

/-! ### Faults (R287, R303) -/

theorem wr (f : Fld) (v k p : Nat) : d.BesideMemoryKept (d'.wr f v k p) := h.trans ⟨rfl, rfl, rfl, rfl, rfl⟩

theorem level (src : Nat) (b : Bool) (p : P3) : d.BesideMemoryKept (d'.level src b p) := h.trans ⟨rfl, rfl, rfl, rfl, rfl⟩

theorem raise (src p0 p1 p2 : Nat) : d.BesideMemoryKept (d'.raise src p0 p1 p2) := by
  unfold Dev.raise
  exact ite h (h.trans ⟨rfl, rfl, rfl, rfl, rfl⟩)

theorem msix (v : Nat) : d.BesideMemoryKept (d'.msix v) := by
  unfold Dev.msix
  split
  · exact h.trans ⟨rfl, rfl, rfl, rfl, rfl⟩
  · exact ite h (h.trans ⟨rfl, rfl, rfl, rfl, rfl⟩)

theorem irq (page bit : Nat) : d.BesideMemoryKept (d'.irq page bit) := by
  unfold Dev.irq Dev.irqNote
  exact ite (List.foldlRecOn _ _ (wr h ..) fun _ hkept v _ => msix hkept v) (wr h ..)

theorem setFault (page : Nat) : d.BesideMemoryKept (d'.setFault page) := by
  unfold Dev.setFault
  exact ite h (irq (wr h ..) ..)

theorem faultInfo (page kind at_ : Nat) (st : Status) (requester : Nat) :
    d.BesideMemoryKept (d'.faultInfo page kind at_ st requester) := by
  have hfault := setFault h page
  unfold Dev.faultInfo
  exact ite hfault (wr (wr (wr (wr (wr hfault ..) ..) ..) ..) ..)

theorem memFault (c a kind requester : Nat) : d.BesideMemoryKept (d'.memFault c a kind requester) := by
  unfold Dev.memFault
  refine ite (raise (faultInfo (wr (wr (ite ?_ ?_) ..) ..) ..) ..) (raise (faultInfo h ..) ..)
  · exact wr h ..
  · exact wr (wr (wr (wr h ..) ..) ..) ..

theorem rowFault (cls page row requester : Nat) : d.BesideMemoryKept (d'.rowFault cls page row requester) := by
  have hraised := raise (faultInfo h page 1 (rowBank row) .faultDetected requester) (64 + cls) page 0 requester
  unfold Dev.rowFault
  exact ite (level hraised ..) hraised

theorem parityError (page seg addr requester : Nat) : d.BesideMemoryKept (d'.parityError page seg addr requester) := raise (faultInfo h ..) ..

/-! ### Reads and writes of memory (R294, R300) -/

theorem cacheUse (k level i : Nat) (write : Bool) : d.BesideMemoryKept (Dev.cacheUse k d' level i write) := by
  induction k generalizing d' level i write with
  | zero => exact h
  | succ k ih =>
    rw [Dev.cacheUse]
    refine ite h ?_
    extract_lets place old l j dBack dNext
    have hcounted : d.BesideMemoryKept ((d'.lineStored l j).countLine l j) := h.trans ⟨rfl, rfl, rfl, rfl, rfl⟩
    have hback : d.BesideMemoryKept dBack := ite (ih hcounted ..) h
    have hnext : d.BesideMemoryKept dNext := ih hback ..
    split
    · exact h.trans ⟨rfl, rfl, rfl, rfl, rfl⟩
    · exact hnext.trans ⟨rfl, rfl, rfl, rfl, rfl⟩

theorem lineUsed (write : Bool) (a : Nat) : d.BesideMemoryKept (d'.lineUsed write a) := by
  have hcounted (i : Nat) : d.BesideMemoryKept (d'.countLine 0 i) := h.trans ⟨rfl, rfl, rfl, rfl, rfl⟩
  unfold Dev.lineUsed
  exact ite h (cacheUse (ite (hcounted _) h) ..)

theorem linesUsed (write : Bool) (ws : List Nat) : d.BesideMemoryKept (ws.foldl (fun d w => d.lineUsed write w) d') :=
  List.foldlRecOn _ _ h fun _ hkept w _ => lineUsed hkept write w

theorem linesRead (c : Nat) (ws : List Nat) : d.BesideMemoryKept (d'.linesRead c ws) := by
  unfold Dev.linesRead
  exact ite (linesUsed h ..) h

theorem wordsWritten (c : Nat) (ws : List Nat) : d.BesideMemoryKept (d'.wordsWritten c ws) := by
  unfold Dev.wordsWritten
  extract_lets dGood dMarked
  have hgood : d.BesideMemoryKept dGood := h.trans ⟨rfl, rfl, rfl, rfl, rfl⟩
  have hmarked : d.BesideMemoryKept dMarked := by
    unfold dMarked
    split
    · exact hgood.trans ⟨rfl, rfl, rfl, rfl, rfl⟩
    · exact hgood
  exact ite (linesUsed hmarked ..) hmarked

theorem hwLoad (who a n : Nat) : d.BesideMemoryKept (d'.hwLoad who a n).2.2 := by
  unfold Dev.hwLoad
  split
  · exact h
  · dsimp only
    split
    · exact h
    · split
      · exact parityError h ..
      · split
        · exact rowFault h ..
        · split
          · exact memFault h ..
          · exact linesRead h ..

theorem hwStore (who a : Nat) (bs : List Byte) : d.BesideMemoryKept (d'.hwStore who a bs).2 := by
  unfold Dev.hwStore
  split
  · exact h
  · dsimp only
    split
    · exact h
    · split
      · exact parityError h ..
      · split
        · exact rowFault h ..
        · split
          · exact memFault h ..
          · exact (wordsWritten h ..).trans ⟨rfl, rfl, rfl, rfl, rfl⟩

/-! ### What a dump reads (R424)

The places and sizes of a dump's reads are large literals. The proofs put a variable for the read itself, whose effect alone they use: the kernel
would otherwise evaluate the read. -/

theorem dumpRead (a n : Nat) : d.BesideMemoryKept (d'.dumpRead a n).2 := by
  unfold Dev.dumpRead
  dsimp only
  split
  · exact hwLoad h ..
  · exact List.foldlRecOn (motive := fun acc : List Byte × Dev => d.BesideMemoryKept acc.2) _ _ h fun _ hkept w _ => hwLoad hkept ..

theorem dumpPlain (e : Nat) : d.BesideMemoryKept (d'.dumpPlain e).2 := by
  have hread := @dumpRead d
  rw [show Dev.dumpPlain = _ by delta Dev.dumpPlain; rfl]
  obtain ⟨read, heq⟩ : ∃ read, read = Dev.dumpRead := ⟨_, rfl⟩
  rw [← heq] at hread ⊢
  dsimp only
  exact hread (hread (hread h ..) ..) ..

theorem dumpValid (k : Nat) : d.BesideMemoryKept (d'.dumpValid k).2.2 := by
  have hload := @hwLoad d
  rw [show Dev.dumpValid = _ by delta Dev.dumpValid; rfl]
  obtain ⟨load, heq⟩ : ∃ load, load = Dev.hwLoad := ⟨_, rfl⟩
  rw [← heq] at hload ⊢
  dsimp only
  split
  · exact hload h ..
  · exact hload (hload h ..) ..

theorem dumpSlot : d.BesideMemoryKept d'.dumpSlot.2 := by
  have hvalid := @dumpValid d
  rw [show Dev.dumpSlot = _ by delta Dev.dumpSlot; rfl]
  obtain ⟨valid, heq⟩ : ∃ valid, valid = Dev.dumpValid := ⟨_, rfl⟩
  rw [← heq] at hvalid ⊢
  dsimp only
  exact hvalid (hvalid h _) _

end

end Dev.BesideMemoryKept

end Sys2Proof.Machine
end

section
/-! SUPPORT. The check of a page's inverted copies, and O14 (R289). -/

namespace Sys2Proof.Machine

open Sys2Proof

section
variable (d : Dev) (page off requester : Nat)

/-- A mismatch that is found changes no copy, and is known from then on. -/
theorem Dev.shadowFinding_copies : (d.shadowFinding page off requester).shadow = d.shadow ∧ (d.shadowFinding page off requester).shadowSeen =
    if regKey page off ∈ d.shadowSeen then d.shadowSeen else regKey page off :: d.shadowSeen := by
  unfold Dev.shadowFinding
  extract_lets count dCount dOffset dInfo dSeen
  have hcount : d.BesideMemoryKept dCount := .wr (.refl d) ..
  have hinfo : d.BesideMemoryKept dInfo := .faultInfo (.ite hcount (.wr (.wr hcount ..) ..)) ..
  have hseen : dSeen.shadow = d.shadow ∧ dSeen.shadowSeen =
      if regKey page off ∈ d.shadowSeen then d.shadowSeen else regKey page off :: d.shadowSeen := by
    rw [← hinfo.shadow, ← hinfo.shadowSeen]
    unfold dSeen
    split <;> exact ⟨rfl, rfl⟩
  split
  · have hraised (src p0 p1 p2 : Nat) : dSeen.BesideMemoryKept (dSeen.raise src p0 p1 p2) := .raise (.refl dSeen) ..
    rwa [(hraised ..).shadow, (hraised ..).shadowSeen]
  · exact hseen

theorem Dev.mem_shadowSeen_shadowFinding (k : Nat) :
    k ∈ (d.shadowFinding page off requester).shadowSeen ↔ k = regKey page off ∨ k ∈ d.shadowSeen := by
  rw [(d.shadowFinding_copies page off requester).2]
  split
  next hknown => exact ⟨.inr, fun h => h.elim (fun heq => heq ▸ hknown) id⟩
  next => exact List.mem_cons

end

/-- The mismatches that a check of a page finds, one after another. -/
theorem Dev.shadowFindings_shadow (d : Dev) (page : Nat) (keys : List Nat) :
    (keys.foldl (fun d k => d.shadowFinding page (keyOff k) 0xFF) d).shadow = d.shadow :=
  List.foldlRecOn (motive := fun d' : Dev => d'.shadow = d.shadow) _ _ rfl fun _ hkept _ _ => (Dev.shadowFinding_copies ..).1.trans hkept

theorem regKey_keyOff (k : Nat) : regKey (k / 1024) (keyOff k) = k := by
  unfold regKey keyOff
  omega

theorem Dev.mem_shadowSeen_shadowFindings {k : Nat} (keys : List Nat) (d : Dev) (h : k ∈ d.shadowSeen ∨ k ∈ keys) :
    k ∈ (keys.foldl (fun d j => d.shadowFinding (k / 1024) (keyOff j) 0xFF) d).shadowSeen := by
  induction keys generalizing d with
  | nil => exact h.resolve_right List.not_mem_nil
  | cons j keys ih =>
    refine ih _ ?_
    rw [Dev.mem_shadowSeen_shadowFinding]
    obtain hknown | hmem := h
    · exact .inl (.inr hknown)
    · obtain rfl | hmem := List.mem_cons.mp hmem
      · exact .inl (.inl (regKey_keyOff k).symm)
      · exact .inr hmem

/-- Settles O14: a check keeps the copies as they are, and each mismatch of the page was known before or is found now. -/
theorem shadowCheckFindsAll : Obligations.ShadowCheckFindsAll := by
  intro d page hits k hk hpage
  subst hpage
  unfold Dev.shadowCheck at hk ⊢
  dsimp only at hk ⊢
  generalize hits.foldl (fun d h => d.flip (k / 1024) h.1 h.2) d = flipped at hk ⊢
  rw [Dev.shadowFindings_shadow] at hk
  refine Dev.mem_shadowSeen_shadowFindings _ flipped ?_
  by_cases hknown : k ∈ flipped.shadowSeen
  · exact .inl hknown
  · exact .inr (List.mem_filter.mpr ⟨hk, by simp [hknown]⟩)

end Sys2Proof.Machine
end

section
/-! SUPPORT. How many requests the DRBG has served, the fatal dump, and the refutation of O45 (R27, R309, R363, R424). -/

namespace Sys2Proof.Machine

open Sys2Proof

/-! ### Requests of the DRBG -/

/-- CP7 runs no job, and all values drawn but `c` are answers of the DRBG since its last reseed, `n` of them at most. -/
structure Dev.Requested (d : Dev) (c n : Nat) : Prop where
  idle : (d.cplOf 7).job = none
  draws : d.draws = d.rfg.trnReqs + c
  reqs : d.rfg.trnReqs ≤ n

namespace Dev.Requested

section
variable {d d' : Dev} {c n : Nat} (h : d.Requested c n)
include h

theorem of_kept (hkept : d.BesideMemoryKept d') : d'.Requested c n := by
  obtain ⟨hdraws, hrfg, hcpl, _, _⟩ := hkept
  refine ⟨?_, ?_, ?_⟩
  · rw [Dev.cplOf, hcpl]
    exact h.idle
  · rw [hdraws, hrfg]
    exact h.draws
  · rw [hrfg]
    exact h.reqs

theorem weaken {m : Nat} (hle : n ≤ m) : d.Requested c m := ⟨h.idle, h.draws, h.reqs.trans hle⟩

/-- A pipeline's state changes, but CP7 starts no job. -/
theorem setCpl (x : Cpl) (hx : x.job = none) : (d.setCpl 7 x).Requested c n :=
  ⟨by rw [Dev.setCpl, Dev.cplOf, Tbl.get_set_same, hx], h.draws, h.reqs⟩

theorem wr (f : Fld) (v k p : Nat) : (d.wr f v k p).Requested c n := of_kept h (.wr (.refl d) ..)

theorem drbg (hn : n < 65536) : d.drbg.2.Requested c (n + 1) := by
  obtain ⟨hidle, hdraws, hreqs⟩ := h
  rw [Dev.drbg, if_neg (by omega)]
  refine ⟨hidle, ?_, ?_⟩
  · show d.draws + 1 = d.rfg.trnReqs + 1 + c
    omega
  · exact Nat.succ_le_succ hreqs

theorem cplSeed (hn : n < 65536) : (d.cplSeed 7).Requested c (n + 1) := by
  have hdrbg := drbg h hn
  exact wr (setCpl hdrbg { d.drbg.2.cplOf 7 with gen := d.drbg.1 % 2 ^ 256 } hdrbg.idle) ..

theorem cplClear (hn : n < 65536) : (d.cplClear 7).Requested c (n + 1) := by
  unfold Dev.cplClear
  extract_lets dReset dSeeded
  have hreset : dReset.Requested c n := setCpl (d := d.resetRegs (pgCPL 7) 0x040 0x0A4) ⟨h.idle, h.draws, h.reqs⟩ _ rfl
  have hseeded : dSeeded.Requested c (n + 1) := by
    unfold dSeeded
    split
    · exact cplSeed hreset hn
    · exact weaken hreset (Nat.le_succ n)
  exact wr (wr hseeded ..) ..

/-- A change of owner of CP7 draws at most the reseed of its generator. -/
theorem lockChange (new : Nat) (hn : n < 65536) : (d.lockChange (pgCPL 7) new).Requested c (n + 1) := by
  have hjobs : d.lockEndJobs (pgCPL 7) = d := by
    rw [Dev.lockEndJobs, if_neg (by decide), if_neg (by decide), show pgCPL 7 - 0x070 = 7 from rfl, Dev.cplRelease, h.idle]
  have hwipe : d.lockWipe (pgCPL 7) = d.cplClear 7 := by
    rw [Dev.lockWipe, if_neg (by decide), if_neg (by decide), show pgCPL 7 - 0x070 = 7 from rfl]
  rw [Dev.lockChange, hjobs, hwipe]
  exact of_kept (wr (cplClear h hn) LOCK_owner new 0 (pgCPL 7)) ⟨rfl, rfl, rfl, rfl, rfl⟩

theorem randomBytes (len : Nat) (hn : n < 65536) : (d.randomBytes len).2.Requested c (n + 1) := drbg h hn

theorem dumpSlot : d.dumpSlot.2.Requested c n := of_kept h (.dumpSlot (.refl d))

theorem dumpPlain (e : Nat) : (d.dumpPlain e).2.Requested c n := of_kept h (.dumpPlain (.refl d) e)

theorem hwStore (who a : Nat) (bs : List Byte) : (d.hwStore who a bs).2.Requested c n := of_kept h (.hwStore (.refl d) who a bs)

/-- A dump asks the DRBG for its key and for the nonce that wraps it. As above, variables stand for what reads and writes memory. -/
theorem dumpWrite (x : DumpReq) (k : Nat) (hn : n + 1 < 65536) : (d.dumpWrite x k).Requested c (n + 2) := by
  have hslot := @dumpSlot
  have hplain := @dumpPlain
  have hstore := @hwStore
  rw [show Dev.dumpWrite = _ by delta Dev.dumpWrite; rfl]
  obtain ⟨slot, hslotEq⟩ : ∃ slot, slot = Dev.dumpSlot := ⟨_, rfl⟩
  obtain ⟨plain, hplainEq⟩ : ∃ plain, plain = Dev.dumpPlain := ⟨_, rfl⟩
  obtain ⟨store, hstoreEq⟩ : ∃ store, store = Dev.hwStore := ⟨_, rfl⟩
  rw [← hslotEq] at hslot ⊢
  rw [← hplainEq] at hplain ⊢
  rw [← hstoreEq] at hstore ⊢
  dsimp only
  have hkey := randomBytes h 32 (by omega)
  have hnonce := randomBytes (hplain (hslot hkey) x.engine) 12 hn
  exact wr (wr (wr (hstore (hstore hnonce ..) ..) ..) ..) ..

end

theorem unique {d : Dev} {c c' n n' : Nat} (h : d.Requested c n) (h' : d.Requested c' n') : c = c' := by
  have hdraws := h.draws
  have hdraws' := h'.draws
  omega

end Dev.Requested

/-! ### The fatal dump (R424) -/

/-- FATAL_DUMP writes the first dump once its record has its number and CP7 is free, and gives CP7 back. The Refuge's state goes into the dump
as it was before CP7 changed hands. -/
theorem Dev.fatalDump_dumps {d : Dev} {x : DumpReq} {l : List DumpReq} {n : Nat} (hdumps : d.rfg.dumps = x :: l) (hwritten : x.written ≠ none)
    (hnum : x.num = some n) (hcard : x.card = false) (hen : d.flag EVR_DUMP_en = true) (hkey : (d.slotOf 8).type ≠ 0)
    (hfree : d.rd LOCK_owner 0 (pgCPL 7) = 0xFF) (hready : d.flag TRN_STAT_drbg_ready = true) :
    d.fatalDump = (({ d.lockChange (pgCPL 7) 0x0E with rfg := { d.rfg with dumps := l } } : Dev).dumpWrite x n).lockChange (pgCPL 7) 0xFF := by
  have hopen : x.written.isNone = false := Option.isNone_eq_false_iff.mpr (Option.isSome_iff_ne_none.mpr hwritten)
  have hslot : ((d.slotOf 8).type == 0) = false := beq_false_of_ne hkey
  simp only [Dev.fatalDump, hdumps, hen, hslot, hopen, hnum, hcard, hfree, hready, Bool.not_true, Bool.or_self, Bool.false_eq_true, ne_eq, not_true,
    false_and, if_false]

/-- The request of a dump whose record is written and numbered. -/
def numberedDump : DumpReq :=
  { engine := 0, trigger := 0, reason := 0, card := false, at_ := 0, since := 0, num := some 9
    written := some (({} : Dev).mkRec 0xF020 7 3 0x7E ⟨0, 1, 0⟩) }

/-- A device whose next dump can be written: it has a region, a transport key and a DRBG that serves, and CP7 is free. -/
def dumpWaits : State :=
  { State.reset with dev := (({ State.reset.dev with vault := [(8, { attr := 3 * 2 ^ 28 })], rfg := { dumps := [numberedDump] } } : Dev).wr
      EVR_DUMP_en 1).wr TRN_STAT_drbg_ready 1 }

theorem dumpWaits_ready : dumpWaits.on ∧ dumpWaits.dev.flag EVR_DUMP_en = true ∧ (dumpWaits.dev.slotOf 8).type ≠ 0 ∧
    dumpWaits.dev.rd LOCK_owner 0 (pgCPL 7) = 0xFF ∧ dumpWaits.dev.flag TRN_STAT_drbg_ready = true := by decide +kernel

/-- The handover of CP7 reseeds its generator, which is one request of the DRBG. -/
theorem dumpWaits_handover : (dumpWaits.dev.cleared.lockChange (pgCPL 7) 0x0E).draws = 1 := by decide +kernel

/-- Refutes O45 at its clause on a dump that is written (R424), in `dumpWaits`: the clause keeps the Refuge's state as the handover of CP7
leaves it, but the model's dump goes on with the state from before it, and the DRBG's count of requests loses the reseed of
CP7's generator. -/
theorem not_memoryAndDumpComplete : ¬ Obligations.MemoryAndDumpComplete := by
  intro h
  obtain ⟨-, -, -, -, -, -, -, -, -, -, -, -, -, -, hdump, -⟩ := h
  obtain ⟨hon, hen, hkey, hfree, hready⟩ := dumpWaits_ready
  have hclaim := Gives.eq_of_act Dev.fatalDump hon rfl (hdump dumpWaits numberedDump [] 9 hon rfl (by decide) rfl rfl hen hkey hfree hready)
  have hmodel := Dev.fatalDump_dumps (d := dumpWaits.dev.cleared) (x := numberedDump) (l := []) (n := 9) rfl (by decide) rfl rfl hen hkey hfree
    hready
  have hstart : dumpWaits.dev.cleared.Requested 0 0 := ⟨by decide +kernel, rfl, Nat.le_refl 0⟩
  have hhanded := hstart.lockChange 0x0E (by decide)
  generalize hd : dumpWaits.dev.cleared.lockChange (pgCPL 7) 0x0E = d at hmodel hclaim hhanded
  have hlost : Dev.Requested { d with rfg := { dumpWaits.dev.cleared.rfg with dumps := [] } } 1 0 :=
    ⟨hhanded.idle, hd ▸ dumpWaits_handover, Nat.le_refl 0⟩
  have hkept : Dev.Requested { d with rfg := { d.rfg with dumps := [] } } 0 1 := ⟨hhanded.idle, hhanded.draws, hhanded.reqs⟩
  have hmodelled := (hlost.dumpWrite numberedDump 9 (by decide)).lockChange 0xFF (by decide)
  have hclaimed := (hkept.dumpWrite numberedDump 9 (by decide)).lockChange 0xFF (by decide)
  rw [← hmodel, hclaim] at hmodelled
  exact absurd (hmodelled.unique hclaimed) (by decide)

end Sys2Proof.Machine
end

section
/-! SUPPORT. What the operations that every block shares can change, said once: an interrupt, a record, an event (R65, R117, R287, R545). -/

namespace Sys2Proof.Machine

open Sys2Proof

theorem Dev.msix_eq (d : Dev) (v : Nat) : ∃ x out, d.msix v = { d with hst := x, out := out } := by
  unfold Dev.msix
  split
  · exact ⟨_, d.out, rfl⟩
  · split
    · exact ⟨d.hst, d.out, rfl⟩
    · exact ⟨d.hst, _, rfl⟩

theorem Dev.foldl_msix_eq (l : List Nat) (d : Dev) : ∃ x out, l.foldl Dev.msix d = { d with hst := x, out := out } := by
  induction l generalizing d with
  | nil => exact ⟨d.hst, d.out, rfl⟩
  | cons v l ih =>
    obtain ⟨x, out, hmsix⟩ := d.msix_eq v
    obtain ⟨y, out', hrest⟩ := ih (d.msix v)
    exact ⟨y, out', by rw [List.foldl_cons, hrest, hmsix]⟩

/-- A change of a page's combined interrupt sends messages or leaves them pending, and does nothing else. -/
theorem Dev.irqNote_eq (d : Dev) (page before : Nat) : ∃ x out, d.irqNote page before = { d with hst := x, out := out } := by
  unfold Dev.irqNote
  split
  · exact d.foldl_msix_eq _
  · exact ⟨d.hst, d.out, rfl⟩

/-- A bit of IRQ_STAT changes that register, and what messages follow. -/
theorem Dev.irq_eq (d : Dev) (page bit : Nat) : ∃ v x out, d.irq page bit = { d.wr IRQ_STAT_bits v 0 page with hst := x, out := out } := by
  obtain ⟨x, out, h⟩ := (d.wr IRQ_STAT_bits (d.rd IRQ_STAT_bits 0 page ||| (1 <<< bit)) 0 page).irqNote_eq page (d.irqLine page)
  exact ⟨_, x, out, h⟩

/-- A record under the rate rule stays with EVR. -/
theorem Dev.rated_eq (d : Dev) (block code unit sev p0 p2 src : Nat) : ∃ x, d.rated block code unit sev p0 p2 src = { d with evr := x } := by
  unfold Dev.rated
  dsimp only
  split
  · exact ⟨_, rfl⟩
  · split
    · exact ⟨_, rfl⟩
    · split <;> exact ⟨_, rfl⟩

theorem Dev.raise_eq (d : Dev) (src p0 p1 p2 : Nat) : ∃ x, d.raise src p0 p1 p2 = { d with evm := x } := by
  unfold Dev.raise
  split
  · exact ⟨d.evm, rfl⟩
  · exact ⟨_, rfl⟩

theorem Dev.reseed_eq (d : Dev) : ∃ regs x, d.reseed = { d with regs := regs, rfg := x } := ⟨_, _, rfl⟩

/-- The generator's bits cost a request, and a reseed where it has served enough. -/
theorem Dev.drbg_eq (d : Dev) : ∃ regs n x, d.drbg.2 = { d with regs := regs, draws := n, rfg := x } := by
  obtain ⟨regs, x, h⟩ : ∃ regs x, (if 65536 ≤ d.rfg.trnReqs then d.reseed else d) = { d with regs := regs, rfg := x } := by
    split
    · exact d.reseed_eq
    · exact ⟨d.regs, d.rfg, rfl⟩
  simp only [Dev.drbg, h, Dev.draw]
  exact ⟨_, _, _, rfl⟩

end Sys2Proof.Machine
end


section
/-! SUPPORT. Writes at a page with a LOCK register: no job ends by most of them, an abort ends the one that runs (R310, R320, R335, R341). -/

namespace Sys2Proof.Machine

open Sys2Proof

/-! ### The end of a job (log entry 355) -/

/-- No job of the page ended by the write: one that ran still runs. -/
theorem Dev.jobNote_runs (d was : Dev) (page off : Nat) (h : was.lockJob page = true → d.lockJob page = true) : d.jobNote was page off = d := by
  refine if_neg fun ⟨_, hwas, hnot⟩ => ?_
  simp [h hwas] at hnot

theorem Dev.jobNote_ended (d was : Dev) (page off : Nat) (hoff : 0x24 ≤ off) (hwas : was.lockJob page = true) (hend : d.lockJob page = false) :
    d.jobNote was page off = d.wr STATUS_last_status Status.aborted.code 0 page :=
  if_pos ⟨hoff, hwas, by rw [hend]; rfl⟩

/-- A write command that passes every check, whose effect is given as such and answers ST_OK. -/
theorem Effects.of_guarded {c : Instr} {s : State} {f : Dev → Dev} {r : Req} {page off : Nat} (act : Dev → Status × Dev)
    (hacc : s.accepts r page off) (hexec : exec c s = s.act (fun d => d.guardedWrite r page off act))
    (heff : act s.dev.cleared = (.ok, f s.dev.cleared)) : Effects c s page f := by
  obtain ⟨hon, hcheck, hcopy⟩ := hacc
  refine Gives.of_act _ hon hexec ?_
  rw [Dev.guardedWrite_ok s.dev.cleared r page off act hcheck hcopy, heff]

section
variable {c : Instr} {s : State} {f : Dev → Dev} {r : Req} {page off : Nat} {b : Blk} {inst : Nat} (v : Nat)
  (hacc : s.accepts r page off) (hb : pageBlock page = some (b, inst)) (hoff : 0x040 ≤ off ∧ off < 0x800)
  (hexec : exec c s = s.write r page off v) (heff : s.dev.cleared.blockWrite r b inst page off v noEnv = (.ok, f s.dev.cleared))
include hacc hb hoff hexec heff

/-- A write of a block register that passes every check gives its effect, and notes the job that it ended. -/
theorem Gives.of_noted : Gives c s (fun d => ((f d).report page .ok).jobNote d page off) := by
  obtain ⟨hon, hcheck, hcopy⟩ := hacc
  have hwrite : s.dev.cleared.writeEffect r page off v noEnv = (.ok, f s.dev.cleared) := by
    simp only [Dev.writeEffect, hb]
    rw [if_neg (by omega), heff]
  refine Gives.of_act _ hon hexec ?_
  rw [Dev.pageWrite_ok s.dev.cleared r page off v noEnv hcheck hcopy, hwrite]

theorem Effects.of_running (hjob : s.dev.cleared.lockJob page = true → (f s.dev.cleared).lockJob page = true) : Effects c s page f := by
  have hgives := Gives.of_noted v hacc hb hoff hexec heff
  rwa [Gives, Dev.jobNote_runs ((f s.dev.cleared).report page .ok) _ _ _ hjob] at hgives

theorem EndsJob.of_blockWrite (hwas : s.dev.cleared.lockJob page = true) (hend : (f s.dev.cleared).lockJob page = false) :
    EndsJob c s page f := by
  have hgives := Gives.of_noted v hacc hb hoff hexec heff
  rwa [Gives, Dev.jobNote_ended ((f s.dev.cleared).report page .ok) _ _ _ (by omega) hwas hend] at hgives

end
end Sys2Proof.Machine
end

section
/-! SUPPORT. The cipher pipelines: the two shares of a key, the keys, a job's start and its ends, the reseeds, and O46 (R306, R307, R312, R316, R317,
R320). -/

namespace Sys2Proof.Machine

open Sys2Proof

/-! ### Shares (R306) -/

/-- A mask is taken off as it was put on. -/
theorem xorBytes_cancel (a m : List Byte) (h : a.length ≤ m.length) : xorBytes (xorBytes a m) m = a := by
  induction a generalizing m with
  | nil => rfl
  | cons x a ih =>
    cases m with
    | nil => exact absurd h (by simp)
    | cons y m =>
      have htail : xorBytes (xorBytes a m) m = a := ih m (by simpa using h)
      simp only [xorBytes, List.zipWith_cons_cons] at htail ⊢
      rw [htail, BitVec.xor_assoc, BitVec.xor_self, BitVec.xor_zero]

theorem Dev.freshMask_length (d : Dev) (p n : Nat) : (d.freshMask p n).1.length = n := leBytes_length ..

theorem padTo_of_length {n : Nat} {l : List Byte} (h : l.length = n) : padTo n l = l := by
  subst h
  simp [padTo]

theorem overlay_length {l src : List Byte} {off : Nat} (h : off + src.length ≤ l.length) : (overlay l off src).length = l.length := by
  simp only [overlay, List.length_append, List.length_take, List.length_drop]
  omega

@[simp] theorem Dev.cplOf_setCpl (d : Dev) (p : Nat) (c : Cpl) : (d.setCpl p c).cplOf p = c := Tbl.get_set_same ..

theorem padTo_length (n : Nat) (l : List Byte) : (padTo n l).length = n := by
  simp only [padTo, List.length_take, List.length_append, List.length_replicate]
  omega

theorem Dev.keyRegs_length (d : Dev) (p : Nat) : (d.keyRegs p).length = 32 := padTo_length ..

/-- Taking a mask leaves the key registers alone. -/
theorem Dev.keyRegs_freshMask (d : Dev) (p n : Nat) : (d.freshMask p n).2.keyRegs p = d.keyRegs p := by
  simp only [Dev.keyRegs, Dev.freshMask, Dev.cplOf_setCpl]

/-- The shares of the key registers hold together what was written over what they held. -/
theorem Dev.keyRegs_setKeyReg (d : Dev) (p k v : Nat) (hk : k < 8) :
    (d.setKeyReg p k v).keyRegs p = overlay (d.keyRegs p) (4 * k) (leBytes v 4) := by
  have hlen : (overlay (d.keyRegs p) (4 * k) (leBytes v 4)).length = 32 :=
    (overlay_length (by rw [leBytes_length, Dev.keyRegs_length]; omega)).trans (Dev.keyRegs_length ..)
  have hmask := d.freshMask_length p 32
  simp only [Dev.setKeyReg, Dev.keyRegs_freshMask]
  rw [Dev.keyRegs, Dev.cplOf_setCpl, xorBytes_cancel _ _ (by rw [hlen, hmask]), padTo_of_length hlen]

theorem Dev.loading_setLoading (d : Dev) (p : Nat) (key : List Byte) :
    ((d.setLoading p key).cplOf p).loading.map (fun k => xorBytes k.1 k.2) = some key := by
  rw [Dev.setLoading, Dev.cplOf_setCpl, Option.map_some, xorBytes_cancel _ _ (Dev.freshMask_length ..).ge]

/-! ### Registers of a pipeline's page -/

theorem pageBlock_pgCPL : ∀ p : Fin 8, pageBlock (pgCPL p) = some (.cpl, p.val) := by decide

/-- The job that runs at a pipeline's page is the pipeline's. -/
theorem Dev.lockJob_cpl (d : Dev) (p : Fin 8) : d.lockJob (pgCPL p) = (d.cplOf p).job.isSome := by
  have hrange : 0x070 ≤ pgCPL p ∧ pgCPL p < 0x078 ∧ pgCPL p - 0x070 = p := by
    unfold pgCPL
    omega
  obtain ⟨hlow, hhigh, hp⟩ := hrange
  rw [Dev.lockJob, if_neg (by unfold pgPKE; omega), if_neg (by unfold pgHSH; omega), hp, decide_eq_true hlow, decide_eq_true hhigh]
  rfl

@[simp] theorem Dev.cplOf_wr (d : Dev) (f : Fld) (v k q p : Nat) : (d.wr f v k q).cplOf p = d.cplOf p := by
  rw [Dev.cplOf, Dev.wr_cpl, Dev.cplOf]

@[simp] theorem Dev.cplOf_irq (d : Dev) (page bit p : Nat) : (d.irq page bit).cplOf p = d.cplOf p := by
  obtain ⟨v, x, out, h⟩ := d.irq_eq page bit
  simp only [Dev.cplOf, h, Dev.wr_cpl]

theorem Dev.plainWrite_cpl (d : Dev) (page off v : Nat) : (d.plainWrite page off v).2.cpl = d.cpl := by
  unfold Dev.plainWrite
  split
  · rfl
  · split
    · rfl
    · dsimp only
      split
      · rfl
      · split <;> rfl

/-! ### Keys (R311, R312) -/

/-- A key on its way in or out leaves the job. -/
theorem Dev.job_freshMask (d : Dev) (p n : Nat) : ((d.freshMask p n).2.cplOf p).job = (d.cplOf p).job := by
  rw [Dev.freshMask, Dev.cplOf_setCpl]

theorem Dev.job_setKeyReg (d : Dev) (p k v : Nat) : ((d.setKeyReg p k v).cplOf p).job = (d.cplOf p).job := by
  rw [Dev.setKeyReg, Dev.cplOf_setCpl]
  dsimp only
  rw [Dev.job_freshMask]

theorem Dev.job_cplDropKey (d : Dev) (p : Nat) : ((d.cplDropKey p).cplOf p).job = (d.cplOf p).job := by
  simp only [Dev.cplDropKey, Dev.cplOf_wr, Dev.cplOf_setCpl]

theorem Dev.cplKeyWrite_key (d d' : Dev) {p off v : Nat} (hoff : off ≠ 0x040) (hwrite : d.plainWrite (pgCPL p) off v = (.ok, d')) :
    d.cplKeyWrite p off v = (.ok, (d'.setKeyReg p ((off - 0x044) / 4) v).cplDropKey p) := by
  rw [Dev.cplKeyWrite, hwrite]
  exact if_neg hoff

/-- The key registers have no field that could refuse a write. -/
theorem Dev.cplWrite_key (d : Dev) (p : Fin 8) (k : Fin 8) (v : Nat) : d.cplWrite p (0x044 + 4 * k) v =
    (.ok, ((d.plainWrite (pgCPL p) (0x044 + 4 * k) v).2.setKeyReg p k v).cplDropKey p) := by
  have hwl : ∀ k : Fin 8, ∃ g, findReg .cpl (0x044 + 4 * k) = some g ∧ g.fields.any (fun f => f.acc == .wl) = false := by decide
  obtain ⟨g, hg, hplain⟩ := hwl k
  have hk : (0x044 + 4 * k.val - 0x044) / 4 = k := by omega
  rw [Dev.cplWrite, if_neg (by omega), if_pos (by omega),
    Dev.cplKeyWrite_key d _ (by omega) (d.plainWrite_status v (pageBlock_pgCPL p) hg hplain), hk]

theorem cplKeyWrite_effects (s : State) (r : Req) (p k : Fin 8) (v : Word) (hacc : s.accepts r (pgCPL p) (0x044 + 4 * k)) :
    Effects (.cplKeyWrite r p k v) s (pgCPL p)
      (fun d => ((d.plainWrite (pgCPL p) (0x044 + 4 * k) v.toNat).2.setKeyReg p k v.toNat).cplDropKey p) := by
  refine Effects.of_running _ hacc (pageBlock_pgCPL p) (by omega) rfl (Dev.cplWrite_key s.dev.cleared p k v.toNat) ?_
  rw [Dev.lockJob_cpl, Dev.lockJob_cpl, Dev.job_cplDropKey, Dev.job_setKeyReg, Dev.cplOf, Dev.cplOf, Dev.plainWrite_cpl]
  exact id

/-- The key that load_key takes from the registers. -/
theorem Dev.cplLoadKey_regs (d : Dev) (p : Nat) (hseed : d.flag CPL_STAT_seeded 0 p = true) (hsrc : d.flag CPL_MODE_ksrc 0 p = false)
    (hsize : d.rd CPL_MODE_ksize 0 p ≠ 3) :
    d.cplLoadKey p false = (.ok, (d.cplDropKey p).setLoading p ((d.keyRegs p).take (keyBytesOf (d.rd CPL_MODE_ksize 0 p)))) := by
  have hkey : d.cplKeyIn p = (d.keyRegs p).take (keyBytesOf (d.rd CPL_MODE_ksize 0 p)) := by
    rw [Dev.cplKeyIn, hsrc, if_neg Bool.false_ne_true]
  simp only [Dev.cplLoadKey, hseed, hsrc, hkey, if_neg hsize, pickStatus, Bool.not_false, Bool.true_or, Bool.false_and, Bool.false_eq_true,
    false_and, or_false, if_true, if_false, ne_eq, not_true]

/-- The key that load_key takes from a slot of the vault. -/
theorem Dev.cplLoadKey_vault (d : Dev) (p slot : Nat) (hsrc : d.flag CPL_MODE_ksrc 0 p = true) (hslot : slot = d.rd CPL_MODE_slot 0 p)
    (hseed : d.flag CPL_STAT_seeded 0 p = true)
    (hmay : d.slotPermits slot (d.cplOwner p) (cplUses (d.rd CPL_MODE_mode 0 p) (d.flag CPL_MODE_op 0 p)) = true)
    (hsize : d.rd CPL_MODE_ksize 0 p ≠ 3) (hbytes : (d.slotOf slot).aesBytes = keyBytesOf (d.rd CPL_MODE_ksize 0 p))
    (hgood : d.slotBad slot = none) (hopen : d.vaultStatus (d.cplOwner p) = .ok) :
    d.cplLoadKey p false = (.ok, (d.cplDropKey p).setLoading p (d.slotOf slot).key) := by
  subst hslot
  have hkey : d.cplKeyIn p = (d.slotOf (d.rd CPL_MODE_slot 0 p)).key := by rw [Dev.cplKeyIn, hsrc, if_pos rfl]
  simp only [Dev.cplLoadKey, hseed, hsrc, hkey, hmay, hbytes, hgood, hopen, if_neg hsize, pickStatus, Bool.not_true, Bool.false_or, Bool.or_false,
    Bool.and_false, Option.isSome_none, Bool.false_eq_true, and_false, or_false, if_true, if_false, ne_eq, not_true]

theorem Dev.cplKeyReady_loaded (d : Dev) (p : Nat) {a b : List Byte} (h : (d.cplOf p).loading = some (a, b)) : d.cplKeyReady p =
    ((d.setCpl p { d.cplOf p with loading := none, keyA := a, keyB := b }).wr CPL_STAT_key_ready 1 0 p).irq (pgCPL p) 1 := by
  simp only [Dev.cplKeyReady, h]

/-! ### Jobs (R316, R317, R320) -/

/-- A job that no rule of R313 to R319 refuses starts. -/
theorem Dev.cplGo_starts (d : Dev) (p : Nat) (first last : Bool) {j : CplJob} (hj : j = d.cplStaged p first last)
    (hfree : (d.cplOf p).job = none) (howner : j.mode = 0 → j.owner = 0x0E) (hsrc : d.reach j.owner false j.src j.srcLen = .ok)
    (hdst : d.reach j.owner true j.dst j.dstLen = .ok) (htable : j.msgs ≠ 0 → d.tableReach j = .ok)
    (hrules : j.bad (d.cplOf p).opened = false) (hwraps : d.cplTableWraps j = false) (hkey : d.flag CPL_STAT_key_ready 0 p = true)
    (hseed : d.flag CPL_STAT_seeded 0 p = true) :
    d.cplGo p first last false =
      (.ok, let chain := if first then none else (d.cplOf p).chain
            ((d.setCpl p { d.cplOf p with job := some j, chain := chain }).wr STATUS_busy 1 0 (pgCPL p)).wr CPL_STAT_chain_open
              (b2n chain.isSome) 0 p) := by
  subst hj
  have hmode : ¬((d.cplStaged p first last).mode = 0 ∧ (d.cplStaged p first last).owner ≠ 0x0E) := fun h => h.2 (howner h.1)
  have hreach : ¬((d.cplStaged p first last).msgs ≠ 0 ∧ d.tableReach (d.cplStaged p first last) ≠ .ok) := fun h => h.2 (htable h.1)
  simp only [Dev.cplGo, hfree, hsrc, hdst, hrules, hwraps, hkey, hseed, hmode, hreach, pickStatus]
  simp

theorem Dev.cplWrite_cmd (d : Dev) (p v : Nat) : d.cplWrite p 0x0A4 v = d.cplCmd p v := if_pos rfl

theorem Dev.cplCmd_go (d : Dev) (p : Nat) (first last : Bool) : d.cplCmd p (1 + 2 * b2n first + 4 * b2n last) =
    (pickStatus [(d.cplGo p first last false).1], (d.cplGo p first last false).2) := by
  cases first <;> cases last <;> rfl

theorem Dev.cplCmd_abort (d : Dev) (p : Nat) : d.cplCmd p 16 = (pickStatus [(d.cplAbort p).1], (d.cplAbort p).2) := rfl

theorem Dev.cplAbort_idle (d : Dev) (p : Nat) (h : (d.cplOf p).job = none) :
    d.cplAbort p = (.ok, (d.setCpl p { d.cplOf p with chain := none }).wr CPL_STAT_chain_open 0 0 p) := by
  simp only [Dev.cplAbort, h]

/-- An abort in mode 4 leaves zeros in the destination (R320). -/
theorem Dev.cplAbort_gcm (d : Dev) (p : Nat) {j : CplJob} (hjob : (d.cplOf p).job = some j) (hmode : j.mode = 4) : d.cplAbort p =
    (.ok,
      let d := (d.setCpl p { d.cplOf p with chain := none }).wr CPL_STAT_chain_open 0 0 p
      (d.jobWrite j.owner j.dst (zeros j.dstLen)).2.cplEnd p .aborted) := by
  simp only [Dev.cplAbort, hjob, Dev.cplSpoil, hmode, or_true, if_true]

/-- No job runs once one has ended. -/
theorem Dev.job_cplEnd (d : Dev) (p : Nat) (st : Status) : ((d.cplEnd p st).cplOf p).job = none := by
  simp only [Dev.cplEnd, Dev.cplOf_irq, Dev.cplOf_wr, Dev.cplOf_setCpl]

/-- A single message in mode 3: the counter stream over the source, and the next counter in CPL_IVk. -/
theorem Dev.cplSingle_ctr (d d1 : Dev) (p : Nat) {j : CplJob} {src out : List Byte} (hmode : j.mode = 3) (haad : j.aad = 0)
    (hfirst : j.first = true) (hlast : j.last = true) (hapart : j.overlaps = false)
    (hout : out = xorBytes src (ctrStream (d.cplOf p).key j.iv (ctrBytes j.ctrW) src.length))
    (hwrite : d.jobWrite j.owner j.dst out = (.ok, d1)) :
    d.cplSingle p j src =
      (let d := (d1.wr CPL_STAT_out_len out.length 0 p).setQuad CPL_IVk_bytes p (ctrAdd (ctrBytes j.ctrW) j.iv (ceilDiv src.length 16))
       let d := (d.setCpl p { d.cplOf p with chain := none }).wr CPL_STAT_chain_open 0 0 p
       d.cplEnd p .ok) := by
  subst hout
  have htag : j.tagged = false := by rw [CplJob.tagged, hmode]; rfl
  have hverdict (r : SegOut) (t : List Byte) (h : r.good = true) : j.verdict r t = .ok := by simp [CplJob.verdict, h, htag]
  have hsplit : src.drop 0 = src := rfl
  simp only [Dev.cplSingle, runSeg, startChain, hmode, haad, hfirst, hlast, hapart, htag, hsplit, hverdict, hwrite, ne_eq, not_true,
    if_true, if_false, Bool.false_eq_true, false_and, or_true, Bool.not_true]
  rfl

theorem Dev.cplComplete_single (d : Dev) (p : Nat) {j : CplJob} {src : List Byte} {d0 : Dev} (hjob : (d.cplOf p).job = some j)
    (hread : d.jobRead j.owner j.src j.srcLen = (.ok, src, d0)) (hmsgs : j.msgs = 0) : d.cplComplete p = d0.cplSingle p j src := by
  unfold Dev.cplComplete
  obtain ⟨read, hfun⟩ : ∃ read, Dev.jobRead = read := ⟨_, rfl⟩
  rw [hfun] at hread ⊢
  simp only [hjob, hread, hmsgs, ne_eq, not_true, if_true, if_false]

/-- A source that cannot be read ends the job (R317). -/
theorem Dev.cplComplete_unread (d : Dev) (p : Nat) {j : CplJob} {st : Status} {src : List Byte} {d0 : Dev} (hjob : (d.cplOf p).job = some j)
    (hread : d.jobRead j.owner j.src j.srcLen = (st, src, d0)) (hst : st ≠ .ok) : d.cplComplete p = d0.cplFault p j st := by
  unfold Dev.cplComplete
  obtain ⟨read, hfun⟩ : ∃ read, Dev.jobRead = read := ⟨_, rfl⟩
  rw [hfun] at hread ⊢
  simp only [hjob, hread, ne_eq, hst, not_false_eq_true, if_true]

/-! ### Reseeds (R307) -/

theorem Dev.cplReseed_supplied (d : Dev) (p : Nat) (h : d.flag TRN_STAT_drbg_ready = true) :
    d.cplReseed p true = (d.cplSeed p).wr CPL_RNG_consec 0 0 p := by
  simp only [Dev.cplReseed, h, Bool.and_self, if_true]

/-- A missed reseed that is neither the first nor the sixteenth in a row is only counted. -/
theorem Dev.cplReseed_missed (d : Dev) (p : Nat) (hlow : 1 ≤ d.rd CPL_RNG_consec 0 p) (hne : d.rd CPL_RNG_consec 0 p ≠ 15) :
    d.cplReseed p false =
      (d.wr CPL_RNG_consec (satAdd 0xFFFF (d.rd CPL_RNG_consec 0 p) 1) 0 p).bump CPL_RNG_missed 1 0 p := by
  have hfirst : satAdd 0xFFFF (d.rd CPL_RNG_consec 0 p) 1 ≠ 1 := by unfold satAdd; split <;> omega
  have hlimit : satAdd 0xFFFF (d.rd CPL_RNG_consec 0 p) 1 ≠ 16 := by unfold satAdd; split <;> omega
  simp only [Dev.cplReseed, Bool.false_and, Bool.false_eq_true, if_false, if_neg hfirst, if_neg hlimit]

/-- Settles O46, clause by clause: the keys and their shares, the start of a job and each of its ends, the reseeds. -/
theorem cipherCompletes : Obligations.CipherCompletes := by
  refine ⟨cplKeyWrite_effects, Dev.keyRegs_setKeyReg, fun d p key _ => d.loading_setLoading p key, ?loadRegs, ?loadVault, ?ready, ?go,
    ?abortIdle, ?abortGcm, ?ctr, ?unread, ?supplied, ?missed⟩
  case loadRegs =>
    intro s r p hacc hseed hsrc hsize
    exact Effects.of_guarded (fun d => d.cplLoadKey p false) hacc rfl (Dev.cplLoadKey_regs s.dev.cleared p hseed hsrc hsize)
  case loadVault =>
    intro s r p slot hacc hsrc hslot hseed hmay hsize hbytes hgood hopen
    exact Effects.of_guarded (fun d => d.cplLoadKey p false) hacc rfl
      (Dev.cplLoadKey_vault s.dev.cleared p slot hsrc hslot hseed hmay hsize hbytes hgood hopen)
  case ready =>
    intro s p a b hon hload
    exact Gives.of_act (fun d => d.cplKeyReady p) hon rfl (Dev.cplKeyReady_loaded s.dev.cleared p hload)
  case go =>
    intro s r p first last j hacc hj hfree howner hsrc hdst htable hrules hwraps hkey hseed
    have hgo := Dev.cplGo_starts s.dev.cleared p first last hj hfree howner hsrc hdst htable hrules hwraps hkey hseed
    refine Effects.of_running _ hacc (pageBlock_pgCPL p) (by decide) rfl ((Dev.cplWrite_cmd ..).trans ((Dev.cplCmd_go ..).trans ?_)) ?_
    · rw [hgo]
      rfl
    · rw [Dev.lockJob_cpl, Dev.lockJob_cpl]
      simp
  case abortIdle =>
    intro s r p hacc hidle
    refine Effects.of_running _ hacc (pageBlock_pgCPL p) (by decide) rfl ((Dev.cplWrite_cmd ..).trans ((Dev.cplCmd_abort ..).trans ?_)) ?_
    · rw [Dev.cplAbort_idle s.dev.cleared p hidle]
      rfl
    · rw [Dev.lockJob_cpl]
      exact fun h => absurd h (by simp [show (s.dev.cleared.cplOf p).job = none from hidle])
  case abortGcm =>
    intro s r p j hacc hjob hmode
    refine EndsJob.of_blockWrite _ hacc (pageBlock_pgCPL p) (by decide) rfl ((Dev.cplWrite_cmd ..).trans ((Dev.cplCmd_abort ..).trans ?_)) ?_ ?_
    · rw [Dev.cplAbort_gcm s.dev.cleared p hjob hmode]
      rfl
    · rw [Dev.lockJob_cpl]
      exact Option.isSome_of_eq_some hjob
    · rw [Dev.lockJob_cpl]
      exact Option.isSome_eq_false_iff.mpr (Option.isNone_iff_eq_none.mpr (Dev.job_cplEnd _ p .aborted))
  case ctr =>
    intro s p j d0 d1 src out hon hjob hmode hmsgs haad hfirst hlast hapart hread hout hwrite
    exact Gives.of_act (fun d => (d.withBreak none).cplComplete p) hon rfl
      ((Dev.cplComplete_single s.dev.cleared p hjob hread hmsgs).trans (Dev.cplSingle_ctr d0 d1 p hmode haad hfirst hlast hapart hout hwrite))
  case unread =>
    intro s p brk j d0 st src hon hjob hread hst
    exact Gives.of_act (fun d => (d.withBreak brk).cplComplete p) hon rfl (Dev.cplComplete_unread (s.dev.cleared.withBreak brk) p hjob hread hst)
  case supplied =>
    intro s p hon hready
    exact Gives.of_act (fun d => d.cplReseed p true) hon rfl (Dev.cplReseed_supplied s.dev.cleared p hready)
  case missed =>
    intro s p hon hlow hne
    exact Gives.of_act (fun d => d.cplReseed p false) hon rfl (Dev.cplReseed_missed s.dev.cleared p hlow hne)

end Sys2Proof.Machine
end

section
/-! SUPPORT. The public-key engine and the hash engine: contexts under the engine's operations, each command in the case that a statement names,
and O47 (R324 to R343). -/

namespace Sys2Proof.Machine

open Sys2Proof

theorem foldl_keeps {α β γ : Type} (p : β → γ) {f : β → α → β} (h : ∀ b a, p (f b a) = p b) (l : List α) (b : β) :
    p (l.foldl f b) = p b := by
  induction l generalizing b with
  | nil => rfl
  | cons a l ih => rw [List.foldl_cons, ih, h]

/-! ### Contexts (R327) -/

theorem Dev.pkeCtx_of_ctx {d d' : Dev} (h : d'.pke.ctx = d.pke.ctx) (k : Nat) : d'.pkeCtx k = d.pkeCtx k := by
  rw [Dev.pkeCtx, h, Dev.pkeCtx]

/-- Which context runs is a matter of the contexts alone. -/
theorem Dev.pkeRunning_of_ctx {d d' : Dev} (h : d'.pke.ctx = d.pke.ctx) : d'.pkeRunning = d.pkeRunning := by
  simp only [Dev.pkeRunning, Dev.pkeCtx_of_ctx h]

theorem Dev.pkeCtx_setPkeCtx (d : Dev) (k : Nat) (c : PkeCtx) : (d.setPkeCtx k c).pkeCtx k = c := Tbl.get_set_same ..

theorem Dev.pkeCtx_setPkeCtx_ne (d : Dev) {j k : Nat} (h : j ≠ k) (c : PkeCtx) : (d.setPkeCtx k c).pkeCtx j = d.pkeCtx j :=
  Tbl.get_set_ne _ h ..

section
variable {d : Dev}

theorem Dev.pkeRunning_first (h : (d.pkeCtx 0).state = 2) : d.pkeRunning = some 0 := if_pos h

theorem Dev.pkeRunning_none (h0 : (d.pkeCtx 0).state ≠ 2) (h1 : (d.pkeCtx 1).state ≠ 2) : d.pkeRunning = none := by
  rw [Dev.pkeRunning, if_neg h0, if_neg h1]

/-- Of two contexts, one that does not run and one that does. -/
theorem Dev.pkeRunning_isSome_other {k : Nat} (hk : k < 2) (h : (d.pkeCtx k).state ≠ 2) :
    d.pkeRunning.isSome = decide ((d.pkeCtx (1 - k)).state = 2) := by
  obtain rfl | rfl : k = 0 ∨ k = 1 := by omega
  · rw [Dev.pkeRunning, if_neg h]
    split <;> simp_all
  · rw [Dev.pkeRunning, if_neg h]
    split <;> simp_all

end

theorem Dev.pke_irq (d : Dev) (page bit : Nat) : (d.irq page bit).pke = d.pke := by
  obtain ⟨v, x, out, h⟩ := d.irq_eq page bit
  rw [h, Dev.wr_pke]

theorem Dev.pkePut_ctx (d : Dev) (slot v : Nat) : (d.pkePut slot v).pke.ctx = d.pke.ctx := by
  refine foldl_keeps (fun d : Dev => d.pke.ctx) (fun d _ => ?_) _ d
  rfl

theorem Dev.pkeZeroOut_ctx (d : Dev) (c : PkeCtx) : (d.pkeZeroOut c).pke.ctx = d.pke.ctx :=
  foldl_keeps (fun d : Dev => d.pke.ctx) (fun d _ => d.pkePut_ctx ..) _ d

theorem Dev.pkeRec_ctx (d : Dev) (code sev k p2 : Nat) : (d.pkeRec code sev k p2).pke.ctx = d.pke.ctx := by
  obtain ⟨x, h⟩ := d.rated_eq pgPKE code k sev k p2 0x7F
  rw [Dev.pkeRec, h]

theorem Dev.drbg_pke (d : Dev) : d.drbg.2.pke = d.pke := by
  obtain ⟨regs, n, x, h⟩ := d.drbg_eq
  rw [h]

/-! ### A job's end (R333, R334) -/

/-- A job's end, with the command of the context given. -/
theorem Dev.pkeEnd_eq (d : Dev) (k : Nat) (st : Status) {cmd : Nat} (h : (d.pkeCtx k).cmd = cmd) : d.pkeEnd k st =
    (((d.setPkeCtx k { state := 4, status := st.code, cmd := cmd }).wr STATUS_last_status st.code 0 pgPKE).irq pgPKE k).pkeNext k := by
  rw [Dev.pkeEnd, h]

/-- The contexts after a job's end, before another goes on. -/
theorem Dev.pkeCtx_ended (d : Dev) (k st j : Nat) (c : PkeCtx) :
    (((d.setPkeCtx k c).wr STATUS_last_status st 0 pgPKE).irq pgPKE k).pkeCtx j = (d.setPkeCtx k c).pkeCtx j :=
  Dev.pkeCtx_of_ctx (by rw [Dev.pke_irq, Dev.wr_pke]) j

/-- A job that runs goes on when the other context ends. -/
theorem Dev.pkeEnd_keeps (d : Dev) {k : Nat} (hk : k < 2) (st : Status) (h : (d.pkeCtx (1 - k)).state = 2) :
    (d.pkeEnd k st).pkeRunning.isSome = true := by
  have hne : 1 - k ≠ k := by omega
  have hrun : (((d.setPkeCtx k { state := 4, status := st.code, cmd := (d.pkeCtx k).cmd }).wr STATUS_last_status st.code 0 pgPKE).irq
      pgPKE k).pkeRunning.isSome = true := by
    rw [Dev.pkeRunning_isSome_other hk, Dev.pkeCtx_ended, Dev.pkeCtx_setPkeCtx_ne _ hne, h]
    · rfl
    · rw [Dev.pkeCtx_ended, Dev.pkeCtx_setPkeCtx]
      exact (by decide : 4 ≠ 2)
  rw [Dev.pkeEnd, Dev.pkeNext, if_pos hrun]
  exact hrun

/-- Nothing runs after the only job's end. -/
theorem Dev.pkeEnd_last (d : Dev) {k : Nat} (hk : k < 2) (st : Status) (h : (d.pkeCtx (1 - k)).state = 0) :
    (d.pkeEnd k st).pkeRunning.isSome = false := by
  have hne : 1 - k ≠ k := by omega
  rw [Dev.pkeEnd]
  generalize hd : (((d.setPkeCtx k { state := 4, status := st.code, cmd := (d.pkeCtx k).cmd }).wr STATUS_last_status st.code 0 pgPKE).irq
      pgPKE k) = d'
  have hother : (d'.pkeCtx (1 - k)).state = 0 := by rw [← hd, Dev.pkeCtx_ended, Dev.pkeCtx_setPkeCtx_ne _ hne, h]
  have hself : (d'.pkeCtx k).state = 4 := by rw [← hd, Dev.pkeCtx_ended, Dev.pkeCtx_setPkeCtx]
  have hidle : d'.pkeRunning.isSome = false := by
    rw [Dev.pkeRunning_isSome_other hk (by omega), hother]
    rfl
  simp only [Dev.pkeNext, hidle, hother, Bool.false_eq_true, if_false]
  exact hidle


/-! ### The operand memory and its window (R324, R326) -/

section
variable (d : Dev)

/-- An accepted write of PKE_CFG clears the operand memory. -/
theorem Dev.pkeCfg_ok {v : Nat} (h0 : (d.pkeCtx 0).state = 0) (h1 : (d.pkeCtx 1).state = 0) (hclear : d.pke.clearing = false)
    (hlow : 4 ≤ bitsOf v 23 16) (hhigh : bitsOf v 23 16 ≤ 128) : d.pkeCfg v = (.ok, (d.plainWrite pgPKE 0x040 v).2.pkeWipe) := by
  have hwords : ¬(bitsOf v 23 16 < 4 ∨ 128 < bitsOf v 23 16) := by omega
  simp only [Dev.pkeCfg, h0, h1, hclear, hwords, pickStatus, bne_self_eq_false, Bool.or_self, Bool.false_eq_true, if_false, if_true, ne_eq,
    not_true]

/-- The engine is busy while the operand memory is being cleared. -/
theorem Dev.pkeWipe_eq : d.pkeWipe =
    ({ d with pke := { d.pke with mem := [], clearing := true, release := [], scratch := [] } }).wr STATUS_busy 1 0 pgPKE := by
  simp only [Dev.pkeWipe, Dev.pkeBusyBit, Bool.or_true]
  rfl

theorem Dev.pkeWiped_idle (hclear : d.pke.clearing = true) (hrun : d.pkeRunning = none) :
    d.pkeWiped = ({ d with pke := { d.pke with clearing := false } }).wr STATUS_busy 0 0 pgPKE := by
  have hstill : ({ d with pke := { d.pke with clearing := false } } : Dev).pkeRunning = none := (Dev.pkeRunning_of_ctx rfl).trans hrun
  rw [Dev.pkeWiped, if_pos hclear, Dev.pkeBusyBit, hstill]
  rfl

variable {d} {i : Nat} (hsel : d.pkeSel = some i) (hclear : d.pke.clearing = false)
include hsel hclear

theorem Dev.pkeDataWrite_ok (v : Word) (hfree : d.pkeSlotBusy false = false) : d.pkeDataWrite v.toNat =
    (.ok, ({ d with pke := { d.pke with mem := d.pke.mem.set i v 0 } }).pkeAdvance) := by
  simp only [Dev.pkeDataWrite, hsel, hclear, hfree, Bool.or_self, Bool.false_eq_true, if_false, Dev.setPkeHalf, BitVec.ofNat_toNat,
    BitVec.setWidth_eq]

theorem Dev.pkeDataRead_ok {who : Nat} (hown : d.rd LOCK_owner 0 pgPKE = who) (hfree : d.pkeSlotBusy true = false) : d.pkeDataRead who =
    (.ok, (d.pke.mem.get i 0).toNat, d.pkeAdvance) := by
  simp only [Dev.pkeDataRead, hown, ne_eq, not_true, if_false, hsel, hclear, hfree, Bool.or_self, Bool.false_eq_true, Dev.pkeHalf]

end

theorem Dev.pkeAdvance_pke (d : Dev) : d.pkeAdvance.pke = d.pke := by
  rw [Dev.pkeAdvance, Dev.wr_pke, Dev.wr_pke, Dev.wr_pke]

/-! ### Start and preemption (R327, R334) -/

theorem PkeCtx.op_ne_sign {c : PkeCtx} (h : c.slh = false) : c.op ≠ 0x08 := by
  intro hop
  rw [PkeCtx.slh, hop] at h
  exact absurd h (by decide)

/-- What starts a pending job of context 0 that is no SLH-DSA signature. -/
theorem Dev.pkeStart_plain (d : Dev) {c : PkeCtx} (hc : d.pkeCtx 0 = c) (hop : c.op ≠ 0x08) : d.pkeStart 0 =
    (let x := d.draw .random
     let d := { x.2 with pke := { x.2.pke with scratch := x.2.pke.scratch.set 0 x.1 0 } }
     (d.setPkeCtx 0 { c with
       state := 2, since := d.cclk, supplied := !c.random || d.flag TRN_STAT_drbg_ready, early := [], earlySt := .ok }).wr STATUS_busy 1 0
         pgPKE) := by
  have hbusy (e : Dev) (x : PkeCtx) (hx : x.state = 2) : (e.setPkeCtx 0 x).pkeBusyBit = (e.setPkeCtx 0 x).wr STATUS_busy 1 0 pgPKE := by
    rw [Dev.pkeBusyBit, Dev.pkeRunning_first (by rw [Dev.pkeCtx_setPkeCtx, hx])]
    rfl
  simp only [Dev.pkeStart, hc, if_neg hop]
  exact hbusy _ _ rfl

/-- A go that nothing refuses starts its job where both contexts are free. -/
theorem Dev.pkeGo_free (d : Dev) {c : PkeCtx} (hc : c = d.pkeStaged) (h0 : (d.pkeCtx 0).state = 0) (h1 : (d.pkeCtx 1).state = 0)
    (hclear : d.pke.clearing = false) (hvault : d.pkeVaultDenied c = false) (hreach : d.pkeReachBad c = false) (hknown : c.known = true)
    (hoperand : d.pkeOperandBad c = false) (hurgent : c.urgent = false) (hhigh : c.addrHigh = false) (hslh : c.slh = false) :
    d.pkeGo false = (.ok, ((d.setPkeCtx 0 { c with state := 1 }).wr PKE_STAT_last_ctx 0).pkeStart 0) := by
  subst hc
  have hidle : d.pkeRunning = none := Dev.pkeRunning_none (by omega) (by omega)
  have hsign : (d.pkeStaged.op == 0x08) = false := beq_false_of_ne (PkeCtx.op_ne_sign hslh)
  have hfree : d.pkeFree = some 0 := if_pos h0
  have hother : (d.pkeCtx (1 - 0)).active = false := by rw [PkeCtx.active, h1]; rfl
  have hshared : d.pkeShared 0 d.pkeStaged = false := by rw [Dev.pkeShared, hother, Bool.false_and]
  simp only [Dev.pkeGo, hidle, hsign, hfree, hshared, hclear, hvault, hreach, hknown, hoperand, hurgent, hhigh, hslh, pickStatus,
    Option.isNone_some, Option.isSome_none, Option.isNone_none, Option.getD_some, Bool.and_false, Bool.false_and, Bool.or_self, Bool.not_true,
    Bool.false_eq_true, if_false, if_true, ne_eq, not_true]

/-- A running job gives way to an urgent one. -/
theorem Dev.pkePreempt_urgent (d : Dev) (hyield : d.flag PKE_CFG_yield = true) (hrun : (d.pkeCtx 0).state = 2)
    (hcalm : (d.pkeCtx 0).urgent = false) (hpend : (d.pkeCtx 1).state = 1) (hurgent : (d.pkeCtx 1).urgent = true) : d.pkePreempt =
    ((d.setPkeCtx 0 { d.pkeCtx 0 with state := 3 }).bump PKE_STAT_preempt).pkeStart 1 := by
  have hother : d.pkeCtx (1 - 0) = d.pkeCtx 1 := rfl
  simp only [Dev.pkePreempt, Dev.pkeRunning_first hrun, hother, hyield, hcalm, hpend, hurgent, Bool.not_false, beq_self_eq_true, Bool.and_self,
    if_true]

/-! ### Aborts (R335) -/

section
variable (d : Dev) {k : Nat} (hk : k < 2)
include hk

/-- An abort in yield mode of a job that does not run yet. -/
theorem Dev.pkeAbort_pending (hyield : d.flag PKE_CFG_yield = true) (hstate : (d.pkeCtx k).state = 1) (hop : (d.pkeCtx k).op ≠ 8) :
    d.pkeAbort k = (.ok, ({ d with pke := { d.pke with scratch := d.pke.scratch.set k 0 0 } }).pkeEnd k .aborted) := by
  have hactive : (d.pkeCtx k).active = true := by rw [PkeCtx.active, hstate]; rfl
  have hrange : ¬1 < k := by omega
  have hpend : ¬(1 : Nat) = 2 := by decide
  simp only [Dev.pkeAbort, hyield, hactive, hstate, hrange, hpend, if_neg hop, Bool.not_true, Bool.false_eq_true, or_self, if_false]

/-- An abort in yield mode of the job that runs leaves zeros in its outputs. -/
theorem Dev.pkeAbort_running (hyield : d.flag PKE_CFG_yield = true) (hstate : (d.pkeCtx k).state = 2) (hop : (d.pkeCtx k).op ≠ 8) :
    d.pkeAbort k = (.ok,
      let e := { d with pke := { d.pke with scratch := d.pke.scratch.set k 0 0 } }
      ((((e.pkeZeroOut (d.pkeCtx k)).setPkeCtx k { state := 4, status := Status.aborted.code, cmd := (d.pkeCtx k).cmd }).wr STATUS_last_status
        Status.aborted.code 0 pgPKE).irq pgPKE k).pkeNext k) ∧
    ((d.pkeCtx (1 - k)).state = 0 → (d.pkeAbort k).2.pkeRunning.isSome = false) := by
  have hactive : (d.pkeCtx k).active = true := by rw [PkeCtx.active, hstate]; rfl
  have hrange : ¬1 < k := by omega
  have habort : d.pkeAbort k = (.ok,
      (({ d with pke := { d.pke with scratch := d.pke.scratch.set k 0 0 } }).pkeZeroOut (d.pkeCtx k)).pkeEnd k .aborted) := by
    simp only [Dev.pkeAbort, hyield, hactive, hstate, hrange, if_neg hop, Dev.pkeSpoil, Bool.not_true, Bool.false_eq_true, or_self, if_false,
      if_true]
  have hctx (j : Nat) : (({ d with pke := { d.pke with scratch := d.pke.scratch.set k 0 0 } } : Dev).pkeZeroOut (d.pkeCtx k)).pkeCtx j =
      d.pkeCtx j := Dev.pkeCtx_of_ctx (Dev.pkeZeroOut_ctx ..) j
  rw [habort]
  refine ⟨?_, fun hother => Dev.pkeEnd_last _ hk .aborted ((congrArg PkeCtx.state (hctx (1 - k))).trans hother)⟩
  rw [Dev.pkeEnd_eq _ _ _ (congrArg PkeCtx.cmd (hctx k))]

/-- An abort in run mode clears the operand memory too. -/
theorem Dev.pkeAbort_runMode (hyield : d.flag PKE_CFG_yield = false) (hstate : (d.pkeCtx k).state = 2) :
    d.pkeAbort k = (.ok, (d.pkeEnd k .aborted).pkeWipe) := by
  have hactive : (d.pkeCtx k).active = true := by rw [PkeCtx.active, hstate]; rfl
  have hrange : ¬1 < k := by omega
  simp only [Dev.pkeAbort, hyield, hactive, hrange, Bool.not_true, Bool.not_false, Bool.false_eq_true, or_self, if_false, if_true]

end

/-! ### Completion (R330, R332) -/

section
variable (d : Dev) {k : Nat} {c : PkeCtx} (hrun : d.pkeRunning = some k) (hc : c = d.pkeCtx k)
include hrun hc

/-- A job that reads no memory and no vault comes to its result. -/
theorem Dev.pkeComplete_result (fault : Bool) (hsupplied : c.supplied = true) (hearly : c.earlySt = .ok) (h8 : c.op ≠ 8) (h9 : c.op ≠ 9)
    (hkey : d.pkeKeyBus c = (.ok, d)) (hmore : (d.pkeResult c [] []).1.more = false) :
    d.pkeComplete fault = (d.pkeResult c [] []).2.pkeRelease k c (d.pkeResult c [] []).1 fault := by
  subst hc
  simp only [Dev.pkeComplete, hrun, hsupplied, hearly, h8, h9, or_self, false_and, hkey, hmore, pickStatus, Bool.not_true, Bool.false_and,
    Bool.false_eq_true, if_false, if_true, ne_eq, not_true]

/-- The bits that TRN did not supply in time end the job. -/
theorem Dev.pkeNoRandom_late (hsupplied : c.supplied = false) (hready : d.flag TRN_STAT_drbg_ready = false)
    (hlate : c.since + 100 * cclkPerUs ≤ d.cclk) : d.pkeNoRandom = (d.pkeRec 0xB012 4 k c.op).pkeEnd k .notReady := by
  subst hc
  have hdue : ¬d.cclk < (d.pkeCtx k).since + 100 * cclkPerUs := by omega
  simp only [Dev.pkeNoRandom, hrun, hsupplied, hready, hdue, decide_false, Bool.or_self, Bool.false_eq_true, if_false]

end

theorem Dev.pkeKeyBus_keyless (d : Dev) {c : PkeCtx} (h : c.vaultUse = none) : d.pkeKeyBus c = (.ok, d) := by
  simp only [Dev.pkeKeyBus, h, Option.isNone_none, if_true]

/-- A key on its way into the vault is read from no slot. -/
theorem Dev.pkeKeyBus_generated (d : Dev) {c : PkeCtx} (h : c.keyGen = true) (hbrk : d.brk = none) : d.pkeKeyBus c = (.ok, d) := by
  have hsound : ¬(none : Option Nat) = some 5 := by simp
  simp only [Dev.pkeKeyBus, h, hbrk, hsound, if_true, if_false, ne_eq, not_true, ite_self]

/-- The sum of op 0x10 goes into its slot. -/
theorem Dev.pkeResult_add (d : Dev) {c : PkeCtx} (hop : c.op = 0x10) :
    d.pkeResult c [] [] = ({ slots := [(c.a 3, (d.pkeInt (c.a 0) + d.pkeInt (c.a 1)) % d.pkeInt (c.a 2))] }, d) := by
  have hne : ¬(0x10 : Nat) = 0x14 := by decide
  simp only [Dev.pkeResult, Dev.pkeMod, Dev.pkeModular, hop, hne, false_and, if_false]

/-- A key generation draws once, whatever comes of it. -/
theorem Dev.pkeResult_ecGen (d : Dev) {c : PkeCtx} (hop : c.op = 0x03) :
    (d.pkeResult c [] []).2 = d.drbg.2 ∧ (d.pkeResult c [] []).1.more = false ∧ (d.pkeResult c [] []).1.st = .ok := by
  have hgen : d.pkeResult c [] [] = d.pkeEcGen c := by simp only [Dev.pkeResult, hop]
  rw [hgen, Dev.pkeEcGen]
  dsimp only
  split <;> exact ⟨rfl, rfl, rfl⟩

/-- A result without a check, a vault slot or a destination in memory is put into its slot. -/
theorem Dev.pkeRelease_slot (d : Dev) (k : Nat) {c : PkeCtx} (fault : Bool) {slot v : Nat} (hcheck : c.checked = false) (hop : c.op ≠ 8) :
    d.pkeRelease k c { slots := [(slot, v)] } fault = (d.pkePut slot v).pkeEnd k .ok := by
  simp only [Dev.pkeRelease, hcheck, if_neg hop, Bool.false_and, Bool.false_eq_true, if_false, ne_eq, not_true, List.foldl_cons, List.foldl_nil]

/-- A result that fails its check leaves zeros. -/
theorem Dev.pkeRelease_fault (d : Dev) (k : Nat) {c : PkeCtx} {x : PkeOut} (hst : x.st = .ok) (hcheck : c.checked = true) (hop : c.op ≠ 8) :
    d.pkeRelease k c x true = ((d.pkeZeroOut c).pkeRec 0xB011 6 k c.op).pkeEnd k .faultDetected := by
  simp only [Dev.pkeRelease, hst, hcheck, if_neg hop, Bool.true_or, Bool.and_self, if_true, if_false, ne_eq, not_true]

/-- A finished context shows how its job ended, and is free then. -/
theorem Dev.pkeCtxRead_done (d : Dev) (k : Nat) (h : (d.pkeCtx k).state = 4) : d.pkeCtxRead k =
    (4 * 2 ^ 28 + (d.pkeCtx k).op * 2 ^ 16 + (d.pkeCtx k).status * 2 ^ 8 + b2n (d.pkeCtx k).urgent, d.setPkeCtx k {}) := by
  have hne : ¬(4 : Nat) = 0 := by decide
  simp only [Dev.pkeCtxRead, Dev.pkeCtxView, h, hne, if_false, if_true]


/-! ### Jobs of the hash engine (R336, R341) -/

/-- A first segment, with its source in reach, starts. -/
theorem Dev.hshBegin_first (d : Dev) {j : HshJob} (hfirst : j.first = true) (hidle : d.hsh.job = none)
    (hsrc : d.reach j.owner false j.src j.len = .ok) (hmem : j.toMem = false) (hrules : d.hshBad j = false)
    (hcore : hshKeccak j.fn = true → d.hsh.pkeCore0 = false) : d.hshBegin j =
    (.ok, ((({ d with hsh := { d.hsh with chain := none, xof := none, job := some j } }).wr HSH_STAT_chain_open 0).wr STATUS_busy 1 0 pgHSH).wr
      HSH_STAT_done 0) := by
  have hwait : (hshKeccak j.fn && d.hsh.pkeCore0) = false := by
    cases h : hshKeccak j.fn
    · rfl
    · rw [hcore h, Bool.and_false]
  simp only [Dev.hshBegin, hfirst, hidle, hsrc, hmem, hrules, hwait, pickStatus, Option.isSome_none, bne_self_eq_false, Bool.and_false,
    Bool.false_and, Bool.or_self, Bool.false_eq_true, if_false, if_true, ne_eq, not_true, Dev.wr_hsh, Dev.hshChainBit]
  rfl

/-- A squeeze, to the digest registers, starts. -/
theorem Dev.hshBegin_squeeze (d : Dev) {j : HshJob} (hfirst : j.first = false) (hsqueeze : j.squeeze = true) (hidle : d.hsh.job = none)
    (hmem : j.toMem = false) (hrules : d.hshBad j = false) (hchain : d.hsh.chain = none) (hcore : d.hsh.pkeCore0 = false) : d.hshBegin j =
    (.ok, ((({ d with hsh := { d.hsh with job := some j } }).wr HSH_STAT_chain_open 0).wr STATUS_busy 1 0 pgHSH).wr HSH_STAT_done 0) := by
  simp only [Dev.hshBegin, hfirst, hsqueeze, hidle, hmem, hrules, hchain, hcore, pickStatus, Option.isSome_none, Bool.not_true, Bool.and_false,
    Bool.false_and, Bool.or_self, Bool.false_eq_true, if_false, if_true, ne_eq, not_true, Dev.wr_hsh, Dev.hshChainBit]
  rfl

theorem Dev.hshCmd_go {d d' : Dev} (last : Bool) (h : d.hshBegin (d.hshStaged true last false) = (.ok, d')) :
    d.hshCmd (1 + 2 * b2n true + 4 * b2n last) = (.ok, d') := by
  have hbits : d.hshCmd (1 + 2 * b2n true + 4 * b2n last) =
      (pickStatus [(d.hshBegin (d.hshStaged true last false)).1], (d.hshBegin (d.hshStaged true last false)).2) := by
    cases last <;> rfl
  rw [hbits, h]
  rfl

theorem Dev.hshCmd_squeeze {d d' : Dev} (h : d.hshBegin (d.hshStaged false false true) = (.ok, d')) : d.hshCmd 8 = (.ok, d') := by
  have hbits : d.hshCmd 8 =
      (pickStatus [(d.hshBegin (d.hshStaged false false true)).1], (d.hshBegin (d.hshStaged false false true)).2) := rfl
  rw [hbits, h]
  rfl

theorem Dev.hshCmd_abort {d d' : Dev} (h : d.hshAbort = (.ok, d')) : d.hshCmd 16 = (.ok, d') := by
  have hbits : d.hshCmd 16 = (pickStatus [d.hshAbort.1], d.hshAbort.2) := rfl
  rw [hbits, h]
  rfl

theorem Dev.hshWrite_cmd (d : Dev) (v : Nat) : d.hshWrite 0x058 v = d.hshCmd v := if_pos rfl

theorem Dev.hshAbort_idle (d : Dev) (h : d.hsh.job = none) :
    d.hshAbort = (.ok, ({ d with hsh := { d.hsh with chain := none, xof := none } }).wr HSH_STAT_chain_open 0) := by
  simp only [Dev.hshAbort, h]
  rfl

theorem Dev.hshAbort_running (d : Dev) {j : HshJob} (h : d.hsh.job = some j) (hmem : j.toMem = false) : d.hshAbort =
    (.ok, (({ d with hsh := { d.hsh with chain := none, xof := none } }).wr HSH_STAT_chain_open 0).hshEnd .aborted) := by
  simp only [Dev.hshAbort, h, hmem, Bool.false_eq_true, if_false]
  rfl

theorem Dev.hsh_irq (d : Dev) (page bit : Nat) : (d.irq page bit).hsh = d.hsh := by
  obtain ⟨v, x, out, h⟩ := d.irq_eq page bit
  rw [h, Dev.wr_hsh]

theorem Dev.job_hshEnd (d : Dev) (st : Status) : (d.hshEnd st).hsh.job = none := by
  rw [Dev.hshEnd, Dev.hsh_irq]
  rfl

theorem Dev.hshDigest_hsh (d : Dev) (bs : List Byte) : (d.hshDigest bs).hsh = d.hsh :=
  foldl_keeps Dev.hsh (fun _ _ => Dev.wr_hsh ..) _ d

theorem Dev.hshDeliver_digest (d : Dev) {j : HshJob} (bs : List Byte) (hmem : j.toMem = false) :
    d.hshDeliver j bs = (d.hshDigest bs).hshEnd .ok :=
  if_neg (by rw [hmem]; exact Bool.false_ne_true)

/-- A whole message of a function with a fixed output: its digest goes to the digest registers. -/
theorem Dev.hshComplete_digest (d : Dev) {j : HshJob} {src : List Byte} {d0 : Dev} (hjob : d.hsh.job = some j) (hsqueeze : j.squeeze = false)
    (hfirst : j.first = true) (hlast : j.last = true) (hshake : hshShake j.fn = false)
    (hcore : hshKeccak j.fn = true → d.hsh.pkeCore0 = false) (hread : d.jobRead j.owner j.src j.len = (.ok, src, d0)) :
    d.hshComplete = (({ d0 with hsh := { d0.hsh with chain := none, xof := none } } : Dev).hshDigest
      (((hshStart j.fn).more src).finish.output 0 j.outLen)).hshEnd .ok := by
  have hwait : (hshKeccak j.fn && d.hsh.pkeCore0) = false := by
    cases h : hshKeccak j.fn
    · rfl
    · rw [hcore h, Bool.and_false]
  have hmem : j.toMem = false := by rw [HshJob.toMem, hshake, Bool.and_false, Bool.false_and]
  unfold Dev.hshComplete
  obtain ⟨read, hfun⟩ : ∃ read, Dev.jobRead = read := ⟨_, rfl⟩
  rw [hfun] at hread ⊢
  simp only [hjob, hsqueeze, hfirst, hlast, hshake, hwait, hread, Dev.hshDeliver_digest _ _ hmem, Bool.not_true, Bool.false_eq_true, if_false,
    if_true, ne_eq, not_true]

/-- The end of a job where no chain is open. -/
theorem Dev.hshEnd_closed (d : Dev) (st : Status) (h : d.hsh.chain = none) : d.hshEnd st =
    (let d := ({ d with hsh := { d.hsh with job := none } }).wr HSH_STAT_chain_open 0
     ((((d.wr STATUS_busy 0 0 pgHSH).wr HSH_STAT_core_wait 0).wr HSH_STAT_done 1).wr STATUS_last_status st.code 0 pgHSH).irq pgHSH 0) := by
  simp only [Dev.hshEnd, Dev.hshChainBit, h, Option.isSome_none]
  rfl

/-- The engine takes core 0 for an SLH-DSA job where HSH runs nothing. -/
theorem Dev.keccakHandover_pke (d : Dev) {k : Nat} (hrun : d.pkeRunning = some k) (hslh : (d.pkeCtx k).slh = true) (hidle : d.hsh.job = none) :
    d.keccakHandover = ({ d with hsh := { d.hsh with pkeCore0 := true } }).wr HSH_STAT_core_wait 0 := by
  simp only [Dev.keccakHandover, hrun, hslh, hidle, Bool.not_false, Bool.and_self]

/-- Core 0 goes back to HSH for a job that needs it. -/
theorem Dev.keccakHandover_hsh (d : Dev) {j : HshJob} (hjob : d.hsh.job = some j) (hkeccak : hshKeccak j.fn = true) :
    d.keccakHandover = ({ d with hsh := { d.hsh with pkeCore0 := false } }).wr HSH_STAT_core_wait 0 := by
  simp only [Dev.keccakHandover, hjob, hkeccak, Bool.not_true, Bool.and_false]


/-! ### What each command gives -/

/-- A read of a register of its own effect, which passes every check. -/
theorem Gives.of_readAct {c : Instr} {s : State} {r : Req} {page off v : Nat} {b : Blk} {inst : Nat} {g : Dev → Dev}
    (hacc : s.acceptsRead r page off) (hb : pageBlock page = some (b, inst)) (hlow : off < 0x800) (hraw : off ≠ 0x010)
    (hexec : exec c s = s.read r page off) (hact : s.dev.cleared.readAct r b page off = some (.ok, v, g s.dev.cleared)) :
    Gives c s (fun d => (g d).answer .ok v) := by
  obtain ⟨hon, hcheck, hcopy⟩ := hacc
  refine Gives.of_act (fun d => d.pageRead r page off) hon hexec ?_
  refine (Dev.guardedRead_ok s.dev.cleared r page off _ hcheck hcopy).trans ?_
  have hread : s.dev.cleared.readEffect r page off 0 = (.ok, v, g s.dev.cleared) := by
    simp only [Dev.readEffect, hb, if_neg (Nat.not_le.mpr hlow), if_neg hraw, hact]
  simp only [hread]

theorem pageBlock_pgPKE : pageBlock pgPKE = some (.pke, 0) := by decide

theorem pageBlock_pgHSH : pageBlock pgHSH = some (.hsh, 0) := by decide

theorem Dev.lockJob_pke (d : Dev) : d.lockJob pgPKE = d.pkeRunning.isSome := if_pos rfl

theorem Dev.lockJob_hsh (d : Dev) : d.lockJob pgHSH = d.hsh.job.isSome := by
  rw [Dev.lockJob, if_neg (by decide), if_pos rfl]

theorem Dev.pkeGoWrite_go {d d' : Dev} (h : d.pkeGo false = (.ok, d')) : d.pkeGoWrite 1 = (.ok, d') := by
  have hbits : d.pkeGoWrite 1 = (pickStatus [(d.pkeGo false).1], (d.pkeGo false).2) := rfl
  rw [hbits, h]
  rfl

theorem Dev.pkeGoWrite_abort {d d' : Dev} (k : Fin 4) (h : d.pkeAbort k = (.ok, d')) : d.pkeGoWrite (2 + 16 * k) = (.ok, d') := by
  have hbits : ∀ k : Fin 4, (2 + 16 * k.val).testBit 1 = true ∧ (2 + 16 * k.val).testBit 0 = false ∧ bitsOf (2 + 16 * k.val) 5 4 = k := by
    decide
  obtain ⟨h1, h0, hk⟩ := hbits k
  simp only [Dev.pkeGoWrite, h1, h0, hk, h, if_true, if_false, Bool.false_eq_true]
  rfl

theorem Dev.pkeWrite_go (d : Dev) (v : Nat) : d.pkeWrite 0x080 v = d.pkeGoWrite v := by
  rw [Dev.pkeWrite, if_neg (by decide), if_pos rfl]

theorem Dev.pkeWrite_data (d : Dev) (v : Nat) : d.pkeWrite 0x094 v = d.pkeDataWrite v := by
  rw [Dev.pkeWrite, if_neg (by decide), if_neg (by decide), if_pos rfl]

section
variable {c : Instr} {s : State} {f : Dev → Dev} {r : Req} {off v : Nat}

theorem Effects.of_pkeWrite (hacc : s.accepts r pgPKE off) (hoff : 0x040 ≤ off ∧ off < 0x800) (hexec : exec c s = s.write r pgPKE off v)
    (heff : s.dev.cleared.pkeWrite off v = (.ok, f s.dev.cleared))
    (hjob : s.dev.cleared.pkeRunning.isSome = true → (f s.dev.cleared).pkeRunning.isSome = true) : Effects c s pgPKE f :=
  Effects.of_running v hacc pageBlock_pgPKE hoff hexec heff (by rwa [Dev.lockJob_pke, Dev.lockJob_pke])

theorem EndsJob.of_pkeAbort {k : Fin 4} (hacc : s.accepts r pgPKE 0x080) (hexec : exec c s = s.write r pgPKE 0x080 (2 + 16 * k))
    (heff : s.dev.cleared.pkeAbort k = (.ok, f s.dev.cleared)) (hwas : s.dev.pkeRunning.isSome = true)
    (hend : (f s.dev.cleared).pkeRunning.isSome = false) : EndsJob c s pgPKE f :=
  EndsJob.of_blockWrite _ hacc pageBlock_pgPKE (by decide) hexec ((Dev.pkeWrite_go ..).trans (Dev.pkeGoWrite_abort k heff))
    ((Dev.lockJob_pke _).trans hwas) ((Dev.lockJob_pke _).trans hend)

theorem Effects.of_hshWrite (hacc : s.accepts r pgHSH 0x058) (hexec : exec c s = s.write r pgHSH 0x058 v)
    (heff : s.dev.cleared.hshCmd v = (.ok, f s.dev.cleared)) (hidle : s.dev.hsh.job = none) : Effects c s pgHSH f := by
  refine Effects.of_running v hacc pageBlock_pgHSH (by decide) hexec ((Dev.hshWrite_cmd ..).trans heff) ?_
  rw [Dev.lockJob_hsh]
  exact fun h => absurd h (by simp [show s.dev.cleared.hsh.job = none from hidle])

end


theorem pkeGo_effects {s : State} {r : Req} {c : PkeCtx} (hacc : s.accepts r pgPKE 0x080) (hc : c = s.dev.pkeStaged)
    (h0 : (s.dev.pkeCtx 0).state = 0) (h1 : (s.dev.pkeCtx 1).state = 0) (hclear : s.dev.pke.clearing = false)
    (hvault : s.dev.pkeVaultDenied c = false) (hreach : s.dev.pkeReachBad c = false) (hknown : c.known = true)
    (hoperand : s.dev.pkeOperandBad c = false) (hurgent : c.urgent = false) (hhigh : c.addrHigh = false) (hslh : c.slh = false) :
    Effects (.pkeGo r) s pgPKE (fun d =>
      let x := ((d.setPkeCtx 0 { c with state := 1 }).wr PKE_STAT_last_ctx 0).draw .random
      let d := { x.2 with pke := { x.2.pke with scratch := x.2.pke.scratch.set 0 x.1 0 } }
      (d.setPkeCtx 0 { c with state := 2, since := d.cclk, supplied := !c.random || d.flag TRN_STAT_drbg_ready }).wr STATUS_busy 1 0 pgPKE) := by
  have hpend := Dev.pkeStart_plain ((s.dev.cleared.setPkeCtx 0 { c with state := 1 }).wr PKE_STAT_last_ctx 0)
    (Dev.pkeCtx_setPkeCtx s.dev.cleared 0 { c with state := 1 }) (PkeCtx.op_ne_sign hslh)
  have hgo := Dev.pkeGo_free s.dev.cleared hc h0 h1 hclear hvault hreach hknown hoperand hurgent hhigh hslh
  rw [hpend] at hgo
  subst hc
  have hidle : s.dev.cleared.pkeRunning = none :=
    Dev.pkeRunning_none (d := s.dev.cleared) (fun h => by cases h0.symm.trans h) (fun h => by cases h1.symm.trans h)
  refine Effects.of_pkeWrite hacc (by decide) rfl ((Dev.pkeWrite_go ..).trans (Dev.pkeGoWrite_go hgo)) ?_
  rw [hidle]
  exact fun h => absurd h (by decide)


section
variable {s : State} {r : Req} {k : Fin 4} (hacc : s.accepts r pgPKE 0x080) (hk : k.val < 2) (hyield : s.dev.flag PKE_CFG_yield = true)
include hacc hk hyield

theorem pkeAbort_pending_effects (hstate : (s.dev.pkeCtx k).state = 1) (hop : (s.dev.pkeCtx k).op ≠ 8) :
    Effects (.pkeAbort r k) s pgPKE (fun d =>
      let d := { d with pke := { d.pke with scratch := d.pke.scratch.set k 0 0 } }
      (((d.setPkeCtx k { state := 4, status := Status.aborted.code, cmd := (d.pkeCtx k).cmd }).wr STATUS_last_status Status.aborted.code 0
        pgPKE).irq pgPKE k).pkeNext k) := by
  refine Effects.of_pkeWrite hacc (by decide) rfl
    ((Dev.pkeWrite_go ..).trans (Dev.pkeGoWrite_abort k (Dev.pkeAbort_pending s.dev.cleared hk hyield hstate hop))) ?_
  have hother : s.dev.cleared.pkeRunning.isSome = decide ((s.dev.cleared.pkeCtx (1 - k)).state = 2) :=
    Dev.pkeRunning_isSome_other hk (fun h => by cases hstate.symm.trans h)
  rw [hother]
  exact fun h => Dev.pkeEnd_keeps _ hk .aborted (of_decide_eq_true h)

theorem pkeAbort_running_endsJob {c : PkeCtx} (hc : c = s.dev.pkeCtx k) (hstate : c.state = 2) (hop : c.op ≠ 8)
    (hother : (s.dev.pkeCtx (1 - k)).state = 0) :
    EndsJob (.pkeAbort r k) s pgPKE (fun d =>
      let d := { d with pke := { d.pke with scratch := d.pke.scratch.set k 0 0 } }
      ((((d.pkeZeroOut c).setPkeCtx k { state := 4, status := Status.aborted.code, cmd := c.cmd }).wr STATUS_last_status Status.aborted.code 0
        pgPKE).irq pgPKE k).pkeNext k) := by
  subst hc
  obtain ⟨habort, hidle⟩ := Dev.pkeAbort_running s.dev.cleared hk hyield hstate hop
  have hend := hidle hother
  rw [habort] at hend
  refine EndsJob.of_pkeAbort hacc rfl habort ?_ hend
  obtain hzero | hone : k.val = 0 ∨ k.val = 1 := by omega
  · rw [hzero] at hstate
    rw [Dev.pkeRunning_first hstate]
    rfl
  · rw [hone] at hstate hother
    rw [Dev.pkeRunning, if_neg (fun h => by cases hother.symm.trans h), if_pos hstate]
    rfl

end


theorem pkeAbort_runMode_endsJob {s : State} {r : Req} (hacc : s.accepts r pgPKE 0x080) (hyield : s.dev.flag PKE_CFG_yield = false)
    (hstate : (s.dev.pkeCtx 0).state = 2) (hother : (s.dev.pkeCtx 1).state = 0) :
    EndsJob (.pkeAbort r 0) s pgPKE (fun d =>
      let d := (((d.setPkeCtx 0 { state := 4, status := Status.aborted.code, cmd := (d.pkeCtx 0).cmd }).wr STATUS_last_status
        Status.aborted.code 0 pgPKE).irq pgPKE 0).pkeNext 0
      ({ d with pke := { d.pke with mem := [], clearing := true, release := [], scratch := [] } }).wr STATUS_busy 1 0 pgPKE) := by
  have habort := Dev.pkeAbort_runMode s.dev.cleared (k := 0) (by decide) hyield hstate
  rw [Dev.pkeWipe_eq] at habort
  refine EndsJob.of_pkeAbort (k := 0) hacc rfl habort (by rw [Dev.pkeRunning_first hstate]; rfl) ?_
  exact (congrArg Option.isSome (Dev.pkeRunning_of_ctx rfl)).trans (Dev.pkeEnd_last s.dev.cleared (k := 0) (by decide) .aborted hother)

/-- Settles O47, clause by clause: the engine's memory and window, its jobs' start, abort, preemption and ends, and the hash engine's. -/
theorem publicKeyAndHashComplete : Obligations.PublicKeyAndHashComplete := by
  refine ⟨?cfg, ?wiped, ?dataWrite, ?dataRead, fun s r c => pkeGo_effects, fun s r k => pkeAbort_pending_effects,
    fun s r k c hacc hk hyield => pkeAbort_running_endsJob hacc hk hyield, fun s r => pkeAbort_runMode_endsJob, ?preempt, ?sum, ?fault, ?late,
    ?ctxRead, ?toPke, ?toHsh, ?hshGo, ?squeeze, ?hshAbortIdle, ?hshAbort, ?digest⟩
  case cfg =>
    intro s r v hacc h0 h1 hclear hlow hhigh
    have hcfg := Dev.pkeCfg_ok s.dev.cleared h0 h1 hclear hlow hhigh
    rw [Dev.pkeWipe_eq] at hcfg
    refine Effects.of_pkeWrite hacc (by decide) rfl ((if_pos rfl).trans hcfg) ?_
    rw [Dev.pkeRunning_none (d := s.dev.cleared) (fun h => by cases h0.symm.trans h) (fun h => by cases h1.symm.trans h)]
    exact fun h => absurd h (by decide)
  case wiped =>
    intro s hon hclear hrun
    exact Gives.of_act Dev.pkeWiped hon rfl (Dev.pkeWiped_idle s.dev.cleared hclear hrun)
  case dataWrite =>
    intro s r v i hacc hsel hfree hclear
    exact Effects.of_pkeWrite hacc (by decide) rfl
      ((Dev.pkeWrite_data ..).trans (Dev.pkeDataWrite_ok (d := s.dev.cleared) hsel hclear v hfree))
      (fun h => (congrArg Option.isSome (Dev.pkeRunning_of_ctx (congrArg Pke.ctx (Dev.pkeAdvance_pke _)))).trans h)
  case dataRead =>
    intro s r i hacc hown hsel hfree hclear
    exact Gives.of_readAct (g := Dev.pkeAdvance) hacc pageBlock_pgPKE (by decide) (by decide) rfl
      (congrArg some (Dev.pkeDataRead_ok (d := s.dev.cleared) hsel hclear hown hfree))
  case preempt =>
    intro s hon hyield hrun hcalm hpend hurgent
    exact Gives.of_act Dev.pkePreempt hon rfl (Dev.pkePreempt_urgent s.dev.cleared hyield hrun hcalm hpend hurgent)
  case sum =>
    intro s k c fault hon hrun hc hsupplied hearly hop
    have hcheck : c.checked = false := by simp [PkeCtx.checked, PkeCtx.privateOp, PkeCtx.keyGen, hop]
    have hkey : c.vaultUse = none := by simp [PkeCtx.vaultUse, PkeCtx.privateOp, PkeCtx.keyGen, hop]
    have hresult := Dev.pkeResult_add s.dev.cleared hop
    refine Gives.of_act (fun d => (d.withBreak none).pkeComplete fault) hon rfl ?_
    refine (Dev.pkeComplete_result s.dev.cleared hrun hc fault hsupplied hearly (by omega) (by omega) (Dev.pkeKeyBus_keyless _ hkey)
      (by rw [hresult])).trans ?_
    rw [hresult, Dev.pkeRelease_slot _ k fault hcheck (by omega), Dev.pkeEnd_eq (cmd := c.cmd)]
    · rfl
    · rw [Dev.pkeCtx_of_ctx (Dev.pkePut_ctx ..), hc]
      rfl
  case fault =>
    intro s k c hon hrun hc hsupplied hearly hop
    have hgen : c.keyGen = true := by simp [PkeCtx.keyGen, hop]
    have hcheck : c.checked = true := by simp [PkeCtx.checked, hgen]
    obtain ⟨hdrawn, hmore, hst⟩ := Dev.pkeResult_ecGen s.dev.cleared hop
    refine Gives.of_act (fun d => (d.withBreak none).pkeComplete true) hon rfl ?_
    refine (Dev.pkeComplete_result s.dev.cleared hrun hc true hsupplied hearly (by omega) (by omega) (Dev.pkeKeyBus_generated _ hgen rfl)
      hmore).trans ?_
    rw [hdrawn, Dev.pkeRelease_fault _ k hst hcheck (by omega), Dev.pkeEnd_eq (cmd := c.cmd)]
    rw [Dev.pkeCtx_of_ctx ((Dev.pkeRec_ctx ..).trans ((Dev.pkeZeroOut_ctx ..).trans (congrArg Pke.ctx (Dev.drbg_pke ..)))), hc]
    rfl
  case late =>
    intro s k c hon hrun hc hsupplied hready hlate
    exact Gives.of_act Dev.pkeNoRandom hon rfl (Dev.pkeNoRandom_late s.dev.cleared hrun hc hsupplied hready hlate)
  case ctxRead =>
    intro s r k c hacc hc hdone
    subst hc
    have hpage : ∀ k : Fin 2, ¬(0x084 + 4 * k.val = 0x094) ∧ (0x084 + 4 * k.val = 0x084 ∨ 0x084 + 4 * k.val = 0x088) ∧
        (0x084 + 4 * k.val - 0x084) / 4 = k.val := by decide
    obtain ⟨hdata, hctx, hk⟩ := hpage k
    refine Gives.of_readAct (g := fun d => d.setPkeCtx k {}) hacc pageBlock_pgPKE (by omega) (by omega) rfl ?_
    simp only [Dev.readAct, if_neg hdata, if_pos hctx, hk]
    rw [Dev.pkeCtxRead_done s.dev.cleared k hdone]
    rfl
  case toPke =>
    intro s k hon hrun hslh hidle
    exact Gives.of_act Dev.keccakHandover hon rfl (Dev.keccakHandover_pke s.dev.cleared hrun hslh hidle)
  case toHsh =>
    intro s j hon hjob hkeccak
    exact Gives.of_act Dev.keccakHandover hon rfl (Dev.keccakHandover_hsh s.dev.cleared hjob hkeccak)
  case hshGo =>
    intro s r last j hacc hj hidle hsrc hmem hrules hcore
    subst hj
    exact Effects.of_hshWrite hacc rfl (Dev.hshCmd_go last (Dev.hshBegin_first s.dev.cleared rfl hidle hsrc hmem hrules hcore)) hidle
  case squeeze =>
    intro s r j hacc hj hidle hmem hrules hchain hcore
    subst hj
    exact Effects.of_hshWrite hacc rfl (Dev.hshCmd_squeeze (Dev.hshBegin_squeeze s.dev.cleared rfl rfl hidle hmem hrules hchain hcore)) hidle
  case hshAbortIdle =>
    intro s r hacc hidle
    exact Effects.of_hshWrite hacc rfl (Dev.hshCmd_abort (Dev.hshAbort_idle s.dev.cleared hidle)) hidle
  case hshAbort =>
    intro s r j hacc hjob hmem
    refine EndsJob.of_blockWrite 16 hacc pageBlock_pgHSH (by decide) rfl
      ((Dev.hshWrite_cmd ..).trans (Dev.hshCmd_abort (Dev.hshAbort_running s.dev.cleared hjob hmem))) ?_ ?_
    · rw [Dev.lockJob_hsh]
      exact Option.isSome_of_eq_some hjob
    · rw [Dev.lockJob_hsh, Dev.job_hshEnd]
      rfl
  case digest =>
    intro s j src d0 hon hjob hsqueeze hfirst hlast hshake hcore hread
    refine Gives.of_act (fun d => (d.withBreak none).hshComplete) hon rfl ?_
    refine (Dev.hshComplete_digest s.dev.cleared hjob hsqueeze hfirst hlast hshake hcore hread).trans ?_
    rw [Dev.hshEnd_closed _ _ (by rw [Dev.hshDigest_hsh])]
    rfl

end Sys2Proof.Machine
end

section
/-! SUPPORT. Resets, RESET_OUT_N, the stages of a start, BOOT_OK, a recovery fragment, and O48 (R347 to R351, R354, R517, R518, R520). -/

namespace Sys2Proof.Machine

open Sys2Proof

/-! ### Resets (R353, R518) -/

theorem Dev.warmReset_stays {d : Dev} (cause : Nat) (hmode : d.bivouac = false) : d.warmReset cause = d.resetNow true cause := by
  simp only [Dev.warmReset, hmode, Bool.false_and, Bool.false_eq_true, if_false]

/-- Exit 1 of bivouac mode: the counter becomes 2 and the record is written at the restart (R353). -/
theorem Dev.warmReset_leaves {d : Dev} (cause : Nat) (hmode : d.bivouac = true) (hnone : d.rd RFG_BOOT_CAUSE_cause ≠ 0)
    (hseven : d.rd RFG_BOOT_CAUSE_cause ≠ 7) :
    d.warmReset cause = (({ d with rfg := { d.rfg with fails := 2 } }).resetNow true cause).refugeRec 0xC004 7 1 0 := by
  have hleaves : (d.bivouac && d.rd RFG_BOOT_CAUSE_cause != 0 && d.rd RFG_BOOT_CAUSE_cause != 7) = true := by
    simp [hmode, hnone, hseven]
  simp only [Dev.warmReset, hleaves, if_true]

theorem Dev.powerOn_stays {d : Dev} (brownout : Bool) (straps : Fin 8) (cycles : Nat) (hmode : d.bivouac = false) :
    d.powerOn brownout straps cycles = ((((d.setRtc (d.bkd.rtc + cycles) d.bkd.frac).resetNow false (if brownout then 2 else 1)).wrWord
      SYS_STRAP_rope_pos straps).strapEffect).wr BKD_STAT_on_vbat 0 := by
  simp only [Dev.powerOn, hmode, Bool.false_and, Bool.false_eq_true, if_false, Nat.mod_eq_of_lt straps.isLt, causeBrownout, causePor]

/-- SYS_RST_CMD with its key is a warm reset. -/
theorem Dev.sysWrite_reset (d : Dev) : d.sysWrite 0x04C 0xA5C30000 = (.ok, d.warmReset causeCmd) := by
  have hkey : bitsOf 0xA5C30000 31 16 = 0xA5C3 := rfl
  rw [Dev.sysWrite, if_pos hkey]

/-! ### RESET_OUT_N (R520) -/

/-- SYS_EXT_RST.assert holds what was written. -/
theorem Dev.rd_assert_plainWrite (d : Dev) (v : Nat) : (d.plainWrite pgSYS 0x050 v).2.rd SYS_EXT_RST_assert = bitsOf v 0 0 :=
  Dev.plainWrite_field (b := .sys) (inst := 0) (g := ⟨0x050, 0, 1, .refuge, true, [⟨0, 0, .rw, 0⟩]⟩) (f := ⟨0, 0, .rw, 0⟩) d v rfl rfl
    (List.mem_singleton.mpr rfl)

theorem Dev.plainWrite_sys (d : Dev) (page off v : Nat) : (d.plainWrite page off v).2.sys = d.sys := by
  unfold Dev.plainWrite
  split
  · rfl
  · split
    · rfl
    · dsimp only
      split
      · rfl
      · split <;> rfl

theorem Dev.plainWrite_cclk (d : Dev) (page off v : Nat) : (d.plainWrite page off v).2.cclk = d.cclk := by
  unfold Dev.plainWrite
  split
  · rfl
  · split
    · rfl
    · dsimp only
      split
      · rfl
      · split <;> rfl

theorem Dev.resetOutSettle_asserted {d : Dev} (hflag : d.rd SYS_EXT_RST_assert = 1) (hhigh : d.sys.outHigh = true) :
    d.resetOutSettle = ({ d with sys := { d.sys with outHigh := false } }).emit (.resetOut false) := by
  simp [Dev.resetOutSettle, Dev.flag, hflag, hhigh]

theorem Dev.resetOutSettle_released {d : Dev} (hflag : d.rd SYS_EXT_RST_assert = 0) (hlow : d.sys.outHigh = false)
    (htime : d.sys.outTill ≤ d.cclk) :
    d.resetOutSettle = ({ d with sys := { d.sys with outHigh := true } }).emit (.resetOut true) := by
  simp [Dev.resetOutSettle, Dev.flag, hflag, hlow, htime]

/-- SYS_EXT_RST_WRITE leaves the bit in the register, and RESET_OUT_N follows it. -/
theorem effects_sysExtRstWrite {s : State} {r : Req} {assert : Bool} {f : Dev → Dev} (hacc : s.accepts r pgSYS 0x050)
    (hsettle : (s.dev.cleared.plainWrite pgSYS 0x050 (b2n assert)).2.resetOutSettle = f s.dev.cleared) :
    Effects (.sysExtRstWrite r assert) s pgSYS f := by
  refine Effects.of_blockWrite (b := .sys) (inst := 0) (b2n assert) hacc rfl rfl (by omega) rfl ?_
  have hok := Dev.plainWrite_status (page := pgSYS) (off := 0x050) (b := .sys) (inst := 0)
    (g := ⟨0x050, 0, 1, .refuge, true, [⟨0, 0, .rw, 0⟩]⟩) s.dev.cleared (b2n assert) rfl rfl rfl
  change (_, _) = _
  rw [hsettle, hok]

/-! ### Base camp (R347, R349, R350) -/

theorem Dev.transResume_idle {d : Dev} (env : CmdEnv) (h : d.rd LCC_STATE_progress = 0) : d.transResume env = d := if_pos h

/-- A start that the failed-start counter lets through, with accepted firmware. -/
theorem Dev.countStart_accepted {d : Dev} {fw : Manifest} (hfails : d.rfg.fails < 3)
    (hfw : (d.setFails (d.rfg.fails + 1)).manifestCause fw true = 0) :
    d.countStart fw = { d.setFails (d.rfg.fails + 1) with rfg := { (d.setFails (d.rfg.fails + 1)).rfg with
      baseDone := true, fwVersion := fw.version, fwDigest := manifestDigest fw } } := by
  simp only [Dev.countStart, if_neg (Nat.not_le.mpr hfails), hfw, ne_eq, not_true_eq_false, if_false]

/-- Base camp without a break-in, a ROM fault, or a region to erase again. -/
theorem Dev.baseCamp_accepted {d d0 d1 : Dev} {v : BaseEnv} (hfirst : d.rfg.baseDone = false) (hmode : d.bivouac = false)
    (hlock : v.lockstep = true) (hrom : v.rom = true) (hsys : v.sysBlocks = []) (hscan : d.flag FLC_STAT_scan_done = true)
    (hd0 : d0 = (d.startM0.lightSelftest v.light.toNat).trnStart v.trn) (hprog : d0.rd LCC_STATE_progress = 0)
    (hpow : d0.sys.powered = true) (hd1 : d1 = d0.logsStart v.copyCut v.failLines) (hpow1 : d1.sys.powered = true)
    (htamper : d1.flag LCC_STATE_tamper_lock = false) (hlcc : d1.lcc ≠ 3) :
    d.baseCamp v = (d1.countStart (d.rfg.firmware.getD v.fw)).refugeWrites v.writes := by
  have herase (x : Dev) : x.reErase v.eraseFails v.sysBlocks = (0, x) := by rw [hsys]; rfl
  unfold Dev.baseCamp
  simp only [hfirst, hmode, hscan, hlock, hrom, herase, ← hd0, Dev.transResume_idle v.cmd hprog, hpow, ← hd1, hpow1, htamper, hlcc,
    Bool.false_eq_true, or_self, if_false, if_true, Bool.not_true, ne_eq, not_true_eq_false]

theorem Dev.baseCamp_lockstep {d : Dev} {v : BaseEnv} (hfirst : d.rfg.baseDone = false) (hmode : d.bivouac = false)
    (hlock : v.lockstep = false) :
    d.baseCamp v =
      (((if d.flag FLC_STAT_scan_done then d else d.flScan []).startM0.lightSelftest v.light.toNat).level 80 true).enterBivouac 6 80 := by
  unfold Dev.baseCamp
  simp only [hfirst, hmode, hlock, Bool.false_eq_true, or_self, if_false, Bool.not_false, if_true]

/-! ### Stage 1 (R296, R345 to R347) -/

theorem Dev.setSlot_brk (d : Dev) (n : Nat) (x : Slot) : (d.setSlot n x).brk = d.brk := rfl

theorem Dev.reload_brk (d : Dev) (sealed : Bool) : (d.reload sealed).brk = d.brk :=
  foldl_keeps Dev.brk (fun b _ => by dsimp only; split <;> rfl) _ d

theorem Dev.randomBytes_brk (d : Dev) (n : Nat) : (d.randomBytes n).2.brk = d.brk := by
  obtain ⟨regs, m, x, hdrbg⟩ := d.drbg_eq
  rw [Dev.randomBytes, hdrbg]

theorem Dev.dramKeys_brk (d : Dev) : d.dramKeys.brk = d.brk := by
  unfold Dev.dramKeys
  split
  · rfl
  · exact foldl_keeps Dev.brk (fun b _ => by rw [Dev.setSlot_brk, Dev.randomBytes_brk]) _ d

theorem Dev.direct_brk (d : Dev) (page : Nat) (x : Rec) : (d.direct page x).brk = d.brk := rfl

theorem Dev.refugeRec_brk (d : Dev) (code sev p0 p2 : Nat) : (d.refugeRec code sev p0 p2).brk = d.brk := rfl

theorem Dev.islReport_brk (d : Dev) : d.islReport.brk = d.brk := by
  unfold Dev.islReport
  simp only [Dev.setIsl, apply_ite Dev.brk, Dev.refugeRec_brk, ite_self]
  split
  · simp only [apply_ite Dev.brk, Dev.direct_brk, ite_self]
  · rfl

/-- BOOT_REFUGE with no parity error in a key transfer. -/
theorem Dev.bootRefuge_unbroken {d : Dev} (w : List RegWrite) (hbrk : d.brk = none) (hdone : d.rfg.baseDone = true)
    (hmode : d.bivouac = false) (hstage : d.rd RFG_STAGE_stage = 0) (hdrbg : d.flag TRN_STAT_drbg_ready = true) :
    d.bootRefuge w = ((((d.wr RFG_STAGE_stage 1).reload true).dramKeys.wr MCE_STAT_keys_loaded 1).islReport).refugeWrites w := by
  have hkeys : (((d.wr RFG_STAGE_stage 1).reload true).dramKeys).brk = none := by
    rw [Dev.dramKeys_brk, Dev.reload_brk, Dev.wr_brk, hbrk]
  have hload : (((d.wr RFG_STAGE_stage 1).reload true).dramKeys).loadDramKeys =
      ((d.wr RFG_STAGE_stage 1).reload true).dramKeys.wr MCE_STAT_keys_loaded 1 := by
    rw [Dev.loadDramKeys, if_neg (by rw [hkeys]; simp)]
  have hreport : ((((d.wr RFG_STAGE_stage 1).reload true).dramKeys.wr MCE_STAT_keys_loaded 1).islReport).brk = none := by
    rw [Dev.islReport_brk, Dev.wr_brk, hkeys]
  unfold Dev.bootRefuge
  rw [if_neg (by simp [hdone, hmode, hstage, hdrbg])]
  dsimp only
  rw [hload, hreport, if_neg (by simp)]

/-! ### Stages 2 and 3 (R347, R349) -/

theorem Dev.bootLoading_accepted {d : Dev} (m : Manifest) (w : List RegWrite) (hmode : d.bivouac = false) (hstage : d.rd RFG_STAGE_stage = 1)
    (hcause : (d.wr RFG_STAGE_stage 2).manifestCause (d.rfg.station.getD m) false = 0) :
    d.bootLoading m w =
      ({ ((d.wr RFG_STAGE_stage 2).refugeWrites w).loadImages (d.rfg.station.getD m) with
        rfg := { (((d.wr RFG_STAGE_stage 2).refugeWrites w).loadImages (d.rfg.station.getD m)).rfg with
          role := (d.rfg.station.getD m).role, stationDigest := manifestDigest (d.rfg.station.getD m) } }).startWorld 2 := by
  unfold Dev.bootLoading
  simp only [hmode, hstage, hcause, Bool.false_eq_true, ne_eq, not_true_eq_false, or_self, if_false]

theorem Dev.bootLoading_refused {d : Dev} (m : Manifest) (w : List RegWrite) (hmode : d.bivouac = false) (hstage : d.rd RFG_STAGE_stage = 1)
    (hcause : (d.wr RFG_STAGE_stage 2).manifestCause (d.rfg.station.getD m) false ≠ 0) :
    d.bootLoading m w = (d.wr RFG_STAGE_stage 2).enterBivouac ((d.wr RFG_STAGE_stage 2).manifestCause (d.rfg.station.getD m) false) 0 := by
  unfold Dev.bootLoading
  simp only [hmode, hstage, Bool.false_eq_true, ne_eq, not_true_eq_false, or_self, if_false, hcause, not_false_eq_true, if_true]

theorem Dev.bootReady_starts {d : Dev} (w : List RegWrite) (hmode : d.bivouac = false) (hstage : d.rd RFG_STAGE_stage = 2) :
    d.bootReady w = ((d.wr RFG_STAGE_stage 3).refugeWrites w).startWorld 1 :=
  if_neg (by simp [hmode, hstage])

/-! ### BOOT_OK (R351) -/

theorem Dev.bootOk_accepted {d : Dev} (hstage : d.rd RFG_STAGE_stage = 3) (htime : d.sinceReset < 30 * cclkPerS) :
    d.bootOk 0x5A = (.ok,
      ((((({ (d.wr RFG_STAGE_stage 4) with rfg := { d.rfg with fails := 0 } }).wr RFG_BOOT_CAUSE_fails 0).refugeRec 0xC001 1
        (d.sinceReset / cclkPerMs) 0).placeStatement).mirrorTrigger).islMix) := by
  have hkey : bitsOf 0x5A 7 0 = 0x5A := rfl
  simp only [Dev.bootOk, hstage, hkey, if_neg (Nat.not_le.mpr htime)]
  rfl

/-- A wrong key is ST_BAD_PARAM, before the stage and the time are looked at. -/
theorem Dev.bootOk_wrongKey {d : Dev} {v : Nat} (hstage : d.rd RFG_STAGE_stage < 3) (hkey : bitsOf v 7 0 ≠ 0x5A) :
    d.bootOk v = (.badParam, d) := by
  simp only [Dev.bootOk, if_pos hstage, if_neg hkey, if_neg (show ¬4 ≤ d.rd RFG_STAGE_stage by omega)]
  split <;> rfl

/-- A write that a block register refuses without effect. -/
theorem TurnedAway.of_blockWrite {c : Instr} {s : State} {r : Req} {page off : Nat} {b : Blk} {inst : Nat} {st : Status} (v : Nat)
    (hacc : s.accepts r page off) (hb : pageBlock page = some (b, inst)) (hpage : lockPages.contains page = false)
    (hoff : 0x040 ≤ off ∧ off < 0x800) (hexec : exec c s = s.write r page off v)
    (href : s.dev.cleared.blockWrite r b inst page off v noEnv = (st, s.dev.cleared)) : TurnedAway c s page st := by
  obtain ⟨hon, hcheck, hcopy⟩ := hacc
  have hwrite : s.dev.cleared.writeEffect r page off v noEnv = (st, s.dev.cleared) := by
    simp only [Dev.writeEffect, hb]
    rw [if_neg (by omega), href]
  refine Gives.of_act _ hon hexec ?_
  rw [Dev.pageWrite_idle s.dev.cleared r page off v noEnv (Dev.lockJob_elsewhere _ hpage) hcheck hcopy, hwrite]

theorem Dev.bootOkExpiry_due {d : Dev} (hmode : d.bivouac = false) (hstage : d.rd RFG_STAGE_stage < 4) (htime : 30 * cclkPerS ≤ d.sinceReset) :
    d.bootOkExpiry = (d.resetNow true 16).direct pgRFG (d.mkRec 0xC002 5 3 0x7E ⟨d.rd RFG_STAGE_stage, 1, 0⟩) := by
  rw [Dev.bootOkExpiry, if_pos ⟨hstage, htime⟩, Dev.warmReset_stays _ hmode]
  rfl

/-! ### Recovery (R354) -/

/-- The first fragment of a session that is not its last. -/
theorem Dev.recoveryFrame_first {d : Dev} (src : Nat) (payload : List Byte) (m : Manifest) (env : CmdEnv) (hmode : d.bivouac = true)
    (hidle : d.rfg.session = none) (hpos : 0 < leAt payload 8 2) (hmax : leAt payload 8 2 ≤ 8192)
    (hlen : 12 + leAt payload 8 2 ≤ payload.length) (hflags : leAt payload 10 2 < 4) (hlast : (leAt payload 10 2).testBit 0 = false)
    (hoff : leAt payload 4 4 = 0) :
    d.recoveryFrame src payload m env =
      ({ d with rfg := { d.rfg with session := some (leAt payload 0 4, (leAt payload 10 2).testBit 1,
        slice payload 12 (leAt payload 8 2)) } }).recoveryAnswer src d.rfg.otp.mac payload .ok := by
  have hbad : ¬(leAt payload 8 2 = 0 ∨ 8192 < leAt payload 8 2 ∨ payload.length < 12 + leAt payload 8 2 ∨ 4 ≤ leAt payload 10 2) := by omega
  simp only [Dev.recoveryFrame, hmode, Bool.not_true, Bool.false_eq_true, if_false, if_neg hbad, hidle, Option.getD_none, hoff, hlast,
    List.length_nil, ne_eq, not_true_eq_false, or_self, List.nil_append]

/-- Settles O48: each reset, stage and session command meets its case of the model's function (R347 to R351, R354, R517, R518, R520). -/
theorem resetsAndStartComplete : Obligations.ResetsAndStartComplete := by
  refine ⟨?powerOn, ?powerLoss, ?warm, ?warmLeaves, ?rstCmd, ?extAssert, ?extRelease, ?baseCamp, ?lockstep, ?refuge, ?loading, ?loadingRefused,
    ?ready, ?bootOk, ?wrongKey, ?expiry, ?recovery⟩
  case powerOn =>
    intro s brownout straps cycles hmode
    exact congrArg (fun d => Host.Outcome.next { s with rr := 0, dev := d }) (Dev.powerOn_stays (d := s.dev.cleared) brownout straps cycles hmode)
  case powerLoss => exact fun s cut hon => Gives.of_act (fun d => d.powerLoss cut) hon rfl rfl
  case warm => exact fun s hon hmode => Gives.of_act (fun d => d.warmReset causeWrst) hon rfl (Dev.warmReset_stays _ hmode)
  case warmLeaves =>
    exact fun s hon hmode hnone hseven =>
      Gives.of_act (fun d => d.warmReset causeWrst) hon rfl (Dev.warmReset_leaves (d := s.dev.cleared) _ hmode hnone hseven)
  case rstCmd =>
    intro s r hacc hmode
    refine Effects.of_blockWrite (b := .sys) (inst := 0) 0xA5C30000 hacc rfl rfl (by omega) rfl ?_
    exact (Dev.sysWrite_reset s.dev.cleared).trans (congrArg (Prod.mk Status.ok) (Dev.warmReset_stays (d := s.dev.cleared) causeCmd hmode))
  case extAssert =>
    intro s r hacc hhigh
    refine effects_sysExtRstWrite hacc (Dev.resetOutSettle_asserted (Dev.rd_assert_plainWrite ..) ?_)
    rwa [Dev.plainWrite_sys]
  case extRelease =>
    intro s r hacc hlow htime
    refine effects_sysExtRstWrite hacc (Dev.resetOutSettle_released (Dev.rd_assert_plainWrite ..) ?_ ?_)
    · rwa [Dev.plainWrite_sys]
    · rwa [Dev.plainWrite_sys, Dev.plainWrite_cclk]
  case baseCamp =>
    rintro s v d0 d1 d2 fw c hon hfirst hmode hlock hrom hsys hscan hd0 hprog hpow hd1 hpow1 htamper hlcc rfl hfails rfl rfl hfw
    refine Gives.of_act (fun d => d.baseCamp v) hon rfl ?_
    rw [Dev.baseCamp_accepted (d := s.dev.cleared) hfirst hmode hlock hrom hsys hscan hd0 hprog hpow hd1 hpow1 htamper hlcc]
    exact congrArg (Dev.refugeWrites · v.writes) (Dev.countStart_accepted hfails hfw)
  case lockstep =>
    exact fun s v hon hfirst hmode hlock => Gives.of_act (fun d => d.baseCamp v) hon rfl (Dev.baseCamp_lockstep hfirst hmode hlock)
  case refuge =>
    exact fun s w hon hdone hmode hstage hdrbg =>
      Gives.of_act (fun d => (d.withBreak none).bootRefuge w) hon rfl
        (Dev.bootRefuge_unbroken (d := s.dev.cleared) w rfl hdone hmode hstage hdrbg)
  case loading =>
    rintro s _ m' w hon hmode hstage rfl hcause
    exact Gives.of_act (fun d => d.bootLoading m' w) hon rfl (Dev.bootLoading_accepted m' w hmode hstage hcause)
  case loadingRefused =>
    rintro s _ m' w _ hon hmode hstage rfl rfl hcause
    exact Gives.of_act (fun d => d.bootLoading m' w) hon rfl (Dev.bootLoading_refused m' w hmode hstage hcause)
  case ready => exact fun s w hon hmode hstage => Gives.of_act (fun d => d.bootReady w) hon rfl (Dev.bootReady_starts w hmode hstage)
  case bootOk =>
    exact fun s r hacc hstage htime => Effects.of_blockWrite (b := .rfg) (inst := 0) 0x5A hacc rfl rfl (by omega) rfl
      (Dev.bootOk_accepted (d := s.dev.cleared) hstage htime)
  case wrongKey =>
    intro s r key hacc hstage hkey
    have hbits : bitsOf key.toNat 7 0 ≠ 0x5A := by
      have hlt := key.isLt
      have hval : bitsOf key.toNat 7 0 = key.toNat := by simp [bitsOf]; omega
      rw [hval]
      exact fun h => hkey (BitVec.eq_of_toNat_eq h)
    exact TurnedAway.of_blockWrite (b := .rfg) (inst := 0) key.toNat hacc rfl rfl (by omega) rfl
      (Dev.bootOk_wrongKey (d := s.dev.cleared) hstage hbits)
  case expiry =>
    exact fun s hon hmode hstage htime => Gives.of_act (fun d => d.bootOkExpiry) hon rfl
      (Dev.bootOkExpiry_due (d := s.dev.cleared) hmode hstage htime)
  case recovery =>
    rintro s src payload m env _ _ _ hon hmode rfl rfl rfl hidle hpos hmax hlen hflags hlast hoff
    exact Gives.of_act (fun d => d.recoveryFrame src.toNat payload m env) hon rfl
      (Dev.recoveryFrame_first (d := s.dev.cleared) src.toNat payload m env hmode hidle hpos hmax hlen hflags hlast hoff)

end Sys2Proof.Machine
end

section
/-! SUPPORT. Signed commands, the nonce, debug authorisation and TRN, and O49 (R344, R356 to R360, R363). -/

namespace Sys2Proof.Machine

open Sys2Proof

/-! ### What a transition leaves of the power and of TRN's service (R356, R363) -/

/-- Power and TRN_STAT as before. -/
def Dev.ServiceKept (d d' : Dev) : Prop :=
  d'.sys = d.sys ∧ d'.word (TRN_STAT_drbg_ready.key 0 0) = d.word (TRN_STAT_drbg_ready.key 0 0)

theorem Dev.ServiceKept.powered {d d' : Dev} (h : d.ServiceKept d') : d'.sys.powered = d.sys.powered := by rw [h.1]

theorem Dev.ServiceKept.drbgReady {d d' : Dev} (h : d.ServiceKept d') : d'.flag TRN_STAT_drbg_ready = d.flag TRN_STAT_drbg_ready := by
  rw [Dev.flag, Dev.rd, h.2]
  rfl

namespace Dev.ServiceKept

theorem refl (d : Dev) : d.ServiceKept d := ⟨rfl, rfl⟩

theorem of_regs {d d' : Dev} (hsys : d'.sys = d.sys) (hregs : d'.regs = d.regs) : d.ServiceKept d' := ⟨hsys, by rw [Dev.word, hregs]; rfl⟩

section
variable {d d' : Dev} (h : d.ServiceKept d')
include h

theorem trans {d'' : Dev} (h' : d'.ServiceKept d'') : d.ServiceKept d'' := ⟨h'.1.trans h.1, h'.2.trans h.2⟩

theorem ite {d'' : Dev} {p : Prop} [Decidable p] (h' : d.ServiceKept d'') : d.ServiceKept (if p then d' else d'') := by
  split <;> assumption

/-- A register after TRN_STAT. -/
theorem setWord {key : Nat} (v : Nat) (hkey : TRN_STAT_drbg_ready.key 0 0 < key) : d.ServiceKept (d'.setWord key v) :=
  h.trans ⟨rfl, Dev.word_setWord_ne _ (Nat.ne_of_lt hkey) v⟩

/-- A field of a page after TRN's. -/
theorem wr {f : Fld} (v k p : Nat) (hpage : 0x07B ≤ f.page) : d.ServiceKept (d'.wr f v k p) := by
  refine setWord h _ ?_
  simp only [Fld.key, regKey]
  omega

theorem wrOwn {f : Fld} (req v : Nat) (hpage : 0x07B ≤ f.page) : d.ServiceKept (d'.wrOwn req f v) := by
  refine setWord h _ ?_
  simp only [Fld.key, regKey]
  omega

theorem irq {page : Nat} (bit : Nat) (hpage : 0x07B ≤ page) : d.ServiceKept (d'.irq page bit) := by
  obtain ⟨v, x, out, heq⟩ := d'.irq_eq page bit
  rw [heq]
  refine (setWord (key := IRQ_STAT_bits.key 0 page) h (setBits (d'.word _) 31 0 v) ?_).trans (of_regs rfl rfl)
  simp only [Fld.key, regKey]
  omega

theorem raise (src p0 p1 p2 : Nat) : d.ServiceKept (d'.raise src p0 p1 p2) := by
  obtain ⟨x, heq⟩ := d'.raise_eq src p0 p1 p2
  rw [heq]
  exact h.trans (of_regs rfl rfl)

theorem rated (block code unit sev p0 p2 src : Nat) : d.ServiceKept (d'.rated block code unit sev p0 p2 src) := by
  obtain ⟨x, heq⟩ := d'.rated_eq block code unit sev p0 p2 src
  rw [heq]
  exact h.trans (of_regs rfl rfl)

theorem foldl {α : Type} {f : Dev → α → Dev} (l : List α) (hstep : ∀ d' x, d.ServiceKept d' → d.ServiceKept (f d' x)) :
    d.ServiceKept (l.foldl f d') := by
  induction l generalizing d' with
  | nil => exact h
  | cons x l ih => exact ih (hstep _ _ h)

theorem refugeRec (code sev p0 p2 : Nat) : d.ServiceKept (d'.refugeRec code sev p0 p2) := h.trans (of_regs rfl rfl)

theorem holdOff : d.ServiceKept d'.holdOff := h.trans (of_regs rfl rfl)

theorem dbgGrant (signer perms life : Nat) : d.ServiceKept (d'.dbgGrant signer perms life) := by
  have hrfg : d.ServiceKept { d' with rfg := { d'.rfg with dbgUntil := d'.cclk + life * cclkPerS, dbgSeen := true } } := h.trans (of_regs rfl rfl)
  unfold Dev.dbgGrant
  exact refugeRec (wr (wr hrfg _ _ _ (by decide)) _ _ _ (by decide)) ..

/-! #### An erase (R395, R402) -/

theorem flEvent (src code sev block p2 : Nat) : d.ServiceKept (d'.flEvent src code sev block p2) := rated (raise h ..) ..

theorem setBank (b : Nat) (x : Bank) : d.ServiceKept (d'.setBank b x) := by
  have hbank : d.ServiceKept { d' with flc := { d'.flc with banks := d'.flc.banks.set b x {} } } := h.trans (of_regs rfl rfl)
  have hfields (v0 v1 v2 v3 v4 : Nat) : d.ServiceKept ((((({ d' with flc := { d'.flc with banks := d'.flc.banks.set b x {} } }.wr FLC_STAT_busy v0
      ).wr FLC_STAT_suspended v1).wr FLC_BANK_STATb_busy v2 b).wr FLC_BANK_STATb_suspended v3 b).wr FLC_BANK_STATb_op v4 b) :=
    wr (wr (wr (wr (wr hbank _ _ _ (by decide)) _ _ _ (by decide)) _ _ _ (by decide)) _ _ _ (by decide)) _ _ _ (by decide)
  unfold Dev.setBank
  extract_lets
  split
  · exact wr (wr (hfields ..) _ _ _ (by decide)) _ _ _ (by decide)
  · exact wr (wr (hfields ..) _ _ _ (by decide)) _ _ _ (by decide)

theorem setEraseFlag (b : Nat) (v : Bool) : d.ServiceKept (d'.setEraseFlag b v) := h.trans (of_regs rfl rfl)

theorem setIndet (b : Nat) (v : Bool) : d.ServiceKept (d'.setIndet b v) := ite h (wr (wr h _ _ _ (by decide)) _ _ _ (by decide))

theorem flDone (q bank : Nat) (st : Status) : d.ServiceKept (d'.flDone q bank st) :=
  irq (wrOwn (wrOwn h _ _ (by decide)) _ _ (by decide)) _ (by decide)

theorem flWipe (b : Nat) : d.ServiceKept (d'.flWipe b) := h.trans (of_regs rfl rfl)

theorem flEraseStart (b owner : Nat) : d.ServiceKept (d'.flEraseStart b owner) := by
  have hcount (n : Nat) : d.ServiceKept { d'.setEraseFlag b true with
      flc := { (d'.setEraseFlag b true).flc with erases := (d'.setEraseFlag b true).flc.erases.set b n 0 } } :=
    (setEraseFlag h b true).trans (of_regs rfl rfl)
  unfold Dev.flEraseStart
  exact setBank (ite (flEvent (hcount _) _ _ _ _ _) (hcount _)) _ _

theorem flEraseDone (bank : Nat) (ok : Bool) : d.ServiceKept (d'.flEraseDone bank ok) := by
  unfold Dev.flEraseDone
  extract_lets x
  split
  · exact h
  next e _ =>
    have hbank := setBank h bank { x with erase := none }
    refine ite h (foldl (ite ?_ ?_) _ fun _ _ h => flDone h _ _ _)
    · exact flDone (setIndet (setEraseFlag (flWipe hbank _) _ _) _ _) _ _ _
    · exact flEvent (flDone (setIndet hbank _ _) _ _ _) _ _ _ _ _

theorem eraseRegions (blocks : List Nat) : d.ServiceKept (d'.eraseRegions blocks) :=
  foldl h _ fun _ _ h => flEraseDone (flEraseStart h _ _) _ _

/-! #### Keys and seeds (R346, R356) -/

theorem randomBytes (n : Nat) : d.ServiceKept (d'.randomBytes n).2 := by
  have hreseed : d'.ServiceKept d'.reseed := ⟨rfl, Dev.word_setWord_ne _ (by decide) _⟩
  have hseed : d.ServiceKept (if 65536 ≤ d'.rfg.trnReqs then d'.reseed else d') := ite (h.trans hreseed) h
  exact hseed.trans (of_regs rfl rfl)

theorem setSlot (n : Nat) (x : Slot) : d.ServiceKept (d'.setSlot n x) := h.trans (of_regs rfl rfl)

theorem setOtp (o : Otp) : d.ServiceKept (d'.setOtp o) := h.trans (of_regs rfl rfl)

theorem newSeed : d.ServiceKept d'.newSeed := (randomBytes h 32).trans (of_regs rfl rfl)

theorem transportKey : d.ServiceKept d'.transportKey := setSlot (randomBytes h 32) _ _

theorem newIdentity : d.ServiceKept d'.newIdentity := setSlot (randomBytes h 96) _ _

theorem clearSealed : d.ServiceKept d'.clearSealed := h.trans (of_regs rfl rfl)

/-! #### Transitions (R356) -/

theorem transStep (code step : Nat) (arg : List Byte) (env : CmdEnv) : d.ServiceKept (d'.transStep code step arg env) := by
  unfold Dev.transStep
  split
  · exact setOtp (randomBytes (randomBytes h 32) 16) _
  · exact newIdentity h
  · exact setOtp h _
  · exact wr h _ _ _ (by decide)
  · exact setOtp h _
  · exact transportKey (newSeed h)
  · exact eraseRegions h _
  · exact wr (wr h _ _ _ (by decide)) _ _ _ (by decide)
  · exact setOtp h _
  · exact newSeed (clearSealed h)
  · exact eraseRegions h _
  · exact transportKey h
  · exact wr h _ _ _ (by decide)
  · exact h.trans (of_regs rfl rfl)
  · exact h.trans (of_regs rfl rfl)
  · exact eraseRegions h _
  · exact wr h _ _ _ (by decide)
  · exact h

theorem mark (code step : Nat) : d.ServiceKept (d'.mark code step) := wr (setOtp h _) _ _ _ (by decide)

theorem nonceDrop : d.ServiceKept d'.nonceDrop := by
  have hrfg : d.ServiceKept { d' with rfg := { d'.rfg with nonce := none } } := h.trans (of_regs rfl rfl)
  unfold Dev.nonceDrop
  exact foldl hrfg _ fun _ _ h => wr h _ _ _ (by decide)

end
end Dev.ServiceKept

/-! ### A transition without loss of power (R356) -/

/-- The steps of a transition, each with its progress mark. -/
def Dev.marked (d : Dev) (code : Nat) (arg : List Byte) (env : CmdEnv) (steps : List Nat) : Dev :=
  steps.foldl (fun d k => (d.transStep code k arg env).mark code k) d

/-- The end of a transition: no progress, and its records. -/
def Dev.transEnd (d : Dev) (code : Nat) : Dev :=
  let d := (d.wr LCC_STATE_progress 0).refugeRec 0xC010 7 code 0
  if code = 3 then d.refugeRec 0xC012 7 d.ownerIdx 0 else d

theorem Dev.ServiceKept.marked {d d' : Dev} (h : d.ServiceKept d') (code : Nat) (arg : List Byte) (env : CmdEnv) (steps : List Nat) :
    d.ServiceKept (d'.marked code arg env steps) := h.foldl _ fun _ _ h => (h.transStep _ _ _ _).mark _ _

theorem Dev.ServiceKept.transEnd {d d' : Dev} (h : d.ServiceKept d') (code : Nat) : d.ServiceKept (d'.transEnd code) := by
  have hend : d.ServiceKept ((d'.wr LCC_STATE_progress 0).refugeRec 0xC010 7 code 0) :=
    (h.wr _ _ _ (by decide)).refugeRec ..
  unfold Dev.transEnd
  dsimp only
  split
  · exact hend.refugeRec ..
  · exact hend

theorem Dev.transEnd_of_ne (d : Dev) {code : Nat} (h : code ≠ 3) :
    d.transEnd code = (d.wr LCC_STATE_progress 0).refugeRec 0xC010 7 code 0 := if_neg h

/-- The steps from `step` to the last of them, while the DRBG serves those that draw. -/
theorem Dev.transRun_uncut (code : Nat) (arg : List Byte) (env : CmdEnv) (n : Nat) :
    ∀ (step fuel : Nat) (d : Dev), step + n = lastStep code → n < fuel →
      (∀ k, stepDraws code k = true → d.flag TRN_STAT_drbg_ready = true) →
      d.transRun code step arg env none fuel = (true, (d.marked code arg env (List.range' step (n + 1))).transEnd code) := by
  induction n with
  | zero =>
    intro step fuel d hlast hfuel hserve
    obtain ⟨fuel, rfl⟩ : ∃ m, fuel = m + 1 := ⟨fuel - 1, by omega⟩
    have hdraw : (stepDraws code step && !d.flag TRN_STAT_drbg_ready) = false := by
      cases h : stepDraws code step with
      | false => rfl
      | true => simp [hserve step h]
    simp only [Dev.transRun, hdraw, reduceCtorEq, false_and, if_false, Bool.false_eq_true, if_pos (show lastStep code ≤ step by omega)]
    rfl
  | succ n ih =>
    intro step fuel d hlast hfuel hserve
    obtain ⟨fuel, rfl⟩ : ∃ m, fuel = m + 1 := ⟨fuel - 1, by omega⟩
    have hdraw : (stepDraws code step && !d.flag TRN_STAT_drbg_ready) = false := by
      cases h : stepDraws code step with
      | false => rfl
      | true => simp [hserve step h]
    have hkept := ((Dev.ServiceKept.refl d).transStep code step arg env).mark code step
    have hrest := ih (step + 1) fuel ((d.transStep code step arg env).mark code step) (by omega) (by omega)
      fun k hk => hkept.drbgReady.trans (hserve k hk)
    simp only [Dev.transRun, hdraw, reduceCtorEq, false_and, if_false, Bool.false_eq_true, if_neg (show ¬lastStep code ≤ step by omega),
      Option.map_none, hrest]
    rfl

/-! ### Signed commands (R358) -/

theorem Dev.foldl_wr_eq {α : Type} (f : Fld) (v k : α → Nat) (l : List α) (d : Dev) :
    ∃ regs, l.foldl (fun d x => d.wr f (v x) (k x)) d = { d with regs := regs } := by
  induction l generalizing d with
  | nil => exact ⟨d.regs, rfl⟩
  | cons x l ih =>
    obtain ⟨regs, h⟩ := ih (d.wr f (v x) (k x))
    exact ⟨regs, h⟩

/-- What is gone with the nonce: its bytes, in the registers too. -/
theorem Dev.nonceDrop_eq (d : Dev) : ∃ regs, d.nonceDrop = { d with regs := regs, rfg := { d.rfg with nonce := none } } := by
  unfold Dev.nonceDrop
  exact Dev.foldl_wr_eq RFG_NONCEk_bytes (fun _ => 0) id (List.range 8) { d with rfg := { d.rfg with nonce := none } }

theorem Dev.nonceDrop_lcc (d : Dev) : d.nonceDrop.lcc = d.lcc := by
  have hkey (k : Nat) (h : k < 8) : LCC_STATE_state.key 0 0 ≠ RFG_NONCEk_bytes.key k 0 := by
    simp only [Fld.key, regKey]
    omega
  have hfold (l : List Nat) (hl : ∀ k ∈ l, k < 8) (d : Dev) : (l.foldl (fun d k => d.wr RFG_NONCEk_bytes 0 k) d).lcc = d.lcc := by
    induction l generalizing d with
    | nil => rfl
    | cons k l ih =>
      rw [List.foldl_cons, ih fun j hj => hl j (List.mem_cons_of_mem _ hj)]
      exact Dev.rd_wr_key_ne _ _ _ _ _ _ _ _ (hkey k (hl k List.mem_cons_self))
  unfold Dev.nonceDrop
  rw [hfold _ fun _ h => List.mem_range.mp h]
  rfl

/-- The device as an accepted command finds it: the nonce consumed, no refusal in a row. -/
def Dev.cmdStart (d : Dev) : Dev := { d.nonceDrop with rfg := { d.nonceDrop.rfg with refused := 0 } }

theorem Dev.cmdStart_kept (d : Dev) : d.ServiceKept d.cmdStart :=
  (Dev.ServiceKept.refl d).nonceDrop.trans (.of_regs (by rw [Dev.cmdStart]) (by rw [Dev.cmdStart]))

theorem Dev.cmdStart_lcc (d : Dev) : d.cmdStart.lcc = d.lcc :=
  (Dev.rd_of_regs (by rw [Dev.cmdStart]) _ _ _).trans d.nonceDrop_lcc

section
variable {d : Dev} {b : List Byte} {env : CmdEnv} {n : Nat} (hcode : leAt b 0x34 1 = n) (hbad : (parseCmd b).bad = false)
include hcode hbad

theorem Dev.execSigned_accepted (hauth : d.cmdAuth (parseCmd b) b env = true) (hlimit : d.cmdLimit (parseCmd b) = true)
    (hready : [1, 2, 3, 5].contains n = true → d.flag TRN_STAT_drbg_ready = true) :
    d.execSigned b env = (.ok, d.cmdStart.cmdEffect (parseCmd b) env) := by
  have hserved : ([1, 2, 3, 5].contains (parseCmd b).code && !d.flag TRN_STAT_drbg_ready) = false := by
    have hsame : (parseCmd b).code = n := hcode
    rw [hsame, Bool.and_eq_false_imp]
    exact fun h => by rw [hready h]; rfl
  have hpick : pickStatus [if (parseCmd b).bad then .badParam else .ok, if d.cmdAuth (parseCmd b) b env then .ok else .authFail,
      if d.cmdLimit (parseCmd b) then .ok else .lifecycle,
      if [1, 2, 3, 5].contains (parseCmd b).code && !d.flag TRN_STAT_drbg_ready then .notReady else .ok] = .ok := by
    rw [hbad, hauth, hlimit, hserved]
    rfl
  rw [Dev.execSigned, hpick]
  exact if_neg (by decide)

theorem Dev.cmdRow_accepted (hauth : d.cmdAuth (parseCmd b) b env = true) (hlimit : d.cmdLimit (parseCmd b) = true)
    (hready : [1, 2, 3, 5].contains n = true → d.flag TRN_STAT_drbg_ready = true)
    (hpow : (d.cmdStart.cmdEffect (parseCmd b) env).sys.powered = true) :
    d.cmdRow n b env = (d.cmdStart.cmdEffect (parseCmd b) env).answer .ok := by
  rw [Dev.cmdRow, if_neg (not_not.mpr hcode), Dev.execSigned_accepted hcode hbad hauth hlimit hready]
  exact if_pos hpow

/-- An accepted transition, which no loss of power cuts. -/
theorem Dev.cmdRow_transition (steps : List Nat) (hsteps : List.range' 1 (lastStep n - 1 + 1) = steps) (hn : n < 5) (hpow : d.sys.powered = true)
    (hcut : env.cut = none) (hauth : d.cmdAuth (parseCmd b) b env = true) (hlimit : d.cmdLimit (parseCmd b) = true)
    (hready : n < 4 → d.flag TRN_STAT_drbg_ready = true) :
    d.cmdRow n b env = (((d.cmdStart.marked n (parseCmd b).arg env steps).transEnd n).answer .ok) := by
  have hlast : lastStep n ≤ 5 ∧ 1 ≤ lastStep n := by
    unfold lastStep
    split <;> omega
  have hserve (k : Nat) (hk : stepDraws n k = true) : d.cmdStart.flag TRN_STAT_drbg_ready = true := by
    refine (Dev.ServiceKept.drbgReady d.cmdStart_kept).trans (hready ?_)
    simp [stepDraws] at hk
    omega
  have heffect : d.cmdStart.cmdEffect (parseCmd b) env = (d.cmdStart.marked n (parseCmd b).arg env steps).transEnd n := by
    have hrun := Dev.transRun_uncut n (parseCmd b).arg env (lastStep n - 1) 1 5 d.cmdStart (by omega) (by omega) hserve
    have hsame : (parseCmd b).code = n := hcode
    rw [hsteps] at hrun
    unfold Dev.cmdEffect
    rw [hsame]
    split
    · omega
    · omega
    · omega
    · rw [hcut, hrun]
  rw [← heffect]
  refine Dev.cmdRow_accepted hcode hbad hauth hlimit (fun h => hready ?_) ?_
  · simp at h
    omega
  · rw [heffect, (Dev.ServiceKept.powered ((d.cmdStart_kept.marked _ _ _ _).transEnd _)), hpow]

/-- A refused command consumes the nonce too, is recorded and starts the hold-off (R359, R364). -/
theorem Dev.cmdRow_unauthentic (hn : [1, 2, 3, 5].contains n = false) (hpow : d.sys.powered = true)
    (hauth : d.cmdAuth (parseCmd b) b env = false) :
    d.cmdRow n b env = ((d.nonceDrop.holdOff).refugeRec 0xC030 6 n 0).answer .authFail := by
  have hsame : (parseCmd b).code = n := hcode
  have hpick : pickStatus [if (parseCmd b).bad then .badParam else .ok, if d.cmdAuth (parseCmd b) b env then .ok else .authFail,
      if d.cmdLimit (parseCmd b) then .ok else .lifecycle,
      if [1, 2, 3, 5].contains (parseCmd b).code && !d.flag TRN_STAT_drbg_ready then .notReady else .ok] = .authFail := by
    rw [hbad, hauth, hsame, hn]
    cases d.cmdLimit (parseCmd b) <;> rfl
  have hexec : d.execSigned b env = (.authFail, (d.nonceDrop.holdOff).refugeRec 0xC030 6 n 0) := by
    rw [Dev.execSigned, hpick, hsame]
    exact if_pos (by decide)
  have hkept := ((Dev.ServiceKept.refl d).nonceDrop.holdOff).refugeRec 0xC030 6 n 0
  rw [Dev.cmdRow, if_neg (not_not.mpr hcode), hexec]
  exact if_pos (hkept.powered.trans hpow)

end

/-- A re-provision outside bivouac mode (R353). -/
theorem Dev.reprovision_here {d : Dev} (signer : Nat) (h : d.bivouac = false) :
    d.reprovision signer = ((d.wr LCC_STATE_tamper_lock 0).newSeed).refugeRec 0xC014 7 signer 0 := by
  have hmode : ((d.wr LCC_STATE_tamper_lock 0).newSeed).bivouac = false := by
    obtain ⟨regs, n, x, hdrbg⟩ := (d.wr LCC_STATE_tamper_lock 0).drbg_eq
    have hseed : ((d.wr LCC_STATE_tamper_lock 0).newSeed).bivouac = ((d.wr LCC_STATE_tamper_lock 0).drbg.2).bivouac := rfl
    rw [hseed, hdrbg, Dev.wr_bivouac, h]
  simp only [Dev.reprovision, hmode, Bool.false_and, Bool.false_eq_true, if_false]
  rfl

theorem Dev.cmdStart_bivouac (d : Dev) : d.cmdStart.bivouac = d.bivouac := by
  obtain ⟨regs, h⟩ := d.nonceDrop_eq
  rw [Dev.cmdStart, h]

theorem Dev.cmdEffect_reprovision (d : Dev) {c : SignedCmd} (env : CmdEnv) (h : c.code = 5) : d.cmdEffect c env = d.reprovision c.signer := by
  simp only [Dev.cmdEffect, h]

theorem Dev.cmdEffect_fuse (d : Dev) {c : SignedCmd} (env : CmdEnv) (h : c.code = 6) :
    d.cmdEffect c env = (d.setOtp { d.rfg.otp with fuse := d.rfg.otp.fuse ||| 2 ^ leAt c.arg 0 1 }).refugeRec 0xC013 7 (leAt c.arg 0 1) 0 := by
  simp only [Dev.cmdEffect, h]

theorem Dev.cmdEffect_token (d : Dev) {c : SignedCmd} (env : CmdEnv) (h : c.code = 8) (hlcc : d.lcc ≠ 3) :
    d.cmdEffect c env = d.dbgGrant c.signer (leAt c.arg 0 4) (leAt c.arg 4 4) := by
  simp only [Dev.cmdEffect, h, if_neg hlcc]

/-! ### The nonce, debug authorisation and TRN (R359, R360, R363) -/

theorem Dev.nonceRequest_served {d : Dev} (hfree : d.rfg.holdUntil ≤ d.cclk) (hready : d.flag TRN_STAT_drbg_ready = true) :
    d.rfgWrite 0x04C 1 = (.ok,
      let n := leBytes d.drbg.1 32
      let d := d.drbg.2
      let d := { d with rfg := { d.rfg with nonce := some n } }
      (List.range 8).foldl (fun d k => d.wr RFG_NONCEk_bytes (leAt n (4 * k) 4) k) d) := by
  have hbit : bitOf 1 0 = true := rfl
  have hpick : pickStatus [Status.ok, .ok] = .ok := rfl
  rw [Dev.rfgWrite, if_pos hbit, Dev.nonceRequest, if_neg (show ¬d.cclk < d.rfg.holdUntil by omega), if_pos hready, hpick]
  simp only [ne_eq, not_true_eq_false, if_false]

theorem Dev.nonceRequest_heldOff {d : Dev} (h : d.cclk < d.rfg.holdUntil) : d.rfgWrite 0x04C 1 = (.busy, d) := by
  have hbit : bitOf 1 0 = true := rfl
  rw [Dev.rfgWrite, if_pos hbit, Dev.nonceRequest, if_pos h]
  cases d.flag TRN_STAT_drbg_ready <;> rfl

theorem Dev.dbgEnd_active {d : Dev} (why : Nat) (h : d.flag RFG_DBG_active = true) :
    d.dbgEnd why = ((d.wr RFG_DBG_active 0).wr RFG_DBG_perms 0).refugeRec 0xC032 3 why 0 := if_pos h

theorem Dev.trnReseed_due {d : Dev} (hready : d.flag TRN_STAT_drbg_ready = true)
    (hdue : d.rfg.trnReseedAt + cclkPerS ≤ d.cclk ∨ 65536 ≤ d.rfg.trnReqs) : d.trnReseed = d.reseed := by
  rw [Dev.trnReseed, if_pos]
  simpa [hready] using hdue

theorem Dev.trnRetest_passes {d : Dev} (hfailed : d.flag TRN_STAT_health_ok = false) (htime : d.rfg.trnFailAt + 100 * cclkPerMs ≤ d.cclk) :
    d.trnRetest true =
      let x := (d.wr TRN_STAT_drbg_ready 1).wr TRN_STAT_health_ok 1
      let x := ({ x with rfg := { x.rfg with trnReseedAt := x.cclk, trnReqs := 0 } }).refugeRec 0xC021 2 0 0
      if x.rfg.due then x.placeStatement else x := by
  have hdue : ¬(d.flag TRN_STAT_health_ok || decide (d.cclk < d.rfg.trnFailAt + 100 * cclkPerMs)) = true := by simpa [hfailed] using htime
  rw [Dev.trnRetest, if_neg hdue, if_pos rfl]

/-- Settles O49: a command that authenticates meets its effect, from `Dev.cmdStart` on; a transition is its steps, each marked
(`Dev.transRun_uncut`). -/
theorem refugeCommandsComplete : Obligations.RefugeCommandsComplete := by
  refine ⟨?provision, ?takeOwnership, ?transfer, ?retire, ?reprovision, ?fuse, ?token, ?tokenRefused, ?nonce, ?nonceBusy, ?revoke, ?expiry,
    ?watchdog, ?lockstep, ?reseed, ?healthFail, ?retest⟩
  case provision =>
    rintro s b env _ hon rfl hcode hbad hauth hlimit hcut hready
    refine Gives.of_act (fun d => d.cmdRow 1 b env) hon rfl ?_
    rw [Dev.cmdRow_transition (d := s.dev.cleared) hcode hbad [1, 2, 3, 4] rfl (by decide) hon hcut hauth hlimit fun _ => hready,
      Dev.transEnd_of_ne _ (by decide), Dev.marked, Dev.cmdStart]
  case takeOwnership =>
    rintro s b env _ hon rfl hcode hbad hauth hlimit hcut hready
    refine Gives.of_act (fun d => d.cmdRow 2 b env) hon rfl ?_
    rw [Dev.cmdRow_transition (d := s.dev.cleared) hcode hbad [1, 2, 3, 4] rfl (by decide) hon hcut hauth hlimit fun _ => hready,
      Dev.transEnd_of_ne _ (by decide), Dev.marked, Dev.cmdStart]
  case transfer =>
    rintro s b env _ hon rfl hcode hbad hauth hlimit hcut hready
    exact Gives.of_act (fun d => d.cmdRow 3 b env) hon rfl
      (Dev.cmdRow_transition hcode hbad [1, 2, 3, 4, 5] rfl (by decide) hon hcut hauth hlimit fun _ => hready)
  case retire =>
    rintro s b env _ hon rfl hcode hbad hauth hlimit hcut
    exact Gives.of_act (fun d => (d.cmdRow 4 b env).retiredNow) hon rfl
      (congrArg Dev.retiredNow (Dev.cmdRow_transition hcode hbad [1, 2, 3, 4] rfl (by decide) hon hcut hauth hlimit
        fun h => absurd h (by decide)))
  case reprovision =>
    rintro s b env _ hon rfl hcode hbad hauth hmode hready
    have hlimit : s.dev.cleared.cmdLimit (parseCmd b) = true := by
      simp only [Dev.cmdLimit, show (parseCmd b).code = 5 from hcode]
    have heffect := (Dev.cmdEffect_reprovision s.dev.cleared.cmdStart (c := parseCmd b) env hcode).trans
      (Dev.reprovision_here _ ((Dev.cmdStart_bivouac _).trans hmode))
    have hkept : s.dev.cleared.ServiceKept (((s.dev.cleared.cmdStart.wr LCC_STATE_tamper_lock 0).newSeed).refugeRec 0xC014 7
        (parseCmd b).signer 0) :=
      ((s.dev.cleared.cmdStart_kept.wr _ _ _ (by decide)).newSeed).refugeRec ..
    refine Gives.of_act (fun d => d.cmdRow 5 b env) hon rfl ?_
    rw [Dev.cmdRow_accepted (d := s.dev.cleared) hcode hbad hauth hlimit (fun _ => hready) (by rw [heffect, hkept.powered]; exact hon), heffect, Dev.cmdStart]
  case fuse =>
    rintro s b env _ hon rfl hcode hbad hauth hlimit
    have heffect := Dev.cmdEffect_fuse s.dev.cleared.cmdStart (c := parseCmd b) env hcode
    refine Gives.of_act (fun d => d.cmdRow 6 b env) hon rfl ?_
    rw [Dev.cmdRow_accepted (d := s.dev.cleared) hcode hbad hauth hlimit (fun h => absurd h (by decide))
      (by rw [heffect]; exact ((s.dev.cleared.cmdStart_kept.setOtp _).refugeRec ..).powered.trans hon), heffect, Dev.cmdStart]
  case token =>
    rintro s b env _ hon rfl hcode hbad hauth hlimit hlcc
    have heffect := Dev.cmdEffect_token s.dev.cleared.cmdStart (c := parseCmd b) env hcode
      (by rw [Dev.cmdStart_lcc]; exact hlcc)
    refine Gives.of_act (fun d => d.cmdRow 8 b env) hon rfl ?_
    rw [Dev.cmdRow_accepted (d := s.dev.cleared) hcode hbad hauth hlimit (fun h => absurd h (by decide))
      (by rw [heffect]; exact (s.dev.cleared.cmdStart_kept.dbgGrant ..).powered.trans hon), heffect]
    obtain ⟨regs, hdrop⟩ := s.dev.cleared.nonceDrop_eq
    rw [Dev.cmdStart, hdrop]
    rfl
  case tokenRefused =>
    rintro s b env _ hon rfl hcode hbad hauth
    refine Gives.of_act (fun d => d.cmdRow 8 b env) hon rfl ?_
    rw [Dev.cmdRow_unauthentic (d := s.dev.cleared) hcode hbad rfl hon hauth]
    obtain ⟨regs, hdrop⟩ := s.dev.cleared.nonceDrop_eq
    rw [hdrop]
    rfl
  case nonce =>
    exact fun s r hacc hfree hready => Effects.of_blockWrite (b := .rfg) (inst := 0) 1 hacc rfl rfl (by omega) rfl
      (Dev.nonceRequest_served (d := s.dev.cleared) hfree hready)
  case nonceBusy =>
    exact fun s r hacc hbusy => TurnedAway.of_blockWrite (b := .rfg) (inst := 0) 1 hacc rfl rfl (by omega) rfl
      (Dev.nonceRequest_heldOff (d := s.dev.cleared) hbusy)
  case revoke =>
    exact fun s r hacc hactive => Effects.of_blockWrite (b := .rfg) (inst := 0) (2 ^ 30) hacc rfl rfl (by omega) rfl
      (congrArg (Prod.mk Status.ok) (Dev.dbgEnd_active (d := s.dev.cleared) 3 hactive))
  case expiry =>
    exact fun s hon hdue hactive => Gives.of_act (fun d => d.dbgExpiry) hon rfl
      ((if_pos hdue).trans (Dev.dbgEnd_active (d := s.dev.cleared) 0 hactive))
  case watchdog => exact fun s hon => Gives.of_act (fun d => d.refugeWatchdog) hon rfl rfl
  case lockstep => exact fun s hon => Gives.of_act (fun d => d.wardenMismatch) hon rfl rfl
  case reseed =>
    exact fun s hon hready hdue => Gives.of_act (fun d => d.trnReseed) hon rfl (Dev.trnReseed_due (d := s.dev.cleared) hready hdue)
  case healthFail => exact fun s test hon => Gives.of_act (fun d => d.trnFail test) hon rfl rfl
  case retest =>
    exact fun s hon hfailed htime => Gives.of_act (fun d => d.trnRetest true) hon rfl
      (Dev.trnRetest_passes (d := s.dev.cleared) hfailed htime)

end Sys2Proof.Machine
end

section
/-! SUPPORT. The debug mailbox when the power fails within the command it executes, and O50 (R356, R539). -/

namespace Sys2Proof.Machine

open Sys2Proof Sys2Proof.Tests

/-- The authentication of a command looks at the public key alone of what comes with it. -/
theorem Dev.cmdAuth_env (d : Dev) (c : SignedCmd) (b : List Byte) {env env' : CmdEnv} (h : env.pk = env'.pk) :
    d.cmdAuth c b env = d.cmdAuth c b env' := by
  rw [Dev.cmdAuth, Dev.cmdAuth, h]

/-- A transition whose power fails before its first step does nothing (R356). -/
theorem Dev.transRun_cutAtOnce (d : Dev) (code : Nat) (arg : List Byte) {env : CmdEnv} (n : Nat) (hcut : env.cut = some 0)
    (hwhole : env.torn = false) : d.transRun code 1 arg env env.cut (n + 1) = (false, d.powerLoss 0) := by
  simp only [Dev.transRun, hcut, hwhole, Bool.not_false, and_self, if_true]

/-- Without power after the command the mailbox shows nothing of it. -/
theorem Dev.mboxGo_powerLost {d x : Dev} {v : Nat} {env : CmdEnv} {st : Status} (hgo : bitOf v 31 = true)
    (hlen : bitsOf v 16 0 ≤ d.jtag.mbox.length)
    (hexec : ({ d with jtag := { d.jtag with mbox := [] } }).execSigned (d.jtag.mbox.take (bitsOf v 16 0)) env = (st, x))
    (hoff : x.sys.powered = false) : d.mboxGo v env = (.ok, x) := by
  simp only [Dev.mboxGo, hgo, Bool.not_true, Bool.false_eq_true, if_false, if_neg (Nat.not_lt.mpr hlen), hexec, hoff, Bool.not_false, if_true]

/-- DBG_MBOX_GO of a command in which the power fails. -/
theorem Gives.of_mboxGo_powerLost {s : State} {r : Req} {n : Fin 131072} {env : CmdEnv} {st : Status} {x : Dev}
    (hacc : s.accepts r pgDBG 0x044) (hlen : n.val ≤ s.dev.jtag.mbox.length)
    (hexec : ({ s.dev.cleared with jtag := { s.dev.cleared.jtag with mbox := [] } }).execSigned (s.dev.jtag.mbox.take n) env = (st, x))
    (hoff : x.sys.powered = false) : Gives (.dbgMboxGo r n env) s (fun _ => x.report pgDBG .ok) := by
  obtain ⟨hon, hcheck, hcopy⟩ := hacc
  have hlow : bitsOf (2 ^ 31 + n.val) 16 0 = n.val := by
    have hlt := n.isLt
    unfold bitsOf
    omega
  have hgo : bitOf (2 ^ 31 + n.val) 31 = true := by
    have hlt := n.isLt
    simp only [bitOf, Nat.testBit_eq_decide_div_mod_eq, decide_eq_true_eq]
    omega
  have hwrite : s.dev.cleared.writeEffect r pgDBG 0x044 (2 ^ 31 + n.val) env = (.ok, x) :=
    Dev.mboxGo_powerLost hgo (by rw [hlow]; exact hlen) (by rw [hlow]; exact hexec) hoff
  refine Gives.of_act (fun d => d.pageWrite r pgDBG 0x044 (2 ^ 31 + n.val) env) hon rfl ?_
  rw [Dev.pageWrite_idle s.dev.cleared r pgDBG 0x044 _ env (Dev.lockJob_elsewhere _ (by decide)) hcheck hcopy, hwrite]

/-- The provisioning command of the witness of O49, in MANUF. -/
def provisionHead : List Byte := cmdHead 0 1 0 (zeros 32)

/-- A device in MANUF with that command in its debug mailbox. -/
def mailState : State :=
  upd (lifeState 0 15 []) (fun d => { d with jtag := { d.jtag with mbox := testCmd provisionHead } })

/-- That device as the command begins, its mailbox emptied. -/
def mailEmptied : Dev := { mailState.dev.cleared with jtag := { mailState.dev.cleared.jtag with mbox := [] } }

/-- The power fails before the first step of the transition. -/
def cutEnv : CmdEnv := { testCmdEnv with cut := some 0 }

/-- Its bytes: 88 before the signature, and the signature of the parameter set. -/
theorem testCmd_length : (testCmd provisionHead).length = 0x58 + slhS.sigLen := by
  have hverify := testSig_verifies provisionHead
  have hsig : (testSig provisionHead).length = slhS.sigLen := by
    unfold slhVerify at hverify
    exact eq_of_beq (Bool.and_eq_true_iff.mp hverify).1
  have hhead : provisionHead.length = 0x58 := by decide +kernel
  rw [testCmd, List.length_append, hsig, hhead]

/-- The command authenticates and is within its limits; what it does is the loss of power alone. -/
theorem execSigned_mailEmptied :
    mailEmptied.execSigned (testCmd provisionHead) cutEnv = (.ok, mailEmptied.cmdStart.powerLoss 0) := by
  have hsigned : Signed mailEmptied provisionHead 1 :=
    ⟨by decide +kernel, by decide +kernel, by decide +kernel, by decide +kernel⟩
  obtain ⟨hcode, hgood, hauth⟩ := hsigned.meets rfl
  have hlimit : mailEmptied.cmdLimit (parseCmd (testCmd provisionHead)) = true := by
    rw [parse_testCmd _ hsigned.len]
    decide +kernel
  have hready : mailEmptied.flag TRN_STAT_drbg_ready = true := by decide +kernel
  have hcode' : (parseCmd (testCmd provisionHead)).code = 1 := hcode
  rw [Dev.execSigned_accepted hcode hgood ((Dev.cmdAuth_env _ _ _ (env := cutEnv) (env' := testCmdEnv) rfl).trans hauth) hlimit fun _ => hready]
  simp only [Dev.cmdEffect, hcode', Dev.transRun_cutAtOnce (env := cutEnv) _ 1 _ 4 rfl rfl]

/-- DBG_MBOX_STAT.done stays 0, where the clause has it 1. -/
theorem mailLost_done :
    ((mailEmptied.cmdStart.powerLoss 0).report pgDBG .ok).rd DBG_MBOX_STAT_done ≠
      (((((mailEmptied.cmdStart.powerLoss 0).wr DBG_MBOX_STAT_count 0).wr DBG_MBOX_STAT_done 1).wr DBG_MBOX_STAT_status
        Status.ok.code).retiredNow.report pgDBG .ok).rd DBG_MBOX_STAT_done := by decide +kernel

/-- Refutes O50 at its clause on the debug mailbox's go (R539): it gives the answer's fields of DBG_MBOX_STAT after every command, while the
power that fails within a transition (R356) leaves them as they were. -/
theorem not_guardAndDebugComplete : ¬ Obligations.GuardAndDebugComplete := by
  intro hall
  obtain ⟨-, -, -, -, -, -, -, -, -, -, -, -, -, -, -, -, -, -, -, -, -, -, -, -, -, -, -, -, hgo⟩ := hall
  have hacc : mailState.accepts .refuge pgDBG 0x044 := by decide +kernel
  have hlen : 0x58 + slhS.sigLen ≤ mailState.dev.jtag.mbox.length := Nat.le_of_eq testCmd_length.symm
  have htake : mailState.dev.jtag.mbox.take (0x58 + slhS.sigLen) = testCmd provisionHead :=
    List.take_of_length_le (Nat.le_of_eq testCmd_length)
  have hexec : mailEmptied.execSigned (mailState.dev.jtag.mbox.take (0x58 + slhS.sigLen)) cutEnv = (.ok, mailEmptied.cmdStart.powerLoss 0) := by
    rw [htake, execSigned_mailEmptied]
  have hmodel := Gives.of_mboxGo_powerLost (n := ⟨0x58 + slhS.sigLen, by decide⟩) hacc hlen hexec rfl
  have hclaim := hgo mailState .refuge ⟨0x58 + slhS.sigLen, by decide⟩ cutEnv hacc hlen
  have hanswered := congrArg (fun x : Status × Dev => ((((x.2.wr DBG_MBOX_STAT_count 0).wr DBG_MBOX_STAT_done 1).wr DBG_MBOX_STAT_status
    x.1.code).retiredNow).report pgDBG .ok) hexec
  have hsame := hmodel.symm.trans hclaim
  injection hsame with hstate
  have hdone := congrArg (fun s : State => s.dev.rd DBG_MBOX_STAT_done) hstate
  have hclaimed := congrArg (fun d : Dev => d.rd DBG_MBOX_STAT_done) hanswered
  exact absurd (hdone.trans hclaimed) mailLost_done

end Sys2Proof.Machine
end

section
/-! SUPPORT. The event recorder: takes, ticks, commits, reclaim and mirror, and O52 (R412, R414, R416, R417, R426). -/

namespace Sys2Proof.Machine

open Sys2Proof

/-! ### Takes and ticks (R412, R414) -/

/-- A record of low severity whose tick is open waits for it. -/
theorem Dev.evrTake_open {d d0 : Dev} {x : Rec} (hcredit : 0 < d.evr.credits) (hnext : d.nextTake = some (x, d0)) (hsev : x.sev < 6)
    (hopen : ∀ t, d0.evr.closed = some t → t < x.time) :
    d.evrTake = { d0 with evr := { d0.evr with credits := d0.evr.credits - 1, taken := d0.evr.taken ++ [x] } } := by
  have hclosed : d0.evr.closed.any (fun t => decide (x.time ≤ t)) = false := by
    cases hc : d0.evr.closed with
    | none => rfl
    | some t => simpa using hopen t hc
  simp only [Dev.evrTake, if_neg (Nat.ne_of_gt hcredit), hnext, if_neg (Nat.not_le.mpr hsev), hclosed, Bool.false_eq_true, if_false]

/-- Numbered records that ISD does not send go nowhere (R501). -/
theorem Dev.isdRecords_off {d : Dev} (h : d.flag ISD_REXP_en = false) : d.isdRecords = { d with evr := { d.evr with exports := [] } } := by
  simp only [Dev.isdRecords, h, Bool.not_false, if_true]

theorem Dev.evrClose_due {d : Dev} {t : Nat} (h : d.evr.ticks[4]? = some t) :
    d.evrClose = (sortRecs (d.evr.taken.filter (fun r => decide (r.time ≤ t)))).foldl Dev.sequence
      { d with evr := { d.evr with
        closed := some (max (d.evr.closed.getD 0) t), taken := d.evr.taken.filter (fun r => !decide (r.time ≤ t)) } } := by
  simp only [Dev.evrClose, h]

/-! ### The flash log (R416, R417) -/

theorem Dev.logCommit_room {d : Dev} (x : Rec) (fails : Nat) (h : (liveOf d.evr.log).length < logMax) :
    d.logCommit x fails = (d.logWrite x fails).mirrorNote x := if_pos h

/-- A commit below severity 7 with room in the log. -/
theorem Dev.evrCommit_room {d : Dev} {x : Rec} (hen : d.flag EVR_CFG_flog_en = true) (hready : d.logReady = true)
    (hnext : d.nextCommit = some x) (hsev : x.sev < 7) (hroom : (liveOf d.evr.log).length < logMax) :
    d.evrCommit 0 = ((d.logWrite x 0).mirrorNote x).committed x := by
  have hlow : ¬(x.sev = 7 ∧ (!d.evr.retained.any (fun y => y.logged && y.r.seq == x.seq)) = true) := by omega
  simp only [Dev.evrCommit, if_pos hen, hready, Bool.not_true, Bool.false_eq_true, if_false, hnext, Nat.zero_min, if_neg hlow,
    Dev.logCommit_room x 0 hroom]

theorem Dev.evrReclaim_used {d : Dev} (hen : d.flag EVR_CFG_flog_en = true) (hused : d.blockUsed d.spareBlock = true)
    (hfree : d.flEraseState d.spareBlock = .ok) : d.evrReclaim = d.reclaimCopies.flEraseStart d.spareBlock 0x0E :=
  if_neg (by simp [hen, hused, hfree])

/-! ### The mirror (R426) -/

section
variable {d : Dev} (hdue : d.evr.mirrorDue = true) (hen : d.flag EVR_CFG_mirror_en = true)
include hdue hen

/-- An update that is due: the trigger is over, and the update runs unless the session reads its bank. -/
theorem Dev.mirrorUpdate_due :
    d.mirrorUpdate =
      let x := { d with evr := { d.evr with mirrorDue := false, mirrorFrom := none } }
      if d.isl.session == some (1 - d.isl.bank) then x.setIsl { d.isl with held := true } else x.mirrorWrite := by
  have hon : ({ d with evr := { d.evr with mirrorDue := false, mirrorFrom := none } } : Dev).flag EVR_CFG_mirror_en = true := hen
  rw [Dev.mirrorUpdate, if_neg (by simp [hdue])]
  exact if_neg (by rw [hon]; simp)

end

theorem Dev.mirrorTimer_due {d : Dev} {t : Nat} (hfrom : d.evr.mirrorFrom = some t) (htime : t + 60 * cclkPerS ≤ d.cclk) :
    d.mirrorTimer = { d with evr := { d.evr with mirrorDue := true } } := by
  simp only [Dev.mirrorTimer, hfrom, if_pos htime]

/-- Settles O52: each clause is its function of the recorder at the branch that the clause's hypotheses pick (R412, R414, R416, R417, R426). -/
theorem recorderCompletes : Obligations.RecorderCompletes := by
  refine ⟨?take, ?credit, ?close, ?commit, ?reclaim, ?mirror, ?mirrorHeld, ?timer⟩
  case take =>
    intro s x d0 hon hcredit hnext hsev hopen hexport
    refine Gives.of_act (fun d => (d.evrTake).isdRecords) hon rfl ?_
    have htake := Dev.evrTake_open (d := s.dev.cleared) hcredit hnext hsev hopen
    exact (congrArg Dev.isdRecords htake).trans (Dev.isdRecords_off hexport)
  case credit => exact fun s hon hdue => Gives.of_act (fun d => d.evrCredit) hon rfl (if_pos hdue)
  case close =>
    exact fun s t hon ht => Gives.of_act (fun d => ((d.evrClose).isdRecords).isdRetry) hon rfl
      (congrArg (fun d : Dev => d.isdRecords.isdRetry) (Dev.evrClose_due (d := s.dev.cleared) ht))
  case commit =>
    exact fun s x hon hen hready hnext hsev hroom => Gives.of_act (fun d => d.evrCommit 0) hon rfl
      (Dev.evrCommit_room (d := s.dev.cleared) hen hready hnext hsev hroom)
  case reclaim =>
    intro s b first inOld hon hen hb hused hfree hfirst hold
    rw [hold, hfirst, hb]
    rw [hb] at hused hfree
    exact Gives.of_act (fun d => d.evrReclaim) hon rfl (Dev.evrReclaim_used (d := s.dev.cleared) hen hused hfree)
  case mirror =>
    intro s hon hdue hen hsession
    refine Gives.of_act (fun d => d.mirrorUpdate) hon rfl ((Dev.mirrorUpdate_due (d := s.dev.cleared) hdue hen).trans (if_neg ?_))
    rw [show s.dev.cleared.isl.session = none from hsession]
    simp
  case mirrorHeld =>
    intro s hon hdue hen hsession
    refine Gives.of_act (fun d => d.mirrorUpdate) hon rfl ((Dev.mirrorUpdate_due (d := s.dev.cleared) hdue hen).trans (if_pos ?_))
    rw [show s.dev.cleared.isl.session = some (1 - s.dev.cleared.isl.bank) from hsession]
    simp
  case timer =>
    exact fun s t hon hfrom htime => Gives.of_act (fun d => d.mirrorTimer) hon rfl (Dev.mirrorTimer_due (d := s.dev.cleared) hfrom htime)

end Sys2Proof.Machine
end

section
/-! SUPPORT. A card with an item to serve behind a bus that failed the command before, and O53 (R296, R432, R445). -/

namespace Sys2Proof.Machine

open Sys2Proof Sys2Proof.Tests

/-- A card that may park by the time since its last access, with an item in the command queue; the command before met a parity error in
bus segment 1, through which that queue is read (R296). -/
def brokenPark : State :=
  upd (fld (fld (fld (fld s0 CRD_CFG_park_ms 1 0 0) CRD_STAT_present 1 0 0) CRD_Q_en 1 0 0) CRD_Q_queue 7 0 0) (fun d =>
    ({ d with cclk := cclkPerMs, brk := some 1 }.setQ 7
      { known := true, w0 := 2 ^ 31 + 9 * 2 ^ 24 + 4 * 2 ^ 20, w1 := 0, enabled := true, prod := 1, ents := [{}] }).store sbBase
        (mkHdr 3 1 0xFFFF 0 3 5 ++ ([0, 0] ++ leBytes 3 1)))

/-- With the parity error still on the bus the item seems not to be there, and the clause's hypotheses hold. -/
theorem brokenPark_meets :
    brokenPark.on ∧ brokenPark.dev.rd CRD_CFG_park_ms ≠ 0 ∧ brokenPark.dev.crd.job = none ∧ brokenPark.dev.crd.writing = [] ∧
      brokenPark.dev.crdWaits 0 = false ∧ brokenPark.dev.crdWaits 1 = false ∧ brokenPark.dev.crdWaits 2 = false ∧
      brokenPark.dev.crd.lastAccess + brokenPark.dev.rd CRD_CFG_park_ms * cclkPerMs ≤ brokenPark.dev.cclk ∧
      brokenPark.dev.flag CRD_STAT_present = true ∧ brokenPark.dev.flag CRD_STAT_parked = false := by decide +kernel

/-- CARD_PARK itself begins with a whole bus, and the item is there. -/
theorem brokenPark_waits : brokenPark.dev.cleared.crdWaits 0 = true := by decide +kernel

/-- A card with an item to serve stays powered. -/
theorem Dev.cardParkTimer_waits {d : Dev} (h : d.crdWaits 0 = true) : d.cardParkTimer = d := if_pos (by simp [h])

/-- Refutes O53 at its clause on CARD_PARK (R432), in `brokenPark`: the clause looks for items while the parity error of the command before
is on the bus, the command looks for them without it. -/
theorem not_cardCompletes : ¬ Obligations.CardCompletes := by
  intro hall
  obtain ⟨-, -, -, -, -, hpark, -⟩ := hall
  obtain ⟨hon, hms, hjob, hwriting, hfirst, hsecond, hthird, htime, hpresent, hparked⟩ := brokenPark_meets
  have hclaim := Gives.eq_of_act Dev.cardParkTimer hon rfl
    (hpark brokenPark hon hms hjob hwriting hfirst hsecond hthird htime hpresent hparked)
  rw [Dev.cardParkTimer_waits brokenPark_waits] at hclaim
  have hflag := congrArg (fun d : Dev => d.rd CRD_STAT_parked) hclaim
  rw [Dev.rd_wr_same _ _ _ _ _ (by decide) (by decide)] at hflag
  have hzero : brokenPark.dev.cleared.rd CRD_STAT_parked = 0 := by decide +kernel
  rw [hzero] at hflag
  exact absurd hflag (by decide)

end Sys2Proof.Machine
end

section
/-! SUPPORT. The contactless reader and the tag island, and O54 (R448, R449, R451, R453 to R455, R457 to R465). -/

namespace Sys2Proof.Machine

open Sys2Proof

/-! ### The reader's items (R450) -/

/-- What an item of its own command code, or of none, does (R450). -/
def Dev.nfcServe (d : Dev) (b : List Byte) (v : NfcEnv) : Dev :=
  match leAt (b.drop 16) 2 1 with
  | 1 => d.nfcPoll v.ext (b.drop 16) v.tags v.left
  | 2 => d.nfcActivate v.ext (b.drop 16) v.fails v.late v.ans v.crcBad
  | 3 => d.nfcExchange b (b.drop 16) v.fails v.late v.ans
  | 4 => (d.nfcDeselect).nfcEnd .ok 0
  | 5 => (d.nfcFieldOff).nfcEnd .ok 0
  | _ => d.nfcEnd .badParam 0

section
variable {d d0 : Dev} {b : List Byte} (v : NfcEnv) (hen : d.nfcEnabled = true) (htake : d.nfcTake = (some b, d0))
include hen htake

/-- The item of the command's own code, or of none, is served. -/
theorem Dev.nfcItem_served {op : Nat} (hcode : leAt (b.drop 16) 2 1 = op ∨ leAt (b.drop 16) 2 1 = 0) :
    d.nfcItem op v = d0.nfcServe b v := by
  have hown : ¬(1 ≤ leAt (b.drop 16) 2 1 ∧ leAt (b.drop 16) 2 1 ≤ 5 ∧ leAt (b.drop 16) 2 1 ≠ op) := by omega
  simp only [Dev.nfcItem, hen, Bool.not_true, Bool.false_eq_true, if_false, htake, if_neg hown]
  rfl

theorem Dev.nfcItem_poll (hcode : leAt (b.drop 16) 2 1 = 1) : d.nfcItem 1 v = d0.nfcPoll v.ext (b.drop 16) v.tags v.left := by
  simp only [Dev.nfcItem_served v hen htake (.inl hcode), Dev.nfcServe, hcode]

theorem Dev.nfcItem_activate (hcode : leAt (b.drop 16) 2 1 = 2) :
    d.nfcItem 2 v = d0.nfcActivate v.ext (b.drop 16) v.fails v.late v.ans v.crcBad := by
  simp only [Dev.nfcItem_served v hen htake (.inl hcode), Dev.nfcServe, hcode]

theorem Dev.nfcItem_exchange (hcode : leAt (b.drop 16) 2 1 = 3) :
    d.nfcItem 3 v = d0.nfcExchange b (b.drop 16) v.fails v.late v.ans := by
  simp only [Dev.nfcItem_served v hen htake (.inl hcode), Dev.nfcServe, hcode]

theorem Dev.nfcItem_deselect (hcode : leAt (b.drop 16) 2 1 = 4) : d.nfcItem 4 v = (d0.nfcDeselect).nfcEnd .ok 0 := by
  simp only [Dev.nfcItem_served v hen htake (.inl hcode), Dev.nfcServe, hcode]

theorem Dev.nfcItem_fieldOff (hcode : leAt (b.drop 16) 2 1 = 5) : d.nfcItem 5 v = (d0.nfcFieldOff).nfcEnd .ok 0 := by
  simp only [Dev.nfcItem_served v hen htake (.inl hcode), Dev.nfcServe, hcode]

theorem Dev.nfcItem_unknown (op : Nat) (hcode : leAt (b.drop 16) 2 1 = 0) : d.nfcItem op v = d0.nfcEnd .badParam 0 := by
  simp only [Dev.nfcItem_served v hen htake (.inr hcode), Dev.nfcServe, hcode]

end

/-! ### The field (R448, R449) -/

theorem Dev.nfcField_on {d : Dev} (ext : Bool) (f : Dev → Dev) (h : d.flag NFC_STAT_field_on = true) : d.nfcField ext f = f d := if_pos h

/-- An external field makes the item wait. -/
theorem Dev.nfcField_external {d : Dev} (f : Dev → Dev) (h : d.flag NFC_STAT_field_on = false) :
    d.nfcField true f =
      let x := d.wr NFC_STAT_ext_field 1
      x.setNfc { x.nfc with waiting := some (x.nfc.waiting.getD x.cclk) } := by
  have hone : b2n true = 1 := rfl
  simp only [Dev.nfcField, h, Bool.false_eq_true, if_false, hone, Bool.true_or, if_true]

theorem Dev.nfcDeselect_none {d : Dev} (h : d.nfcActive = none) : d.nfcDeselect = d := by
  simp only [Dev.nfcDeselect, h]

theorem Dev.nfcDeselect_active {d : Dev} {i : Nat} {t : TagEnt} (h : d.nfcActive = some i) (ht : d.nfc.tags[i]? = some t) :
    d.nfcDeselect = d.setTagEnt i { t with state := 3 } := by
  simp only [Dev.nfcDeselect, h, ht]

/-- Without an ACTIVE tag the field goes off two seconds after the last item. -/
theorem Dev.nfcFieldIdle_off {d : Dev} (hon : d.flag NFC_STAT_field_on = true) (hfree : d.nfc.waiting = none) (hactive : d.nfcActive = none)
    (htime : d.nfc.lastDone + 2 * cclkPerS ≤ d.cclk) : d.nfcFieldIdle = d.nfcFieldOff := by
  have hdue : (!d.flag NFC_STAT_field_on || d.nfc.waiting.isSome || decide (d.cclk < d.nfc.lastDone + 2 * cclkPerS)) = false := by
    rw [hon, hfree, decide_eq_false (by omega)]
    rfl
  simp only [Dev.nfcFieldIdle, hactive, Option.isSome_none, Bool.false_eq_true, if_false, hdue, Dev.nfcDeselect_none hactive]

theorem Dev.nfcExtTimeout_due {d : Dev} {t : Nat} (hwait : d.nfc.waiting = some t) (hext : d.flag NFC_STAT_ext_field = true)
    (htime : t + 100 * cclkPerMs ≤ d.cclk) : d.nfcExtTimeout = (d.raise 983 0 1).nfcEnd .busy 0 := by
  simp only [Dev.nfcExtTimeout, hwait, hext, decide_eq_true htime, Bool.and_self, if_true]

theorem Dev.nfcSessionTimeout_due {d : Dev} {t : Nat} (hwait : d.nfc.waiting = some t) (hsession : d.isl.session.isSome = true)
    (htime : t + 2 * cclkPerS ≤ d.cclk) : d.nfcSessionTimeout = d.nfcEnd .busy 0 := by
  simp only [Dev.nfcSessionTimeout, hwait, hsession, decide_eq_true htime, Bool.and_self, if_true]

/-! ### Poll, activation, exchange (R451, R454, R455) -/

/-- A poll of Type A where every tag keeps the anticollision and all fit the table. -/
theorem Dev.poll_typeA {d : Dev} {tags : List NfcTag} (left : Nat) (hgood : (orderA tags).any (·.bad) = false) (hfit : (orderA tags).length ≤ 8) :
    d.poll 1 tags left = ((orderA tags).length, d.setNfc { d.nfc with tags := (orderA tags).map (fun t => { tag := t }) }) := by
  have hbad : (orderA tags).filter (·.bad) = [] := by
    rw [List.filter_eq_nil_iff]
    simpa using hgood
  have hall : (orderA tags).filter (fun t => !t.bad) = orderA tags := by
    rw [List.filter_eq_self]
    simpa using hgood
  have htypeA : (1 : Nat).testBit 0 = true := rfl
  have htypeB : (1 : Nat).testBit 1 = false := rfl
  have hpoll : d.pollTags 1 tags = (orderA tags, d) := by
    simp only [Dev.pollTags, htypeA, htypeB, if_true, hbad, List.foldl_nil, hall, Bool.false_eq_true, if_false, List.append_nil]
  simp only [Dev.poll, hpoll, List.take_of_length_le hfit, if_neg (Nat.not_lt.mpr hfit), htypeB, Bool.false_eq_true, false_and, if_false]

theorem Dev.nfcPoll_typed {d : Dev} (ext : Bool) {p : List Byte} (tags : List NfcTag) (left : Nat) (hlen : 8 ≤ p.length) (htypes : leAt p 4 1 = 1)
    (hzero : leAt p 5 3 = 0) :
    d.nfcPoll ext p tags left = d.nfcField ext (fun d => (d.poll 1 tags left).2.nfcEnd .ok (d.poll 1 tags left).1) := by
  have hgood : ¬(p.length < 8 ∨ 3 < leAt p 4 1 ∨ leAt p 5 3 ≠ 0) := by omega
  rw [Dev.nfcPoll, if_neg hgood, htypes]

theorem Dev.nfcActivate_answered {d : Dev} (ext : Bool) {p : List Byte} {i : Nat} {t : TagEnt} {a : List Byte} {crcBad : Bool} (hlen : 8 ≤ p.length)
    (hi : i = leAt p 4 1) (htop : leAt p 5 1 ≤ 3) (hzero : leAt p 6 2 = 0) (ht : d.nfc.tags[i]? = some t) (hactive : d.nfcActive = none)
    (hon : d.flag NFC_STAT_field_on = true) (hgood : answerBad t.tag a crcBad = false) :
    d.nfcActivate ext p [] false (some a) crcBad =
      ((d.setTagEnt i { t with state := 2, rate := tagRate (rateByte t.tag a) (leAt p 5 1), ats := padTo 16 a }).raise 981 i
        (leAt t.tag.uid 0 4)).nfcEnd .ok a.length := by
  subst hi
  have hform : ¬(p.length < 8 ∨ 3 < leAt p 5 1 ∨ leAt p 6 2 ≠ 0) := by omega
  have hquiet : (false || decide (3 ≤ transmissions [])) = false := rfl
  simp only [Dev.nfcActivate, ht, if_neg hform, Dev.nfcField_on _ _ hon, Dev.nfcDeselect_none hactive, Dev.nfcTrouble, List.foldl_nil, hquiet,
    Bool.false_eq_true, if_false, Dev.nfcActivateTag, hgood]

theorem Dev.nfcExchange_answered {d : Dev} {b p a : List Byte} (hst : d.exchangeStatus b p = .ok) (hfit : a.length ≤ leAt p 8 2) :
    d.nfcExchange b p [] false (some a) =
      (d.hwStore 0xFE (sbBase + leAt p 4 4) a).2.nfcEnd (d.hwStore 0xFE (sbBase + leAt p 4 4) a).1
        (if (d.hwStore 0xFE (sbBase + leAt p 4 4) a).1 = .ok then a.length else 0) := by
  have hquiet : (false || decide (3 ≤ transmissions [])) = false := rfl
  simp only [Dev.nfcExchange, hst, ne_eq, not_true_eq_false, if_false, Dev.nfcTrouble, List.foldl_nil, hquiet, Bool.false_eq_true,
    Dev.exchangeResponse, List.take_of_length_le hfit, if_neg (Nat.not_lt.mpr hfit)]
  by_cases hstore : (d.hwStore 0xFE (sbBase + leAt p 4 4) a).1 = .ok
  · simp only [hstore, not_true_eq_false, if_false, if_true]
  · simp only [hstore, not_false_eq_true, if_true, if_false]

/-- The first ping gives the reference: nothing to differ from, and no detuning (R457). -/
theorem Dev.nfcPing_first {d : Dev} (amp phase : Nat) (tags : List NfcTag) (left : Nat) (hen : d.nfcEnabled = true)
    (hlpcd : d.flag NFC_LPCD_en = true) (hoff : d.flag NFC_STAT_field_on = false) (hfree : d.nfc.waiting = none) (hsession : d.isl.session = none)
    (htime : d.nfc.pingAt + max 1 (d.rd NFC_LPCD_period_ms) * cclkPerMs ≤ d.cclk) (hpings : d.nfc.pings = []) :
    d.nfcPing amp phase false tags left =
      (d.setNfc { d.nfc with pingAt := d.cclk, far := 0, pings := [(amp, phase)] }).wr NFC_STAT_detune 0 := by
  have hdue : (!d.nfcEnabled || !d.flag NFC_LPCD_en || d.flag NFC_STAT_field_on || d.nfc.waiting.isSome || d.isl.session.isSome ||
      decide (d.cclk < d.nfc.pingAt + max 1 (d.rd NFC_LPCD_period_ms) * cclkPerMs)) = false := by
    rw [hen, hlpcd, hoff, hfree, hsession, decide_eq_false (by omega)]
    rfl
  have hnear (x permille : Nat) : deviates x [] permille = false := rfl
  have hzero : unsigned 16 (detuneOf amp []) = 0 := by
    have hquot (n : Int) : divFree n 0 = 0 := if_pos rfl
    rw [detuneOf, List.foldl_nil, Nat.cast_zero, hquot]
    rfl
  simp only [Dev.nfcPing, hdue, Bool.false_eq_true, if_false, hpings, List.map_nil, hnear, Bool.or_self, hzero]
  rfl

/-! ### The island: field, frames and sessions (R458, R460) -/

theorem Dev.islFieldOn_listening {d : Dev} (hlistens : d.islListens = true) (hfield : d.isl.field = false) :
    d.islFieldOn =
      let x := d.draw .random
      let y := x.2.draw .random
      { y.2 with isl := { d.isl with rng := leBytes x.1 16, field := true, uid := 0x08 :: leBytes y.1 3, proto := 0, halted := false
                                     selected := false, noted := false } } := by
  rw [Dev.islFieldOn, if_neg (by simp [hlistens, hfield])]
  rfl

/-- A REQA in IDLE is answered with the ATQA. -/
theorem Dev.islTypeA_request {d : Dev} (hlistens : d.islListens = true) (hfield : d.isl.field = true) (hidle : d.isl.proto = 0) :
    d.islTypeA [0x26] 7 = (d.setIsl { d.isl with proto := 1, halted := false }).emit (.island [0x04, 0x00]) := by
  have hanswer : d.isl.typeA [0x26] 7 = ({ d.isl with proto := 1, halted := false }, [0x04, 0x00]) := by
    simp only [Isl.typeA, if_true, hidle, true_or]
    rfl
  simp only [Dev.islTypeA, hlistens, hfield, Bool.not_true, Bool.or_self, Bool.false_eq_true, if_false, hanswer]
  rfl

theorem Dev.islPps_accepted {d : Dev} (hlistens : d.islListens = true) (hfield : d.isl.field = true) (hproto : d.isl.proto = 4) :
    d.islPps 0 0 = d.emit (.island (withCrcA [0xD0])) := if_pos (by simp [hlistens, hfield, hproto])

theorem Dev.islSessionEnd_none {d : Dev} (h : d.isl.session = none) : d.islSessionEnd = d := by
  simp only [Dev.islSessionEnd, h]

theorem Dev.islReport_held (d : Dev) : d.islReport.isl.held = d.isl.held := rfl

theorem Dev.raise_isl (d : Dev) (src p0 p1 p2 : Nat) : (d.raise src p0 p1 p2).isl = d.isl := by
  obtain ⟨x, h⟩ := d.raise_eq src p0 p1 p2
  rw [h]

/-- A session ends at main power with no update held back. -/
theorem Dev.islSessionEnd_reported {d : Dev} {k : Nat} (hsession : d.isl.session = some k) (hpow : d.sys.powered = true) (hheld : d.isl.held = false) :
    d.islSessionEnd = ((d.setIsl { d.isl with session := none }).raise 984 0 1).islReport := by
  have hkept : (((d.setIsl { d.isl with session := none }).raise 984 0 1).islReport).isl.held = false := by
    rw [Dev.islReport_held, Dev.raise_isl]
    exact hheld
  have hon : (d.setIsl { d.isl with session := none }).sys.powered = true := hpow
  simp only [Dev.islSessionEnd, hsession, hon, if_true, hkept, Bool.false_eq_true, if_false]

/-! ### The island's commands (R461 to R465) -/

/-- The effect of an accepted APDU, by its command (R461 to R465). -/
def Dev.islServe (d : Dev) (row : Nat) (a : Apdu) (cut : Option (Nat × Bool)) : Dev :=
  match row with
  | 1 => d.islSelect
  | 2 => d.islRead a
  | 3 => d.islStatus
  | _ => d.islNote a.data cut

section
variable {d : Dev} {row : Nat} {b : List Byte} {mv : Nat} {cut : Option (Nat × Bool)} (hlistens : d.islListens = true)
  (hfield : d.isl.field = true) (hproto : d.isl.proto = 4) (hrow : (parseApdu b).kind = row)
include hlistens hfield hproto hrow

/-- An APDU of the row's command, with every file's CRC as it was: what its status word makes of it. -/
theorem Dev.islApdu_own :
    d.islApdu row b false mv cut =
      if d.isl.word (parseApdu b) mv = 0x6581 then
        (d.setIsl { d.isl with failed := if d.isl.failed.contains (parseApdu b).p1 then d.isl.failed else (parseApdu b).p1 :: d.isl.failed }).islAnswer []
          (d.isl.word (parseApdu b) mv)
      else if d.isl.word (parseApdu b) mv ≠ 0x9000 then d.islRefuse (d.isl.word (parseApdu b) mv)
      else d.islServe row (parseApdu b) cut := by
  subst hrow
  have hacts : (!d.islListens || !d.isl.field || d.isl.proto != 4 ||
      ((parseApdu b).kind != 0 && (parseApdu b).kind != (parseApdu b).kind)) = false := by
    simp [hlistens, hfield, hproto]
  unfold Dev.islApdu
  simp only [hacts, Bool.false_eq_true, if_false, Bool.false_and]
  rfl

theorem Dev.islApdu_accepted (hword : d.isl.word (parseApdu b) mv = 0x9000) :
    d.islApdu row b false mv cut = d.islServe row (parseApdu b) cut := by
  rw [Dev.islApdu_own hlistens hfield hproto hrow, hword]
  rfl

theorem Dev.islApdu_refused (hword : d.isl.word (parseApdu b) mv ≠ 0x9000) (hcrc : d.isl.word (parseApdu b) mv ≠ 0x6581) :
    d.islApdu row b false mv cut = d.islRefuse (d.isl.word (parseApdu b) mv) := by
  rw [Dev.islApdu_own hlistens hfield hproto hrow, if_neg hcrc, if_pos hword]

end

/-- The SELECT of the application. -/
def selectBytes : List Byte := [0x00, 0xA4, 0x04, 0x00, 0x07] ++ islAid

theorem parseApdu_selectBytes : parseApdu selectBytes = { cla := 0, ins := 0xA4, p1 := 4, p2 := 0, data := islAid, le := 0, bad := false } := by rfl

/-- It is well formed in every state. -/
theorem Isl.word_selectBytes (x : Isl) (mv : Nat) : x.word (parseApdu selectBytes) mv = 0x9000 := by
  rw [parseApdu_selectBytes]
  rfl

theorem Dev.islSelect_first {d : Dev} (h : d.isl.session = none) :
    d.islSelect = (d.setIsl { d.isl with selected := true, session := some d.isl.bank, sessions := satAdd 65535 d.isl.sessions 1 }).emit
      (.apdu [0x90, 0x00]) := by
  simp only [Dev.islSelect, Dev.islSessionEnd_none h]
  rfl

theorem Dev.islRead_answer (d : Dev) (a : Apdu) :
    d.islRead a = d.emit (.apdu (((d.isl.file a.p1).drop (leValue a.data)).take a.le ++
      (if ((d.isl.file a.p1).drop (leValue a.data)).length < a.le then [0x62, 0x82] else [0x90, 0x00]))) := by
  unfold Dev.islRead
  dsimp only
  split
  next hshort =>
    rw [List.take_of_length_le (Nat.le_of_lt hshort)]
    rfl
  · rfl

/-- The first note: page 0, sequence number 1. -/
theorem Dev.islNote_first {d : Dev} (text : List Byte) (hpow : d.sys.powered = true) (hmark : d.isl.mark = none) :
    d.islNote text none =
      let x := d.isl
      let page := notePage 1 text
      let y := { x with
        pages := x.pages.set 0 page []
        noted := true
        marks := x.marks.set x.nextMark { seq := 1, page := 0, crc := leAt page 136 4 } { seq := 0, page := 2, crc := 0 }
        nextMark := (x.nextMark + 1) % 64 }
      ((d.setIsl y).raise 985 0 1).emit (.apdu [0x90, 0x00]) := by
  have hseq : d.isl.noteSeq = 0 := by simp only [Isl.noteSeq, hmark]
  simp only [Dev.islNote, hmark, hseq, hpow, if_true]
  rfl

/-- A command of the island gives its effect with main power or without. -/
theorem Gives.of_always {c : Instr} {s : State} {f : Dev → Dev} (g : Dev → Dev) (hexec : exec c s = s.always g)
    (heff : g s.dev.cleared = f s.dev.cleared) : Gives c s f := by
  rw [Gives, hexec, State.always_eq, heff]

/-- Settles O54: the reader's items through `Dev.nfcItem_served`, the island's commands through `Dev.islApdu_own`; each clause is then
one case of the operation. -/
theorem contactlessCompletes : Obligations.ContactlessCompletes := by
  refine ⟨?items, ?idle, ?extTimeout, ?sessionTimeout, ?ping, ?fieldOn, ?typeA, ?pps, ?select, ?read, ?status, ?note, ?noteRefused, ?haltDeselect,
    ?fieldLost, ?halt, ?noteData⟩
  case items =>
    rintro s b _ d0 hon hen htake rfl
    refine ⟨?poll, ?pollWaits, ?activate, ?exchange, ?deselect, ?fieldOff, ?unknown⟩
    case poll =>
      intro ext tags left hcode hlen htypes hzero hfield hgood hfit
      refine Gives.of_act (fun d => d.nfcItem 1 { ext := ext, tags := tags, left := left }) hon rfl ?_
      rw [Dev.nfcItem_poll (d := s.dev.cleared) _ hen htake hcode, Dev.nfcPoll_typed _ _ _ hlen htypes hzero, Dev.nfcField_on _ _ hfield,
        Dev.poll_typeA left hgood hfit]
      rfl
    case pollWaits =>
      intro tags left hcode hlen htypes hzero hfield
      refine Gives.of_act (fun d => d.nfcItem 1 { ext := true, tags := tags, left := left }) hon rfl ?_
      rw [Dev.nfcItem_poll (d := s.dev.cleared) _ hen htake hcode, Dev.nfcPoll_typed _ _ _ hlen htypes hzero, Dev.nfcField_external _ hfield]
      rfl
    case activate =>
      intro ext i t a crcBad hcode hlen hi htop hzero ht hactive hfield hgood
      refine Gives.of_act (fun d => d.nfcItem 2 { ext := ext, fails := [], late := false, ans := some a, crcBad := crcBad }) hon rfl ?_
      rw [Dev.nfcItem_activate (d := s.dev.cleared) _ hen htake hcode, Dev.nfcActivate_answered ext hlen hi htop hzero ht hactive hfield hgood]
      rfl
    case exchange =>
      intro a hcode hst hfit
      refine Gives.of_act (fun d => d.nfcItem 3 { fails := [], late := false, ans := some a }) hon rfl ?_
      rw [Dev.nfcItem_exchange (d := s.dev.cleared) _ hen htake hcode, Dev.nfcExchange_answered hst hfit]
    case deselect =>
      intro i t hcode hactive ht
      refine Gives.of_act (fun d => d.nfcItem 4 {}) hon rfl ?_
      rw [Dev.nfcItem_deselect (d := s.dev.cleared) _ hen htake hcode, Dev.nfcDeselect_active hactive ht]
      rfl
    case fieldOff =>
      intro hcode
      refine Gives.of_act (fun d => d.nfcItem 5 {}) hon rfl ?_
      rw [Dev.nfcItem_fieldOff (d := s.dev.cleared) _ hen htake hcode]
      rfl
    case unknown =>
      intro hcode
      refine Gives.of_act (fun d => d.nfcItem 5 {}) hon rfl ?_
      rw [Dev.nfcItem_unknown (d := s.dev.cleared) _ hen htake 5 hcode]
  case idle =>
    exact fun s hon hfield hfree hactive htime => Gives.of_act (fun d => d.nfcFieldIdle) hon rfl
      (Dev.nfcFieldIdle_off (d := s.dev.cleared) hfield hfree hactive htime)
  case extTimeout =>
    exact fun s t hon hwait hext htime => Gives.of_act (fun d => d.nfcExtTimeout) hon rfl
      (Dev.nfcExtTimeout_due (d := s.dev.cleared) hwait hext htime)
  case sessionTimeout =>
    exact fun s t hon hwait hsession htime => Gives.of_act (fun d => d.nfcSessionTimeout) hon rfl
      (Dev.nfcSessionTimeout_due (d := s.dev.cleared) hwait hsession htime)
  case ping =>
    exact fun s amp phase tags left hon hen hlpcd hoff hfree hsession htime hpings =>
      Gives.of_act (fun d => d.nfcPing amp phase false tags left) hon rfl
        (Dev.nfcPing_first (d := s.dev.cleared) amp phase tags left hen hlpcd hoff hfree hsession htime hpings)
  case fieldOn =>
    exact fun s hlistens hfield => Gives.of_always Dev.islFieldOn rfl (Dev.islFieldOn_listening (d := s.dev.cleared) hlistens hfield)
  case typeA =>
    exact fun s hlistens hfield hidle => Gives.of_always (fun d => d.islTypeA [0x26] 7) rfl
      (Dev.islTypeA_request (d := s.dev.cleared) hlistens hfield hidle)
  case pps =>
    exact fun s hlistens hfield hproto => Gives.of_always (fun d => d.islPps 0 0) rfl
      (Dev.islPps_accepted (d := s.dev.cleared) hlistens hfield hproto)
  case select =>
    intro s mv hlistens hfield hproto hsession
    refine Gives.of_always (fun d => d.islApdu 1 selectBytes false mv none) rfl ?_
    exact (Dev.islApdu_accepted (d := s.dev.cleared) hlistens hfield hproto rfl (Isl.word_selectBytes _ mv)).trans
      (Dev.islSelect_first hsession)
  case read =>
    rintro s b mv _ _ hlistens hfield hproto rfl hkind hword rfl
    exact Gives.of_always (fun d => d.islApdu 2 b false mv none) rfl
      ((Dev.islApdu_accepted (d := s.dev.cleared) hlistens hfield hproto hkind hword).trans (Dev.islRead_answer _ _))
  case status =>
    rintro s b mv _ hlistens hfield hproto rfl hkind hword
    exact Gives.of_always (fun d => d.islApdu 3 b false mv none) rfl
      ((Dev.islApdu_accepted (d := s.dev.cleared) hlistens hfield hproto hkind hword).trans rfl)
  case note =>
    rintro s b mv _ hon hlistens hfield hproto rfl hkind hword hmark
    exact Gives.of_always (fun d => d.islApdu 4 b false mv none) rfl
      ((Dev.islApdu_accepted (d := s.dev.cleared) hlistens hfield hproto hkind hword).trans (Dev.islNote_first _ hon hmark))
  case noteRefused =>
    rintro s b mv _ _ hlistens hfield hproto rfl hkind rfl hword hcrc
    exact Gives.of_always (fun d => d.islApdu 4 b false mv none) rfl
      (Dev.islApdu_refused (d := s.dev.cleared) hlistens hfield hproto hkind hword hcrc)
  case haltDeselect =>
    intro s hproto hsession
    refine Gives.of_always (fun d => d.islEnd 0) rfl ?_
    rw [Dev.islEnd, if_pos (by decide), if_pos (show s.dev.cleared.isl.proto = 4 from hproto)]
    exact Dev.islSessionEnd_none hsession
  case fieldLost =>
    intro s hsession
    refine Gives.of_always (fun d => d.islEnd 2) rfl ?_
    rw [Dev.islEnd, if_neg (by decide), Dev.islFieldLost, Dev.islSessionEnd_none (d := s.dev.cleared) hsession]
    rfl
  case halt =>
    intro s b hon hproto hsession hheld
    refine Gives.of_always (fun d => d.islEnd 1) rfl ?_
    rw [Dev.islEnd, if_pos (by decide), if_pos (show s.dev.cleared.isl.proto = 4 from hproto)]
    exact Dev.islSessionEnd_reported hsession hon hheld
  case noteData =>
    rintro s r _ hacc rfl
    exact Gives.of_readAct (b := .nfc) (inst := 0) (g := Dev.nfcNoteNext) hacc rfl (by decide) (by decide) rfl rfl

end Sys2Proof.Machine
end

section
/-! SUPPORT. The Isdin fabric: links, flits, time transfer, discovery, items and their map, and O56 (R481, R483 to R486, R489, R491 to R493,
R495, R498, R499, R504). -/

namespace Sys2Proof.Machine

open Sys2Proof

/-! ### A link's state -/

theorem Dev.linkState_isdStat (d : Dev) (p q i : Nat) : (d.isdStat q i).linkState p = d.linkState p := rfl

theorem Dev.linkState_setLink (d : Dev) (p q : Nat) (l : IsdLink) : (d.setLink q l).linkState p = d.linkState p := rfl

theorem Dev.isdSide_isdStat (d : Dev) (p q i : Nat) : (d.isdStat q i).isdSide p = d.isdSide p := rfl

theorem Dev.isdMassif_isdStat (d : Dev) (side q i : Nat) : (d.isdStat q i).isdMassif side = d.isdMassif side := rfl

theorem Dev.isd_wr (d : Dev) (f : Fld) (v k q : Nat) : (d.wr f v k q).isd = d.isd := rfl

theorem Dev.link_wr (d : Dev) (f : Fld) (v k q p : Nat) : (d.wr f v k q).link p = d.link p := by
  rw [Dev.link, Dev.isd_wr, Dev.link]

/-- The peer's node number stands in the register of the state, beside it. -/
theorem Dev.linkState_peerNode (d : Dev) (p v : Nat) : (d.wr ISD_LINKp_peer_node v p).linkState p = d.linkState p :=
  Dev.rd_wr_other d ISD_LINKp_peer_node ISD_LINKp_state v p 0 p 0 (by decide) (by decide) rfl (.inr (by decide))

/-- A link that is not UP sends no IDLE flit. -/
theorem Dev.isdIdle_down {d : Dev} {p : Nat} (h : d.linkState p = 2) : d.isdIdle p = d := by
  have hdown : d.linkUpNow p = false := decide_eq_false (by omega)
  simp only [Dev.isdIdle, hdown, Bool.false_and, Bool.false_eq_true, if_false]

theorem Dev.isdAlign_free {d : Dev} {p : Nat} (hen : d.flag STATUS_enabled 0 pgISD = true) (hport : d.portEnabled p = true)
    (hmode : d.portMode p = 6) (hstate : d.linkState p ≤ 1) (hrope : d.ropePos = 0) :
    d.isdAlign p =
      let x := (d.setLink p { helloAt := d.cclk, timeAt := d.cclk }).wr ISD_LINKp_state 2 p
      x.wr ISD_LINKp_col_port (x.isdSide p) p :=
  if_pos (by simp [hen, hport, hmode, hstate, hrope])

/-! ### Receiving (R484, R485) -/

section
variable {d : Dev} {p kind : Nat} {f : Flit} (k : Dev → Flit → Dev) (hkind : f.kind = kind)
include hkind

/-- A good flit outside the sequence on a link in training. -/
theorem Dev.isdReceive_training (hstate : d.linkState p = 2) (hlow : kind < 7) (hfree : sequencedKind kind = false) (hcrc : f.crcOk = true) :
    d.isdReceive p kind f k = (k (d.isdStat p 1) f).isdIdle p := by
  subst hkind
  have hdown : (d.isdStat p 1).linkUpNow p = false := by
    rw [Dev.linkUpNow, Dev.linkState_isdStat, hstate]
    rfl
  simp only [Dev.isdReceive, hstate, Nat.lt_irrefl, if_false, ne_eq, not_true_eq_false, false_and, hcrc, Bool.not_true, Bool.false_eq_true, hdown,
    if_neg (Nat.not_le.mpr hlow), hfree, Bool.not_false, if_true]

/-- A bad flit outside the sequence. -/
theorem Dev.isdReceive_bad (hstate : 2 ≤ d.linkState p) (hfree : sequencedKind kind = false) (hcrc : f.crcOk = false) :
    d.isdReceive p kind f k = ((d.isdStat p 1).isdStat p 2).isdRec p 0x1001 3 f.lseq := by
  subst hkind
  simp only [Dev.isdReceive, if_neg (Nat.not_lt.mpr hstate), ne_eq, not_true_eq_false, false_and, if_false, hcrc, Bool.not_false, if_true, hfree,
    Bool.false_and, Bool.false_eq_true]

variable {d1 : Dev} (hstate : d.linkState p = 4) (hlow : kind < 7) (hcrc : f.crcOk = true) (hd1 : d1 = ((d.isdStat p 1).isdAck p f).isdSend p)
include hstate hlow hcrc hd1

/-- A good flit on an UP link: its acknowledgement first, then what its kind does. -/
theorem Dev.isdReceive_up :
    d.isdReceive p kind f k =
      if !sequencedKind kind then (k d1 f).isdIdle p
      else if !d1.linkUpNow p then d1
      else if f.lseq ≠ ((d1.link p).rx + 1) % 65536 then d1.isdGap p f
      else if getN (d1.link p).peer f.vc = 0 then (d1.isdRec p 0x1006 5 f.vc).linkFail p
      else
        let d2 := d1.setLink p { d1.link p with
          rx := f.lseq, gap := false, nakAt := d1.cclk
          peer := (d1.link p).peer.set f.vc (getN (d1.link p).peer f.vc - 1)
          owed := (d1.link p).owed.set f.vc (getN (d1.link p).owed f.vc + 1) }
        ((if d2.linkState p == 4 || f.vc == 3 then k d2 f else d2).isdRetry).isdIdle p := by
  subst hkind
  have hup : (d.isdStat p 1).linkUpNow p = true := by
    rw [Dev.linkUpNow, Dev.linkState_isdStat, hstate]
    rfl
  have hopen : ¬d.linkState p < 2 := by omega
  unfold Dev.isdReceive
  simp only [if_neg hopen, ne_eq, not_true_eq_false, false_and, if_false, hcrc, Bool.not_true, Bool.false_eq_true, hup, if_true,
    if_neg (Nat.not_le.mpr hlow), ← hd1]

theorem Dev.isdReceive_unsequenced (hfree : sequencedKind kind = false) : d.isdReceive p kind f k = (k d1 f).isdIdle p := by
  rw [Dev.isdReceive_up k hkind hstate hlow hcrc hd1, hfree]
  rfl

variable (hseq : sequencedKind kind = true) (hstate1 : d1.linkState p = 4)
include hseq hstate1

/-- The next flit of the sequence, whose channel has credit. -/
theorem Dev.isdReceive_next (hnext : f.lseq = ((d1.link p).rx + 1) % 65536) (hcredit : getN (d1.link p).peer f.vc ≠ 0) {d2 : Dev}
    (hd2 : d2 = d1.setLink p { d1.link p with
      rx := f.lseq, gap := false, nakAt := d1.cclk
      peer := (d1.link p).peer.set f.vc (getN (d1.link p).peer f.vc - 1)
      owed := (d1.link p).owed.set f.vc (getN (d1.link p).owed f.vc + 1) }) :
    d.isdReceive p kind f k = ((k d2 f).isdRetry).isdIdle p := by
  have hup : d1.linkUpNow p = true := decide_eq_true (by omega)
  have hopen : d2.linkState p = 4 := by rw [hd2, Dev.linkState_setLink, hstate1]
  rw [Dev.isdReceive_up k hkind hstate hlow hcrc hd1]
  simp only [hseq, hup, Bool.not_true, Bool.false_eq_true, if_false, if_neg (not_not_intro hnext), if_neg hcredit, ← hd2, hopen, beq_self_eq_true,
    Bool.true_or, if_true]

/-- A flit out of order, while a NAK for the gap stands. -/
theorem Dev.isdReceive_gap (hother : f.lseq ≠ ((d1.link p).rx + 1) % 65536) (hgap : (d1.link p).gap = true) :
    d.isdReceive p kind f k = d1.isdRec p 0x1001 3 f.lseq := by
  have hup : d1.linkUpNow p = true := decide_eq_true (by omega)
  have hkept : ((d1.isdRec p 0x1001 3 f.lseq).link p).gap = true := by
    obtain ⟨x, h⟩ := d1.rated_eq pgISD 0x1001 p 3 p f.lseq 0x7F
    rw [Dev.isdRec, h]
    exact hgap
  rw [Dev.isdReceive_up k hkind hstate hlow hcrc hd1]
  simp only [hseq, hup, Bool.not_true, Bool.false_eq_true, if_false, if_pos hother, Dev.isdGap, hkept, if_true]

end

/-! ### HELLO (R491) -/

/-- The first acceptable HELLO, whose sender has not accepted one yet. -/
theorem Dev.helloIn_first {d : Dev} {p : Nat} {b : List Byte} (hstate : d.linkState p = 2) (hlen : b.length = 0x40) (hmagic : leAt b 0 2 = 0x1501)
    (hmassif : leAt b 0x36 1 = d.isdMassif (d.isdSide p)) (hother : leAt b 0x3D 1 ≠ 1) (hgot : (d.link p).got = false) :
    d.helloIn p b =
      let x := d.wr ISD_LINKp_peer_node (bitsOf (leAt b 0x34 2) 11 6) p
      x.setLink p { x.link p with
        uid := slice b 4 16, addr := leAt b 0x34 2, got := true, credit := [leAt b 0x38 1, leAt b 0x39 1, leAt b 0x3A 1, leAt b 0x3B 1] } := by
  have hdown : d.linkUpNow p = false := decide_eq_false (by omega)
  have hdown' : (d.wr ISD_LINKp_peer_node (nodeOf (leAt b 0x34 2)) p).linkUpNow p = false := by
    rw [Dev.linkUpNow, Dev.linkState_peerNode, hstate]
    rfl
  have hfour (g : Nat → Nat) : (List.range 4).map g = [g 0, g 1, g 2, g 3] := rfl
  have hform : ¬(b.length ≠ 0x40 ∨ leAt b 0 2 ≠ 0x1501) := by omega
  unfold Dev.helloIn
  simp only [if_neg hform, if_neg (not_not_intro hmassif), hdown, Bool.false_eq_true, false_and, if_false, hdown', hgot, if_neg hother,
    Dev.link_wr, hfour]
  rfl

/-! ### Resending (R485) -/

section
variable {d : Dev} {p : Nat} {h : HeldFlit} (hheld : (d.link p).held = [h])
include hheld

/-- One flit that waits for its acknowledgement, within its budget. -/
theorem Dev.isdResend_one (htries : h.tries < 3) (htime : d.cclk ≤ h.firstAt + 2 * cclkPerUs) :
    d.isdResend p =
      (((d.setLink p { d.link p with held := [{ h with tries := h.tries + 1, lastAt := d.cclk }] }).isdEmit p { h.f with resent := true }).bump
        ISD_LINKp_resent 1 p).qStat 0 := by
  have hbudget : (decide (3 ≤ h.tries) || decide (h.firstAt + 2 * cclkPerUs < d.cclk)) = false := by
    rw [decide_eq_false (Nat.not_le.mpr htries), decide_eq_false (Nat.not_lt.mpr htime)]
    rfl
  simp only [Dev.isdResend, hheld, List.isEmpty_cons, Bool.false_eq_true, if_false, List.any_cons, List.any_nil, hbudget, Bool.or_self, List.map_cons,
    List.map_nil, List.foldl_cons, List.foldl_nil]

theorem Dev.isdResend_spent (htries : 3 ≤ h.tries) : d.isdResend p = d.linkFail p := by
  simp only [Dev.isdResend, hheld, List.isEmpty_cons, Bool.false_eq_true, if_false, List.any_cons, decide_eq_true htries, Bool.true_or, if_true]

theorem Dev.isdAckTimeout_due (hup : d.linkUpNow p = true) (htime : h.lastAt + 400 ≤ d.cclk) : d.isdAckTimeout p = d.isdResend p := by
  simp only [Dev.isdAckTimeout, hheld, hup, decide_eq_true htime, Bool.and_self, if_true]

end

/-! ### Timers and the election (R489, R493) -/

theorem Dev.isdNakRepeat_due {d : Dev} {p : Nat} (hup : d.linkUpNow p = true) (hgap : (d.link p).gap = true)
    (htime : (d.link p).nakAt + 400 ≤ d.cclk) : d.isdNakRepeat p = d.isdNakOut p :=
  if_pos (by simp [hup, hgap, htime])

theorem Dev.isdElection_due {d : Dev} {reqs : List (List Byte × Nat)} (hen : d.flag STATUS_enabled 0 pgISD = true) (hstood : d.isd.stood = false)
    (htime : d.isd.changedAt + 2 * cclkPerMs ≤ d.cclk)
    (hcol : (({ d with isd := { d.isd with stood := true } } : Dev).elect 0 reqs).flag ISD_COL_en = false) :
    d.isdElection reqs = ({ d with isd := { d.isd with stood := true } } : Dev).elect 0 reqs := by
  have hdue : (!d.flag STATUS_enabled 0 pgISD || d.isd.stood || decide (d.cclk < d.isd.changedAt + 2 * cclkPerMs)) = false := by
    rw [hen, hstood, decide_eq_false (Nat.not_lt.mpr htime)]
    rfl
  have hcol' : ((d.setIsd { d.isd with stood := true }).elect 0 reqs).flag ISD_COL_en = false := hcol
  simp only [Dev.isdElection, hdue, Bool.false_eq_true, if_false, hcol']
  rfl

/-! ### Admission (R492) -/

/-- Without the port admission of R492 a write of the admission register opens and refuses nothing. -/
theorem Dev.isdAdmit_off {d : Dev} (v : Nat) (h : d.flag ISD_CFG_admit = false) : d.isdAdmit v = (.ok, (d.plainWrite pgISD 0x050 v).2) := by
  have hkept : (d.plainWrite pgISD 0x050 v).2.flag ISD_CFG_admit = false := by
    rw [Dev.flag, Dev.rd, Dev.plainWrite_word_ne d pgISD 0x050 v (by decide)]
    exact h
  have hfold (l : List Nat) (g : Dev → Nat → Dev) (x : Dev) (hx : ∀ n, g x n = x) : l.foldl g x = x := by
    induction l with
    | nil => rfl
    | cons n l ih => rw [List.foldl_cons, hx, ih]
  unfold Dev.isdAdmit
  refine congrArg (Prod.mk Status.ok) (hfold _ _ _ fun n => ?_)
  simp only [hkept, Bool.false_and, Bool.false_eq_true, if_false]

/-! ### Items (R486, R498, R499) -/

/-- A queue that ISD serves, while ISD sends. -/
theorem Dev.isdItem_sends {d : Dev} {n : Nat} (hkind : (d.q n).consKind = 3) (hid : (d.q n).consId = 1) (hsends : d.isdSends = true) :
    ¬((d.q n).consKind ≠ 3 ∨ (d.q n).consId ≠ 1 ∨ (!d.isdSends) = true) := by
  simp [hkind, hid, hsends]

section
variable {d d0 : Dev} {n i : Nat} {b : List Byte} (hkind : (d.q n).consKind = 3) (hid : (d.q n).consId = 1) (hsends : d.isdSends = true)
  (hclaim : d.isdClaim n 65536 = (some (b, i), d0))
include hkind hid hsends hclaim

/-- An item with an entry in the map goes to its destination. -/
theorem Dev.isdItem_mapped {e : Nat × Nat} (hmap : d0.xmapOf n = some e) : d.isdItem n = d0.isdExport n i b e.2 := by
  simp only [Dev.isdItem, if_neg (Dev.isdItem_sends hkind hid hsends), hclaim, hmap]

/-- An item of the return queue goes to its origin. -/
theorem Dev.isdItem_returned (hmap : d0.xmapOf n = none) (hret : d.rd ISD_CFG2_ret_q = n) : d.isdItem n = d0.isdReturned n b i := by
  simp only [Dev.isdItem, if_neg (Dev.isdItem_sends hkind hid hsends), hclaim, hmap, if_pos hret.symm]

/-- Any other item is voided and ends with ST_ABORTED. -/
theorem Dev.isdItem_unmapped (hmap : d0.xmapOf n = none) (hret : d.rd ISD_CFG2_ret_q ≠ n) :
    d.isdItem n =
      let x := (d0.voidSlot n ((d0.q n).cons + i)).isdRec 0 0x100D 3 n
      (x.completeAt n i 0xFE Status.aborted.code 0).isdFree n 65536 := by
  simp only [Dev.isdItem, if_neg (Dev.isdItem_sends hkind hid hsends), hclaim, hmap, if_neg (Ne.symm hret)]

end

theorem Dev.isdReassembly_due {d : Dev} {j : Nat} {x : IsdPart} (hx : d.isd.parts[j]? = some x) (htime : x.at_ + cclkPerMs ≤ d.cclk) :
    d.isdReassembly j = (d.setIsd { d.isd with parts := d.isd.parts.eraseIdx j }).isdStat x.port 5 := by
  simp only [Dev.isdReassembly, hx, if_pos htime]

theorem Dev.isdVc1Late_due {d : Dev} {p t : Nat} (hfrom : (d.link p).vc1From = some t)
    (htime : t + max 1 (d.rd ISD_CFG_vc1_late) * cclkPerUs ≤ d.cclk) :
    d.isdVc1Late p =
      ((d.setLink p { d.link p with waiting := withoutVc1 (d.link p).waiting, vc1From := none }).isdStat p 6).vc1Note p := by
  simp only [Dev.isdVc1Late, hfrom, if_neg (Nat.not_lt.mpr htime)]

/-! ### The map of outgoing queues (R498) -/

/-- Another entry of the map names the source queue of the staged words. -/
def Dev.xmapTwice (d : Dev) (k w0 : Nat) : Bool :=
  w0.testBit 31 && d.isd.xmap.any (fun e => e.1 != k && e.2.1.testBit 31 && bitsOf e.2.1 13 0 == bitsOf w0 13 0)

section
variable {d : Dev} (hzero : bitsOf (d.rdWord ISD_XMAP_W1_dst) 21 16 = 0)
include hzero

theorem Dev.xmapCommit_once (honce : d.xmapTwice (d.rd ISD_XMAP_SEL_entry) (d.rdWord ISD_XMAP_W0_valid) = false) :
    d.xmapCommit = (.ok, d.setIsd { d.isd with
      xmap := d.isd.xmap.set (d.rd ISD_XMAP_SEL_entry) (d.rdWord ISD_XMAP_W0_valid, d.rdWord ISD_XMAP_W1_dst) (0, 0) }) := by
  have hst : pickStatus [Status.ok, Status.ok] = .ok := rfl
  rw [Dev.xmapTwice] at honce
  simp only [Dev.xmapCommit, Dev.xmapSel, honce, hzero, ne_eq, not_true_eq_false, Bool.false_eq_true, if_false, hst]

theorem Dev.xmapCommit_twice (htwice : d.xmapTwice (d.rd ISD_XMAP_SEL_entry) (d.rdWord ISD_XMAP_W0_valid) = true) :
    d.xmapCommit = (.duplicate, d) := by
  have hst : pickStatus [Status.ok, Status.duplicate] = .duplicate := rfl
  rw [Dev.xmapTwice] at htwice
  simp only [Dev.xmapCommit, Dev.xmapSel, htwice, hzero, ne_eq, not_true_eq_false, if_false, if_true, hst, reduceCtorEq, not_false_eq_true]

end

/-- Settles O56: each clause is its function of the fabric at the branch that the clause's hypotheses pick; the flits go through
`Dev.isdReceive_up`. -/
theorem isdinCompletes : Obligations.IsdinCompletes := by
  refine ⟨?align, ?down, ?hello, ?helloBad, ?helloTimer, ?flits, ?resent, ?failed, ?nakRepeat, ?timeTimer, ?topoTimer, ?election, ?admission, ?items,
    ?reassembly, ?vc1Late, ?commit, ?invalidateRead⟩
  case align =>
    exact fun s p hon hen hport hmode hstate hrope => Gives.of_act (fun d => d.isdAlign p) hon rfl
      (Dev.isdAlign_free (d := s.dev.cleared) hen hport hmode hstate hrope)
  case down => exact fun s p hon hstate => Gives.of_act (fun d => d.isdLinkDown p) hon rfl (if_neg hstate)
  case hello =>
    rintro s p f _ hon hstate hkind hcrc rfl hlen hmagic hmassif hother hgot
    refine Gives.of_act (fun d => d.isdHello p f) hon rfl ?_
    have hstat : (s.dev.cleared.isdStat p 1).linkState p = 2 := hstate
    have hside : leAt f.payload 0x36 1 = (s.dev.cleared.isdStat p 1).isdMassif ((s.dev.cleared.isdStat p 1).isdSide p) := by
      rw [Dev.isdSide_isdStat, Dev.isdMassif_isdStat]
      exact hmassif
    refine (Dev.isdReceive_training (d := s.dev.cleared) _ hkind hstate (by decide) rfl hcrc).trans ?_
    rw [Dev.helloIn_first hstat hlen hmagic hside hother hgot]
    exact Dev.isdIdle_down (by rw [Dev.linkState_setLink, Dev.linkState_peerNode, hstat])
  case helloBad =>
    exact fun s p f hon hstate hkind hcrc => Gives.of_act (fun d => d.isdHello p f) hon rfl
      (Dev.isdReceive_bad (d := s.dev.cleared) _ hkind (Nat.le_of_eq hstate.symm) rfl hcrc)
  case helloTimer =>
    exact fun s p hon hstate htime => Gives.of_act (fun d => d.isdHelloTimer p) hon rfl (if_pos ⟨hstate, htime⟩)
  case flits =>
    intro s p f d1 hon hstate hcrc hd1
    refine ⟨?idle, ?nak, ?time, ?next, ?gap⟩
    case idle =>
      exact fun hkind => Gives.of_act (fun d => d.isdIdleIn p f) hon rfl
        (Dev.isdReceive_unsequenced (d := s.dev.cleared) _ hkind hstate (by decide) hcrc hd1 rfl)
    case nak =>
      intro hkind hup
      refine Gives.of_act (fun d => d.isdNak p f) hon rfl ?_
      refine (Dev.isdReceive_unsequenced (d := s.dev.cleared) _ hkind hstate (by decide) hcrc hd1 rfl).trans ?_
      exact congrArg (fun x : Dev => x.isdIdle p) (if_pos hup)
    case time =>
      intro hkind hup off age
      refine Gives.of_act (fun d => d.isdTime p f off age) hon rfl ?_
      refine (Dev.isdReceive_unsequenced (d := s.dev.cleared) _ hkind hstate (by decide) hcrc hd1 rfl).trans ?_
      exact congrArg (fun x : Dev => x.isdIdle p) (if_pos hup)
    case next =>
      intro hstate1 hnext hcredit d2 hd2
      refine ⟨fun hkind => ?_, fun hkind => ?_, fun hkind => ?_⟩
      · exact Gives.of_act (fun d => d.isdData p f) hon rfl
          (Dev.isdReceive_next (d := s.dev.cleared) _ hkind hstate (by decide) hcrc hd1 rfl hstate1 hnext hcredit hd2)
      · exact Gives.of_act (fun d => d.isdTopo p f) hon rfl
          (Dev.isdReceive_next (d := s.dev.cleared) _ hkind hstate (by decide) hcrc hd1 rfl hstate1 hnext hcredit hd2)
      · exact Gives.of_act (fun d => d.isdRouteFlit p f) hon rfl
          (Dev.isdReceive_next (d := s.dev.cleared) _ hkind hstate (by decide) hcrc hd1 rfl hstate1 hnext hcredit hd2)
    case gap =>
      exact fun hkind hstate1 hother hgap => Gives.of_act (fun d => d.isdData p f) hon rfl
        (Dev.isdReceive_gap (d := s.dev.cleared) _ hkind hstate (by decide) hcrc hd1 rfl hstate1 hother hgap)
  case resent =>
    exact fun s p h hon hup hheld htime htries hbudget => Gives.of_act (fun d => d.isdAckTimeout p) hon rfl
      ((Dev.isdAckTimeout_due (d := s.dev.cleared) hheld hup htime).trans (Dev.isdResend_one hheld htries hbudget))
  case failed =>
    exact fun s p h hon hup hheld htime htries => Gives.of_act (fun d => d.isdAckTimeout p) hon rfl
      ((Dev.isdAckTimeout_due (d := s.dev.cleared) hheld hup htime).trans (Dev.isdResend_spent hheld htries))
  case nakRepeat =>
    exact fun s p hon hup hgap htime => Gives.of_act (fun d => d.isdNakRepeat p) hon rfl
      (Dev.isdNakRepeat_due (d := s.dev.cleared) hup hgap htime)
  case timeTimer =>
    rintro s p off eighths _ fabric _ hon hup htime rfl rfl
    refine Gives.of_act (fun d => d.isdTimeTimer p off eighths fabric) hon rfl (if_pos ?_)
    rw [Bool.and_eq_true]
    exact ⟨hup, decide_eq_true htime⟩
  case topoTimer =>
    intro s hon hen htime
    refine Gives.of_act (fun d => d.isdTopoTimer) hon rfl (if_pos ?_)
    rw [Bool.and_eq_true]
    exact ⟨hen, decide_eq_true htime⟩
  case election =>
    exact fun s reqs hon hen hstood htime hcol => Gives.of_act (fun d => d.isdElection reqs) hon rfl
      (Dev.isdElection_due (d := s.dev.cleared) hen hstood htime hcol)
  case admission =>
    exact fun s r v hacc hoff => Effects.of_blockWrite (b := .isd) (inst := 0) v.toNat hacc rfl rfl (by decide) rfl
      (Dev.isdAdmit_off (d := s.dev.cleared) v.toNat hoff)
  case items =>
    intro s n b i d0 hon hkind hid hrole hclaim
    have hsends : s.dev.cleared.isdSends = true := by
      rw [Dev.isdSends, Bool.or_eq_true, Bool.and_eq_true, Bool.not_eq_true']
      exact hrole
    refine ⟨fun e hmap => ?_, fun hmap hret => ?_, fun hmap hret => ?_⟩
    · exact Gives.of_act (fun d => d.isdItem n) hon rfl (Dev.isdItem_mapped (d := s.dev.cleared) hkind hid hsends hclaim hmap)
    · exact Gives.of_act (fun d => d.isdItem n) hon rfl (Dev.isdItem_returned (d := s.dev.cleared) hkind hid hsends hclaim hmap hret)
    · exact Gives.of_act (fun d => d.isdItem n) hon rfl (Dev.isdItem_unmapped (d := s.dev.cleared) hkind hid hsends hclaim hmap hret)
  case reassembly =>
    exact fun s j x hon hx htime => Gives.of_act (fun d => d.isdReassembly j) hon rfl
      (Dev.isdReassembly_due (d := s.dev.cleared) hx htime)
  case vc1Late =>
    exact fun s p t hon hfrom htime => Gives.of_act (fun d => d.isdVc1Late p) hon rfl
      (Dev.isdVc1Late_due (d := s.dev.cleared) hfrom htime)
  case commit =>
    rintro s r _ _ _ hacc rfl rfl rfl hzero
    refine ⟨fun honce => ?_, fun htwice => ?_⟩
    · exact Effects.of_blockWrite (b := .isd) (inst := 0) 1 hacc rfl rfl (by decide) rfl
        (Dev.xmapCommit_once (d := s.dev.cleared) hzero honce)
    · exact TurnedAway.of_blockWrite (b := .isd) (inst := 0) 1 hacc rfl rfl (by decide) rfl
        (Dev.xmapCommit_twice (d := s.dev.cleared) hzero htwice)
  case invalidateRead =>
    rintro s r _ hacc rfl
    exact ⟨Effects.of_blockWrite (b := .isd) (inst := 0) 2 hacc rfl rfl (by decide) rfl rfl,
      Effects.of_blockWrite (b := .isd) (inst := 0) 3 hacc rfl rfl (by decide) rfl rfl⟩

end Sys2Proof.Machine
end
